-- ==== Sys2Proof/Word.lean ====
section
/-!
DEFINITION. The word, byte and line types of the PX-9618, and the one sparse-table type in which every
addressed store of the model is held (registers, Tack, Hem, media pages, caches, the swatch map ...).
-/
namespace Sys2Proof

/-- A register of the window (R58): 32 bits. -/
abbrev Word := BitVec 32

/-- A byte of a Pattern, of Tack, of Hem, of spool memory. -/
abbrev Byte := BitVec 8

/-- A sparse table: (key, value) pairs with strictly rising keys and no entry equal to what an unlisted key
reads as. The operations that read it and keep this form are in Machine/Ops.lean. -/
abbrev Tab (α : Type) := List (Nat × α)

/-- A line: 64 bytes with its carry tag (R27, R282), whether it is stored poisoned (R301), and the source that Get
Poison List reports for a poisoned line (R376): 0 internal, 1 external, 2 injected. -/
structure Line where
  data   : BitVec 512 := 0
  tag    : BitVec 64 := 0
  poison : Bool := false
  origin : Nat := 0
deriving DecidableEq, Repr

end Sys2Proof
end

