-- ==== Sys2Proof/Syntax.lean ====
section
/-!
DEFINITION. The commands of the block: one constructor per row of spec/opcode_table.json. The table gives its rows
no operands and no bits; the operands here are the model's (log 10): what the environment brings with the
event (a message, a reading, an outcome of cited cryptography) or which of several instances it concerns.
Masters `m` are the rights sets 0-37 of Table 10-10; slots are cartridge slots 0-31; addresses of media are PSAs.
-/
namespace Sys2Proof

/-- The blocks of Table 02-9. -/
inductive Block where
  | top | pws | thm | kps | hmp | int | pmc | grp | hpt | vlk | car | lin | pcu | xlt | med | coh | cip | scb | spl
  | slc | dbg
deriving DecidableEq, Repr

/-- MetaValue of a CXL.mem request (07, Requests to HDM-DB lines). -/
inductive MetaValue where
  | invalid | any | shared
deriving DecidableEq, Repr

/-- CXL.mem requests without data (Table 07-3). -/
inductive ReqOp where
  | read | memInv | clnEvct
deriving DecidableEq, Repr

/-- How a message came in: well formed, or a violation of kinds 6 to 9 of Table 11-6. -/
inductive MsgForm where
  | good | malformed | creditOverflow | flitCrc | badTlp | unsupportedTlp | cacheMsg
deriving DecidableEq, Repr

/-- An M2S Req message. -/
structure M2SReq where
  ld   : Nat
  tag  : Nat
  op   : ReqOp := .read
  mv   : MetaValue := .invalid
  hpa  : Nat
  form : MsgForm := .good
deriving DecidableEq, Repr

/-- An M2S RwD message: a write with its byte enables (bit n enables byte n; all ones is a full-line write). -/
structure M2SRwD where
  ld     : Nat
  tag    : Nat
  mv     : MetaValue := .invalid
  hpa    : Nat
  data   : BitVec 512
  be     : BitVec 64 := BitVec.allOnes 64
  poison : Bool := false
  form   : MsgForm := .good
deriving DecidableEq, Repr

/-- Responses to back-invalidate snoops (R236). -/
inductive BIRsp where
  | i | s | e
deriving DecidableEq, Repr

/-- What the local code of an HBM block or SRAM line reported (R293 to R296). -/
inductive Health where
  | good | corrected | uncorrectable
deriving DecidableEq, Repr

/-- What the HBM and SRAM reads of one request's stage 3 reported. -/
structure HbmRead where
  /-- The Lining tag cache missed: the Lining probe settles later, by PROBE_HIT or by the media data (R73). -/
  tagMiss  : Bool := false
  tagBlock : Health := .good
  /-- Line slots of the set that are uncorrectable when its tag block is recovered (R222). -/
  badWays  : List Nat := []
  /-- The line slot, staging slot or Pincushion line that the probe hits. -/
  lineSlot : Health := .good
  mapBlock : Health := .good
  bucket   : Health := .good
  thimble  : Health := .good
  /-- The two copies of a Pincushion swatch number of the slice differ (R223): the entry concerned. -/
  pcuCopies : Option Nat := none
deriving DecidableEq, Repr

/-- One HBM block as the patrol or a rebuild reads it (R296): region index 0-9 in the order of Table 01-11. -/
structure HbmBlock where
  stack  : Nat
  region : Nat
  block  : Nat
  health : Health
deriving DecidableEq, Repr

/-- What a cartridge sensed of one line slot: the bits in which the cells differ from the codeword stored. -/
structure Sensed where
  errors : BitVec 720 := 0
  /-- Status of the command (12): 0 unless the cartridge refused or failed it. Judged for a raw read only. -/
  status : Nat := 0
deriving DecidableEq, Repr

/-- A row that miscompared in the fill test (R300), and whether a repair resource is left for it. -/
structure RowTest where
  stack      : Nat
  channel    : Nat
  bank       : Nat
  row        : Nat
  repairable : Bool
deriving DecidableEq, Repr

/-- A ledger entry (Table 05-3). CHECK is computed when the entry is laid out as bytes. -/
structure LedgerEntry where
  state      : Nat := 0
  role       : Nat := 0
  series     : Nat := 0xFF
  position   : Nat := 0
  frame      : Nat := 0
  parityAt   : Nat := 0
  parityNext : Nat := 0xFFFF
  aliasTo    : Nat := 0xFFFFFFFF
  resets     : Nat := 0
  ageFirst   : Nat := 0
deriving DecidableEq, Repr

/-- How a host link trained (R355, R356). -/
structure TrainedLink where
  /-- Rate code of HPT.LINK_STATUS.SPEED. -/
  speed   : Nat
  width   : Nat
  flit256 : Bool
  lopt    : Bool
  cxl     : Bool
deriving DecidableEq, Repr

/-- An HDM decoder (R362). -/
structure HdmDecoder where
  base  : Nat
  size  : Nat
  ways  : Nat
  gran  : Nat
  skip  : Nat := 0
  bi    : Bool := false
deriving DecidableEq, Repr



/-! ### Cartridges: what one holds, and what comes over its link (12) -/

/-- A directory entry of a patch page (Table 04-3). -/
structure DirEntry where
  line    : Nat
  delta   : Nat
  epoch   : Nat
  keyId   : Nat
  poison  : Bool
  val     : Line
  /-- The range was unmapped while the patch was in flight (R128): dropped when the program verifies. -/
  dropped : Bool := false
  /-- Write-through request that this patch completes (R82). -/
  req     : Option Nat := none
deriving DecidableEq, Repr

/-- Selvage of a media page (Table 04-4); CHECK is held as whether it holds. -/
structure Selvage where
  typ    : Nat
  swatch : Nat := 0
  seq    : Nat := 0
  keyId  : Nat := 0
  epoch  : Nat := 0
  stripe : Nat := 0
  age    : Nat := 0
  poison : BitVec 64 := 0
  check  : Bool := true
deriving DecidableEq, Repr

/-- A line slot of a programmed page: the plain line it was written from, the value of the key that encrypted it,
its key ID and epoch, and the bits in which its cells have been damaged since. -/
structure MLine where
  val    : Line := {}
  keyId  : Nat := 0
  epoch  : Nat := 0
  key    : BitVec 512 := 0
  damage : BitVec 720 := 0
deriving DecidableEq, Repr

/-- A swatch map entry (Table 04-1). -/
structure MapEntry where
  psa     : Nat := 0x3FFFFFFFF
  present : Bool := false
  poison  : Bool := false
deriving DecidableEq, Repr

/-- A journal record (Table 04-8). -/
inductive JRec where
  | mapSet (swatch psa stamp : Nat) (poison : Bool)
  | unmap (swatch count stamp : Nat)
  | regionImage (copy : Bool) (region psa stamp : Nat)
  | clock (mclk stamp : Nat)
deriving DecidableEq, Repr

/-- A programmed media page (R144). The lines of a metadata page follow from its other fields (`Codes.lean`); its entries in `lines` hold damage only. -/
structure Page where
  selv  : Selvage
  lines : Tab MLine := []
  /-- Directory of a patch page. -/
  dir   : List DirEntry := []
  /-- Roster of a directory page (bolts), members of a parity or basting page (PSAs), page index of a checkpoint page within its image, the fields of a summary page's
  line slot 32 (bolt, RESETS, FRAME, SERIES, first AGE, last AGE, valid pages) with the granules after them. -/
  refs  : List Nat := []
  /-- Records of a journal page, and the first of them whose CHECK fails (R130). -/
  recs  : List JRec := []
  badRec : Option Nat := none
  /-- Map entries of a checkpoint page; of region 1,023 its seal-table entries (R182). -/
  map   : Tab MapEntry := []
  seals : Tab (BitVec 64) := []
deriving DecidableEq, Repr

/-- A slot of a key store wrapped by another device (R326): whether it holds a key, its epoch, its key check value. -/
structure StoredSlot where
  held  : Bool := false
  epoch : Nat := 0
  check : Nat := 0
deriving DecidableEq, Repr

/-- What a key store wrapped by another device tells (R326). -/
structure ForeignStore where
  slots    : Tab StoredSlot := []
  bindings : Tab Nat := []
deriving DecidableEq, Repr

/-- A region image (R131) with its pages in order. -/
structure Image where
  region  : Nat
  copy    : Bool
  start   : Nat
  pages   : List Nat := []
deriving DecidableEq, Repr

/-- States of Table 07-5. -/
inductive ExtState where
  | offered | active | releasing
deriving DecidableEq, Repr

/-- A dynamic capacity extent (R250): base and length in bytes; the LDs offered and those that accepted. -/
structure Extent where
  id       : Nat
  base     : Nat
  len      : Nat
  ldMask   : Nat
  accepted : Nat := 0
  state    : ExtState := .offered
  secure   : Bool := false
  /-- Bolts whose resets a secure release awaits (R252). -/
  bolts    : List Nat := []
deriving DecidableEq, Repr

/-- The anchor record (R134): the newest images, the journal bolts in order, the roster, the replay start, the sequence counter, the media clock, the device time of its pair, the
serial number of the cartridge adopted at each slot (R410). `check`: its page check passes. Beside it stands the extent table (R251). -/
structure Anchor where
  images   : List Image := []
  journal  : List Nat := []
  roster   : List Nat := []
  replay   : Nat := 0
  seq      : Nat := 0
  mclk     : Nat := 0
  pairTime : Nat := 0
  serials  : Tab Nat := []
  extents  : List Extent := []
  check    : Bool := true
deriving DecidableEq, Repr

/-- A cartridge being seated: `same` if it is the one last seated in the slot, with what it held then; otherwise its ledger, keyed
4096 die + bolt, and its programmed pages, keyed 8192 (4096 die + bolt) + page, and the anchor record of
its reserved area (R134). -/
structure SeatedCart where
  same   : Bool
  ledger : Tab LedgerEntry := []
  pages  : Tab Page := []
  store  : Option ForeignStore := none
  anchor : Option Anchor := none
deriving DecidableEq, Repr

/-- The fields of an intact flit that every received flit carries (Table 12-1): SEQ, ACK, CREDIT; `fec`: the FEC corrected it; `fault`: 2 where its TYPE is reserved or
not permitted to a cartridge, 3 where it is a CTRL flit of an unknown opcode, 5 where a field is out of range or a reserved field is set (Table 12-3), else 0. -/
structure FlitHead where
  seq    : Nat
  ack    : Nat
  credit : Nat := 0
  fec    : Bool := false
  fault  : Nat := 0
deriving DecidableEq, Repr

/-- A HELLO payload from a cartridge (R400). -/
structure HelloMsg where
  nonce   : Nat
  keyId   : Nat
  model   : Nat
  serial  : Nat
  credits : Nat
deriving DecidableEq, Repr

/-! ### Mailbox and group -/

/-- Alert thresholds that a Set Alert Configuration carries (R375): which are valid and enabled, and their values. -/
structure AlertCfg where
  valid  : Nat
  enable : Nat
  vals   : List Nat
deriving DecidableEq, Repr

/-- A roll-call record (Table 15-2); `crcOk`: its CRC holds. -/
structure RollCall where
  groupId   : Nat
  fprint    : Nat := 0
  time      : Nat := 0
  corr      : Nat := 0
  index     : Nat := 0
  state     : Nat := 0
  pf        : Bool := false
  fromGroup : Bool := false
  stepping  : Nat := 0
  hops      : Nat := 0
  version   : Nat := 0
  crcOk     : Bool := true
deriving DecidableEq, Repr


/-! ### Configuration and CXL registers of a host port -/

/-- What a configuration or CXL-register request of a host changes: nothing that a rule of this specification reads; whether its back-invalidate messages
are routed (R229); the Mailbox Control interrupt of an LD (R381); the mask bit of an MSI-X vector; an HDM decoder that is uncommitted. -/
inductive CfgWrite where
  | none
  | biRoute (on : Bool)
  | errorsClear
  | mailboxIrq (ld : Nat) (on : Bool)
  | vectorMask (ld vec : Nat) (masked : Bool)
  | decoderClear (ld i : Nat)
deriving DecidableEq, Repr

/-- The commands, in the order of spec/opcode_table.json. -/
inductive Instr where
  /-- PACE_SAMPLE (R13): Every 1 µs the supervisor samples the 64 pace monitors and takes the lowest reading among those not excluded as the governed pace. -/
  | paceSample (readings : List Nat)
  /-- MONITOR_EXCLUDED (R14): A monitor that has differed from its neighbours' median by more than 25 % for 1,000 consecutive samples is excluded, and source 40 fires. -/
  | monitorExcluded (n : Nat)
  /-- GOVERNOR_DECISION (R16): Every 20 µs the governor compares the governed pace with the target and raises, lowers or keeps the CORE voltage. -/
  | governorDecision
  /-- PACE_LOW_DECLARED (R21): After 5 consecutive samples below the pace floor, the device declares pace-low, reduces admission limits and applies the degraded bounds. -/
  | paceLowDeclared
  /-- PACE_COLLAPSE (R22): After 5 consecutive samples below 400, COLLAPSE is set, source 5 fires and no latency bound is guaranteed. -/
  | paceCollapse
  /-- COLLAPSE_END (R22): After 5 consecutive samples at or above 400, COLLAPSE clears and the degraded bounds apply again. -/
  | collapseEnd
  /-- PACE_LOW_END (R23): After the pace has stayed at or above 825 for 1 ms, pace-low ends, normal admission limits are restored and source 41 fires. -/
  | paceLowEnd
  /-- AVS_ACKNOWLEDGE (R25): The CORE regulator acknowledges an AVSBus command or reports a status error; a success clears AVS_HOLD, and an error resends the command. -/
  | avsAcknowledge (ok : Bool)
  /-- AVS_ACK_TIMEOUT (R25): No acknowledge arrives within 5 µs; the command is resent, and after three failures AVS_HOLD is set and source 42 fires. -/
  | avsAckTimeout
  /-- AVS_HOLD_RETRY (R25): While AVS_HOLD is set, the governor retries the last command every 10 ms. -/
  | avsHoldRetry
  /-- ISLAND_BRIDGE_ROOM (R10): A full island bridge gains room, and the waiting writer resumes or returns its withheld credits. -/
  | islandBridgeRoom (bridge : Nat)
  /-- AUX33_RISE (R441): AUX33 enters its operating range, and the supervisor begins to wake. -/
  | aux33Rise
  /-- SUPERVISOR_WAKE (R441): The supervisor loads its trims, arms the edge latches, starts device time and opens the SMBus endpoint. -/
  | supervisorWake (shadowBad : Bool)
  /-- PATTERN_LOAD (R44): The reading of both flash slots completes; the slots are validated, a slot is chosen and the supervisor blocks are loaded. -/
  | patternLoad (flashOk readA readB : Bool)
  /-- CORE_RELEASE (R442): After the regulator acknowledges VMAX, the core is released, the core blocks are loaded, the governor starts and the HBM and host branches begin. -/
  | coreRelease
  /-- HBM_TRAINING_DONE (R442): HBM PHY training completes on both stacks and the fill begins, or the start fails with cause 4. -/
  | hbmTrainingDone (ok0 : Bool) (ok1 : Bool)
  /-- HBM_FILL_DONE (R299): The HBM initialization fill, with its optional test, completes, and DONE sets. -/
  | hbmFillDone (rows : List RowTest)
  /-- CARTRIDGE_DISCOVERY_DONE (R442): Link bring-up and adoption are decided for every present slot, and step 5 completes. -/
  | cartridgeDiscoveryDone
  /-- WAITING_REEVALUATE (R448): Once every second a waiting start cause is evaluated again, and the start resumes when the cause has cleared. -/
  | waitingReevaluate
  /-- RECOVERY_STEP_COMPLETE (R135): A step of recovery completes, and the next step of Table 04-9 begins. -/
  | recoveryStepComplete
  /-- SELVAGE_SCAN_COMPLETE (R138): A selvage-scan rebuild finishes, a full checkpoint pass is written and source 167 fires. -/
  | selvageScanComplete
  /-- ERASE_SLOT (R52): PTU command 1 erases the named slot, and is refused if that slot is active. -/
  | eraseSlot (m : Nat)
  /-- PTU_PROGRAM (R52): PTU command 2 programs 256 bytes of PTU_BUF at the page of an inactive slot. -/
  | ptuProgram (m : Nat)
  /-- PTU_READ (R52): PTU command 3 reads 256 bytes of a slot into PTU_BUF. -/
  | ptuRead (m : Nat)
  /-- PTU_VERIFY (R52): PTU command 4 validates a slot and reports its result. -/
  | ptuVerify (m : Nat)
  /-- LIVE_APPLY (R53): PTU command 5 applies the live records of a newer slot whose non-live records match, and makes that slot active. -/
  | liveApply (m : Nat)
  /-- PTU_RESERVED_CMD (R52): PTU command 6 or 7 is refused with result 14. -/
  | ptuReservedCmd (m : Nat) (cmd : Nat)
  /-- PTU_COMMAND_DONE (R52): A flash command completes; DONE and RESULT are set and source 44 fires. -/
  | ptuCommandDone (flashOk readOk : Bool)
  /-- REGISTER_WRITE (R58): A write to a register that has no row of its own passes the rights and bus checks and is applied, or is held in the shadow of a seam-applied register. -/
  | registerWrite (m : Nat) (addr : Nat) (v : Word) (full : Bool)
  /-- MCTP_REGISTER_MESSAGE (R58): An MCTP vendor message reads or writes 1 to 16 consecutive words, stopping at the first error. -/
  | mctpRegisterMessage (m : Nat) (spoolForm : Bool) (write : Bool) (addr : Nat) (words : List Word) (n : Nat)
  /-- SEAM_REACHED (R62): A unit reaches its seam, applies every pending shadow, clears PEND and increments COUNT. -/
  | seamReached (blk : Block) (inst : Nat)
  /-- PWRREQ_ON (R67): TOP.PWRREQ.ON requests a power-up from standby. -/
  | pwrreqOn (m : Nat)
  /-- PWRREQ_OFF (R67): TOP.PWRREQ.OFF requests an orderly flush followed by a power-down. -/
  | pwrreqOff (m : Nat)
  /-- M2S_REQ_RECEIVED (R94): A CXL.mem read request is taken at a host port, decoded, checked for rights and admitted under the read limit. -/
  | m2sReqReceived (port : Nat) (req : M2SReq)
  /-- M2S_RWD_RECEIVED (R94): A CXL.mem write request with data is taken, decoded, tagged and admitted under the write limit. -/
  | m2sRwdReceived (port : Nat) (req : M2SRwD)
  /-- STREAM_TRACKER_EXPIRE (R204): A tracker that has not been advanced for 64 µs returns to count 0. -/
  | streamTrackerExpire (port : Nat) (k : Nat)
  /-- READ_ORDER_POINT (R68): A read enters stage 3 of its slice, takes its place in line order and starts its parallel probes. -/
  | readOrderPoint (rid : Nat) (hbm : HbmRead)
  /-- MAP_ANSWER (R73): The map fetch answers, and the slice issues the media read at once, speculatively if probes are unresolved. -/
  | mapAnswer (rid : Nat)
  /-- PATCH_INDEX_ANSWER (R70): The patch index answers, and the read is issued to the patch or swatch location. -/
  | patchIndexAnswer (rid : Nat)
  /-- PROBE_HIT (R74): A probe hits after a speculative media read was issued; a cancel token is sent and the read is squashed. -/
  | probeHit (rid : Nat) (uncorr : Bool) (left : Bool)
  /-- MEDIA_READ_DATA (R71): Media data returns and is decoded, decrypted and filled into the Lining, or is discarded if the read was squashed. -/
  | mediaReadData (rid : Nat) (sensed : Sensed) (mismatch : Bool) (again : Bool)
  /-- RECONSTRUCTION_START (R92): After the 4 µs deadline, or at once for an unavailable cartridge, quilt reconstruction reads the other members of the stripe. -/
  | reconstructionStart (rid : Nat)
  /-- RECONSTRUCTION_READ_DATA (R93): A reconstruction read returns; when all have arrived they are XORed and decoded, or the line is unrecoverable and source 206 fires. -/
  | reconstructionReadData (rid : Nat) (member : Nat) (sensed : Sensed)
  /-- WRITE_ADMISSION (R98): A write enters the slice write buffer at its order point once the dirty budget has room. -/
  | writeAdmission (rid : Nat) (hbm : HbmRead)
  /-- PARTIAL_WRITE_MERGE (R83): The old line arrives for a partial write; its tag is checked and the merged line is tagged or stored poisoned. -/
  | partialWriteMerge (rid : Nat)
  /-- WRITE_COMMIT (R80): A write commits to the Lining or the Pincushion in HBM, enters the persistence domain and its completion is sent. -/
  | writeCommit (rid : Nat)
  /-- STAGING_WAIT_END (R197): Eviction staging gains room, and a commit or PIN fill that waited proceeds. -/
  | stagingWaitEnd (slice : Nat)
  /-- LAT_CLEAR (R102): SLC.LAT_CTRL.CLEAR sets the slice's maximum read and write latency registers to 0. -/
  | latClear (m : Nat) (slice : Nat)
  /-- EVICTION_RELEASE (R119): A dirty line released for eviction is stored as a patch or queues a full-swatch write. -/
  | evictionRelease (line : Nat)
  /-- SEAL_TIMER_EXPIRE (R116): SEAL_US elapses after a page's first patch, and the page is sealed and programmed. -/
  | sealTimerExpire (psa : Nat)
  /-- PATCH_PAGE_VERIFIED (R117): A patch page verifies; its index entries are inserted, PATCH_PRESENT is set and the staging copies are released. -/
  | patchPageVerified (psa : Nat)
  /-- PATCH_PROGRAM_FAIL (R117): A patch page program fails, and its patches are placed again with new stamps. -/
  | patchProgramFail (psa : Nat)
  /-- DARN_REQUEST (R123): A write to XLT.DARN_REQ_HI queues a darn at priority 4, or holds or discards the request. -/
  | darnRequest (m : Nat) (hi : Word)
  /-- DARN_QUEUE_ROOM (R123): Room appears in the darn queue, and a waiting or held trigger enters it. -/
  | darnQueueRoom
  /-- ASSEMBLY_START (R124): An assembly takes its snapshot stamp and gathers the newest value of every line of its swatch. -/
  | assemblyStart
  /-- ASSEMBLY_PAGE_VERIFIED (R124): The new swatch page verifies, the map is switched and the snapshot's index entries are removed. -/
  | assemblyPageVerified (psa : Nat)
  /-- PATCH_BOLT_RECLAIM (R122): The oldest patch bolt is reclaimed by darning its live patches, forced if needed. -/
  | patchBoltReclaim
  /-- REGION_IMAGE_COMPLETE (R131): A checkpoint region image completes and a REGION_IMAGE record is written. -/
  | regionImageComplete
  /-- CHECKPOINT_LATE (R133): A checkpoint pass exceeds PASS_MAX; LATE is set and source 162 fires. -/
  | checkpointLate
  /-- MEDIA_CLOCK_TICK (R111): The media clock advances by 1 each second while the core runs. -/
  | mediaClockTick
  /-- TIME_PAIR_WRITE (R111): Every 60 s the supervisor writes a time pair to Tack. -/
  | timePairWrite
  /-- MAP_BLOCK_REPAIR_DONE (R140): A map block repair completes and the waiting switches resume. -/
  | mapBlockRepairDone (block : Nat) (scan : Bool) (us : Nat)
  /-- REPAIR_WAIT_TIMEOUT (R141): A read that has waited 6 µs for a repair receives poison, and source 161 fires. -/
  | repairWaitTimeout (rid : Nat)
  /-- PAGE_PROGRAM_VERIFIED (R145): A media page program verifies, and the ledger and frame state advance. -/
  | pageProgramVerified (psa : Nat)
  /-- BASTING_TIMER_EXPIRE (R157): 20 µs after its first page, a basting set closes. -/
  | bastingTimerExpire (slot : Nat)
  /-- PAGE_PROGRAM_FAIL (R167): A failed program abandons the page and moves the bolt to a substitute bolt. -/
  | pageProgramFail (psa : Nat)
  /-- BOLT_RESET_DONE (R164): A bolt reset completes and its ledger entry reads FREE. -/
  | boltResetDone (slot : Nat) (die : Nat) (bolt : Nat)
  /-- BOLT_RESET_FAIL (R168): A bolt whose reset fails is marked RETIRED. -/
  | boltResetFail (slot : Nat) (die : Nat) (bolt : Nat)
  /-- GC_COLLECT (R165): The best candidate frame is collected by copying its valid pages and resetting it. -/
  | gcCollect (group : Nat)
  /-- REFRESH_RUN (R174): A scheduled frame is relocated and reset within the refresh rate cap. -/
  | refreshRun (group : Nat)
  /-- REBUILD_COMPLETE (R190): Rebuild completes, the group returns to normal and source 204 fires. -/
  | rebuildComplete (group : Nat)
  /-- REBUILD_IN_PLACE (R191): SIP_WAIT expires without a replacement, and the group rebuilds into its other cartridges. -/
  | rebuildInPlace (group : Nat)
  /-- AGEING_TICK (R205): REF and AGE of every way and entry are updated, and unaccessed Thimble entries age. -/
  | ageingTick
  /-- PIN_SLICE_FILL (R199): A slice fills its 8 lines of a Pincushion entry and marks the entry valid. -/
  | pinSliceFill (entry : Nat) (slice : Nat)
  /-- CACHE_DISABLE_COMPLETE (R219): No dirty line or staging entry remains; every line is invalidated and source 228 fires. -/
  | cacheDisableComplete (pcu : Bool)
  /-- LIN_CLEAN (R212): LIN.OP_CMD CLEAN releases a dirty line, by DPA or by set and way, for write-back. -/
  | linClean (m : Nat) (bySetWay : Bool)
  /-- LIN_INVALIDATE (R213): LIN.OP_CMD INVALIDATE discards a cached line without write-back, subject to R215. -/
  | linInvalidate (m : Nat) (bySetWay : Bool)
  /-- LIN_CLEAN_INVALIDATE (R212): LIN.OP_CMD CLEAN_INVALIDATE cleans a line and discards it once its write-back is in force. -/
  | linCleanInvalidate (m : Nat) (bySetWay : Bool)
  /-- LIN_LOCK (R208): LIN.OP_CMD LOCK fetches and locks a line, or locks the valid way named. -/
  | linLock (m : Nat) (bySetWay : Bool)
  /-- LIN_UNLOCK (R208): LIN.OP_CMD UNLOCK frees a locked or locked-invalid way. -/
  | linUnlock (m : Nat) (bySetWay : Bool)
  /-- LIN_READ_WAY (R193): LIN.OP_CMD READ_WAY copies the way state into LIN.WAY_STATE. -/
  | linReadWay (m : Nat) (bySetWay : Bool)
  /-- LIN_RESERVED_OP (R215): Operation code 7 ends with result 3. -/
  | linReservedOp (m : Nat) (bySetWay : Bool)
  /-- PCU_CLEAN (R212): PCU.OP_CMD CLEAN cleans all lines of a Pincushion entry. -/
  | pcuClean (m : Nat) (entry : Nat)
  /-- PCU_INVALIDATE (R214): PCU.OP_CMD INVALIDATE discards an entry, leaving it locked-invalid if it was locked. -/
  | pcuInvalidate (m : Nat) (entry : Nat)
  /-- PCU_CLEAN_INVALIDATE (R212): PCU.OP_CMD CLEAN_INVALIDATE cleans and then discards an entry. -/
  | pcuCleanInvalidate (m : Nat) (entry : Nat)
  /-- PCU_LOCK (R208): PCU.OP_CMD LOCK locks a valid entry within the limit of R207. -/
  | pcuLock (m : Nat) (entry : Nat)
  /-- PCU_UNLOCK (R208): PCU.OP_CMD UNLOCK frees a locked entry. -/
  | pcuUnlock (m : Nat) (entry : Nat)
  /-- PCU_RESERVED_OP (R215): Pincushion operation code 6 or 7 ends with result 3. -/
  | pcuReservedOp (m : Nat) (op : Nat) (entry : Nat)
  /-- MAINTENANCE_DONE (R212): Every write-back released by a register operation is in force, and DONE sets. -/
  | maintenanceDone (pcu : Bool)
  /-- BIRSP_RECEIVED (R236): A snoop response updates PRESENCE, and the flow continues once every response has arrived. -/
  | birspReceived (port : Nat) (ld : Nat) (line : Nat) (rsp : BIRsp)
  /-- BICONFLICT_RECEIVED (R237): A BIConflict is answered with BIConflictAck after or before the request's response. -/
  | biconflictReceived (port : Nat) (ld : Nat) (line : Nat)
  /-- CONFLICT_QUEUE_LEAVE (R238): A request leaves the conflict queue when its line is no longer busy and takes its order point. -/
  | conflictQueueLeave (slice : Nat)
  /-- SNOOP_TIMEOUT (R241): A snoop is unanswered after SNP_TIMEOUT; the stall is recorded and source 640 fires. -/
  | snoopTimeout (line : Nat) (ld : Nat)
  /-- SUSPECT_CLEAR (R244): COH.OP GO clears the suspect state of one set or of every set. -/
  | suspectClear (m : Nat) (v : Word)
  /-- SHARER_SWEEP_DONE (R245): The sharer-loss sweep of the Thimble completes, and SWEEP clears. -/
  | sharerSweepDone
  /-- PFW_N_ASSERT (R258): PFW_N is asserted for 1 µs or more, and a power-fail flush is triggered. -/
  | pfwNAssert (ns : Nat) (accepted : Bool)
  /-- FLUSH_ADMISSION_STOP (R259): After the warning window, write admission stops and every dirty line is written as a flush patch. -/
  | flushAdmissionStop
  /-- FLUSH_COMPLETE (R259): The anchor and the clean-flush record are written, and the power-down or reset follows. -/
  | flushComplete
  /-- GPF_PHASE2_REQUEST (R269): A GPF Phase 2 request stops admission and runs the flush steps. -/
  | gpfPhase2Request (port : Nat)
  /-- GPF_COMPLETE (R269): A GPF or group flush completes, admission resumes, responses are sent and source 47 fires. -/
  | gpfComplete
  /-- PORST_N_ASSERT (R271): PORST_N is asserted, which triggers a reset flush when running or is latched during a flush. -/
  | porstNAssert (ns : Nat) (accepted : Bool)
  /-- PORST_N_DEASSERT (R440): PORST_N is deasserted, which begins a start. -/
  | porstNDeassert
  /-- HBM_PATROL (R298): The patrol reads HBM block-code slots once in each PATROL_H period. -/
  | hbmPatrol (ev : HbmBlock) (both : Bool) (sealOf : Option Nat)
  /-- INJ_ARM (R307): SCB.INJ_CTRL.ARM arms an injection with the current point, count, address and mask. -/
  | injArm (m : Nat) (v : Word)
  /-- INJ_DISARM (R307): SCB.INJ_CTRL.DISARM ends the armed injection. -/
  | injDisarm (m : Nat) (v : Word)
  /-- SCRUB_GO (R312): SCB.SCRUB_CMD.GO starts a register-form scrub on device DPA. -/
  | scrubGo (m : Nat) (v : Word)
  /-- SCRUB_LINE (R309): The scrubber reads one line at its scrub order point and counts what it finds. -/
  | scrubLine (rng : Bool) (line : Nat)
  /-- SCRUB_MARK (R311): A candidate line is committed as poisoned in a second step of its slice. -/
  | scrubMark (rng : Bool) (line : Nat)
  /-- SCRUB_COMPLETE (R313): A register-form scrub ends, the summary is left in SCB.SUM and source 133 fires. -/
  | scrubComplete
  /-- DBG_ACCESS_REQUEST (R315): A DBG_ACCESS scan's request takes effect at Update-DR under rights set 37. -/
  | dbgAccessRequest (req : BitVec 64) (busy : Bool)
  /-- DBG_MEM_READ (R316): DBG.MEM_CMD read fetches a line into DBG.MEM_DATA after its tag check. -/
  | dbgMemRead (m : Nat)
  /-- DBG_MEM_WRITE (R316): DBG.MEM_CMD write stores DBG.MEM_DATA as a full-line write. -/
  | dbgMemWrite (m : Nat)
  /-- DBG_MEM_DONE (R316): A debug line access completes with its result. -/
  | dbgMemDone
  /-- DBG_RAW_READ (R317): DBG.RAW_CMD.GO reads the raw cells of a line slot or selvage. -/
  | dbgRawRead (m : Nat) (v : Word)
  /-- DBG_RAW_DONE (R317): A raw read completes, with an optional decode, and DONE sets. -/
  | dbgRawDone (sensed : Sensed)
  /-- SPDM_SESSION_ESTABLISH (R327): A mutually authenticated SPDM session is established under the rights set of its root class. -/
  | spdmSessionEstablish (ok : Bool) (doe : Bool) (ld : Nat) (root : List Byte) (leaf : List Byte)
  /-- SPDM_SESSION_END (R327): A secured session ends, and source 103 fires. -/
  | spdmSessionEnd (sid : Nat)
  /-- SET_CERTIFICATE (R353): SET_CERTIFICATE stores a chain in certificate slot 1 to 3 in Hem. -/
  | setCertificate (sid : Nat) (slot : Nat) (chain : List Byte)
  /-- SPDM_GET_MEASUREMENTS (R353): An SPDM measurement request returns the measurements of Table 10-11. -/
  | spdmGetMeasurements (index : Nat)
  /-- KEY_LOAD (R329): KEY_LOAD unwraps a key, writes the key store and makes the slot ACTIVE. -/
  | keyLoad (sid : Nat) (slot : Nat) (key : Option (BitVec 512)) (wrote : Bool)
  /-- KEY_RETIRE (R331): KEY_RETIRE starts the retirement of a slot. -/
  | keyRetire (sid : Nat) (slot : Nat) (wrote : Bool)
  /-- KEY_QUERY (R328): KEY_QUERY returns the state, usage and epoch of a slot. -/
  | keyQuery (sid : Nat) (slot : Nat)
  /-- HALT_FLUSH (R348): HALT_FLUSH writes the dirty data of a halted device to the cartridges that pass a new key check. -/
  | haltFlush (sid : Nat) (good : List Nat)
  /-- HALT_FLUSH_COMPLETE (R348): The halt flush ends, FLUSH_DONE sets and the counts are returned. -/
  | haltFlushComplete
  /-- HAMPER_CLEAR (R517): HAMPER_CLEAR writes a clear record whose SEQ becomes the horizon. -/
  | hamperClear (sid : Nat)
  /-- KEY_COMMAND_UNKNOWN (R328): A key command with an unknown opcode returns result 2. -/
  | keyCommandUnknown (sid : Nat) (opcode : Nat)
  /-- CIP_KEY_CMD_RETIRE (R561): CIP.KEY_CMD.RETIRE starts, or refuses, the retirement of SLOT. -/
  | cipKeyCmdRetire (m : Nat) (v : Word) (wrote : Bool)
  /-- RETIRE_COMPLETE (R331): After the drain, the slot is zeroized, its epoch incremented and it is written EMPTY; source 98 fires. -/
  | retireComplete
  /-- IDE_KM_KEY_PROGRAM (R336): IDE_KM programs or refreshes the IDE keys of a port. -/
  | ideKmKeyProgram (port : Nat) (mem : Bool) (go : Bool)
  /-- IDE_INTEGRITY_FAIL (R337): A failed IDE check makes the stream Insecure, and source 102 fires. -/
  | ideIntegrityFail (port : Nat) (mem : Bool) (skid : Bool) (lines : List Nat)
  /-- KEYCHK_FLIT_RECEIVED (R343): A key-check flit is compared; a wrong word halts the device. -/
  | keychkFlitReceived (slot : Nat) (h : FlitHead) (word : Nat)
  /-- KEYFAIL_FLIT_RECEIVED (R344): A cartridge's key-check failure indication is treated as a key-check failure. -/
  | keyfailFlitReceived (slot : Nat) (h : FlitHead)
  /-- KEYCHK_SEND (R343): Every 2^20 transmitted flits, each end sends a key-check flit. -/
  | keychkSend (slot : Nat)
  /-- HOST_LINK_UP (R356): A host port trains and negotiates CXL at the highest common rate. -/
  | hostLinkUp (port : Nat) (link : TrainedLink)
  /-- HOST_LINK_DOWN (R368): A host link goes down; its LDs are lost and their pending responses are discarded. -/
  | hostLinkDown (port : Nat)
  /-- PORT_RETRAIN (R356): HPT.LINK_CMD.RETRAIN retrains the link with the settings in force. -/
  | portRetrain (m : Nat) (port : Nat)
  /-- PERST_N_ASSERT (R368): PERST_N[n] is asserted; the port's LDs are lost and the port retrains. -/
  | perstNAssert (port : Nat)
  /-- PERST_N_DEASSERT (R365): PERST_N[n] is deasserted, and the port trains and answers configuration requests. -/
  | perstNDeassert (port : Nat)
  /-- CONFIG_REQUEST (R365): A configuration request is answered, or given CRS before readiness. -/
  | configRequest (port : Nat) (tag : Nat) (w : CfgWrite)
  /-- HDM_DECODER_COMMIT (R363): An HDM decoder commit succeeds or reports Error Not Committed. -/
  | hdmDecoderCommit (ld : Nat) (k : Nat) (dec : HdmDecoder)
  /-- BAR2_ACCESS (R422): A BAR2 access to spool memory is allowed within the owner's window, or denied. -/
  | bar2Access (ld : Nat) (write : Bool) (addr : Nat) (bytes : List Byte) (n : Nat)
  /-- IDENTIFY (R370): The Identify mailbox command returns the device identity. -/
  | identify (ld : Nat)
  /-- IDENTIFY_MEMORY_DEVICE (R370): Identify Memory Device returns the capacity and the limits of the LD. -/
  | identifyMemoryDevice (ld : Nat)
  /-- GET_EVENT_RECORDS (R379): Get Event Records returns records from an event log. -/
  | getEventRecords (ld : Nat) (log : Nat)
  /-- CLEAR_EVENT_RECORDS (R379): Clear Event Records removes records from an event log. -/
  | clearEventRecords (ld : Nat) (log : Nat) (handles : List Nat) (all : Bool)
  /-- GET_EVENT_INTERRUPT_POLICY (R381): Get Event Interrupt Policy returns the vector policy. -/
  | getEventInterruptPolicy (ld : Nat)
  /-- SET_EVENT_INTERRUPT_POLICY (R381): Set Event Interrupt Policy selects the event vector, 2 to 2,047. -/
  | setEventInterruptPolicy (ld : Nat) (vectors : List Nat)
  /-- GET_TIMESTAMP (R373): Get Timestamp returns device time. -/
  | getTimestamp (ld : Nat)
  /-- SET_TIMESTAMP (R373): Set Timestamp sets device time, fires source 58 and writes a Hamper record. -/
  | setTimestamp (ld : Nat) (t : Nat)
  /-- GET_SUPPORTED_LOGS (R378): Get Supported Logs lists the available logs. -/
  | getSupportedLogs (ld : Nat)
  /-- GET_LOG (R378): Get Log returns the Command Effects Log or the vendor Hamper log. -/
  | getLog (ld : Nat) (vendor : Bool) (off : Nat) (len : Nat)
  /-- GET_HEALTH_INFO (R375): Get Health Info reports device-wide health. -/
  | getHealthInfo (ld : Nat)
  /-- GET_ALERT_CONFIGURATION (R375): Get Alert Configuration returns the warning thresholds. -/
  | getAlertConfiguration (ld : Nat)
  /-- SET_ALERT_CONFIGURATION (R375): Set Alert Configuration programs the LD's warning thresholds. -/
  | setAlertConfiguration (ld : Nat) (cfg : AlertCfg)
  /-- GET_LSA (R374): Get LSA reads the LD's label storage area. -/
  | getLsa (ld : Nat) (off : Nat) (len : Nat)
  /-- SET_LSA (R374): Set LSA writes LSA pages and completes when they verify. -/
  | setLsa (ld : Nat) (off : Nat) (bytes : List Byte)
  /-- GET_POISON_LIST (R376): Get Poison List reports lines stored poisoned in a range. -/
  | getPoisonList (ld : Nat) (dpa : Nat) (len : Nat)
  /-- INJECT_POISON (R377): Inject Poison stores a line poisoned, up to 1,024 lines. -/
  | injectPoison (ld : Nat) (dpa : Nat)
  /-- CLEAR_POISON (R377): Clear Poison writes a full line, which clears its poison. -/
  | clearPoison (ld : Nat) (dpa : Nat) (data : BitVec 512)
  /-- SANITIZE (R372): Sanitize securely discards the LD's own regions and clears its LSA. -/
  | sanitize (ld : Nat)
  /-- SECURE_ERASE (R372): Secure Erase securely discards the LD's own regions while they stay decoded. -/
  | secureErase (ld : Nat)
  /-- BACKGROUND_COMMAND_COMPLETE (R369): A background command completes and raises the mailbox interrupt when enabled. -/
  | backgroundCommandComplete (ld : Nat)
  /-- GET_DYNAMIC_CAPACITY_CONFIGURATION (R250): Get Dynamic Capacity Configuration returns the DCD region configuration. -/
  | getDynamicCapacityConfiguration (ld : Nat)
  /-- GET_DYNAMIC_CAPACITY_EXTENT_LIST (R250): Get Dynamic Capacity Extent List returns the LD's extents. -/
  | getDynamicCapacityExtentList (ld : Nat)
  /-- ADD_DYNAMIC_CAPACITY_RESPONSE (R251): The host accepts an offered extent, which becomes Active once persisted. -/
  | addDynamicCapacityResponse (ld : Nat) (ext : Nat)
  /-- RELEASE_DYNAMIC_CAPACITY (R252): The host releases an extent, which moves to Releasing. -/
  | releaseDynamicCapacity (ld : Nat) (ext : Nat)
  /-- GET_DEVICE_STATE (R378): Vendor command 0xC000 returns the device state registers. -/
  | getDeviceState (ld : Nat)
  /-- GET_WEAR_REPORT (R378): Vendor command 0xC001 returns MED.CART_MEDIA of every slot. -/
  | getWearReport (ld : Nat)
  /-- GET_FLUSH_RECORD (R378): Vendor command 0xC002 returns the newest clean-flush payload and TOP.AT_RISK. -/
  | getFlushRecord (ld : Nat)
  /-- GET_GROUP_STATUS (R378): Vendor command 0xC003 returns the interleave group status. -/
  | getGroupStatus (ld : Nat)
  /-- MAILBOX_UNSUPPORTED (R370): A mailbox opcode that is not implemented returns Unsupported. -/
  | mailboxUnsupported (ld : Nat) (opcode : Nat)
  /-- GET_LD_INFO (R361): FM API Get LD Info. -/
  | getLdInfo
  /-- GET_LD_ALLOCATIONS (R361): FM API Get LD Allocations. -/
  | getLdAllocations
  /-- SET_LD_ALLOCATIONS (R361): FM API Set LD Allocations. -/
  | setLdAllocations (granules : List Nat)
  /-- GET_MULTI_HEADED_INFO (R361): FM API Get Multi-Headed Info. -/
  | getMultiHeadedInfo
  /-- GET_DC_REGION_CONFIGURATION (R361): FM API Get DC Region Configuration. -/
  | getDcRegionConfiguration (ld : Nat)
  /-- GET_DC_REGION_EXTENT_LISTS (R361): FM API Get DC Region Extent Lists. -/
  | getDcRegionExtentLists (ld : Nat)
  /-- INITIATE_DYNAMIC_CAPACITY_ADD (R250): The fabric manager offers an extent to LDs. -/
  | initiateDynamicCapacityAdd (ldMask : Nat) (base : Nat) (len : Nat)
  /-- INITIATE_DYNAMIC_CAPACITY_RELEASE (R252): The fabric manager releases, or forces the release of, an extent. -/
  | initiateDynamicCapacityRelease (ext : Nat) (ld : Nat) (forced : Bool)
  /-- BIND_LD (R360): Bind LD binds an LD to a port and writes Hem. -/
  | bindLd (ld : Nat) (port : Nat)
  /-- UNBIND_LD (R360): Unbind LD unbinds an LD, which is then lost. -/
  | unbindLd (ld : Nat)
  /-- GET_BINDINGS (R361): Get Bindings returns the port of each LD. -/
  | getBindings
  /-- SECURE_RELEASE (R361): Secure Release releases an extent by SECURE_DISCARD. -/
  | secureRelease (ext : Nat) (ld : Nat) (forced : Bool)
  /-- RSP_FLIT (R402): A cartridge response flit completes a media or management command with its status. -/
  | rspFlit (slot : Nat) (h : FlitHead) (tag : Nat) (status : Nat) (payload : List Byte)
  /-- DATA_FLIT (R402): A DATA flit carries a part of a command's or response's data. -/
  | dataFlit (slot : Nat) (h : FlitHead) (tag : Nat) (part : Nat)
  /-- NAK_FLIT (R394): A NAK flit requests a replay or reports a violation. -/
  | nakFlit (slot : Nat) (h : FlitHead) (reason : Nat) (count : Nat)
  /-- RETRAIN_TIMEOUT (R397): A link not up again within 100 ms leaves its position out of new frames. -/
  | retrainTimeout (slot : Nat)
  /-- STATUS_FLIT (R408): A STATUS flit reports a cartridge's temperature, failed dies, power and fault flag. -/
  | statusFlit (slot : Nat) (h : FlitHead) (temp : Nat) (failed : Nat) (power : Nat) (flags : Nat)
  /-- STATUS_TIMEOUT (R409): No STATUS flit arrives for 10 ms, and the cartridge's temperature becomes unknown. -/
  | statusTimeout (slot : Nat)
  /-- IDLE_FLIT (R391): An IDLE flit carries the next count and the latest ACK. -/
  | idleFlit (slot : Nat) (h : FlitHead)
  /-- FLIT_CORRUPT (R392): A flit failing FEC or CRC is discarded and a NAK with reason 0 is sent. -/
  | flitCorrupt (slot : Nat) (crc : Bool)
  /-- REPLAY_TIMEOUT (R393): With no ACK advance for 2 µs, the sender replays from the acknowledged count. -/
  | replayTimeout (slot : Nat)
  /-- RESPONSE_TIMEOUT (R394): A command exceeds four times its limit, fails and is counted. -/
  | responseTimeout (slot : Nat) (tag : Nat)
  /-- LANE_SPARING (R398): A failing lane makes the link train at x1 on the surviving lane. -/
  | laneSparing (slot : Nat) (lane : Nat)
  /-- LINK_BRINGUP_TIMEOUT (R399): A link not at step 5 within 1 s retries training, then reports failure with result 10. -/
  | linkBringupTimeout (slot : Nat)
  /-- HELLO (R400): HELLO exchanges nonces and key identifiers, and the session key is formed if they match. -/
  | hello (slot : Nat) (h : FlitHead) (msg : HelloMsg)
  /-- PAIR_PUB (R401): The two ends exchange their ephemeral public keys for pairing. -/
  | pairPub (slot : Nat) (h : FlitHead)
  /-- PAIR_KEY (R401): The device sends the wrapped link key L. -/
  | pairKey (slot : Nat)
  /-- PAIR_OK (R401): The cartridge confirms the stored key with its new identifier, and bring-up resumes. -/
  | pairOk (slot : Nat) (h : FlitHead) (keyId : Nat)
  /-- UNPAIR (R401): UNPAIR returns the cartridge to the zero key. -/
  | unpair (slot : Nat)
  /-- READ_LINE (R402): Cartridge command that reads one line slot codeword under a read-reference set. -/
  | readLine (slot : Nat) (psa : Nat) (lslot : Nat) (refSet : Nat)
  /-- READ_PAGE (R402): Cartridge command that reads the cells of a whole page. -/
  | readPage (slot : Nat) (psa : Nat)
  /-- PROGRAM (R404): Cartridge command that programs and verifies a page, and may be suspended for reads unless NOSUSP is set. -/
  | program (slot : Nat) (psa : Nat)
  /-- RESET (R146): Cartridge command that resets a bolt after incrementing RESETS. -/
  | reset (slot : Nat) (die : Nat) (bolt : Nat)
  /-- LEDGER_READ (R402): Cartridge command that reads ledger entries. -/
  | ledgerRead (slot : Nat) (die : Nat) (first : Nat) (n : Nat)
  /-- LEDGER_WRITE (R403): Cartridge command that stores a ledger entry, ignoring its RESETS field. -/
  | ledgerWrite (slot : Nat) (die : Nat) (bolt : Nat)
  /-- RSV_READ (R403): Cartridge command that reads a block of the reserved area. -/
  | rsvRead (slot : Nat) (block : Nat)
  /-- RSV_WRITE (R403): Cartridge command that writes a block of the reserved area. -/
  | rsvWrite (slot : Nat) (block : Nat) (bytes : List Byte)
  /-- IDENT (R407): Cartridge command that returns the identity record. -/
  | ident (slot : Nat)
  /-- HEALTH (R408): Cartridge command that returns the health record. -/
  | health (slot : Nat)
  /-- SET_RECORD (R410): Cartridge command that writes or clears the set record. -/
  | setRecord (slot : Nat)
  /-- INDICATOR (R418): Cartridge command that sets the indicator state. -/
  | indicator (slot : Nat)
  /-- QUIESCE (R406): Cartridge command that waits for earlier commands and then limits the cartridge to IDENT, HEALTH and INDICATOR. -/
  | quiesce (slot : Nat)
  /-- VLK_RETRAIN (R395): VLK.CMD.RETRAIN retrains a cartridge link and counts as a retrain. -/
  | vlkRetrain (m : Nat) (slot : Nat)
  /-- UNQUARANTINE (R396): VLK.CMD.UNQUARANTINE ends quarantine and clears the retrain history. -/
  | unquarantine (m : Nat) (slot : Nat)
  /-- PRESENCE_CHANGE (R415): A level of CPRSNT_N stable for 50 ms takes effect. -/
  | presenceChange (slot : Nat) (seated : Option SeatedCart)
  /-- ATTENTION (R416): CATTN_N held for 100 ms asks for removal, which is prepared or refused. -/
  | attention (slot : Nat)
  /-- CLAIM (R414): CAR.CMD CLAIM blanks a cartridge that is not adopted. -/
  | claim (m : Nat) (slot : Nat)
  /-- CLAIM_COMPLETE (R414): A CLAIM finishes its resets, clears the set record and evaluates the slot again. -/
  | claimComplete (slot : Nat) (linkOk : Bool) (bad : List Nat)
  /-- CAR_PAIR (R401): CAR.CMD PAIR pairs a cartridge with the LINK key. -/
  | carPair (m : Nat) (slot : Nat)
  /-- READMIT (R416): CAR.CMD READMIT returns a prepared cartridge to new frames. -/
  | readmit (m : Nat) (slot : Nat)
  /-- LOCATE_ON (R418): CAR.CMD locate on sets indicator state 1. -/
  | locateOn (m : Nat) (slot : Nat)
  /-- LOCATE_OFF (R418): CAR.CMD locate off clears indicator state 1. -/
  | locateOff (m : Nat) (slot : Nat)
  /-- SPOOL_CONTEXT_WRITE (R423): A write of SPL.CTX to a context the master owns is held for the spool engine seam. -/
  | spoolContextWrite (m : Nat) (w : Nat) (v : Word)
  /-- SPOOL_DOORBELL (R426): SPL.DOORBELL sets a new TAIL or HEAD after the owner and index checks. -/
  | spoolDoorbell (m : Nat) (v : Word)
  /-- COPY (R431): Op 0x01 copies lines, rebasing their tags. -/
  | copy (spool : Nat) (readable : Bool)
  /-- FILL (R431): Op 0x02 fills lines with a 32-byte pattern. -/
  | fill (spool : Nat) (readable : Bool)
  /-- SECURE_DISCARD (R184): Op 0x03 removes every physical copy of a range. -/
  | secureDiscard (spool : Nat) (readable : Bool)
  /-- SCRUB_RANGE (R312): Op 0x04 scrubs a range under the LD's rights. -/
  | scrubRange (spool : Nat) (readable : Bool)
  /-- PERSIST_FENCE (R280): Op 0x05 cleans every line dirty at its order points, and completes when every write-back is in force. -/
  | persistFence (spool : Nat) (readable : Bool)
  /-- PREFETCH (R431): Op 0x06 fills the Lining as a read would. -/
  | prefetch (spool : Nat) (readable : Bool)
  /-- PIN (R199): Op 0x07 fills, and optionally locks, Pincushion entries. -/
  | pin (spool : Nat) (readable : Bool)
  /-- UNPIN (R208): Op 0x08 unlocks entries and ages them. -/
  | unpin (spool : Nat) (readable : Bool)
  /-- LOCK_RANGE (R209): Op 0x09 locks a range in the Lining, or unlocks it in its UNLOCK form. -/
  | lockRange (spool : Nat) (readable : Bool)
  /-- CLEAN (R212): Op 0x0A cleans every line of a range. -/
  | clean (spool : Nat) (readable : Bool)
  /-- INVALIDATE (R213): Op 0x0B discards every cached line of a range. -/
  | invalidate (spool : Nat) (readable : Bool)
  /-- CLEAN_INVALIDATE (R212): Op 0x0C cleans and then discards every line of a range. -/
  | cleanInvalidate (spool : Nat) (readable : Bool)
  /-- DARN (R123): Op 0x0D queues darns of the swatches that have live patches. -/
  | darn (spool : Nat) (readable : Bool)
  /-- REKEY_RANGE (R330): Op 0x0E moves regions to a target key and re-encrypts them by darning. -/
  | rekeyRange (spool : Nat) (readable : Bool)
  /-- EXPORT (R434): Op 0x0F writes an encrypted export stream. -/
  | export_ (spool : Nat) (readable : Bool)
  /-- IMPORT (R435): Op 0x10 reads and authenticates an import stream. -/
  | import_ (spool : Nat) (readable : Bool)
  /-- VERIFY (R431): Op 0x11 checks the tags of the lines of a range. -/
  | verify (spool : Nat) (readable : Bool)
  /-- SAMPLE_DRAIN (R433): Op 0x12 moves sample records into the completion spool. -/
  | sampleDrain (spool : Nat) (readable : Bool)
  /-- DATA_MOVER_LINE (R431): One line of an op is handled at its owning slice, under the owner's rights. -/
  | dataMoverLine (op : Nat) (wrote : Bool)
  /-- OP_COMPLETION_POST (R437): An op's completion record is posted to its completion spool. -/
  | opCompletionPost (op : Nat)
  /-- STALENESS_TIMER (R439): STALE_US passes with records waiting, which raises a signal condition. -/
  | stalenessTimer (spool : Nat)
  /-- ROLL_CALL_SEND (R457): Every 100 µs a member sends its roll-call record. -/
  | rollCallSend
  /-- ROLL_CALL_RECEIVE (R457): A received roll call is discarded, removed or used and forwarded. -/
  | rollCallReceive (r : RollCall) (linkNs : Nat)
  /-- MEMBER_SILENT (R458): No record from a member for 350 µs counts it as silent. -/
  | memberSilent (i : Nat)
  /-- RAIL_ENABLE_SLOT (R474): At an on-delay, the enables of the rails of that slot are asserted. -/
  | railEnableSlot (us : Nat)
  /-- POWER_GOOD_RISE (R474): A rail's PG input rises within its window; step 3 completes when all have. -/
  | powerGoodRise (r : Nat)
  /-- PG_WINDOW_EXPIRE (R476): A power-good window ends without power-good, and the power-up fails. -/
  | pgWindowExpire (r : Nat)
  /-- RETRY_GAP_END (R476): The retry gap ends and a new power-up attempt starts. -/
  | retryGapEnd
  /-- RAIL_SAMPLE (R477): The ADC samples each rail and VS_IN. -/
  | railSample (pins : List Nat) (vsin : Nat) (settling : Bool)
  /-- RAIL_PG_LOST (R477): A running rail's PG input has been low for 20 µs, a rail fault. -/
  | railPgLost (r : Nat)
  /-- RAIL_DISABLE_SLOT (R480): At an off-delay, the enables of that slot's rails are deasserted. -/
  | railDisableSlot (us : Nat)
  /-- POWER_DOWN_END (R480): The power-down ends at the largest off-delay, and the restart decision of R273 follows. -/
  | powerDownEnd (pfw : Bool)
  /-- MIN_OFF_END (R483): The minimum off time ends, and a held on request powers up. -/
  | minOffEnd
  /-- HOLDING_BUFFER_WRITE (R514): Tack accepts writes again, and held Hamper and fault-log records are written. -/
  | holdingBufferWrite
  /-- THERMAL_SAMPLE (R487): Every 1 ms the supervisor reads every sensor and judges each zone. -/
  | thermalSample (die : List Int) (hbm : List Int)
  /-- SENSOR_SUSPECT (R488): A sensor that has differed from its neighbours for 50 samples is excluded, and source 64 fires. -/
  | sensorSuspect (sensor : Nat)
  /-- HARDWARE_THERMAL_TRIP (R498): A 125 °C comparator trips and all enables drop within 5 µs. -/
  | hardwareThermalTrip (comparators : Nat)
  /-- AUX33_BROWNOUT (R543): AUX33 below 2.90 V for 2 µs drops all enables with no flush. -/
  | aux33Brownout
  /-- TACK_WRITE (R503): A write of KPS.TACK to the user area is stored, refused or a bus error. -/
  | tackWrite (m : Nat) (w : Nat) (v : Word)
  /-- HEM_PROGRAM (R505): KPS.HEM_CMD GO programs a Hem page from HEM_BUF, stretching SMBus. -/
  | hemProgram (m : Nat) (page : Nat)
  /-- HEM_PROGRAM_DONE (R506): A Hem program and its verify complete, and DONE sets with the result. -/
  | hemProgramDone (verified : Bool)
  /-- HEM_PAGE_LOAD (R507): A write of KPS.HEM_PAGE starts loading a page into HEM_DATA. -/
  | hemPageLoad (m : Nat) (page : Nat)
  /-- HEM_LOAD_DONE (R507): A page load completes and LOADING clears. -/
  | hemLoadDone
  /-- POWER_ON_HOUR (R504): Each hour outside standby increments lifetime counter 0. -/
  | powerOnHour
  /-- HAMPER_PAGE_TIMER (R515): 1 s after its first record, a copy B page is programmed. -/
  | hamperPageTimer
  /-- HAMPER_READ (R516): HMP.RD_CTRL.GO fetches the record selected by view and index. -/
  | hamperRead (m : Nat) (v : Word)
  /-- INT_DOORBELL_WRITE (R520): A software write of INT.DOORBELL fires a source with its interrupt effects only. -/
  | intDoorbellWrite (m : Nat) (v : Word)
  /-- INT_ACK (R522): INT.ACK ends the presentation of the current source, or counts a miss. -/
  | intAck (m : Nat) (t : Nat) (v : Word)
  /-- ALERT_REASSERT (R524): 1 µs after ALERT_N deasserts, it asserts again for the next presentable source. -/
  | alertReassert
  /-- ALERT_RESPONSE (R524): The SMBus Alert Response Address is answered while SMB_ALERT_N is asserted. -/
  | alertResponse
  /-- SMBUS_ARP (R548): The SMBus Address Resolution Protocol assigns the target's address. -/
  | smbusArp (addr : Nat)
  /-- QUIET_EDGE (R530): An edge on a latched input while the core is quiet sets its flags, and source 54 fires once per episode. -/
  | quietEdge (input : Nat)
  /-- PMC_READ (R536): PMC.CMD.READ requests a reader pass. -/
  | pmcRead (m : Nat)
  /-- PMC_ZERO (R535): PMC.CMD.ZERO zeroes every counter and overflow bit at the next seam. -/
  | pmcZero (m : Nat)
  /-- READER_PASS_TIMER (R536): Every PERIOD × 100 µs a reader pass starts. -/
  | readerPassTimer
  /-- READER_PASS_DONE (R537): A pass finishes filling a buffer, BUF and PASSES update and source 834 may fire. -/
  | readerPassDone
  /-- SAMPLE_POP (R539): PMC.SAMPLE_POP removes records from the head of the sample ring. -/
  | samplePop (m : Nat) (count : Nat)
  /-- RATE_SECOND (R559): A rate second ends and the per-second limits start afresh. -/
  | rateSecond
  /-- FEC_LOCK (R399): A cartridge link's lanes finish training and the receiver reaches FEC lock after 64 consecutive decodable flits, at bring-up or at the end of a retrain. -/
  | fecLock (slot : Nat) (width : Nat) (lane : Nat)
  /-- CARTRIDGE_LINK_DOWN (R417): A cartridge link goes down: the receiver loses the signal or its lock, source 256+8n+3 fires, and reads start reconstruction or a retrain begins. -/
  | cartridgeLinkDown (slot : Nat)
  /-- HOST_CREDIT_RETURN (R90): A host returns S2M CXL credits, and responses waiting at the port for those credits are sent. -/
  | hostCreditReturn (port : Nat) (n : Nat)
  /-- BUCKET_REBUILD_DONE (R296): The rebuild of an uncorrectable patch-index bucket from the roster's directories completes within 50 ms, source 136 fires, and the waiting reads of its swatches resume. -/
  | bucketRebuildDone (bucket : Nat)
  /-- TAP_INSTRUCTION (R314): At Update-IR the JTAG TAP takes a new instruction (EXTEST, IDCODE, SAMPLE/PRELOAD, BYPASS or DBG_ACCESS), selecting its data register and boundary-scan behaviour. -/
  | tapInstruction (ir : Nat)
deriving DecidableEq, Repr

end Sys2Proof
end

