-- ==== Sys2Proof/WellFormed.lean ====
section
/-!
DEFINITION. Which commands are well formed: every index an operand names lies in the range the spec gives the
thing it names (masters 0-37 of Table 10-10, ports 0-3, cartridge slots 0-31, LDs 0-15, slices 0-7, rails 0-15,
targets 0-16 of R521, spools 0-8,191, PSAs of 34 bits and lines of 39 bits of Table 01-9).
-/
namespace Sys2Proof

/-! ### How many of each thing there are -/

/-- Rights sets of Table 10-10. -/
abbrev nMasters : Nat := 38
/-- Host ports (R354). -/
abbrev nPorts : Nat := 4
/-- Cartridge slots (R31). -/
abbrev nSlots : Nat := 32
/-- Logical devices (Table 11-2). -/
abbrev nLds : Nat := 16
/-- Slices (R29). -/
abbrev nSlices : Nat := 8
/-- Media page addresses (Table 01-9). -/
abbrev psaSpan : Nat := 2 ^ 34
/-- Line addresses DPA[44:6] (Table 01-9). -/
abbrev lineSpan : Nat := 2 ^ 39
/-- Dies of a cartridge, and bolts of a die of the larger model (Table 05-1). -/
abbrev nDies : Nat := 16
abbrev nBolts : Nat := 4096
/-- Spools (R419). -/
abbrev nSpools : Nat := 8192
/-- Rails, interrupt targets (R521), cartridge groups. -/
abbrev nRails : Nat := 16
abbrev nTargets : Nat := 17
abbrev nGroups : Nat := 4

def okMaster (m : Nat) : Bool := m < nMasters
def okPort (p : Nat) : Bool := p < nPorts
def okSlot (n : Nat) : Bool := n < nSlots
def okLd (n : Nat) : Bool := n < nLds
def okSlice (n : Nat) : Bool := n < nSlices
def okPsa (p : Nat) : Bool := p < psaSpan
def okLine (l : Nat) : Bool := l < lineSpan
def okBolt (die bolt : Nat) : Bool := die < nDies && bolt < nBolts
def okSpool (n : Nat) : Bool := n < nSpools

/-- The indices that a command names, each with the number of things it may name: the Pincushion's 64 entries (R198), the 64 line slots of a page,
the 32 stream trackers of a port (R204), the 256 key slots, the 2^26 buckets of the patch index, the 64 monitors of PACE, the 96 quiet inputs,
the five bridges of R10, the two HBM stacks, and the counts above. Operands without an entry admit every value. -/
def Instr.ranges : Instr → List (Nat × Nat)
  | .paceSample _ => []
  | .monitorExcluded n => [(n, 64)]
  | .governorDecision => []
  | .paceLowDeclared => []
  | .paceCollapse => []
  | .collapseEnd => []
  | .paceLowEnd => []
  | .avsAcknowledge _ => []
  | .avsAckTimeout => []
  | .avsHoldRetry => []
  | .islandBridgeRoom bridge => [(bridge, 5)]
  | .aux33Rise => []
  | .supervisorWake _ => []
  | .patternLoad _ _ _ => []
  | .coreRelease => []
  | .hbmTrainingDone _ _ => []
  | .hbmFillDone _ => []
  | .cartridgeDiscoveryDone => []
  | .waitingReevaluate => []
  | .recoveryStepComplete => []
  | .selvageScanComplete => []
  | .eraseSlot m => [(m, nMasters)]
  | .ptuProgram m => [(m, nMasters)]
  | .ptuRead m => [(m, nMasters)]
  | .ptuVerify m => [(m, nMasters)]
  | .liveApply m => [(m, nMasters)]
  | .ptuReservedCmd m _ => [(m, nMasters)]
  | .ptuCommandDone _ _ => []
  | .registerWrite m _ _ _ => [(m, nMasters)]
  | .mctpRegisterMessage m _ _ _ _ _ => [(m, nMasters)]
  | .seamReached _ _ => []
  | .pwrreqOn m => [(m, nMasters)]
  | .pwrreqOff m => [(m, nMasters)]
  | .m2sReqReceived port req => [(port, nPorts), (req.ld, nLds)]
  | .m2sRwdReceived port req => [(port, nPorts), (req.ld, nLds)]
  | .streamTrackerExpire port k => [(port, nPorts), (k, 32)]
  | .readOrderPoint _ _ => []
  | .mapAnswer _ => []
  | .patchIndexAnswer _ => []
  | .probeHit _ _ _ => []
  | .mediaReadData _ _ _ _ => []
  | .reconstructionStart _ => []
  | .reconstructionReadData _ _ _ => []
  | .writeAdmission _ _ => []
  | .partialWriteMerge _ => []
  | .writeCommit _ => []
  | .stagingWaitEnd slice => [(slice, nSlices)]
  | .latClear m slice => [(m, nMasters), (slice, nSlices)]
  | .evictionRelease line => [(line, lineSpan)]
  | .sealTimerExpire psa => [(psa, psaSpan)]
  | .patchPageVerified psa => [(psa, psaSpan)]
  | .patchProgramFail psa => [(psa, psaSpan)]
  | .darnRequest m _ => [(m, nMasters)]
  | .darnQueueRoom => []
  | .assemblyStart => []
  | .assemblyPageVerified psa => [(psa, psaSpan)]
  | .patchBoltReclaim => []
  | .regionImageComplete => []
  | .checkpointLate => []
  | .mediaClockTick => []
  | .timePairWrite => []
  | .mapBlockRepairDone _ _ _ => []
  | .repairWaitTimeout _ => []
  | .pageProgramVerified psa => [(psa, psaSpan)]
  | .bastingTimerExpire slot => [(slot, nSlots)]
  | .pageProgramFail psa => [(psa, psaSpan)]
  | .boltResetDone slot die bolt => [(slot, nSlots), (die, nDies), (bolt, nBolts)]
  | .boltResetFail slot die bolt => [(slot, nSlots), (die, nDies), (bolt, nBolts)]
  | .gcCollect group => [(group, nGroups)]
  | .refreshRun group => [(group, nGroups)]
  | .rebuildComplete group => [(group, nGroups)]
  | .rebuildInPlace group => [(group, nGroups)]
  | .ageingTick => []
  | .pinSliceFill entry slice => [(entry, 64), (slice, nSlices)]
  | .cacheDisableComplete _ => []
  | .linClean m _ => [(m, nMasters)]
  | .linInvalidate m _ => [(m, nMasters)]
  | .linCleanInvalidate m _ => [(m, nMasters)]
  | .linLock m _ => [(m, nMasters)]
  | .linUnlock m _ => [(m, nMasters)]
  | .linReadWay m _ => [(m, nMasters)]
  | .linReservedOp m _ => [(m, nMasters)]
  | .pcuClean m entry => [(m, nMasters), (entry, 64)]
  | .pcuInvalidate m entry => [(m, nMasters), (entry, 64)]
  | .pcuCleanInvalidate m entry => [(m, nMasters), (entry, 64)]
  | .pcuLock m entry => [(m, nMasters), (entry, 64)]
  | .pcuUnlock m entry => [(m, nMasters), (entry, 64)]
  | .pcuReservedOp m _ entry => [(m, nMasters), (entry, 64)]
  | .maintenanceDone _ => []
  | .birspReceived port ld line _ => [(port, nPorts), (ld, nLds), (line, lineSpan)]
  | .biconflictReceived port ld line => [(port, nPorts), (ld, nLds), (line, lineSpan)]
  | .conflictQueueLeave slice => [(slice, nSlices)]
  | .snoopTimeout line ld => [(line, lineSpan), (ld, nLds)]
  | .suspectClear m _ => [(m, nMasters)]
  | .sharerSweepDone => []
  | .pfwNAssert _ _ => []
  | .flushAdmissionStop => []
  | .flushComplete => []
  | .gpfPhase2Request port => [(port, nPorts)]
  | .gpfComplete => []
  | .porstNAssert _ _ => []
  | .porstNDeassert => []
  | .hbmPatrol ev _ _ => [(ev.stack, 2)]
  | .injArm m _ => [(m, nMasters)]
  | .injDisarm m _ => [(m, nMasters)]
  | .scrubGo m _ => [(m, nMasters)]
  | .scrubLine _ line => [(line, lineSpan)]
  | .scrubMark _ line => [(line, lineSpan)]
  | .scrubComplete => []
  | .dbgAccessRequest _ _ => []
  | .dbgMemRead m => [(m, nMasters)]
  | .dbgMemWrite m => [(m, nMasters)]
  | .dbgMemDone => []
  | .dbgRawRead m _ => [(m, nMasters)]
  | .dbgRawDone _ => []
  | .spdmSessionEstablish _ _ ld _ _ => [(ld, nLds)]
  | .spdmSessionEnd _ => []
  | .setCertificate _ slot _ => [(slot, 8)]
  | .spdmGetMeasurements _ => []
  | .keyLoad _ slot _ _ => [(slot, 256)]
  | .keyRetire _ slot _ => [(slot, 256)]
  | .keyQuery _ slot => [(slot, 256)]
  | .haltFlush _ _ => []
  | .haltFlushComplete => []
  | .hamperClear _ => []
  | .keyCommandUnknown _ _ => []
  | .cipKeyCmdRetire m _ _ => [(m, nMasters)]
  | .retireComplete => []
  | .ideKmKeyProgram port _ _ => [(port, nPorts)]
  | .ideIntegrityFail port _ _ lines => [(port, nPorts)] ++ lines.map (·, lineSpan)
  | .keychkFlitReceived slot _ _ => [(slot, nSlots)]
  | .keyfailFlitReceived slot _ => [(slot, nSlots)]
  | .keychkSend slot => [(slot, nSlots)]
  | .hostLinkUp port _ => [(port, nPorts)]
  | .hostLinkDown port => [(port, nPorts)]
  | .portRetrain m port => [(m, nMasters), (port, nPorts)]
  | .perstNAssert port => [(port, nPorts)]
  | .perstNDeassert port => [(port, nPorts)]
  | .configRequest port _ _ => [(port, nPorts)]
  | .hdmDecoderCommit ld k _ => [(ld, nLds), (k, 4)]
  | .bar2Access ld _ _ _ _ => [(ld, nLds)]
  | .identify ld => [(ld, nLds)]
  | .identifyMemoryDevice ld => [(ld, nLds)]
  | .getEventRecords ld _ => [(ld, nLds)]
  | .clearEventRecords ld _ _ _ => [(ld, nLds)]
  | .getEventInterruptPolicy ld => [(ld, nLds)]
  | .setEventInterruptPolicy ld _ => [(ld, nLds)]
  | .getTimestamp ld => [(ld, nLds)]
  | .setTimestamp ld t => [(ld, nLds), (t, nTargets)]
  | .getSupportedLogs ld => [(ld, nLds)]
  | .getLog ld _ _ _ => [(ld, nLds)]
  | .getHealthInfo ld => [(ld, nLds)]
  | .getAlertConfiguration ld => [(ld, nLds)]
  | .setAlertConfiguration ld _ => [(ld, nLds)]
  | .getLsa ld _ _ => [(ld, nLds)]
  | .setLsa ld _ _ => [(ld, nLds)]
  | .getPoisonList ld _ _ => [(ld, nLds)]
  | .injectPoison ld _ => [(ld, nLds)]
  | .clearPoison ld _ _ => [(ld, nLds)]
  | .sanitize ld => [(ld, nLds)]
  | .secureErase ld => [(ld, nLds)]
  | .backgroundCommandComplete ld => [(ld, nLds)]
  | .getDynamicCapacityConfiguration ld => [(ld, nLds)]
  | .getDynamicCapacityExtentList ld => [(ld, nLds)]
  | .addDynamicCapacityResponse ld _ => [(ld, nLds)]
  | .releaseDynamicCapacity ld _ => [(ld, nLds)]
  | .getDeviceState ld => [(ld, nLds)]
  | .getWearReport ld => [(ld, nLds)]
  | .getFlushRecord ld => [(ld, nLds)]
  | .getGroupStatus ld => [(ld, nLds)]
  | .mailboxUnsupported ld _ => [(ld, nLds)]
  | .getLdInfo => []
  | .getLdAllocations => []
  | .setLdAllocations _ => []
  | .getMultiHeadedInfo => []
  | .getDcRegionConfiguration ld => [(ld, nLds)]
  | .getDcRegionExtentLists ld => [(ld, nLds)]
  | .initiateDynamicCapacityAdd _ _ _ => []
  | .initiateDynamicCapacityRelease _ ld _ => [(ld, nLds)]
  | .bindLd ld port => [(ld, nLds), (port, nPorts)]
  | .unbindLd ld => [(ld, nLds)]
  | .getBindings => []
  | .secureRelease _ ld _ => [(ld, nLds)]
  | .rspFlit slot _ _ _ _ => [(slot, nSlots)]
  | .dataFlit slot _ _ _ => [(slot, nSlots)]
  | .nakFlit slot _ _ _ => [(slot, nSlots)]
  | .retrainTimeout slot => [(slot, nSlots)]
  | .statusFlit slot _ _ _ _ _ => [(slot, nSlots)]
  | .statusTimeout slot => [(slot, nSlots)]
  | .idleFlit slot _ => [(slot, nSlots)]
  | .flitCorrupt slot _ => [(slot, nSlots)]
  | .replayTimeout slot => [(slot, nSlots)]
  | .responseTimeout slot _ => [(slot, nSlots)]
  | .laneSparing slot _ => [(slot, nSlots)]
  | .linkBringupTimeout slot => [(slot, nSlots)]
  | .hello slot _ _ => [(slot, nSlots)]
  | .pairPub slot _ => [(slot, nSlots)]
  | .pairKey slot => [(slot, nSlots)]
  | .pairOk slot _ _ => [(slot, nSlots)]
  | .unpair slot => [(slot, nSlots)]
  | .readLine slot psa lslot _ => [(slot, nSlots), (psa, psaSpan), (lslot, 64)]
  | .readPage slot psa => [(slot, nSlots), (psa, psaSpan)]
  | .program slot psa => [(slot, nSlots), (psa, psaSpan)]
  | .reset slot die bolt => [(slot, nSlots), (die, nDies), (bolt, nBolts)]
  | .ledgerRead slot die _ _ => [(slot, nSlots), (die, nDies)]
  | .ledgerWrite slot die bolt => [(slot, nSlots), (die, nDies), (bolt, nBolts)]
  | .rsvRead slot _ => [(slot, nSlots)]
  | .rsvWrite slot _ _ => [(slot, nSlots)]
  | .ident slot => [(slot, nSlots)]
  | .health slot => [(slot, nSlots)]
  | .setRecord slot => [(slot, nSlots)]
  | .indicator slot => [(slot, nSlots)]
  | .quiesce slot => [(slot, nSlots)]
  | .vlkRetrain m slot => [(m, nMasters), (slot, nSlots)]
  | .unquarantine m slot => [(m, nMasters), (slot, nSlots)]
  | .presenceChange slot _ => [(slot, nSlots)]
  | .attention slot => [(slot, nSlots)]
  | .claim m slot => [(m, nMasters), (slot, nSlots)]
  | .claimComplete slot _ _ => [(slot, nSlots)]
  | .carPair m slot => [(m, nMasters), (slot, nSlots)]
  | .readmit m slot => [(m, nMasters), (slot, nSlots)]
  | .locateOn m slot => [(m, nMasters), (slot, nSlots)]
  | .locateOff m slot => [(m, nMasters), (slot, nSlots)]
  | .spoolContextWrite m _ _ => [(m, nMasters)]
  | .spoolDoorbell m _ => [(m, nMasters)]
  | .copy spool _ => [(spool, nSpools)]
  | .fill spool _ => [(spool, nSpools)]
  | .secureDiscard spool _ => [(spool, nSpools)]
  | .scrubRange spool _ => [(spool, nSpools)]
  | .persistFence spool _ => [(spool, nSpools)]
  | .prefetch spool _ => [(spool, nSpools)]
  | .pin spool _ => [(spool, nSpools)]
  | .unpin spool _ => [(spool, nSpools)]
  | .lockRange spool _ => [(spool, nSpools)]
  | .clean spool _ => [(spool, nSpools)]
  | .invalidate spool _ => [(spool, nSpools)]
  | .cleanInvalidate spool _ => [(spool, nSpools)]
  | .darn spool _ => [(spool, nSpools)]
  | .rekeyRange spool _ => [(spool, nSpools)]
  | .export_ spool _ => [(spool, nSpools)]
  | .import_ spool _ => [(spool, nSpools)]
  | .verify spool _ => [(spool, nSpools)]
  | .sampleDrain spool _ => [(spool, nSpools)]
  | .dataMoverLine _ _ => []
  | .opCompletionPost _ => []
  | .stalenessTimer spool => [(spool, nSpools)]
  | .rollCallSend => []
  | .rollCallReceive _ _ => []
  | .memberSilent _ => []
  | .railEnableSlot _ => []
  | .powerGoodRise r => [(r, nRails)]
  | .pgWindowExpire r => [(r, nRails)]
  | .retryGapEnd => []
  | .railSample _ _ _ => []
  | .railPgLost r => [(r, nRails)]
  | .railDisableSlot _ => []
  | .powerDownEnd _ => []
  | .minOffEnd => []
  | .holdingBufferWrite => []
  | .thermalSample _ _ => []
  | .sensorSuspect _ => []
  | .hardwareThermalTrip _ => []
  | .aux33Brownout => []
  | .tackWrite m _ _ => [(m, nMasters)]
  | .hemProgram m _ => [(m, nMasters)]
  | .hemProgramDone _ => []
  | .hemPageLoad m _ => [(m, nMasters)]
  | .hemLoadDone => []
  | .powerOnHour => []
  | .hamperPageTimer => []
  | .hamperRead m _ => [(m, nMasters)]
  | .intDoorbellWrite m _ => [(m, nMasters)]
  | .intAck m t _ => [(m, nMasters), (t, nTargets)]
  | .alertReassert => []
  | .alertResponse => []
  | .smbusArp _ => []
  | .quietEdge input => [(input, 96)]
  | .pmcRead m => [(m, nMasters)]
  | .pmcZero m => [(m, nMasters)]
  | .readerPassTimer => []
  | .readerPassDone => []
  | .samplePop m _ => [(m, nMasters)]
  | .rateSecond => []
  | .fecLock slot _ _ => [(slot, nSlots)]
  | .cartridgeLinkDown slot => [(slot, nSlots)]
  | .hostCreditReturn port _ => [(port, nPorts)]
  | .bucketRebuildDone bucket => [(bucket, 2 ^ 26)]
  | .tapInstruction _ => []

/-- Every index is in range. -/
def Instr.wellFormed (i : Instr) : Bool := i.ranges.all fun p => p.1 < p.2

end Sys2Proof
end

