-- ==== Sys2Proof/Config.lean ====
section
/-!
DEFINITION. What the spec fixes per part or leaves open. The opaque constants have no body: nothing in Lean
can evaluate them or prove a value of them, so a statement about them holds for every value (free values).
-/
namespace Sys2Proof.Config

/-- Values the spec does not give: draws of the deterministic random bit generator of R334 (initialization
vectors, nonces, set identifiers, sampling intervals) and contents that a rule leaves open. The argument is
`State.free`, a counter that every read advances (log 11). -/
opaque free : Nat → Nat

/-- The digests SHA-384 and SHA-256 of a byte string, and the verification of an ECDSA P-384 signature: digest, r, s, X, Y. The spec cites them from outside
standards (log 12): the model does not compute them. -/
opaque sha384 : List Nat → List Nat
opaque sha256 : List Nat → List Nat
opaque ecdsaP384 : List Nat → Nat → Nat → Nat → Nat → Bool

/-- The other functions that the spec cites from outside standards (log 12). The first argument names the use, the second holds the inputs. -/
opaque digest : Nat → List Nat → List Nat

/-- What a line slot decodes to when its errors exceed the capacity of its code, or when it is decrypted under a
key or an epoch that did not write it (R288, R317): no rule states the result (log 14). -/
opaque wrongDecode : Nat → Nat → BitVec 512

/-- Whether a codeword whose errors exceed the capacity of R288 is reported as a decode failure rather than taken
for another codeword (log 14). -/
opaque decodeFails : Nat → Bool

/-- AES-256 of one 16-byte block under a 32-byte key, and its inverse, as numbers whose byte 0 is the lowest: the spec cites the block cipher from outside (log 12). -/
opaque aes : Nat → Nat → Nat
opaque aesInv : Nat → Nat → Nat

/-- The device wrapping key, fused at manufacture (R325). -/
opaque deviceKey : Nat

/-- Effect bits of an opcode in the Command Effects Log (R370): no rule of the spec states them (log 63). -/
opaque commandEffects : Nat → Nat

end Sys2Proof.Config
end

