-- ==== Sys2Proof/Machine/RegMap.lean ====
section
/-!
DEFINITION. The register window of R56 and R58, written out from the register tables of the spec's chapters:
one descriptor per register or register array (base, index ranges with their strides, seam-applied or not, the
fields with their access types of Table 02-8, the reset word), and one named field constant per field.
Reset values that a table gives by formula are computed in `regReset`.
-/
namespace Sys2Proof.Machine

/-- Access types of Table 02-8. -/
inductive Acc where
  | ro | rw | mw | w1c | w1s | wo | sc
deriving DecidableEq, Repr

/-- A field of a register: bit position, width and access. -/
structure FieldDesc where
  lo  : Nat
  w   : Nat
  acc : Acc
deriving DecidableEq, Repr

/-- One index of a register array: first and last value, stride in bytes. -/
structure RegDim where
  lo     : Nat
  hi     : Nat
  stride : Nat
deriving DecidableEq, Repr

/-- A register or register array of the window. -/
structure RegDesc where
  base   : Nat
  dims   : List RegDim
  seam   : Bool
  fields : List FieldDesc
  reset  : Nat
deriving DecidableEq, Repr

/-- A named field: the offset of its register, its lowest bit and its width. -/
structure Fld where
  off : Nat
  lo  : Nat
  w   : Nat
deriving DecidableEq, Repr

/-- Registers of the PWS block. -/
def regsPWS : List RegDesc :=
  [ ⟨0x18000, [], true, [⟨27,3,.rw⟩,⟨22,5,.rw⟩,⟨17,5,.rw⟩,⟨16,1,.rw⟩,⟨0,16,.rw⟩], 0x1781044c⟩,  -- PWS.PACE_CTRL
    ⟨0x18004, [], false, [⟨31,1,.ro⟩,⟨30,1,.ro⟩,⟨29,1,.ro⟩,⟨28,1,.ro⟩,⟨21,7,.ro⟩,⟨15,6,.ro⟩,⟨0,15,.ro⟩], 0x0⟩,  -- PWS.PACE_STATUS
    ⟨0x18008, [], false, [⟨0,10,.ro⟩], 0x352⟩,  -- PWS.PACE_VOUT
    ⟨0x18100, [⟨0,63,4⟩], false, [⟨31,1,.ro⟩,⟨0,16,.ro⟩], 0x0⟩,  -- PWS.PACE_MON
    ⟨0x10000, [], true, [⟨16,16,.rw⟩,⟨8,1,.rw⟩,⟨0,3,.rw⟩], 0xc80003⟩,  -- PWS.SEQ_CTRL
    ⟨0x10004, [], true, [⟨16,16,.rw⟩], 0x640000⟩,  -- PWS.SEQ_TIME
    ⟨0x10008, [], false, [⟨29,3,.ro⟩,⟨28,1,.ro⟩,⟨23,4,.ro⟩,⟨0,16,.ro⟩], 0x0⟩,  -- PWS.SEQ_STATUS
    ⟨0x1000c, [], false, [⟨0,16,.ro⟩], 0x0⟩,  -- PWS.PG_STATUS
    ⟨0x10010, [], true, [⟨16,16,.rw⟩,⟨0,12,.rw⟩], 0x1000000⟩,  -- PWS.VSIN_CTRL
    ⟨0x10014, [], false, [⟨16,16,.ro⟩,⟨0,12,.ro⟩], 0x0⟩,  -- PWS.VSIN
    ⟨0x10018, [], false, [⟨31,1,.ro⟩,⟨30,1,.ro⟩,⟨24,4,.ro⟩,⟨20,4,.ro⟩,⟨16,4,.ro⟩,⟨0,16,.ro⟩], 0x0⟩,  -- PWS.FAULT_LAST
    ⟨0x1001c, [], false, [⟨16,16,.ro⟩,⟨8,8,.ro⟩,⟨0,8,.ro⟩], 0x0⟩,  -- PWS.FLOG_STATUS
    ⟨0x10020, [], true, [⟨0,16,.rw⟩], 0x871f⟩,  -- PWS.RAIL_USED
    ⟨0x10100, [⟨0,15,16⟩], true, [⟨16,16,.rw⟩,⟨0,16,.rw⟩], 0x0⟩,  -- PWS.RAIL_TIME
    ⟨0x10104, [⟨0,15,16⟩], true, [⟨16,16,.rw⟩,⟨0,16,.rw⟩], 0x0⟩,  -- PWS.RAIL_PG
    ⟨0x10108, [⟨0,15,16⟩], true, [⟨16,16,.rw⟩,⟨8,8,.rw⟩,⟨0,8,.rw⟩], 0x1000000⟩,  -- PWS.RAIL_LIM
    ⟨0x1010c, [⟨0,15,16⟩], false, [⟨30,2,.ro⟩,⟨29,1,.ro⟩,⟨28,1,.ro⟩,⟨27,1,.ro⟩,⟨0,16,.ro⟩], 0x0⟩,  -- PWS.RAIL_STAT
    ⟨0x10400, [⟨0,511,4⟩], false, [⟨0,32,.ro⟩], 0x0⟩,  -- PWS.FLOG
    ⟨0x1fffc, [], false, [⟨31,1,.ro⟩,⟨0,16,.ro⟩], 0x0⟩ ]  -- PWS.SEAM

/-- Registers of the TOP block. -/
def regsTOP : List RegDesc :=
  [ ⟨0x0, [], false, [⟨16,16,.ro⟩,⟨8,8,.ro⟩,⟨0,8,.ro⟩], 0x0⟩,  -- TOP.ID
    ⟨0x4, [], false, [⟨4,1,.ro⟩,⟨0,4,.ro⟩], 0x6⟩,  -- TOP.STATE
    ⟨0x8, [], true, [⟨16,16,.mw⟩,⟨2,1,.mw⟩,⟨1,1,.mw⟩,⟨0,1,.mw⟩], 0x3⟩,  -- TOP.GCTRL
    ⟨0xc, [], false, [⟨1,1,.sc⟩,⟨0,1,.sc⟩], 0x0⟩,  -- TOP.PWRREQ
    ⟨0x10, [], false, [⟨31,1,.ro⟩,⟨30,1,.ro⟩,⟨0,5,.ro⟩], 0x0⟩,  -- TOP.HALT
    ⟨0x20, [], false, [⟨0,32,.ro⟩], 0x0⟩,  -- TOP.TIME_LO
    ⟨0x24, [], false, [⟨0,32,.ro⟩], 0x0⟩,  -- TOP.TIME_HI
    ⟨0x40, [], false, [⟨30,2,.ro⟩,⟨29,1,.ro⟩,⟨28,1,.ro⟩,⟨27,1,.ro⟩,⟨20,4,.ro⟩,⟨16,4,.ro⟩], 0xc0000000⟩,  -- TOP.PATTERN_STATUS
    ⟨0x44, [], false, [⟨0,32,.ro⟩], 0x0⟩,  -- TOP.PATTERN_VER
    ⟨0x48, [], false, [⟨0,32,.ro⟩], 0x0⟩,  -- TOP.PATTERN_VER_ALT
    ⟨0x80, [], false, [⟨0,3,.wo⟩], 0x0⟩,  -- TOP.PTU_CMD
    ⟨0x84, [], false, [⟨23,1,.rw⟩,⟨8,15,.rw⟩], 0x0⟩,  -- TOP.PTU_ADDR
    ⟨0x88, [], false, [⟨31,1,.ro⟩,⟨30,1,.w1c⟩,⟨16,3,.ro⟩,⟨0,4,.ro⟩], 0x0⟩,  -- TOP.PTU_STATUS
    ⟨0x100, [⟨0,63,4⟩], false, [⟨0,32,.rw⟩], 0x0⟩,  -- TOP.PTU_BUF
    ⟨0x200, [], true, [⟨16,16,.rw⟩,⟨0,12,.rw⟩], 0x0⟩,  -- TOP.FLUSH_CTRL
    ⟨0x204, [], false, [⟨31,1,.ro⟩,⟨28,3,.ro⟩,⟨27,1,.ro⟩,⟨26,1,.ro⟩,⟨16,8,.ro⟩,⟨0,6,.ro⟩], 0x0⟩,  -- TOP.FLUSH_STATUS
    ⟨0x208, [], false, [⟨16,16,.ro⟩,⟨0,16,.ro⟩], 0x0⟩,  -- TOP.FLUSH_EST
    ⟨0x20c, [], false, [⟨29,3,.ro⟩,⟨0,24,.ro⟩], 0x0⟩,  -- TOP.FLUSH_LAST
    ⟨0x210, [], false, [⟨0,32,.ro⟩], 0x0⟩,  -- TOP.DIRTY_SHUTDOWN
    ⟨0x214, [], false, [⟨0,32,.ro⟩], 0x0⟩,  -- TOP.AT_RISK
    ⟨0x300, [], false, [⟨31,1,.ro⟩,⟨30,1,.ro⟩,⟨29,1,.ro⟩,⟨24,4,.ro⟩,⟨16,8,.ro⟩,⟨8,8,.ro⟩,⟨0,4,.ro⟩], 0x0⟩,  -- TOP.START_STATUS
    ⟨0x304, [⟨1,7,4⟩], false, [⟨0,32,.ro⟩], 0x0⟩,  -- TOP.START_STEPS
    ⟨0x320, [], false, [⟨0,32,.ro⟩], 0x0⟩,  -- TOP.START_TIME
    ⟨0xfffc, [], false, [⟨31,1,.ro⟩,⟨0,16,.ro⟩], 0x0⟩ ]  -- TOP.SEAM

/-- Registers of the HPT block. -/
def regsHPT : List RegDesc :=
  [ ⟨0x80400, [⟨0,3,16384⟩], true, [⟨16,12,.rw⟩,⟨0,12,.rw⟩], 0x2000400⟩,  -- HPT.ADMIT
    ⟨0x80404, [⟨0,3,16384⟩], false, [⟨30,2,.ro⟩,⟨29,1,.ro⟩,⟨16,12,.ro⟩,⟨0,12,.ro⟩], 0x0⟩,  -- HPT.ADMIT_STATUS
    ⟨0x80408, [⟨0,3,16384⟩], false, [⟨16,12,.ro⟩,⟨0,12,.ro⟩], 0x2000400⟩,  -- HPT.ADMIT_EFF
    ⟨0x80000, [⟨0,3,16384⟩], true, [⟨4,3,.rw⟩,⟨2,1,.rw⟩,⟨0,1,.rw⟩], 0x1⟩,  -- HPT.LINK_CTRL
    ⟨0x80004, [⟨0,3,16384⟩], false, [⟨31,1,.ro⟩,⟨30,1,.ro⟩,⟨29,1,.ro⟩,⟨26,3,.ro⟩,⟨22,4,.ro⟩,⟨21,1,.ro⟩,⟨20,1,.ro⟩,⟨19,1,.ro⟩,⟨18,1,.ro⟩,⟨0,16,.ro⟩], 0x0⟩,  -- HPT.LINK_STATUS
    ⟨0x80008, [⟨0,3,16384⟩], false, [⟨0,1,.sc⟩], 0x0⟩,  -- HPT.LINK_CMD
    ⟨0x80010, [⟨0,3,16384⟩], true, [⟨0,16,.rw⟩], 0x3e8⟩,  -- HPT.VIOL_CTRL
    ⟨0x80018, [⟨0,3,16384⟩], false, [⟨6,26,.ro⟩], 0x0⟩,  -- HPT.VIOL_LAST_LO
    ⟨0x8001c, [⟨0,3,16384⟩], false, [⟨31,1,.ro⟩,⟨27,4,.ro⟩,⟨20,4,.ro⟩,⟨0,13,.ro⟩], 0x0⟩,  -- HPT.VIOL_LAST_HI
    ⟨0x80100, [⟨0,3,16384⟩,⟨0,15,4⟩], false, [⟨0,32,.ro⟩], 0x0⟩,  -- HPT.VIOL
    ⟨0x83ffc, [⟨0,3,16384⟩], false, [⟨31,1,.ro⟩,⟨0,16,.ro⟩], 0x0⟩ ]  -- HPT.SEAM

/-- Registers of the SPL block. -/
def regsSPL : List RegDesc :=
  [ ⟨0x1d0040, [], true, [⟨0,12,.rw⟩], 0x400⟩,  -- SPL.ADMIT
    ⟨0x1d0044, [], false, [⟨16,12,.ro⟩,⟨0,12,.ro⟩], 0x4000000⟩,  -- SPL.ADMIT_STATUS
    ⟨0x1d0000, [], false, [⟨17,13,.wo⟩,⟨0,17,.wo⟩], 0x0⟩,  -- SPL.DOORBELL
    ⟨0x1d0004, [], false, [⟨0,13,.rw⟩], 0x0⟩,  -- SPL.CTX_SEL
    ⟨0x1d0010, [⟨0,7,4⟩], true, [⟨0,32,.rw⟩], 0x0⟩,  -- SPL.CTX
    ⟨0x1d0048, [], false, [⟨16,16,.ro⟩,⟨0,16,.ro⟩], 0x0⟩,  -- SPL.REJECT
    ⟨0x1d004c, [], false, [⟨16,11,.ro⟩,⟨0,14,.ro⟩], 0x0⟩,  -- SPL.STATUS
    ⟨0x1d1000, [⟨0,127,4⟩], false, [⟨0,32,.w1c⟩], 0x0⟩,  -- SPL.CPL_PEND
    ⟨0x1d1200, [⟨0,255,4⟩], false, [⟨0,32,.w1c⟩], 0x0⟩,  -- SPL.ERR_PEND
    ⟨0x1ffffc, [], false, [⟨31,1,.ro⟩,⟨0,16,.ro⟩], 0x0⟩ ]  -- SPL.SEAM

/-- Registers of the SLC block. -/
def regsSLC : List RegDesc :=
  [ ⟨0x200000, [⟨0,7,32768⟩], true, [⟨0,1,.rw⟩], 0x1⟩,  -- SLC.CTRL
    ⟨0x200004, [⟨0,7,32768⟩], false, [⟨16,11,.ro⟩,⟨7,9,.ro⟩,⟨0,7,.ro⟩], 0x0⟩,  -- SLC.STATUS
    ⟨0x200008, [⟨0,7,32768⟩], false, [⟨0,20,.ro⟩], 0x0⟩,  -- SLC.RD_LAT_MAX
    ⟨0x20000c, [⟨0,7,32768⟩], false, [⟨0,20,.ro⟩], 0x0⟩,  -- SLC.WR_LAT_MAX
    ⟨0x200010, [⟨0,7,32768⟩], false, [⟨0,1,.sc⟩], 0x0⟩,  -- SLC.LAT_CTRL
    ⟨0x207ffc, [⟨0,7,32768⟩], false, [⟨31,1,.ro⟩,⟨0,16,.ro⟩], 0x0⟩ ]  -- SLC.SEAM

/-- Registers of the XLT block. -/
def regsXLT : List RegDesc :=
  [ ⟨0x160000, [], true, [⟨24,6,.rw⟩,⟨16,5,.rw⟩,⟨8,7,.rw⟩,⟨0,8,.rw⟩], 0x8104b14⟩,  -- XLT.CTRL
    ⟨0x160004, [], true, [⟨16,3,.rw⟩,⟨0,10,.rw⟩], 0x20258⟩,  -- XLT.CKPT_CTRL
    ⟨0x160010, [], false, [⟨25,7,.ro⟩,⟨24,1,.ro⟩,⟨12,12,.ro⟩,⟨0,12,.ro⟩], 0x0⟩,  -- XLT.PLOG_STATUS
    ⟨0x160018, [], false, [⟨0,30,.ro⟩], 0x0⟩,  -- XLT.PATCHES
    ⟨0x160020, [], false, [⟨0,32,.rw⟩], 0x0⟩,  -- XLT.DARN_REQ_LO
    ⟨0x160024, [], false, [⟨0,1,.rw⟩], 0x0⟩,  -- XLT.DARN_REQ_HI
    ⟨0x160028, [], false, [⟨16,16,.ro⟩,⟨7,9,.ro⟩,⟨6,1,.ro⟩,⟨5,1,.w1c⟩], 0x0⟩,  -- XLT.DARN_STATUS
    ⟨0x160030, [], false, [⟨0,32,.ro⟩], 0x0⟩,  -- XLT.DARN_DONE_LO
    ⟨0x160034, [], false, [⟨0,32,.ro⟩], 0x0⟩,  -- XLT.DARN_DONE_HI
    ⟨0x160038, [], false, [⟨0,32,.ro⟩], 0x0⟩,  -- XLT.SEQ_LO
    ⟨0x16003c, [], false, [⟨0,8,.ro⟩], 0x0⟩,  -- XLT.SEQ_HI
    ⟨0x160040, [], false, [⟨0,32,.ro⟩], 0x0⟩,  -- XLT.MCLK
    ⟨0x160048, [], false, [⟨31,1,.ro⟩,⟨30,1,.ro⟩,⟨10,16,.ro⟩,⟨0,10,.ro⟩], 0x0⟩,  -- XLT.CKPT_STATUS
    ⟨0x16004c, [], false, [⟨0,13,.ro⟩], 0x0⟩,  -- XLT.JRNL_STATUS
    ⟨0x160050, [], false, [⟨30,2,.ro⟩,⟨29,1,.ro⟩,⟨0,28,.ro⟩], 0x0⟩,  -- XLT.RECOVERY
    ⟨0x160054, [], false, [⟨16,16,.ro⟩,⟨4,12,.ro⟩,⟨0,4,.ro⟩], 0x0⟩,  -- XLT.REPAIR
    ⟨0x17fffc, [], false, [⟨31,1,.ro⟩,⟨0,16,.ro⟩], 0x0⟩ ]  -- XLT.SEAM

/-- Registers of the MED block. -/
def regsMED : List RegDesc :=
  [ ⟨0x180000, [], true, [⟨24,8,.rw⟩,⟨16,8,.rw⟩,⟨12,4,.rw⟩,⟨8,4,.rw⟩,⟨0,1,.rw⟩], 0x280a7401⟩,  -- MED.CTRL
    ⟨0x180004, [], true, [⟨28,4,.rw⟩,⟨16,5,.rw⟩,⟨8,5,.rw⟩,⟨0,8,.rw⟩], 0x50181632⟩,  -- MED.REFRESH_CTRL
    ⟨0x180008, [], true, [⟨16,16,.rw⟩,⟨0,7,.rw⟩], 0x1e0014⟩,  -- MED.REBUILD_CTRL
    ⟨0x180010, [], false, [⟨16,16,.ro⟩,⟨0,16,.ro⟩], 0x0⟩,  -- MED.CAPACITY
    ⟨0x180018, [], false, [⟨0,32,.ro⟩], 0x0⟩,  -- MED.SEALED_LO
    ⟨0x18001c, [], false, [⟨0,32,.ro⟩], 0x0⟩,  -- MED.SEALED_HI
    ⟨0x180020, [], false, [⟨0,23,.ro⟩], 0x0⟩,  -- MED.SEAL_TABLE
    ⟨0x180024, [], false, [⟨31,1,.ro⟩,⟨30,1,.ro⟩,⟨25,5,.ro⟩,⟨0,10,.ro⟩], 0x0⟩,  -- MED.REBUILD_STATUS
    ⟨0x180028, [], false, [⟨31,1,.ro⟩,⟨0,16,.ro⟩], 0x0⟩,  -- MED.ALLOC_STATUS
    ⟨0x180100, [⟨0,3,8⟩], false, [⟨29,3,.ro⟩,⟨28,1,.ro⟩,⟨27,1,.ro⟩,⟨26,1,.ro⟩,⟨25,1,.ro⟩,⟨22,3,.ro⟩,⟨0,20,.ro⟩], 0x0⟩,  -- MED.GROUP_STATUS
    ⟨0x180104, [⟨0,3,8⟩], false, [⟨0,20,.ro⟩], 0x0⟩,  -- MED.GROUP_TOTAL
    ⟨0x180200, [⟨0,31,4⟩], false, [⟨30,2,.ro⟩,⟨29,1,.ro⟩,⟨28,1,.ro⟩,⟨16,10,.ro⟩,⟨12,4,.ro⟩,⟨0,12,.ro⟩], 0x0⟩,  -- MED.CART_MEDIA
    ⟨0x19fffc, [], false, [⟨31,1,.ro⟩,⟨0,16,.ro⟩], 0x0⟩ ]  -- MED.SEAM

/-- Registers of the LIN block. -/
def regsLIN : List RegDesc :=
  [ ⟨0x140000, [], true, [⟨1,1,.rw⟩,⟨0,1,.rw⟩], 0x3⟩,  -- LIN.CTRL
    ⟨0x140004, [], true, [⟨0,16,.rw⟩], 0xa⟩,  -- LIN.AGE_CTRL
    ⟨0x140008, [], true, [⟨16,7,.rw⟩,⟨0,13,.rw⟩], 0x320400⟩,  -- LIN.BUDGET
    ⟨0x140010, [], false, [⟨31,1,.ro⟩,⟨30,1,.ro⟩,⟨29,1,.ro⟩,⟨8,9,.ro⟩], 0x80000000⟩,  -- LIN.STATUS
    ⟨0x140018, [], false, [⟨0,32,.ro⟩], 0x0⟩,  -- LIN.DIRTY_LO
    ⟨0x14001c, [], false, [⟨0,32,.ro⟩], 0x0⟩,  -- LIN.DIRTY_HI
    ⟨0x140020, [], false, [⟨6,26,.rw⟩], 0x0⟩,  -- LIN.OP_ADDR_LO
    ⟨0x140024, [], false, [⟨0,13,.rw⟩], 0x0⟩,  -- LIN.OP_ADDR_HI
    ⟨0x140028, [], false, [⟨25,4,.rw⟩,⟨0,25,.rw⟩], 0x0⟩,  -- LIN.OP_SETWAY
    ⟨0x14002c, [], false, [⟨3,1,.wo⟩,⟨0,3,.wo⟩], 0x0⟩,  -- LIN.OP_CMD
    ⟨0x140030, [], false, [⟨31,1,.ro⟩,⟨30,1,.w1c⟩,⟨24,3,.ro⟩,⟨0,4,.ro⟩], 0x0⟩,  -- LIN.OP_STATUS
    ⟨0x140034, [], false, [⟨16,16,.ro⟩,⟨15,1,.ro⟩,⟨14,1,.ro⟩,⟨13,1,.ro⟩,⟨12,1,.ro⟩,⟨11,1,.ro⟩,⟨9,2,.ro⟩,⟨8,1,.ro⟩], 0x0⟩,  -- LIN.WAY_STATE
    ⟨0x140040, [], false, [⟨16,16,.ro⟩,⟨0,16,.ro⟩], 0x0⟩,  -- LIN.ERR
    ⟨0x140044, [], false, [⟨16,16,.ro⟩,⟨0,16,.ro⟩], 0x0⟩,  -- LIN.TAG_ERR
    ⟨0x140048, [], false, [⟨31,1,.ro⟩,⟨30,1,.ro⟩,⟨25,4,.ro⟩,⟨0,25,.ro⟩], 0x0⟩,  -- LIN.TAG_ERR_LAST
    ⟨0x140100, [⟨0,7,4⟩], false, [⟨0,20,.ro⟩], 0x0⟩,  -- LIN.STAGING
    ⟨0x14fffc, [], false, [⟨31,1,.ro⟩,⟨0,16,.ro⟩], 0x0⟩ ]  -- LIN.SEAM

/-- Registers of the PCU block. -/
def regsPCU : List RegDesc :=
  [ ⟨0x150014, [], false, [⟨31,1,.ro⟩,⟨30,1,.w1c⟩,⟨24,3,.ro⟩,⟨0,4,.ro⟩], 0x0⟩,  -- PCU.OP_STATUS
    ⟨0x150000, [], true, [⟨0,1,.rw⟩], 0x1⟩,  -- PCU.CTRL
    ⟨0x150004, [], false, [⟨31,1,.ro⟩,⟨30,1,.ro⟩,⟨8,6,.ro⟩,⟨0,7,.ro⟩], 0x80000000⟩,  -- PCU.STATUS
    ⟨0x150010, [], false, [⟨4,6,.wo⟩,⟨0,3,.wo⟩], 0x0⟩,  -- PCU.OP_CMD
    ⟨0x150100, [⟨0,63,8⟩], false, [⟨0,32,.ro⟩], 0x0⟩,  -- PCU.ENTRY_LO
    ⟨0x150104, [⟨0,63,8⟩], false, [⟨31,1,.ro⟩,⟨30,1,.ro⟩,⟨29,1,.ro⟩,⟨27,2,.ro⟩,⟨26,1,.ro⟩,⟨19,7,.ro⟩,⟨0,1,.ro⟩], 0x0⟩,  -- PCU.ENTRY_HI
    ⟨0x15fffc, [], false, [⟨31,1,.ro⟩,⟨0,16,.ro⟩], 0x0⟩ ]  -- PCU.SEAM

/-- Registers of the COH block. -/
def regsCOH : List RegDesc :=
  [ ⟨0x1a0000, [], true, [⟨31,1,.rw⟩,⟨0,16,.rw⟩], 0x8000000a⟩,  -- COH.CTRL
    ⟨0x1a0004, [], false, [⟨31,1,.ro⟩,⟨0,16,.ro⟩], 0x0⟩,  -- COH.STATUS
    ⟨0x1a0008, [], false, [⟨0,25,.ro⟩], 0x0⟩,  -- COH.ENTRIES
    ⟨0x1a0010, [], false, [⟨0,32,.ro⟩], 0x0⟩,  -- COH.SNOOPS_LO
    ⟨0x1a0014, [], false, [⟨0,32,.ro⟩], 0x0⟩,  -- COH.SNOOPS_HI
    ⟨0x1a0018, [], false, [⟨0,32,.ro⟩], 0x0⟩,  -- COH.EVICT_LO
    ⟨0x1a001c, [], false, [⟨0,32,.ro⟩], 0x0⟩,  -- COH.EVICT_HI
    ⟨0x1a0020, [], false, [⟨6,26,.ro⟩], 0x0⟩,  -- COH.SNP_STALL_LO
    ⟨0x1a0024, [], false, [⟨31,1,.ro⟩,⟨16,4,.ro⟩,⟨0,13,.ro⟩], 0x0⟩,  -- COH.SNP_STALL_HI
    ⟨0x1a0028, [], false, [⟨16,16,.ro⟩,⟨0,16,.ro⟩], 0x0⟩,  -- COH.LOST
    ⟨0x1a0030, [], false, [⟨31,1,.sc⟩,⟨30,1,.rw⟩,⟨0,21,.rw⟩], 0x0⟩,  -- COH.OP
    ⟨0x1a0040, [], false, [⟨16,13,.ro⟩,⟨0,13,.ro⟩], 0x0⟩,  -- COH.EXTENTS
    ⟨0x1a0100, [⟨0,7,4⟩], false, [⟨16,9,.ro⟩,⟨0,9,.ro⟩], 0x0⟩,  -- COH.CONFLQ
    ⟨0x1a0200, [⟨0,15,4⟩], false, [⟨16,8,.ro⟩,⟨8,8,.ro⟩,⟨0,8,.ro⟩], 0x0⟩,  -- COH.LD_REGIONS
    ⟨0x1afffc, [], false, [⟨31,1,.ro⟩,⟨0,16,.ro⟩], 0x0⟩ ]  -- COH.SEAM

/-- Registers of the SCB block. -/
def regsSCB : List RegDesc :=
  [ ⟨0x1c0000, [], true, [⟨24,8,.rw⟩,⟨16,8,.rw⟩,⟨8,8,.rw⟩], 0xa401800⟩,  -- SCB.CTRL
    ⟨0x1c0004, [], false, [⟨0,1,.rw⟩], 0x0⟩,  -- SCB.FILL_CTRL
    ⟨0x1c0008, [], false, [⟨31,1,.ro⟩,⟨30,1,.ro⟩,⟨29,1,.ro⟩,⟨0,8,.ro⟩], 0x0⟩,  -- SCB.FILL_STATUS
    ⟨0x1c0010, [⟨0,1,4⟩], false, [⟨16,16,.ro⟩,⟨0,16,.ro⟩], 0x0⟩,  -- SCB.HBM_ERR
    ⟨0x1c0018, [], false, [⟨16,16,.ro⟩,⟨0,16,.ro⟩], 0x0⟩,  -- SCB.TAG_FAIL
    ⟨0x1c0020, [], false, [⟨6,26,.ro⟩], 0x0⟩,  -- SCB.TAG_FAIL_LAST_LO
    ⟨0x1c0024, [], false, [⟨31,1,.ro⟩,⟨27,4,.ro⟩,⟨24,1,.ro⟩,⟨20,4,.ro⟩,⟨0,13,.ro⟩], 0x0⟩,  -- SCB.TAG_FAIL_LAST_HI
    ⟨0x1c0100, [], false, [⟨31,1,.sc⟩,⟨30,1,.wo⟩,⟨24,3,.rw⟩,⟨0,12,.rw⟩], 0x1⟩,  -- SCB.INJ_CTRL
    ⟨0x1c0104, [], false, [⟨0,32,.rw⟩], 0x0⟩,  -- SCB.INJ_ADDR_LO
    ⟨0x1c0108, [], false, [⟨28,4,.rw⟩,⟨0,13,.rw⟩], 0x0⟩,  -- SCB.INJ_ADDR_HI
    ⟨0x1c010c, [], false, [⟨0,12,.ro⟩], 0x0⟩,  -- SCB.INJ_LEFT
    ⟨0x1c0140, [⟨0,22,4⟩], false, [⟨0,32,.rw⟩], 0x0⟩,  -- SCB.INJ_MASK
    ⟨0x1c0200, [], false, [⟨0,32,.rw⟩], 0x0⟩,  -- SCB.SCRUB_BASE_LO
    ⟨0x1c0204, [], false, [⟨0,32,.rw⟩], 0x0⟩,  -- SCB.SCRUB_BASE_HI
    ⟨0x1c0208, [], false, [⟨0,32,.rw⟩], 0x0⟩,  -- SCB.SCRUB_LEN_LO
    ⟨0x1c020c, [], false, [⟨0,32,.rw⟩], 0x0⟩,  -- SCB.SCRUB_LEN_HI
    ⟨0x1c0210, [], false, [⟨1,1,.rw⟩,⟨0,1,.sc⟩], 0x0⟩,  -- SCB.SCRUB_CMD
    ⟨0x1c0214, [], false, [⟨31,1,.ro⟩,⟨30,1,.w1c⟩], 0x0⟩,  -- SCB.SCRUB_STATUS
    ⟨0x1c0240, [⟨0,11,4⟩], false, [⟨0,32,.ro⟩], 0x0⟩,  -- SCB.SUM
    ⟨0x1cfffc, [], false, [⟨31,1,.ro⟩,⟨0,16,.ro⟩], 0x0⟩ ]  -- SCB.SEAM

/-- Registers of the DBG block. -/
def regsDBG : List RegDesc :=
  [ ⟨0x300000, [], false, [⟨6,26,.rw⟩], 0x0⟩,  -- DBG.MEM_ADDR_LO
    ⟨0x300004, [], false, [⟨0,13,.rw⟩], 0x0⟩,  -- DBG.MEM_ADDR_HI
    ⟨0x300008, [], false, [⟨0,2,.wo⟩], 0x0⟩,  -- DBG.MEM_CMD
    ⟨0x30000c, [], false, [⟨31,1,.ro⟩,⟨30,1,.w1c⟩,⟨16,6,.ro⟩,⟨0,4,.ro⟩], 0x0⟩,  -- DBG.MEM_STATUS
    ⟨0x300040, [⟨0,15,4⟩], false, [⟨0,32,.rw⟩], 0x0⟩,  -- DBG.MEM_DATA
    ⟨0x300100, [], false, [⟨16,13,.rw⟩,⟨12,4,.rw⟩,⟨0,12,.rw⟩], 0x0⟩,  -- DBG.RAW_ADDR_LO
    ⟨0x300104, [], false, [⟨16,5,.rw⟩,⟨8,7,.rw⟩,⟨0,4,.rw⟩], 0x0⟩,  -- DBG.RAW_ADDR_HI
    ⟨0x300108, [], false, [⟨1,1,.rw⟩,⟨0,1,.sc⟩], 0x0⟩,  -- DBG.RAW_CMD
    ⟨0x30010c, [], false, [⟨31,1,.ro⟩,⟨30,1,.w1c⟩,⟨29,1,.ro⟩,⟨16,4,.ro⟩,⟨0,4,.ro⟩], 0x0⟩,  -- DBG.RAW_STATUS
    ⟨0x300140, [⟨0,22,4⟩], false, [⟨0,32,.ro⟩], 0x0⟩,  -- DBG.RAW_DATA
    ⟨0x300200, [⟨0,17,4⟩], false, [⟨0,32,.ro⟩], 0x0⟩,  -- DBG.RAW_DEC
    ⟨0x3ffffc, [], false, [⟨31,1,.ro⟩,⟨0,16,.ro⟩], 0x0⟩ ]  -- DBG.SEAM

/-- Registers of the CIP block. -/
def regsCIP : List RegDesc :=
  [ ⟨0x1b0000, [], false, [⟨31,1,.ro⟩,⟨30,1,.ro⟩,⟨29,1,.ro⟩,⟨16,3,.ro⟩,⟨0,16,.ro⟩], 0x0⟩,  -- CIP.STATUS
    ⟨0x1b0820, [⟨0,37,64⟩], true, [⟨9,1,.rw⟩,⟨8,1,.rw⟩,⟨7,1,.rw⟩,⟨6,1,.rw⟩,⟨5,1,.rw⟩,⟨4,1,.rw⟩,⟨3,1,.rw⟩,⟨2,1,.rw⟩,⟨1,1,.rw⟩,⟨0,1,.rw⟩], 0x0⟩,  -- CIP.RIGHTS_FLAGS
    ⟨0x1b0004, [], false, [⟨8,1,.wo⟩,⟨0,8,.rw⟩], 0x0⟩,  -- CIP.KEY_CMD
    ⟨0x1b0008, [], false, [⟨31,1,.ro⟩,⟨30,1,.w1c⟩,⟨0,4,.ro⟩], 0x0⟩,  -- CIP.KEY_CMD_STATUS
    ⟨0x1b000c, [], false, [⟨0,16,.ro⟩], 0x0⟩,  -- CIP.KEY_FAULTS
    ⟨0x1b0100, [⟨0,255,4⟩], false, [⟨29,3,.ro⟩,⟨27,2,.ro⟩,⟨26,1,.ro⟩,⟨25,1,.ro⟩,⟨8,8,.ro⟩,⟨0,8,.ro⟩], 0x0⟩,  -- CIP.KEY_STATE
    ⟨0x1b0500, [⟨0,127,4⟩], false, [⟨31,1,.ro⟩,⟨30,1,.ro⟩,⟨0,8,.ro⟩], 0x0⟩,  -- CIP.BINDING
    ⟨0x1b1200, [⟨0,37,4⟩], false, [⟨16,16,.ro⟩,⟨0,16,.ro⟩], 0x0⟩,  -- CIP.DENIED
    ⟨0x1b1300, [⟨0,31,4⟩], false, [⟨31,1,.ro⟩,⟨30,1,.ro⟩,⟨0,24,.ro⟩], 0x0⟩,  -- CIP.LINK_STATUS
    ⟨0x1b0800, [⟨0,37,64⟩,⟨0,7,4⟩], true, [⟨0,32,.rw⟩], 0x0⟩,  -- CIP.RIGHTS_KEYS
    ⟨0x1bfffc, [], false, [⟨31,1,.ro⟩,⟨0,16,.ro⟩], 0x0⟩ ]  -- CIP.SEAM

/-- Registers of the VLK block. -/
def regsVLK : List RegDesc :=
  [ ⟨0x100000, [⟨0,31,4096⟩], true, [⟨3,1,.rw⟩,⟨2,1,.rw⟩,⟨1,1,.rw⟩,⟨0,1,.rw⟩], 0xd⟩,  -- VLK.CTRL
    ⟨0x100004, [⟨0,31,4096⟩], false, [⟨29,3,.ro⟩,⟨27,2,.ro⟩,⟨26,1,.ro⟩,⟨16,4,.ro⟩,⟨0,10,.ro⟩], 0x0⟩,  -- VLK.STATUS
    ⟨0x100008, [⟨0,31,4096⟩], false, [⟨1,1,.sc⟩,⟨0,1,.sc⟩], 0x0⟩,  -- VLK.CMD
    ⟨0x100010, [⟨0,31,4096⟩], false, [⟨0,32,.ro⟩], 0x0⟩,  -- VLK.FEC_CORR
    ⟨0x100014, [⟨0,31,4096⟩], false, [⟨0,32,.ro⟩], 0x0⟩,  -- VLK.CRC_FAIL
    ⟨0x100018, [⟨0,31,4096⟩], false, [⟨0,32,.ro⟩], 0x0⟩,  -- VLK.REPLAY
    ⟨0x100020, [⟨0,31,4096⟩], false, [⟨28,4,.ro⟩,⟨27,1,.ro⟩,⟨0,16,.ro⟩], 0x0⟩,  -- VLK.VIOL
    ⟨0x100ffc, [⟨0,31,4096⟩], false, [⟨31,1,.ro⟩,⟨0,16,.ro⟩], 0x0⟩ ]  -- VLK.SEAM

/-- Registers of the CAR block. -/
def regsCAR : List RegDesc :=
  [ ⟨0x120000, [⟨0,31,2048⟩], false, [⟨31,1,.ro⟩,⟨30,1,.ro⟩,⟨29,1,.ro⟩,⟨28,1,.ro⟩,⟨27,1,.ro⟩,⟨24,3,.ro⟩,⟨20,4,.ro⟩,⟨0,16,.ro⟩], 0x0⟩,  -- CAR.STATUS
    ⟨0x120004, [⟨0,31,2048⟩], false, [⟨0,3,.wo⟩], 0x0⟩,  -- CAR.CMD
    ⟨0x120008, [⟨0,31,2048⟩], false, [⟨31,1,.ro⟩,⟨30,1,.w1c⟩,⟨0,4,.ro⟩], 0x0⟩,  -- CAR.CMD_STATUS
    ⟨0x120010, [⟨0,31,2048⟩], false, [⟨0,22,.ro⟩], 0x0⟩,  -- CAR.WEAR_MIN
    ⟨0x120014, [⟨0,31,2048⟩], false, [⟨0,22,.ro⟩], 0x0⟩,  -- CAR.WEAR_MAX
    ⟨0x120018, [⟨0,31,2048⟩], false, [⟨0,22,.ro⟩], 0x0⟩,  -- CAR.WEAR_MEAN
    ⟨0x120100, [⟨0,31,2048⟩,⟨0,31,4⟩], false, [⟨0,32,.ro⟩], 0x0⟩,  -- CAR.IDENT
    ⟨0x120200, [⟨0,31,2048⟩,⟨0,15,4⟩], false, [⟨0,32,.ro⟩], 0x0⟩,  -- CAR.HEALTH
    ⟨0x1207fc, [⟨0,31,2048⟩], false, [⟨31,1,.ro⟩,⟨0,16,.ro⟩], 0x0⟩ ]  -- CAR.SEAM

/-- Registers of the GRP block. -/
def regsGRP : List RegDesc :=
  [ ⟨0x70000, [], true, [⟨1,1,.rw⟩,⟨0,1,.rw⟩], 0x3⟩,  -- GRP.CTRL
    ⟨0x70004, [], false, [⟨31,1,.ro⟩,⟨30,1,.ro⟩,⟨29,1,.ro⟩,⟨24,3,.ro⟩,⟨20,4,.ro⟩,⟨16,4,.ro⟩,⟨8,8,.ro⟩,⟨0,8,.ro⟩], 0x0⟩,  -- GRP.STATUS
    ⟨0x70008, [], false, [⟨0,32,.ro⟩], 0x0⟩,  -- GRP.SKEW
    ⟨0x7000c, [], false, [⟨16,16,.ro⟩,⟨0,16,.ro⟩], 0x0⟩,  -- GRP.COUNTS
    ⟨0x70010, [], false, [⟨0,32,.ro⟩], 0x0⟩,  -- GRP.FENCED_REQ_LO
    ⟨0x70014, [], false, [⟨0,32,.ro⟩], 0x0⟩,  -- GRP.FENCED_REQ_HI
    ⟨0x70018, [], false, [⟨0,32,.ro⟩], 0x0⟩,  -- GRP.GROUP_ID_LO
    ⟨0x7001c, [], false, [⟨0,32,.ro⟩], 0x0⟩,  -- GRP.GROUP_ID_HI
    ⟨0x70040, [⟨0,3,4⟩], false, [⟨0,32,.ro⟩], 0x0⟩,  -- GRP.FPRINT
    ⟨0x70100, [⟨0,7,8⟩], false, [⟨29,3,.ro⟩,⟨28,1,.ro⟩,⟨27,1,.ro⟩,⟨26,1,.ro⟩,⟨25,1,.ro⟩,⟨16,8,.ro⟩,⟨8,8,.ro⟩], 0x0⟩,  -- GRP.MEMBER
    ⟨0x70104, [⟨0,7,8⟩], false, [⟨0,32,.ro⟩], 0x0⟩,  -- GRP.MEMBER_VER
    ⟨0x7fffc, [], false, [⟨31,1,.ro⟩,⟨0,16,.ro⟩], 0x0⟩ ]  -- GRP.SEAM

/-- Registers of the THM block. -/
def regsTHM : List RegDesc :=
  [ ⟨0x20000, [], true, [⟨4,4,.rw⟩,⟨0,3,.rw⟩], 0x33⟩,  -- THM.CTRL
    ⟨0x20004, [], false, [⟨31,1,.ro⟩,⟨30,1,.ro⟩,⟨29,1,.ro⟩,⟨28,1,.ro⟩,⟨27,1,.ro⟩,⟨16,6,.ro⟩,⟨0,16,.ro⟩], 0x0⟩,  -- THM.STATUS
    ⟨0x20010, [⟨0,2,8⟩], true, [⟨24,8,.rw⟩,⟨16,8,.rw⟩,⟨8,8,.rw⟩], 0x0⟩,  -- THM.LIMITS_A
    ⟨0x20014, [⟨0,2,8⟩], true, [⟨8,8,.rw⟩,⟨0,8,.rw⟩], 0x0⟩,  -- THM.LIMITS_B
    ⟨0x20100, [⟨0,41,4⟩], false, [⟨29,3,.ro⟩,⟨28,1,.ro⟩,⟨27,1,.ro⟩,⟨24,3,.ro⟩,⟨0,16,.ro⟩], 0x0⟩,  -- THM.ZONE
    ⟨0x20200, [⟨0,39,4⟩], false, [⟨31,1,.ro⟩,⟨0,16,.ro⟩], 0x0⟩,  -- THM.SENSOR
    ⟨0x2fffc, [], false, [⟨31,1,.ro⟩,⟨0,16,.ro⟩], 0x0⟩ ]  -- THM.SEAM

/-- Registers of the KPS block. -/
def regsKPS : List RegDesc :=
  [ ⟨0x30000, [], false, [⟨31,1,.ro⟩,⟨30,1,.ro⟩,⟨0,16,.ro⟩], 0x0⟩,  -- KPS.STATUS
    ⟨0x30004, [], false, [⟨11,1,.ro⟩,⟨8,3,.ro⟩,⟨7,1,.ro⟩,⟨6,1,.ro⟩,⟨0,5,.ro⟩], 0x0⟩,  -- KPS.HEM_CHECK
    ⟨0x30008, [], false, [⟨31,1,.wo⟩,⟨0,10,.wo⟩], 0x0⟩,  -- KPS.HEM_CMD
    ⟨0x3000c, [], false, [⟨31,1,.ro⟩,⟨30,1,.w1c⟩,⟨29,1,.ro⟩,⟨10,10,.ro⟩,⟨0,4,.ro⟩], 0x0⟩,  -- KPS.HEM_STATUS
    ⟨0x30010, [], false, [⟨0,10,.rw⟩], 0x0⟩,  -- KPS.HEM_PAGE
    ⟨0x30100, [⟨0,63,4⟩], false, [⟨0,32,.rw⟩], 0x0⟩,  -- KPS.HEM_BUF
    ⟨0x30200, [⟨0,63,4⟩], false, [⟨0,32,.ro⟩], 0x0⟩,  -- KPS.HEM_DATA
    ⟨0x30400, [⟨0,7,8⟩], false, [⟨0,32,.ro⟩], 0x0⟩,  -- KPS.CNT_LO
    ⟨0x30404, [⟨0,7,8⟩], false, [⟨0,32,.ro⟩], 0x0⟩,  -- KPS.CNT_HI
    ⟨0x34000, [⟨0,8191,4⟩], false, [⟨0,32,.rw⟩], 0x0⟩,  -- KPS.TACK
    ⟨0x3fffc, [], false, [⟨31,1,.ro⟩,⟨0,16,.ro⟩], 0x0⟩ ]  -- KPS.SEAM

/-- Registers of the HMP block. -/
def regsHMP : List RegDesc :=
  [ ⟨0x40000, [], false, [⟨31,1,.ro⟩,⟨30,1,.ro⟩,⟨16,9,.ro⟩,⟨0,5,.ro⟩], 0x0⟩,  -- HMP.STATUS
    ⟨0x40008, [], false, [⟨0,32,.ro⟩], 0x0⟩,  -- HMP.NEXT_SEQ_LO
    ⟨0x4000c, [], false, [⟨0,16,.ro⟩], 0x0⟩,  -- HMP.NEXT_SEQ_HI
    ⟨0x40010, [], false, [⟨0,32,.ro⟩], 0x0⟩,  -- HMP.HORIZON_LO
    ⟨0x40014, [], false, [⟨0,16,.ro⟩], 0x0⟩,  -- HMP.HORIZON_HI
    ⟨0x40018, [], false, [⟨16,16,.ro⟩,⟨0,16,.ro⟩], 0x0⟩,  -- HMP.COUNTS
    ⟨0x40020, [], false, [⟨31,1,.sc⟩,⟨29,2,.rw⟩,⟨0,14,.rw⟩], 0x0⟩,  -- HMP.RD_CTRL
    ⟨0x40024, [], false, [⟨31,1,.w1c⟩,⟨30,1,.ro⟩,⟨29,1,.ro⟩,⟨27,2,.ro⟩], 0x0⟩,  -- HMP.RD_STATUS
    ⟨0x40040, [⟨0,15,4⟩], false, [⟨0,32,.ro⟩], 0x0⟩,  -- HMP.RD_DATA
    ⟨0x4fffc, [], false, [⟨31,1,.ro⟩,⟨0,16,.ro⟩], 0x0⟩ ]  -- HMP.SEAM

/-- Registers of the INT block. -/
def regsINT : List RegDesc :=
  [ ⟨0x50000, [], false, [⟨0,10,.wo⟩], 0x0⟩,  -- INT.DOORBELL
    ⟨0x50004, [], false, [⟨0,32,.ro⟩], 0x0⟩,  -- INT.SUMMARY
    ⟨0x50008, [], false, [⟨0,1,.rw⟩], 0x1⟩,  -- INT.MGMT_CTRL
    ⟨0x50010, [], false, [⟨0,32,.w1c⟩], 0x0⟩,  -- INT.LATCH_MISC
    ⟨0x50014, [], false, [⟨0,32,.w1c⟩], 0x0⟩,  -- INT.LATCH_PRSNT
    ⟨0x50018, [], false, [⟨0,32,.w1c⟩], 0x0⟩,  -- INT.LATCH_ATTN
    ⟨0x50080, [⟨0,31,4⟩], false, [⟨0,32,.w1c⟩], 0x0⟩,  -- INT.CAUSE
    ⟨0x51000, [⟨0,16,256⟩], false, [⟨0,32,.rw⟩], 0x0⟩,  -- INT.EN_SUM
    ⟨0x51004, [⟨0,16,256⟩], false, [⟨31,1,.ro⟩,⟨0,10,.ro⟩], 0x0⟩,  -- INT.CURRENT
    ⟨0x51008, [⟨0,16,256⟩], false, [⟨0,10,.wo⟩], 0x0⟩,  -- INT.ACK
    ⟨0x5100c, [⟨0,16,256⟩], false, [⟨16,16,.ro⟩,⟨0,16,.ro⟩], 0x0⟩,  -- INT.TGT_STATUS
    ⟨0x51080, [⟨0,16,256⟩,⟨0,31,4⟩], false, [⟨0,32,.rw⟩], 0x0⟩,  -- INT.EN_CAUSE
    ⟨0x5fffc, [], false, [⟨31,1,.ro⟩,⟨0,16,.ro⟩], 0x0⟩ ]  -- INT.SEAM

/-- Registers of the PMC block. -/
def regsPMC : List RegDesc :=
  [ ⟨0x60000, [], true, [⟨31,1,.rw⟩,⟨30,1,.rw⟩,⟨0,16,.rw⟩], 0x80000000⟩,  -- PMC.CTRL
    ⟨0x60004, [], false, [⟨1,1,.sc⟩,⟨0,1,.sc⟩], 0x0⟩,  -- PMC.CMD
    ⟨0x60008, [], false, [⟨31,1,.ro⟩,⟨30,1,.ro⟩,⟨0,16,.ro⟩], 0x0⟩,  -- PMC.READ_STATUS
    ⟨0x60010, [], false, [⟨0,32,.ro⟩], 0x0⟩,  -- PMC.READ_TIME_LO
    ⟨0x60014, [], false, [⟨0,32,.ro⟩], 0x0⟩,  -- PMC.READ_TIME_HI
    ⟨0x60020, [], true, [⟨31,1,.rw⟩,⟨29,2,.rw⟩,⟨28,1,.rw⟩,⟨24,4,.rw⟩,⟨0,16,.rw⟩], 0x20000400⟩,  -- PMC.SAMPLE_CTRL
    ⟨0x60024, [], true, [⟨0,13,.rw⟩], 0x0⟩,  -- PMC.SAMPLE_SPOOL
    ⟨0x60028, [], false, [⟨31,1,.ro⟩,⟨16,13,.ro⟩,⟨0,12,.ro⟩], 0x0⟩,  -- PMC.SAMPLE_STATUS
    ⟨0x6002c, [], false, [⟨0,13,.wo⟩], 0x0⟩,  -- PMC.SAMPLE_POP
    ⟨0x60030, [], false, [⟨0,32,.ro⟩], 0x0⟩,  -- PMC.SAMPLE_LOST
    ⟨0x60100, [⟨0,15,4⟩], false, [⟨0,32,.w1c⟩], 0x0⟩,  -- PMC.OVF
    ⟨0x61000, [⟨0,63,32⟩,⟨0,7,4⟩], true, [⟨31,1,.rw⟩,⟨27,4,.rw⟩,⟨0,12,.rw⟩], 0x0⟩,  -- PMC.CFG
    ⟨0x62000, [⟨0,63,64⟩,⟨0,7,8⟩], false, [⟨0,32,.ro⟩], 0x0⟩,  -- PMC.CNT_LO
    ⟨0x62004, [⟨0,63,64⟩,⟨0,7,8⟩], false, [⟨0,16,.ro⟩], 0x0⟩,  -- PMC.CNT_HI
    ⟨0x68000, [⟨0,1023,4⟩], false, [⟨0,32,.ro⟩], 0x0⟩,  -- PMC.RDBUF0
    ⟨0x69000, [⟨0,1023,4⟩], false, [⟨0,32,.ro⟩], 0x0⟩,  -- PMC.RDBUF1
    ⟨0x6fffc, [], false, [⟨31,1,.ro⟩,⟨0,16,.ro⟩], 0x0⟩ ]  -- PMC.SEAM

/-- Every register of the window. -/
def regMap : List RegDesc :=
  regsPWS ++ regsTOP ++ regsHPT ++ regsSPL ++ regsSLC ++ regsXLT ++ regsMED ++ regsLIN ++ regsPCU ++ regsCOH ++ regsSCB ++ regsDBG ++ regsCIP ++ regsVLK ++ regsCAR ++ regsGRP ++ regsTHM ++ regsKPS ++ regsHMP ++ regsINT ++ regsPMC

/-- Whether an offset is one of a descriptor's words: walks the index ranges. -/
def RegDim.covers : List RegDim → Nat → Bool
  | [], d => d == 0
  | [⟨lo, hi, st⟩], d => d % st == 0 && d / st ≤ hi - lo
  | ⟨lo, hi, st⟩ :: t, d => (List.range (hi - lo + 1)).any fun i => st * i ≤ d && RegDim.covers t (d - st * i)

/-- The descriptor of an offset; none where the window has no register there (R58). -/
def findReg (off : Nat) : Option RegDesc :=
  regMap.find? fun d => d.base ≤ off && RegDim.covers d.dims (off - d.base)

/-- Table 16-6 and Table 16-1: on-delay, off-delay, power-good window and nominal voltage of rail r under the safe
plan. Rails that the safe plan leaves unused carry times of 0, and CORE, whose nominal is ignored, 850 (log 15). -/
def safeRail : Nat → Nat × Nat × Nat × Nat
  | 0 => (1500, 1300, 2000, 850)  | 1 => (1000, 1200, 2000, 800) | 2 => (3000, 800, 2000, 750)
  | 3 => (3200, 700, 2000, 900)   | 4 => (3400, 600, 2000, 1200) | 5 => (0, 0, 0, 1100)
  | 6 => (0, 0, 0, 400)           | 7 => (0, 0, 0, 1800)         | 8 => (0, 1500, 2000, 1800)
  | 9 => (2000, 1000, 2000, 1200) | 10 => (500, 1400, 2000, 2500) | 15 => (4000, 100, 2000, 3300)
  | _ => (0, 0, 0, 12000)

/-- Table 10-15: the reset flags of rights set m. -/
def rightsFlagsReset (m : Nat) : Nat :=
  if m < 16 then 0x007 else if m < 32 then 0x003 else if m = 32 then 0x024 else if m < 37 then 0x2B4 else 0x045

/-- Table 16-8: the default thresholds of class c, as the two words of THM.LIMITS. -/
def limitsReset (c : Nat) (b : Bool) : Nat :=
  match c, b with
  | 0, false => 95 * 2 ^ 24 + 5 * 2 ^ 16 + 0xFB * 2 ^ 8
  | 0, true  => 110 * 2 ^ 8 + 100
  | 1, false => 85 * 2 ^ 24 + 5 * 2 ^ 16 + 0xFB * 2 ^ 8
  | 1, true  => 100 * 2 ^ 8 + 90
  | _, false => 75 * 2 ^ 24 + 5 * 2 ^ 16
  | _, true  => 90 * 2 ^ 8

/-- The reset word of the register at an offset: its table's reset column, or the table or rule that column cites
(Table 10-15, Table 16-1, Table 16-6, Table 16-8, Table 18-11, Table 18-15). -/
def regReset (off : Nat) : Word :=
  if 0x1B0800 ≤ off && off < 0x1B0800 + 0x40 * 38 then
    let m := (off - 0x1B0800) / 0x40
    if (off - 0x1B0800) % 0x40 = 0x20 then BitVec.ofNat 32 (rightsFlagsReset m)
    else if (off - 0x1B0800) % 0x40 < 0x20 && m < 32 then 0xFFFFFFFF else 0
  else if 0x10100 ≤ off && off < 0x10200 then
    let r := (off - 0x10100) / 16
    let (on, offUs, win, nom) := safeRail r
    match (off - 0x10100) % 16 with
    | 0 => BitVec.ofNat 32 (offUs * 65536 + on)
    | 4 => BitVec.ofNat 32 (win * 65536 + nom)
    | 8 => BitVec.ofNat 32 (256 * 65536)
    | _ => 0
  else if 0x20010 ≤ off && off < 0x20028 then
    BitVec.ofNat 32 (limitsReset ((off - 0x20010) / 8) ((off - 0x20010) % 8 == 4))
  else if 0x51000 ≤ off && off < 0x52100 then
    let t := (off - 0x51000) / 0x100
    let o := (off - 0x51000) % 0x100
    if o = 0 then (if t < 16 then 1 else 0xFFFFFFFF)
    else if 0x80 ≤ o then
      let g := (o - 0x80) / 4
      if t < 16 then (if g = 0 then 3 else 0)
      else if g ≤ 21 || g = 26 || g = 27 then 0xFFFFFFFF else 0
    else 0
  else match findReg off with
    | some d => BitVec.ofNat 32 d.reset
    | none => 0

/-! The named fields. -/

def PWS.PACE_CTRL_DEG_ADMIT : Fld := ⟨0x18000, 27, 3⟩
def PWS.PACE_CTRL_VMAX : Fld := ⟨0x18000, 22, 5⟩
def PWS.PACE_CTRL_VMIN : Fld := ⟨0x18000, 17, 5⟩
def PWS.PACE_CTRL_ENABLE : Fld := ⟨0x18000, 16, 1⟩
def PWS.PACE_CTRL_TARGET : Fld := ⟨0x18000, 0, 16⟩
def PWS.PACE_STATUS_DEGRADED : Fld := ⟨0x18004, 31, 1⟩
def PWS.PACE_STATUS_COLLAPSE : Fld := ⟨0x18004, 30, 1⟩
def PWS.PACE_STATUS_AT_CEILING : Fld := ⟨0x18004, 29, 1⟩
def PWS.PACE_STATUS_AVS_HOLD : Fld := ⟨0x18004, 28, 1⟩
def PWS.PACE_STATUS_EXCL_COUNT : Fld := ⟨0x18004, 21, 7⟩
def PWS.PACE_STATUS_SLOWEST : Fld := ⟨0x18004, 15, 6⟩
def PWS.PACE_STATUS_PACE : Fld := ⟨0x18004, 0, 15⟩
def PWS.PACE_VOUT_MV : Fld := ⟨0x18008, 0, 10⟩
def PWS.PACE_MON_EXCLUDED (n : Nat) : Fld := ⟨0x18100 + 4 * n, 31, 1⟩
def PWS.PACE_MON_PACE (n : Nat) : Fld := ⟨0x18100 + 4 * n, 0, 16⟩
def TOP.ID_DEVICE : Fld := ⟨0x0, 16, 16⟩
def TOP.ID_STEPPING : Fld := ⟨0x0, 8, 8⟩
def TOP.ID_ORDER : Fld := ⟨0x0, 0, 8⟩
def TOP.STATE_MEM_ACTIVE : Fld := ⟨0x4, 4, 1⟩
def TOP.STATE_STATE : Fld := ⟨0x4, 0, 4⟩
def TOP.GCTRL_SEL : Fld := ⟨0x8, 16, 16⟩
def TOP.GCTRL_JTAG_DBG_EN : Fld := ⟨0x8, 2, 1⟩
def TOP.GCTRL_THERM_EN : Fld := ⟨0x8, 1, 1⟩
def TOP.GCTRL_ALERT_EN : Fld := ⟨0x8, 0, 1⟩
def TOP.PWRREQ_ON : Fld := ⟨0xc, 1, 1⟩
def TOP.PWRREQ_OFF : Fld := ⟨0xc, 0, 1⟩
def TOP.HALT_HALTED : Fld := ⟨0x10, 31, 1⟩
def TOP.HALT_FLUSH_DONE : Fld := ⟨0x10, 30, 1⟩
def TOP.HALT_SLOT : Fld := ⟨0x10, 0, 5⟩
def TOP.TIME_LO_TIME : Fld := ⟨0x20, 0, 32⟩
def TOP.TIME_HI_TIME : Fld := ⟨0x24, 0, 32⟩
def TOP.PATTERN_STATUS_ACTIVE : Fld := ⟨0x40, 30, 2⟩
def TOP.PATTERN_STATUS_AUTH : Fld := ⟨0x40, 29, 1⟩
def TOP.PATTERN_STATUS_KEYHASH_FUSED : Fld := ⟨0x40, 28, 1⟩
def TOP.PATTERN_STATUS_LIVE : Fld := ⟨0x40, 27, 1⟩
def TOP.PATTERN_STATUS_A_RESULT : Fld := ⟨0x40, 20, 4⟩
def TOP.PATTERN_STATUS_B_RESULT : Fld := ⟨0x40, 16, 4⟩
def TOP.PATTERN_VER_VERSION : Fld := ⟨0x44, 0, 32⟩
def TOP.PATTERN_VER_ALT_VERSION : Fld := ⟨0x48, 0, 32⟩
def TOP.PTU_CMD_CMD : Fld := ⟨0x80, 0, 3⟩
def TOP.PTU_ADDR_SLOT : Fld := ⟨0x84, 23, 1⟩
def TOP.PTU_ADDR_PAGE : Fld := ⟨0x84, 8, 15⟩
def TOP.PTU_STATUS_BUSY : Fld := ⟨0x88, 31, 1⟩
def TOP.PTU_STATUS_DONE : Fld := ⟨0x88, 30, 1⟩
def TOP.PTU_STATUS_CMD_LAST : Fld := ⟨0x88, 16, 3⟩
def TOP.PTU_STATUS_RESULT : Fld := ⟨0x88, 0, 4⟩
def TOP.PTU_BUF_DATA (n : Nat) : Fld := ⟨0x100 + 4 * n, 0, 32⟩
def HPT.ADMIT_WR_LIMIT (n : Nat) : Fld := ⟨0x80400 + 16384 * n, 16, 12⟩
def HPT.ADMIT_RD_LIMIT (n : Nat) : Fld := ⟨0x80400 + 16384 * n, 0, 12⟩
def HPT.ADMIT_STATUS_DEVLOAD (n : Nat) : Fld := ⟨0x80404 + 16384 * n, 30, 2⟩
def HPT.ADMIT_STATUS_STALL_BUDGET (n : Nat) : Fld := ⟨0x80404 + 16384 * n, 29, 1⟩
def HPT.ADMIT_STATUS_WR_OUT (n : Nat) : Fld := ⟨0x80404 + 16384 * n, 16, 12⟩
def HPT.ADMIT_STATUS_RD_OUT (n : Nat) : Fld := ⟨0x80404 + 16384 * n, 0, 12⟩
def HPT.ADMIT_EFF_WR_EFF (n : Nat) : Fld := ⟨0x80408 + 16384 * n, 16, 12⟩
def HPT.ADMIT_EFF_RD_EFF (n : Nat) : Fld := ⟨0x80408 + 16384 * n, 0, 12⟩
def SPL.ADMIT_LINE_LIMIT : Fld := ⟨0x1d0040, 0, 12⟩
def SPL.ADMIT_STATUS_EFF : Fld := ⟨0x1d0044, 16, 12⟩
def SPL.ADMIT_STATUS_OUT : Fld := ⟨0x1d0044, 0, 12⟩
def SLC.CTRL_SPEC_EN (s : Nat) : Fld := ⟨0x200000 + 32768 * s, 0, 1⟩
def SLC.STATUS_RD_TRK (s : Nat) : Fld := ⟨0x200004 + 32768 * s, 16, 11⟩
def SLC.STATUS_CONFLQ (s : Nat) : Fld := ⟨0x200004 + 32768 * s, 7, 9⟩
def SLC.STATUS_WBUF (s : Nat) : Fld := ⟨0x200004 + 32768 * s, 0, 7⟩
def SLC.RD_LAT_MAX_NS (s : Nat) : Fld := ⟨0x200008 + 32768 * s, 0, 20⟩
def SLC.WR_LAT_MAX_NS (s : Nat) : Fld := ⟨0x20000c + 32768 * s, 0, 20⟩
def SLC.LAT_CTRL_CLEAR (s : Nat) : Fld := ⟨0x200010 + 32768 * s, 0, 1⟩
def XLT.CTRL_FULL_THRESH : Fld := ⟨0x160000, 24, 6⟩
def XLT.CTRL_SWATCH_LIMIT : Fld := ⟨0x160000, 16, 5⟩
def XLT.CTRL_FILL_WM : Fld := ⟨0x160000, 8, 7⟩
def XLT.CTRL_SEAL_US : Fld := ⟨0x160000, 0, 8⟩
def XLT.CKPT_CTRL_JRNL_LIMIT : Fld := ⟨0x160004, 16, 3⟩
def XLT.CKPT_CTRL_PASS_MAX : Fld := ⟨0x160004, 0, 10⟩
def XLT.PLOG_STATUS_FILL : Fld := ⟨0x160010, 25, 7⟩
def XLT.PLOG_STATUS_FORCED : Fld := ⟨0x160010, 24, 1⟩
def XLT.PLOG_STATUS_USED : Fld := ⟨0x160010, 12, 12⟩
def XLT.PLOG_STATUS_TOTAL : Fld := ⟨0x160010, 0, 12⟩
def XLT.PATCHES_LIVE : Fld := ⟨0x160018, 0, 30⟩
def XLT.DARN_REQ_LO_SWATCH : Fld := ⟨0x160020, 0, 32⟩
def XLT.DARN_REQ_HI_SWATCH32 : Fld := ⟨0x160024, 0, 1⟩
def XLT.DARN_STATUS_QUEUED : Fld := ⟨0x160028, 16, 16⟩
def XLT.DARN_STATUS_ACTIVE : Fld := ⟨0x160028, 7, 9⟩
def XLT.DARN_STATUS_REQ_HELD : Fld := ⟨0x160028, 6, 1⟩
def XLT.DARN_STATUS_REQ_LOST : Fld := ⟨0x160028, 5, 1⟩
def XLT.DARN_DONE_LO_COUNT : Fld := ⟨0x160030, 0, 32⟩
def XLT.DARN_DONE_HI_COUNT : Fld := ⟨0x160034, 0, 32⟩
def XLT.SEQ_LO_SEQ : Fld := ⟨0x160038, 0, 32⟩
def XLT.SEQ_HI_SEQ : Fld := ⟨0x16003c, 0, 8⟩
def XLT.MCLK_SECONDS : Fld := ⟨0x160040, 0, 32⟩
def XLT.CKPT_STATUS_COPY : Fld := ⟨0x160048, 31, 1⟩
def XLT.CKPT_STATUS_LATE : Fld := ⟨0x160048, 30, 1⟩
def XLT.CKPT_STATUS_LAST_PASS : Fld := ⟨0x160048, 10, 16⟩
def XLT.CKPT_STATUS_REGION : Fld := ⟨0x160048, 0, 10⟩
def XLT.JRNL_STATUS_RETAINED : Fld := ⟨0x16004c, 0, 13⟩
def XLT.RECOVERY_MODE : Fld := ⟨0x160050, 30, 2⟩
def XLT.RECOVERY_NO_PAIR : Fld := ⟨0x160050, 29, 1⟩
def XLT.RECOVERY_DURATION : Fld := ⟨0x160050, 0, 28⟩
def XLT.REPAIR_REPAIRS : Fld := ⟨0x160054, 16, 16⟩
def XLT.REPAIR_TRANSIENT : Fld := ⟨0x160054, 4, 12⟩
def XLT.REPAIR_ACTIVE : Fld := ⟨0x160054, 0, 4⟩
def MED.CTRL_COLD_SPREAD : Fld := ⟨0x180000, 24, 8⟩
def MED.CTRL_COLD_RATE : Fld := ⟨0x180000, 16, 8⟩
def MED.CTRL_GC_START : Fld := ⟨0x180000, 12, 4⟩
def MED.CTRL_LOW : Fld := ⟨0x180000, 8, 4⟩
def MED.CTRL_SIP_EN : Fld := ⟨0x180000, 0, 1⟩
def MED.REFRESH_CTRL_CORR_AVG : Fld := ⟨0x180004, 28, 4⟩
def MED.REFRESH_CTRL_HORIZON : Fld := ⟨0x180004, 16, 5⟩
def MED.REFRESH_CTRL_DISTURB : Fld := ⟨0x180004, 8, 5⟩
def MED.REFRESH_CTRL_RATE : Fld := ⟨0x180004, 0, 8⟩
def MED.REBUILD_CTRL_SIP_WAIT : Fld := ⟨0x180008, 16, 16⟩
def MED.REBUILD_CTRL_RATE : Fld := ⟨0x180008, 0, 7⟩
def MED.CAPACITY_PLANNABLE : Fld := ⟨0x180010, 16, 16⟩
def MED.CAPACITY_MAPPED : Fld := ⟨0x180010, 0, 16⟩
def MED.SEALED_LO_COUNT : Fld := ⟨0x180018, 0, 32⟩
def MED.SEALED_HI_COUNT : Fld := ⟨0x18001c, 0, 32⟩
def MED.SEAL_TABLE_ENTRIES : Fld := ⟨0x180020, 0, 23⟩
def MED.REBUILD_STATUS_ACTIVE : Fld := ⟨0x180024, 31, 1⟩
def MED.REBUILD_STATUS_SIP : Fld := ⟨0x180024, 30, 1⟩
def MED.REBUILD_STATUS_SLOT : Fld := ⟨0x180024, 25, 5⟩
def MED.REBUILD_STATUS_PERMILLE : Fld := ⟨0x180024, 0, 10⟩
def MED.ALLOC_STATUS_APPROX : Fld := ⟨0x180028, 31, 1⟩
def MED.ALLOC_STATUS_TREE_REPAIRS : Fld := ⟨0x180028, 0, 16⟩
def MED.GROUP_STATUS_STATE (g : Nat) : Fld := ⟨0x180100 + 8 * g, 29, 3⟩
def MED.GROUP_STATUS_SEALED (g : Nat) : Fld := ⟨0x180100 + 8 * g, 28, 1⟩
def MED.GROUP_STATUS_BELOW_LOW (g : Nat) : Fld := ⟨0x180100 + 8 * g, 27, 1⟩
def MED.GROUP_STATUS_GC_ACTIVE (g : Nat) : Fld := ⟨0x180100 + 8 * g, 26, 1⟩
def MED.GROUP_STATUS_SEVEN (g : Nat) : Fld := ⟨0x180100 + 8 * g, 25, 1⟩
def MED.GROUP_STATUS_MISSING (g : Nat) : Fld := ⟨0x180100 + 8 * g, 22, 3⟩
def MED.GROUP_STATUS_FREE (g : Nat) : Fld := ⟨0x180100 + 8 * g, 0, 20⟩
def MED.GROUP_TOTAL_TOTAL (g : Nat) : Fld := ⟨0x180104 + 8 * g, 0, 20⟩
def MED.CART_MEDIA_CLASS (n : Nat) : Fld := ⟨0x180200 + 4 * n, 30, 2⟩
def MED.CART_MEDIA_EXCLUDED (n : Nat) : Fld := ⟨0x180200 + 4 * n, 29, 1⟩
def MED.CART_MEDIA_SPARES_OUT (n : Nat) : Fld := ⟨0x180200 + 4 * n, 28, 1⟩
def MED.CART_MEDIA_GAUGE (n : Nat) : Fld := ⟨0x180200 + 4 * n, 16, 10⟩
def MED.CART_MEDIA_FAILED_DIES (n : Nat) : Fld := ⟨0x180200 + 4 * n, 12, 4⟩
def MED.CART_MEDIA_SPARES_LEFT (n : Nat) : Fld := ⟨0x180200 + 4 * n, 0, 12⟩
def LIN.CTRL_STREAM_DET : Fld := ⟨0x140000, 1, 1⟩
def LIN.CTRL_ENABLE : Fld := ⟨0x140000, 0, 1⟩
def LIN.AGE_CTRL_TICK : Fld := ⟨0x140004, 0, 16⟩
def LIN.BUDGET_CLEAN_WM : Fld := ⟨0x140008, 16, 7⟩
def LIN.BUDGET_MIB : Fld := ⟨0x140008, 0, 13⟩
def LIN.STATUS_ENABLED : Fld := ⟨0x140010, 31, 1⟩
def LIN.STATUS_DISABLING : Fld := ⟨0x140010, 30, 1⟩
def LIN.STATUS_CLEANING : Fld := ⟨0x140010, 29, 1⟩
def LIN.STATUS_LOCK_RANGES : Fld := ⟨0x140010, 8, 9⟩
def LIN.DIRTY_LO_BYTES : Fld := ⟨0x140018, 0, 32⟩
def LIN.DIRTY_HI_BYTES : Fld := ⟨0x14001c, 0, 32⟩
def LIN.OP_ADDR_LO_DPA : Fld := ⟨0x140020, 6, 26⟩
def LIN.OP_ADDR_HI_DPA : Fld := ⟨0x140024, 0, 13⟩
def LIN.OP_SETWAY_WAY : Fld := ⟨0x140028, 25, 4⟩
def LIN.OP_SETWAY_SET : Fld := ⟨0x140028, 0, 25⟩
def LIN.OP_CMD_MODE : Fld := ⟨0x14002c, 3, 1⟩
def LIN.OP_CMD_OP : Fld := ⟨0x14002c, 0, 3⟩
def LIN.OP_STATUS_BUSY : Fld := ⟨0x140030, 31, 1⟩
def LIN.OP_STATUS_DONE : Fld := ⟨0x140030, 30, 1⟩
def LIN.OP_STATUS_OP_LAST : Fld := ⟨0x140030, 24, 3⟩
def LIN.OP_STATUS_RESULT : Fld := ⟨0x140030, 0, 4⟩
def PCU.OP_STATUS_BUSY : Fld := ⟨0x150014, 31, 1⟩
def PCU.OP_STATUS_DONE : Fld := ⟨0x150014, 30, 1⟩
def PCU.OP_STATUS_OP_LAST : Fld := ⟨0x150014, 24, 3⟩
def PCU.OP_STATUS_RESULT : Fld := ⟨0x150014, 0, 4⟩
def LIN.WAY_STATE_TAG : Fld := ⟨0x140034, 16, 16⟩
def LIN.WAY_STATE_VALID : Fld := ⟨0x140034, 15, 1⟩
def LIN.WAY_STATE_DIRTY : Fld := ⟨0x140034, 14, 1⟩
def LIN.WAY_STATE_POISON : Fld := ⟨0x140034, 13, 1⟩
def LIN.WAY_STATE_LOCK : Fld := ⟨0x140034, 12, 1⟩
def LIN.WAY_STATE_REF : Fld := ⟨0x140034, 11, 1⟩
def LIN.WAY_STATE_AGE : Fld := ⟨0x140034, 9, 2⟩
def LIN.WAY_STATE_STAGED : Fld := ⟨0x140034, 8, 1⟩
def LIN.ERR_CLEAN_REFETCH : Fld := ⟨0x140040, 16, 16⟩
def LIN.ERR_DIRTY_LOST : Fld := ⟨0x140040, 0, 16⟩
def LIN.TAG_ERR_RECOVERED : Fld := ⟨0x140044, 16, 16⟩
def LIN.TAG_ERR_UNATTRIBUTED : Fld := ⟨0x140044, 0, 16⟩
def LIN.TAG_ERR_LAST_VALID : Fld := ⟨0x140048, 31, 1⟩
def LIN.TAG_ERR_LAST_PCU : Fld := ⟨0x140048, 30, 1⟩
def LIN.TAG_ERR_LAST_WAY : Fld := ⟨0x140048, 25, 4⟩
def LIN.TAG_ERR_LAST_SET : Fld := ⟨0x140048, 0, 25⟩
def LIN.STAGING_LINES (s : Nat) : Fld := ⟨0x140100 + 4 * s, 0, 20⟩
def PCU.CTRL_ENABLE : Fld := ⟨0x150000, 0, 1⟩
def PCU.STATUS_ENABLED : Fld := ⟨0x150004, 31, 1⟩
def PCU.STATUS_DISABLING : Fld := ⟨0x150004, 30, 1⟩
def PCU.STATUS_LOCKED : Fld := ⟨0x150004, 8, 6⟩
def PCU.STATUS_VALID : Fld := ⟨0x150004, 0, 7⟩
def PCU.OP_CMD_ENTRY : Fld := ⟨0x150010, 4, 6⟩
def PCU.OP_CMD_OP : Fld := ⟨0x150010, 0, 3⟩
def PCU.ENTRY_LO_SWATCH (n : Nat) : Fld := ⟨0x150100 + 8 * n, 0, 32⟩
def PCU.ENTRY_HI_VALID (n : Nat) : Fld := ⟨0x150104 + 8 * n, 31, 1⟩
def PCU.ENTRY_HI_LOCK (n : Nat) : Fld := ⟨0x150104 + 8 * n, 30, 1⟩
def PCU.ENTRY_HI_REF (n : Nat) : Fld := ⟨0x150104 + 8 * n, 29, 1⟩
def PCU.ENTRY_HI_AGE (n : Nat) : Fld := ⟨0x150104 + 8 * n, 27, 2⟩
def PCU.ENTRY_HI_FILLING (n : Nat) : Fld := ⟨0x150104 + 8 * n, 26, 1⟩
def PCU.ENTRY_HI_DIRTY (n : Nat) : Fld := ⟨0x150104 + 8 * n, 19, 7⟩
def PCU.ENTRY_HI_SWATCH32 (n : Nat) : Fld := ⟨0x150104 + 8 * n, 0, 1⟩
def COH.CTRL_LOST_POISON : Fld := ⟨0x1a0000, 31, 1⟩
def COH.CTRL_SNP_TIMEOUT : Fld := ⟨0x1a0000, 0, 16⟩
def COH.STATUS_SWEEP : Fld := ⟨0x1a0004, 31, 1⟩
def COH.STATUS_SUSPECT : Fld := ⟨0x1a0004, 0, 16⟩
def COH.ENTRIES_VALID : Fld := ⟨0x1a0008, 0, 25⟩
def COH.SNOOPS_LO_COUNT : Fld := ⟨0x1a0010, 0, 32⟩
def COH.SNOOPS_HI_COUNT : Fld := ⟨0x1a0014, 0, 32⟩
def COH.EVICT_LO_COUNT : Fld := ⟨0x1a0018, 0, 32⟩
def COH.EVICT_HI_COUNT : Fld := ⟨0x1a001c, 0, 32⟩
def COH.SNP_STALL_LO_DPA : Fld := ⟨0x1a0020, 6, 26⟩
def COH.SNP_STALL_HI_VALID : Fld := ⟨0x1a0024, 31, 1⟩
def COH.SNP_STALL_HI_LD : Fld := ⟨0x1a0024, 16, 4⟩
def COH.SNP_STALL_HI_DPA : Fld := ⟨0x1a0024, 0, 13⟩
def COH.LOST_LINES : Fld := ⟨0x1a0028, 16, 16⟩
def COH.LOST_LOSSES : Fld := ⟨0x1a0028, 0, 16⟩
def COH.OP_GO : Fld := ⟨0x1a0030, 31, 1⟩
def COH.OP_ALL : Fld := ⟨0x1a0030, 30, 1⟩
def COH.OP_SET : Fld := ⟨0x1a0030, 0, 21⟩
def COH.EXTENTS_RELEASING : Fld := ⟨0x1a0040, 16, 13⟩
def COH.EXTENTS_USED : Fld := ⟨0x1a0040, 0, 13⟩
def COH.CONFLQ_HWM (s : Nat) : Fld := ⟨0x1a0100 + 4 * s, 16, 9⟩
def COH.CONFLQ_DEPTH (s : Nat) : Fld := ⟨0x1a0100 + 4 * s, 0, 9⟩
def COH.LD_REGIONS_DECODED (n : Nat) : Fld := ⟨0x1a0200 + 4 * n, 16, 8⟩
def COH.LD_REGIONS_DB (n : Nat) : Fld := ⟨0x1a0200 + 4 * n, 8, 8⟩
def COH.LD_REGIONS_DCD (n : Nat) : Fld := ⟨0x1a0200 + 4 * n, 0, 8⟩
def TOP.FLUSH_CTRL_HOLDUP_US : Fld := ⟨0x200, 16, 16⟩
def TOP.FLUSH_CTRL_WARN_US : Fld := ⟨0x200, 0, 12⟩
def TOP.FLUSH_STATUS_ACTIVE : Fld := ⟨0x204, 31, 1⟩
def TOP.FLUSH_STATUS_KIND : Fld := ⟨0x204, 28, 3⟩
def TOP.FLUSH_STATUS_OVER_HOLDUP : Fld := ⟨0x204, 27, 1⟩
def TOP.FLUSH_STATUS_CLEAN_START : Fld := ⟨0x204, 26, 1⟩
def TOP.FLUSH_STATUS_TRIGGERS : Fld := ⟨0x204, 16, 8⟩
def TOP.FLUSH_STATUS_CARTS : Fld := ⟨0x204, 0, 6⟩
def TOP.FLUSH_EST_GPF_US : Fld := ⟨0x208, 16, 16⟩
def TOP.FLUSH_EST_US : Fld := ⟨0x208, 0, 16⟩
def TOP.FLUSH_LAST_KIND : Fld := ⟨0x20c, 29, 3⟩
def TOP.FLUSH_LAST_US : Fld := ⟨0x20c, 0, 24⟩
def TOP.DIRTY_SHUTDOWN_COUNT : Fld := ⟨0x210, 0, 32⟩
def TOP.AT_RISK_LINES : Fld := ⟨0x214, 0, 32⟩
def SCB.CTRL_SCRUB_RATE : Fld := ⟨0x1c0000, 24, 8⟩
def SCB.CTRL_CE_WM : Fld := ⟨0x1c0000, 16, 8⟩
def SCB.CTRL_PATROL_H : Fld := ⟨0x1c0000, 8, 8⟩
def SCB.FILL_CTRL_TEST : Fld := ⟨0x1c0004, 0, 1⟩
def SCB.FILL_STATUS_DONE : Fld := ⟨0x1c0008, 31, 1⟩
def SCB.FILL_STATUS_TESTED : Fld := ⟨0x1c0008, 30, 1⟩
def SCB.FILL_STATUS_FAILED : Fld := ⟨0x1c0008, 29, 1⟩
def SCB.FILL_STATUS_REPAIRS : Fld := ⟨0x1c0008, 0, 8⟩
def SCB.HBM_ERR_CORRECTED (st : Nat) : Fld := ⟨0x1c0010 + 4 * st, 16, 16⟩
def SCB.HBM_ERR_UNCORR (st : Nat) : Fld := ⟨0x1c0010 + 4 * st, 0, 16⟩
def SCB.TAG_FAIL_EGRESS : Fld := ⟨0x1c0018, 16, 16⟩
def SCB.TAG_FAIL_MERGE : Fld := ⟨0x1c0018, 0, 16⟩
def SCB.TAG_FAIL_LAST_LO_DPA : Fld := ⟨0x1c0020, 6, 26⟩
def SCB.TAG_FAIL_LAST_HI_VALID : Fld := ⟨0x1c0024, 31, 1⟩
def SCB.TAG_FAIL_LAST_HI_PATH : Fld := ⟨0x1c0024, 27, 4⟩
def SCB.TAG_FAIL_LAST_HI_MERGE : Fld := ⟨0x1c0024, 24, 1⟩
def SCB.TAG_FAIL_LAST_HI_LD : Fld := ⟨0x1c0024, 20, 4⟩
def SCB.TAG_FAIL_LAST_HI_DPA : Fld := ⟨0x1c0024, 0, 13⟩
def SCB.INJ_CTRL_ARM : Fld := ⟨0x1c0100, 31, 1⟩
def SCB.INJ_CTRL_DISARM : Fld := ⟨0x1c0100, 30, 1⟩
def SCB.INJ_CTRL_POINT : Fld := ⟨0x1c0100, 24, 3⟩
def SCB.INJ_CTRL_COUNT : Fld := ⟨0x1c0100, 0, 12⟩
def SCB.INJ_ADDR_LO_TARGET : Fld := ⟨0x1c0104, 0, 32⟩
def SCB.INJ_ADDR_HI_REGION : Fld := ⟨0x1c0108, 28, 4⟩
def SCB.INJ_ADDR_HI_DPA : Fld := ⟨0x1c0108, 0, 13⟩
def SCB.INJ_LEFT_COUNT : Fld := ⟨0x1c010c, 0, 12⟩
def SCB.INJ_MASK_MASK (n : Nat) : Fld := ⟨0x1c0140 + 4 * n, 0, 32⟩
def SCB.SCRUB_BASE_LO_VALUE : Fld := ⟨0x1c0200, 0, 32⟩
def SCB.SCRUB_BASE_HI_VALUE : Fld := ⟨0x1c0204, 0, 32⟩
def SCB.SCRUB_LEN_LO_VALUE : Fld := ⟨0x1c0208, 0, 32⟩
def SCB.SCRUB_LEN_HI_VALUE : Fld := ⟨0x1c020c, 0, 32⟩
def SCB.SCRUB_CMD_MARK : Fld := ⟨0x1c0210, 1, 1⟩
def SCB.SCRUB_CMD_GO : Fld := ⟨0x1c0210, 0, 1⟩
def SCB.SCRUB_STATUS_BUSY : Fld := ⟨0x1c0214, 31, 1⟩
def SCB.SCRUB_STATUS_DONE : Fld := ⟨0x1c0214, 30, 1⟩
def SCB.SUM_BYTES (n : Nat) : Fld := ⟨0x1c0240 + 4 * n, 0, 32⟩
def DBG.MEM_ADDR_LO_DPA : Fld := ⟨0x300000, 6, 26⟩
def DBG.MEM_ADDR_HI_DPA : Fld := ⟨0x300004, 0, 13⟩
def DBG.MEM_CMD_OP : Fld := ⟨0x300008, 0, 2⟩
def DBG.MEM_STATUS_BUSY : Fld := ⟨0x30000c, 31, 1⟩
def DBG.MEM_STATUS_DONE : Fld := ⟨0x30000c, 30, 1⟩
def DBG.MEM_STATUS_SET : Fld := ⟨0x30000c, 16, 6⟩
def DBG.MEM_STATUS_RESULT : Fld := ⟨0x30000c, 0, 4⟩
def DBG.MEM_DATA_BYTES (n : Nat) : Fld := ⟨0x300040 + 4 * n, 0, 32⟩
def DBG.RAW_ADDR_LO_PAGE : Fld := ⟨0x300100, 16, 13⟩
def DBG.RAW_ADDR_LO_DIE : Fld := ⟨0x300100, 12, 4⟩
def DBG.RAW_ADDR_LO_BOLT : Fld := ⟨0x300100, 0, 12⟩
def DBG.RAW_ADDR_HI_SLOT : Fld := ⟨0x300104, 16, 5⟩
def DBG.RAW_ADDR_HI_LSLOT : Fld := ⟨0x300104, 8, 7⟩
def DBG.RAW_ADDR_HI_REFSET : Fld := ⟨0x300104, 0, 4⟩
def DBG.RAW_CMD_DECODE : Fld := ⟨0x300108, 1, 1⟩
def DBG.RAW_CMD_GO : Fld := ⟨0x300108, 0, 1⟩
def DBG.RAW_STATUS_BUSY : Fld := ⟨0x30010c, 31, 1⟩
def DBG.RAW_STATUS_DONE : Fld := ⟨0x30010c, 30, 1⟩
def DBG.RAW_STATUS_DEC_FAIL : Fld := ⟨0x30010c, 29, 1⟩
def DBG.RAW_STATUS_CORRECTED : Fld := ⟨0x30010c, 16, 4⟩
def DBG.RAW_STATUS_RESULT : Fld := ⟨0x30010c, 0, 4⟩
def DBG.RAW_DATA_BITS (n : Nat) : Fld := ⟨0x300140 + 4 * n, 0, 32⟩
def DBG.RAW_DEC_BITS (n : Nat) : Fld := ⟨0x300200 + 4 * n, 0, 32⟩
def CIP.STATUS_FAULT : Fld := ⟨0x1b0000, 31, 1⟩
def CIP.STATUS_LINK_DEFAULT : Fld := ⟨0x1b0000, 30, 1⟩
def CIP.STATUS_RETIRING : Fld := ⟨0x1b0000, 29, 1⟩
def CIP.STATUS_SESSIONS : Fld := ⟨0x1b0000, 16, 3⟩
def CIP.STATUS_MISMATCH : Fld := ⟨0x1b0000, 0, 16⟩
def CIP.RIGHTS_FLAGS_HALT_FLUSH (m : Nat) : Fld := ⟨0x1b0820 + 64 * m, 9, 1⟩
def CIP.RIGHTS_FLAGS_CLEAR_CHAIN (m : Nat) : Fld := ⟨0x1b0820 + 64 * m, 8, 1⟩
def CIP.RIGHTS_FLAGS_KEY_ADMIN (m : Nat) : Fld := ⟨0x1b0820 + 64 * m, 7, 1⟩
def CIP.RIGHTS_FLAGS_DEBUG (m : Nat) : Fld := ⟨0x1b0820 + 64 * m, 6, 1⟩
def CIP.RIGHTS_FLAGS_HEM_WRITE (m : Nat) : Fld := ⟨0x1b0820 + 64 * m, 5, 1⟩
def CIP.RIGHTS_FLAGS_HAMPER_CLEAR (m : Nat) : Fld := ⟨0x1b0820 + 64 * m, 4, 1⟩
def CIP.RIGHTS_FLAGS_RAW_MEDIA (m : Nat) : Fld := ⟨0x1b0820 + 64 * m, 3, 1⟩
def CIP.RIGHTS_FLAGS_REG_WR (m : Nat) : Fld := ⟨0x1b0820 + 64 * m, 2, 1⟩
def CIP.RIGHTS_FLAGS_MEM_WR (m : Nat) : Fld := ⟨0x1b0820 + 64 * m, 1, 1⟩
def CIP.RIGHTS_FLAGS_MEM_RD (m : Nat) : Fld := ⟨0x1b0820 + 64 * m, 0, 1⟩
def CIP.KEY_CMD_RETIRE : Fld := ⟨0x1b0004, 8, 1⟩
def CIP.KEY_CMD_SLOT : Fld := ⟨0x1b0004, 0, 8⟩
def CIP.KEY_CMD_STATUS_BUSY : Fld := ⟨0x1b0008, 31, 1⟩
def CIP.KEY_CMD_STATUS_DONE : Fld := ⟨0x1b0008, 30, 1⟩
def CIP.KEY_CMD_STATUS_RESULT : Fld := ⟨0x1b0008, 0, 4⟩
def CIP.KEY_FAULTS_STALE : Fld := ⟨0x1b000c, 0, 16⟩
def CIP.KEY_STATE_STATE (k : Nat) : Fld := ⟨0x1b0100 + 4 * k, 29, 3⟩
def CIP.KEY_STATE_USAGE (k : Nat) : Fld := ⟨0x1b0100 + 4 * k, 27, 2⟩
def CIP.KEY_STATE_PERSIST (k : Nat) : Fld := ⟨0x1b0100 + 4 * k, 26, 1⟩
def CIP.KEY_STATE_REQUIRED (k : Nat) : Fld := ⟨0x1b0100 + 4 * k, 25, 1⟩
def CIP.KEY_STATE_REGIONS (k : Nat) : Fld := ⟨0x1b0100 + 4 * k, 8, 8⟩
def CIP.KEY_STATE_EPOCH (k : Nat) : Fld := ⟨0x1b0100 + 4 * k, 0, 8⟩
def CIP.BINDING_VALID (r : Nat) : Fld := ⟨0x1b0500 + 4 * r, 31, 1⟩
def CIP.BINDING_ACTIVE (r : Nat) : Fld := ⟨0x1b0500 + 4 * r, 30, 1⟩
def CIP.BINDING_KEY_ID (r : Nat) : Fld := ⟨0x1b0500 + 4 * r, 0, 8⟩
def CIP.DENIED_MEM (m : Nat) : Fld := ⟨0x1b1200 + 4 * m, 16, 16⟩
def CIP.DENIED_REG (m : Nat) : Fld := ⟨0x1b1200 + 4 * m, 0, 16⟩
def CIP.LINK_STATUS_SESSION (n : Nat) : Fld := ⟨0x1b1300 + 4 * n, 31, 1⟩
def CIP.LINK_STATUS_FAILED (n : Nat) : Fld := ⟨0x1b1300 + 4 * n, 30, 1⟩
def CIP.LINK_STATUS_CHECKS (n : Nat) : Fld := ⟨0x1b1300 + 4 * n, 0, 24⟩
def HPT.LINK_CTRL_MAX_SPEED (n : Nat) : Fld := ⟨0x80000 + 16384 * n, 4, 3⟩
def HPT.LINK_CTRL_WIDTH (n : Nat) : Fld := ⟨0x80000 + 16384 * n, 2, 1⟩
def HPT.LINK_CTRL_ENABLE (n : Nat) : Fld := ⟨0x80000 + 16384 * n, 0, 1⟩
def HPT.LINK_STATUS_UP (n : Nat) : Fld := ⟨0x80004 + 16384 * n, 31, 1⟩
def HPT.LINK_STATUS_CXL (n : Nat) : Fld := ⟨0x80004 + 16384 * n, 30, 1⟩
def HPT.LINK_STATUS_MLD (n : Nat) : Fld := ⟨0x80004 + 16384 * n, 29, 1⟩
def HPT.LINK_STATUS_SPEED (n : Nat) : Fld := ⟨0x80004 + 16384 * n, 26, 3⟩
def HPT.LINK_STATUS_WIDTH (n : Nat) : Fld := ⟨0x80004 + 16384 * n, 22, 4⟩
def HPT.LINK_STATUS_FLIT256 (n : Nat) : Fld := ⟨0x80004 + 16384 * n, 21, 1⟩
def HPT.LINK_STATUS_LOPT (n : Nat) : Fld := ⟨0x80004 + 16384 * n, 20, 1⟩
def HPT.LINK_STATUS_IDE_MEM (n : Nat) : Fld := ⟨0x80004 + 16384 * n, 19, 1⟩
def HPT.LINK_STATUS_IDE_IO (n : Nat) : Fld := ⟨0x80004 + 16384 * n, 18, 1⟩
def HPT.LINK_STATUS_BOUND (n : Nat) : Fld := ⟨0x80004 + 16384 * n, 0, 16⟩
def HPT.LINK_CMD_RETRAIN (n : Nat) : Fld := ⟨0x80008 + 16384 * n, 0, 1⟩
def HPT.VIOL_CTRL_RATE (n : Nat) : Fld := ⟨0x80010 + 16384 * n, 0, 16⟩
def HPT.VIOL_LAST_LO_DPA (n : Nat) : Fld := ⟨0x80018 + 16384 * n, 6, 26⟩
def HPT.VIOL_LAST_HI_VALID (n : Nat) : Fld := ⟨0x8001c + 16384 * n, 31, 1⟩
def HPT.VIOL_LAST_HI_KIND (n : Nat) : Fld := ⟨0x8001c + 16384 * n, 27, 4⟩
def HPT.VIOL_LAST_HI_LD (n : Nat) : Fld := ⟨0x8001c + 16384 * n, 20, 4⟩
def HPT.VIOL_LAST_HI_DPA (n : Nat) : Fld := ⟨0x8001c + 16384 * n, 0, 13⟩
def HPT.VIOL_COUNT (n k : Nat) : Fld := ⟨0x80100 + 16384 * n + 4 * k, 0, 32⟩
def VLK.CTRL_PAIR_AUTO (n : Nat) : Fld := ⟨0x100000 + 4096 * n, 3, 1⟩
def VLK.CTRL_LANE_RETURN (n : Nat) : Fld := ⟨0x100000 + 4096 * n, 2, 1⟩
def VLK.CTRL_FORCE_X1 (n : Nat) : Fld := ⟨0x100000 + 4096 * n, 1, 1⟩
def VLK.CTRL_ENABLE (n : Nat) : Fld := ⟨0x100000 + 4096 * n, 0, 1⟩
def VLK.STATUS_STATE (n : Nat) : Fld := ⟨0x100004 + 4096 * n, 29, 3⟩
def VLK.STATUS_WIDTH (n : Nat) : Fld := ⟨0x100004 + 4096 * n, 27, 2⟩
def VLK.STATUS_LANE (n : Nat) : Fld := ⟨0x100004 + 4096 * n, 26, 1⟩
def VLK.STATUS_RETRAINS (n : Nat) : Fld := ⟨0x100004 + 4096 * n, 16, 4⟩
def VLK.STATUS_CREDITS (n : Nat) : Fld := ⟨0x100004 + 4096 * n, 0, 10⟩
def VLK.CMD_UNQUARANTINE (n : Nat) : Fld := ⟨0x100008 + 4096 * n, 1, 1⟩
def VLK.CMD_RETRAIN (n : Nat) : Fld := ⟨0x100008 + 4096 * n, 0, 1⟩
def VLK.FEC_CORR_COUNT (n : Nat) : Fld := ⟨0x100010 + 4096 * n, 0, 32⟩
def VLK.CRC_FAIL_COUNT (n : Nat) : Fld := ⟨0x100014 + 4096 * n, 0, 32⟩
def VLK.REPLAY_COUNT (n : Nat) : Fld := ⟨0x100018 + 4096 * n, 0, 32⟩
def VLK.VIOL_LAST (n : Nat) : Fld := ⟨0x100020 + 4096 * n, 28, 4⟩
def VLK.VIOL_BY_DEV (n : Nat) : Fld := ⟨0x100020 + 4096 * n, 27, 1⟩
def VLK.VIOL_COUNT (n : Nat) : Fld := ⟨0x100020 + 4096 * n, 0, 16⟩
def CAR.STATUS_PRESENT (n : Nat) : Fld := ⟨0x120000 + 2048 * n, 31, 1⟩
def CAR.STATUS_ATTN (n : Nat) : Fld := ⟨0x120000 + 2048 * n, 30, 1⟩
def CAR.STATUS_READY (n : Nat) : Fld := ⟨0x120000 + 2048 * n, 29, 1⟩
def CAR.STATUS_ATTN_REFUSED (n : Nat) : Fld := ⟨0x120000 + 2048 * n, 28, 1⟩
def CAR.STATUS_WIN (n : Nat) : Fld := ⟨0x120000 + 2048 * n, 27, 1⟩
def CAR.STATUS_INDICATOR (n : Nat) : Fld := ⟨0x120000 + 2048 * n, 24, 3⟩
def CAR.STATUS_ADOPT (n : Nat) : Fld := ⟨0x120000 + 2048 * n, 20, 4⟩
def CAR.STATUS_TEMP (n : Nat) : Fld := ⟨0x120000 + 2048 * n, 0, 16⟩
def CAR.CMD_CMD (n : Nat) : Fld := ⟨0x120004 + 2048 * n, 0, 3⟩
def CAR.CMD_STATUS_BUSY (n : Nat) : Fld := ⟨0x120008 + 2048 * n, 31, 1⟩
def CAR.CMD_STATUS_DONE (n : Nat) : Fld := ⟨0x120008 + 2048 * n, 30, 1⟩
def CAR.CMD_STATUS_RESULT (n : Nat) : Fld := ⟨0x120008 + 2048 * n, 0, 4⟩
def CAR.WEAR_MIN_RESETS (n : Nat) : Fld := ⟨0x120010 + 2048 * n, 0, 22⟩
def CAR.WEAR_MAX_RESETS (n : Nat) : Fld := ⟨0x120014 + 2048 * n, 0, 22⟩
def CAR.WEAR_MEAN_RESETS (n : Nat) : Fld := ⟨0x120018 + 2048 * n, 0, 22⟩
def CAR.IDENT_BYTES (n w : Nat) : Fld := ⟨0x120100 + 2048 * n + 4 * w, 0, 32⟩
def CAR.HEALTH_BYTES (n w : Nat) : Fld := ⟨0x120200 + 2048 * n + 4 * w, 0, 32⟩
def SPL.DOORBELL_SPOOL : Fld := ⟨0x1d0000, 17, 13⟩
def SPL.DOORBELL_INDEX : Fld := ⟨0x1d0000, 0, 17⟩
def SPL.CTX_SEL_SPOOL : Fld := ⟨0x1d0004, 0, 13⟩
def SPL.CTX_WORD (w : Nat) : Fld := ⟨0x1d0010 + 4 * w, 0, 32⟩
def SPL.REJECT_DOORBELL : Fld := ⟨0x1d0048, 16, 16⟩
def SPL.REJECT_CTX : Fld := ⟨0x1d0048, 0, 16⟩
def SPL.STATUS_RUNNING : Fld := ⟨0x1d004c, 16, 11⟩
def SPL.STATUS_ACTIVE : Fld := ⟨0x1d004c, 0, 14⟩
def SPL.CPL_PEND_PEND (w : Nat) : Fld := ⟨0x1d1000 + 4 * w, 0, 32⟩
def SPL.ERR_PEND_PEND (w : Nat) : Fld := ⟨0x1d1200 + 4 * w, 0, 32⟩
def TOP.START_STATUS_FAILED : Fld := ⟨0x300, 31, 1⟩
def TOP.START_STATUS_WAITING : Fld := ⟨0x300, 30, 1⟩
def TOP.START_STATUS_CLEAN : Fld := ⟨0x300, 29, 1⟩
def TOP.START_STATUS_STEP : Fld := ⟨0x300, 24, 4⟩
def TOP.START_STATUS_CAUSE : Fld := ⟨0x300, 16, 8⟩
def TOP.START_STATUS_ATTEMPTS : Fld := ⟨0x300, 8, 8⟩
def TOP.START_STATUS_RAIL_TRIES : Fld := ⟨0x300, 0, 4⟩
def TOP.START_STEPS_MS (k : Nat) : Fld := ⟨0x304 + 4 * (k - 1), 0, 32⟩
def TOP.START_TIME_MS : Fld := ⟨0x320, 0, 32⟩
def GRP.CTRL_TIME_FOLLOW : Fld := ⟨0x70000, 1, 1⟩
def GRP.CTRL_ENABLE : Fld := ⟨0x70000, 0, 1⟩
def GRP.STATUS_MEMBER : Fld := ⟨0x70004, 31, 1⟩
def GRP.STATUS_FENCED : Fld := ⟨0x70004, 30, 1⟩
def GRP.STATUS_REF : Fld := ⟨0x70004, 29, 1⟩
def GRP.STATUS_INDEX : Fld := ⟨0x70004, 24, 3⟩
def GRP.STATUS_SIZE : Fld := ⟨0x70004, 20, 4⟩
def GRP.STATUS_CAUSE : Fld := ⟨0x70004, 16, 4⟩
def GRP.STATUS_HEARD : Fld := ⟨0x70004, 8, 8⟩
def GRP.STATUS_SILENT : Fld := ⟨0x70004, 0, 8⟩
def GRP.SKEW_NS : Fld := ⟨0x70008, 0, 32⟩
def GRP.COUNTS_BAD : Fld := ⟨0x7000c, 16, 16⟩
def GRP.COUNTS_FENCES : Fld := ⟨0x7000c, 0, 16⟩
def GRP.FENCED_REQ_LO_COUNT : Fld := ⟨0x70010, 0, 32⟩
def GRP.FENCED_REQ_HI_COUNT : Fld := ⟨0x70014, 0, 32⟩
def GRP.GROUP_ID_LO_ID : Fld := ⟨0x70018, 0, 32⟩
def GRP.GROUP_ID_HI_ID : Fld := ⟨0x7001c, 0, 32⟩
def GRP.FPRINT_BYTES (w : Nat) : Fld := ⟨0x70040 + 4 * w, 0, 32⟩
def GRP.MEMBER_STATE (i : Nat) : Fld := ⟨0x70100 + 8 * i, 29, 3⟩
def GRP.MEMBER_PF (i : Nat) : Fld := ⟨0x70100 + 8 * i, 28, 1⟩
def GRP.MEMBER_FROM_GROUP (i : Nat) : Fld := ⟨0x70100 + 8 * i, 27, 1⟩
def GRP.MEMBER_FP_MATCH (i : Nat) : Fld := ⟨0x70100 + 8 * i, 26, 1⟩
def GRP.MEMBER_SILENT (i : Nat) : Fld := ⟨0x70100 + 8 * i, 25, 1⟩
def GRP.MEMBER_STEPPING (i : Nat) : Fld := ⟨0x70100 + 8 * i, 16, 8⟩
def GRP.MEMBER_HOPS (i : Nat) : Fld := ⟨0x70100 + 8 * i, 8, 8⟩
def GRP.MEMBER_VER_VERSION (i : Nat) : Fld := ⟨0x70104 + 8 * i, 0, 32⟩
def PWS.SEQ_CTRL_RETRY_GAP_MS : Fld := ⟨0x10000, 16, 16⟩
def PWS.SEQ_CTRL_FLOG_MODE : Fld := ⟨0x10000, 8, 1⟩
def PWS.SEQ_CTRL_RETRIES : Fld := ⟨0x10000, 0, 3⟩
def PWS.SEQ_TIME_MIN_OFF_MS : Fld := ⟨0x10004, 16, 16⟩
def PWS.SEQ_STATUS_STATE : Fld := ⟨0x10008, 29, 3⟩
def PWS.SEQ_STATUS_ON_HELD : Fld := ⟨0x10008, 28, 1⟩
def PWS.SEQ_STATUS_ATTEMPT : Fld := ⟨0x10008, 23, 4⟩
def PWS.SEQ_STATUS_EN : Fld := ⟨0x10008, 0, 16⟩
def PWS.PG_STATUS_PG : Fld := ⟨0x1000c, 0, 16⟩
def PWS.VSIN_CTRL_SCALE : Fld := ⟨0x10010, 16, 16⟩
def PWS.VSIN_CTRL_SAG_MV : Fld := ⟨0x10010, 0, 12⟩
def PWS.VSIN_RAIL_MV : Fld := ⟨0x10014, 16, 16⟩
def PWS.VSIN_PIN_MV : Fld := ⟨0x10014, 0, 12⟩
def PWS.FAULT_LAST_VALID : Fld := ⟨0x10018, 31, 1⟩
def PWS.FAULT_LAST_HELD : Fld := ⟨0x10018, 30, 1⟩
def PWS.FAULT_LAST_KIND : Fld := ⟨0x10018, 24, 4⟩
def PWS.FAULT_LAST_RAIL : Fld := ⟨0x10018, 20, 4⟩
def PWS.FAULT_LAST_ATTEMPT : Fld := ⟨0x10018, 16, 4⟩
def PWS.FAULT_LAST_MV : Fld := ⟨0x10018, 0, 16⟩
def PWS.FLOG_STATUS_NEXT_SEQ : Fld := ⟨0x1001c, 16, 16⟩
def PWS.FLOG_STATUS_HELD : Fld := ⟨0x1001c, 8, 8⟩
def PWS.FLOG_STATUS_NEXT : Fld := ⟨0x1001c, 0, 8⟩
def PWS.RAIL_USED_USED : Fld := ⟨0x10020, 0, 16⟩
def PWS.RAIL_TIME_OFF_US (r : Nat) : Fld := ⟨0x10100 + 16 * r, 16, 16⟩
def PWS.RAIL_TIME_ON_US (r : Nat) : Fld := ⟨0x10100 + 16 * r, 0, 16⟩
def PWS.RAIL_PG_PG_WIN_US (r : Nat) : Fld := ⟨0x10104 + 16 * r, 16, 16⟩
def PWS.RAIL_PG_NOM_MV (r : Nat) : Fld := ⟨0x10104 + 16 * r, 0, 16⟩
def PWS.RAIL_LIM_SCALE (r : Nat) : Fld := ⟨0x10108 + 16 * r, 16, 16⟩
def PWS.RAIL_LIM_FAULT (r : Nat) : Fld := ⟨0x10108 + 16 * r, 8, 8⟩
def PWS.RAIL_LIM_WARN (r : Nat) : Fld := ⟨0x10108 + 16 * r, 0, 8⟩
def PWS.RAIL_STAT_STATE (r : Nat) : Fld := ⟨0x1010c + 16 * r, 30, 2⟩
def PWS.RAIL_STAT_PG (r : Nat) : Fld := ⟨0x1010c + 16 * r, 29, 1⟩
def PWS.RAIL_STAT_EN (r : Nat) : Fld := ⟨0x1010c + 16 * r, 28, 1⟩
def PWS.RAIL_STAT_WARN (r : Nat) : Fld := ⟨0x1010c + 16 * r, 27, 1⟩
def PWS.RAIL_STAT_MV (r : Nat) : Fld := ⟨0x1010c + 16 * r, 0, 16⟩
def PWS.FLOG_BYTES (w : Nat) : Fld := ⟨0x10400 + 4 * w, 0, 32⟩
def THM.CTRL_HYST : Fld := ⟨0x20000, 4, 4⟩
def THM.CTRL_THR_ADMIT : Fld := ⟨0x20000, 0, 3⟩
def THM.STATUS_THROTTLE : Fld := ⟨0x20004, 31, 1⟩
def THM.STATUS_CRIT_LATCH : Fld := ⟨0x20004, 30, 1⟩
def THM.STATUS_TRIP_LATCH : Fld := ⟨0x20004, 29, 1⟩
def THM.STATUS_WARN : Fld := ⟨0x20004, 28, 1⟩
def THM.STATUS_LOW : Fld := ⟨0x20004, 27, 1⟩
def THM.STATUS_HOT_ZONE : Fld := ⟨0x20004, 16, 6⟩
def THM.STATUS_HOT_TEMP : Fld := ⟨0x20004, 0, 16⟩
def THM.LIMITS_A_HIGH_WARN (c : Nat) : Fld := ⟨0x20010 + 8 * c, 24, 8⟩
def THM.LIMITS_A_LOW_WARN (c : Nat) : Fld := ⟨0x20010 + 8 * c, 16, 8⟩
def THM.LIMITS_A_INHIBIT (c : Nat) : Fld := ⟨0x20010 + 8 * c, 8, 8⟩
def THM.LIMITS_B_CRITICAL (c : Nat) : Fld := ⟨0x20014 + 8 * c, 8, 8⟩
def THM.LIMITS_B_THROTTLE (c : Nat) : Fld := ⟨0x20014 + 8 * c, 0, 8⟩
def THM.ZONE_LEVEL (z : Nat) : Fld := ⟨0x20100 + 4 * z, 29, 3⟩
def THM.ZONE_SUBST (z : Nat) : Fld := ⟨0x20100 + 4 * z, 28, 1⟩
def THM.ZONE_UNKNOWN (z : Nat) : Fld := ⟨0x20100 + 4 * z, 27, 1⟩
def THM.ZONE_SUSPECT (z : Nat) : Fld := ⟨0x20100 + 4 * z, 24, 3⟩
def THM.ZONE_TEMP (z : Nat) : Fld := ⟨0x20100 + 4 * z, 0, 16⟩
def THM.SENSOR_SUSPECT (s : Nat) : Fld := ⟨0x20200 + 4 * s, 31, 1⟩
def THM.SENSOR_TEMP (s : Nat) : Fld := ⟨0x20200 + 4 * s, 0, 16⟩
def KPS.STATUS_KPV_UP : Fld := ⟨0x30000, 31, 1⟩
def KPS.STATUS_TEMP_OK : Fld := ⟨0x30000, 30, 1⟩
def KPS.STATUS_REFUSED : Fld := ⟨0x30000, 0, 16⟩
def KPS.HEM_CHECK_SHADOW : Fld := ⟨0x30004, 11, 1⟩
def KPS.HEM_CHECK_CERT : Fld := ⟨0x30004, 8, 3⟩
def KPS.HEM_CHECK_BIND_OLD : Fld := ⟨0x30004, 7, 1⟩
def KPS.HEM_CHECK_TRUST_BAD : Fld := ⟨0x30004, 6, 1⟩
def KPS.HEM_CHECK_CAL_BAD : Fld := ⟨0x30004, 0, 5⟩
def KPS.HEM_CMD_GO : Fld := ⟨0x30008, 31, 1⟩
def KPS.HEM_CMD_PAGE : Fld := ⟨0x30008, 0, 10⟩
def KPS.HEM_STATUS_BUSY : Fld := ⟨0x3000c, 31, 1⟩
def KPS.HEM_STATUS_DONE : Fld := ⟨0x3000c, 30, 1⟩
def KPS.HEM_STATUS_LOADING : Fld := ⟨0x3000c, 29, 1⟩
def KPS.HEM_STATUS_LOADED : Fld := ⟨0x3000c, 10, 10⟩
def KPS.HEM_STATUS_RESULT : Fld := ⟨0x3000c, 0, 4⟩
def KPS.HEM_PAGE_PAGE : Fld := ⟨0x30010, 0, 10⟩
def KPS.HEM_BUF_BYTES (n : Nat) : Fld := ⟨0x30100 + 4 * n, 0, 32⟩
def KPS.HEM_DATA_BYTES (n : Nat) : Fld := ⟨0x30200 + 4 * n, 0, 32⟩
def KPS.CNT_LO_COUNT (c : Nat) : Fld := ⟨0x30400 + 8 * c, 0, 32⟩
def KPS.CNT_HI_COUNT (c : Nat) : Fld := ⟨0x30404 + 8 * c, 0, 32⟩
def KPS.TACK_WORD (w : Nat) : Fld := ⟨0x34000 + 4 * w, 0, 32⟩
def HMP.STATUS_B_AVAIL : Fld := ⟨0x40000, 31, 1⟩
def HMP.STATUS_CLEARING : Fld := ⟨0x40000, 30, 1⟩
def HMP.STATUS_A_VALID : Fld := ⟨0x40000, 16, 9⟩
def HMP.STATUS_HELD : Fld := ⟨0x40000, 0, 5⟩
def HMP.NEXT_SEQ_LO_SEQ : Fld := ⟨0x40008, 0, 32⟩
def HMP.NEXT_SEQ_HI_SEQ : Fld := ⟨0x4000c, 0, 16⟩
def HMP.HORIZON_LO_SEQ : Fld := ⟨0x40010, 0, 32⟩
def HMP.HORIZON_HI_SEQ : Fld := ⟨0x40014, 0, 16⟩
def HMP.COUNTS_DROPPED : Fld := ⟨0x40018, 16, 16⟩
def HMP.COUNTS_AMBIGUOUS : Fld := ⟨0x40018, 0, 16⟩
def HMP.RD_CTRL_GO : Fld := ⟨0x40020, 31, 1⟩
def HMP.RD_CTRL_VIEW : Fld := ⟨0x40020, 29, 2⟩
def HMP.RD_CTRL_INDEX : Fld := ⟨0x40020, 0, 14⟩
def HMP.RD_STATUS_DONE : Fld := ⟨0x40024, 31, 1⟩
def HMP.RD_STATUS_FOUND : Fld := ⟨0x40024, 30, 1⟩
def HMP.RD_STATUS_AMBIG : Fld := ⟨0x40024, 29, 1⟩
def HMP.RD_STATUS_FROM : Fld := ⟨0x40024, 27, 2⟩
def HMP.RD_DATA_BYTES (n : Nat) : Fld := ⟨0x40040 + 4 * n, 0, 32⟩
def INT.DOORBELL_SOURCE : Fld := ⟨0x50000, 0, 10⟩
def INT.SUMMARY_GROUP : Fld := ⟨0x50004, 0, 32⟩
def INT.MGMT_CTRL_SMBALERT_EN : Fld := ⟨0x50008, 0, 1⟩
def INT.LATCH_MISC_FLAGS : Fld := ⟨0x50010, 0, 32⟩
def INT.LATCH_PRSNT_FLAGS : Fld := ⟨0x50014, 0, 32⟩
def INT.LATCH_ATTN_FLAGS : Fld := ⟨0x50018, 0, 32⟩
def INT.CAUSE_CAUSE (g : Nat) : Fld := ⟨0x50080 + 4 * g, 0, 32⟩
def INT.EN_SUM_EN (t : Nat) : Fld := ⟨0x51000 + 256 * t, 0, 32⟩
def INT.CURRENT_VALID (t : Nat) : Fld := ⟨0x51004 + 256 * t, 31, 1⟩
def INT.CURRENT_SOURCE (t : Nat) : Fld := ⟨0x51004 + 256 * t, 0, 10⟩
def INT.ACK_SOURCE (t : Nat) : Fld := ⟨0x51008 + 256 * t, 0, 10⟩
def INT.TGT_STATUS_PRESENTED (t : Nat) : Fld := ⟨0x5100c + 256 * t, 16, 16⟩
def INT.TGT_STATUS_ACK_MISS (t : Nat) : Fld := ⟨0x5100c + 256 * t, 0, 16⟩
def INT.EN_CAUSE_EN (t g : Nat) : Fld := ⟨0x51080 + 256 * t + 4 * g, 0, 32⟩
def PMC.CTRL_ENABLE : Fld := ⟨0x60000, 31, 1⟩
def PMC.CTRL_PASS_IRQ : Fld := ⟨0x60000, 30, 1⟩
def PMC.CTRL_PERIOD : Fld := ⟨0x60000, 0, 16⟩
def PMC.CMD_ZERO : Fld := ⟨0x60004, 1, 1⟩
def PMC.CMD_READ : Fld := ⟨0x60004, 0, 1⟩
def PMC.READ_STATUS_BUSY : Fld := ⟨0x60008, 31, 1⟩
def PMC.READ_STATUS_BUF : Fld := ⟨0x60008, 30, 1⟩
def PMC.READ_STATUS_PASSES : Fld := ⟨0x60008, 0, 16⟩
def PMC.READ_TIME_LO_TIME : Fld := ⟨0x60010, 0, 32⟩
def PMC.READ_TIME_HI_TIME : Fld := ⟨0x60014, 0, 32⟩
def PMC.SAMPLE_CTRL_EN : Fld := ⟨0x60020, 31, 1⟩
def PMC.SAMPLE_CTRL_SRC : Fld := ⟨0x60020, 29, 2⟩
def PMC.SAMPLE_CTRL_LD_FILT : Fld := ⟨0x60020, 28, 1⟩
def PMC.SAMPLE_CTRL_LD : Fld := ⟨0x60020, 24, 4⟩
def PMC.SAMPLE_CTRL_MEAN : Fld := ⟨0x60020, 0, 16⟩
def PMC.SAMPLE_SPOOL_SPOOL : Fld := ⟨0x60024, 0, 13⟩
def PMC.SAMPLE_STATUS_SPOOL_BAD : Fld := ⟨0x60028, 31, 1⟩
def PMC.SAMPLE_STATUS_COUNT : Fld := ⟨0x60028, 16, 13⟩
def PMC.SAMPLE_STATUS_HEAD : Fld := ⟨0x60028, 0, 12⟩
def PMC.SAMPLE_POP_COUNT : Fld := ⟨0x6002c, 0, 13⟩
def PMC.SAMPLE_LOST_LOST : Fld := ⟨0x60030, 0, 32⟩
def PMC.OVF_OVF (k : Nat) : Fld := ⟨0x60100 + 4 * k, 0, 32⟩
def PMC.CFG_LD_FILT (b c : Nat) : Fld := ⟨0x61000 + 32 * b + 4 * c, 31, 1⟩
def PMC.CFG_LD (b c : Nat) : Fld := ⟨0x61000 + 32 * b + 4 * c, 27, 4⟩
def PMC.CFG_EVENT (b c : Nat) : Fld := ⟨0x61000 + 32 * b + 4 * c, 0, 12⟩
def PMC.CNT_LO_COUNT (b c : Nat) : Fld := ⟨0x62000 + 64 * b + 8 * c, 0, 32⟩
def PMC.CNT_HI_COUNT (b c : Nat) : Fld := ⟨0x62004 + 64 * b + 8 * c, 0, 16⟩
def PMC.RDBUF0_BYTES (w : Nat) : Fld := ⟨0x68000 + 4 * w, 0, 32⟩
def PMC.RDBUF1_BYTES (w : Nat) : Fld := ⟨0x69000 + 4 * w, 0, 32⟩
def CIP.RIGHTS_KEYS_KEYS (m w : Nat) : Fld := ⟨0x1b0800 + 64 * m + 4 * w, 0, 32⟩
def TOP.SEAM_PEND : Fld := ⟨0xfffc, 31, 1⟩
def TOP.SEAM_COUNT : Fld := ⟨0xfffc, 0, 16⟩
def PWS.SEAM_PEND : Fld := ⟨0x1fffc, 31, 1⟩
def PWS.SEAM_COUNT : Fld := ⟨0x1fffc, 0, 16⟩
def THM.SEAM_PEND : Fld := ⟨0x2fffc, 31, 1⟩
def THM.SEAM_COUNT : Fld := ⟨0x2fffc, 0, 16⟩
def KPS.SEAM_PEND : Fld := ⟨0x3fffc, 31, 1⟩
def KPS.SEAM_COUNT : Fld := ⟨0x3fffc, 0, 16⟩
def HMP.SEAM_PEND : Fld := ⟨0x4fffc, 31, 1⟩
def HMP.SEAM_COUNT : Fld := ⟨0x4fffc, 0, 16⟩
def INT.SEAM_PEND : Fld := ⟨0x5fffc, 31, 1⟩
def INT.SEAM_COUNT : Fld := ⟨0x5fffc, 0, 16⟩
def PMC.SEAM_PEND : Fld := ⟨0x6fffc, 31, 1⟩
def PMC.SEAM_COUNT : Fld := ⟨0x6fffc, 0, 16⟩
def GRP.SEAM_PEND : Fld := ⟨0x7fffc, 31, 1⟩
def GRP.SEAM_COUNT : Fld := ⟨0x7fffc, 0, 16⟩
def HPT.SEAM_PEND (n : Nat) : Fld := ⟨0x83ffc + 16384 * n, 31, 1⟩
def HPT.SEAM_COUNT (n : Nat) : Fld := ⟨0x83ffc + 16384 * n, 0, 16⟩
def VLK.SEAM_PEND (n : Nat) : Fld := ⟨0x100ffc + 4096 * n, 31, 1⟩
def VLK.SEAM_COUNT (n : Nat) : Fld := ⟨0x100ffc + 4096 * n, 0, 16⟩
def CAR.SEAM_PEND (n : Nat) : Fld := ⟨0x1207fc + 2048 * n, 31, 1⟩
def CAR.SEAM_COUNT (n : Nat) : Fld := ⟨0x1207fc + 2048 * n, 0, 16⟩
def LIN.SEAM_PEND : Fld := ⟨0x14fffc, 31, 1⟩
def LIN.SEAM_COUNT : Fld := ⟨0x14fffc, 0, 16⟩
def PCU.SEAM_PEND : Fld := ⟨0x15fffc, 31, 1⟩
def PCU.SEAM_COUNT : Fld := ⟨0x15fffc, 0, 16⟩
def XLT.SEAM_PEND : Fld := ⟨0x17fffc, 31, 1⟩
def XLT.SEAM_COUNT : Fld := ⟨0x17fffc, 0, 16⟩
def MED.SEAM_PEND : Fld := ⟨0x19fffc, 31, 1⟩
def MED.SEAM_COUNT : Fld := ⟨0x19fffc, 0, 16⟩
def COH.SEAM_PEND : Fld := ⟨0x1afffc, 31, 1⟩
def COH.SEAM_COUNT : Fld := ⟨0x1afffc, 0, 16⟩
def CIP.SEAM_PEND : Fld := ⟨0x1bfffc, 31, 1⟩
def CIP.SEAM_COUNT : Fld := ⟨0x1bfffc, 0, 16⟩
def SCB.SEAM_PEND : Fld := ⟨0x1cfffc, 31, 1⟩
def SCB.SEAM_COUNT : Fld := ⟨0x1cfffc, 0, 16⟩
def SPL.SEAM_PEND : Fld := ⟨0x1ffffc, 31, 1⟩
def SPL.SEAM_COUNT : Fld := ⟨0x1ffffc, 0, 16⟩
def SLC.SEAM_PEND (n : Nat) : Fld := ⟨0x207ffc + 32768 * n, 31, 1⟩
def SLC.SEAM_COUNT (n : Nat) : Fld := ⟨0x207ffc + 32768 * n, 0, 16⟩
def DBG.SEAM_PEND : Fld := ⟨0x3ffffc, 31, 1⟩
def DBG.SEAM_COUNT : Fld := ⟨0x3ffffc, 0, 16⟩

end Sys2Proof.Machine
end

