-- ==== Sys2Proof/Machine/State.lean ====
section
/-!
DEFINITION. The state of the PX-9618: every register (one table in force, with the shadows of seam-applied
writes and the held halves of 64-bit values beside it), every store, queue, counter, mode and pin the spec gives
the block, and the queue of waiting commands. Plain data throughout.
-/
namespace Sys2Proof.Machine

/-! ### Clock, pins, supervisor island -/

/-- Ordering codes of Table 02-11. -/
inductive Order where
  | h72 | h48
deriving DecidableEq, Repr

/-- Package pins that the rules name; an active-low pin's field is true while the pin is asserted (low). -/
structure Pins where
  aux33    : Bool := false
  pfw      : Bool := false
  porst    : Bool := false
  perst    : Tab Bool := []
  cprsnt   : Tab Bool := []
  cattn    : Tab Bool := []
  alert    : Bool := false
  alertGap : Bool := false
  smbAlert : Bool := false
  therm    : Bool := false
  pfo      : Bool := false
  sclHeld  : Bool := false
deriving DecidableEq, Repr

/-- Time: `now` is ns since AUX33 rose; `time` is device time (R373, R468), `slew` what is left of a half-rate
correction; `second` numbers the rate seconds (R559). -/
structure Clk where
  now     : Nat := 0
  time    : Nat := 0
  timeSet : Bool := false
  slew    : Nat := 0
  awake   : Bool := false
  second  : Nat := 0
deriving DecidableEq, Repr

/-- The interrupt controller beyond its registers (R519 to R531). -/
structure IntC where
  /-- Unseen marks, at key 1024 t + s. -/
  unseen  : Tab Bool := []
  /-- The source target t presents. -/
  cur     : Tab (Option Nat) := []
  quiet   : Bool := true
  /-- Episode flags: 0 PFW_N, 1 PORST_N, 2 group ring, 32 + n CPRSNT_N[n], 64 + n CATTN_N[n]. -/
  episode : List Nat := []
  fired54 : Bool := false
deriving DecidableEq, Repr

/-- A command on AVSBus that awaits its acknowledge (R25). -/
structure Avs where
  pending : Option Nat := none
  fails   : Nat := 0
  last    : Nat := 850
  acked   : Nat := 850
  prev    : Nat := 850
deriving DecidableEq, Repr

/-- Pace supervision (R13 to R25): runs of consecutive samples and the bridge fills of Table 01-3. -/
structure Pace where
  differ      : Tab Nat := []
  belowFloor  : Nat := 0
  below400    : Nat := 0
  atLeast400  : Nat := 0
  atLeast825  : Nat := 0
  avs         : Avs := {}
  /-- CORE is to be released when the acknowledge of VMAX comes (R442, R475). -/
  awaitRelease : Bool := false
deriving DecidableEq, Repr

/-- Event counts of the current rate second and rate hour (R559), each keyed as its rule needs. -/
structure Rate where
  tagRecords  : Nat := 0
  denials     : Tab Nat := []
  viol        : Tab Nat := []
  violKind    : Tab Nat := []
  violOver    : List Nat := []
  mediaEvents : Tab Nat := []
  badRoll     : Nat := 0
  skew        : Bool := false
  stale99     : Bool := false
  hbmCorr     : Tab Nat := []
  hour131     : Tab Bool := []
deriving DecidableEq, Repr

/-! ### Power sequencing, temperature, Keepsake -/

/-- Power-up and power-down kinds the sequencer runs (Table 16-4). -/
inductive SeqState where
  | off | up | on | down | gap | minOff
deriving DecidableEq, Repr

/-- The sequencer (R473 to R483). Rails are keyed 0 to 15. -/
structure Seq where
  state    : SeqState := .off
  enabled  : Tab Bool := []
  /-- Running rails: power-good has asserted in this power-up and the off-slot has not come. -/
  good     : Tab Bool := []
  faulted  : Tab Bool := []
  /-- The power-good inputs. -/
  pgIn     : Tab Bool := []
  /-- Consecutive samples outside the fault band, outside and inside the warning band. -/
  outRun   : Tab Nat := []
  warnRun  : Tab Nat := []
  okRun    : Tab Nat := []
  attempt  : Nat := 0
  /-- A RAIL_PLAN record is loaded (Table 16-19). -/
  planned  : Bool := false
  /-- Used rails, on-delays and off-delays with which the running sequence started (R473). -/
  used     : Nat := 0
  onUs     : List Nat := []
  offUs    : List Nat := []
  retries  : Nat := 0
  /-- Start cause of an on request that is held (R483). -/
  heldOn   : Option Nat := none
  /-- An off request waits for the end of the current slot of the power-up (Table 16-4). -/
  stopUp   : Bool := false
  /-- What follows the power-down: 0 standby, 1 the retry gap, 2 the start has failed with cause 3. -/
  after    : Nat := 0
  /-- The power-down is of kind power-fail with trigger PFW_N or VS_IN (R273). -/
  restart  : Bool := false
  /-- A power-fail trigger has been accepted, and the power-down has not ended (PF of Table 15-2). -/
  pf       : Bool := false
  /-- VS_IN lies below the sag threshold. -/
  sagLow   : Bool := false
deriving DecidableEq, Repr

/-- A fault-log record before it is laid out (R484, Table 16-5): the fields of both modes. -/
structure FLogRec where
  seq     : Nat := 0
  time    : Nat
  rail    : Nat
  /-- KIND bits [3:0]. -/
  kind    : Nat
  /-- Attempt, 1 to 8. -/
  attempt : Nat
  mv      : Nat
  en      : Nat := 0
  pg      : Nat := 0
  mvs     : List Nat := []
  vsin    : Nat := 0
  hot     : Nat := 0
  pace    : Nat := 0
deriving DecidableEq, Repr

structure FLog where
  nextSeq : Nat := 0
  mode    : Nat := 0
  holding : List FLogRec := []
deriving DecidableEq, Repr

/-- Temperature supervision (R487 to R499): sensors 0 to 39, and 40 + n for cartridge n. -/
structure Therm where
  /-- Consecutive samples in which a sensor has differed from its neighbours. -/
  differ  : Tab Nat := []
  /-- Readings in 1/16 °C of the sensors that are read. -/
  temp    : Tab (Option Int) := []
  /-- Cartridge sensors that are excluded. -/
  cartOut : Tab Bool := []
  /-- Zones that run on a substitute, and zones without a healthy neighbour (R489). -/
  subst   : Tab Bool := []
  lone    : Tab Bool := []
  /-- New thresholds are in force: the next sample judges every zone afresh (R490). -/
  fresh   : Bool := false
deriving DecidableEq, Repr

/-- A Hem page operation in progress (R505 to R507), with the response that its MCTP message still owes: completion code, words completed (R506). -/
structure HemJob where
  page  : Nat
  bytes : List Byte := []
  owed  : Option (Nat × Nat) := none
deriving DecidableEq, Repr

/-- The Keepsake store (17). -/
structure Keep where
  tack     : Tab Word := []
  /-- Hem words, at key 64 page + word. -/
  hem      : Tab Word := []
  /-- Lifetime-counter increments that wait for writes to resume (R504). -/
  acc      : Tab Nat := []
  refusing : Bool := false
  prog     : Option HemJob := none
  load     : Option Nat := none
  loadWaits : Bool := false
  /-- The binding page last programmed (R508). -/
  bindLast : Option Nat := none
deriving DecidableEq, Repr

/-- A Hamper record before it is laid out (Table 17-7). -/
structure HamRec where
  seq     : Nat
  src     : Nat
  time    : Nat
  code    : Nat
  unset   : Bool := false
  held    : Bool := false
  payload : List Byte := []
deriving DecidableEq, Repr

/-- A programmed page of copy B (R515): group, mirror, cartridge slot, Hamper bolt 0-3, page, records, media clock at its program. -/
structure HamPage where
  group  : Nat
  mirror : Bool
  slot   : Nat
  bolt   : Nat
  page   : Nat
  recs   : List HamRec
  age    : Nat := 0
deriving DecidableEq, Repr

/-- The Hamper (R512 to R517). -/
structure Ham where
  nextSeq : Nat := 0
  horizon : Nat := 0
  holding : List HamRec := []
  dropping : Bool := false
  clear   : Option (Nat × HamRec) := none
  bOpen   : List HamRec := []
  bSince  : Nat := 0
  bPages  : List HamPage := []
  /-- Resets of Hamper bolt k of slot n by their rotation, at key 4 n + k (R515). -/
  bResets : Tab Nat := []
  replicas : Tab Nat := []
  bRead   : Bool := false
  ambig   : List Nat := []
deriving DecidableEq, Repr

/-! ### Pattern -/

/-- A parsed record of a Pattern body (R41): type, flags and payload bytes. -/
structure PRec where
  typ     : Nat
  flags   : Nat
  payload : List Byte
deriving DecidableEq, Repr

/-- A REG_WRITE entry (Table 02-4). -/
structure RegEntry where
  addr  : Nat
  mask  : Nat
  value : Nat
deriving DecidableEq, Repr

/-- A region of the LD_REGION_PLAN record (Table 07-1), base and size in units of 256 MiB. -/
structure Region where
  base      : Nat
  size      : Nat
  ldMask    : Nat
  keyId     : Nat
  db        : Bool
  streaming : Bool
  dcd       : Bool
  index     : Nat
  dcdBlock  : Nat
deriving DecidableEq, Repr

/-- A SPOOL_DEFAULTS entry (Table 13-2). -/
structure SpoolOwner where
  owner    : Nat
  subFirst : Nat
  subCount : Nat
  cplFirst : Nat
  cplCount : Nat
  winBase  : Nat
  winSize  : Nat
deriving DecidableEq, Repr

/-- A GROUP_PLAN (Table 15-1): its ranges as (base, length) in bytes, its payload, and the region descriptors that R460 takes into the fingerprint. -/
structure GroupPlan where
  groupId : Nat
  index   : Nat
  size    : Nat
  payload : List Byte
  ranges  : List (Nat × Nat) := []
  descs   : List Byte := []
deriving DecidableEq, Repr

/-- What the Pattern in force defines beyond registers (R50). -/
structure Plan where
  mappedGib : Nat := 0
  groups    : Nat := 0
  plogGib   : Nat := 32
  regions   : List Region := []
  spools    : Option (List SpoolOwner) := none
  /-- The group plan in force, and the one that takes effect at step 4 of the start under way (R451). -/
  group     : Option GroupPlan := none
  groupNext : Option GroupPlan := none
  keyPolicy : Option (List Byte) := none
  thermal   : Option (List Byte) := none
  rails     : Option (List Byte) := none
  /-- REG_WRITE entries of the blocks that are loaded at core release. -/
  coreRegs  : List RegEntry := []
deriving DecidableEq, Repr

/-- The PTU command in progress (R52). -/
structure PtuJob where
  cmd   : Nat
  slot  : Nat
  page  : Nat
  /-- The 256 bytes of TOP.PTU_BUF at the command, for a PROGRAM. -/
  bytes : List Byte := []
deriving DecidableEq, Repr

/-- The Pattern flash and its update (02). -/
structure Pat where
  /-- Slots that an interrupted erase or program has left invalid (R55). -/
  torn      : Tab Bool := []
  /-- Flash bytes by flash address; erased flash reads 0xFF. -/
  flash     : Tab Byte := []
  /-- Customer key hash fused at provisioning, 48 bytes (R40); none while no hash is fused (log 6). -/
  keyHash   : Option (List Nat) := none
  ptu       : Option PtuJob := none
  /-- Shadows written by the last LIVE_APPLY that are still pending (R53). -/
  live      : List Nat := []
  valid     : Tab Bool := []
  /-- Flash address and body length of the pattern in force (R41). -/
  active    : Nat × Nat := (0, 0)
deriving DecidableEq, Repr

/-! ### Messages at the package boundary -/

/-- What the block sends, oldest first: the model's own trace (log 16). -/
inductive Msg where
  /-- S2M data response: port, LD, tag, DevLoad, line, poison. -/
  | s2mDrs (port ld tag devload : Nat) (data : BitVec 512) (poison : Bool)
  /-- S2M response without data. -/
  | s2mNdr (port ld tag devload : Nat)
  /-- Back-invalidate snoop: kind 0 Cur, 1 Data, 2 Inv. -/
  | biSnp (port ld kind line : Nat)
  | biConflictAck (port ld line : Nat)
  | msix (ld vec : Nat)
  | gpfResponse (port : Nat)
  /-- Completion of a configuration request: 0 successful, 1 CRS. -/
  | config (port tag status : Nat)
  | io (ld : Nat) (ok : Bool) (bytes : List Byte)
  /-- A read completion with the EP bit set (R301). -/
  | ioPoison (ld : Nat)
  /-- A mailbox response: LD, opcode, return code, payload as numbers. -/
  | mailbox (ld opcode code : Nat) (payload : List Nat)
  | fm (opcode code : Nat) (payload : List Nat)
  /-- Response of a vendor MCTP register message: completion code, words completed, words read. -/
  | mctp (code n : Nat) (words : List Word)
  | spdm (sid code : Nat) (payload : List Nat)
  /-- A flit on a cartridge link: slot, type of Table 12-4, operands. -/
  | flit (slot typ : Nat) (args : List Nat)
  /-- The symbols of a flit on the lanes of a cartridge link (R390). -/
  | wire (slot : Nat) (lanes : List (List Nat))
  | rollCall (bytes : List Nat)
  | avs (mv : Nat)
  | smbus (bytes : List Nat)
  | tap (resp : BitVec 64)
deriving DecidableEq, Repr

/-! ### Requests -/

/-- What a request is. -/
inductive ReqKind where
  | read | inv | evct | write
deriving DecidableEq, Repr

/-- Where a request stands (03). -/
inductive Stage where
  /-- Received; waits in the island bridge of its port for admission (R94). -/
  | bridge
  /-- Admitted; waits for its order point. -/
  | dispatch
  /-- In the conflict queue (R238). -/
  | conflict
  /-- Waits for snoop responses (R234) before its value or commit. -/
  | snoop
  /-- Order point passed, probes and map fetch under way. -/
  | probing
  /-- The map entry has patch-present set; waits for the patch index (R70). -/
  | index
  /-- Waits for a map block repair (R140). -/
  | repair
  /-- Media read issued; `spec` of the request says whether speculatively. -/
  | media
  /-- Direct read given up or impossible; waits for the reconstruction to start (R92). -/
  | recon
  /-- Reconstruction reads outstanding (R93). -/
  | members
  /-- The slice write buffer holds it (R79). -/
  | buffered
  /-- Partial write whose old line is at hand (R83). -/
  | merge
  /-- Waits for the merge of an older buffered write to its line (R86). -/
  | bufwait
  /-- Waits for dirty-budget room, staging room, the dirtied record or the seal table. -/
  | hold
  /-- Stored write-through: waits for its patch to verify (R82). -/
  | through
  /-- Response built; waits for S2M credits (R90). -/
  | respond
deriving DecidableEq, Repr

/-- Where a read finds its line (the PATH of Table 18-5). -/
inductive Path where
  | none | buffer | pcu | lining | staging | patch | swatch | recon | zero | snooped
deriving DecidableEq, Repr

/-- A patch-index entry (R118). -/
structure IdxEntry where
  line   : Nat
  psa    : Nat
  slot   : Nat
  poison : Bool
  stamp  : Nat
deriving DecidableEq, Repr

/-- A request in flight. The fields from `hit` on are what its order point found (R68, R69). -/
structure Req where
  id      : Nat
  kind    : ReqKind
  port    : Nat
  ld      : Nat
  tag     : Nat := 0
  line    : Nat
  mv      : MetaValue := .invalid
  stage   : Stage := .bridge
  data    : BitVec 512 := 0
  be      : BitVec 64 := BitVec.allOnes 64
  wtag    : BitVec 64 := 0
  poison  : Bool := false
  /-- Source that Get Poison List reports if the write is stored poisoned (`Line.origin`). -/
  origin  : Nat := 0
  stream  : Bool := false
  sampled : Bool := false
  /-- `now` and device time at entry into stage 1 (R101, R538). -/
  started : Nat := 0
  entered : Nat := 0
  /-- The write was a partial write when it came in. -/
  partW   : Bool := false
  /-- Its order point has passed; for a write, the slice write buffer holds it (R79). -/
  ordered : Bool := false
  /-- Stored write-through (R82). -/
  through : Bool := false
  /-- Old line of a partial write (R83). -/
  old     : Option Line := none
  /-- Buffered write whose merged data this request takes (R86). -/
  dep     : Option Nat := none
  /-- Line found by a probe, and whether that probe is still open (R73). -/
  hit     : Option Line := none
  probe   : Bool := false
  path    : Path := .none
  map     : MapEntry := {}
  idx     : Option IdxEntry := none
  /-- Page and line slot of the direct media read. -/
  target  : Option (Nat × Nat) := none
  ladder  : Nat := 0
  squashed : Bool := false
  /-- Pages whose reconstruction reads are awaited (R93), and whether one failed. -/
  members : List Nat := []
  lost    : Bool := false
  /-- Snoops were sent for it (PATH bit 11 of Table 18-5). -/
  snooped : Bool := false
  /-- The write is the write-back of a snooped LD (R235). -/
  wback   : Bool := false
  /-- The flow of R234 is in progress: requests to the line wait. -/
  flow    : Bool := false
  /-- How its flow writes the Thimble entry (`Thimble.lean`): 0 shared with the requester added, 1 exclusive at the requester, 2 unchanged,
  3 requester removed, 4 invalid, 5 shared at the requester alone. -/
  after   : Nat := 2
  /-- The Thimble entry whose holders must answer before the flow can take its place (R242). -/
  evictKey : Option Nat := none
  /-- A media read of the request was squashed (PATH bit 7 of Table 18-5). -/
  squash7 : Bool := false
  /-- Mask of an injection at point 4 that this read has consumed (R307). -/
  inj4    : Nat := 0
  /-- What the request waits for in stage `hold`: 0 budget, 1 staging, 2 seal table, 3 dirtied record, 4 darn queue, 5 the end of a flush, 6 a place in
  the write buffer. -/
  why     : Nat := 0
  /-- A younger store of the line has taken effect: the read's data no longer fills a cache (R69, R71). -/
  stale   : Bool := false
  /-- Its responses are discarded (R368). -/
  dead    : Bool := false
  /-- An unmap passed it in the write buffer: it stores nothing (R128). -/
  void    : Bool := false
deriving DecidableEq, Repr

/-! ### Caches, translation, media -/

/-- A way of the Lining with its line (Table 06-1); `line` is DPA[44:6]. -/
structure Way where
  line   : Nat := 0
  valid  : Bool := false
  dirty  : Bool := false
  lock   : Bool := false
  ref    : Bool := false
  age    : Nat := 0
  val    : Line := {}
deriving DecidableEq, Repr

/-- A line of a Pincushion entry. `gone`: its cached value has been discarded and its refetch is outstanding (R200). -/
structure PLine where
  val   : Line := {}
  dirty : Bool := false
  gone  : Bool := false
deriving DecidableEq, Repr

/-- A Pincushion entry (R198); `valid` is a mask over the slices in which the entry holds its lines. Entries are keyed 0 to 63; key 64 + n holds what a
victim that a PIN has taken from way n still has to release (R206). -/
structure PEntry where
  swatch  : Nat := 0
  valid   : Nat := 0
  filling : Bool := false
  lines   : Tab PLine := []
  lock    : Bool := false
  ref     : Bool := false
  age     : Nat := 0
deriving DecidableEq, Repr

/-- A staging copy (R196), with a number of its own: `place` is the patch page and slot it has been given; `taken` marks a
copy that an assembly has taken, `dropped` one that an unmap has overtaken: it stays until its patch ends (R128). -/
structure Staged where
  id      : Nat := 0
  line    : Nat
  val     : Line
  fromPcu : Bool := false
  place   : Option (Nat × Nat) := none
  taken   : Bool := false
  dropped : Bool := false
deriving DecidableEq, Repr

/-- A register operation of the caches in progress (R211, R212): its code of Table 06-13, the lines whose step has not come, the write-backs it waits for
(numbers of staging copies and of write-through writes), the lines to discard when those are in force, and the entry it names. -/
structure CacheOp where
  op      : Nat := 0
  todo    : List Nat := []
  waits   : List Nat := []
  discard : List Nat := []
  entry   : Option Nat := none
deriving DecidableEq, Repr

structure Cache where
  /-- Ways at key 16 set + way. -/
  lining     : Tab Way := []
  pcu        : Tab PEntry := []
  staging    : List Staged := []
  lockRanges : List (Nat × Nat) := []
  linOp      : Option CacheOp := none
  pcuOp      : Option CacheOp := none
  /-- Slices in a stall episode of source 224, and in a staging wait of source 230 (R98, R197). -/
  stall224   : List Nat := []
  wait230    : List Nat := []
deriving DecidableEq, Repr

/-- An open or sealed patch page (R114, R116). -/
structure OpenPatch where
  psa     : Nat
  group   : Nat
  seq     : Nat
  ents    : List DirEntry := []
  since   : Nat := 0
  flush   : Bool := false
deriving DecidableEq, Repr

/-- A place in the darn queue (R123). -/
structure DarnPlace where
  swatch : Nat
  /-- Priorities absorbed. -/
  prios  : List Nat
  ops    : List Nat := []
  /-- It came while its swatch was under assembly: it is judged again after the switch (R127). -/
  held   : Bool := false
deriving DecidableEq, Repr

/-- A running assembly (R124). -/
structure Assembly where
  swatch : Nat
  full   : Bool
  stamp  : Nat
  psa    : Nat
  snap   : List IdxEntry := []
  taken  : List Nat := []
  ops    : List Nat := []
  ended  : Bool := false
  /-- Lines it writes poisoned because their stored key is retired (R125). -/
  spoiled : Nat := 0
deriving DecidableEq, Repr

/-- A journal page written and retained (R129, R132). -/
structure JPage where
  seq  : Nat
  psa  : Nat
deriving DecidableEq, Repr

/-- The translation engine (04). -/
structure Xlt where
  map       : Tab MapEntry := []
  mapBad    : Tab Bool := []
  index     : Tab (Option IdxEntry) := []
  bucketBad : Tab Bool := []
  seq       : Nat := 0
  mclk      : Nat := 0
  pair      : Option (Nat × Nat) := none
  clockSet  : Bool := false
  /-- Both copies of a journal record are lost: the next flush leaves no clean record (R297). -/
  journalLost : Bool := false
  openPages : List OpenPatch := []
  roster    : List Nat := []
  forced    : Bool := false
  darnq     : List DarnPlace := []
  heldDarn  : Option Nat := none
  waiting   : List DarnPlace := []
  asm       : List Assembly := []
  /-- The journal buffer; its first record is the CLOCK record of the page that it begins (R129). -/
  jbuf      : List JRec := []
  jpages    : List JPage := []
  images    : List Image := []
  passNo    : Nat := 0
  region    : Nat := 0
  imgStart  : Nat := 0
  passStart : Nat := 0
  changed   : Tab Bool := []
  /-- The anchor in force, and the anchor record that each cartridge slot holds (R134). -/
  anchor    : Option Anchor := none
  anchors   : Tab (Option Anchor) := []
  /-- The newest directory page of the roster, and the seal-table image whose pages have not all verified (R182). -/
  dirAt     : Option Nat := none
  sealNew   : Option Image := none
  /-- The patch log fill is above its watermark (source 164). -/
  fillHigh  : Bool := false
  /-- A checkpoint pass has been reported late (R133). -/
  lateNow   : Bool := false
  /-- Number of journal pages written. -/
  jcount    : Nat := 0
  /-- Roster generation of the last directory page (Table 04-5). -/
  rosterGen : Nat := 0
deriving DecidableEq, Repr

/-- Why a page is being programmed. -/
inductive Purpose where
  | patch | assembly | copy (old : Nat) (gc : Bool) | journal | image | summary | lsa | parity | basting | filler
  | rebuild
deriving DecidableEq, Repr

/-- A page program that has been issued and has not been verified (R145); `nosusp`: a flush writes it (R404). -/
structure Prog where
  psa     : Nat
  page    : Page
  purpose : Purpose
  nosusp  : Bool := false
  sent    : Bool := false
  tries   : Nat := 0
deriving DecidableEq, Repr

/-- What the media engine keeps per bolt in HBM (R164, R170, R171, R173). -/
structure BoltInfo where
  valid   : Nat := 0
  firstAt : Nat := 0
  lastAt  : Nat := 0
  lastPg  : Nat := 0
  /-- Drift offset + 3. -/
  offset  : Nat := 3
  up      : Nat := 0
  down    : Nat := 0
  /-- Sixteen times the corrected-symbol average. -/
  avg16   : Nat := 0
  disturb : Nat := 0
  /-- Granules DPA[44:31] the bolt holds lines of (R184). -/
  granules : List Nat := []
deriving DecidableEq, Repr

/-- A frame (R151 to R153): `slots` are its present positions in ascending slot order, `bolts` the PSA[33:13] of
each, `runs` where each position's parity run starts (bolt, page, bolt in which it continues or `noBolt`), `next` the next entry to write. -/
structure Frame where
  group    : Nat
  number   : Nat
  series   : Nat
  slots    : List Nat
  bolts    : List Nat
  runs     : List (Nat × Nat × Nat)
  next     : Nat := 0
  closed   : Bool := false
  closedAt : Nat := 0
  /-- It is being closed short: its filler programs are under way (R189). -/
  cut      : Bool := false
deriving DecidableEq, Repr

/-- An open basting set (R156). -/
structure BSet where
  slot    : Nat
  number  : Nat
  /-- Basting bolt that is to receive the set. -/
  bolt    : Nat := 0
  pages   : List Nat := []
  since   : Nat := 0
deriving DecidableEq, Repr

/-- A group as the media engine sees it (R165, R180 to R191). -/
structure GroupMedia where
  lost     : List Nat := []
  degradedAt : Nat := 0
  collecting : Bool := false
  refreshq : List Nat := []
  /-- Slot being rebuilt, whether in place, and how many bolts the rebuild began with. -/
  rebuild  : Option (Nat × Bool) := none
  rebuildOf : Nat := 0
  nextFrame : Nat := 0
  second   : Bool := false
deriving DecidableEq, Repr

/-- A media read whose data will be discarded on return: squashed (R74), or given up for reconstruction (R92). -/
structure Ghost where
  req      : Nat
  bolt     : Nat
  squashed : Bool
  slice    : Nat
  ld       : Nat
deriving DecidableEq, Repr

/-- The media engine (05). -/
structure Med where
  pages   : Tab (Option Page) := []
  /-- Pages and ledger entries of a cartridge that another one has replaced: what the parity and the members of its stripes still give of it (R187, R190). -/
  gone    : Tab (Option Page) := []
  goneLed : Tab LedgerEntry := []
  /-- Ledger entries at key PSA[33:13], kept by the cartridges. -/
  ledger  : Tab LedgerEntry := []
  bolts   : Tab BoltInfo := []
  frames  : List Frame := []
  /-- Parity bolt in use and its next page, at key 1024 (32 group + series) + slot. -/
  parityAt : Tab (Option (Nat × Nat)) := []
  rotDie  : Tab Nat := []
  rotGroup : Nat := 0
  bast    : List BSet := []
  /-- Next basting set number of each cartridge (R157). -/
  bastNo  : Tab Nat := []
  bastBolts : List (Nat × Nat × Nat) := []
  progs   : List Prog := []
  /-- Programs that failed and found no free page; they are placed again when one is free (R117, R127). -/
  stuck   : List Prog := []
  /-- Cartridges on which the cold sweep runs (R163). -/
  cold    : List Nat := []
  /-- Current summary page of each closed bolt (R184). -/
  sumAt   : Tab (Option Nat) := []
  resets  : List Nat := []
  groups  : Tab GroupMedia := []
  sealTab    : Tab (BitVec 64) := []
  sealWait : Bool := false
  mapped  : Nat := 0
  failedDies : Tab Nat := []
  setNew  : Bool := false
  /-- Dies 16 slot + die whose wear tree is being rebuilt (R162). -/
  treeBad : List Nat := []
  /-- Media reads decoded at ladder step 1 or higher or recovered by reconstruction (Table 11-16). -/
  corrReads : Nat := 0
  ghosts  : List Ghost := []
deriving DecidableEq, Repr

/-! ### Coherence, flush, integrity, security -/

/-- A Thimble entry (Table 07-2), with the tick mark of R232. -/
structure TEntry where
  line     : Nat := 0
  presence : Nat := 0
  state    : Nat := 0
  busy     : Bool := false
  age      : Nat := 0
  touched  : Bool := false
deriving DecidableEq, Repr

structure Coh where
  /-- Entries at key 8 set + way. -/
  thimble : Tab TEntry := []
  suspect : List Nat := []
  /-- Conflict-queue order: request numbers, oldest first. -/
  queue   : List Nat := []
  full643 : Tab Bool := []
  /-- Snoops outstanding: (line, LD). -/
  snoops  : List (Nat × Nat) := []
  extents : List Extent := []
  lost    : List Nat := []
  /-- BIConflict messages answered after the response of their request: (request, port, LD). -/
  acks    : List (Nat × Nat × Nat) := []
  /-- Lines on which a data-mover op or a debug access has started a flow. -/
  opLines : List Nat := []
  /-- Ranges that a Sanitize makes undecoded: LD, first line, number of lines (R372). -/
  wiped   : List (Nat × Nat × Nat) := []
deriving DecidableEq, Repr

/-- Kinds of flush (Table 08-4); the numbers are those of TOP.FLUSH_STATUS.KIND. -/
inductive FlushKind where
  | none | powerFail | orderly | reset | gpf | group
deriving DecidableEq, Repr

structure Flush where
  kind     : FlushKind := .none
  step     : Nat := 0
  startAt  : Nat := 0
  stopped  : Bool := false
  firstSeq : Nat := 0
  patches  : Nat := 0
  lines    : Nat := 0
  jpages   : Nat := 0
  lastUnit : Nat := 0
  /-- The first write after a GPF or group flush waits for the dirtied record (R276). -/
  clean    : Option Nat := none
  gpfPorts : List Nat := []
  /-- `PORST_N`, or an orderly power-down during a GPF, waits for the end of the flush (R271). -/
  resetHeld : Bool := false
  offHeld  : Bool := false
  /-- The halt flush of R348 runs. -/
  halt     : Bool := false
  /-- The session that asked for it. -/
  haltSid  : Nat := 0
deriving DecidableEq, Repr

/-- The armed injection (R306, R307). -/
structure Inj where
  point  : Nat
  left   : Nat
  target : Nat
  region : Nat
  mask   : Nat
deriving DecidableEq, Repr

/-- The scrub summary (Table 09-6). -/
structure ScrubSum where
  lines     : Nat := 0
  mark      : Bool := false
  early     : Bool := false
  refresh   : Nat := 0
  corrected : Nat := 0
  symbols   : Nat := 0
  ladder    : Nat := 0
  quilt     : Nat := 0
  uncorr    : Nat := 0
  tagFail   : Nat := 0
  poisoned  : Nat := 0
  keyless   : Nat := 0
  first     : Option Nat := none
deriving DecidableEq, Repr

/-- A scrub job (R309 to R313). -/
structure Scrub where
  next  : Nat
  stop  : Nat
  mark  : Bool
  sum   : ScrubSum := {}
  /-- Lines that wait for their marking step (R311). -/
  cands : List Nat := []
deriving DecidableEq, Repr

/-- A raw read in progress (R317). -/
structure RawJob where
  psa    : Nat
  slot   : Nat
  refset : Nat
  decode : Bool
deriving DecidableEq, Repr

/-- A debug line access in progress (R316): line, write or read, the rights set it runs under, whether its flow has started. -/
structure DbgMem where
  line  : Nat
  write : Bool
  m     : Nat
  mine  : Bool := false
deriving DecidableEq, Repr

/-- The debug unit. `bridge` holds the waiting requests of the TAP (R315), `resp` the latest response; `ir` is the TAP instruction (R314). -/
structure Dbg where
  mem    : Option DbgMem := none
  raw    : Option RawJob := none
  ir     : Nat := 1
  bridge : List (BitVec 64) := []
  resp   : BitVec 64 := 0
deriving DecidableEq, Repr

structure Integ where
  inj    : Option Inj := none
  scrub  : Option Scrub := none
  rows   : List (Nat × Nat × Nat × Nat) := []
deriving DecidableEq, Repr

/-- Key-slot states of Table 10-3. -/
inductive KState where
  | empty | active | awaiting | retiring
deriving DecidableEq, Repr

/-- A key slot (R318). -/
structure KeySlot where
  usage    : Nat := 0
  persist  : Bool := false
  required : Bool := false
  state    : KState := .empty
  epoch    : Nat := 0
  key      : BitVec 512 := 0
  check    : Nat := 0
deriving DecidableEq, Repr

/-- A key store written by this device (R325); `gen` counts its changes. -/
structure KeyStore where
  gen      : Nat := 0
  slots    : Tab KeySlot := []
  bindings : Tab Nat := []
deriving DecidableEq, Repr

/-- The scrambler session of a cartridge link (R341, R343): the link key, K_s, check numbers sent and received. -/
structure LinkKey where
  l    : BitVec 512
  ks   : Nat
  sent : Nat := 0
  got  : Nat := 0
deriving DecidableEq, Repr

/-- A secured SPDM session (R327). -/
structure Session where
  id    : Nat
  cls   : Nat
  root  : Nat
  doe   : Bool
  ld    : Nat
  leaf  : List Byte := []
deriving DecidableEq, Repr

/-- A retirement in progress (R331); `byReg`: started by CIP.KEY_CMD. -/
structure Retire where
  slot    : Nat
  byReg   : Bool := false
deriving DecidableEq, Repr

/-- An open export or import job (R339, R340). -/
structure Job where
  num    : Nat
  gcm    : Bool
  isExport : Bool
  slot   : Nat
  epoch  : Nat
  owner  : Nat
  gen    : Nat := 0
  lines  : Nat := 0
  iv     : Nat := 0
  /-- J0, the current counter block and the accumulator of GCM as big-endian numbers, the lengths in bits (Table 10-9). -/
  j0     : Nat := 0
  ctr    : Nat := 0
  ghash  : Nat := 0
  aad    : Nat := 0
  text   : Nat := 0
  /-- JOB of the stream: for an import, that of the stream's header. -/
  stream : Nat := 0
  /-- An import: lines it has written, and those of them that a full-line write has reached since (R436). -/
  wrote  : List Nat := []
  rewritten : List Nat := []
deriving DecidableEq, Repr

structure Cip where
  slots    : Tab KeySlot := []
  /-- The key store that the cartridge of a slot holds, and the number of the newest one written. -/
  stores   : Tab (Option KeyStore) := []
  storeGen : Nat := 0
  bindings : Tab Nat := []
  sessions : List Session := []
  nextSess : Nat := 0
  retire   : List Retire := []
  jobs     : List Job := []
  nextJob  : Nat := 0
  gcmCount : Tab Nat := []
  /-- IDE streams at key 2 port + (1 for CXL.cachemem): 0 not set, 1 Secure, 2 Insecure. -/
  ide      : Tab Nat := []
  /-- Scrambler session per cartridge link. -/
  links    : Tab (Option LinkKey) := []
  /-- The key store of this start has been read (R326). -/
  keysRead : Bool := false
deriving DecidableEq, Repr

/-! ### Hosts -/

/-- A stream tracker (R204): `dir` 0 open, 1 ascending, 2 descending. -/
structure Tracker where
  ld    : Nat := 0
  last  : Nat := 0
  dir   : Nat := 0
  count : Nat := 0
  used  : Nat := 0
deriving DecidableEq, Repr

/-- Error status of a port (Tables 02-7, 11-6): in the CXL RAS capability an uncorrectable protocol error and Receiver Overflow; in AER Malformed TLP, Unsupported
Request, and Completer Abort with the address of the first posted write it concerns. -/
structure PortErrors where
  protocol    : Bool := false
  overflow    : Bool := false
  malformed   : Bool := false
  unsupported : Bool := false
  abort       : Option Nat := none
deriving DecidableEq, Repr

structure Port where
  far      : Option TrainedLink := none
  trackers : Tab Tracker := []
  trackNo  : Nat := 0
  /-- M2S credits that the port withholds: of the Req channel and of the RwD channel (R10, R94). -/
  owedReq  : Nat := 0
  owedRwd  : Nat := 0
  /-- S2M credits the port holds (R90); responses wait while it is 0. -/
  credits  : Nat := 0
  /-- Responses that wait for credits, with the request each ends, oldest first. -/
  respq    : List (Option Nat × Msg) := []
  /-- Requests until the next sample of R538. -/
  sample   : Nat := 0
  biRoute  : Bool := false
  /-- A retrain has been asked for and has not ended (HPT.LINK_CMD). -/
  retrain  : Bool := false
  errors   : PortErrors := {}
deriving DecidableEq, Repr

/-- A CXL event record of a log (R379): handle, the identifier of its kind, device time, payload. -/
structure EvRec where
  handle  : Nat
  kind    : Nat
  time    : Nat
  payload : List Nat := []
deriving DecidableEq, Repr

/-- A background command of a mailbox (R369). -/
structure BgCmd where
  opcode : Nat
  /-- Bolts whose resets it awaits, and how many there were. -/
  todo   : List Nat := []
  total  : Nat := 0
  /-- The extent that a Release Dynamic Capacity releases. -/
  ext    : Option Nat := none
deriving DecidableEq, Repr

/-- Alert thresholds of an LD (R375). -/
structure Alerts where
  enable : Nat := 0
  vals   : List Nat := []
deriving DecidableEq, Repr

structure LdState where
  port     : Option Nat := none
  /-- The binding that Hem holds, where it takes effect only at the next training of a port (R360). -/
  portNext : Option (Option Nat) := none
  /-- Committed HDM decoders with the DPA start each took at its commit (R363). -/
  decoders : Tab (Option (Nat × HdmDecoder)) := []
  /-- Decoders that report Error Not Committed. -/
  decErr   : Tab Bool := []
  bg       : Option BgCmd := none
  /-- Event logs 0 informational, 1 warning, 2 failure, 3 fatal, 4 dynamic capacity; oldest first. -/
  logs     : Tab (List EvRec) := []
  /-- Dropped records per log: count, first and last time. -/
  overflow : Tab (Nat × Nat × Nat) := []
  nextHandle : Nat := 1
  policy   : Tab Nat := []
  alerts   : Alerts := {}
  lsa      : Tab Byte := []
  /-- Where each LSA page lies on the media. -/
  lsaAt    : Tab (Option Nat) := []
  injected : List Nat := []
  /-- Doorbell and background interrupts of the Mailbox Control register. -/
  mbIrq    : Bool := false
  /-- Where the next Get Poison List of a truncated list resumes (R376). -/
  poisonFrom : Option Nat := none
  /-- LSA pages whose programs a Set LSA awaits (R374). -/
  lsaPend  : Nat := 0
  /-- The line write of an Inject Poison or Clear Poison that waits: an op of the data mover. -/
  mbOp     : Option Nat := none
deriving DecidableEq, Repr

/-! ### Cartridges -/

/-- A command of Table 12-6 that awaits its response: TAG, opcode, its operand (a PSA, a bolt, a block) and when it was sent. -/
structure CmdRec where
  tag   : Nat
  op    : Nat
  arg   : Nat
  since : Nat
  /-- Its response has come; DATA flits that follow it: the next index and their number. -/
  next  : Nat := 0
  total : Nat := 0
deriving DecidableEq, Repr

/-- A counted flit as its sender keeps it for replay (R393): its count, type, TAG and plain payload. -/
structure SentFlit where
  q       : Nat
  typ     : Nat
  tag     : Nat
  payload : List Byte
deriving DecidableEq, Repr

/-- A cartridge link (R389 to R401). `step` is the last step of Table 12-4 reached, 0 while the link is down. -/
structure Link where
  up       : Bool := false
  step     : Nat := 0
  tries    : Nat := 0
  width    : Nat := 0
  /-- The lane that has failed, and the link is to train at x1 (R398). -/
  spared   : Option Nat := none
  /-- Times of the slot's retrains (R395). -/
  retrains : List Nat := []
  retraining : Bool := false
  /-- The retrain has lasted 100 ms (R397). -/
  late     : Bool := false
  /-- Times of the violations (R395). -/
  viols    : List Nat := []
  txCount  : Nat := 0
  rxCount  : Nat := 0
  /-- Number of counted flits acknowledged, and how often the oldest has been replayed (R393). -/
  acked    : Nat := 0
  replay   : Nat := 0
  /-- The last 512 counted flits sent. -/
  kept     : List SentFlit := []
  /-- CTRL, KEYCHK and NAK flits that wait for room in the replay window (R393): type, fields. -/
  waiting  : List (Nat × List Nat) := []
  /-- A flit has been discarded and its NAK sent. -/
  nakOut   : Bool := false
  tags     : List CmdRec := []
  /-- Command credits granted at HELLO, and those left. -/
  granted  : Nat := 0
  credits  : Nat := 0
  /-- N_d of the HELLO sent (R341). -/
  nonce    : Nat := 0
  /-- Pairing (R401): 0 none, 1 PAIR_PUB sent, 2 public keys exchanged, 3 PAIR_KEY sent. -/
  pairing  : Nat := 0
  /-- This training is at x1 (R398). -/
  atX1     : Bool := false
  identOk  : Bool := false
  healthOk : Bool := false
deriving DecidableEq, Repr

/-- An identity record as read (Table 12-7): its fields, whether R407 accepts it, its bytes. -/
structure CartIdent where
  model   : Nat := 0
  serial  : Nat := 0
  setId   : Nat := 0
  setSlot : Nat := 0
  good    : Bool := false
deriving DecidableEq, Repr

/-- The cartridge seated in a slot and what the device knows of it (R400 to R418). -/
structure Cart where
  present  : Bool := false
  ident    : CartIdent := {}
  /-- Reserved area, one block per key. -/
  rsv      : Tab (List Byte) := []
  /-- Result of Table 12-9, and whether the cartridge is adopted. -/
  adopt    : Nat := 0
  adopted  : Bool := false
  inWindow : Bool := false
  temp     : Option Int := none
  /-- A key store of another device that it brought (R326). -/
  store    : Option ForeignStore := none
  /-- FLAGS bit 0 of the last STATUS or health record. -/
  fault    : Bool := false
  quiesced : Bool := false
  refused  : Option Nat := none
  indicator : Nat := 0
  prepared : Bool := false
  /-- Command of CAR.CMD in progress. -/
  cmd      : Option Nat := none
  quarantined : Bool := false
deriving DecidableEq, Repr

/-! ### Spools -/

/-- A spool context (Table 13-3). `gen` numbers the division of spools in force for it (R421). -/
structure SpoolCtx where
  base    : Nat := 0
  enable  : Bool := false
  armed   : Bool := false
  state   : Nat := 0
  log2    : Nat := 0
  pair    : Nat := 0
  head    : Nat := 0
  tail    : Nat := 0
  vec     : Nat := 0
  stale   : Nat := 0
  pkts    : Nat := 0
  dropped : Nat := 0
  err     : Nat := 0
  errAt   : Nat := 0
  held    : Bool := false
  /-- The staleness timer runs. -/
  timer   : Bool := false
  gen     : Nat := 0
deriving DecidableEq, Repr

/-- A submission descriptor (Table 13-5). -/
structure Desc where
  op    : Nat
  flags : Nat
  key   : Nat
  mode  : Nat
  tag   : Nat
  src   : Nat
  dst   : Nat
  len   : Nat
  arg   : List Byte := []
deriving DecidableEq, Repr

/-- An op in progress (R430, R431): lines still to handle, the count so far, the status if it has ended, what it
waits for. -/
structure OpRun where
  id      : Nat
  spool   : Nat
  desc    : Desc
  owner   : Nat
  next    : Nat := 0
  count   : Nat := 0
  count2  : Nat := 0
  status  : Option Nat := none
  waits   : List Nat := []
  sum     : ScrubSum := {}
  job     : Option Nat := none
  missed  : Bool := false
  cands   : List Nat := []
  /-- Write-backs the op awaits (R212, R280): numbers of staging copies and of write-through writes. -/
  backs   : List Nat := []
  /-- Swatches whose assemblies a DARN or REKEY_RANGE op awaits. -/
  swatches : List Nat := []
  /-- Bolts whose resets a SECURE_DISCARD op awaits (R184). -/
  bolts   : List Nat := []
  /-- REKEY_RANGE: the key the regions had (R330). -/
  oldKey  : Nat := 0
  /-- Lines still to be released, or to be discarded once their write-backs are in force. -/
  todo    : List Nat := []
  /-- Progress within a swatch, or the phase of a job: 0 header or state, 1 data, 2 end. -/
  sub     : Nat := 0
  /-- The status with which the op ends once what it waits for is over. -/
  closing : Option Nat := none
deriving DecidableEq, Repr

structure Spl where
  mem     : Tab Byte := []
  /-- 64-B blocks of spool memory that are uncorrectable (R296): until a write of the whole block. -/
  bad     : List Nat := []
  ctx     : Tab SpoolCtx := []
  /-- Context words written and not yet applied, at key 8 spool + word (R423). -/
  shadow  : Tab (Option Word) := []
  sel     : Tab Nat := []
  ops     : List OpRun := []
  nextOp  : Nat := 0
  /-- Divisions of the spools among owners, oldest first: the start's, then one per live application (R421). -/
  owners  : List (List SpoolOwner) := []
  sample  : Nat := 0
deriving DecidableEq, Repr

/-! ### Interleave group, performance monitor -/

/-- What a member keeps of another member (R457, R458): the latest record used, when it came (`now`), whether the member is silent. -/
structure Member where
  last   : Option RollCall := none
  usedAt : Nat := 0
  silent : Bool := false
deriving DecidableEq, Repr

/-- The group (15): the other members by index, the fence, and the causes 2 to 4 of Table 15-3 whose onset has been reported. -/
structure Grp where
  members : Tab Member := []
  fenced  : Bool := false
  conds   : List Nat := []
deriving DecidableEq, Repr

structure Pmc where
  cnt      : Tab Nat := []
  busy     : Bool := false
  again    : Bool := false
  zero     : Bool := false
  readAt   : Nat := 0
  ring     : Tab (List Byte) := []
  full833  : Bool := false
deriving DecidableEq, Repr

/-- Progress of a start (14). -/
structure Start where
  /-- Step of Table 14-1 under way; 0 none. -/
  step     : Nat := 0
  begunAt  : Nat := 0
  step7At  : Nat := 0
  /-- Recovery step of Table 04-9 under way. -/
  recovery : Nat := 0
  trained  : Bool := false
  filled   : Bool := false
  testing  : Bool := false
  released : Bool := false
  waiting  : Option Nat := none
  failed   : Option Nat := none
  cause    : Nat := 0
  clean    : Bool := false
  scan     : Bool := false
  wakeAt   : Nat := 0
  resetOut : Bool := false
deriving DecidableEq, Repr

/-- The machine. -/
structure State where
  order   : Order := .h72
  /-- Registers in force, keyed by window offset; an unlisted word reads `regReset`. -/
  regs    : Tab Word := []
  /-- Seam-applied writes that await their seam (R61). -/
  shadow  : Tab (Option Word) := []
  /-- LO halves held until their HI is written (R65). -/
  held    : Tab (Option Word) := []
  /-- Slices that have applied the pending shadows of a slice-seam block, at key of the block (R62). -/
  sliceDone : Tab Nat := []
  /-- Registers of the slice blocks as the slices that have applied their shadow run them until the last slice has, at key 8 × offset + slice (R62). -/
  sliceReg : Tab (Option Word) := []
  pins    : Pins := {}
  clk     : Clk := {}
  rate    : Rate := {}
  intc    : IntC := {}
  /-- MSI-X masks and pending bits at key 2048 ld + vector; masked after reset (log 4). -/
  msixMask : Tab Bool := []
  msixPend : Tab Bool := []
  pace    : Pace := {}
  /-- A writer waits for room in an island bridge of Table 01-3: port 0 to 3, 4 the TAP. -/
  bridgeWait : Tab Bool := []
  seq     : Seq := {}
  flog    : FLog := {}
  therm   : Therm := {}
  keep    : Keep := {}
  ham     : Ham := {}
  pat     : Pat := {}
  plan    : Plan := {}
  start   : Start := {}
  ports   : Tab Port := []
  lds     : Tab LdState := []
  reqs    : List Req := []
  nextReq : Nat := 0
  cache   : Cache := {}
  xlt     : Xlt := {}
  med     : Med := {}
  coh     : Coh := {}
  flush   : Flush := {}
  integ   : Integ := {}
  dbg     : Dbg := {}
  cip     : Cip := {}
  links   : Tab Link := []
  carts   : Tab Cart := []
  /-- SET_ID the device has taken and the serial the anchor records per slot (R410, R411). -/
  setId   : Nat := 0
  serials : Tab Nat := []
  spl     : Spl := {}
  grp     : Grp := {}
  pmc     : Pmc := {}
  smbAddr : Nat := 0x6A
  /-- The fields of Table 11-16 when they were last compared (R379). -/
  health  : List Nat := []
  out     : List Msg := []
  /-- How many free values have been read (log 11). -/
  free    : Nat := 0
  pending : List Instr := []
deriving DecidableEq, Repr

/-- Reasons to stop. None of the meanings stops: the spec gives every command an effect, and an error it names is
part of that effect (faults.md). The type is closed; its one constructor is raised by no command (safe). -/
inductive Fault where
  /-- Raised by no command: kept so that the type has a value. Safe. -/
  | none
deriving DecidableEq, Repr

/-- Reasons to refuse a command. -/
inductive Refusal where
  /-- The command has no meaning yet. Raised by Dispatch only. Safe. -/
  | notModelled (mnemonic : String)
deriving DecidableEq, Repr

/-- The machine before AUX33 rises (R441, R529): every register at its reset value, every store at the contents
that INVENTORY.md lists, no command waiting. Of the two ordering codes the spec covers it is an H72 (R2; DESIGN CHOICE, log 2). -/
def State.reset : State := {}

end Sys2Proof.Machine
end

