-- ==== Sys2Proof/Machine/Ops.lean ====
section
/-!
DEFINITION. The named operations over tables, registers, addresses and checks that every family uses.
-/
namespace Sys2Proof

/-! ### Sparse tables -/

/-- What a table holds at a key; `d` gives what an unlisted key reads as. -/
def Tab.get {α : Type} (d : Nat → α) : Tab α → Nat → α
  | [], k => d k
  | (j, v) :: t, k => if k = j then v else Tab.get d t k

/-- Insert or replace, keeping keys rising. -/
def Tab.insert {α : Type} : Tab α → Nat → α → Tab α
  | [], k, v => [(k, v)]
  | (j, w) :: t, k, v =>
    if k < j then (k, v) :: (j, w) :: t else if k = j then (k, v) :: t else (j, w) :: Tab.insert t k v

/-- Remove a key. -/
def Tab.erase {α : Type} : Tab α → Nat → Tab α
  | [], _ => []
  | (j, w) :: t, k => if k = j then Tab.erase t k else (j, w) :: Tab.erase t k

/-- Write a key: a write of what an unlisted key reads as removes the entry. -/
def Tab.set {α : Type} [DecidableEq α] (d : Nat → α) (t : Tab α) (k : Nat) (v : α) : Tab α :=
  if v = d k then Tab.erase t k else Tab.insert t k v

/-- Canonical form: keys strictly rising, no entry that reads as an unlisted key does. -/
def Tab.wf {α : Type} [DecidableEq α] (d : Nat → α) : Tab α → Bool
  | [] => true
  | [(j, v)] => decide (v ≠ d j)
  | (j, v) :: (k, w) :: t => decide (v ≠ d j) && decide (j < k) && Tab.wf d ((k, w) :: t)

/-- Apply a function to every listed entry. -/
def Tab.map {α β : Type} (f : Nat → α → β) (t : Tab α) : Tab β := List.map (fun e => (e.1, f e.1 e.2)) t

/-- Keep the listed entries that satisfy a test. -/
def Tab.filter {α : Type} (p : Nat → α → Bool) (t : Tab α) : Tab α := List.filter (fun e => p e.1 e.2) t

/-- Write consecutive bytes from an address. -/
def Tab.setBytes (d : Nat → Byte) (t : Tab Byte) (a : Nat) : List Byte → Tab Byte
  | [] => t
  | b :: bs => Tab.setBytes d (Tab.set d t a b) (a + 1) bs

/-- Read consecutive bytes from an address. -/
def Tab.getBytes (d : Nat → Byte) (t : Tab Byte) (a n : Nat) : List Byte :=
  (List.range n).map fun i => Tab.get d t (a + i)

/-- A line slot of a page. -/
def Page.line (p : Page) (i : Nat) : MLine := Tab.get (fun _ => {}) p.lines i

end Sys2Proof

namespace Sys2Proof.Machine

/-! ### Numbers and bytes -/

/-- Bits [hi:lo] of a number. -/
def bits (v hi lo : Nat) : Nat := v / 2 ^ lo % 2 ^ (hi - lo + 1)

/-- Bit i of a number. -/
def bit (v i : Nat) : Bool := Nat.testBit v i

/-- n bytes of a number, little-endian. -/
def le : Nat → Nat → List Byte
  | 0, _ => []
  | n + 1, v => BitVec.ofNat 8 v :: le n (v / 256)

/-- The number that little-endian bytes spell. -/
def ofLe : List Byte → Nat
  | [] => 0
  | b :: bs => b.toNat + 256 * ofLe bs

/-- Pad or cut a list of bytes to a length. -/
def padTo (n : Nat) (l : List Byte) : List Byte := (l ++ List.replicate (n - l.length) 0).take n

/-- Saturating addition. -/
def satAdd (lim v n : Nat) : Nat := min lim (v + n)

/-- Ceiling division. -/
def ceilDiv (a b : Nat) : Nat := if b = 0 then 0 else (a + b - 1) / b

/-- A signed 8-bit field (Table 16-8, in °C). -/
def signed8 (v : Nat) : Int := if v % 256 < 128 then (v % 256 : Nat) else (v % 256 : Nat) - 256

/-- A signed 16-bit field. -/
def signed16 (v : Nat) : Int := if v % 65536 < 32768 then (v % 65536 : Nat) else (v % 65536 : Nat) - 65536

/-- A signed value as a field of w bits. -/
def unsignedOf (w : Nat) (x : Int) : Nat := (x % (2 ^ w : Nat)).toNat

/-- Number of set bits among the low n. -/
def popCount (n v : Nat) : Nat := ((List.range n).filter fun i => Nat.testBit v i).length

/-- The set bits among the low n, ascending. -/
def bitsOf (n v : Nat) : List Nat := (List.range n).filter fun i => Nat.testBit v i

/-! ### Changing one part of the state -/

namespace State

/-- Replace `order`. -/
def putOrder (v : Order) (s : State) : State := { s with order := v }
/-- Replace `regs`. -/
def putRegs (v : Tab Word) (s : State) : State := { s with regs := v }
/-- Replace `shadow`. -/
def putShadow (v : Tab (Option Word)) (s : State) : State := { s with shadow := v }
/-- Replace `held`. -/
def putHeld (v : Tab (Option Word)) (s : State) : State := { s with held := v }
/-- Replace `sliceDone`. -/
def putSliceDone (v : Tab Nat) (s : State) : State := { s with sliceDone := v }
/-- Replace `sliceReg`. -/
def putSliceReg (v : Tab (Option Word)) (s : State) : State := { s with sliceReg := v }
/-- Replace `pins`. -/
def putPins (v : Pins) (s : State) : State := { s with pins := v }
/-- Replace `clk`. -/
def putClk (v : Clk) (s : State) : State := { s with clk := v }
/-- Replace `rate`. -/
def putRate (v : Rate) (s : State) : State := { s with rate := v }
/-- Replace `intc`. -/
def putIntc (v : IntC) (s : State) : State := { s with intc := v }
/-- Replace `msixMask`. -/
def putMsixMask (v : Tab Bool) (s : State) : State := { s with msixMask := v }
/-- Replace `msixPend`. -/
def putMsixPend (v : Tab Bool) (s : State) : State := { s with msixPend := v }
/-- Replace `pace`. -/
def putPace (v : Pace) (s : State) : State := { s with pace := v }
/-- Replace `bridgeWait`. -/
def putBridgeWait (v : Tab Bool) (s : State) : State := { s with bridgeWait := v }
/-- Replace `seq`. -/
def putSeq (v : Seq) (s : State) : State := { s with seq := v }
/-- Replace `flog`. -/
def putFlog (v : FLog) (s : State) : State := { s with flog := v }
/-- Replace `therm`. -/
def putTherm (v : Therm) (s : State) : State := { s with therm := v }
/-- Replace `keep`. -/
def putKeep (v : Keep) (s : State) : State := { s with keep := v }
/-- Replace `ham`. -/
def putHam (v : Ham) (s : State) : State := { s with ham := v }
/-- Replace `pat`. -/
def putPat (v : Pat) (s : State) : State := { s with pat := v }
/-- Replace `plan`. -/
def putPlan (v : Plan) (s : State) : State := { s with plan := v }
/-- Replace `start`. -/
def putStart (v : Start) (s : State) : State := { s with start := v }
/-- Replace `ports`. -/
def putPorts (v : Tab Port) (s : State) : State := { s with ports := v }
/-- Replace `lds`. -/
def putLds (v : Tab LdState) (s : State) : State := { s with lds := v }
/-- Replace `reqs`. -/
def putReqs (v : List Req) (s : State) : State := { s with reqs := v }
/-- Replace `nextReq`. -/
def putNextReq (v : Nat) (s : State) : State := { s with nextReq := v }
/-- Replace `cache`. -/
def putCache (v : Cache) (s : State) : State := { s with cache := v }
/-- Replace `xlt`. -/
def putXlt (v : Xlt) (s : State) : State := { s with xlt := v }
/-- Replace `med`. -/
def putMed (v : Med) (s : State) : State := { s with med := v }
/-- Replace `coh`. -/
def putCoh (v : Coh) (s : State) : State := { s with coh := v }
/-- Replace `flush`. -/
def putFlush (v : Flush) (s : State) : State := { s with flush := v }
/-- Replace `integ`. -/
def putInteg (v : Integ) (s : State) : State := { s with integ := v }
/-- Replace `dbg`. -/
def putDbg (v : Dbg) (s : State) : State := { s with dbg := v }
/-- Replace `cip`. -/
def putCip (v : Cip) (s : State) : State := { s with cip := v }
/-- Replace `links`. -/
def putLinks (v : Tab Link) (s : State) : State := { s with links := v }
/-- Replace `carts`. -/
def putCarts (v : Tab Cart) (s : State) : State := { s with carts := v }
/-- Replace `setId`. -/
def putSetId (v : Nat) (s : State) : State := { s with setId := v }
/-- Replace `serials`. -/
def putSerials (v : Tab Nat) (s : State) : State := { s with serials := v }
/-- Replace `spl`. -/
def putSpl (v : Spl) (s : State) : State := { s with spl := v }
/-- Replace `grp`. -/
def putGrp (v : Grp) (s : State) : State := { s with grp := v }
/-- Replace `pmc`. -/
def putPmc (v : Pmc) (s : State) : State := { s with pmc := v }
/-- Replace `smbAddr`. -/
def putSmbAddr (v : Nat) (s : State) : State := { s with smbAddr := v }
/-- Replace `health`. -/
def putHealth (v : List Nat) (s : State) : State := { s with health := v }
/-- Replace `out`. -/
def putOut (v : List Msg) (s : State) : State := { s with out := v }
/-- Replace `free`. -/
def putFree (v : Nat) (s : State) : State := { s with free := v }
/-- Replace `pending`. -/
def putPending (v : List Instr) (s : State) : State := { s with pending := v }

/-- Change the translation engine. -/
def modXlt (f : Xlt → Xlt) (s : State) : State := s.putXlt (f s.xlt)
/-- Change the media engine. -/
def modMed (f : Med → Med) (s : State) : State := s.putMed (f s.med)
/-- Change the caches. -/
def modCache (f : Cache → Cache) (s : State) : State := s.putCache (f s.cache)
/-- Change the coherence state. -/
def modCoh (f : Coh → Coh) (s : State) : State := s.putCoh (f s.coh)
/-- Change the flush state. -/
def modFlush (f : Flush → Flush) (s : State) : State := s.putFlush (f s.flush)
/-- Change the integrity state. -/
def modInteg (f : Integ → Integ) (s : State) : State := s.putInteg (f s.integ)
/-- Change the debug unit. -/
def modDbg (f : Dbg → Dbg) (s : State) : State := s.putDbg (f s.dbg)
/-- Change the cipher and security state. -/
def modCip (f : Cip → Cip) (s : State) : State := s.putCip (f s.cip)
/-- Change the spool engine. -/
def modSpl (f : Spl → Spl) (s : State) : State := s.putSpl (f s.spl)
/-- Change the interleave group. -/
def modGrp (f : Grp → Grp) (s : State) : State := s.putGrp (f s.grp)
/-- Change the start sequence. -/
def modStart (f : Start → Start) (s : State) : State := s.putStart (f s.start)
/-- Change the pins. -/
def modPins (f : Pins → Pins) (s : State) : State := s.putPins (f s.pins)
/-- Change the power sequencer. -/
def modSeq (f : Seq → Seq) (s : State) : State := s.putSeq (f s.seq)
/-- Change the temperature supervision. -/
def modTherm (f : Therm → Therm) (s : State) : State := s.putTherm (f s.therm)
/-- Change the Pattern store. -/
def modPat (f : Pat → Pat) (s : State) : State := s.putPat (f s.pat)
/-- Change the clock. -/
def modClk (f : Clk → Clk) (s : State) : State := s.putClk (f s.clk)
/-- Change the rate counts. -/
def modRate (f : Rate → Rate) (s : State) : State := s.putRate (f s.rate)
/-- Change the pace supervision. -/
def modPace (f : Pace → Pace) (s : State) : State := s.putPace (f s.pace)
/-- Change the fault log. -/
def modFLog (f : FLog → FLog) (s : State) : State := s.putFlog (f s.flog)
/-- Change the Keepsake store. -/
def modKeep (f : Keep → Keep) (s : State) : State := s.putKeep (f s.keep)

end State

/-! ### Registers in force -/

namespace State

/-- A register in force. -/
def reg (s : State) (off : Nat) : Word := Tab.get regReset s.regs off

/-- Replace a register in force. -/
def setReg (off : Nat) (v : Word) (s : State) : State := s.putRegs (Tab.set regReset s.regs off v)

/-- A field of a register in force. -/
def getF (s : State) (f : Fld) : Nat := (s.reg f.off).toNat / 2 ^ f.lo % 2 ^ f.w

/-- A field of a register as slice k runs it (R62). -/
def sliceF (s : State) (k : Nat) (f : Fld) : Nat :=
  ((Tab.get (fun _ => none) s.sliceReg (8 * f.off + k)).getD (s.reg f.off)).toNat / 2 ^ f.lo % 2 ^ f.w

/-- Replace a field of a register in force. -/
def setF (f : Fld) (v : Nat) (s : State) : State :=
  let old := (s.reg f.off).toNat
  s.setReg f.off (BitVec.ofNat 32 (old - old / 2 ^ f.lo % 2 ^ f.w * 2 ^ f.lo + v % 2 ^ f.w * 2 ^ f.lo))

/-- A one-bit field as a condition. -/
def flag (s : State) (f : Fld) : Bool := s.getF f != 0

/-- Set or clear a one-bit field. -/
def setFlag (f : Fld) (b : Bool) (s : State) : State := s.setF f (if b then 1 else 0)

/-- Count into a field that saturates. -/
def countF (f : Fld) (n : Nat) (s : State) : State := s.setF f (satAdd (2 ^ f.w - 1) (s.getF f) n)

/-- Count into a 64-bit pair of registers (R65), modulo 2^64. -/
def count64 (lo hi : Fld) (n : Nat) (s : State) : State :=
  let v := (s.getF lo + 2 ^ 32 * s.getF hi + n) % 2 ^ 64
  (s.setF lo (v % 2 ^ 32)).setF hi (v / 2 ^ 32)

/-- A 64-bit value that two registers hold. -/
def get64 (s : State) (lo hi : Fld) : Nat := s.getF lo + 2 ^ 32 * s.getF hi

/-- Write a value of up to 64 bits into a LO and a HI field. -/
def set64 (lo hi : Fld) (v : Nat) (s : State) : State := (s.setF lo (v % 2 ^ 32)).setF hi (v / 2 ^ 32)

/-! ### Trace, free values, time -/

/-- Send a message at the package boundary. -/
def emit (m : Msg) (s : State) : State := s.putOut (s.out ++ [m])

/-- The next free value (R334 draws and contents left open): nothing is known of it. -/
def freeVal (s : State) : Nat := Config.free s.free

/-- One free value has been read. -/
def freeStep (s : State) : State := s.putFree (s.free + 1)

/-- Advance time by n ns. Device time runs while the supervisor is awake; while a correction of R468 slews it back it
advances at half rate. -/
def advance (n : Nat) (s : State) : State :=
  let half := min s.clk.slew n
  let d := if s.clk.awake then n - half / 2 else 0
  s.putClk { s.clk with
      now := s.clk.now + n
      time := (s.clk.time + d) % 2 ^ 64
      slew := if s.clk.awake then s.clk.slew - half else s.clk.slew }

end State

/-! ### Addresses (R27 to R31, R194, R230) -/

/-- Maximum mapped capacity of the ordering code in bytes (R28). -/
def maxMapped : Order → Nat
  | .h72 => 2 ^ 45
  | .h48 => 20 * 2 ^ 40

/-- The slice that owns a line DPA[44:6] (R29). -/
def sliceOf (line : Nat) : Nat := (line % 8) ^^^ (line / 8 % 8) ^^^ (line / 64 % 8)

/-- Swatch of a line. -/
def swatchOf (line : Nat) : Nat := line / 64

/-- Line of a device physical address. -/
def lineOf (dpa : Nat) : Nat := dpa / 64 % 2 ^ 39

/-- The HBM regions in the order of Table 01-11, in MiB of 64-B slot capacity (R33): Lining data, tag store, swatch map, patch index, Thimble, spool memory, map journal buffer, media
tables, translation work area, Reserved. -/
def hbmRegions : Order → List Nat
  | .h72 => [24576, 2048, 40960, 4096, 128, 64, 64, 256, 1024, 512]
  | .h48 => [16384, 1536, 25600, 4096, 128, 64, 64, 256, 1024, 0]

/-- 64-B blocks of an HBM region. -/
def hbmBlocks (o : Order) (region : Nat) : Nat := 16384 * (hbmRegions o).getD region 0

/-- Lining sets of the ordering code (R193). -/
def liningSets : Order → Nat
  | .h72 => 25165824
  | .h48 => 16777216

/-- The computed tag of a line (R194). -/
def liningTag (o : Order) (line : Nat) : Nat :=
  match o with
  | .h72 => line / 8 / 2 ^ 20 % 2 ^ 16
  | .h48 => line / 8 / 2 ^ 21 % 2 ^ 15

/-- The Lining set of a line (R194, R30). -/
def liningSet (o : Order) (line : Nat) : Nat :=
  let k := line / 8 % 2 ^ 36
  let t := liningTag o line
  match o with
  | .h72 => sliceOf line * 3145728 + (t % 3 * 2 ^ 20 + (k % 2 ^ 20 ^^^ t))
  | .h48 => sliceOf line * 2097152 + (k % 2 ^ 21 ^^^ t)

/-- The Thimble set of a line (R230). -/
def thimbleSet (line : Nat) : Nat :=
  let k := line / 8 % 2 ^ 36
  sliceOf line * 262144 + (k % 2 ^ 18 ^^^ k / 2 ^ 18)

/-- Fields of a PSA (Table 01-10). -/
def psaSlot (p : Nat) : Nat := p / 2 ^ 29 % 32
def psaDie (p : Nat) : Nat := p / 2 ^ 25 % 16
def psaBolt (p : Nat) : Nat := p / 2 ^ 13 % 4096
def psaPage (p : Nat) : Nat := p % 8192
/-- PSA[33:13]: slot, die and bolt of a page. -/
def boltOf (p : Nat) : Nat := p / 8192
/-- PSA[33:13] from its fields. -/
def mkBolt (slot die bolt : Nat) : Nat := slot * 65536 + die * 4096 + bolt
/-- PSA of a page of a bolt. -/
def mkPsa (b page : Nat) : Nat := b * 8192 + page
def boltSlot (b : Nat) : Nat := b / 65536
def boltDie (b : Nat) : Nat := b / 4096 % 16
def boltNum (b : Nat) : Nat := b % 4096
/-- The PSA that means unmapped (Table 04-1). -/
def unmappedPsa : Nat := 0x3FFFFFFFF

/-! ### Checks -/

/-- One step of a CRC that takes bits most significant first. -/
def crcMsbBit (w poly : Nat) (c : Nat) (b : Bool) : Nat :=
  let top := Nat.testBit c (w - 1) != b
  let c' := c * 2 % 2 ^ w
  if top then c' ^^^ poly else c'

/-- Bits of a byte, most significant first. -/
def msbBits (b : Nat) : List Bool := [7, 6, 5, 4, 3, 2, 1, 0].map (Nat.testBit b)

/-- CRC-64/ECMA-182 of bytes (R282). -/
def crc64 (bs : List Nat) : Nat :=
  (bs.flatMap msbBits).foldl (crcMsbBit 64 0x42F0E1EBA9EA3693) 0

/-- CRC-24 of RFC 4880 (R121). -/
def crc24 (bs : List Nat) : Nat :=
  (bs.flatMap msbBits).foldl (crcMsbBit 24 0x864CFB) 0xB704CE

/-- One step of a reflected CRC-32. -/
def crc32Bit (c : Nat) (b : Bool) : Nat :=
  let x := Nat.testBit c 0 != b
  let c' := c / 2
  if x then c' ^^^ 0x82F63B78 else c'

/-- CRC-32C of bytes (00: Castagnoli, reflected, initial value and final XOR all ones). -/
def crc32c (bs : List Byte) : Nat :=
  ((bs.flatMap fun b => [0, 1, 2, 3, 4, 5, 6, 7].map (Nat.testBit b.toNat)).foldl crc32Bit 0xFFFFFFFF)
    ^^^ 0xFFFFFFFF

/-- Bytes 0 to 63 of a line. -/
def lineBytes (d : BitVec 512) : List Nat := (List.range 64).map fun i => d.toNat / 256 ^ i % 256

/-- The 64-bit value A of R282 for a line address and its region-shared flag. -/
def tagA (line : Nat) (shared : Bool) : Nat := line % 2 ^ 39 + (if shared then 2 ^ 39 else 0)

/-- The carry tag of a line (R282). -/
def carryTag (d : BitVec 512) (line : Nat) (shared : Bool) : BitVec 64 :=
  BitVec.ofNat 64 (crc64 (lineBytes d ++ (List.range 8).map fun i => tagA line shared / 256 ^ i % 256))

/-- The CRC over data bytes with the address, flag and padding inputs 0 (R83, R115). -/
def dataTag (d : BitVec 512) : BitVec 64 := BitVec.ofNat 64 (crc64 (lineBytes d ++ List.replicate 8 0))

/-- The CRC of a zero line at an address (R284). -/
def addrTag (line : Nat) (shared : Bool) : BitVec 64 := carryTag 0 line shared

/-- Whether a line's carry tag checks at an address (R286). -/
def tagOk (l : Line) (line : Nat) (shared : Bool) : Bool := l.tag == carryTag l.data line shared

/-- The line that a write of these data makes (R283). -/
def mkLine (d : BitVec 512) (line : Nat) (shared poison : Bool) : Line :=
  { data := d, tag := carryTag d line shared, poison := poison }

/-- Bits of a line that byte enables select. -/
def beMask (be : BitVec 64) : BitVec 512 :=
  BitVec.ofNat 512 ((List.range 64).foldl (fun m i => if be.getLsbD i then m + 255 * 256 ^ i else m) 0)

/-- Number of nonzero 9-bit symbols among the 80 of an RS(80,64) codeword's error pattern (R288, R289). -/
def symErrors (e : BitVec 720) : Nat :=
  ((List.range 80).filter fun j => e.toNat / 512 ^ j % 512 != 0).length

/-! ### Signals to the host: requests of the spec's own tables -/

/-- Whether stamp a is newer than stamp b (R110). -/
def newer (a b : Nat) : Bool :=
  let d := (a + 2 ^ 40 - b % 2 ^ 40) % 2 ^ 40
  1 ≤ d && d ≤ 2 ^ 39 - 1

/-- The answer of a meaning: the next state. -/
abbrev Out := Host.Outcome State Fault Refusal

end Sys2Proof.Machine
end

