-- ==== Sys2Proof/Machine/Cipher.lean ====
section
/-!
DEFINITION. The modes in which the cipher bank uses AES-256: XTS of lines and tags (09, R285; 10, R320, R338), GCM of export and import jobs (R338, R339; 13, R434)
and key wrap (R325, R340). The block cipher itself is opaque (log 12); blocks and keys are numbers whose byte 0 is the lowest.
-/
namespace Sys2Proof.Machine

/-- One AES-256 block, and its inverse. -/
def aesEnc (key block : Nat) : Nat := Config.aes (key % 2 ^ 256) (block % 2 ^ 128) % 2 ^ 128
def aesDec (key block : Nat) : Nat := Config.aesInv (key % 2 ^ 256) (block % 2 ^ 128) % 2 ^ 128

/-- Bytes 0 to 31 and bytes 32 to 63 of a key value (Table 10-2). -/
def keyLow (k : BitVec 512) : Nat := k.toNat % 2 ^ 256
def keyHigh (k : BitVec 512) : Nat := k.toNat / 2 ^ 256

/-! ### XTS -/

/-- T α^j from T α^(j-1): GF(2^128) of IEEE Std 1619, polynomial 0x87. -/
def xtsNext (t : Nat) : Nat := (2 * t % 2 ^ 128) ^^^ (if t / 2 ^ 127 % 2 = 1 then 0x87 else 0)

/-- T α^j of the tweak value i under a key. -/
def xtsTweak (key : BitVec 512) (i j : Nat) : Nat := j.fold (fun _ _ t => xtsNext t) (aesEnc (keyHigh key) i)

/-- The four blocks of a line under a block function of K1. -/
def xtsLine (f : Nat → Nat → Nat) (key : BitVec 512) (i : Nat) (d : BitVec 512) : BitVec 512 :=
  let block (j : Nat) : Nat :=
    let t := xtsTweak key i j
    f (keyLow key) ((d.toNat / 2 ^ (128 * j)) % 2 ^ 128 ^^^ t) ^^^ t
  BitVec.ofNat 512 (block 0 + 2 ^ 128 * block 1 + 2 ^ 256 * block 2 + 2 ^ 384 * block 3)

def xtsEnc (key : BitVec 512) (i : Nat) (d : BitVec 512) : BitVec 512 := xtsLine aesEnc key i d
def xtsDec (key : BitVec 512) (i : Nat) (d : BitVec 512) : BitVec 512 := xtsLine aesDec key i d

/-- The tweak value of a line under an epoch. -/
def lineTweak (line epoch : Nat) : Nat := line % 2 ^ 39 + 2 ^ 39 * (epoch % 256)

/-- The mask of a line's tag: bits [63:0] of T α^4 (R285). -/
def tagMask (key : BitVec 512) (i : Nat) : BitVec 64 := BitVec.ofNat 64 (xtsTweak key i 4)

/-! ### GCM -/

/-- A block with its bytes in the opposite order: the number that GHASH and the counter read, byte 0 highest. -/
def swapBlock (x : Nat) : Nat := (List.range 16).foldl (fun a k => 256 * a + x / 256 ^ k % 256) 0

/-- Product of GHASH: bit 0 of a block is the highest bit of byte 0. -/
def ghashMul (x y : Nat) : Nat :=
  let step (a : Nat × Nat) (k : Nat) : Nat × Nat :=
    (if x / 2 ^ (127 - k) % 2 = 1 then a.1 ^^^ a.2 else a.1, if a.2 % 2 = 1 then (a.2 / 2) ^^^ (0xE1 * 2 ^ 120) else a.2 / 2)
  ((List.range 128).foldl step (0, y)).1

/-- The accumulator after the blocks of a line. -/
def ghashLine (key : BitVec 512) (acc : Nat) (d : BitVec 512) : Nat :=
  let h := swapBlock (aesEnc (keyLow key) 0)
  (List.range 4).foldl (fun a j => ghashMul (a ^^^ swapBlock (d.toNat / 2 ^ (128 * j) % 2 ^ 128)) h) acc

/-- J0 of a 96-bit IV. -/
def gcmStart (iv : Nat) : Nat := swapBlock (iv % 2 ^ 96) + 1

/-- The counter block n further. -/
def gcmCounter (c n : Nat) : Nat := c - c % 2 ^ 32 + (c + n) % 2 ^ 32

/-- A line with the key stream of the four counter blocks from `ctr` on. -/
def gcmLine (key : BitVec 512) (ctr : Nat) (d : BitVec 512) : BitVec 512 :=
  let ks (j : Nat) : Nat := aesEnc (keyLow key) (swapBlock (gcmCounter ctr j))
  d ^^^ BitVec.ofNat 512 (ks 0 + 2 ^ 128 * ks 1 + 2 ^ 256 * ks 2 + 2 ^ 384 * ks 3)

/-- The tag of a message from its accumulator and its lengths in bits, byte 0 lowest. -/
def gcmTag (key : BitVec 512) (j0 acc aad text : Nat) : Nat :=
  let h := swapBlock (aesEnc (keyLow key) 0)
  swapBlock (ghashMul (acc ^^^ (2 ^ 64 * (aad % 2 ^ 64) + text % 2 ^ 64)) h) ^^^ aesEnc (keyLow key) (swapBlock j0)

/-! ### Key wrap (RFC 3394) -/

/-- Eight bytes, the first highest. -/
def beWord (l : List Byte) : Nat := l.foldl (fun a b => 256 * a + b.toNat) 0
def beBytes (v : Nat) : List Byte := (le 8 v).reverse

/-- The bytes in words of eight. -/
def wrapWords : Nat → List Byte → List Nat
  | 0, _ => []
  | n + 1, l => beWord (l.take 8) :: wrapWords n (l.drop 8)

/-- Bytes wrapped under a 256-bit key: six rounds over the words. -/
def keyWrap (key : Nat) (l : List Byte) : List Byte :=
  let n := l.length / 8
  let step (a : Nat × List Nat) (t : Nat) : Nat × List Nat :=
    let i := t % n
    let b := swapBlock (aesEnc key (swapBlock (2 ^ 64 * a.1 + a.2.getD i 0)))
    ((b / 2 ^ 64) ^^^ (t + 1), a.2.set i (b % 2 ^ 64))
  let (a, r) := (List.range (6 * n)).foldl step (0xA6A6A6A6A6A6A6A6, wrapWords n l)
  beBytes a ++ r.flatMap beBytes

end Sys2Proof.Machine
end

