-- ==== Sys2Proof/Machine/Events.lean ====
section
/-!
DEFINITION. Firing an event source, presenting it at the targets, and writing Hamper records: the shared operations
of 17 and 18 that every family uses.
-/
namespace Sys2Proof.Machine

/-! ### Interrupt controller (R518 to R526) -/

/-- Sources that no chapter defines: they never fire (R518). -/
def reservedSource (n : Nat) : Bool :=
  (8 ≤ n && n ≤ 31) || n == 39 || (59 ≤ n && n ≤ 63) || (73 ≤ n && n ≤ 95) || (111 ≤ n && n ≤ 127) || (138 ≤ n && n ≤ 159)
  || (170 ≤ n && n ≤ 191) || (216 ≤ n && n ≤ 223) || (232 ≤ n && n ≤ 255)
  || (512 ≤ n && n ≤ 639 && (n % 32 == 7 || n % 32 ≥ 9)) || (644 ≤ n && n ≤ 671) || (681 ≤ n && n ≤ 703)
  || (836 ≤ n && n ≤ 863) || (872 ≤ n && n ≤ 895) || 992 ≤ n

namespace State

/-- Whether target t has source n enabled at both levels (R521). -/
def enabledAt (s : State) (t n : Nat) : Bool :=
  bit (s.getF (INT.EN_SUM_EN t)) (n / 32) && bit (s.getF (INT.EN_CAUSE_EN t (n / 32))) (n % 32)

/-- What target t presents (R522). -/
def curAt (s : State) (t : Nat) : Option Nat := Tab.get (fun _ => none) s.intc.cur t

/-- The lowest-numbered source that target t holds unseen and has enabled (R522). -/
def nextAt (s : State) (t : Nat) : Option Nat :=
  ((s.intc.unseen.filter fun k _ => k / 1024 == t && s.enabledAt t (k % 1024)).head?).map fun e => e.1 % 1024

/-- The port of an LD (R359). -/
def ldOf (s : State) (n : Nat) : LdState := Tab.get (fun _ => {}) s.lds n

/-- Replace what is kept of an LD. -/
def setLd (n : Nat) (l : LdState) (s : State) : State := s.putLds (Tab.set (fun _ => {}) s.lds n l)

/-- Send vector v of LD n (R381): a masked vector sets its pending bit; a message for an LD whose port link is down
is discarded. -/
def sendVector (n v : Nat) (s : State) : State :=
  if Tab.get (fun _ => true) s.msixMask (2048 * n + v) then
    s.putMsixPend (Tab.set (fun _ => false) s.msixPend (2048 * n + v) true)
  else match (s.ldOf n).port with
    | some p => if s.flag (HPT.LINK_STATUS_CXL p) then s.emit (.msix n v) else s
    | none => s

/-- ALERT_N and SMB_ALERT_N follow target 16 (R524): driven while it presents a source and ALERT_EN is 1, released
in the gap after an acknowledge. -/
def driveAlert (s : State) : State :=
  let a := (s.curAt 16).isSome && s.flag TOP.GCTRL_ALERT_EN && !s.pins.alertGap
  s.putPins { s.pins with alert := a, smbAlert := a && s.flag INT.MGMT_CTRL_SMBALERT_EN }

/-- A target that presents nothing presents its next source (R522); a host target sends vector 1 (R526); the
management target waits out its gap (R524). -/
def presentAt (t : Nat) (s : State) : State :=
  if (s.curAt t).isSome || (t == 16 && s.pins.alertGap) then s
  else match s.nextAt t with
    | none => s
    | some n =>
      let s1 := s.putIntc { s.intc with
        cur := Tab.set (fun _ => none) s.intc.cur t (some n)
        unseen := Tab.set (fun _ => false) s.intc.unseen (1024 * t + n) false }
      let s2 := (s1.setF (INT.CURRENT_SOURCE t) n).setF (INT.CURRENT_VALID t) 1
      let s3 := s2.countF (INT.TGT_STATUS_PRESENTED t) 1
      if t < 16 then s3.sendVector t 1 else s3.driveAlert

/-- Every target presents what it may. -/
def presentAll (s : State) : State := (List.range 17).foldl (fun s t => s.presentAt t) s

/-- Mark a source unseen at every target that has it enabled (R521). -/
def markUnseen (n : Nat) (s : State) : State :=
  (List.range 17).foldl (fun s t =>
    if s.enabledAt t n then
      s.putIntc { s.intc with unseen := Tab.set (fun _ => false) s.intc.unseen (1024 * t + n) true }
    else s) s

/-- Vector 0 of every LD that has source 0 or 1 enabled in its mask (R382). -/
def vectorZero (n : Nat) (s : State) : State :=
  if n < 2 then (List.range 16).foldl (fun s t => if s.enabledAt t n then s.sendVector t 0 else s) s else s

/-- Fire an event source (R518, R519, R521): a reserved source never fires. -/
def fire (n : Nat) (s : State) : State :=
  if reservedSource n then s
  else
    let g := n / 32
    let c := (s.getF (INT.CAUSE_CAUSE g)) ||| 2 ^ (n % 32)
    let s1 := s.setF (INT.CAUSE_CAUSE g) c
    let s2 := s1.setF INT.SUMMARY_GROUP (s1.getF INT.SUMMARY_GROUP ||| 2 ^ g)
    ((s2.markUnseen n).vectorZero n).presentAll

/-- End target t's presentation by an acknowledge of source n, or count a miss (R522 to R524). -/
def ackTarget (t n : Nat) (s : State) : State :=
  if s.curAt t == some n then
    let s1 := s.putIntc { s.intc with cur := Tab.set (fun _ => none) s.intc.cur t none }
    let s2 := (s1.setF (INT.CURRENT_SOURCE t) 0).setF (INT.CURRENT_VALID t) 0
    if t = 16 then
      let s3 := if s2.pins.alert then (s2.putPins { s2.pins with alertGap := true }) else s2
      (s3.driveAlert).presentAt 16
    else s2.presentAt t
  else s.countF (INT.TGT_STATUS_ACK_MISS t) 1

/-! ### Keepsake: Tack (R500 to R504) -/

/-- R500: Tack and Hem accept writes while PG_KPV is high and every die zone lies from -10 °C to 95 °C. -/
def kpsOk (s : State) : Bool := s.flag KPS.STATUS_KPV_UP && s.flag KPS.STATUS_TEMP_OK

/-- A word of Tack. -/
def tackWord (s : State) (w : Nat) : Word := Tab.get (fun _ => 0) s.keep.tack w

/-- Store a word of Tack (R502: indivisible). -/
def setTack (w : Nat) (v : Word) (s : State) : State :=
  s.putKeep { s.keep with tack := Tab.set (fun _ => 0) s.keep.tack w v }

/-- Store bytes, four to a word, from word w on. -/
def setTackBytes (w : Nat) (bs : List Byte) (s : State) : State :=
  (List.range (bs.length / 4)).foldl (fun s i => s.setTack (w + i) (BitVec.ofNat 32 (ofLe ((bs.drop (4 * i)).take 4)))) s

/-- Bytes of Tack from word w on. -/
def tackBytes (s : State) (w n : Nat) : List Byte := (List.range n).flatMap fun i => le 4 (s.tackWord (w + i)).toNat

/-- A write that R500 refuses is counted, and source 866 fires once per episode (R503). -/
def refuseWrite (s : State) : State :=
  let s1 := s.countF KPS.STATUS_REFUSED 1
  if s.keep.refusing then s1 else (s1.putKeep { s1.keep with refusing := true }).fire 866

/-- An episode of refusals ends when Tack and Hem accept writes again (R503). -/
def keepResume (s : State) : State := if s.kpsOk then s.putKeep { s.keep with refusing := false } else s

/-- Stored value of lifetime counter c: high word first, then low word (Table 17-3). -/
def lifetimeStored (s : State) (c : Nat) : Nat :=
  (s.tackWord (0x1200 + 2 * c)).toNat * 2 ^ 32 + (s.tackWord (0x1201 + 2 * c)).toNat

/-- Add n to the stored value of lifetime counter c: high word, then low word (R504). -/
def lifetimeWrite (c n : Nat) (s : State) : State :=
  let v := (s.lifetimeStored c + n) % 2 ^ 64
  (s.setTack (0x1200 + 2 * c) (BitVec.ofNat 32 (v / 2 ^ 32))).setTack (0x1201 + 2 * c) (BitVec.ofNat 32 v)

/-- Increment a lifetime counter (Table 17-4, R504): written, or accumulated while R500 refuses writes. -/
def lifetime (c : Nat) (s : State) : State :=
  if s.kpsOk then s.lifetimeWrite c 1
  else (s.putKeep { s.keep with
    acc := Tab.set (fun _ => 0) s.keep.acc c (Tab.get (fun _ => 0) s.keep.acc c + 1) }).refuseWrite

/-- What KPS.CNT shows: the stored value and what has accumulated (R504). -/
def lifetimeValue (s : State) (c : Nat) : Nat := s.lifetimeStored c + Tab.get (fun _ => 0) s.keep.acc c

/-! ### The Hamper (R512 to R515, R560) -/

end State

/-- Bytes 0 to 47 of a record, before its CRC (Table 17-7). -/
def HamRec.body (r : HamRec) : List Byte :=
  le 6 r.seq ++ le 2 r.src ++ le 8 r.time ++ le 2 r.code
    ++ le 2 ((if r.held then 1 else 0) + (if r.unset then 2 else 0)) ++ padTo 28 r.payload

/-- Bytes 0 to 59 of a record (Table 17-7). -/
def HamRec.bytes60 (r : HamRec) : List Byte := r.body ++ le 4 (crc32c r.body) ++ List.replicate 8 0

/-- The MARK word, "HMPK". -/
def hamMark : Word := 0x4B504D48

/-- A record read back from its 64 bytes (Table 17-7); none unless MARK and CRC hold (R512). -/
def HamRec.parse (bs : List Byte) : Option HamRec :=
  let u := fun o n => ofLe ((bs.drop o).take n)
  if u 60 4 = hamMark.toNat ∧ u 48 4 = crc32c (bs.take 48) then
    some { seq := u 0 6, src := u 6 2, time := u 8 8, code := u 16 2,
           held := bit (u 18 2) 0, unset := bit (u 18 2) 1, payload := (bs.drop 20).take 28 }
  else none

namespace State

/-- Write a record in copy A in three steps: MARK 0, bytes 0 to 59, MARK (R512, R514). -/
def hamWriteA (r : HamRec) (s : State) : State :=
  let w := 16 * (r.seq % 256)
  ((s.setTack (w + 15) 0).setTackBytes w r.bytes60).setTack (w + 15) hamMark

/-- The record in slot i of copy A, if valid. -/
def hamA (s : State) (i : Nat) : Option HamRec := HamRec.parse (s.tackBytes (16 * i) 16)

/-- Valid records of copy A in slot order. -/
def hamAllA (s : State) : List HamRec := (List.range 256).filterMap s.hamA

/-! Copy B (R515) -/

/-- Slots of group g whose cartridges are adopted and inside the write temperature window, ascending. -/
def hamSlots (s : State) (g : Nat) : List Nat :=
  (List.range 8).map (8 * g + ·) |>.filter fun n =>
    let c := Tab.get (fun _ => ({} : Cart)) s.carts n
    c.adopted && c.inWindow

/-- The next page of a cartridge's Hamper bolts: the four bolts are written in rotation; when the active one fills, the oldest of the others is reset and opened. -/
def hamNextPage (s : State) (slot : Nat) : Nat × Nat :=
  match (s.ham.bPages.filter fun p => p.slot == slot).getLast? with
  | none => (0, 0)
  | some p => if p.page < 8191 then (p.bolt, p.page + 1) else ((p.bolt + 1) % 4, 0)

/-- Program one page of a replica. -/
def hamProgram (g : Nat) (mirror : Bool) (slot : Nat) (s : State) (recs : List HamRec) : State :=
  let (b, p) := s.hamNextPage slot
  let old := s.ham.bPages.filter fun q => !(q.slot == slot && q.bolt == b && p == 0)
  let n := Tab.get (fun _ => 0) s.ham.bResets (4 * slot + b)
  s.putHam { s.ham with
    bPages := old ++ [⟨g, mirror, slot, b, p, recs, s.xlt.mclk⟩]
    bResets := if old.length = s.ham.bPages.length then s.ham.bResets else Tab.set (fun _ => 0) s.ham.bResets (4 * slot + b) (n + 1) }

/-- Records in pages of 64. -/
def hamPages (l : List HamRec) : List (List HamRec) := (List.range ((l.length + 63) / 64)).map fun i => (l.drop (64 * i)).take 64

/-- Records once per SEQ in rising order, the newest 16,384 of them: of one SEQ the first in the list. -/
def hamNewest (l : List HamRec) : List HamRec :=
  let t := l.foldl (fun (acc : List (Nat × HamRec)) r => if acc.any (fun e => e.1 == r.seq) then acc else Tab.insert acc r.seq r) []
  (t.drop (t.length - 16384)).map (fun e => e.2)

/-- The cartridge in slot n is the primary or the mirror of group g: one that was not so before first receives the newest records of the other replicas and of copy A that it does
not hold; then the gathered records follow. -/
def hamReplica (g : Nat) (mirror : Bool) (n : Nat) (recs : List HamRec) (s : State) : State :=
  let key := 2 * g + (if mirror then 1 else 0)
  let mine := (s.ham.bPages.filter fun p => p.group == g && p.mirror == mirror && p.slot == n).flatMap (·.recs)
  let others := (s.ham.bPages.filter fun p => (Tab.get (fun _ => ({} : Cart)) s.carts p.slot).adopted).flatMap (·.recs)
  let seed := if Tab.get (fun _ => 0) s.ham.replicas key = n + 1 then []
    else (hamNewest (others ++ s.hamAllA)).filter fun r => !(mine ++ recs).any fun q => q.seq == r.seq
  let s1 := s.putHam { s.ham with replicas := Tab.set (fun _ => 0) s.ham.replicas key (n + 1) }
  (hamPages seed ++ hamPages recs).foldl (fun s l => s.hamProgram g mirror n l) s1

/-- Program the open page of copy B in every replica: in each planned group a primary on the lowest-numbered adopted cartridge within the window and a mirror on the next. While
there is no such cartridge, or while halted, the records stay gathered. -/
def hamFlushB (s : State) : State :=
  let groups := bitsOf 4 s.plan.groups
  if s.ham.bOpen.isEmpty || s.flag TOP.HALT_HALTED || groups.all (fun g => (s.hamSlots g).isEmpty) then s
  else
    let recs := s.ham.bOpen
    let s1 := groups.foldl (fun s g => match s.hamSlots g with
      | [] => s
      | [a] => s.hamReplica g false a recs
      | a :: b :: _ => (s.hamReplica g false a recs).hamReplica g true b recs) s
    s1.putHam { s1.ham with bOpen := [] }

/-- Gather a record for copy B, once valid in copy A; a page that holds 64 is programmed. -/
def hamGatherB (r : HamRec) (s : State) : State :=
  let s1 := s.putHam { s.ham with
    bOpen := s.ham.bOpen.drop (s.ham.bOpen.length - 16383) ++ [r]
    bSince := if s.ham.bOpen.isEmpty then s.clk.now else s.ham.bSince }
  if 64 ≤ s1.ham.bOpen.length then s1.hamFlushB else s1

/-- The views of HMP registers that follow the Hamper's state. -/
def hamRegs (s : State) : State :=
  (((s.set64 HMP.NEXT_SEQ_LO_SEQ HMP.NEXT_SEQ_HI_SEQ s.ham.nextSeq).set64
    HMP.HORIZON_LO_SEQ HMP.HORIZON_HI_SEQ s.ham.horizon).setF HMP.STATUS_HELD s.ham.holding.length).setFlag
      HMP.STATUS_CLEARING s.ham.clear.isSome

/-- A record that cannot be written now: it enters the holding buffer of 16, or is discarded, counted, and
source 864 fires once per episode (R514). -/
def hamHold (r : HamRec) (s : State) : State :=
  if s.ham.holding.length < 16 then
    let s1 := s.putHam { s.ham with holding := s.ham.holding ++ [r] }
    if s.kpsOk then s1 else s1.refuseWrite
  else
    let s1 := s.countF HMP.COUNTS_DROPPED 1
    if s.ham.dropping then s1 else (s1.putHam { s1.ham with dropping := true }).fire 864

/-- Write a Hamper record (R560): it takes the next SEQ (R513) and goes to copy A, or waits while R500 refuses writes or
a clear is in progress (R514, R517). -/
def hamper (code src : Nat) (payload : List Byte) (s : State) : State :=
  let r : HamRec := { seq := s.ham.nextSeq, src, time := s.clk.time, code, unset := !s.clk.timeSet, payload }
  let s1 := s.putHam { s.ham with nextSeq := (s.ham.nextSeq + 1) % 2 ^ 48 }
  let s2 := if s.kpsOk && s.ham.holding.isEmpty && s.ham.clear.isNone then (s1.hamWriteA r).hamGatherB r
            else s1.hamHold r
  s2.hamRegs

/-- Fire a source and write its record. -/
def fireRec (code src : Nat) (payload : List Byte) (s : State) : State := (s.fire src).hamper code src payload

end State

end Sys2Proof.Machine
end

