-- ==== Sys2Proof/Machine/Access.lean ====
section
/-!
DEFINITION. The register window's access rules (R56 to R65) and the rights check every access passes (R349 to R351).
The effects of writing a register that has a row of its own are in the family files; Registers.lean joins both.
-/
namespace Sys2Proof.Machine

/-- Outcome of a register access (Table 02-7). -/
inductive Access where
  | ok | busError | denied
deriving DecidableEq, Repr

/-- The management endpoint, outside a session or in one (R349). -/
def isMgmt (m : Nat) : Bool := 32 ≤ m && m ≤ 36

/-- Bits of CIP.RIGHTS_FLAGS (Table 10-14). -/
def rightMemRd : Nat := 0
def rightMemWr : Nat := 1
def rightRegWr : Nat := 2
def rightRaw : Nat := 3
def rightHamperClear : Nat := 4
def rightHemWrite : Nat := 5
def rightDebug : Nat := 6
def rightKeyAdmin : Nat := 7
def rightClearChain : Nat := 8
def rightHaltFlush : Nat := 9

namespace State

/-- Whether rights set m holds a flag (R350). -/
def hasRight (s : State) (m r : Nat) : Bool := s.getF ⟨0x1b0820 + 64 * m, r, 1⟩ != 0

/-- Whether rights set m permits key ID k (R350). -/
def hasKey (s : State) (m k : Nat) : Bool := s.getF ⟨0x1b0800 + 64 * m + 4 * (k / 32), k % 32, 1⟩ != 0

/-- Count a denial of master m, fire sources 110 and 100 and write the record of R351. `access` is 0 memory read,
1 memory write, 2 register write, 3 raw media read, 4 other. -/
def deny (m access missing keyId addr : Nat) (s : State) : State :=
  let s1 := if access < 2 || access = 3 then s.countF (CIP.DENIED_MEM m) 1 else s.countF (CIP.DENIED_REG m) 1
  let n := Tab.get (fun _ => 0) s1.rate.denials m + 1
  let s2 := s1.putRate { s1.rate with denials := Tab.set (fun _ => 0) s1.rate.denials m n }
  let s3 := if n = 1 then
    s2.fireRec 0x0603 110 (le 1 m ++ le 1 access ++ le 1 missing ++ le 1 keyId ++ le 8 addr) else s2
  if n = 1001 then s3.fire 100 else s3

/-- A posted write of LD m is discarded: its port's AER status logs a Completer Abort with its header, unless one is logged already (Table 02-7; log 47). -/
def aerAbort (m off : Nat) (s : State) : State := match (s.ldOf m).port with
  | none => s
  | some p =>
    let x := Tab.get (fun _ => {}) s.ports p
    if x.errors.abort.isSome then s else s.putPorts (Tab.set (fun _ => {}) s.ports p { x with errors := { x.errors with abort := some off } })

/-- Table 02-7: how a master learns of an error of its register write, and of the completion of an MCTP message. -/
def report (m off : Nat) (r : Access) (s : State) : State :=
  if isMgmt m then
    match r with
    | .ok => s.emit (.mctp 0 1 [])
    | .busError => s.emit (.mctp 0x80 0 [])
    | .denied => s.emit (.mctp 0x81 0 [])
  else if m < 16 then
    match r with
    | .ok => s
    | _ => s.aerAbort m off
  else s

/-- The right a register write lacks, if any (R350). -/
def regMissing (s : State) (m off : Nat) : Option Nat :=
  if !s.hasRight m rightRegWr then some rightRegWr
  else if 0x1B0000 ≤ off && off < 0x1C0000 && !s.hasRight m rightKeyAdmin then some rightKeyAdmin
  else none

/-- Registers that answer at all (Table 14-2): in standby those of TOP, PWS, THM, KPS, HMP and INT; from the beginning of a start GRP as well; the
blocks of the core from core release on. -/
def reachable (s : State) (off : Nat) : Bool :=
  off < 0x60000 || (if 0x70000 ≤ off && off < 0x80000 then decide (s.getF TOP.STATE_STATE ≠ 6) else s.start.released)

/-- A register write by master m that R350 must permit: `only` is a further condition whose failure is a bus error
(R51, R67, R244, R505), judged before the rights. A halted device answers hosts with
Completer Abort (R346). Before the supervisor wakes nothing answers (R441). -/
def regAction (m off : Nat) (only : Bool) (act : State → State) (s : State) : State :=
  if !s.clk.awake then s
  else if (m < 16 && s.flag TOP.HALT_HALTED) || !s.reachable off then s.report m off .busError
  else if !only then s.report m off .busError
  else match s.regMissing m off with
    | some b => (s.deny m 2 b 0 off).report m off .denied
    | none => (act s).report m off .ok

/-! ### Seams (Table 02-9, R61 to R64) -/

end State

/-- The unit of an offset: its block, instance and the offset of its SEAM register (Table 02-9, R64). -/
def unitOf (off : Nat) : Option (Block × Nat × Nat) :=
  let a (b : Block) (base n size : Nat) : Option (Block × Nat × Nat) :=
    let i := (off - base) / size
    if i < n then some (b, i, base + size * i + size - 4) else none
  if off < 0x10000 then some (.top, 0, 0xFFFC)
  else if off < 0x20000 then some (.pws, 0, 0x1FFFC)
  else if off < 0x30000 then some (.thm, 0, 0x2FFFC)
  else if off < 0x40000 then some (.kps, 0, 0x3FFFC)
  else if off < 0x50000 then some (.hmp, 0, 0x4FFFC)
  else if off < 0x60000 then some (.int, 0, 0x5FFFC)
  else if off < 0x70000 then some (.pmc, 0, 0x6FFFC)
  else if off < 0x80000 then some (.grp, 0, 0x7FFFC)
  else if off < 0x90000 then a .hpt 0x80000 4 0x4000
  else if off < 0x100000 then none
  else if off < 0x120000 then a .vlk 0x100000 32 0x1000
  else if off < 0x130000 then a .car 0x120000 32 0x800
  else if off < 0x140000 then none
  else if off < 0x150000 then some (.lin, 0, 0x14FFFC)
  else if off < 0x160000 then some (.pcu, 0, 0x15FFFC)
  else if off < 0x180000 then some (.xlt, 0, 0x17FFFC)
  else if off < 0x1A0000 then some (.med, 0, 0x19FFFC)
  else if off < 0x1B0000 then some (.coh, 0, 0x1AFFFC)
  else if off < 0x1C0000 then some (.cip, 0, 0x1BFFFC)
  else if off < 0x1D0000 then some (.scb, 0, 0x1CFFFC)
  else if off < 0x200000 then some (.spl, 0, 0x1FFFFC)
  else if off < 0x240000 then a .slc 0x200000 8 0x8000
  else if off < 0x300000 then none
  else if off < 0x400000 then some (.dbg, 0, 0x3FFFFC)
  else none

/-- First offset and size of a unit (Table 02-9). -/
def unitRange (b : Block) (i : Nat) : Nat × Nat :=
  match b with
  | .top => (0, 0x10000)        | .pws => (0x10000, 0x10000)   | .thm => (0x20000, 0x10000)
  | .kps => (0x30000, 0x10000)  | .hmp => (0x40000, 0x10000)   | .int => (0x50000, 0x10000)
  | .pmc => (0x60000, 0x10000)  | .grp => (0x70000, 0x10000)   | .hpt => (0x80000 + 0x4000 * i, 0x4000)
  | .vlk => (0x100000 + 0x1000 * i, 0x1000) | .car => (0x120000 + 0x800 * i, 0x800)
  | .lin => (0x140000, 0x10000) | .pcu => (0x150000, 0x10000)  | .xlt => (0x160000, 0x20000)
  | .med => (0x180000, 0x20000) | .coh => (0x1A0000, 0x10000)  | .cip => (0x1B0000, 0x10000)
  | .scb => (0x1C0000, 0x10000) | .spl => (0x1D0000, 0x30000)  | .slc => (0x200000 + 0x8000 * i, 0x8000)
  | .dbg => (0x300000, 0x100000)

/-- A masked write of one field by its access type (Table 02-8). -/
def FieldDesc.write (f : FieldDesc) (old v cur : Nat) : Nat :=
  let m := 2 ^ f.w
  let o := old / 2 ^ f.lo % m
  let n := v / 2 ^ f.lo % m
  let put (x : Nat) : Nat := cur - cur / 2 ^ f.lo % m * 2 ^ f.lo + x % m * 2 ^ f.lo
  match f.acc with
  | .rw => put n
  | .mw => if f.lo < 16 then
      let sel := v / 2 ^ (f.lo + 16) % m
      put ((o &&& (m - 1 - sel)) ||| (n &&& sel))
    else cur
  | .w1c => put (o &&& (m - 1 - n))
  | .w1s => put (o ||| n)
  | .ro | .wo | .sc => cur

/-- What a register holds after a write of v, by the access types of its fields. -/
def RegDesc.write (d : RegDesc) (old v : Nat) : Nat := d.fields.foldl (fun cur f => f.write old v cur) old

/-- LO registers of writable 64-bit values (R65). -/
def isLoHalf (off : Nat) : Bool :=
  [0x140020, 0x160020, 0x1c0104, 0x1c0200, 0x1c0208, 0x300000, 0x300100].contains off

/-- Registers whose pinned bits ignore writes: R525 for target 16, Table 16-7's RAIL_USED. -/
def pinned (planned : Bool) (off : Nat) (v : Nat) : Nat :=
  if off = 0x52000 then v ||| 1
  else if off = 0x52080 then v ||| 3
  else if off = 0x10020 then
    let w := v ||| 0x71F
    if planned then w ||| 0xE0 else (w ||| 0xE0) - 0xE0
  else v

namespace State

/-- Mark a unit's SEAM.PEND (R64). -/
def setPend (seamOff : Nat) (s : State) : State := s.setF ⟨seamOff, 31, 1⟩ 1

/-- The value a reader of a register sees before any view: the held half (R65), the shadow (R61), the register. -/
def readRaw (s : State) (off : Nat) : Word :=
  match Tab.get (fun _ => none) s.held off with
  | some w => w
  | none => match Tab.get (fun _ => none) s.shadow off with
    | some w => w
    | none => s.reg off

/-- Store a write in a register or, seam-applied, in its shadow (R59, R61). -/
def storeWord (off : Nat) (d : RegDesc) (v : Nat) (s : State) : State :=
  let old := (match Tab.get (fun _ => none) s.shadow off with | some w => w | none => s.reg off).toNat
  let new := BitVec.ofNat 32 (pinned s.seq.planned off (d.write old v))
  if d.seam then
    let s1 := s.putShadow (Tab.set (fun _ => none) s.shadow off (some new))
    match unitOf off with
    | some (_, _, so) => s1.setPend so
    | none => s1
  else s.setReg off new

/-- A write to one word after its checks: a LO half is held until its HI is written (R65). -/
def writeWord (off : Nat) (d : RegDesc) (v : Nat) (s : State) : State :=
  if isLoHalf off then
    s.putHeld (Tab.set (fun _ => none) s.held off (some (BitVec.ofNat 32 (d.write 0 v))))
  else
    match Tab.get (fun _ => none) s.held (off - 4) with
    | some lo =>
      let s1 := s.putHeld (Tab.set (fun _ => none) s.held (off - 4) none)
      (s1.setReg (off - 4) lo).storeWord off d v
    | none => s.storeWord off d v

/-- Direct load of a word by the supervisor (R50): not through the shadow. -/
def loadWord (off : Nat) (v : Word) (s : State) : State :=
  (s.putShadow (Tab.set (fun _ => none) s.shadow off none)).setReg off v

/-- Apply every pending shadow of a unit, clear PEND and count the seam (R62). -/
def applySeam (b : Block) (i : Nat) (s : State) : State :=
  let (base, size) := unitRange b i
  let mine := s.shadow.filter fun k _ => base ≤ k && k < base + size
  let s1 := mine.foldl (fun s e => match e.2 with
    | some w => (s.putShadow (Tab.set (fun _ => none) s.shadow e.1 none)).setReg e.1 w
    | none => s) s
  let so := base + size - 4
  if s.getF ⟨so, 31, 1⟩ = 0 then s1
  else (s1.setF ⟨so, 31, 1⟩ 0).setF ⟨so, 0, 16⟩ (s1.getF ⟨so, 0, 16⟩ + 1)

end State

end Sys2Proof.Machine
end

