-- ==== Sys2Proof/Machine/Perf.lean ====
section
/-!
DEFINITION. Performance counters, the central reader and the sample ring (18, R532 to R539).
-/
namespace Sys2Proof.Machine

/-- Class of a counter block (Table 18-3); blocks 49 to 63 belong to no unit. -/
def perfClass (b : Nat) : Option Nat :=
  if b < 8 then some 0 else if b < 12 then some 1 else if b < 44 then some 2
  else if b < 49 then some (b - 41) else none

namespace State

/-- Value of counter i. -/
def pmcCount (s : State) (i : Nat) : Nat := Tab.get (fun _ => 0) s.pmc.cnt i

/-- Add n to counter i: on overflow it wraps, sets its overflow bit, and source 832 fires if the bit was clear (R534). -/
def pmcAdd (i n : Nat) (s : State) : State :=
  let v := s.pmcCount i + n
  let s1 := s.putPmc { s.pmc with cnt := Tab.set (fun _ => 0) s.pmc.cnt i (v % 2 ^ 48) }
  if v < 2 ^ 48 then s1
  else
    let f : Fld := ⟨0x60100 + 4 * (i / 32), i % 32, 1⟩
    if s1.flag f then s1 else (s1.setF f 1).fire 832

/-- An event of block b's unit, attributed to an LD or to none, occurs n times (R533). -/
def perf (b ev : Nat) (ld : Option Nat) (n : Nat) (s : State) : State :=
  if !s.flag PMC.CTRL_ENABLE || perfClass b != some (ev / 256) then s
  else (List.range 8).foldl (fun s c =>
    if s.getF (PMC.CFG_EVENT b c) = ev
      && (s.getF (PMC.CFG_LD_FILT b c) = 0 || ld == some (s.getF (PMC.CFG_LD b c))) then s.pmcAdd (8 * b + c) n
    else s) s

/-- A reader pass begins, or one more is owed after the pass that runs (R536). -/
def passStart (s : State) : State :=
  if s.pmc.busy then s.putPmc { s.pmc with again := true }
  else (s.putPmc { s.pmc with busy := true, readAt := s.clk.time }).setF PMC.READ_STATUS_BUSY 1

/-- PMC.CMD.READ is written: the bit reads 1 until no pass runs or is owed (R59, R536). -/
def readStart (s : State) : State := s.passStart.setF PMC.CMD_READ 1

/-- Entry i of the readout buffer (R536). -/
def pmcEntry (s : State) (i : Nat) : Nat :=
  s.pmcCount i + (if s.flag ⟨0x60100 + 4 * (i / 32), i % 32, 1⟩ then 2 ^ 48 else 0)
    + (if s.getF (PMC.CFG_EVENT (i / 8) (i % 8)) ≠ 0 then 2 ^ 63 else 0)

/-- Every counter and overflow bit takes 0 (R535). -/
def pmcZeroAll (s : State) : State :=
  let s1 := (s.putPmc { s.pmc with cnt := [], zero := false }).setF PMC.CMD_ZERO 0
  (List.range 16).foldl (fun s k => s.setReg (0x60100 + 4 * k) 0) s1

/-- A change of EVENT, LD_FILT or LD sets its counter to 0 at the seam (R535): the counters whose shadow differs. -/
def pmcSeam (s : State) : State :=
  let s1 := (List.range 512).foldl (fun s i =>
    match Tab.get (fun _ => none) s.shadow (0x61000 + 4 * i) with
    | some w => if w = s.reg (0x61000 + 4 * i) then s
                else s.putPmc { s.pmc with cnt := Tab.erase s.pmc.cnt i }
    | none => s) s
  if s1.pmc.zero then s1.pmcZeroAll else s1

/-- Remove n records from the head of the sample ring (R539). -/
def ringPop (n : Nat) (s : State) : State :=
  let have_ := s.getF PMC.SAMPLE_STATUS_COUNT
  let k := min n have_
  let h := s.getF PMC.SAMPLE_STATUS_HEAD
  let s1 := (List.range k).foldl (fun s i =>
    (s.putPmc { s.pmc with ring := Tab.erase s.pmc.ring ((h + i) % 4096) })) s
  let s2 := (s1.setF PMC.SAMPLE_STATUS_COUNT (have_ - k)).setF PMC.SAMPLE_STATUS_HEAD ((h + k) % 4096)
  if k = 0 then s2 else s2.putPmc { s2.pmc with full833 := false }

/-- Put a sample record in the ring; a full ring discards it, counts it, and source 833 fires once per episode (R539). -/
def ringPush (rec_ : List Byte) (s : State) : State :=
  let n := s.getF PMC.SAMPLE_STATUS_COUNT
  if n < 4096 then
    let h := s.getF PMC.SAMPLE_STATUS_HEAD
    (s.putPmc { s.pmc with ring := Tab.set (fun _ => []) s.pmc.ring ((h + n) % 4096) rec_ }).setF
      PMC.SAMPLE_STATUS_COUNT (n + 1)
  else
    let s1 := s.countF PMC.SAMPLE_LOST_LOST 1
    if s.pmc.full833 then s1 else (s1.putPmc { s1.pmc with full833 := true }).fire 833

/-- PMC.CMD.ZERO is written. -/
def zeroStart (s : State) : State := (s.putPmc { s.pmc with zero := true }).setF PMC.CMD_ZERO 1

end State

/-- PMC_READ (R536): a write of CMD.READ requests a pass. -/
def execPmcRead (m : Nat) (s : State) : Out := .next (s.regAction m 0x60004 true State.readStart)

/-- PMC_ZERO (R535): the zeroing waits for the next PMC seam. -/
def execPmcZero (m : Nat) (s : State) : Out :=
  .next (s.regAction m 0x60004 true State.zeroStart)

/-- READER_PASS_TIMER (R536): a pass starts every PERIOD × 100 µs while PERIOD is nonzero. -/
def execReaderPassTimer (s : State) : Out :=
  if s.getF PMC.CTRL_PERIOD = 0 then .next s else .next s.passStart

/-- READER_PASS_DONE (R536, R537). -/
def execReaderPassDone (s : State) : Out :=
  if !s.pmc.busy then .next s
  else
    let b := 1 - s.getF PMC.READ_STATUS_BUF
    let base := if b = 0 then 0x68000 else 0x69000
    let s1 := (List.range 512).foldl (fun s i =>
      let e := s.pmcEntry i
      (s.setReg (base + 8 * i) (BitVec.ofNat 32 e)).setReg (base + 8 * i + 4) (BitVec.ofNat 32 (e / 2 ^ 32))) s
    let s2 := (s1.setF PMC.READ_STATUS_BUF b).setF PMC.READ_STATUS_PASSES (s1.getF PMC.READ_STATUS_PASSES + 1)
    let s3 := (s2.set64 PMC.READ_TIME_LO_TIME PMC.READ_TIME_HI_TIME s2.pmc.readAt).setF PMC.READ_STATUS_BUSY 0
    let s4 := (s3.putPmc { s3.pmc with busy := false, again := false }).setF PMC.CMD_READ (if s.pmc.again then s3.getF PMC.CMD_READ else 0)
    let s5 := if s4.flag PMC.CTRL_PASS_IRQ then s4.fire 834 else s4
    .next (if s.pmc.again then s5.passStart else s5)

/-- SAMPLE_POP (R539): a count above the ring's content removes all. -/
def execSamplePop (m count : Nat) (s : State) : Out :=
  .next (s.regAction m 0x6002c true (State.ringPop (count % 8192)))

end Sys2Proof.Machine
end

