-- ==== Sys2Proof/Machine/Flags.lean ====
section
/-!
DEFINITION. Levels and limits that are computed from the state: admission limits and DevLoad (03), dirty bytes and
cleaning levels (06), supervisor flags that other families read.
-/
namespace Sys2Proof.Machine

/-- Clamp to a range, as the field descriptions of the chapters give. -/
def clamp (lo hi v : Nat) : Nat := max lo (min hi v)

namespace State

/-! ### Device state -/

/-- Pace-low is in force (R21). -/
def paceLow (s : State) : Bool := s.flag PWS.PACE_STATUS_DEGRADED
/-- Thermal throttle is in force (R492). -/
def throttled (s : State) : Bool := s.flag THM.STATUS_THROTTLE
/-- The device is halted (R346). -/
def halted (s : State) : Bool := s.flag TOP.HALT_HALTED
/-- Memory is reported active (R366). -/
def memActive (s : State) : Bool := s.flag TOP.STATE_MEM_ACTIVE
/-- TOP.STATE.STATE (Table 02-12). -/
def topState (s : State) : Nat := s.getF TOP.STATE_STATE
/-- Cipher-fault state (R335). -/
def cipherFault (s : State) : Bool := s.flag CIP.STATUS_FAULT

/-! ### Admission limits (R95, R492) and load (R100) -/

/-- The effective limit of a configured one: pace-low and throttle each allow a fraction in eighths, never less than 1. -/
def effLimit (s : State) (configured : Nat) : Nat :=
  let c := clamp 1 2048 configured
  let a := if s.paceLow then max 1 (c * clamp 1 7 (s.getF PWS.PACE_CTRL_DEG_ADMIT) / 8) else c
  let b := if s.throttled then max 1 (c * clamp 1 8 (s.getF THM.CTRL_THR_ADMIT) / 8) else c
  min a b

/-- Effective read limit of port n. -/
def rdEff (s : State) (n : Nat) : Nat := s.effLimit (s.getF (HPT.ADMIT_RD_LIMIT n))
/-- Effective write limit of port n. -/
def wrEff (s : State) (n : Nat) : Nat := s.effLimit (s.getF (HPT.ADMIT_WR_LIMIT n))
/-- Effective line limit of the spool engine. -/
def splEff (s : State) : Nat := s.effLimit (s.getF SPL.ADMIT_LINE_LIMIT)

end State

/-- Whether a request is on the RwD channel. -/
def Req.isWrite (r : Req) : Bool := r.kind == .write

/-- Whether a request wants the line's data. -/
def Req.isRead (r : Req) : Bool := r.kind == .read

/-- A partial write in the write buffer whose line is not merged yet (R83). -/
def Req.unmerged (r : Req) : Bool :=
  r.partW && !(r.stage == .buffered || r.stage == .through || (r.stage == .hold && r.why == 1))

namespace State

/-- Outstanding reads of port n: admitted and not completed (R94). -/
def rdOut (s : State) (n : Nat) : Nat :=
  (s.reqs.filter fun r => r.port == n && !r.isWrite && r.stage != .bridge).length
/-- Outstanding writes of port n. -/
def wrOut (s : State) (n : Nat) : Nat :=
  (s.reqs.filter fun r => r.port == n && r.isWrite && r.stage != .bridge).length
/-- A write of port n waits for dirty-budget room or for staging (R98, R197). -/
def stallBudget (s : State) (n : Nat) : Bool :=
  s.reqs.any fun r => r.port == n && r.isWrite && r.stage == .hold && (r.why == 0 || r.why == 1 || r.why == 4)
/-- Reads in slice k's tracker (R97). -/
def rdTrk (s : State) (k : Nat) : Nat :=
  (s.reqs.filter fun r => !r.isWrite && r.stage != .bridge && sliceOf r.line == k).length
/-- Writes in slice k's write buffer: admitted and not committed (R79, R97). -/
def wbufLen (s : State) (k : Nat) : Nat :=
  (s.reqs.filter fun r => r.isWrite && r.ordered && r.stage != .respond && sliceOf r.line == k).length
/-- Requests in slice k's conflict queue (R238). -/
def conflLen (s : State) (k : Nat) : Nat :=
  (s.reqs.filter fun r => r.stage == .conflict && sliceOf r.line == k).length

/-- DevLoad of port n (Table 03-7). -/
def devLoad (s : State) (n : Nat) : Nat :=
  let full := decide (s.rdEff n ≤ s.rdOut n) || decide (s.wrEff n ≤ s.wrOut n)
  if full || s.stallBudget n || s.paceLow then 3
  else if 3 * s.rdEff n ≤ 4 * s.rdOut n || 3 * s.wrEff n ≤ 4 * s.wrOut n then 2
  else if s.rdEff n ≤ 4 * s.rdOut n || s.wrEff n ≤ 4 * s.wrOut n then 1
  else 0

/-! ### Dirty lines (R216) and the cleaning watermark (R218) -/

/-- Dirty lines of the Lining. -/
def dirtyLining (s : State) : Nat := (s.cache.lining.filter fun _ w => w.valid && w.dirty).length
/-- Dirty lines of the Pincushion. -/
def dirtyPcu (s : State) : Nat :=
  s.cache.pcu.foldl (fun n e => n + (e.2.lines.filter fun _ l => l.dirty).length) 0
/-- Dirty lines of the caches and staging. -/
def dirtyLines (s : State) : Nat := s.dirtyLining + s.dirtyPcu + s.cache.staging.length
/-- Dirty bytes (R216). -/
def dirtyBytes (s : State) : Nat := 64 * s.dirtyLines
/-- Dirty budget in bytes (Table 06-7). -/
def budget (s : State) : Nat := clamp 64 4096 (s.getF LIN.BUDGET_MIB) * 2 ^ 20
/-- Cleaning watermark, percent of the budget. -/
def cleanWm (s : State) : Nat := clamp 10 90 (s.getF LIN.BUDGET_CLEAN_WM)
/-- Room for one more dirty line, by the budget that slice k runs under (R98, R62). -/
def budgetRoom (s : State) (k : Nat) : Bool := s.dirtyBytes + 64 ≤ clamp 64 4096 (s.sliceF k LIN.BUDGET_MIB) * 2 ^ 20

/-- Cleaning starts above the watermark and stops 5 points below it (R218). -/
def cleaningUpdate (s : State) : State :=
  let d := 100 * s.dirtyBytes
  if s.flag LIN.STATUS_CLEANING then
    if d ≤ s.budget * (s.cleanWm - 5) then s.setF LIN.STATUS_CLEANING 0 else s
  else if s.budget * s.cleanWm < d then s.setF LIN.STATUS_CLEANING 1 else s

/-- Lining and Pincushion as R219 sees them: disabling or disabled. -/
def linOff (s : State) : Bool := !s.flag LIN.STATUS_ENABLED || s.flag LIN.STATUS_DISABLING
def pcuOff (s : State) : Bool := !s.flag PCU.STATUS_ENABLED || s.flag PCU.STATUS_DISABLING

end State

end Sys2Proof.Machine
end

