-- ==== Sys2Proof/Machine/Operands.lean ====
section
/-!
DEFINITION. How a request names its line: regions and their keys (07, 10), HDM decoding (11), rights (10), the group's
interleaved ranges (15), and cartridges, bolts and aliases (05, 12).
-/
namespace Sys2Proof.Machine

/-! ### Regions and keys -/

/-- Lines per 256 MiB unit. -/
def unitLines : Nat := 2 ^ 22

/-- Whether a region holds a line (Table 07-1). -/
def Region.has (r : Region) (line : Nat) : Bool :=
  r.base * unitLines ≤ line && line < (r.base + r.size) * unitLines

/-- Whether the region's LD_MASK names an LD. -/
def Region.forLd (r : Region) (ld : Nat) : Bool := Nat.testBit r.ldMask ld

/-- Position and descriptor of the first region that satisfies a test. -/
def findRegion (p : Region → Bool) : List Region → Nat → Option (Nat × Region)
  | [], _ => none
  | r :: rs, i => if p r then some (i, r) else findRegion p rs (i + 1)

/-- Key slot 0: plain text, always ACTIVE (R318). -/
def slotZero : KeySlot := { usage := 1, state := .active }

namespace State

/-- The region that holds a line; regions do not overlap (R226). -/
def regionAt (s : State) (line : Nat) : Option (Nat × Region) := findRegion (·.has line) s.plan.regions 0

/-- The shared flag of a line's carry tag: the DB flag of its region (R227). -/
def sharedOf (s : State) (line : Nat) : Bool := match s.regionAt line with | some (_, r) => r.db | none => false

/-- Key slot k (R318). -/
def keySlot (s : State) (k : Nat) : KeySlot := if k = 0 then slotZero else Tab.get (fun _ => {}) s.cip.slots k

/-- Replace key slot k; slot 0 never changes. -/
def setKeySlot (k : Nat) (v : KeySlot) (s : State) : State :=
  if k = 0 then s else s.putCip { s.cip with slots := Tab.set (fun _ => {}) s.cip.slots k v }

/-- What the digest of a Pattern covers: header bytes 0x00 to 0x1F and the body of `len` bytes, from the flash address of its slot (R40, Table 10-11). -/
def patternInput (s : State) (base len : Nat) : List Nat :=
  let at_ (i : Nat) : Nat := (Tab.get (fun _ => (0xFF : Byte)) s.pat.flash (base + i)).toNat
  (List.range 32).map at_ ++ (List.range len).map fun i => at_ (256 + i)

/-- Key slot to which region descriptor i is bound (R321): the plan's, or the binding changed since. -/
def bindingOf (s : State) (i : Nat) : Nat :=
  Tab.get (fun i => ((s.plan.regions[i]?).map (·.keyId)).getD 0) s.cip.bindings i

/-- Key ID of a line's region; 0 outside every region. -/
def keyOf (s : State) (line : Nat) : Nat := match s.regionAt line with | some (i, _) => s.bindingOf i | none => 0

/-- A region is active while its slot is ACTIVE with usage DATA (R321). -/
def regionActive (s : State) (i : Nat) : Bool :=
  let k := s.keySlot (s.bindingOf i)
  k.state == .active && k.usage == 1

/-- An active extent holds the line; for one LD, one that the LD accepted (Table 07-5). -/
def inExtent (s : State) (ld : Option Nat) (line : Nat) : Bool :=
  s.coh.extents.any fun e => e.state == .active && e.base ≤ line * 64 && line * 64 < e.base + e.len
    && (match ld with | some n => Nat.testBit e.accepted n | none => true)

/-- A line named by DPA is decoded for an LD, or for a master that acts for no single LD (R28, R228). -/
def decoded (s : State) (ld : Option Nat) (line : Nat) : Bool :=
  line * 64 < maxMapped s.order && !s.coh.wiped.any (fun w => w.2.1 ≤ line && line < w.2.1 + w.2.2) && (match s.regionAt line with
    | none => false
    | some (i, r) => s.regionActive i && (match ld with | some n => r.forLd n | none => true)
        && (!r.dcd || s.inExtent ld line))

/-! ### HDM decoders (R362 to R364) -/

end State

/-- Length in bytes of a decoder's DPA span. -/
def hdmSpan (d : HdmDecoder) : Nat := if d.ways = 0 then 0 else d.size / d.ways

namespace State

/-- Committed decoders of an LD with their DPA starts, in order. -/
def decodersOf (s : State) (ld : Nat) : List (Nat × HdmDecoder) := (s.ldOf ld).decoders.filterMap fun e => e.2

/-- The committed decoder that covers a host physical address. -/
def decoderAt (s : State) (ld hpa : Nat) : Option (Nat × HdmDecoder) :=
  (s.decodersOf ld).find? fun e => e.2.base ≤ hpa && hpa < e.2.base + e.2.size

end State

/-- R364: the DPA of a host physical address in a decoder that starts at a DPA. -/
def toDpa (start : Nat) (d : HdmDecoder) (hpa : Nat) : Nat :=
  let off := hpa - d.base
  start + off / (d.gran * d.ways) * d.gran + off % d.gran

namespace State

/-- Why a host request names no line: kinds of Table 11-6. -/
inductive HostFail where
  | undecoded | noBi | notBound | inactive
deriving DecidableEq, Repr

/-- Stage 1 decode of a host request (R228, R229, R364, R367, R383): the line, or why there is none. -/
def hostDecode (s : State) (port ld hpa : Nat) : Except HostFail Nat :=
  if !s.memActive then .error .inactive
  else if (s.ldOf ld).port != some port then .error .notBound
  else match s.decoderAt ld hpa with
    | none => .error .undecoded
    | some (start, d) =>
      let dpa := toDpa start d hpa
      if 2 ^ 45 ≤ dpa then .error .undecoded
      else
        let line := dpa / 64
        if !s.decoded (some ld) line then .error .undecoded
        else if s.sharedOf line && !(d.bi && (Tab.get (fun _ => ({} : Port)) s.ports port).biRoute) then .error .noBi
        else .ok line

/-! ### Memory rights (R350) -/

/-- What a memory access under rights set m to a line lacks: a right's flag number, or 0xFF for the key bit. -/
def memMissing (s : State) (m right line : Nat) : Option Nat :=
  if !s.hasRight m right then some right
  else if !s.hasKey m (s.keyOf line) then some 0xFF
  else none

/-! ### Interleaved ranges (R453, R463) -/

/-- A line lies in an interleaved range of the group plan. -/
def interleaved (s : State) (line : Nat) : Bool := match s.plan.group with
  | none => false
  | some g => g.ranges.any fun r => r.1 ≤ line * 64 && line * 64 < r.1 + r.2

/-- A request to the line meets the fence (R463). -/
def fencedAt (s : State) (line : Nat) : Bool := s.grp.fenced && s.interleaved line

/-- One more request answered under R463. -/
def countFenced (s : State) : State := s.count64 GRP.FENCED_REQ_LO_COUNT GRP.FENCED_REQ_HI_COUNT 1

/-! ### Cartridges and bolts -/

/-- What the device keeps of slot n's cartridge. -/
def cart (s : State) (n : Nat) : Cart := Tab.get (fun _ => {}) s.carts n
def setCart (n : Nat) (c : Cart) (s : State) : State := s.putCarts (Tab.set (fun _ => {}) s.carts n c)
/-- Link of slot n. -/
def link (s : State) (n : Nat) : Link := Tab.get (fun _ => {}) s.links n
def setLink (n : Nat) (l : Link) (s : State) : State := s.putLinks (Tab.set (fun _ => {}) s.links n l)
/-- Host port n. -/
def port (s : State) (n : Nat) : Port := Tab.get (fun _ => {}) s.ports n
def setPort (n : Nat) (p : Port) (s : State) : State := s.putPorts (Tab.set (fun _ => {}) s.ports n p)

/-- The GPF DVSEC (R270): Phase 2 duration as a count of 0 to 15 and its time scale, the smallest of 1 µs × 10^scale that holds GPF_US (PRESUMED CXL 3.1, log 66), and Phase 2 power in mW. -/
def gpfDvsec (s : State) : Nat × Nat × Nat :=
  let us := s.getF TOP.FLUSH_EST_GPF_US
  let scale := ((List.range 8).find? fun k => decide (us ≤ 15 * 10 ^ k)).getD 7
  (ceilDiv us (10 ^ scale), scale, 150000 + 7000 * ((List.range 32).filter fun n => (s.cart n).present).length)

/-- Memory_Active and Memory_Active_Timeout in seconds, in every LD's CXL Device DVSEC (R366). -/
def memoryDvsec (s : State) : Bool × Nat := (s.memActive, 256)

/-- What an LD's CDAT lists: each of its regions at its device DPA, with its length (R228). -/
def cdat (s : State) (ld : Nat) : List (Nat × Nat) := (s.plan.regions.filter fun r => r.forLd ld).map fun r => (2 ^ 28 * r.base, 2 ^ 28 * r.size)

/-- Cartridge n's zone is at CRITICAL (R494): only HEALTH and INDICATOR commands reach it. -/
def cartCritical (s : State) (n : Nat) : Bool := s.getF (THM.ZONE_LEVEL (10 + n)) = 4

/-- Traffic of CXL.cachemem (`mem`) or CXL.io passes at port p: the link is up, and the IDE stream is not in the Insecure state (R337). -/
def portOpen (s : State) (p : Nat) (mem : Bool) : Bool :=
  p < 4 && s.flag (HPT.LINK_STATUS_UP p) && Tab.get (fun _ => 0) s.cip.ide (2 * p + (if mem then 1 else 0)) != 2

/-- Cartridge n takes media reads: adopted, link up, not quarantined, not at CRITICAL (R92, R494); while halted only for a halt flush (R348). -/
def cartUp (s : State) (n : Nat) : Bool :=
  let c := s.cart n
  let l := s.link n
  c.present && c.adopted && l.up && !l.retraining && !c.quarantined && !s.cartCritical n && (!s.halted || s.flush.halt)

/-- Ledger entry of a bolt (PSA[33:13]). -/
def ledger (s : State) (b : Nat) : LedgerEntry := Tab.get (fun _ => {}) s.med.ledger b
def setLedger (b : Nat) (e : LedgerEntry) (s : State) : State :=
  s.putMed { s.med with ledger := Tab.set (fun _ => {}) s.med.ledger b e }

/-- ALIAS of a bolt, that of a replaced cartridge's bolt included (R191). -/
def aliasNext (s : State) (b : Nat) : Nat :=
  match s.med.goneLed.find? fun e => e.1 == b with
  | some e => e.2.aliasTo
  | none => (s.ledger b).aliasTo

/-- ALIAS followed for n steps. -/
def aliasFrom (s : State) : Nat → Nat → Nat
  | 0, b => b
  | n + 1, b => let a := s.aliasNext b; if a = 0xFFFFFFFF then b else s.aliasFrom n (a % 2 ^ 21)

/-- The bolt that holds a bolt's pages (R148): ALIAS is followed to its end. -/
def aliasOf (s : State) (b : Nat) : Nat := s.aliasFrom (s.med.ledger.length + s.med.goneLed.length) b

/-- The place at which a PSA's page is stored. -/
def physPsa (s : State) (psa : Nat) : Nat := mkPsa (s.aliasOf (boltOf psa)) (psaPage psa)

/-- The page stored at a PSA. -/
def pageAt (s : State) (psa : Nat) : Option Page := Tab.get (fun _ => none) s.med.pages (s.physPsa psa)

/-- A page that was programmed at a PSA, though its cartridge may have been replaced: what its stripe can still give (R187, R190). -/
def pageThere (s : State) (psa : Nat) : Option Page :=
  (Tab.get (fun _ => none) s.med.gone (s.physPsa psa)).orElse fun _ => s.pageAt psa

/-- What the media engine keeps of a bolt. -/
def boltInfo (s : State) (b : Nat) : BoltInfo := Tab.get (fun _ => {}) s.med.bolts b
def setBoltInfo (b : Nat) (i : BoltInfo) (s : State) : State :=
  s.putMed { s.med with bolts := Tab.set (fun _ => {}) s.med.bolts b i }

/-- A group as the media engine sees it. -/
def groupMedia (s : State) (g : Nat) : GroupMedia := Tab.get (fun _ => {}) s.med.groups g
def setGroupMedia (g : Nat) (v : GroupMedia) (s : State) : State :=
  s.putMed { s.med with groups := Tab.set (fun _ => {}) s.med.groups g v }

/-- A bolt can be read directly: its cartridge takes reads, its die has not failed and it is not lost (R92, R176, R190). -/
def boltUp (s : State) (b : Nat) : Bool :=
  s.cartUp (boltSlot b)
    && !Nat.testBit (Tab.get (fun _ => 0) s.med.failedDies (boltSlot b)) (boltDie b)
    && !(s.groupMedia (boltSlot b / 8)).lost.contains b

/-- A page can be read directly. -/
def psaUp (s : State) (psa : Nat) : Bool := s.boltUp (s.aliasOf (boltOf psa)) && Tab.get (fun _ => none) s.med.gone (s.physPsa psa) == none

/-- Bolts per die of the cartridge in slot n (Table 05-1). -/
def boltsPerDie (s : State) (n : Nat) : Nat := if (s.cart n).ident.model = 2 then 4096 else 2048

/-- A PSA is invalid when its bolt exceeds the bolt count of the cartridge in its slot (R32); unmapped is not invalid (R104). -/
def psaInvalid (s : State) (psa : Nat) : Bool :=
  psa != unmappedPsa && s.boltsPerDie (psaSlot psa) ≤ psaBolt psa

/-! ### Groups (R149) -/

/-- Planned groups, ascending. -/
def plannedGroups (s : State) : List Nat := bitsOf 4 s.plan.groups

/-- Home group of a swatch (R149). -/
def homeGroup (s : State) (swatch : Nat) : Nat :=
  let l := s.plannedGroups
  l.getD (if l.length = 0 then 0 else swatch % l.length) 0

/-- The group is write-sealed, or unavailable, which R152 treats alike. -/
def groupSealed (s : State) (g : Nat) : Bool :=
  s.flag (MED.GROUP_STATUS_SEALED g) || s.getF (MED.GROUP_STATUS_STATE g) = 5

/-! ### Map and index (R103, R118) -/

/-- Swatch map entry. -/
def mapEntry (s : State) (sw : Nat) : MapEntry := Tab.get (fun _ => {}) s.xlt.map sw
def setMapEntry (sw : Nat) (e : MapEntry) (s : State) : State :=
  s.putXlt { s.xlt with map := Tab.set (fun _ => {}) s.xlt.map sw e }

end State

/-- Map blocks of a swatch: the 64-byte blocks that hold a byte of its 5-byte entry (R33, R103). -/
def mapBlocksOf (sw : Nat) : List Nat :=
  if 5 * sw / 64 = (5 * sw + 4) / 64 then [5 * sw / 64] else [5 * sw / 64, (5 * sw + 4) / 64]

/-- The checkpoint region of 64 MiB that holds the first byte of a swatch's entry, and whether a region holds a byte of it (R131). -/
def regionOf (sw : Nat) : Nat := 5 * sw / 2 ^ 26
def inRegion (r sw : Nat) : Bool := 5 * sw / 2 ^ 26 == r || (5 * sw + 4) / 2 ^ 26 == r
/-- Number of checkpoint regions (R131). -/
def regionCount : Order → Nat
  | .h72 => 640
  | .h48 => 400

namespace State

/-- A map block of the swatch is under repair. -/
def mapBadAt (s : State) (sw : Nat) : Bool := (mapBlocksOf sw).any fun b => Tab.get (fun _ => false) s.xlt.mapBad b

/-- The swatch's entry is damaged: a block of it is under repair, or it holds an invalid PSA, which never addresses media (R32, R140). -/
def mapHurt (s : State) (sw : Nat) : Bool := s.mapBadAt sw || s.psaInvalid (s.mapEntry sw).psa

/-- Blocks of the map become damaged. -/
def mapDamage (blocks : List Nat) (s : State) : State :=
  s.putXlt { s.xlt with mapBad := blocks.foldl (fun t b => Tab.set (fun _ => false) t b true) s.xlt.mapBad }

/-- An entry with an invalid PSA, when it is met, is a damaged entry: its blocks are to be repaired (R32, R140). -/
def mapCheck (sw : Nat) (s : State) : State :=
  if s.psaInvalid (s.mapEntry sw).psa && !s.mapBadAt sw then s.mapDamage (mapBlocksOf sw) else s

/-- The changed bits of a swatch's blocks are set (R139). -/
def mapChanged (sw : Nat) (s : State) : State :=
  s.putXlt { s.xlt with changed := (mapBlocksOf sw).foldl (fun t b => Tab.set (fun _ => false) t b true) s.xlt.changed }

end State

/-- Home bucket of a swatch (R118). -/
def homeBucket (sw : Nat) : Nat := sw * 0x9E3779B97F4A7C15 % 2 ^ 64 / 2 ^ 38

/-- Index keys of a swatch's window, in window order and then entry order (R118): 8 entries of four buckets. -/
def window (sw : Nat) : List Nat :=
  (List.range 4).flatMap fun j => (List.range 8).map fun i => ((homeBucket sw + j) % 2 ^ 26) * 8 + i

namespace State

/-- Index entry of a line. -/
def idxOf (s : State) (line : Nat) : Option IdxEntry :=
  ((s.xlt.index.filterMap fun e => e.2).find? fun e => e.line == line)

/-- Index entries of a swatch: its live patches. -/
def idxOfSwatch (s : State) (sw : Nat) : List IdxEntry :=
  (s.xlt.index.filterMap fun e => e.2).filter fun e => swatchOf e.line == sw

/-- The first free key of the swatch's window. -/
def windowFree (s : State) (sw : Nat) : Option Nat :=
  (window sw).find? fun k => (Tab.get (fun _ => none) s.xlt.index k).isNone

/-- Put an entry in the index: an older patch of the line gives up its place (R118). -/
def idxInsert (e : IdxEntry) (s : State) : State :=
  let old := (s.xlt.index.find? fun x => x.2.any fun o => o.line == e.line).map (·.1)
  match old.orElse fun _ => s.windowFree (swatchOf e.line) with
  | some k => s.putXlt { s.xlt with index := Tab.set (fun _ => none) s.xlt.index k (some e) }
  | none => s

/-- Remove the index entries that satisfy a test. -/
def idxRemove (p : IdxEntry → Bool) (s : State) : State :=
  s.putXlt { s.xlt with index := s.xlt.index.filter fun _ v => !(v.any p) }

/-! ### Seal table (R182) -/

/-- The line's seal-table bit. -/
def sealBit (s : State) (line : Nat) : Bool :=
  (Tab.get (fun _ => (0 : BitVec 64)) s.med.sealTab (swatchOf line)).getLsbD (line % 64)

/-- Set or clear it; an entry whose mask is all clear is removed. -/
def setSealBit (line : Nat) (b : Bool) (s : State) : State :=
  let old := Tab.get (fun _ => (0 : BitVec 64)) s.med.sealTab (swatchOf line)
  let one : BitVec 64 := 1 <<< (line % 64)
  s.putMed { s.med with
    sealTab := Tab.set (fun _ => 0) s.med.sealTab (swatchOf line) (if b then old ||| one else old &&& ~~~one) }

end State

end Sys2Proof.Machine
end

