-- ==== Sys2Proof/Machine/Ring.lean ====
section
/-!
DEFINITION. The interleave group as a member sees it (15): its own record, silence, the fence.
-/
namespace Sys2Proof.Machine

/-- FPRINT of a group plan (R460): bytes 0 to 15 of the digest, byte 0 lowest. -/
def GroupPlan.fprint (g : GroupPlan) : Nat :=
  let input : List Byte := g.payload.take 9 ++ [0] ++ g.payload.drop 10 ++ g.descs
  ((Config.sha256 (input.map BitVec.toNat)).take 16).foldr (fun b a => b % 256 + 256 * a) 0

namespace State

/-- What is kept of the member of an index. -/
def member (s : State) (i : Nat) : Member := Tab.get (fun _ => {}) s.grp.members i
def setMember (i : Nat) (m : Member) (s : State) : State :=
  s.modGrp fun g => { g with members := Tab.set (fun _ => {}) g.members i m }

/-- A member that is running: memory active and not halted (Table 15-3, cause 1). -/
def running (s : State) : Bool := s.memActive && !s.halted

/-- Indices of the other members. -/
def others (s : State) : List Nat := match s.plan.group with
  | none => []
  | some g => (List.range g.size).filter (· != g.index)

/-- A member counts as silent (R458); with ENABLE = 0 every other member does (Table 15-6). -/
def silent (s : State) (i : Nat) : Bool := !s.flag GRP.CTRL_ENABLE || (s.member i).silent

/-- STATE bits [2:0] of Table 15-2. A member both flushing and fenced reports flushing (log 60). -/
def ownState (s : State) : Nat :=
  if s.halted then 5 else if !s.memActive then 1 else if s.flush.kind != .none then 3 else if s.grp.fenced then 4 else 2

/-- FROM_GROUP of Table 15-2. -/
def ownFromGroup (s : State) : Bool := s.ownState = 3 && s.flush.kind == .group

/-- Own FPRINT. -/
def ownFprint (s : State) : Nat := match s.plan.group with | some g => g.fprint | none => 0

/-- The FPRINT values of R461: own, and those of the records used from members that are not silent. -/
def fprints (s : State) : List Nat :=
  s.ownFprint :: (s.others.filter fun i => !s.silent i).filterMap fun i => (s.member i).last.map (·.fprint)

/-- Own FPRINT prevails (R461). -/
def prevails (s : State) : Bool :=
  let l := s.fprints
  let count (v : Nat) : Nat := (l.filter (· == v)).length
  l.all fun v => v == s.ownFprint || decide (count v < count s.ownFprint)

/-- Causes 2 to 4 of Table 15-3 that are in force. -/
def fenceConds (s : State) : List Nat :=
  (if s.prevails then [] else [2])
    ++ (if s.others.any s.silent then [3] else [])
    ++ (if s.others.any fun i => !s.silent i && (match (s.member i).last with | some r => r.state == 5 | none => false) then [4] else [])

/-- GRP.STATUS.CAUSE (R462): the lowest-numbered cause in force. -/
def fenceCause (s : State) : Nat :=
  if s.plan.group.isNone then 0
  else if !s.running then 1
  else match s.fenceConds with
    | c :: _ => c
    | [] => if s.grp.fenced then 5 else 0

/-- A running member fences itself (R462): source 672. -/
def fenceEnter (s : State) : State :=
  if s.grp.fenced then s else ((s.modGrp fun g => { g with fenced := true }).countF GRP.COUNTS_FENCES 1).fire 672

/-- After any change of what Table 15-3 looks at: sources 674, 675 and 676 at the onset of their causes, and the fence. A member that is not running is fenced
throughout; its entry fires 672 where it was running and unfenced before. -/
def fenceUpdate (s : State) : State :=
  if s.plan.group.isNone then s
  else
    let now := s.fenceConds
    let fresh := now.filter fun c => !s.grp.conds.contains c
    let s1 := fresh.foldl (fun s c => s.fire (672 + c)) (s.modGrp fun g => { g with conds := now })
    if !s.running || !now.isEmpty then s1.fenceEnter else s1

end State

end Sys2Proof.Machine
end

