-- ==== Sys2Proof/Machine/Store.lean ====
section
/-!
DEFINITION. Shared operations of the media engine (05): pages and codewords, stripes and reconstruction, bolt
allocation, frames, programs and their verification, basting, free-bolt levels.
-/
namespace Sys2Proof.Machine

/-! ### Lines on the medium (R285, R320 to R322, R335) -/

/-- What a stored line gives on a read by its recorded key (Table 10-3). -/
inductive Decrypted where
  | ok (l : Line)
  | stale
deriving DecidableEq, Repr

namespace State

/-- A line as it is encrypted for the medium under its region's key; in cipher-fault state a line under another key than 0
is stored as a poisoned zero line under key 0 (R335). -/
def encLine (s : State) (line : Nat) (l : Line) : MLine :=
  let k := s.keyOf line
  if k ≠ 0 && s.cipherFault then { val := { data := 0, tag := addrTag line (s.sharedOf line), poison := true } }
  else
    let ks := s.keySlot k
    { val := l, keyId := k, epoch := ks.epoch, key := ks.key }

/-- A line read under another key value than the one that wrote it: what its ciphertext and masked tag decrypt to (R319, R320). -/
def wrongKeyLine (key : BitVec 512) (line : Nat) (m : MLine) : Line :=
  let i := lineTweak line m.epoch
  { m.val with data := xtsDec key i (xtsEnc m.key i m.val.data), tag := m.val.tag ^^^ tagMask m.key i ^^^ tagMask key i }

/-- Table 10-3: what the stored line at a line's place decrypts to. -/
def decLine (s : State) (line : Nat) (m : MLine) : Decrypted :=
  let ks := s.keySlot m.keyId
  if (ks.state == .active || ks.state == .retiring) && ks.usage == 1 && ks.epoch == m.epoch then
    if m.keyId = 0 || ks.key == m.key then .ok m.val
    else .ok (wrongKeyLine ks.key line m)
  else .stale

end State


/-! ### Frames and stripes (R151 to R154) -/

/-- No bolt: a parity run that does not continue in another. -/
def noBolt : Nat := 2 ^ 21
/-- Bolt 4,095 of die 15 in slot 31: its page 8,191 would be at the PSA that means unmapped, so no page goes there (R104). -/
def lastBolt : Nat := mkBolt 31 15 4095

/-- Positions of a frame. -/
def Frame.width (f : Frame) : Nat := f.bolts.length
/-- Entries a frame can hold. -/
def Frame.capacity (f : Frame) : Nat := 8192 * f.width
/-- PSA of entry e (R153). -/
def Frame.psa (f : Frame) (e : Nat) : Nat := mkPsa (f.bolts.getD (e % f.width) 0) (e / f.width)
/-- Stripe of an entry. -/
def Frame.stripe (f : Frame) (e : Nat) : Nat := e / (f.width - 1)
/-- Entries of stripe k up to the last written one. -/
def Frame.entries (f : Frame) (k : Nat) : List Nat :=
  ((List.range (f.width - 1)).map ((f.width - 1) * k + ·)).filter fun e => e < f.next
/-- PSA of the parity page of stripe k: page floor(k / P) of its position's run, which continues in another bolt. -/
def Frame.parityPsa (f : Frame) (k : Nat) : Nat :=
  let (b, p, c) := f.runs.getD (f.width - 1 - k % f.width) (0, 0, 0)
  let n := p + k / f.width
  if n < 8192 then mkPsa b n else mkPsa c (n - 8192)
/-- Entry of a data page. -/
def Frame.entryOf (f : Frame) (psa : Nat) : Option Nat :=
  (f.bolts.findIdx? (· == boltOf psa)).map fun i => f.width * psaPage psa + i
/-- Stripes that hold a written entry. -/
def Frame.stripes (f : Frame) : Nat := ceilDiv f.next (f.width - 1)
/-- No entry is left: only the last entry of a frame can be the page that R104 leaves out. -/
def Frame.full (f : Frame) : Bool := f.capacity ≤ f.next || (f.next + 1 = f.capacity && f.psa f.next = unmappedPsa)
/-- Parity bolts of a frame. -/
def Frame.parityBolts (f : Frame) : List Nat := (f.runs.flatMap fun r => if r.2.2 = noBolt then [r.1] else [r.1, r.2.2]).eraseDups
/-- Data and parity bolts of a frame. -/
def Frame.allBolts (f : Frame) : List Nat := f.bolts ++ f.parityBolts

namespace State

/-- The frame whose data bolts include a bolt. -/
def frameOf (s : State) (b : Nat) : Option Frame := s.med.frames.find? fun f => f.bolts.any fun x => x == b || s.aliasOf x == b

/-- The frame of a group and number. -/
def frameAt (s : State) (g num : Nat) : Option Frame := s.med.frames.find? fun f => f.group == g && f.number == num

/-- Replace a frame (same group and number). -/
def setFrame (f : Frame) (s : State) : State :=
  let l := s.med.frames.map fun x => if x.group == f.group && x.number == f.number then f else x
  s.putMed { s.med with frames := l }

/-- A page is programmed and its CHECK holds, wherever its cartridge is. -/
def sound (s : State) (psa : Nat) : Bool := (s.pageThere psa).any (·.selv.check)

/-- The other stored pages from which a page's lines can be rebuilt: its quilt stripe once the parity page is written (R92), else
the other pages of its basting set and the basting page (R159). A member on a cartridge that is gone counts as a member. -/
def siblings (s : State) (psa : Nat) : Option (List Nat) :=
  let stripe := (s.frameOf (boltOf psa)).bind fun f => (f.entryOf psa).bind fun e =>
    let par := f.parityPsa (f.stripe e)
    ((s.pageThere par).filter fun p => p.selv.check && p.refs.contains psa).map fun p => p.refs.filter (· != psa) ++ [par]
  stripe.orElse fun _ =>
    (s.med.pages.find? fun e => e.2.any fun p => p.selv.typ == 10 && p.selv.check && p.refs.contains psa).bind fun e =>
      e.2.map fun p => p.refs.filter (· != psa) ++ [e.1]

/-- A codeword that decodes in itself (R288). -/
def decodes (s : State) (psa slot : Nat) : Bool := match s.pageAt psa with
  | some p => symErrors (p.line slot).damage ≤ 8
  | none => false

/-- A page's line can be rebuilt now: every sibling is readable and decodes (R93). -/
def rebuildable (s : State) (psa slot : Nat) : Bool := match s.siblings psa with
  | some ms => ms.all fun m => s.psaUp m && s.decodes m slot
  | none => false

/-- The stored line of a page slot, read directly or through reconstruction; none where it is unrecoverable. `direct` false: the
direct read failed at every ladder step. -/
def fetchStored (s : State) (psa slot : Nat) (direct : Bool) : Option MLine :=
  if direct && s.psaUp psa && s.decodes psa slot then (s.pageAt psa).map fun p => { p.line slot with damage := 0 }
  else if s.rebuildable psa slot then (s.pageThere psa).map fun p => { p.line slot with damage := 0 }
  else none

/-- The first n lines of a metadata page can be read, directly or through the quilt (R115). -/
def pageReadable (s : State) (psa n : Nat) : Bool :=
  (s.pageThere psa).isSome && (List.range n).all fun k => (s.psaUp psa && s.decodes psa k) || s.rebuildable psa k

/-! ### Drift and refresh (R169 to R174) -/

end State

/-- Drift bucket of an age in seconds (Table 05-5). -/
def driftBucket (age : Nat) : Nat :=
  ([1, 3, 8, 23, 64, 181, 512, 1448, 4096, 11585, 32768, 92682, 262144, 741455, 2097152].filter (· ≤ age)).length

/-- Offsets of ladder steps 0 to 4 (R172), as steps from the predicted set. -/
def ladderSet (predicted step : Nat) : Option Nat :=
  match step with
  | 0 => some predicted
  | 1 => if predicted + 1 ≤ 15 then some (predicted + 1) else none
  | 2 => if 1 ≤ predicted then some (predicted - 1) else none
  | 3 => if predicted + 2 ≤ 15 then some (predicted + 2) else none
  | 4 => if 2 ≤ predicted then some (predicted - 2) else none
  | _ => none

/-- The next ladder step whose set exists. -/
def nextLadder (predicted step : Nat) : Option Nat :=
  ([1, 2, 3, 4].filter fun k => step < k && (ladderSet predicted k).isSome).head?

namespace State

/-- The predicted read-reference set of a page (R169, R170). -/
def predictedSet (s : State) (psa : Nat) : Nat :=
  let q := s.physPsa psa
  let i := s.boltInfo (boltOf q)
  let at_ := if i.lastPg = 0 then i.firstAt else i.firstAt + (i.lastAt - i.firstAt) * psaPage q / i.lastPg
  let b := driftBucket (s.xlt.mclk - at_)
  min 15 (b + i.offset - 3)

/-- Frames that wait for refresh in all groups. -/
def refreshWaiting (s : State) : Nat := s.med.groups.foldl (fun a g => a + g.2.refreshq.length) 0

/-- A bolt is scheduled for refresh: its frame joins the group's queue (R173, R174); source 213 when more than 64 frames wait. -/
def schedRefresh (b : Nat) (s : State) : State :=
  match s.frameOf b with
  | none => s
  | some f =>
    let g := s.groupMedia f.group
    if g.refreshq.contains f.number then s
    else
      let s1 := s.setGroupMedia f.group { g with refreshq := g.refreshq ++ [f.number] }
      if s.refreshWaiting = 64 then s1.fire 213 else s1

/-- A refresh condition of R173 other than the ladder holds for a bolt. -/
def refreshDue (s : State) (b : Nat) : Bool :=
  let i := s.boltInfo b
  16 * clamp 1 8 (s.getF MED.REFRESH_CTRL_CORR_AVG) < i.avg16
    || 2 ^ clamp 20 26 (s.getF MED.REFRESH_CTRL_HORIZON) < s.xlt.mclk - i.firstAt
    || 2 ^ clamp 16 26 (s.getF MED.REFRESH_CTRL_DISTURB) < i.disturb

/-- One read of a bolt reached the medium (R76, R173). -/
def disturb (b : Nat) (s : State) : State :=
  let i := s.boltInfo b
  let s1 := s.setBoltInfo b { i with disturb := i.disturb + 1 }
  if s1.refreshDue b then s1.schedRefresh b else s1

/-- R171: learning after a decode at a ladder step (none: failed at every step) that corrected c symbols. -/
def learn (b step c : Nat) (s : State) : State :=
  let i := s.boltInfo b
  let i := { i with avg16 := i.avg16 + c - i.avg16 / 16 }
  let i := if step = 0 then { i with up := i.up - 1, down := i.down - 1 }
    else if step = 1 then { i with up := i.up + 1 }
    else if step = 2 then { i with down := i.down + 1 } else i
  let i := if 8 ≤ i.up then { i with offset := min 6 (i.offset + 1), up := 0, down := 0 }
    else if 8 ≤ i.down then { i with offset := i.offset - 1, up := 0, down := 0 } else i
  let s1 := s.setBoltInfo b i
  if 2 ≤ step || s1.refreshDue b then s1.schedRefresh b else s1

/-! ### Free bolts and levels (R179, R180) -/

/-- Spare allowance per die (R143). -/
def spareAllowance (s : State) (n : Nat) : Nat := ceilDiv (s.boltsPerDie n * 4) 100

/-- Listed ledger entries of a slot's bolts. -/
def ledgerOf (s : State) (n : Nat) : Tab LedgerEntry := s.med.ledger.filter fun b _ => boltSlot b == n

/-! ### Hamper bolts (R515) -/

/-- The bolts that a cartridge keeps for the Hamper: those whose ledger entries have role 3, ascending. -/
def hamBolts (s : State) (n : Nat) : List Nat := List.map (fun e => e.1) ((s.ledgerOf n).filter fun _ e => e.role == 3 && e.state != 4)

/-- A ledger entry as its cartridge holds it: what a Hamper bolt's pages and its rotation have made of it (R145, R515). -/
def ledgerNow (s : State) (b : Nat) : LedgerEntry :=
  let e := s.ledger b
  let n := boltSlot b
  if e.role ≠ 3 || e.state = 4 then e
  else match (s.hamBolts n).findIdx? (· == b) with
    | none => e
    | some k =>
      let mine := s.ham.bPages.filter fun p => p.slot == n && p.bolt == k
      { e with state := match mine.getLast? with | none => 0 | some p => if p.page < 8191 then 1 else 2
               resets := e.resets + Tab.get (fun _ => 0) s.ham.bResets (4 * n + k)
               ageFirst := (mine.head?.map (·.age)).getD e.ageFirst }

/-- The page of copy B at a PSA (R515): TYPE 7, with its records as the bytes of its lines; a line without a record is a zero line. -/
def hamPageAt (s : State) (psa : Nat) : Option Page :=
  let n := psaSlot psa
  ((s.hamBolts n).findIdx? (· == boltOf psa)).bind fun k =>
    (s.ham.bPages.find? fun p => p.slot == n && p.bolt == k && p.page == psaPage psa).map fun p =>
      { selv := { typ := 7, swatch := p.group % 4 + (if p.mirror then 4 else 0), seq := (p.recs.head?.map (·.seq)).getD 0 % 2 ^ 40, age := p.age }
        refs := p.recs.flatMap fun r => (r.bytes60 ++ le 4 hamMark.toNat).map (·.toNat) }

/-- Retired bolts of a cartridge. -/
def retiredBolts (s : State) (n : Nat) : Nat := ((s.ledgerOf n).filter fun _ e => e.state == 4).length

/-- Unused spare allowance of a cartridge (R175). -/
def sparesLeft (s : State) (n : Nat) : Nat := 16 * s.spareAllowance n - s.retiredBolts n

/-- Free bolts of a cartridge: FREE, minus unused spares and the idle part of the fixed reserve (R180): of its 16 flush-row bolts those that no flush
frame outside the patch log uses, of its 4 basting and 4 Hamper bolts those that are not in use. -/
def cartFree (s : State) (n : Nat) : Nat :=
  let l := s.ledgerOf n
  let inUse (p : Nat → LedgerEntry → Bool) : Nat := (l.filter fun b e => e.state != 0 && e.state != 4 && p b e).length
  let ham := ((s.hamBolts n).filter fun b => (s.ledgerNow b).state != 0).length
  let idle := (16 - inUse fun b e => e.series == 21 && !s.xlt.roster.contains b) + (4 - inUse fun _ e => e.role == 2) + (4 - ham)
  16 * s.boltsPerDie n - (l.filter fun _ e => e.state != 0).length - ham - s.sparesLeft n - idle

/-- Adopted cartridges of a group, ascending. -/
def groupSlots (s : State) (g : Nat) : List Nat := ((List.range 8).map (8 * g + ·)).filter fun n => (s.cart n).adopted

/-- Free bolts of a group. -/
def groupFree (s : State) (g : Nat) : Nat := (s.groupSlots g).foldl (fun a n => a + s.cartFree n) 0

/-- Collection and low levels in percent (Table 05-9). -/
def gcStart (s : State) : Nat := max 5 (s.getF MED.CTRL_GC_START)
def lowPct (s : State) : Nat := min (max 3 (s.getF MED.CTRL_LOW)) (s.gcStart - 1)
/-- A threshold of a group: floor(total × percent / 100). -/
def threshold (s : State) (g pct : Nat) : Nat := s.getF (MED.GROUP_TOTAL_TOTAL g) * pct / 100

/-- Valid pages of a frame. -/
def frameValid (s : State) (f : Frame) : Nat := f.bolts.foldl (fun a b => a + (s.boltInfo (s.aliasOf b)).valid) 0

/-- Group g enters write-sealed state (R181). -/
def sealGroup (g : Nat) (s : State) : State :=
  if s.flag (MED.GROUP_STATUS_SEALED g) then s else (s.setF (MED.GROUP_STATUS_SEALED g) 1).fire 193

/-- The group's free bolts have changed: collection, low, reserve and reserve-gone levels (Table 05-7, R165, R183 leaves the seal to
the MED seam). -/
def levelUpdate (g : Nat) (s : State) : State :=
  if !Nat.testBit s.plan.groups g then s
  else
    let n := s.groupFree g
    let low := decide (n < s.threshold g s.lowPct)
    let s1 := if low && !s.flag (MED.GROUP_STATUS_BELOW_LOW g) then (s.setF (MED.GROUP_STATUS_BELOW_LOW g) 1).fire 192
      else s.setFlag (MED.GROUP_STATUS_BELOW_LOW g) low
    let m := s1.groupMedia g
    let run := if m.collecting then decide (n < s.threshold g (s.gcStart + 1)) else decide (n < s.threshold g s.gcStart)
    let s2 := (s1.setGroupMedia g { m with collecting := run }).setFlag (MED.GROUP_STATUS_GC_ACTIVE g) run
    let gone := decide (n ≤ s.threshold g 2) && decide (0 < s.getF (MED.GROUP_TOTAL_TOTAL g))
      && !(s.med.frames.any fun f => f.group == g && f.closed && s.frameValid f + 1024 ≤ f.next)
    if gone then s2.sealGroup g else s2

/-! ### Allocation (R160, R161) -/

/-- A bolt may be allocated: FREE, in no role, and not one that a rebuild still needs (R190) or whose number an ALIAS of a replaced cartridge stands for (R191). -/
def boltFree (s : State) (b : Nat) : Bool :=
  let e := s.ledger b
  e.state == 0 && e.role == 0 && !(s.groupMedia (boltSlot b / 8)).lost.contains b && (Tab.get (fun _ => ({} : LedgerEntry)) s.med.goneLed b).aliasTo == 0xFFFFFFFF

/-- The free bolt of a die with the lowest wear leaf, or the highest for series K; among equals the lowest number. While the die's wear tree is
being rebuilt, any free bolt (R162: which one depends on the tree, a free value). `all`: the bolt will be used to its last page (R104). -/
def pickBolt (s : State) (slot die : Nat) (most all : Bool) : Option Nat :=
  let free := ((List.range (s.boltsPerDie slot)).map (mkBolt slot die)).filter fun b => s.boltFree b && !(all && b == lastBolt)
  if s.med.treeBad.contains (16 * slot + die) then free[s.freeVal % (max 1 free.length)]?
  else (free.foldl (fun (best : Option (Nat × Nat)) b =>
    let r := (s.ledger b).resets
    match best with
    | none => some (r, b)
    | some (w, _) => if (if most then w < r else r < w) then some (r, b) else best) none).map (·.2)

/-- The least worn of the bolts that several dies offer; among equals the first. -/
def leastWorn (s : State) (l : List Nat) : Option Nat :=
  (l.foldl (fun (best : Option (Nat × Nat)) b =>
    let r := (s.ledger b).resets
    match best with
    | none => some (r, b)
    | some (w, _) => if r < w then some (r, b) else best) none).map (·.2)

/-- The least-worn free bolt of a bolt's die where `same`, else of the other dies of its cartridge that have not failed (R167, R176). -/
def spareBolt (s : State) (slot die : Nat) (same : Bool) : Option Nat :=
  let failed := Tab.get (fun _ => 0) s.med.failedDies slot
  (if same then s.pickBolt slot die false true else none).orElse fun _ =>
    s.leastWorn (((List.range 16).filter fun d => d != die && !Nat.testBit failed d).filterMap fun d => s.pickBolt slot d false true)

/-- Dies of a rotation starting after the last one taken (R161). -/
def dieOrder (last : Nat) : List Nat := (List.range 16).map fun i => (last + 1 + i) % 16

/-- A bolt for a series on a cartridge: on the fixed die of series S0 to S15, else on the next die of the rotation that has a free bolt
and has not failed. -/
def chooseBolt (s : State) (slot series : Nat) (all : Bool) : Option Nat :=
  if series < 16 then s.pickBolt slot series false all
  else
    let failed := Tab.get (fun _ => 0) s.med.failedDies slot
    ((dieOrder (Tab.get (fun _ => 15) s.med.rotDie (32 * slot + series))).filter fun d => !Nat.testBit failed d).findSome?
      fun d => s.pickBolt slot d (series == 20) all

/-- A choice made while the die's wear tree is being rebuilt is recorded (R162). -/
def approxNote (b : Nat) (s : State) : State :=
  if s.med.treeBad.contains (16 * boltSlot b + boltDie b) then
    s.freeStep.hamper 0x0304 208 (le 1 (boltSlot b) ++ le 1 (boltDie b) ++ le 2 (boltNum b) ++ le 4 (s.ledger b).resets)
  else s

/-- Take a bolt: its ledger entry reads OPEN before its first program (R145). -/
def takeBolt (b role series pos frame parityAt parityNext : Nat) (s : State) : State :=
  let e := s.ledger b
  let s1 := (s.setLedger b { e with state := 1, role, series, position := pos, frame, parityAt, parityNext, aliasTo := 0xFFFFFFFF }).approxNote b
  let s2 := s1.setBoltInfo b {}
  s2.putMed { s2.med with rotDie := Tab.set (fun _ => 15) s2.med.rotDie (32 * boltSlot b + series) (boltDie b) }

/-- The cartridge in a slot is in service for new frames (R152, R397): adopted, not quarantined, not critical, its link not lost for 100 ms. -/
def inService (s : State) (n : Nat) : Bool :=
  let c := s.cart n
  c.present && c.adopted && !c.quarantined && !s.cartCritical n && ((s.link n).up || (s.link n).retraining) && !(s.link n).late

/-- Positions present for a new frame (R152): adopted, in service, not excluded by the wear gauge, not being removed. -/
def present (s : State) (g : Nat) : List Nat :=
  ((List.range 8).map (8 * g + ·)).filter fun n =>
    s.inService n && !s.flag (MED.CART_MEDIA_EXCLUDED n) && s.getF (MED.CART_MEDIA_CLASS n) ≠ 3 && !(s.cart n).prepared

/-- The state of a planned group (R152, R187): unavailable with fewer than 7 positions present, degraded while a position lacks its cartridge. -/
def groupNow (g : Nat) (s : State) : State :=
  if !Nat.testBit s.plan.groups g then s
  else
    let n := (s.groupSlots g).length
    let old := s.getF (MED.GROUP_STATUS_STATE g)
    let m := s.groupMedia g
    if (s.present g).length < 7 then s.setF (MED.GROUP_STATUS_STATE g) 5
    else if m.rebuild.isSome then (if old = 5 then s.setF (MED.GROUP_STATUS_STATE g) (if m.rebuild.any (·.2) then 4 else 3) else s)
    else if n = 8 then s.setF (MED.GROUP_STATUS_STATE g) 1
    else if old = 2 then s
    else ((s.setF (MED.GROUP_STATUS_STATE g) 2).setGroupMedia g { m with degradedAt := s.clk.now }).fire 202

/-- The start of a position's parity run and the bolt in which it continues (R153, R154); a parity bolt receives the runs of
consecutive frames until it is full. -/
def parityRun (slot series group len frame : Nat) (s : State) : State × Option (Nat × Nat × Nat) :=
  let key := 1024 * (32 * group + series) + slot
  let cur := Tab.get (fun _ => none) s.med.parityAt key
  let fresh (s : State) : State × Option Nat := match s.chooseBolt slot series true with
    | some b => (s.takeBolt b 1 series 0 frame 0 0xFFFF, some b)
    | none => (s, none)
  let keep (s : State) (v : Option (Nat × Nat)) : State :=
    s.putMed { s.med with parityAt := Tab.set (fun _ => none) s.med.parityAt key v }
  let (s1, at_) := match cur with
    | some a => (s, some a)
    | none => let (s', b) := fresh s; (s', b.map fun b => (b, 0))
  match at_ with
  | none => (s1, none)
  | some (b, p) =>
    if p + len ≤ 8192 then (keep s1 (if p + len = 8192 then none else some (b, p + len)), some (b, p, noBolt))
    else match fresh s1 with
      | (s2, some c) => (keep s2 (some (c, p + len - 8192)), some (b, p, c))
      | (s2, none) => (s2, none)

/-- PARITY_AT and PARITY_NEXT of Table 05-3. -/
def parityFields (r : Nat × Nat × Nat) (len : Nat) : Nat × Nat :=
  let low (b : Nat) : Nat := boltDie b * 4096 + boltNum b
  (r.2.1 * 65536 + low r.1, if 8192 < r.2.1 + len then low r.2.2 else 0xFFFF)

/-- The wear gauge's exclusion from new frames (R186): a worn-out cartridge always; a critical one while the free bolts of the group's other cartridges
are above the LOW threshold. -/
def excludeUpdate (g : Nat) (s : State) : State :=
  (s.groupSlots g).foldl (fun s n =>
    let c := s.getF (MED.CART_MEDIA_CLASS n)
    let others := s.groupFree g - s.cartFree n
    s.setFlag (MED.CART_MEDIA_EXCLUDED n) (c == 3 || (c == 2 && decide (s.threshold g s.lowPct < others)))) s |>.groupNow g

/-- A series opens its next frame in a group over the present positions (R151, R152); a group with fewer than 7 opens none. The
translation engine learns of patch and journal bolts by the frame's series. -/
def openFrame (g series : Nat) (s0 : State) : State :=
  let s := s0.excludeUpdate g
  let slots := s.present g
  if slots.length < 7 then s
  else
    let len := if slots.length = 8 then 1171 else 1366
    let m := s.groupMedia g
    let num := m.nextFrame
    let step (acc : State × List Nat × List (Nat × Nat × Nat) × Bool) (slot : Nat) :
        State × List Nat × List (Nat × Nat × Nat) × Bool :=
      let (s, bs, rs, ok) := acc
      if !ok then acc
      else match s.parityRun slot series g len num with
        | (s1, some r) => match s1.chooseBolt slot series false with
          | some b =>
            let (pa, pn) := parityFields r len
            (s1.takeBolt b 0 series (bs.length + (if slots.length = 7 then 8 else 0)) num pa pn, bs ++ [b], rs ++ [r], true)
          | none => (s1, bs, rs, false)
        | (s1, none) => (s1, bs, rs, false)
    let (s1, bolts, runs, ok) := slots.foldl step (s, [], [], true)
    if !ok then s
    else
      let f : Frame := { group := g, number := num, series, slots, bolts, runs }
      let s2 := s1.putMed { s1.med with frames := s1.med.frames ++ [f] }
      let s3 := s2.setGroupMedia g { s2.groupMedia g with nextFrame := num + 1 }
      let s4 := if series = 16 then (s3.putXlt { s3.xlt with roster := s3.xlt.roster ++ bolts }) else s3
      s4.levelUpdate g

/-- The open frame of a series in a group. -/
def openFrameOf (s : State) (g series : Nat) : Option Frame :=
  s.med.frames.find? fun f => f.group == g && f.series == series && !f.closed && !f.cut && !f.full

/-- The group takes programs: not unavailable, every adopted cartridge of it inside its write window (R409), and none in a retrain of less than 100 ms (R397). -/
def groupWrites (s : State) (g : Nat) : Bool :=
  s.getF (MED.GROUP_STATUS_STATE g) ≠ 5 && (s.groupSlots g).all fun n => (s.cart n).inWindow && (!(s.link n).retraining || (s.link n).late)

/-- The next page of a series in a group, opening a frame where none is open (R151). -/
def allocPage (g series : Nat) (s : State) : State × Option Nat :=
  let s1 := if (s.openFrameOf g series).isSome then s else s.openFrame g series
  match s1.openFrameOf g series with
  | none => (s1, none)
  | some f => (s1.setFrame { f with next := f.next + 1 }, some (f.psa f.next))

/-- Rotation of series J, C and A over the planned groups (R149). -/
def rotateGroup (s : State) : State × Nat :=
  let l := s.plannedGroups
  ((s.putMed { s.med with rotGroup := s.med.rotGroup + 1 }),
    l.getD (if l.length = 0 then 0 else s.med.rotGroup % l.length) 0)

/-- Series S of a new swatch page: the sixteen take turns (log 21). -/
def nextS (s : State) (g : Nat) : Nat :=
  ((s.med.frames.filter fun f => f.group == g && f.series < 16).foldl (fun a f => a + f.next) 0) % 16

/-! ### Programs (R145, R404) -/

/-- A page is handed to its cartridge for programming. -/
def issue (psa : Nat) (page : Page) (purpose : Purpose) (s : State) : State :=
  s.putMed { s.med with progs := s.med.progs ++ [{ psa, page, purpose, nosusp := s.flush.stopped || s.flush.halt }] }

/-- STRIPE_POS of a data page at entry e (R153). -/
def stripePos (f : Frame) (e : Nat) : Nat := e - (f.width - 1) * f.stripe e

/-- Bit g of the granule map for each line DPA[44:31] the page holds (R184). -/
def granulesOf (p : Page) : List Nat :=
  if p.selv.typ = 1 then [p.selv.swatch / 2 ^ 19]
  else ((p.dir.map fun d => d.line / 2 ^ 25)).eraseDups

/-- The open basting set of a cartridge that may take a page: on no die of the set and not on the set's basting die (R156). -/
def bastFor (s : State) (psa : Nat) : Option BSet :=
  s.med.bast.find? fun b => b.slot == psaSlot psa && b.pages.length < 15 && boltDie b.bolt != psaDie psa
    && !(b.pages.map psaDie).contains (psaDie psa)

/-- A basting bolt of a cartridge with room, its place among the open ones. -/
def bastOpen (s : State) (slot : Nat) : List (Nat × Nat × Nat) := s.med.bastBolts.filter fun e => e.1 == slot && e.2.2 < 8192

/-- A cartridge keeps two open basting bolts on different dies (R156). -/
def bastKeep (slot : Nat) (s : State) : State :=
  let failed := Tab.get (fun _ => 0) s.med.failedDies slot
  let one (s : State) : State :=
    let used := (s.bastOpen slot).map fun e => boltDie e.2.1
    if 2 ≤ used.length || !s.inService slot || s.getF (MED.CART_MEDIA_CLASS slot) = 3 then s
    else match ((List.range 16).filter fun d => !used.contains d && !Nat.testBit failed d).findSome? fun d => s.pickBolt slot d false true with
      | none => s
      | some b =>
        let s1 := s.takeBolt b 2 0xFF 0 0 0 0xFFFF
        s1.putMed { s1.med with bastBolts := s1.med.bastBolts ++ [(slot, b, 0)] }
  one (one s)

/-- Close a basting set (R157): its basting page is issued at the next page of its bolt. -/
def bastClose (b : BSet) (s : State) : State :=
  let s0 := s.putMed { s.med with bast := s.med.bast.filter fun x => !(x.number == b.number && x.slot == b.slot) }
  if b.pages.isEmpty then s0
  else
    let page := ((s.med.bastBolts.find? fun e => e.2.1 == b.bolt).map (·.2.2)).getD 0
    let bolts : List (Nat × Nat × Nat) := s0.med.bastBolts.map fun e => if e.2.1 == b.bolt then (e.1, e.2.1, page + 1) else e
    let s1 := s0.putMed { s0.med with bastBolts := bolts }
    (s1.issue (mkPsa b.bolt page) { selv := { typ := 10, swatch := b.number % 2 ^ 32 }, refs := b.pages } .basting).bastKeep b.slot

/-- A basting bolt of a cartridge on a die other than the one given. -/
def bastBolt (slot die : Nat) (s : State) : State × Option Nat :=
  let s1 := s.bastKeep slot
  (s1, ((s1.bastOpen slot).find? fun e => boltDie e.2.1 != die).map (·.2.1))

/-- A data page that no verified quilt parity covers yet joins a basting set of its cartridge (R156); a set of 15 closes. -/
def baste (psa : Nat) (s : State) : State :=
  let put (b : BSet) (s : State) : State :=
    let b' := { b with pages := b.pages ++ [psa] }
    let s1 := s.putMed { s.med with bast := s.med.bast.map fun x => if x.number == b.number && x.slot == b.slot then b' else x }
    if 15 ≤ b'.pages.length then s1.bastClose b' else s1
  match s.bastFor psa with
  | some b => put b s
  | none => match s.bastBolt (psaSlot psa) (psaDie psa) with
    | (s1, none) => s1
    | (s1, some bolt) =>
      let n := Tab.get (fun _ => 0) s1.med.bastNo (psaSlot psa)
      let b : BSet := { slot := psaSlot psa, number := n, bolt, since := s1.clk.now }
      put b (s1.putMed { s1.med with bast := s1.med.bast ++ [b], bastNo := Tab.set (fun _ => 0) s1.med.bastNo (psaSlot psa) (n + 1) })

/-- A page that counts as valid in its bolt's count (R164): all but filler pages. -/
def countsValid (p : Page) : Bool := p.selv.typ != 0 && p.selv.typ != 9 && p.selv.typ != 10

/-- Injection points 3 and 6 (R307, R308): whether the armed injection damages a page that holds its target line. -/
def injHits (s : State) (points : List Nat) (line : Nat) : Bool := match s.integ.inj with
  | some i => points.contains i.point && i.target == line && 0 < i.left
  | none => false

/-- One count of the armed injection is consumed; at 0 it disarms and source 132 fires (R307). -/
def injConsume (s : State) : State := match s.integ.inj with
  | none => s
  | some i =>
    let s1 := s.setF SCB.INJ_LEFT_COUNT (i.left - 1)
    if i.left ≤ 1 then
      ((s1.putInteg { s1.integ with inj := none }).setF SCB.INJ_CTRL_ARM 0).fire 132
    else s1.putInteg { s1.integ with inj := some { i with left := i.left - 1 } }

/-- Mask of the armed injection, cut to n bits. -/
def injMask (s : State) (n : Nat) : Nat := match s.integ.inj with | some i => i.mask % 2 ^ n | none => 0

/-- Line slot of a page that holds a line, if it does. -/
def slotOfLine (p : Page) (line : Nat) : Option Nat :=
  if p.selv.typ = 1 then (if p.selv.swatch = swatchOf line then some (line % 64) else none)
  else p.dir.findIdx? fun d => d.line == line

/-- Damage by injection at a media program: point 3 in the line's codeword, point 6 in the selvage (more than 8 symbols make
its CHECK fail on a later scan). -/
def injProgram (p : Page) (s : State) : State × Page :=
  match s.integ.inj with
  | none => (s, p)
  | some i => match slotOfLine p i.target with
    | none => (s, p)
    | some k =>
      if i.point = 3 then
        let m := p.line k
        (s.injConsume, { p with lines := Tab.set (fun _ => {}) p.lines k { m with damage := m.damage ^^^ BitVec.ofNat 720 i.mask } })
      else if i.point = 6 then
        (s.injConsume, if symErrors (BitVec.ofNat 720 (i.mask % 2 ^ 360)) ≤ 8 then p
          else { p with selv := { p.selv with check := false } })
      else (s, p)

/-- A bolt's page at an index holds a verified program. -/
def programmed (s : State) (psa : Nat) : Bool := (s.pageAt psa).isSome

/-- An entry of a frame has been handed out and its program has not been verified. -/
def entryOpen (s : State) (psa : Nat) : Bool := s.med.progs.any (fun x => x.psa == psa) || s.xlt.openPages.any fun o => o.psa == psa

/-- The parity page of a stripe: the XOR of the members that are stored (R154). -/
def parityPage (s : State) (f : Frame) (k : Nat) : Page :=
  { selv := { typ := 9, swatch := f.number % 2 ^ 32, stripe := 7, age := s.xlt.mclk }, refs := ((f.entries k).map f.psa).filter s.programmed }

/-- A parity page is issued once every stored member of its stripe is programmed and verified (R154). That of a flush frame is written at the end of the flush or by recovery (R155). -/
def parityIssue (f : Frame) (k : Nat) (s : State) : State :=
  let p := f.parityPsa k
  let pg := s.parityPage f k
  if f.series = 21 || s.programmed p || s.med.progs.any (fun x => x.psa == p) || s.getF (MED.CART_MEDIA_CLASS (psaSlot (s.physPsa p))) = 3 then s
  else if (f.closed || f.cut || f.full || (f.width - 1) * (k + 1) ≤ f.next) && !(f.entries k).any (fun e => s.entryOpen (f.psa e)) && !pg.refs.isEmpty then
    s.issue p pg .parity
  else s

/-- Every stripe of a closed frame that holds a stored entry has verified quilt parity (R158). -/
def covered (s : State) (f : Frame) : Bool :=
  f.closed && (List.range f.stripes).all fun k => s.sound (f.parityPsa k) || !(f.entries k).any fun e => s.programmed (f.psa e)

/-- A bolt of a cartridge that takes resets is to be reset (R145, R164); one of a worn-out cartridge stays STALE (R186). -/
def toReset (b : Nat) (s : State) : State :=
  let s1 := s.setLedger b { s.ledger b with state := 3 }
  if s1.getF (MED.CART_MEDIA_CLASS (boltSlot b)) = 3 then s1 else s1.putMed { s1.med with resets := s1.med.resets ++ [b] }

/-- Basting bolts whose sets have no unreleased member become STALE and are reset (R158). A bolt that holds no set yet stays open. -/
def bastRelease (s : State) : State :=
  let released (psa : Nat) : Bool := match s.frameOf (boltOf psa) with
    | none => true
    | some f => s.covered f
  let sets (b : Nat) : List Page := s.med.pages.filterMap fun e => if boltOf e.1 == s.aliasOf b then e.2.filter (·.selv.typ == 10) else none
  let done := s.med.bastBolts.filter fun e => !(sets e.2.1).isEmpty && (sets e.2.1).all (fun p => p.refs.all released)
    && !s.med.bast.any (fun t => t.bolt == e.2.1) && !s.med.progs.any fun p => boltOf p.psa == e.2.1
  done.foldl (fun s e =>
    let s1 := s.toReset (s.aliasOf e.2.1)
    (s1.putMed { s1.med with bastBolts := s1.med.bastBolts.filter fun x => x.2.1 != e.2.1 }).bastKeep e.1) s

/-- The data bolts of a frame become STALE and are to be reset together (R164, R145). Parity bolts follow when no frame that remains uses them. The aliases of
the frame's bolts disappear (R191): a bolt that was vacated and is not retired is STALE as well. -/
def frameReset (f : Frame) (s : State) : State :=
  let clear (b : Nat) (s : State) : State :=
    let s1 := if (s.ledger b).aliasTo = 0xFFFFFFFF then s
      else s.setLedger b { s.ledger b with aliasTo := 0xFFFFFFFF, state := if (s.ledger b).state = 4 then 4 else 3 }
    s1.putMed { s1.med with goneLed := Tab.erase s1.med.goneLed b }
  let mark (s : State) (b : Nat) : State := if s.aliasOf b = b then s.toReset b else clear b (s.toReset (s.aliasOf b))
  let s1 := f.bolts.foldl mark s
  let left := s1.med.frames.filter fun x => !(x.group == f.group && x.number == f.number)
  let m := s1.groupMedia f.group
  let s2 := (s1.putMed { s1.med with frames := left }).setGroupMedia f.group { m with refreshq := m.refreshq.filter (· != f.number) }
  let used (b : Nat) : Bool := left.any (fun x => x.parityBolts.contains b) || s2.med.parityAt.any fun e => e.2.any fun a => a.1 == b
  (f.parityBolts.filter fun b => !used b).foldl mark s2

/-- A frame whose data bolts are all stale is reset (R164). -/
def frameCheck (b : Nat) (s : State) : State := match s.frameOf b with
  | some f => if f.closed && s.frameValid f = 0 then s.frameReset f else s
  | none => s

/-- A page is no longer current: its bolt's valid count falls (R164). -/
def dropPage (psa : Nat) (s : State) : State :=
  if psa = unmappedPsa then s
  else
    let b := s.aliasOf (boltOf psa)
    let i := s.boltInfo b
    (s.setBoltInfo b { i with valid := i.valid - 1 }).frameCheck (boltOf psa)

/-- Composed selvage of a page at its place (R121). -/
def withPlace (s : State) (psa : Nat) (p : Page) : Page :=
  let pos := match (s.frameOf (boltOf psa)).bind fun f => (f.entryOf psa).map (stripePos f) with
    | some n => n
    | none => p.selv.stripe
  { p with selv := { p.selv with stripe := pos, age := s.xlt.mclk } }

/-- A bolt closes (R145): its ledger entry reads CLOSED; a data bolt's summary page (R184) goes to series A, unless a device-initiated flush is under way. -/
def boltClose (b : Nat) (s : State) : State :=
  let y := s.aliasOf b
  let e := s.ledger y
  if e.state ≠ 1 then s
  else
    let s1 := s.setLedger y { e with state := 2 }
    if e.role ≠ 0 || s.flush.stopped then s1
    else
      let (s2, g) := s1.rotateGroup
      let i := s2.boltInfo y
      match s2.allocPage g 19 with
      | (s3, some q) =>
        s3.issue q { selv := { typ := 6, swatch := b % 2 ^ 21 },
                     refs := [b, e.resets, e.frame, e.series, i.firstAt, i.lastAt, i.valid] ++ i.granules } .summary
      | (s3, none) => s3

/-- A frame closes with its last bolt: every entry has been handed out, or it has been cut short (R189), and no program of it is open. Its last stripe gets its parity page. -/
def closeCheck (g num : Nat) (s : State) : State := match s.frameAt g num with
  | none => s
  | some f =>
    if f.closed || !(f.full || f.cut) || s.med.progs.any (fun p => f.bolts.contains (boltOf p.psa)) || s.xlt.openPages.any (fun o => f.bolts.contains (boltOf o.psa)) then s
    else
      let f' := { f with closed := true, closedAt := s.xlt.mclk }
      let s1 := f.bolts.foldl (fun s b => s.boltClose b) (s.setFrame f')
      let s2 := if f'.next = 0 then s1 else s1.parityIssue f' (f'.stripes - 1)
      if s2.frameValid f' = 0 then s2.frameReset f' else s2

/-- The common part of a verified program (R145, R151, R154, R156): the page is stored, its bolt's figures advance, a bolt whose last page it is closes, a data page
joins a basting set, a stripe that is complete gets its parity page, a full frame closes. -/
def storePage (psa : Nat) (p0 : Page) (s : State) : State :=
  let (s0, p) := s.injProgram (s.withPlace psa p0)
  let b := s0.aliasOf (boltOf psa)
  let i := s0.boltInfo b
  let first := i.lastPg == 0 && i.firstAt == 0 && psaPage psa == 0
  let i := { i with
    firstAt := if psaPage psa = 0 then s0.xlt.mclk else i.firstAt
    lastAt := s0.xlt.mclk
    lastPg := max i.lastPg (psaPage psa)
    valid := if countsValid p then i.valid + 1 else i.valid
    granules := (i.granules ++ granulesOf p).eraseDups }
  let s1 := (s0.putMed { s0.med with pages := Tab.set (fun _ => none) s0.med.pages (s0.physPsa psa) (some p) }).setBoltInfo b i
  let s2 := if first then s1.setLedger b { s1.ledger b with ageFirst := s1.xlt.mclk % 2 ^ 32 } else s1
  let s3 := if psaPage psa = 8191 then s2.boltClose (boltOf psa) else s2
  match s3.frameOf (boltOf psa) with
  | none => s3
  | some f =>
    match f.entryOf psa with
    | none => s3
    | some e => ((s3.baste psa).parityIssue f (f.stripe e)).closeCheck f.group f.number

/-- A filler page (R167, R189): zero lines, TYPE 0. -/
def fillerPage : Page := { selv := { typ := 0 } }

/-- Close an open frame short (R189): filler programs until every data bolt has as many pages as the furthest; it closes when they and the pages under way are verified. -/
def closeShort (f : Frame) (s : State) : State :=
  if f.closed || f.cut then s
  else
    let next := if f.width = 0 then 0 else ceilDiv f.next f.width * f.width
    let fill := ((List.range next).drop f.next).map f.psa
    let s1 := s.setFrame { f with next, cut := true }
    (fill.foldl (fun s q => s.issue q fillerPage .filler) s1).closeCheck f.group f.number

end State

end Sys2Proof.Machine
end

