-- ==== Sys2Proof/Machine/Lines.lean ====
section
/-!
DEFINITION. Shared operations on lines: the caches and staging (06), the patch log, the darn queue, map switches and the
journal (04), the newest value of a line and its storing (03), the flush estimate (08).
-/
namespace Sys2Proof.Machine

namespace State

/-! ### Flush estimate (R265, R266, R269) -/

/-- n of R265: cartridges that a flush writes to; a halt flush, those of groups with 7 or more that passed their key check (R348). -/
def flushCarts (s : State) : List Nat :=
  (List.range 32).filter fun n => s.cartUp n && Nat.testBit s.plan.groups (n / 8) && s.getF (MED.GROUP_STATUS_STATE (n / 8)) ≠ 5
    && s.getF (MED.CART_MEDIA_CLASS n) ≠ 3 && (s.cart n).inWindow
    && (!s.flush.halt || 7 ≤ ((List.range 8).filter fun i => s.cartUp (8 * (n / 8) + i)).length)

/-- t_flush in ns for a given b. -/
def tFlush (s : State) (b : Nat) : Nat :=
  let n := s.flushCarts.length
  2000000 + ceilDiv ((b + 16 * s.med.sealTab.length) * 8) (75 * n) + (if n = 0 then 10 ^ 12 else 0)

/-- TOP.FLUSH_EST, the cartridge count, and the check against HOLDUP_US (R266): source 48 once per episode. -/
def flushUpdate (s : State) : State :=
  let b := max s.budget s.dirtyBytes
  let n := s.flushCarts.length
  let t := s.tFlush b
  let us := ceilDiv (10000 + 1000 * min 2000 (s.getF TOP.FLUSH_CTRL_WARN_US) + t) 1000
  let gpf := ceilDiv (10000 + t + ceilDiv ((b + 16 * s.med.sealTab.length) * 8) (525 * n) + 1000000) 1000
  let s1 := ((s.setF TOP.FLUSH_EST_US (min 65535 us)).setF TOP.FLUSH_EST_GPF_US (min 65535 gpf)).setF TOP.FLUSH_STATUS_CARTS n
  let off := (List.range 16).foldl (fun m r =>
    if Nat.testBit (s.getF PWS.RAIL_USED_USED) r then max m (s.getF (PWS.RAIL_TIME_OFF_US r)) else m) 0
  let late := s.getF TOP.FLUSH_CTRL_HOLDUP_US ≠ 0 && decide (s.getF TOP.FLUSH_CTRL_HOLDUP_US < us + off)
  if late && !s.flag TOP.FLUSH_STATUS_OVER_HOLDUP then (s1.setF TOP.FLUSH_STATUS_OVER_HOLDUP 1).fire 48
  else s1.setFlag TOP.FLUSH_STATUS_OVER_HOLDUP late

/-- What makes a position present has changed in the running device (R152, R397, R494): its group's state is evaluated again. -/
def presenceUpdate (n : Nat) (s : State) : State :=
  if s.topState = 3 || 6 ≤ s.start.step then (s.excludeUpdate (n / 8)).flushUpdate else s

/-- After any change of the dirty lines: the cleaning level and the flush estimate follow (R218, R266). -/
def dirtyChanged (s : State) : State := s.cleaningUpdate.flushUpdate

/-! ### Injection on cached lines (R307, R308) -/

end State

/-- A line with a mask XORed into its 576 bits in the order of R289: bits 18n to 18n+15 are bytes 2n and 2n+1, bits 18n+16 and
18n+17 are tag bits 2n and 2n+1 (R27). -/
def flipLine (l : Line) (mask : Nat) : Line :=
  let words := List.range 32
  let d := words.foldl (fun a n => a + mask / 2 ^ (18 * n) % 65536 * 2 ^ (16 * n)) 0
  let t := words.foldl (fun a n => a + mask / 2 ^ (18 * n + 16) % 4 * 2 ^ (2 * n)) 0
  { l with data := l.data ^^^ BitVec.ofNat 512 d, tag := l.tag ^^^ BitVec.ofNat 64 t }

namespace State

/-- Point 0 or 1 on a line being stored. -/
def injLine (points : List Nat) (line : Nat) (l : Line) (s : State) : State × Line :=
  if s.injHits points line then (s.injConsume, flipLine l (s.injMask 576)) else (s, l)

/-- Point 2 on a read of a cached copy's data: the read counts as uncorrectable. -/
def injCached (line : Nat) (s : State) : State × Bool :=
  if s.injHits [2] line then (s.injConsume, true) else (s, false)

/-! ### The Lining (R193 to R196) -/

/-- Way at key 16 set + way. -/
def way (s : State) (k : Nat) : Way := Tab.get (fun _ => {}) s.cache.lining k
def setWay (k : Nat) (w : Way) (s : State) : State :=
  s.putCache { s.cache with lining := Tab.set (fun _ => {}) s.cache.lining k w }

/-- The way that holds a line. -/
def findWay (s : State) (line : Nat) : Option Nat :=
  ((List.range 16).map (16 * liningSet s.order line + ·)).find? fun k => let w := s.way k; w.valid && w.line == line

/-- Pincushion entry n. -/
def pent (s : State) (n : Nat) : PEntry := Tab.get (fun _ => {}) s.cache.pcu n
def setPent (n : Nat) (e : PEntry) (s : State) : State :=
  s.putCache { s.cache with pcu := Tab.set (fun _ => {}) s.cache.pcu n e }

/-- The entry that is valid for a line in its slice (R199, R201). -/
def findPent (s : State) (line : Nat) : Option Nat :=
  (s.cache.pcu.find? fun e => e.2.swatch == swatchOf line && Nat.testBit e.2.valid (sliceOf line)).map (·.1)

/-- A line of an entry. -/
def pline (s : State) (n line : Nat) : PLine := Tab.get (fun _ => {}) (s.pent n).lines (line % 64)
def setPline (n line : Nat) (l : PLine) (s : State) : State :=
  let e := s.pent n
  s.setPent n { e with lines := Tab.set (fun _ => {}) e.lines (line % 64) l }

/-- The entry that is valid for a line and holds a value of it: no refetch is outstanding (R200). -/
def pentHit (s : State) (line : Nat) : Option Nat := (s.findPent line).filter fun n => !(s.pline n line).gone

/-- The newest staging copy of a line. -/
def stagedOf (s : State) (line : Nat) : Option Staged := (s.cache.staging.filter fun t => t.line == line && !t.dropped).getLast?

/-- Lines in a slice's eviction staging. -/
def stagingLen (s : State) (k : Nat) : Nat := (s.cache.staging.filter fun t => sliceOf t.line == k).length

/-- Room in the staging of a line's slice (R196). -/
def stagingRoom (s : State) (line : Nat) : Bool := s.stagingLen (sliceOf line) < 786432

/-- A dirty line is copied into staging (R196). -/
def stage (line : Nat) (val : Line) (fromPcu : Bool) (s : State) : State :=
  ((s.modCache fun c => { c with staging := c.staging ++ [{ id := s.nextReq, line, val, fromPcu }] }).putNextReq (s.nextReq + 1)).perf
    (sliceOf line) 0x00E none 1

/-- Staging copies that satisfy a test are released. -/
def stagingDrop (p : Staged → Bool) (s : State) : State :=
  s.putCache { s.cache with staging := s.cache.staging.filter fun t => !p t }

/-- The line is dirty in a cache. -/
def dirtyIn (s : State) (line : Nat) : Bool := match s.findPent line with
  | some n => (s.pline n line).dirty
  | none => match s.findWay line with
    | some k => (s.way k).dirty
    | none => false

/-- A line of a locked range (R209). -/
def inLockRange (s : State) (line : Nat) : Bool := s.cache.lockRanges.any fun r => r.1 ≤ line && line < r.1 + r.2

/-- Invalidate a way: a locked valid way becomes locked-invalid (R214); it keeps the line, by which the UNLOCK form finds it. The line slot in HBM keeps its
contents, which R222 reads. -/
def dropWay (k : Nat) (s : State) : State :=
  let w := s.way k
  s.setWay k (if w.lock then { line := w.line, lock := true, val := w.val } else { val := w.val })

/-- A hit sets REF; a hit by a read flagged streaming changes neither REF nor AGE (R202). -/
def touchWay (k : Nat) (stream : Bool) (s : State) : State := if stream then s else s.setWay k { s.way k with ref := true }
def touchPent (n : Nat) (stream : Bool) (s : State) : State := if stream then s else s.setPent n { s.pent n with ref := true }

/-! ### Uncorrectable cached lines (R221) -/

/-- A dirty line or staging copy is lost: stored poisoned where it is, counted, source 225, record 0x0401. -/
def dirtyLost (line copy : Nat) (s : State) : State :=
  (s.countF LIN.ERR_DIRTY_LOST 1).fireRec 0x0401 225 (le 5 line ++ le 1 copy ++ le 1 (sliceOf line))

/-- A staging copy becomes stored poisoned: so does its patch in flight, so that its write-back stores the poison (R221). -/
def stagedLost (t : Staged) (s : State) : State :=
  let bad (l : Line) : Line := { l with poison := true, origin := 0 }
  let mark (x : Staged) : Staged := if x.id == t.id then { x with val := bad x.val } else x
  let s1 := s.modCache fun c => { c with staging := c.staging.map mark }
  match t.place with
  | none => s1
  | some (psa, k) =>
    let dir (l : List DirEntry) : List DirEntry := l.mapIdx fun i d => if i == k then { d with poison := true, val := bad d.val } else d
    let page (p : Page) : Page :=
      { p with dir := dir p.dir, lines := Tab.set (fun _ => {}) p.lines k { p.line k with val := bad (p.line k).val } }
    let s2 := s1.modXlt fun x => { x with openPages := x.openPages.map fun o => if o.psa == psa then { o with ents := dir o.ents } else o }
    s2.modMed fun m => { m with progs := m.progs.map fun p => if p.psa == psa then { p with page := page p.page } else p }

/-- A dirty line slot or staging slot in HBM that is uncorrectable counts as an uncorrectable HBM read of its slice's stack (Table 09-11, R34); of a clean one R221 has CLEAN_REFETCH alone count. -/
def lineUncorr (line : Nat) (s : State) : State := s.countF (SCB.HBM_ERR_UNCORR (sliceOf line / 4)) 1

/-- R221 on the copy that a probe of the line hits. The answer tells whether the copy was dirty, so that the requester receives poison. -/
def lineError (line : Nat) (s : State) : State × Bool :=
  let bad (l : Line) : Line := { l with poison := true, origin := 0 }
  match s.pentHit line with
  | some n =>
    let l := s.pline n line
    if l.dirty then ((s.setPline n line { l with val := bad l.val }).dirtyLost line 1, true)
    else ((s.setPline n line { gone := true }).countF LIN.ERR_CLEAN_REFETCH 1, false)
  | none => match s.findWay line with
    | some k =>
      let w := s.way k
      if w.dirty then (((s.lineUncorr line).setWay k { w with val := bad w.val }).dirtyLost line 0, true)
      else ((s.dropWay k).countF LIN.ERR_CLEAN_REFETCH 1, false)
    | none => match s.stagedOf line with
      | some t => (((s.lineUncorr line).stagedLost t).dirtyLost line 2, true)
      | none => (s, false)

/-- A dirty cached line is read for a copy of it: staging, the medium, an assembly (R308). Under injection point 2 it is lost (R221). -/
def copyOut (line : Nat) (s : State) : State := match s.injCached line with
  | (s1, true) => (s1.lineError line).1
  | (s1, false) => s1

/-- The same for a staging copy; the copy as it is then. -/
def copyStaged (t : Staged) (s : State) : State × Staged := match s.injCached t.line with
  | (s1, true) =>
    let s2 := ((s1.lineUncorr t.line).stagedLost t).dirtyLost t.line 2
    (s2, (s2.cache.staging.find? fun x => x.id == t.id).getD t)
  | (s1, false) => (s1, t)

/-! ### Victims -/

/-- The victim way of a line's set (R206). -/
def victim (s : State) (line : Nat) : Nat :=
  let keys := (List.range 16).map (16 * liningSet s.order line + ·)
  let lockedInvalid := keys.find? fun k => let w := s.way k; w.lock && !w.valid
  let free := keys.find? fun k => let w := s.way k; !w.lock && !w.valid
  let old (a : Nat) := keys.find? fun k => let w := s.way k; !w.lock && w.valid && w.age == a
  let pick := (if s.inLockRange line then lockedInvalid else none).orElse fun _ => free.orElse fun _ =>
    (old 3).orElse fun _ => (old 2).orElse fun _ => (old 1).orElse fun _ => old 0
  pick.getD (16 * liningSet s.order line)

/-- A line takes a way (R202, R206): a dirty victim goes to staging; none where that staging is full. -/
def install (line : Nat) (val : Line) (dirty stream : Bool) (s : State) : Option State :=
  let k := s.victim line
  let w := s.way k
  let new : Way := { line, valid := true, dirty, lock := w.lock, ref := !stream, age := if stream then 3 else 0, val }
  if w.valid && w.dirty then
    if s.stagingRoom w.line then
      let s1 := s.copyOut w.line
      some ((s1.stage w.line (s1.way k).val false).setWay k new)
    else none
  else some (s.setWay k new)

end State

/-- Stamp of a journal record. -/
def jrecStamp : JRec → Nat
  | .mapSet _ _ t _ => t
  | .unmap _ _ t => t
  | .regionImage _ _ _ t => t
  | .clock _ t => t

namespace State

/-! ### Stamps, journal, map switches (R107, R109, R129) -/

/-- Take a stamp (R109). -/
def takeStamp (s : State) : State × Nat :=
  ((s.putXlt { s.xlt with seq := (s.xlt.seq + 1) % 2 ^ 40 }), s.xlt.seq)

/-! ### Anchor (R134) -/

/-- The first patch page of a patch bolt, stored, in program or open: its SEQ and the stamp of its first patch. -/
def firstPatch (s : State) (b : Nat) : Option (Nat × Nat) :=
  let stamp (seq : Nat) (l : List DirEntry) : Nat := (seq + ((l.head?).map (·.delta)).getD 0) % 2 ^ 40
  let stored := s.med.pages.filterMap fun e => match e.2 with
    | some p => if boltOf e.1 = s.aliasOf b && p.selv.typ = 2 then some (psaPage e.1, p.selv.seq, stamp p.selv.seq p.dir) else none
    | none => none
  let flying := (s.med.progs.filter fun p => p.purpose == .patch && boltOf p.psa == b).map fun p => (psaPage p.psa, p.page.selv.seq, stamp p.page.selv.seq p.page.dir)
  let begun := (s.xlt.openPages.filter fun o => boltOf o.psa == b).map fun o => (psaPage o.psa, o.seq, stamp o.seq o.ents)
  let all := stored ++ flying ++ begun
  ((all.find? fun x => all.all fun y => x.1 ≤ y.1)).map (·.2)

/-- The journal's replay start (R132): the older of the oldest start stamp among the newest image of each region and the stamp of the
oldest roster bolt's first patch page. While some region has no image, the whole journal is retained. -/
def replayStart (s : State) : Nat :=
  let newest := (List.range (regionCount s.order)).filterMap fun r => ((s.xlt.images.filter fun i => i.region == r).getLast?).map (·.start)
  let first := (s.xlt.roster.head?).bind fun b => (s.firstPatch b).map (·.1)
  let oldest := (s.xlt.jpages.head?).map (·.seq)
  if newest.length < regionCount s.order then oldest.getD s.xlt.seq
  else (newest ++ first.toList).foldl (fun a x => if newer a x then x else a) s.xlt.seq

/-- The two lowest-numbered healthy cartridges of each planned group. -/
def anchorSlots (s : State) : List Nat :=
  s.plannedGroups.flatMap fun g => ((s.groupSlots g).filter fun n => s.cartUp n && (s.cart n).inWindow).take 2

/-- Bolts of the journal: those of the frames of series J that hold a retained page or are open. -/
def journalBolts (s : State) : List Nat :=
  (s.med.frames.filter fun f => f.series == 17 && (!f.closed || s.xlt.jpages.any fun p => f.bolts.contains (boltOf p.psa))).flatMap (·.bolts)

/-- The key store as it stands: the key of a slot that is not PERSIST is not kept (R325). -/
def storeNow (s : State) : KeyStore :=
  let keep (v : KeySlot) : KeySlot := if v.persist then v else { v with key := 0 }
  { gen := s.cip.storeGen, slots := s.cip.slots.map fun _ v => keep v, bindings := s.cip.bindings }

/-- Cartridges take a key store; what another device had written there is gone. -/
def storeTo (slots : List Nat) (k : KeyStore) (s : State) : State :=
  slots.foldl (fun s n => s.setCart n { s.cart n with store := none })
    (s.putCip { s.cip with stores := slots.foldl (fun t n => Tab.set (fun _ => none) t n (some k)) s.cip.stores })

/-- Write an anchor record with its time pair (R111, R134). A cartridge that is to hold it receives the current key store first (R325). None is
written before the last step of recovery (R450). -/
def anchorWrite (s : State) : State :=
  if !s.memActive then s else
  let a : Anchor :=
    { images := s.xlt.images, journal := s.journalBolts, roster := s.xlt.roster, replay := s.replayStart, seq := s.xlt.seq, mclk := s.xlt.mclk
      pairTime := if s.clk.timeSet then s.clk.time else 0, serials := s.serials, extents := s.coh.extents }
  let slots := s.anchorSlots
  let s1 := if s.cip.storeGen = 0 then s else s.storeTo slots s.storeNow
  s1.putXlt { s1.xlt with anchor := some a, anchors := slots.foldl (fun t n => Tab.set (fun _ => none) t n (some a)) s1.xlt.anchors }

/-- The device area of Tack takes a time pair with its check (R111, Table 17-3): every 60 s, and at a shutdown, where its device time is 0 if no host has set it (DEDUCED, log 36). -/
def timePairWrite (s : State) : State :=
  let b := le 8 (if s.clk.timeSet then s.clk.time else 0) ++ le 4 s.xlt.mclk ++ le 16 0
  if s.kpsOk then s.setTackBytes 0x1218 (b ++ le 4 (crc32c b)) else s.refuseWrite

/-- A directory page of the roster is written into the journal stream (Table 04-5). -/
def directoryWrite (s : State) : State :=
  let (s1, stamp) := s.takeStamp
  let (s2, g) := s1.rotateGroup
  match s2.allocPage g 17 with
  | (s3, none) => s3
  | (s3, some psa) =>
    let gen := s3.xlt.rosterGen
    let s4 := s3.modXlt fun x => { x with rosterGen := gen + 1 }
    s4.issue psa { selv := { typ := 3, swatch := gen % 2 ^ 33, seq := stamp }, refs := s3.xlt.roster } .journal

/-- Where the roster has changed, a directory page and an anchor are written (R134). -/
def rosterCheck (old : List Nat) (s : State) : State :=
  if s.xlt.roster == old then s else s.directoryWrite.anchorWrite

/-- Write the first page of the journal buffer (R129); its SEQ is the stamp of its CLOCK record, taken when the page began. -/
def journalWrite (s : State) : State :=
  match s.xlt.jbuf.head? with
  | none => s
  | some c =>
    let (s2, g) := s.rotateGroup
    match s2.allocPage g 17 with
    | (s3, none) => s3
    | (s3, some psa) =>
      let s4 := s3.modXlt fun x =>
        { x with jbuf := x.jbuf.drop 256, jpages := x.jpages ++ [{ seq := jrecStamp c, psa }], jcount := x.jcount + 1 }
      let page : Page := { selv := { typ := 5, swatch := s3.xlt.jcount % 2 ^ 33, seq := jrecStamp c }, recs := s3.xlt.jbuf.take 256 }
      let s5 := (s4.issue psa page .journal).perf 44 0x304 none 1
      if (s2.openFrameOf g 17).isNone then s5.anchorWrite else s5

/-- Append a journal record (R129, R264): the first of a page is a CLOCK record with the page's stamp (R109); a page of 256 is written when it fills. -/
def journal (r : JRec) (s : State) : State :=
  let s1 := if s.xlt.jbuf.length % 256 ≠ 0 then s
    else
      let (s', stamp) := s.takeStamp
      s'.putXlt { s'.xlt with jbuf := s'.xlt.jbuf ++ [.clock s'.xlt.mclk stamp] }
  let s2 := s1.putXlt { s1.xlt with jbuf := s1.xlt.jbuf ++ [r] }
  if s2.xlt.jbuf.length % 256 = 0 then s2.journalWrite else s2

/-- Recompute PATCH_PRESENT of a swatch, and clear POISON_ANY where R106 lets it: the page switched in has no poison and no live
patch is poisoned. -/
def mapFlags (sw : Nat) (pagePoison : Bool) (s : State) : State :=
  let e := s.mapEntry sw
  let live := s.idxOfSwatch sw
  s.setMapEntry sw { e with present := !live.isEmpty, poison := pagePoison || live.any (·.poison) }

/-- A map switch (R107): the entry and its journal record in one step; the old page is no longer current; the block's changed bit is
set (R139). -/
def mapSwitch (sw psa stamp : Nat) (poison : Bool) (s : State) : State :=
  let old := (s.mapEntry sw).psa
  let s1 := (s.setMapEntry sw { s.mapEntry sw with psa, poison := poison || (s.mapEntry sw).poison }).mapChanged sw
  (s1.journal (.mapSet sw psa stamp poison)).dropPage old

/-! ### The darn queue (R123) -/

/-- A darn place's priority: the lowest number absorbed. -/
def prioOf (p : DarnPlace) : Nat := p.prios.foldl min 4

/-- Add a trigger to an existing place. -/
def absorb (p : DarnPlace) (prio : Nat) (op : Option Nat) : DarnPlace :=
  { p with prios := p.prios ++ [prio], ops := p.ops ++ op.toList }

/-- Room for a swatch in the queue, or its place. -/
def darnRoom (s : State) (sw : Nat) : Bool := s.xlt.darnq.length < 65536 || s.xlt.darnq.any fun p => p.swatch == sw

/-- The swatch is under assembly. -/
def assembling (s : State) (sw : Nat) : Bool := s.xlt.asm.any fun a => a.swatch == sw

/-- A trigger for a swatch (R123). A trigger of priority 1 or 2 meeting a full queue takes the place of the newest droppable one; one that finds
none, and one of priority 4 from an op, waits. A trigger for a swatch under assembly is marked to be judged again after the switch (R127). -/
def darnTrigger (sw prio : Nat) (op : Option Nat) (s : State) : State :=
  let q := s.xlt.darnq
  let here (p : DarnPlace) : Bool := p.swatch == sw
  let take (p : DarnPlace) : DarnPlace := if here p then absorb p prio op else p
  if q.any here then s.putXlt { s.xlt with darnq := q.map take }
  else
    let new : DarnPlace := { swatch := sw, prios := [prio], ops := op.toList, held := s.assembling sw }
    if q.length < 65536 then s.putXlt { s.xlt with darnq := q ++ [new] }
    else if prio = 3 then s.fire 165
    else
      let wait := if s.xlt.waiting.any here then s.putXlt { s.xlt with waiting := s.xlt.waiting.map take }
        else s.putXlt { s.xlt with waiting := s.xlt.waiting ++ [new] }
      if prio = 4 then wait
      else match (q.filter fun p => p.prios.all (· == 3)).getLast? with
        | none => wait
        | some d => (s.putXlt { s.xlt with darnq := q.map fun p => if p.swatch == d.swatch then new else p }).fire 165

/-- A write of the slice waits for dirty-budget room: source 224 for the first wait of the episode (R98). -/
def stallSlice (k : Nat) (s : State) : State :=
  if s.cache.stall224.contains k then s else (s.modCache fun c => { c with stall224 := c.stall224 ++ [k] }).fire 224

/-- An eviction of the slice waits for a place in the darn queue, which counts as a wait for dirty-budget room (R123). -/
def evictWaits (s : State) (k : Nat) : Bool :=
  s.xlt.waiting.any fun p => p.prios.contains 2 && s.cache.staging.any fun t => swatchOf t.line == p.swatch && sliceOf t.line == k && t.place.isNone

/-- Stall episodes end in the slices in which no write and no eviction waits any more. -/
def stallEnd (s : State) : State :=
  let open_ (k : Nat) : Bool := s.evictWaits k || s.reqs.any fun r => r.stage == .hold && r.why == 0 && sliceOf r.line == k
  s.modCache fun c => { c with stall224 := c.stall224.filter open_ }

/-! ### Patches (R114 to R120) -/

/-- Directory entries of patches that are placed and not yet in the index. -/
def inFlight (s : State) : List DirEntry :=
  s.xlt.openPages.flatMap (·.ents) ++ (s.med.progs ++ s.med.stuck).flatMap fun p => if p.purpose == .patch then p.page.dir else []

/-- The swatch has a patch in flight (R117). -/
def swatchInFlight (s : State) (sw : Nat) : Bool := s.inFlight.any fun d => swatchOf d.line == sw && !d.dropped

/-- Live patches of a swatch, those in flight included (R120). -/
def livePatches (s : State) (sw : Nat) : Nat :=
  (s.idxOfSwatch sw).length + (s.inFlight.filter fun d => swatchOf d.line == sw && !d.dropped).length

/-- The page that an open patch page becomes when sealed (R114, R116). Its lines may be under several keys, so the selvage names key ID 0 and epoch 0 (DESIGN CHOICE, log 32). -/
def patchPage (s : State) (o : OpenPatch) : Page :=
  { selv := { typ := 2, seq := o.seq, poison := BitVec.ofNat 64 (o.ents.foldr (fun d a => 2 * a + if d.poison then 1 else 0) 0) },
    dir := o.ents,
    lines := (o.ents.foldl (fun (a : Nat × Tab MLine) d =>
      (a.1 + 1, Tab.set (fun _ => {}) a.2 a.1 { val := d.val, keyId := d.keyId, epoch := d.epoch, key := (s.keySlot d.keyId).key })) (0, [])).2 }

/-- Seal an open patch page and program it (R116). -/
def sealPage (o : OpenPatch) (s : State) : State :=
  let s1 := s.putXlt { s.xlt with openPages := s.xlt.openPages.filter fun x => x.psa != o.psa }
  s1.issue o.psa (s.patchPage o) .patch

/-- At the Reserve level an eviction takes no bolt (Table 05-7), unless the group is sealed: the lines admitted before may draw on the reserve (R181). -/
def reserveHeld (s : State) (g series : Nat) : Bool := (s.openFrameOf g series).isNone && s.groupFree g ≤ s.threshold g 2 && !s.groupSealed g

/-- The open patch page of a group, opened where there is none: its start takes a stamp (Table 04-2). -/
def openPatch (g : Nat) (s : State) : State × Option OpenPatch :=
  match s.xlt.openPages.find? fun o => o.group == g && !o.flush with
  | some o => (s, some o)
  | none =>
    if s.reserveHeld g 16 then (s, none)
    else match s.allocPage g 16 with
      | (s1, none) => (s1, none)
      | (s1, some psa) =>
        let (s2, seq) := (s1.rosterCheck s.xlt.roster).takeStamp
        let o : OpenPatch := { psa, group := g, seq, since := s2.clk.now }
        ((s2.putXlt { s2.xlt with openPages := s2.xlt.openPages ++ [o] }), some o)

/-- Place a patch (R116, R117): a stamp and a slot in an open page of the line's home group; a page that DELTA outgrows is sealed first. The
answer names the page and slot; none where the group gives no page. -/
def placePatch (line : Nat) (val : Line) (req : Option Nat) (s : State) : State × Option (Nat × Nat) :=
  let g := s.homeGroup (swatchOf line)
  let stale (o : OpenPatch) (s : State) : Bool := 65535 < (s.xlt.seq + 2 ^ 40 - o.seq) % 2 ^ 40
  let s0 := match s.xlt.openPages.find? fun o => o.group == g && !o.flush with
    | some o => if stale o s then s.sealPage o else s
    | none => s
  match s0.openPatch g with
  | (s1, none) => (s1, none)
  | (s1, some o) =>
    let (s2, stamp) := s1.takeStamp
    let m := s2.encLine line val
    let d : DirEntry := { line, delta := (stamp + 2 ^ 40 - o.seq) % 2 ^ 40, epoch := m.epoch, keyId := m.keyId, poison := m.val.poison, val := m.val, req }
    let o' := { o with ents := o.ents ++ [d], since := if o.ents.isEmpty then s2.clk.now else o.since }
    let s3 := (s2.modXlt fun x => { x with openPages := x.openPages.map fun y => if y.psa == o.psa then o' else y }).perf 44 0x301 none 1
    (if 56 ≤ o'.ents.length then s3.sealPage o' else s3, some (o.psa, o.ents.length))

/-- R120: at the swatch limit the swatch is queued for darning. -/
def swatchLimit (sw : Nat) (s : State) : State :=
  if clamp 2 24 (s.getF XLT.CTRL_SWATCH_LIMIT) ≤ s.livePatches sw then s.darnTrigger sw 3 none else s

/-- Lines of a swatch that are dirty in the caches or in staging, each once (R119). -/
def dirtyOfSwatch (s : State) (sw : Nat) : List Nat :=
  ((List.range 64).map (64 * sw + ·)).filter fun l => s.dirtyIn l || (s.stagedOf l).isSome

/-- A write-through write of the line has been placed and has not committed (R82). -/
def throughOpen (s : State) (line : Nat) : Bool := s.reqs.any fun r => r.line == line && r.stage == .through

/-- Place the oldest staging copy of a line that has no place yet, as a patch or through a full-swatch write (R117, R119). A copy that a write-through write in flight
makes obsolete is not placed: that write's commit releases it (R219). -/
def evict (line : Nat) (s : State) : State :=
  match (if s.throughOpen line then none else s.cache.staging.find? fun t => t.line == line && t.place.isNone && !t.taken) with
  | none => s
  | some t =>
    let sw := swatchOf line
    let n := (s.dirtyOfSwatch sw).length
    let win := (s.windowFree sw).isSome
    if n ≤ clamp 1 32 (s.getF XLT.CTRL_FULL_THRESH) && win && s.darnRoom sw then
      let (s0, t) := s.copyStaged t
      match s0.placePatch line t.val none with
      | (s1, none) => s1
      | (s1, some p) =>
        let mark (l : List Staged) : List Staged := match l.span fun x => !(x == t) with
          | (a, x :: b) => a ++ { x with place := some p } :: b
          | (a, []) => a
        ((s1.putCache { s1.cache with staging := mark s1.cache.staging })).swatchLimit sw
    else
      let s1 := s.darnTrigger sw 2 none
      let s2 := if s1.xlt.waiting.any fun p => p.swatch == sw then s1.stallSlice (sliceOf line) else s1
      if win then s2 else s2.fire 166

/-- A dirty cached line is released for write-back: it moves to staging and its copy stays as a clean line (R69, R196). False where staging
has no room. -/
def release (line : Nat) (s : State) : State × Bool :=
  if !s.stagingRoom line then (s, false)
  else match s.findPent line with
    | some n =>
      let s := if (s.pline n line).dirty then s.copyOut line else s
      let l := s.pline n line
      if l.dirty then ((s.stage line l.val true).setPline n line { l with dirty := false }, true) else (s, true)
    | none => match s.findWay line with
      | some k =>
        let s := if (s.way k).dirty then s.copyOut line else s
        let w := s.way k
        if w.dirty then ((s.stage line w.val false).setWay k { w with dirty := false }, true) else (s, true)
      | none => (s, true)

/-- Patch bolts that hold a live patch, and the log's size in bolts (Table 04-14). -/
def plogFill (s : State) : Nat × Nat :=
  let bolts := ((s.xlt.index.filterMap fun e => e.2.map fun i => boltOf i.psa)).eraseDups
  (bolts.length, 32 * s.plan.plogGib)

/-- Source 164 when the patch log fill rises above its watermark. -/
def fillCheck (s : State) : State :=
  let (n, t) := s.plogFill
  let high := decide (clamp 50 95 (s.getF XLT.CTRL_FILL_WM) * t < 100 * n)
  let s1 := s.putXlt { s.xlt with fillHigh := high }
  if high && !s.xlt.fillHigh then s1.fire 164 else s1

/-! ### The newest value of a line (R69) -/

end State

/-- Where a line's newest value is, for operations that take it in one step. -/
inductive Newest where
  /-- The line, where it came from, and the media page and slot it was read from. -/
  | line (l : Line) (path : Path) (psa : Nat)
  /-- Stored under a retired key or a stale epoch (R322). -/
  | stale
  /-- Unrecoverable (R93): page, slot, and whether a member was unavailable. -/
  | lost (psa slot : Nat) (absent : Bool)
  /-- A partial write in the buffer has not merged yet, or the map block or bucket is under repair. -/
  | wait
deriving DecidableEq, Repr

namespace State

/-- The newest buffered write to a line: admitted, not committed, not voided by an unmap (R79, R86). -/
def buffered (s : State) (line : Nat) : Option Req :=
  (s.reqs.filter fun r => r.isWrite && r.ordered && r.line == line && !r.void && r.stage != .respond).getLast?

/-- The zero line substituted for an unmapped line (R105). -/
def zeroLine (s : State) (line : Nat) : Line := mkLine 0 line (s.sharedOf line) false

/-- The media location of a line: the index entry's patch, else the swatch page; none where unmapped. -/
def location (s : State) (line : Nat) : Option (Nat × Nat × Path) :=
  match s.idxOf line with
  | some e => some (e.psa, e.slot, .patch)
  | none =>
    let m := s.mapEntry (swatchOf line)
    if m.psa = unmappedPsa then none else some (m.psa, line % 64, .swatch)

/-- The stored value of a line on media, or the zero line. -/
def storedValue (s : State) (line : Nat) (direct : Bool) : Newest :=
  if s.mapHurt (swatchOf line) then .wait
  else if Tab.get (fun _ => false) s.xlt.bucketBad (homeBucket (swatchOf line)) then .wait
  else match s.location line with
    | none => .line (s.zeroLine line) .zero 0
    | some (psa, slot, path) => match s.fetchStored psa slot direct with
      | none => .lost psa slot (match s.siblings psa with | some ms => ms.any fun m => !s.psaUp m | none => true)
      | some m => match s.decLine line m with
        | .ok l => .line l (if direct && s.psaUp psa then path else .recon) psa
        | .stale => .stale

/-- The newest value of a line: buffer, Pincushion, Lining, staging, media (R69). -/
def newest (s : State) (line : Nat) (direct : Bool) : Newest :=
  match s.buffered line with
  | some r => if r.unmerged then .wait
      else .line { data := r.data, tag := r.wtag, poison := r.poison, origin := r.origin } .buffer 0
  | none => match s.pentHit line with
    | some n => .line (s.pline n line).val .pcu 0
    | none => match s.findWay line with
      | some k => .line (s.way k).val .lining 0
      | none => match s.stagedOf line with
        | some t => .line t.val .staging 0
        | none => s.storedValue line direct

/-! ### Storing a line in the caches (R80, R195, R201) -/

/-- Store a line as newest and dirty in the Pincushion entry that holds it, else in the Lining (R80). None where a dirty victim finds no
staging room. Running assemblies keep it dirty (R126). -/
def storeDirty (line : Nat) (val : Line) (stream : Bool) (s : State) : Option State :=
  let keep (a : Assembly) : Assembly := { a with taken := a.taken.filter fun l => l != line }
  let s0 := s.modXlt fun x => { x with asm := x.asm.map keep }
  let (s1, v) := s0.injLine [1] line val
  match s1.findPent line with
  | some n => some (((s1.setPline n line { val := v, dirty := true }).touchPent n stream))
  | none => match s1.findWay line with
    | some k => some ((s1.setWay k { s1.way k with dirty := true, val := v }).touchWay k stream)
    | none => s1.install line v true stream

/-- The cached value of a line is discarded (R200, R213, R214): its way is invalidated; a line of a Pincushion entry is to be refetched. -/
def discardCached (line : Nat) (s : State) : State :=
  let s1 := match s.findWay line with | some k => s.dropWay k | none => s
  match s1.findPent line with
  | some n => s1.setPline n line { gone := true }
  | none => s1

/-- A store of the lines that satisfy a test takes effect: the data of older reads no longer fills a cache (R69, R71). -/
def passReads (p : Nat → Bool) (s : State) : State :=
  s.putReqs (s.reqs.map fun r => if p r.line && !r.isWrite && r.ordered then { r with stale := true } else r)

/-- A write-through write commits (R219 step 1): cached copies of its line are invalidated, and a staging copy without a stamp is released. -/
def throughCommit (line : Nat) (s : State) : State :=
  (s.discardCached line).stagingDrop fun t => t.line == line && t.place.isNone

/-! ### Unmap (R128) -/

/-- An unmap of the lines from `first` on, `n` of them (whole swatches): one stamp, entries and patches dropped, cached copies discarded,
in-flight patches and buffered writes before it dropped, assemblies ended, seal bits cleared, one journal record. An entry of a block under repair waits for the repair,
which applies the record (R140). -/
def unmap (first n : Nat) (s : State) : State :=
  let (s1, stamp) := s.takeStamp
  let inR (l : Nat) : Bool := first ≤ l && l < first + n
  let inS (sw : Nat) : Bool := first ≤ 64 * sw && 64 * sw < first + n
  let olds := s1.xlt.map.filter fun sw _ => inS sw && !s.mapBadAt sw
  let s2 := s1.idxRemove fun e => inR e.line
  let drop (d : DirEntry) : DirEntry := if inR d.line then { d with dropped := true } else d
  let dropP (p : Prog) : Prog := { p with page := { p.page with dir := p.page.dir.map drop } }
  let clearWay (w : Way) : Way :=
    if w.valid && inR w.line then (if w.lock then { line := w.line, lock := true, val := w.val } else { val := w.val }) else w
  let zeroAt (sw i : Nat) : PLine := { val := mkLine 0 (64 * sw + i) (s.sharedOf (64 * sw + i)) false }
  let clearPent (_ : Nat) (e : PEntry) : PEntry :=
    if inS e.swatch then
      { e with lines := (List.range 64).foldl (fun t i => Tab.set (fun _ => {}) t i (zeroAt e.swatch i)) [] }
    else e
  let voidR (r : Req) : Req := if r.ordered && inR r.line then (if r.isWrite then { r with void := true } else { r with stale := true }) else r
  let xlt := { s2.xlt with
    map := s2.xlt.map.filter fun sw _ => !inS sw || s.mapBadAt sw
    openPages := s2.xlt.openPages.map fun o => { o with ents := o.ents.map drop }
    asm := s2.xlt.asm.map fun a => if inS a.swatch then { a with ended := true } else a
    darnq := s2.xlt.darnq.filter fun p => !(inS p.swatch && p.ops.isEmpty) }
  let med := { s2.med with
    progs := s2.med.progs.map dropP
    stuck := s2.med.stuck.map dropP
    sealTab := s2.med.sealTab.filter fun sw _ => !inS sw }
  let cache := { s2.cache with
    staging := (s2.cache.staging.filter fun t => !(inR t.line && t.place.isNone)).map fun t => if inR t.line then { t with dropped := true } else t
    lining := Tab.filter (fun _ w => w != {}) (s2.cache.lining.map fun _ w => clearWay w)
    pcu := s2.cache.pcu.map clearPent }
  let s3 := (((s2.putXlt xlt).putMed med).putCache cache).putReqs (s2.reqs.map voidR)
  let s4 := ((s1.xlt.map.filter fun sw _ => inS sw).foldl (fun s e => s.mapChanged e.1) s3).journal (.unmap (first / 64) (ceilDiv n 64) stamp)
  (olds.foldl (fun s e => s.dropPage e.2.psa) s4).dirtyChanged

end State

end Sys2Proof.Machine
end

