-- ==== Sys2Proof/Machine/Post.lean ====
section
/-!
DEFINITION. Posting records to completion spools (13, R420 to R422, R437 to R439) and transaction samples (18, R538, R539).
-/
namespace Sys2Proof.Machine

/-- The division of spools without a SPOOL_DEFAULTS record (R420). -/
def defaultOwners : List SpoolOwner := (List.range 16).map fun n =>
  { owner := n, subFirst := 256 * n, subCount := 256, cplFirst := 4096 + 256 * n, cplCount := 256,
    winBase := 16 + 63 * n, winSize := 63 }

/-- An owner owns a spool. -/
def ownsSpool (o : SpoolOwner) (n : Nat) : Bool :=
  (o.subFirst ≤ n && n < o.subFirst + o.subCount) || (o.cplFirst ≤ n && n < o.cplFirst + o.cplCount)

/-- Entries E of a ring. -/
def SpoolCtx.entries (c : SpoolCtx) : Nat := 2 ^ c.log2
/-- Entries in use. -/
def SpoolCtx.used (c : SpoolCtx) : Nat := (c.tail + 2 * c.entries - c.head) % (2 * c.entries)
/-- Spool memory offset of entry i of a completion ring (R437: one 16-B word). -/
def SpoolCtx.wordAt (c : SpoolCtx) (i : Nat) : Nat := c.base + i % c.entries * 16

namespace State

/-- Context of spool n. -/
def ctx (s : State) (n : Nat) : SpoolCtx := Tab.get (fun _ => {}) s.spl.ctx n
def setCtx (n : Nat) (c : SpoolCtx) (s : State) : State := s.modSpl fun p => { p with ctx := Tab.set (fun _ => {}) p.ctx n c }

/-- The entry that names a spool's owner, in the division in force for the spool. -/
def ownerOf (s : State) (n : Nat) : Option SpoolOwner :=
  ((s.spl.owners[(s.ctx n).gen]?).getD []).find? fun o => ownsSpool o n

/-- Owner of a spool: LD 0-15, 16 the management endpoint, 31 none (Table 13-3). -/
def ownerCode (s : State) (n : Nat) : Nat := ((s.ownerOf n).map (·.owner)).getD 31

/-- Rights set of the spool engine for an owner (R431, Table 10-10). -/
def spoolSet (owner : Nat) : Nat := if owner < 16 then 16 + owner else 32

/-- Spool memory bytes; everything reads 0 after the fill (R255, R299). -/
def spoolBytes (s : State) (a n : Nat) : List Byte := Tab.getBytes (fun _ => 0) s.spl.mem a n
def setSpoolBytes (a : Nat) (bs : List Byte) (s : State) : State :=
  s.modSpl fun p => { p with
    mem := Tab.setBytes (fun _ => 0) p.mem a bs
    bad := p.bad.filter fun b => !(a ≤ 64 * b && 64 * b + 64 ≤ a + bs.length) }

/-- A byte of a range of spool memory lies in an uncorrectable block, or in the context of a spool whose context is uncorrectable (R296, Table 13-4). -/
def spoolBad (s : State) (a n : Nat) : Bool :=
  let hit (b : Nat) : Bool := a < 64 * b + 64 && 64 * b < a + n
  s.spl.bad.any hit || s.spl.ctx.any fun e => e.2.state == 3 && e.2.err == 4 && hit (e.1 / 2)

/-- A signal condition arises at completion spool n (R439): while ARMED, the vector, the pending bit and source 704 + k; otherwise it is held. -/
def spoolSignal (n : Nat) (s : State) : State :=
  let c := s.ctx n
  if !c.armed then s.setCtx n { c with held := true }
  else
    let o := s.ownerCode n
    let s1 := if o < 16 && 3 ≤ c.vec then s.sendVector o c.vec else s
    let s2 := s1.setF ⟨0x1D1000 + 4 * ((n - 4096) / 32), (n - 4096) % 32, 1⟩ 1
    (s2.fire (704 + (n - 4096) / 64)).setCtx n { c with armed := false, held := false }

/-- Write the words of one record at TAIL: each with its mark (R437); TAIL and PKTS advance. -/
def writeWords (n typ : Nat) (payloads : List (List Byte)) (s : State) : State :=
  let c := s.ctx n
  let k := payloads.length
  let one (acc : Nat × State) (p : List Byte) : Nat × State :=
    let i := acc.1
    let at_ := (c.tail + i) % (2 * c.entries)
    let mark := (if i + 1 = k then 128 else 0) + (if at_ / c.entries % 2 = 0 then 64 else 0) + 16 * (i % 4) + typ
    (i + 1, acc.2.setSpoolBytes (c.wordAt at_) (padTo 15 p ++ le 1 mark))
  let s1 := (payloads.foldl one (0, s)).2
  s1.setCtx n { c with
    tail := (c.tail + k) % (2 * c.entries)
    pkts := c.pkts + 1
    timer := c.pkts = 0 || c.timer }

/-- While DROPPED is nonzero the next word is a gap marker, as soon as one word is free (R438). -/
def gapCheck (n : Nat) (s : State) : State :=
  let c := s.ctx n
  if c.state = 1 && c.dropped ≠ 0 && c.used < c.entries then
    let s1 := s.writeWords n 2 [le 8 c.dropped]
    (s1.setCtx n { s1.ctx n with dropped := 0 }).spoolSignal n
  else s

/-- Post a record to completion spool n (R425, R437 to R439). -/
def postRecord (n typ : Nat) (payloads : List (List Byte)) (irq : Bool) (s : State) : State :=
  let c := s.ctx n
  if c.state = 1 && c.used + payloads.length ≤ c.entries then
    let s1 := s.writeWords n typ payloads
    if irq then s1.spoolSignal n else s1
  else (s.setCtx n { c with dropped := satAdd (2 ^ 32 - 1) c.dropped 1 }).gapCheck n

/-- A sample record enters the ring, or is posted as a TYPE 3 record of 3 words (R539). -/
def samplePush (rec_ : List Byte) (s : State) : State :=
  let n := s.getF PMC.SAMPLE_SPOOL_SPOOL
  if n < 4096 then s.ringPush rec_
  else
    let o := s.ownerCode n
    if (s.ctx n).state = 1 && (o = 16 || (o < 16 && s.hasRight (spoolSet o) rightDebug)) then
      s.postRecord n 3 [rec_.take 15, (rec_.drop 15).take 15, rec_.drop 30] false
    else (s.setF PMC.SAMPLE_STATUS_SPOOL_BAD 1).ringPush rec_ |>.fire 835

/-- Table 18-5, for a request of port `port` (7: spool engine). -/
def sampleRecord (s : State) (entered line op tag ld port path latency : Nat) : List Byte :=
  le 8 entered ++ le 5 line ++ le 1 op ++ le 2 tag ++ le 1 ld ++ le 1 port ++ le 2 path ++ le 4 latency
    ++ le 1 (sliceOf line) ++ le 1 0 ++ le 2 (s.getF PWS.PACE_STATUS_PACE) ++ le 4 0

/-- Whether a request of a source (1 host ports, 2 spool engine) and an LD counts for the countdown (R538). -/
def eligible (s : State) (src : Nat) (ld : Option Nat) : Bool :=
  let sel := if s.getF PMC.SAMPLE_CTRL_SRC = 0 then 1 else s.getF PMC.SAMPLE_CTRL_SRC
  s.flag PMC.SAMPLE_CTRL_EN && Nat.testBit sel (src - 1)
    && (!s.flag PMC.SAMPLE_CTRL_LD_FILT || ld == some (s.getF PMC.SAMPLE_CTRL_LD))

/-- Draw the next countdown: 1 to 2 × MEAN − 1, a free value (R538, log 11). -/
def drawSample (s : State) : Nat :=
  let mean := max 1 (s.getF PMC.SAMPLE_CTRL_MEAN)
  1 + s.freeVal % (2 * mean - 1)

/-- A request of port n's countdown: the request that brings it to 0 is sampled. A countdown that has not been drawn yet is drawn first. -/
def sampleStep (n : Nat) (ld : Option Nat) (s : State) : State × Bool :=
  if !s.eligible (if n < 4 then 1 else 2) ld then (s, false)
  else
    let cur := if n < 4 then (s.port n).sample else s.spl.sample
    let put (v : Nat) (s : State) : State :=
      if n < 4 then s.setPort n { s.port n with sample := v } else s.modSpl fun p => { p with sample := v }
    let (s0, c) := if cur = 0 then (s.freeStep, s.drawSample) else (s, cur)
    if c ≤ 1 then (put s0.drawSample s0.freeStep, true) else (put (c - 1) s0, false)

end State

end Sys2Proof.Machine
end

