-- ==== Sys2Proof/Machine/Hosts.lean ====
section
/-!
DEFINITION. What a host sees of its port beyond the request path: CXL event logs and health (11, R375, R379, R380), violations
(R383, R384), responses with their load, latency and sample (03, R90, R94 to R101), admission of waiting requests (R97).
-/
namespace Sys2Proof.Machine

namespace State

/-! ### Event logs -/

/-- Append a record to a log of an LD (R379): logs 0 to 4 hold 256, 128, 128, 32 and 64 records; a full log drops the record and counts
it with its first and last times, and source 512 + 32n + 6 fires for the first. The log's vector is 2 unless another is named. -/
def logEvent (ld log kind : Nat) (payload : List Nat) (s : State) : State :=
  let l := s.ldOf ld
  let recs := Tab.get (fun _ => []) l.logs log
  if recs.length < [256, 128, 128, 32, 64].getD log 0 then
    let r : EvRec := { handle := l.nextHandle, kind, time := s.clk.time, payload }
    let s1 := s.setLd ld { l with
      logs := Tab.set (fun _ => []) l.logs log (recs ++ [r]), nextHandle := l.nextHandle % 65535 + 1 }
    let v := Tab.get (fun _ => 2) l.policy log
    if v = 0 then s1 else s1.sendVector ld v
  else
    let (n, first, _) := Tab.get (fun _ => (0, 0, 0)) l.overflow log
    let o := Tab.set (fun _ => (0, 0, 0)) l.overflow log (n + 1, if n = 0 then s.clk.time else first, s.clk.time)
    let s1 := s.setLd ld { l with overflow := o }
    match l.port with
    | some p => if n = 0 then s1.fire (512 + 32 * p + 6) else s1
    | none => s1

/-- A General Media Event, at most 100 per second and LD; those beyond count as dropped (R380). Kind 0; the payload names the line and the cause. -/
def mediaEvent (ld log line cause : Nat) (s : State) : State :=
  let n := Tab.get (fun _ => 0) s.rate.mediaEvents ld + 1
  let s1 := s.modRate fun r => { r with mediaEvents := Tab.set (fun _ => 0) r.mediaEvents ld n }
  if n ≤ 100 then s1.logEvent ld log 0 [line, cause]
  else
    let l := s1.ldOf ld
    let (k, first, _) := Tab.get (fun _ => (0, 0, 0)) l.overflow log
    let o := Tab.set (fun _ => (0, 0, 0)) l.overflow log (k + 1, if k = 0 then s1.clk.time else first, s1.clk.time)
    s1.setLd ld { l with overflow := o }

/-- A mailbox response leaves (R369, R381): LD, opcode, return code, payload; vector 2 where the Mailbox Control register enables the interrupt. -/
def mbDone (ld op code : Nat) (payload : List Nat) (s : State) : State :=
  let s1 := s.emit (.mailbox ld op code payload)
  if (s.ldOf ld).mbIrq then s1.sendVector ld 2 else s1

/-- LDs bound to a port. -/
def boundLds (s : State) : List Nat := (List.range 16).filter fun n => (s.ldOf n).port.isSome

/-- A Memory Module Event on every bound LD. -/
def moduleEvent (log : Nat) (payload : List Nat) (s : State) : State :=
  s.boundLds.foldl (fun s n => s.logEvent n log 2 payload) s

/-! ### Health (Table 11-16) -/

/-- Media Status: Table 11-4 while not Ready (1 Not Ready, 3 Error), then 2 Write Persistency Lost, 4 Write Persistency Loss in Event of
Power Loss, 0 Normal. -/
def mediaStatus (s : State) : Nat :=
  if s.topState = 5 || s.topState = 2 || s.flag TOP.START_STATUS_FAILED then 3
  else if !s.memActive then 1
  else if s.plannedGroups.any s.groupSealed then 2
  else if s.flag TOP.FLUSH_STATUS_OVER_HOLDUP then 4 else 0

/-- The fields of Table 11-16 in its order: the three bits of Health Status, Media Status, Life Used as Additional Status and in percent, Device
Temperature (°C + 128), Dirty Shutdown Count, the two corrected counts. -/
def healthFields (s : State) : List Nat :=
  let slots := (List.range 32).filter fun n => Nat.testBit s.plan.groups (n / 8)
  let classOf (n : Nat) : Nat := s.getF (MED.CART_MEDIA_CLASS n)
  let b (p : Bool) : Nat := if p then 1 else 0
  let maint := s.plannedGroups.any (fun g => s.groupSealed g || s.flag (MED.GROUP_STATUS_BELOW_LOW g))
    || slots.any fun n => classOf n == 1 || classOf n == 2 || s.flag (MED.CART_MEDIA_SPARES_OUT n)
  let perf := s.paceLow || s.throttled || s.plannedGroups.any fun g => [2, 3, 4].contains (s.getF (MED.GROUP_STATUS_STATE g))
  let hw := slots.any fun n => classOf n == 3 || (s.cart n).quarantined || (s.cart n).fault || s.getF (MED.CART_MEDIA_FAILED_DIES n) != 0
  let life := if slots.any fun n => 2 ≤ classOf n then 2 else if slots.any fun n => classOf n == 1 then 1 else 0
  let used := (slots.foldl (fun m n => max m (s.getF (MED.CART_MEDIA_GAUGE n))) 0) / 10
  let temp := (List.range 8).foldl (fun (m : Int) z => max m (signed16 (s.getF (THM.ZONE_TEMP z)) / 16)) (-128)
  [b maint, b perf, b hw, s.mediaStatus, life, used, (temp + 128).toNat, s.getF TOP.DIRTY_SHUTDOWN_COUNT,
    s.getF (SCB.HBM_ERR_CORRECTED 0) + s.getF (SCB.HBM_ERR_CORRECTED 1), s.med.corrReads]

/-- After a change of what Table 11-16 shows: one Memory Module Event for each changed field on every bound LD (R379), and one on
each LD whose alert threshold a field has crossed (R375). -/
def healthCheck (s : State) : State :=
  let new := s.healthFields
  let old := s.health
  let s1 : State := s.putHealth (new)
  if old = [] then s1
  else
    let changed := (List.range 10).filter fun i => old.getD i 0 != new.getD i 0
    let s2 := changed.foldl (fun s i => s.moduleEvent 0 [i, new.getD i 0]) s1
    let idx := [5, 6, 8, 9]
    s2.boundLds.foldl (fun s n =>
      let a := (s.ldOf n).alerts
      (List.range 4).foldl (fun s k =>
        let i := idx.getD k 0
        let thr := a.vals.getD k 0
        if Nat.testBit a.enable k && decide (old.getD i 0 < thr) && decide (thr ≤ new.getD i 0) then
          s.logEvent n 1 2 [i, new.getD i 0] else s) s) s2

/-! ### Violations (R383, R384) -/

/-- A violation of kind k on port n. -/
def violation (n k : Nat) (ld : Option Nat) (line : Nat) (s : State) : State :=
  let s1 := s.countF (HPT.VIOL_COUNT n k) 1
  let s2 := ((((s1.setF (HPT.VIOL_LAST_LO_DPA n) (line % 2 ^ 26)).setF (HPT.VIOL_LAST_HI_DPA n) (line / 2 ^ 26)).setF
    (HPT.VIOL_LAST_HI_LD n) (ld.getD 0)).setF (HPT.VIOL_LAST_HI_KIND n) k).setF (HPT.VIOL_LAST_HI_VALID n) 1
  let c := Tab.get (fun _ => 0) s2.rate.viol n + 1
  let first := Tab.get (fun _ => 0) s2.rate.violKind (16 * n + k) = 0
  let s3 := s2.modRate fun r => { r with
    viol := Tab.set (fun _ => 0) r.viol n c, violKind := Tab.set (fun _ => 0) r.violKind (16 * n + k) 1 }
  let s4 := if first then
    s3.fireRec 0x0701 (512 + 32 * n + 8) (le 1 n ++ le 1 k ++ le 1 (ld.getD 0xFF) ++ le 1 0 ++ le 5 line) else s3
  let rate := s.getF (HPT.VIOL_CTRL_RATE n)
  if rate ≠ 0 && rate < c && !s4.rate.violOver.contains n then (s4.modRate fun r => { r with violOver := r.violOver ++ [n] }).fire (512 + 32 * n + 3) else s4

/-! ### Requests in flight -/

/-- Request number id. -/
def reqOf (s : State) (id : Nat) : Option Req := s.reqs.find? fun r => r.id == id
/-- Replace a request. -/
def setReq (r : Req) (s : State) : State := s.putReqs (s.reqs.map fun x => if x.id == r.id then r else x)
/-- Replace a request and put it last: the list order of the requests of a line is their order at the slice (R85). -/
def setReqLast (r : Req) (s : State) : State := s.putReqs (s.reqs.filter (fun x => x.id != r.id) ++ [r])
/-- Remove a request. -/
def dropReq (id : Nat) (s : State) : State := s.putReqs (s.reqs.filter fun x => x.id != id)

/-- A bridge request can be admitted and enter its slice: below the port's limit, the slice's tracker, write buffer and conflict queue not
full, and no older request of its port to the line still in the bridge (R85, R94, R97, R239). -/
def canAdmit (s : State) (r : Req) : Bool :=
  let k := sliceOf r.line
  (if r.isWrite then decide (s.wrOut r.port < s.wrEff r.port) && decide (s.wbufLen k < 64)
    else decide (s.rdOut r.port < s.rdEff r.port) && decide (s.rdTrk k < 1536))
  && (decide (s.conflLen k < 256) || r.wback)
  && !((s.reqs.takeWhile fun x => x.id != r.id).any fun x => x.stage == .bridge && x.port == r.port && x.line == r.line)

/-- The island bridges (Table 01-3). Those of the host ports and of the TAP hold entries from one command to the next; an entry of any other bridge crosses within the command
that brings it, so none of them is ever full (log 45). -/
inductive Bridge where
  | hostPort | cartLink | hbmPhy | spi | smbus | tap | avsBus | groupRing
deriving DecidableEq, Repr

/-- Entries a bridge holds per direction (R11). -/
def Bridge.depth : Bridge → Nat
  | .hostPort => 48
  | .cartLink => 24
  | .hbmPhy => 32
  | .spi => 64
  | .smbus => 256
  | .tap => 8
  | .avsBus => 4
  | .groupRing => 8

/-- Entries of the island bridge of port n towards the core (Table 01-3). -/
def bridgeFill (s : State) (n : Nat) : Nat := (s.reqs.filter fun r => r.stage == .bridge && r.port == n).length

/-- The island bridge of port n is full: its writer waits until there is room (R10, R11). -/
def bridgeCheck (n : Nat) (s : State) : State :=
  if s.bridgeFill n < Bridge.hostPort.depth then s else s.putBridgeWait (Tab.set (fun _ => false) s.bridgeWait n true)

/-- Port n withholds M2S credits of a channel: its outstanding requests are at the effective limit, or its bridge is full (R10, R94, R97). -/
def withholds (s : State) (n : Nat) (rwd : Bool) : Bool :=
  decide (Bridge.hostPort.depth ≤ s.bridgeFill n) || (if rwd then decide (s.wrEff n ≤ s.wrOut n) else decide (s.rdEff n ≤ s.rdOut n))

/-- The credit of a request that port n has received is returned, or withheld. -/
def creditTake (n : Nat) (rwd : Bool) (s : State) : State :=
  if !s.withholds n rwd then s
  else
    let p := s.port n
    s.setPort n (if rwd then { p with owedRwd := p.owedRwd + 1 } else { p with owedReq := p.owedReq + 1 })

/-- Credits that a port no longer has to withhold go back to the host. -/
def creditReturn (s : State) : State :=
  [0, 1, 2, 3].foldl (fun s n =>
    let p := s.port n
    s.setPort n { p with owedReq := if s.withholds n false then p.owedReq else 0, owedRwd := if s.withholds n true then p.owedRwd else 0 }) s

/-- Admit what may be admitted, in arrival order (R94), and return the credits that are no longer withheld. -/
def admitWaiting (s : State) : State :=
  (((s.reqs.filter fun r => r.stage == .bridge).map (·.id)).foldl (fun s id => match s.reqOf id with
    | some r => if s.canAdmit r then s.setReqLast { r with stage := .dispatch } else s
    | none => s) s).creditReturn

end State

/-! ### Time -/

namespace State

/-- A microsecond has passed while the core runs: the events that count time (0x104 for each port that withholds credits, 0x701 to 0x703). -/
def microsecond (s : State) : State :=
  let s1 := s.perf 48 0x701 none 1
  let s2 := if s1.paceLow then s1.perf 48 0x702 none 1 else s1
  let s3 := if s2.throttled then s2.perf 48 0x703 none 1 else s2
  [0, 1, 2, 3].foldl (fun s n => if (s.port n).owedReq + (s.port n).owedRwd = 0 then s else s.perf (8 + n) 0x104 none 1) s3

/-- One cycle of the supervisor island, 10 ns (R60). -/
def idleTick (s : State) : State :=
  let s1 := s.advance 10
  if s1.start.released && s.clk.now / 1000 != s1.clk.now / 1000 then s1.microsecond else s1

end State

/-! ### Responses -/

/-- Bit of PATH in Table 18-5. -/
def Path.bit : Path → Nat
  | .buffer => 1 | .pcu => 2 | .lining => 4 | .staging => 8 | .patch => 16 | .swatch => 32 | .recon => 64
  | .none | .zero | .snooped => 0

/-- PATH code of SCB.TAG_FAIL_LAST_HI (Table 09-13). -/
def Path.code : Path → Nat
  | .buffer => 0 | .pcu => 1 | .lining => 2 | .staging => 3 | .swatch => 4 | .patch => 5 | .recon => 6
  | .none | .zero | .snooped => 4

namespace State

/-- PATH of a sample (Table 18-5). -/
def pathField (s : State) (r : Req) (poison : Bool) : Nat :=
  r.path.bit + (if r.path == .recon then (if r.idx.isSome then 16 else 32) else 0) + (if r.squash7 then 128 else 0) + 256 * r.ladder
    + (if r.snooped && !r.isWrite then 2048 else 0) + (if poison then 4096 else 0) + (if s.paceLow then 8192 else 0)

/-- OP of a sample. -/
def sampleOp (r : Req) : Nat := if !r.isWrite then 1 else if r.partW then 3 else 2

/-- A response leaves its port: the load last sent, the largest latency (R101: of every request that has passed its order point, requests without data
counting with the reads, DESIGN CHOICE, log 29), the sample (R538), the poison count; the request ends, a
BIConflictAck that waited for it follows (R237), and waiting requests are admitted (R94). -/
def send (r : Req) (m : Msg) (s : State) : State :=
  let load := match m with | .s2mDrs _ _ _ d _ _ => d | .s2mNdr _ _ _ d => d | _ => 0
  let poison := match m with | .s2mDrs _ _ _ _ _ p => p | _ => false
  let p := s.port r.port
  let s1 := ((s.setPort r.port { p with credits := p.credits - 1 }).emit m).setF (HPT.ADMIT_STATUS_DEVLOAD r.port) load
  let lat := s.clk.now - r.started
  let k := sliceOf r.line
  let fld := if r.isWrite then SLC.WR_LAT_MAX_NS k else SLC.RD_LAT_MAX_NS k
  let s2 := if r.ordered then s1.setF fld (max (s1.getF fld) (min 1048575 lat)) else s1
  let s3 := if r.sampled then
    s2.samplePush (s2.sampleRecord r.entered r.line (sampleOp r) r.tag r.ld r.port (s2.pathField r poison) lat) else s2
  let s4 := if poison then s3.perf (8 + r.port) 0x103 (some r.ld) 1 else s3
  let acks := s4.coh.acks.filter fun a => a.1 == r.id
  let s5 := acks.foldl (fun s a => s.emit (.biConflictAck a.2.1 a.2.2 r.line)) s4
  ((s5.modCoh fun c => { c with acks := c.acks.filter fun a => a.1 != r.id }).dropReq r.id).admitWaiting

/-- The bridge of port n towards the host holds 48 responses: a core stage that has one more waits (R10, R11). -/
def respCheck (n : Nat) (s : State) : State :=
  s.putBridgeWait (Tab.set (fun _ => false) s.bridgeWait (8 + n) (decide (Bridge.hostPort.depth < (s.port n).respq.length)))

/-- Build a request's response: its DevLoad is fixed now (R100). It is sent at once while the port holds S2M credits, otherwise it waits (R90): the first
48 in the island bridge, the others before it. The responses of a lost port are discarded (R368). -/
def respond (r : Req) (data : Option (BitVec 512)) (poison : Bool) (s : State) : State :=
  if r.dead then ((s.modCoh fun c => { c with acks := c.acks.filter fun a => a.1 != r.id }).dropReq r.id).admitWaiting
  else
    let d := s.devLoad r.port
    let m : Msg := match data with
      | none => .s2mNdr r.port r.ld r.tag d
      | some x => .s2mDrs r.port r.ld r.tag d (if poison then 0 else x) poison
    let p := s.port r.port
    if p.credits = 0 || !p.respq.isEmpty then
      ((s.setReq { r with stage := .respond, poison }).setPort r.port { p with respq := p.respq ++ [(some r.id, m)] }).respCheck r.port
    else s.send r m

/-- Send the responses that wait while credits last. -/
def sendWaiting (n : Nat) (s : State) : State :=
  let p := s.port n
  let go := p.respq.take p.credits
  let s1 := (s.setPort n { p with respq := p.respq.drop go.length }).respCheck n
  go.foldl (fun s e => match e.1.bind s.reqOf with
    | some r => s.send r e.2
    | none => s.emit e.2) s1

end State

end Sys2Proof.Machine
end

