-- ==== Sys2Proof/Machine/Thimble.lean ====
section
/-!
DEFINITION. Shared operations of the Thimble (07): entries, the flows of Table 07-3, snoops, capacity eviction, suspect sets, the loss of
an LD; lines stored poisoned on the device's own account.
-/
namespace Sys2Proof.Machine

namespace State

/-! ### Storing a line -/

/-- A write of the line is write-through (R82): the cache it would commit to is disabling or disabled. -/
def writesThrough (s : State) (line : Nat) : Bool := if (s.findPent line).isSome then s.pcuOff else s.linOff

/-- The write-buffer entry of a write-through write that no host sends: an op of the data mover, a mark of the device (R79, R82). -/
def throughEntry (line : Nat) (v : Line) (s : State) : State × Nat :=
  let r : Req := { id := s.nextReq, kind := .write, port := 4, ld := 0, line, stage := .through, data := v.data, wtag := v.tag, poison := v.poison,
                   origin := v.origin, ordered := true, through := true, dead := true }
  ((s.putNextReq (s.nextReq + 1)).putReqs (s.reqs ++ [r]), s.nextReq)

/-- Store a line as newest: dirty in a cache, or write-through as a patch that commits when it is verified (R80, R82, R219). `req` is the request
that the patch completes. None where staging has no room, or the group has no patch page. -/
def storeLine (line : Nat) (val : Line) (stream : Bool) (req : Option Nat) (s : State) : Option State :=
  if s.writesThrough line then
    let (s1, id) := match req with | some k => (s, k) | none => s.throughEntry line val
    match s1.placePatch line val (some id) with
    | (s2, some _) => some (((s2.passReads (· == line)).swatchLimit (swatchOf line)).dirtyChanged)
    | (_, none) => none
  else
    (s.storeDirty line val stream).map fun s1 => (s1.passReads (· == line)).dirtyChanged

/-- Store the data of a write: injection point 0 comes first (Table 09-5). -/
def storeWrite (line : Nat) (val : Line) (stream : Bool) (req : Option Nat) (s : State) : Option State :=
  let (s1, v) := s.injLine [0] line val
  s1.storeLine line v stream req

/-- A line becomes stored poisoned where it is; its bytes are kept (R302). `origin` as in `Line`. Where its place finds no room the poisoned line waits in eviction staging, the limit of
which holds for evictions and host writes alone (DESIGN CHOICE, log 58). -/
def poisonLine (line origin : Nat) (s : State) : State :=
  let old := match s.newest line true with | .line l _ _ => l | _ => s.zeroLine line
  let bad : Line := { old with poison := true, origin }
  (s.storeLine line bad false none).getD (((s.throughCommit line).stage line bad false).passReads (· == line)).dirtyChanged

/-! ### Entries (R230 to R232) -/

/-- Keys of the eight ways of a line's set. -/
def thKeys (line : Nat) : List Nat := (List.range 8).map (8 * thimbleSet line + ·)
/-- The entry of a way. -/
def tent (s : State) (k : Nat) : TEntry := Tab.get (fun _ => {}) s.coh.thimble k
def setTent (k : Nat) (e : TEntry) (s : State) : State :=
  s.modCoh fun c => { c with thimble := Tab.set (fun _ => {}) c.thimble k e }
/-- The way that tracks a line, or that a flow on it holds busy. -/
def thFind (s : State) (line : Nat) : Option Nat :=
  (thKeys line).find? fun k => let e := s.tent k; (e.state != 0 || e.busy) && e.line == line
/-- The line's set is suspect (R243). -/
def suspect (s : State) (line : Nat) : Bool := s.coh.suspect.contains (thimbleSet line)

/-- LD n can be snooped: bound to a port whose link is up, and not lost. -/
def snoopable (s : State) (n : Nat) : Bool := match (s.ldOf n).port with
  | some p => s.flag (HPT.LINK_STATUS_CXL p) && !s.coh.lost.contains n
  | none => false

/-- A flow on the line is in progress, or a request or op of it waits for a snoop (R238). -/
def lineBusy (s : State) (line : Nat) : Bool :=
  (match s.thFind line with | some k => (s.tent k).busy | none => false)
    || s.reqs.any (fun r => r.line == line && (r.flow || r.evictKey.isSome)) || s.coh.snoops.any (fun x => x.1 == line)
    || s.coh.opLines.contains line

/-! ### Loss of an LD (R245) -/

/-- One entry loses an LD: its bit clears; an entry left with no bit becomes invalid; a line it held exclusive is stored poisoned while
COH.CTRL.LOST_POISON is 1. -/
def loseEntry (k n : Nat) (s : State) : State :=
  let e := s.tent k
  if e.state = 0 || !Nat.testBit e.presence n then s
  else
    let p := e.presence - 2 ^ n
    let s1 := s.setTent k { e with presence := p, state := if p = 0 then 0 else e.state }
    if e.state = 2 && s.sliceF (sliceOf e.line) COH.CTRL_LOST_POISON = 1 then (s1.poisonLine e.line 0).countF COH.LOST_LINES 1 else s1

/-- An entry meets the losses that the sweep has not applied to it yet. -/
def applyLosses (k : Nat) (s : State) : State := s.coh.lost.foldl (fun s n => s.loseEntry k n) s

/-! ### Snoops -/

/-- Send a snoop of a line to an LD (R236). Kind 0 Cur, 1 Data, 2 Inv. -/
def sendSnoop (line kind : Nat) (by_ : Option Nat) (s : State) (n : Nat) : State :=
  match (s.ldOf n).port with
  | none => s
  | some p =>
    let s1 := (s.emit (.biSnp p n kind line)).count64 COH.SNOOPS_LO_COUNT COH.SNOOPS_HI_COUNT 1
    (s1.perf (sliceOf line) 0x00F by_ 1).modCoh fun c => { c with snoops := c.snoops ++ [(line, n)] }

/-- Snoops outstanding for a line. -/
def snoopsOf (s : State) (line : Nat) : List (Nat × Nat) := s.coh.snoops.filter fun x => x.1 == line

end State

/-- Row of Table 07-3: snoop kind, LDs snooped, how the entry is written (`Req.after`), whether an entry is needed. -/
structure FlowRow where
  kind  : Nat
  lds   : List Nat
  after : Nat
  need  : Bool

/-- Table 07-3 for a host request: `st` and `pres` describe the entry before, 0 where absent. -/
def flowRow (kind : ReqKind) (mv : MetaValue) (h st pres : Nat) : FlowRow :=
  let g := (bitsOf 16 pres).filter (· != h)
  let gExcl := if st = 2 then g else []
  match kind, mv with
  | .read, .shared => ⟨1, gExcl, 0, true⟩
  | .read, .any => ⟨2, g, 1, true⟩
  | .read, .invalid => if gExcl.isEmpty then ⟨0, [], 3, false⟩ else ⟨0, gExcl, 2, false⟩
  | .inv, _ => ⟨0, [], 3, false⟩
  | .evct, _ => ⟨0, [], 3, false⟩
  | .write, .any => ⟨2, if st = 2 && Nat.testBit pres h then [] else g, 1, true⟩
  | .write, .shared => ⟨2, if st = 2 && Nat.testBit pres h then [] else g, 5, true⟩
  | .write, .invalid => ⟨2, if st = 2 && Nat.testBit pres h then [] else g, 4, false⟩

/-- The entry a flow leaves, by its `after` and the LDs that kept the line. -/
def entryAfter (after h : Nat) (e : TEntry) : TEntry :=
  let one := 2 ^ h
  let (st, p) := match after with
    | 0 => (1, e.presence ||| one)
    | 1 => (2, one)
    | 2 => (e.state, e.presence)
    | 3 => (e.state, if Nat.testBit e.presence h then e.presence - one else e.presence)
    | 5 => (1, one)
    | _ => (0, 0)
  { e with state := if p = 0 then 0 else st, presence := p, busy := false, age := 0, touched := true }

/-- What starting a flow led to. -/
inductive FlowStep where
  /-- The request proceeds at once. -/
  | go
  /-- It waits for snoop responses. -/
  | wait
  /-- It waits in the conflict queue. -/
  | conflict
deriving DecidableEq, Repr

namespace State

/-- A way for a new entry of a line's set (R242): the lowest invalid one, else the victim; none while all eight are busy. -/
def thVictim (s : State) (line : Nat) : Option Nat :=
  let keys := thKeys line
  (keys.find? fun k => let e := s.tent k; e.state == 0 && !e.busy).orElse fun _ =>
    [3, 2, 1, 0].findSome? fun a => keys.find? fun k => let e := s.tent k; !e.busy && e.age == a

/-- Start the flow of a host request to an HDM-DB line (R234, R242, R243). The request's record is updated in the state. -/
def beginFlow (r : Req) (s : State) : State × FlowStep :=
  let s0 := match s.thFind r.line with | some k => s.applyLosses k | none => s
  let key := s0.thFind r.line
  let e := match key with | some k => s0.tent k | none => {}
  let row := flowRow r.kind r.mv r.ld e.state e.presence
  let sus := s0.suspect r.line
  let row := if sus then
    { row with kind := if r.kind == .read && r.mv == .invalid then 0 else 2,
               lds := (bitsOf 16 (((s0.regionAt r.line).map (·.2.ldMask)).getD 0)).filter (· != r.ld) } else row
  let lds := row.lds.filter s0.snoopable
  let hold (s : State) : State := match key with
    | some k => s.setTent k { s.tent k with busy := true, age := 0, touched := true }
    | none => s
  let start (s : State) (flow : Bool) : State × FlowStep :=
    let r' := { r with flow, after := row.after, snooped := r.snooped || !lds.isEmpty, evictKey := none }
    let s1 := lds.foldl (fun s n => s.sendSnoop r.line row.kind (some r.ld) n) s
    if lds.isEmpty then (s1.setReq r', .go) else (s1.setReq { r' with stage := .snoop }, .wait)
  if key.isSome then start (hold s0) true
  else if !row.need then start s0 (!lds.isEmpty)
  else match s0.thVictim r.line with
    | none => (s0, .conflict)
    | some k =>
      let v := s0.tent k
      if v.state = 0 then start (s0.setTent k { line := r.line, busy := true, touched := true }) true
      else
        let s1 := (s0.applyLosses k).count64 COH.EVICT_LO_COUNT COH.EVICT_HI_COUNT 1
        let v := s1.tent k
        let holders := (bitsOf 16 v.presence).filter s1.snoopable
        if v.state = 0 || holders.isEmpty then start (s1.setTent k { line := r.line, busy := true, touched := true }) true
        else
          let s2 := s1.setTent k { v with busy := true }
          let s3 := holders.foldl (fun s n => s.sendSnoop v.line 2 (some r.ld) n) s2
          (s3.setReq { r with stage := .snoop, evictKey := some k }, .wait)

/-- End a request's flow: the resulting entry is written and BUSY clears (R234). A request of a lost port gains nothing. -/
def endFlow (r : Req) (s : State) : State :=
  if !r.flow then s
  else
    let s1 := match s.thFind r.line with
      | some k => s.setTent k (entryAfter (if r.dead then 3 else r.after) r.ld (s.tent k))
      | none => s
    match s1.reqOf r.id with
    | some x => s1.setReq { x with flow := false }
    | none => s1

/-- A suspect set (R243): its ways become invalid, it is counted, and source 642 fires. -/
def suspectSet (set : Nat) (s : State) : State :=
  if s.coh.suspect.contains set then s
  else
    let clear (s : State) (k : Nat) : State :=
      let e := s.tent k
      s.setTent k (if e.busy then { e with state := 0, presence := 0 } else {})
    let s1 := ((List.range 8).map (8 * set + ·)).foldl clear s
    let s2 := s1.modCoh fun c => { c with suspect := c.suspect ++ [set] }
    (s2.setF COH.STATUS_SUSPECT (min 65535 s2.coh.suspect.length)).fire 642

/-- A write-back of a snooped LD on the line has not committed yet (R235). -/
def writeBackOpen (s : State) (line : Nat) : Bool :=
  s.reqs.any fun r => r.wback && r.line == line && r.stage != .respond

/-- What the flow of a data-mover or debug access to a line needs first (Table 07-3, the spool rows; R243). -/
def spoolTargets (s : State) (line : Nat) (write : Bool) : List Nat :=
  let e := match s.thFind line with | some k => s.tent k | none => {}
  let want := if s.suspect line then bitsOf 16 (((s.regionAt line).map (·.2.ldMask)).getD 0)
    else if write || e.state == 2 then bitsOf 16 e.presence else []
  want.filter s.snoopable

/-- BUSY of a line's entry clears once no request, no op and no snoop holds a flow on the line. -/
def flowIdle (s : State) (line : Nat) : State := match s.thFind line with
  | none => s
  | some k =>
    let held := s.reqs.any (fun r => (r.line == line && r.flow) || r.evictKey == some k) || s.coh.opLines.contains line || !(s.snoopsOf line).isEmpty
    if held || !(s.tent k).busy then s else s.setTent k { s.tent k with busy := false }

/-- Ops give up the flows they have started on lines (R234): snoops that are out are left to their answers. -/
def flowsDrop (lines : List Nat) (s : State) : State :=
  lines.foldl flowIdle (s.modCoh fun c => { c with opLines := c.opLines.filter fun l => !lines.contains l })

/-- End such a flow: a write leaves the entry invalid. -/
def spoolEnd (line : Nat) (write : Bool) (s : State) : State :=
  let s1 := s.modCoh fun c => { c with opLines := c.opLines.filter (· != line) }
  match s1.thFind line with
  | some k => s1.setTent k (if write then {} else { s1.tent k with busy := false, age := 0, touched := true })
  | none => s1

/-- Step the flow of a data-mover or debug access. `mine` tells whether the access has already started it. The answer: 0 proceed, 1 started now (wait),
2 wait. -/
def spoolFlow (line : Nat) (write mine : Bool) (s : State) : State × Nat :=
  if !s.sharedOf line then (s, 0)
  else if mine then
    if (s.snoopsOf line).isEmpty && !s.writeBackOpen line then (s.spoolEnd line write, 0) else (s, 2)
  else if s.lineBusy line then (s, 2)
  else
    let s0 := match s.thFind line with | some k => s.applyLosses k | none => s
    let lds := s0.spoolTargets line write
    if lds.isEmpty then (s0.spoolEnd line write, 0)
    else
      let s1 := match s0.thFind line with
        | some k => s0.setTent k { s0.tent k with busy := true, age := 0, touched := true }
        | none => s0
      let s2 := lds.foldl (fun s n => s.sendSnoop line (if write then 2 else 0) none n) s1
      (s2.modCoh fun c => { c with opLines := c.opLines ++ [line] }, 1)

end State

end Sys2Proof.Machine
end

