-- ==== Sys2Proof/Machine/Probe.lean ====
section
/-!
DEFINITION. Stage 3 of a read (03, R68 to R78): HBM and SRAM errors on the way (06, R221 to R223; 09, R294 to R297), the value at the order
point, where the media read goes, egress with its checks (R72, R286, R287), fills (R71).
-/
namespace Sys2Proof.Machine

/-- The worse of two reports. -/
def worseHealth (a b : Health) : Health :=
  match a, b with
  | .uncorrectable, _ | _, .uncorrectable => .uncorrectable
  | .corrected, _ | _, .corrected => .corrected
  | .good, .good => .good

/-- Stack of a block of a region (R34): the Lining regions by slice, the others interleaved in 4 KiB units. -/
def stackOf (order : Order) (region block : Nat) : Nat :=
  if region = 0 then (if block < hbmBlocks order 0 / 2 then 0 else 1) else if region = 1 then (if block < liningSets order / 2 then 0 else 1) else block / 64 % 2

/-- Symbols of RS(64,57) that a mask over a 576-bit slot touches (R292): 56 of 9 data bits, one of 8, seven of 9 side bits. -/
def slotSymbols (mask : Nat) : Nat :=
  let data := (List.range 56).filter fun j => mask / 2 ^ (9 * j) % 512 != 0
  let last := if mask / 2 ^ 504 % 256 = 0 then 0 else 1
  let side := (List.range 7).filter fun m => mask / 2 ^ (512 + 9 * m) % 512 != 0
  data.length + last + side.length

/-- The lines of a Lining set, one for each candidate tag (R194, R222). -/
def linesOfSet (o : Order) (set : Nat) : List Nat :=
  let low (slice k : Nat) : Nat := 8 * k + (slice ^^^ k % 8 ^^^ k / 8 % 8)
  match o with
  | .h72 =>
    let r := set % 3145728
    ((List.range 65536).filter fun t => t % 3 == r / 2 ^ 20).map fun t => low (set / 3145728) (t * 2 ^ 20 + (r % 2 ^ 20 ^^^ t))
  | .h48 => (List.range 20480).map fun t => low (set / 2097152) (t * 2 ^ 21 + (set % 2097152 ^^^ t))

/-- The line of its set that the slot of a way names by its carry tag (R222). The line the way held is tried first: the tag of an intact slot names one line. -/
def slotNames (o : Order) (set : Nat) (w : Way) : Option Nat :=
  let names (l : Nat) : Bool := tagOk w.val l false || tagOk w.val l true
  if w.valid && names w.line then some w.line
  else
    let r := w.val.tag ^^^ carryTag w.val.data 0 false
    (linesOfSet o set).find? fun l => carryTag 0 l false == r || carryTag 0 l true == r

namespace State

/-! ### HBM blocks (R295, R296) -/

/-- A corrected block-code read (R295): counted; source 131 above the watermark, at most once per rate hour. -/
def hbmCorrected (st : Nat) (s : State) : State :=
  let n := Tab.get (fun _ => 0) s.rate.hbmCorr st + 1
  let s1 := (s.countF (SCB.HBM_ERR_CORRECTED st) 1).modRate fun r => { r with hbmCorr := Tab.set (fun _ => 0) r.hbmCorr st n }
  if 16 * s.getF SCB.CTRL_CE_WM < n && !Tab.get (fun _ => false) s.rate.hour131 st then
    (s1.modRate fun r => { r with hour131 := Tab.set (fun _ => false) r.hour131 st true }).fire 131
  else s1

/-- An uncorrectable block: counted, source 137, record 0x0503 (R296). -/
def hbmUncorr (region block : Nat) (s : State) : State :=
  let st := stackOf s.order region block
  (s.countF (SCB.HBM_ERR_UNCORR st) 1).fireRec 0x0503 137 (le 1 st ++ le 1 region ++ le 2 0 ++ le 4 block)

/-- Injection point 5 on a read of a block (R307): up to 3 symbols are corrected. -/
def injBlock (region block : Nat) (s : State) : State × Health :=
  match s.integ.inj with
  | some i =>
    if i.point = 5 && i.region = region && i.target = block then
      let n := slotSymbols i.mask
      (s.injConsume, if n = 0 then .good else if n ≤ 3 then .corrected else .uncorrectable)
    else (s, .good)
  | none => (s, .good)

/-- Unattributed loss of a way or of a Pincushion entry (R222): counted, recorded, source 227, record 0x0402. -/
def unattributed (set way : Nat) (pcu : Bool) (slice : Nat) (s : State) : State :=
  let s1 := s.countF LIN.TAG_ERR_UNATTRIBUTED 1
  let s2 := (((s1.setF LIN.TAG_ERR_LAST_VALID 1).setFlag LIN.TAG_ERR_LAST_PCU pcu).setF LIN.TAG_ERR_LAST_WAY way).setF
    LIN.TAG_ERR_LAST_SET set
  s2.fireRec 0x0402 227 (le 4 set ++ le 1 way ++ le 1 (if pcu then 1 else 0) ++ le 1 slice)

/-- R222: each way of the set is recovered from its own line slot and reinstalled as dirty, unlocked, REF 0, AGE 3; a way whose slot cannot be read or names no
line of the set is unattributed. A way that was not valid has its slot's old contents; where they name a line that another cache or a lower way holds, the way counts as
unattributed, since R195 allows the line one place only (DESIGN CHOICE, log 30). -/
def tagBlockRecover (set : Nat) (bad : List Nat) (s : State) : State :=
  let slice := if s.order = .h72 then set / 3145728 else set / 2097152
  let clear (s : State) (w : Nat) : State := s.setWay (16 * set + w) { val := (s.way (16 * set + w)).val }
  let one (s0 : State) (acc : State) (w : Nat) : State :=
    let x := s0.way (16 * set + w)
    match (if bad.contains w then none else slotNames s0.order set x) with
    | some l =>
      if (acc.findWay l).isSome || (acc.findPent l).isSome then acc.unattributed set w false slice
      else acc.setWay (16 * set + w) { line := l, valid := true, dirty := true, age := 3, val := x.val }
    | none => acc.unattributed set w false slice
  let s1 := (List.range 16).foldl clear (s.countF LIN.TAG_ERR_RECOVERED 1)
  (((List.range 16).foldl (one s) s1).fire 226).dirtyChanged

/-- R223: entry n's swatch number is recovered from the carry tags of its lines in the slice; where none yields an address the entry is lost. -/
def pcuRecover (n slice : Nat) (s : State) : State :=
  let e := s.pent n
  let mine := ((List.range 64).map (64 * e.swatch + ·)).filter fun l => sliceOf l == slice
  let ok := mine.any fun l => let v := (s.pline n l).val; tagOk v l false || tagOk v l true
  let s1 := s.countF LIN.TAG_ERR_RECOVERED 1
  if ok then s1.fire 231
  else
    let dirty := (e.lines.filter fun _ l => l.dirty).length
    let s2 := s1.setPent n (if e.lock then { lock := true } else {})
    ((List.range dirty).foldl (fun s _ => s.unattributed n 0 true slice) (s2.fire 231)).dirtyChanged

/-- What the reads of a request's stage 3 report, region by region (R294 to R296). `present` tells whether the patch index is read. -/
def stageThree (line : Nat) (present : Bool) (hbm : HbmRead) (s : State) : State :=
  let sw := swatchOf line
  let set := liningSet s.order line
  let check (region block : Nat) (h : Health) (bad : State → State) (s : State) : State :=
    let (s1, h2) := s.injBlock region block
    match worseHealth h h2 with
    | .good => s1
    | .corrected => s1.hbmCorrected (stackOf s1.order region block)
    | .uncorrectable => bad (s1.hbmUncorr region block)
  let s1 := check 1 set hbm.tagBlock (tagBlockRecover set hbm.badWays) s
  let s2 := check 2 (5 * sw / 64) hbm.mapBlock (mapDamage [5 * sw / 64]) s1
  let s3 := if s2.sharedOf line then check 4 (thimbleSet line) hbm.thimble (suspectSet (thimbleSet line)) s2 else s2
  let s4 := if present then check 3 (homeBucket sw) hbm.bucket
    (fun s => s.modXlt fun x => { x with bucketBad := Tab.set (fun _ => false) x.bucketBad (homeBucket sw) true }) s3 else s3
  match hbm.pcuCopies with
  | some n => s4.pcuRecover n (sliceOf line)
  | none => s4

/-! ### Egress (R72, R286, R287) -/

/-- A tag failure at a check point, as SCB.TAG_FAIL_LAST shows it. -/
def tagFailLast (line ld path : Nat) (merge : Bool) (s : State) : State :=
  (((((s.setF SCB.TAG_FAIL_LAST_LO_DPA (line % 2 ^ 26)).setF SCB.TAG_FAIL_LAST_HI_DPA (line / 2 ^ 26)).setF SCB.TAG_FAIL_LAST_HI_LD
    ld).setFlag SCB.TAG_FAIL_LAST_HI_MERGE merge).setF SCB.TAG_FAIL_LAST_HI_PATH path).setF SCB.TAG_FAIL_LAST_HI_VALID 1

/-- Records of tag failures are limited to 1,000 per second (R287). -/
def tagFailRecord (code src line path : Nat) (ld : Option Nat) (s : State) : State :=
  let s1 := s.fire src
  if s1.rate.tagRecords < 1000 then
    (s1.modRate fun r => { r with tagRecords := r.tagRecords + 1 }).hamper code src (le 5 line ++ le 1 (ld.getD 0xFF) ++ le 1 path)
  else s1

/-- R287. -/
def tagFailEgress (line path : Nat) (ld : Option Nat) (s : State) : State :=
  ((s.countF SCB.TAG_FAIL_EGRESS 1).tagFailLast line (ld.getD 0) path false).tagFailRecord 0x0501 128 line path ld

/-- A read's answer with poison (for a partial write, an old line that is poisoned, R84), for a cause that General Media Events report in the Failure log (R379): 0 tag, 1 unrecoverable, 2 stale key,
3 sealed. -/
def poisonAnswer (r : Req) (cause : Option Nat) (s : State) : State :=
  if r.isWrite then s.setReq { r with stage := .merge, old := some { s.zeroLine r.line with poison := true } }
  else
  let s1 := s.endFlow r
  let s2 := match cause with | some c => s1.mediaEvent r.ld 2 r.line c | none => s1
  s2.respond { r with flow := false } (some 0) true

/-- Egress of a read (R72), or the old line of a partial write (R83): cipher-fault state, stored poison and a failed carry tag answer poison; a poisoned line's tag
is not checked (R303). -/
def egress (r : Req) (l : Line) (path : Path) (s : State) : State :=
  let r := { r with path }
  if r.isWrite then s.setReq { r with stage := .merge, old := some l }
  else if s.cipherFault && s.keyOf r.line ≠ 0 then s.poisonAnswer r none
  else if l.poison then s.poisonAnswer r none
  else if tagOk l r.line (s.sharedOf r.line) then (s.endFlow r).respond { r with flow := false } (some l.data) false
  else (s.tagFailEgress r.line path.code (some r.ld)).poisonAnswer r (some 0)

/-! ### The value at the order point -/

/-- The copy that a probe found is unusable and was clean: the newest value is a staging copy, or is read from the media (R69, R221). -/
def refetch (r : Req) (s : State) : State := match s.stagedOf r.line with
  | some t => s.egress r t.val .staging
  | none => s.setReq { r with stage := .probing, map := s.mapEntry (swatchOf r.line), idx := s.idxOf r.line }

/-- A probe hits: the line is judged and answered, or lost, or read from the media (R68, R221). -/
def takeHit (r : Req) (h : Health) (path : Path) (ev : Nat) (l : Line) (s : State) : State :=
  let (s1, inj) := s.injCached r.line
  let s2 := s1.perf (sliceOf r.line) ev (some r.ld) 1
  if inj || h == .uncorrectable then
    match s2.lineError r.line with
    | (s3, true) => s3.poisonAnswer { r with path } none
    | (s3, false) => s3.refetch r
  else s2.egress r l path

/-- The stage 3 probes of a read (R68, R69, R86, R201): write buffer, Pincushion, Lining, staging; where none settles it, the map and index as of
now are kept with the request. -/
def takeValue (r0 : Req) (hbm : HbmRead) (s : State) : State :=
  let k := sliceOf r0.line
  let r := { r0 with ordered := true }
  match s.buffered r.line with
  | some w =>
    if w.unmerged then s.setReq { r with stage := .bufwait, dep := some w.id }
    else (s.perf k 0x003 (some r.ld) 1).egress r { data := w.data, tag := w.wtag, poison := w.poison, origin := w.origin } .buffer
  | none => match s.pentHit r.line with
    | some n => (s.touchPent n r.stream).takeHit r hbm.lineSlot .pcu 0x004 (s.pline n r.line).val
    | none =>
      let miss := { r with stage := Stage.probing, probe := hbm.tagMiss, map := s.mapEntry (swatchOf r.line), idx := s.idxOf r.line }
      match s.findWay r.line with
      | some w =>
        if hbm.tagMiss then (s.touchWay w r.stream).setReq { miss with hit := some (s.way w).val, path := .lining }
        else (s.touchWay w r.stream).takeHit r hbm.lineSlot .lining 0x005 (s.way w).val
      | none => match s.stagedOf r.line with
        | some t =>
          if hbm.tagMiss then s.setReq { miss with hit := some t.val, path := .staging }
          else s.takeHit r hbm.lineSlot .staging 0x006 t.val
        | none => s.setReq miss

/-- A read whose flow needs no snoop or has its answers: seal table, cipher fault and value (R181, R335, R68). -/
def readProceed (r : Req) (hbm : HbmRead) (s : State) : State :=
  if r.kind != .read then
    (s.endFlow r).respond { r with flow := false, ordered := true } none false
  else if s.sealBit r.line then s.poisonAnswer { r with ordered := true } (some 3)
  else if s.cipherFault && s.keyOf r.line ≠ 0 then s.poisonAnswer { r with ordered := true } none
  else s.takeValue r hbm

/-- Requests to one line leave the conflict queue, and reach their order points, in order: none older waits (R85, R238). -/
def isNext (s : State) (r : Req) : Bool :=
  !((s.reqs.takeWhile fun x => x.id != r.id).any fun x =>
      x.line == r.line && (x.stage == .dispatch || x.stage == .conflict))

/-- A request enters the conflict queue (R238, R239): one that is in it stays, and one that finds it full stays in stage 2. -/
def toConflict (r : Req) (s : State) : State :=
  let k := sliceOf r.line
  if r.stage == .conflict then s
  else if 256 ≤ s.conflLen k then s.setReq { r with stage := .dispatch }
  else
  let s1 := ((s.setReq { r with stage := .conflict }).perf k 0x00C (some r.ld) 1)
  let n := s1.conflLen k
  let s2 := s1.setF (COH.CONFLQ_HWM k) (max (s1.getF (COH.CONFLQ_HWM k)) n)
  if 256 ≤ n && !Tab.get (fun _ => false) s2.coh.full643 k then
    (s2.modCoh fun c => { c with full643 := Tab.set (fun _ => false) c.full643 k true }).fire 643
  else s2

/-- The order point of a read (R68, R234, R463). -/
def orderPoint (r : Req) (hbm : HbmRead) (s : State) : State :=
  let s0 := s.stageThree r.line (s.mapEntry (swatchOf r.line)).present hbm
  if s0.sharedOf r.line && s0.lineBusy r.line then s0.toConflict r
  else
    let s1 := s0.perf (sliceOf r.line) 0x001 (some r.ld) 1
    if s1.fencedAt r.line then s1.countFenced.respond { r with ordered := true } (if r.isRead then some 0 else none) r.isRead
    else if !s1.sharedOf r.line then s1.readProceed r hbm
    else match s1.beginFlow r with
      | (s2, .conflict) => s2.toConflict r
      | (s2, .wait) => s2
      | (s2, .go) => match s2.reqOf r.id with
        | some x => s2.readProceed x hbm
        | none => s2

/-! ### The media read (R70, R73, R92) -/

/-- The media read of a request is issued (R73): directly, or the request goes on to reconstruction where the page's cartridge takes no reads. -/
def issueRead (r : Req) (psa slot : Nat) (s : State) : State :=
  let r := { r with target := some (psa, slot) }
  if s.psaUp psa then (s.setReq { r with stage := .media }).perf (sliceOf r.line) 0x008 (some r.ld) 1
  else s.setReq { r with stage := .recon }

/-- A read of an unmapped line (R105): the probe that is open and hits answers instead. -/
def zeroRead (r : Req) (s : State) : State :=
  if r.probe && r.hit.isSome then s else s.egress r (s.zeroLine r.line) .zero

/-- One read command reached a cartridge (R76, R173). -/
def readSent (psa : Nat) (s : State) : State :=
  let b := s.aliasOf (boltOf psa)
  (s.disturb b).perf (12 + boltSlot b) 0x205 none 1

/-- A line that a media read brought fills the Lining as clean (R71), or the Pincushion entry whose refetch it is (R200). No line fills a cache that holds it already (R195)
or that takes no fill (R219), nor where staging has no room for a dirty victim (R197). -/
def cacheFill (line : Nat) (l : Line) (stream : Bool) (s : State) : State := match s.findPent line with
  | some n => if (s.pline n line).gone && !s.pcuOff then s.setPline n line { val := l } else s
  | none => if s.linOff || (s.findWay line).isSome then s else (s.install line l false stream).getD s

/-- The fill by a request's read: a younger store of the line keeps it out (R69). -/
def fillLine (r : Req) (l : Line) (s : State) : State := if r.stale then s else s.cacheFill r.line l r.stream

/-- A stored line under a retired key or a stale epoch (R322): counted, source 99 at most once per second. -/
def staleKey (s : State) : State :=
  let s1 := s.countF CIP.KEY_FAULTS_STALE 1
  if s1.rate.stale99 then s1 else (s1.modRate fun r => { r with stale99 := true }).fire 99

/-- The cipher bank enters cipher-fault state (R335). -/
def cipherFaultEnter (key comp : Nat) (s : State) : State :=
  if s.cipherFault then s else (s.setF CIP.STATUS_FAULT 1).fireRec 0x0601 3 (le 1 key ++ le 1 comp)

/-- A read line leaves decode (R71, R72, R322): the key check, the fill, egress. -/
def decoded_ (r : Req) (m : MLine) (path : Path) (s : State) : State :=
  if s.cipherFault && m.keyId ≠ 0 then s.poisonAnswer { r with path } none
  else match s.decLine r.line m with
    | .stale => s.staleKey.poisonAnswer { r with path } (some 2)
    | .ok l =>
      let s1 := if path == .patch then s.perf (sliceOf r.line) 0x007 (some r.ld) 1 else s
      let s2 := if m.keyId = 0 then s1 else s1.perf 46 0x501 (some r.ld) 5
      ((s2.fillLine r l).egress r l path).dirtyChanged

end State

end Sys2Proof.Machine
end

