-- ==== Sys2Proof/Machine/Admit.lean ====
section
/-!
DEFINITION. Writes at their slice (03, R79 to R84, R98, R99; 05, R181; 08, R276), answers to snoops (07, R235, R236), the loss of an LD
and of a port (R245, R368).
-/
namespace Sys2Proof.Machine

namespace State

/-! ### Admission -/

/-- The line's writes are sealed: its home group is write-sealed (R181). -/
def sealedLine (s : State) (line : Nat) : Bool := s.groupSealed (s.homeGroup (swatchOf line))

/-- The seal table takes a bit of the line (R182). -/
def sealRoom (s : State) (line : Nat) : Bool :=
  s.med.sealTab.length < 4194304 || s.med.sealTab.any fun e => e.1 == swatchOf line

/-- A sealed write's effect on the line (R181): its copies are invalidated, its bit is set, it is counted. -/
def sealedWrite (line : Nat) (s : State) : State :=
  ((((s.discardCached line).passReads (· == line)).setSealBit line true).count64 MED.SEALED_LO_COUNT MED.SEALED_HI_COUNT 1).dirtyChanged

/-- Something of a slice waits for staging room: source 230 for the first wait of the episode (R197, R206). -/
def stagingSlice (k : Nat) (s : State) : State :=
  if s.cache.wait230.contains k then s else (s.modCache fun c => { c with wait230 := c.wait230 ++ [k] }).fire 230

/-- A write waits at admission. `why` as in `Req.why`; the source fires once per episode of its slice (R98). -/
def holdWrite (r : Req) (why : Nat) (s : State) : State :=
  let s1 := s.setReq { r with stage := .hold, why }
  if why = 0 then
    let s2 := if r.stage == .hold then s1 else s1.perf (sliceOf r.line) 0x00D (some r.ld) 1
    s2.stallSlice (sliceOf r.line)
  else if why = 1 then s1.stagingSlice (sliceOf r.line)
  else if why = 2 then (if s1.med.sealWait then s1 else (s1.modMed fun m => { m with sealWait := true }).fire 195)
  else s1

/-- The record that the first write after a clean flush of kind GPF or group waits for (R276): written once; true while it is not in Tack. Source 57 fires when it is written. -/
def dirtiedRecord (s : State) : State × Bool :=
  match s.flush.clean with
  | some k =>
    let s1 := (s.modFlush fun f => { f with clean := none }).hamper 0x0802 57 (le 1 k)
    if s1.ham.holding.isEmpty then (s1.fire 57, false) else (s1, true)
  | none => (s, false)

/-- Old line of a partial write (R83): as a read's value, without counting or touching. -/
def fetchOld (r : Req) (hbm : HbmRead) (s : State) : State :=
  let older := (s.reqs.takeWhile fun x => x.id != r.id).filter fun x => x.isWrite && x.ordered && x.line == r.line && !x.void
    && x.stage != .respond
  match older.getLast? with
  | some w =>
    if w.unmerged then s.setReq { r with stage := .bufwait, dep := some w.id }
    else s.egress r { data := w.data, tag := w.wtag, poison := w.poison, origin := w.origin } .buffer
  | none =>
    let cached (l : Line) (p : Path) (s : State) : State :=
      let (s1, inj) := s.injCached r.line
      if inj || hbm.lineSlot == .uncorrectable then
        match s1.lineError r.line with
        | (s2, true) => s2.poisonAnswer { r with path := p } none
        | (s2, false) => s2.refetch r
      else s1.egress r l p
    match s.pentHit r.line with
    | some n => cached (s.pline n r.line).val .pcu s
    | none => match s.findWay r.line with
      | some k => cached (s.way k).val .lining s
      | none => match s.stagedOf r.line with
        | some t => cached t.val .staging s
        | none => s.setReq { r with stage := .probing, map := s.mapEntry (swatchOf r.line), idx := s.idxOf r.line }

/-- The key of a line's region is not active: a write that names it completes and is discarded (R99). -/
def keyGone (s : State) (line : Nat) : Bool := let k := s.keyOf line; k ≠ 0 && (s.keySlot k).state != .active

/-- A write past its flow (R97, R98, R99, R181, R276, R335): discarded, sealed, waiting, or in the write buffer. -/
def writeProceed (r0 : Req) (hbm : HbmRead) (s : State) : State :=
  let r := { r0 with ordered := true }
  if s.flush.stopped then s.setReq { r0 with stage := .hold, why := 5 }
  else if !r0.ordered && 64 ≤ s.wbufLen (sliceOf r.line) then s.setReq { r0 with stage := .hold, why := 6 }
  else if s.keyGone r.line then ((s.endFlow r).respond { r with flow := false } none false).stallEnd
  else if s.sealedLine r.line then
    if s.sealRoom r.line then
      (((s.sealedWrite r.line).endFlow r).respond { r with flow := false } none false).stallEnd
    else s.holdWrite r 2
  else
    let (s1, wait) := if r.stage == .hold && r.why == 3 then (s, !s.ham.holding.isEmpty) else s.dirtiedRecord
    if wait then s1.holdWrite r 3
    else if !s1.writesThrough r.line && !s1.dirtyIn r.line && !s1.budgetRoom (sliceOf r.line) then s1.holdWrite r 0
    else
      let r := if s1.cipherFault && s1.keyOf r.line ≠ 0 then { r with poison := true, origin := 0 } else r
      let s2 := if r.partW then s1.fetchOld r hbm else s1.setReq { r with stage := .buffered }
      s2.stallEnd

/-- A write that meets the fence (R463): its data is discarded and its line is stored poisoned. -/
def fencedWrite (r : Req) (s : State) : State :=
  let old := match s.newest r.line true with | .line l _ _ => l | _ => s.zeroLine r.line
  s.countFenced.setReqLast { r with ordered := true, stage := .buffered, partW := false, data := old.data, wtag := old.tag, poison := true, origin := 0 }

/-- The order point of a write: entry into the slice write buffer (R79, R234, R235, R463). -/
def writeOrderPoint (r : Req) (hbm : HbmRead) (s : State) : State :=
  let s0 := s.stageThree r.line false { hbm with mapBlock := .good }
  if s0.sharedOf r.line && !r.wback && s0.lineBusy r.line then s0.toConflict r
  else if s0.fencedAt r.line then s0.fencedWrite r
  else if !s0.sharedOf r.line || r.wback then (s0.setReqLast { r with ordered := true }).writeProceed { r with ordered := true } hbm
  else match (s0.setReqLast r).beginFlow r with
    | (s1, .conflict) => s1.toConflict r
    | (s1, .wait) => s1
    | (s1, .go) => match s1.reqOf r.id with
      | some x => s1.writeProceed x hbm
      | none => s1

/-- A full-line write drops the line's pending marks (R311, R436). -/
def dropMarks (line : Nat) (s : State) : State :=
  let clearOp (o : OpRun) : OpRun := { o with cands := o.cands.filter (· != line) }
  let s1 := s.modInteg fun i => { i with scrub := i.scrub.map fun x => { x with cands := x.cands.filter (· != line) } }
  let rewrite (j : Job) : Job := if j.wrote.contains line && !j.rewritten.contains line then { j with rewritten := j.rewritten ++ [line] } else j
  (s1.modSpl fun p => { p with ops := p.ops.map clearOp }).modCip fun c => { c with jobs := c.jobs.map rewrite }

/-- A write has committed (R80, R82, R304): its flow ends and its completion is sent; a full-line write clears the seal bit, and one without poison
the poison of the line. -/
def writeDone (r : Req) (s : State) : State :=
  let clean := !r.partW && !r.poison && !r.void
  let s1 := if r.partW || r.void then s else s.setSealBit r.line false
  let forget (l : LdState) : LdState := { l with injected := l.injected.filter (· != r.line) }
  let s2 : State := if clean && s1.lds.any (fun e => e.2.injected.contains r.line) then
    (s1.putLds (s1.lds.map fun _ l => forget l)) else s1
  let s3 := if r.partW || r.void then s2 else s2.dropMarks r.line
  ((s3.perf (sliceOf r.line) 0x002 (some r.ld) 1).endFlow r).respond { r with flow := false } none false

/-! ### Answers to snoops -/

/-- A line's snoops and write-backs are all in: the request that waited proceeds; a flow that waited for a victim takes its way (R234, R235, R242). -/
def flowContinue (line : Nat) (s : State) : State :=
  if !(s.snoopsOf line).isEmpty || s.writeBackOpen line then s
  else
    let own := s.reqs.filter fun r => r.stage == .snoop && r.evictKey.isNone && r.line == line
    let s1 := own.foldl (fun s r => if r.isWrite then s.writeProceed r {} else s.readProceed r {}) s
    let waits := s1.reqs.filter fun r => match r.evictKey with
      | some k => r.stage == .snoop && (s1.tent k).line == line
      | none => false
    waits.foldl (fun s r => match r.evictKey with
      | none => s
      | some k =>
        let r' := { r with evictKey := none }
        match (s.setTent k {}).beginFlow r' with
        | (s2, .conflict) => s2.toConflict r'
        | (s2, .wait) => s2
        | (s2, .go) => match s2.reqOf r.id with
          | some x => if x.isWrite then s2.writeProceed x {} else s2.readProceed x {}
          | none => s2) s1

/-- What becomes of the flow that a write-back belongs to, now that the write may be over: a flow whose write-back was sealed, discarded or voided goes on too (R78, R235). -/
def backDone (r : Req) (s : State) : State := if r.wback then s.flowContinue r.line else s

/-- An LD's response to a snoop of a line (R236): Invalid clears its bit. -/
def snoopAnswer (line n : Nat) (rsp : BIRsp) (s : State) : State :=
  let s1 := s.modCoh fun c => { c with snoops := c.snoops.filter fun x => !(x.1 == line && x.2 == n) }
  let s2 := match s1.thFind line with
    | some k =>
      let e := s1.tent k
      let p := if rsp = BIRsp.i && Nat.testBit e.presence n then e.presence - 2 ^ n else e.presence
      s1.setTent k { e with presence := p, state := if p = 0 then 0 else e.state, age := 0, touched := true }
    | none => s1
  (s2.flowContinue line).flowIdle line

/-! ### Loss (R245, R368, R425) -/

/-- Every spool an owner has is disabled; its ops stop between lines and post nothing (R425). -/
def loseSpools (owner : Nat) (s : State) : State :=
  let mine (o : OpRun) : Bool := o.owner == owner && o.spool < 8192
  let gone := s.spl.ops.filter mine
  let held := gone.flatMap (·.waits)
  let off (n : Nat) (c : SpoolCtx) : SpoolCtx :=
    if s.ownerCode n = owner then { c with enable := false, state := 0, armed := false, held := false } else c
  let s1 := s.modSpl fun p => { p with ctx := p.ctx.map off, ops := p.ops.filter fun o => !mine o }
  let jobs := gone.filterMap (·.job)
  (s1.flowsDrop held).modCip fun c =>
    { c with jobs := c.jobs.filter fun j => !jobs.contains j.num }

/-- LD n is lost (R245): its snoops complete as BIRspI; the sweep of the Thimble starts; the loss is counted, source 641. -/
def loseLd (n : Nat) (s : State) : State :=
  let mine := (s.coh.snoops.filter fun x => x.2 == n).map (·.1)
  let one (s : State) (l : Nat) : State :=
    ((match s.thFind l with | some k => s.loseEntry k n | none => s)).snoopAnswer l n .i
  let s1 := mine.foldl one s
  let s2 := s1.modCoh fun c => { c with lost := if c.lost.contains n then c.lost else c.lost ++ [n] }
  (((s2.setF COH.STATUS_SWEEP 1).countF COH.LOST_LOSSES 1).fire 641).loseSpools n

/-- The link of port n is down or PERST_N is asserted (R368): its LDs are lost, requests before their order point and responses not yet sent are
discarded; writes in a write buffer commit without completion. -/
def portLost (n : Nat) (s : State) : State :=
  let lds := (List.range 16).filter fun k => (s.ldOf k).port == some n
  let before (r : Req) : Bool := r.stage == .bridge || r.stage == .dispatch || r.stage == .conflict || (r.stage == .hold && !r.ordered && !r.flow)
  let early (r : Req) : Bool := r.port == n && (before r || r.stage == .respond)
  let kill (r : Req) : Req := if r.port == n then { r with dead := true } else r
  let s1 : State := s.putReqs ((s.reqs.filter fun r => !early r).map kill)
  let s2 := s1.setPort n { s1.port n with far := none, credits := 0, respq := [], trackers := [] }
  let s3 := s2.modCoh fun c => { c with acks := c.acks.filter fun a => a.2.1 != n }
  (lds.foldl (fun s k => s.loseLd k) s3).admitWaiting

/-! ### Bindings and the loss of a link (R359, R360, R368) -/

/-- LDs bound to a port. -/
def ldsAt (s : State) (n : Nat) : List Nat := (List.range 16).filter fun k => (s.ldOf k).port == some n

/-- Bits BOUND of HPT.LINK_STATUS follow the bindings. -/
def boundBits (s : State) : State :=
  (List.range 4).foldl (fun s n => s.setF (HPT.LINK_STATUS_BOUND n) ((s.ldsAt n).foldl (fun a k => a + 2 ^ k) 0)) s

/-- A binding or unbinding of LD k takes effect (R245, R359, R360): an unbound LD is lost; source 512 + 32n + 5 of the port. -/
def bindNow (k : Nat) (b : Option Nat) (s : State) : State :=
  let old := (s.ldOf k).port
  let s1 := match old with | some _ => s.loseLd k | none => s
  let s2 := (s1.setLd k { s1.ldOf k with port := b, portNext := none }).boundBits
  match b, old with
  | some p, _ => s2.fire (512 + 32 * p + 5)
  | none, some p => s2.fire (512 + 32 * p + 5)
  | none, none => s2

/-- The bindings of port n that waited for its training take effect. -/
def bindPending (n : Nat) (s : State) : State :=
  (List.range 16).foldl (fun s k => match (s.ldOf k).portNext with
    | some b => if b == some n || (s.ldOf k).port == some n then s.bindNow k b else s
    | none => s) s

/-- The link of port n is down: every status bit but BOUND clears, its IDE streams end, R368 follows, and waiting bindings take effect. -/
def hostDown (n : Nat) (s : State) : State :=
  let s1 := s.setReg (HPT.LINK_STATUS_UP n).off (BitVec.ofNat 32 (s.getF (HPT.LINK_STATUS_BOUND n)))
  let s2 := s1.modCip fun c => { c with ide := Tab.set (fun _ => 0) (Tab.set (fun _ => 0) c.ide (2 * n) 0) (2 * n + 1) 0 }
  let s3 := (s2.setPort n { s2.port n with retrain := false }).setF (HPT.LINK_CMD_RETRAIN n) 0
  ((s3.fire (512 + 32 * n + 1)).portLost n).bindPending n

end State

end Sys2Proof.Machine
end

