-- ==== Sys2Proof/Machine/Read.lean ====
section
/-!
DEFINITION. Host reads: ingress, the order point and what the probes, the map, the media and reconstruction answer (03, R68 to R78, R92 to R94; 06,
R204).
-/
namespace Sys2Proof.Machine

namespace State

/-! ### Ingress (R94, R351, R367, R383) -/

/-- A tracker that a read of a line advances (R204). -/
def trackerFor (t : Tracker) (ld line : Nat) : Bool :=
  t.count != 0 && t.ld == ld && ((t.last + 1 == line && t.dir != 2) || (line + 1 == t.last && t.dir != 1))

/-- The stream detector of port n (R204): true where the read is flagged. -/
def streamStep (n ld line : Nat) (s : State) : State × Bool :=
  if s.sliceF (sliceOf line) LIN.CTRL_STREAM_DET = 0 then (s, false)
  else
    let p := s.port n
    let get (i : Nat) : Tracker := Tab.get (fun _ => {}) p.trackers i
    let put (i : Nat) (t : Tracker) : State :=
      s.setPort n { p with trackers := Tab.set (fun _ => {}) p.trackers i t, trackNo := p.trackNo + 1 }
    match (List.range 32).find? fun i => trackerFor (get i) ld line with
    | some i =>
      let t := get i
      (put i { t with last := line, dir := if t.last + 1 = line then 1 else 2, count := t.count + 1, used := p.trackNo + 1 },
        decide (4 ≤ t.count + 1))
    | none =>
      let i := (List.range 32).foldl (fun b i => if (get i).used < (get b).used then i else b) 0
      (put i { ld, last := line, dir := 0, count := 1, used := p.trackNo + 1 }, false)

/-- A new request of port n enters stage 1; the answer gives its number and whether it is sampled (R538). -/
def newReq (n ld : Nat) (s : State) : State × Req :=
  let (s1, sampled) := s.sampleStep n (some ld)
  ((s1.putNextReq (s1.nextReq + 1)),
    { id := s1.nextReq, kind := .read, port := n, ld, line := 0, started := s1.clk.now, entered := s1.clk.time, sampled })

/-- Kind of Table 11-6 for a request that names no line. -/
def failKind (f : HostFail) (write : Bool) : Nat := match f with
  | .undecoded => if write then 1 else 0
  | .noBi => 2
  | .notBound => 3
  | .inactive => 4

/-- A message that breaks protocol (kinds 6 to 9 of Table 11-6), with what the port's RAS capability and AER log; an overflow of credits takes the link down. -/
def badForm (n : Nat) (ld : Nat) (f : MsgForm) (s : State) : State :=
  let log (g : PortErrors → PortErrors) (s : State) : State := s.setPort n { s.port n with errors := g (s.port n).errors }
  match f with
  | .good => s
  | .malformed => log (fun e => { e with protocol := true }) (s.violation n 6 (some ld) 0)
  | .creditOverflow => (log (fun e => { e with overflow := true }) (s.violation n 7 none 0)).hostDown n
  | .flitCrc => (s.violation n 8 none 0).perf (8 + n) 0x105 none 1
  | .badTlp => log (fun e => { e with malformed := true }) (s.violation n 9 none 0)
  | .unsupportedTlp => log (fun e => { e with unsupported := true }) (s.violation n 9 none 0)
  | .cacheMsg => s.violation n 9 none 0

/-- An answer of a read that is given at stage 1, with poison; requests without data are answered without. -/
def answerEarly (r : Req) (s : State) : State :=
  ((s.putReqs (s.reqs ++ [r]))).respond r (if r.isRead then some 0 else none) r.isRead

/-- The direct read of a request is given up while its data is still to come (R74, R92). -/
def ghost (r : Req) (squashed : Bool) (s : State) : State :=
  match r.target with
  | some (psa, _) =>
    let g : Ghost := { req := r.id, bolt := s.aliasOf (boltOf psa), squashed, slice := sliceOf r.line, ld := r.ld }
    s.modMed fun m => { m with ghosts := m.ghosts ++ [g] }
  | none => s

/-- The reconstruction reads of a request that are outstanding are given up: squashed by a probe hit (R74), or no longer of use. -/
def memberGhosts (r : Req) (squashed : Bool) (s : State) : State :=
  let g (m : Nat) : Ghost := { req := r.id, bolt := s.aliasOf (boltOf m), squashed, slice := sliceOf r.line, ld := r.ld }
  s.modMed fun m => { m with ghosts := m.ghosts ++ r.members.map g }

/-- The data of a read that was given up returns and is discarded; a squashed one counts (R75, R76). -/
def ghostReturn (g : Ghost) (s : State) : State :=
  let s1 := s.modMed fun m => { m with ghosts := m.ghosts.erase g }
  if g.squashed then s1.perf g.slice 0x009 (some g.ld) 1 else s1

/-- An unrecoverable line (R93): source 206, record 0x0301; egress returns poison. Cause 0: ladder and reconstruction failed; 1: another member unavailable. -/
def unrecoverable (r : Req) (cause : Nat) (s : State) : State :=
  let (psa, slot) := r.target.getD (0, 0)
  (s.fireRec 0x0301 206 (le 5 r.line ++ le 5 psa ++ le 1 slot ++ le 1 r.ld ++ le 1 cause)).poisonAnswer { r with path := .recon } (some 1)

/-- A mismatch between the dual cipher cores on a decrypt (R335). -/
def cipherMismatch (m : MLine) (mismatch again : Bool) (s : State) : State :=
  if m.keyId = 0 || !mismatch then s
  else
    let s1 := s.perf 46 0x502 none 1
    if again then s1.cipherFaultEnter m.keyId 0 else (s1.countF CIP.STATUS_MISMATCH 1).fire 101

/-- Data of the direct read at the current ladder step: decode, learning, the next step or reconstruction (R171, R172). -/
def directData (r0 : Req) (psa slot : Nat) (sensed : Sensed) (mismatch again : Bool) (s : State) : State :=
  let s0 := s.readSent psa
  let b := s0.aliasOf (boltOf psa)
  let (s1, r) := if r0.ladder = 0 && s0.injHits [4] r0.line then
    (s0.injConsume, { r0 with inj4 := s0.injMask 720 }) else (s0, r0)
  match s1.pageAt psa with
  | none => s1.setReq { r with stage := .recon }
  | some p =>
    let m := p.line slot
    let dam := m.damage ^^^ sensed.errors ^^^ BitVec.ofNat 720 r.inj4
    let c := symErrors dam
    let fails := decide (8 < c) && Config.decodeFails dam.toNat
    if fails then
      match nextLadder (s1.predictedSet psa) r.ladder with
      | some k => (s1.setReq { r with ladder := k }).perf (sliceOf r.line) 0x008 (some r.ld) 1
      | none => (s1.learn b 5 0).setReq { r with stage := .recon }
    else
      let m := if c ≤ 8 then m else { m with val := { m.val with data := Config.wrongDecode r.ladder dam.toNat } }
      let s2 := s1.learn b r.ladder (min c 8)
      let s3 := if r.ladder = 0 then s2
        else (s2.perf (sliceOf r.line) 0x00A (some r.ld) 1).modMed fun m => { m with corrReads := m.corrReads + 1 }
      (s3.cipherMismatch m mismatch again).decoded_ r m (if r.idx.isSome then .patch else .swatch)

/-- All reconstruction reads are in (R92, R93). -/
def rebuilt (r : Req) (s : State) : State :=
  let (psa, slot) := r.target.getD (0, 0)
  if r.lost then s.unrecoverable r 0
  else match s.pageThere psa with
    | none => s.unrecoverable r 0
    | some p =>
      let s1 := (s.modMed fun m => { m with corrReads := m.corrReads + 1 }).perf (sliceOf r.line) 0x00B (some r.ld) 1
      let s2 := if r.isWrite then s1 else s1.mediaEvent r.ld 1 r.line 4
      s2.decoded_ r { p.line slot with damage := 0 } .recon

end State

/-- M2S_REQ_RECEIVED (R94, R204, R229, R351, R383): a request without data comes in at a host port. -/
def execM2sReqReceived (port : Nat) (q : M2SReq) (s : State) : Out :=
  if !s.portOpen port true then .next s
  else
    let kind : ReqKind := match q.op with | .read => .read | .memInv => .inv | .clnEvct => .evct
    let (s1, r0) := (s.perf (8 + port) 0x101 (some q.ld) 1).newReq port q.ld
    let r := { r0 with kind, tag := q.tag, mv := q.mv }
    match q.form with
    | .good =>
      if s1.halted then .next (s1.answerEarly r)
      else match s1.hostDecode port q.ld q.hpa with
        | .error f => .next ((s1.violation port (State.failKind f false) (some q.ld) 0).answerEarly r)
        | .ok line => match s1.memMissing q.ld rightMemRd line with
          | some miss => .next ((s1.deny q.ld 0 miss (s1.keyOf line) (64 * line)).answerEarly { r with line })
          | none =>
            let (s2, flagged) := if r.isRead then s1.streamStep port q.ld line else (s1, false)
            let stream := flagged || (match s2.regionAt line with | some (_, g) => g.streaming | none => false)
            .next (((s2.putReqs (s2.reqs ++ [{ r with line, stream }])).admitWaiting.bridgeCheck port).creditTake port false)
    | .malformed =>
      let s2 := s1.badForm port q.ld .malformed
      .next (if r.isRead then s2.answerEarly r else s2)
    | f => .next (s1.badForm port q.ld f)

/-- STREAM_TRACKER_EXPIRE (R204): a tracker that has not been advanced for 64 µs returns to count 0. -/
def execStreamTrackerExpire (port k : Nat) (s : State) : Out :=
  let p := s.port port
  let t := Tab.get (fun _ => {}) p.trackers k
  .next (s.setPort port { p with trackers := Tab.set (fun _ => {}) p.trackers k { t with count := 0 } })

/-- READ_ORDER_POINT (R68): a read enters stage 3 of its slice. It has an effect on a read that waits for dispatch and that no older request to its
line precedes. -/
def execReadOrderPoint (rid : Nat) (hbm : HbmRead) (s : State) : Out :=
  match s.reqOf rid with
  | some r => if r.stage == .dispatch && !r.isWrite && s.isNext r then .next (s.orderPoint r hbm).healthCheck else .next s
  | none => .next s

/-- MAP_ANSWER (R70, R73, R105): the map entry decides the media target; with SPEC_EN 0 an open probe is waited for. -/
def execMapAnswer (rid : Nat) (s : State) : Out :=
  match s.reqOf rid with
  | none => .next s
  | some r =>
    if r.stage != .probing || (r.probe && !s.flag (SLC.CTRL_SPEC_EN (sliceOf r.line))) then .next s
    else
      let sw := swatchOf r.line
      if s.psaInvalid r.map.psa then .next ((s.mapDamage (mapBlocksOf sw)).setReq { r with stage := .repair })
      else if s.mapBadAt sw then .next (s.setReq { r with stage := .repair })
      else if r.map.present then .next (s.setReq { r with stage := .index })
      else if r.map.psa = unmappedPsa then .next (s.zeroRead r).healthCheck
      else .next (s.issueRead r r.map.psa (r.line % 64))

/-- PATCH_INDEX_ANSWER (R70). -/
def execPatchIndexAnswer (rid : Nat) (s : State) : Out :=
  match s.reqOf rid with
  | none => .next s
  | some r =>
    if r.stage != .index then .next s
    else if Tab.get (fun _ => false) s.xlt.bucketBad (homeBucket (swatchOf r.line)) then .next (s.setReq { r with stage := .repair })
    else match r.idx with
      | some e => .next (s.issueRead r e.psa e.slot)
      | none => if r.map.psa = unmappedPsa then .next (s.zeroRead r).healthCheck else .next (s.issueRead r r.map.psa (r.line % 64))

/-- PROBE_HIT (R74, R76): the Lining probe that the tag cache missed settles. A hit squashes a media read that has been issued: `left` tells
whether its command had left the queue. A miss only closes the probe. `uncorr`: the hit slot is uncorrectable (R221). -/
def execProbeHit (rid : Nat) (uncorr left : Bool) (s : State) : Out :=
  match s.reqOf rid with
  | none => .next s
  | some r =>
    if !r.probe then .next s
    else match r.hit with
      | none => .next (s.setReq { r with probe := false })
      | some l =>
        let k := sliceOf r.line
        let s1 := if r.stage == .media then
            (if left then (s.readSent (r.target.getD (0, 0)).1).ghost r true
             else (s.perf k 0x009 (some r.ld) 1).perf (12 + psaSlot (r.target.getD (0, 0)).1) 0x206 none 1)
          else s
        let s1 := if r.stage == .members then s1.memberGhosts r true else s1
        let r1 := { r with probe := false, hit := none, squash7 := r.squash7 || r.stage == .media || r.stage == .members, members := [], target := none }
        let (s2, inj) := (s1.perf k 0x006 (some r.ld) 1).injCached r.line
        if uncorr || inj then
          match s2.lineError r.line with
          | (s3, true) => .next (s3.poisonAnswer r1 none).healthCheck
          | (s3, false) => .next (s3.refetch r1).healthCheck
        else .next (s2.egress r1 l r.path).healthCheck

/-- MEDIA_READ_DATA (R71, R75, R76, R171, R172, R322, R335): data of a direct read returns, as `sensed` on the cells; `mismatch` and `again`: the
dual cipher cores differ, also on the retry. Data of a read that was squashed or given up is discarded. -/
def execMediaReadData (rid : Nat) (sensed : Sensed) (mismatch again : Bool) (s : State) : Out :=
  match s.reqOf rid with
  | some r =>
    if r.stage == .media && !(r.probe && r.hit.isSome) then
      match r.target with
      | some (psa, slot) => .next (s.directData { r with probe := false } psa slot sensed mismatch again).healthCheck
      | none => .next s
    else match s.med.ghosts.find? fun g => g.req == rid with
      | some g => .next (s.ghostReturn g)
      | none => .next s
  | none => match s.med.ghosts.find? fun g => g.req == rid with
    | some g => .next (s.ghostReturn g)
    | none => .next s

/-- RECONSTRUCTION_START (R92, R93): at once for an unavailable cartridge, or when the ladder or the 4 µs deadline has run out. While a probe that will hit is open, the
reads go out speculatively, and the line is not given up (R73, R75). -/
def execReconstructionStart (rid : Nat) (s : State) : Out :=
  match s.reqOf rid with
  | none => .next s
  | some r =>
    if r.stage != .recon && r.stage != .media then .next s
    else
      let (psa, _) := r.target.getD (0, 0)
      let spec := r.probe && r.hit.isSome
      let s1 := if r.stage == .media then (s.readSent psa).ghost r false else s
      match s1.siblings psa with
      | none => .next (if spec then s else (s1.unrecoverable r 1).healthCheck)
      | some ms =>
        if ms.any fun m => !s1.psaUp m then .next (if spec then s else (s1.unrecoverable r 1).healthCheck)
        else if ms.isEmpty then .next (if spec then s else (s1.rebuilt r).healthCheck)
        else .next (((ms.foldl (fun s m => s.readSent m) s1).perf (sliceOf r.line) 0x008 (some r.ld) ms.length).setReq { r with stage := .members, members := ms, lost := false })

/-- RECONSTRUCTION_READ_DATA (R75, R76, R93): one member's read returns; when all are in, the line is rebuilt or unrecoverable. A member whose cartridge has become
unavailable makes it unrecoverable at once. Data of a read that was squashed or given up is discarded. -/
def execReconstructionReadData (rid member : Nat) (sensed : Sensed) (s : State) : Out :=
  let late : Out := match s.med.ghosts.find? fun g => g.req == rid && g.bolt == s.aliasOf (boltOf member) with
    | some g => .next (s.ghostReturn g)
    | none => .next s
  match s.reqOf rid with
  | none => late
  | some r =>
    if r.stage != .members || !r.members.contains member then late
    else if r.probe && r.hit.isSome then .next s
    else
      let slot := (r.target.getD (0, 0)).2
      let dam := match s.pageAt member with | some p => (p.line slot).damage ^^^ sensed.errors | none => sensed.errors
      let c := symErrors dam
      let lost := r.lost || (s.pageAt member).isNone || decide (8 < c)
      let s1 := s.learn (s.aliasOf (boltOf member)) (if c ≤ 8 then 0 else 5) (min c 8)
      let r1 := { r with members := r.members.filter (· != member), lost }
      if r1.members.any fun m => !s.psaUp m then
        .next ((s1.memberGhosts { r1 with members := r1.members.filter s.psaUp } false).unrecoverable { r1 with members := [] } 1).healthCheck
      else if r1.members.isEmpty then .next (s1.rebuilt r1).healthCheck else .next (s1.setReq r1)

end Sys2Proof.Machine
end

