-- ==== Sys2Proof/Machine/Fetch.lean ====
section
/-!
DEFINITION. Reads of a line that no host sends: by the data mover, a PIN or a lock, the scrubber, the debug master. Each takes the line at its slice as one step, with the effects
that a read has (03, R68 to R78; 06, R199, R209; 13, R431).
-/
namespace Sys2Proof.Machine

/-- What the media read of a line gave: the ladder step at which it decoded (5: failed at every step, 6: not tried), corrected symbols, and the stored line, which
reconstruction may have yielded. -/
structure Sense where
  step  : Nat
  corr  : Nat := 0
  quilt : Bool := false
  got   : Option MLine := none

/-- What a read of a line gave: its value, no value to be had now, or an answer with poison that is not stored (Table 09-4; causes as in `poisonAnswer`, 4: cipher fault). -/
inductive Got where
  | wait
  | line (l : Line) (path : Path)
  | bad (cause : Nat)

namespace State

/-! ### Reads -/

/-- The direct read of a line slot, ladder included (R172, R307 point 4). -/
def senseDirect (psa slot line : Nat) (s : State) : State × Sense :=
  if !s.psaUp psa then (s, { step := 6 })
  else
    let s0 := s.readSent psa
    let b := s0.aliasOf (boltOf psa)
    match s0.pageAt psa with
    | none => (s0, { step := 5 })
    | some p =>
      let m := p.line slot
      let (s1, first) := if s0.injHits [4] line then (s0.injConsume, m.damage ^^^ BitVec.ofNat 720 (s0.injMask 720)) else (s0, m.damage)
      let got : Option MLine := some { m with damage := 0 }
      if symErrors first ≤ 8 then (s1.learn b 0 (symErrors first), { step := 0, corr := symErrors first, got })
      else match (if symErrors m.damage ≤ 8 then nextLadder (s1.predictedSet psa) 0 else none) with
        | some k => (s1.learn b k (symErrors m.damage), { step := k, corr := symErrors m.damage, got })
        | none => (s1.learn b 5 0, { step := 5 })

/-- The read of a line slot: directly, else by reconstruction (R92, R93). -/
def sense (psa slot line : Nat) (s : State) : State × Sense :=
  let (s1, d) := s.senseDirect psa slot line
  if d.got.isSome then ((if d.step = 0 then s1 else s1.modMed fun m => { m with corrReads := m.corrReads + 1 }), d)
  else match (if s1.rebuildable psa slot then s1.pageThere psa else none) with
    | none => (s1, d)
    | some p =>
      let s2 := ((s1.siblings psa).getD []).foldl (fun s m => s.readSent m) s1
      (s2.modMed fun m => { m with corrReads := m.corrReads + 1 }, { d with quilt := true, got := some { p.line slot with damage := 0 } })

/-- A region's streaming attribute flags the fills and allocations of its lines (R203). -/
def streamRegion (s : State) (line : Nat) : Bool := match s.regionAt line with | some (_, g) => g.streaming | none => false

/-- The events that the media read of a line counts (R533). -/
def senseCount (line : Nat) (ld : Option Nat) (x : Sense) (s : State) : State :=
  let k := sliceOf line
  let s1 := if x.step = 6 then s else s.perf k 0x008 ld (min 5 (x.step + 1))
  if x.quilt then (s1.perf k 0x008 ld 7).perf k 0x00B ld 1 else if 1 ≤ x.step && x.step ≤ 4 then s1.perf k 0x00A ld 1 else s1

/-- The events that a read of a line counts at its slice: its order point, and what served it; whether a Lining hit found its tag in the tag cache is a free choice (R533). -/
def readCount (line : Nat) (ld : Option Nat) (g : Got) (s : State) : State :=
  let k := sliceOf line
  let s1 := s.perf k 0x001 ld 1
  match g with
  | .line _ .buffer => s1.perf k 0x003 ld 1
  | .line _ .pcu => s1.perf k 0x004 ld 1
  | .line _ .lining => (s1.perf k (if s1.freeVal % 2 = 0 then 0x005 else 0x006) ld 1).freeStep
  | .line _ .staging => s1.perf k 0x006 ld 1
  | .line _ .patch => s1.perf k 0x007 ld 1
  | _ => s1

/-- A line from media, or its zero line. `ld`: whose access it is. -/
def readStored (line : Nat) (ld : Option Nat) (stream fill : Bool) (s : State) : State × Got :=
  let sw := swatchOf line
  if s.mapHurt sw || Tab.get (fun _ => false) s.xlt.bucketBad (homeBucket sw) then (s.mapCheck sw, .wait)
  else match s.location line with
    | none => (s, .line (s.zeroLine line) .zero)
    | some (psa, slot, path) =>
      let (s0, x) := s.sense psa slot line
      let s1 := s0.senseCount line ld x
      match x.got with
      | none =>
        let cause := if (s1.siblings psa).any (fun ms => ms.all fun m => s1.psaUp m) then 0 else 1
        (s1.fireRec 0x0301 206 (le 5 line ++ le 5 psa ++ le 1 slot ++ le 1 (ld.getD 0xFF) ++ le 1 cause), .bad 1)
      | some m => match s1.decLine line m with
        | .stale => (s1.staleKey, .bad 2)
        | .ok l =>
          let s2 := if m.keyId = 0 then s1 else s1.perf 46 0x501 ld 5
          ((if fill then (s2.cacheFill line l stream).dirtyChanged else s2), .line l (if x.quilt then .recon else path))

/-- What a read of a line at its slice meets (R69, R85 to R87, R181, R335; injection point 2 by R308). -/
def readAt (line : Nat) (ld : Option Nat) (stream fill : Bool) (s : State) : State × Got :=
  let stream := stream || s.streamRegion line
  if s.sealBit line then (s, .bad 3)
  else if s.cipherFault && s.keyOf line ≠ 0 then (s, .bad 4)
  else match s.buffered line with
    | some w => if w.unmerged then (s, .wait)
        else (s, .line { data := w.data, tag := w.wtag, poison := w.poison, origin := w.origin } .buffer)
    | none =>
      let cached (l : Line) (path : Path) (s : State) : State × Got :=
        let (s1, inj) := s.injCached line
        if !inj then (s1, .line l path)
        else match s1.lineError line with
          | (s2, true) => (s2, .line { l with poison := true, origin := 0 } path)
          | (s2, false) => match s2.stagedOf line with
            | some t => (s2, .line t.val .staging)
            | none => s2.readStored line ld stream fill
      match s.pentHit line with
      | some n => cached (s.pline n line).val .pcu (s.touchPent n stream)
      | none => match s.findWay line with
        | some k => cached (s.way k).val .lining (s.touchWay k stream)
        | none => match s.stagedOf line with
          | some t => cached t.val .staging s
          | none => s.readStored line ld stream fill

/-- A read of a line at its slice as one step. -/
def readLine (line : Nat) (ld : Option Nat) (stream fill : Bool) (s : State) : State × Got := match s.readAt line ld stream fill with
  | (s1, .wait) => (s1, .wait)
  | (s1, g) => (s1.readCount line ld g, g)

end State

end Sys2Proof.Machine
end

