-- ==== Sys2Proof/Machine/Bolts.lean ====
section
/-!
DEFINITION. Page programs that end or are placed again (04, R117, R124; 05, R167), the wear gauge (R186), bolts that fail, retire and move (R167, R168, R175, R176), flush
patches (08, R155, R262), copies of swatch pages (R127).
-/
namespace Sys2Proof.Machine

/-- Rated resets per bolt (Table 05-1). -/
def ratedResets : Nat := 3000000

namespace State

/-! ### Programs -/

/-- The program of a page. -/
def progOf (s : State) (psa : Nat) : Option Prog := s.med.progs.find? fun p => p.psa == psa

/-- A program has ended at its cartridge; it counts whether it verified or failed (Table 18-4, physical). -/
def progEnd (psa : Nat) (s : State) : State :=
  (s.modMed fun m => { m with progs := m.progs.filter fun p => p.psa != psa }).perf (12 + psaSlot (s.physPsa psa)) 0x207 none 1

/-- A page of a flush frame (series 21). -/
def isFlushPage (s : State) (psa : Nat) : Bool := match s.frameOf (boltOf psa) with
  | some f => f.series == 21
  | none => false

/-! ### Flush rows and flush patches (R155, R262) -/

/-- The flush-row bolt of a die, else the least-worn free bolt of the die. -/
def rowBolt (s : State) (slot die : Nat) : Option Nat :=
  ((List.range (s.boltsPerDie slot)).map (mkBolt slot die)).find? (fun b => (s.ledger b).role == 4 && (s.ledger b).state == 0)
    |>.orElse fun _ => s.pickBolt slot die false false

/-- A frame of series 21 on one die of a group opens over the cartridges a flush writes to; none where fewer than 2 have a bolt for it. -/
def openFlushFrame (g die : Nat) (s : State) : State :=
  let slots := s.flushCarts.filter fun n => n / 8 == g
  let m := s.groupMedia g
  let num := m.nextFrame
  let len := ceilDiv (8192 * slots.length) (slots.length * (slots.length - 1))
  let step (acc : State × List Nat × List (Nat × Nat × Nat) × Bool) (slot : Nat) : State × List Nat × List (Nat × Nat × Nat) × Bool :=
    let (s, bs, rs, ok) := acc
    if !ok then acc
    else match s.parityRun slot 21 g len num with
      | (s1, some r) => match s1.rowBolt slot die with
        | some b =>
          let (pa, pn) := parityFields r len
          (s1.takeBolt b 0 21 (bs.length + (if slots.length = 7 then 8 else 0)) num pa pn, bs ++ [b], rs ++ [r], true)
        | none => (s1, bs, rs, false)
      | (s1, none) => (s1, bs, rs, false)
  if slots.length < 2 then s
  else
    let (s1, bolts, runs, ok) := slots.foldl step (s, [], [], true)
    if !ok then s
    else
      let f : Frame := { group := g, number := num, series := 21, slots, bolts, runs }
      let s2 := s1.modMed fun m => { m with frames := m.frames ++ [f] }
      s2.setGroupMedia g { s2.groupMedia g with nextFrame := num + 1 }

/-- The open flush frame of a group on a die. -/
def flushFrame (s : State) (g die : Nat) : Option Frame :=
  s.med.frames.find? fun f => f.group == g && f.series == 21 && !f.closed && !f.cut && !f.full && boltDie (f.bolts.getD 0 0) == die

/-- The next page for a flush patch page: the units (group, die) take turns (R262). -/
def flushAlloc (s : State) : State × Option Nat :=
  let groups := s.plannedGroups.filter fun g => s.flushCarts.any fun n => n / 8 == g
  let n := 16 * groups.length
  let tryAt (acc : State × Option Nat) (i : Nat) : State × Option Nat := match acc with
    | (s, some p) => (s, some p)
    | (s, none) =>
      let u := (s.flush.lastUnit + i) % n
      let g := groups.getD (u % groups.length) 0
      let die := u / groups.length
      let s1 := if (s.flushFrame g die).isSome then s else s.openFlushFrame g die
      match s1.flushFrame g die with
      | none => (s1, none)
      | some f => ((s1.setFrame { f with next := f.next + 1 }).modFlush fun x => { x with lastUnit := u + 1 }, some (f.psa f.next))
  (List.range n).foldl tryAt (s, none)

/-- Directory entries of lines that become patches now: each takes a stamp (R109). -/
def stampAll (seq : Nat) (ls : List (Nat × Line × Option Nat)) (s : State) : State × List DirEntry :=
  ls.foldl (fun (acc : State × List DirEntry) l =>
    let (s1, stamp) := acc.1.takeStamp
    let m := s1.encLine l.1 l.2.1
    (s1, acc.2 ++ [{ line := l.1, delta := (stamp + 2 ^ 40 - seq) % 2 ^ 40, epoch := m.epoch, keyId := m.keyId, poison := m.val.poison,
                     val := m.val, req := l.2.2 }])) (s, [])

/-- Lines are written as flush patches, 56 to a page (R262). -/
def flushPatches (ls : List (Nat × Line × Option Nat)) (s : State) : State :=
  let pages := ceilDiv ls.length 56
  (List.range pages).foldl (fun s i =>
    let part := (ls.drop (56 * i)).take 56
    match s.flushAlloc with
    | (s1, none) => s1
    | (s1, some psa) =>
      let (s2, seq) := s1.takeStamp
      let (s3, ents) := s2.stampAll seq part
      let o : OpenPatch := { psa, group := psaSlot psa / 8, seq, ents, flush := true }
      s3.issue psa (s3.patchPage o) .patch) s

/-! ### Writing a page again (R117, R124, R167) -/

/-- The series of a page's bolt: that of its frame, else of its ledger entry. -/
def seriesOf (s : State) (psa : Nat) : Nat := match s.frameOf (boltOf psa) with
  | some f => f.series
  | none => (s.ledger (boltOf psa)).series

/-- The write-through write that a directory entry carries ends: it completes (R82, R128). -/
def entryDone (e : DirEntry) (s : State) : State := match e.req.bind s.reqOf with
  | some r => if r.port < 4 then (s.writeDone r).backDone r else s.dropReq r.id
  | none => s

/-- A program that finds no free page waits: it is placed again when one is free (R117, R127). -/
def progWait (p : Prog) (s : State) : State := s.modMed fun m => { m with stuck := m.stuck ++ [{ p with sent := false }] }

/-- A patch of an abandoned page is placed again with a new stamp (R117). A staging copy without a free page waits in staging for its next release, a write-through write
with its program; a patch that an unmap has dropped is not placed again, and its staging copy is released (R128). -/
def patchAgain (p : Prog) (s : State) (d : DirEntry × Nat) : State :=
  let (e, slot) := d
  let here (t : Staged) : Bool := t.line == e.line && t.place == some (p.psa, slot)
  if e.dropped then (s.stagingDrop here).entryDone e
  else
    let place (q : Option (Nat × Nat)) (s : State) : State :=
      s.modCache fun c => { c with staging := c.staging.map fun t => if here t then { t with place := q } else t }
    match s.placePatch e.line e.val e.req with
    | (s1, some q) => place (some q) s1
    | (s1, none) => if e.req.isSome then s1.progWait { p with page := { p.page with dir := [e] } } else place none s1

/-- Numbered entries of a directory. -/
def numbered (l : List DirEntry) : List (DirEntry × Nat) := (l.foldl (fun (a : Nat × List (DirEntry × Nat)) d => (a.1 + 1, a.2 ++ [(d, a.1)])) (0, [])).2

/-- A program that waits for a page of a series: `moved` records its new place. -/
def placeAgain (p : Prog) (g series : Nat) (moved : Nat → Xlt → Xlt) (s : State) : State :=
  match s.allocPage g series with
  | (s1, some q) => (s1.issue q p.page p.purpose).modXlt (moved q)
  | (s1, none) => s1.progWait p

/-- The writer of an abandoned page places it again: patches with new stamps, other pages at the next page of their series; a parity page keeps its
place (R153). -/
def programAgain (p : Prog) (s : State) : State :=
  let g := psaSlot p.psa / 8
  let swap (q n : Nat) : Nat := if n = p.psa then q else n
  match p.purpose with
  | .patch =>
    if s.isFlushPage p.psa then
      let ents := p.page.dir.filter fun d => !d.dropped
      s.flushPatches (ents.map fun d => (d.line, d.val, d.req))
    else (numbered p.page.dir).foldl (patchAgain p) s
  | .assembly => match s.xlt.asm.find? fun a => a.psa == p.psa with
    | none => s
    | some _ => s.placeAgain p g (s.nextS g) fun q x => { x with asm := x.asm.map fun a => { a with psa := swap q a.psa } }
  | .copy _ _ => s.placeAgain p g (s.seriesOf p.psa) fun _ x => x
  | .journal => s.placeAgain p g 17 fun q x => { x with jpages := x.jpages.map fun j => { j with psa := swap q j.psa } }
  | .image => s.placeAgain p g 18 fun q x => { x with
      images := x.images.map fun i => { i with pages := i.pages.map (swap q) }
      sealNew := x.sealNew.map fun i => { i with pages := i.pages.map (swap q) } }
  | .summary | .lsa => s.placeAgain p g 19 fun _ x => x
  | .parity => s.issue p.psa p.page .parity
  | .basting =>
    let b := boltOf p.psa
    let page := ((s.med.bastBolts.find? fun e => e.2.1 == b).map (·.2.2)).getD 8192
    let next := s.med.bastBolts.map fun e => if e.2.1 == b then (e.1, e.2.1, page + 1) else e
    if page < 8192 then (s.modMed fun m => { m with bastBolts := next }).issue (mkPsa b page) p.page .basting else p.page.refs.foldl (fun s q => s.baste q) s
  | .filler | .rebuild => s

/-- Programs that waited for a free page are placed again. -/
def unstick (s : State) : State := s.med.stuck.foldl (fun s p => s.programAgain p) (s.modMed fun m => { m with stuck := [] })

/-! ### Wear (R163, R186) -/

/-- Bolts of a cartridge that are not retired, and the sum of their resets. -/
def wearOf (s : State) (n : Nat) : Nat × Nat :=
  let l := s.ledgerOf n
  (16 * s.boltsPerDie n - (l.filter fun _ e => e.state == 4).length,
    l.foldl (fun a e => if e.2.state = 4 then a else a + (s.ledgerNow e.1).resets) 0)

/-- Programs of a cartridge that it cannot end are placed again by their writers; filler, parity and basting pages are not. -/
def programsAway (here : Prog → Bool) (s : State) : State :=
  let mine := (s.med.progs.filter here).filter fun p => p.purpose != .parity && p.purpose != .basting && p.purpose != .filler
  mine.foldl (fun s p => s.programAgain p) (s.modMed fun m => { m with progs := m.progs.filter fun p => !here p })

/-- The open frames that use a position which takes no more programs close with the pages they hold, and the programs `here` are placed again (DESIGN CHOICE, log 37). -/
def cutFrames (n : Nat) (here : Prog → Bool) (s : State) : State :=
  let cut (f : Frame) : Frame := if f.group == n / 8 && !f.closed && f.slots.contains n then { f with cut := true } else f
  let s1 := (s.modMed fun m => { m with frames := m.frames.map cut }).programsAway here
  (s1.med.frames.filter fun f => f.group == n / 8 && f.cut).foldl (fun s f => s.closeCheck f.group f.number) s1

/-- A cartridge becomes worn out: it receives no program (R186). The group's open frames that include it are closed with the pages they hold; its programs that have
not been sent are placed again, and its resets are not issued. -/
def wornOut (n : Nat) (s : State) : State :=
  (s.modMed fun m => { m with
    resets := m.resets.filter fun b => boltSlot b != n
    bast := m.bast.filter fun t => t.slot != n, bastBolts := m.bastBolts.filter fun e => e.1 != n }).cutFrames n
      fun p => psaSlot (s.physPsa p.psa) == n && !p.sent

/-- The wear gauge and its class: sources 196, 197 and 198 at 800, 950 and 1,000 (R186). -/
def gaugeUpdate (n : Nat) (s : State) : State :=
  let (k, sum) := s.wearOf n
  let v := if k = 0 then 1000 else min 1000 (1000 * sum / (k * ratedResets))
  let c := if 1000 ≤ v then 3 else if 950 ≤ v then 2 else if 800 ≤ v then 1 else 0
  let old := s.getF (MED.CART_MEDIA_CLASS n)
  let s1 := (s.setF (MED.CART_MEDIA_GAUGE n) v).setF (MED.CART_MEDIA_CLASS n) c
  let s2 := if old < 1 && 1 ≤ c then s1.fire 196 else s1
  let s3 := if old < 2 && 2 ≤ c then s2.fire 197 else s2
  (if old < 3 && c = 3 then (s3.fire 198).wornOut n else s3).excludeUpdate (n / 8)

/-! ### Retired bolts (R175) and moves (R167, R176) -/

/-- A bolt retires: its ledger entry reads RETIRED and it is no longer to be reset, source 199; the spare allowance of its cartridge used up sets SPARES_OUT, source 200. -/
def retire (b : Nat) (s : State) : State :=
  let n := boltSlot b
  let s1 := ((s.setLedger b { s.ledger b with state := 4 }).modMed fun m => { m with resets := m.resets.filter (· != b) }).fire 199
  let s2 := if s1.sparesLeft n = 0 && !s1.flag (MED.CART_MEDIA_SPARES_OUT n) then
    (s1.setF (MED.CART_MEDIA_SPARES_OUT n) 1).fire 200 else s1
  (s2.gaugeUpdate n).levelUpdate (n / 8)

/-- A stored line as a copy of its page takes it: corrected where it can be read or rebuilt. A line that cannot stays uncorrectable, as one does whose direct copy is lost (R159). -/
def freshLine (s : State) (psa slot : Nat) (direct : Bool) (m : MLine) : MLine :=
  if (direct && symErrors m.damage ≤ 8) || s.rebuildable psa slot then { m with damage := 0 }
  else if symErrors m.damage ≤ 8 then { m with damage := BitVec.allOnes 720 } else m

/-- The lines of a page that is copied bit for bit. -/
def freshLines (s : State) (psa : Nat) (direct : Bool) (p : Page) : Tab MLine :=
  (List.range 64).foldl (fun t i => Tab.set (fun _ => {}) t i (s.freshLine psa i direct (p.line i))) []

/-- The pages of bolt x below index n, known under the bolt number l, move to bolt y with the ledger fields of x; x names y as its ALIAS. `direct`: the cells
of x can be read. A bolt of a replaced cartridge is taken as its stripes give it (R190, R191). -/
def moveBolt (l x y n : Nat) (direct : Bool) (s : State) : State :=
  let mine (t : Tab (Option Page)) : Tab (Option Page) := t.filter fun q v => boltOf q == x && psaPage q < n && v.isSome
  let lost := !(mine s.med.gone).isEmpty
  let copy (t : Tab (Option Page)) (e : Nat × Option Page) : Tab (Option Page) := match e.2 with
    | some p => Tab.set (fun _ => none) t (mkPsa y (psaPage e.1)) (some { p with lines := s.freshLines (mkPsa l (psaPage e.1)) (direct && !lost) p })
    | none => t
  let away (t : Tab (Option Page)) : Tab (Option Page) := t.filter fun q _ => boltOf q != x
  let pages := (if lost then mine s.med.gone else mine s.med.pages).foldl copy (if lost then s.med.pages else away s.med.pages)
  let led (t : Tab LedgerEntry) : LedgerEntry := Tab.get (fun _ => {}) t x
  let ex := if lost then led s.med.goneLed else s.ledger x
  let ey := s.ledger y
  let s1 := (s.modMed fun m => { m with pages, gone := away m.gone }).setBoltInfo y (s.boltInfo x)
  let s2 := (s1.setLedger y { ex with aliasTo := 0xFFFFFFFF, resets := ey.resets }).approxNote y
  if x = y then s2.modMed fun m => { m with goneLed := Tab.erase m.goneLed x }
  else if lost then s2.modMed fun m => { m with goneLed := Tab.set (fun _ => {}) m.goneLed x { ex with aliasTo := y } }
  else s2.setLedger x { ex with aliasTo := y }

/-- A failed die (R176): each of its bolts that a frame with a valid page still uses is reconstructed into a bolt of another die, the others retire. Pages of the die
that no parity covers yet are lost (R159). -/
def dieFail (slot die : Nat) (s : State) : State :=
  let old := Tab.get (fun _ => 0) s.med.failedDies slot
  if Nat.testBit old die then s
  else
    let mask := old + 2 ^ die
    let s1 := s.modMed fun m => { m with failedDies := Tab.set (fun _ => 0) m.failedDies slot mask }
    let bare := (s.med.pages.filter fun q v => psaSlot q == slot && psaDie q == die && v.any countsValid && (s.siblings q).isNone).length
    let s1a := (s1.setF (MED.CART_MEDIA_FAILED_DIES slot) (min 15 (popCount 16 mask))).fire 201
    let s2 := if bare = 0 then s1a else s1a.fireRec 0x0302 207 (le 1 slot ++ le 1 0 ++ le 1 die ++ le 1 0 ++ le 4 bare)
    let users (b : Nat) : Option Nat := s.med.frames.findSome? fun f =>
      if s.frameValid f = 0 then none else f.allBolts.find? fun x => s.aliasOf x == b
    let one (s : State) (k : Nat) : State :=
      let b := mkBolt slot die k
      if (s.ledger b).state = 4 then s
      else match users b with
        | some l => match s.spareBolt slot die false with
          | some y => (s.moveBolt l b y 8192 false).retire b
          | none => s
        | none => s.retire b
    let s3 := (List.range (s2.boltsPerDie slot)).foldl one s2
    (s3.modMed fun m => { m with bastBolts := m.bastBolts.filter fun e => !(e.1 == slot && boltDie (s3.aliasOf e.2.1) == die) }).levelUpdate (slot / 8)

/-- A bolt retires; more than 25 % of a die's bolts retired make the die fail (R176). -/
def retireBolt (b : Nat) (s : State) : State :=
  let s1 := s.retire b
  let (n, d) := (boltSlot b, boltDie b)
  let gone := ((s1.ledgerOf n).filter fun k e => boltDie k == d && e.state == 4).length
  if s1.boltsPerDie n < 4 * gone then s1.dieFail n d else s1

/-- R167: the program of a page has failed. The bolt's earlier pages move to a substitute bolt of the cartridge, the failed index becomes a filler page, the
failed bolt retires, and the writer places the page again. -/
def programFailed (p : Prog) (s : State) : State :=
  let x := s.aliasOf (boltOf p.psa)
  let s0 := s.progEnd p.psa
  let s1 := match p.purpose with
    | .copy _ true => s0.fire 209
    | _ => s0
  let s2 := match s1.spareBolt (boltSlot x) (boltDie x) true with
    | none => s1
    | some y =>
      let moved := (s1.moveBolt (boltOf p.psa) x y (psaPage p.psa) true).retireBolt x
      if p.purpose == Purpose.parity then moved else moved.storePage p.psa fillerPage
  s2.programAgain p

/-! ### Copies of a page (R127, R163, R166) -/

/-- A valid page is copied (R127): a swatch page where its swatch has no patches; where it has, it is darned, and where an assembly runs it is skipped. Summary and LSA pages go to series A, or with
the cold sweep to series K. The answer is false where the copy must wait. The darn has the priority of a reclaim (DESIGN CHOICE, log 33). -/
def copyPage (psa series : Nat) (gc : Bool) (s : State) : State × Bool :=
  let note (s : State) : State := s.perf 45 (if gc then 0x401 else 0x402) none 1
  match s.pageThere psa with
  | none => (s, true)
  | some p =>
    if p.selv.typ = 1 then
      let sw := p.selv.swatch
      if (s.mapEntry sw).psa ≠ psa || s.xlt.asm.any (fun a => a.swatch == sw && !a.ended) then (s, true)
      else if s.swatchInFlight sw then (s, false)
      else if !(s.idxOfSwatch sw).isEmpty then (s.darnTrigger sw 1 none, true)
      else match s.allocPage (s.homeGroup sw) series with
        | (s1, none) => (s1, false)
        | (s1, some q) =>
          let (s2, stamp) := s1.takeStamp
          (note (s2.issue q { p with selv := { p.selv with seq := stamp }, lines := s.freshLines psa true p } (.copy psa gc)), true)
    else if (p.selv.typ = 6 && Tab.get (fun _ => none) s.med.sumAt p.selv.swatch = some psa)
        || (p.selv.typ = 8 && Tab.get (fun _ => none) (s.ldOf (p.selv.swatch / 32)).lsaAt (p.selv.swatch % 32) = some psa) then
      let (s0, g) := s.rotateGroup
      match s0.allocPage g (if series = 20 then 20 else 19) with
      | (s1, none) => (s1, false)
      | (s1, some q) => (note (s1.issue q { p with lines := s.freshLines psa true p } (.copy psa gc)), true)
    else (s, true)

end State

end Sys2Proof.Machine
end

