-- ==== Sys2Proof/Machine/Translation.lean ====
section
/-!
DEFINITION. The translation engine (04): evictions and patches, the darn queue and assemblies, checkpoints and the journal, the media clock, map block
repair; how a flush advances as its pages verify (08, Table 08-3).
-/
namespace Sys2Proof.Machine

namespace State

/-! ### Write-backs that operations await (R212, R280) -/

/-- A write-back is not in force yet: its staging copy, or its write-through write, is still there. -/
def backOpen (s : State) (id : Nat) : Bool := s.cache.staging.any (fun t => t.id == id) || s.reqs.any fun r => r.id == id && r.stage == .through

/-- The write-backs of a line that a step of its slice finds: its staging copies and its write-through writes (R212). -/
def backsOf (s : State) (line : Nat) : List Nat :=
  ((s.cache.staging.filter fun t => t.line == line).map (·.id)) ++ (s.reqs.filter fun r => r.line == line && r.stage == .through).map (·.id)

/-- Operations no longer wait for write-backs that are in force. -/
def backsPrune (s : State) : State :=
  let keep (l : List Nat) : List Nat := l.filter s.backOpen
  let opKeep (o : CacheOp) : CacheOp := { o with waits := keep o.waits }
  let s1 := s.modCache fun c => { c with linOp := c.linOp.map opKeep, pcuOp := c.pcuOp.map opKeep }
  s1.modSpl fun p => { p with ops := p.ops.map fun o => { o with backs := keep o.backs } }

/-! ### Flush progress (R259, R277) -/

/-- The flush progress record in Tack (Table 17-3). -/
def flushProgress (s : State) : State :=
  let b := le 8 s.flush.lines ++ le 8 s.flush.patches ++ le 8 s.flush.firstSeq ++ le 4 0
  if s.kpsOk then s.setTackBytes 0x1210 (b ++ le 4 (crc32c b)) else s.refuseWrite

/-- Bolts of flush frames that the roster does not name yet. -/
def flushBolts (s : State) : List Nat :=
  ((s.med.frames.filter fun f => f.series == 21).flatMap fun f => f.bolts).filter fun b => !s.xlt.roster.contains b

/-- The seal-table entries that the pages of an image of region 1,023 hold: 256 entries of 16 bytes a page, one page at least (R182; DESIGN CHOICE, log 34). -/
def sealPages (t : Tab (BitVec 64)) : List (Tab (BitVec 64)) := (List.range (max 1 (ceilDiv t.length 256))).map fun i => (t.drop (256 * i)).take 256

/-- The seal table is written as an image of region 1,023, copy A and copy B in turn (R182, R131). It is complete when its pages have verified. -/
def sealImage (s : State) : State :=
  let (s1, start) := s.takeStamp
  let copy := match (s1.xlt.images.filter fun i => i.region == 1023).getLast? with | some i => !i.copy | none => false
  let swatch := 1023 + (if copy then 2 ^ 32 else 0)
  let one (acc : State × List Nat) (e : Nat × Tab (BitVec 64)) : State × List Nat :=
    let (s2, g) := acc.1.rotateGroup
    match s2.allocPage g 18 with
    | (s3, none) => (s3, acc.2)
    | (s3, some psa) => (s3.issue psa { selv := { typ := 4, swatch, seq := start }, refs := [e.1], seals := e.2 } .image, acc.2 ++ [psa])
  let parts := sealPages s1.med.sealTab
  let (s4, pages) := (List.zip (List.range parts.length) parts).foldl one (s1, [])
  if pages.length ≠ parts.length then s4
  else
    let old := match s4.xlt.sealNew with | some i => i.pages | none => []
    old.foldl (fun s q => if s.programmed q then s.dropPage q else s)
      (s4.modXlt fun x => { x with sealNew := some { region := 1023, copy, start, pages } })

/-- An image is complete: it takes the place of the older image of its region and copy, whose pages are no longer current (R131, R132); its record is journaled and the anchor written (R134). -/
def imagePut (im : Image) (s : State) : State :=
  let same (i : Image) : Bool := i.region == im.region && i.copy == im.copy
  let old := (s.xlt.images.filter same).flatMap (·.pages)
  let s1 := s.modXlt fun x => { x with images := (x.images.filter fun i => !same i) ++ [im] }
  (old.foldl (fun s q => s.dropPage q) s1).journal (.regionImage im.copy im.region (im.pages.headD unmappedPsa) im.start)

/-- The seal-table image under way is complete once each of its pages has verified. -/
def sealImageDone (s : State) : State := match s.xlt.sealNew with
  | none => s
  | some im => if im.pages.all fun q => s.programmed q then ((s.modXlt fun x => { x with sealNew := none }).imagePut im).anchorWrite else s

/-- A running assembly ends without a switch: its taken lines are no longer marked. -/
def asmEnd (p : Assembly → Bool) (s : State) : State :=
  let gone := (s.xlt.asm.filter p).map (·.swatch)
  let s1 := s.modXlt fun x => { x with asm := x.asm.map fun a => if p a then { a with ended := true, taken := [] } else a }
  s1.modCache fun c => { c with staging := c.staging.map fun t => if gone.contains (swatchOf t.line) then { t with taken := false } else t }

/-- A flush goes on to its next step when the programs of the one before have verified: after step 4 the seal table (R182) and the directory page, then with the image's record
the journal buffer, after step 5 the open basting sets, then step 7. -/
def flushAdvance (s : State) : State :=
  if !s.flush.stopped then s
  else
    let open_ (q : Purpose) : Bool := (s.med.progs ++ s.med.stuck).any fun p => p.purpose == q
    let late (r : Req) : Bool := r.isWrite && r.ordered && !(r.stage == .respond || r.stage == .through || r.stage == .hold)
    if s.flush.step = 4 && !open_ .patch && !s.reqs.any late then
      let s1 := s.asmEnd fun _ => true
      let s2 := s1.modXlt fun x => { x with roster := x.roster ++ s1.flushBolts }
      (s2.directoryWrite.sealImage.modFlush fun f => { f with step := 5 }).flushProgress
    else if s.flush.step = 5 && !open_ .image then
      let s1 := s.sealImageDone
      if !s1.xlt.jbuf.isEmpty then
        let n := s1.xlt.jcount
        let s2 := s1.journalWrite
        s2.modFlush fun f => { f with jpages := f.jpages + (s2.xlt.jcount - n) }
      else if open_ .journal then s1
      else (s1.med.bast.foldl (fun s b => s.bastClose b) s1).modFlush fun f => { f with step := 6 }
    else if s.flush.step = 6 && !open_ .basting then
      s.modFlush fun f => { f with step := 7 }
    else s

/-! ### Evictions (R119, R196, R218) -/

/-- AGE of a cached dirty line, by its way or its entry. -/
def ageOf (s : State) (line : Nat) : Nat := match s.findPent line with
  | some n => (s.pent n).age
  | none => match s.findWay line with
    | some k => (s.way k).age
    | none => 0

/-- The highest AGE of a dirty cached line. -/
def oldestDirty (s : State) : Nat :=
  let a := s.cache.lining.foldl (fun m e => if e.2.valid && e.2.dirty then max m e.2.age else m) 0
  s.cache.pcu.foldl (fun m e => if e.2.lines.any fun l => l.2.dirty then max m e.2.age else m) a

/-- Cleaning may release a dirty line now: by the watermark, highest AGE first (R218), or because its cache is being disabled (R219). -/
def mayClean (s : State) (line : Nat) : Bool :=
  s.dirtyIn line && ((s.flag LIN.STATUS_CLEANING && s.ageOf line == s.oldestDirty)
    || (if (s.findPent line).isSome then s.flag PCU.STATUS_DISABLING else s.flag LIN.STATUS_DISABLING))

/-! ### Patches that verify (R117) -/

/-- A directory entry of a verified patch page comes into force: the index names it unless a newer patch is there (R118), the staging copy that was placed there is released, its
write-through write commits and completes (R82, R219). Where the window has taken its last entry meanwhile, the value stays in staging and goes to a full-swatch write, as R119 would
have it (DESIGN CHOICE, log 31). -/
def patchInForce (psa : Nat) (s : State) (d : DirEntry × Nat) : State :=
  let (e, slot) := d
  let sw := swatchOf e.line
  let here (t : Staged) : Bool := t.line == e.line && t.place == some (psa, slot)
  if e.dropped then (s.stagingDrop here).entryDone e
  else
    let seq := ((s.pageAt psa).map (·.selv.seq)).getD 0
    let new : IdxEntry := { line := e.line, psa, slot, poison := e.poison, stamp := (seq + e.delta) % 2 ^ 40 }
    let old := s.idxOf e.line
    let s0 := if e.req.isSome then s.throughCommit e.line else s
    if old.isNone && (s.windowFree sw).isNone then
      let again (t : Staged) : Staged := if here t then { t with place := none } else t
      let s1 := if e.req.isSome then s0.stage e.line e.val false else s0.modCache fun c => { c with staging := c.staging.map again }
      ((s1.darnTrigger sw 2 none).fire 166).entryDone e
    else
      let s1 := if old.any fun o => newer o.stamp new.stamp then s0
        else (s0.idxInsert new).mapFlags sw ((s0.mapEntry sw).poison || e.poison)
      (s1.stagingDrop here).entryDone e

/-- A verified patch page comes into force. -/
def pageInForce (psa : Nat) (dir : List DirEntry) (s : State) : State :=
  let s1 := (numbered dir).foldl (patchInForce psa) s
  (dir.map fun d => swatchOf d.line).eraseDups.foldl (fun s sw => s.swatchLimit sw) s1

/-! ### Reclaim of the patch log (R122) -/

/-- Swatches with a live patch in a patch bolt, in directory order. -/
def boltSwatches (s : State) (b : Nat) : List Nat :=
  let pages := s.med.pages.filter fun q _ => boltOf q == s.aliasOf b
  let live := pages.flatMap fun e => match e.2 with
    | some p =>
      let psa := mkPsa b (psaPage e.1)
      ((numbered p.dir).filter fun d => (s.idxOf d.1.line).any fun i => i.psa == psa && i.slot == d.2).map fun d => swatchOf d.1.line
    | none => []
  live.eraseDups

/-- Retained journal in bytes. -/
def journalBytes (s : State) : Nat := 4096 * s.xlt.jpages.length

/-- The forced cases of R122 for the oldest bolt: its first patch stamp lies more than 2^37 behind the counter, or the journal is retained beyond its limit because of it. -/
def forcedReclaim (s : State) (b : Nat) : Bool := match s.firstPatch b with
  | none => false
  | some (seq, stamp) => 2 ^ 37 < (s.xlt.seq + 2 ^ 40 - stamp) % 2 ^ 40
      || (clamp 1 4 (s.getF XLT.CKPT_CTRL_JRNL_LIMIT) * 2 ^ 30 < s.journalBytes && s.replayStart == seq)

/-- A case of R122 holds. -/
def reclaimDue (s : State) (b : Nat) : Bool :=
  let (n, t) := s.plogFill
  decide (t < s.xlt.roster.length + 4) || decide (clamp 50 95 (s.getF XLT.CTRL_FILL_WM) * t < 100 * n)
    || (match s.frameOf b with
        | some f => (s.groupMedia f.group).refreshq.contains f.number
        | none => false)
    || s.forcedReclaim b

/-- The journal pages from a stamp on: the page that was being filled at the stamp, whose later records follow it, and those after it. -/
def journalFrom (start : Nat) : List JPage → List JPage
  | p :: q :: l => if newer start q.seq || start == q.seq then journalFrom start (q :: l) else p :: q :: l
  | l => l

/-- Journal pages before the replay start are released to the media engine (R132). -/
def journalRelease (s : State) : State :=
  let kept := journalFrom s.replayStart s.xlt.jpages
  let old := s.xlt.jpages.take (s.xlt.jpages.length - kept.length)
  old.foldl (fun s p => s.dropPage p.psa) (s.modXlt fun x => { x with jpages := kept })

/-- A patch bolt with no live patch leaves the log as a stale bolt (R122, R164). -/
def rosterLeave (b : Nat) (s : State) : State :=
  let old := s.xlt.roster
  let s1 := s.modXlt fun x => { x with roster := x.roster.filter (· != b), forced := false }
  let s2 := s1.setBoltInfo (s1.aliasOf b) { s1.boltInfo (s1.aliasOf b) with valid := 0 }
  (((s2.rosterCheck old).frameCheck b).journalRelease).fillCheck

/-! ### Assemblies (R124, R125) -/

/-- The cached value of a line that a full-swatch write takes: Pincushion, Lining, staging. -/
def takenValue (s : State) (line : Nat) : Line := match s.pentHit line with
  | some n => if (s.pline n line).dirty then (s.pline n line).val else ((s.stagedOf line).map (·.val)).getD (s.pline n line).val
  | none => match s.findWay line with
    | some k => (s.way k).val
    | none => ((s.stagedOf line).map (·.val)).getD (s.zeroLine line)

/-- One line of an assembly: its stored form, whether the cipher is needed for it, and whether its stored key is retired (R124, R125). -/
def assemblyLine (s : State) (taken : List Nat) (line : Nat) : MLine × Bool × Bool :=
  let k := s.keyOf line
  let bad : Line := { s.zeroLine line with poison := true }
  if taken.contains line then (s.encLine line (s.takenValue line), k != 0, false)
  else match s.location line with
    | none => (s.encLine line (s.zeroLine line), k != 0, false)
    | some (psa, slot, _) => match s.fetchStored psa slot true with
      | none => (s.encLine line bad, k != 0, false)
      | some m =>
        if m.keyId = k && m.epoch = (s.keySlot k).epoch then (m, false, false)
        else match s.decLine line m with
          | .ok v => (s.encLine line v, k != 0 || m.keyId != 0, false)
          | .stale => (s.encLine line bad, k != 0, true)

/-- The page of an assembly, with how many lines its keys spoil; none where it needs the cipher in cipher-fault state (R335). -/
def assemblyPage (s : State) (sw stamp : Nat) (taken : List Nat) : Option (Page × Nat) :=
  let ls := (List.range 64).map fun i => s.assemblyLine taken (64 * sw + i)
  if s.cipherFault && ls.any (fun x => x.2.1) then none
  else
    let poison := ls.foldr (fun x (a : Nat) => 2 * a + if x.1.val.poison then 1 else 0) 0
    let lines := (ls.foldl (fun (a : Nat × Tab MLine) x => (a.1 + 1, Tab.set (fun _ => {}) a.2 a.1 x.1)) (0, [])).2
    let k := s.keyOf (64 * sw)
    some ({ selv := { typ := 1, swatch := sw, seq := stamp, keyId := k, epoch := (s.keySlot k).epoch, poison := BitVec.ofNat 64 poison }, lines },
      (ls.filter fun x => x.2.2).length)

/-- Ops that await a swatch learn that its assembly is over. -/
def darnOver (ops : List Nat) (sw : Nat) (switched : Bool) (spoiled : Nat) (s : State) : State :=
  let upd (o : OpRun) : OpRun :=
    if ops.contains o.id then
      { o with swatches := o.swatches.filter (· != sw), count := if switched then o.count + 1 else o.count, count2 := o.count2 + spoiled }
    else o
  s.modSpl fun p => { p with ops := p.ops.map upd }

/-- A place can start now: no patch of its swatch in flight, no other assembly of it, its map block sound (R124, R140). -/
def canAssemble (s : State) (p : DarnPlace) : Bool :=
  !s.swatchInFlight p.swatch && !s.xlt.asm.any (fun a => a.swatch == p.swatch)
    && !s.mapHurt p.swatch

/-- The next place: priority order, then queue order (R123). -/
def nextDarn (s : State) : Option DarnPlace :=
  [1, 2, 3, 4].findSome? fun k => s.xlt.darnq.find? fun p => prioOf p == k && s.canAssemble p

/-- A stored line of a swatch, of its page or of a live patch, is under another key ID or epoch than its region's (R330). -/
def keyDiffers (s : State) (sw : Nat) : Bool :=
  let k := s.keyOf (64 * sw)
  let old (id e : Nat) : Bool := !(id == k && e == (s.keySlot k).epoch)
  let page := match s.pageAt (s.mapEntry sw).psa with | some p => old p.selv.keyId p.selv.epoch | none => false
  page || (s.idxOfSwatch sw).any fun e => match s.pageAt e.psa with
    | some p => old (p.line e.slot).keyId (p.line e.slot).epoch
    | none => false

/-- A trigger of a place still holds (R127): a live patch for a reclaim or a request, dirty lines for an eviction, the swatch limit; a REKEY_RANGE op still has its swatch to
re-encrypt. -/
def triggerHolds (s : State) (p : DarnPlace) (prio : Nat) : Bool :=
  let live := !(s.idxOfSwatch p.swatch).isEmpty
  if prio = 2 then !(s.dirtyOfSwatch p.swatch).isEmpty
  else if prio = 3 then decide (clamp 2 24 (s.getF XLT.CTRL_SWATCH_LIMIT) ≤ s.livePatches p.swatch)
  else live || (prio = 4 && s.keyDiffers p.swatch && s.spl.ops.any fun o => p.ops.contains o.id && o.desc.op == 0x0E)

/-- Nothing is left for a place to do: no patch, no dirty line, no line to re-encrypt; or, where it was held during an assembly, no trigger of it holds any more (R127). -/
def darnMoot (s : State) (p : DarnPlace) : Bool :=
  if p.held then !p.prios.any (s.triggerHolds p) else !([1, 2, 4].any fun k => (k = 1 || p.prios.contains k) && s.triggerHolds p k)

/-- Start the assembly of a place: snapshot, gathered lines, new page (R124). One for evictions alone takes no bolt at the Reserve level (Table 05-7). -/
def assemblyBegin (p : DarnPlace) (s : State) : State :=
  let drop (s : State) : State := s.modXlt fun x => { x with darnq := x.darnq.filter fun q => q.swatch != p.swatch }
  let sw := p.swatch
  if s.darnMoot p then (drop s).darnOver p.ops sw false 0
  else
    let full := p.prios.contains 2
    let (s1, stamp) := s.takeStamp
    let taken := if full then s.dirtyOfSwatch sw else []
    let s1 := taken.foldl (fun s l => s.copyOut l) s1
    match s1.assemblyPage sw stamp taken with
    | none => (drop s1).darnOver p.ops sw false 0
    | some (page, spoiled) =>
      let g := s1.homeGroup sw
      match (if p.prios.all (· == 2) && s1.reserveHeld g (s1.nextS g) then (s1, none) else s1.allocPage g (s1.nextS g)) with
      | (_, none) => s
      | (s2, some psa) =>
        let a : Assembly := { swatch := sw, full, stamp, psa, snap := s.idxOfSwatch sw, taken, ops := p.ops, spoiled }
        let mark (t : Staged) : Staged := if full && swatchOf t.line == sw then { t with taken := true } else t
        let s3 := (drop s2).modCache fun c => { c with staging := c.staging.map mark }
        (s3.modXlt fun x => { x with asm := x.asm ++ [a] }).issue psa page .assembly

/-- A taken line becomes clean at the switch; its staging copies are released (R124). -/
def takenDone (s : State) (line : Nat) : State :=
  let s1 := match s.findPent line with
    | some n => s.setPline n line { s.pline n line with dirty := false }
    | none => match s.findWay line with
      | some k => s.setWay k { s.way k with dirty := false }
      | none => s
  s1.stagingDrop fun t => t.line == line && t.place.isNone

/-- The new page of an assembly has verified: the map switches, the snapshot's index entries go, taken lines become clean (R124, R106, R107, R126). -/
def assemblySwitch (a : Assembly) (page : Page) (s : State) : State :=
  let sw := a.swatch
  let poisoned := page.selv.poison != 0
  let s1 := s.mapSwitch sw a.psa a.stamp poisoned
  let s2 := s1.idxRemove fun e => a.snap.contains e
  let s3 := s2.mapFlags sw poisoned
  let s4 := a.taken.foldl (fun s l => s.takenDone l) s3
  let s5 := s4.stagingDrop fun t => t.taken && swatchOf t.line == sw
  let s6 := (s5.count64 XLT.DARN_DONE_LO_COUNT XLT.DARN_DONE_HI_COUNT 1).perf 44 0x302 none 1
  let s7 := if a.full then s6.perf 44 0x303 none 1 else s6
  (s7.darnOver a.ops sw true a.spoiled).fillCheck.dirtyChanged

/-! ### Checkpoints (R131 to R133) -/

/-- The next region image starts: it takes a stamp. -/
def imageStart (s : State) : State :=
  let (s1, stamp) := s.takeStamp
  s1.modXlt fun x => { x with imgStart := stamp }

/-- Entries with a byte in a checkpoint region (R131). -/
def regionEntries (s : State) (r : Nat) : Tab MapEntry := s.xlt.map.filter fun sw _ => inRegion r sw

/-! ### Map repair (R140, R141) -/

/-- Requests that waited for a repair and no longer do go on with the map and the index as they are. -/
def repairRelease (s : State) : State :=
  let go (r : Req) : Req :=
    let sw := swatchOf r.line
    if r.stage == .repair && !s.mapHurt sw && !Tab.get (fun _ => false) s.xlt.bucketBad (homeBucket sw) then
      { r with stage := .probing, map := s.mapEntry sw, idx := s.idxOf r.line }
    else r
  s.putReqs (s.reqs.map go)

end State

/-- EVICTION_RELEASE (R117, R119, R196, R218, R219): a dirty line is released, where it is not in staging yet, and placed. It has an effect on a line that staging holds without a
place, or that cleaning may take. No line is evicted while a flush has stopped admission (R261). -/
def execEvictionRelease (line : Nat) (s : State) : Out :=
  if s.flush.stopped then .next s
  else if s.cache.staging.any fun t => t.line == line && t.place.isNone && !t.taken then .next (s.evict line).dirtyChanged
  else if s.mayClean line then
    match s.release line with
    | (s1, true) => .next (s1.evict line).dirtyChanged
    | (s1, false) => .next s1
  else .next s

/-- SEAL_TIMER_EXPIRE (R116): SEAL_US has elapsed since the first patch of an open page. -/
def execSealTimerExpire (psa : Nat) (s : State) : Out :=
  match s.xlt.openPages.find? fun o => o.psa == psa && !o.ents.isEmpty with
  | some o => .next (s.sealPage o)
  | none => .next s

/-- PATCH_PAGE_VERIFIED (R117, R118, R126, R128; R259, R277 for a flush page). -/
def execPatchPageVerified (psa : Nat) (s : State) : Out :=
  match s.progOf psa with
  | none => .next s
  | some p =>
    if p.purpose != .patch then .next s
    else
      let s1 := (s.progEnd psa).storePage psa p.page
      if s.isFlushPage psa then
        .next ((s1.modFlush fun f => { f with patches := f.patches + p.page.dir.length }).flushProgress.flushAdvance).healthCheck
      else .next ((s1.pageInForce psa p.page.dir).backsPrune.fillCheck.dirtyChanged.flushAdvance).healthCheck

/-- PATCH_PROGRAM_FAIL (R117, R167). -/
def execPatchProgramFail (psa : Nat) (s : State) : Out :=
  match s.progOf psa with
  | some p => if p.purpose == .patch then .next (s.programFailed p).healthCheck else .next s
  | none => .next s

namespace State

/-- XLT.DARN_REQ_HI is written (R123, Table 04-16): while a request is held, a further one is discarded. -/
def darnWritten (hi : Word) (s : State) : State :=
  let lo := (s.readRaw 0x160020).toNat
  let s1 : State := s.putHeld (Tab.set (fun _ => none) s.held 0x160020 none)
  let s2 := (s1.setF XLT.DARN_REQ_LO_SWATCH lo).setF XLT.DARN_REQ_HI_SWATCH32 hi.toNat
  let sw := lo + 2 ^ 32 * (hi.toNat % 2)
  if s2.livePatches sw = 0 then s2
  else if s2.xlt.heldDarn.isSome then s2.setF XLT.DARN_STATUS_REQ_LOST 1
  else if s2.darnRoom sw then s2.darnTrigger sw 4 none
  else s2.modXlt fun x => { x with heldDarn := some sw }

end State

/-- DARN_REQUEST (R123, Table 04-16): a write of XLT.DARN_REQ_HI queues a darn of the swatch at priority 4, if it has a live patch. -/
def execDarnRequest (m : Nat) (hi : Word) (s : State) : Out :=
  .next (s.regAction m 0x160024 true (State.darnWritten hi))

/-- DARN_QUEUE_ROOM (R123): triggers that waited for room enter the queue in the order in which they came; the held request of DARN_REQ_HI follows. -/
def execDarnQueueRoom (s : State) : Out :=
  match s.xlt.waiting with
  | p :: rest =>
    if s.darnRoom p.swatch then
      let s1 := s.modXlt fun x => { x with waiting := rest }
      let merge (q : DarnPlace) : DarnPlace := if q.swatch = p.swatch then { q with prios := q.prios ++ p.prios, ops := q.ops ++ p.ops } else q
      let into (q : List DarnPlace) : List DarnPlace := if q.any fun x => x.swatch == p.swatch then q.map merge else q ++ [p]
      .next (s1.modXlt fun x => { x with darnq := into x.darnq }).stallEnd
    else .next s
  | [] => match s.xlt.heldDarn with
    | some sw => if s.darnRoom sw then .next ((s.modXlt fun x => { x with heldDarn := none }).darnTrigger sw 4 none) else .next s
    | none => .next s

/-- ASSEMBLY_START (R123 to R125): up to 256 run at once; none starts while a flush has stopped admission (R261). Programs that wait for a free page are tried again; a place whose map entry is invalid
has it repaired (R140). -/
def execAssemblyStart (s : State) : Out :=
  if s.flush.stopped || 256 ≤ s.xlt.asm.length then .next s.unstick
  else
    let s1 := s.unstick
    match s1.nextDarn with
    | some p => .next ((s1.assemblyBegin p).mapCheck p.swatch)
    | none => .next (s1.xlt.darnq.foldl (fun s p => s.mapCheck p.swatch) s1)

/-- ASSEMBLY_PAGE_VERIFIED (R124, R127): an assembly that an unmap or a flush has ended leaves its page stale. -/
def execAssemblyPageVerified (psa : Nat) (s : State) : Out :=
  match s.progOf psa, s.xlt.asm.find? fun a => a.psa == psa with
  | some p, some a =>
    if p.purpose != .assembly || s.mapHurt a.swatch then .next (s.mapCheck a.swatch)
    else
      let s1 := ((s.progEnd psa).storePage psa p.page).modXlt fun x => { x with asm := x.asm.filter fun b => b.psa != psa }
      if a.ended then .next ((s1.dropPage psa).darnOver a.ops a.swatch false 0).healthCheck
      else .next (s1.assemblySwitch a p.page).backsPrune.healthCheck
  | _, _ => .next s

/-- PATCH_BOLT_RECLAIM (R122): the oldest patch bolt is vacated by darns in directory order; when no patch in it is live or in flight it leaves the log. A bolt whose frame is still open has
the frame closed first (DESIGN CHOICE, log 35). -/
def execPatchBoltReclaim (s : State) : Out :=
  match s.xlt.roster with
  | [] => .next s
  | b :: _ =>
    if s.flush.stopped || !s.reclaimDue b then .next s
    else
      let s1 := if s.forcedReclaim b && !s.xlt.forced then (s.modXlt fun x => { x with forced := true }).fire 163 else s
      let sws := s1.boltSwatches b
      let flying := s1.xlt.openPages.any (fun o => boltOf o.psa == b && !o.ents.isEmpty) || s1.med.progs.any fun p => p.purpose == .patch && boltOf p.psa == b
      if !sws.isEmpty then .next (sws.foldl (fun s sw => s.darnTrigger sw 1 none) s1)
      else if flying then .next s1
      else match s1.frameOf b with
        | some f => if f.closed then .next (s1.rosterLeave b)
            else
              let s2 := s1.modXlt fun x => { x with openPages := x.openPages.filter fun o => !f.bolts.contains (boltOf o.psa) || !o.ents.isEmpty }
              .next (s2.closeShort f)
        | none => .next (s1.rosterLeave b)

namespace State

/-- Bytes of the map that page k of a region's image holds: the entries with a byte there (R131). -/
def imagePart (r k : Nat) (t : Tab MapEntry) : Tab MapEntry :=
  let base := r * 2 ^ 26 + 4096 * k
  t.filter fun sw _ => base < 5 * sw + 5 && 5 * sw < base + 4096

/-- Page k of a region's image is programmed; none where there is no room for it. -/
def imagePage (r : Nat) (copy : Bool) (start : Nat) (t : Tab MapEntry) (a : State × List Nat) (k : Nat) : Option (State × List Nat) :=
  let (s1, g) := a.1.rotateGroup
  match s1.allocPage g 18 with
  | (_, none) => none
  | (s2, some psa) =>
    let selv : Selvage := { typ := 4, swatch := r + (if copy then 2 ^ 32 else 0), seq := start }
    some (s2.storePage psa { selv, refs := [k], map := imagePart r k t }, a.2 ++ [psa])

/-- Pages of a region's image are programmed in order; none where one finds no room. -/
def imagePages (r : Nat) (copy : Bool) (start : Nat) (t : Tab MapEntry) (ks : List Nat) (s : State) : Option (State × List Nat) :=
  ks.foldl (fun acc k => acc.bind fun a => imagePage r copy start t a k) (some (s, []))

/-- Pages of a region's image, on either ordering code (R131). -/
def imageCount : Order → Nat
  | .h72 | .h48 => 16384

/-- The pages of a region's image are programmed. -/
def imageWrite (r : Nat) (copy : Bool) (start : Nat) (s : State) : Option (State × List Nat) :=
  s.imagePages r copy start (s.regionEntries r) (List.range (imageCount s.order))

/-- The image of the region under way is on its pages (R131, R132, R134, R139): the pass goes on to the next region, and a pass that ends writes the seal table (R182). -/
def imageFinish (pages : List Nat) (s : State) : State :=
  let r := s.xlt.region
  let copy := decide (s.xlt.passNo % 2 = 1)
  let s4 := s.modXlt fun x => { x with changed := x.changed.filter fun b _ => b / 2 ^ 20 != r }
  let s7 := (s4.imagePut { region := r, copy, start := s.xlt.imgStart, pages }).anchorWrite.journalRelease
  if r + 1 < regionCount s.order then ((s7.modXlt fun x => { x with region := r + 1 }).setF XLT.CKPT_STATUS_REGION (r + 1)).imageStart
  else
    let secs := (s.clk.now - s.xlt.passStart) / 10 ^ 9
    let late := decide (clamp 60 600 (s.getF XLT.CKPT_CTRL_PASS_MAX) < secs)
    let s8 := (s7.modXlt fun x => { x with region := 0, passNo := x.passNo + 1, passStart := s.clk.now, lateNow := false }).sealImage
    let s9 := ((s8.setF XLT.CKPT_STATUS_REGION 0).setF XLT.CKPT_STATUS_LAST_PASS (min 65535 secs)).setFlag XLT.CKPT_STATUS_LATE late
    (s9.setFlag XLT.CKPT_STATUS_COPY (!copy)).imageStart

/-- The image of the region under way completes, if its pages find room: the answer tells. -/
def imageDone (s : State) : State × Bool :=
  match s.imageWrite s.xlt.region (decide (s.xlt.passNo % 2 = 1)) s.xlt.imgStart with
  | none => (s, false)
  | some (s1, pages) => (s1.imageFinish pages, true)

end State

/-- REGION_IMAGE_COMPLETE (R131, R132, R134, R139, R182). -/
def execRegionImageComplete (s : State) : Out :=
  if s.flush.stopped || !s.memActive then .next s else .next s.imageDone.1

/-- CHECKPOINT_LATE (R133): a pass has exceeded PASS_MAX; once per pass. -/
def execCheckpointLate (s : State) : Out :=
  if s.xlt.lateNow then .next s
  else .next (((s.modXlt fun x => { x with lateNow := true }).setF XLT.CKPT_STATUS_LATE 1).fire 162)

/-- MEDIA_CLOCK_TICK (R111, R173): the media clock advances each second while the core runs; a bolt whose first page passes the horizon is scheduled for refresh. -/
def execMediaClockTick (s : State) : Out :=
  if s.start.released then
    let s1 := s.modXlt fun x => { x with mclk := (x.mclk + 1) % 2 ^ 32 }
    .next ((List.map (·.1) s1.med.bolts).foldl (fun s b => if s.refreshDue b then s.schedRefresh b else s) s1)
  else .next s

/-- TIME_PAIR_WRITE (R111, Table 17-3): every 60 s while the core runs and device time has been set since the start. -/
def execTimePairWrite (s : State) : Out := if !(s.start.released && s.clk.timeSet) then .next s else .next s.timePairWrite

namespace State

/-! ### Repair of a map block (R140 to R142) -/

/-- The map entries that an image's pages hold. -/
def imageMap (s : State) (im : Image) : Tab MapEntry :=
  im.pages.foldl (fun t q => match s.pageThere q with | some p => p.map.foldl (fun t e => Tab.set (fun _ => {}) t e.1 e.2) t | none => t) []

/-- The newest complete image of a region whose pages can all be read, directly or through the quilt. -/
def imageOf (s : State) (r : Nat) : Option Image :=
  (s.xlt.images.filter fun i => i.region == r && i.pages.all fun q => s.pageReadable q 64).getLast?

/-- The records of a journal page that are replayed: those before the first whose CHECK fails (R130). -/
def pageRecs (p : Page) : List JRec := match p.badRec with | some n => p.recs.take n | none => p.recs

/-- A journal record applied to a map (Table 04-9): MAP_SET writes PSA and POISON_ANY, UNMAP writes unmapped entries. -/
def recApply (t : Tab MapEntry) (r : JRec) : Tab MapEntry := match r with
  | .mapSet sw psa _ poison => Tab.set (fun _ => {}) t sw { psa, poison }
  | .unmap sw n _ => t.filter fun k _ => !(sw ≤ k && k < sw + n)
  | .regionImage _ _ _ _ | .clock _ _ => t

/-- The journal records from a stamp on through the journal buffer, in order: from the page that was being filled at the stamp. -/
def recsFrom (s : State) (start : Nat) : List JRec :=
  ((journalFrom start s.xlt.jpages).flatMap fun j => match s.pageThere j.psa with | some p => pageRecs p | none => []) ++ s.xlt.jbuf

/-- Readable swatch pages or patch pages with their PSAs; the medium's own bolts are their PSAs (a bolt with a substitute was vacated). -/
def scanPages (s : State) (typ : Nat) : List (Nat × Page) :=
  s.med.pages.filterMap fun e => match e.2 with
    | some p => if p.selv.typ = typ && p.selv.check && s.cartUp (psaSlot e.1) then
        some (((s.med.ledger.find? fun l => l.2.aliasTo == boltOf e.1).map fun l => mkPsa l.1 (psaPage e.1)).getD e.1, p) else none
    | none => none

/-- The swatch pages that selvages name current (R138): for each swatch the page with the largest AGE, among equals the newer SEQ. -/
def scanBest (s : State) : Tab (Nat × Page) :=
  let better (a b : Page) : Bool := b.selv.age < a.selv.age || (a.selv.age = b.selv.age && newer a.selv.seq b.selv.seq)
  (s.scanPages 1).foldl (fun t e =>
    let sw := e.2.selv.swatch
    match t.find? fun x => x.1 == sw with
    | some x => if better e.2 x.2.2 then Tab.insert t sw e else t
    | none => Tab.insert t sw e) ([] : Tab (Nat × Page))

/-- The map from the selvages. -/
def scanMap (s : State) : Tab MapEntry := s.scanBest.map fun _ (e : Nat × Page) => ({ psa := e.1, poison := e.2.selv.poison != 0 } : MapEntry)

/-- A block's entries from a selvage scan restricted to its swatches (R142), without those that the retained journal has unmapped since. -/
def scanBlock (s : State) (start : Nat) : Tab MapEntry :=
  let gone (sw seq : Nat) : Bool := (s.recsFrom start).any fun r => match r with | .unmap k n t => decide (k ≤ sw) && decide (sw < k + n) && newer t seq | _ => false
  (s.scanBest.filter fun sw e => !gone sw e.2.selv.seq).map fun _ (e : Nat × Page) => ({ psa := e.1, poison := e.2.selv.poison != 0 } : MapEntry)

/-- The repaired map that a block is read from, and how it was found (Table 17-11): the image, the image with the journal applied, a selvage scan.
`scan`: neither copy of the image could be read at the media (R142). -/
def repairMap (s : State) (block : Nat) (scan : Bool) : Tab MapEntry × Nat := match (if scan then none else s.imageOf (block / 2 ^ 20)) with
  | none => (s.scanBlock ((s.xlt.jpages.head?.map (·.seq)).getD s.xlt.seq), 2)
  | some im =>
    if Tab.get (fun _ => false) s.xlt.changed block then ((s.recsFrom im.start).foldl recApply (s.imageMap im), 1) else (s.imageMap im, 0)

end State

/-- MAP_BLOCK_REPAIR_DONE (R140, R142): the block's entries are rebuilt from the newest image of its region and the journal, or where neither image can be read from the selvages;
PATCH_PRESENT and POISON_ANY follow the index. A page that the repaired entry no longer names is not current. -/
def execMapBlockRepairDone (block : Nat) (scan : Bool) (us : Nat) (s : State) : Out :=
  if !Tab.get (fun _ => false) s.xlt.mapBad block then .next s
  else
    let (good, path) := s.repairMap block scan
    let mine (sw : Nat) : Bool := (mapBlocksOf sw).contains block
    let old := s.xlt.map.filter fun sw _ => mine sw
    let new := good.filter fun sw _ => mine sw
    let s1 := s.modXlt fun x => { x with
      mapBad := Tab.set (fun _ => false) x.mapBad block false
      map := new.foldl (fun t e => Tab.set (fun _ => {}) t e.1 e.2) (x.map.filter fun sw _ => !mine sw) }
    let sws := (List.map (·.1) old ++ List.map (·.1) new).eraseDups
    let s2 := sws.foldl (fun s sw => s.mapFlags sw (s.mapEntry sw).poison) s1
    let s3 := old.foldl (fun s e => if (s.mapEntry e.1).psa = e.2.psa then s else s.dropPage e.2.psa) s2
    .next ((s3.countF XLT.REPAIR_REPAIRS 1).fireRec 0x0303 160 (le 4 block ++ le 1 path ++ le 4 us)).repairRelease

/-- REPAIR_WAIT_TIMEOUT (R141): a read that has waited 6 µs for a map block or bucket repair receives poison; its line is not stored poisoned. -/
def execRepairWaitTimeout (rid : Nat) (s : State) : Out :=
  match s.reqOf rid with
  | some r =>
    if r.stage == .repair && r.isRead then
      .next (((s.countF XLT.REPAIR_TRANSIENT 1).fire 161).poisonAnswer r none).healthCheck
    else .next s
  | none => .next s

end Sys2Proof.Machine
end

