-- ==== Sys2Proof/Machine/Media.lean ====
section
/-!
DEFINITION. The media engine (05): verified and failed programs, basting, resets, wear, garbage collection, refresh, rebuild, lost positions.
-/
namespace Sys2Proof.Machine

namespace State

/-! ### Wear (R163) -/

/-- Wear spread of a cartridge: greatest minus least RESETS among its bolts that are not retired (R163). -/
def wearSpread (s : State) (n : Nat) : Nat :=
  let l := s.ledgerOf n
  let live := l.filter fun _ e => e.state != 4
  let hi := live.foldl (fun a e => max a e.2.resets) 0
  let lo := if l.length < 16 * s.boltsPerDie n then 0 else live.foldl (fun a e => min a e.2.resets) hi
  hi - lo

/-- A frame's page is being copied. -/
def copying (s : State) (psa : Nat) : Bool := s.med.progs.any fun p => match p.purpose with | .copy old _ => old == psa | _ => false

/-- Copy the valid pages of a frame (R163, R165, R174): swatch pages to the series that `series` gives. -/
def copyFrame (f : Frame) (series : State → Nat) (gc : Bool) (s : State) : State :=
  if s.frameValid f = 0 then (if f.closed then s.frameReset f else s)
  else (List.range f.next).foldl (fun s e => if s.copying (f.psa e) then s else (s.copyPage (f.psa e) (series s) gc).1) s

/-- A frame that garbage collection and the cold sweep may take: closed, of series S, A or K. -/
def collectable (f : Frame) : Bool := f.closed && (f.series < 16 || f.series == 19 || f.series == 20)

/-- The collectable frame of the group of cartridge n whose bolts in it have the fewest resets (R163). -/
def coldFrame (s : State) (n : Nat) : Option Frame :=
  let g := n / 8
  (s.med.frames.foldl (fun (b : Option (Nat × Frame)) f =>
    if f.group == g && collectable f then
      match (f.bolts.filter fun x => boltSlot (s.aliasOf x) == n).foldl (fun (w : Option Nat) x =>
          let r := (s.ledger (s.aliasOf x)).resets
          some (match w with | some v => min v r | none => r)) none with
      | some w => (match b with | some (v, _) => if w < v then some (w, f) else b | none => some (w, f))
      | none => b
    else b) none).map (·.2)

/-- The cold sweep on a cartridge (R163): starts above the threshold (source 212), takes the closed frame with the least-worn closed bolt, and ends at three quarters. -/
def coldSweep (n : Nat) (s : State) : State :=
  let g := n / 8
  let on := s.med.cold.contains n
  let thr := max 10 (s.getF MED.CTRL_COLD_SPREAD) * ratedResets / 1000
  let spread := s.wearSpread n
  if s.getF MED.CTRL_COLD_RATE = 0 || s.flush.stopped || s.flag (MED.GROUP_STATUS_BELOW_LOW g) then s
  else if on && 4 * spread ≤ 3 * thr then s.modMed fun m => { m with cold := m.cold.filter (· != n) }
  else if !on && spread ≤ thr then s
  else
    let s1 := if on then s else (s.modMed fun m => { m with cold := m.cold ++ [n] }).fire 212
    match s1.coldFrame n with
    | some f => s1.copyFrame f (fun _ => 20) false
    | none => s1

/-! ### Resets (R77, R164, R168, R184) -/

/-- A media read still targets a bolt (R77). -/
def boltRead (s : State) (b : Nat) : Bool :=
  s.med.ghosts.any (fun g => g.bolt == b) || s.dbg.raw.any (fun j => s.aliasOf (boltOf j.psa) == b)
    || s.reqs.any fun r => (r.stage == .media && (r.target.any fun t => s.aliasOf (boltOf t.1) == b)) || r.members.any fun m => s.aliasOf (boltOf m) == b

/-- Ops and background commands learn that a bolt's reset has ended. -/
def resetSeen (b : Nat) (done : Bool) (s : State) : State :=
  let upd (o : OpRun) : OpRun :=
    if o.bolts.contains b then { o with bolts := o.bolts.filter (· != b), count := if done then o.count + 1 else o.count } else o
  let bg (l : LdState) : LdState := { l with bg := l.bg.map fun c => { c with todo := c.todo.filter (· != b) } }
  let s1 := s.modSpl fun p => { p with ops := p.ops.map upd }
  let ext (e : Extent) : Extent := { e with bolts := e.bolts.filter (· != b) }
  (s1.putLds (s1.lds.map fun _ l => bg l)).putCoh { s1.coh with extents := s1.coh.extents.map ext }

/-- The bolt's pages are gone, and with them what its summary page told (R184); its cartridge has counted the reset (R146). -/
def boltErase (b : Nat) (s : State) : State :=
  let gone := s.med.pages.filter fun q _ => boltOf q != b
  let s0 := match Tab.get (fun _ => none) s.med.sumAt b with
    | some q => (s.modMed fun m => { m with sumAt := Tab.set (fun _ => none) m.sumAt b none }).dropPage q
    | none => s
  let s1 := (s0.modMed fun m => { m with pages := gone, resets := m.resets.filter (· != b) }).setBoltInfo b {}
  s1.setLedger b { s1.ledger b with resets := (s1.ledger b).resets + 1 }

/-! ### Lost positions (R159, R187, R188) -/

/-- Bolts of a slot that a frame with a valid page uses and that no other bolt replaces. -/
def liveBolts (s : State) (n : Nat) : List Nat :=
  let used := s.med.frames.flatMap fun f => if s.frameValid f = 0 then [] else f.allBolts
  (used.filter fun b => boltSlot b == n && s.aliasNext b == 0xFFFFFFFF).eraseDups

/-- Pages of a slot that lack verified quilt parity (R159). -/
def bareParity (s : State) (n : Nat) : Nat :=
  (s.med.pages.filter fun q v => psaSlot q == n && v.any fun p => countsValid p && (match s.frameOf (boltOf q) with
    | some f => (match f.entryOf q with | some e => !s.sound (f.parityPsa (f.stripe e)) | none => false)
    | none => false)).length

/-- Positions of a group that new frames can use. -/
def groupUp (s : State) (g : Nat) : Nat := (s.present g).length

/-- A position of a planned group is lost (R187, R188): degraded, or a second loss; fewer than 7 positions make the group unavailable (R152). Cartridge loss also loses
the pages without quilt parity (R159). The group's open frames that use the position close, and its programs under way are placed again (log 37). -/
def positionLost (n : Nat) (s : State) : State :=
  let g := n / 8
  if !Nat.testBit s.plan.groups g then s
  else
    let bare := s.bareParity n
    let s1 := if bare = 0 then s else s.fireRec 0x0302 207 (le 1 n ++ le 1 1 ++ le 1 0xFF ++ le 1 0 ++ le 4 bare)
    let st := s1.getF (MED.GROUP_STATUS_STATE g)
    let m := s1.groupMedia g
    let s2 := if st = 2 || st = 3 || st = 4 || st = 5 then
        (if m.second then s1 else (s1.setGroupMedia g { m with second := true }).fire 215)
      else ((s1.setF (MED.GROUP_STATUS_STATE g) 2).setGroupMedia g { m with degradedAt := s1.clk.now, second := false }).fire 202
    let s3 := if s2.groupUp g < 7 then s2.setF (MED.GROUP_STATUS_STATE g) 5 else s2
    (s3.cutFrames n fun p => psaSlot (s3.physPsa p.psa) == n).levelUpdate g

/-! ### Rebuild (R190, R191) -/

/-- A die of another cartridge of the group that holds no other member of the bolt's frame, parity included, and among those dies the least-worn free bolt (R191). -/
def sipBolt (s : State) (b : Nat) : Option Nat :=
  let g := boltSlot b / 8
  let mates := match s.med.frames.find? fun f => f.allBolts.contains b with
    | some f => f.allBolts.map s.aliasOf
    | none => []
  s.leastWorn (((s.groupSlots g).filter fun n => n != boltSlot b && s.cartUp n).flatMap fun n =>
    ((List.range 16).filter fun d => !mates.any fun x => boltSlot x == n && boltDie x == d).filterMap fun d => s.pickBolt n d false true)

/-- Start a rebuild of a slot: onto its new cartridge (source 203) or in place (source 205). -/
def rebuildStart (n : Nat) (sip : Bool) (s : State) : State :=
  let g := n / 8
  let m := s.groupMedia g
  let lost := s.liveBolts n
  let s1 := s.setGroupMedia g { m with lost, rebuild := some (n, sip), rebuildOf := lost.length }
  let s2 := s1.setF (MED.GROUP_STATUS_STATE g) (if sip then 4 else 3)
  let s3 := (((s2.setF MED.REBUILD_STATUS_ACTIVE 1).setFlag MED.REBUILD_STATUS_SIP sip).setF MED.REBUILD_STATUS_SLOT n).setF MED.REBUILD_STATUS_PERMILLE 0
  s3.fire (if sip then 205 else 203)

/-! ### Removal (R189) -/

/-- Every page of the group's frames that use a slot is programmed and covered by quilt parity: the slot is ready for removal (R189, source 214). -/
def removalReady (s : State) (n : Nat) : Bool :=
  let fs := s.med.frames.filter fun f => f.slots.contains n
  fs.all (fun f => s.covered f) && !s.med.progs.any fun p => psaSlot (s.physPsa p.psa) == n

/-- The indicator that the cartridge is to show (Table 12-10). State 4 holds until the cartridge is withdrawn. -/
def indicate (slot st : Nat) (s : State) : State :=
  let c := s.cart slot
  if c.indicator = 4 then s else (s.setCart slot { c with indicator := st }).setF (CAR.STATUS_INDICATOR slot) st

/-- A worn-out or quarantined cartridge, or one with a failed die, asks for replacement (Table 12-10, state 4). -/
def indicateCheck (slot : Nat) (s : State) : State :=
  let c := s.cart slot
  if c.present && (c.quarantined || s.getF (MED.CART_MEDIA_CLASS slot) = 3 || s.getF (MED.CART_MEDIA_FAILED_DIES slot) ≠ 0) then s.indicate slot 4 else s

/-- Slots that are being prepared and have become ready (R416). -/
def removalCheck (s : State) : State :=
  ((List.range 32).filter fun n => (s.cart n).prepared && !(s.flag (CAR.STATUS_READY n)) && s.removalReady n).foldl
    (fun s n => ((s.setF (CAR.STATUS_READY n) 1).indicate n 3).fire 214) s

/-- An LSA page is written at a place (R374): the one it replaces is no longer current. Its SWATCH names LD and page, 32 ld + page (log 50). -/
def lsaPlace (psa : Nat) (p : Page) (s : State) : State :=
  let n := p.selv.swatch / 32
  let l := s.ldOf n
  let s1 := match Tab.get (fun _ => none) l.lsaAt (p.selv.swatch % 32) with | some q => s.dropPage q | none => s
  s1.setLd n { l with lsaAt := Tab.set (fun _ => none) l.lsaAt (p.selv.swatch % 32) (some psa) }

/-- The bytes of an LSA page. -/
def lsaBytes (p : Page) : List Byte := (List.range 64).flatMap fun i => le 64 (p.line i).val.data.toNat

/-- An LSA page has verified: its bytes are in force; the last page of a Set LSA sends its response. -/
def lsaDone (psa : Nat) (p : Page) (s : State) : State :=
  let s1 := s.lsaPlace psa p
  let n := p.selv.swatch / 32
  let l0 := s1.ldOf n
  let l := { l0 with lsa := Tab.setBytes (fun _ => 0) l0.lsa (4096 * (p.selv.swatch % 32)) (lsaBytes p) }
  if l.lsaPend = 0 then s1.setLd n l
  else
    let s2 := s1.setLd n { l with lsaPend := l.lsaPend - 1 }
    if l.lsaPend = 1 then s2.mbDone n 0x4103 0 [] else s2

/-- A summary page is written at a place (R184): it is the current one of its bolt, and one that it replaces is not. -/
def sumPlace (psa : Nat) (p : Page) (s : State) : State :=
  let b := p.selv.swatch
  let s1 := match Tab.get (fun _ => none) s.med.sumAt b with | some q => s.dropPage q | none => s
  s1.modMed fun m => { m with sumAt := Tab.set (fun _ => none) m.sumAt b (some psa) }

/-- A directory page has verified: the one it replaces is not current (R164). -/
def dirPlace (psa : Nat) (s : State) : State :=
  let s1 := match s.xlt.dirAt with | some q => s.dropPage q | none => s
  s1.modXlt fun x => { x with dirAt := some psa }

end State

/-- PAGE_PROGRAM_VERIFIED (R145, R154, R158, R127 for a copy, R259 during a flush): a page other than a patch or an assembly page verifies. -/
def execPageProgramVerified (psa : Nat) (s : State) : Out :=
  match s.progOf psa with
  | none => .next s
  | some p =>
    match p.purpose with
    | .patch | .assembly => .next s
    | .copy old _ =>
      let sw := p.page.selv.swatch
      if p.page.selv.typ = 1 && s.mapHurt sw then .next (s.mapCheck sw)
      else
        let s1 := (s.progEnd psa).storePage psa p.page
        if p.page.selv.typ = 8 then .next (s1.lsaPlace psa p.page).removalCheck.healthCheck
        else if p.page.selv.typ ≠ 1 then
          .next (if Tab.get (fun _ => none) s1.med.sumAt sw = some old then s1.sumPlace psa p.page else s1.dropPage psa).removalCheck.healthCheck
        else if (s1.mapEntry sw).psa = old && !s1.xlt.asm.any (fun a => a.swatch == sw) && (s1.idxOfSwatch sw).isEmpty then
          .next ((s1.mapSwitch sw psa p.page.selv.seq (p.page.selv.poison != 0)).mapFlags sw (p.page.selv.poison != 0)).removalCheck.healthCheck
        else .next (s1.dropPage psa).removalCheck.healthCheck
    | .parity =>
      .next (((s.progEnd psa).storePage psa p.page).bastRelease.perf 45 0x403 none 1).removalCheck.flushAdvance.healthCheck
    | .basting => .next (((s.progEnd psa).storePage psa p.page).perf 45 0x404 none 1).flushAdvance.removalCheck.healthCheck
    | .lsa => .next ((((s.progEnd psa).storePage psa p.page).lsaDone psa p.page).flushAdvance).removalCheck.healthCheck
    | .journal =>
      let s1 := (s.progEnd psa).storePage psa p.page
      .next (if p.page.selv.typ = 3 then s1.dirPlace psa else s1).flushAdvance.removalCheck.healthCheck
    | .image =>
      let s1 := (s.progEnd psa).storePage psa p.page
      .next (if s1.flush.stopped then s1 else s1.sealImageDone).flushAdvance.removalCheck.healthCheck
    | .summary => .next (((s.progEnd psa).storePage psa p.page).sumPlace psa p.page).flushAdvance.removalCheck.healthCheck
    | .filler | .rebuild => .next ((s.progEnd psa).storePage psa p.page).flushAdvance.removalCheck.healthCheck

/-- BASTING_TIMER_EXPIRE (R157): the oldest open set of a cartridge closes 20 µs after its first page. -/
def execBastingTimerExpire (slot : Nat) (s : State) : Out :=
  match s.med.bast.find? fun b => b.slot == slot && !b.pages.isEmpty with
  | some b => .next (s.bastClose b)
  | none => .next s

/-- PAGE_PROGRAM_FAIL (R167, R175). -/
def execPageProgramFail (psa : Nat) (s : State) : Out :=
  match s.progOf psa with
  | some p => if p.purpose == .patch then .next s else .next (s.programFailed p).healthCheck
  | none => .next s

/-- BOLT_RESET_DONE (R145, R146, R164, R186, R163): a bolt that is STALE and that no media read targets (R77) is FREE again. -/
def execBoltResetDone (slot die bolt : Nat) (s : State) : Out :=
  let b := mkBolt slot die bolt
  if !s.med.resets.contains b || s.boltRead b then .next s
  else
    let s1 := s.boltErase b
    let s2 := s1.setLedger b { resets := (s1.ledger b).resets }
    let s3 := ((s2.perf (12 + slot) 0x208 none 1).resetSeen b true).levelUpdate (slot / 8)
    .next (((s3.gaugeUpdate slot).indicateCheck slot).unstick.coldSweep slot).healthCheck

/-- BOLT_RESET_FAIL (R168, R175): the bolt retires. -/
def execBoltResetFail (slot die bolt : Nat) (s : State) : Out :=
  let b := mkBolt slot die bolt
  if !s.med.resets.contains b || s.boltRead b then .next s
  else .next (((((s.boltErase b).perf (12 + slot) 0x208 none 1).retireBolt b).resetSeen b false).indicateCheck slot).healthCheck

/-- GC_COLLECT (R165, R166): one candidate of the group is copied: the largest (E - V) (a + 1), among equal values the lowest frame number. -/
def execGcCollect (group : Nat) (s : State) : Out :=
  if s.flush.stopped || !(s.groupMedia group).collecting then .next s
  else
    let score (f : Frame) : Nat := (f.capacity - s.frameValid f) * (min 15 ((s.xlt.mclk - f.closedAt) / 3600) + 1)
    let best := s.med.frames.foldl (fun (b : Option Frame) f =>
      if f.group == group && State.collectable f && !(List.range f.next).any (fun e => s.copying (f.psa e)) then
        (match b with
          | some x => if score x < score f || (score x = score f && f.number < x.number) then some f else b
          | none => some f)
      else b) none
    match best with
    | some f => .next (s.copyFrame f (fun s => s.nextS group) true).healthCheck
    | none => .next s

/-- REFRESH_RUN (R174): the valid pages of the first frame of series S, A or K that waits are copied; frames of series P, J and C are vacated by PATCH_BOLT_RECLAIM and
REGION_IMAGE_COMPLETE. -/
def execRefreshRun (group : Nat) (s : State) : Out :=
  if s.flush.stopped then .next s
  else
    let q := (s.groupMedia group).refreshq
    match q.findSome? fun n => s.med.frames.find? fun f => f.group == group && f.number == n && State.collectable f with
    | some f => .next (s.copyFrame f (fun s => s.nextS group) false).healthCheck
    | none => .next s

namespace State

/-- One lost bolt is rebuilt (R190, R191): into the bolt with its number on the new cartridge, or where that is retired into the least-worn free bolt of its die; in place, into a bolt of another cartridge.
None where there is no bolt for it. -/
def rebuildOne (n : Nat) (sip : Bool) (b : Nat) (s : State) : Option State :=
  let y := if sip then s.sipBolt b else if (s.ledger b).state = 4 then s.pickBolt n (boltDie b) false true else some b
  y.map fun y => s.moveBolt b b y 8192 false

/-- The lost bolts are rebuilt one after the other; the rebuild in place pauses at the reserve level (R191). The answer lists those that remain. -/
def rebuildAll (g n : Nat) (sip : Bool) (s : State) : State × List Nat :=
  (s.groupMedia g).lost.foldl (fun (acc : State × List Nat) b =>
    if sip && acc.1.groupFree g ≤ acc.1.threshold g 2 then (acc.1, acc.2 ++ [b])
    else match rebuildOne n sip b acc.1 with
      | some s1 => (s1, acc.2)
      | none => (acc.1, acc.2 ++ [b])) (s, [])

end State

/-- REBUILD_COMPLETE (R166, R190, R191): the lost bolts are rebuilt; source 204; after a rebuild onto a new cartridge the group is normal again. Below the low level collection takes
precedence. A rebuild for which bolts are lacking goes on with the next REBUILD_COMPLETE. -/
def execRebuildComplete (group : Nat) (s : State) : Out :=
  let m := s.groupMedia group
  match m.rebuild with
  | none => .next s
  | some (n, sip) =>
    if s.flush.stopped || (s.flag (MED.GROUP_STATUS_BELOW_LOW group) && s.flag (MED.GROUP_STATUS_GC_ACTIVE group)) then .next s
    else
      let (s1, left) := s.rebuildAll group n sip
      let s2 := s1.setGroupMedia group { s1.groupMedia group with lost := left }
      if !left.isEmpty then .next ((s2.setF MED.REBUILD_STATUS_PERMILLE (1000 * (m.rebuildOf - left.length) / max 1 m.rebuildOf)).levelUpdate group).healthCheck
      else
        let s3 := s2.setGroupMedia group { s2.groupMedia group with rebuild := none, rebuildOf := 0, second := false }
        let whole := !sip && (s3.groupSlots group).length = 8
        let s4 := (s3.setF (MED.GROUP_STATUS_STATE group) (if whole then 1 else 2)).groupNow group
        .next ((((s4.setF MED.REBUILD_STATUS_ACTIVE 0).setF MED.REBUILD_STATUS_PERMILLE 1000).fire 204).levelUpdate group).healthCheck

/-- REBUILD_IN_PLACE (R191): a group that has been degraded for SIP_WAIT minutes with SIP_EN set. -/
def execRebuildInPlace (group : Nat) (s : State) : Out :=
  let m := s.groupMedia group
  let gone := (List.range 8).map (8 * group + ·) |>.find? fun n => !(s.cart n).adopted && !(s.liveBolts n).isEmpty
  let early := decide (s.clk.now < m.degradedAt + s.getF MED.REBUILD_CTRL_SIP_WAIT * 60000000000)
  if s.flush.stopped || !s.flag MED.CTRL_SIP_EN || s.getF (MED.GROUP_STATUS_STATE group) ≠ 2 || m.rebuild.isSome || early then .next s
  else match gone with
    | some n => .next (s.rebuildStart n true).healthCheck
    | none => .next s

end Sys2Proof.Machine
end

