-- ==== Sys2Proof/Machine/Write.lean ====
section
/-!
DEFINITION. Host writes: ingress, admission, the merge of partial writes, commit (03, R79 to R84, R94 to R102; 07, R235).
-/
namespace Sys2Proof.Machine

namespace State

/-- The line that a partial write makes from its old line (R83, R84). The second part tells whether the old line's tag failed. -/
def mergeLine (s : State) (r : Req) (old : Line) : Line × Bool :=
  let m := beMask r.be
  let data := (old.data &&& ~~~m) ||| (r.data &&& m)
  let tag := old.tag ^^^ dataTag (old.data &&& m) ^^^ r.wtag
  if old.poison then ({ data, tag, poison := true, origin := old.origin }, false)
  else if tagOk old r.line (s.sharedOf r.line) then ({ data, tag, poison := r.poison, origin := r.origin }, false)
  else ({ data, tag, poison := true, origin := 0 }, true)

/-- Requests that waited for a buffered partial write of their line take the merged line (R86). -/
def releaseWaiting (w : Req) (l : Line) (s : State) : State :=
  (s.reqs.filter fun x => x.stage == .bufwait && x.dep == some w.id).foldl (fun s x =>
    let s1 := if x.isRead then s.perf (sliceOf x.line) 0x003 (some x.ld) 1 else s
    s1.egress { x with dep := none } l .buffer) s

/-- The write is the oldest of its line that has taken its order point and has not committed (R79). Write-through writes that are placed keep their order by their
stamps (R110), so one may follow another. -/
def commitsNext (s : State) (r : Req) : Bool :=
  !((s.reqs.takeWhile fun x => x.id != r.id).any fun x =>
    x.isWrite && x.ordered && x.line == r.line && x.stage != .respond && !(x.stage == .through && s.writesThrough r.line))

/-- A buffered write commits (R80 to R82): in a cache, or write-through as a patch that completes it later; where a dirty victim finds no staging room it
waits (R197), as a write-through write does for a patch page. A write that an unmap has passed stores nothing (R128). After a flush has stopped admission the line becomes a flush patch too (R260). -/
def commitWrite (r : Req) (s0 : State) : State :=
  if r.void then (s0.writeDone r).backDone r
  else
    let s := if !s0.flush.stopped then s0
      else (s0.modFlush fun f => { f with lines := f.lines + 1 }).flushPatches
        [(r.line, { data := r.data, tag := r.wtag, poison := r.poison, origin := r.origin }, none)]
    let through := s.writesThrough r.line
    match s.storeWrite r.line { data := r.data, tag := r.wtag, poison := r.poison, origin := r.origin } r.stream (some r.id) with
    | none => if through then s else s.holdWrite r 1
    | some s1 =>
      if through then s1.setReq { r with stage := .through, through := true } else (s1.writeDone r).backDone r

end State

/-- M2S_RWD_RECEIVED (R81, R83, R94, R229, R235, R283, R351, R383): a write comes in at a host port and its tag is made. -/
def execM2sRwdReceived (port : Nat) (q : M2SRwD) (s : State) : Out :=
  if !s.portOpen port true then .next s
  else
    let (s1, r0) := (s.perf (8 + port) 0x102 (some q.ld) 1).newReq port q.ld
    let part := decide (q.be ≠ BitVec.allOnes 64)
    let r := { r0 with kind := .write, tag := q.tag, mv := q.mv, be := q.be, partW := part, poison := q.poison, origin := 1 }
    match q.form with
    | .good =>
      if s1.halted then .next (s1.answerEarly r)
      else match s1.hostDecode port q.ld q.hpa with
        | .error f => .next ((s1.violation port (State.failKind f true) (some q.ld) 0).answerEarly r)
        | .ok line => match s1.memMissing q.ld rightMemWr line with
          | some miss => .next ((s1.deny q.ld 1 miss (s1.keyOf line) (64 * line)).answerEarly { r with line })
          | none =>
            let data := if part then q.data &&& beMask q.be else q.data
            let wtag := if part then dataTag data else carryTag q.data line (s1.sharedOf line)
            let stream := match s1.regionAt line with | some (_, g) => g.streaming | none => false
            let wback := s1.coh.snoops.contains (line, q.ld)
            .next (((s1.putReqs (s1.reqs ++ [{ r with line, data, wtag, stream, wback }])).admitWaiting.bridgeCheck port).creditTake port true)
    | f => .next (s1.badForm port q.ld f)

/-- WRITE_ADMISSION (R79, R98, R99, R181, R276): a write takes its order point and enters the write buffer, or a write that waits there tries
again. It has an effect on a write that no older request to its line precedes, while the buffer has room and no flush has stopped admission. -/
def execWriteAdmission (rid : Nat) (hbm : HbmRead) (s : State) : Out :=
  match s.reqOf rid with
  | none => .next s
  | some r =>
    if !r.isWrite || s.flush.stopped then .next s
    else if r.stage == .dispatch && (r.wback || s.isNext r) && decide (s.wbufLen (sliceOf r.line) < 64) then
      .next ((s.writeOrderPoint r hbm).backDone r).healthCheck
    else if r.stage == .hold && r.why != 1 then .next ((s.writeProceed r hbm).backDone r).healthCheck
    else .next s

/-- PARTIAL_WRITE_MERGE (R83, R84). -/
def execPartialWriteMerge (rid : Nat) (s : State) : Out :=
  match s.reqOf rid with
  | none => .next s
  | some r => match r.old with
    | none => .next s
    | some old =>
      if r.stage != .merge then .next s
      else
        let (l, failed) := s.mergeLine r old
        let s1 := if failed then
          (((s.countF SCB.TAG_FAIL_MERGE 1).tagFailLast r.line r.ld r.path.code true).tagFailRecord 0x0502 129 r.line r.path.code (some r.ld))
          else s
        let r1 := { r with stage := .buffered, data := l.data, wtag := l.tag, poison := l.poison, origin := l.origin }
        .next ((s1.setReq r1).releaseWaiting r1 l)

/-- WRITE_COMMIT (R80). -/
def execWriteCommit (rid : Nat) (s : State) : Out :=
  match s.reqOf rid with
  | none => .next s
  | some r => if r.stage == .buffered && s.commitsNext r then .next (s.commitWrite r).flushAdvance.healthCheck else .next s

/-- STAGING_WAIT_END (R197): the slice's staging has room again; the commits that waited for it may proceed. -/
def execStagingWaitEnd (slice : Nat) (s : State) : Out :=
  if s.stagingLen slice < 786432 then
    let go (r : Req) : Req := if r.stage == .hold && r.why == 1 && sliceOf r.line == slice then { r with stage := .buffered } else r
    .next ((s.putReqs (s.reqs.map go)).modCache fun c => { c with wait230 := c.wait230.filter (· != slice) })
  else .next s

/-- SLC.LAT_CTRL.CLEAR is written. -/
def State.latClear (slice : Nat) (s : State) : State := (s.setF (SLC.RD_LAT_MAX_NS slice) 0).setF (SLC.WR_LAT_MAX_NS slice) 0

/-- LAT_CLEAR (R102). -/
def execLatClear (m slice : Nat) (s : State) : Out :=
  .next (s.regAction m (0x200010 + 0x8000 * slice) true (State.latClear slice))

end Sys2Proof.Machine
end

