-- ==== Sys2Proof/Machine/Cache.lean ====
section
/-!
DEFINITION. The Lining and the Pincushion (06): ageing, PIN fills, disabling, locks and the register forms of maintenance.
-/
namespace Sys2Proof.Machine

namespace State

/-! ### Lines as one step of their slice (R211) -/

/-- The buffered writes of a line whose order points precede a step of its slice commit before it. -/
def commitLine (line : Nat) (s : State) : State :=
  ((s.reqs.filter fun r => r.stage == .buffered && r.line == line).map (·.id)).foldl (fun s id => match s.reqOf id with
    | some r => if s.commitsNext r then s.commitWrite r else s
    | none => s) s

/-- A write of the line has passed its order point and has not taken effect, so that no step of the slice may pass it (R211). A write-through write that is placed counts as
a write-back (R212). -/
def writesOpen (s : State) (line : Nat) : Bool :=
  s.reqs.any fun r => r.isWrite && r.ordered && r.line == line && !r.void && r.stage != .respond && r.stage != .through

/-- A write-back may release the line: it is clean, or its slice's staging has room. -/
def roomToRelease (s : State) (line : Nat) : Bool := !s.dirtyIn line || s.stagingRoom line

/-- A line is valid in a cache. -/
def heldIn (s : State) (line : Nat) : Bool := (s.findWay line).isSome || (s.findPent line).isSome

/-- Lines are discarded whose write-backs are in force; a line that a later write has made dirty stays (R211, R212). -/
def discardClean (lines : List Nat) (s : State) : State := lines.foldl (fun s l => if s.dirtyIn l then s else s.discardCached l) s

/-! ### Locks (R207, R208) -/

/-- Locked ways of a set, locked-invalid ones included. -/
def lockedWays (s : State) (set : Nat) : Nat := ((List.range 16).filter fun w => (s.way (16 * set + w)).lock).length
/-- Locked entries of the Pincushion, locked-invalid ones included. -/
def lockedEntries (s : State) : Nat := (s.cache.pcu.filter fun _ e => e.lock).length

/-- Lock a way; false where R207 forbids it. -/
def lockWay (k : Nat) (s : State) : State × Bool :=
  let w := s.way k
  if w.lock then (s, true)
  else if 4 ≤ s.lockedWays (k / 16) then (s, false)
  else (s.setWay k { w with lock := true }, true)

/-- Lock an entry; false where R207 forbids it. -/
def lockEntry (n : Nat) (s : State) : State × Bool :=
  let e := s.pent n
  if e.lock then (s, true)
  else if 48 ≤ s.lockedEntries then (s, false)
  else (s.setPent n { e with lock := true }, true)

/-- Unlock a way (R208); a locked-invalid one becomes free. -/
def freeWay (k : Nat) (s : State) : State :=
  let w := s.way k
  s.setWay k (if w.valid then { w with lock := false } else { val := w.val })

/-- The UNLOCK form of a line (R208): its way, or a locked-invalid way that held it. -/
def unlockLine (line : Nat) (s : State) : State × Bool :=
  match ((List.range 16).map (16 * liningSet s.order line + ·)).find? fun k => (s.way k).lock && (s.way k).line == line with
  | some k => (s.freeWay k, true)
  | none => (s, false)

/-- What came of locking a line (R209). -/
inductive Locked where
  | done | limit | unread | wait | inPcu | off
deriving DecidableEq, Repr

/-- Lock the way that holds a line (R207). -/
def lockHeld (k : Nat) (s : State) : State × Locked := match s.lockWay k with
  | (s1, true) => (s1, .done)
  | (s1, false) => (s1, .limit)

/-- The line's victim way can be taken: it is not dirty, or staging has room for it (R197). -/
def victimRoom (s : State) (line : Nat) : Bool := let w := s.way (s.victim line); !(w.valid && w.dirty) || s.stagingRoom w.line

/-- Fetch a line into the Lining by a read at its slice, and lock its way (R209). -/
def fetchLock (line : Nat) (ld : Option Nat) (stream : Bool) (s : State) : State × Locked :=
  if (s.findPent line).isSome then (s, .inPcu)
  else if s.linOff then (s, .off)
  else match s.findWay line with
    | some k => (s.touchWay k (stream || s.streamRegion line)).lockHeld k
    | none =>
      if !s.victimRoom line then (s, .wait)
      else match s.readLine line ld stream false with
        | (s1, .wait) => (s1, .wait)
        | (s1, .bad _) => (s1, .unread)
        | (s1, .line l _) => match s1.install line l false (stream || s1.streamRegion line) with
          | some s2 => match s2.findWay line with
            | some k => s2.dirtyChanged.lockHeld k
            | none => (s2, .unread)
          | none => (s1, .wait)

/-! ### Register operations (Tables 06-13 to 06-15) -/

/-- A register operation ends at once with a result. -/
def opEnd (pcu : Bool) (res : Nat) (s : State) : State :=
  if pcu then ((s.setF PCU.OP_STATUS_BUSY 0).setF PCU.OP_STATUS_DONE 1).setF PCU.OP_STATUS_RESULT res
  else ((s.setF LIN.OP_STATUS_BUSY 0).setF LIN.OP_STATUS_DONE 1).setF LIN.OP_STATUS_RESULT res

/-- The register operation in progress of a cache. -/
def opNow (s : State) (pcu : Bool) : Option CacheOp := if pcu then s.cache.pcuOp else s.cache.linOp
def setOpNow (pcu : Bool) (o : Option CacheOp) (s : State) : State :=
  if pcu then s.modCache fun c => { c with pcuOp := o } else s.modCache fun c => { c with linOp := o }

/-- The step of one line of a maintenance operation (R211 to R213): its line is released, discarded, or both in turn; it is put off while a write before it has not taken
effect, or staging has no room. -/
def opLine (o : CacheOp) (l : Nat) (s0 : State) : State × CacheOp :=
  let s := s0.commitLine l
  if s.writesOpen l || (o.op != 2 && !s.roomToRelease l) then (s, { o with todo := o.todo ++ [l] })
  else if o.op = 2 then (s.discardCached l, o)
  else
    let s1 := (s.release l).1
    (s1, { o with waits := o.waits ++ s1.backsOf l, discard := if o.op = 3 && s.heldIn l then o.discard ++ [l] else o.discard })

/-- An entry leaves the Pincushion as a whole (R214); lines that later writes have made dirty keep it. -/
def freeEntry (n : Nat) (s : State) : State :=
  let e := s.pent n
  if e.lines.any fun l => l.2.dirty then s else s.setPent n (if e.lock then { lock := true } else {})

/-- A LOCK by DPA ends, or waits for its line. -/
def opLock (line : Nat) (s : State) : State := match s.fetchLock line none false with
  | (s1, .wait) => s1
  | (s1, .done) => (s1.setOpNow false none).opEnd false 0
  | (s1, .limit) => ((s1.setOpNow false none).fire 229).opEnd false 1
  | (s1, .unread) => (s1.setOpNow false none).opEnd false 6
  | (s1, .inPcu) => (s1.setOpNow false none).opEnd false 5
  | (s1, .off) => (s1.setOpNow false none).opEnd false 4

/-- A register operation goes on: the steps of its lines come, and when the write-backs it waits for are in force it discards what CLEAN_INVALIDATE names and ends (R212). -/
def opFinish (pcu : Bool) (s : State) : State :=
  match s.opNow pcu with
  | none => s
  | some o =>
    if o.op = 4 then s.opLock (o.todo.headD 0)
    else
      let (s1, o1) := o.todo.foldl (fun (a : State × CacheOp) l => a.1.opLine a.2 l) (s, { o with todo := [] })
      let o2 := { o1 with waits := o1.waits.filter s1.backOpen }
      if !o2.todo.isEmpty || !o2.waits.isEmpty then s1.setOpNow pcu (some o2)
      else
        let s2 := (s1.setOpNow pcu none).discardClean o2.discard
        ((match o2.entry with | some n => s2.freeEntry n | none => s2).opEnd pcu 0).dirtyChanged

/-- Start an operation on lines, and on the entry that it takes as a whole. -/
def opStart (pcu : Bool) (op : Nat) (lines : List Nat) (entry : Option Nat) (s : State) : State :=
  (s.setOpNow pcu (some { op, todo := lines, entry })).opFinish pcu

/-- Whether a master may use the register forms of INVALIDATE and CLEAN_INVALIDATE (R215). -/
def mayInvalidate (s : State) (m : Nat) : Bool := isMgmt m || s.hasRight m rightDebug

/-- LIN.WAY_STATE of a way (Table 06-16). -/
def wayState (k : Nat) (s : State) : State :=
  let w := s.way k
  let b (p : Bool) : Nat := if p then 1 else 0
  let v := liningTag s.order w.line * 2 ^ 16 + b w.valid * 2 ^ 15 + b w.dirty * 2 ^ 14 + b w.val.poison * 2 ^ 13 + b w.lock * 2 ^ 12
    + b w.ref * 2 ^ 11 + w.age * 2 ^ 9 + b (w.valid && (s.stagedOf w.line).isSome) * 2 ^ 8
  s.setReg 0x140034 (BitVec.ofNat 32 (if w.valid then v else b w.lock * 2 ^ 12))

/-- A lock result: 1 with source 229 where R207 forbids the lock. -/
def lockEnd (pcu ok : Bool) (s : State) : State := if ok then s.opEnd pcu 0 else (s.fire 229).opEnd pcu 1

/-- A register operation of the Lining by master m (Tables 06-12 to 06-15); discarded while one runs. -/
def linOperate (op m : Nat) (bySetWay : Bool) (s : State) : State :=
  if s.flag LIN.OP_STATUS_BUSY then s
  else if op = 0 then s
  else
    let s0 := ((s.setF LIN.OP_STATUS_BUSY 1).setF LIN.OP_STATUS_OP_LAST op).setF LIN.OP_STATUS_RESULT 0
    let line := s.getF LIN.OP_ADDR_LO_DPA + 2 ^ 26 * s.getF LIN.OP_ADDR_HI_DPA
    let k := 16 * s.getF LIN.OP_SETWAY_SET + s.getF LIN.OP_SETWAY_WAY
    if op = 7 then s0.opEnd false 3
    else if (op = 2 || op = 3) && !s.mayInvalidate m then s0.opEnd false 2
    else if bySetWay && liningSets s.order ≤ s.getF LIN.OP_SETWAY_SET then s0.opEnd false 3
    else if !bySetWay && !s.decoded none line then s0.opEnd false 7
    else
      let inPcu := !bySetWay && (s.findPent line).isSome
      if (if inPcu then s.pcuOff else s.linOff) then s0.opEnd false 4
      else if inPcu && (op = 4 || op = 5) then s0.opEnd false 5
      else
        let w := s.way k
        let target := if bySetWay then (if w.valid then some w.line else none) else some line
        match op with
        | 1 | 2 | 3 => s0.opStart false op target.toList none
        | 4 =>
          if !bySetWay then s0.opStart false 4 [line] none
          else if w.valid then (s0.lockWay k).1.lockEnd false (s0.lockWay k).2
          else s0.opEnd false 6
        | 5 => (if bySetWay then s0.freeWay k else (s0.unlockLine line).1).opEnd false 0
        | _ => match (if bySetWay then some k else s.findWay line) with
          | some k => (s0.wayState k).opEnd false 0
          | none => (s0.setReg 0x140034 0).opEnd false 0

/-- Lines of an entry in the slices where it is valid. -/
def entryLines (s : State) (n : Nat) : List Nat :=
  ((List.range 64).map (64 * (s.pent n).swatch + ·)).filter fun l => Nat.testBit (s.pent n).valid (sliceOf l)

/-- A register operation of the Pincushion on an entry by master m. -/
def pcuOperate (op m n : Nat) (s : State) : State :=
  if s.flag PCU.OP_STATUS_BUSY then s
  else if op = 0 then s
  else
    let s0 := ((s.setF PCU.OP_STATUS_BUSY 1).setF PCU.OP_STATUS_OP_LAST op).setF PCU.OP_STATUS_RESULT 0
    if 6 ≤ op || 64 ≤ n then s0.opEnd true 3
    else if (op = 2 || op = 3) && !s.mayInvalidate m then s0.opEnd true 2
    else if s.pcuOff then s0.opEnd true 4
    else
      let e := s.pent n
      let held := e.valid != 0
      match op with
      | 1 => s0.opStart true 1 (s.entryLines n) none
      | 2 | 3 => s0.opStart true op (s.entryLines n) (if held then some n else none)
      | 4 => if held then (s0.lockEntry n).1.lockEnd true (s0.lockEntry n).2 else s0.opEnd true 6
      | _ => (s0.setPent n (if held then { e with lock := false } else {})).opEnd true 0

/-! ### PIN fills and disabling (R199, R219, R220) -/

/-- LD of the PIN that fills an entry. -/
def pinLd (s : State) (n : Nat) : Option Nat :=
  (s.spl.ops.find? fun o => o.desc.op == 0x07 && o.status.isNone && o.desc.src / 4096 + o.next / 64 == (s.pent n).swatch).bind fun o =>
    if o.owner < 16 then some o.owner else none

/-- A read of the line would have to wait now: for a merge, a map block or a bucket. -/
def readWaits (s : State) (line : Nat) : Bool :=
  (s.buffered line).any (·.unmerged) || (s.mapHurt (swatchOf line) || Tab.get (fun _ => false) s.xlt.bucketBad (homeBucket (swatchOf line)))

/-- A slice of the entry's victim leaves: its dirty lines go to staging (R206); none where they have no room there. -/
def victimLeave (n slice : Nat) (s : State) : Option State :=
  let k := 64 + n
  let e := s.pent k
  let mine (i : Nat) : Bool := sliceOf (64 * e.swatch + i) == slice
  let dirty := e.lines.filter fun i l => mine i && l.dirty
  if !Nat.testBit e.valid slice then some s
  else if 786432 < s.stagingLen slice + dirty.length then none
  else
    let out (s : State) (i : Nat) : State :=
      let line := 64 * e.swatch + i
      let s1 := s.copyOut line
      s1.stage line (s1.pline k line).val true
    let s1 := (List.map (·.1) dirty).foldl out s
    let valid := e.valid - 2 ^ slice
    some (s1.setPent k (if valid = 0 then {} else { e with valid, lines := e.lines.filter fun i _ => !mine i }))

/-- A line moves into the entry that its slice fills (R199): from its way, with its state, else by a read; what cannot be read is left without a value (log 22). -/
def pinLine (n : Nat) (ld : Option Nat) (s : State) (l : Nat) : State :=
  let s1 := match s.findWay l with
    | some _ => let (a, inj) := s.injCached l; if inj then (a.lineError l).1 else a
    | none => s
  match s1.findWay l with
  | some k => (s1.dropWay k).setPline n l { val := (s1.way k).val, dirty := (s1.way k).dirty }
  | none => match s1.readLine l ld false false with
    | (s2, .line v _) => s2.setPline n l { val := v }
    | (s2, _) => s2.setPline n l { gone := true }

/-- One slice's step of a fill: its eight lines move into the entry; it waits for staging room (R206) and for its lines. -/
def pinSlice (n slice : Nat) (s : State) : State :=
  let mine := ((List.range 64).map (64 * (s.pent n).swatch + ·)).filter fun l => sliceOf l == slice
  match s.victimLeave n slice with
  | none => s.stagingSlice slice
  | some s1 =>
    if mine.any fun l => (s1.findWay l).isNone && s1.readWaits l then s1
    else
      let s2 := mine.foldl (pinLine n (s1.pinLd n)) s1
      let valid := (s2.pent n).valid ||| 2 ^ slice
      s2.setPent n { s2.pent n with valid, filling := decide (valid ≠ 255) }

/-- The lines of a disabled or disabling cache that are still to be written back, and the staging entries it released. -/
def disableOpen (s : State) (pcu : Bool) : Bool :=
  s.cache.staging.any (fun t => t.fromPcu == pcu) || (if pcu then s.dirtyPcu != 0 else s.dirtyLining != 0)

/-- The procedure of R219 ends: every line is invalidated, ENABLED clears, source 228. -/
def disableDone (pcu : Bool) (s : State) : State :=
  if s.disableOpen pcu then s
  else if pcu then (((s.modCache fun c => { c with pcu := [] }).setF PCU.STATUS_DISABLING 0).setF PCU.STATUS_ENABLED 0).fire 228
  else
    let slots (t : Tab Way) : Tab Way := Tab.filter (fun _ w => w != {}) (t.map fun _ w => { val := w.val })
    (((s.modCache fun c => { c with lining := slots c.lining }).setF LIN.STATUS_DISABLING 0).setF LIN.STATUS_ENABLED 0).fire 228

/-- What ENABLE in force does at a seam (R219, R220): 0 starts the procedure of an enabled cache, with its locks and lock ranges gone; 1 enables a disabled cache, empty. -/
def cacheSeam (pcu : Bool) (s : State) : State :=
  let en := if pcu then s.flag PCU.CTRL_ENABLE else s.flag LIN.CTRL_ENABLE
  let on := if pcu then s.flag PCU.STATUS_ENABLED else s.flag LIN.STATUS_ENABLED
  let dis := if pcu then s.flag PCU.STATUS_DISABLING else s.flag LIN.STATUS_DISABLING
  if dis then s
  else if on && !en then
    let unWay (w : Way) : Way := if w.valid then { w with lock := false } else { val := w.val }
    let unEnt (e : PEntry) : PEntry := if e.valid != 0 || e.filling then { e with lock := false } else {}
    let s1 := if pcu then
        (s.modCache fun c => { c with pcu := Tab.filter (fun _ e => e != {}) (c.pcu.map fun _ e => unEnt e) }).setF PCU.STATUS_DISABLING 1
      else (s.modCache fun c => { c with
        lining := Tab.filter (fun _ w => w != {}) (c.lining.map fun _ w => unWay w), lockRanges := [] }).setF LIN.STATUS_DISABLING 1
    let empty := if pcu then s1.cache.pcu.all fun e => e.2.valid == 0 else s1.cache.lining.all fun e => !e.2.valid
    if empty then s1.disableDone pcu else s1
  else if !on && en then (if pcu then s.setF PCU.STATUS_ENABLED 1 else s.setF LIN.STATUS_ENABLED 1)
  else s

/-- A write of LIN.OP_CMD that names an operation. -/
def linCmd (op m : Nat) (bySetWay : Bool) (s : State) : State := s.regAction m 0x14002c true (linOperate op m bySetWay)
/-- A write of PCU.OP_CMD that names an operation. -/
def pcuCmd (op m n : Nat) (s : State) : State := s.regAction m 0x150010 true (pcuOperate op m (n % 64))

end State

/-- AGEING_TICK (R205, R232): both caches and the Thimble age at once. -/
def execAgeingTick (s : State) : Out :=
  let ageWay (w : Way) : Way := if !w.valid then w else if w.ref then { w with age := 0, ref := false } else { w with age := min 3 (w.age + 1) }
  let ageEnt (e : PEntry) : PEntry :=
    if e.valid = 0 then e else if e.ref then { e with age := 0, ref := false } else { e with age := min 3 (e.age + 1) }
  let ageTh (e : TEntry) : TEntry :=
    if e.touched then { e with touched := false } else if e.state = 0 then e else { e with age := min 3 (e.age + 1) }
  let s1 := s.modCache fun c => { c with lining := c.lining.map fun _ w => ageWay w, pcu := c.pcu.map fun _ e => ageEnt e }
  .next (s1.modCoh fun c => { c with thimble := Tab.filter (fun _ e => e != {}) (c.thimble.map fun _ e => ageTh e) })

/-- PIN_SLICE_FILL (R199): one slice fills an entry under way. -/
def execPinSliceFill (entry slice : Nat) (s : State) : Out :=
  let e := s.pent entry
  if !e.filling || 8 ≤ slice || Nat.testBit e.valid slice || s.pcuOff then .next s
  else .next (s.pinSlice entry slice).dirtyChanged.healthCheck

/-- CACHE_DISABLE_COMPLETE (R219): nothing that a disabling cache released or holds dirty remains. -/
def execCacheDisableComplete (pcu : Bool) (s : State) : Out :=
  if (if pcu then s.flag PCU.STATUS_DISABLING else s.flag LIN.STATUS_DISABLING) then .next (s.disableDone pcu) else .next s

/-- LIN_CLEAN (R211, R212). -/
def execLinClean (m : Nat) (bySetWay : Bool) (s : State) : Out := .next (s.linCmd 1 m bySetWay)
/-- LIN_INVALIDATE (R213 to R215). -/
def execLinInvalidate (m : Nat) (bySetWay : Bool) (s : State) : Out := .next (s.linCmd 2 m bySetWay)
/-- LIN_CLEAN_INVALIDATE (R212, R215). -/
def execLinCleanInvalidate (m : Nat) (bySetWay : Bool) (s : State) : Out := .next (s.linCmd 3 m bySetWay)
/-- LIN_LOCK (R207, R208). -/
def execLinLock (m : Nat) (bySetWay : Bool) (s : State) : Out := .next (s.linCmd 4 m bySetWay)
/-- LIN_UNLOCK (R208). -/
def execLinUnlock (m : Nat) (bySetWay : Bool) (s : State) : Out := .next (s.linCmd 5 m bySetWay)
/-- LIN_READ_WAY (Tables 06-13, 06-16). -/
def execLinReadWay (m : Nat) (bySetWay : Bool) (s : State) : Out := .next (s.linCmd 6 m bySetWay)
/-- LIN_RESERVED_OP (Table 06-13): result 3. -/
def execLinReservedOp (m : Nat) (bySetWay : Bool) (s : State) : Out := .next (s.linCmd 7 m bySetWay)

/-- PCU_CLEAN (R211, R212). -/
def execPcuClean (m entry : Nat) (s : State) : Out := .next (s.pcuCmd 1 m entry)
/-- PCU_INVALIDATE (R214, R215). -/
def execPcuInvalidate (m entry : Nat) (s : State) : Out := .next (s.pcuCmd 2 m entry)
/-- PCU_CLEAN_INVALIDATE (R212, R215). -/
def execPcuCleanInvalidate (m entry : Nat) (s : State) : Out := .next (s.pcuCmd 3 m entry)
/-- PCU_LOCK (R207, R208). -/
def execPcuLock (m entry : Nat) (s : State) : Out := .next (s.pcuCmd 4 m entry)
/-- PCU_UNLOCK (R208). -/
def execPcuUnlock (m entry : Nat) (s : State) : Out := .next (s.pcuCmd 5 m entry)
/-- PCU_RESERVED_OP (Table 06-13): values 6 and 7 give result 3. -/
def execPcuReservedOp (m op entry : Nat) (s : State) : Out := .next (s.pcuCmd (if op = 6 then 6 else 7) m entry)

/-- MAINTENANCE_DONE (R212): a register operation whose write-backs are in force completes. -/
def execMaintenanceDone (pcu : Bool) (s : State) : Out := .next (s.opFinish pcu)

end Sys2Proof.Machine
end

