-- ==== Sys2Proof/Machine/Codes.lean ====
section
/-!
DEFINITION. The codes and the codewords that the cells of a media page hold (04, R121; 09, R285, R288, R289, R291), as a raw read returns them (R317).
-/
namespace Sys2Proof.Machine

/-! ### Reed-Solomon over GF(2^9) (R288) -/

/-- Product in GF(2^m) whose primitive polynomial is `red`. -/
def gfMulIn (m red a b : Nat) : Nat :=
  let step (acc : Nat × Nat) (i : Nat) : Nat × Nat :=
    let (r, x) := acc
    let r := if Nat.testBit b i then r ^^^ x else r
    let x := 2 * x
    (r, if Nat.testBit x m then x ^^^ red else x)
  ((List.range m).foldl step (0, a)).1

/-- GF(2^9), x^9 + x^4 + 1 (R288). -/
def gf9 : Nat → Nat → Nat := gfMulIn 9 0x211
/-- GF(2^10), x^10 + x^3 + 1 (R390). -/
def gf10 : Nat → Nat → Nat := gfMulIn 10 0x409

/-- α^i. -/
def gfAlpha (mul : Nat → Nat → Nat) : Nat → Nat
  | 0 => 1
  | i + 1 => mul (gfAlpha mul i) 2

/-- The generator polynomial with roots α^1 to α^n, highest coefficient first. -/
def rsGen (mul : Nat → Nat → Nat) : Nat → List Nat
  | 0 => [1]
  | n + 1 =>
    let g := rsGen mul n
    let a := gfAlpha mul (n + 1)
    List.zipWith (fun x y => x ^^^ mul a y) (g ++ [0]) (0 :: g)

/-- The n check symbols of data symbols, systematic, symbol 0 the highest coefficient. -/
def rsChecks (mul : Nat → Nat → Nat) (n : Nat) (data : List Nat) : List Nat :=
  let g := (rsGen mul n).drop 1
  let step (reg : List Nat) (d : Nat) : List Nat :=
    let f := d ^^^ reg.headD 0
    List.zipWith (fun x y => x ^^^ mul f y) (reg.drop 1 ++ [0]) g
  data.foldl step (List.replicate n 0)

/-- Symbols of 9 bits of a number. -/
def symbolsOf (n v : Nat) : List Nat := (List.range n).map fun j => v / 512 ^ j % 512

/-- The number whose 9-bit symbols are given, symbol 0 in the lowest bits. -/
def ofSymbols (l : List Nat) : Nat := l.foldr (fun x a => x % 512 + 512 * a) 0

/-- A codeword of k data symbols and 16 check symbols (RS(80,64), RS(40,24)) as bits. -/
def codeword (k data : Nat) : Nat :=
  let d := symbolsOf k data
  ofSymbols (d ++ rsChecks gf9 16 d)

/-- The side bytes of a 72-B slot under the HBM block code RS(64,57), bits [62:0] (R292): check symbol 57 + m in bits [9m+8:9m]. Symbol 56 holds data bits [511:504]. -/
def hbmSide (data : BitVec 512) : Nat :=
  ofSymbols (rsChecks gf9 7 (symbolsOf 57 data.toNat))

/-! ### Stored bits -/

/-- The 32 carry words of a line (R27) as 576 bits. -/
def carryBits (d : BitVec 512) (tag : BitVec 64) : Nat :=
  (List.range 32).foldr (fun n a => (d.toNat / 2 ^ (16 * n) % 2 ^ 16 + 2 ^ 16 * (tag.toNat / 2 ^ (2 * n) % 4)) + 2 ^ 18 * a) 0

/-- The 576 stored bits of a line slot: ciphertext and masked tag (R285), or the plain bits under key ID 0. -/
def storedBits (m : MLine) (line : Nat) : Nat :=
  if m.keyId = 0 then carryBits m.val.data m.val.tag
  else
    let i := lineTweak line m.epoch
    carryBits (xtsEnc m.key i m.val.data) (m.val.tag ^^^ tagMask m.key i)

/-- The line whose address enters the cipher of a page's line slot. -/
def slotLine (p : Page) (slot : Nat) : Nat :=
  if p.selv.typ = 1 then 64 * p.selv.swatch + slot else ((p.dir[slot]?).map (·.line)).getD 0

/-! ### Metadata lines (R115): plain text, as numbers of 512 bits, bit 0 in bit 0 of byte 0 -/

/-- The number whose fields of `w` bits are given, the first in the lowest bits. -/
def packFields (w : Nat) (l : List Nat) : Nat := l.foldr (fun x a => x % 2 ^ w + 2 ^ w * a) 0

/-- A directory entry (Table 04-3). -/
def dirBits (e : DirEntry) : Nat :=
  e.line % 2 ^ 39 + 2 ^ 39 + 2 ^ 40 * e.poison.toNat + 2 ^ 41 * (e.keyId % 256) + 2 ^ 49 * (e.epoch % 256) + 2 ^ 57 * (e.delta % 2 ^ 16)

/-- A map entry (Table 04-1). -/
def mapBits (e : MapEntry) : Nat := e.psa % 2 ^ 34 + 2 ^ 34 * e.present.toNat + 2 ^ 35 * e.poison.toNat

/-- Bits [111:0] of a journal record (Table 04-8). -/
def jrecBits : JRec → Nat
  | .mapSet sw psa t poison => 1 + 2 ^ 4 * sw + 2 ^ 37 * psa + 2 ^ 71 * poison.toNat + 2 ^ 72 * t
  | .unmap sw n t => 2 + 2 ^ 4 * sw + 2 ^ 37 * n + 2 ^ 72 * t
  | .regionImage copy r psa t => 3 + 2 ^ 4 * (r + 2 ^ 32 * copy.toNat) + 2 ^ 37 * psa + 2 ^ 72 * t
  | .clock mclk t => 4 + 2 ^ 37 * mclk + 2 ^ 72 * t

/-- The CHECK of a journal record: the low 16 bits of the CRC-32C of its first 14 bytes. -/
def jrecCheck (r : JRec) : Nat := crc32c (le 14 (jrecBits r)) % 2 ^ 16

/-- A line of a checkpoint page: bytes of the map region (R103), or seal-table entries of 16 bytes, the swatch in the low 8 and the mask in the high 8 (log 34). -/
def imageLine (p : Page) (region slot : Nat) : Nat :=
  if region = 1023 then packFields 128 (((p.seals.drop (4 * slot)).take 4).map fun e => e.1 + 2 ^ 64 * e.2.toNat)
  else
    let base := 2 ^ 26 * region + 4096 * p.refs.headD 0 + 64 * slot
    packFields 8 ((List.range 64).map fun k => mapBits (Tab.get (fun _ => {}) p.map ((base + k) / 5)) / 256 ^ ((base + k) % 5))

/-- A line of a summary page: slots 0 to 31 hold the granule bitmap, slot 32 the bolt's fields (R184). -/
def summaryLine (p : Page) (slot : Nat) : Nat :=
  if slot < 32 then (p.refs.drop 7).foldl (fun a g => if g / 512 = slot then a ||| 2 ^ (g % 512) else a) 0
  else if slot = 32 then
    let f (k : Nat) : Nat := p.refs.getD k 0
    f 0 % 2 ^ 21 + 2 ^ 32 * (f 1 % 2 ^ 32) + 2 ^ 64 * (f 2 % 2 ^ 32) + 2 ^ 96 * (f 3 % 2 ^ 8) + 2 ^ 128 * (f 4 % 2 ^ 32) + 2 ^ 160 * (f 5 % 2 ^ 32) + 2 ^ 192 * (f 6 % 2 ^ 16)
  else 0

namespace State

/-- A line of a journal page: four records of 16 bytes, padding where there are no more. The CHECK of a record that is damaged is a free value. -/
def journalLine (s : State) (p : Page) (slot : Nat) : Nat :=
  packFields 128 ((List.range 4).map fun i => match p.recs[4 * slot + i]? with
    | none => 0
    | some r => jrecBits r + 2 ^ 112 * (if p.badRec = some (4 * slot + i) then s.freeVal % 2 ^ 16 else jrecCheck r))

/-- The plain text of a metadata line of a page; none for a slot that holds a line of data. -/
def metaLine (s : State) (p : Page) (slot : Nat) : Option (BitVec 512) :=
  let bits (n : Nat) : Option (BitVec 512) := some (BitVec.ofNat 512 n)
  if p.selv.typ = 2 then
    if slot < 56 then none else bits (packFields 73 (((p.dir.drop (7 * (slot - 56))).take 7).map dirBits))
  else if p.selv.typ = 3 then bits (packFields 8 ((p.refs.flatMap (le 3 ·) |>.map (·.toNat)).drop (64 * slot) |>.take 64))
  else if p.selv.typ = 4 then bits (imageLine p (p.selv.swatch % 1024) slot)
  else if p.selv.typ = 5 then bits (s.journalLine p slot)
  else if p.selv.typ = 6 then bits (summaryLine p slot)
  else if p.selv.typ = 7 then bits (packFields 8 ((p.refs.drop (64 * slot)).take 64))
  else none

/-- Stored bits of a line slot of a page that is no parity page: a metadata line carries the CRC of its bytes alone (R115). -/
def ownBits (s : State) (p : Page) (slot : Nat) : Nat := match s.metaLine p slot with
  | some d => carryBits d (dataTag d)
  | none => storedBits (Page.line p slot) (slotLine p slot)

/-- The stored members of a parity or basting page. -/
def memberPages (s : State) (p : Page) : List Page := p.refs.filterMap fun psa => s.pageThere psa

/-- Stored bits of a line slot of a page: a parity page and a basting page hold the XOR of their members' slots (R154, R157). -/
def slotBits (s : State) (p : Page) (slot : Nat) : Nat :=
  if p.selv.typ = 9 || p.selv.typ = 10 then (s.memberPages p).foldl (fun a q => a ^^^ s.ownBits q slot) 0 else s.ownBits p slot

/-- Bits [191:0] of a selvage (Table 04-4). -/
def selvageLow (x : Selvage) : Nat :=
  x.typ % 16 + 2 ^ 4 * (x.swatch % 2 ^ 33) + 2 ^ 37 * (x.seq % 2 ^ 40) + 2 ^ 77 * (x.keyId % 256) + 2 ^ 85 * (x.epoch % 256) + 2 ^ 93 * (x.stripe % 8)
    + 2 ^ 96 * (x.age % 2 ^ 32) + 2 ^ 128 * x.poison.toNat

/-- The 216 bits of a page's selvage with its CHECK over them and the 64 stored lines (R121). -/
def selvageBits (s : State) (p : Page) : Nat :=
  let low := selvageLow p.selv
  let bytesOf (n v : Nat) : List Nat := (List.range n).map fun i => v / 256 ^ i % 256
  low + 2 ^ 192 * crc24 (bytesOf 24 low ++ (List.range 64).flatMap fun i => bytesOf 72 (s.slotBits p i))

/-- Manifest data of a basting page (R157): the member count in bits [3:0], member m's PSA in bits [34m + 37:34m + 4]. -/
def manifestBits (p : Page) : Nat := p.refs.length % 16 + 2 ^ 4 * packFields 34 p.refs

/-- Cells 15,480 to 15,719 of a page (Table 05-2, R291): the XOR of the members' selvage codewords in a quilt parity page, the manifest codeword in a basting page; else unprogrammed. -/
def tailCells (s : State) (p : Page) : Nat :=
  if p.selv.typ = 9 then (s.memberPages p).foldl (fun a q => a ^^^ codeword 24 (s.selvageBits q)) 0
  else if p.selv.typ = 10 then codeword 64 (manifestBits p)
  else 0

/-- The page whose cells a raw read finds: a page of a frame, or one of copy B of the Hamper (R515). -/
def anyPage (s : State) (psa : Nat) : Option Page := (s.pageAt psa).orElse fun _ => s.hamPageAt psa

/-- The codeword that the cells of a line slot (64: the selvage) hold, damage included; erased cells hold zeros (R290). -/
def rawCells (s : State) (psa slot : Nat) : Nat := match s.anyPage psa with
  | none => 0
  | some p =>
    if slot = 64 then codeword 24 (s.selvageBits p) ^^^ (if p.selv.check then 0 else s.freeVal % 2 ^ 360)
    else codeword 64 (s.slotBits p slot) ^^^ (Page.line p slot).damage.toNat

/-- The cells of a page as READ_PAGE and PROGRAM carry them (Table 12-6): cells 0 to 15,719, 3 bits a cell from bit 0, 5,895 bytes. -/
def pageBytes (s : State) (p : Page) : List Byte :=
  ((List.range 64).flatMap fun j => le 90 (codeword 64 (s.slotBits p j))) ++ le 45 (codeword 24 (s.selvageBits p)) ++ le 90 (s.tailCells p)

/-- The codeword that was programmed. -/
def rawWord (s : State) (psa slot : Nat) : Nat := match s.anyPage psa with
  | none => 0
  | some p => if slot = 64 then codeword 24 (s.selvageBits p) else codeword 64 (s.slotBits p slot)

end State

end Sys2Proof.Machine
end

