-- ==== Sys2Proof/Machine/Coherence.lean ====
section
/-!
DEFINITION. Coherent sharing (07): answers of hosts, the conflict queue, snoop timeouts, suspect sets, the sweep after a loss.
-/
namespace Sys2Proof.Machine

namespace State

/-- COH.OP with GO = 1 (R244): every suspect set, or one, is cleared; the other fields are stored. -/
def suspectClear (v : Nat) (s : State) : State :=
  let s1 := (s.setF COH.OP_ALL (v / 2 ^ 30)).setF COH.OP_SET v
  if v / 2 ^ 31 % 2 = 0 then s1
  else
    let s2 := s1.modCoh fun c => { c with suspect := if v / 2 ^ 30 % 2 = 1 then [] else c.suspect.filter (· != v % 2 ^ 21) }
    s2.setF COH.STATUS_SUSPECT (min 65535 s2.coh.suspect.length)

/-- A master that R244 and R306 let write the registers they name. -/
def mgmtOrDebug (s : State) (m : Nat) : Bool := isMgmt m || s.hasRight m rightDebug

/-- A slice's conflict queue may take requests again; the episode of source 643 ends below 256. -/
def conflictRoom (k : Nat) (s : State) : State :=
  if s.conflLen k < 256 then (s.modCoh fun c => { c with full643 := Tab.set (fun _ => false) c.full643 k false }).admitWaiting
  else s

/-- A request that has passed its order point (R237). -/
def passed (r : Req) : Bool := r.ordered || !(r.stage == .bridge || r.stage == .dispatch || r.stage == .conflict)

end State

/-- BIRSP_RECEIVED (R236): the response of an LD that was snooped for the line; any other response breaks the protocol (Table 11-6, kind 5). -/
def execBirspReceived (port ld line : Nat) (rsp : BIRsp) (s : State) : Out :=
  if (s.ldOf ld).port == some port && s.coh.snoops.contains (line, ld) then .next (s.snoopAnswer line ld rsp).healthCheck
  else .next (s.violation port 5 (some ld) line)

/-- BICONFLICT_RECEIVED (R237): acknowledged after the response of the request where that has passed its order point, else at once. -/
def execBiconflictReceived (port ld line : Nat) (s : State) : Out :=
  match s.reqs.find? fun r => r.port == port && r.ld == ld && r.line == line with
  | none => .next (s.violation port 5 (some ld) line)
  | some r =>
    if State.passed r then .next (s.modCoh fun c => { c with acks := c.acks ++ [(r.id, port, ld)] })
    else .next (s.emit (.biConflictAck port ld line))

/-- CONFLICT_QUEUE_LEAVE (R238): the first request of the slice's queue whose line is not busy leaves; its order point is that moment. -/
def execConflictQueueLeave (slice : Nat) (s : State) : Out :=
  match s.reqs.find? fun r => r.stage == .conflict && sliceOf r.line == slice && !s.lineBusy r.line && s.isNext r with
  | none => .next s
  | some r =>
    if r.isWrite && (s.flush.stopped || decide (64 ≤ s.wbufLen slice)) then .next s
    else if r.isWrite then .next ((s.writeOrderPoint r {}).conflictRoom slice).healthCheck
    else .next ((s.orderPoint r {}).conflictRoom slice).healthCheck

/-- SNOOP_TIMEOUT (R241). -/
def execSnoopTimeout (line ld : Nat) (s : State) : Out :=
  if !s.coh.snoops.contains (line, ld) then .next s
  else
    let s1 := (s.setF COH.SNP_STALL_LO_DPA (line % 2 ^ 26)).setF COH.SNP_STALL_HI_DPA (line / 2 ^ 26)
    .next (((s1.setF COH.SNP_STALL_HI_LD ld).setF COH.SNP_STALL_HI_VALID 1).fire 640)

/-- SUSPECT_CLEAR (R244): a write of COH.OP. -/
def execSuspectClear (m : Nat) (v : Word) (s : State) : Out :=
  .next (s.regAction m 0x1a0030 (s.mgmtOrDebug m) (State.suspectClear v.toNat))

/-- SHARER_SWEEP_DONE (R245): every entry has met the losses. -/
def execSharerSweepDone (s : State) : Out :=
  if s.coh.lost.isEmpty then .next s
  else
    let s1 := s.coh.thimble.foldl (fun s e => s.applyLosses e.1) s
    .next ((s1.modCoh fun c => { c with lost := [] }).setF COH.STATUS_SWEEP 0).dirtyChanged.healthCheck

end Sys2Proof.Machine
end

