-- ==== Sys2Proof/Machine/Interrupt.lean ====
section
/-!
DEFINITION. Interrupt-controller commands, edge latches, rate seconds and the SMBus address (18, 19).
-/
namespace Sys2Proof.Machine

/-- The sources of the latched inputs (R531): 0 PFW_N, 2 group ring, 32 + n CPRSNT_N[n], 64 + n CATTN_N[n]. -/
def latchSource (i : Nat) : Option Nat :=
  if i = 0 then some 55 else if i = 2 then some 56
  else if 32 ≤ i && i < 64 then some (256 + 8 * (i - 32))
  else if 64 ≤ i && i < 96 then some (256 + 8 * (i - 64) + 1)
  else none

/-- The visible flag of a latched input (Table 18-9). -/
def latchFld (i : Nat) : Fld :=
  if i < 32 then ⟨0x50010, i, 1⟩ else if i < 64 then ⟨0x50014, i - 32, 1⟩ else ⟨0x50018, i - 64, 1⟩

/-- The order in which the latched inputs are posted (R531). -/
def latchOrder : List Nat := [0] ++ (List.range 32).map (· + 32) ++ (List.range 32).map (· + 64) ++ [2]

namespace State

/-- A quiet episode begins where none runs: the episode flags clear (R530). -/
def quietBegin (s : State) : State :=
  if s.intc.quiet then s else s.putIntc { s.intc with quiet := true, episode := [], fired54 := false }

/-- Core release posts the latched inputs in the order of R531 and ends the quiet episode; the visible flags stay. -/
def latchPost (s : State) : State :=
  let s1 := s.putIntc { s.intc with quiet := false }
  latchOrder.foldl (fun s i => if s.intc.episode.contains i then
    (match latchSource i with | some n => s.fire n | none => s) else s) s1

/-- Whether master m may write target t's registers (R528). -/
def mayTarget (s : State) (m t : Nat) : Bool :=
  (t < 16 && m == t) || isMgmt m || (m == 37 && s.hasRight 37 rightDebug)

end State

/-- INT_DOORBELL_WRITE (R518 to R521): any master with REG_WR fires a source; a source of group 0 needs DEBUG as well; a
reserved source is discarded. Only the interrupt effects of the firing follow. -/
def execIntDoorbellWrite (m : Nat) (v : Word) (s : State) : Out :=
  let n := v.toNat % 1024
  if s.hasRight m rightRegWr && n < 32 && !s.hasRight m rightDebug then
    .next ((s.deny m 2 rightDebug 0 0x50000).report m 0x50000 .denied)
  else .next (s.regAction m 0x50000 true (State.fire n))

/-- INT_ACK (R522, R523, R528). -/
def execIntAck (m t : Nat) (v : Word) (s : State) : Out :=
  if !s.mayTarget m t then .next ((s.deny m 2 rightDebug 0 (0x51008 + 0x100 * t)).report m (0x51008 + 0x100 * t) .denied)
  else .next (s.regAction m (0x51008 + 0x100 * t) true (State.ackTarget t (v.toNat % 1024)))

/-- ALERT_REASSERT (R524): the gap of 1 µs ends and the next presentable source is presented. -/
def execAlertReassert (s : State) : Out :=
  if s.pins.alertGap then
    .next (((s.putPins { s.pins with alertGap := false }).presentAt 16).driveAlert)
  else .next s

/-- ALERT_RESPONSE (R524): the SMBus target answers the Alert Response Address with its own while SMB_ALERT_N is
asserted. -/
def execAlertResponse (s : State) : Out :=
  if s.pins.smbAlert then .next (s.emit (.smbus [s.smbAddr])) else .next s

/-- SMBUS_ARP (R548): the assigned address holds until AUX33 is removed. -/
def execSmbusArp (addr : Nat) (s : State) : Out :=
  if s.clk.awake then .next (s.putSmbAddr (addr % 128)) else .next s

/-- QUIET_EDGE (R530): an edge while the core is quiet sets both flags of its input, once per episode; the first of the
episode fires source 54. -/
def execQuietEdge (input : Nat) (s : State) : Out :=
  if !s.intc.quiet || !s.clk.awake || s.intc.episode.contains input || !(input = 1 || (latchSource input).isSome) then .next s
  else
    let s1 := (s.putIntc { s.intc with episode := s.intc.episode ++ [input] }).setF (latchFld input) 1
    if s1.intc.fired54 then .next s1
    else .next ((s1.putIntc { s1.intc with fired54 := true }).fire 54)

/-- RATE_SECOND (R559): the limits and counts of a rate second start afresh; every 3,600th ends a rate hour. -/
def execRateSecond (s : State) : Out :=
  let n := s.clk.second + 1
  let hour := n % 3600 = 0
  .next ((s.putClk { s.clk with second := n }).putRate
    { hbmCorr := if hour then [] else s.rate.hbmCorr, hour131 := if hour then [] else s.rate.hour131 })

end Sys2Proof.Machine
end

