-- ==== Sys2Proof/Machine/Keepsake.lean ====
section
/-!
DEFINITION. Tack, Hem and Hamper commands (17).
-/
namespace Sys2Proof.Machine

/-- Device-owned and reserved Hem pages, which a program refuses (Table 17-5, R505). -/
def hemClosed (page : Nat) : Bool := (64 ≤ page && page ≤ 69) || (134 ≤ page && page ≤ 325) || 838 ≤ page

namespace State

/-- A word of a Hem page. -/
def hemWord (s : State) (page i : Nat) : Word := Tab.get (fun _ => 0) s.keep.hem (64 * page + i)

/-- Bytes of n consecutive Hem pages. -/
def hemBytes (s : State) (page n : Nat) : List Byte :=
  (List.range (64 * n)).flatMap fun i => le 4 (Tab.get (fun _ => (0 : Word)) s.keep.hem (64 * page + i)).toNat

/-- First page and number of pages of a calibration block (Table 17-6). -/
def calPages (b : Nat) : Nat × Nat := [(0, 2), (2, 2), (4, 8), (12, 16), (28, 16)].getD b (0, 0)

/-- The check of a calibration block holds (R510). -/
def calOk (s : State) (b : Nat) : Bool :=
  let (page, n) := calPages b
  let bs := s.hemBytes page n
  ofLe ((bs.drop (256 * n - 4)).take 4) == crc32c (bs.take (256 * n - 4))

/-- A calibration block is read (R510): a block whose check fails is replaced by generic values, its bit of CAL_BAD is set and source 868 fires. -/
def calRead (b : Nat) (s : State) : State :=
  let v := s.getF KPS.HEM_CHECK_CAL_BAD
  let others := v - (if Nat.testBit v b then 2 ^ b else 0)
  if s.calOk b then s.setF KPS.HEM_CHECK_CAL_BAD others else (s.setF KPS.HEM_CHECK_CAL_BAD (others + 2 ^ b)).fire 868

/-- Store a word of Hem. -/
def setHem (k : Nat) (v : Word) (s : State) : State :=
  s.putKeep { s.keep with hem := Tab.set (fun _ => 0) s.keep.hem k v }

/-- Store bytes in a Hem page; each word is indivisible, the page is not (R502). -/
def setHemPage (page : Nat) (bs : List Byte) (s : State) : State :=
  (List.range 64).foldl (fun s i =>
    s.setHem (64 * page + i) (BitVec.ofNat 32 (ofLe ((bs.drop (4 * i)).take 4)))) s

/-- A page program that fails its verify or is cut off: each word of the page is old or new (R502), a free choice. -/
def hemTear (j : HemJob) (s : State) : State :=
  let pick := s.freeVal
  (List.range 64).foldl (fun s i => if Nat.testBit pick i then s.setHem (64 * j.page + i) (BitVec.ofNat 32 (ofLe ((j.bytes.drop (4 * i)).take 4))) else s) s.freeStep

/-- Device-made page programs (LD bindings, certificates), which count as Hem programs (Table 17-4 counter 7). -/
def programHem (page : Nat) (bs : List Byte) (s : State) : State := (s.setHemPage page (padTo 256 bs)).lifetime 7

/-- The valid records of copy A at or above the horizon (Table 17-18). -/
def hamAValid (s : State) : Nat := (s.hamAllA.filter fun r => s.ham.horizon ≤ r.seq).length

/-! ### Copy B and the views (R515, R516) -/

/-- Copy B can be read: from step 5 of a start, while the device is not halted, when a replica is readable (R516). -/
def hamBAvail (s : State) : Bool :=
  s.ham.bRead && !s.flag TOP.HALT_HALTED
    && s.ham.bPages.any fun p => (Tab.get (fun _ => ({} : Cart)) s.carts p.slot).adopted

/-- Records of copy B: for each SEQ the first readable replica in ascending group order, primary before mirror; the newest
16,384 (R515, R516). -/
def hamAllB (s : State) : List HamRec :=
  if !s.hamBAvail then []
  else
    let ps := s.ham.bPages.filter fun p => (Tab.get (fun _ => ({} : Cart)) s.carts p.slot).adopted
    hamNewest ((List.range 4).flatMap fun g => [false, true].flatMap fun m => (ps.filter fun p => p.group == g && p.mirror == m).flatMap (·.recs))

/-- A view newest first with where each record comes from: 1 copy A, 2 copy B, 3 both, and whether the pair is ambiguous
(R516, Table 17-22). -/
def hamView (s : State) (view : Nat) : List (HamRec × Nat × Bool) :=
  let a : List HamRec := s.hamAllA.filter fun r => s.ham.horizon ≤ r.seq
  let b : List HamRec := s.hamAllB.filter fun r => s.ham.horizon ≤ r.seq
  let one (from_ : Nat) (l : List HamRec) : List (Nat × (HamRec × Nat × Bool)) :=
    l.foldl (fun t r => Tab.insert t r.seq (r, from_, false)) []
  let keyed : List (Nat × (HamRec × Nat × Bool)) := match view with
    | 1 => one 1 a
    | 2 => one 2 b
    | _ => a.foldl (fun t r => match b.find? (fun q => q.seq == r.seq) with
        | none => Tab.insert t r.seq (r, 1, false)
        | some q => Tab.insert t r.seq (r, if q.bytes60 = r.bytes60 then 3 else 1, decide (q.bytes60 ≠ r.bytes60))) (one 2 b)
  (keyed.map (fun e => e.2)).reverse

/-- The ambiguous pairs of a merged read are recorded once per SEQ and start, with source 865 (R516). -/
def hamAmbiguous (seqs : List Nat) (s : State) : State :=
  seqs.foldl (fun s n =>
    if s.ham.ambig.contains n then s
    else
      let ca := ((s.hamAllA.find? (·.seq == n)).map (·.code)).getD 0
      let cb := ((s.hamAllB.find? (·.seq == n)).map (·.code)).getD 0
      ((s.putHam { s.ham with ambig := s.ham.ambig ++ [n] }).countF HMP.COUNTS_AMBIGUOUS 1).fireRec
        0x0B02 865 (le 6 n ++ le 2 ca ++ le 2 cb)) s

/-! ### Held records (R514, R517) -/

/-- Steps 3 to 5 of a clear once Tack accepts writes (R517): the clear record in copy A and in the horizon record, gathered for copy B;
its SEQ becomes the horizon; the held records follow; source 870 fires. -/
def hamClearWrite (sid : Nat) (r : HamRec) (s : State) : State :=
  let s1 := ((s.hamWriteA r).setTackBytes 0x1220 (r.bytes60)).setTack 0x122F hamMark
  let s2 := s1.hamGatherB r
  let s3 := s2.putHam { s2.ham with horizon := r.seq, clear := none }
  ((s3.fire 870).emit (.spdm sid 0 [ofLe (r.payload.take 4), r.seq])).hamRegs

/-- Write the held Hamper records with HELD set, in order (R514); a dirtied record fires its source now (R276). -/
def hamRelease (s : State) : State :=
  let recs := s.ham.holding
  let s1 := s.putHam { s.ham with holding := [], dropping := false }
  let write (s : State) (r : HamRec) : State :=
    let r' := { r with held := true }
    let s2 := (s.hamWriteA r').hamGatherB r'
    if r.code = 0x0802 then s2.fire 57 else s2
  (recs.foldl write s1).hamRegs

/-- Accumulated lifetime increments are written when writes resume (R504). -/
def lifetimeResume (s : State) : State :=
  let acc := s.keep.acc
  let s1 := s.putKeep { s.keep with acc := [] }
  acc.foldl (fun s e => s.lifetimeWrite e.1 e.2) s1

/-! ### Fault-log ring (R484, R485) -/

end State

/-- A fault-log record as its bytes in mode 0 or 1 (Table 16-5). -/
def FLogRec.bytes (mode : Nat) (r : FLogRec) : List Byte :=
  let kind := r.kind % 16 + (r.attempt - 1) % 8 * 16
  let head := le 2 r.seq ++ le 6 r.time ++ le 1 r.rail ++ le 1 kind
  if mode = 0 then
    let b := head ++ le 2 r.mv
    b ++ le 4 (crc32c b)
  else
    let b := head ++ le 2 r.en ++ le 2 r.pg ++ le 2 0
      ++ (List.range 16).flatMap (fun i => le 2 (r.mvs.getD i 0)) ++ le 2 r.vsin ++ le 2 r.hot ++ le 2 r.pace ++ le 6 0
    b ++ le 4 (crc32c b)

/-- Ring places and words per record of a mode (R484). -/
def flogPlaces (mode : Nat) : Nat := if mode = 0 then 128 else 32
def flogWords (mode : Nat) : Nat := if mode = 0 then 4 else 16

namespace State

/-- The ring in Tack is of the mode in force (Table 17-3). -/
def flogSame (s : State) : Bool := (s.tackWord 0x1230).toNat % 65536 == s.flog.mode + 256 * (255 - s.flog.mode)

/-- The ring is cleared and its mode recorded (R484), as soon as Tack takes the writes. -/
def flogClear (s : State) : State :=
  if s.flogSame || !s.kpsOk then s
  else
    let s1 := (List.range 512).foldl (fun s i => s.setTack (0x1000 + i) 0) s
    s1.setTack 0x1230 (BitVec.ofNat 32 (s.flog.mode + 256 * (255 - s.flog.mode)))

/-- Write a fault-log record at ring position SEQ mod N (R484). -/
def flogWrite (r : FLogRec) (s : State) : State :=
  let m := s.flog.mode
  s.flogClear.setTackBytes (0x1000 + flogWords m * (r.seq % flogPlaces m)) (r.bytes m)

end State

namespace State

/-- A write of a Tack word by a master (R500, R503). -/
def tackStore (w : Nat) (v : Word) (s : State) : State := if s.kpsOk then s.setTack w v else s.refuseWrite

/-- The response of an MCTP write: where it has begun a program, it is sent once that program has ended (R506). -/
def mctpReply (code k : Nat) (s : State) : State := match s.keep.prog with
  | some j => if j.owed.isNone then s.putKeep { s.keep with prog := some { j with owed := some (code, k) } } else s.emit (.mctp code k [])
  | none => s.emit (.mctp code k [])

/-- KPS.HEM_BUF and KPS.HEM_CMD accept writes from the management endpoint only, with HEM_WRITE in its set (R505). -/
def hemAction (m off : Nat) (act : State → State) (s : State) : State :=
  if !s.clk.awake then s
  else if !isMgmt m then s.report m off .busError
  else if !s.hasRight m rightHemWrite then (s.deny m 2 rightHemWrite 0 off).report m off .denied
  else match s.regMissing m off with
    | some b => (s.deny m 2 b 0 off).report m off .denied
    | none => (act s).mctpReply 0 1

/-- GO programs HEM_BUF into a page, stretching SMBus (R506); refusals complete at once with their result (Table 17-13). A write while a program runs is discarded. -/
def hemCmd (page : Nat) (s : State) : State :=
  if s.keep.prog.isSome then s
  else
    let done (r : Nat) (s : State) : State := (s.setF KPS.HEM_STATUS_RESULT r).setF KPS.HEM_STATUS_DONE 1
    if 896 ≤ page then done 6 s
    else if hemClosed page then done 2 s
    else if !s.flag KPS.STATUS_KPV_UP then done 4 s.refuseWrite
    else if !s.flag KPS.STATUS_TEMP_OK then done 3 s.refuseWrite
    else
      let bs := (List.range 64).flatMap fun n => le 4 (s.getF (KPS.HEM_BUF_BYTES n))
      ((s.putKeep { s.keep with prog := some { page, bytes := bs } }).putPins { s.pins with sclHeld := true }).setF KPS.HEM_STATUS_BUSY 1

/-- A write of KPS.HEM_PAGE starts loading a page; behind a program it waits for its end (R507). -/
def hemPageLoad (page : Nat) (s : State) : State :=
  let s1 := (s.setF KPS.HEM_PAGE_PAGE page).setF KPS.HEM_STATUS_LOADING 1
  s1.putKeep { s1.keep with load := some (page % 1024), loadWaits := s1.keep.prog.isSome }

/-- A write of HMP.RD_CTRL: GO fetches the record at INDEX in VIEW (R516). Reserved view 3 finds nothing. -/
def hamperRd (v : Word) (s : State) : State :=
  let s0 := (s.setF HMP.RD_CTRL_VIEW (bits v.toNat 30 29)).setF HMP.RD_CTRL_INDEX (bits v.toNat 13 0)
  if !bit v.toNat 31 then s0
  else
    let view := bits v.toNat 30 29
    let l := if view = 3 then [] else s0.hamView view
    let s1 := if view = 0 then s0.hamAmbiguous ((l.filter (·.2.2)).map (·.1.seq)) else s0
    let s2 := s1.setF HMP.RD_STATUS_DONE 1
    match l[bits v.toNat 13 0]? with
    | none => ((s2.setF HMP.RD_STATUS_FOUND 0).setF HMP.RD_STATUS_AMBIG 0).setF HMP.RD_STATUS_FROM 0
    | some (r, from_, amb) =>
      let bs := r.bytes60 ++ le 4 hamMark.toNat
      let s3 := (List.range 16).foldl (fun s n =>
        s.setReg (0x40040 + 4 * n) (BitVec.ofNat 32 (ofLe ((bs.drop (4 * n)).take 4)))) s2
      ((s3.setF HMP.RD_STATUS_FOUND 1).setFlag HMP.RD_STATUS_AMBIG amb).setF HMP.RD_STATUS_FROM from_

end State

/-- TACK_WRITE (R500, R503): a write outside the user area is a bus error; a write R500 refuses is discarded and counted. -/
def execTackWrite (m w : Nat) (v : Word) (s : State) : Out :=
  .next (s.regAction m (0x34000 + 4 * w) (0x1400 ≤ w && w < 0x2000) (State.tackStore w v))

/-- HEM_PROGRAM (R505, R506, Table 17-13): a write of KPS.HEM_CMD with GO. -/
def execHemProgram (m page : Nat) (s : State) : Out := .next (s.hemAction m 0x30008 (State.hemCmd page))

/-- HEM_PROGRAM_DONE (R502, R506): the page holds the buffer; a failed verify fires source 867. SMB_SCL is released and the MCTP response sent. Every program counts in lifetime counter 7. -/
def execHemProgramDone (verified : Bool) (s : State) : Out :=
  match s.keep.prog with
  | none => .next s
  | some j =>
    let s0 := (s.putKeep { s.keep with prog := none, loadWaits := false }).putPins { s.pins with sclHeld := false }
    let s1 := (s0.setF KPS.HEM_STATUS_BUSY 0).setF KPS.HEM_STATUS_DONE 1
    let reply (s : State) : State := match j.owed with | some (code, k) => s.emit (.mctp code k []) | none => s
    if verified then .next (reply (((s1.setHemPage j.page j.bytes).lifetime 7).setF KPS.HEM_STATUS_RESULT 0))
    else .next (reply ((((s1.hemTear j).lifetime 7).setF KPS.HEM_STATUS_RESULT 5).fire 867))

/-- HEM_PAGE_LOAD (R507): a write of HEM_PAGE starts loading a page; behind a program it waits for its end. -/
def execHemPageLoad (m page : Nat) (s : State) : Out :=
  .next (s.regAction m 0x30010 true (State.hemPageLoad page))

/-- HEM_LOAD_DONE (R507): HEM_DATA holds the page; a page outside Hem reads 0 (log 19). -/
def execHemLoadDone (s : State) : Out :=
  match s.keep.load with
  | none => .next s
  | some page =>
    if s.keep.prog.isSome then .next s
    else
      let s1 := (List.range 64).foldl (fun s n =>
        s.setReg (0x30200 + 4 * n) (if page < 896 then s.hemWord page n else 0)) s
      .next (((s1.putKeep { s1.keep with load := none }).setF KPS.HEM_STATUS_LOADING 0).setF
        KPS.HEM_STATUS_LOADED page)

/-- POWER_ON_HOUR (Table 17-4, R504): lifetime counter 0 counts hours outside state 6. -/
def execPowerOnHour (s : State) : Out :=
  if s.getF TOP.STATE_STATE = 6 then .next s else .next (s.lifetime 0)

/-- HAMPER_PAGE_TIMER (R515): 1 s after its first record the open page of copy B is programmed. -/
def execHamperPageTimer (s : State) : Out := .next s.hamFlushB

/-- HAMPER_READ (R516): RD_CTRL.GO fetches the record at INDEX in VIEW. Reserved view 3 finds nothing. -/
def execHamperRead (m : Nat) (v : Word) (s : State) : Out :=
  .next (s.regAction m 0x40020 true (State.hamperRd v))

/-- HAMPER_CLEAR (R517): needs a secured session whose set holds HAMPER_CLEAR. While Tack refuses writes the clear stays in
progress and HOLDING_BUFFER_WRITE finishes it (log 20). -/
def execHamperClear (sid : Nat) (s : State) : Out :=
  match s.cip.sessions.find? (·.id == sid) with
  | none => .next (s.emit (.spdm sid 1 []))
  | some ss =>
    let m := 33 + ss.cls
    if !s.hasRight m rightHamperClear then
      .next ((s.deny m 4 rightHamperClear 0 0).emit (.spdm sid 1 []))
    else if s.ham.clear.isSome then .next (s.emit (.spdm sid 3 []))
    else
      let n := (s.hamView 0).length
      let payload := le 4 n ++ le 1 ss.cls ++ le 1 ss.root ++ le 1 (if ss.doe then 1 else 0) ++ ss.leaf.take 20
      let r : HamRec :=
        { seq := s.ham.nextSeq, src := 870, time := s.clk.time, code := 0x0B01, unset := !s.clk.timeSet, payload }
      let s1 := s.putHam { s.ham with nextSeq := (s.ham.nextSeq + 1) % 2 ^ 48, clear := some (sid, r) }
      if s.kpsOk then .next (s1.hamClearWrite sid r).hamRelease else .next s1.refuseWrite.hamRegs

/-- HOLDING_BUFFER_WRITE (R485, R504, R514): Tack accepts writes again; what waits is written in order. -/
def execHoldingBufferWrite (s : State) : Out :=
  if !s.kpsOk then .next s
  else
    let s0 := s.keepResume.lifetimeResume
    let s1 := match s0.ham.clear with | some (sid, r) => s0.hamClearWrite sid r | none => s0
    let s2 := s1.hamRelease
    let held := s2.flog.holding
    let s3 := held.foldl (fun s r => s.flogWrite r)
      ((s2.putFlog { s2.flog with holding := [] }) : State).flogClear
    .next ((s3.setF PWS.FLOG_STATUS_HELD 0).setF PWS.FAULT_LAST_HELD 0)

end Sys2Proof.Machine
end

