-- ==== Sys2Proof/Machine/Supervisor.lean ====
section
/-!
DEFINITION. Shared operations of the supervisor island: rails and the fault log (16), AVSBus commands (01), the loss of the core's state, power-up and
power-down, the beginning and the failure of a start (14), triggers of a flush (08).
-/
namespace Sys2Proof.Machine

namespace State

/-- Bit i of a field takes a value. -/
def setBitF (f : Fld) (i : Nat) (b : Bool) (s : State) : State :=
  let v := s.getF f
  s.setF f (if Nat.testBit v i == b then v else if b then v + 2 ^ i else v - 2 ^ i)

/-! ### Rails (R469, Table 16-23) -/

def railEn (s : State) (r : Nat) : Bool := Tab.get (fun _ => false) s.seq.enabled r
def railGood (s : State) (r : Nat) : Bool := Tab.get (fun _ => false) s.seq.good r
def railFaulted (s : State) (r : Nat) : Bool := Tab.get (fun _ => false) s.seq.faulted r
def pgOf (s : State) (r : Nat) : Bool := Tab.get (fun _ => false) s.seq.pgIn r

/-- A power-good input changes; PG_KPV gates the writes of Tack and Hem (R500). -/
def pgSet (r : Nat) (b : Bool) (s : State) : State :=
  let s1 := (s.modSeq fun q => { q with pgIn := Tab.set (fun _ => false) q.pgIn r b }).setBitF PWS.PG_STATUS_PG r b
  let s2 := s1.setFlag (PWS.RAIL_STAT_PG r) b
  if r = 10 then (s2.setFlag KPS.STATUS_KPV_UP b).keepResume else s2

/-- The enable of a rail is asserted. -/
def railOn (r : Nat) (s : State) : State :=
  let s1 := (s.modSeq fun q => { q with enabled := Tab.set (fun _ => false) q.enabled r true }).setBitF PWS.SEQ_STATUS_EN r true
  (s1.setF (PWS.RAIL_STAT_EN r) 1).setF (PWS.RAIL_STAT_STATE r) 1

/-- The enable of a rail is deasserted: the rail no longer runs and its power-good falls. -/
def railOff (r : Nat) (s : State) : State :=
  let off (t : Tab Bool) : Tab Bool := Tab.set (fun _ => false) t r false
  let zero (t : Tab Nat) : Tab Nat := Tab.set (fun _ => 0) t r 0
  let s0 := s.modSeq fun q => { q with
    enabled := off q.enabled, good := off q.good, outRun := zero q.outRun, warnRun := zero q.warnRun, okRun := zero q.okRun }
  let s1 := s0.setBitF PWS.SEQ_STATUS_EN r false
  let s2 := ((s1.setF (PWS.RAIL_STAT_EN r) 0).setF (PWS.RAIL_STAT_WARN r) 0).setF (PWS.RAIL_STAT_STATE r) (if s1.railFaulted r then 3 else 0)
  s2.pgSet r false

/-- Enabled rails. -/
def railsOn (s : State) : List Nat := (List.range 16).filter s.railEn

/-- SEQ_STATUS.STATE follows the sequencer (Table 16-13). -/
def seqState (x : SeqState) (s : State) : State :=
  let n := match x with | .off => 0 | .up => 1 | .on => 2 | .gap => 3 | .down => 4 | .minOff => 5
  (s.modSeq fun q => { q with state := x }).setF PWS.SEQ_STATUS_STATE n

/-- An on request is held, or the held one is cancelled; either fires source 37 (R483). -/
def holdOn (c : Option Nat) (s : State) : State :=
  if s.seq.heldOn == c then s
  else ((s.modSeq fun q => { q with heldOn := c }).setFlag PWS.SEQ_STATUS_ON_HELD c.isSome).fire 37

/-! ### The fault log (R484, R485) -/

/-- Temperature of the hottest die zone, 1/16 °C. -/
def hotDie (s : State) : Int :=
  (List.range 7).foldl (fun (m : Int) z => max m (signed16 (s.getF (THM.ZONE_TEMP (z + 1))))) (signed16 (s.getF (THM.ZONE_TEMP 0)))

/-- A fault-log record of a rail (Table 16-5): written, or held while Tack refuses (source 38); the ninth held record is discarded. -/
def flogRecord (rail kind : Nat) (s : State) : State :=
  let mv := s.getF (PWS.RAIL_STAT_MV rail)
  let att := max 1 (min 8 s.seq.attempt)
  let mvs := (List.range 16).map fun r => s.getF (PWS.RAIL_STAT_MV r)
  let r : FLogRec := { seq := s.flog.nextSeq, time := s.clk.time % 2 ^ 48, rail, kind, attempt := att, mv, en := s.getF PWS.SEQ_STATUS_EN,
                       pg := s.getF PWS.PG_STATUS_PG, mvs, vsin := s.getF PWS.VSIN_RAIL_MV, hot := unsignedOf 16 s.hotDie,
                       pace := s.getF PWS.PACE_STATUS_PACE }
  let n := (s.flog.nextSeq + 1) % 65536
  let s1 := s.modFLog fun l => { l with nextSeq := n }
  let held := !s1.kpsOk || !s1.flog.holding.isEmpty
  let s2 := if !held then s1.flogWrite r
    else if s1.flog.holding.length < 8 then
      (((s1.modFLog fun l => { l with holding := l.holding ++ [r] }).setF PWS.FLOG_STATUS_HELD (s1.flog.holding.length + 1)).refuseWrite).fire 38
    else s1
  let s3 := ((s2.setF PWS.FLOG_STATUS_NEXT_SEQ n).setF PWS.FLOG_STATUS_NEXT (n % flogPlaces s2.flog.mode)).setF PWS.FAULT_LAST_VALID 1
  ((((s3.setFlag PWS.FAULT_LAST_HELD (held && decide (s1.flog.holding.length < 8))).setF PWS.FAULT_LAST_KIND kind).setF PWS.FAULT_LAST_RAIL rail).setF PWS.FAULT_LAST_ATTEMPT att).setF
    PWS.FAULT_LAST_MV mv

/-! ### AVSBus (R17, R25, R475) -/

/-- The VMAX voltage in mV (R17). -/
def vmaxMv (s : State) : Nat := 700 + 5 * min 30 (s.getF PWS.PACE_CTRL_VMAX)
/-- The VMIN voltage in mV (R17). -/
def vminMv (s : State) : Nat := min s.vmaxMv (700 + 5 * min 30 (s.getF PWS.PACE_CTRL_VMIN))

/-- A voltage command goes out on AVSBus. -/
def avsSend (mv : Nat) (s : State) : State :=
  let s1 := s.modPace fun p => { p with avs := { p.avs with pending := some mv, fails := 0, last := mv } }
  ((s1.setF PWS.PACE_VOUT_MV mv).setFlag PWS.PACE_STATUS_AT_CEILING (mv == s.vmaxMv)).emit (.avs mv)

/-! ### The core stops -/

/-- Registers that live on the supervisor island (R50, Table 02-9); SCB.FILL_CTRL keeps TEST from one start to the next (R300). -/
def islandReg (off : Nat) : Bool := off < 0x60000 || (0x70000 ≤ off && off < 0x80000) || off == SCB.FILL_CTRL_TEST.off

/-- Page programs already issued run to completion (Table 14-4). -/
def progsComplete (s : State) : State :=
  s.med.progs.foldl (fun s p => (s.modMed fun m => { m with progs := m.progs.filter fun x => x.psa != p.psa }).storePage p.psa p.page) s

/-- What a cartridge's slot keeps when the core stops: presence, the cartridge and its own contents, a quarantine (R396). -/
def cartRest (c : Cart) : Cart :=
  { present := c.present, ident := c.ident, rsv := c.rsv, store := c.store, indicator := c.indicator, quarantined := c.quarantined }

/-- The core loses its state (R255, R299, R379): requests, caches, tables in HBM, ports and links, spools, ops, key slots. What the media, the cartridges, Hem and Tack
hold stays. -/
def coreStop (s0 : State) : State :=
  let s1 := if s0.plan.group.isSome && s0.running then s0.fenceEnter else s0
  let s := if s1.start.released then s1.timePairWrite else s1
  let x := s.xlt
  let m := s.med
  let xlt : Xlt := { anchors := x.anchors, roster := x.roster, rosterGen := x.rosterGen, jcount := x.jcount, passNo := x.passNo, region := x.region }
  let med : Med := { pages := m.pages, gone := m.gone, ledger := m.ledger, goneLed := m.goneLed, frames := m.frames, failedDies := m.failedDies,
                     groups := m.groups.map fun _ g => { lost := g.lost, nextFrame := g.nextFrame } }
  { s with
    regs := s.regs.filter fun k _ => islandReg k
    shadow := s.shadow.filter fun k _ => islandReg k
    held := s.held.filter fun k _ => islandReg k
    sliceDone := [], sliceReg := [], msixMask := [], msixPend := []
    pace := { s.pace with
      belowFloor := 0, below400 := 0, atLeast400 := 0, atLeast825 := 0, awaitRelease := false, avs := { s.pace.avs with pending := none } }
    bridgeWait := []
    start := { s.start with released := false, filled := false, trained := false }
    ham := { s.ham with bOpen := [], bRead := false }
    ports := [], reqs := [], cache := {}, xlt, med
    lds := s.lds.map fun _ l => { port := (match l.portNext with | some b => b | none => l.port), lsa := l.lsa, lsaAt := l.lsaAt }
    coh := { extents := s.coh.extents }
    flush := {}, integ := {}, dbg := { ir := s.dbg.ir }
    cip := { stores := s.cip.stores, storeGen := s.cip.storeGen }
    links := [], carts := s.carts.map fun _ c => cartRest c
    spl := {}, pmc := {}
    health := [] }

/-! ### Power-up and power-down (R474, R476, R480) -/

/-- A power-up starts with the plan in force (R473, R474): every rail of an earlier attempt is forgotten. -/
def powerUpBegin (s : State) : State :=
  let n := min 8 (s.seq.attempt + 1)
  let used := s.getF PWS.RAIL_USED_USED
  let onUs := (List.range 16).map fun r => s.getF (PWS.RAIL_TIME_ON_US r)
  let s1 := s.modSeq fun q => { q with attempt := n, used, onUs, retries := s.getF PWS.SEQ_CTRL_RETRIES, enabled := [], good := [], faulted := [], stopUp := false, heldOn := none }
  let s2 := (List.range 16).foldl (fun s r => s.setF (PWS.RAIL_STAT_STATE r) 0) (s1.setF PWS.SEQ_STATUS_ON_HELD 0)
  ((s2.seqState .up).setF PWS.SEQ_STATUS_ATTEMPT n).setF TOP.START_STATUS_RAIL_TRIES (min 15 (s.getF TOP.START_STATUS_RAIL_TRIES + 1))

/-- A power-down starts (R480); `after` as in `Seq.after`. Unless a retry or a failed start follows, the device goes to standby: TOP.STATE reads 6 and the start
under way, if any, is abandoned; safe state stays safe state (R49). DEGRADED and COLLAPSE are cleared without source 41 (DESIGN CHOICE, log 53). -/
def powerDownBegin (after : Nat) (s : State) : State :=
  let offUs := (List.range 16).map fun r => s.getF (PWS.RAIL_TIME_OFF_US r)
  let s1 := ((s.coreStop.modSeq fun q => { q with offUs, after, stopUp := false }).seqState .down).quietBegin
  let s2 := s1.setF TOP.STATE_MEM_ACTIVE 0
  let s3 := (s2.setF TOP.FLUSH_STATUS_ACTIVE 0).setF PWS.PACE_STATUS_DEGRADED 0 |>.setF PWS.PACE_STATUS_COLLAPSE 0
  if after ≠ 0 || s.topState = 2 then s3
  else
    let s4 := (s3.setF TOP.STATE_STATE 6).modStart fun _ => { begunAt := s.start.begunAt }
    if s.flag TOP.START_STATUS_FAILED then s4 else (s4.setF TOP.START_STATUS_STEP 0).setF TOP.START_STATUS_WAITING 0

/-- An off request met by a power-up ends the power-up once every enabled rail has power-good or its window has ended (Table 16-4). -/
def stopCheck (s : State) : State :=
  if s.seq.state == .up && s.seq.stopUp && s.railsOn.all (fun r => s.railGood r || s.railFaulted r) then s.powerDownBegin 0 else s

/-- An off request that finds no data to flush (Tables 14-4 and 16-4). -/
def offRequest (s : State) : State :=
  let standby (s : State) : State :=
    let s1 := (s.setF TOP.STATE_STATE 6).modStart fun _ => { begunAt := s.start.begunAt }
    (s1.setF TOP.START_STATUS_STEP 0).setF TOP.START_STATUS_WAITING 0
  match s.seq.state with
  | .up => (s.modSeq fun q => { q with stopUp := true }).stopCheck
  | .gap => (standby s).seqState .minOff
  | .on => s.progsComplete.powerDownBegin 0
  | .down => s
  | .off => if s.topState = 6 then s else standby s
  | .minOff => if s.seq.heldOn.isSome then s.holdOn none else s

/-! ### Starts (R440, R441, R447) -/

/-- A start may begin: AUX33 present, supervisor awake, PORST_N deasserted, not halted (R347), no thermal shutdown latched (R499). -/
def mayStart (s : State) : Bool :=
  s.clk.awake && !s.pins.porst && !s.halted && !s.flag THM.STATUS_CRIT_LATCH && !s.flag THM.STATUS_TRIP_LATCH

/-- Registers and runs that hold until the next start (R14, R488, Tables 14-5 to 14-7, 17-20). -/
def startClear (s : State) : State :=
  let s1 := (List.range 64).foldl (fun s n => s.setF (PWS.PACE_MON_EXCLUDED n) 0) s
  let s2 := (List.range 40).foldl (fun s n => s.setF (THM.SENSOR_SUSPECT n) 0) s1
  let s3 := (s2.modTherm fun t => { t with differ := [], cartOut := [] }).modPace fun p => { p with differ := [] }
  let att := min 255 (s.getF TOP.START_STATUS_ATTEMPTS + 1)
  let s4 := (s3.setReg TOP.START_STATUS_STEP.off 0).setF TOP.START_STATUS_ATTEMPTS att
  let s5 := (List.range 7).foldl (fun s k => s.setF (TOP.START_STEPS_MS k) 0) s4
  let s6 := ((s5.setReg GRP.COUNTS_BAD.off 0).setReg GRP.FENCED_REQ_LO_COUNT.off 0).setReg GRP.FENCED_REQ_HI_COUNT.off 0
  ((s6.setF TOP.START_TIME_MS 0).setF HMP.COUNTS_AMBIGUOUS 0).setF PWS.PACE_STATUS_EXCL_COUNT 0

/-- A flash command that an AUX33 loss or a start interrupts leaves its slot invalid (R55). -/
def ptuInterrupt (s : State) : State := match s.pat.ptu with
  | none => s
  | some j =>
    let s1 := (s.modPat fun p => { p with ptu := none }).setF TOP.PTU_STATUS_BUSY 0
    if j.cmd = 1 || j.cmd = 2 then s1.modPat fun p => { p with torn := Tab.set (fun _ => false) p.torn j.slot true } else s1

/-- Milliseconds since the start's reference (Table 14-6). -/
def startMs (s : State) : Nat := (s.clk.now - s.start.begunAt) / 1000000

/-- Step k of the start completes; the next begins. -/
def stepDone (k : Nat) (s : State) : State :=
  ((s.setF (TOP.START_STEPS_MS (k - 1)) s.startMs).setF TOP.START_STATUS_STEP (k + 1)).modStart fun t => { t with step := k + 1 }

/-- A start begins (R441): cause 1 AUX33 rose, 2 PORST_N deasserted, 3 PWRREQ.ON, 4 restart under R273. Step 1 is done; step 2 follows. -/
def startBegin (cause : Nat) (s : State) : State :=
  if !s.mayStart then s
  else
    let s1 := s.ptuInterrupt.startClear
    let s2 := ((((s1.putPins { s1.pins with pfo := false }).putClk { s1.clk with timeSet := false }).putHam { s1.ham with ambig := [] }).putStart
      { begunAt := if cause = 1 then 0 else s.clk.now, cause, step := 1 }).modPat fun p => { p with live := [] }
    let s3 := (((s2.modSeq fun q => { q with attempt := 0, heldOn := none, restart := false, pf := false }).setF PWS.SEQ_STATUS_ON_HELD 0).setF TOP.STATE_STATE 1).quietBegin
    let s4 := (s3.lifetime 2).fireRec 0x0101 51 (le 1 cause ++ le 1 (s3.getF TOP.START_STATUS_ATTEMPTS))
    (if cause = 1 then s4.lifetime 1 else s4).stepDone 1

/-- A start cause of R440 other than AUX33 rising arrives (Table 16-4, R67). -/
def onRequest (cause : Nat) (s : State) : State :=
  if !s.mayStart || (s.topState = 2 && cause ≠ 2) then s
  else match s.seq.state with
    | .down | .minOff => if s.seq.heldOn.isSome then s else s.holdOn (some cause)
    | .off => if s.topState = 6 then s.startBegin cause else s
    | .up | .gap | .on => s

/-- A cause of Table 14-3 arises; only the first is shown (R447). A failure that arises while a waiting cause is shown ends the start and is shown once that cause has cleared (log 160). -/
def startCause (c : Nat) (failed : Bool) (s : State) : State :=
  if s.getF TOP.START_STATUS_CAUSE ≠ 0 then
    (if failed && s.start.failed.isNone then s.modStart fun t => { t with failed := some c } else s)
  else
    let s1 := (s.setF TOP.START_STATUS_CAUSE c).setF (if failed then TOP.START_STATUS_FAILED else TOP.START_STATUS_WAITING) 1
    let s2 := s1.modStart fun t => if failed then { t with failed := some c } else { t with waiting := some c }
    s2.fireRec 0x0103 52 (le 1 c ++ le 1 (if failed then 1 else 2) ++ le 1 (s.getF TOP.START_STATUS_STEP))

/-- A waiting cause has cleared (R448). -/
def causeClear (s : State) : State :=
  ((s.setF TOP.START_STATUS_CAUSE 0).setF TOP.START_STATUS_WAITING 0).modStart fun t => { t with waiting := none }

/-! ### Immediate shutdown (R481) and triggers of a flush (R257, R271) -/

/-- An immediate shutdown: PFO_N, source 50 with its record, a power-down with no flush. Reasons of Table 17-8, code 0x0104. -/
def immediateShutdown (reason place : Nat) (s : State) : State :=
  let s1 := (s.modPins fun p => { p with pfo := true }).fireRec 0x0104 50 (le 1 reason ++ le 1 place ++ le 2 (s.getF TOP.FLUSH_EST_US))
  let s2 := s1.modSeq fun q => { q with restart := false }
  if s2.seq.state == .down then s2 else s2.powerDownBegin 0

/-- The code of a flush kind in Table 08-6. -/
def kindCode : FlushKind → Nat
  | .none => 0 | .powerFail => 1 | .gpf => 2 | .group => 3 | .orderly => 4 | .reset => 5

/-- A device-initiated flush that powers down or resets. -/
def deviceFlush (k : FlushKind) : Bool := k == .powerFail || k == .orderly || k == .reset

/-- A trigger is noted in TOP.FLUSH_STATUS.TRIGGERS. -/
def noteTrigger (bit : Nat) (s : State) : State := s.setBitF TOP.FLUSH_STATUS_TRIGGERS bit true

/-- Steps 1 and 2 of Table 08-3 (power-fail): PFO_N, TOP.STATE 4, source 0 with its vectors (R382). -/
def earlyWarning (s : State) : State :=
  ((s.modPins fun p => { p with pfo := true }).setF TOP.STATE_STATE 4).fire 0

/-- A flush begins (R257, R259). -/
def flushBegin (k : FlushKind) (bit : Nat) (s : State) : State :=
  let clean := s.flush.clean
  let s1 := ((s.modFlush fun _ => { kind := k, step := 3, clean }).setF TOP.FLUSH_STATUS_TRIGGERS 0).noteTrigger bit
  let s2 := (s1.setF TOP.FLUSH_STATUS_ACTIVE 1).setF TOP.FLUSH_STATUS_KIND (kindCode k)
  if k == .powerFail then s2.earlyWarning else if deviceFlush k then s2.setF TOP.STATE_STATE 4 else s2

/-- A trigger of a device-initiated flush (Table 08-2), with what Table 08-4 and Table 14-4 give where a flush or a start runs. `restart`: the trigger is PFW_N or VS_IN. While halted no
trigger starts a flush (R258). In safe state a rail fault and a thermal critical power down with no data to flush; PFW_N and VS_IN do nothing (R49). -/
def flushTrigger (k : FlushKind) (bit : Nat) (restart : Bool) (s : State) : State :=
  let note (s : State) : State := s.modSeq fun q => { q with restart, pf := q.pf || k == .powerFail }
  if s.halted then s
  else if s.flush.kind != .none then
    let s1 := s.noteTrigger bit
    if deviceFlush s.flush.kind then (if k == .reset then s1.modFlush fun f => { f with resetHeld := true }
      else s1.modSeq fun q => { q with pf := q.pf || k == .powerFail })
    else match k with
      | .powerFail => ((note s1).modFlush fun f => { f with kind := .powerFail }).setF TOP.FLUSH_STATUS_KIND 1 |>.earlyWarning
      | .reset => s1.modFlush fun f => { f with resetHeld := true }
      | _ => s1.modFlush fun f => { f with offHeld := true }
  else if s.topState = 3 then (note s).flushBegin k bit
  else if k == .powerFail && ((s.topState = 1 && 3 ≤ s.start.step) || s.topState = 4 || (s.topState = 2 && (bit = 2 || bit = 3))) then
    (note ((s.modPins fun p => { p with pfo := true }).fire 0)).offRequest
  else s

/-- A running rail faults (R479): its enable falls at once; fatal rails shut the device down immediately, the others start a flush of kind power-fail. During a flush Table 08-4 holds. -/
def railFault (r kind : Nat) (s : State) : State :=
  let s1 := (s.flogRecord r kind).fire 34
  let s2 := (s1.modSeq fun q => { q with faulted := Tab.set (fun _ => false) q.faulted r true }).railOff r
  if r < 8 then s2.immediateShutdown (if s.flush.kind == .none then 1 else 3) r
  else s2.flushTrigger .powerFail 2 false

end State

end Sys2Proof.Machine
end

