-- ==== Sys2Proof/Machine/Pace.lean ====
section
/-!
DEFINITION. Pace monitors, the latency governor, pace-low and AVSBus (01, R9 to R25).
-/
namespace Sys2Proof.Machine

/-- Neighbours of place n in a grid of w columns and h rows, diagonals included (R14, R488). -/
def gridNeighbours (w h n : Nat) : List Nat :=
  let (r, c) := (n / w, n % w)
  ((List.range h).flatMap fun y => (List.range w).map fun x => y * w + x).filter fun k =>
    k != n && k / w ≤ r + 1 && r ≤ k / w + 1 && k % w ≤ c + 1 && c ≤ k % w + 1

/-- Insert into a rising list. -/
def insertRising (x : Int) : List Int → List Int
  | [] => [x]
  | y :: l => if x ≤ y then x :: y :: l else y :: insertRising x l

/-- Twice the median of a list; the mean of the two middle values where their number is even (R14, R488). -/
def median2 (l : List Int) : Int :=
  let t := l.foldr insertRising []
  let n := t.length
  if n % 2 = 1 then 2 * t.getD (n / 2) 0 else t.getD (n / 2 - 1) 0 + t.getD (n / 2) 0

namespace State

/-- Monitors that are excluded (R14). -/
def monitorOut (s : State) (n : Nat) : Bool := s.flag (PWS.PACE_MON_EXCLUDED n)

/-- The governed pace and the monitor that gives it: the lowest reading among the monitors not excluded, or among all 64 where 8 or more are (R13, R14). Of equal readings the
monitor of the lowest index is named (DESIGN CHOICE, log 48). -/
def governedPace (s : State) : Nat × Nat :=
  let out := ((List.range 64).filter s.monitorOut).length
  ((List.range 64).filter fun n => 8 ≤ out || !s.monitorOut n).foldl (fun (b : Nat × Nat) n =>
    let v := s.getF (PWS.PACE_MON_PACE n)
    if v < b.1 then (v, n) else b) (65536, 0)

/-- A run of consecutive samples goes on or ends. -/
def runOf (b : Bool) (n : Nat) : Nat := if b then n + 1 else 0

/-- The run of a monitor's samples that differ from the median of its judging neighbours by more than 25 % (R14). -/
def monitorRun (s : State) (n : Nat) : Nat :=
  let near := (gridNeighbours 8 8 n).filter fun k => !s.monitorOut k
  if s.monitorOut n || near.length < 3 then 0
  else
    let m := median2 (near.map fun k => (s.getF (PWS.PACE_MON_PACE k) : Int))
    let d := 2 * (s.getF (PWS.PACE_MON_PACE n) : Int) - m
    runOf (decide (m < 4 * d) || decide (m < -(4 * d))) (Tab.get (fun _ => 0) s.pace.differ n)

/-- The governor's target (R15, R24; Table 01-5). -/
def paceTarget (s : State) : Nat := if s.throttled then 850 else clamp 850 1400 (s.getF PWS.PACE_CTRL_TARGET)

/-- Table 01-4, then the limits of R17; VMAX while the governor is off (R19). -/
def governed (s : State) : Nat :=
  let p := s.getF PWS.PACE_STATUS_PACE
  let v := s.pace.avs.last
  let new := if p < 850 then v + 20 else if p + 25 < s.paceTarget then v + 5 else if s.paceTarget + 25 < p then v - 5 else v
  if s.flag PWS.PACE_CTRL_ENABLE then clamp s.vminMv s.vmaxMv new else s.vmaxMv

/-- An AVSBus attempt has failed (R25): the same command again at once; after three failures in a row the hold with source 42. A failed retry of the hold waits for the next. -/
def avsFail (s : State) : State := match s.pace.avs.pending with
  | none => s
  | some mv =>
    let n := s.pace.avs.fails + 1
    if s.flag PWS.PACE_STATUS_AVS_HOLD then s.modPace fun p => { p with avs := { p.avs with pending := none } }
    else if 3 ≤ n then
      ((s.modPace fun p => { p with avs := { p.avs with pending := none, fails := n } }).setF PWS.PACE_STATUS_AVS_HOLD 1).fire 42
    else (s.modPace fun p => { p with avs := { p.avs with fails := n } }).emit (.avs mv)

end State

/-- PACE_SAMPLE (R13, R14, R20, R22, R23): the 64 readings, taken while CORE runs (log 23). -/
def execPaceSample (readings : List Nat) (s : State) : Out :=
  if !s.railGood 0 then .next s
  else
    let s1 := (List.range 64).foldl (fun s n => s.setF (PWS.PACE_MON_PACE n) (min 65535 (readings.getD n 0))) s
    let runs := (List.range 64).foldl (fun t n => Tab.set (fun _ => 0) t n (s1.monitorRun n)) []
    let (p, n) := s1.governedPace
    let s2 := (s1.setF PWS.PACE_STATUS_PACE (min 32767 p)).setF PWS.PACE_STATUS_SLOWEST n
    .next (s2.modPace fun q => { q with
      differ := runs
      belowFloor := State.runOf (p < 800) q.belowFloor
      below400 := State.runOf (p < 400) q.below400
      atLeast400 := State.runOf (400 ≤ p) q.atLeast400
      atLeast825 := State.runOf (825 ≤ p) q.atLeast825 })

/-- MONITOR_EXCLUDED (R14): 1,000 consecutive samples have differed. -/
def execMonitorExcluded (n : Nat) (s : State) : Out :=
  if 64 ≤ n || s.monitorOut n || Tab.get (fun _ => 0) s.pace.differ n < 1000 then .next s
  else
    let s1 := s.setF (PWS.PACE_MON_EXCLUDED n) 1
    .next ((s1.setF PWS.PACE_STATUS_EXCL_COUNT (s1.getF PWS.PACE_STATUS_EXCL_COUNT + 1)).fire 40)

/-- GOVERNOR_DECISION (R16 to R19, R24, R25): from core release on, while no command awaits its acknowledge and commanding is not held. -/
def execGovernorDecision (s : State) : Out :=
  if !s.start.released || s.pace.avs.pending.isSome || s.flag PWS.PACE_STATUS_AVS_HOLD || s.governed = s.pace.avs.last then
    .next (s.setFlag PWS.PACE_STATUS_AT_CEILING (s.pace.avs.last == s.vmaxMv))
  else .next (s.avsSend s.governed)

/-- PACE_LOW_DECLARED (R20, R21): 5 consecutive samples below 800. The admission limits follow DEGRADED. -/
def execPaceLowDeclared (s : State) : Out :=
  if s.pace.belowFloor < 5 || s.paceLow then .next s
  else .next ((s.setF PWS.PACE_STATUS_DEGRADED 1).fire 4).healthCheck

/-- PACE_COLLAPSE (R22): 5 consecutive samples below 400. -/
def execPaceCollapse (s : State) : Out :=
  if s.pace.below400 < 5 || s.flag PWS.PACE_STATUS_COLLAPSE then .next s
  else .next ((s.setF PWS.PACE_STATUS_COLLAPSE 1).fire 5)

/-- COLLAPSE_END (R22): 5 consecutive samples at or above 400; pace-low stays in force. -/
def execCollapseEnd (s : State) : Out :=
  if s.pace.atLeast400 < 5 then .next s else .next (s.setF PWS.PACE_STATUS_COLLAPSE 0)

/-- PACE_LOW_END (R23): 1 ms of samples at or above 825; the normal admission limits are restored. -/
def execPaceLowEnd (s : State) : Out :=
  if s.pace.atLeast825 < 1000 || !s.paceLow then .next s
  else .next (((s.setF PWS.PACE_STATUS_DEGRADED 0).setF PWS.PACE_STATUS_COLLAPSE 0).fire 41).admitWaiting.healthCheck

/-- AVS_ACKNOWLEDGE (R25, R475): the regulator acknowledges the command, or reports a status error. -/
def execAvsAcknowledge (ok : Bool) (s : State) : Out :=
  match s.pace.avs.pending with
  | none => .next s
  | some mv =>
    if !ok then .next s.avsFail
    else
      let s1 := s.modPace fun p => { p with
        avs := { pending := none, fails := 0, last := mv, prev := p.avs.acked, acked := mv }
        awaitRelease := false }
      .next (s1.setF PWS.PACE_STATUS_AVS_HOLD 0)

/-- AVS_ACK_TIMEOUT (R25): no acknowledge within 5 µs. -/
def execAvsAckTimeout (s : State) : Out := .next s.avsFail

/-- AVS_HOLD_RETRY (R25): every 10 ms the last command is sent again. -/
def execAvsHoldRetry (s : State) : Out :=
  if s.flag PWS.PACE_STATUS_AVS_HOLD && s.pace.avs.pending.isNone then .next (s.avsSend s.pace.avs.last) else .next s

end Sys2Proof.Machine
end

