-- ==== Sys2Proof/Machine/Power.lean ====
section
/-!
DEFINITION. Power sequencing and supervision (16, R469 to R486), TOP.PWRREQ (R67), the loss of AUX33 (19, R543).
-/
namespace Sys2Proof.Machine

namespace State

/-- The power-up has succeeded when every used rail has power-good (R474): step 3 of the start is complete. In safe state nothing follows (R48). -/
def powerUpCheck (s : State) : State :=
  if s.seq.state == .up && !s.seq.stopUp && (List.range 16).all (fun r => !Nat.testBit s.seq.used r || s.railGood r) then
    let s1 := s.seqState .on
    if s1.topState = 1 then s1.stepDone 3 else s1
  else s.stopCheck

/-- A rail leaves its window during a power-down, before its off-slot (R482). -/
def lostInDown (r : Nat) (s : State) : State :=
  let s1 := (s.flogRecord r 4).fire 35
  let s2 := s1.modSeq fun q => { q with good := Tab.set (fun _ => false) q.good r false, faulted := Tab.set (fun _ => false) q.faulted r true }
  s2.setF (PWS.RAIL_STAT_STATE r) 3

/-- A rail has left its power-good window (R477, R482). -/
def railLeft (r kind : Nat) (s : State) : State := if s.seq.state == .down then s.lostInDown r else s.railFault r kind

/-- Whether a rail's voltage lies outside nominal ± band, in 0.5 % units (R477, R478). For CORE the nominal is the voltage last acknowledged; while it settles the band is
widened to the previous one. -/
def outside (s : State) (r band : Nat) (settling : Bool) : Bool :=
  let mv := s.getF (PWS.RAIL_STAT_MV r)
  let nom := if r = 0 then s.pace.avs.acked else s.getF (PWS.RAIL_PG_NOM_MV r)
  let (lo, hi) := if r = 0 && settling then (min nom s.pace.avs.prev, max nom s.pace.avs.prev) else (nom, nom)
  200 * mv + nom * band < 200 * lo || 200 * hi + nom * band < 200 * mv

/-- One sample of a running rail (R477, R478). -/
def judgeRail (settling : Bool) (s : State) (r : Nat) : State :=
  if !s.railGood r then s
  else
    let warn := s.getF (PWS.RAIL_LIM_WARN r)
    let fault := s.getF (PWS.RAIL_LIM_FAULT r)
    let outF := fault ≠ 0 && s.outside r fault settling
    let outW := warn ≠ 0 && s.outside r warn settling
    let get (t : Tab Nat) : Nat := Tab.get (fun _ => 0) t r
    let q := s.seq
    let f := State.runOf outF (get q.outRun)
    let w := State.runOf outW (get q.warnRun)
    let o := State.runOf (!outW) (get q.okRun)
    let put (t : Tab Nat) (n : Nat) : Tab Nat := Tab.set (fun _ => 0) t r n
    let s1 := s.modSeq fun q => { q with outRun := put q.outRun f, warnRun := put q.warnRun w, okRun := put q.okRun o }
    let s2 := if 3 ≤ w && !s1.flag (PWS.RAIL_STAT_WARN r) then (s1.setF (PWS.RAIL_STAT_WARN r) 1).fire 36
      else if 3 ≤ o then s1.setF (PWS.RAIL_STAT_WARN r) 0 else s1
    if 3 ≤ f then s2.railLeft r 3 else s2

/-- VS_IN against the sag threshold (Table 08-2, Table 16-15): falling below it triggers a flush of kind power-fail. -/
def judgeSag (s : State) : State :=
  let t := s.getF PWS.VSIN_CTRL_SAG_MV
  let low := t ≠ 0 && decide (s.getF PWS.VSIN_PIN_MV < t)
  let s1 := s.modSeq fun q => { q with sagLow := low }
  if low && !s.seq.sagLow then s1.flushTrigger .powerFail 1 true else s1

/-- AUX33 is gone: what remains is what Tack, Hem, the flash, the media and the cartridges hold. -/
def auxLost (s : State) : State :=
  let c0 := s.ptuInterrupt.coreStop
  let c := match c0.keep.prog with | some j => c0.hemTear j | none => c0
  { State.reset with
    order := c.order, out := c.out, free := c.free, pending := c.pending, nextReq := c.nextReq
    pins := { perst := c.pins.perst, cprsnt := c.pins.cprsnt, cattn := c.pins.cattn, porst := c.pins.porst, pfw := c.pins.pfw, pfo := true }
    keep := { tack := c.keep.tack, hem := c.keep.hem, bindLast := c.keep.bindLast }
    ham := { bPages := c.ham.bPages, bResets := c.ham.bResets }
    pat := { flash := c.pat.flash, keyHash := c.pat.keyHash, torn := c.pat.torn }
    xlt := c.xlt, med := c.med, lds := c.lds, coh := c.coh, cip := c.cip
    carts := c.carts.map fun _ x => { x with quarantined := false }
    setId := c.setId, serials := c.serials }

/-- PWRREQ.OFF is written. Safe state is left only by a cycle of AUX33 or by PORST_N (R49). -/
def offWritten (s : State) : State :=
  if s.topState = 2 then s
  else if !s.halted && (s.topState = 3 || s.flush.kind != .none) then s.flushTrigger .orderly 6 false
  else if s.halted && s.seq.state == .on then s.powerDownBegin 0
  else s.offRequest

end State

/-- PWRREQ_ON (R67, R440, R483): accepted from the management endpoint only. -/
def execPwrreqOn (m : Nat) (s : State) : Out := .next (s.regAction m 0xC (isMgmt m) (State.onRequest 3)).healthCheck

/-- PWRREQ_OFF (R67, R257, R347, R449, R483): an orderly flush while running; otherwise the rails go off with no flush. -/
def execPwrreqOff (m : Nat) (s : State) : Out :=
  .next (s.regAction m 0xC (isMgmt m) State.offWritten).healthCheck

/-- RAIL_ENABLE_SLOT (R469, R474, R476): the rails whose on-delay is `us`, once those of earlier slots are enabled. -/
def execRailEnableSlot (us : Nat) (s : State) : Out :=
  let q := s.seq
  let todo := (List.range 16).filter fun r => Nat.testBit q.used r && !s.railEn r
  if q.state != .up || q.stopUp || todo.any (fun r => q.onUs.getD r 0 < us) then .next s
  else .next ((todo.filter fun r => q.onUs.getD r 0 = us).foldl (fun s r => s.railOn r) s)

/-- POWER_GOOD_RISE (R469, R474, R475): the power-good of CORE brings the VMAX command. -/
def execPowerGoodRise (r : Nat) (s : State) : Out :=
  if 16 ≤ r || !Nat.testBit s.seq.used r then .next s
  else
    let s1 := s.pgSet r true
    if s1.seq.state != .up || !s1.railEn r || s1.railGood r || s1.railFaulted r then .next s1
    else
      let s2 := (s1.modSeq fun q => { q with good := Tab.set (fun _ => false) q.good r true }).setF (PWS.RAIL_STAT_STATE r) 2
      let s3 := if r = 0 then (s2.avsSend s2.vmaxMv).modPace fun p => { p with awaitRelease := true } else s2
      .next s3.powerUpCheck

/-- PG_WINDOW_EXPIRE (R476): the power-up fails; the retry or the end of the start follows its power-down. -/
def execPgWindowExpire (r : Nat) (s : State) : Out :=
  if s.seq.state != .up || !s.railEn r || s.railGood r || s.railFaulted r then .next s
  else
    let s1 := (s.flogRecord r 1).fire 32
    let s2 := (s1.modSeq fun q => { q with faulted := Tab.set (fun _ => false) q.faulted r true }).setF (PWS.RAIL_STAT_STATE r) 3
    if s2.seq.stopUp then .next s2.stopCheck
    else .next (s2.powerDownBegin (if s2.seq.retries + 1 ≤ s2.seq.attempt then 2 else 1))

/-- RETRY_GAP_END (R476). -/
def execRetryGapEnd (s : State) : Out := if s.seq.state == .gap then .next s.powerUpBegin else .next s

/-- RAIL_SAMPLE (R470, R477, R478, R482; Table 08-2 for VS_IN): pin voltages in mV. `settling`: the CORE sample falls within 10 µs after a command was acknowledged. -/
def execRailSample (pins : List Nat) (vsin : Nat) (settling : Bool) (s : State) : Out :=
  if !s.clk.awake then .next s
  else
    let used := s.getF PWS.RAIL_USED_USED
    let read (s : State) (r : Nat) : State :=
      if Nat.testBit used r then s.setF (PWS.RAIL_STAT_MV r) (min 65535 (min 1500 (pins.getD r 0) * s.getF (PWS.RAIL_LIM_SCALE r) / 256)) else s
    let s1 := (List.range 16).foldl read s
    let v := min 1500 vsin
    let s2 := (s1.setF PWS.VSIN_PIN_MV v).setF PWS.VSIN_RAIL_MV (min 65535 (v * s1.getF PWS.VSIN_CTRL_SCALE / 256))
    .next (((List.range 16).foldl (State.judgeRail settling) s2).judgeSag).healthCheck

/-- RAIL_PG_LOST (R477, R482): the power-good of a running rail has been low for 20 µs. -/
def execRailPgLost (r : Nat) (s : State) : Out :=
  if !s.railGood r then .next s else .next ((s.pgSet r false).railLeft r 2).healthCheck

/-- RAIL_DISABLE_SLOT (R480): the enabled rails whose off-delay is `us`, once those of earlier slots are off. -/
def execRailDisableSlot (us : Nat) (s : State) : Out :=
  let q := s.seq
  if q.state != .down || s.railsOn.any (fun r => q.offUs.getD r 0 < us) then .next s
  else .next ((s.railsOn.filter fun r => q.offUs.getD r 0 = us).foldl (fun s r => s.railOff r) s)

/-- POWER_DOWN_END (R273, R476, R480, R483), with the level of `PFW_N` then: the retry gap, or the minimum off time; a power-fail power-down whose cause has gone is followed by a start. -/
def execPowerDownEnd (pfw : Bool) (s0 : State) : Out :=
  let s := s0.modPins fun p => { p with pfw }
  if s0.seq.state != .down || !s0.railsOn.isEmpty then .next s0
  else if s.seq.after = 1 then .next (s.seqState .gap)
  else
    let s1 := if s.seq.after = 2 then (((s.fire 33).startCause 3 true).setF TOP.STATE_STATE 6) else s
    let s2 := (s1.modSeq fun q => { q with after := 0, pf := false }).seqState .minOff
    .next (if s2.seq.restart && !s2.pins.pfw && !s2.seq.sagLow then s2.onRequest 4 else s2).healthCheck

/-- MIN_OFF_END (R483): a held on request starts the device. -/
def execMinOffEnd (s : State) : Out :=
  if s.seq.state != .minOff then .next s
  else
    let s1 := ((s.modSeq fun q => { q with heldOn := none }).setF PWS.SEQ_STATUS_ON_HELD 0).seqState .off
    match s.seq.heldOn with
    | some c => .next (s1.startBegin c)
    | none => .next s1

/-- AUX33_BROWNOUT (R543): all enables fall and PFO_N is asserted; no flush runs and everything on AUX33 is lost. -/
def execAux33Brownout (s : State) : Out := if s.pins.aux33 then .next s.auxLost else .next s

end Sys2Proof.Machine
end

