-- ==== Sys2Proof/Machine/Thermal.lean ====
section
/-!
DEFINITION. Temperature sensors, zones, thresholds and their actions (16, R487 to R499); the write temperature window of a cartridge (12, R409).
-/
namespace Sys2Proof.Machine

namespace State

/-! ### Sensors (R487, R488) -/

/-- Latest reading of a sensor that is read: 0 to 31 die, 32 to 39 HBM, 40 + n the cartridge in slot n. -/
def sensorTemp (s : State) (k : Nat) : Option Int :=
  if k < 40 then Tab.get (fun _ => none) s.therm.temp k else if (s.cart (k - 40)).present then (s.cart (k - 40)).temp else none

/-- The sensor is excluded until the next start. -/
def sensorOut (s : State) (k : Nat) : Bool :=
  if k < 40 then s.flag (THM.SENSOR_SUSPECT k) else Tab.get (fun _ => false) s.therm.cartOut (k - 40)

/-- Neighbours of a sensor (R488). -/
def sensorNear (s : State) (k : Nat) : List Nat :=
  if k < 32 then gridNeighbours 8 4 k
  else if k < 40 then ((List.range 4).map (32 + 4 * ((k - 32) / 4) + ·)).filter (· != k)
  else (((List.range 8).map (8 * ((k - 40) / 8) + ·)).filter fun n => 40 + n != k && (s.cart n).adopted).map (40 + ·)

/-- Run of samples in which a sensor has differed by more than 10 °C from the median of its judging neighbours. -/
def sensorRun (s : State) (k : Nat) : Nat :=
  let near := (s.sensorNear k).filterMap fun j => if s.sensorOut j then none else s.sensorTemp j
  match s.sensorTemp k with
  | none => 0
  | some t =>
    if s.sensorOut k || near.length < 3 then 0
    else
      let d := 2 * t - median2 near
      runOf (decide (320 < d) || decide (d < -320)) (Tab.get (fun _ => 0) s.therm.differ k)

/-! ### Zones (Table 16-7, R489) -/

/-- Class of a zone: 0 die, 1 HBM, 2 cartridge. -/
def zoneClass (z : Nat) : Nat := if z < 8 then 0 else if z < 10 then 1 else 2

/-- Sensors of a zone. -/
def zoneSensors (z : Nat) : List Nat :=
  if z < 8 then [z, z + 8, z + 16, z + 24] else if z < 10 then (List.range 4).map (32 + 4 * (z - 8) + ·) else [30 + z]

/-- Neighbour zones for substitution. -/
def zoneNear (z : Nat) : List Nat :=
  if z < 8 then (if z = 0 then [] else [z - 1]) ++ (if z = 7 then [] else [z + 1])
  else if z < 10 then (List.range 4).map (4 * (z - 8) + ·)
  else ((List.range 8).map (10 + 8 * ((z - 10) / 8) + ·)).filter (· != z)

/-- Highest of some readings. -/
def hottest : List Int → Option Int
  | [] => none
  | t :: l => some (l.foldl max t)

/-- Too many of a zone's sensors are excluded. -/
def zoneOut (s : State) (z : Nat) : Bool :=
  decide ((if z < 10 then 3 else 1) ≤ ((zoneSensors z).filter s.sensorOut).length)

/-- The temperature a zone's own sensors give. -/
def zoneOwn (s : State) (z : Nat) : Option Int :=
  if s.zoneOut z then none else hottest ((zoneSensors z).filterMap fun k => if s.sensorOut k then none else s.sensorTemp k)

/-- A threshold of a class in 1/16 °C. -/
def limitOf (s : State) (f : Nat → Fld) (z : Nat) : Int := 16 * signed8 (s.getF (f (zoneClass z)))

/-- A zone's temperature: its own, or the substitute. -/
def zoneTemp (s : State) (z : Nat) : Option Int :=
  if s.zoneOut z then (hottest ((zoneNear z).filterMap s.zoneOwn)).map (· + 80) else s.zoneOwn z

/-- Zone z reads a cartridge or rails that are there. -/
def zoneRead (s : State) (z : Nat) : Bool := z < 10 || (s.cart (z - 10)).present

/-! ### Levels (R491) -/

/-- Level of a zone with a temperature after one sample (Table 16-29). A cartridge has no throttle level, and its critical level ends below HIGH_WARN (R494). -/
def zoneLevel (s : State) (z : Nat) (t : Int) : Nat :=
  let old := if s.therm.fresh then 0 else s.getF (THM.ZONE_LEVEL z)
  let hy : Int := 16 * (max 1 (s.getF THM.CTRL_HYST) : Nat)
  let low := s.limitOf THM.LIMITS_A_LOW_WARN z
  let high := s.limitOf THM.LIMITS_A_HIGH_WARN z
  let thr := s.limitOf THM.LIMITS_B_THROTTLE z
  let crit := s.limitOf THM.LIMITS_B_CRITICAL z
  let above (l : Nat) (x : Int) : Bool := decide (x ≤ t) || (decide (l ≤ old) && decide (x - hy < t))
  if (if z < 10 then above 4 crit else decide (crit ≤ t) || (old == 4 && decide (high ≤ t))) then 4
  else if z < 10 && above 3 thr then 3
  else if above 2 high then 2
  else if t ≤ low || (old == 1 && decide (t < low + hy)) then 1
  else 0

/-- `THERM_N` (R497). -/
def thermPin (s : State) : State :=
  let on := (List.range 10).any (fun z => 2 ≤ s.getF (THM.ZONE_LEVEL z)) || s.flag THM.STATUS_CRIT_LATCH || s.flag THM.STATUS_TRIP_LATCH
  s.modPins fun p => { p with therm := on && s.flag TOP.GCTRL_THERM_EN }

/-- A die or HBM zone has reached CRITICAL (R493, R496, R499). -/
def thermalCritical (z : Nat) (s : State) : State :=
  let s1 := (s.fire 2).setF THM.STATUS_CRIT_LATCH 1
  let s2 := if s.flag THM.STATUS_CRIT_LATCH then s1 else s1.lifetime 6
  let starting := (s.topState = 1 || s.topState = 2) && 1 ≤ s.start.step && s.start.step ≤ 7
  let s3 := if starting then s2.startCause 10 true else s2
  if s.flush.kind != .none then s3.flushTrigger .powerFail 3 false
  else if s.seq.state == .down || s.seq.state == .off || s.seq.state == .minOff then s3
  else if starting && s.start.step < 4 then s3.offRequest
  else if !s.halted && s.getF TOP.FLUSH_EST_US ≤ 20000 then s3.flushTrigger .powerFail 3 false
  else s3.immediateShutdown 2 z

/-- One zone at one sample: its temperature, its level and what reaching or leaving the level does (Table 16-9, R489, R494). -/
def judgeZone (s : State) (z : Nat) : State :=
  let out := s.zoneOut z
  let t := s.zoneTemp z
  let lone := out && t.isNone
  let wasSub := Tab.get (fun _ => false) s.therm.subst z
  let wasLone := Tab.get (fun _ => false) s.therm.lone z
  let old := s.getF (THM.ZONE_LEVEL z)
  let eff : Option Int := if lone && z < 10 then some (s.limitOf THM.LIMITS_B_THROTTLE z) else t
  let new := if !s.zoneRead z then 0
    else if lone && z < 10 then 3
    else match t with | some x => s.zoneLevel z x | none => if z < 10 then 0 else old
  let put (m : Tab Bool) (b : Bool) : Tab Bool := Tab.set (fun _ => false) m z b
  let s1 := s.modTherm fun m => { m with subst := put m.subst (out && !lone), lone := put m.lone lone }
  let s2 := (s1.setF (THM.ZONE_TEMP z) (unsignedOf 16 (eff.getD 0))).setFlag (THM.ZONE_SUBST z) (out && !lone)
  let s3 := (s2.setFlag (THM.ZONE_UNKNOWN z) (t.isNone && s.zoneRead z)).setF (THM.ZONE_SUSPECT z) ((zoneSensors z).filter s.sensorOut).length
  let s4 := s3.setF (THM.ZONE_LEVEL z) new
  let s5 := if out && !lone && !wasSub then s4.fire 65 else s4
  let s6 := if lone && !wasLone then s5.fire 72 else s5
  let s7 := if new = 1 && old != 1 then s6.fire 69 else s6
  let s8 := if 2 ≤ new && old < 2 then s7.fire 66 else s7
  if new = 4 && old != 4 then (if z < 10 then s8.thermalCritical z else (s8.fire 70).presenceUpdate (z - 10))
  else if z ≥ 10 && old = 4 && new != 4 then (s8.fire 71).presenceUpdate (z - 10) else s8

/-- What follows the levels of all zones: throttle, the die limits of R500, `THM.STATUS`, `THERM_N` (R492, R497). -/
def levelsDone (s : State) : State :=
  let level (z : Nat) : Nat := s.getF (THM.ZONE_LEVEL z)
  let temp (z : Nat) : Int := signed16 (s.getF (THM.ZONE_TEMP z))
  let read := (List.range 10).filter fun z => !s.flag (THM.ZONE_UNKNOWN z) || level z != 0
  let hot := read.foldl (fun a z => if temp a < temp z then z else a) 0
  let thr := (List.range 10).any fun z => 3 ≤ level z
  let was := s.throttled
  let s1 := ((s.setFlag THM.STATUS_THROTTLE thr).setFlag THM.STATUS_WARN ((List.range 10).any fun z => 2 ≤ level z)).setFlag
    THM.STATUS_LOW ((List.range 42).any fun z => level z == 1)
  let s2 := (s1.setF THM.STATUS_HOT_ZONE hot).setF THM.STATUS_HOT_TEMP (unsignedOf 16 (temp hot))
  let s3 := (s2.setFlag KPS.STATUS_TEMP_OK ((List.range 8).all fun z => -160 ≤ temp z && temp z ≤ 1520)).keepResume
  let s4 := if thr && !was then s3.fire 67 else if !thr && was then (s3.fire 68).admitWaiting else s3
  (s4.modTherm fun m => { m with fresh := false }).thermPin

/-! ### The write temperature window (R409) -/

/-- Cartridge n is in its window or not: each change fires its source, and the flush estimate follows. -/
def setWindow (n : Nat) (b : Bool) (s : State) : State :=
  let c := s.cart n
  if c.inWindow == b then s
  else (((s.setCart n { c with inWindow := b }).setFlag (CAR.STATUS_WIN n) b).fire (256 + 8 * n + 6)).flushUpdate

/-- Temperature of cartridge n under R409: its latest STATUS reading, or the substitute of its zone. -/
def cartTemp (s : State) (n : Nat) : Option Int := s.zoneTemp (10 + n)

/-- One sample of cartridge n: it leaves below 5 °C, above 80 °C or unknown; it enters from 7 °C to 78 °C, after a refusal not before 1 s. -/
def judgeWindow (s : State) (n : Nat) : State :=
  let c := s.cart n
  if !c.present then s
  else
    let s1 := s.setF (CAR.STATUS_TEMP n) (unsignedOf 16 ((s.cartTemp n).getD 0))
    let s2 := s1.setCart n { c with refused := c.refused.map (· + 1) }
    match s.cartTemp n with
    | none => s2.setWindow n false
    | some t =>
      if t < 80 || 1280 < t then s2.setWindow n false
      else if !c.inWindow && 112 ≤ t && t ≤ 1248 && (match c.refused with | none => true | some k => decide (1000 ≤ k + 1)) then
        (s2.setCart n { s2.cart n with refused := none }).setWindow n true
      else s2

end State

/-- THERMAL_SAMPLE (R487 to R497, R409): the supervisor reads every sensor, in 1/16 °C; those of the HBM stacks while rails 5 to 7 are up. -/
def execThermalSample (die hbm : List Int) (s : State) : Out :=
  if !s.clk.awake then .next s
  else
    let hbmUp := s.railGood 5 && s.railGood 6 && s.railGood 7
    let clip (x : Int) : Int := max (-32768) (min 32767 x)
    let read (k : Nat) : Option Int := if k < 32 then some (clip (die.getD k 0)) else if hbmUp then some (clip (hbm.getD (k - 32) 0)) else none
    let temp := (List.range 40).foldl (fun t k => Tab.set (fun _ => none) t k (read k)) []
    let s1 := (List.range 40).foldl (fun s k => s.setF (THM.SENSOR_TEMP k) (unsignedOf 16 ((read k).getD 0))) (s.modTherm fun m => { m with temp })
    let runs := (List.range 72).foldl (fun t k => Tab.set (fun _ => 0) t k (s1.sensorRun k)) []
    let s2 := s1.modTherm fun m => { m with differ := runs }
    let s3 := ((List.range 42).foldl State.judgeZone s2).levelsDone
    .next ((List.range 32).foldl State.judgeWindow s3).healthCheck

/-- SENSOR_SUSPECT (R488): 50 consecutive samples have differed. -/
def execSensorSuspect (sensor : Nat) (s : State) : Out :=
  if 72 ≤ sensor || s.sensorOut sensor || Tab.get (fun _ => 0) s.therm.differ sensor < 50 then .next s
  else if sensor < 40 then .next ((s.setF (THM.SENSOR_SUSPECT sensor) 1).fire 64)
  else .next ((s.modTherm fun m => { m with cartOut := Tab.set (fun _ => false) m.cartOut (sensor - 40) true }).fire 64)

/-- HARDWARE_THERMAL_TRIP (R498, R499): every enable falls at once; no flush runs. `comparators`: bit s for the die sensors whose comparator tripped. -/
def execHardwareThermalTrip (comparators : Nat) (s : State) : Out :=
  if !s.clk.awake || s.flag THM.STATUS_TRIP_LATCH then .next s
  else
    let starting := (s.topState = 1 || s.topState = 2) && 1 ≤ s.start.step && s.start.step ≤ 7
    let s1 := if starting then s.startCause 10 true else s
    let s2 := s1.railsOn.foldl (fun s r => s.railOff r) s1
    let s3 := (s2.modPins fun p => { p with pfo := true }).setF THM.STATUS_TRIP_LATCH 1
    let s4 := ((s3.fireRec 0x0105 7 (le 4 comparators)).lifetime 6).coreStop.quietBegin
    let s5 := (s4.modSeq fun q => { q with after := 0, stopUp := false, restart := false, heldOn := none }).seqState .off
    let s6 := ((s5.setF PWS.SEQ_STATUS_ON_HELD 0).setF TOP.STATE_STATE 6).setF TOP.STATE_MEM_ACTIVE 0
    .next (((s6.setF TOP.FLUSH_STATUS_ACTIVE 0).modStart fun _ => { begunAt := s.start.begunAt }).thermPin).healthCheck

end Sys2Proof.Machine
end

