-- ==== Sys2Proof/Machine/Flush.lean ====
section
/-!
DEFINITION. Loss of power and flushes (08, R257 to R277): `PFW_N`, `PORST_N`, the steps of a flush that are not programs, Global Persistent Flush.
-/
namespace Sys2Proof.Machine

namespace State

/-! ### Step 4: what a flush writes (R262) -/

/-- The lines a flush writes, with their values: staging copies oldest first, the dirty lines of the Lining and the Pincushion, and writes that wait for staging room (R260). A line
whose write-through write is in flight is left out: that patch, in a page that the flush seals, is newer. -/
def flushLines (s : State) : List (Nat × Line × Option Nat) :=
  let staged := (s.cache.staging.filter fun t => !t.dropped).map fun t => (t.line, t.val, none)
  let lining := List.map (fun e => (e.2.line, e.2.val, none)) (s.cache.lining.filter fun _ w => w.valid && w.dirty)
  let pcu := s.cache.pcu.flatMap fun e => List.map (fun l => (64 * e.2.swatch + l.1, l.2.val, none)) (e.2.lines.filter fun _ l => l.dirty)
  let held := (s.reqs.filter fun r => r.isWrite && r.stage == .hold && r.why == 1 && !r.void).map fun r =>
    (r.line, ({ data := r.data, tag := r.wtag, poison := r.poison, origin := r.origin } : Line), none)
  (staged ++ lining ++ pcu ++ held).filter fun l => !s.throughOpen l.1

/-- Step 4 of Table 08-3: buffered writes commit, open patch pages are sealed, every line of `flushLines` becomes a flush patch. -/
def flushStepFour (s : State) : State :=
  let lines := (s.reqs.filter fun r => r.isWrite && r.stage == .buffered).map (·.line)
  let s1 := lines.foldl (fun s l => s.commitLine l) s
  let s2 := (s1.xlt.openPages.filter fun o => !o.ents.isEmpty).foldl (fun s o => s.sealPage o) s1
  let s2 := s2.flushLines.foldl (fun s l => s.copyOut l.1) s2
  let ls := s2.flushLines
  let s3 := s2.modFlush fun f => { f with step := 4, startAt := s.clk.now, lines := ls.length, firstSeq := s.ham.nextSeq }
  let s4 := ((s3.flushPatches ls).modFlush fun f => { f with stopped := true }).flushProgress
  s4.flushAdvance

/-! ### The end of a flush -/

/-- A flush row: 16 FREE bolts of a cartridge, one per die, that no other series uses (R155). -/
def flushRow (s : State) (n : Nat) : State :=
  (List.range 16).foldl (fun s die =>
    if Nat.testBit (Tab.get (fun _ => 0) s.med.failedDies n) die then s
    else
      let have_ := (List.range (s.boltsPerDie n)).any fun k => let e := s.ledger (mkBolt n die k); e.role == 4 && e.state == 0
      if have_ then s
      else match s.pickBolt n die false false with
        | some b => (s.setLedger b { s.ledger b with role := 4 }).approxNote b
        | none => s) s

/-- A flush frame that is still open closes without further pages: entries beyond the last written page count as zero pages that are not stored (R153). -/
def flushFrameClose (f : Frame) (s : State) : State :=
  if f.closed then s
  else f.bolts.foldl (fun s b => s.boltClose b) (s.setFrame { f with closed := true, closedAt := s.xlt.mclk })

/-- Quilt parity of every stripe of a flush frame that lacks it is written and verified, and the frame closes (R155, R269). -/
def flushParity (s : State) (f : Frame) : State :=
  let s1 := (List.range f.stripes).foldl (fun s k =>
    let p := f.parityPsa k
    let pg := s.parityPage f k
    if s.programmed p || pg.refs.isEmpty then s else s.storePage p pg) (s.flushFrameClose f)
  s1.bastRelease

/-- Every flush patch comes into the index (R117, R269). -/
def flushInForce (s : State) : State :=
  let bolts := (s.med.frames.filter fun f => f.series == 21).flatMap fun f => f.bolts
  let pages := s.med.pages.filterMap fun e => match e.2 with
    | some p => if p.selv.typ = 2 && bolts.any (fun b => s.aliasOf b == boltOf e.1) then some (e.1, p.dir) else none
    | none => none
  pages.foldl (fun s e => s.pageInForce e.1 e.2) s

/-- Lines whose newest value is a flush patch in the index are clean (R269): those whose patch found no room in its window stay dirty. -/
def flushClean (s : State) : State :=
  let done (line : Nat) : Bool := match s.idxOf line with | some e => s.isFlushPage e.psa | none => false
  let wayClean (w : Way) : Way := if w.valid && w.dirty && done w.line then { w with dirty := false } else w
  let lineClean (sw i : Nat) (l : PLine) : PLine := if l.dirty && done (64 * sw + i) then { l with dirty := false } else l
  s.modCache fun c => { c with
    lining := c.lining.map fun _ w => wayClean w
    pcu := c.pcu.map fun _ e => { e with lines := e.lines.map fun i l => lineClean e.swatch i l }
    staging := c.staging.filter fun t => !done t.line }

/-- The clean-flush record (R275, Table 08-6), unless a journal record is lost (R297), the anchor before it, the lifetime counter, `TOP.FLUSH_LAST` (step 7). -/
def flushRecord (s : State) : State :=
  let f := s.flush
  let s1 := s.anchorWrite
  let dur := s.clk.now - f.startAt
  let b := le 1 (kindCode f.kind) ++ le 1 (s.getF TOP.FLUSH_STATUS_TRIGGERS) ++ le 1 s.flushCarts.length ++ le 1 0 ++ le 4 f.patches
    ++ le 4 s.med.sealTab.length ++ le 4 f.jpages ++ le 4 dur ++ le 8 (s1.xlt.seq % 2 ^ 40)
  let s2 := if s.xlt.journalLost then s1 else (s1.hamper 0x0801 46 b).hamFlushB.lifetime 3
  (s2.setF TOP.FLUSH_LAST_KIND (kindCode f.kind)).setF TOP.FLUSH_LAST_US (min (2 ^ 24 - 1) (dur / 1000))

/-- Phase 2 responses that are owed (R269, R271). -/
def gpfAnswer (s : State) : State :=
  (s.flush.gpfPorts.foldl (fun s p => s.emit (.gpfResponse p)) s).modFlush fun f => { f with gpfPorts := [] }

end State

/-- PFW_N_ASSERT (R257, R258, R271, R449): a pulse of `ns`; from 0.5 µs to 1 µs `accepted` tells whether it was taken. -/
def execPfwNAssert (ns : Nat) (accepted : Bool) (s : State) : Out :=
  if !s.clk.awake || ns < 500 || (ns < 1000 && !accepted) then .next s
  else .next ((s.modPins fun p => { p with pfw := true }).flushTrigger .powerFail 0 true).healthCheck

/-- FLUSH_ADMISSION_STOP (R259 to R262, R269, R277): write admission stops at every port and at the spool engine, resets in progress are abandoned, and step 4 begins. -/
def execFlushAdmissionStop (s : State) : Out :=
  if s.flush.kind == .none || s.flush.stopped then .next s
  else .next ((s.modMed fun m => { m with resets := [] }).flushStepFour).healthCheck

/-- FLUSH_COMPLETE (R259, R271, R275): step 7 of a device-initiated flush, then the power-down, or for kind reset the new start. -/
def execFlushComplete (s : State) : Out :=
  let f := s.flush
  if !State.deviceFlush f.kind || f.step ≠ 7 then .next s
  else
    let s1 := (s.flushRecord.fire 46).gpfAnswer
    if f.kind == .reset then
      let s2 := ((s1.coreStop.setF TOP.FLUSH_STATUS_ACTIVE 0).setF TOP.STATE_MEM_ACTIVE 0).quietBegin
      .next (s2.startBegin 2).healthCheck
    else
      let s2 := s1.powerDownBegin 0
      .next (if f.resetHeld && !s2.pins.porst && s2.mayStart then s2.holdOn (some 2) else s2).healthCheck

/-- GPF_PHASE2_REQUEST (R269, R271, R449): with no data held the response is sent at once. -/
def execGpfPhase2Request (port : Nat) (s : State) : Out :=
  if s.halted || 4 ≤ port || !s.flag (HPT.LINK_STATUS_UP port) then .next s
  else if s.flush.kind != .none then
    .next ((s.noteTrigger 4).modFlush fun f => { f with gpfPorts := f.gpfPorts ++ (if f.gpfPorts.contains port then [] else [port]) })
  else if s.topState = 3 then .next ((s.flushBegin .gpf 4).modFlush fun f => { f with gpfPorts := [port] })
  else .next (s.emit (.gpfResponse port))

/-- GPF_COMPLETE (R269, R276): parity for the flush frames, the patches into the index, new flush rows, the anchor, the record; then admission resumes and the responses go out. A reset or
an orderly power-down that arrived meanwhile follows (R271). -/
def execGpfComplete (s : State) : Out :=
  let f := s.flush
  if !(f.kind == .gpf || f.kind == .group) || f.step ≠ 7 then .next s
  else
    let s1 := (s.med.frames.filter fun x => x.series == 21).foldl State.flushParity s
    let s2 := (s1.flushInForce.flushClean)
    let s3 := s2.flushCarts.foldl State.flushRow s2
    let s4 := (s3.flushRecord.setF TOP.FLUSH_STATUS_ACTIVE 0).fire 47
    let stale := List.map (·.1) (s4.med.ledger.filter fun b e => e.state == 3 && s4.getF (MED.CART_MEDIA_CLASS (boltSlot b)) ≠ 3)
    let s5 := (s4.gpfAnswer.modMed fun m => { m with resets := stale }).modFlush fun _ => { clean := if s.xlt.journalLost then none else some (State.kindCode f.kind) }
    let s6 := s5.backsPrune.fillCheck.dirtyChanged.admitWaiting
    .next (if f.resetHeld then s6.flushTrigger .reset 7 false
      else if f.offHeld then s6.flushTrigger .orderly 6 false else s6).healthCheck

/-- PORST_N_ASSERT (R257, R271, R449, R499, R547): a pulse of `ns`; from 1 µs to 10 µs `accepted` tells whether it was taken. -/
def execPorstNAssert (ns : Nat) (accepted : Bool) (s : State) : Out :=
  if !s.clk.awake || ns < 1000 || (ns < 10000 && !accepted) then .next s
  else
    let s1 := s.modPins fun p => { p with porst := true }
    if s1.halted || s1.flag THM.STATUS_CRIT_LATCH || s1.flag THM.STATUS_TRIP_LATCH then .next s1
    else if s1.topState = 3 || s1.flush.kind != .none then .next (s1.flushTrigger .reset 7 false).healthCheck
    else if s1.topState = 6 || s1.topState = 4 || s1.start.step < 2 then .next s1
    else .next s1.offRequest.healthCheck

end Sys2Proof.Machine
end

