-- ==== Sys2Proof/Machine/Keys.lean ====
section
/-!
DEFINITION. Key slots, the key store and retirements (10, R318 to R333), the halt (R346), keys of the link scrambler (R341, R343): what the start, the
cartridges and the key commands share.
-/
namespace Sys2Proof.Machine

namespace State

/-! ### KEY_POLICY (Table 10-4) -/

/-- Byte of the KEY_POLICY payload in force; 0 without the record (R324). -/
def policyByte (s : State) (i : Nat) : Nat := match s.plan.keyPolicy with | some b => (b.getD i 0).toNat | none => 0

/-- LINK_SLOT. -/
def linkSlot (s : State) : Nat := s.policyByte 1

/-- Usage, PERSIST and REQUIRED of a slot. -/
def slotPolicy (s : State) (k : Nat) (v : KeySlot) : KeySlot :=
  let b := s.policyByte (0xD8 + k)
  { v with usage := b % 4, persist := bit b 2, required := bit b 3 }

/-- Slots 1 to 255 that hold anything in a table. -/
def slotsOf {α : Type} (t : Tab α) : List Nat := List.map (·.1) (t.filter fun k _ => 1 ≤ k && k < 256)

/-! ### The key store (R325, R326) -/

/-- Cartridges that hold the anchor and can take a write of the key store. -/
def storeCarts (s : State) : List Nat := (List.range 64).filter fun n => (Tab.get (fun _ => none) s.xlt.anchors n).isSome && s.cartUp n && (s.cart n).inWindow

/-- A change of the key store can be made: discovery has completed, and every planned group that is not unavailable has such a cartridge. -/
def storeOk (s : State) : Bool :=
  (s.topState = 3 || 6 ≤ s.start.step) && s.plannedGroups.all fun g => s.getF (MED.GROUP_STATUS_STATE g) = 5 || s.storeCarts.any fun n => n / 8 == g

/-- The key store takes the slots and bindings in force, on every cartridge that can take it. -/
def storePut (s : State) : State :=
  let s1 := s.modCip fun c => { c with storeGen := c.storeGen + 1 }
  s1.storeTo s1.storeCarts s1.storeNow

/-- The newest key store of this device on the cartridges named (R326). -/
def newestStore (s : State) (slots : List Nat) : Option KeyStore :=
  slots.foldl (fun best n => match best, Tab.get (fun _ => none) s.cip.stores n with
    | none, k => k
    | some a, some b => some (if a.gen < b.gen then b else a)
    | some a, none => some a) none

/-- Key check value of a key (R325). -/
def keyCheckValue (k : BitVec 512) : Nat := aesEnc (keyLow k) 0 % 2 ^ 32

/-- A slot as the start sets it from this device's store (R326): the second part tells that a retirement completed. -/
def slotFromStore (v : KeySlot) : KeySlot × Bool :=
  match v.state with
  | .retiring => ({ epoch := (v.epoch + 1) % 256 }, true)
  | .active => if v.persist then ({ v with state := .active }, false) else ({ epoch := v.epoch, state := .awaiting, check := v.check }, false)
  | .awaiting => ({ epoch := v.epoch, state := .awaiting, check := v.check }, false)
  | .empty => ({ epoch := v.epoch }, false)

/-- The key store read at a start (R326): this device's newest copy, else another device's (log 68). A retirement that completes is written to the store (R331). -/
def keyStoreRead (s : State) : State :=
  let slots := (List.range 32).filter fun n => (s.cart n).adopted
  let own := s.newestStore slots
  let other := slots.findSome? fun n => (s.cart n).store
  let put (s : State) (k : Nat) (v : KeySlot) : State := s.setKeySlot k (s.slotPolicy k v)
  let s0 := (List.range 256).foldl (fun s k => put s k {}) (s.modCip fun c => { c with keysRead := true, bindings := [] })
  match own, other with
  | some k, _ =>
    let s1 := (slotsOf k.slots).foldl (fun s i =>
      let (v, done) := slotFromStore (Tab.get (fun _ => {}) k.slots i)
      let s1 := put s i v
      if done then s1.fire 98 else s1) (s0.modCip fun c => { c with bindings := k.bindings })
    if (slotsOf k.slots).any (fun i => (slotFromStore (Tab.get (fun _ => {}) k.slots i)).2) && s1.storeOk then s1.storePut else s1
  | none, some f =>
    ((slotsOf f.slots).foldl (fun s i =>
      let v := Tab.get (fun _ => {}) f.slots i
      put s i { epoch := v.epoch, state := if v.held then .awaiting else .empty, check := v.check })
      (s0.modCip fun c => { c with bindings := f.bindings })).fire 106
  | none, none => s0.fire 105

/-- Every REQUIRED slot is ACTIVE (R326). -/
def requiredActive (s : State) : Bool :=
  (List.range 255).all fun i => !bit (s.policyByte (0xD9 + i)) 3 || (s.keySlot (i + 1)).state == .active

/-! ### The link scrambler (R341, R343, R345) -/

/-- The link key L: 32 zero bytes for LINK_SLOT 0, else the key of the slot while it is ACTIVE. Before the key store of a start has been read the key that the store
keeps for the slot stands in (log 24). -/
def linkKey (s : State) : Option (BitVec 512) :=
  let k := s.linkSlot
  if k = 0 then some 0
  else if (s.keySlot k).state == .active then some (s.keySlot k).key
  else if s.cip.keysRead then none
  else (s.newestStore ((List.range 32).filter fun n => (s.cart n).present)).bind fun st =>
    let v := Tab.get (fun _ => {}) st.slots k
    if v.state == .active && v.persist then some v.key else none

/-- Key identifier of a link key (R400). -/
def keyIdOf (l : BitVec 512) : Nat := aesEnc (keyLow l) 0 % 2 ^ 32

/-- Word of key check n in direction d (R343); the block is K_s, n, d. -/
def checkWord (k : LinkKey) (n : Nat) (d : Bool) : Nat :=
  aesEnc (keyLow k.l) (k.ks + 2 ^ 64 * n + (if d then 2 ^ 96 else 0)) % 2 ^ 32

/-- Scrambler session of link n. -/
def linkSession (s : State) (n : Nat) : Option LinkKey := Tab.get (fun _ => none) s.cip.links n
def setLinkSession (n : Nat) (k : Option LinkKey) (s : State) : State :=
  (s.modCip fun c => { c with links := Tab.set (fun _ => none) c.links n k }).setFlag (CIP.LINK_STATUS_SESSION n) k.isSome

/-! ### The halt (R346) -/

/-- Every cartridge link stops: STATE 7, no session. Quarantined links keep their state. -/
def linksHalt (s : State) : State :=
  (List.range 32).foldl (fun s n =>
    let l := s.link n
    if l.step = 0 || (s.cart n).quarantined then s
    else ((s.setLink n { retrains := l.retrains, spared := l.spared }).setLinkSession n none).setF (VLK.STATUS_STATE n) 7) s

/-- The requests in flight as a halted device answers them: reads with poison, writes without storing. -/
def requestsHalt (s : State) : State :=
  (s.reqs.map (·.id)).foldl (fun s id => match s.reqOf id with
    | some r =>
      if r.stage == .respond then s
      else if r.isRead then s.respond r (some 0) true else s.respond r none false
    | none => s) (s.modCoh fun c => { c with snoops := [] })

/-- A key-check failure on link n halts the device: `form` 0 a wrong word, 1 the cartridge's indication; `num` the check's number. -/
def halt (n form num : Nat) (s : State) : State :=
  let s0 := s.setF (CIP.LINK_STATUS_FAILED n) 1
  if s0.halted then s0
  else
    let s1 := ((s0.setF TOP.HALT_HALTED 1).setF TOP.HALT_SLOT n).setF TOP.STATE_STATE 5
    let s2 := s1.fireRec 0x0602 1 (le 1 n ++ le 1 form ++ le 2 0 ++ le 4 num)
    let failing := s.topState = 1 && 5 ≤ s.start.step && s.start.step ≤ 7
    let s3 := if failing then s2.startCause 11 true else s2
    let s4 := (s3.modFlush fun f => { clean := f.clean }).setF TOP.FLUSH_STATUS_ACTIVE 0
    (s4.modCip fun c => { c with retire := [] }).linksHalt.requestsHalt.fenceUpdate

/-! ### Retirement (R331) -/

/-- Region descriptors bound to a slot. -/
def boundRegions (s : State) (k : Nat) : List Region :=
  ((List.range s.plan.regions.length).filter fun i => s.bindingOf i = k).filterMap fun i => s.plan.regions[i]?

/-- A line of a region bound to a slot. -/
def lineUnder (s : State) (k line : Nat) : Bool := (s.boundRegions k).any (·.has line)

/-- Lines under k that are dirty in a cache. -/
def dirtyUnder (s : State) (k : Nat) : List Nat :=
  let lining : List Nat := List.map (fun e => e.2.line) (s.cache.lining.filter fun _ w => w.valid && w.dirty)
  let pcu : List Nat := s.cache.pcu.flatMap fun e => List.map (fun l => 64 * e.2.swatch + l.1) (e.2.lines.filter fun _ l => l.dirty)
  List.filter (s.lineUnder k) (lining ++ pcu)

/-- Work under k that is still under way (R331, step 3). -/
def workUnder (s : State) (k : Nat) : Bool :=
  !(s.dirtyUnder k).isEmpty
    || s.cache.staging.any (fun t => s.lineUnder k t.line)
    || s.inFlight.any (fun d => d.keyId == k || s.lineUnder k d.line)
    || s.reqs.any (fun r => s.lineUnder k r.line && r.stage != .respond)
    || s.med.progs.any (fun p => p.page.selv.keyId == k || p.page.lines.any fun e => e.2.keyId == k)
    || s.xlt.asm.any fun a => !a.ended && (s.lineUnder k (64 * a.swatch) || (List.range 64).any fun i => match s.location (64 * a.swatch + i) with
      | some (psa, slot, _) => (match s.pageAt psa with | some p => (p.line slot).keyId == k | none => false)
      | none => false)

/-- Why Table 10-6 refuses a retirement of slot k, if it does. -/
def retireRefusal (s : State) (k : Nat) : Option Nat :=
  let names (o : OpRun) : Bool := o.desc.op == 0x0E && o.status.isNone && (o.desc.key == k || o.oldKey == k)
  if k = 0 || 256 ≤ k then some 2
  else if s.cip.retire.any (fun r => r.slot == k) || s.spl.ops.any names then some 6
  else if (s.keySlot k).state != .active then some 3
  else none

/-- An op that a retirement of slot k ends: a job of the key with status 7, an op on a region under it with status 1 (R331). -/
def retireStop (s : State) (k : Nat) (o : OpRun) : OpRun :=
  let job := (o.desc.op == 0x0F || o.desc.op == 0x10) && o.desc.key == k
  let onRegion := o.desc.op != 0x05 && o.desc.op != 0x12 && o.desc.op != 0x0E
    && (s.lineUnder k (o.desc.src / 64) || s.lineUnder k (o.desc.dst / 64))
  if o.status.isNone && job then { o with status := some 7 }
  else if o.status.isNone && onRegion then { o with status := some 1 } else o

/-- Steps 1 to 3 begin: RETIRING, the dirty lines released, jobs and ops under k stopped. The answer is the result of Table 10-6. -/
def retireStart (k : Nat) (byReg wrote : Bool) (s : State) : State × Nat :=
  match s.retireRefusal k with
  | some e => (s, e)
  | none =>
    if !wrote || !s.storeOk then (s, 9)
    else
      let s1 := (s.setKeySlot k { s.keySlot k with state := .retiring }).storePut
      let s2 := ((s1.modCip fun c => { c with retire := c.retire ++ [{ slot := k, byReg }] }).setF CIP.STATUS_RETIRING 1).fire 97
      let lines := s2.dirtyUnder k
      let s3 := lines.foldl (fun s l => (s.release l).1) s2
      (s3.modSpl fun p => { p with ops := p.ops.map (s3.retireStop k) }, 0)

end State

end Sys2Proof.Machine
end

