-- ==== Sys2Proof/Machine/Wire.lean ====
section
/-!
DEFINITION. A flit on the wire of a cartridge link: its layout (12, R389), the scrambler (10, R342), the VL FEC and the lanes (12, R390), the payloads the device sends, and the
flits kept for replay (R393).
-/
namespace Sys2Proof.Machine

/-! ### The scrambler (R342) -/

/-- One step: the bit that leaves the register, and the register after it. -/
def scrStep (s : Nat) : Nat × Nat :=
  let b := s / 2 ^ 63 % 2
  let t := 2 * s % 2 ^ 64
  (b, if b = 1 then t ^^^ 0x1B else t)

/-- Eight steps, the first bit most significant. -/
def scrByte (s : Nat) : Nat × Nat :=
  (List.range 8).foldl (fun a _ => let (b, t) := scrStep a.2; (2 * a.1 + b, t)) (0, s)

/-- The register of flit q in direction d, after its 64 first steps. -/
def scrSeed (ks q : Nat) (d : Bool) : Nat :=
  let s := ks ^^^ (q % 2 ^ 48 * 256) ^^^ d.toNat
  (List.range 64).foldl (fun t _ => (scrStep t).2) (if s = 0 then 1 else s)

/-- One exchange of the permutation: element i with the element that the next two bytes choose. -/
def scrSwap (a : List Nat × Nat) (i : Nat) : List Nat × Nat :=
  let (hi, s1) := scrByte a.2
  let (lo, s2) := scrByte s1
  let j := (256 * hi + lo) * (i + 1) / 65536
  ((a.1.set i (a.1.getD j 0)).set j (a.1.getD i 0), s2)

/-- The permutation of p bytes and the mask after it. -/
def scrKeys (p ks q : Nat) (d : Bool) : List Nat × List Nat :=
  let (perm, s) := ((List.range (p - 1)).map fun k => p - 1 - k).foldl scrSwap (List.range p, scrSeed ks q d)
  let mask := (List.range p).foldl (fun (a : List Nat × Nat) _ => let (b, t) := scrByte a.2; (b :: a.1, t)) ([], s)
  (perm, mask.1.reverse)

/-- Bytes under a mask. -/
def maskBytes (l : List Byte) (mask : List Nat) : List Byte := List.zipWith (fun b m => b ^^^ BitVec.ofNat 8 m) l mask

/-- What is transmitted of a payload. -/
def scramble (ks q : Nat) (d : Bool) (l : List Byte) : List Byte :=
  let (perm, mask) := scrKeys l.length ks q d
  maskBytes ((List.zip perm l).foldl (fun o e => o.set e.1 e.2) (List.replicate l.length 0)) mask

/-- The inverse, as a receiver applies it. -/
def descramble (ks q : Nat) (d : Bool) (l : List Byte) : List Byte :=
  let (perm, mask) := scrKeys l.length ks q d
  let y := maskBytes l mask
  perm.map fun j => y.getD j 0

/-! ### Flits (R389, R390) -/

/-- The 160 bytes of a flit as transmitted; the device returns no credits. -/
def flitBytes (ks ack : Nat) (f : SentFlit) : List Byte :=
  let b := le 1 f.typ ++ [0] ++ le 2 f.q ++ le 2 ack ++ le 2 f.tag ++ scramble ks f.q false (padTo 148 f.payload)
  b ++ le 4 (crc32c b)

/-- The 132 symbols of the VL FEC: 128 of 10 bits from flit bit 0, and 4 check symbols. -/
def flitSymbols (b : List Byte) : List Nat :=
  let n := ofLe b
  let d := (List.range 128).map fun j => n / 1024 ^ j % 1024
  d ++ rsChecks gf10 4 d

/-- The symbols of each lane: at x2 symbol j on lane j mod 2, at x1 every symbol on the lane that remains. -/
def flitLanes (width lane : Nat) (sym : List Nat) : List (List Nat) :=
  let pick (k : Nat) : List Nat := (List.range sym.length).filterMap fun j => if j % 2 = k then sym[j]? else none
  if width = 1 then (if lane = 0 then [sym, []] else [[], sym]) else [pick 0, pick 1]

/-! ### Payloads -/

/-- The payload of a CTRL, KEYCHK or NAK flit (R343, R394, R400, R401). A CTRL payload begins with the number of its message; the spec gives the messages no numbers (log 46). -/
def flitPayload (typ : Nat) (args : List Nat) : List Byte :=
  let a (i : Nat) : Nat := args.getD i 0
  if typ = 4 then le 1 (a 0) ++ le 6 (a 1)
  else if typ = 5 then le 4 (a 1)
  else if a 0 = 0 then le 1 0 ++ le 8 (a 1) ++ le 4 (a 2) ++ le 2 (a 3) ++ le 16 (a 4) ++ le 2 (a 5)
  else if a 0 = 1 then le 1 1 ++ le 96 (a 1)
  else if a 0 = 2 then le 1 2 ++ (args.drop 1).map (BitVec.ofNat 8)
  else le 1 (a 0)

/-- The 32 bytes of a ledger entry (Table 05-3); RESETS is the cartridge's. -/
def ledgerBytes (e : LedgerEntry) : List Byte :=
  let head := le 1 e.state ++ le 1 e.role ++ le 1 e.series ++ le 1 e.position ++ le 4 e.frame ++ le 4 e.parityAt ++ le 2 e.parityNext ++ le 2 0 ++ le 4 e.aliasTo
  let age := le 4 e.ageFirst
  head ++ le 4 e.resets ++ age ++ le 2 (crc32c (head ++ age) % 2 ^ 16) ++ le 2 0

/-- Sizes in bytes of the request fields of Table 12-6 (R402); those of line slot, read-reference set, flags and count are not given (log 46). -/
def cmdWidths (op : Nat) : List Nat :=
  if op = 1 then [1, 2, 2, 1, 1] else if op = 2 || op = 3 then [1, 2, 2, 1] else if op = 4 || op = 6 then [1, 2] else if op = 5 then [1, 2, 2]
  else if op = 7 || op = 8 then [4] else if op = 11 then [16, 1] else if op = 12 then [1] else []

/-- The payload of a CMD flit: opcode, request fields, and what follows them. -/
def cmdPayload (op : Nat) (args : List Nat) (rest : List Byte) : List Byte :=
  le 1 op ++ (List.zip (cmdWidths op) args).flatMap (fun e => le e.1 e.2) ++ rest

/-- DATA flit payloads of a body: index, 2 bytes of 0, 144 bytes (R402). -/
def dataPayloads (body : List Byte) : List (List Byte) :=
  (List.range (ceilDiv body.length 144)).map fun k => le 2 k ++ le 2 0 ++ padTo 144 (body.drop (144 * k))

namespace State

/-- A counted flit goes onto the wire as it is, with the acknowledgement of now. -/
def wireOut (slot : Nat) (f : SentFlit) (s : State) : State :=
  let l := s.link slot
  let ks := ((s.linkSession slot).map (·.ks)).getD 0
  (s.perf (12 + slot) 0x201 none 1).emit (.wire slot (flitLanes l.width (s.getF (VLK.STATUS_LANE slot)) (flitSymbols (flitBytes ks (l.rxCount + 2 ^ 48 - 1) f))))

/-- A counted flit takes its place in the count and among the last 512, which are kept for replay (R391, R393), and goes out. -/
def sendCounted (slot typ tag : Nat) (payload : List Byte) (s : State) : State :=
  let l := s.link slot
  let f : SentFlit := { q := l.txCount, typ, tag, payload }
  let kept := l.kept ++ [f]
  (s.setLink slot { l with txCount := (l.txCount + 1) % 2 ^ 48, kept := kept.drop (kept.length - 512) }).wireOut slot f

end State

end Sys2Proof.Machine
end

