-- ==== Sys2Proof/Machine/Adopt.lean ====
section
/-!
DEFINITION. Shared operations of the cartridge links and of adoption (12): flits sent and received, training, retrains and quarantine, Table 12-9, capacity (05, R178, R179),
the causes for which a start waits (14, R448).
-/
namespace Sys2Proof.Machine

namespace State

/-! ### Flits (R389 to R394) -/

/-- The replay window takes n more counted flits (R393). -/
def txRoom (s : State) (slot n : Nat) : Bool := let l := s.link slot; l.txCount + n < l.acked + 512

/-- A CTRL, KEYCHK or NAK flit goes out, or waits while 512 counted flits are not acknowledged (R393). -/
def sendFlit (slot typ : Nat) (args : List Nat) (s : State) : State :=
  let l := s.link slot
  if l.waiting.isEmpty && s.txRoom slot 1 then (s.emit (.flit slot typ args)).sendCounted slot typ 0 (flitPayload typ args)
  else s.setLink slot { l with waiting := l.waiting ++ [(typ, args)] }

/-- Flits that waited go out while the window takes them. -/
def sendHeld (slot : Nat) (s : State) : State :=
  let held := (s.link slot).waiting
  held.foldl (fun s f => s.sendFlit slot f.1 f.2) (s.setLink slot { s.link slot with waiting := [] })

/-- The link has stopped: STATE as given, its sessions, commands and counts gone. -/
def linkStop (slot state : Nat) (s : State) : State :=
  let l := s.link slot
  let s1 := s.setLink slot { retrains := l.retrains, spared := l.spared, tries := l.tries, viols := l.viols }
  ((((s1.setLinkSession slot none).setF (VLK.CMD_RETRAIN slot) 0).setF (VLK.STATUS_STATE slot) state).setF (VLK.STATUS_WIDTH slot) 0).setF (VLK.STATUS_CREDITS slot) 0

/-- A slot can train: a cartridge, ENABLE, its slot rail, no quarantine, no halt (R387, Table 12-12). -/
def canTrain (s : State) (slot : Nat) : Bool :=
  (s.cart slot).present && s.flag (VLK.CTRL_ENABLE slot) && s.railGood (11 + slot / 8) && !(s.cart slot).quarantined && !s.halted && s.start.released

/-- Training starts (step 1 of Table 12-4), with the SerDes presets (Table 17-6). -/
def linkTrain (slot : Nat) (retrain : Bool) (s : State) : State :=
  let s1 := ((s.calRead 2).linkStop slot (if retrain then 4 else 1)).setCart slot { s.cart slot with quiesced := false }
  s1.setLink slot { s1.link slot with step := 1, retraining := retrain }

/-! ### Positions that go (R187, R271, R415) -/

/-- Table 08-4, loss of cartridges during a flush: stored flush patches on the slot that neither basting nor quilt parity covers are written again on the cartridges that remain. -/
def flushRewrite (slot : Nat) (s : State) : State :=
  if !s.flush.stopped then s
  else
    let stored := s.med.pages.filterMap fun e => match e.2 with
      | some p => if psaSlot e.1 == slot && p.selv.typ = 2 && s.isFlushPage e.1 && (s.siblings e.1).isNone then some p else none
      | none => none
    let lost := stored.flatMap fun p => p.dir.map fun e => e.line
    let all := s.flushLines
    let again := lost.eraseDups.filterMap fun line => (all.filter fun x => x.1 == line).getLast?
    let done := (stored.map fun p => p.dir.length).foldl (· + ·) 0
    ((s.modFlush fun f => { f with patches := f.patches - done }).flushPatches again).flushProgress.flushAdvance

/-- The adoption result of a slot; a change fires its source (R412). -/
def setAdopt (slot r : Nat) (s : State) : State :=
  let c := s.cart slot
  let s1 := s.setCart slot { c with adopt := r, adopted := r = 1 || r = 2 || r = 3 }
  if s1.getF (CAR.STATUS_ADOPT slot) = r then s1 else (s1.setF (CAR.STATUS_ADOPT slot) r).fire (256 + 8 * slot + 5)

/-- Plannable capacity (R179): per planned group the adopted cartridges' smaller geometry. -/
def capacityUpdate (s : State) : State :=
  let per (g : Nat) : Nat :=
    let l := s.groupSlots g
    if l.isEmpty then 0
    else
      let b := l.foldl (fun m n => min m (s.boltsPerDie n)) 4096
      16 * (b - ceilDiv (b * 4) 100) - 24
  let groups := s.plannedGroups
  let data := groups.foldl (fun a g => a + 7 * per g) 0
  let bolts := groups.foldl (fun a g => (s.groupSlots g).foldl (fun a n => a + 16 * s.boltsPerDie n) a) 0
  let mapGib := match s.order with | .h72 => 40 | .h48 => 25
  let fill := s.plan.plogGib + 2 * mapGib + 5 + ceilDiv bolts 262144 + 1
  let s1 := groups.foldl (fun s g => s.setF (MED.GROUP_TOTAL_TOTAL g) (8 * per g)) s
  s1.setF MED.CAPACITY_PLANNABLE (min 65535 ((93 * data - 3200 * fill) / 3200))

/-- A position is gone: absent, quarantined or failed (R187). Outside the running state only the adoption changes. -/
def cartGone (slot r : Nat) (s : State) : State :=
  let was := (s.cart slot).adopted
  let s1 := (s.setAdopt slot r).setWindow slot false
  let s2 := s1.setCart slot { s1.cart slot with prepared := false }
  let s3 := s2.setF (CAR.STATUS_READY slot) 0
  if !was then s3
  else
    let s4 := (if s.topState = 3 || 6 ≤ s.start.step then s3.positionLost slot else s3).flushRewrite slot
    (s4.capacityUpdate.excludeUpdate (slot / 8)).flushUpdate

/-! ### Retrains, violations, quarantine (R395 to R397) -/

/-- The third retrain within 60 s quarantines the cartridge (R395). -/
def quarantine (slot : Nat) (s : State) : State :=
  let s1 := (s.linkStop slot 5).setCart slot { s.cart slot with quarantined := true }
  ((s1.fire (256 + 8 * slot + 4)).cartGone slot 10).indicateCheck slot

/-- A retrain of a link that is up, for whatever cause: source 256 + 8n + 3, the history of 60 s (R395, R397). -/
def retrain (slot : Nat) (s : State) : State :=
  let l := s.link slot
  let times := (l.retrains.filter fun t => s.clk.now < t + 60000000000) ++ [s.clk.now]
  let s1 := (s.setLink slot { l with retrains := times }).setF (VLK.STATUS_RETRAINS slot) (min 15 times.length)
  let s2 := s1.fire (256 + 8 * slot + 3)
  if 3 ≤ times.length then s2.quarantine slot else s2.linkTrain slot true

/-- A violation on a link (R394, R395): counted; the sixteenth within 1 ms retrains it. -/
def linkViolation (slot reason : Nat) (byCart : Bool) (s : State) : State :=
  let l := s.link slot
  let times := (l.viols.filter fun t => s.clk.now < t + 1000000) ++ [s.clk.now]
  let s1 := ((s.countF (VLK.VIOL_COUNT slot) 1).setF (VLK.VIOL_LAST slot) reason).setFlag (VLK.VIOL_BY_DEV slot) byCart
  let s2 := s1.setLink slot { l with viols := if 16 ≤ times.length then [] else times }
  if 16 ≤ times.length && 2 ≤ l.step then s2.retrain slot else s2

/-- A NAK goes out (Table 12-3); reasons 2 to 8 are violations. -/
def sendNak (slot reason q : Nat) (s : State) : State :=
  let s1 := s.sendFlit slot 4 [reason, q]
  if 2 ≤ reason then s1.linkViolation slot reason false else s1

/-- The acknowledgement a flit carries moves the count of acknowledged flits on (R392). -/
def rxAck (h : FlitHead) (l : Link) : Link :=
  let adv := (h.ack + 1 + 2 ^ 48 - l.acked) % 65536
  if 0 < adv && adv ≤ l.txCount - l.acked then { l with acked := l.acked + adv, replay := 0 } else l

/-- An intact flit returns more credits than were granted (R391). -/
def rxOver (h : FlitHead) (l : Link) : Bool := decide (l.granted < l.credits + h.credit)

/-- Its credits are taken, unless they are too many. -/
def rxTake (h : FlitHead) (l : Link) : Link := if rxOver h l then l else { l with credits := l.credits + h.credit }

/-- The next counted flit has come. -/
def rxNext (l : Link) : Link := { l with rxCount := (l.rxCount + 1) % 2 ^ 48, nakOut := false }

/-- What the head of an intact flit changes: FEC count, acknowledgement, with the flits that waited for it, and credits (R391 to R393). -/
def rxHead (slot : Nat) (h : FlitHead) (s : State) : State :=
  let s0 := s.perf (12 + slot) 0x202 none 1
  let s1 := if h.fec then (s0.countF (VLK.FEC_CORR_COUNT slot) 1).perf (12 + slot) 0x203 none 1 else s0
  (s1.setLink slot (rxTake h (rxAck h (s1.link slot)))).sendHeld slot

/-- A flit carries the next number of the count. -/
def rxInOrder (h : FlitHead) (l : Link) : Bool := h.seq % 65536 == l.rxCount % 65536

/-- The flit itself is a violation of Table 12-3: answered by a NAK and discarded. -/
def rxFault (h : FlitHead) : Bool := h.fault == 2 || h.fault == 3 || h.fault == 5

/-- An intact flit comes in: FEC count, acknowledgement, credits, and for a counted flit its place in the count. The answer: it is the next one. -/
def rxPlace (slot : Nat) (h : FlitHead) (counted : Bool) (s : State) : State × Bool :=
  if (s.link slot).step < 2 || (s.halted && !s.flush.halt) then (s, false)
  else
    let s2 := s.rxHead slot h
    let l := s2.link slot
    if rxOver h (s.link slot) then (s2.sendNak slot 6 l.rxCount, false)
    else if !counted then (if rxInOrder h l || !l.nakOut then (s2, true) else (s2.sendNak slot 1 l.rxCount, true))
    else if rxInOrder h l then (s2.setLink slot (rxNext l), true)
    else if l.nakOut then (s2.sendNak slot 1 l.rxCount, false)
    else (s2, false)

/-- An intact flit comes in (R391 to R394). The answer: it is accepted. -/
def rxFlit (slot : Nat) (h : FlitHead) (counted : Bool) (s : State) : State × Bool :=
  let r := s.rxPlace slot h counted
  if r.2 && rxFault h then (r.1.sendNak slot h.fault (s.link slot).rxCount, false) else r

/-- Replay from the last acknowledged flit (R393): every flit not acknowledged goes out again; the fifth sending of the same flit retrains the link. -/
def replay (slot : Nat) (s : State) : State :=
  let l := s.link slot
  if l.txCount ≤ l.acked then s
  else if 4 ≤ l.replay then s.retrain slot
  else
    let again := l.kept.filter fun f => l.acked ≤ f.q
    let n := l.txCount - l.acked
    again.foldl (fun s f => s.wireOut slot f) (((s.setLink slot { l with replay := l.replay + 1 }).countF (VLK.REPLAY_COUNT slot) n).perf (12 + slot) 0x204 none n)

/-! ### Commands (R402, R406, R494) -/

/-- A command of Table 12-6 may go out: the link far enough, the cartridge neither quiesced nor critical unless the command is allowed then, a credit, a tag, room for its flits. -/
def canSend (s : State) (slot op flits : Nat) : Bool :=
  let l := s.link slot
  let c := s.cart slot
  (l.up || (4 ≤ l.step && (op = 9 || op = 10))) && (!s.halted || s.flush.halt) && !c.quarantined
    && (!c.quiesced || op = 9 || op = 10 || op = 12) && (!s.cartCritical slot || op = 10 || op = 12)
    && 0 < l.credits && l.tags.length < 512 && s.txRoom slot flits

/-- The lowest TAG not in use. -/
def freeTag (l : Link) : Nat := ((List.range 512).find? fun t => !l.tags.any (·.tag == t)).getD 0

/-- Send a command (R402): its CMD flit, with `rest` after the request fields, and the DATA flits of `body`. -/
def sendCmd (slot op arg : Nat) (args : List Nat) (rest body : List Byte) (s : State) : State :=
  let data := ceilDiv body.length 144
  if !s.canSend slot op (1 + data) then s
  else
    let l := s.link slot
    let tag := freeTag l
    let s1 := s.setLink slot { l with tags := l.tags ++ [{ tag, op, arg, since := s.clk.now }], credits := l.credits - 1 }
    let s2 := (s1.emit (.flit slot 1 (op :: tag :: args))).sendCounted slot 1 tag (cmdPayload op args rest)
    if data = 0 then s2 else (dataPayloads body).foldl (fun s p => s.sendCounted slot 3 tag p) (s2.emit (.flit slot 3 [tag, data]))

/-- HELLO goes out with a nonce of the DRBG (R341, R400), once the link key is at hand (R345). -/
def sendHello (slot : Nat) (s : State) : State := match s.linkKey with
  | none => s
  | some l =>
    let n := s.freeVal % 2 ^ 64
    (s.freeStep.setLink slot { s.link slot with step := 3, nonce := n }).sendFlit slot 7 [0, n, keyIdOf l, 0, 0, 0]

/-- Pairing begins (R401, step 1). -/
def sendPairPub (slot : Nat) (s : State) : State :=
  (s.freeStep.setLink slot { s.link slot with pairing := 1 }).sendFlit slot 7 [1, s.freeVal]

/-! ### Adoption (R411 to R413) -/

/-- The trust list is in use, and the serials it names (R413, R509); an unreadable page keeps it in use and names none. -/
def trustList (s : State) : Bool × List Nat :=
  let page (p : Nat) : Bool × List Nat :=
    let b := s.hemBytes p 1
    if b.all (· == 0) then (false, [])
    else if ofLe ((b.drop 252).take 4) = crc32c (b.take 252) then
      let l := ((List.range 15).map fun i => ofLe ((b.drop (16 * i)).take 16)).filter (· != 0)
      (!l.isEmpty, l)
    else (true, [])
  (List.range 64).foldl (fun a p => let x := page (70 + p); (a.1 || x.1, a.2 ++ x.2)) (false, [])

/-- The trust list is read (R509): a page that fails its check sets TRUST_BAD and fires source 869. -/
def trustCheck (s : State) : State :=
  let bad (p : Nat) : Bool :=
    let b := s.hemBytes p 1
    b.any (· != 0) && ofLe ((b.drop 252).take 4) != crc32c (b.take 252)
  if (List.range 64).any fun p => bad (70 + p) then (s.setF KPS.HEM_CHECK_TRUST_BAD 1).fire 869 else s.setF KPS.HEM_CHECK_TRUST_BAD 0

/-- The SET_ID carried by the most cartridges of planned groups (R411): none where no cartridge carries one; `tie` where two lead. -/
def takeSet (s : State) : Option Nat × Bool :=
  let ids := (((List.range 32).filter fun n => Nat.testBit s.plan.groups (n / 8) && (s.cart n).present && (s.link n).up).map fun n => (s.cart n).ident.setId).filter (· != 0)
  let count (i : Nat) : Nat := (ids.filter (· == i)).length
  let best := ids.foldl (fun a i => max a (count i)) 0
  match (ids.filter fun i => count i == best).eraseDups with
  | [] => (none, false)
  | [i] => (some i, false)
  | _ => (none, true)

/-- A position is missing from a degraded group: of a group that runs, or at a start of one whose other seven positions are adopted (R187, R190). -/
def missing (s : State) (n : Nat) : Bool :=
  !(s.cart n).adopted && (s.getF (MED.GROUP_STATUS_STATE (n / 8)) = 2 || (s.start.step = 5 && (s.groupSlots (n / 8)).length = 7))

/-- The newest anchor whose page check passes among those of the slots p (R134). -/
def anchorOf (s : State) (p : Nat → Bool) : Option Anchor :=
  s.xlt.anchors.foldl (fun best e => match e.2 with
    | some a => if a.check && p e.1 && best.all (fun b => newer a.seq b.seq) then some a else best
    | none => best) none

/-- Table 12-9 in its order. `forming`: a new set is being formed; `tie`: no set is taken. -/
def adoptResult (s : State) (n : Nat) (forming tie : Bool) : Nat :=
  let c := s.cart n
  let l := s.link n
  let (listed, names) := s.trustList
  if !c.present then 0
  else if l.step = 3 && c.adopt = 11 then 11
  else if !l.up || c.quarantined then 10
  else if !c.ident.good then 4
  else if !Nat.testBit s.plan.groups (n / 8) then 9
  else if listed && !names.contains c.ident.serial then 8
  else if tie then 5
  else if c.ident.setId = s.setId && s.setId ≠ 0 then
    (if c.ident.setSlot ≠ n then 7 else if c.ident.serial = Tab.get (fun _ => 0) s.serials n then 1 else 6)
  else if c.ident.setId ≠ 0 then 5
  else if s.missing n && !forming then 2
  else if forming then 3
  else 12

/-- A cartridge has its four Hamper bolts (R515): of dies in ascending order, one each, the least worn (DESIGN CHOICE, log 72). -/
def hamReserve (n : Nat) (s : State) : State :=
  (List.range 16).foldl (fun s die =>
    let mine := s.hamBolts n
    if 4 ≤ mine.length || mine.any (fun b => boltDie b == die) || Nat.testBit (Tab.get (fun _ => 0) s.med.failedDies n) die then s
    else match s.pickBolt n die false false with
      | some b => (s.setLedger b { s.ledger b with role := 3 }).approxNote b
      | none => s) s

/-- Decide the adoption of a slot and act on it: a replacement or a member of a new set takes the set record (R410), a flush row and, in a degraded group, a rebuild (R190, R418). The drift-model coefficients of the
cartridge's model are read (Table 17-6). -/
def adoptSlot (n : Nat) (forming tie : Bool) (s : State) : State :=
  let r := s.adoptResult n forming tie
  let was := (s.cart n).adopted
  let s0 := if (r = 1 || r = 2 || r = 3) && !was then s.calRead (if (s.cart n).ident.model = 2 then 4 else 3) else s
  let s1 := s0.setAdopt n r
  if r = 2 || r = 3 then
    let c := s1.cart n
    let s2 := (s1.setCart n { c with ident := { c.ident with setId := s.setId, setSlot := n } }).putSerials
      (Tab.set (fun _ => 0) s1.serials n c.ident.serial)
    let s3 := ((s2.flushRow n).bastKeep n).hamReserve n
    if r = 2 then s3.rebuildStart n false else s3
  else if r = 1 && !was then
    let m := s1.groupMedia (n / 8)
    let here (e : Nat × LedgerEntry) : Bool := boltSlot e.1 == n && e.2.aliasTo == 0xFFFFFFFF
    let s2 := s1.setGroupMedia (n / 8) { m with lost := m.lost.filter fun b => boltSlot b != n }
    (s2.modMed fun x => { x with gone := x.gone.filter fun q _ => psaSlot q != n, goneLed := List.filter (fun e => !here e) x.goneLed }).bastKeep n |>.hamReserve n
  else s1

/-- After any change of adoption: capacities, group states, gauges, the flush estimate (R179, R186, R266); programs that waited for a free page are placed again. -/
def adoptionDone (s : State) : State :=
  let s1 := s.plannedGroups.foldl (fun s g => s.groupNow g) s.capacityUpdate
  let s2 := ((List.range 32).filter fun n => (s1.cart n).adopted).foldl (fun s n => (s.gaugeUpdate n).indicateCheck n) s1
  (s2.plannedGroups.foldl (fun s g => s.levelUpdate g) s2).unstick.flushUpdate

/-- The serials of the set's slots as its newest valid anchor records them (R410, R412); with no valid anchor those of the cartridges that carry the set in their own slots (log 40). -/
def anchorSerials (s : State) : State :=
  let mine (n : Nat) : Bool := (s.cart n).present && (s.cart n).ident.setId == s.setId
  match s.anchorOf mine with
  | some a => s.putSerials a.serials
  | none => s.putSerials (((List.range 32).filter fun n => mine n && (s.cart n).ident.setSlot == n).foldl (fun t n => Tab.set (fun _ => 0) t n (s.cart n).ident.serial) [])

/-- Adoption at step 5 of a start (R411): the members first, then the replacements of missing positions. The answer: two SET_IDs tie. -/
def adoptAll (s0 : State) : State × Bool :=
  let s := s0.trustCheck
  let (id, tie) := s.takeSet
  let forming := id.isNone && !tie
  let s1 : State := if forming then (s.freeStep.putSetId (1 + s.freeVal % (2 ^ 128 - 1))).putSerials [] else (s.putSetId (id.getD 0)).anchorSerials
  let s2 := (List.range 32).foldl (fun s n => s.adoptSlot n forming tie) (s1.modMed fun m => { m with setNew := forming })
  let s3 := ((List.range 32).filter fun n => (s2.cart n).adopt = 12).foldl (fun s n => s.adoptSlot n forming tie) s2
  (s3.adoptionDone, tie)

/-! ### What a start waits for (R178, R326, R443, R448) -/

/-- The coldest healthy die zone lies below the start-inhibit threshold (R443). -/
def tooCold (s : State) : Bool :=
  (List.range 8).any fun z => !s.zoneOut z && (match s.zoneOwn z with | some t => decide (t < s.limitOf THM.LIMITS_A_INHIBIT 0) | none => false)

/-- GiB that the plan needs (R178). -/
def neededGib (s : State) : Nat :=
  if s.plan.mappedGib ≠ 0 then s.plan.mappedGib
  else ceilDiv (s.plan.regions.foldl (fun m r => max m (r.base + r.size)) 0) 4

/-- A planned group has fewer than 7 adopted cartridges (R178). -/
def groupShort (s : State) : Bool := s.plannedGroups.any fun g => (s.groupSlots g).length < 7

/-- The plan needs more than the plannable capacity (R178). -/
def capacityShort (s : State) : Bool := decide (s.getF MED.CAPACITY_PLANNABLE < s.neededGib)

/-- The cause for which step 6 waits, 0 for none: a group with fewer than 7 cartridges, the capacity, the REQUIRED slots. -/
def stepSixCause (s : State) : Nat :=
  if s.groupShort then 7 else if s.capacityShort then 8 else if !s.requiredActive then 9 else 0

/-- Each check of the plan that fails fires its source (R178). -/
def planFire (s : State) : State :=
  let s1 := if s.groupShort then s.fire 210 else s
  if s.capacityShort then s1.fire 211 else s1

/-- A waiting cause of Table 14-3 is still in force. -/
def causeHolds (s : State) (w : Nat) : Bool := match w with
  | 1 => s.tooCold
  | 6 => s.trustCheck.takeSet.2
  | 7 => s.groupShort
  | 8 => s.capacityShort
  | _ => !s.requiredActive

/-- The plan check has found cause c, 0 for none: the cause shown stays while it holds, and one that has cleared gives way to c (R447, R448). -/
def causeShow (c : Nat) (s : State) : State :=
  let found (s : State) : State := if c = 0 then s else s.planFire.startCause c false
  match s.start.waiting with
  | some w => if s.causeHolds w then s else found s.causeClear
  | none => found s

/-- The mapped capacity in force (R178). -/
def mappedNow (s : State) : State :=
  let v := if s.plan.mappedGib ≠ 0 then s.plan.mappedGib else min (s.getF MED.CAPACITY_PLANNABLE) (maxMapped s.order / 2 ^ 30)
  (s.modMed fun m => { m with mapped := v }).setF MED.CAPACITY_MAPPED v

/-- The owners of the spools without a SPOOL_DEFAULTS record (R420). -/
def defaultOwners : List SpoolOwner :=
  (List.range 16).map fun n => { owner := n, subFirst := 256 * n, subCount := 256, cplFirst := 4096 + 256 * n, cplCount := 256, winBase := 16 + 63 * n, winSize := 63 }

/-- Copy B of the Hamper is read (R513, R516): the next SEQ and the horizon rise to what it holds. -/
def copyBRead (s : State) : State :=
  let s1 : State := s.putHam { s.ham with bRead := true }
  let b := s1.hamAllB
  let top := (b.map fun r => r.seq + 1).foldl max s1.ham.nextSeq
  let hor := ((b.filter fun r => r.code == 0x0B01).map (·.seq)).foldl max s1.ham.horizon
  ((s1.putHam { s1.ham with nextSeq := top % 2 ^ 48, horizon := hor }) : State).hamRegs

/-- Step 6 runs once step 5 has completed and the fill has ended (R442): the key store, then the plan check. Its success begins step 7, to which the assignment of the spools
belongs (Table 14-1). -/
def stepSix (s : State) : State :=
  if s.start.step ≠ 6 || !s.start.filled || s.start.failed.isSome then s
  else
    let s1 := if s.cip.keysRead then s else s.copyBRead.keyStoreRead
    let c := s1.stepSixCause
    if c = 0 then
      let s2 := (if s1.start.waiting.isSome then s1.causeClear else s1).mappedNow.stepDone 6
      (s2.modSpl fun p => { p with owners := [s.plan.spools.getD defaultOwners] }).modStart fun t => { t with step7At := s.clk.now, recovery := 1 }
    else s1.causeShow c

/-- Step 2 is complete (R442): the power-up begins. After a reset flush the rails are up: step 3 is behind the start, and CORE is commanded to VMAX (R475). -/
def stepTwoDone (s : State) : State :=
  let s1 := s.stepDone 2
  if s1.seq.state == .on then ((s1.stepDone 3).avsSend s1.vmaxMv).modPace fun p => { p with awaitRelease := true } else s1.powerUpBegin

/-- A waiting cause is evaluated again (R448). Where the start was abandoned meanwhile nothing waits; one that has failed shows its failure once the waiting cause has cleared.
A start that waits at the end of step 7 goes on with the next WAITING_REEVALUATE. -/
def reevaluate (s : State) : State := match s.start.waiting, s.start.failed with
  | some w, some f => if s.causeHolds w then s else (s.causeClear.modStart fun t => { t with failed := none }).startCause f true
  | some 1, none => if s.tooCold then s else s.causeClear.stepTwoDone
  | some 6, none =>
    let (s1, tie) := s.adoptAll
    if tie then s1 else (s1.causeClear.stepDone 5).stepSix
  | some _, none => if s.start.step = 7 then s.causeShow s.stepSixCause else s.stepSix
  | none, _ => s

end State

end Sys2Proof.Machine
end

