-- ==== Sys2Proof/Machine/Link.lean ====
section
/-!
DEFINITION. Commands of the cartridge links (12): flits received, timers, retrains, lane sparing.
-/
namespace Sys2Proof.Machine

namespace State

/-! ### What the device reads from a cartridge (R407, R408) -/

/-- An identity record (Table 12-7), and whether R407 accepts it. -/
def identOf (b : List Byte) : CartIdent :=
  let u (o n : Nat) : Nat := ofLe ((b.drop o).take n)
  let geometry := (u 4 2 = 1 && u 0x1A 2 = 2048) || (u 4 2 = 2 && u 0x1A 2 = 4096)
  { model := u 4 2, serial := u 8 16, setId := u 0x28 16, setSlot := u 0x38 1,
    good := b.length == 128 && u 0 4 == 0x44494B57 && u 6 2 == 1 && u 0x18 1 == 16 && u 0x1C 2 == 8192 && u 0x20 4 == 3000000 && geometry && u 0x7C 4 == crc32c (b.take 124) }

/-- Bytes of a record in the registers of Table 12-21. -/
def recordRegs (f : Nat → Fld) (n : Nat) (b : List Byte) (s : State) : State :=
  (List.range n).foldl (fun s w => s.setF (f w) (ofLe ((b.drop (4 * w)).take 4))) s

/-- TEMP, FAILED_DIES and FLAGS of a health record or a STATUS flit (R408): newly failed dies fail (R176). -/
def healthTake (slot temp failed flags : Nat) (s : State) : State :=
  let s1 := s.setCart slot { s.cart slot with temp := some (signed16 temp), fault := Nat.testBit flags 0 }
  let s2 := if (s1.cart slot).adopted then (bitsOf 16 failed).foldl (fun s d => s.dieFail slot d) s1 else s1
  s2.indicateCheck slot

/-- Step 5 of Table 12-4 once IDENT and HEALTH are read: the link is up, source 256 + 8n + 2. -/
def linkUp (slot : Nat) (s : State) : State :=
  let l := s.link slot
  if l.up || l.step ≠ 4 || !l.identOk || !l.healthOk then s
  else
    let s1 := s.setLink slot { l with up := true, step := 5, tries := 0, retraining := false, late := false }
    (((s1.setF (VLK.CMD_RETRAIN slot) 0).setF (VLK.STATUS_STATE slot) 3).fire (256 + 8 * slot + 2)).presenceUpdate slot |>.flushUpdate

/-- Step 6: the last bolt of the last die is read. Outside a start adoption is decided now (R412); at a start step 5 decides it for every slot (R411). -/
def ledgerRead (slot : Nat) (s : State) : State :=
  let s1 := s.setLink slot { s.link slot with step := 6 }
  if s1.topState = 3 || 6 ≤ s1.start.step then (s1.adoptSlot slot false (s1.start.waiting == some 6)).adoptionDone.reevaluate else s1

/-- A ledger entry that cannot be read (R147): the wear count is that of the bolt's newest summary page plus 1, or the largest RESETS on the die; state, role and first
program come from the selvages in the bolt. What no selvage tells, the frame's number and places, stays as the media tables have it (log 44). -/
def ledgerRecover (b : Nat) (s : State) : State :=
  let told (e : Nat × Option Page) : Option Page := e.2.filter fun p => p.selv.typ == 6 && p.refs.head? == some b && p.selv.check
  let newest (m : Option Page) (p : Page) : Option Page := if m.all fun o => o.selv.age < p.selv.age then some p else m
  let wear := match (s.med.pages.filterMap told).foldl newest none with
    | some p => p.refs.getD 1 0 + 1
    | none => s.med.ledger.foldl (fun m e => if boltSlot e.1 = boltSlot b && boltDie e.1 = boltDie b then max m e.2.resets else m) 0
  let there := s.med.pages.filterMap fun e => if boltOf e.1 = b then e.2.map fun p => (psaPage e.1, p.selv) else none
  let has (t : Nat) : Bool := there.any fun e => e.2.typ == t
  let state := if there.isEmpty then 0 else if there.any fun e => e.1 == 8191 then 2 else 1
  let role := if has 9 then 1 else if has 10 then 2 else if has 7 then 3 else 0
  let first := there.foldl (fun m e => if e.1 = 0 then e.2.age else m) 0
  s.setLedger b { s.ledger b with state, role, resets := wear, aliasTo := 0xFFFFFFFF, ageFirst := first }

/-- A LEDGER_READ of `arg` fails: its entries are recovered (R147), and the bring-up goes on as if it had been read. -/
def ledgerUnread (slot arg : Nat) (s : State) : State :=
  let die := arg / 2 ^ 26
  let first := arg / 2 ^ 13 % 2 ^ 13
  let s1 := (List.range (arg % 2 ^ 13)).foldl (fun s k => s.ledgerRecover (mkBolt slot die (first + k))) s
  if die = 15 && s.boltsPerDie slot ≤ first + arg % 2 ^ 13 && 5 ≤ (s.link slot).step then s1.ledgerRead slot else s1

/-! ### Commands of Table 12-6 -/

/-- Die, first bolt and count of a LEDGER_READ in one number. -/
def ledgerArg (die first n : Nat) : Nat := die * 2 ^ 26 + first * 2 ^ 13 + n

/-- The die that a command addresses; 16 where it addresses none. -/
def cmdDie (c : CmdRec) : Nat :=
  if c.op = 1 || c.op = 2 || c.op = 3 then psaDie c.arg
  else if c.op = 4 || c.op = 6 then boltDie c.arg
  else if c.op = 5 then c.arg / 2 ^ 26
  else 16

/-- DATA flits that follow a response. -/
def cmdData (c : CmdRec) : Nat :=
  if c.op = 2 then 41 else if c.op = 5 then ceilDiv (c.arg % 2 ^ 13) 4 else if c.op = 7 then 29 else 0

/-- A TAG ends. -/
def freeCmd (slot tag : Nat) (s : State) : State :=
  let l := s.link slot
  s.setLink slot { l with tags := l.tags.filter (·.tag != tag) }

/-- A PROGRAM or RESET refused under R405: an exit from the write window (R409); a refused program is handed over again later. -/
def refusal (slot : Nat) (c : CmdRec) (s : State) : State :=
  let again (p : Prog) : Prog := if c.op = 3 && s.physPsa p.psa = c.arg then { p with sent := false } else p
  let s1 := s.modMed fun m => { m with progs := m.progs.map again }
  (s1.setCart slot { s1.cart slot with refused := some 0 }).setWindow slot false

/-- A command has completed with status 0. -/
def cmdDone (slot : Nat) (c : CmdRec) (payload : List Byte) (s : State) : State :=
  if c.op = 5 then
    (if c.arg / 2 ^ 26 = 15 && s.boltsPerDie slot ≤ c.arg / 2 ^ 13 % 2 ^ 13 + c.arg % 2 ^ 13 && 5 ≤ (s.link slot).step then s.ledgerRead slot else s)
  else if c.op = 9 then
    let s1 := (s.setCart slot { s.cart slot with ident := identOf payload }).setLink slot { s.link slot with identOk := true }
    (s1.recordRegs (CAR.IDENT_BYTES slot) 32 payload).linkUp slot
  else if c.op = 10 then
    if payload.length ≠ 64 || ofLe (payload.drop 60) ≠ crc32c (payload.take 60) then s
    else
      let u (o : Nat) : Nat := ofLe ((payload.drop o).take 2)
      let s1 := (s.setLink slot { s.link slot with healthOk := true }).recordRegs (CAR.HEALTH_BYTES slot) 16 payload
      (s1.healthTake slot (u 0) (u 2) (u 6)).linkUp slot
  else if c.op = 13 then
    let s1 := (s.setCart slot { s.cart slot with quiesced := true }).setF (VLK.STATUS_STATE slot) 6
    if (s1.cart slot).cmd = some 2 then s1.linkTrain slot false else s1
  else s

/-- CAR.CMD completes. -/
def carDone (slot r : Nat) (s : State) : State :=
  let s1 := s.setCart slot { s.cart slot with cmd := none }
  ((s1.setF (CAR.CMD_STATUS_BUSY slot) 0).setF (CAR.CMD_STATUS_DONE slot) 1).setF (CAR.CMD_STATUS_RESULT slot) r

/-- A CAR.CMD in progress ends with a link failure. -/
def carFail (slot : Nat) (s : State) : State := if (s.cart slot).cmd.isSome then s.carDone slot 2 else s

end State

/-! ### Flits -/

/-- RSP_FLIT (R394, R402, R405): the command of its TAG ends with the status of Table 12-5; DATA flits may follow. -/
def execRspFlit (slot : Nat) (h : FlitHead) (tag status : Nat) (payload : List Byte) (s : State) : Out :=
  let (s1, ok) := s.rxFlit slot h true
  if !ok then .next s1
  else
    let q := (s.link slot).rxCount
    match (s1.link slot).tags.find? fun c => c.tag == tag && c.total == 0 with
    | none => .next (s1.sendNak slot 4 q).healthCheck
    | some c =>
      if 6 < status then .next (s1.sendNak slot 5 q).healthCheck
      else if status = 0 && State.cmdData c ≠ 0 then
        let upd (x : CmdRec) : CmdRec := if x.tag == tag then { x with total := State.cmdData c } else x
        .next (s1.setLink slot { s1.link slot with tags := (s1.link slot).tags.map upd })
      else
        let s2 := s1.freeCmd slot tag
        if status = 0 then .next (s2.cmdDone slot c payload).healthCheck
        else
          let s3 := if c.op = 5 then (s2.ledgerUnread slot c.arg).healthCheck else s2
          if status = 3 && State.cmdDie c < 16 then .next ((s3.dieFail slot (State.cmdDie c)).indicateCheck slot).healthCheck
          else if status = 5 && (c.op = 3 || c.op = 4) then .next (s3.refusal slot c).healthCheck
          else .next s3

/-- DATA_FLIT (R394, R402): the next part of a response's data. -/
def execDataFlit (slot : Nat) (h : FlitHead) (tag part : Nat) (s : State) : Out :=
  let (s1, ok) := s.rxFlit slot h true
  if !ok then .next s1
  else
    let q := (s.link slot).rxCount
    match (s1.link slot).tags.find? fun c => c.tag == tag with
    | none => .next (s1.sendNak slot 4 q).healthCheck
    | some c =>
      if c.total = 0 || part ≠ c.next then .next (s1.sendNak slot 7 q).healthCheck
      else if part + 1 = c.total then .next ((s1.freeCmd slot tag).cmdDone slot c []).healthCheck
      else
        let upd (x : CmdRec) : CmdRec := if x.tag == tag then { x with next := part + 1 } else x
        .next (s1.setLink slot { s1.link slot with tags := (s1.link slot).tags.map upd })

/-- NAK_FLIT (R393, R394): reason 0 asks for a replay; reasons 2 to 7 are violations that the cartridge reports. -/
def execNakFlit (slot : Nat) (h : FlitHead) (reason _count : Nat) (s : State) : Out :=
  let (s1, ok) := s.rxFlit slot h true
  if !ok then .next s1
  else if reason = 0 then .next (s1.replay slot).healthCheck
  else if reason = 1 then .next s1
  else if reason < 8 then .next (s1.linkViolation slot reason true).healthCheck
  else .next (s1.sendNak slot 5 (s.link slot).rxCount).healthCheck

/-- STATUS_FLIT (R408, R409). Reserved FLAGS bits that are set are a violation (Table 12-3). -/
def execStatusFlit (slot : Nat) (h : FlitHead) (temp failed _power flags : Nat) (s : State) : Out :=
  let (s1, ok) := s.rxFlit slot h true
  if !ok then .next s1
  else if 1 < flags then .next (s1.sendNak slot 5 (s.link slot).rxCount).healthCheck
  else .next (s1.healthTake slot temp failed flags).healthCheck

/-- IDLE_FLIT (R389, R391, R393): it is not counted; it carries ACK and CREDIT. -/
def execIdleFlit (slot : Nat) (h : FlitHead) (s : State) : Out := .next (s.rxFlit slot h false).1.healthCheck

/-- FLIT_CORRUPT (R392 to R394): a flit whose FEC decode or CRC fails is discarded, counted, and answered by a NAK with reason 0. -/
def execFlitCorrupt (slot : Nat) (_crc : Bool) (s : State) : Out :=
  let l := s.link slot
  if l.step < 2 || s.halted then .next s
  else .next (((s.setLink slot { l with nakOut := true }).countF (VLK.CRC_FAIL_COUNT slot) 1).sendFlit slot 4 [0, l.rxCount])

/-! ### Timers -/

/-- REPLAY_TIMEOUT (R393): no ACK has advanced for 2 µs. -/
def execReplayTimeout (slot : Nat) (s : State) : Out :=
  if (s.link slot).step < 2 then .next s else .next (s.replay slot).healthCheck

/-- RESPONSE_TIMEOUT (R394, R402): the command fails; a violation of reason 8. A program or reset stays with its cartridge; unread ledger entries are recovered (R147). -/
def execResponseTimeout (slot tag : Nat) (s : State) : Out :=
  match (s.link slot).tags.find? fun c => c.tag == tag with
  | none => .next s
  | some c =>
    let s1 := s.freeCmd slot tag
    .next ((if c.op = 5 then s1.ledgerUnread slot c.arg else s1).linkViolation slot 8 false).healthCheck

/-- RETRAIN_TIMEOUT (R397): the link is not up 100 ms after a retrain began; the position is not present for new frames. -/
def execRetrainTimeout (slot : Nat) (s : State) : Out :=
  let l := s.link slot
  if l.retraining then .next ((s.setLink slot { l with late := true }).presenceUpdate slot).healthCheck else .next s

/-- STATUS_TIMEOUT (R409): no STATUS flit for 10 ms: the temperature is unknown and the cartridge leaves the write window. -/
def execStatusTimeout (slot : Nat) (s : State) : Out :=
  if !(s.link slot).up then .next s
  else .next (((s.setCart slot { s.cart slot with temp := none }).setF (CAR.STATUS_TEMP slot) 0).setWindow slot false).healthCheck

/-- LINK_BRINGUP_TIMEOUT (R399): training is tried twice more; then STATE is 0 and the adoption result 10. A link that waits at step 3 with another key, or for its key,
is not retried. -/
def execLinkBringupTimeout (slot : Nat) (s : State) : Out :=
  let l := s.link slot
  if l.step = 0 || l.up || (s.cart slot).adopt = 11 || s.linkKey.isNone then .next s
  else if l.tries < 2 then .next ((s.setLink slot { l with tries := l.tries + 1 }).linkTrain slot l.retraining)
  else .next (((s.setLink slot { l with tries := 0 }).linkStop slot 0).carFail slot |>.cartGone slot 10).healthCheck

/-! ### Training and retrains -/

/-- FEC_LOCK (R398, steps 2 and 3 of Table 12-4): the lanes have trained; `lane` is the one in use at x1. The device's HELLO follows. -/
def execFecLock (slot width lane : Nat) (s : State) : Out :=
  let l := s.link slot
  if l.step ≠ 1 then .next s
  else
    let forced := s.flag (VLK.CTRL_FORCE_X1 slot)
    let kept := if l.atX1 || !s.flag (VLK.CTRL_LANE_RETURN slot) then l.spared else none
    let (w, ln, sp) := if forced then (1, 0, l.spared)
      else match kept with
        | some bad => (1, 1 - bad, kept)
        | none => if width = 1 then (1, lane % 2, some (1 - lane % 2)) else (2, 0, none)
    let s1 := s.setLink slot { l with step := 2, width := w, spared := sp, atX1 := false }
    let s2 := ((s1.setF (VLK.STATUS_STATE slot) 2).setF (VLK.STATUS_WIDTH slot) w).setF (VLK.STATUS_LANE slot) ln
    let s3 := if l.spared.isSome != sp.isSome then s2.fire (256 + 8 * slot + 7) else s2
    .next (s3.sendHello slot)

/-- LANE_SPARING (R398): the FEC corrections of a lane exceed their rate; the link trains at x1 on the other lane. -/
def execLaneSparing (slot lane : Nat) (s : State) : Out :=
  let l := s.link slot
  if !l.up || l.spared.isSome then .next s
  else
    let s1 := ((s.setLink slot { l with spared := some (lane % 2) }).fire (256 + 8 * slot + 7)).retrain slot
    let m := s1.link slot
    .next (s1.setLink slot { m with atX1 := m.step == 1 }).healthCheck

/-- CARTRIDGE_LINK_DOWN (R397, R417): a link that was up has gone down: it is retrained; a withdrawal takes effect with PRESENCE_CHANGE. -/
def execCartridgeLinkDown (slot : Nat) (s : State) : Out :=
  if (s.link slot).up then .next (s.retrain slot).healthCheck else .next s

namespace State

/-- VLK.CMD.RETRAIN is written (R395): it reads 1 until the link is up again or stops (Table 02-8). -/
def retrainCmd (slot : Nat) (s : State) : State :=
  if !s.canTrain slot then s
  else
    let s1 := s.retrain slot
    (s1.setFlag (VLK.CMD_RETRAIN slot) (s1.link slot).retraining).healthCheck

/-- VLK.CMD.UNQUARANTINE is written: the quarantine ends, the history is cleared, the link trains afresh (R396). -/
def unquarantineCmd (slot : Nat) (s : State) : State :=
  if !(s.cart slot).quarantined then s
  else
    let s1 := (s.setCart slot { s.cart slot with quarantined := false }).setLink slot {}
    let s2 := (s1.setF (VLK.STATUS_RETRAINS slot) 0).setF (VLK.STATUS_STATE slot) 0
    (if s2.canTrain slot then s2.linkTrain slot false else s2).healthCheck

end State

/-- VLK_RETRAIN (R395, Table 12-14). -/
def execVlkRetrain (m slot : Nat) (s : State) : Out :=
  .next (s.regAction m (0x100008 + 4096 * slot) true (State.retrainCmd slot))

/-- UNQUARANTINE (R396): a write of 1 to VLK.CMD.UNQUARANTINE. -/
def execUnquarantine (m slot : Nat) (s : State) : Out := .next (s.regAction m (0x100008 + 4096 * slot) true (State.unquarantineCmd slot))

end Sys2Proof.Machine
end

