-- ==== Sys2Proof/Machine/Cartridge.lean ====
section
/-!
DEFINITION. Cartridges (12): HELLO and pairing, the commands of Table 12-6 as the device sends them, presence, attention, CAR.CMD.
-/
namespace Sys2Proof.Machine

/-! ### HELLO and pairing (R400, R401) -/

/-- HELLO (R400): the key identifiers match: the session key is formed (R341) and key check 0 goes out; else the adoption result is 11, and a cartridge with the zero key is
paired while PAIR_AUTO is 1. -/
def execHello (slot : Nat) (h : FlitHead) (msg : HelloMsg) (s : State) : Out :=
  let (s1, ok) := s.rxFlit slot h true
  if !ok then .next s1
  else
    let l := s1.link slot
    match s1.linkKey with
    | none => .next s1
    | some k =>
      if l.step ≠ 3 then .next s1
      else if (s1.cart slot).cmd = some 2 && l.pairing = 0 then .next (s1.sendPairPub slot)
      else if msg.credits < 512 then .next (s1.sendNak slot 5 (s.link slot).rxCount).healthCheck
      else if msg.keyId = State.keyIdOf k then
        let ks := aesEnc (keyLow k) (l.nonce + 2 ^ 64 * (msg.nonce % 2 ^ 64)) % 2 ^ 64
        let session : LinkKey := { l := k, ks, sent := 1 }
        let s2 := (s1.setLink slot { l with credits := msg.credits, granted := msg.credits }).setLinkSession slot (some session)
        .next ((s2.setF (VLK.STATUS_CREDITS slot) (min 1023 msg.credits)).sendFlit slot 5 [0, State.checkWord session 0 false])
      else
        let s2 := s1.cartGone slot 11
        let zero := msg.keyId == State.keyIdOf 0 && s2.flag (VLK.CTRL_PAIR_AUTO slot)
        .next (if zero && l.pairing = 0 then s2.sendPairPub slot else s2).healthCheck

/-- PAIR_PUB (R401): the cartridge answers with its public key. -/
def execPairPub (slot : Nat) (h : FlitHead) (s : State) : Out :=
  let (s1, ok) := s.rxFlit slot h true
  let l := s1.link slot
  if ok && l.pairing = 1 then .next (s1.setLink slot { l with pairing := 2 }) else .next s1

/-- PAIR_KEY (R401): the device sends the link key, wrapped under the key-encryption key of the shared secret (log 12). -/
def execPairKey (slot : Nat) (s : State) : Out :=
  let l := s.link slot
  match s.linkKey with
  | some k => if l.pairing = 2 then .next ((s.setLink slot { l with pairing := 3 }).sendFlit slot 7 (2 :: (keyWrap ((Config.digest 2 [slot, l.nonce]).headD 0) (le 32 (keyLow k))).map (·.toNat))) else .next s
  | none => .next s

/-- PAIR_OK (R401): the cartridge holds the key; bring-up resumes at step 3. Another identifier than the key's is a link failure of CAR.CMD. -/
def execPairOk (slot : Nat) (h : FlitHead) (keyId : Nat) (s : State) : Out :=
  let (s1, ok) := s.rxFlit slot h true
  let l := s1.link slot
  if !ok || l.pairing ≠ 3 then .next s1
  else
    let s2 := s1.setLink slot { l with pairing := 0 }
    if s2.linkKey.any fun k => State.keyIdOf k == keyId then
      .next ((if (s2.cart slot).cmd = some 2 then s2.carDone slot 0 else s2).sendHello slot)
    else .next (s2.carFail slot)

/-- UNPAIR (R401, R414): for the CLAIM of a cartridge with another key, the device makes it return to the zero key and pairs it. -/
def execUnpair (slot : Nat) (s : State) : Out :=
  let l := s.link slot
  if (s.cart slot).cmd = some 1 && l.step = 3 && l.pairing = 0 then .next ((s.sendFlit slot 7 [4]).sendPairPub slot) else .next s

/-! ### Commands of Table 12-6 (R402): the device's CMD flit and the DATA flits that follow it -/

/-- Die, bolt and page of a PSA. -/
def psaArgs (psa : Nat) : List Nat := [psaDie psa, psaBolt psa, psaPage psa]

/-- A read-reference set that the device uses on a page (R169, R172, R317): the predicted one, a ladder step's, or that of a raw debug read under way. -/
def refSetUsed (s : State) (psa refSet : Nat) : Bool :=
  (List.range 5).any (fun k => ladderSet (s.predictedSet psa) k == some refSet) || s.dbg.raw.any fun j => j.psa == psa && j.refset == refSet

/-- READ_LINE: no data of a cartridge that is not adopted is read (R412). -/
def execReadLine (slot psa lslot refSet : Nat) (s : State) : Out :=
  if psaSlot psa = slot && (s.cart slot).adopted && refSetUsed s psa refSet then .next (s.sendCmd slot 1 psa (psaArgs psa ++ [lslot, refSet]) [] []) else .next s

/-- READ_PAGE, under the predicted read-reference set (R170). -/
def execReadPage (slot psa : Nat) (s : State) : Out :=
  if psaSlot psa = slot && (s.cart slot).adopted then .next (s.sendCmd slot 2 psa (psaArgs psa ++ [s.predictedSet psa]) [] []) else .next s

/-- PROGRAM (R404, R409): a page handed to the cartridge goes out, with NOSUSP where a flush writes it. -/
def execProgram (slot psa : Nat) (s : State) : Out :=
  match s.med.progs.find? fun p => s.physPsa p.psa == psa && !p.sent with
  | none => .next s
  | some p =>
    if psaSlot psa ≠ slot || !(s.cart slot).adopted || !(s.cart slot).inWindow || s.getF (MED.CART_MEDIA_CLASS slot) = 3 || !s.canSend slot 3 42 then .next s
    else
      let sent (x : Prog) : Prog := if x.psa == p.psa then { x with sent := true } else x
      .next ((s.sendCmd slot 3 psa (psaArgs psa ++ [if p.nosusp then 1 else 0]) [] (s.pageBytes (s.withPlace p.psa p.page))).modMed fun m => { m with progs := m.progs.map sent })

/-- RESET: a bolt that is STALE, or that a CLAIM blanks, inside the write window. -/
def execReset (slot die bolt : Nat) (s : State) : Out :=
  let b := mkBolt slot die bolt
  let c := s.cart slot
  if (s.med.resets.contains b && c.adopted && c.inWindow && s.getF (MED.CART_MEDIA_CLASS slot) ≠ 3 && !s.boltRead b) || c.cmd = some 1 then .next (s.sendCmd slot 4 b [die, bolt] [] []) else .next s

/-- LEDGER_READ. -/
def execLedgerRead (slot die first n : Nat) (s : State) : Out :=
  .next (s.sendCmd slot 5 (State.ledgerArg die first n) [die, first, n] [] [])

/-- LEDGER_WRITE: the entry as the media engine has set it, a Hamper bolt's as its pages have it (R515). -/
def execLedgerWrite (slot die bolt : Nat) (s : State) : Out :=
  let b := mkBolt slot die bolt
  let e := s.ledgerNow b
  .next (s.sendCmd slot 6 b [die, bolt, e.state, e.role, e.series, e.position, e.frame, e.parityAt, e.parityNext, e.aliasTo, e.ageFirst] (ledgerBytes e) [])

/-- RSV_READ. -/
def execRsvRead (slot block : Nat) (s : State) : Out := .next (s.sendCmd slot 7 block [block] [] [])

/-- RSV_WRITE (R403): a block of the reserved area. -/
def execRsvWrite (slot block : Nat) (bytes : List Byte) (s : State) : Out :=
  if !s.canSend slot 8 30 then .next s
  else
    let c := s.cart slot
    .next ((s.setCart slot { c with rsv := Tab.set (fun _ => []) c.rsv block (padTo 4096 bytes) }).sendCmd slot 8 block [block] [] (padTo 4096 bytes))

/-- IDENT. -/
def execIdent (slot : Nat) (s : State) : Out := .next (s.sendCmd slot 9 0 [] [] [])
/-- HEALTH. -/
def execHealth (slot : Nat) (s : State) : Out := .next (s.sendCmd slot 10 0 [] [] [])
/-- SET_RECORD (R410): the set record as adoption or CLAIM has set it. -/
def execSetRecord (slot : Nat) (s : State) : Out :=
  let i := (s.cart slot).ident
  .next (s.sendCmd slot 11 0 [i.setId, i.setSlot] [] [])
/-- INDICATOR (Table 12-10). -/
def execIndicator (slot : Nat) (s : State) : Out := .next (s.sendCmd slot 12 0 [(s.cart slot).indicator] [] [])
/-- QUIESCE (R406). -/
def execQuiesce (slot : Nat) (s : State) : Out := if (s.link slot).up then .next (s.sendCmd slot 13 0 [] [] []) else .next s

/-! ### Presence and attention (R415 to R418) -/

/-- What a slot's registers show of an empty slot. -/
def emptyRegs (n : Nat) (s : State) : State :=
  let z (s : State) (f : Fld) : State := s.setF f 0
  let s1 := [CAR.STATUS_ATTN n, CAR.STATUS_READY n, CAR.STATUS_ATTN_REFUSED n, CAR.STATUS_INDICATOR n, CAR.STATUS_TEMP n].foldl z s
  (s1.recordRegs (CAR.IDENT_BYTES n) 32 []).recordRegs (CAR.HEALTH_BYTES n) 16 []

/-- What the other cartridges still tell of the member of the set that leaves slot n for good: the pages and ledger entries of the bolts that frames use (R187, R190). What the media
engine kept on that cartridge itself, its basting sets among it, ends. -/
def leaveFrames (n : Nat) (s : State) : State :=
  let used := ((s.med.frames.flatMap fun f => f.allBolts).map s.aliasOf).filter fun b => boltSlot b == n
  s.modMed fun m => { m with
    gone := (m.pages.filter fun q v => v.isSome && used.contains (boltOf q)).foldl (fun t e => Tab.set (fun _ => none) t e.1 e.2) m.gone
    goneLed := (m.ledger.filter fun b e => used.contains b || (boltSlot b == n && e.aliasTo != 0xFFFFFFFF)).foldl (fun t e => Tab.set (fun _ => {}) t e.1 e.2) m.goneLed
    bast := m.bast.filter fun t => t.slot != n
    bastBolts := m.bastBolts.filter fun e => e.1 != n
    bastNo := Tab.set (fun _ => 0) m.bastNo n 0
    parityAt := m.parityAt.filter fun _ v => v.any fun a => boltSlot a.1 != n
    resets := m.resets.filter fun b => boltSlot b != n }

/-- The cartridge in slot n, or the last one there, is the set's member for it (R412, result 1). -/
def setMember (s : State) (n : Nat) : Bool :=
  let i := (s.cart n).ident
  i.setId == s.setId && i.setId != 0 && i.setSlot == n && i.serial == Tab.get (fun _ => 0) s.serials n

/-- A cartridge is seated in slot n: the one that was there, with what it holds, or another with its own ledger, pages, anchor and key store. -/
def seat (n : Nat) (sc : SeatedCart) (s : State) : State :=
  let c := s.cart n
  if sc.same then s.setCart n { ident := c.ident, rsv := c.rsv, store := c.store, present := true }
  else
    let sa := if setMember s n then leaveFrames n s else s
    let led := (sc.ledger.filter fun k _ => k < 65536).map fun _ e => e
    let ledger := led.foldl (fun t e => Tab.set (fun _ => {}) t (65536 * n + e.1) e.2) (sa.med.ledger.filter fun b _ => boltSlot b != n)
    let pages := (sc.pages.filter fun k _ => k < 2 ^ 29).foldl (fun t e => Tab.set (fun _ => none) t (2 ^ 29 * n + e.1) (some e.2))
      (sa.med.pages.filter fun q _ => psaSlot q != n)
    let s0 := (sa.modMed fun m => { m with ledger, pages, failedDies := Tab.set (fun _ => 0) m.failedDies n 0 }).setF (MED.CART_MEDIA_FAILED_DIES n) 0
    let s1 := (s0.setF (MED.CART_MEDIA_SPARES_OUT n) 0).modXlt fun x => { x with anchors := Tab.set (fun _ => none) x.anchors n sc.anchor }
    let s2 := s1.modCip fun p => { p with stores := Tab.set (fun _ => none) p.stores n none }
    let s3 : State := s2.putHam { s2.ham with bPages := s2.ham.bPages.filter fun p => p.slot != n, bResets := s2.ham.bResets.filter fun k _ => k / 4 != n }
    s3.setCart n { present := true, store := sc.store }

/-- PRESENCE_CHANGE (R415, R396, R417, R418): a cartridge is seated or withdrawn; source 256 + 8n, unless the core is quiet: then the latch posts it (R530, R531). -/
def execPresenceChange (slot : Nat) (seated : Option SeatedCart) (s : State) : Out :=
  if slot ≥ 32 || seated.isSome = (s.cart slot).present then .next s
  else
    let s1 := s.modPins fun p => { p with cprsnt := Tab.set (fun _ => false) p.cprsnt slot seated.isSome }
    let s2 := if s1.intc.quiet then s1 else (s1.fire (256 + 8 * slot)).setFlag (CAR.STATUS_PRESENT slot) seated.isSome
    match seated with
    | some sc =>
      let s3 := (seat slot sc s2).setLink slot {}
      let s4 := if s3.intc.quiet then s3 else (emptyRegs slot s3).setF (VLK.STATUS_RETRAINS slot) 0
      .next (if s4.canTrain slot then s4.linkTrain slot false else s4).healthCheck
    | none =>
      let c := s2.cart slot
      let gone := if s2.intc.quiet then s2.setLink slot {} else ((s2.linkStop slot 0).carFail slot).cartGone slot 0
      let s3 := gone.setCart slot { ident := c.ident, rsv := c.rsv, store := c.store }
      .next (if s3.intc.quiet then s3 else (emptyRegs slot s3).reevaluate).healthCheck

/-- ATTENTION (R416, R189, R531): `CATTN_N` has been held for 100 ms. A position that is being prepared counts as lacking (log 49). -/
def execAttention (slot : Nat) (s : State) : Out :=
  let c := s.cart slot
  let g := slot / 8
  if !c.present || slot ≥ 32 || s.intc.quiet then .next s
  else
    let s1 := (s.fire (256 + 8 * slot + 1)).setF (CAR.STATUS_ATTN slot) 1
    if !c.adopted || c.quarantined || s.getF (MED.CART_MEDIA_CLASS slot) = 3 || !Nat.testBit s.plan.groups g then
      .next ((s1.setF (CAR.STATUS_READY slot) 1).fire 214)
    else if s.getF (MED.GROUP_STATUS_STATE g) ≠ 1 || ((s.groupSlots g).any fun n => n != slot && (s.cart n).prepared) then
      .next ((s1.setF (CAR.STATUS_ATTN_REFUSED slot) 1).indicate slot 5)
    else
      let s2 := (s1.setCart slot { c with prepared := true }).indicate slot 2
      let open_ := s2.med.frames.filter fun f => f.group == g && !f.closed
      let s3 := open_.foldl (fun s f => s.closeShort f) s2
      .next ((s3.excludeUpdate g).flushUpdate.removalCheck).healthCheck

/-! ### CAR.CMD (R401, R414, R416, Table 12-18) -/

/-- A write of CAR.CMD that is not discarded for BUSY. -/
def carCmd (slot : Nat) (act : State → State) (s : State) : State :=
  if s.flag (CAR.CMD_STATUS_BUSY slot) then s else act s

/-- A CAR.CMD begins that lasts. -/
def carBegin (slot k : Nat) (s : State) : State :=
  (s.setCart slot { s.cart slot with cmd := some k }).setF (CAR.CMD_STATUS_BUSY slot) 1

/-- CLAIM (R414): permitted for a cartridge with a result from 5 to 7, 11 or 12. UNPAIR and QUIESCE carry its first steps. -/
def claimStart (slot : Nat) (s : State) : State :=
  let c := s.cart slot
  if c.present && !c.adopted && [5, 6, 7, 11, 12].contains c.adopt then carBegin slot 1 s else s.carDone slot 1

/-- PAIR (R401, R406): any cartridge whose link has reached HELLO; a running one is quiesced first. -/
def pairStart (slot : Nat) (s : State) : State :=
  let l := s.link slot
  if !(s.cart slot).present || l.step < 3 || s.linkKey.isNone then s.carDone slot 1
  else if l.step = 3 then (carBegin slot 2 s).sendPairPub slot else carBegin slot 2 s

/-- READMIT (R416): a prepared cartridge that was not withdrawn returns to new frames. -/
def readmitNow (slot : Nat) (s : State) : State :=
  let c := s.cart slot
  if !c.prepared then s.carDone slot 1
  else
    let s1 := ((s.setCart slot { c with prepared := false }).setF (CAR.STATUS_READY slot) 0).indicate slot 0
    ((s1.excludeUpdate (slot / 8)).flushUpdate).carDone slot 0

/-- Locate on and off (Table 12-10): a state from 2 on is not overwritten. -/
def locate (slot : Nat) (on : Bool) (s : State) : State :=
  let c := s.cart slot
  if !c.present || 2 ≤ c.indicator then s.carDone slot 1 else (s.indicate slot (if on then 1 else 0)).carDone slot 0

/-- CLAIM. -/
def execClaim (m slot : Nat) (s : State) : Out := .next (s.regAction m (0x120004 + 2048 * slot) (isMgmt m) (carCmd slot (claimStart slot)))
/-- CAR_PAIR. -/
def execCarPair (m slot : Nat) (s : State) : Out := .next (s.regAction m (0x120004 + 2048 * slot) (isMgmt m) (carCmd slot (pairStart slot)))
/-- READMIT. -/
def execReadmit (m slot : Nat) (s : State) : Out := .next (s.regAction m (0x120004 + 2048 * slot) (isMgmt m) (carCmd slot (readmitNow slot)))
/-- LOCATE_ON. -/
def execLocateOn (m slot : Nat) (s : State) : Out := .next (s.regAction m (0x120004 + 2048 * slot) true (carCmd slot (locate slot true)))
/-- LOCATE_OFF. -/
def execLocateOff (m slot : Nat) (s : State) : Out := .next (s.regAction m (0x120004 + 2048 * slot) true (carCmd slot (locate slot false)))

/-- CLAIM_COMPLETE (R414, steps 3 and 4): every bolt that was neither FREE nor RETIRED has been reset and is FREE; bolts in `bad` (4096 die + bolt) failed their reset and
retire. The set record is cleared, adoption decided again, and the link brought up again (R406). -/
def execClaimComplete (slot : Nat) (linkOk : Bool) (bad : List Nat) (s : State) : Out :=
  let c := s.cart slot
  if c.cmd ≠ some 1 then .next s
  else if !linkOk || !(s.link slot).up then .next (s.carDone slot 2)
  else
    let blank (e : LedgerEntry) : LedgerEntry := if e.state = 0 || e.state = 4 then e else { resets := e.resets + 1 }
    let ledger := (s.ledgerOf slot).foldl (fun t e => Tab.set (fun _ => {}) t e.1 (blank e.2)) s.med.ledger
    let pages := s.med.pages.filter fun q _ => psaSlot q != slot
    let s1 := s.modMed fun m => { m with ledger, pages }
    let s2 := (bad.filter (· < 65536)).foldl (fun s k => let b := mkBolt slot 0 k; s.setLedger b { s.ledger b with state := 4 }) s1
    let s2 := (s2.modCip fun p => { p with stores := Tab.set (fun _ => none) p.stores slot none }).modXlt fun x =>
      { x with anchors := Tab.set (fun _ => none) x.anchors slot none }
    let s3 := s2.setCart slot { c with ident := { c.ident with setId := 0, setSlot := 0 }, store := none }
    let s4 := (s3.adoptSlot slot false false).carDone slot (if bad.isEmpty then 0 else 3)
    .next (s4.adoptionDone.linkTrain slot false).reevaluate.healthCheck

end Sys2Proof.Machine
end

