-- ==== Sys2Proof/Machine/Discard.lean ====
section
/-!
DEFINITION. The removal of every physical copy of a range (05, R184, R185) and the release of dynamic capacity extents (07, R250 to R252).
-/
namespace Sys2Proof.Machine

/-- Length of a position's parity run in a frame of w positions (R153). -/
def runLen (w : Nat) : Nat := ceilDiv 8192 (w - 1)

namespace State

/-! ### Bolts that hold a range -/

/-- A stored page holds a line of the range: a swatch page by its selvage, a patch page by its directory. -/
def pageMeets (p : Page) (first n : Nat) : Bool :=
  let inR (l : Nat) : Bool := first ≤ l && l < first + n
  (p.selv.typ = 1 && inR (64 * p.selv.swatch)) || (p.selv.typ = 2 && p.dir.any fun d => inR d.line)

/-- Bolts with a page of the range, programs under way included. -/
def hitBolts (s : State) (first n : Nat) : List Nat :=
  let stored : List Nat := List.map (fun e => boltOf e.1) (s.med.pages.filter fun _ v => v.any fun p => pageMeets p first n)
  let flying := (s.med.progs.filter fun p => pageMeets p.page first n).map fun p => s.aliasOf (boltOf p.psa)
  (stored ++ flying).eraseDups

/-- Frames with a data bolt in a list. -/
def framesIn (s : State) (bolts : List Nat) : List Frame :=
  s.med.frames.filter fun f => f.bolts.any fun b => bolts.contains (s.aliasOf b)

/-! ### Parity and basting bolts (R184) -/

/-- A parity bolt's other runs go to a new parity bolt of its cartridge, each page recomputed from its members (copied where one of them is gone); the data bolts' ledger entries name it; the
old bolt is to be reset. -/
def parityShift (b : Nat) (s : State) : State :=
  let e := s.ledger b
  match s.chooseBolt (boltSlot b) e.series true with
  | none => s
  | some y =>
    let mine (x : Nat) : Bool := x != noBolt && s.aliasOf x == b
    let old := s.med.frames
    let swap (r : Nat × Nat × Nat) : Nat × Nat × Nat := (if mine r.1 then y else r.1, r.2.1, if mine r.2.2 then y else r.2.2)
    let kept := old.flatMap fun f => (List.range f.stripes).map fun k => (f, k)
    let fresh (f : Frame) (k : Nat) (p : Page) : Page := if p.refs.all s.psaUp then { s.parityPage f k with refs := p.refs } else p
    let move (t : Tab (Option Page)) (x : Frame × Nat) : Tab (Option Page) :=
      let q := x.1.parityPsa x.2
      if s.aliasOf (boltOf q) == b then Tab.set (fun _ => none) t (mkPsa y (psaPage q)) ((s.pageAt q).map (fresh x.1 x.2)) else t
    let pages := kept.foldl move (s.med.pages.filter fun q _ => boltOf q != b)
    let at_ := s.med.parityAt.map fun _ v => v.map fun a => if mine a.1 then (y, a.2) else a
    let s1 := s.takeBolt y 1 e.series 0 e.frame 0 0xFFFF
    let s2 := s1.modMed fun m => { m with pages, parityAt := at_, frames := old.map fun f => { f with runs := f.runs.map swap } }
    let led (s : State) (f : Frame) : State :=
      (List.range f.width).foldl (fun s i =>
        let (pa, pn) := parityFields (f.runs.getD i (0, 0, noBolt)) (runLen f.width)
        let d := s.aliasOf (f.bolts.getD i 0)
        s.setLedger d { s.ledger d with parityAt := pa, parityNext := pn }) s
    let s3 := (s2.med.frames.filter fun f => f.parityBolts.contains y).foldl led s2
    (s3.setLedger y { s3.ledger y with state := e.state }).toReset b

/-- The unreleased members of a basting bolt's sets are basted again; the bolt is to be reset. -/
def bastShift (b : Nat) (s : State) : State :=
  let mine (x : Nat) : Bool := s.aliasOf x == b
  let open_ := s.med.bast.filter fun t => mine t.bolt
  let stored := (s.med.pages.filter fun q v => boltOf q == b && v.any fun p => p.selv.typ == 10).flatMap fun e => (e.2.map (·.refs)).getD []
  let live (psa : Nat) : Bool := (s.pageAt psa).isSome && (match s.frameOf (boltOf psa) with
    | none => false
    | some f => !s.covered f)
  let again := ((open_.flatMap (·.pages)) ++ stored).eraseDups.filter live
  let s1 := s.modMed fun m => { m with bast := m.bast.filter fun t => !mine t.bolt, bastBolts := m.bastBolts.filter fun e => !mine e.2.1 }
  (again.foldl (fun s q => s.baste q) (s1.bastKeep (boltSlot b))).toReset b

/-! ### The removal -/

/-- One round: valid pages of the frames are copied or their patches darned, patch bolts without a live patch leave the log; once no such frame is left, the parity
and basting bolts follow. -/
def discardStep (bolts : List Nat) (s : State) : State :=
  let frame (s : State) (f : Frame) : State :=
    let logged := f.bolts.filter fun b => s.xlt.roster.contains b
    if logged.isEmpty then s.copyFrame f (fun s => s.nextS f.group) false
    else logged.foldl (fun s b =>
      let sws := s.boltSwatches b
      if sws.isEmpty then s.rosterLeave b
      else sws.foldl (fun s sw => if s.xlt.darnq.any (fun p => p.swatch == sw) then s else s.darnTrigger sw 1 none) s) s
  let s1 := (s.framesIn bolts).foldl frame s
  if !(s1.framesIn bolts).isEmpty then s1
  else
    let rest := bolts.filter fun b => !s1.med.resets.contains b && (s1.ledger b).state != 0 && (s1.ledger b).state != 4
    rest.foldl (fun s b =>
      if (s.ledger b).role = 1 then s.parityShift b else if (s.ledger b).role = 2 then s.bastShift b else s) s1

/-- Begin the removal of a range of whole swatches: the unmap, then the frames of the bolts hit. The answer lists every bolt that is to be reset; a bolt of a worn-out cartridge stays STALE
(R186). -/
def discardBegin (first n : Nat) (s : State) : State × List Nat :=
  let hits := s.hitBolts first n
  let waiting := s.med.resets.filter hits.contains
  let s1 := s.unmap first n
  let frames := s1.framesIn hits
  let data := frames.flatMap fun f => f.bolts.map s1.aliasOf
  let par := (frames.flatMap fun f => f.parityBolts).map s1.aliasOf
  let member (q : Nat) : Bool := hits.contains (s1.aliasOf (boltOf q))
  let bastOpen := (s1.med.bast.filter fun t => t.pages.any member).map fun t => s1.aliasOf t.bolt
  let bastDone : List Nat := List.map (fun e => boltOf e.1) (s1.med.pages.filter fun _ v => v.any fun p => p.selv.typ == 10 && p.refs.any member)
  let all := (waiting ++ data ++ par ++ bastOpen ++ bastDone).eraseDups.filter fun b => s1.getF (MED.CART_MEDIA_CLASS (boltSlot b)) ≠ 3
  let s2 := (frames.filter fun f => !f.closed).foldl (fun s f => s.closeShort f) s1
  (s2.discardStep all, all)

/-! ### Extents (R250 to R252) -/

/-- A Dynamic Capacity Event at each LD of a mask (R379). Types of CXL 3.1: 0 added, 1 release asked for, 2 forced release, 5 released (log 51). -/
def dcEvent (typ mask : Nat) (e : Extent) (s : State) : State :=
  (bitsOf 16 mask).foldl (fun s n => s.logEvent n 4 3 [typ, e.id, e.base, e.len]) s

def extentOf (s : State) (id : Nat) : Option Extent := s.coh.extents.find? (·.id == id)
def setExtent (e : Extent) (s : State) : State :=
  s.modCoh fun c => { c with extents := c.extents.map fun x => if x.id == e.id then e else x }

/-- The extent table is written to the reserved area of the cartridges that hold the anchor (R251). -/
def extentsPersist (s : State) : State :=
  let hold (a : Anchor) : Anchor := { a with extents := s.coh.extents }
  s.modXlt fun x => { x with anchor := x.anchor.map hold, anchors := x.anchors.map fun n a => if s.anchorSlots.contains n then a.map hold else a }

/-- Steps 1 to 3 of R252. -/
def extentRelease (e : Extent) (s : State) : State :=
  let first := e.base / 64
  let n := e.len / 64
  let inR (l : Nat) : Bool := first ≤ l && l < first + n
  let s1 := (s.setExtent { e with state := .releasing }).extentsPersist
  let entry (s : State) (k : Nat) : State :=
    let t := s.tent k
    let s2 := ((bitsOf 16 t.presence).filter s.snoopable).foldl (fun s x => s.sendSnoop t.line 2 none x) s
    s2.setTent k (if t.busy then { t with state := 0, presence := 0 } else {})
  let keys := List.map (·.1) (s1.coh.thimble.filter fun _ t => t.state != 0 && inR t.line)
  let s3 := keys.foldl entry s1
  if e.secure then
    let (s4, bolts) := s3.discardBegin first n
    s4.setExtent { e with state := .releasing, bolts }
  else s3.unmap first n

/-- Step 4: the entry is free; the event reports completion. -/
def extentFree (e : Extent) (s : State) : State :=
  (s.modCoh fun c => { c with extents := c.extents.filter fun x => x.id != e.id }).extentsPersist.dcEvent 5 e.ldMask e

/-- An extent that waits for its bolts makes progress. -/
def extentStep (e : Extent) (s : State) : State := if e.bolts.isEmpty then s else s.discardStep e.bolts

end State

end Sys2Proof.Machine
end

