-- ==== Sys2Proof/Machine/Spool.lean ====
section
/-!
DEFINITION. Spool contexts, doorbells and the staleness timer (13, R419 to R428, R437 to R439).
-/
namespace Sys2Proof.Machine

/-- Owner code of a master for spools (R423, R426): an LD for its host set, 16 for the management endpoint, else none. -/
def ownerOfMaster (m : Nat) : Option Nat := if m < 16 then some m else if isMgmt m then some 16 else none

namespace State

/-- Word w of a context as it reads (Table 13-3). -/
def ctxWord (s : State) (n w : Nat) : Nat :=
  let c := s.ctx n
  let b (x : Bool) (k : Nat) : Nat := if x then 2 ^ k else 0
  match w with
  | 0 => c.base
  | 1 => b c.enable 31 + b c.armed 30 + c.state * 2 ^ 28 + c.log2 * 2 ^ 23 + s.ownerCode n * 2 ^ 18 + c.pair
  | 2 => c.head
  | 3 => c.tail
  | 4 => c.vec * 2 ^ 21 + c.stale
  | 5 => c.pkts
  | 6 => c.dropped
  | _ => c.err * 2 ^ 24 + c.errAt

/-- Spool n enters error state (Table 13-4). -/
def spoolError (n code at_ : Nat) (s : State) : State :=
  let s1 := s.setCtx n { s.ctx n with state := 3, err := code, errAt := at_ }
  (s1.setF ⟨0x1D1200 + 4 * (n / 32), n % 32, 1⟩ 1).fire (768 + n / 128)

/-- Bytes of an entry. -/
def entrySize (n : Nat) : Nat := if n < 4096 then 64 else 16

/-- ENABLE = 1 takes effect (R424). The division of spools in force is the newest (R421). -/
def spoolEnable (n : Nat) (s0 : State) : State :=
  let s := s0.setCtx n { s0.ctx n with enable := true, gen := s0.spl.owners.length - 1, err := 0, errAt := 0 }
  let c := s.ctx n
  match s.ownerOf n with
  | none => s.spoolError n 2 0
  | some o =>
    let stop := c.base + entrySize n * c.entries
    if c.base < 65536 * o.winBase || 65536 * (o.winBase + o.winSize) < stop then s.spoolError n 2 0
    else if c.log2 < 4 || 16 < c.log2 then s.spoolError n 5 0
    else if n < 4096 then
      (if c.pair < 4096 || (s.ctx c.pair).state ≠ 1 || s.ownerCode c.pair ≠ o.owner then s.spoolError n 3 0
       else s.setCtx n { c with head := 0, tail := 0, state := 1 })
    else
      let zero := s.putSpl { s.spl with mem := Tab.filter (fun a _ => a < c.base || stop ≤ a) s.spl.mem }
      (zero.setCtx n { c with head := 0, tail := 0, pkts := 0, armed := true, state := 1, held := false, timer := true }).gapCheck n

/-- ENABLE = 0 takes effect (R425): running ops of a submission spool stop with status 14. -/
def spoolDisable (n : Nat) (s : State) : State :=
  let s1 := s.setCtx n { s.ctx n with enable := false, state := 0, armed := false, held := false }
  if 4096 ≤ n then s1
  else
    let stop (o : OpRun) : OpRun := if o.spool = n && o.status.isNone then { o with status := some 14 } else o
    let held := (s1.spl.ops.filter fun o => o.spool == n && o.status.isNone).flatMap (·.waits)
    (s1.modSpl fun p => { p with ops := p.ops.map stop }).flowsDrop held

/-- A written word of a context takes effect (R423). -/
def ctxApply (n w v : Nat) (s : State) : State :=
  let c := s.ctx n
  match w with
  | 0 => if c.enable then s else s.setCtx n { c with base := v % 2 ^ 26 / 64 * 64 }
  | 1 =>
    let s1 := if c.enable then s else s.setCtx n { c with log2 := v / 2 ^ 23 % 32, pair := v % 8192 }
    let on := Nat.testBit v 31
    if on && !c.enable then s1.spoolEnable n else if !on && c.enable then s1.spoolDisable n else s1
  | 4 => s.setCtx n { c with vec := v / 2 ^ 21 % 2048, stale := v % 2 ^ 20 }
  | _ => s

/-- The spool engine seam: pending context words take effect, spool by spool. -/
def splSeam (s : State) : State :=
  s.spl.shadow.foldl (fun s e => match e.2 with
    | some v => s.ctxApply (e.1 / 8) (e.1 % 8) v.toNat
    | none => s) (s.modSpl fun p => { p with shadow := [] })

/-- A write of SPL.CTX[w] by a master (R423). -/
def ctxWrite (m w : Nat) (v : Word) (s : State) : State :=
  let n := Tab.get (fun _ => 0) s.spl.sel m
  if ownerOfMaster m != some (s.ownerCode n) then s.countF SPL.REJECT_CTX 1
  else (s.modSpl fun p => { p with shadow := Tab.set (fun _ => none) p.shadow (8 * n + w) (some v) }).setF SPL.SEAM_PEND 1

/-- The RW bits of word w of a context (Table 13-3). -/
def ctxMask (w : Nat) : Word := match w with
  | 0 => 0x03FFFFC0
  | 1 => 0x8F801FFF
  | 4 => 0xFFEFFFFF
  | _ => 0

/-- What a master reads at SPL.CTX[w]: in RW bits what is written and not yet applied, else the context (R61). -/
def ctxRead (s : State) (m w : Nat) : Word :=
  let n := Tab.get (fun _ => 0) s.spl.sel m
  let now : Word := BitVec.ofNat 32 (s.ctxWord n w)
  match Tab.get (fun _ => none) s.spl.shadow (8 * n + w) with
  | some v => (v &&& ctxMask w) ||| (now &&& ~~~(ctxMask w))
  | none => now

/-- Whole records between two indices of a completion ring: END marks (R437). -/
def recordsIn (s : State) (n head tail : Nat) : Nat :=
  let c := s.ctx n
  let used := (tail + 2 * c.entries - head) % (2 * c.entries)
  ((List.range used).filter fun i => ((s.spoolBytes (c.wordAt (head + i) + 15) 1).map (·.toNat)).any (128 ≤ ·)).length

/-- A doorbell (R426, R427, R439). -/
def doorbell (m : Nat) (v : Word) (s : State) : State :=
  let n := v.toNat / 2 ^ 17 % 8192
  let x := v.toNat % 2 ^ 17
  let c := s.ctx n
  if ownerOfMaster m != some (s.ownerCode n) || c.state ≠ 1 then s.countF SPL.REJECT_DOORBELL 1
  else
    let e2 := 2 * c.entries
    let d := (x + e2 - c.head) % e2
    let y := x % e2
    if n < 4096 then (if c.used ≤ d && d ≤ c.entries then s.setCtx n { c with tail := y } else s.spoolError n 1 x)
    else if d ≤ c.used then
      let s1 := s.setCtx n { c with head := y, pkts := s.recordsIn n y c.tail, armed := true, timer := true }
      (if c.held then s1.spoolSignal n else s1).gapCheck n
    else s.spoolError n 1 x

/-- Windows of an LD: the newest division's, and those of older divisions in which a spool of it is still enabled (R421). -/
def windowsOf (s : State) (ld : Nat) : List (Nat × Nat) :=
  let old : List Nat := List.map (fun e => e.2.gen) (s.spl.ctx.filter fun _ c => c.enable)
  let idx := ((s.spl.owners.length - 1) :: old).eraseDups
  idx.flatMap fun i => (((s.spl.owners[i]?).getD []).filter fun o => o.owner == ld).map fun o => (65536 * o.winBase, 65536 * o.winSize)

/-- An access of n bytes at an offset lies in a window of an LD. -/
def inWindowOf (s : State) (ld a n : Nat) : Bool := (s.windowsOf ld).any fun w => w.1 ≤ a && a + n ≤ w.1 + w.2

/-- Bytes of the contexts' part of spool memory (Table 13-1). -/
def ctxBytes (s : State) (a n : Nat) : List Byte :=
  (List.range n).map fun i => BitVec.ofNat 8 (s.ctxWord ((a + i) / 32) ((a + i) % 32 / 4) / 256 ^ ((a + i) % 4))

/-- Bytes of spool memory as a reader sees them: the contexts, else ring space. -/
def spoolRead (s : State) (a n : Nat) : List Byte := if a + n ≤ 0x40000 then s.ctxBytes a n else s.spoolBytes a n

/-- An owner may read bytes of the contexts of its own spools. -/
def ownContexts (s : State) (owner a n : Nat) : Bool :=
  a + n ≤ 0x40000 && 0 < n && s.ownerCode (a / 32) == owner && s.ownerCode ((a + n - 1) / 32) == owner

end State

/-- SPOOL_CONTEXT_WRITE (R423). -/
def execSpoolContextWrite (m w : Nat) (v : Word) (s : State) : Out :=
  .next (s.regAction m (0x1d0010 + 4 * w) true (State.ctxWrite m w v))

/-- SPOOL_DOORBELL (R426 to R428, R439). -/
def execSpoolDoorbell (m : Nat) (v : Word) (s : State) : Out := .next (s.regAction m 0x1d0000 true (State.doorbell m v))

/-- STALENESS_TIMER (R439): STALE_US (at most 1,000,000) has passed since the timer last restarted, with records waiting; it expires once. -/
def execStalenessTimer (spool : Nat) (s : State) : Out :=
  let c := s.ctx spool
  if spool < 4096 || 8192 ≤ spool || c.state ≠ 1 || c.pkts = 0 || c.stale = 0 || !c.timer then .next s
  else .next ((s.setCtx spool { c with timer := false }).spoolSignal spool)

end Sys2Proof.Machine
end

