-- ==== Sys2Proof/Machine/Mover.lean ====
section
/-!
DEFINITION. Lines that the spool engine, the scrubber and the debug master handle at their slice: writes outside a host request (13, R431;
09, R284, R286, R316), the scrub of one line (R309 to R311).
-/
namespace Sys2Proof.Machine

namespace State

/-! ### Writes -/

/-- A full-line write of a line at its slice as one step (R80, R95, R98, R181, R276, R304, R335, R431); none where it must wait: for the end of a flush, the dirtied record, budget
or staging room, the seal table, an unmerged partial write before it. -/
def writeLine (line : Nat) (v : Line) (stream : Bool) (s0 : State) : State × Bool :=
  let (s, held) := if s0.ham.holding.any (·.code == 0x0802) then (s0, true) else s0.dirtiedRecord
  let once195 (s : State) : State := if s.med.sealWait then s else (s.modMed fun m => { m with sealWait := true }).fire 195
  if s.flush.stopped || held then (s, false)
  else if s.sealedLine line then
    if s.sealRoom line then (s.sealedWrite line, true) else (once195 s, false)
  else if (s.buffered line).any (·.unmerged) then (s, false)
  else
    let s1 := s.commitLine line
    let stream := stream || s1.streamRegion line
    if s1.writesOpen line || (s1.throughOpen line && !s1.writesThrough line) then (s1, false)
    else if !s1.writesThrough line && !s1.dirtyIn line && !s1.budgetRoom (sliceOf line) then (s1.stallSlice (sliceOf line), false)
    else
      let v := if s1.cipherFault && s1.keyOf line ≠ 0 then { v with poison := true, origin := 0 } else v
      match s1.storeWrite line v stream none with
      | none => (if s1.writesThrough line then s1 else s1.stagingSlice (sliceOf line), false)
      | some s2 =>
        let forget (l : LdState) : LdState := { l with injected := l.injected.filter (· != line) }
        let s3 := (s2.setSealBit line false).dropMarks line
        ((if v.poison then s3 else (s3.putLds (s3.lds.map fun _ l => forget l))).stallEnd.dirtyChanged, true)

/-- A line becomes stored poisoned as a write with the poison indication would store it (R311, R376): its bytes are kept where they are known. -/
def markLine (line origin : Nat) (s : State) : State × Bool :=
  let old := match s.newest line true with | .line l _ _ => l | _ => s.zeroLine line
  s.writeLine line { old with poison := true, origin } false

/-! ### Scrub (R309 to R311) -/

/-- Frames that wait for refresh. -/
def refreshLen (s : State) : Nat := s.med.groups.foldl (fun n e => n + e.2.refreshq.length) 0

/-- The cached copy of a line: Pincushion, Lining or staging. -/
def cachedLine (s : State) (line : Nat) : Option Line := match s.pentHit line with
  | some n => some (s.pline n line).val
  | none => match s.findWay line with
    | some k => some (s.way k).val
    | none => (s.stagedOf line).map (·.val)

/-- The stored copy of a line. -/
def storedLine (s : State) (line : Nat) : Option MLine := (s.location line).bind fun l => (s.pageAt l.1).map fun p => p.line l.2.1

/-- Whether the newest copy of a line is stored poisoned. -/
def poisonedNow (s : State) (line : Nat) : Bool := match s.buffered line, s.cachedLine line, s.storedLine line with
  | some w, _, _ => w.poison
  | none, some l, _ => l.poison
  | none, none, some m => m.val.poison
  | none, none, none => false

/-- Whether the tag of a line's copy fails its check at its address (R286). -/
def tagBad (s : State) (line : Nat) (l : Line) : Bool := !tagOk l line (s.sharedOf line)

/-- A scrub keeps the first line that counted as an error (Table 09-6). -/
def scrubNote (line : Nat) (x : ScrubSum) : ScrubSum := { x with first := x.first.orElse fun _ => some line }

/-- A tag failure met by a scrub (R286, R311). -/
def scrubTag (line : Nat) (ld : Option Nat) (sum : ScrubSum) (s : State) : State × ScrubSum :=
  (s.tagFailEgress line 7 ld, scrubNote line { sum with tagFail := sum.tagFail + 1 })

/-- The cached copy of a scrubbed line is read and judged too (R311). -/
def scrubCopy (line : Nat) (ld : Option Nat) (cached : Option Line) (sum : ScrubSum) (s : State) : State × ScrubSum := match cached with
  | none => (s, sum)
  | some l =>
    let (s1, inj) := s.injCached line
    let s2 := if inj then (s1.lineError line).1 else s1
    if s.tagBad line l then s2.scrubTag line ld sum else (s2, sum)

/-- What the media read of a scrubbed line adds to the summary (Table 09-6). -/
def scrubCount (sum : ScrubSum) (x : Sense) (refreshed : Nat) : ScrubSum := { sum with
  refresh := sum.refresh + refreshed, ladder := sum.ladder + (if 1 ≤ x.step && x.step ≤ 5 then 1 else 0)
  corrected := sum.corrected + (if x.corr = 0 then 0 else 1), symbols := sum.symbols + x.corr, quilt := sum.quilt + (if x.quilt then 1 else 0) }

/-- One line at its scrub order point: the summary so far, and whether the line is a candidate for a mark. None while its map block or bucket is being repaired, or an unmerged write is ahead. -/
def scrubLine (line : Nat) (ld : Option Nat) (sum0 : ScrubSum) (s : State) : Option (State × ScrubSum × Bool) :=
  let sw := swatchOf line
  if s.mapHurt sw || Tab.get (fun _ => false) s.xlt.bucketBad (homeBucket sw) || (s.buffered line).any (·.unmerged) then none
  else
    let sum := { sum0 with lines := sum0.lines + 1 }
    if s.poisonedNow line || s.sealBit line then some (s, scrubNote line { sum with poisoned := sum.poisoned + 1 }, false)
    else if (s.storedLine line).any fun m => s.decLine line m matches .stale then some (s, { sum with keyless := sum.keyless + 1 }, false)
    else match s.location line with
      | none => some (s, sum, false)
      | some (psa, slot, _) =>
        let r0 := s.sense psa slot line
        let r := (r0.1.senseCount line ld r0.2, r0.2)
        let sum1 := scrubCount sum r.2 (r.1.refreshLen - s.refreshLen)
        match r.2.got.map (r.1.decLine line) with
        | some (.ok l) =>
          let bad := s.tagBad line l
          let t := if bad then r.1.scrubTag line ld sum1 else (r.1, sum1)
          let u := t.1.scrubCopy line ld (s.cachedLine line) t.2
          some (u.1, u.2, bad)
        | some .stale => some (r.1, sum1, false)
        | none => some (r.1, scrubNote line { sum1 with uncorr := sum1.uncorr + 1 }, true)

end State

/-- The summary as Table 09-6 lays it out, bytes 0x00 to 0x2C; counters saturate. -/
def ScrubSum.bytes (x : ScrubSum) : List Byte :=
  let w (n v : Nat) : List Byte := le n (min (256 ^ n - 1) v)
  w 5 x.lines ++ le 1 ((if x.mark then 1 else 0) + (if x.early then 2 else 0)) ++ w 2 x.refresh ++ w 4 x.corrected ++ w 4 x.symbols ++ w 4 x.ladder
    ++ w 4 x.quilt ++ w 4 x.uncorr ++ w 4 x.tagFail ++ w 4 x.poisoned ++ w 4 x.keyless ++ le 5 (x.first.getD 0xFFFFFFFFFF)

end Sys2Proof.Machine
end

