-- ==== Sys2Proof/Machine/DataMover.lean ====
section
/-!
DEFINITION. The data mover (13, R429 to R436): descriptors and their checks, the ops line by line, export and import jobs (10, R338 to R340), completions.
-/
namespace Sys2Proof.Machine

/-! ### Descriptors (Tables 13-5, 13-6; R429) -/

/-- Which parts of a descriptor an op uses: SRC, DST, LEN, flag A, flag B, STREAM, KEY, MODE, bytes of ARG. -/
structure OpUse where
  src    : Bool := false
  dst    : Bool := false
  len    : Bool := true
  a      : Bool := false
  b      : Bool := false
  stream : Bool := false
  key    : Bool := false
  mode   : Bool := false
  arg    : Nat := 0

/-- Table 13-6; none for a value of OP that the table does not name. -/
def opUse (op : Nat) : Option OpUse :=
  match op with
  | 0x01 => some { src := true, dst := true, stream := true }
  | 0x02 => some { dst := true, stream := true, arg := 32 }
  | 0x04 | 0x07 => some { src := true, a := true }
  | 0x05 => some { len := false }
  | 0x06 => some { src := true, stream := true }
  | 0x09 => some { src := true, a := true, stream := true }
  | 0x03 | 0x08 | 0x0A | 0x0B | 0x0C | 0x0D | 0x11 => some { src := true }
  | 0x0E => some { src := true, key := true }
  | 0x0F => some { src := true, dst := true, a := true, b := true, stream := true, key := true, mode := true, arg := 8 }
  | 0x10 => some { src := true, dst := true, a := true, b := true, stream := true, key := true, mode := true, arg := 16 }
  | 0x12 => some {}
  | _ => none

/-- A descriptor from its 64 bytes (Table 13-5). -/
def readDesc (bs : List Byte) : Desc :=
  let u (o n : Nat) : Nat := ofLe ((bs.drop o).take n)
  { op := u 0 1, flags := u 1 1, key := u 2 1, mode := u 3 1, tag := u 4 4, src := u 8 8, dst := u 16 8, len := u 24 8, arg := (bs.drop 32).take 32 }

/-- Flags of a descriptor. -/
def dFence (d : Desc) : Bool := bit d.flags 1
def dStream (d : Desc) : Bool := bit d.flags 2
def dA (d : Desc) : Bool := bit d.flags 3
def dB (d : Desc) : Bool := bit d.flags 4
/-- STATE and JOB_DST of a job (Table 13-5). -/
def dState (d : Desc) : Nat := ofLe (d.arg.take 8)
def dJobDst (d : Desc) : Nat := ofLe ((d.arg.drop 8).take 8)

/-- Lines of the stream that a part of a job moves beside its data (R434, R435). -/
def headLines (d : Desc) : Nat := if dB d then 0 else 1
def tailLines (d : Desc) : Nat := if dA d then 0 else 1

/-- R429, but for the place of STATE. -/
def descOk (d : Desc) (u : OpUse) : Bool :=
  let zeroArg := (d.arg.drop u.arg).all (· == 0)
  let unused := (u.src || d.src == 0) && (u.dst || d.dst == 0) && (u.len || d.len == 0) && (u.a || !dA d) && (u.b || !dB d)
    && (u.stream || !dStream d) && (u.key || d.key == 0) && (u.mode || d.mode == 0) && zeroArg
  let form (x : Nat) : Bool := x % 64 == 0 && x < 2 ^ 45
  let job := d.op == 0x0F || d.op == 0x10
  let srcLen := d.len + (if d.op = 0x10 then headLines d + tailLines d else 0)
  let dstLen := d.len + (if d.op = 0x0F then headLines d + tailLines d else 0)
  let inside := (!u.src || d.src + 64 * srcLen ≤ 2 ^ 45) && (!u.dst || d.dst + 64 * dstLen ≤ 2 ^ 45)
  let swatches := !([0x03, 0x07, 0x08, 0x0D].contains d.op) || (d.src % 4096 == 0 && d.len % 64 == 0)
  let apart := d.op != 1 || d.src + 64 * d.len ≤ d.dst || d.dst + 64 * d.len ≤ d.src
  d.flags < 32 && unused && form d.src && form d.dst && (!u.len || d.len != 0) && inside && swatches && apart
    && (d.op != 0x07 || d.len ≤ 4096) && (d.op != 0x09 || d.len < 2 ^ 24) && (d.op != 0x12 || d.len ≤ 4096)
    && (!job || d.mode == 1 || d.mode == 2)

namespace State

/-! ### Ops -/

def opOf (s : State) (id : Nat) : Option OpRun := s.spl.ops.find? (·.id == id)
def setOp (o : OpRun) (s : State) : State := s.modSpl fun p => { p with ops := p.ops.map fun x => if x.id == o.id then o else x }

/-- The LD an owner stands for. -/
def ldOfOwner (owner : Nat) : Option Nat := if owner < 16 then some owner else none

/-- An op ends with a status once the write-backs that it awaits are in force; flows that it has started are left to their answers. -/
def stopOp (o : OpRun) (code : Nat) (s : State) : State :=
  (s.flowsDrop o.waits).setOp (if o.backs.isEmpty then { o with status := some code, waits := [] } else { o with closing := some code, waits := [] })

/-- An op has no more lines to handle: it ends with a status once its write-backs, assemblies and resets are over. -/
def closeOp (o : OpRun) (code : Nat) (s : State) : State :=
  if o.swatches.isEmpty && o.bolts.isEmpty && o.todo.isEmpty && o.cands.isEmpty then s.stopOp o code
  else s.setOp { o with closing := some code }

/-- Why a line ends an op (R431, R463): undecoded or fenced 1, denied 2 or 3. -/
def lineStop (owner line : Nat) (write : Bool) (s : State) : Option (State × Nat) :=
  let m := spoolSet owner
  if !s.decoded (ldOfOwner owner) line || s.fencedAt line then some (s, 1)
  else match s.memMissing m (if write then rightMemWr else rightMemRd) line with
    | some miss => some (s.deny m (if write then 1 else 0) miss (s.keyOf line) (64 * line), if write then 3 else 2)
    | none => none

/-- Lines of the spool engine that wait for snoops (R95). -/
def splOut (s : State) : Nat := s.spl.ops.foldl (fun n o => n + o.waits.length) 0

/-- The flow of an op's line (R234): true where the line may be handled now. -/
def lineFlow (o : OpRun) (line : Nat) (write : Bool) (s : State) : State × OpRun × Bool :=
  let mine := o.waits.contains line
  if !mine && s.sharedOf line && s.splEff ≤ s.splOut then (s, o, false)
  else match s.spoolFlow line write mine with
    | (s1, 0) => (s1, { o with waits := o.waits.filter (· != line) }, true)
    | (s1, 1) => (s1, { o with waits := o.waits ++ [line] }, false)
    | (s1, _) => (s1, o, false)

/-- A line access of an op (4 read, 5 write) is done: the countdown of the spool engine, and the sample of the access that brings it to 0 (R538). The LD of an access that is the
management endpoint's is not stated. -/
def opSample (o : OpRun) (op line path : Nat) (poison : Bool) (s : State) : State :=
  match s.sampleStep 7 (ldOfOwner o.owner) with
  | (s1, false) => s1
  | (s1, true) =>
    let ld := (ldOfOwner o.owner).getD (s1.freeVal % 16)
    let bits := path + (if poison then 4096 else 0) + (if s1.paceLow then 8192 else 0)
    s1.freeStep.samplePush (s1.sampleRecord s1.clk.time line op o.spool ld 7 bits 0)

/-- A line read of an op. -/
def opRead (o : OpRun) (line : Nat) (stream fill : Bool) (s : State) : State × Got := match s.readLine line (ldOfOwner o.owner) stream fill with
  | (s1, .wait) => (s1, .wait)
  | (s1, .line l path) => (s1.opSample o 4 line path.bit l.poison, .line l path)
  | (s1, .bad c) => (s1.opSample o 4 line 0 true, .bad c)

/-- One more line is done. -/
def lineDone (o : OpRun) (n : Nat) (s : State) : State :=
  let o1 := { o with next := o.next + 1, count := o.count + n }
  let s1 := s.perf 47 0x602 (ldOfOwner o.owner) 1
  if o1.next < o.desc.len then s1.setOp o1 else s1.closeOp o1 0

/-- A swatch of the op is done. -/
def swatchDone (o : OpRun) (n : Nat) (s : State) : State :=
  let o1 := { o with next := o.next + 64, count := o.count + n, sub := 0 }
  let s1 := s.perf 47 0x602 (ldOfOwner o.owner) 64
  if o1.next < o.desc.len then s1.setOp o1 else s1.closeOp o1 0

/-- Line of SRC and of DST that an op is at. -/
def srcLine (o : OpRun) : Nat := o.desc.src / 64 + o.next
def dstLine (o : OpRun) : Nat := o.desc.dst / 64 + o.next

/-! ### COPY, FILL, PREFETCH, VERIFY -/

/-- The tag of a line that is written from a line read elsewhere (R284). -/
def rebase (s : State) (l : Line) (src dst : Nat) : Line :=
  { l with tag := l.tag ^^^ addrTag src (s.sharedOf src) ^^^ addrTag dst (s.sharedOf dst) }

/-- A line write of an op. A write stored write-through is done when its patch is in force (R82): the op awaits it. -/
def writeOp (o : OpRun) (line : Nat) (v : Line) (s : State) : State × OpRun × Bool := match s.writeLine line v (dStream o.desc) with
  | (s1, true) =>
    let through := (s1.reqs.filter fun r => r.line == line && r.stage == .through).map (·.id)
    let s2 := (s1.perf (sliceOf line) 0x002 (ldOfOwner o.owner) 1).opSample o 5 line 0 v.poison
    (s2, { o with backs := o.backs ++ through.filter fun i => !o.backs.contains i }, true)
  | (s1, false) => (s1, o, false)

/-- The line that a COPY writes for what it read; an answer with poison is written as a poisoned line. -/
def copyLine (s : State) (a b : Nat) (g : Got) : Line := match g with
  | .line l _ => { s.rebase l a b with origin := 1 }
  | _ => { s.zeroLine b with poison := true, origin := 1 }

def copyStep (o : OpRun) (s : State) : State :=
  let a := srcLine o
  let b := dstLine o
  match s.lineStop o.owner a false with
  | some (s1, c) => s1.stopOp o c
  | none => match s.lineStop o.owner b true with
    | some (s1, c) => s1.stopOp o c
    | none => match s.lineFlow o b true with
      | (s1, o1, false) => s1.setOp o1
      | (s1, o1, true) => match s1.lineFlow o1 a false with
        | (s2, o2, false) => s2.setOp o2
        | (s2, o2, true) => match s2.opRead o a (dStream o.desc) true with
          | (s3, .wait) => s3.setOp o2
          | (s3, g) => match s3.writeOp o2 b (s3.copyLine a b g) with
            | (s4, o4, true) => s4.lineDone o4 1
            | (s4, o4, false) => s4.setOp o4

/-- The line that a FILL writes: its 32 bytes, twice. -/
def fillLineOf (s : State) (d : Desc) (line : Nat) : Line :=
  mkLine (BitVec.ofNat 512 (ofLe (d.arg ++ d.arg))) line (s.sharedOf line) false

def fillStep (o : OpRun) (s : State) : State :=
  let b := dstLine o
  match s.lineStop o.owner b true with
  | some (s1, c) => s1.stopOp o c
  | none => match s.lineFlow o b true with
    | (s1, o1, false) => s1.setOp o1
    | (s1, o1, true) => match s1.writeOp o1 b (s1.fillLineOf o.desc b) with
      | (s2, o2, true) => s2.lineDone o2 1
      | (s2, o2, false) => s2.setOp o2

def prefetchStep (o : OpRun) (s : State) : State :=
  let a := srcLine o
  match s.lineStop o.owner a false with
  | some (s1, c) => s1.stopOp o c
  | none => match s.lineFlow o a false with
    | (s1, o1, false) => s1.setOp o1
    | (s1, o1, true) =>
      let had := (s1.findWay a).isSome
      match s1.opRead o a (dStream o.desc) true with
      | (s2, .wait) => s2.setOp o1
      | (s2, _) => s2.lineDone o1 (if !had && (s2.findWay a).isSome then 1 else 0)

/-- A line of VERIFY that is bad: counted, the first one kept. -/
def verifyBad (o : OpRun) (line : Nat) : OpRun := { o with count2 := o.count2 + 1, sum := { o.sum with first := o.sum.first.orElse fun _ => some line } }

def verifyStep (o : OpRun) (s : State) : State :=
  let a := srcLine o
  match s.lineStop o.owner a false with
  | some (s1, c) => s1.stopOp o c
  | none => match s.lineFlow o a false with
    | (s1, o1, false) => s1.setOp o1
    | (s1, o1, true) => match s1.opRead o a false true with
      | (s2, .wait) => s2.setOp o1
      | (s2, .line l _) =>
        if l.poison then s2.lineDone (verifyBad o1 a) 1
        else if tagOk l a (s2.sharedOf a) then s2.lineDone o1 1
        else (s2.tagFailEgress a 7 (ldOfOwner o.owner)).lineDone (verifyBad o1 a) 1
      | (s2, .bad _) => s2.lineDone (verifyBad o1 a) 1

/-! ### SCRUB_RANGE, SECURE_DISCARD, PERSIST_FENCE -/

/-- A scrub op ends, early or not. -/
def scrubEnd (o : OpRun) (code : Nat) (s : State) : State := s.closeOp { o with sum := { o.sum with early := o.sum.early || code != 0 } } code

/-- A step of SCRUB_RANGE: the marking step of a candidate (R311), else the next line. -/
def scrubStep (o : OpRun) (s : State) : State :=
  match o.cands with
  | c :: rest => match s.markLine c 0 with
    | (s1, false) => s1
    | (s1, true) =>
      let o1 := { o with cands := rest }
      match o.closing with
      | some code => s1.closeOp o1 code
      | none => s1.setOp o1
  | [] =>
    let a := srcLine o
    match s.lineStop o.owner a false with
    | some (s1, c) => s1.scrubEnd o c
    | none => match (if dA o.desc then s.lineStop o.owner a true else none) with
      | some (s1, c) => s1.scrubEnd o c
      | none => match s.scrubLine a (ldOfOwner o.owner) { o.sum with mark := dA o.desc } with
        | none => s.mapCheck (swatchOf a)
        | some (s1, sum, cand) => s1.lineDone { o with sum, cands := if cand && dA o.desc then [a] else [] } 1

/-- Whole swatches of a range that are decoded and permitted, from its start, and the status that ends it. -/
def swatchSpan (o : OpRun) (write : Bool) (s : State) : State × Nat × Nat :=
  let sws := (List.range (o.desc.len / 64)).map fun i => o.desc.src / 64 + 64 * i
  let ok := sws.takeWhile fun l => (s.lineStop o.owner l write).isNone
  match sws[ok.length]? with
  | none => (s, ok.length, 0)
  | some l => match s.lineStop o.owner l write with
    | some (s1, c) => (s1, ok.length, c)
    | none => (s, ok.length, 0)

/-- SECURE_DISCARD (R184, R185): the removal begins, then goes on until every bolt is reset. -/
def discardOp (o : OpRun) (s : State) : State :=
  if o.next = 0 then
    let (s1, n, code) := s.swatchSpan o true
    if n = 0 then s1.stopOp o code
    else
      let (s2, bolts) := s1.discardBegin (o.desc.src / 64) (64 * n)
      s2.closeOp { o with next := 64 * n, bolts } code
  else s.discardStep o.bolts

/-- Dirty lines, staging copies included, that a fence of an owner covers (R280). -/
def fenceLines (s : State) (owner : Nat) : List Nat :=
  let mine (l : Nat) : Bool := match s.regionAt l with | some (_, r) => owner = 16 || r.forLd owner | none => false
  let lining : List Nat := List.map (fun e => e.2.line) (s.cache.lining.filter fun _ w => w.valid && w.dirty)
  let pcu : List Nat := s.cache.pcu.flatMap fun e => List.map (fun l => 64 * e.2.swatch + l.1) (e.2.lines.filter fun _ l => l.dirty)
  let staged := (s.cache.staging.map (·.line)) ++ (s.inFlight.filter fun d => !d.dropped).map (·.line)
  ((lining ++ pcu ++ staged).eraseDups).filter mine

/-- Lines of write-backs that an op awaits. -/
def backLines (s : State) (ids : List Nat) : List Nat :=
  ((s.cache.staging.filter fun t => ids.contains t.id).map (·.line)) ++ (s.reqs.filter fun r => ids.contains r.id && r.stage == .through).map (·.line)

/-- Open patch pages that hold a line are sealed (R116, R280). -/
def sealPagesOf (lines : List Nat) (s : State) : State :=
  (s.xlt.openPages.filter fun p => p.ents.any fun d => lines.contains d.line).foldl (fun s p => s.sealPage p) s

/-- Release what a fence has still to release; its write-backs are awaited. -/
def releaseTodo (o : OpRun) (s : State) : State × OpRun :=
  let go (acc : State × OpRun) (l : Nat) : State × OpRun :=
    if !acc.1.roomToRelease l then (acc.1, { acc.2 with todo := acc.2.todo ++ [l] })
    else
      let s1 := (acc.1.release l).1
      (s1, { acc.2 with backs := acc.2.backs ++ (s1.backsOf l).filter fun i => !acc.2.backs.contains i })
  let (s1, o1) := o.todo.foldl go (s, { o with todo := [] })
  (s1, { o1 with backs := o1.backs.filter s1.backOpen })

/-- PERSIST_FENCE (R280, R281). -/
def fenceStep (o : OpRun) (s : State) : State :=
  let (s1, o1) :=
    if o.sub = 0 then
      let early := s.reqs.filter fun r => r.stage == .buffered
      let s1 := (early.map (·.line)).eraseDups.foldl (fun s l => s.commitLine l) s
      let all := s1.fenceLines o.owner
      (s1, { o with sub := 1, todo := all, count := all.length })
    else (s, o)
  let (s2, o2) := s1.releaseTodo o1
  (s2.sealPagesOf (s2.backLines o2.backs)).dirtyChanged.closeOp o2 0

/-! ### CLEAN, INVALIDATE, CLEAN_INVALIDATE -/

/-- CLEAN and CLEAN_INVALIDATE of one line (Table 06-2, R211, R212). -/
def cleanStep (discard : Bool) (o : OpRun) (s : State) : State :=
  let a := srcLine o
  match s.lineStop o.owner a discard with
  | some (s1, c) => s1.closeOp o c
  | none =>
    let s1 := s.commitLine a
    if s1.writesOpen a || !s1.roomToRelease a then s1
    else
      let dirty := s1.dirtyIn a
      let held := s1.heldIn a
      let s2 := (s1.release a).1
      let new := s2.backsOf a
      let now := discard && new.isEmpty
      let o1 := { o with backs := o.backs ++ new.filter fun i => !o.backs.contains i
                         todo := if discard && held && !now then o.todo ++ [a] else o.todo }
      (if now then s2.discardCached a else s2).dirtyChanged.lineDone o1 (if (if discard then held else dirty) then 1 else 0)

/-- What an op of these waits for is over: lines whose write-backs are in force are discarded. -/
def cleanClose (o : OpRun) (code : Nat) (s : State) : State :=
  if !o.backs.isEmpty then s else (s.discardClean o.todo).dirtyChanged.stopOp { o with todo := [] } code

def invalidateStep (o : OpRun) (s : State) : State :=
  let a := srcLine o
  match s.lineStop o.owner a true with
  | some (s1, c) => s1.stopOp o c
  | none =>
    let s1 := s.commitLine a
    if s1.writesOpen a then s1
    else (s1.discardCached a).dirtyChanged.lineDone o (if s1.heldIn a then 1 else 0)

/-! ### PIN, UNPIN, LOCK_RANGE -/

/-- The Pincushion entry of a swatch, filled or being filled. -/
def pentOfSwatch (s : State) (sw : Nat) : Option Nat := (s.cache.pcu.find? fun e => e.1 < 64 && e.2.swatch == sw && (e.2.valid != 0 || e.2.filling)).map (·.1)

/-- The entry that a PIN takes (R206, R214); one whose last victim has not left is passed over. -/
def pinVictim (s : State) (lock : Bool) : Option Nat :=
  let all := (List.range 64).filter fun n => (s.pent (64 + n)).valid == 0
  let lockedInvalid := all.find? fun n => let e := s.pent n; e.lock && e.valid == 0 && !e.filling
  let free := all.find? fun n => let e := s.pent n; !e.lock && e.valid == 0 && !e.filling
  let old (a : Nat) := all.find? fun n => let e := s.pent n; !e.lock && e.valid != 0 && !e.filling && e.age == a
  (if lock then lockedInvalid else none).orElse fun _ => free.orElse fun _ => (old 3).orElse fun _ => (old 2).orElse fun _ => (old 1).orElse fun _ => old 0

/-- A swatch that is pinned: its entry is locked where asked for (R207, R208). -/
def pinnedDone (o : OpRun) (n : Nat) (s : State) : State :=
  if !dA o.desc then s.swatchDone o 1
  else match s.lockEntry n with
    | (s1, true) => s1.swatchDone o 1
    | (s1, false) => (if o.missed then s1 else s1.fire 229).swatchDone { o with count2 := o.count2 + 1, missed := true } 1

/-- The reads of a swatch's lines snoop first (R431): lines from `sub` on. -/
def swatchFlow (o : OpRun) (s : State) : State × OpRun :=
  (List.range 64).foldl (fun (acc : State × OpRun) i =>
    let (s1, o1) := acc
    if i = o1.sub then match s1.lineFlow o1 (srcLine o1 + i) false with
      | (s2, o2, true) => (s2, { o2 with sub := i + 1 })
      | (s2, o2, false) => (s2, o2)
    else acc) (s, o)

def pinStep (o : OpRun) (s : State) : State :=
  let sw := swatchOf (srcLine o)
  match s.lineStop o.owner (64 * sw) false with
  | some (s1, c) => s1.stopOp o c
  | none =>
    if s.pcuOff then s.stopOp o 6
    else match s.pentOfSwatch sw with
      | some n => if (s.pent n).filling then s else s.pinnedDone o n
      | none =>
        let (s1, o1) := s.swatchFlow o
        if o1.sub < 64 || s1.cache.pcu.any (fun e => 64 ≤ e.1 && e.2.swatch == sw) then s1.setOp o1
        else match s1.pinVictim (dA o.desc) with
          | none => s1.setOp o1
          | some n =>
            let e := s1.pent n
            let s2 := if e.valid = 0 then s1 else s1.setPent (64 + n) e
            (s2.setPent n { swatch := sw, filling := true, lock := e.lock, ref := true }).setOp o1

def unpinStep (o : OpRun) (s : State) : State :=
  let sw := swatchOf (srcLine o)
  match s.lineStop o.owner (64 * sw) false with
  | some (s1, c) => s1.stopOp o c
  | none => match s.pentOfSwatch sw with
    | some n => if (s.pent n).filling then s else (s.setPent n { s.pent n with lock := false, age := 3, ref := false }).swatchDone o 1
    | none => s.swatchDone o 0

def lockStep (o : OpRun) (s : State) : State :=
  let a := srcLine o
  let range := (o.desc.src / 64, o.desc.len)
  match s.lineStop o.owner a false with
  | some (s1, c) => s1.stopOp o c
  | none =>
    if dA o.desc then
      let s1 := if o.next = 0 then s.modCache fun c => { c with lockRanges := c.lockRanges.filter (· != range) } else s
      match s1.unlockLine a with
      | (s2, true) => s2.lineDone o 1
      | (s2, false) => s2.lineDone o 0
    else if o.next = 0 && !s.cache.lockRanges.contains range && 256 ≤ s.cache.lockRanges.length then s.stopOp o 5
    else
      let add (c : Cache) : Cache := if c.lockRanges.contains range then c else { c with lockRanges := c.lockRanges ++ [range] }
      let s0 := if o.next = 0 then s.modCache add else s
      match s0.lineFlow o a false with
      | (s1, o1, false) => s1.setOp o1
      | (s1, o1, true) => match s1.fetchLock a (ldOfOwner o.owner) (dStream o.desc) with
        | (s2, .wait) => s2.setOp o1
        | (s2, .done) => s2.lineDone o1 1
        | (s2, .limit) => (if o1.missed then s2 else s2.fire 229).lineDone { o1 with count2 := o1.count2 + 1, missed := true } 0
        | (s2, _) => s2.lineDone { o1 with count2 := o1.count2 + 1 } 0

/-! ### DARN, REKEY_RANGE -/

/-- Queue a swatch of an op at priority 4; it waits where the queue has no room (R123). -/
def queueSwatch (o : OpRun) (sw : Nat) (s : State) : State :=
  if s.darnRoom sw then (s.darnTrigger sw 4 (some o.id)).swatchDone { o with swatches := o.swatches ++ [sw] } 0 else s.setOp o

def darnStep (o : OpRun) (s : State) : State :=
  let sw := swatchOf (srcLine o)
  match s.lineStop o.owner (64 * sw) true with
  | some (s1, c) => s1.closeOp o c
  | none => if s.livePatches sw = 0 then s.swatchDone o 0 else s.queueSwatch o sw

/-- Region descriptors inside the range of a REKEY_RANGE. -/
def rekeyRegions (s : State) (d : Desc) : List Nat :=
  let first := d.src / 64
  let stop := first + d.len
  (List.range s.plan.regions.length).filter fun i => match s.plan.regions[i]? with
    | some r => first ≤ r.base * unitLines && (r.base + r.size) * unitLines ≤ stop
    | none => false

/-- The range of a REKEY_RANGE starts and ends on region boundaries (R330, Table 13-6). -/
def rekeyAligned (s : State) (d : Desc) : Bool :=
  s.plan.regions.any (fun r => r.base * unitLines == d.src / 64) && s.plan.regions.any fun r => (r.base + r.size) * unitLines == d.src / 64 + d.len

/-- Why R330 refuses a REKEY_RANGE, or the key the regions have now. -/
def rekeyKey (o : OpRun) (s : State) : Option Nat :=
  let rs := s.rekeyRegions o.desc
  let b := o.desc.key
  let m := spoolSet o.owner
  let mine (i : Nat) : Bool := s.regionActive i && (match s.plan.regions[i]? with
    | some r => (o.owner == 16 || r.forLd o.owner) && (r.dcd || s.decoded (ldOfOwner o.owner) (r.base * unitLines))
    | none => false)
  match rs with
  | [] => none
  | i :: _ =>
    let a := s.bindingOf i
    let slot := s.keySlot b
    if rs.all (fun j => s.bindingOf j == a && mine j) && slot.state == .active && slot.usage == 1
      && s.hasRight m rightMemRd && s.hasRight m rightMemWr && s.hasKey m a && s.hasKey m b && s.storeOk then some a else none

/-- The target key, or one that a region of the range is bound to, is being retired (Table 10-7). -/
def rekeyRetired (s : State) (o : OpRun) : Bool :=
  let retiring (k : Nat) : Bool := s.cip.retire.any fun r => r.slot == k
  retiring o.desc.key || (s.rekeyRegions o.desc).any fun i => retiring (s.bindingOf i)

/-- REKEY_RANGE (R330): its first step binds the regions to the target key. `wrote`: both key store copies were written and verified with the new bindings (R325). -/
def rekeyStep (o : OpRun) (wrote : Bool) (s : State) : State :=
  if o.sub = 0 && o.next = 0 then match (if wrote then s.rekeyKey o else none) with
    | none => s.stopOp o (if s.rekeyRetired o then 7 else 13)
    | some a =>
      let bind (t : Tab Nat) (i : Nat) : Tab Nat := Tab.set (fun i => ((s.plan.regions[i]?).map (·.keyId)).getD 0) t i o.desc.key
      let s1 := (s.modCip fun c => { c with bindings := (s.rekeyRegions o.desc).foldl bind c.bindings }).storePut
      s1.setOp { o with sub := 1, oldKey := a }
  else
    let sw := swatchOf (srcLine o)
    if s.keyDiffers sw then (if s.darnRoom sw then
        (s.darnTrigger sw 4 (some o.id)).swatchDone { o with swatches := o.swatches ++ [sw] } 0 else s)
    else s.swatchDone o 0

/-! ### SAMPLE_DRAIN -/

/-- A sample has moved; the op goes on or ends. -/
def drained (o : OpRun) (s : State) : State := if o.next < o.desc.len then s.setOp o else s.closeOp o 0

def drainStep (o : OpRun) (s : State) : State :=
  if !(o.owner = 16 || s.hasRight (spoolSet o.owner) rightDebug) then s.stopOp o 13
  else if s.getF PMC.SAMPLE_STATUS_COUNT = 0 then s.stopOp o 0
  else
    let r := Tab.get (fun _ => []) s.pmc.ring (s.getF PMC.SAMPLE_STATUS_HEAD)
    ((s.ringPop 1).postRecord (s.ctx o.spool).pair 3 [r.take 15, (r.drop 15).take 15, r.drop 30] false).drained { o with next := o.next + 1, count := o.count + 1 }

/-! ### EXPORT and IMPORT (R338 to R340, R434 to R436) -/

def jobOf (s : State) (n : Nat) : Option Job := s.cip.jobs.find? (·.num == n)
def setJob (j : Job) (s : State) : State := s.modCip fun c => { c with jobs := c.jobs.map fun x => if x.num == j.num then j else x }
def freeJob (n : Nat) (s : State) : State := s.modCip fun c => { c with jobs := c.jobs.filter (·.num != n) }

end State

/-- The chaining state of a job at its next line (Table 10-9). The current counter block is the last one used; an XTS job has none of the first five fields: what stands
there is free (log 67). -/
def Job.chain (j : Job) : List Byte :=
  let mode : Nat := if j.gcm then 1 else 2
  let head := if j.gcm then le 16 (swapBlock j.j0) ++ le 16 (swapBlock j.ctr) ++ le 16 (swapBlock j.ghash) ++ le 8 j.aad ++ le 8 j.text
    else padTo 64 ((Config.digest 9 [j.num, j.gen, j.lines]).flatMap (le 8))
  head ++ le 4 j.num ++ le 4 j.gen ++ le 1 j.slot ++ le 1 j.epoch ++ le 1 mode ++ le 1 j.owner ++ le 4 j.lines

/-- The wrapped state: 88 bytes under the device wrapping key (R340). -/
def Job.wrapped (j : Job) : List Byte := keyWrap Config.deviceKey j.chain

/-- A job as a chaining state in the clear makes it go on. -/
def Job.load (j : Job) (b : List Byte) : Job :=
  let u (at_ n : Nat) : Nat := ofLe ((b.drop at_).take n)
  { j with j0 := swapBlock (u 0 16), ctr := swapBlock (u 0x10 16), ghash := swapBlock (u 0x20 16), aad := u 0x30 8, text := u 0x38 8, lines := u 0x4C 4 }

/-- A job from its stream's header on: J0 of its IV, the header line as additional authenticated data (R434). -/
def Job.begin (j : Job) (key : BitVec 512) (header : BitVec 512) : Job :=
  if j.gcm then { j with j0 := gcmStart j.iv, ctr := gcmStart j.iv, ghash := ghashLine key 0 header, aad := 512 } else j

/-- A line of a job through the cipher: GCM adds the key stream of the next four counter blocks; XTS takes line i under tweak value i + 2^40 job number (R338). -/
def Job.crypt (j : Job) (key : BitVec 512) (enc : Bool) (d : BitVec 512) : BitVec 512 :=
  if j.gcm then gcmLine key (gcmCounter j.ctr 1) d
  else (if enc then xtsEnc else xtsDec) key (j.lines + 2 ^ 40 * j.stream) d

/-- The job at its next line, after a line whose cipher text is given. -/
def Job.absorb (j : Job) (key : BitVec 512) (text : BitVec 512) : Job :=
  let j1 := { j with lines := j.lines + 1 }
  if j.gcm then { j1 with ctr := gcmCounter j.ctr 4, ghash := ghashLine key j.ghash text, text := (j.text + 512) % 2 ^ 64 } else j1

/-- The GCM tag of a job's stream; 0 in XTS mode. -/
def Job.tag (j : Job) (key : BitVec 512) : Nat := if j.gcm then gcmTag key j.j0 j.ghash j.aad j.text else 0

namespace State

/-- The header line of a stream (Table 13-7). -/
def headerData (j : Job) : BitVec 512 :=
  BitVec.ofNat 512 (ofLe ([0x50, 0x58, 0x45, 0x58] ++ le 4 (if j.gcm then 1 else 2) ++ le 4 j.num ++ le 12 (if j.gcm then j.iv else 0)))
/-- The trailer line. -/
def trailerData (j : Job) (key : BitVec 512) : BitVec 512 := BitVec.ofNat 512 (j.lines + 2 ^ 64 * j.tag key)

/-- A part ends with a status that leaves no open job: its entry is freed when the completion is posted. -/
def jobEnd (o : OpRun) (code : Nat) (s : State) : State := s.stopOp o code

/-- The slot of a job part may be used: ACTIVE, of usage TRANSFER, its key bit held (R436). -/
def transferOk (s : State) (o : OpRun) : Bool :=
  let v := s.keySlot o.desc.key
  v.state == .active && v.usage == 2 && s.hasKey (spoolSet o.owner) o.desc.key

/-- A part with B = 0 opens a job (R339, R340): a free entry, a GCM job counted, its IV drawn. -/
def jobOpen (o : OpRun) (s : State) : State :=
  let k := o.desc.key
  let gcm := o.desc.mode == 1
  let used := Tab.get (fun _ => 0) s.cip.gcmCount k
  if 256 ≤ s.cip.jobs.length then s.stopOp o 10
  else if gcm && 2 ^ 31 ≤ used then s.stopOp o 9
  else
    let n := s.cip.nextJob
    let drawn := gcm && o.desc.op == 0x0F
    let j0 : Job := { num := n, gcm, isExport := o.desc.op == 0x0F, slot := k, epoch := (s.keySlot k).epoch, owner := o.owner,
                      iv := if drawn then s.freeVal % 2 ^ 96 else 0, stream := n }
    let j := if j0.isExport then j0.begin (s.keySlot k).key (headerData j0) else j0
    let s1 := if drawn then s.freeStep else s
    let s2 := s1.modCip fun c => { c with
      jobs := c.jobs ++ [j], nextJob := (n + 1) % 2 ^ 32, gcmCount := if gcm then Tab.set (fun _ => 0) c.gcmCount k (used + 1) else c.gcmCount }
    (if gcm && used + 1 = 2 ^ 30 then s2.fire 109 else s2).setOp { o with job := some n }

/-- A part with B = 1 resumes the job whose state its buffer holds, wrapped or in the clear (R340). -/
def jobResume (o : OpRun) (s : State) : State :=
  let b := s.spoolBytes (dState o.desc) 88
  let same (j : Job) : Bool := b == j.wrapped || (
    let u (at_ n : Nat) : Nat := ofLe ((b.drop at_).take n)
    u 0x40 4 == j.num && u 0x44 4 == j.gen && u 0x48 1 == j.slot && u 0x49 1 == j.epoch && u 0x4A 1 == (if j.gcm then 1 else 2) && u 0x4B 1 == j.owner)
  let fits (j : Job) : Bool := j.owner == o.owner && j.isExport == (o.desc.op == 0x0F) && j.slot == o.desc.key && j.gcm == (o.desc.mode == 1)
    && j.epoch == (s.keySlot j.slot).epoch && !s.spl.ops.any (fun x => x.job == some j.num && x.status.isNone) && same j
  match s.cip.jobs.find? fits with
  | some j => (s.setJob (if b == j.wrapped then j else j.load b)).setOp { o with job := some j.num, sub := 1 }
  | none => s.stopOp o 10

/-- A part is suspended: the generation rises and its state goes to STATE (R340, R435). -/
def jobSuspend (o : OpRun) (j : Job) (s : State) : State :=
  let j1 := { j with gen := j.gen + 1 }
  let st := if s.hasRight (spoolSet o.owner) rightClearChain then j1.chain else j1.wrapped
  ((s.setJob j1).setSpoolBytes (dState o.desc) st).stopOp { o with sum := { o.sum with symbols := st.length } } 12

/-- Write one line of a part: checks, flow, store. -/
def jobWrite (o : OpRun) (line : Nat) (v : Line) (s : State) (done : OpRun → State → State) : State :=
  match s.lineStop o.owner line true with
  | some (s1, c) => s1.jobEnd o c
  | none => match s.lineFlow o line true with
    | (s1, o1, false) => s1.setOp o1
    | (s1, o1, true) => match s1.writeOp o1 line v with
      | (s2, o2, true) => done o2 s2
      | (s2, o2, false) => s2.setOp o2

/-- Read one line of a part: checks, flow, value. -/
def jobRead (o : OpRun) (line : Nat) (s : State) (done : OpRun → Got → State → State) : State :=
  match s.lineStop o.owner line false with
  | some (s1, c) => s1.jobEnd o c
  | none => match s.lineFlow o line false with
    | (s1, o1, false) => s1.setOp o1
    | (s1, o1, true) => match s1.opRead o line (dStream o.desc) true with
      | (s2, .wait) => s2.setOp o1
      | (s2, g) => done o1 g s2

/-- After a data line: the next one, the end of the part, or its suspension (R435). -/
def jobNext (o : OpRun) (j : Job) (s : State) : State :=
  let o1 := { o with next := o.next + 1, count := o.count + 1 }
  let s1 := (s.setJob j).perf 47 0x602 (ldOfOwner o.owner) 1
  if o1.count = 2 ^ 24 || (o1.next = o.desc.len && dA o.desc) then s1.jobSuspend o1 j
  else s1.setOp (if o1.next = o.desc.len then { o1 with sub := 2 } else o1)

/-- Header line read by an import. -/
def importHeader (o : OpRun) (j : Job) (g : Got) (s : State) : State :=
  let d : BitVec 512 := match g with | .line l _ => l.data | _ => 0
  let n := d.toNat
  let j1 := { j with stream := n / 2 ^ 64 % 2 ^ 32, iv := if j.gcm then n / 2 ^ 96 % 2 ^ 96 else 0 }
  (s.setJob (j1.begin (s.keySlot j.slot).key d)).setOp { o with sub := 1 }

/-- A data line of an export: poison, a bad tag or no value ends the part (R436). -/
def exportData (o : OpRun) (j : Job) (src dst : Nat) (g : Got) (s : State) : State :=
  match g with
  | .line l _ =>
    if l.poison then s.jobEnd o 16
    else if !tagOk l src (s.sharedOf src) then (s.tagFailEgress src 7 (ldOfOwner o.owner)).jobEnd o 16
    else
      let key := (s.keySlot j.slot).key
      let c := j.crypt key true l.data
      (s.perf 46 0x501 (ldOfOwner o.owner) 4).jobWrite o dst (mkLine c dst (s.sharedOf dst) false) fun o s => s.jobNext o (j.absorb key c)
  | _ => s.jobEnd o 16

/-- A data line of an import; a source line without a value is stored poisoned. -/
def importData (o : OpRun) (j : Job) (dst : Nat) (g : Got) (s : State) : State :=
  let key := (s.keySlot j.slot).key
  let c := match g with | .line l _ => l.data | _ => 0
  let v := match g with
    | .line l _ => { mkLine (j.crypt key false c) dst (s.sharedOf dst) l.poison with origin := 1 }
    | _ => { s.zeroLine dst with poison := true, origin := 1 }
  let wrote (j : Job) : Job := { j with wrote := if j.wrote.contains dst then j.wrote else j.wrote ++ [dst], rewritten := j.rewritten.filter (· != dst) }
  (s.perf 46 0x501 (ldOfOwner o.owner) 4).jobWrite o dst v fun o s => s.jobNext o (wrote (((s.jobOf j.num).getD j).absorb key c))

/-- The trailer read by an import: LINES and TAG are compared. -/
def importEnd (o : OpRun) (j : Job) (g : Got) (s : State) : State :=
  let good := match g with
    | .line l _ => !l.poison && l.data.toNat % 2 ^ 64 == j.lines && (!j.gcm || l.data.toNat / 2 ^ 64 % 2 ^ 128 == j.tag (s.keySlot j.slot).key)
    | _ => false
  if good then s.jobEnd o 0
  else
    let first := dJobDst o.desc / 64
    let stop := o.desc.dst / 64 + o.desc.len
    let marks := ((List.range (stop - first)).map (first + ·)).filter fun l => !j.rewritten.contains l
    s.jobEnd { o with cands := marks } 11

/-- A step of an EXPORT or IMPORT. -/
def jobStep (o : OpRun) (s : State) : State :=
  let d := o.desc
  let isExp := d.op == 0x0F
  let a := d.src / 64
  let b := d.dst / 64
  let srcAt := a + o.next + (if isExp then 0 else headLines d)
  let dstAt := b + o.next + (if isExp then headLines d else 0)
  if s.cipherFault then s.jobEnd o 8
  else match o.job.bind s.jobOf with
    | none => if !s.transferOk o then s.stopOp o 13 else if dB d then s.jobResume o else s.jobOpen o
    | some j =>
      match o.sub with
      | 0 =>
        if isExp then s.jobWrite o b (mkLine (headerData j) b (s.sharedOf b) false) fun o s => s.setOp { o with sub := 1 }
        else s.jobRead o a fun o g s => s.importHeader o j g
      | 1 =>
        if isExp then match s.lineStop o.owner dstAt true with
          | some (s1, c) => s1.jobEnd o c
          | none => s.jobRead o srcAt fun o g s => s.exportData o j srcAt dstAt g
        else match s.lineStop o.owner dstAt true with
          | some (s1, c) => s1.jobEnd o c
          | none => s.jobRead o srcAt fun o g s => s.importData o j dstAt g
      | _ =>
        if isExp then s.jobWrite o dstAt (mkLine (trailerData j (s.keySlot j.slot).key) dstAt (s.sharedOf dstAt) false) fun o s => s.jobEnd o 0
        else s.jobRead o srcAt fun o g s => s.importEnd o j g

/-! ### The line writes of Inject Poison and Clear Poison (R377) -/

/-- Such a write is an op of its own outside every spool: its number of spool. -/
def mailSpool : Nat := 8192

/-- The write ends with a return code. -/
def mailEnd (o : OpRun) (code : Nat) (s : State) : State :=
  let s1 := (s.modSpl fun p => { p with ops := p.ops.filter (·.id != o.id) }).flowsDrop o.waits
  (s1.setLd o.owner { s1.ldOf o.owner with mbOp := none }).mbDone o.owner o.desc.op code []

/-- The write proceeds as a full-line write: its flow, its store; in a fenced range it is handled as R463 says. A line that is no longer decoded ends it with Invalid Physical Address. -/
def mailStep (o : OpRun) (s : State) : State :=
  let line := o.desc.src / 64
  let inject := o.desc.op == 0x4301
  let data := mkLine (BitVec.ofNat 512 (ofLe o.desc.arg)) line (s.sharedOf line) false
  if !s.decoded (some o.owner) line then s.mailEnd o 0xF
  else match s.lineFlow o line true with
    | (s1, o1, false) => s1.setOp o1
    | (s1, o1, true) =>
      let fenced := s1.fencedAt line
      match if fenced then (let (a, ok) := s1.markLine line 0; (a, o1, ok)) else s1.writeOp o1 line (if inject then { data with poison := true, origin := 2 } else data) with
      | (s2, o2, false) => s2.setOp o2
      | (s2, o2, true) =>
        let l := s2.ldOf o.owner
        let s3 := if inject && !fenced then s2.setLd o.owner { l with injected := (l.injected.filter (· != line)) ++ [line] } else s2
        let s4 := if fenced then s3.countFenced else s3
        if o2.backs.isEmpty then s4.mailEnd o2 0 else s4.setOp { o2 with closing := some 0 }

/-! ### Starting and stepping ops -/

/-- A flush other than a GPF or group flush has stopped admission: it stops every op (R261, R432). -/
def opsStopped (s : State) : Bool := s.flush.stopped && s.flush.kind != .gpf && s.flush.kind != .group

/-- A flush lets an op take no step: a GPF or group flush lets go on those that write nothing (R432): PREFETCH, UNPIN, VERIFY, SAMPLE_DRAIN. -/
def flushHolds (s : State) (o : OpRun) : Bool := s.opsStopped || (s.flush.stopped && !(o.desc.op == 0x06 || o.desc.op == 0x08 || o.desc.op == 0x11 || o.desc.op == 0x12))

/-- A flush lets the completion of an op not be posted: under a GPF or group flush that of a fence (R281) and of an import that is to store its lines poisoned. -/
def flushMutes (s : State) (o : OpRun) : Bool := s.opsStopped || (s.flush.stopped && (o.desc.op == 0x05 || o.status == some 11))

/-- Ops of a spool that have not been posted. -/
def opsOf (s : State) (n : Nat) : List OpRun := s.spl.ops.filter (·.spool == n)

/-- A descriptor whose OP is `op` stands at HEAD of a spool and may start (R430). An OP that Table 13-6 does not name, and an unreadable descriptor, go with the row of COPY. -/
def mayStartOp (s : State) (n op : Nat) (d : Desc) (readable : Bool) : Bool :=
  let c := s.ctx n
  let kind := if readable && (opUse d.op).isSome then d.op else 1
  n < 4096 && c.state == 1 && c.used != 0 && !s.opsStopped && !s.halted && s.memActive && (s.opsOf n).length < 16
    && s.spl.ops.length < 1024 && kind == op && !(readable && dFence d && !(s.opsOf n).isEmpty)

/-- STATE names a 128-B buffer in the owner's window (Table 13-5). -/
def stateOk (s : State) (n : Nat) (d : Desc) : Bool :=
  !(d.op == 0x0F || d.op == 0x10) || (match s.ownerOf n with
    | some w => 65536 * w.winBase ≤ dState d && dState d + 128 ≤ 65536 * (w.winBase + w.winSize)
    | none => false)

/-- The data mover reads the descriptor at HEAD of spool n and starts its op (R428 to R430); an unreadable one completes with status 15, its record's OP and TAG unknown. -/
def startOp (op n : Nat) (readable : Bool) (s : State) : State :=
  let c := s.ctx n
  let at_ := c.base + c.head % c.entries * 64
  let readable := readable && !s.spoolBad at_ 64
  let d0 := readDesc (s.spoolBytes at_ 64)
  if !s.mayStartOp n op d0 readable then s
  else
    let v := s.freeVal
    let d : Desc := if readable then d0
      else { op := v % 256, flags := v / 256 % 2, key := 0, mode := 0, tag := v / 512 % 2 ^ 32, src := 0, dst := 0, len := 0 }
    let ok := readable && (match opUse d.op with | some u => descOk d u && s.stateOk n d && (d.op != 0x0E || s.rekeyAligned d) | none => false)
    let o : OpRun := { id := s.spl.nextOp, spool := n, desc := d, owner := s.ownerCode n, status := if !readable then some 15 else if ok then none else some 4 }
    let s1 := (if readable then s else s.freeStep).setCtx n { c with head := (c.head + 1) % (2 * c.entries) }
    (s1.modSpl fun p => { p with ops := p.ops ++ [o], nextOp := p.nextOp + 1 }).perf 47 0x601 (ldOfOwner o.owner) 1

/-- An op whose lines are all handled ends when what it waits for is over. -/
def closingStep (o : OpRun) (code : Nat) (s : State) : State :=
  if o.desc.op = 0x04 then s.scrubStep o
  else if o.desc.op = 0x0C then s.cleanClose o code
  else if o.desc.op = 0x05 then s.fenceStep o
  else if !o.bolts.isEmpty then s.discardStep o.bolts
  else if !o.backs.isEmpty then s
  else if o.spool = mailSpool then s.mailEnd o code
  else if o.desc.op = 0x0F || o.desc.op = 0x10 then s.stopOp o code
  else s.closeOp o code

/-- A step of an op by its OP (Table 13-6). `wrote`: as in `rekeyStep`. -/
def opStep (o : OpRun) (wrote : Bool) (s : State) : State :=
  match o.closing with
  | some code => s.closingStep o code
  | none => match o.desc.op with
    | 0x01 => s.copyStep o
    | 0x02 => s.fillStep o
    | 0x03 => s.discardOp o
    | 0x04 => s.scrubStep o
    | 0x05 => s.fenceStep o
    | 0x06 => s.prefetchStep o
    | 0x07 => s.pinStep o
    | 0x08 => s.unpinStep o
    | 0x09 => s.lockStep o
    | 0x0A => s.cleanStep false o
    | 0x0B => s.invalidateStep o
    | 0x0C => s.cleanStep true o
    | 0x0D => s.darnStep o
    | 0x0E => s.rekeyStep o wrote
    | 0x0F | 0x10 => s.jobStep o
    | 0x11 => s.verifyStep o
    | 0x12 => s.drainStep o
    | 0x4301 | 0x4302 => s.mailStep o
    | _ => s

/-- Words of a completion record (Table 13-8, R437). -/
def opRecord (s : State) (o : OpRun) : List (List Byte) :=
  let st := o.status.getD 0
  let count := o.count + (if o.desc.op = 0x07 || o.desc.op = 0x09 then 2 ^ 24 * o.count2 else 0)
  let w0 := le 1 o.desc.op ++ le 1 st ++ le 2 o.spool ++ le 4 o.desc.tag ++ le 6 count ++ le 1 0
  let j : Option Job := o.job.bind s.jobOf
  match o.desc.op with
  | 0x04 => [w0, o.sum.bytes.take 15, (o.sum.bytes.drop 15).take 15, o.sum.bytes.drop 30]
  | 0x0E => [w0, le 8 o.count2]
  | 0x0F | 0x10 =>
    [w0, le 12 (match j with | some j => if j.gcm then j.iv else 0 | none => 0), le 4 (o.job.getD 0) ++ le 4 ((j.map (·.gen)).getD 0) ++ le 1 o.sum.symbols]
  | 0x11 => [w0, le 5 (o.sum.first.getD 0xFFFFFFFFFF) ++ le 4 o.count2]
  | _ => [w0]

/-- The completion of an op is posted and the op is gone (R436 to R438): an import that failed then stores its lines poisoned. -/
def opPost (o : OpRun) (s : State) : State :=
  let s1 := s.modSpl fun p => { p with ops := p.ops.filter (·.id != o.id) }
  let s2 := s1.postRecord (s1.ctx o.spool).pair 1 (s1.opRecord o) (bit o.desc.flags 0)
  let may (l : Nat) : Bool := (s2.lineStop o.owner l true).isNone
  let s3 := match o.job with | some n => if o.status = some 12 then s2 else s2.freeJob n | none => s2
  if o.status = some 11 then (o.cands.filter may).foldl (fun s l => s.poisonLine l 0) s3 else s3

end State

/-- COPY (R284, R429 to R431): its descriptor is read. `readable`: HBM gives the descriptor. -/
def execCopy (spool : Nat) (readable : Bool) (s : State) : Out := .next (s.startOp 0x01 spool readable)
/-- FILL. -/
def execFill (spool : Nat) (readable : Bool) (s : State) : Out := .next (s.startOp 0x02 spool readable)
/-- SECURE_DISCARD (R184, R185). -/
def execSecureDiscard (spool : Nat) (readable : Bool) (s : State) : Out := .next (s.startOp 0x03 spool readable)
/-- SCRUB_RANGE (R309 to R313). -/
def execScrubRange (spool : Nat) (readable : Bool) (s : State) : Out := .next (s.startOp 0x04 spool readable)
/-- PERSIST_FENCE (R280, R281). -/
def execPersistFence (spool : Nat) (readable : Bool) (s : State) : Out := .next (s.startOp 0x05 spool readable)
/-- PREFETCH. -/
def execPrefetch (spool : Nat) (readable : Bool) (s : State) : Out := .next (s.startOp 0x06 spool readable)
/-- PIN (R199, R206, R214). -/
def execPin (spool : Nat) (readable : Bool) (s : State) : Out := .next (s.startOp 0x07 spool readable)
/-- UNPIN. -/
def execUnpin (spool : Nat) (readable : Bool) (s : State) : Out := .next (s.startOp 0x08 spool readable)
/-- LOCK_RANGE (R208, R209). -/
def execLockRange (spool : Nat) (readable : Bool) (s : State) : Out := .next (s.startOp 0x09 spool readable)
/-- CLEAN (R211, R212). -/
def execClean (spool : Nat) (readable : Bool) (s : State) : Out := .next (s.startOp 0x0A spool readable)
/-- INVALIDATE (R213, R214). -/
def execInvalidate (spool : Nat) (readable : Bool) (s : State) : Out := .next (s.startOp 0x0B spool readable)
/-- CLEAN_INVALIDATE (R212). -/
def execCleanInvalidate (spool : Nat) (readable : Bool) (s : State) : Out := .next (s.startOp 0x0C spool readable)
/-- DARN (R123). -/
def execDarn (spool : Nat) (readable : Bool) (s : State) : Out := .next (s.startOp 0x0D spool readable)
/-- REKEY_RANGE (R330). -/
def execRekeyRange (spool : Nat) (readable : Bool) (s : State) : Out := .next (s.startOp 0x0E spool readable)
/-- EXPORT (R434 to R436). -/
def execExport (spool : Nat) (readable : Bool) (s : State) : Out := .next (s.startOp 0x0F spool readable)
/-- IMPORT (R434 to R436). -/
def execImport (spool : Nat) (readable : Bool) (s : State) : Out := .next (s.startOp 0x10 spool readable)
/-- VERIFY. -/
def execVerify (spool : Nat) (readable : Bool) (s : State) : Out := .next (s.startOp 0x11 spool readable)
/-- SAMPLE_DRAIN (R433). -/
def execSampleDrain (spool : Nat) (readable : Bool) (s : State) : Out := .next (s.startOp 0x12 spool readable)

/-- DATA_MOVER_LINE (R431 to R436): the next step of an op, unless a flush holds it or the device is halted.
`wrote`: the key store was written and verified, where the step is the one that binds the regions of a REKEY_RANGE (R325, R330). -/
def execDataMoverLine (op : Nat) (wrote : Bool) (s : State) : Out :=
  match s.opOf op with
  | some o => if o.status.isSome || s.flushHolds o || s.halted then .next s else .next (s.opStep o wrote).healthCheck
  | none => .next s

/-- OP_COMPLETION_POST (R281, R432, R437): an op that has ended posts its record; a mailbox write that a retirement ended answers instead (log 62). -/
def execOpCompletionPost (op : Nat) (s : State) : Out :=
  match s.opOf op with
  | some o =>
    if o.status.isNone || s.flushMutes o then .next s
    else if o.spool = State.mailSpool then .next (s.mailEnd o 0xF) else .next (s.opPost o)
  | none => .next s

end Sys2Proof.Machine
end

