-- ==== Sys2Proof/Machine/Group.lean ====
section
/-!
DEFINITION. Roll calls of the interleave group (15, R455 to R468).
-/
namespace Sys2Proof.Machine

/-- The bytes of a roll-call record (Table 15-2). -/
def rollWire (r : RollCall) : List Byte :=
  let st := r.state + (if r.pf then 8 else 0) + (if r.fromGroup then 16 else 0)
  let b := le 8 r.groupId ++ le 16 r.fprint ++ le 8 r.time ++ le 4 r.corr ++ le 1 r.index ++ le 1 st ++ le 1 r.stepping ++ le 1 r.hops ++ le 4 r.version
  b ++ le 4 (crc32c b)

/-- `TOP.ID.STEPPING` (Table 02-11). -/
def stepping : Nat := 0xB1

namespace State

/-- The member takes part in the ring (R453, Table 15-6): the supervisor runs it, in every state of the device (R467). -/
def inRing (s : State) : Bool := s.clk.awake && s.plan.group.isSome && s.flag GRP.CTRL_ENABLE

/-- Own roll-call record. -/
def ownRoll (s : State) (g : GroupPlan) : RollCall :=
  { groupId := g.groupId, fprint := g.fprint, time := s.clk.time, index := g.index, state := s.ownState, pf := s.seq.pf, fromGroup := s.ownFromGroup,
    stepping, version := s.getF TOP.PATTERN_VER_VERSION }

/-- A record on the ring (R456): K27.7, its 48 bytes, K29.7; a control symbol has bit 8 set. -/
def sendRoll (r : RollCall) (s : State) : State := s.emit (.rollCall (0x1FB :: (rollWire r).map BitVec.toNat ++ [0x1FD]))

/-- A record that R457 discards: counted; source 679 above 100 in a second. -/
def rollBad (s : State) : State :=
  let n := s.rate.badRoll + 1
  let s1 := (s.countF GRP.COUNTS_BAD 1).modRate fun r => { r with badRoll := n }
  if n = 101 then s1.fire 679 else s1

/-- Stepping and version of a compatible member's record where they differ from own (R459). -/
def rollDiffers (s : State) (r : RollCall) : Option (Nat × Nat) :=
  if r.fprint ≠ s.ownFprint || (r.stepping = stepping && r.version = s.getF TOP.PATTERN_VER_VERSION) then none else some (r.stepping, r.version)

/-- The record shows a power-fail, or a flush that no group flush of another member caused (R466). -/
def rollFlush (r : RollCall) : Bool := r.state == 3 && !r.fromGroup

/-- The group trigger of a used record (R466): a flush of kind group begins while the device runs; during another flush it is noted. -/
def groupTrigger (old : Option RollCall) (r : RollCall) (s : State) : State := match old with
  | none => s
  | some o =>
    if !((r.pf && !o.pf) || (rollFlush r && !rollFlush o)) || s.halted then s
    else if s.flush.kind != .none then s.noteTrigger 5
    else if s.topState = 3 then (s.flushBegin .group 5).fire 677
    else s

/-- A state that makes a member a candidate for the time reference (R468). -/
def timed (st : Nat) : Bool := st == 2 || st == 3 || st == 4

/-- Index of the time reference (R468). -/
def timeRef (s : State) : Option Nat := match s.plan.group with
  | none => none
  | some g => (List.range g.size).find? fun i =>
      if i = g.index then timed s.ownState
      else !s.silent i && (match (s.member i).last with | some r => timed r.state | none => false)

/-- A record of the reference sets GRP.SKEW and corrects device time (R468). -/
def followTime (r : RollCall) (s : State) : State :=
  if s.timeRef ≠ some r.index then s
  else
    let d : Int := s.clk.time - (r.time + r.corr : Nat)
    let lim : Int := 2 ^ 31
    let s1 := s.setF GRP.SKEW_NS (unsignedOf 32 (max (-lim) (min (lim - 1) d)))
    let s2 := if 50000 < d.natAbs && s1.flag GRP.CTRL_TIME_FOLLOW then
        (if d < 0 then s1.modClk fun c => { c with time := c.time + d.natAbs, slew := 0 } else s1.modClk fun c => { c with slew := 2 * (d.natAbs - 999) })
      else if d < 1000 then s1.modClk fun c => { c with slew := 0 } else s1
    if 5000000 < d.natAbs && !s2.rate.skew then (s2.modRate fun x => { x with skew := true }).fire 678 else s2

/-- The unfence condition (R464), judged at each used record. -/
def unfenceCheck (s : State) : State :=
  let fine (i : Nat) : Bool := match (s.member i).last with
    | none => false
    | some r => decide (s.clk.now ≤ (s.member i).usedAt + 100000) && r.fprint == s.ownFprint && (r.state == 2 || r.state == 4 || (r.state == 3 && r.fromGroup)) && !r.pf
  if s.grp.fenced && s.running && s.others.all fine then (s.modGrp fun g => { g with fenced := false }).fire 673 else s

/-- A used record (R457 to R468). -/
def rollUse (r : RollCall) (linkNs : Nat) (s : State) : State :=
  let old := (s.member r.index).last
  let s1 := s.sendRoll { r with hops := r.hops + 1, corr := r.corr + linkNs }
  let s2 := s1.setMember r.index { last := some r, usedAt := s.clk.now }
  let s3 := if s.rollDiffers r = old.bind s.rollDiffers then s2
    else s2.fireRec 0x0901 680 (le 1 r.index ++ le 1 r.stepping ++ le 1 stepping ++ le 1 0 ++ le 4 r.version ++ le 4 (s.getF TOP.PATTERN_VER_VERSION))
  ((s3.groupTrigger old r).followTime r).fenceUpdate.unfenceCheck

end State

/-- ROLL_CALL_SEND (R453, R457, R467). -/
def execRollCallSend (s : State) : Out := match s.plan.group with
  | none => .next s
  | some g => if s.inRing then .next (s.sendRoll (s.ownRoll g)) else .next s

/-- ROLL_CALL_RECEIVE (R457): `linkNs` is what this member's forwarding adds to CORR. The cases are taken in the rule's order. -/
def execRollCallReceive (r : RollCall) (linkNs : Nat) (s : State) : Out := match s.plan.group with
  | none => .next s
  | some g =>
    if !s.inRing then .next s
    else if !r.crcOk || r.groupId ≠ g.groupId then .next s.rollBad
    else if r.index % 8 = g.index then .next s
    else if g.size ≤ r.hops + 1 then .next s.rollBad
    else .next (s.rollUse { r with index := r.index % 8 } linkNs).healthCheck

/-- MEMBER_SILENT (R458, R462): no used record of a member for 350 µs. -/
def execMemberSilent (i : Nat) (s : State) : Out :=
  if !s.clk.awake || !s.others.contains i || (s.member i).silent then .next s
  else .next (s.setMember i { s.member i with silent := true }).fenceUpdate

end Sys2Proof.Machine
end

