-- ==== Sys2Proof/Machine/HostPort.lean ====
section
/-!
DEFINITION. Host ports (11): link training and loss, PERST_N, configuration, HDM decoders, BAR2, credits (03, R90).
-/
namespace Sys2Proof.Machine

namespace State

/-! ### Links (R354 to R360, R365, R368) -/

/-- The core answers at the host ports: it has been released, or the rails of safe state are up (R48). -/
def portsLive (s : State) : Bool := s.start.released || (s.topState = 2 && s.seq.state == .on)

/-- The port that Hem binds an LD to: the binding in force, or the one that waits for a training (R360). -/
def boundTo (s : State) (k : Nat) : Option Nat := match (s.ldOf k).portNext with | some b => b | none => (s.ldOf k).port

/-- A port may train: enabled, PERST_N deasserted, an LD bound (R360). -/
def mayTrain (s : State) (n : Nat) : Bool :=
  n < 4 && s.portsLive && s.flag (HPT.LINK_CTRL_ENABLE n) && !Tab.get (fun _ => false) s.pins.perst n
    && (List.range 16).any fun k => s.boundTo k == some n

/-- The link of port n has trained (R355, R356, R360) with the SerDes presets (Table 17-6). -/
def hostUp (n : Nat) (l : TrainedLink) (s0 : State) : State :=
  let s := (s0.calRead 2).bindPending n
  let maxS := s.getF (HPT.LINK_CTRL_MAX_SPEED n)
  let maxSpeed := if 3 < maxS then 0 else maxS
  let lanes := if s.flag (HPT.LINK_CTRL_WIDTH n) then 4 else 8
  let speed := max l.speed maxSpeed
  let width := min l.width lanes
  let cxl := l.cxl && decide (speed ≤ 3)
  let flit := cxl && (speed = 0 || l.flit256)
  let was := s.flag (HPT.LINK_STATUS_CXL n)
  let again := s.flag (HPT.LINK_STATUS_UP n)
  let s1 := (((s.setF (HPT.LINK_STATUS_UP n) 1).setFlag (HPT.LINK_STATUS_CXL n) cxl).setFlag (HPT.LINK_STATUS_MLD n) (2 ≤ (s.ldsAt n).length)).setF
    (HPT.LINK_STATUS_SPEED n) speed
  let s2 := ((s1.setF (HPT.LINK_STATUS_WIDTH n) width).setFlag (HPT.LINK_STATUS_FLIT256 n) flit).setFlag (HPT.LINK_STATUS_LOPT n) (flit && speed ≠ 0 && l.lopt)
  let p := s2.port n
  let s3 := (s2.setF (HPT.LINK_CMD_RETRAIN n) 0).setPort n (if again then { p with far := some l, retrain := false } else { far := some l, biRoute := p.biRoute, errors := p.errors })
  let s4 := if cxl && !was then s3.fire (512 + 32 * n) else s3
  if maxSpeed < speed || width < lanes then s4.fire (512 + 32 * n + 2) else s4

/-! ### Configuration (R365, R381) -/

/-- The effect of a request that completes. -/
def cfgApply (n : Nat) (w : CfgWrite) (s : State) : State :=
  let mine (ld : Nat) : Bool := (s.ldOf ld).port == some n
  match w with
  | .none => s
  | .errorsClear => s.setPort n { s.port n with errors := {} }
  | .biRoute on => s.setPort n { s.port n with biRoute := on }
  | .mailboxIrq ld on => if mine ld then s.setLd ld { s.ldOf ld with mbIrq := on } else s
  | .vectorMask ld v masked =>
    if !mine ld || 2048 ≤ v then s
    else
      let k := 2048 * ld + v
      let s1 : State := s.putMsixMask (Tab.set (fun _ => true) s.msixMask k masked)
      if masked || !Tab.get (fun _ => false) s.msixPend k then s1
      else State.sendVector ld v (s1.putMsixPend (Tab.set (fun _ => false) s1.msixPend k false))
  | .decoderClear ld i => if mine ld then
      s.setLd ld { s.ldOf ld with decoders := Tab.set (fun _ => none) (s.ldOf ld).decoders i none, decErr := Tab.set (fun _ => false) (s.ldOf ld).decErr i false }
    else s

/-! ### HDM decoders (R362, R363) -/

/-- Ways and granularity that R362 supports, and the multiples of base and size. -/
def decoderForm (d : HdmDecoder) : Bool :=
  [1, 2, 4, 8].contains d.ways && [256, 512, 1024, 2048, 4096, 8192, 16384].contains d.gran
    && d.base % 2 ^ 28 == 0 && d.size % (2 ^ 28 * d.ways) == 0 && d.size != 0

/-- DPA start of decoder i (R363): the end of the span of the decoder before it, or 0, plus its skip; none where that decoder is not committed. -/
def decoderStart (s : State) (ld i : Nat) (d : HdmDecoder) : Option Nat :=
  if i = 0 then some d.skip
  else (Tab.get (fun _ => none) (s.ldOf ld).decoders (i - 1)).map fun e => e.1 + hdmSpan e.2 + d.skip

/-- The commit of decoder i succeeds (R363). -/
def commitOk (s : State) (ld i : Nat) (d : HdmDecoder) (start : Nat) : Bool :=
  let stop := start + hdmSpan d
  let unit (u : Nat) : Bool := s.plan.regions.any fun r => r.forLd ld && r.base ≤ u && u < r.base + r.size
  let covered := (List.range (ceilDiv stop (2 ^ 28) - start / 2 ^ 28)).all fun u => unit (start / 2 ^ 28 + u)
  let apart := (s.ldOf ld).decoders.all fun e => e.1 == i || (match e.2 with
    | some x => x.1 + hdmSpan x.2 ≤ start || stop ≤ x.1
    | none => true)
  let ranges := match s.plan.group with | some g => g.ranges | none => []
  let size := match s.plan.group with | some g => g.size | none => 1
  let inside := ranges.any fun r => r.1 ≤ start && stop ≤ r.1 + r.2
  let meets := ranges.any fun r => start < r.1 + r.2 && r.1 < stop
  decoderForm d && covered && apart && (if inside then d.ways == size else !meets && d.ways == 1)

/-- HPT.LINK_CMD.RETRAIN is written: it reads 1 until the link has trained again or is down (Table 02-8). -/
def retrainPort (port : Nat) (s : State) : State := (s.setPort port { s.port port with retrain := true }).setF (HPT.LINK_CMD_RETRAIN port) 1

end State

/-- HOST_LINK_UP (R355, R356, R360): the link of a port trains, or trains again, with what its partner offers. -/
def execHostLinkUp (port : Nat) (link : TrainedLink) (s : State) : Out :=
  if s.mayTrain port && [1, 2, 4, 8].contains link.width && (!s.flag (HPT.LINK_STATUS_UP port) || (s.port port).retrain) then .next (s.hostUp port link)
  else .next s

/-- HOST_LINK_DOWN (R368). -/
def execHostLinkDown (port : Nat) (s : State) : Out :=
  if port < 4 && s.flag (HPT.LINK_STATUS_UP port) then .next (s.hostDown port).healthCheck else .next s

/-- PORT_RETRAIN (Table 11-12): a write of 1 to HPT.LINK_CMD.RETRAIN; the training that follows is HOST_LINK_UP. -/
def execPortRetrain (m port : Nat) (s : State) : Out :=
  .next (s.regAction m (0x80008 + 0x4000 * port) (decide (port < 4)) (State.retrainPort port))

/-- PERST_N_ASSERT (R368): source 512 + 32n + 4; a link that is up goes down. -/
def execPerstNAssert (port : Nat) (s : State) : Out :=
  if 4 ≤ port || Tab.get (fun _ => false) s.pins.perst port then .next s
  else
    let s1 := (s.modPins fun p => { p with perst := Tab.set (fun _ => false) p.perst port true }).fire (512 + 32 * port + 4)
    .next (if s1.flag (HPT.LINK_STATUS_UP port) then (s1.hostDown port).healthCheck else s1)

/-- PERST_N_DEASSERT (R365). -/
def execPerstNDeassert (port : Nat) (s : State) : Out :=
  .next (s.modPins fun p => { p with perst := Tab.set (fun _ => false) p.perst port false })

/-- CONFIG_REQUEST (R48, R365): Configuration Request Retry Status until the port is ready; then the request completes with its effect. -/
def execConfigRequest (port tag : Nat) (w : CfgWrite) (s : State) : Out :=
  if 4 ≤ port || Tab.get (fun _ => false) s.pins.perst port || Tab.get (fun _ => 0) s.cip.ide (2 * port) = 2 then .next s
  else if s.portsLive then .next ((s.cfgApply port w).emit (.config port tag 0)) else .next (s.emit (.config port tag 1))

/-- HDM_DECODER_COMMIT (R362, R363): a decoder that fails reports Error Not Committed and decodes nothing. -/
def execHdmDecoderCommit (ld i : Nat) (dec : HdmDecoder) (s : State) : Out :=
  match (s.ldOf ld).port with
  | none => .next s
  | some p =>
    if 8 ≤ i || !s.portOpen p false then .next s
    else if s.halted then .next (s.emit (.io ld false []))
    else
      let start := s.decoderStart ld i dec
      let ok := match start with | some a => s.commitOk ld i dec a | none => false
      let l := s.ldOf ld
      .next (s.setLd ld { l with
        decoders := Tab.set (fun _ => none) l.decoders i (if ok then start.map fun a => (a, dec) else none), decErr := Tab.set (fun _ => false) l.decErr i (!ok) })

/-- BAR2_ACCESS (R422): an LD reads or writes its window, or reads its own contexts, within one aligned 64-B block; anything else is denied. -/
def execBar2Access (ld : Nat) (write : Bool) (addr : Nat) (bytes : List Byte) (n : Nat) (s : State) : Out :=
  match (s.ldOf ld).port with
  | none => .next s
  | some p =>
    let len := if write then bytes.length else n
    let fits := decide (0 < len && addr % 64 + len ≤ 64 && addr + len ≤ 2 ^ 26)
    if !s.portOpen p false then .next s
    else if s.halted then .next (s.emit (.io ld false []))
    else if fits && !write && (s.inWindowOf ld addr len || s.ownContexts ld addr len) && s.spoolBad addr len then .next (s.emit (.ioPoison ld))
    else if fits && s.inWindowOf ld addr len then
      .next (if write then s.setSpoolBytes addr bytes else s.emit (.io ld true (s.spoolBytes addr len)))
    else if fits && !write && s.ownContexts ld addr len then .next (s.emit (.io ld true (s.spoolRead addr len)))
    else
      let s1 := s.freeStep.deny ld (if write then 1 else 0) (s.freeVal % 256) 0 addr
      .next (if write then s1.aerAbort ld addr else s1.emit (.io ld false []))

/-- HOST_CREDIT_RETURN (R90): the host returns S2M credits; responses that waited are sent. -/
def execHostCreditReturn (port n : Nat) (s : State) : Out :=
  if 4 ≤ port || !s.flag (HPT.LINK_STATUS_UP port) then .next s
  else .next (((s.setPort port { s.port port with credits := (s.port port).credits + n }).sendWaiting port).admitWaiting)

end Sys2Proof.Machine
end

