-- ==== Sys2Proof/Machine/Views.lean ====
section
/-!
DEFINITION. What a reader of the register window sees: read-only fields that show other parts of the state are computed when they are read; every other
register reads as it is held (R61, R65).
-/
namespace Sys2Proof.Machine

/-- Bits of a list of conditions, the first lowest. -/
def maskOf (l : List Bool) : Nat := l.foldr (fun b a => (if b then 1 else 0) + 2 * a) 0

namespace State

/-- TOP: identity (R66), device time, the running start time (Table 14-7). -/
def viewTop (off : Nat) (s : State) : State :=
  if off = TOP.ID_DEVICE.off then ((s.setF TOP.ID_DEVICE 0x9618).setF TOP.ID_STEPPING stepping).setF TOP.ID_ORDER (match s.order with | .h72 => 0x72 | .h48 => 0x48)
  else if off = TOP.TIME_LO_TIME.off || off = TOP.TIME_HI_TIME.off then s.set64 TOP.TIME_LO_TIME TOP.TIME_HI_TIME s.clk.time
  else if off = TOP.START_TIME_MS.off && s.start.step = 7 then s.setF TOP.START_TIME_MS ((s.clk.now - s.start.step7At) / 1000000)
  else s

/-- HPT of port n: outstanding requests, effective limits (03), IDE streams (R336). -/
def viewHpt (n off : Nat) (s : State) : State :=
  if off = (HPT.ADMIT_STATUS_WR_OUT n).off then
    ((s.setF (HPT.ADMIT_STATUS_WR_OUT n) (s.wrOut n)).setF (HPT.ADMIT_STATUS_RD_OUT n) (s.rdOut n)).setFlag (HPT.ADMIT_STATUS_STALL_BUDGET n) (s.stallBudget n)
  else if off = (HPT.ADMIT_EFF_WR_EFF n).off then (s.setF (HPT.ADMIT_EFF_WR_EFF n) (s.wrEff n)).setF (HPT.ADMIT_EFF_RD_EFF n) (s.rdEff n)
  else if off = (HPT.LINK_STATUS_UP n).off then
    (s.setFlag (HPT.LINK_STATUS_IDE_MEM n) (Tab.get (fun _ => 0) s.cip.ide (2 * n + 1) == 1)).setFlag (HPT.LINK_STATUS_IDE_IO n) (Tab.get (fun _ => 0) s.cip.ide (2 * n) == 1)
  else s

/-- Slices (Table 03-14). -/
def viewSlc (k off : Nat) (s : State) : State :=
  if off = (SLC.STATUS_RD_TRK k).off then ((s.setF (SLC.STATUS_RD_TRK k) (s.rdTrk k)).setF (SLC.STATUS_CONFLQ k) (s.conflLen k)).setF (SLC.STATUS_WBUF k) (s.wbufLen k) else s

/-- The translation engine (Tables 04-14 to 04-24). -/
def viewXlt (off : Nat) (s : State) : State :=
  if off = XLT.PLOG_STATUS_FILL.off then
    let (live, _) := s.plogFill
    let total := if s.plan.groups = 0 then 0 else 32 * s.plan.plogGib
    (((s.setF XLT.PLOG_STATUS_FILL (if total = 0 then 0 else 100 * live / total)).setFlag XLT.PLOG_STATUS_FORCED s.xlt.forced).setF XLT.PLOG_STATUS_USED
      s.xlt.roster.length).setF XLT.PLOG_STATUS_TOTAL total
  else if off = XLT.PATCHES_LIVE.off then s.setF XLT.PATCHES_LIVE s.xlt.index.length
  else if off = XLT.DARN_STATUS_QUEUED.off then
    ((s.setF XLT.DARN_STATUS_QUEUED (min 65535 s.xlt.darnq.length)).setF XLT.DARN_STATUS_ACTIVE (s.xlt.asm.filter fun a => !a.ended).length).setFlag XLT.DARN_STATUS_REQ_HELD s.xlt.heldDarn.isSome
  else if off = XLT.SEQ_LO_SEQ.off || off = XLT.SEQ_HI_SEQ.off then s.set64 XLT.SEQ_LO_SEQ XLT.SEQ_HI_SEQ (s.xlt.seq % 2 ^ 40)
  else if off = XLT.MCLK_SECONDS.off then s.setF XLT.MCLK_SECONDS s.xlt.mclk
  else if off = XLT.JRNL_STATUS_RETAINED.off then s.setF XLT.JRNL_STATUS_RETAINED (s.journalBytes / 2 ^ 20)
  else if off = XLT.REPAIR_ACTIVE.off then s.setF XLT.REPAIR_ACTIVE (min 15 s.xlt.mapBad.length)
  else s

/-- The media engine (Tables 05-14 to 05-19). -/
def viewMed (off : Nat) (s : State) : State :=
  if off = MED.SEAL_TABLE_ENTRIES.off then s.setF MED.SEAL_TABLE_ENTRIES s.med.sealTab.length
  else if off = MED.ALLOC_STATUS_APPROX.off then s.setFlag MED.ALLOC_STATUS_APPROX (!s.med.treeBad.isEmpty)
  else if 0x180100 ≤ off && off < 0x180120 && off % 8 = 0 then
    let g := (off - 0x180100) / 8
    let here := s.present g
    let planned := Nat.testBit s.plan.groups g
    let seven := planned && here.length == 7
    let miss := ((List.range 8).find? fun i => !here.contains (8 * g + i)).getD 0
    ((s.setFlag (MED.GROUP_STATUS_SEVEN g) seven).setF (MED.GROUP_STATUS_MISSING g) (if seven then miss else 0)).setF (MED.GROUP_STATUS_FREE g) (if planned then s.groupFree g else 0)
  else if 0x180200 ≤ off && off < 0x180280 then
    let n := (off - 0x180200) / 4
    s.setF (MED.CART_MEDIA_SPARES_LEFT n) (if (s.cart n).adopted then s.sparesLeft n else 0)
  else s

/-- The Lining (Tables 06-8, 06-9, 06-20). -/
def viewLin (off : Nat) (s : State) : State :=
  if off = LIN.STATUS_LOCK_RANGES.off then s.setF LIN.STATUS_LOCK_RANGES s.cache.lockRanges.length
  else if off = LIN.DIRTY_LO_BYTES.off || off = LIN.DIRTY_HI_BYTES.off then s.set64 LIN.DIRTY_LO_BYTES LIN.DIRTY_HI_BYTES s.dirtyBytes
  else if 0x140100 ≤ off && off < 0x140120 then let k := (off - 0x140100) / 4; s.setF (LIN.STAGING_LINES k) (s.stagingLen k)
  else s

/-- The Pincushion (Tables 06-22, 06-24): an entry is valid while it holds its swatch in every slice. -/
def viewPcu (off : Nat) (s : State) : State :=
  if off = PCU.STATUS_VALID.off then
    (s.setF PCU.STATUS_LOCKED (s.cache.pcu.filter fun _ e => e.lock).length).setF PCU.STATUS_VALID (s.cache.pcu.filter fun n e => n < 64 && e.valid == 255).length
  else if 0x150100 ≤ off && off < 0x150300 then
    let n := (off - 0x150100) / 8
    let e := s.pent n
    let s1 := (s.setF (PCU.ENTRY_LO_SWATCH n) e.swatch).setF (PCU.ENTRY_HI_SWATCH32 n) (e.swatch / 2 ^ 32)
    let s2 := ((s1.setFlag (PCU.ENTRY_HI_VALID n) (e.valid == 255)).setFlag (PCU.ENTRY_HI_LOCK n) e.lock).setFlag (PCU.ENTRY_HI_REF n) e.ref
    ((s2.setF (PCU.ENTRY_HI_AGE n) e.age).setFlag (PCU.ENTRY_HI_FILLING n) e.filling).setF (PCU.ENTRY_HI_DIRTY n) (e.lines.filter fun _ l => l.dirty).length
  else s

/-- A region is decoded for an LD (R228, R229, R321): active, met by a committed HDM decoder of the LD, back-invalidate in order for a DB region, an active
extent of the LD in it for a DCD region (log 61). -/
def regionDecoded (s : State) (n i : Nat) (r : Region) : Bool :=
  let lo := r.base * 2 ^ 28
  let hi := (r.base + r.size) * 2 ^ 28
  let bi := match (s.ldOf n).port with | some p => (s.port p).biRoute | none => false
  s.regionActive i
    && (s.decodersOf n).any (fun e => e.1 < hi && lo < e.1 + hdmSpan e.2 && (!r.db || (e.2.bi && bi)))
    && (!r.dcd || s.coh.extents.any fun e => e.state == .active && Nat.testBit e.accepted n && e.base < hi && lo < e.base + e.len)

/-- Coherence (Tables 07-9, 07-15 to 07-17). -/
def viewCoh (off : Nat) (s : State) : State :=
  if off = COH.ENTRIES_VALID.off then s.setF COH.ENTRIES_VALID (s.coh.thimble.filter fun _ e => e.state != 0).length
  else if off = COH.EXTENTS_USED.off then
    (s.setF COH.EXTENTS_RELEASING (s.coh.extents.filter fun e => e.state == .releasing).length).setF COH.EXTENTS_USED s.coh.extents.length
  else if 0x1A0100 ≤ off && off < 0x1A0120 then let k := (off - 0x1A0100) / 4; s.setF (COH.CONFLQ_DEPTH k) (s.conflLen k)
  else if 0x1A0200 ≤ off && off < 0x1A0240 then
    let n := (off - 0x1A0200) / 4
    let regs := (List.range s.plan.regions.length).filterMap fun i => (s.plan.regions[i]?).bind fun r => if r.forLd n then some (i, r) else none
    let mask (p : Nat × Region → Bool) : Nat := maskOf ((List.range 8).map fun k => regs.any fun x => x.2.index == k && p x)
    ((s.setF (COH.LD_REGIONS_DECODED n) (mask fun x => s.regionDecoded n x.1 x.2)).setF (COH.LD_REGIONS_DB n) (mask fun x => x.2.db)).setF (COH.LD_REGIONS_DCD n)
      (mask fun x => x.2.dcd)
  else s

/-- Keys (Tables 10-13, 10-19, 10-20), while the core runs. -/
def viewCip (off : Nat) (s : State) : State :=
  if off = CIP.STATUS_SESSIONS.off then
    (s.setF CIP.STATUS_SESSIONS s.cip.sessions.length).setFlag CIP.STATUS_LINK_DEFAULT (s.start.released && s.linkSlot == 0)
  else if 0x1B0100 ≤ off && off < 0x1B0500 && s.start.released then
    let k := (off - 0x1B0100) / 4
    let v := s.keySlot k
    let st := match v.state with | .empty => 0 | .active => 1 | .retiring => 2 | .awaiting => 3
    let s1 := ((s.setF (CIP.KEY_STATE_STATE k) st).setF (CIP.KEY_STATE_USAGE k) v.usage).setFlag (CIP.KEY_STATE_PERSIST k) v.persist
    ((s1.setFlag (CIP.KEY_STATE_REQUIRED k) v.required).setF (CIP.KEY_STATE_REGIONS k) (s.boundRegions k).length).setF (CIP.KEY_STATE_EPOCH k) v.epoch
  else if 0x1B0500 ≤ off && off < 0x1B0700 && s.start.released then
    let i := (off - 0x1B0500) / 4
    if i < s.plan.regions.length then
      ((s.setF (CIP.BINDING_VALID i) 1).setFlag (CIP.BINDING_ACTIVE i) (s.regionActive i)).setF (CIP.BINDING_KEY_ID i) (s.bindingOf i)
    else s
  else s

/-- Least, greatest and mean RESETS over the bolts of a cartridge that are not retired (Table 12-20). -/
def wearStats (s : State) (n : Nat) : Nat × Nat × Nat :=
  let l : List Nat := List.map (fun e => e.2.resets) ((s.ledgerOf n).filter fun _ e => e.state != 4)
  let count := 16 * s.boltsPerDie n - s.retiredBolts n
  let least := if l.length < count then 0 else l.foldl min (2 ^ 22 - 1)
  (least, l.foldl max 0, if count = 0 then 0 else l.foldl (· + ·) 0 / count)

/-- Cartridges (Table 12-20). -/
def viewCar (n off : Nat) (s : State) : State :=
  if (s.cart n).present && (off = (CAR.WEAR_MIN_RESETS n).off || off = (CAR.WEAR_MAX_RESETS n).off || off = (CAR.WEAR_MEAN_RESETS n).off) then
    let w := s.wearStats n
    ((s.setF (CAR.WEAR_MIN_RESETS n) w.1).setF (CAR.WEAR_MAX_RESETS n) w.2.1).setF (CAR.WEAR_MEAN_RESETS n) w.2.2
  else s

/-- Cartridge links (Table 12-13): the retrains of the last 60 s. -/
def viewVlk (n off : Nat) (s : State) : State :=
  if off = (VLK.STATUS_RETRAINS n).off then
    s.setF (VLK.STATUS_RETRAINS n) (min 15 (List.filter (fun t => s.clk.now < t + 60000000000) (s.link n).retrains).length)
  else s

/-- Spools (Tables 03-12, 13-15). -/
def viewSpl (off : Nat) (s : State) : State :=
  if off = SPL.ADMIT_STATUS_EFF.off then (s.setF SPL.ADMIT_STATUS_EFF s.splEff).setF SPL.ADMIT_STATUS_OUT s.splOut
  else if off = SPL.STATUS_RUNNING.off then
    (s.setF SPL.STATUS_RUNNING (s.spl.ops.filter fun o => o.status.isNone && o.spool < 4096).length).setF SPL.STATUS_ACTIVE (s.spl.ctx.filter fun _ c => c.state == 1).length
  else s

/-- The group (Tables 15-7 to 15-14). -/
def viewGrp (off : Nat) (s : State) : State := match s.plan.group with
  | none => s
  | some g =>
    if off = GRP.STATUS_MEMBER.off then
      let heard (i : Nat) : Bool := i == g.index || (s.others.contains i && (s.member i).last.isSome && decide (s.clk.now ≤ (s.member i).usedAt + 100000))
      let s1 := ((s.setF GRP.STATUS_MEMBER 1).setFlag GRP.STATUS_FENCED (s.grp.fenced || !s.running)).setFlag GRP.STATUS_REF (s.timeRef == some g.index)
      let s2 := ((s1.setF GRP.STATUS_INDEX g.index).setF GRP.STATUS_SIZE g.size).setF GRP.STATUS_CAUSE s.fenceCause
      (s2.setF GRP.STATUS_HEARD (maskOf ((List.range 8).map heard))).setF GRP.STATUS_SILENT (maskOf ((List.range 8).map fun i => s.others.contains i && s.silent i))
    else if off = GRP.GROUP_ID_LO_ID.off || off = GRP.GROUP_ID_HI_ID.off then s.set64 GRP.GROUP_ID_LO_ID GRP.GROUP_ID_HI_ID g.groupId
    else if 0x70040 ≤ off && off < 0x70050 then let w := (off - 0x70040) / 4; s.setF (GRP.FPRINT_BYTES w) (g.fprint / 2 ^ (32 * w))
    else if 0x70100 ≤ off && off < 0x70140 then
      let i := (off - 0x70100) / 8
      if !s.others.contains i then s
      else
        let s1 := s.setFlag (GRP.MEMBER_SILENT i) (s.silent i)
        match (s.member i).last with
        | none => s1
        | some r =>
          let s2 := ((s1.setF (GRP.MEMBER_STATE i) r.state).setFlag (GRP.MEMBER_PF i) r.pf).setFlag (GRP.MEMBER_FROM_GROUP i) r.fromGroup
          let s3 := ((s2.setFlag (GRP.MEMBER_FP_MATCH i) (r.fprint == g.fprint)).setF (GRP.MEMBER_STEPPING i) r.stepping).setF (GRP.MEMBER_HOPS i) r.hops
          s3.setF (GRP.MEMBER_VER_VERSION i) r.version
    else s

/-- What is stored beside the registers shows in them before a read. -/
def view (off : Nat) (s : State) : State := match unitOf off with
  | some (.top, _) => s.viewTop off
  | some (.hpt, n, _) => s.viewHpt n off
  | some (.slc, k, _) => s.viewSlc k off
  | some (.xlt, _) => s.viewXlt off
  | some (.med, _) => s.viewMed off
  | some (.lin, _) => s.viewLin off
  | some (.pcu, _) => s.viewPcu off
  | some (.coh, _) => s.viewCoh off
  | some (.cip, _) => s.viewCip off
  | some (.car, n, _) => s.viewCar n off
  | some (.vlk, n, _) => s.viewVlk n off
  | some (.spl, _) => s.viewSpl off
  | some (.grp, _) => s.viewGrp off
  | some (.hmp, _) => if off = HMP.STATUS_B_AVAIL.off then (s.setFlag HMP.STATUS_B_AVAIL s.hamBAvail).setF HMP.STATUS_A_VALID s.hamAValid else s
  | _ => s

/-- The word that master m reads at an offset: arrays kept elsewhere (the fault-log ring, Tack, lifetime counters, event counters, spool contexts) and the
registers with their views. -/
def viewWord (s : State) (m off : Nat) : Word :=
  if 0x10400 ≤ off && off < 0x10C00 then s.tackWord (0x1000 + (off - 0x10400) / 4)
  else if 0x34000 ≤ off && off < 0x3C000 then s.tackWord ((off - 0x34000) / 4)
  else if 0x30400 ≤ off && off < 0x30440 then BitVec.ofNat 32 (s.lifetimeValue ((off - 0x30400) / 8) / 2 ^ (32 * ((off - 0x30400) / 4 % 2)))
  else if 0x62000 ≤ off && off < 0x63000 then BitVec.ofNat 32 (s.pmcCount ((off - 0x62000) / 8) / 2 ^ (32 * ((off - 0x62000) / 4 % 2)))
  else if off = 0x1D0004 then BitVec.ofNat 32 (Tab.get (fun _ => 0) s.spl.sel m)
  else if 0x1D0010 ≤ off && off < 0x1D0030 then s.ctxRead m ((off - 0x1D0010) / 4)
  else (s.view off).readRaw off

end State

end Sys2Proof.Machine
end

