-- ==== Sys2Proof/Machine/Mailbox.lean ====
section
/-!
DEFINITION. The CXL mailbox of each LD (11, R369 to R378) and what its commands act on: device time (R373, R111), label storage (R374), the poison list (R305,
R376, R377), Sanitize and Secure Erase (R372), the host's side of dynamic capacity (R250 to R252).
-/
namespace Sys2Proof.Machine

/-! ### Return codes and opcodes (PRESUMED CXL 3.1, log 52) -/

def mbSuccess : Nat := 0
def mbBackground : Nat := 1
def mbInvalidInput : Nat := 2
def mbUnsupported : Nat := 3
def mbInternal : Nat := 4
def mbBusy : Nat := 6
def mbMediaDisabled : Nat := 7
def mbInvalidHandle : Nat := 0xE
def mbInvalidAddress : Nat := 0xF
def mbSecurity : Nat := 0x13
def mbExhausted : Nat := 0x1D

/-- Opcodes of Table 11-5, in the order of the Command Effects Log. -/
def mbOpcodes : List Nat :=
  [0x0001, 0x0100, 0x0101, 0x0102, 0x0103, 0x0300, 0x0301, 0x0400, 0x0401, 0x4000, 0x4102, 0x4103, 0x4200, 0x4201, 0x4202, 0x4300, 0x4301, 0x4302, 0x4400,
    0x4401, 0x4800, 0x4801, 0x4802, 0x4803, 0xC000, 0xC001, 0xC002, 0xC003]

/-- Opcodes that the mailbox accepts while memory is not active (R371), and those of safe state (R48). -/
def mbIdle : List Nat := [0x0001, 0x4000, 0x0100, 0x0101, 0x4200, 0x0400, 0x0401, 0x0300, 0x0301]
def mbSafe : List Nat := [0x0001, 0x4200, 0x0100]

/-- The right a command needs (Table 11-5), as a flag of Table 10-14. -/
def mbRight (op : Nat) : Option Nat :=
  if op = 0x0301 || op = 0x4202 then some rightRegWr
  else if op = 0x4102 || op = 0x4300 then some rightMemRd
  else if [0x4103, 0x4301, 0x4302, 0x4400, 0x4401, 0x4802, 0x4803].contains op then some rightMemWr
  else none

/-- Content identifier of the Command Effects Log (PRESUMED CXL 3.1, log 52) and that of the vendor log (R378). -/
def celId : Nat := 0x0da9c0b5bf414b788f7996b1623b3f17
def vendorLogId : Nat := 0x5f2c08b17e4a4d93b6a091d37c2e4f65

namespace State

/-- A command reaches the mailbox of LD n and runs: its port's link is up in CXL mode, and no command is in progress (R369). -/
def mbFree (s : State) (n : Nat) : Bool :=
  n < 16 && (match (s.ldOf n).port with | some p => s.flag (HPT.LINK_STATUS_CXL p) && s.portOpen p false | none => false) && (s.ldOf n).mbOp.isNone && (s.ldOf n).lsaPend == 0

/-- A mailbox command (R48, R346, R370, R371): while it may run, its effect with its response; otherwise the response that says why not. -/
def mailbox (ld op : Nat) (act : State → State) (s : State) : State :=
  if !s.mbFree ld then s
  else if s.halted then s.emit (.io ld false [])
  else if !mbOpcodes.contains op || (s.topState = 2 && !mbSafe.contains op) then s.mbDone ld op mbUnsupported []
  else if s.topState ≠ 2 && !s.memActive && !mbIdle.contains op then s.mbDone ld op mbMediaDisabled []
  else match mbRight op with
    | none => act s
    | some r => if s.hasRight ld r then act s else s.mbDone ld op mbSecurity []

/-! ### Device time (R111, R373) -/

/-- The media clock meets the reference pair once after a start, when device time is set and the recovery has found the pair. -/
def clockCompare (s : State) : State :=
  if s.xlt.clockSet || !s.clk.timeSet || !s.memActive then s
  else match s.xlt.pair with
    | none => (s.setF XLT.RECOVERY_NO_PAIR 1).modXlt fun x => { x with clockSet := true }
    | some (t, m) =>
      let elapsed := (s.clk.time - t) / 1000000000
      let ran := s.xlt.mclk - m
      s.modXlt fun x => { x with clockSet := true, mclk := if ran < elapsed then (x.mclk + (elapsed - ran)) % 2 ^ 32 else x.mclk }

/-- Device time is set by LD n. -/
def timeWrite (n t : Nat) (s : State) : State :=
  let old := s.clk.time
  let s1 := s.modClk fun c => { c with time := t % 2 ^ 64, timeSet := true, slew := 0 }
  (s1.fireRec 0x0202 58 (le 1 n ++ le 3 0 ++ le 8 old ++ le 8 t)).clockCompare

/-! ### Logs (R378) -/

/-- The Command Effects Log: four bytes per command of Table 11-5. -/
def celBytes : List Byte := mbOpcodes.flatMap fun op => le 2 op ++ le 2 (Config.commandEffects op)

/-- The vendor log of LD n: the Hamper records whose sources its host target has enabled, newest first. -/
def vendorLog (s : State) (n : Nat) : List Byte :=
  ((s.hamView 0).filter fun e => s.enabledAt n e.1.src).flatMap fun e => e.1.bytes60 ++ le 4 hamMark.toNat

/-! ### Label storage (R374) -/

/-- Every line of an LSA page can be read. -/
def lsaReadable (s : State) (n page : Nat) : Bool := match Tab.get (fun _ => none) (s.ldOf n).lsaAt page with
  | none => true
  | some q => (List.range 64).all fun i => (s.fetchStored q i true).isSome

/-- LSA pages that a range touches. -/
def lsaPages (off len : Nat) : List Nat := if len = 0 then [] else (List.range 32).filter fun p => off < 4096 * (p + 1) && 4096 * p < off + len

/-- Issue the pages of a Set LSA in series A, each with the stamp at its write (Table 04-5); none where one finds no place. -/
def lsaIssue (n : Nat) (bytes : Tab Byte) : List Nat → State → Option State
  | [], s => some s
  | p :: ps, s =>
    let (s1, g) := s.rotateGroup
    match s1.allocPage g 19 with
    | (_, none) => none
    | (s2, some q) =>
      let lineAt (i : Nat) : MLine := { val := { data := BitVec.ofNat 512 (ofLe (Tab.getBytes (fun _ => 0) bytes (4096 * p + 64 * i) 64)) } }
      let lines := (List.range 64).foldl (fun t i => Tab.set (fun _ => {}) t i (lineAt i)) []
      let (s3, stamp) := s2.takeStamp
      lsaIssue n bytes ps (s3.issue q { selv := { typ := 8, swatch := 32 * n + p, seq := stamp }, lines } .lsa)

/-! ### The poison list (R305, R376) -/

/-- Source that Get Poison List gives a line: 0 internal, 1 external, 2 injected, 3 vendor specific; none for a line that is not listed. The newest stored copy decides. -/
def poisonSource (s : State) (line : Nat) : Option Nat :=
  if s.sealBit line then some 3
  else
    let of (l : Line) : Option Nat := if l.poison then some l.origin else none
    match s.pentHit line with
    | some n => of (s.pline n line).val
    | none => match s.findWay line with
      | some k => of (s.way k).val
      | none => match s.stagedOf line with
        | some t => of t.val
        | none => match s.location line with
          | none => none
          | some (psa, slot, _) =>
            let listed := match s.idxOf line with
              | some e => e.poison
              | none => (s.mapEntry (swatchOf line)).poison && (s.pageAt psa).any fun (p : Page) => p.selv.poison.getLsbD (line % 64)
            if listed then some (((s.pageAt psa).map fun (p : Page) => (p.line slot).val.origin).getD 0) else none

/-- Lines of a range that may be listed, ascending. -/
def poisonCands (s : State) (first n : Nat) : List Nat :=
  let inR (l : Nat) : Bool := first ≤ l && l < first + n
  let ofSwatch (sw : Nat) : List Nat := (List.range 64).map (64 * sw + ·)
  let ways : List Nat := s.cache.lining.filterMap fun e => if e.2.valid && e.2.val.poison then some e.2.line else none
  let pents : List Nat := s.cache.pcu.flatMap fun e => e.2.lines.filterMap fun x => if x.2.val.poison then some (64 * e.2.swatch + x.1) else none
  let staged := (s.cache.staging.filter fun t => t.val.poison).map (·.line)
  let patches : List Nat := s.xlt.index.filterMap fun e => e.2.bind fun x => if x.poison then some x.line else none
  let swatches : List Nat := s.xlt.map.flatMap fun e => if e.2.poison then ofSwatch e.1 else []
  let seals : List Nat := s.med.sealTab.flatMap fun e => ofSwatch e.1
  let all := (ways ++ pents ++ staged ++ patches ++ swatches ++ seals).filter inR
  List.map (·.1) (all.foldl (fun t l => Tab.insert t l ()) [])

/-- Merge lines, ascending, into records (first line, number of lines, source), at most `k`; the answer names the line after the last one returned where records are left. -/
def poisonRecords (k : Nat) : List (Nat × Nat) → List (Nat × Nat × Nat) → List (Nat × Nat × Nat) × Option Nat
  | [], acc => (acc.reverse, none)
  | (l, src) :: rest, (a, n, s) :: acc =>
    if l = a + n ∧ src = s then poisonRecords k rest ((a, n + 1, s) :: acc)
    else if acc.length + 1 < k then poisonRecords k rest ((l, 1, src) :: (a, n, s) :: acc)
    else (((a, n, s) :: acc).reverse, some l)
  | (l, src) :: rest, [] => poisonRecords k rest [(l, 1, src)]

/-- Injected lines of the device that are still stored poisoned (R377). -/
def injectedLines (s : State) : List Nat := (s.lds.flatMap fun e => e.2.injected).eraseDups

/-- The line write of Inject Poison or Clear Poison starts (R304, R305, R377). -/
def mailStart (ld op dpa : Nat) (arg : List Byte) (s : State) : State :=
  let id := s.spl.nextOp
  let o : OpRun := { id, spool := mailSpool, owner := ld, desc := { op, flags := 0, key := 0, mode := 0, tag := 0, src := dpa, dst := 0, len := 1, arg } }
  let s1 := s.modSpl fun p => { p with ops := p.ops ++ [o], nextOp := id + 1 }
  (s1.setLd ld { s1.ldOf ld with mbOp := some id }).mailStep o

/-- Conditions of both (R370, R377): an address of a line, decoded for the LD, whose key the rights set holds. -/
def mailLine (s : State) (ld dpa : Nat) : Option Nat :=
  if dpa % 64 ≠ 0 || 2 ^ 45 ≤ dpa then some mbInvalidInput
  else if !s.decoded (some ld) (dpa / 64) then some mbInvalidAddress
  else if (s.memMissing ld rightMemWr (dpa / 64)).isSome then some mbSecurity
  else none

/-! ### Background commands (R369, R372) -/

/-- Regions and extents that Sanitize and Secure Erase act on: those that name this LD alone, as (first line, lines). -/
def ownSpans (s : State) (n : Nat) : List (Nat × Nat) :=
  ((s.plan.regions.filter fun r => !r.dcd && r.ldMask == 2 ^ n).map fun r => (r.base * unitLines, r.size * unitLines))
    ++ (s.coh.extents.filter fun e => e.state == .active && e.ldMask == 2 ^ n).map fun e => (e.base / 64, e.len / 64)

/-- Background status of LD n: opcode and percent of its bolts that are done (R369, R372). -/
def bgStatus (s : State) (n : Nat) : Option (Nat × Nat) := (s.ldOf n).bg.map fun c =>
  (c.opcode, if c.total = 0 then 0 else 100 * (c.total - c.todo.length) / c.total)

/-- Every physical copy of the LD's own regions is removed (R184, R372). -/
def eraseStart (n op : Nat) (s : State) : State :=
  if (s.ldOf n).bg.isSome || s.flush.stopped then s.mbDone n op mbBusy []
  else
    let spans := s.ownSpans n
    let (s1, bolts) := spans.foldl (fun (acc : State × List Nat) x => let (t, b) := acc.1.discardBegin x.1 x.2; (t, acc.2 ++ b)) (s, [])
    let todo := bolts.eraseDups
    (s1.setLd n { s1.ldOf n with bg := some { opcode := op, todo, total := todo.length } }).mbDone n op mbBackground []

/-- Sanitize makes the regions undecoded for every LD and clears the LSA. -/
def sanitizeStart (n : Nat) (s : State) : State :=
  if (s.ldOf n).bg.isSome || s.flush.stopped then s.mbDone n 0x4400 mbBusy []
  else
    let wiped := (s.ownSpans n).map fun x => (n, x.1, x.2)
    let l := s.ldOf n
    let s1 := l.lsaAt.foldl (fun s e => match e.2 with | some q => s.dropPage q | none => s) s
    let s2 := s1.setLd n { l with lsa := [], lsaAt := [] }
    (s2.modCoh fun c => { c with wiped := c.wiped ++ wiped }).eraseStart n 0x4400

/-- The background command of LD n has nothing left to wait for: it returns Success. -/
def bgFinish (n : Nat) (c : BgCmd) (s : State) : State :=
  let s1 := s.modCoh fun x => { x with wiped := x.wiped.filter fun w => w.1 != n }
  (s1.setLd n { s1.ldOf n with bg := none }).mbDone n c.opcode mbSuccess []

/-- Releases that the fabric manager started (R252, R369): those that wait for nothing more complete, with the mailbox interrupt of their LDs. -/
def fmReleases (s : State) : State :=
  let own (e : Extent) : Bool := s.lds.any fun x => x.2.bg.any fun c => c.ext == some e.id
  let mine := s.coh.extents.filter fun e => e.state == .releasing && !own e
  let free (s : State) (e : Extent) : State :=
    (bitsOf 16 e.ldMask).foldl (fun s n => if (s.ldOf n).mbIrq then s.sendVector n 2 else s) (s.extentFree e)
  mine.foldl (fun s e => if e.bolts.isEmpty then free s e else s.extentStep e) s

end State

/-! ### Identity, events, time, logs -/

/-- IDENTIFY (R48, R370): the response carries the identity word (log 64). -/
def execIdentify (ld : Nat) (s : State) : Out :=
  .next (s.mailbox ld 0x0001 fun s => s.mbDone ld 0x0001 mbSuccess [(s.viewWord ld 0).toNat])

/-- IDENTIFY_MEMORY_DEVICE (Table 11-5): capacity and persistent capacity in 256 MiB units, volatile 0, LSA size, limits of the poison list and of injections. -/
def execIdentifyMemoryDevice (ld : Nat) (s : State) : Out :=
  .next (s.mailbox ld 0x4000 fun s =>
    let units := (s.plan.regions.filter fun r => !r.dcd && r.forLd ld).foldl (fun a r => a + r.size) 0
    s.mbDone ld 0x4000 mbSuccess [units, 0, units, 131072, 4096, 1024])

/-- GET_EVENT_RECORDS (R379): the number of records, the overflow count with first and last times, each record as handle, kind, time, payload length, payload. -/
def execGetEventRecords (ld log : Nat) (s : State) : Out :=
  .next (s.mailbox ld 0x0100 fun s =>
    if 5 ≤ log then s.mbDone ld 0x0100 mbInvalidInput []
    else
      let recs := Tab.get (fun _ => []) (s.ldOf ld).logs log
      let (n, first, last) := Tab.get (fun _ => (0, 0, 0)) (s.ldOf ld).overflow log
      s.mbDone ld 0x0100 mbSuccess ([recs.length, n, first, last]
        ++ recs.flatMap fun r => [r.handle, r.kind, r.time, r.payload.length] ++ r.payload))

/-- CLEAR_EVENT_RECORDS (R379): the named records, or all; a handle that names none changes nothing. The overflow report ends with the room. -/
def execClearEventRecords (ld log : Nat) (handles : List Nat) (all : Bool) (s : State) : Out :=
  .next (s.mailbox ld 0x0101 fun s =>
    let l := s.ldOf ld
    let recs := Tab.get (fun _ => []) l.logs log
    if 5 ≤ log then s.mbDone ld 0x0101 mbInvalidInput []
    else if !all && handles.any (fun h => !recs.any fun r => r.handle == h) then s.mbDone ld 0x0101 mbInvalidHandle []
    else
      let left := if all then [] else recs.filter fun r => !handles.contains r.handle
      let lost := if left.length < recs.length then Tab.set (fun _ => (0, 0, 0)) l.overflow log (0, 0, 0) else l.overflow
      (s.setLd ld { l with logs := Tab.set (fun _ => []) l.logs log left, overflow := lost }).mbDone ld 0x0101 mbSuccess [])

/-- GET_EVENT_INTERRUPT_POLICY (Table 11-9): the vector of each log, 0 where it raises none. -/
def execGetEventInterruptPolicy (ld : Nat) (s : State) : Out :=
  .next (s.mailbox ld 0x0102 fun s => s.mbDone ld 0x0102 mbSuccess ((List.range 5).map fun i => Tab.get (fun _ => 2) (s.ldOf ld).policy i))

/-- SET_EVENT_INTERRUPT_POLICY (Table 11-9): each vector 0 or from 2 to 2,047. -/
def execSetEventInterruptPolicy (ld : Nat) (vectors : List Nat) (s : State) : Out :=
  .next (s.mailbox ld 0x0103 fun s =>
    if vectors.length ≠ 5 || vectors.any (fun v => v == 1 || 2047 < v) then s.mbDone ld 0x0103 mbInvalidInput []
    else
      let l := s.ldOf ld
      let policy := (List.range 5).foldl (fun t i => Tab.set (fun _ => 2) t i (vectors.getD i 2)) []
      (s.setLd ld { l with policy }).mbDone ld 0x0103 mbSuccess [])

/-- GET_TIMESTAMP (R373). -/
def execGetTimestamp (ld : Nat) (s : State) : Out := .next (s.mailbox ld 0x0300 fun s => s.mbDone ld 0x0300 mbSuccess [s.clk.time])

/-- SET_TIMESTAMP (R373, R111): device time, source 58, record 0x0202, the media clock. -/
def execSetTimestamp (ld t : Nat) (s : State) : Out := .next (s.mailbox ld 0x0301 fun s => (s.timeWrite ld t).mbDone ld 0x0301 mbSuccess [])

/-- GET_SUPPORTED_LOGS (R370, R378): identifier and size of each log. -/
def execGetSupportedLogs (ld : Nat) (s : State) : Out :=
  .next (s.mailbox ld 0x0400 fun s => s.mbDone ld 0x0400 mbSuccess [celId, State.celBytes.length, vendorLogId, (s.vendorLog ld).length])

/-- GET_LOG (R370, R378). -/
def execGetLog (ld : Nat) (vendor : Bool) (off len : Nat) (s : State) : Out :=
  .next (s.mailbox ld 0x0401 fun s =>
    let bs := if vendor then s.vendorLog ld else State.celBytes
    if bs.length < off + len || 65536 < len then s.mbDone ld 0x0401 mbInvalidInput []
    else s.mbDone ld 0x0401 mbSuccess (((bs.drop off).take len).map (·.toNat)))

/-! ### Health and alerts -/

/-- GET_HEALTH_INFO (R375, Table 11-16). -/
def execGetHealthInfo (ld : Nat) (s : State) : Out := .next (s.mailbox ld 0x4200 fun s => s.mbDone ld 0x4200 mbSuccess s.healthFields)

/-- GET_ALERT_CONFIGURATION (R375): which thresholds are enabled, and the four of them. -/
def execGetAlertConfiguration (ld : Nat) (s : State) : Out :=
  .next (s.mailbox ld 0x4201 fun s =>
    let a := (s.ldOf ld).alerts
    s.mbDone ld 0x4201 mbSuccess (a.enable :: (List.range 4).map fun i => a.vals.getD i 0))

/-- SET_ALERT_CONFIGURATION (R375): the thresholds that the request marks valid. -/
def execSetAlertConfiguration (ld : Nat) (cfg : AlertCfg) (s : State) : Out :=
  .next (s.mailbox ld 0x4202 fun s =>
    let l := s.ldOf ld
    let en (i : Nat) : Bool := Nat.testBit (if Nat.testBit cfg.valid i then cfg.enable else l.alerts.enable) i
    let val (i : Nat) : Nat := if Nat.testBit cfg.valid i then cfg.vals.getD i 0 else l.alerts.vals.getD i 0
    let a : Alerts := { enable := maskOf ((List.range 4).map en), vals := (List.range 4).map val }
    (s.setLd ld { l with alerts := a }).mbDone ld 0x4202 mbSuccess [])

/-! ### Label storage -/

/-- GET_LSA (R374): a range of the 128 KiB; a page that cannot be read is an internal error. -/
def execGetLsa (ld off len : Nat) (s : State) : Out :=
  .next (s.mailbox ld 0x4102 fun s =>
    if 131072 < off + len then s.mbDone ld 0x4102 mbInvalidInput []
    else if !(State.lsaPages off len).all (s.lsaReadable ld) then s.mbDone ld 0x4102 mbInternal []
    else s.mbDone ld 0x4102 mbSuccess ((Tab.getBytes (fun _ => 0) (s.ldOf ld).lsa off len).map (·.toNat)))

/-- SET_LSA (R374): the pages it touches are written in series A; the response comes when the last has verified. -/
def execSetLsa (ld off : Nat) (bytes : List Byte) (s : State) : Out :=
  .next (s.mailbox ld 0x4103 fun s =>
    let pages := State.lsaPages off bytes.length
    if 131072 < off + bytes.length then s.mbDone ld 0x4103 mbInvalidInput []
    else if s.flush.stopped then s.mbDone ld 0x4103 mbBusy []
    else if pages.isEmpty then s.mbDone ld 0x4103 mbSuccess []
    else if !pages.all (s.lsaReadable ld) then s.mbDone ld 0x4103 mbInternal []
    else match State.lsaIssue ld (Tab.setBytes (fun _ => 0) (s.ldOf ld).lsa off bytes) pages s with
      | none => s.mbDone ld 0x4103 mbInternal []
      | some s1 => s1.setLd ld { s1.ldOf ld with lsaPend := pages.length })

/-! ### Poison -/

/-- GET_POISON_LIST (R376): whether more records are left and how many follow, then DPA, length in lines and source of each. A list that was cut resumes after the last line returned. -/
def execGetPoisonList (ld dpa len : Nat) (s : State) : Out :=
  .next (s.mailbox ld 0x4300 fun s =>
    if dpa % 64 ≠ 0 || len = 0 || 2 ^ 45 < dpa + 64 * len then s.mbDone ld 0x4300 mbInvalidInput []
    else
      let l := s.ldOf ld
      let first := dpa / 64
      let from_ := match l.poisonFrom with | some x => if first ≤ x && x < first + len then x else first | none => first
      let found := (s.poisonCands from_ (first + len - from_)).filterMap fun x => if s.decoded (some ld) x then (s.poisonSource x).map fun c => (x, c) else none
      let (recs, more) := State.poisonRecords 4096 found []
      (s.setLd ld { l with poisonFrom := more }).mbDone ld 0x4300 mbSuccess
        ([if more.isSome then 1 else 0, recs.length] ++ recs.flatMap fun r => [64 * r.1, r.2.1, r.2.2]))

/-- INJECT_POISON (R305, R377): at most 1,024 injected lines stay stored poisoned. -/
def execInjectPoison (ld dpa : Nat) (s : State) : Out :=
  .next (s.mailbox ld 0x4301 fun s => match s.mailLine ld dpa with
    | some c => s.mbDone ld 0x4301 c []
    | none =>
      if !s.injectedLines.contains (dpa / 64) && 1024 ≤ s.injectedLines.length then s.mbDone ld 0x4301 mbInvalidInput []
      else s.mailStart ld 0x4301 dpa [])

/-- CLEAR_POISON (R304, R377): a full-line write of its payload. -/
def execClearPoison (ld dpa : Nat) (data : BitVec 512) (s : State) : Out :=
  .next (s.mailbox ld 0x4302 fun s => match s.mailLine ld dpa with
    | some c => s.mbDone ld 0x4302 c []
    | none => s.mailStart ld 0x4302 dpa (le 64 data.toNat))

/-! ### Background commands -/

/-- SANITIZE (R372). -/
def execSanitize (ld : Nat) (s : State) : Out := .next (s.mailbox ld 0x4400 fun s => s.sanitizeStart ld).healthCheck

/-- SECURE_ERASE (R372). -/
def execSecureErase (ld : Nat) (s : State) : Out := .next (s.mailbox ld 0x4401 fun s => s.eraseStart ld 0x4401).healthCheck

/-- BACKGROUND_COMMAND_COMPLETE (R369, R372, R252): LD 0 to 15, its mailbox; 16, the releases of the management endpoint. A command that still waits for bolts makes progress. -/
def execBackgroundCommandComplete (ld : Nat) (s : State) : Out :=
  if s.flush.stopped then .next s
  else if ld = 16 then .next s.fmReleases.healthCheck
  else match (s.ldOf ld).bg with
    | none => .next s
    | some c =>
      if !c.todo.isEmpty then .next (s.discardStep c.todo).healthCheck
      else match c.ext.bind s.extentOf with
        | none => .next (s.bgFinish ld c).healthCheck
        | some e => if e.bolts.isEmpty then .next ((s.extentFree e).bgFinish ld c).healthCheck else .next (s.extentStep e).healthCheck

/-! ### Dynamic capacity -/

/-- GET_DYNAMIC_CAPACITY_CONFIGURATION: index, base, length and block size in bytes of each DCD region of the LD (Table 07-1). -/
def execGetDynamicCapacityConfiguration (ld : Nat) (s : State) : Out :=
  .next (s.mailbox ld 0x4800 fun s =>
    let rs := s.plan.regions.filter fun r => r.dcd && r.forLd ld
    s.mbDone ld 0x4800 mbSuccess (rs.length :: rs.flatMap fun r => [r.index, r.base * 2 ^ 28, r.size * 2 ^ 28, 2 ^ r.dcdBlock]))

/-- GET_DYNAMIC_CAPACITY_EXTENT_LIST: the extents that the LD has accepted (Table 07-5): number, base, length. -/
def execGetDynamicCapacityExtentList (ld : Nat) (s : State) : Out :=
  .next (s.mailbox ld 0x4801 fun s =>
    let es := s.coh.extents.filter fun e => e.state == .active && Nat.testBit e.accepted ld
    s.mbDone ld 0x4801 mbSuccess (es.length :: es.flatMap fun e => [e.id, e.base, e.len]))

/-- ADD_DYNAMIC_CAPACITY_RESPONSE (R250, R251): the LD accepts an extent offered to it; the change to Active is persisted first. -/
def execAddDynamicCapacityResponse (ld ext : Nat) (s : State) : Out :=
  .next (s.mailbox ld 0x4802 fun s => match s.extentOf ext with
    | none => s.mbDone ld 0x4802 mbInvalidInput []
    | some e =>
      if !Nat.testBit e.ldMask ld || e.state == .releasing || Nat.testBit e.accepted ld then s.mbDone ld 0x4802 mbInvalidInput []
      else if !s.storeOk then s.mbDone ld 0x4802 mbInternal []
      else (s.setExtent { e with state := .active, accepted := e.accepted ||| 2 ^ ld }).extentsPersist.mbDone ld 0x4802 mbSuccess [])

/-- RELEASE_DYNAMIC_CAPACITY (R250 to R252, R369): the LD gives an extent back; the last of its LDs starts the release. -/
def execReleaseDynamicCapacity (ld ext : Nat) (s : State) : Out :=
  .next (s.mailbox ld 0x4803 fun s => match s.extentOf ext with
    | none => s.mbDone ld 0x4803 mbInvalidInput []
    | some e0 =>
      if e0.state != .active || !Nat.testBit e0.accepted ld then s.mbDone ld 0x4803 mbInvalidInput []
      else if (s.ldOf ld).bg.isSome || s.flush.stopped then s.mbDone ld 0x4803 mbBusy []
      else if !s.storeOk then s.mbDone ld 0x4803 mbInternal []
      else
        let e := { e0 with accepted := e0.accepted - 2 ^ ld }
        let last := e.accepted == 0
        let s1 := if last then s.extentRelease e else (s.setExtent e).extentsPersist
        (s1.setLd ld { s1.ldOf ld with bg := some { opcode := 0x4803, ext := if last then some e.id else none } }).mbDone ld 0x4803 mbBackground []).healthCheck

/-! ### Vendor commands (R378) -/

/-- GET_DEVICE_STATE (Table 11-8). -/
def execGetDeviceState (ld : Nat) (s : State) : Out :=
  .next (s.mailbox ld 0xC000 fun s => s.mbDone ld 0xC000 mbSuccess (([TOP.STATE_STATE.off, TOP.PATTERN_VER_VERSION.off, (MED.GROUP_STATUS_STATE 0).off,
    (MED.GROUP_STATUS_STATE 1).off, (MED.GROUP_STATUS_STATE 2).off, (MED.GROUP_STATUS_STATE 3).off, TOP.FLUSH_EST_US.off, PWS.PACE_STATUS_PACE.off]).map
    fun o => (s.viewWord ld o).toNat))

/-- GET_WEAR_REPORT (Table 11-8). -/
def execGetWearReport (ld : Nat) (s : State) : Out :=
  .next (s.mailbox ld 0xC001 fun s => s.mbDone ld 0xC001 mbSuccess ((List.range 32).map fun n => (s.viewWord ld (MED.CART_MEDIA_CLASS n).off).toNat))

/-- GET_FLUSH_RECORD (Table 11-8): the newest clean-flush payload (Table 08-6), then TOP.AT_RISK, as bytes. -/
def execGetFlushRecord (ld : Nat) (s : State) : Out :=
  .next (s.mailbox ld 0xC002 fun s =>
    let p : List Byte := match (s.hamView 0).find? fun e => e.1.code == 0x0801 with | some e => padTo 28 e.1.payload | none => List.replicate 28 0
    s.mbDone ld 0xC002 mbSuccess ((p ++ le 4 (s.getF TOP.AT_RISK_LINES)).map (·.toNat)))

/-- GET_GROUP_STATUS (15, vendor opcode 0xC003): 80 bytes as 20 words. -/
def execGetGroupStatus (ld : Nat) (s : State) : Out :=
  .next (s.mailbox ld 0xC003 fun s =>
    let offs := [GRP.STATUS_MEMBER.off, GRP.SKEW_NS.off] ++ (List.range 16).map (0x70100 + 4 * ·) ++ [GRP.GROUP_ID_LO_ID.off, GRP.GROUP_ID_HI_ID.off]
    s.mbDone ld 0xC003 mbSuccess (offs.map fun o => (s.viewWord ld o).toNat))

/-- MAILBOX_UNSUPPORTED (R370, R378): any other opcode. -/
def execMailboxUnsupported (ld opcode : Nat) (s : State) : Out :=
  if mbOpcodes.contains opcode then .next s else .next (s.mailbox ld opcode fun s => s.mbDone ld opcode mbUnsupported [])

end Sys2Proof.Machine
end

