-- ==== Sys2Proof/Machine/FmApi.lean ====
section
/-!
DEFINITION. The FM API commands that the management endpoint takes over MCTP (11, R359 to R361; 07, R250 to R252).
-/
namespace Sys2Proof.Machine

namespace State

/-- A command of the fabric manager runs while the supervisor is awake. -/
def fmCommand (act : State → State) (s : State) : State := if s.clk.awake then act s else s

/-- Its response: opcode, return code, payload. -/
def fmDone (op code : Nat) (payload : List Nat) (s : State) : State := s.emit (.fm op code payload)

/-! ### Bindings (R359 to R361, R508) -/

/-- Bytes 0 to 15 of a binding page: the port of each LD, 0xFF where it is unbound. -/
def bindingBytes (s : State) : List Byte := (List.range 16).flatMap fun k => le 1 ((s.boundTo k).getD 0xFF)

/-- A binding page whose check holds: its generation and its bytes. -/
def bindingPage (s : State) (page : Nat) : Option (Nat × List Byte) :=
  let bs := s.hemBytes page 1
  if ofLe ((bs.drop 252).take 4) = crc32c (bs.take 252) then some (ofLe ((bs.drop 16).take 4), bs.take 16) else none

/-- The valid page with the newer generation. -/
def bindingNewest (s : State) : Option (Nat × Nat × List Byte) := match s.bindingPage 68, s.bindingPage 69 with
  | some a, some b => if b.1 < a.1 then some (68, a.1, a.2) else some (69, b.1, b.2)
  | some a, none => some (68, a.1, a.2)
  | none, some b => some (69, b.1, b.2)
  | none, none => none

/-- The bindings are written to the page with the older generation. -/
def bindingWrite (s : State) : State :=
  let (page, gen) := match s.bindingNewest with
    | some (p, g, _) => (if p = 68 then 69 else 68, (g + 1) % 2 ^ 32)
    | none => (68, 1)
  let body := padTo 252 (s.bindingBytes ++ le 4 gen)
  let s1 := s.programHem page (body ++ le 4 (crc32c body))
  s1.putKeep { s1.keep with bindLast := some page }

/-- Whether a port with a and one with b bound LDs train alike: none, a single LD, an MLD (R360). -/
def sameKind (a b : Nat) : Bool := min 2 a == min 2 b

/-- Bind or unbind LD k: Hem first, then the effect, at once or at the port's next training. -/
def bindLater (k p : Nat) (b : Option Nat) (s : State) : State :=
  let s1 := (s.setLd k { s.ldOf k with portNext := some b }).bindingWrite
  let n := (s1.ldsAt p).length
  if sameKind n (if b.isSome then n + 1 else n - 1) then s1.bindNow k b else s1

/-! ### Dynamic capacity (R250 to R252) -/

/-- The DCD region that holds a range wholly. -/
def dcdRegion (s : State) (base len : Nat) : Option Region :=
  s.plan.regions.find? fun r => r.dcd && r.base * 2 ^ 28 ≤ base && base + len ≤ (r.base + r.size) * 2 ^ 28

/-- Why an extent cannot be added, if it cannot. -/
def addRefusal (s : State) (ldMask base len : Nat) : Option Nat := match s.dcdRegion base len with
  | none => some mbInvalidInput
  | some r =>
    let b := 2 ^ r.dcdBlock
    if len = 0 || base % b ≠ 0 || len % b ≠ 0 || ldMask % 2 ^ 16 = 0 || ldMask ≠ ldMask &&& r.ldMask then some mbInvalidInput
    else if s.coh.extents.any fun e => e.base < base + len && base < e.base + e.len then some mbInvalidInput
    else if 4096 ≤ s.coh.extents.length then some mbExhausted
    else none

/-- A release asked for by the fabric manager (R252): a forced one begins at once; otherwise the hosts are asked. -/
def fmRelease (op ext ld : Nat) (forced secure : Bool) (s : State) : State := match s.extentOf ext with
  | none => s.fmDone op mbInvalidInput []
  | some e0 =>
    if !Nat.testBit e0.ldMask ld || e0.state == .releasing || (!forced && e0.state != .active) then s.fmDone op mbInvalidInput []
    else if !s.memActive then s.fmDone op mbMediaDisabled []
    else if s.flush.stopped then s.fmDone op mbBusy []
    else
      let e := { e0 with secure := e0.secure || secure }
      if !forced then ((s.setExtent e).dcEvent 1 e.ldMask e).fmDone op mbSuccess []
      else if !s.storeOk then s.fmDone op mbInternal []
      else ((s.dcEvent 2 e.ldMask e).extentRelease e).fmDone op mbBackground []

/-- Sum of the sizes of the regions of an LD, in 256 MiB units (LD allocations come from the Pattern alone). -/
def ldUnits (s : State) (n : Nat) : Nat := (s.plan.regions.filter fun r => r.forLd n).foldl (fun a r => a + r.size) 0

end State

/-- GET_LD_INFO: memory in 256 MiB units and the number of LDs (Table 11-2). -/
def execGetLdInfo (s : State) : Out :=
  .next (s.fmCommand fun s => s.fmDone 0x5400 mbSuccess [s.plan.regions.foldl (fun a r => a + r.size) 0, 16])

/-- GET_LD_ALLOCATIONS: the 256 MiB units of each LD. -/
def execGetLdAllocations (s : State) : Out := .next (s.fmCommand fun s => s.fmDone 0x5401 mbSuccess ((List.range 16).map s.ldUnits))

/-- SET_LD_ALLOCATIONS: the regions come from the Pattern; the response gives the allocations in force (log 65). -/
def execSetLdAllocations (granules : List Nat) (s : State) : Out :=
  .next (s.fmCommand fun s => s.fmDone 0x5402 mbSuccess ((List.range (min 16 granules.length)).map s.ldUnits))

/-- GET_MULTI_HEADED_INFO: LDs, heads (Table 11-2), the head of each LD. -/
def execGetMultiHeadedInfo (s : State) : Out :=
  .next (s.fmCommand fun s => s.fmDone 0x5500 mbSuccess ([16, 4] ++ (List.range 16).map fun k => (s.boundTo k).getD 0xFF))

/-- GET_DC_REGION_CONFIGURATION (Table 07-1): the DCD regions of an LD. -/
def execGetDcRegionConfiguration (ld : Nat) (s : State) : Out :=
  .next (s.fmCommand fun s =>
    if 16 ≤ ld then s.fmDone 0x5601 mbInvalidInput []
    else if !s.memActive then s.fmDone 0x5601 mbMediaDisabled []
    else
      let rs := s.plan.regions.filter fun r => r.dcd && r.forLd ld
      s.fmDone 0x5601 mbSuccess (rs.length :: rs.flatMap fun r => [r.index, r.base * 2 ^ 28, r.size * 2 ^ 28, 2 ^ r.dcdBlock]))

/-- GET_DC_REGION_EXTENT_LISTS (Table 07-5): the extents that name an LD: number, base, length, state. -/
def execGetDcRegionExtentLists (ld : Nat) (s : State) : Out :=
  .next (s.fmCommand fun s =>
    if 16 ≤ ld then s.fmDone 0x5603 mbInvalidInput []
    else if !s.memActive then s.fmDone 0x5603 mbMediaDisabled []
    else
      let es := s.coh.extents.filter fun e => Nat.testBit e.ldMask ld
      let code (x : ExtState) : Nat := match x with | .offered => 0 | .active => 1 | .releasing => 2
      s.fmDone 0x5603 mbSuccess (es.length :: es.flatMap fun e => [e.id, e.base, e.len, code e.state]))

/-- INITIATE_DYNAMIC_CAPACITY_ADD (R250): an extent is offered to the LDs of a mask. -/
def execInitiateDynamicCapacityAdd (ldMask base len : Nat) (s : State) : Out :=
  .next (s.fmCommand fun s =>
    if !s.memActive then s.fmDone 0x5604 mbMediaDisabled []
    else match s.addRefusal ldMask base len with
      | some c => s.fmDone 0x5604 c []
      | none =>
        let id := s.coh.extents.foldl (fun a e => max a (e.id + 1)) 0
        let e : Extent := { id, base, len, ldMask }
        ((s.modCoh fun c => { c with extents := c.extents ++ [e] }).dcEvent 0 ldMask e).fmDone 0x5604 mbSuccess [id])

/-- INITIATE_DYNAMIC_CAPACITY_RELEASE (R252, R369). -/
def execInitiateDynamicCapacityRelease (ext ld : Nat) (forced : Bool) (s : State) : Out :=
  .next (s.fmCommand fun s => s.fmRelease 0x5605 ext ld forced false).healthCheck

/-- SECURE_RELEASE (Table 11-3, R252): the release removes the range by SECURE_DISCARD. -/
def execSecureRelease (ext ld : Nat) (forced : Bool) (s : State) : Out :=
  .next (s.fmCommand fun s => s.fmRelease 0xC803 ext ld forced true).healthCheck

/-- BIND_LD (R359 to R361): Hem, then the binding. -/
def execBindLd (ld port : Nat) (s : State) : Out :=
  .next (s.fmCommand fun s =>
    if 16 ≤ ld || 4 ≤ port || (s.boundTo ld).isSome then s.fmDone 0xC800 mbInvalidInput []
    else if !s.kpsOk then s.refuseWrite.fmDone 0xC800 mbInternal []
    else (s.bindLater ld port (some port)).fmDone 0xC800 mbSuccess [])

/-- UNBIND_LD (R245, R359 to R361). -/
def execUnbindLd (ld : Nat) (s : State) : Out :=
  .next (s.fmCommand fun s => match s.boundTo ld with
    | none => s.fmDone 0xC801 mbInvalidInput []
    | some p =>
      if 16 ≤ ld then s.fmDone 0xC801 mbInvalidInput []
      else if !s.kpsOk then s.refuseWrite.fmDone 0xC801 mbInternal []
      else if (s.ldOf ld).port = none then ((s.setLd ld { s.ldOf ld with portNext := none }).bindingWrite).fmDone 0xC801 mbSuccess []
      else (s.bindLater ld p none).fmDone 0xC801 mbSuccess [])

/-- GET_BINDINGS (Table 11-3): byte n holds the port of LD n or 0xFF. -/
def execGetBindings (s : State) : Out :=
  .next (s.fmCommand fun s => s.fmDone 0xC802 mbSuccess ((List.range 16).map fun k => (s.boundTo k).getD 0xFF))

end Sys2Proof.Machine
end

