-- ==== Sys2Proof/Machine/Integrity.lean ====
section
/-!
DEFINITION. Data integrity (09): the HBM patrol and bucket rebuild (R295 to R298), flip-mask injection (R306, R307), the register-form scrub (R309 to R313), debug line accesses
and raw media reads (R314 to R317).
-/
namespace Sys2Proof.Machine

namespace State

/-! ### HBM patrol (R296 to R298) -/

/-- Both copies of a journal record or of a seal table entry are uncorrectable (R297). A journal record: the next start is unclean, so a clean-flush record that is still the newest is followed by
the dirtied record now, and the next flush writes none. -/
def pairLost (sealOf : Option Nat) (s : State) : State := match sealOf with
  | some sw => (s.modMed fun m => { m with sealTab := Tab.set (fun _ => 0) m.sealTab sw (BitVec.allOnes 64) }).fire 130
  | none => (s.modXlt fun x => { x with journalLost := true }).dirtiedRecord.1

/-- A 64-B block of spool memory is uncorrectable: the two contexts it may hold go to the error state (R296, Table 13-4); any other block answers with EP, and a ring entry in it is unreadable. -/
def contextLost (block : Nat) (s : State) : State :=
  if 4096 ≤ block then s.modSpl fun p => { p with bad := (p.bad ++ [block]).eraseDups }
  else [2 * block, 2 * block + 1].foldl (fun s n => if (s.ctx n).state = 1 then s.spoolError n 4 0 else s) s

/-- What an uncorrectable block of a region leads to (Table 09-3), for a block that the patrol reads. Region numbers are in the order of Table 01-11. An assembly or an image
restarts from its snapshot and ends as it would have; of the changed bits all are set (log 38). -/
def blockLost (region block : Nat) (both : Bool) (sealOf : Option Nat) (s : State) : State :=
  match region with
  | 1 => if block < liningSets s.order then s.tagBlockRecover block [] else s
  | 2 => s.mapDamage [block]
  | 3 => s.modXlt fun x => { x with bucketBad := Tab.set (fun _ => false) x.bucketBad block true }
  | 4 => s.suspectSet block
  | 5 => s.contextLost block
  | 6 => if both then s.pairLost none else s
  | 7 => if 512 ≤ block || s.med.treeBad.contains block then s else (s.modMed fun m => { m with treeBad := m.treeBad ++ [block] }).fire 208
  | 8 => if sealOf.isSome then (if both then s.pairLost sealOf else s) else s.xlt.map.foldl (fun s e => s.mapChanged e.1) s
  | _ => s

/-- A wear tree that reads well again has been rebuilt (R162). -/
def treeRebuilt (region block : Nat) (s : State) : State :=
  if region = 7 && s.med.treeBad.contains block then
    (s.modMed fun m => { m with treeBad := m.treeBad.filter (· != block) }).countF MED.ALLOC_STATUS_TREE_REPAIRS 1
  else s

/-! ### Injection (R306, R307) -/

/-- The line or block that SCB.INJ_ADDR names for a point. -/
def injTarget (s : State) (point : Nat) : Nat :=
  let lo := s.getF SCB.INJ_ADDR_LO_TARGET
  if point = 5 then lo else lo / 64 + 2 ^ 26 * s.getF SCB.INJ_ADDR_HI_DPA

/-- The armed injection ends. -/
def injEnd (s : State) : State := ((s.modInteg fun i => { i with inj := none }).setF SCB.INJ_CTRL_ARM 0).setF SCB.INJ_LEFT_COUNT 0

/-- A write of SCB.INJ_CTRL. -/
def injCtrl (v : Nat) (s : State) : State :=
  let point := bits v 26 24
  let s1 := (s.setF SCB.INJ_CTRL_POINT point).setF SCB.INJ_CTRL_COUNT (v % 4096)
  let region := s1.getF SCB.INJ_ADDR_HI_REGION
  if bit v 30 then s1.injEnd
  else if !bit v 31 || point = 7 || (point = 5 && (region = 0 || 9 ≤ region)) then s1
  else
    let left := max 1 (v % 4096)
    let mask := (List.range 23).foldr (fun n a => s1.getF (SCB.INJ_MASK_MASK n) + 2 ^ 32 * a) 0
    ((s1.modInteg fun i => { i with inj := some { point, left, target := s1.injTarget point, region, mask } }).setF SCB.INJ_CTRL_ARM 1).setF SCB.INJ_LEFT_COUNT left

/-- The injection registers accept writes only from the management endpoint or from a master with the debug right (R306). -/
def injAction (m off : Nat) (act : State → State) (s : State) : State :=
  if isMgmt m || s.hasRight m rightDebug then s.regAction m off true act
  else if m < 16 && s.halted then s.report m off .busError
  else (s.deny m 2 rightDebug 0 off).report m off .denied

/-! ### The register-form scrub (R309 to R313) -/

/-- A write of SCB.SCRUB_CMD: discarded while a scrub runs. -/
def scrubCmd (v : Nat) (s : State) : State :=
  if s.flag SCB.SCRUB_STATUS_BUSY then s
  else
    let s1 := s.setF SCB.SCRUB_CMD_MARK (v / 2 % 2)
    if !bit v 0 then s1
    else
      let first := s1.getF SCB.SCRUB_BASE_LO_VALUE / 64 + 2 ^ 26 * (s1.getF SCB.SCRUB_BASE_HI_VALUE % 2 ^ 13)
      let n := s1.getF SCB.SCRUB_LEN_LO_VALUE + 2 ^ 32 * (s1.getF SCB.SCRUB_LEN_HI_VALUE % 128)
      let mark := bit v 1
      ((s1.modInteg fun i => { i with scrub := some { next := first, stop := min (2 ^ 39) (first + n), mark, sum := { mark } } }).setF SCB.SCRUB_STATUS_BUSY 1).setF SCB.SCRUB_CMD_GO 1

/-- The scrubber may take a line: the core runs and no flush has stopped it. -/
def scrubRuns (s : State) : Bool := s.memActive && !s.halted && !s.flush.stopped

/-- The next line of the register form. -/
def scrubNext (x : Scrub) (s : State) : State :=
  match s.scrubLine x.next none x.sum with
  | none => s.mapCheck (swatchOf x.next)
  | some (s1, sum, cand) => s1.modInteg fun i => { i with scrub := some { x with next := x.next + 1, sum, cands := if cand && x.mark then x.cands ++ [x.next] else x.cands } }

/-! ### Debug line accesses (R316) -/

/-- A debug line access completes. -/
def dbgMemEnd (r : Nat) (s : State) : State :=
  (((s.modDbg fun d => { d with mem := none }).setF DBG.MEM_STATUS_RESULT r).setF DBG.MEM_STATUS_BUSY 0).setF DBG.MEM_STATUS_DONE 1

/-- DBG.MEM_DATA takes 64 bytes. -/
def dbgData (d : Nat) (s : State) : State := (List.range 16).foldl (fun s n => s.setF (DBG.MEM_DATA_BYTES n) (d / 2 ^ (32 * n))) s

/-- A step of the access: its flow (Table 07-3), then the read or the write. -/
def dbgMemStep (x : DbgMem) (s : State) : State :=
  if !s.memActive || s.halted then s.dbgMemEnd 5
  else if !s.decoded none x.line then s.dbgMemEnd 1
  else match s.spoolFlow x.line x.write x.mine with
    | (s1, 1) => s1.modDbg fun d => { d with mem := some { x with mine := true } }
    | (s1, 2) => s1
    | (s0, _) =>
      let s1 := s0.modDbg fun d => { d with mem := some { x with mine := false } }
      let fenced := s1.fencedAt x.line
      if x.write then
        let d := (List.range 16).foldr (fun n a => s1.getF (DBG.MEM_DATA_BYTES n) + 2 ^ 32 * a) 0
        match if fenced then s1.markLine x.line 0 else s1.writeLine x.line (mkLine (BitVec.ofNat 512 d) x.line (s1.sharedOf x.line) false) false with
        | (s2, true) => (if fenced then s2.countFenced else s2).dbgMemEnd 0
        | (s2, false) => s2
      else if fenced then (s1.countFenced.dbgData 0).dbgMemEnd 4
      else match s1.readLine x.line none false true with
        | (s2, .wait) => s2
        | (s2, .bad _) => (s2.dbgData 0).dbgMemEnd 4
        | (s2, .line l _) =>
          if l.poison then (s2.dbgData 0).dbgMemEnd 4
          else if tagOk l x.line (s2.sharedOf x.line) then (s2.dbgData l.data.toNat).dbgMemEnd 0
          else ((s2.tagFailEgress x.line 8 none).dbgData 0).dbgMemEnd 4

/-- A write of DBG.MEM_CMD by master m: 1 reads, 2 writes; discarded while an access is in progress. -/
def dbgMemCmd (m op : Nat) (s : State) : State :=
  if s.flag DBG.MEM_STATUS_BUSY || (op ≠ 1 && op ≠ 2) then s
  else
    let write := op == 2
    let line := s.getF DBG.MEM_ADDR_LO_DPA + 2 ^ 26 * s.getF DBG.MEM_ADDR_HI_DPA
    let acc := if write then 1 else 0
    let s1 := s.setF DBG.MEM_STATUS_SET m
    if !s1.memActive || s1.halted then s1.dbgMemEnd 5
    else if !s1.hasRight m rightDebug then (s1.deny m acc rightDebug 0 (64 * line)).dbgMemEnd 2
    else if !s1.decoded none line then s1.dbgMemEnd 1
    else match s1.memMissing m (if write then rightMemWr else rightMemRd) line with
      | some r => (s1.deny m acc r (s1.keyOf line) (64 * line)).dbgMemEnd 3
      | none =>
        let x : DbgMem := { line, write, m }
        ((s1.setF DBG.MEM_STATUS_BUSY 1).modDbg fun d => { d with mem := some x }).dbgMemStep x

/-! ### Raw media reads (R317) -/

/-- A raw read completes. -/
def dbgRawEnd (r : Nat) (s : State) : State :=
  ((((s.modDbg fun d => { d with raw := none }).setF DBG.RAW_CMD_GO 0).setF DBG.RAW_STATUS_RESULT r).setF DBG.RAW_STATUS_BUSY 0).setF DBG.RAW_STATUS_DONE 1

/-- A write of DBG.RAW_CMD by master m: discarded while a raw read is in progress. -/
def dbgRawCmd (m v : Nat) (s : State) : State :=
  if s.flag DBG.RAW_STATUS_BUSY then s
  else
    let s1 := s.setF DBG.RAW_CMD_DECODE (v / 2 % 2)
    if !bit v 0 then s1
    else
      let slot := s1.getF DBG.RAW_ADDR_HI_SLOT
      let bolt := s1.getF DBG.RAW_ADDR_LO_BOLT
      let lslot := s1.getF DBG.RAW_ADDR_HI_LSLOT
      let psa := mkPsa (mkBolt slot (s1.getF DBG.RAW_ADDR_LO_DIE) bolt) (s1.getF DBG.RAW_ADDR_LO_PAGE)
      let s2 := (s1.setF DBG.RAW_STATUS_DEC_FAIL 0).setF DBG.RAW_STATUS_CORRECTED 0
      if !s2.hasRight m rightRaw then (s2.deny m 3 rightRaw 0 psa).dbgRawEnd 1
      else if s2.halted then s2.dbgRawEnd 4
      else if !s2.cartUp slot then s2.dbgRawEnd 2
      else if 64 < lslot || s2.boltsPerDie slot ≤ bolt then s2.dbgRawEnd 3
      else (s2.modDbg fun d => { d with raw := some { psa, slot := lslot, refset := s2.getF DBG.RAW_ADDR_HI_REFSET, decode := bit v 1 } }).setF DBG.RAW_STATUS_BUSY 1 |>.setF DBG.RAW_CMD_GO 1

/-- The cells come back: the bits as read, and with DECODE what they decode to. Beyond the capacity of the code the decode fails or yields another codeword (log 14). The read counts toward read
disturb and changes no refresh schedule. -/
def dbgRawData (j : RawJob) (errors : Nat) (s : State) : State :=
  let width := if j.slot = 64 then 360 else 720
  let dataBits := if j.slot = 64 then 216 else 576
  let word := s.rawWord j.psa j.slot
  let read := (s.rawCells j.psa j.slot ^^^ errors) % 2 ^ width
  let dam := word ^^^ read
  let n := symErrors (BitVec.ofNat 720 dam)
  let put (f : Nat → Fld) (k v : Nat) (s : State) : State := (List.range k).foldl (fun s i => s.setF (f i) (v / 2 ^ (32 * i))) s
  let b := s.aliasOf (boltOf j.psa)
  let i := s.boltInfo b
  let s1 := ((put DBG.RAW_DATA_BITS 23 read s).setBoltInfo b { i with disturb := i.disturb + 1 }).perf (12 + boltSlot b) 0x205 none 1
  let s2 := if !j.decode then s1
    else if n ≤ 8 then (put DBG.RAW_DEC_BITS 18 (word % 2 ^ dataBits) s1).setF DBG.RAW_STATUS_CORRECTED n
    else if Config.decodeFails dam then s1.setF DBG.RAW_STATUS_DEC_FAIL 1
    else ((put DBG.RAW_DEC_BITS 18 (s1.freeVal % 2 ^ dataBits) s1).setF DBG.RAW_STATUS_CORRECTED (s1.freeStep.freeVal % 9)).freeStep.freeStep
  s2.freeStep.dbgRawEnd 0

/-! ### The TAP (R314, R549) -/

/-- Instructions that the TAP implements; every other code selects BYPASS. -/
def tapCode (ir : Nat) : Nat := if [0x00, 0x01, 0x02, 0x18].contains ir then ir else 0xFF

end State

/-- HBM_PATROL (R295 to R298): the patrol reads a block-code slot. `both`: of a journal record or seal table entry, the second copy is uncorrectable too; `sealOf`: the swatch of the seal table entry. -/
def execHbmPatrol (ev : HbmBlock) (both : Bool) (sealOf : Option Nat) (s : State) : Out :=
  if s.getF SCB.CTRL_PATROL_H = 0 || !s.start.filled || ev.region = 0 || hbmBlocks s.order ev.region ≤ ev.block then .next s
  else
    let (s1, h2) := s.injBlock ev.region ev.block
    match worseHealth ev.health h2 with
    | .good => .next (s1.treeRebuilt ev.region ev.block)
    | .corrected => .next ((s1.hbmCorrected (stackOf s1.order ev.region ev.block)).treeRebuilt ev.region ev.block).healthCheck
    | .uncorrectable => .next (State.blockLost ev.region ev.block both sealOf (s1.hbmUncorr ev.region ev.block)).healthCheck

/-- BUCKET_REBUILD_DONE (R296): source 136; the reads that waited go on. -/
def execBucketRebuildDone (bucket : Nat) (s : State) : Out :=
  if Tab.get (fun _ => false) s.xlt.bucketBad bucket then
    .next ((s.modXlt fun x => { x with bucketBad := Tab.set (fun _ => false) x.bucketBad bucket false }).fire 136).repairRelease
  else .next s

/-- INJ_ARM (R306, R307): a write of SCB.INJ_CTRL with ARM set. -/
def execInjArm (m : Nat) (v : Word) (s : State) : Out := .next (s.injAction m 0x1c0100 (State.injCtrl (v ||| 0x80000000).toNat))

/-- INJ_DISARM (R307): a write of SCB.INJ_CTRL with DISARM set. -/
def execInjDisarm (m : Nat) (v : Word) (s : State) : Out := .next (s.injAction m 0x1c0100 (State.injCtrl (v ||| 0x40000000).toNat))

/-- SCRUB_GO (R312): a write of SCB.SCRUB_CMD with GO set. -/
def execScrubGo (m : Nat) (v : Word) (s : State) : Out := .next (s.regAction m 0x1c0210 true (State.scrubCmd (v ||| 1).toNat))

/-- SCRUB_LINE (R309, R310): the next line of a SCRUB_RANGE op or of the register form. -/
def execScrubLine (rng : Bool) (line : Nat) (s : State) : Out :=
  if !s.scrubRuns then .next s
  else if rng then match s.spl.ops.find? fun o => o.desc.op == 0x04 && o.status.isNone && o.cands.isEmpty && o.closing.isNone && o.desc.src / 64 + o.next == line with
    | some o => .next (s.scrubStep o).healthCheck
    | none => .next s
  else match s.integ.scrub with
    | some x => if x.next = line && line < x.stop then .next (s.scrubNext x).healthCheck else .next s
    | none => .next s

/-- SCRUB_MARK (R311): the second step of a candidate line. -/
def execScrubMark (rng : Bool) (line : Nat) (s : State) : Out :=
  if !s.scrubRuns then .next s
  else if rng then match s.spl.ops.find? fun o => o.desc.op == 0x04 && o.status.isNone && o.cands.head? == some line with
    | some o => .next (s.scrubStep o).healthCheck
    | none => .next s
  else match s.integ.scrub with
    | some x =>
      if !x.cands.contains line then .next s
      else match s.markLine line 0 with
        | (s1, false) => .next s1
        | (s1, true) => .next (s1.modInteg fun i => { i with scrub := i.scrub.map fun y => { y with cands := y.cands.filter (· != line) } }).healthCheck
    | none => .next s

/-- SCRUB_COMPLETE (R312, R313): every line is done, or a flush, a halt or the end of memory active stops the scrub early. -/
def execScrubComplete (s : State) : Out :=
  match s.integ.scrub with
  | none => .next s
  | some x =>
    let early := !s.scrubRuns
    if !early && (x.next < x.stop || !x.cands.isEmpty) then .next s
    else
      let bs := padTo 48 (ScrubSum.bytes { x.sum with early := x.sum.early || (early && (x.next < x.stop || !x.cands.isEmpty)) })
      let s1 := (List.range 12).foldl (fun s n => s.setF (SCB.SUM_BYTES n) (ofLe ((bs.drop (4 * n)).take 4))) s
      .next (((((s1.modInteg fun i => { i with scrub := none }).setF SCB.SCRUB_CMD_GO 0).setF SCB.SCRUB_STATUS_BUSY 0).setF SCB.SCRUB_STATUS_DONE 1).fire 133)

/-- DBG_MEM_READ (R316). -/
def execDbgMemRead (m : Nat) (s : State) : Out := .next (s.regAction m 0x300008 true (State.dbgMemCmd m 1)).healthCheck

/-- DBG_MEM_WRITE (R316). -/
def execDbgMemWrite (m : Nat) (s : State) : Out := .next (s.regAction m 0x300008 true (State.dbgMemCmd m 2)).healthCheck

/-- DBG_MEM_DONE (R316): an access that waited goes on and completes. -/
def execDbgMemDone (s : State) : Out :=
  match s.dbg.mem with
  | some x => .next (s.dbgMemStep x).healthCheck
  | none => .next s

/-- DBG_RAW_READ (R317): a write of DBG.RAW_CMD with GO set. -/
def execDbgRawRead (m : Nat) (v : Word) (s : State) : Out := .next (s.regAction m 0x300108 true (State.dbgRawCmd m (v ||| 1).toNat))

/-- DBG_RAW_DONE (R317): the cartridge has answered; `sensed` holds the bits in which the cells differ from what they hold and the command's status. -/
def execDbgRawDone (sensed : Sensed) (s : State) : Out :=
  match s.dbg.raw with
  | none => .next s
  | some j =>
    if s.halted then .next (s.dbgRawEnd 4)
    else if !s.cartUp (psaSlot j.psa) then .next (s.dbgRawEnd 2)
    else if sensed.status ≠ 0 then .next (s.dbgRawEnd 5)
    else .next (s.dbgRawData j sensed.errors.toNat)

/-- TAP_INSTRUCTION (R314, R549). -/
def execTapInstruction (ir : Nat) (s : State) : Out := .next (s.modDbg fun d => { d with ir := State.tapCode ir })

end Sys2Proof.Machine
end

