-- ==== Sys2Proof/Machine/Security.lean ====
section
/-!
DEFINITION. Sessions, keys and attestation (10, R318 to R333, R353), IDE (R336, R337), the key checks of the link scrambler (R343, R344), the halt flush (R348).
-/
namespace Sys2Proof.Machine

namespace State

/-! ### SPDM (R327, R328, R353) -/

/-- A response in a session, or outside every session (number 0xFFFF): result, reply fields. -/
def spdmDone (sid code : Nat) (payload : List Nat) (s : State) : State := s.emit (.spdm sid code payload)

/-- The lowest listed ROOT entry with a digest, and its CLASS (Table 10-4). -/
def rootEntry (s : State) (digest : List Byte) : Option (Nat × Nat) := match s.plan.keyPolicy with
  | none => none
  | some b => ((List.range ((b.getD 0 0).toNat)).find? fun r => (b.drop (8 + 52 * r)).take 48 == digest).map fun r => (r, (b.getD (8 + 52 * r + 48) 0).toNat)

/-- A transport carries SPDM: SMBus while the supervisor is awake; DOE on a CXL.io link that is open, while the device is not halted (R346). -/
def spdmOpen (s : State) (doe : Bool) (ld : Nat) : Bool :=
  s.clk.awake && (!doe || (!s.halted && ld < 16 && (match (s.ldOf ld).port with | some p => s.portOpen p false | none => false)))

def sessionOf (s : State) (sid : Nat) : Option Session := s.cip.sessions.find? (·.id == sid)

/-- A key command in a session (R328): its right (none: no right), whether a halted device refuses it; a command without a session has no effect. -/
def keyCommand (sid : Nat) (right : Option Nat) (halts : Bool) (act : Nat → State → State) (s : State) : State := match s.sessionOf sid with
  | none => s
  | some x =>
    let m := 33 + x.cls
    if !s.spdmOpen x.doe x.ld then s
    else if halts && s.halted then s.spdmDone sid 7 []
    else match right with
      | none => act m s
      | some r => if s.hasRight m r then act m s else (s.deny m 4 r 0 0).spdmDone sid 1 []

/-- STATE as KEY_STATE and KEY_QUERY give it. -/
def keyStateCode : KState → Nat
  | .empty => 0 | .active => 1 | .retiring => 2 | .awaiting => 3

/-- Links that wait for the link key at step 2 of their bring-up go on (R345). -/
def helloWaiting (s : State) : State := (List.range 32).foldl (fun s n => if (s.link n).step = 2 then s.sendHello n else s) s

/-- Why KEY_LOAD of a slot is refused, if it is (Table 10-6). -/
def loadRefusal (s : State) (k : Nat) (key : Option (BitVec 512)) (wrote : Bool) : Option Nat :=
  let v := s.keySlot k
  if k = 0 || 256 ≤ k then some 2
  else if v.usage = 0 then some 5
  else if s.cip.retire.any fun r => r.slot == k then some 6
  else if v.state != .empty && v.state != .awaiting then some 3
  else match key with
    | none => some 4
    | some x =>
      if v.state == .awaiting && v.check ≠ keyCheckValue x then some 10
      else if !wrote || !s.storeOk then some 9 else none

/-- The key is written to the key store, then the slot is ACTIVE, then source 96 fires (R329). -/
def keyLoad (k : Nat) (key : BitVec 512) (s : State) : State :=
  let v := s.keySlot k
  let s1 := ((s.setKeySlot k { v with state := .active, key, check := keyCheckValue key }).storePut).fire 96
  (if v.usage = 3 then s1.helloWaiting else s1).reevaluate

/-! ### Certificates and measurements (R353, R508) -/

/-- A certificate slot as Hem holds it: length, chain, zeros, CRC-32C. -/
def certBytes (chain : List Byte) : List Byte :=
  let body := padTo 16380 (le 4 chain.length ++ chain)
  body ++ le 4 (crc32c body)

/-- The 64 pages of certificate slot k are programmed in turn. -/
def certWrite (k : Nat) (chain : List Byte) (s : State) : State :=
  let bs := certBytes chain
  (List.range 64).foldl (fun s i => s.programHem (134 + 64 * (k - 1) + i) ((bs.drop (256 * i)).take 256)) s

/-- The bytes that a measurement digests (Table 10-11); SHA-384 and the digest of the ROM are opaque (log 12). -/
def measurement (s : State) (index : Nat) : Option (List Nat) :=
  let b (x : Bool) : Nat := if x then 1 else 0
  match index with
  | 1 => some (Config.digest 101 [] ++ [stepping])
  | 2 => some (Config.sha384 (s.patternInput s.pat.active.1 s.pat.active.2))
  | 3 => some (Config.sha384 (match s.plan.keyPolicy with | some p => p.map (·.toNat) | none => []))
  | 4 => some [b (s.flag TOP.PATTERN_STATUS_KEYHASH_FUSED), b (s.flag TOP.GCTRL_JTAG_DBG_EN), b s.cipherFault, b (s.start.released && s.linkSlot == 0)]
  | 5 => some (Config.sha384 ((List.range 38).flatMap fun m => (List.range 9).flatMap fun w => (le 4 (s.reg (0x1b0800 + 64 * m + 4 * w)).toNat).map (·.toNat)))
  | _ => none

/-! ### Retirement, steps 2 to 4 (R331) -/

/-- Cached lines of the regions bound to a slot are invalidated. -/
def invalidateUnder (k : Nat) (s : State) : State :=
  let ways : List Nat := List.map (·.1) (s.cache.lining.filter fun _ w => w.valid && s.lineUnder k w.line)
  let s1 := ways.foldl (fun s w => s.dropWay w) s
  let ents : List Nat := List.map (·.1) (s1.cache.pcu.filter fun _ e => e.valid != 0 && s1.lineUnder k (64 * e.swatch))
  (ents.foldl (fun s n => s.setPent n (if (s.pent n).lock then { lock := true } else {})) s1).dirtyChanged

/-- A retirement goes on: dirty lines left are released; once no work under the key is left the lines are invalidated, the key is destroyed, the epoch advances, the slot is EMPTY. -/
def retireStep (r : Retire) (s : State) : State :=
  let dirty := s.dirtyUnder r.slot
  if !dirty.isEmpty then dirty.foldl (fun s l => (s.release l).1) s
  else if s.workUnder r.slot || !s.storeOk then s
  else
    let s1 := s.invalidateUnder r.slot
    let v := s1.keySlot r.slot
    let s2 := (s1.setKeySlot r.slot { v with state := .empty, key := 0, check := 0, epoch := (v.epoch + 1) % 256 }).storePut
    let s3 := s2.modCip fun c => { c with retire := c.retire.filter fun x => x.slot != r.slot }
    let s4 := (s3.setFlag CIP.STATUS_RETIRING (!s3.cip.retire.isEmpty)).fire 98
    if r.byReg then (s4.setF CIP.KEY_CMD_STATUS_BUSY 0).setF CIP.KEY_CMD_STATUS_DONE 1 else s4

/-! ### The halt flush (R348) -/

/-- Step 1: the links whose key check passes come up with a new session; the others are excluded. Programs on them are dropped, their lines still being in the caches. -/
def haltLinks (good : List Nat) (s : State) : State :=
  let up (n : Nat) : Bool := good.contains n && n != s.getF TOP.HALT_SLOT && (s.cart n).present && !(s.cart n).quarantined
  let one (s : State) (n : Nat) : State :=
    if up n then
      let s1 := s.setLink n { s.link n with up := true, step := 6, credits := 512, granted := 512 }
      ((match s1.linkKey with
        | some l => s1.freeStep.setLinkSession n (some { l, ks := s1.freeVal % 2 ^ 64, sent := 1, got := 1 })
        | none => s1).setF (VLK.STATUS_STATE n) 3)
    else if (s.cart n).adopted then s.setF (CIP.LINK_STATUS_FAILED n) 1 else s
  let keep (s : State) (p : Prog) : Bool := up (psaSlot (s.physPsa p.psa))
  let s1 := (List.range 32).foldl one s
  s1.modMed fun m => { m with progs := (m.progs.filter (keep s1)).map fun p => { p with sent := false } }

/-- The halt flush begins (R348, steps 1 and 2). -/
def haltFlush (sid : Nat) (good : List Nat) (s : State) : State :=
  let s1 := s.modFlush fun f => { f with halt := true, haltSid := sid, patches := 0, jpages := 0 }
  (s1.haltLinks good).flushStepFour

/-- CIP.KEY_CMD is written with RETIRE (R561): discarded while BUSY. -/
def keyCmdRetire (v : Word) (wrote : Bool) (s : State) : State :=
  if s.flag CIP.KEY_CMD_STATUS_BUSY then s
  else
    let k := v.toNat % 256
    let s0 := s.setF CIP.KEY_CMD_SLOT k
    if s0.halted then (s0.setF CIP.KEY_CMD_STATUS_RESULT 7).setF CIP.KEY_CMD_STATUS_DONE 1
    else match s0.retireStart k true wrote with
      | (s1, 0) => ((s1.setF CIP.KEY_CMD_STATUS_RESULT 0).setF CIP.KEY_CMD_STATUS_BUSY 1).healthCheck
      | (s1, r) => (s1.setF CIP.KEY_CMD_STATUS_RESULT r).setF CIP.KEY_CMD_STATUS_DONE 1

end State

/-! ### Sessions -/

/-- SPDM_SESSION_ESTABLISH (R327): mutual authentication has succeeded (`ok`), and the chain's root is listed; at most 4 sessions. Source 103. `leaf`: SHA-384 of the requester's leaf certificate (log 12). -/
def execSpdmSessionEstablish (ok doe : Bool) (ld : Nat) (root leaf : List Byte) (s : State) : Out :=
  if !s.spdmOpen doe ld then .next s
  else match s.rootEntry root with
    | none => .next (s.spdmDone 0xFFFF 1 [])
    | some (r, cls) =>
      if !ok || 4 ≤ s.cip.sessions.length then .next (s.spdmDone 0xFFFF 1 [])
      else
        let id := s.cip.nextSess
        let x : Session := { id, cls, root := r, doe, ld, leaf }
        .next (((s.modCip fun c => { c with sessions := c.sessions ++ [x], nextSess := id + 1 }).fire 103).spdmDone id 0 [])

/-- SPDM_SESSION_END (R327): source 103. -/
def execSpdmSessionEnd (sid : Nat) (s : State) : Out :=
  if (s.sessionOf sid).isSome then .next ((s.modCip fun c => { c with sessions := c.sessions.filter fun x => x.id != sid }).fire 103) else .next s

/-- SET_CERTIFICATE (R353, R506, R508): slots 1 to 3, in a session over MCTP whose set holds KEY_ADMIN. -/
def execSetCertificate (sid slot : Nat) (chain : List Byte) (s : State) : Out :=
  .next (s.keyCommand sid (some rightKeyAdmin) true fun _ s =>
    if (s.sessionOf sid).any (·.doe) || slot = 0 || 3 < slot || 16376 < chain.length then s.spdmDone sid 2 []
    else if !s.kpsOk then s.refuseWrite.spdmDone sid 9 []
    else (s.certWrite slot chain).spdmDone sid 0 [])

/-- SPDM_GET_MEASUREMENTS (R353, Table 10-11). -/
def execSpdmGetMeasurements (index : Nat) (s : State) : Out :=
  if !s.clk.awake then .next s
  else match s.measurement index with
    | some l => .next (s.spdmDone 0xFFFF 0 l)
    | none => .next (s.spdmDone 0xFFFF 1 [])

/-! ### Key commands -/

/-- KEY_LOAD (R329): `key`: what the wrapped key unwraps to; `wrote`: both key store copies were written and verified (R325). -/
def execKeyLoad (sid slot : Nat) (key : Option (BitVec 512)) (wrote : Bool) (s : State) : Out :=
  .next (s.keyCommand sid (some rightKeyAdmin) true fun _ s => match s.loadRefusal slot key wrote, key with
    | some e, _ => s.spdmDone sid e []
    | none, some k => (s.keyLoad slot k).spdmDone sid 0 []
    | none, none => s)

/-- KEY_RETIRE (R331). -/
def execKeyRetire (sid slot : Nat) (wrote : Bool) (s : State) : Out :=
  .next (s.keyCommand sid (some rightKeyAdmin) true fun _ s =>
    let (s1, r) := s.retireStart slot false wrote
    s1.spdmDone sid r []).healthCheck

/-- KEY_QUERY (R328): state, usage, epoch, PERSIST and REQUIRED. -/
def execKeyQuery (sid slot : Nat) (s : State) : Out :=
  .next (s.keyCommand sid none false fun _ s =>
    let v := s.keySlot (slot % 256)
    s.spdmDone sid 0 [State.keyStateCode v.state, v.usage, v.epoch, (if v.persist then 1 else 0) + (if v.required then 2 else 0)])

/-- HALT_FLUSH (R348): once per halt. `good`: the links whose key check passes. -/
def execHaltFlush (sid : Nat) (good : List Nat) (s : State) : Out :=
  .next (s.keyCommand sid (some rightHaltFlush) false fun _ s =>
    if !s.halted || s.flush.halt || s.flag TOP.HALT_FLUSH_DONE then s.spdmDone sid 8 [] else s.haltFlush sid good)

/-- HALT_FLUSH_COMPLETE (R348, steps 3 and 4): the anchor, the links stop, FLUSH_DONE, source 108, the counts; no clean-flush record. -/
def execHaltFlushComplete (s : State) : Out :=
  let f := s.flush
  if !f.halt || f.step ≠ 7 then .next s
  else
    let s1 := (s.anchorWrite.flushProgress.modFlush fun x => { clean := x.clean }).linksHalt
    .next (((s1.setF TOP.HALT_FLUSH_DONE 1).fire 108).spdmDone f.haltSid 0 [f.patches, f.lines - f.patches])

/-- KEY_COMMAND_UNKNOWN (R328). -/
def execKeyCommandUnknown (sid opcode : Nat) (s : State) : Out :=
  if 1 ≤ opcode && opcode ≤ 5 then .next s else .next (s.keyCommand sid none true fun _ s => s.spdmDone sid 2 [])

/-- CIP_KEY_CMD_RETIRE (R561): a write of CIP.KEY_CMD with RETIRE set. -/
def execCipKeyCmdRetire (m : Nat) (v : Word) (wrote : Bool) (s : State) : Out :=
  .next (s.regAction m 0x1b0004 true (State.keyCmdRetire v wrote))

/-- RETIRE_COMPLETE (R331 to R333): the retirements in progress go on; a flush pauses them, a halt has stopped them. -/
def execRetireComplete (s : State) : Out :=
  if s.flush.kind != .none || s.halted then .next s else .next (s.cip.retire.foldl (fun s r => s.retireStep r) s).healthCheck

/-! ### IDE (R336, R337) -/

/-- A secured session over DOE is open through a port (R327). -/
def State.doeSession (s : State) (port : Nat) : Bool := s.cip.sessions.any fun x => x.doe && x.ld < 16 && (s.ldOf x.ld).port == some port

/-- IDE_KM_KEY_PROGRAM (R336): keys are programmed in a session over DOE; with `go` the stream becomes Secure. -/
def execIdeKmKeyProgram (port : Nat) (mem go : Bool) (s : State) : Out :=
  if 4 ≤ port || !go || s.halted || !s.flag (HPT.LINK_STATUS_CXL port) || !s.doeSession port then .next s
  else .next (s.modCip fun c => { c with ide := Tab.set (fun _ => 0) c.ide (2 * port + (if mem then 1 else 0)) 1 })

/-- IDE_INTEGRITY_FAIL (R337): the stream is Insecure, source 102; in skid mode the writes of the failed MAC epoch that have committed are stored poisoned. -/
def execIdeIntegrityFail (port : Nat) (mem skid : Bool) (lines : List Nat) (s : State) : Out :=
  let k := 2 * port + (if mem then 1 else 0)
  if 4 ≤ port || Tab.get (fun _ => 0) s.cip.ide k ≠ 1 then .next s
  else
    let s1 := (s.modCip fun c => { c with ide := Tab.set (fun _ => 0) c.ide k 2 }).fire 102
    .next (if mem && skid then (lines.filter fun l => l < 2 ^ 39).foldl (fun s l => s.poisonLine l 0) s1 else s1).healthCheck

/-! ### Key checks (R343, R344) -/

/-- KEYCHK_FLIT_RECEIVED (R343): a wrong word halts the device; the first right one takes the link to step 4 of Table 12-4. -/
def execKeychkFlitReceived (slot : Nat) (h : FlitHead) (word : Nat) (s : State) : Out :=
  let (s1, ok) := s.rxFlit slot h true
  if !ok then .next s1
  else match s1.linkSession slot with
    | none => .next s1
    | some k =>
      if word ≠ State.checkWord k k.got true then .next (s1.halt slot 0 k.got).healthCheck
      else
        let s2 := (s1.setLinkSession slot (some { k with got := k.got + 1 })).countF (CIP.LINK_STATUS_CHECKS slot) 1
        .next (if (s2.link slot).step = 3 then s2.setLink slot { s2.link slot with step := 4 } else s2)

/-- KEYFAIL_FLIT_RECEIVED (R344): source 104, then the halt. -/
def execKeyfailFlitReceived (slot : Nat) (h : FlitHead) (s : State) : Out :=
  let (s1, ok) := s.rxFlit slot h true
  if !ok then .next s1
  else .next ((s1.fire 104).halt slot 1 (((s1.linkSession slot).map (·.got)).getD 0)).healthCheck

/-- KEYCHK_SEND (R343): due again every 2^20 flits transmitted. -/
def execKeychkSend (slot : Nat) (s : State) : Out :=
  match s.linkSession slot with
  | none => .next s
  | some k =>
    if (s.link slot).step < 4 || s.halted || (s.link slot).txCount < 2 ^ 20 * k.sent then .next s
    else .next ((s.setLinkSession slot (some { k with sent := k.sent + 1 })).sendFlit slot 5 [k.sent, State.checkWord k k.sent false])

end Sys2Proof.Machine
end

