-- ==== Sys2Proof/Machine/RegWrite.lean ====
section
/-!
DEFINITION. One write of one word of the register window, whichever path it takes (02, R50 to R65): its checks, the action of each register that has one, the
effect of each unit's seam.
-/
namespace Sys2Proof.Machine

/-- The supervisor as a master of Pattern writes: its rights are unrestricted (R50). -/
def supervisorMaster : Nat := 38

namespace State

/-! ### Checks (R51, R57, R58, R67, R306, R505, R520, R528) -/

/-- Conditions on the master whose failure is a bus error. -/
def regOnly (s : State) (m off : Nat) (v : Word) : Bool :=
  if off = 0xC || off = 0x80 || off = 0x84 || (0x100 ≤ off && off < 0x200) || off = 0x30008 || (0x30100 ≤ off && off < 0x30200) then isMgmt m
  else if off = 0x1a0030 then s.mgmtOrDebug m
  else if 0x120000 ≤ off && off < 0x130000 && off % 0x800 = 4 then isMgmt m || v.toNat % 8 = 0 || 3 < v.toNat % 8
  else if 0x34000 ≤ off && off < 0x3C000 then 0x39000 ≤ off
  else true

/-- The right that a write lacks, if any. -/
def writeMissing (s : State) (m off : Nat) (v : Word) : Option Nat :=
  if m = supervisorMaster then none
  else if (off = 0x30008 || (0x30100 ≤ off && off < 0x30200)) && !s.hasRight m rightHemWrite then some rightHemWrite
  else if 0x1c0100 ≤ off && off < 0x1c0200 && !isMgmt m && !s.hasRight m rightDebug then some rightDebug
  else if off = 0x50000 && v.toNat % 1024 < 32 && s.hasRight m rightRegWr && !s.hasRight m rightDebug then some rightDebug
  else if 0x51000 ≤ off && off < 0x52100 && !s.mayTarget m ((off - 0x51000) / 0x100) then some rightDebug
  else s.regMissing m off

/-- Outcome of a write, and the missing right of a denied one. -/
def writeJudge (s : State) (m off : Nat) (v : Word) : Access × Nat :=
  if (m < 16 && s.halted) || (!s.reachable off && m != supervisorMaster) || (findReg off).isNone || !s.regOnly m off v then (.busError, 0)
  else match s.writeMissing m off v with
    | some b => (.denied, b)
    | none => (.ok, 0)

/-- Outcome of a read (R57, R58, R350: a register read is permitted to every master). -/
def readJudge (s : State) (m off : Nat) : Access :=
  if (m < 16 && s.halted) || !s.reachable off || (findReg off).isNone then .busError else .ok

/-! ### Actions -/

/-- The cause bits of a group have changed: its bit of INT.SUMMARY follows (R527). -/
def summaryOf (g : Nat) (s : State) : State := s.setBitF INT.SUMMARY_GROUP g (decide (s.getF (INT.CAUSE_CAUSE g) ≠ 0))

/-- TOP.PTU_CMD is written (R52): discarded while BUSY; CMD 0 starts nothing. -/
def ptuStart (cmd : Nat) (s : State) : State :=
  if s.flag TOP.PTU_STATUS_BUSY || cmd = 0 then s
  else
    let bytes := (List.range 64).flatMap fun n => le 4 (s.getF (TOP.PTU_BUF_DATA n))
    let j : PtuJob := { cmd, slot := s.getF TOP.PTU_ADDR_SLOT, page := s.getF TOP.PTU_ADDR_PAGE, bytes }
    ((s.modPat fun p => { p with ptu := some j }).setF TOP.PTU_STATUS_BUSY 1).setF TOP.PTU_STATUS_CMD_LAST cmd

/-- CAR.CMD of slot n is written (Table 12-18). -/
def carWritten (n v : Nat) (s : State) : State := match v % 8 with
  | 1 => carCmd n (claimStart n) s
  | 2 => carCmd n (pairStart n) s
  | 3 => carCmd n (readmitNow n) s
  | 4 => carCmd n (locate n true) s
  | 5 => carCmd n (locate n false) s
  | _ => s

/-- CIP.KEY_CMD is written (Table 10-16). -/
def keyCmdWritten (v : Word) (s : State) : State :=
  if bit v.toNat 8 then s.keyCmdRetire v true
  else if s.flag CIP.KEY_CMD_STATUS_BUSY then s
  else s.setF CIP.KEY_CMD_SLOT v.toNat

/-- A write to a register without an action of its own: in force at once, held as a LO half, or in the shadow of its unit (R61, R65). -/
def plainWrite (m off : Nat) (d : RegDesc) (v : Word) (s : State) : State :=
  let s1 := (s.writeWord off d v.toNat).modPat fun p => { p with live := if m = supervisorMaster then p.live else p.live.filter (· != off) }
  if !d.seam then s1
  else match unitOf off with
    | some (_, _, so) => s1.putSliceDone (Tab.set (fun _ => 0) s1.sliceDone so 0)
    | none => s1

/-- The effect of a permitted write by master m. Registers are told apart by the base of their array. A write of PWRREQ with both bits set
acts on ON, then on OFF (DESIGN CHOICE, log 57). -/
def regPerform (m off : Nat) (d : RegDesc) (v : Word) (s : State) : State :=
  let n := v.toNat
  let b := d.base
  let at_ (stride : Nat) : Nat := (off - b) / stride
  let plain := s.plainWrite m off d v
  if b = 0xC then (let s1 := if bit n 1 then s.onRequest 3 else s; if bit n 0 then s1.offWritten else s1)
  else if b = 0x80 then s.ptuStart (n % 8)
  else if b = 0x30008 then (if bit n 31 then s.hemCmd (n % 1024) else s)
  else if b = 0x30010 then s.hemPageLoad (n % 1024)
  else if b = 0x34000 then s.tackStore (at_ 4) v
  else if b = 0x40020 then s.hamperRd v
  else if b = 0x50000 then s.fire (n % 1024)
  else if b = 0x50008 then plain.driveAlert
  else if b = 0x50080 then plain.summaryOf (at_ 4)
  else if b = 0x51000 || b = 0x51080 then plain.presentAll
  else if b = 0x51008 then s.ackTarget (at_ 0x100) (n % 1024)
  else if b = 0x60004 then (let s1 := if bit n 1 then s.zeroStart else s; if bit n 0 then s1.readStart else s1)
  else if b = 0x6002c then s.ringPop (n % 8192)
  else if b = 0x80008 then (if bit n 0 then s.retrainPort (at_ 0x4000) else s)
  else if b = 0x100008 then
    (let s1 := if bit n 1 then s.unquarantineCmd (at_ 0x1000) else s; if bit n 0 then s1.retrainCmd (at_ 0x1000) else s1)
  else if b = 0x120004 then s.carWritten (at_ 0x800) n
  else if b = 0x14002c then s.linOperate (n % 8) m (bit n 3)
  else if b = 0x150010 then s.pcuOperate (n % 8) m (n / 16 % 64)
  else if b = 0x160024 then s.darnWritten v
  else if b = 0x1a0030 then s.suspectClear n
  else if b = 0x1b0004 then s.keyCmdWritten v
  else if b = 0x1c0100 then s.injCtrl n
  else if b = 0x1c0210 then s.scrubCmd n
  else if b = 0x1d0000 then s.doorbell m v
  else if b = 0x1d0004 then s.modSpl fun p => { p with sel := Tab.set (fun _ => 0) p.sel m (n % 8192) }
  else if b = 0x1d0010 then s.ctxWrite m (at_ 4) v
  else if b = 0x200010 then (if bit n 0 then s.latClear (at_ 0x8000) else s)
  else if b = 0x300008 then s.dbgMemCmd m (n % 4)
  else if b = 0x300108 then s.dbgRawCmd m n
  else plain

/-- A write by master m of one word, with its checks: the state after it and its outcome. A denial is counted and recorded (R351). -/
def regWrite (m off : Nat) (v : Word) (s : State) : State × Access := match s.writeJudge m off v with
  | (.ok, _) => (match findReg off with | some d => s.regPerform m off d v | none => s, .ok)
  | (.denied, b) => (s.deny m 2 b 0 off, .denied)
  | (.busError, _) => (s, .busError)

/-! ### Seams (R61 to R64) -/

/-- Blocks whose registers are spread over the eight slices (Table 02-9). -/
def slicedBlock (b : Block) : Bool := b == .lin || b == .pcu || b == .coh || b == .scb

/-- What the shadows that have just been applied bring about in their unit. -/
def seamEffect (b : Block) (i : Nat) (s : State) : State := match b with
  | .top => if s.start.released then s.driveAlert.thermPin.flushUpdate else s.driveAlert.thermPin
  | .pws => if s.start.released then s.flushUpdate.admitWaiting else s
  | .thm => s.modTherm fun t => { t with fresh := true }
  | .grp => s.fenceUpdate
  | .hpt =>
    let s1 := if s.flag (HPT.LINK_STATUS_UP i) && !s.flag (HPT.LINK_CTRL_ENABLE i) then s.hostDown i else s
    s1.admitWaiting
  | .vlk =>
    if !s.flag (VLK.CTRL_ENABLE i) then
      (if (s.link i).step = 0 && !(s.link i).up then s else (((s.linkStop i 0).carFail i).cartGone i 0).reevaluate)
    else if s.canTrain i && (s.link i).step = 0 && !(s.link i).up then s.linkTrain i false
    else s
  | .lin => (s.cacheSeam false).dirtyChanged
  | .pcu => (s.cacheSeam true).dirtyChanged
  | .spl => s.splSeam.admitWaiting
  | .med => s.dirtyChanged
  | .kps | .hmp | .int | .pmc | .car | .xlt | .coh | .cip | .scb | .slc | .dbg => s

/-- The MED seam unseals the groups whose free bolts exceed the LOW threshold (R183). -/
def unsealGroups (s : State) : State :=
  s.plannedGroups.foldl (fun s g =>
    if s.flag (MED.GROUP_STATUS_SEALED g) && s.threshold g s.lowPct < s.groupFree g then
      (s.setF (MED.GROUP_STATUS_SEALED g) 0).fire 194
    else s) s

/-- Slice i applies the pending shadows of its block: until the last slice has, it alone runs under them (R62). -/
def sliceApply (b : Block) (i : Nat) (s : State) : State :=
  let (base, size) := unitRange b 0
  let mine := s.shadow.filter fun k _ => base ≤ k && k < base + size
  s.putSliceReg (mine.foldl (fun t e => Tab.set (fun _ => none) t (8 * e.1 + i % 8) e.2) s.sliceReg)

/-- A cache that is to be enabled once its disable procedure has ended is enabled at the first seam after it, with or without a pending shadow (R220). -/
def enableSeam (b : Block) (s : State) : State := match b with
  | .lin => s.cacheSeam false
  | .pcu => s.cacheSeam true
  | _ => s

/-- A unit reaches its seam. In a block spread over the slices, i is the slice: it applies the shadows for itself, and PEND clears with the last slice (R62); the disable procedure of a cache
begins with the last slice (log 39). -/
def seam (b : Block) (i : Nat) (s : State) : State :=
  let k := if slicedBlock b then 0 else i
  let (base, size) := unitRange b k
  let so := base + size - 4
  let pend := s.flag ⟨so, 31, 1⟩
  let done := Tab.get (fun _ => 0) s.sliceDone so ||| 2 ^ (i % 8)
  if slicedBlock b && done ≠ 255 then
    (if pend then (s.sliceApply b i).putSliceDone (Tab.set (fun _ => 0) s.sliceDone so done) else s).enableSeam b
  else
    let s0 := if b == .pmc then s.pmcSeam else s
    let s1 := if pend then (s0.applySeam b k).seamEffect b k else s0.enableSeam b
    let s2 := if slicedBlock b then s1.putSliceReg (s1.sliceReg.filter fun x _ => !(8 * base ≤ x && x < 8 * (base + size))) else s1
    let s3 := s2.putSliceDone (Tab.set (fun _ => 0) s2.sliceDone so 0)
    if b == .med then s3.unsealGroups else s3

end State

end Sys2Proof.Machine
end

