-- ==== Sys2Proof/Machine/Pattern.lean ====
section
/-!
DEFINITION. The Pattern (02, R36 to R55): its validation, the payload checks of each plan record, the choice of a slot, the loading of the register values, and
the update commands.
-/
namespace Sys2Proof.Machine

/-- A little-endian field of a payload. -/
def fieldOf (b : List Byte) (o n : Nat) : Nat := ofLe ((b.drop o).take n)

/-- Entries of n bytes from offset o on. -/
def entriesOf (b : List Byte) (o n : Nat) : List (List Byte) := (List.range ((b.length - o) / n)).map fun i => (b.drop (o + n * i)).take n

/-- No two spans (first, length) with a length overlap. -/
def disjoint : List (Nat × Nat) → Bool
  | [] => true
  | (a, n) :: rest => rest.all (fun x => n = 0 || x.2 = 0 || a + n ≤ x.1 || x.1 + x.2 ≤ a) && disjoint rest

/-! ### Records (R41, R42) -/

/-- The records of a body, END included; none where one is malformed or END is misplaced. The first argument bounds their number. -/
def parseRecords : Nat → List Byte → Option (List PRec)
  | 0, _ => none
  | n + 1, b =>
    let typ := fieldOf b 0 2
    let flags := fieldOf b 2 2
    let len := fieldOf b 4 4
    if b.length < 8 || 4 ≤ flags || len % 4 ≠ 0 || b.length < 8 + len then none
    else if typ = 0 then (if len = 0 && b.length = 8 then some [⟨0, flags, []⟩] else none)
    else (parseRecords n (b.drop (8 + len))).map fun l => ⟨typ, flags, (b.drop 8).take len⟩ :: l

def PRec.live (r : PRec) : Bool := bit r.flags 0
def PRec.optional (r : PRec) : Bool := bit r.flags 1

/-- Payload of the first record of a type. -/
def payloadOf (l : List PRec) (typ : Nat) : Option (List Byte) := (l.find? fun r => r.typ == typ).map (·.payload)

/-- The entries of a REG_WRITE payload (Table 02-4). -/
def regEntries (b : List Byte) : List RegEntry := (entriesOf b 0 12).map fun e => { addr := fieldOf e 0 4, mask := fieldOf e 4 4, value := fieldOf e 8 4 }

/-- The entries of every REG_WRITE record, in body order. -/
def allEntries (l : List PRec) : List RegEntry := (l.filter fun r => r.typ == 1).flatMap fun r => regEntries r.payload

/-! ### Payload checks (validation result 10) -/

/-- CAPACITY_PLAN (R177, Table 05-6). -/
def capacityOk (o : Order) (b : List Byte) : Bool :=
  let g := fieldOf b 4 1
  b.length = 8 && fieldOf b 0 4 ≤ (match o with | .h72 => 32768 | .h48 => 20480) && 1 ≤ g && g < 16 && 4 ≤ fieldOf b 5 1 && fieldOf b 5 1 ≤ 36 && fieldOf b 6 2 = 0

/-- A region descriptor (Table 07-1). -/
def descRegion (e : List Byte) : Region :=
  let f := fieldOf e 11 1
  { base := fieldOf e 0 4, size := fieldOf e 4 4, ldMask := fieldOf e 8 2, keyId := fieldOf e 10 1, db := bit f 0, streaming := bit f 1, dcd := bit f 2,
    index := fieldOf e 12 1, dcdBlock := fieldOf e 13 1 }

def regionsOf (b : List Byte) : List Region := (entriesOf b 4 16).map descRegion

/-- LD_REGION_PLAN (R225, R226); `top`: the end of the mapped capacity in units of 256 MiB. A DCD region is aligned to its extent
block, of 256 MiB at most, since it is given in units of 256 MiB. -/
def regionsOk (top : Nat) (b : List Byte) : Bool :=
  let n := fieldOf b 0 1
  let l := regionsOf b
  let one (e : List Byte) : Bool :=
    let r := descRegion e
    r.size ≠ 0 && r.ldMask ≠ 0 && fieldOf e 11 1 < 8 && r.index < 8 && fieldOf e 14 2 = 0 && r.base + r.size ≤ top
      && (if r.dcd then 21 ≤ r.dcdBlock && r.dcdBlock ≤ 28 else r.dcdBlock = 0)
  let ldOk (ld : Nat) : Bool :=
    let ix := (l.filter fun r => Nat.testBit r.ldMask ld).map (·.index)
    ix.length ≤ 8 && ix.eraseDups.length = ix.length
  1 ≤ n && n ≤ 128 && fieldOf b 1 3 = 0 && b.length = 4 + 16 * n && (entriesOf b 4 16).all one && disjoint (l.map fun r => (r.base, r.size)) && (List.range 16).all ldOk

/-- KEY_POLICY (R323, Table 10-4). -/
def keyPolicyOk (b : List Byte) : Bool :=
  let roots := fieldOf b 0 1
  let link := fieldOf b 1 1
  let slot (k : Nat) : Nat := fieldOf b (0xD8 + k) 1
  let links := (List.range 256).filter fun k => slot k % 4 == 3
  let rootOk (r : Nat) : Bool :=
    let e := (b.drop (8 + 52 * r)).take 52
    if r < roots then fieldOf e 48 1 ≤ 3 && fieldOf e 49 3 = 0 else e.all (· == 0)
  b.length = 1840 && roots ≤ 4 && fieldOf b 2 6 = 0 && (List.range 4).all rootOk && slot 0 = 0 && (List.range 256).all (fun k => slot k < 16)
    && links.length ≤ 1 && (link = 0 || links.contains link) && (List.range 38).all fun m => fieldOf b (0x1D8 + 36 * m + 32) 4 < 1024

/-- RAIL_PLAN (R471, R472). -/
def railsOk (b : List Byte) : Bool :=
  let used := fieldOf b 10 2
  let one (r : Nat) : Bool :=
    let e := (b.drop (16 + 16 * r)).take 16
    let warn := fieldOf e 8 1
    if Nat.testBit used r then fieldOf e 12 4 = 0 && 1 ≤ fieldOf e 4 2 && (warn = 0 || warn < fieldOf e 9 1) else e.all (· == 0)
  b.length = 272 && fieldOf b 0 1 ≤ 1 && fieldOf b 1 1 ≤ 7 && 1 ≤ fieldOf b 2 2 && 10 ≤ fieldOf b 4 2 && fieldOf b 6 2 ≤ 1500 && fieldOf b 12 4 = 0
    && used % 2048 = 2047 && (List.range 16).all one

/-- THERMAL_PLAN (R490). -/
def thermalOk (b : List Byte) : Bool :=
  let v (c i : Nat) : Int := signed8 (fieldOf b (4 + 8 * c + i) 1)
  let rising (c : Nat) : Bool := v c 0 < v c 1 && v c 1 < v c 2 && v c 2 < v c 3 && v c 3 < v c 4
  b.length = 28 && 1 ≤ fieldOf b 0 1 && fieldOf b 0 1 ≤ 7 && 1 ≤ fieldOf b 1 1 && fieldOf b 1 1 ≤ 15 && fieldOf b 2 2 = 0
    && (List.range 3).all (fun c => fieldOf b (9 + 8 * c) 3 = 0) && rising 0 && rising 1 && -40 ≤ v 0 0 && v 0 4 ≤ 120 && v 1 4 ≤ 105
    && v 2 0 = 0 && v 2 3 = 0 && v 2 1 < v 2 2 && v 2 2 < v 2 4 && v 2 4 ≤ 95

/-- Ranges of a GROUP_PLAN (Table 15-1): base, length in units of 256 MiB, LD_MASK. -/
def groupRanges (b : List Byte) : List (Nat × Nat × Nat) := (entriesOf b 16 16).map fun e => (fieldOf e 0 4, fieldOf e 4 4, fieldOf e 8 2)

/-- GROUP_PLAN (R451, R452). -/
def groupOk (regions : List Region) (b : List Byte) : Bool :=
  let size := fieldOf b 8 1
  let n := fieldOf b 11 1
  let one (x : Nat × Nat × Nat) : Bool :=
    let lo := x.1
    let hi := x.1 + x.2.1
    let cover := (regions.filter fun r => r.ldMask == x.2.2).foldl (fun a r => a + (min hi (r.base + r.size) - max lo r.base)) 0
    x.2.1 ≠ 0 && cover = hi - lo && !regions.any fun r => r.dcd && r.base < hi && lo < r.base + r.size
  [2, 4, 8].contains size && fieldOf b 9 1 < size && 8 ≤ fieldOf b 10 1 && fieldOf b 10 1 ≤ 14 && 1 ≤ n && n ≤ 8 && fieldOf b 12 4 = 0 && b.length = 16 + 16 * n
    && (entriesOf b 16 16).all (fun e => fieldOf e 10 6 = 0) && (groupRanges b).all one && disjoint ((groupRanges b).map fun x => (x.1, x.2.1))

/-- A SPOOL_DEFAULTS entry (Table 13-2). -/
def spoolOwnerOf (e : List Byte) : SpoolOwner :=
  { owner := fieldOf e 0 1, subFirst := fieldOf e 2 2, subCount := fieldOf e 4 2, cplFirst := fieldOf e 6 2, cplCount := fieldOf e 8 2,
    winBase := fieldOf e 10 2, winSize := fieldOf e 12 2 }

def spoolOwners (b : List Byte) : List SpoolOwner := (entriesOf b 4 16).map spoolOwnerOf

/-- SPOOL_DEFAULTS (R420, R421). -/
def spoolsOk (b : List Byte) : Bool :=
  let n := fieldOf b 0 1
  let l := spoolOwners b
  let one (e : List Byte) : Bool :=
    let o := spoolOwnerOf e
    o.owner ≤ 16 && fieldOf e 1 1 = 0 && fieldOf e 14 2 = 0 && o.subFirst + o.subCount ≤ 4096 && 4096 ≤ o.cplFirst && o.cplFirst + o.cplCount ≤ 8192
      && 16 ≤ o.winBase && o.winBase + o.winSize ≤ 1024
  1 ≤ n && n ≤ 17 && fieldOf b 1 3 = 0 && b.length = 4 + 16 * n && (entriesOf b 4 16).all one && (l.map (·.owner)).eraseDups.length = l.length
    && disjoint (l.map fun o => (o.subFirst, o.subCount)) && disjoint (l.map fun o => (o.cplFirst, o.cplCount)) && disjoint (l.map fun o => (o.winBase, o.winSize))

/-- Units of 256 MiB of the mapped capacity that a plan may use (R226). -/
def planTop (o : Order) (l : List PRec) : Nat :=
  let m := (payloadOf l 2).elim 0 fun b => fieldOf b 0 4
  if m ≠ 0 then 4 * m else maxMapped o / 2 ^ 28

/-- The payload of a record keeps to its rules. -/
def payloadOk (o : Order) (l : List PRec) (r : PRec) : Bool :=
  if r.typ = 1 then r.payload.length % 12 = 0
  else if r.typ = 2 then capacityOk o r.payload
  else if r.typ = 3 then regionsOk (planTop o l) r.payload
  else if r.typ = 4 then keyPolicyOk r.payload
  else if r.typ = 5 then railsOk r.payload
  else if r.typ = 6 then thermalOk r.payload
  else if r.typ = 7 then groupOk ((payloadOf l 3).elim [] regionsOf) r.payload
  else if r.typ = 8 then spoolsOk r.payload
  else r.typ = 0 || r.optional

/-- A REG_WRITE entry keeps to the block map and to the access type of its target (R43). -/
def entryOk (e : RegEntry) : Bool := match findReg e.addr with
  | none => false
  | some d =>
    if d.fields.any fun f => f.acc == .mw then e.mask < 65536
    else if d.fields.all fun f => f.acc == .ro then e.mask = 0
    else true

/-- Checks 10 to 12 of Table 02-5 on a body: the result, and the records. -/
def judgeBody (o : Order) (body : List Byte) : Nat × List PRec := match parseRecords (body.length + 1) body with
  | none => (10, [])
  | some l =>
    let types := (l.map (·.typ)).filter (· != 1)
    if types.eraseDups.length ≠ types.length || !types.contains 2 || !types.contains 5 || !l.all (payloadOk o l) then (10, l)
    else if !(allEntries l).all entryOk then (11, l)
    else if l.any fun r => r.live && r.typ ≤ 8 && !([1, 6, 8].contains r.typ) then (12, l)
    else (0, l)

/-! ### Slots (R44 to R48) -/

/-- Flash address of a slot. -/
def slotBase (slot : Nat) : Nat := 0x800000 * slot

/-- What the checks of Table 02-5 give for a slot. -/
structure SlotCheck where
  result  : Nat
  version : Nat := 0
  length  : Nat := 0
  signed  : Bool := false
  recs    : List PRec := []
deriving DecidableEq, Repr

namespace State

/-- Bytes of the flash. -/
def flashBytes (s : State) (a n : Nat) : List Byte := (List.range n).map fun i => Tab.get (fun _ => (0xFF : Byte)) s.pat.flash (a + i)

/-- Check 9 of Table 02-5: the digest of the signer's key is the fused hash, and the signature over header bytes 0x00 to 0x1F and the body verifies under that key (R39, R40). -/
def signatureOk (s : State) (slot len : Nat) (hash : List Nat) : Bool :=
  let h := s.flashBytes (slotBase slot) 256
  let part (o : Nat) : List Byte := (h.drop o).take 48
  let be (o : Nat) : Nat := ofLe (part o).reverse
  Config.sha384 (4 :: (part 0x80 ++ part 0xB0).map (·.toNat)) == hash
    && Config.ecdsaP384 (Config.sha384 (s.patternInput (slotBase slot) len)) (be 0x20) (be 0x50) (be 0x80) (be 0xB0)

/-- Validation of a slot (R44, Table 02-5). `readable`: the flash answers and its SFDP tables are good (R38). A slot that an interrupted erase or program has left invalid gives one of results 1 to 6, which one being open (R55): a free value. -/
def slotCheck (s : State) (slot : Nat) (readable : Bool) : SlotCheck :=
  let h := s.flashBytes (slotBase slot) 256
  let len := fieldOf h 12 4
  let flags := fieldOf h 6 2
  let c : SlotCheck := { result := 0, version := fieldOf h 8 4, length := len, signed := bit flags 0 }
  if !readable then { result := 13 }
  else if Tab.get (fun _ => false) s.pat.torn slot then { c with result := 1 + s.freeVal % 6 }
  else if fieldOf h 0 4 = 0xFFFFFFFF then { c with result := 1 }
  else if fieldOf h 0 4 ≠ 0x54505850 then { c with result := 2 }
  else if fieldOf h 4 2 ≠ 1 || 1 < flags || fieldOf h 0x16 6 ≠ 0 then { c with result := 3 }
  else if fieldOf h 0x1C 4 ≠ crc32c (h.take 0x1C) then { c with result := 4 }
  else if len % 4 ≠ 0 || 0x7FFF00 < len then { c with result := 5 }
  else
    let body := s.flashBytes (slotBase slot + 256) len
    if fieldOf h 0x10 4 ≠ crc32c body then { c with result := 6 }
    else if fieldOf h 0x14 2 ≠ (match s.order with | .h72 => 0x72 | .h48 => 0x48) then { c with result := 7 }
    else if s.pat.keyHash.isSome && !c.signed then { c with result := 8 }
    else if s.pat.keyHash.any (fun k => !s.signatureOk slot len k) then { c with result := 9 }
    else
      let (r, l) := judgeBody s.order body
      { c with result := r, recs := l }

/-- Active slot: 0, 1, or 3 for none. -/
def activeSlot (s : State) : Nat := s.getF TOP.PATTERN_STATUS_ACTIVE

/-- VERSION that a slot's header holds. -/
def slotVersion (s : State) (slot : Nat) : Nat := fieldOf (s.flashBytes (slotBase slot) 16) 8 4

/-- A slot is known to be valid. -/
def slotValid (slot : Nat) (b : Bool) (s : State) : State := s.modPat fun p => { p with valid := Tab.set (fun _ => false) p.valid slot b }

/-- A slot's result at a start or at a VERIFY (Table 02-17), and its validity. -/
def slotResult (slot r : Nat) (s : State) : State :=
  (s.slotValid slot (r == 0)).setF (if slot = 0 then TOP.PATTERN_STATUS_A_RESULT else TOP.PATTERN_STATUS_B_RESULT) r

/-- TOP.PATTERN_VER and TOP.PATTERN_VER_ALT (Table 02-18), AUTH (R45). -/
def patternRegs (s : State) : State :=
  let a := s.activeSlot
  let other := 1 - a
  let s1 := s.setF TOP.PATTERN_VER_VERSION (if a = 3 then 0 else s.slotVersion a)
  let alt := if a ≠ 3 && Tab.get (fun _ => false) s.pat.valid other then s.slotVersion other else 0
  ((s1.setF TOP.PATTERN_VER_ALT_VERSION alt).setFlag TOP.PATTERN_STATUS_AUTH (s.pat.keyHash.isSome && a != 3)).setFlag TOP.PATTERN_STATUS_KEYHASH_FUSED s.pat.keyHash.isSome

/-- A slot becomes the active one. -/
def activate (slot len : Nat) (s : State) : State :=
  ((s.setF TOP.PATTERN_STATUS_ACTIVE slot).modPat fun p => { p with active := (slotBase slot, len) })

/-- Source 43 with its record (R47, Table 17-8). -/
def slotInvalid (slot : Nat) (c : SlotCheck) (s : State) : State := s.fireRec 0x0201 43 (le 1 slot ++ le 1 c.result ++ le 4 c.version)

/-! ### Loading register values (R43, R50) -/

/-- The word that an entry writes to a register (R43): fields of type RW keep their unmasked bits, every other field takes VALUE & MASK; an MW register
takes MASK as its select half. -/
def entryWord (d : RegDesc) (e : RegEntry) (old : Nat) : Nat :=
  if d.fields.any fun f => f.acc == .mw then e.mask % 65536 * 65536 + e.value % 65536
  else d.fields.foldl (fun a f =>
    let m := 2 ^ f.w
    let part (x : Nat) : Nat := x / 2 ^ f.lo % m
    let new := part e.value &&& part e.mask
    let kept := if f.acc == .rw then part old &&& (m - 1 - part e.mask) else 0
    a + (new ||| kept) * 2 ^ f.lo) 0

/-- An entry is applied by the supervisor: directly at a start (R50), through the shadow of a seam-applied register in a live application (R54). What only the management
endpoint may write is not written. -/
def applyEntry (direct : Bool) (e : RegEntry) (s : State) : State := match findReg e.addr with
  | none => s
  | some d =>
    let v := BitVec.ofNat 32 (entryWord d e (s.viewWord supervisorMaster e.addr).toNat)
    if !s.regOnly supervisorMaster e.addr v then s
    else if d.seam && direct && d.base ≠ 0x1d0010 then s.loadWord e.addr (BitVec.ofNat 32 (pinned s.seq.planned e.addr (d.write (s.reg e.addr).toNat v.toNat)))
    else
      let s1 := s.regPerform supervisorMaster e.addr d v
      if d.seam then s1.modPat fun p => { p with live := p.live ++ [e.addr] } else s1

/-- The block of an entry. -/
def entryBlock (e : RegEntry) : Option Block := (unitOf e.addr).map (·.1)

/-- Entries are applied block by block, in body order within each (R50). -/
def applyBlocks (blocks : List Block) (l : List RegEntry) (s : State) : State :=
  blocks.foldl (fun s b => (l.filter fun e => entryBlock e == some b).foldl (fun s e => s.applyEntry true e) s) s

/-- Blocks loaded at the end of step 2, and those loaded at core release. -/
def islandBlocks : List Block := [.top, .pws, .thm, .kps, .hmp, .int, .grp]
def coreBlocks : List Block := [.pmc, .hpt, .vlk, .car, .lin, .pcu, .xlt, .med, .coh, .cip, .scb, .spl, .slc, .dbg]

/-- Registers at their reset values again. -/
def loadReset (offs : List Nat) (s : State) : State := offs.foldl (fun s off => s.loadWord off (regReset off)) s

def railOffsets : List Nat := [0x10000, 0x10004, 0x10010, 0x10020] ++ (List.range 16).flatMap fun r => [0x10100 + 16 * r, 0x10104 + 16 * r, 0x10108 + 16 * r]
def thermalOffsets : List Nat := 0x20000 :: (List.range 3).flatMap fun c => [0x20010 + 8 * c, 0x20014 + 8 * c]

/-- Values of a RAIL_PLAN in the PWS block (R473); the safe plan without one (R486). -/
def railValues (b : List Byte) : List (Nat × Nat) :=
  let f (o n : Nat) : Nat := fieldOf b o n
  [(0x10000, f 2 2 * 65536 + f 0 1 * 256 + f 1 1), (0x10004, f 4 2 * 65536), (0x10010, f 8 2 * 65536 + f 6 2), (0x10020, f 10 2)]
    ++ (List.range 16).flatMap fun r =>
      let o := 16 + 16 * r
      [(0x10100 + 16 * r, f (o + 2) 2 * 65536 + f o 2), (0x10104 + 16 * r, f (o + 4) 2 * 65536 + f (o + 6) 2),
       (0x10108 + 16 * r, f (o + 10) 2 * 65536 + f (o + 9) 1 * 256 + f (o + 8) 1)]

/-- Values of a THERMAL_PLAN in the THM block (R490). -/
def thermalValues (b : List Byte) : List (Nat × Nat) :=
  let f (o : Nat) : Nat := fieldOf b o 1
  (0x20000, f 1 * 16 + f 0) :: (List.range 3).flatMap fun c =>
    let o := 4 + 8 * c
    [(0x20010 + 8 * c, f (o + 2) * 2 ^ 24 + f (o + 1) * 65536 + f o * 256), (0x20014 + 8 * c, f (o + 4) * 256 + f (o + 3))]

def loadValues (l : List (Nat × Nat)) (s : State) : State := l.foldl (fun s e => s.loadWord e.1 (BitVec.ofNat 32 e.2)) s

/-- The rights sets of a KEY_POLICY (R323, R352). -/
def rightsValues (b : List Byte) : List (Nat × Nat) := (List.range 38).flatMap fun m => (List.range 9).map fun w => (0x1b0800 + 64 * m + 4 * w, fieldOf b (0x1D8 + 36 * m + 4 * w) 4)

/-- A GROUP_PLAN with the descriptors that R460 takes into the fingerprint. -/
def groupPlanOf (b : List Byte) (regions : Option (List Byte)) : GroupPlan :=
  let rs := groupRanges b
  let meets (e : List Byte) : Bool := rs.any fun x => fieldOf e 0 4 < x.1 + x.2.1 && x.1 < fieldOf e 0 4 + fieldOf e 4 4
  { groupId := fieldOf b 0 8, index := fieldOf b 9 1, size := fieldOf b 8 1, payload := b,
    ranges := rs.map fun x => (x.1 * 2 ^ 28, x.2.1 * 2 ^ 28), descs := (((regions.elim [] fun p => entriesOf p 4 16).filter meets).flatten) }

/-- The plan of a Pattern; the group plan in force stays until step 4 (R451). -/
def planOf (s : State) (l : List PRec) : Plan :=
  let cap := (payloadOf l 2).getD []
  { mappedGib := fieldOf cap 0 4, groups := fieldOf cap 4 1, plogGib := fieldOf cap 5 1, regions := (payloadOf l 3).elim [] regionsOf,
    spools := (payloadOf l 8).map spoolOwners, group := s.plan.group, groupNext := (payloadOf l 7).map fun b => groupPlanOf b (payloadOf l 3),
    keyPolicy := payloadOf l 4, thermal := payloadOf l 6, rails := payloadOf l 5,
    coreRegs := (allEntries l).filter fun e => (entryBlock e).any fun b => coreBlocks.contains b }

/-- The supervisor blocks take the values of a start (R50): those of the plan records, then the entries; without a record the defaults (R486, R490). -/
def islandLoad (l : List PRec) (s : State) : State :=
  let s0 := (s.loadReset (railOffsets ++ thermalOffsets)).modSeq fun q => { q with planned := (payloadOf l 5).isSome }
  let s1 := (s0.loadValues ((payloadOf l 5).elim [] railValues)).loadValues ((payloadOf l 6).elim [] thermalValues)
  (((s1.applyBlocks islandBlocks (allEntries l)).driveAlert).thermPin).modTherm fun t => { t with fresh := true }

/-- The blocks of the core take the values of a start at core release (R50). -/
def coreLoad (s : State) : State := (s.loadValues (s.plan.keyPolicy.elim [] rightsValues)).applyBlocks coreBlocks s.plan.coreRegs

/-! ### Step 2 (R442, R443, R484) -/

/-- The sequence numbers of the valid fault-log records of the ring in mode m (R484, Table 16-5). -/
def flogSeqs (s : State) (m : Nat) : List Nat :=
  let w := flogWords m
  (List.range (flogPlaces m)).filterMap fun i =>
    let b := s.tackBytes (0x1000 + w * i) w
    if ofLe ((b.drop (4 * w - 4)).take 4) = crc32c (b.take (4 * w - 4)) then some (ofLe (b.take 2)) else none

/-- The next fault-log SEQ: one more than the newest record's, 0 with no valid record (R484). -/
def flogNext (s : State) (m : Nat) : Nat :=
  let l := s.flogSeqs m
  match l.find? fun q => l.all fun r => (q + 65536 - r) % 65536 < flogPlaces m with
  | some q => (q + 1) % 65536
  | none => 0

/-- The fault-log mode in force is that of PWS.SEQ_CTRL at the end of step 2 (R484). A ring of another mode is cleared, and the next SEQ is 0; else it follows the newest
record. Records that wait for Tack keep their numbers. -/
def flogStart (s : State) : State :=
  let mode := s.getF PWS.SEQ_CTRL_FLOG_MODE
  let s1 := s.modFLog fun l => { l with mode }
  let next := if !s1.flog.holding.isEmpty then s1.flog.nextSeq else if s1.flogSame then s1.flogNext mode else 0
  ((s1.flogClear.modFLog fun l => { l with nextSeq := next }).setF PWS.FLOG_STATUS_NEXT_SEQ next).setF PWS.FLOG_STATUS_NEXT (next % flogPlaces mode)

/-- The end of step 2: the start-inhibit check, then the power-up. -/
def stepTwoEnd (s : State) : State :=
  let s1 := s.flogStart
  if s1.tooCold then s1.startCause 1 false else s1.stepTwoDone

/-- Neither slot is valid: safe state (R48). The rails come up under the safe plan. -/
def safeState (s : State) : State :=
  let s1 := (((s.setF TOP.PATTERN_STATUS_ACTIVE 3).modPat fun p => { p with active := (0, 0) }).patternRegs.fire 6).startCause 2 true
  let s2 := s1.putPlan { group := s.plan.group }
  let s3 := ((s2.islandLoad []).setF TOP.STATE_STATE 2).flogStart
  if s3.seq.state == .on then ([5, 6, 7, 11, 12, 13, 14].foldl (fun s r => s.railOff r) s3).modSeq fun q => { q with used := s3.getF PWS.RAIL_USED_USED }
  else s3.powerUpBegin

/-! ### Update commands (R51 to R55) -/

/-- Records of R53 that a live application leaves as they are. -/
def fixedRecs (l : List PRec) : List PRec := l.filter fun r => !r.live

/-- A shadow of an earlier live application is still pending (R53). -/
def livePending (s : State) : Bool := s.pat.live.any fun off => (Tab.get (fun _ => none) s.shadow off).isSome

/-- LIVE_APPLY proceeds (R53, R54). Entries to blocks that do not answer before core release are skipped (DESIGN CHOICE, log 55). -/
def liveApply (slot : Nat) (c : SlotCheck) (s : State) : State :=
  let live := c.recs.filter PRec.live
  let s0 := s.modPat fun p => { p with live := [] }
  let thermal := (payloadOf live 6).elim [] thermalValues
  let s1 := thermal.foldl (fun s e => match findReg e.1 with
    | some d => (s.plainWrite supervisorMaster e.1 d (BitVec.ofNat 32 e.2)).modPat fun p => { p with live := p.live ++ [e.1] }
    | none => s) s0
  let s2 := ((allEntries live).filter fun e => s.reachable e.addr).foldl (fun s e => s.applyEntry false e) s1
  let s3 := s2.putPlan { s.planOf c.recs with group := s.plan.group, groupNext := s.plan.groupNext }
  let s4 := match payloadOf live 8 with
    | some b => if s.start.released then s3.modSpl fun p => { p with owners := p.owners ++ [spoolOwners b] } else s3
    | none => s3
  let s5 := ((s4.activate slot c.length).slotValid slot true).setF TOP.PATTERN_STATUS_LIVE 1
  s5.patternRegs.fire 45

/-- A slot is no longer known to be valid. -/
def slotUnset (slot : Nat) (s : State) : State :=
  (s.modPat fun p => { p with valid := Tab.set (fun _ => false) p.valid slot false }).patternRegs

/-- Whether an interrupted command has left a slot invalid (R55). -/
def setTorn (slot : Nat) (b : Bool) (s : State) : State := s.modPat fun p => { p with torn := Tab.set (fun _ => false) p.torn slot b }

/-- Erase a slot: its 8 MiB read 0xFF (R38). -/
def flashErase (slot : Nat) (s : State) : State :=
  let b := slotBase slot
  s.putPat { s.pat with flash := Tab.filter (fun k _ => k < b || b + 0x800000 ≤ k) s.pat.flash }

/-- Program 256 bytes: a program only clears bits (R38). -/
def flashProgram (a : Nat) (bs : List Byte) (s : State) : State :=
  let one (t : Tab Byte) (i : Nat) : Tab Byte :=
    Tab.set (fun _ => 0xFF) t (a + i) (Tab.get (fun _ => (0xFF : Byte)) t (a + i) &&& bs.getD i 0xFF)
  s.putPat { s.pat with flash := (List.range 256).foldl one s.pat.flash }

/-- Fill TOP.PTU_BUF. -/
def ptuFill (bs : List Byte) (s : State) : State :=
  (List.range 64).foldl (fun s n => s.setF (TOP.PTU_BUF_DATA n) (fieldOf bs (4 * n) 4)) s

/-- What a command of Table 02-6 does, and its result. A flash error of ERASE_SLOT or PROGRAM leaves the slot torn, as an interruption does (DESIGN CHOICE, log 54); LIVE_APPLY
with no active slot answers 14 (DESIGN CHOICE, log 55). `flashOk`: the flash did what ERASE_SLOT, PROGRAM or READ asked of it; `readOk`: the slot could be read (R44). -/
def ptuRun (j : PtuJob) (flashOk readOk : Bool) (s : State) : State × Nat :=
  match j.cmd with
  | 1 =>
    if j.slot = s.activeSlot then (s, 14)
    else if !flashOk then ((s.setTorn j.slot true).slotUnset j.slot, 15)
    else (((s.flashErase j.slot).setTorn j.slot false).slotUnset j.slot, 0)
  | 2 =>
    if j.slot = s.activeSlot then (s, 14)
    else if !flashOk then ((s.setTorn j.slot true).slotUnset j.slot, 15)
    else ((s.flashProgram (slotBase j.slot + 256 * j.page) j.bytes).slotUnset j.slot, 0)
  | 3 =>
    if !flashOk then (s, 15)
    else (s.ptuFill (s.flashBytes (slotBase j.slot + 256 * j.page) 256), 0)
  | 4 =>
    let c := s.slotCheck j.slot readOk
    let s1 := if Tab.get (fun _ => false) s.pat.torn j.slot then s.freeStep else s
    ((s1.slotResult j.slot c.result).patternRegs, c.result)
  | 5 =>
    let c := s.slotCheck j.slot readOk
    let old := (parseRecords (s.pat.active.2 + 1) (s.flashBytes (s.pat.active.1 + 256) s.pat.active.2)).getD []
    if s.activeSlot = 3 || c.result ≠ 0 || c.version ≤ s.getF TOP.PATTERN_VER_VERSION || fixedRecs c.recs ≠ fixedRecs old || s.livePending then (s, 14)
    else (s.liveApply j.slot c, 0)
  | _ => (s, 14)

/-- A write of TOP.PTU_CMD (R51). -/
def ptuWrite (m cmd : Nat) (s : State) : State := s.regAction m 0x80 (isMgmt m) (ptuStart cmd)

end State

/-- PATTERN_LOAD (R38, R44 to R50): both slots have been read. `flashOk`: the flash parameter tables are valid; `readA`, `readB`: that slot could be read (result 13 of Table 02-5). -/
def execPatternLoad (flashOk readA readB : Bool) (s : State) : Out :=
  if s.start.step ≠ 2 || s.start.failed.isSome || s.start.waiting.isSome || s.topState ≠ 1 then .next s
  else
    let a := s.slotCheck 0 (flashOk && readA)
    let s1 := if a.result ≠ 0 then (s.slotResult 0 a.result).slotInvalid 0 a else s.slotResult 0 0
    let s2 := if Tab.get (fun _ => false) s.pat.torn 0 then s1.freeStep else s1
    let b := s2.slotCheck 1 (flashOk && readB)
    let s3 := if b.result ≠ 0 then (s2.slotResult 1 b.result).slotInvalid 1 b else s2.slotResult 1 0
    let s4 := (if Tab.get (fun _ => false) s.pat.torn 1 then s3.freeStep else s3).setF TOP.PATTERN_STATUS_LIVE 0
    if a.result ≠ 0 && b.result ≠ 0 then .next s4.safeState.healthCheck
    else
      let useA := a.result = 0 && (b.result ≠ 0 || b.version ≤ a.version)
      let c := if useA then a else b
      let s5 := (s4.activate (if useA then 0 else 1) c.length).patternRegs
      .next (((s5.putPlan (s5.planOf c.recs)).islandLoad c.recs).stepTwoEnd).healthCheck

/-- ERASE_SLOT (R52). -/
def execEraseSlot (m : Nat) (s : State) : Out := .next (s.ptuWrite m 1)

/-- PTU_PROGRAM (R52). -/
def execPtuProgram (m : Nat) (s : State) : Out := .next (s.ptuWrite m 2)

/-- PTU_READ (R52). -/
def execPtuRead (m : Nat) (s : State) : Out := .next (s.ptuWrite m 3)

/-- PTU_VERIFY (R52). -/
def execPtuVerify (m : Nat) (s : State) : Out := .next (s.ptuWrite m 4)

/-- LIVE_APPLY (R53): the command starts; its effect comes with PTU_COMMAND_DONE. -/
def execLiveApply (m : Nat) (s : State) : Out := .next (s.ptuWrite m 5)

/-- PTU_RESERVED_CMD (R52). -/
def execPtuReservedCmd (m cmd : Nat) (s : State) : Out := if cmd = 6 || cmd = 7 then .next (s.ptuWrite m cmd) else .next s

/-- PTU_COMMAND_DONE (R52): source 44. `flashOk`: the flash has done what the command asked of it; `readOk`: the slot that VERIFY or LIVE_APPLY validates could be read. -/
def execPtuCommandDone (flashOk readOk : Bool) (s : State) : Out := match s.pat.ptu with
  | none => .next s
  | some j =>
    let (s1, r) := (s.modPat fun p => { p with ptu := none }).ptuRun j flashOk readOk
    .next ((((s1.setF TOP.PTU_STATUS_RESULT r).setF TOP.PTU_STATUS_BUSY 0).setF TOP.PTU_STATUS_DONE 1).fire 44).healthCheck

end Sys2Proof.Machine
end

