-- ==== Sys2Proof/Machine/Startup.lean ====
section
/-!
DEFINITION. Start-up (14, R440 to R450) and recovery (04, R134 to R138; 05, R155, R192; 08, R278).
-/
namespace Sys2Proof.Machine

namespace State

/-! ### Wake (R441, R508, R509, R513, R516) -/

/-- The Hamper at wake: the next SEQ and the horizon follow copy A and the horizon record. With no valid record the next SEQ is 0 (log 25). -/
def hamWake (s : State) : State :=
  let all := s.hamAllA ++ (HamRec.parse (s.tackBytes 0x1220 16)).toList
  let top := (all.map fun r => r.seq + 1).foldl max 0
  let hor := ((all.filter fun r => r.code == 0x0B01).map (·.seq)).foldl max 0
  ((s.putHam { s.ham with nextSeq := top % 2 ^ 48, horizon := hor }) : State).hamRegs

/-- Certificate slot i + 1 passes its check (R508). -/
def certOk (s : State) (i : Nat) : Bool :=
  let b := s.hemBytes (134 + 64 * i) 64
  ofLe ((b.drop 16380).take 4) == crc32c (b.take 16380)

/-- The structures of Hem are checked: certificate slots and fused-key shadows (source 871), the trust list. `shadowBad`: a shadow differs from the fuses. -/
def hemWake (shadowBad : Bool) (s : State) : State :=
  let bad := ([0, 1, 2].filter fun i => !s.certOk i).foldl (fun a i => a + 2 ^ i) 0
  let s1 := (s.setF KPS.HEM_CHECK_CERT bad).setFlag KPS.HEM_CHECK_SHADOW shadowBad
  (if bad ≠ 0 || shadowBad then s1.fire 871 else s1).trustCheck

/-- The LD bindings that Hem keeps (R359, R508). -/
def bindWake (s : State) : State := match s.bindingNewest with
  | none => s
  | some (page, _, bytes) =>
    let port (k : Nat) : Option Nat := let b := (bytes.getD k 0xFF).toNat; if b < 4 then some b else none
    let s1 := (List.range 16).foldl (fun s k => s.setLd k { s.ldOf k with port := port k, portNext := none }) s
    s1.setFlag KPS.HEM_CHECK_BIND_OLD (s.keep.bindLast.any fun p => p != page)

/-- At the first start with an empty binding store every LD of the region plan is bound to port LD mod 4 (R359). -/
def bindFirst (s : State) : State :=
  if s.bindingNewest.isSome || s.plan.regions.isEmpty then s
  else
    let mine (k : Nat) : Bool := s.plan.regions.any fun r => r.forLd k
    ((List.range 16).foldl (fun s k => if mine k then s.setLd k { s.ldOf k with port := some (k % 4), portNext := none } else s) s).bindingWrite

/-! ### Core release (R442, R475; R48 in safe state) -/

/-- The core may be released: its rails are up, the regulator has acknowledged VMAX. -/
def mayRelease (s : State) : Bool :=
  (s.start.step = 4 || (s.topState = 2 && s.seq.state == .on)) && !s.start.released && !s.pace.awaitRelease && !s.flag PWS.PACE_STATUS_AVS_HOLD

/-- What slot n's registers show at core release. -/
def cartRelease (n : Nat) (s : State) : State :=
  let c := s.cart n
  let s1 := (s.setFlag (CAR.STATUS_PRESENT n) c.present).setF (CAR.STATUS_INDICATOR n) c.indicator
  if c.quarantined then s1.setF (VLK.STATUS_STATE n) 5 else if s1.canTrain n then s1.linkTrain n false else s1

/-- The core is released: its blocks take their register values, a cache whose ENABLE the Pattern clears runs its disable procedure (R50, R219), the group plan takes effect, the latched inputs are posted, ports and cartridge links begin to train. -/
def coreRelease (s : State) : State :=
  let safe := s.topState = 2
  let s1 := s.modStart fun t => { t with released := true }
  let s2 : State := if safe then s1 else s1.putPlan { s1.plan with group := s1.plan.groupNext }
  let s3 := ((s2.coreLoad.bindFirst.boundBits).cacheSeam false).cacheSeam true
  let s4 := (List.range 32).foldl (fun s n => s.cartRelease n) s3
  let s5 := s4.latchPost
  if safe then s5 else s5.fenceUpdate.stepDone 4

/-! ### The HBM branch (R299, R300, R442) -/

/-- The HBM rails go off (Table 14-3, causes 4 and 5). -/
def hbmOff (s : State) : State := [5, 6, 7].foldl (fun s r => s.railOff r) s

/-- A row that miscompared in the test: repaired, or failed with no repair left. -/
def rowTested (r : RowTest) (s : State) : State :=
  if r.repairable then
    (s.countF SCB.FILL_STATUS_REPAIRS 1).fireRec 0x0504 134 (le 1 r.stack ++ le 1 r.channel ++ le 1 r.bank ++ le 1 0 ++ le 4 r.row)
  else if s.flag SCB.FILL_STATUS_FAILED then s
  else (s.setF SCB.FILL_STATUS_FAILED 1).fire 135

/-! ### Clean or unclean (R277, R278) -/

/-- An anchor has been found to recover from (R134). -/
def anchorOk (s : State) : Bool := s.xlt.anchor.isSome

/-- The newest record among clean-flush and dirtied records. -/
def newestFlush (s : State) : Option HamRec := ((s.hamView 0).map (·.1)).find? fun r => r.code == 0x0801 || r.code == 0x0802

/-- The start is clean (R278): the newest of these records is a clean-flush record and the anchor it names is valid. The anchor that an orderly, reset or power-fail flush names is
the one that carries the record's sequence counter; after a GPF or group flush the device writes later anchors itself (log 26). -/
def startClean (s : State) : Bool := match s.newestFlush with
  | none => false
  | some r =>
    let kind := (r.payload.getD 0 0).toNat
    r.code == 0x0801 && s.anchorOk && (kind == 2 || kind == 3 || s.xlt.anchor.any fun a => a.seq % 2 ^ 40 == ofLe ((r.payload.drop 0x14).take 8))

/-- Lines to flush minus lines verified, by the flush progress record (R277); none where its check fails or where the flush it tells of was completed, or a later start reported memory active
(log 27). -/
def progressLeft (s : State) : Option Nat :=
  let b := s.tackBytes 0x1210 8
  let first := ofLe ((b.drop 16).take 8)
  if ofLe ((b.drop 28).take 4) ≠ crc32c (b.take 28) then none
  else if (s.hamView 0).any fun r => first ≤ r.1.seq && (r.1.code == 0x0801 || r.1.code == 0x0102) then none
  else some (ofLe (b.take 8) - ofLe ((b.drop 8).take 8))

/-- An unclean start (Table 08-7): the lifetime counter, source 49 with its record, TOP.AT_RISK. -/
def uncleanStart (s : State) : State :=
  let left := s.progressLeft
  let n := min (left.getD 0xFFFFFFFF) 0xFFFFFFFF
  let s1 := s.lifetime 4
  let s2 := (s1.setF TOP.DIRTY_SHUTDOWN_COUNT (s1.lifetimeValue 4)).setF TOP.AT_RISK_LINES n
  s2.fireRec 0x0803 49 (le 4 n ++ le 1 (if left.isSome then 1 else 0))

/-- The kind of start is known. After a clean-flush record of kind GPF or group the first write still waits for a dirtied record (R276). -/
def startKind (s : State) : State :=
  let clean := s.startClean
  let s1 := ((s.modStart fun t => { t with clean }).setFlag TOP.START_STATUS_CLEAN clean).setFlag TOP.FLUSH_STATUS_CLEAN_START clean
  if !clean then s1.uncleanStart
  else match s.newestFlush with
    | some r => let k := (r.payload.getD 0 0).toNat; if k = 2 || k = 3 then s1.modFlush fun f => { f with clean := some k } else s1
    | none => s1

/-! ### Recovery (Table 04-9) -/

/-- The next step of recovery. -/
def recoveryNext (k : Nat) (s : State) : State := s.modStart fun t => { t with recovery := k }

/-- A selvage-scan rebuild begins (R137, R138). -/
def scanBegin (s : State) : State := s.modStart fun t => { t with scan := true }

/-- A cartridge is blank: no page written, no bolt in use. -/
def cartBlank (s : State) (n : Nat) : Bool :=
  !(s.med.pages.any fun e => psaSlot e.1 == n && e.2.isSome) && (s.ledgerOf n).all fun e => (s.ledgerNow e.1).state == 0 || e.2.state == 4

/-- Step 1: the newest valid anchor, and what it names (R134). A new set has none; cartridges that are not blank and carry no set fail the start with cause 12. -/
def recoverAnchor (s : State) : State :=
  if s.med.setNew then
    if (List.range 32).all fun n => !(s.cart n).adopted || s.cartBlank n then
      let s1 := s.modXlt fun _ => {}
      let s2 := s1.modMed fun m => { m with frames := [], parityAt := [], bastBolts := [], bastNo := [], groups := [], gone := [], goneLed := [], sumAt := [] }
      (s2.modCoh fun c => { c with extents := [] }).startKind.recoveryNext 2
    else s.startCause 12 true
  else match s.anchorOf fun n => (s.cart n).adopted && (s.cart n).ident.setId == s.setId with
    | some a => (s.modXlt fun x => { x with anchor := some a, images := a.images, roster := a.roster }).modCoh (fun c => { c with extents := a.extents }) |>.startKind.recoveryNext 2
    | none => (s.modXlt fun x => { x with anchor := none, images := [] }).startKind.scanBegin

/-- Step 2: the map from the images, the seal table from that of region 1,023. A region with no readable image brings the selvage scan (source 169); the pass goes on after the
region whose image is the newest (log 41). -/
def recoverImages (s : State) : State :=
  if s.med.setNew then s.recoveryNext 3
  else
    let regions := regionCount s.order
    let picks := (List.range regions).map s.imageOf
    if picks.any (·.isNone) then (s.fire 169).scanBegin
    else
      let map := picks.flatMap fun p => match p with | some i => s.imageMap i | none => []
      let seals := match s.imageOf 1023 with | some i => i.pages.flatMap fun q => ((s.pageThere q).map (·.seals)).getD [] | none => []
      let last := (picks.filterMap id).foldl (fun (b : Option Image) i => if b.all fun o => newer i.start o.start then some i else b) none
      let (region, pass) := match last with
        | some i => ((i.region + 1) % regions, (if i.copy then 1 else 0) + (if i.region + 1 = regions then 1 else 0))
        | none => (0, 0)
      ((s.modXlt fun x => { x with map, region, passNo := pass }).modMed fun m => { m with sealTab := seals }).recoveryNext 3

/-- The stored pages of a bolt, those of a replaced cartridge included, with their PSAs in that bolt. -/
def boltPages (s : State) (b : Nat) : List (Nat × Page) :=
  (s.med.gone ++ s.med.pages).filterMap fun e => match e.2 with
    | some p => if boltOf e.1 = s.aliasOf b then some (mkPsa b (psaPage e.1), p) else none
    | none => none

/-- Pages in the order of their SEQ. -/
def seqInsert (x : Nat × Page) : List (Nat × Page) → List (Nat × Page)
  | [] => [x]
  | y :: l => if newer y.2.selv.seq x.2.selv.seq then x :: y :: l else y :: seqInsert x l

def bySeq (l : List (Nat × Page)) : List (Nat × Page) := l.foldl (fun a x => seqInsert x a) []

/-- The journal pages that are replayed, the number of the page before them given, and whether one within the range is lost (R130, R137): a page that cannot be read and that the quilt does not
recover; after a clean shutdown also one whose CHECK fails or that is missing. After an unclean one such a page ends the replay. -/
def journalTake (s : State) : Option Nat → List (Nat × Page) → List (Nat × Page) × Bool
  | _, [] => ([], false)
  | prev, e :: l =>
    if !e.2.selv.check || prev.any (fun n => (n + 1) % 2 ^ 33 != e.2.selv.swatch) then ([], s.start.clean)
    else if !s.pageReadable e.1 64 then ([], true)
    else let (k, lost) := s.journalTake (some e.2.selv.swatch) l; (e :: k, lost)

/-- The journal pages that the anchor's journal bolts hold, from the one that was being filled at its replay start. -/
def journalFound (s : State) : List (Nat × Page) := match s.xlt.anchor with
  | none => []
  | some a =>
    let all := bySeq ((a.journal.flatMap s.boltPages).filter fun e => e.2.selv.typ == 5)
    let kept := (journalFrom a.replay (all.map fun e => { seq := e.2.selv.seq, psa := e.1 })).map (·.psa)
    all.filter fun e => kept.contains e.1

/-- The records that are replayed. -/
def replayRecs (s : State) : List JRec := s.recsFrom ((s.xlt.anchor.map (·.replay)).getD 0)

/-- The blocks that a replayed record changes differ from their image (R139), and an UNMAP drops the seal-table entries of its swatches. -/
def recChange (s : State) (r : JRec) : State := match r with
  | .mapSet sw _ _ _ => s.mapChanged sw
  | .unmap sw n _ =>
    let inR (k : Nat) : Bool := sw ≤ k && k < sw + n
    ((s.xlt.map.filter fun k _ => inR k).foldl (fun s e => s.mapChanged e.1) s).modMed fun m => { m with sealTab := m.sealTab.filter fun k _ => !inR k }
  | .regionImage _ _ _ _ | .clock _ _ => s

/-- Step 3: the journal's records in order (Table 04-9). A lost page brings the selvage scan (R137). -/
def recoverJournal (s : State) : State :=
  let found := s.journalFound
  match s.journalTake none found with
  | (_, true) => s.scanBegin
  | (l, false) =>
    let next := (l.getLast?.map fun e => e.2.selv.swatch + 1).getD s.xlt.jcount
    let s1 := s.modXlt fun x => { x with jpages := l.map fun e => { seq := e.2.selv.seq, psa := e.1 }, jcount := next }
    (s1.replayRecs.foldl (fun s r => (s.recChange r).modXlt fun x => { x with map := recApply x.map r }) s1).recoveryNext 4

/-! ### Step 4: frames, parity, basting (R155, R192) -/

/-- Ledger entries of the bolts of adopted cartridges that stand for no other bolt (R148). -/
def ownLedger (s : State) : Tab LedgerEntry :=
  s.med.ledger.filter fun b _ => (s.cart (boltSlot b)).adopted && !s.med.ledger.any fun x => x.2.aliasTo == b

/-- Those in use: open or closed, or retired with a substitute. -/
def usedLedger (s : State) (role : Nat) : Tab LedgerEntry :=
  s.ownLedger.filter fun _ e => e.role == role && (e.state == 1 || e.state == 2 || (e.state == 4 && e.aliasTo != 0xFFFFFFFF))

/-- A frame as the ledger entries `mine` of its data bolts tell it; a position that no ledger tells is taken from the table kept in the media tables (log 42). None where one remains unknown. -/
def ledgerFrame (s : State) (g num : Nat) (mine : Tab LedgerEntry) : Option Frame := match mine.head? with
  | none => none
  | some h =>
    let kept := s.frameAt g num
    let width := if h.2.series = 21 then max mine.length ((kept.map (·.width)).getD 0) else if Nat.testBit h.2.position 3 then 7 else 8
    let one (i : Nat) : Option (Nat × Nat × Nat × Nat) := match mine.find? fun e => e.2.position % 8 == i with
      | some (b, e) =>
        let at_ (v : Nat) : Nat := mkBolt (boltSlot b) (v / 4096 % 16) (v % 4096)
        let start := at_ e.parityAt
        let page := e.parityAt / 65536
        some (b, start, page, if e.parityNext = 0xFFFF then noBolt else at_ e.parityNext)
      | none => kept.bind fun f => match f.bolts[i]?, f.runs[i]? with
        | some b, some r => some (b, r)
        | _, _ => none
    let all := (List.range width).filterMap one
    if all.length < width then none
    else
      let bolts := all.map (·.1)
      let last := bolts.flatMap fun b => (s.boltPages b).map (·.2.selv.age)
      some { group := g, number := num, series := h.2.series, slots := bolts.map boltSlot, bolts, runs := all.map (·.2)
             closed := mine.all fun e => (s.ledger (s.aliasOf e.1)).state == 2, closedAt := last.foldl max 0 }

/-- The frame table, from the ledgers. -/
def ledgerFrames (s : State) : List Frame :=
  s.plannedGroups.flatMap fun g =>
    let mine := (s.usedLedger 0).filter fun b _ => boltSlot b / 8 == g
    ((List.map (fun e => e.2.frame) mine).eraseDups).filterMap fun num => s.ledgerFrame g num (mine.filter fun _ e => e.frame == num)

/-- The page of a parity bolt after its last run and its last page. -/
def parityEnd (s : State) (b : Nat) : Nat :=
  let runs := s.med.frames.flatMap fun f => f.runs.flatMap fun r =>
    let stop := r.2.1 + runLen f.width
    (if r.1 = b then [min 8192 stop] else []) ++ (if r.2.2 = b then [stop - 8192] else [])
  (runs ++ (s.boltPages b).map fun e => psaPage e.1 + 1).foldl max 0

/-- The tables of open parity and basting bolts, from the ledgers; a cartridge's basting sets are numbered on from the largest number found. -/
def openTables (s : State) : State :=
  let open_ (e : Nat × LedgerEntry) : Bool := (s.ledger (s.aliasOf e.1)).state == 1
  let par : Tab (Option (Nat × Nat)) := (List.filter open_ (s.usedLedger 1)).foldl (fun t e =>
    let n := s.parityEnd e.1
    if n < 8192 then Tab.set (fun _ => none) t (1024 * (32 * (boltSlot e.1 / 8) + e.2.series) + boltSlot e.1) (some (e.1, n)) else t) []
  let bast := (List.filter open_ (s.usedLedger 2)).map fun e => (boltSlot e.1, e.1, ((s.boltPages e.1).map fun x => psaPage x.1 + 1).foldl max 0)
  let no : Tab Nat := s.med.pages.foldl (fun t e => match e.2 with
    | some p => if p.selv.typ = 10 then Tab.set (fun _ => 0) t (psaSlot e.1) (max (p.selv.swatch + 1) (Tab.get (fun _ => 0) t (psaSlot e.1))) else t
    | none => t) []
  s.modMed fun m => { m with parityAt := par, bast := [], bastBolts := bast, bastNo := no }

/-- A page of an open bolt is torn after an unclean shutdown: its CHECK fails (R192). -/
def tornPage (s : State) (psa : Nat) : Bool :=
  !s.start.clean && (s.ledger (s.aliasOf (boltOf psa))).state == 1 && (s.pageAt psa).any fun p => !p.selv.check

/-- An open frame resumes at the row after its furthest written page. For every stripe whose stored members are intact the parity page is verified, or written where it is missing; a stripe with a
torn member gets none and its frame is scheduled for refresh, and so is one whose parity page is torn itself (R192; log 43). -/
def frameRecover (f0 : Frame) (s0 : State) : State :=
  let far := (f0.bolts.flatMap fun b => (s0.boltPages b).filterMap fun e => f0.entryOf e.1).foldl (fun m e => max m (e + 1)) 0
  let f := { f0 with next := if f0.closed then far else min f0.capacity (f0.width * ceilDiv far (max 1 f0.width)) }
  let s := s0.setFrame f
  let stripe (s : State) (k : Nat) : State :=
    let es := (f.entries k).map f.psa
    let p := f.parityPsa k
    let pg := s.parityPage f k
    if pg.refs.isEmpty then s
    else if es.any s.tornPage then s.schedRefresh (f.bolts.getD 0 0)
    else if s.programmed p then (if s.sound p then s else s.schedRefresh (f.bolts.getD 0 0))
    else if f.closed || (f.width - 1) * (k + 1) ≤ f.next then s.storePage p pg
    else s
  (List.range f.stripes).foldl stripe s

/-- Data pages with neither verified quilt parity nor a verified basting set form new sets (R192). -/
def rebaste (s : State) : State :=
  let pages := s.med.frames.flatMap fun f => ((List.range f.next).map f.psa).filter fun q => s.programmed q && (s.siblings q).isNone
  pages.foldl (fun s q => s.baste q) s

/-- Failed dies and used-up spares of a cartridge, as its ledger tells (R175, R176). -/
def ledgerRegs (n : Nat) (s : State) : State :=
  (s.setF (MED.CART_MEDIA_FAILED_DIES n) (min 15 (popCount 16 (Tab.get (fun _ => 0) s.med.failedDies n)))).setFlag (MED.CART_MEDIA_SPARES_OUT n) (s.sparesLeft n = 0)

/-- Step 4 (R155, R192): the frames and the parity runs as the ledgers tell them, flush frames covered by quilt parity and joined to the patch log, new flush rows, open basting bolts,
resets of stale bolts. -/
def recoverFrames (s0 : State) : State :=
  let frames := s0.ledgerFrames
  let count (g : Nat) : Nat := ((s0.usedLedger 0).filter fun b _ => boltSlot b / 8 == g).foldl (fun m e => max m (e.2.frame + 1)) (s0.groupMedia g).nextFrame
  let numbered (s : State) : State := s.plannedGroups.foldl (fun s g => s.setGroupMedia g { s.groupMedia g with nextFrame := count g }) s
  let s := (numbered (s0.modMed fun m => { m with frames })).openTables
  let logged := (frames.filter fun f => f.series == 16 || f.series == 21).flatMap (·.bolts)
  let roster := s.xlt.roster ++ logged.filter fun b => !s.xlt.roster.contains b
  let s1 := (frames.filter fun f => f.series != 21).foldl (fun s f => s.frameRecover f) (s.modXlt fun x => { x with roster })
  let s2 := (frames.filter fun f => f.series == 21).foldl (fun s f => s.flushParity (((f.bolts.flatMap fun b => (s.boltPages b).filterMap fun e => f.entryOf e.1).foldl (fun f e => { f with next := max f.next (e + 1) }) f))) s1
  let stale := List.map (·.1) (s2.med.ledger.filter fun b e => e.state == 3 && s2.getF (MED.CART_MEDIA_CLASS (boltSlot b)) ≠ 3)
  let s3 := s2.modMed fun m => { m with resets := stale }
  let s4 := ((List.range 32).filter s3.cartUp).foldl (fun s n => (s.flushRow n).bastKeep n |>.ledgerRegs n) s3
  s4.rebaste.bastRelease.recoveryNext 5

/-! ### Step 5: the patch index (R136) -/

/-- The last MAP_SET and the last UNMAP replayed for a swatch: their stamps. -/
def lastMapSet (recs : List JRec) (sw : Nat) : Option Nat :=
  (recs.filterMap fun r => match r with | .mapSet k _ t _ => if k = sw then some t else none | _ => none).getLast?
def lastUnmap (recs : List JRec) (sw : Nat) : Option Nat :=
  (recs.filterMap fun r => match r with | .unmap k n t => if k ≤ sw && sw < k + n then some t else none | _ => none).getLast?

/-- One directory entry against a test of its stamp: it comes into the index unless an entry of its line is newer (R136). A directory line that cannot be read gives none. -/
def indexEntry (psa : Nat) (p : Page) (live : Nat → Nat → Bool) (s : State) (d : DirEntry × Nat) : State :=
  let line := d.1.line
  let t := (p.selv.seq + d.1.delta) % 2 ^ 40
  let k := 56 + d.2 / 7
  if !((s.psaUp psa && s.decodes psa k) || s.rebuildable psa k) || !live (swatchOf line) t || (s.idxOf line).any (fun e => newer e.stamp t) then s
  else s.idxInsert { line, psa, slot := d.2, poison := d.1.poison, stamp := t }

/-- The stored patch pages of the roster's bolts in roster and page order, with their PSAs; pages whose selvage or CHECK fails are skipped. -/
def rosterPages (s : State) : List (Nat × Page) :=
  s.xlt.roster.flatMap fun b => (s.boltPages b).filter fun e => e.2.selv.typ == 2 && e.2.selv.check

/-- PATCH_PRESENT and POISON_ANY of every swatch follow the index and the selvages (R108). -/
def recoverFlags (s : State) : State :=
  let sws := (List.map (·.1) s.xlt.map ++ s.xlt.index.filterMap fun e => e.2.map fun i => swatchOf i.line).eraseDups
  sws.foldl (fun s sw => s.mapFlags sw ((s.pageThere (s.mapEntry sw).psa).any fun p => p.selv.poison != 0)) s

/-- A stored page is valid (R164): the current page of its swatch, a patch page of the log, a retained journal page, a page of a current image, the current directory, summary or LSA page. -/
def validPage (s : State) (q : Nat) (p : Page) : Bool :=
  let at_ (psa : Nat) : Bool := s.physPsa psa == q
  if p.selv.typ = 1 then at_ (s.mapEntry p.selv.swatch).psa
  else if p.selv.typ = 2 then s.xlt.roster.any fun b => s.aliasOf b == boltOf q
  else if p.selv.typ = 3 then s.xlt.dirAt.any at_
  else if p.selv.typ = 4 then s.xlt.images.any fun i => i.pages.any at_
  else if p.selv.typ = 5 then s.xlt.jpages.any fun j => at_ j.psa
  else if p.selv.typ = 6 then (Tab.get (fun _ => none) s.med.sumAt p.selv.swatch).any at_
  else p.selv.typ = 8 && (Tab.get (fun _ => none) (s.ldOf (p.selv.swatch / 32)).lsaAt (p.selv.swatch % 32)).any at_

/-- The current summary page of each closed bolt is its newest by AGE, the current directory page that of the largest generation. -/
def recoverPlaces (s : State) : State :=
  let pages (typ : Nat) : List (Nat × Page) := s.med.frames.flatMap fun f => f.bolts.flatMap fun b => (s.boltPages b).filter fun e => e.2.selv.typ == typ && e.2.selv.check
  let best : Tab (Nat × Nat) := (pages 6).foldl (fun t e => match t.find? fun x => x.1 == e.2.selv.swatch with
    | some x => if x.2.2 ≤ e.2.selv.age then Tab.insert t e.2.selv.swatch (e.1, e.2.selv.age) else t
    | none => Tab.insert t e.2.selv.swatch (e.1, e.2.selv.age)) []
  let dir := (pages 3).foldl (fun (b : Option (Nat × Page)) e => if b.all fun o => o.2.selv.swatch < e.2.selv.swatch then some e else b) none
  let s1 := s.modMed fun m => { m with sumAt := (best.filter fun b _ => (s.ledger (s.aliasOf b)).state == 2).map fun _ (v : Nat × Nat) => some v.1 }
  s1.modXlt fun x => { x with dirAt := dir.map (·.1), rosterGen := ((dir.map fun e => e.2.selv.swatch + 1).getD 0) }

/-- The figures of the media engine per bolt, from the stored pages. -/
def recoverBolts (s : State) : State :=
  let add (t : Tab BoltInfo) (e : Nat × Option Page) : Tab BoltInfo := match e.2 with
    | none => t
    | some p =>
      let b := boltOf e.1
      let i := Tab.get (fun _ => {}) t b
      Tab.set (fun _ => {}) t b { i with
        valid := if s.validPage e.1 p then i.valid + 1 else i.valid
        firstAt := if psaPage e.1 = 0 then p.selv.age else i.firstAt
        lastAt := p.selv.age
        lastPg := max i.lastPg (psaPage e.1)
        granules := (i.granules ++ granulesOf p).eraseDups }
  s.modMed fun m => { m with bolts := (m.gone ++ m.pages).foldl add [] }

/-- Step 5: the patch directories (R136). -/
def recoverIndex (s : State) : State :=
  let recs := s.replayRecs
  let live (sw t : Nat) : Bool := !((lastUnmap recs sw).any fun u => !newer t u) && !((lastMapSet recs sw).any fun m => !newer t m)
  let s1 := s.rosterPages.foldl (fun s e => (numbered e.2.dir).foldl (indexEntry e.1 e.2 live) s) s
  (s1.recoverFlags.recoverPlaces.recoverBolts).recoveryNext 6

/-- The largest stamp found: selvages, patch stamps, journal records, the anchor. -/
def topStamp (s : State) : Nat :=
  let page (p : Page) : List Nat := p.selv.seq :: p.dir.map fun d => (p.selv.seq + d.delta) % 2 ^ 40
  let all := (s.med.pages.flatMap fun e => match e.2 with | some p => page p | none => []) ++ s.replayRecs.map jrecStamp ++ (s.xlt.anchor.map (·.seq)).toList
  all.foldl (fun a x => if newer x a then x else a) ((s.xlt.anchor.map (·.seq)).getD 0)

/-- The time pair in Tack, where it is valid (R111). -/
def tackPair (s : State) : Option (Nat × Nat) :=
  let b := s.tackBytes 0x1218 8
  let t := ofLe (b.take 8)
  if t ≠ 0 && ofLe ((b.drop 28).take 4) = crc32c (b.take 28) then some (t, ofLe ((b.drop 8).take 4)) else none

/-- The reference time pair: the valid one with the larger media clock. -/
def referencePair (s : State) : Option (Nat × Nat) :=
  let a := s.xlt.anchor.bind fun a => if a.pairTime = 0 then none else some (a.pairTime, a.mclk)
  match a, s.tackPair with
  | some x, some y => if x.2 < y.2 then some y else some x
  | some x, none => some x
  | none, y => y

/-- Step 6: the sequence counter above the largest stamp plus 2^16, the media clock (R111). Releasing extents go on with their release; offered ones return to Free (R251). -/
def recoverCounters (s : State) : State :=
  let age := s.med.pages.foldl (fun m e => match e.2 with | some p => max m (p.selv.age + 1) | none => m) 0
  let pair := s.referencePair
  let mclk := max (max ((s.xlt.anchor.map fun a => a.mclk + 1).getD 0) ((s.tackPair.map fun p => p.2 + 1).getD 0)) age
  let seq := (s.topStamp + 2 ^ 16 + 1) % 2 ^ 40
  let s1 := s.modXlt fun x => { x with seq, mclk := mclk % 2 ^ 32, pair, clockSet := false }
  let s2 := s1.modCoh fun c => { c with extents := c.extents.filter fun e => e.state != .offered }
  ((s2.coh.extents.filter fun e => e.state == .releasing).foldl (fun s e => s.extentRelease e) s2).recoveryNext 7

/-! ### Memory active (R445) -/

/-- Memory is reported active: step 8. -/
def memoryActive (s : State) : State :=
  let mode := if s.med.setNew then 0 else if s.start.scan then 3 else if s.start.clean then 1 else 2
  let ms := (s.clk.now - s.start.step7At) / 1000000
  let s1 := (((s.stepDone 7).setF TOP.STATE_STATE 3).setF TOP.STATE_MEM_ACTIVE 1).setF TOP.START_TIME_MS ms
  let s2 := ((s1.setF XLT.RECOVERY_MODE mode).setF XLT.RECOVERY_DURATION (min ms (2 ^ 28 - 1))).setF XLT.RECOVERY_NO_PAIR 0
  let s3 := ((s2.fire 168).fire 53).hamper 0x0102 53 (le 4 (s2.getF (TOP.START_STEPS_MS 6)) ++ le 4 ms ++ le 1 mode)
  let s4 := if s.start.clean then s3 else s3.moduleEvent 1 [10]
  let s5 := (s4.modStart fun t => { t with recovery := 0, scan := false }).modGrp fun g => { g with fenced := s.plan.group.isSome }
  let s6 := s5.anchorWrite
  let s7 := if s6.storeOk then s6.storePut else s6
  let s8 := (s7.modXlt fun x => { x with passStart := s.clk.now, lateNow := false }).imageStart
  ((s.plannedGroups.foldl (fun s g => s.levelUpdate g) s8).fillCheck.clockCompare).dirtyChanged

/-- Step 7 ends once recovery has completed and no extent is Releasing; a cause of step 6 that has arisen since holds the start (R445). -/
def memoryCheck (s : State) : State :=
  if s.start.step ≠ 7 || s.start.recovery ≠ 7 || s.start.waiting.isSome || s.start.failed.isSome || s.halted then s
  else
    let s1 := s.fmReleases
    if s1.coh.extents.any fun e => e.state == .releasing then s1
    else
      let c := s1.stepSixCause
      if c = 0 then s1.memoryActive else s1.startCause c false

/-! ### The selvage scan (R138) -/

/-- A patch of the swatch is live after a scan. -/
def scanLive (s : State) (p : Page) (sw t : Nat) : Bool :=
  let m := s.mapEntry sw
  match s.pageThere m.psa with
  | none => true
  | some w => m.psa = unmappedPsa || w.selv.age + 60 < p.selv.age || (p.selv.age ≤ w.selv.age + 60 && w.selv.age ≤ p.selv.age + 60 && newer t w.selv.seq)

/-- Patch bolts in the order of their first patch pages. -/
def logOrder (patches : List (Nat × Page)) : List Nat :=
  let bolts := (patches.map fun e => boltOf e.1).eraseDups
  let firsts := bolts.filterMap fun b => (patches.filter fun e => boltOf e.1 == b).foldl (fun (m : Option (Nat × Page)) e => if m.all fun o => psaPage e.1 < psaPage o.1 then some e else m) none
  (bySeq firsts).map fun e => boltOf e.1

/-- The rebuild: map, log and index from the selvages, the counters, then a full checkpoint pass. -/
def scanRebuild (s : State) : State :=
  let s0 := s.recoverFrames
  let map := s0.scanMap
  let patches := s0.scanPages 2
  let s1 := s0.modXlt fun x => { x with map, index := [], images := [], jpages := [], jbuf := [], region := 0, passNo := 0, passStart := s.clk.now, roster := logOrder patches }
  let s3 := patches.foldl (fun s e => (numbered e.2.dir).foldl (indexEntry e.1 e.2 (s.scanLive e.2)) s) s1
  let s4 := ((s3.recoverFlags.recoverPlaces.recoverBolts).recoverCounters).imageStart
  ((List.range (regionCount s.order)).foldl (fun s _ => s.imageDone.1) s4).fire 167

end State

/-! ### The rows -/

/-- AUX33_RISE (R441): the supervisor begins to wake. -/
def execAux33Rise (s : State) : Out :=
  if s.pins.aux33 then .next s else .next ((s.putPins { s.pins with aux33 := true }).putClk { s.clk with now := 0 })

/-- SUPERVISOR_WAKE (R440, R441): trims, device time 0, the Keepsake store read; a start begins unless `PORST_N` is asserted. `shadowBad`: a shadow differs from the fuses, which the
state does not hold (log 6). -/
def execSupervisorWake (shadowBad : Bool) (s : State) : Out :=
  if !s.pins.aux33 || s.clk.awake then .next s
  else
    let s1 : State := s.putClk { s.clk with awake := true, time := 0, timeSet := false, slew := 0 }
    let s2 := ((s1.calRead 0).calRead 1).hamWake
    let s3 := (s2.hemWake shadowBad).bindWake
    .next ((s3.setF TOP.DIRTY_SHUTDOWN_COUNT (s3.lifetimeValue 4)).startBegin 1)

/-- CORE_RELEASE (R442, R475). -/
def execCoreRelease (s : State) : Out := if s.mayRelease then .next s.coreRelease.healthCheck else .next s

/-- HBM_TRAINING_DONE (R299, R300, R442; Table 14-3, cause 4): training of the two stacks has ended. -/
def execHbmTrainingDone (ok0 ok1 : Bool) (s : State) : Out :=
  if s.topState ≠ 1 || !s.start.released || s.start.trained || s.start.failed.isSome then .next s
  else if ok0 && ok1 then
    let test := s.flag SCB.FILL_CTRL_TEST
    .next ((s.modStart fun t => { t with trained := true, testing := test }).setFlag SCB.FILL_STATUS_TESTED test)
  else .next (s.startCause 4 true).hbmOff.healthCheck

/-- HBM_FILL_DONE (R299, R300): `rows` miscompared in the test. A row without a repair left fails the start with cause 5 and no zero pass follows. -/
def execHbmFillDone (rows : List RowTest) (s : State) : Out :=
  if !s.start.trained || s.start.filled || s.start.failed.isSome then .next s
  else
    let s1 := if s.start.testing then rows.foldl (fun s r => s.rowTested r) s else s
    if s1.flag SCB.FILL_STATUS_FAILED then .next (s1.startCause 5 true).hbmOff.healthCheck
    else .next (((s1.setF SCB.FILL_STATUS_DONE 1).modStart fun t => { t with filled := true }).stepSix).healthCheck

/-- CARTRIDGE_DISCOVERY_DONE (R411, R412, R442): a tie of two SET_IDs holds the start with cause 6. -/
def execCartridgeDiscoveryDone (s : State) : Out :=
  if s.start.step ≠ 5 || s.start.waiting.isSome || s.start.failed.isSome || s.halted then .next s
  else
    let (s1, tie) := s.adoptAll
    if tie then .next ((s1.fire 210).startCause 6 false).healthCheck else .next ((s1.stepDone 5).stepSix).healthCheck

/-- WAITING_REEVALUATE (R448): once every second. -/
def execWaitingReevaluate (s : State) : Out := .next (s.reevaluate.memoryCheck).healthCheck

/-- RECOVERY_STEP_COMPLETE (R135, R137): the step of Table 04-9 under way has done its work. -/
def execRecoveryStepComplete (s : State) : Out :=
  if s.start.step ≠ 7 || s.start.scan || s.start.failed.isSome || s.halted then .next s
  else match s.start.recovery with
    | 1 => .next s.recoverAnchor.healthCheck
    | 2 => .next s.recoverImages.healthCheck
    | 3 => .next s.recoverJournal.healthCheck
    | 4 => .next s.recoverFrames.healthCheck
    | 5 => .next s.recoverIndex.healthCheck
    | 6 => .next s.recoverCounters.memoryCheck.healthCheck
    | _ => .next s.memoryCheck.healthCheck

/-- SELVAGE_SCAN_COMPLETE (R138): the rebuild with its checkpoint pass, source 167. -/
def execSelvageScanComplete (s : State) : Out :=
  if s.start.step ≠ 7 || !s.start.scan || s.start.failed.isSome || s.halted || 7 ≤ s.start.recovery then .next s
  else .next s.scanRebuild.memoryCheck.healthCheck

/-- PORST_N_DEASSERT (R440, R449, R483): after a reset flush the start begins at once, during a power-up that ends or a power-down it is held. -/
def execPorstNDeassert (s : State) : Out :=
  if !s.pins.porst then .next s
  else
    let s1 := s.modPins fun p => { p with porst := false }
    if s1.topState = 4 && s1.flush.kind == .none && s1.seq.state == .on then .next (s1.startBegin 2)
    else if s1.seq.state == .up && s1.seq.stopUp && s1.mayStart then .next (s1.holdOn (some 2))
    else if s1.flush.kind != .none then .next s1
    else .next (s1.onRequest 2)

end Sys2Proof.Machine
end

