-- ==== Sys2Proof/Machine/Registers.lean ====
section
/-!
DEFINITION. Register writes and reads as they come in: over CXL.io, as MCTP register messages, through the TAP (02, R56 to R65; 09, R314, R315; 13, R422), seams,
and the room that an island bridge gains (01, R10, R11).
-/
namespace Sys2Proof.Machine

/-- Units that a block has: its instances, or the eight slices over which it is spread (Table 02-9). -/
def unitCount (b : Block) : Nat := match b with
  | .hpt => 4
  | .vlk | .car => 32
  | .slc | .lin | .pcu | .coh | .scb => 8
  | .top | .pws | .thm | .kps | .hmp | .int | .pmc | .grp | .xlt | .med | .cip | .spl | .dbg => 1

namespace State

/-! ### MCTP register messages (R56, R58, R422) -/

/-- The words of a write, in order: processing stops at the first error. `k` words are done. -/
def mctpWrite (m : Nat) : List Word → Nat → Nat → State → State
  | [], _, k, s => s.mctpReply 0 k
  | w :: ws, off, k, s => match s.regWrite m off w with
    | (s1, .ok) => mctpWrite m ws (off + 4) (k + 1) s1
    | (s1, .busError) => s1.mctpReply 0x80 k
    | (s1, .denied) => s1.mctpReply 0x81 k

/-- The words of a read up to the first error. -/
def mctpRead (s : State) (m : Nat) : Nat → Nat → List Word × Bool
  | 0, _ => ([], true)
  | n + 1, off =>
    if s.readJudge m off == .ok then let (ws, ok) := s.mctpRead m n (off + 4); (s.viewWord m off :: ws, ok) else ([], false)

/-- Bytes of the sample buffer (Table 13-1). -/
def sampleBytes (s : State) (a n : Nat) : List Byte :=
  (List.range n).map fun i =>
    let o := a + i - 0x40000
    (Tab.get (fun _ => []) s.pmc.ring (o / 32)).getD (o % 32) 0

/-- What the management endpoint may read of spool memory (R422): its window, its contexts, the sample buffer. -/
def mgmtSpoolRead (s : State) (a : Nat) : Option (List Byte) :=
  if s.inWindowOf 16 a 4 then some (s.spoolBytes a 4)
  else if s.ownContexts 16 a 4 then some (s.spoolRead a 4)
  else if 0x40000 ≤ a && a + 4 ≤ 0x60000 then some (s.sampleBytes a 4)
  else none

/-- Spool memory answers: an aligned word inside it, after core release. -/
def spoolWordOk (s : State) (a : Nat) : Bool := s.start.released && a % 4 == 0 && a < 2 ^ 26

/-- The spool-memory form of a write: words of the endpoint's window; any other is denied and counted. -/
def mctpSpoolWrite (m : Nat) : List Word → Nat → Nat → State → State
  | [], _, k, s => s.emit (.mctp 0 k [])
  | w :: ws, a, k, s =>
    if !s.spoolWordOk a then s.emit (.mctp 0x80 k [])
    else if s.inWindowOf 16 a 4 then mctpSpoolWrite m ws (a + 4) (k + 1) (s.setSpoolBytes a (le 4 w.toNat))
    else (s.freeStep.deny m 1 (s.freeVal % 256) 0 a).emit (.mctp 0x81 k [])

/-- The spool-memory form of a read. -/
def mctpSpoolRead (m : Nat) : Nat → Nat → List Word → State → State
  | 0, _, ws, s => s.emit (.mctp 0 ws.length ws)
  | n + 1, a, ws, s =>
    if !s.spoolWordOk a then s.emit (.mctp 0x80 ws.length ws)
    else match s.mgmtSpoolRead a with
      | some b => mctpSpoolRead m n (a + 4) (ws ++ [BitVec.ofNat 32 (ofLe b)]) s
      | none => (s.freeStep.deny m 0 (s.freeVal % 256) 0 a).emit (.mctp 0x81 ws.length ws)

/-! ### The TAP (R314, R315) -/

/-- A response (Table 09-23). A discarded request is no completed one: DONE reads 0 for codes 3 and 4 (log 28). -/
def tapResp (code : Nat) (data : Word) : BitVec 64 :=
  BitVec.ofNat 64 ((if code < 3 then 2 ^ 63 else 0) + (if code = 0 then 0 else 2 ^ 62) + code * 2 ^ 58 + data.toNat)

def tapAnswer (code : Nat) (data : Word) (s : State) : State := s.modDbg fun d => { d with resp := tapResp code data }

/-- A request is carried out under rights set 37 (R315). -/
def tapRun (req : BitVec 64) (s : State) : State :=
  let v := req.toNat
  let off := bits v 61 42 * 4
  if !s.flag TOP.GCTRL_JTAG_DBG_EN then s.tapAnswer 4 0
  else if bits v 63 62 = 1 then
    (if s.readJudge 37 off == .ok then s.tapAnswer 0 (s.viewWord 37 off) else s.tapAnswer 1 0)
  else if bits v 63 62 = 2 then
    (match s.regWrite 37 off (BitVec.ofNat 32 v) with
    | (s1, .ok) => s1.tapAnswer 0 0
    | (s1, .busError) => s1.tapAnswer 1 0
    | (s1, .denied) => s1.tapAnswer 2 0)
  else s

end State

/-- REGISTER_WRITE (R51, R57 to R61, R65, R346): a write over CXL.io. `full`: a single DW with all byte enables. -/
def execRegisterWrite (m addr : Nat) (v : Word) (full : Bool) (s : State) : Out :=
  if !s.clk.awake then .next s
  else if !full || addr % 4 ≠ 0 then .next (s.report m addr .busError)
  else
    let (s1, r) := s.regWrite m addr v
    .next (s1.report m addr r).healthCheck

/-- MCTP_REGISTER_MESSAGE (R56, R58, R422): a read of n words or a write of `words` from an offset on; 1 to 16 words. A message of any other length
answers 0x80 with 0 words (DESIGN CHOICE, log 56). -/
def execMctpRegisterMessage (m : Nat) (spoolForm write : Bool) (addr : Nat) (words : List Word) (n : Nat) (s : State) : Out :=
  let len := if write then words.length else n
  if !s.clk.awake || !isMgmt m then .next s
  else if len = 0 || 16 < len then .next (s.emit (.mctp 0x80 0 []))
  else if spoolForm then .next (if write then State.mctpSpoolWrite m words addr 0 s else State.mctpSpoolRead m n addr [] s)
  else if write then .next (State.mctpWrite m words addr 0 s).healthCheck
  else
    let (ws, ok) := s.mctpRead m n addr
    .next (s.emit (.mctp (if ok then 0 else 0x80) ws.length ws))

/-- SEAM_REACHED (R61 to R64, R183): a unit reaches its seam. The performance monitor's lies between reader passes (R535). -/
def execSeamReached (blk : Block) (inst : Nat) (s : State) : Out :=
  let island := [Block.top, .pws, .thm, .kps, .hmp, .int, .grp].contains blk
  if !s.clk.awake || unitCount blk ≤ inst || !(island || s.start.released) || (blk == .pmc && s.pmc.busy) then .next s else .next (s.seam blk inst).healthCheck

/-- DBG_ACCESS_REQUEST (R314, R315): one scan of DBG_ACCESS shifts out the latest response and shifts in a request; `busy`: the debug master cannot take it at once, and it waits in the
TAP bridge, which holds 8. A halted device answers the management endpoint only (R346). -/
def execDbgAccessRequest (req : BitVec 64) (busy : Bool) (s : State) : Out :=
  if !s.clk.awake || s.dbg.ir ≠ 0x18 || s.halted then .next s
  else
    let s1 := s.emit (.tap s.dbg.resp)
    let op := bits req.toNat 63 62
    if op = 0 || op = 3 then .next s1
    else if !s1.flag TOP.GCTRL_JTAG_DBG_EN then .next (s1.tapAnswer 4 0)
    else if busy || !s1.dbg.bridge.isEmpty then
      (if s1.dbg.bridge.length < State.Bridge.tap.depth then .next (s1.modDbg fun d => { d with bridge := d.bridge ++ [req] }) else .next (s1.tapAnswer 3 0))
    else .next (s1.tapRun req).healthCheck

/-- ISLAND_BRIDGE_ROOM (R10, R11): a full bridge has room again; its writer resumes. Bridges 0 to 3 are those of the host ports, 4 that of the TAP, whose oldest request is carried
out. -/
def execIslandBridgeRoom (bridge : Nat) (s : State) : Out :=
  if bridge = 4 then
    match s.dbg.bridge with
    | [] => .next s
    | req :: rest =>
      let s1 := s.modDbg fun d => { d with bridge := rest }
      .next (if s1.halted then s1 else (s1.tapRun req).healthCheck)
  else
    let fill := (s.reqs.filter fun r => r.stage == .bridge && r.port == bridge).length
    if fill < State.Bridge.hostPort.depth then .next (s.putBridgeWait (Tab.set (fun _ => false) s.bridgeWait bridge false)) else .next s

end Sys2Proof.Machine
end

