-- ==== Sys2Proof/Machine/Dispatch.lean ====
section
/-!
DEFINITION. What each command does: one arm per constructor of Instr.
-/
namespace Sys2Proof.Machine

/-- The effect of a command on everything but the queue. -/
def exec (i : Instr) (s : State) : Host.Outcome State Fault Refusal :=
  match i with
  | .paceSample readings => Sys2Proof.Machine.execPaceSample readings s
  | .monitorExcluded n => Sys2Proof.Machine.execMonitorExcluded n s
  | .governorDecision => Sys2Proof.Machine.execGovernorDecision s
  | .paceLowDeclared => Sys2Proof.Machine.execPaceLowDeclared s
  | .paceCollapse => Sys2Proof.Machine.execPaceCollapse s
  | .collapseEnd => Sys2Proof.Machine.execCollapseEnd s
  | .paceLowEnd => Sys2Proof.Machine.execPaceLowEnd s
  | .avsAcknowledge ok => Sys2Proof.Machine.execAvsAcknowledge ok s
  | .avsAckTimeout => Sys2Proof.Machine.execAvsAckTimeout s
  | .avsHoldRetry => Sys2Proof.Machine.execAvsHoldRetry s
  | .islandBridgeRoom bridge => Sys2Proof.Machine.execIslandBridgeRoom bridge s
  | .aux33Rise => Sys2Proof.Machine.execAux33Rise s
  | .supervisorWake shadowBad => Sys2Proof.Machine.execSupervisorWake shadowBad s
  | .patternLoad flashOk readA readB => Sys2Proof.Machine.execPatternLoad flashOk readA readB s
  | .coreRelease => Sys2Proof.Machine.execCoreRelease s
  | .hbmTrainingDone ok0 ok1 => Sys2Proof.Machine.execHbmTrainingDone ok0 ok1 s
  | .hbmFillDone rows => Sys2Proof.Machine.execHbmFillDone rows s
  | .cartridgeDiscoveryDone => Sys2Proof.Machine.execCartridgeDiscoveryDone s
  | .waitingReevaluate => Sys2Proof.Machine.execWaitingReevaluate s
  | .recoveryStepComplete => Sys2Proof.Machine.execRecoveryStepComplete s
  | .selvageScanComplete => Sys2Proof.Machine.execSelvageScanComplete s
  | .eraseSlot m => Sys2Proof.Machine.execEraseSlot m s
  | .ptuProgram m => Sys2Proof.Machine.execPtuProgram m s
  | .ptuRead m => Sys2Proof.Machine.execPtuRead m s
  | .ptuVerify m => Sys2Proof.Machine.execPtuVerify m s
  | .liveApply m => Sys2Proof.Machine.execLiveApply m s
  | .ptuReservedCmd m cmd => Sys2Proof.Machine.execPtuReservedCmd m cmd s
  | .ptuCommandDone flashOk readOk => Sys2Proof.Machine.execPtuCommandDone flashOk readOk s
  | .registerWrite m addr v full => Sys2Proof.Machine.execRegisterWrite m addr v full s
  | .mctpRegisterMessage m spoolForm write addr words n => Sys2Proof.Machine.execMctpRegisterMessage m spoolForm write addr words n s
  | .seamReached blk inst => Sys2Proof.Machine.execSeamReached blk inst s
  | .pwrreqOn m => Sys2Proof.Machine.execPwrreqOn m s
  | .pwrreqOff m => Sys2Proof.Machine.execPwrreqOff m s
  | .m2sReqReceived port req => Sys2Proof.Machine.execM2sReqReceived port req s
  | .m2sRwdReceived port req => Sys2Proof.Machine.execM2sRwdReceived port req s
  | .streamTrackerExpire port k => Sys2Proof.Machine.execStreamTrackerExpire port k s
  | .readOrderPoint rid hbm => Sys2Proof.Machine.execReadOrderPoint rid hbm s
  | .mapAnswer rid => Sys2Proof.Machine.execMapAnswer rid s
  | .patchIndexAnswer rid => Sys2Proof.Machine.execPatchIndexAnswer rid s
  | .probeHit rid uncorr left => Sys2Proof.Machine.execProbeHit rid uncorr left s
  | .mediaReadData rid sensed mismatch again => Sys2Proof.Machine.execMediaReadData rid sensed mismatch again s
  | .reconstructionStart rid => Sys2Proof.Machine.execReconstructionStart rid s
  | .reconstructionReadData rid member sensed => Sys2Proof.Machine.execReconstructionReadData rid member sensed s
  | .writeAdmission rid hbm => Sys2Proof.Machine.execWriteAdmission rid hbm s
  | .partialWriteMerge rid => Sys2Proof.Machine.execPartialWriteMerge rid s
  | .writeCommit rid => Sys2Proof.Machine.execWriteCommit rid s
  | .stagingWaitEnd slice => Sys2Proof.Machine.execStagingWaitEnd slice s
  | .latClear m slice => Sys2Proof.Machine.execLatClear m slice s
  | .evictionRelease line => Sys2Proof.Machine.execEvictionRelease line s
  | .sealTimerExpire psa => Sys2Proof.Machine.execSealTimerExpire psa s
  | .patchPageVerified psa => Sys2Proof.Machine.execPatchPageVerified psa s
  | .patchProgramFail psa => Sys2Proof.Machine.execPatchProgramFail psa s
  | .darnRequest m hi => Sys2Proof.Machine.execDarnRequest m hi s
  | .darnQueueRoom => Sys2Proof.Machine.execDarnQueueRoom s
  | .assemblyStart => Sys2Proof.Machine.execAssemblyStart s
  | .assemblyPageVerified psa => Sys2Proof.Machine.execAssemblyPageVerified psa s
  | .patchBoltReclaim => Sys2Proof.Machine.execPatchBoltReclaim s
  | .regionImageComplete => Sys2Proof.Machine.execRegionImageComplete s
  | .checkpointLate => Sys2Proof.Machine.execCheckpointLate s
  | .mediaClockTick => Sys2Proof.Machine.execMediaClockTick s
  | .timePairWrite => Sys2Proof.Machine.execTimePairWrite s
  | .mapBlockRepairDone block scan us => Sys2Proof.Machine.execMapBlockRepairDone block scan us s
  | .repairWaitTimeout rid => Sys2Proof.Machine.execRepairWaitTimeout rid s
  | .pageProgramVerified psa => Sys2Proof.Machine.execPageProgramVerified psa s
  | .bastingTimerExpire slot => Sys2Proof.Machine.execBastingTimerExpire slot s
  | .pageProgramFail psa => Sys2Proof.Machine.execPageProgramFail psa s
  | .boltResetDone slot die bolt => Sys2Proof.Machine.execBoltResetDone slot die bolt s
  | .boltResetFail slot die bolt => Sys2Proof.Machine.execBoltResetFail slot die bolt s
  | .gcCollect group => Sys2Proof.Machine.execGcCollect group s
  | .refreshRun group => Sys2Proof.Machine.execRefreshRun group s
  | .rebuildComplete group => Sys2Proof.Machine.execRebuildComplete group s
  | .rebuildInPlace group => Sys2Proof.Machine.execRebuildInPlace group s
  | .ageingTick => Sys2Proof.Machine.execAgeingTick s
  | .pinSliceFill entry slice => Sys2Proof.Machine.execPinSliceFill entry slice s
  | .cacheDisableComplete pcu => Sys2Proof.Machine.execCacheDisableComplete pcu s
  | .linClean m bySetWay => Sys2Proof.Machine.execLinClean m bySetWay s
  | .linInvalidate m bySetWay => Sys2Proof.Machine.execLinInvalidate m bySetWay s
  | .linCleanInvalidate m bySetWay => Sys2Proof.Machine.execLinCleanInvalidate m bySetWay s
  | .linLock m bySetWay => Sys2Proof.Machine.execLinLock m bySetWay s
  | .linUnlock m bySetWay => Sys2Proof.Machine.execLinUnlock m bySetWay s
  | .linReadWay m bySetWay => Sys2Proof.Machine.execLinReadWay m bySetWay s
  | .linReservedOp m bySetWay => Sys2Proof.Machine.execLinReservedOp m bySetWay s
  | .pcuClean m entry => Sys2Proof.Machine.execPcuClean m entry s
  | .pcuInvalidate m entry => Sys2Proof.Machine.execPcuInvalidate m entry s
  | .pcuCleanInvalidate m entry => Sys2Proof.Machine.execPcuCleanInvalidate m entry s
  | .pcuLock m entry => Sys2Proof.Machine.execPcuLock m entry s
  | .pcuUnlock m entry => Sys2Proof.Machine.execPcuUnlock m entry s
  | .pcuReservedOp m op entry => Sys2Proof.Machine.execPcuReservedOp m op entry s
  | .maintenanceDone pcu => Sys2Proof.Machine.execMaintenanceDone pcu s
  | .birspReceived port ld line rsp => Sys2Proof.Machine.execBirspReceived port ld line rsp s
  | .biconflictReceived port ld line => Sys2Proof.Machine.execBiconflictReceived port ld line s
  | .conflictQueueLeave slice => Sys2Proof.Machine.execConflictQueueLeave slice s
  | .snoopTimeout line ld => Sys2Proof.Machine.execSnoopTimeout line ld s
  | .suspectClear m v => Sys2Proof.Machine.execSuspectClear m v s
  | .sharerSweepDone => Sys2Proof.Machine.execSharerSweepDone s
  | .pfwNAssert ns accepted => Sys2Proof.Machine.execPfwNAssert ns accepted s
  | .flushAdmissionStop => Sys2Proof.Machine.execFlushAdmissionStop s
  | .flushComplete => Sys2Proof.Machine.execFlushComplete s
  | .gpfPhase2Request port => Sys2Proof.Machine.execGpfPhase2Request port s
  | .gpfComplete => Sys2Proof.Machine.execGpfComplete s
  | .porstNAssert ns accepted => Sys2Proof.Machine.execPorstNAssert ns accepted s
  | .porstNDeassert => Sys2Proof.Machine.execPorstNDeassert s
  | .hbmPatrol ev both sealOf => Sys2Proof.Machine.execHbmPatrol ev both sealOf s
  | .injArm m v => Sys2Proof.Machine.execInjArm m v s
  | .injDisarm m v => Sys2Proof.Machine.execInjDisarm m v s
  | .scrubGo m v => Sys2Proof.Machine.execScrubGo m v s
  | .scrubLine rng line => Sys2Proof.Machine.execScrubLine rng line s
  | .scrubMark rng line => Sys2Proof.Machine.execScrubMark rng line s
  | .scrubComplete => Sys2Proof.Machine.execScrubComplete s
  | .dbgAccessRequest req busy => Sys2Proof.Machine.execDbgAccessRequest req busy s
  | .dbgMemRead m => Sys2Proof.Machine.execDbgMemRead m s
  | .dbgMemWrite m => Sys2Proof.Machine.execDbgMemWrite m s
  | .dbgMemDone => Sys2Proof.Machine.execDbgMemDone s
  | .dbgRawRead m v => Sys2Proof.Machine.execDbgRawRead m v s
  | .dbgRawDone sensed => Sys2Proof.Machine.execDbgRawDone sensed s
  | .spdmSessionEstablish ok doe ld root leaf => Sys2Proof.Machine.execSpdmSessionEstablish ok doe ld root leaf s
  | .spdmSessionEnd sid => Sys2Proof.Machine.execSpdmSessionEnd sid s
  | .setCertificate sid slot chain => Sys2Proof.Machine.execSetCertificate sid slot chain s
  | .spdmGetMeasurements index => Sys2Proof.Machine.execSpdmGetMeasurements index s
  | .keyLoad sid slot key wrote => Sys2Proof.Machine.execKeyLoad sid slot key wrote s
  | .keyRetire sid slot wrote => Sys2Proof.Machine.execKeyRetire sid slot wrote s
  | .keyQuery sid slot => Sys2Proof.Machine.execKeyQuery sid slot s
  | .haltFlush sid good => Sys2Proof.Machine.execHaltFlush sid good s
  | .haltFlushComplete => Sys2Proof.Machine.execHaltFlushComplete s
  | .hamperClear sid => Sys2Proof.Machine.execHamperClear sid s
  | .keyCommandUnknown sid opcode => Sys2Proof.Machine.execKeyCommandUnknown sid opcode s
  | .cipKeyCmdRetire m v wrote => Sys2Proof.Machine.execCipKeyCmdRetire m v wrote s
  | .retireComplete => Sys2Proof.Machine.execRetireComplete s
  | .ideKmKeyProgram port mem go => Sys2Proof.Machine.execIdeKmKeyProgram port mem go s
  | .ideIntegrityFail port mem skid lines => Sys2Proof.Machine.execIdeIntegrityFail port mem skid lines s
  | .keychkFlitReceived slot h word => Sys2Proof.Machine.execKeychkFlitReceived slot h word s
  | .keyfailFlitReceived slot h => Sys2Proof.Machine.execKeyfailFlitReceived slot h s
  | .keychkSend slot => Sys2Proof.Machine.execKeychkSend slot s
  | .hostLinkUp port link => Sys2Proof.Machine.execHostLinkUp port link s
  | .hostLinkDown port => Sys2Proof.Machine.execHostLinkDown port s
  | .portRetrain m port => Sys2Proof.Machine.execPortRetrain m port s
  | .perstNAssert port => Sys2Proof.Machine.execPerstNAssert port s
  | .perstNDeassert port => Sys2Proof.Machine.execPerstNDeassert port s
  | .configRequest port tag w => Sys2Proof.Machine.execConfigRequest port tag w s
  | .hdmDecoderCommit ld k dec => Sys2Proof.Machine.execHdmDecoderCommit ld k dec s
  | .bar2Access ld write addr bytes n => Sys2Proof.Machine.execBar2Access ld write addr bytes n s
  | .identify ld => Sys2Proof.Machine.execIdentify ld s
  | .identifyMemoryDevice ld => Sys2Proof.Machine.execIdentifyMemoryDevice ld s
  | .getEventRecords ld log => Sys2Proof.Machine.execGetEventRecords ld log s
  | .clearEventRecords ld log handles all => Sys2Proof.Machine.execClearEventRecords ld log handles all s
  | .getEventInterruptPolicy ld => Sys2Proof.Machine.execGetEventInterruptPolicy ld s
  | .setEventInterruptPolicy ld vectors => Sys2Proof.Machine.execSetEventInterruptPolicy ld vectors s
  | .getTimestamp ld => Sys2Proof.Machine.execGetTimestamp ld s
  | .setTimestamp ld t => Sys2Proof.Machine.execSetTimestamp ld t s
  | .getSupportedLogs ld => Sys2Proof.Machine.execGetSupportedLogs ld s
  | .getLog ld vendor off len => Sys2Proof.Machine.execGetLog ld vendor off len s
  | .getHealthInfo ld => Sys2Proof.Machine.execGetHealthInfo ld s
  | .getAlertConfiguration ld => Sys2Proof.Machine.execGetAlertConfiguration ld s
  | .setAlertConfiguration ld cfg => Sys2Proof.Machine.execSetAlertConfiguration ld cfg s
  | .getLsa ld off len => Sys2Proof.Machine.execGetLsa ld off len s
  | .setLsa ld off bytes => Sys2Proof.Machine.execSetLsa ld off bytes s
  | .getPoisonList ld dpa len => Sys2Proof.Machine.execGetPoisonList ld dpa len s
  | .injectPoison ld dpa => Sys2Proof.Machine.execInjectPoison ld dpa s
  | .clearPoison ld dpa data => Sys2Proof.Machine.execClearPoison ld dpa data s
  | .sanitize ld => Sys2Proof.Machine.execSanitize ld s
  | .secureErase ld => Sys2Proof.Machine.execSecureErase ld s
  | .backgroundCommandComplete ld => Sys2Proof.Machine.execBackgroundCommandComplete ld s
  | .getDynamicCapacityConfiguration ld => Sys2Proof.Machine.execGetDynamicCapacityConfiguration ld s
  | .getDynamicCapacityExtentList ld => Sys2Proof.Machine.execGetDynamicCapacityExtentList ld s
  | .addDynamicCapacityResponse ld ext => Sys2Proof.Machine.execAddDynamicCapacityResponse ld ext s
  | .releaseDynamicCapacity ld ext => Sys2Proof.Machine.execReleaseDynamicCapacity ld ext s
  | .getDeviceState ld => Sys2Proof.Machine.execGetDeviceState ld s
  | .getWearReport ld => Sys2Proof.Machine.execGetWearReport ld s
  | .getFlushRecord ld => Sys2Proof.Machine.execGetFlushRecord ld s
  | .getGroupStatus ld => Sys2Proof.Machine.execGetGroupStatus ld s
  | .mailboxUnsupported ld opcode => Sys2Proof.Machine.execMailboxUnsupported ld opcode s
  | .getLdInfo => Sys2Proof.Machine.execGetLdInfo s
  | .getLdAllocations => Sys2Proof.Machine.execGetLdAllocations s
  | .setLdAllocations granules => Sys2Proof.Machine.execSetLdAllocations granules s
  | .getMultiHeadedInfo => Sys2Proof.Machine.execGetMultiHeadedInfo s
  | .getDcRegionConfiguration ld => Sys2Proof.Machine.execGetDcRegionConfiguration ld s
  | .getDcRegionExtentLists ld => Sys2Proof.Machine.execGetDcRegionExtentLists ld s
  | .initiateDynamicCapacityAdd ldMask base len => Sys2Proof.Machine.execInitiateDynamicCapacityAdd ldMask base len s
  | .initiateDynamicCapacityRelease ext ld forced => Sys2Proof.Machine.execInitiateDynamicCapacityRelease ext ld forced s
  | .bindLd ld port => Sys2Proof.Machine.execBindLd ld port s
  | .unbindLd ld => Sys2Proof.Machine.execUnbindLd ld s
  | .getBindings => Sys2Proof.Machine.execGetBindings s
  | .secureRelease ext ld forced => Sys2Proof.Machine.execSecureRelease ext ld forced s
  | .rspFlit slot h tag status payload => Sys2Proof.Machine.execRspFlit slot h tag status payload s
  | .dataFlit slot h tag part => Sys2Proof.Machine.execDataFlit slot h tag part s
  | .nakFlit slot h reason count => Sys2Proof.Machine.execNakFlit slot h reason count s
  | .retrainTimeout slot => Sys2Proof.Machine.execRetrainTimeout slot s
  | .statusFlit slot h temp failed power flags => Sys2Proof.Machine.execStatusFlit slot h temp failed power flags s
  | .statusTimeout slot => Sys2Proof.Machine.execStatusTimeout slot s
  | .idleFlit slot h => Sys2Proof.Machine.execIdleFlit slot h s
  | .flitCorrupt slot crc => Sys2Proof.Machine.execFlitCorrupt slot crc s
  | .replayTimeout slot => Sys2Proof.Machine.execReplayTimeout slot s
  | .responseTimeout slot tag => Sys2Proof.Machine.execResponseTimeout slot tag s
  | .laneSparing slot lane => Sys2Proof.Machine.execLaneSparing slot lane s
  | .linkBringupTimeout slot => Sys2Proof.Machine.execLinkBringupTimeout slot s
  | .hello slot h msg => Sys2Proof.Machine.execHello slot h msg s
  | .pairPub slot h => Sys2Proof.Machine.execPairPub slot h s
  | .pairKey slot => Sys2Proof.Machine.execPairKey slot s
  | .pairOk slot h keyId => Sys2Proof.Machine.execPairOk slot h keyId s
  | .unpair slot => Sys2Proof.Machine.execUnpair slot s
  | .readLine slot psa lslot refSet => Sys2Proof.Machine.execReadLine slot psa lslot refSet s
  | .readPage slot psa => Sys2Proof.Machine.execReadPage slot psa s
  | .program slot psa => Sys2Proof.Machine.execProgram slot psa s
  | .reset slot die bolt => Sys2Proof.Machine.execReset slot die bolt s
  | .ledgerRead slot die first n => Sys2Proof.Machine.execLedgerRead slot die first n s
  | .ledgerWrite slot die bolt => Sys2Proof.Machine.execLedgerWrite slot die bolt s
  | .rsvRead slot block => Sys2Proof.Machine.execRsvRead slot block s
  | .rsvWrite slot block bytes => Sys2Proof.Machine.execRsvWrite slot block bytes s
  | .ident slot => Sys2Proof.Machine.execIdent slot s
  | .health slot => Sys2Proof.Machine.execHealth slot s
  | .setRecord slot => Sys2Proof.Machine.execSetRecord slot s
  | .indicator slot => Sys2Proof.Machine.execIndicator slot s
  | .quiesce slot => Sys2Proof.Machine.execQuiesce slot s
  | .vlkRetrain m slot => Sys2Proof.Machine.execVlkRetrain m slot s
  | .unquarantine m slot => Sys2Proof.Machine.execUnquarantine m slot s
  | .presenceChange slot seated => Sys2Proof.Machine.execPresenceChange slot seated s
  | .attention slot => Sys2Proof.Machine.execAttention slot s
  | .claim m slot => Sys2Proof.Machine.execClaim m slot s
  | .claimComplete slot linkOk bad => Sys2Proof.Machine.execClaimComplete slot linkOk bad s
  | .carPair m slot => Sys2Proof.Machine.execCarPair m slot s
  | .readmit m slot => Sys2Proof.Machine.execReadmit m slot s
  | .locateOn m slot => Sys2Proof.Machine.execLocateOn m slot s
  | .locateOff m slot => Sys2Proof.Machine.execLocateOff m slot s
  | .spoolContextWrite m w v => Sys2Proof.Machine.execSpoolContextWrite m w v s
  | .spoolDoorbell m v => Sys2Proof.Machine.execSpoolDoorbell m v s
  | .copy spool readable => Sys2Proof.Machine.execCopy spool readable s
  | .fill spool readable => Sys2Proof.Machine.execFill spool readable s
  | .secureDiscard spool readable => Sys2Proof.Machine.execSecureDiscard spool readable s
  | .scrubRange spool readable => Sys2Proof.Machine.execScrubRange spool readable s
  | .persistFence spool readable => Sys2Proof.Machine.execPersistFence spool readable s
  | .prefetch spool readable => Sys2Proof.Machine.execPrefetch spool readable s
  | .pin spool readable => Sys2Proof.Machine.execPin spool readable s
  | .unpin spool readable => Sys2Proof.Machine.execUnpin spool readable s
  | .lockRange spool readable => Sys2Proof.Machine.execLockRange spool readable s
  | .clean spool readable => Sys2Proof.Machine.execClean spool readable s
  | .invalidate spool readable => Sys2Proof.Machine.execInvalidate spool readable s
  | .cleanInvalidate spool readable => Sys2Proof.Machine.execCleanInvalidate spool readable s
  | .darn spool readable => Sys2Proof.Machine.execDarn spool readable s
  | .rekeyRange spool readable => Sys2Proof.Machine.execRekeyRange spool readable s
  | .export_ spool readable => Sys2Proof.Machine.execExport spool readable s
  | .import_ spool readable => Sys2Proof.Machine.execImport spool readable s
  | .verify spool readable => Sys2Proof.Machine.execVerify spool readable s
  | .sampleDrain spool readable => Sys2Proof.Machine.execSampleDrain spool readable s
  | .dataMoverLine op wrote => Sys2Proof.Machine.execDataMoverLine op wrote s
  | .opCompletionPost op => Sys2Proof.Machine.execOpCompletionPost op s
  | .stalenessTimer spool => Sys2Proof.Machine.execStalenessTimer spool s
  | .rollCallSend => Sys2Proof.Machine.execRollCallSend s
  | .rollCallReceive r linkNs => Sys2Proof.Machine.execRollCallReceive r linkNs s
  | .memberSilent k => Sys2Proof.Machine.execMemberSilent k s
  | .railEnableSlot us => Sys2Proof.Machine.execRailEnableSlot us s
  | .powerGoodRise r => Sys2Proof.Machine.execPowerGoodRise r s
  | .pgWindowExpire r => Sys2Proof.Machine.execPgWindowExpire r s
  | .retryGapEnd => Sys2Proof.Machine.execRetryGapEnd s
  | .railSample pins vsin settling => Sys2Proof.Machine.execRailSample pins vsin settling s
  | .railPgLost r => Sys2Proof.Machine.execRailPgLost r s
  | .railDisableSlot us => Sys2Proof.Machine.execRailDisableSlot us s
  | .powerDownEnd pfw => Sys2Proof.Machine.execPowerDownEnd pfw s
  | .minOffEnd => Sys2Proof.Machine.execMinOffEnd s
  | .holdingBufferWrite => Sys2Proof.Machine.execHoldingBufferWrite s
  | .thermalSample die hbm => Sys2Proof.Machine.execThermalSample die hbm s
  | .sensorSuspect sensor => Sys2Proof.Machine.execSensorSuspect sensor s
  | .hardwareThermalTrip comparators => Sys2Proof.Machine.execHardwareThermalTrip comparators s
  | .aux33Brownout => Sys2Proof.Machine.execAux33Brownout s
  | .tackWrite m w v => Sys2Proof.Machine.execTackWrite m w v s
  | .hemProgram m page => Sys2Proof.Machine.execHemProgram m page s
  | .hemProgramDone verified => Sys2Proof.Machine.execHemProgramDone verified s
  | .hemPageLoad m page => Sys2Proof.Machine.execHemPageLoad m page s
  | .hemLoadDone => Sys2Proof.Machine.execHemLoadDone s
  | .powerOnHour => Sys2Proof.Machine.execPowerOnHour s
  | .hamperPageTimer => Sys2Proof.Machine.execHamperPageTimer s
  | .hamperRead m v => Sys2Proof.Machine.execHamperRead m v s
  | .intDoorbellWrite m v => Sys2Proof.Machine.execIntDoorbellWrite m v s
  | .intAck m t v => Sys2Proof.Machine.execIntAck m t v s
  | .alertReassert => Sys2Proof.Machine.execAlertReassert s
  | .alertResponse => Sys2Proof.Machine.execAlertResponse s
  | .smbusArp addr => Sys2Proof.Machine.execSmbusArp addr s
  | .quietEdge input => Sys2Proof.Machine.execQuietEdge input s
  | .pmcRead m => Sys2Proof.Machine.execPmcRead m s
  | .pmcZero m => Sys2Proof.Machine.execPmcZero m s
  | .readerPassTimer => Sys2Proof.Machine.execReaderPassTimer s
  | .readerPassDone => Sys2Proof.Machine.execReaderPassDone s
  | .samplePop m count => Sys2Proof.Machine.execSamplePop m count s
  | .rateSecond => Sys2Proof.Machine.execRateSecond s
  | .fecLock slot width lane => Sys2Proof.Machine.execFecLock slot width lane s
  | .cartridgeLinkDown slot => Sys2Proof.Machine.execCartridgeLinkDown slot s
  | .hostCreditReturn port n => Sys2Proof.Machine.execHostCreditReturn port n s
  | .bucketRebuildDone bucket => Sys2Proof.Machine.execBucketRebuildDone bucket s
  | .tapInstruction ir => Sys2Proof.Machine.execTapInstruction ir s

end Sys2Proof.Machine
end

