-- ==== Sys2Proof/Machine/Step.lean ====
section
/-!
DEFINITION. One step of the block: the command at the front of the queue takes effect on the state with the
queue's rest; on an empty queue one cycle of the supervisor island passes (R60, log 18).
-/
namespace Sys2Proof.Machine

/-- A step (block form). -/
def step (s : State) : Host.Outcome State Fault Refusal :=
  match s.pending with
  | [] => .next (s.idleTick)
  | c :: rest => exec c (s.putPending (rest))

/-- The command that a word spells goes to the front of the queue; no word spells one. -/
def State.withFetchWord (s : State) (nbits w : Nat) : State :=
  match Sys2Proof.decodeTableWord nbits w with
  | some c => s.putPending (c :: s.pending)
  | none => s

end Sys2Proof.Machine
end

