-- ==== Sys2Proof/Safety.lean ====
section
/-!
DEFINITION. The terms in which statements speak of the machine: its parts and what a command leaves unchanged, the canonical form
of its addressed stores, which sources have fired, and what a safe run is.
-/
namespace Sys2Proof.Machine

/-- The parts of the state: one per field of `State`. -/
inductive Part where
  | order_ | regs_ | shadow_ | held_ | sliceDone_ | pins_ | clk_ | rate_ | intc_ | msixMask_ | msixPend_ | pace_ | bridgeWait_
  | seq_ | flog_ | therm_ | keep_ | ham_ | pat_ | plan_ | start_ | ports_ | lds_ | reqs_ | nextReq_ | cache_ | xlt_ | med_ | coh_
  | flush_ | integ_ | dbg_ | cip_ | links_ | carts_ | setId_ | serials_ | spl_ | grp_ | pmc_ | smbAddr_ | health_ | out_ | free_
  | pending_ | sliceReg_
deriving DecidableEq, Repr

/-- The place of a part in a mask of parts. -/
def Part.idx : Part → Nat
  | .order_ => 0
  | .regs_ => 1
  | .shadow_ => 2
  | .held_ => 3
  | .sliceDone_ => 4
  | .pins_ => 5
  | .clk_ => 6
  | .rate_ => 7
  | .intc_ => 8
  | .msixMask_ => 9
  | .msixPend_ => 10
  | .pace_ => 11
  | .bridgeWait_ => 12
  | .seq_ => 13
  | .flog_ => 14
  | .therm_ => 15
  | .keep_ => 16
  | .ham_ => 17
  | .pat_ => 18
  | .plan_ => 19
  | .start_ => 20
  | .ports_ => 21
  | .lds_ => 22
  | .reqs_ => 23
  | .nextReq_ => 24
  | .cache_ => 25
  | .xlt_ => 26
  | .med_ => 27
  | .coh_ => 28
  | .flush_ => 29
  | .integ_ => 30
  | .dbg_ => 31
  | .cip_ => 32
  | .links_ => 33
  | .carts_ => 34
  | .setId_ => 35
  | .serials_ => 36
  | .spl_ => 37
  | .grp_ => 38
  | .pmc_ => 39
  | .smbAddr_ => 40
  | .health_ => 41
  | .out_ => 42
  | .free_ => 43
  | .pending_ => 44
  | .sliceReg_ => 45

/-- A part is the same in two states. -/
def Part.same (s t : State) : Part → Prop
  | .order_ => t.order = s.order
  | .regs_ => t.regs = s.regs
  | .shadow_ => t.shadow = s.shadow
  | .held_ => t.held = s.held
  | .sliceDone_ => t.sliceDone = s.sliceDone
  | .pins_ => t.pins = s.pins
  | .clk_ => t.clk = s.clk
  | .rate_ => t.rate = s.rate
  | .intc_ => t.intc = s.intc
  | .msixMask_ => t.msixMask = s.msixMask
  | .msixPend_ => t.msixPend = s.msixPend
  | .pace_ => t.pace = s.pace
  | .bridgeWait_ => t.bridgeWait = s.bridgeWait
  | .seq_ => t.seq = s.seq
  | .flog_ => t.flog = s.flog
  | .therm_ => t.therm = s.therm
  | .keep_ => t.keep = s.keep
  | .ham_ => t.ham = s.ham
  | .pat_ => t.pat = s.pat
  | .plan_ => t.plan = s.plan
  | .start_ => t.start = s.start
  | .ports_ => t.ports = s.ports
  | .lds_ => t.lds = s.lds
  | .reqs_ => t.reqs = s.reqs
  | .nextReq_ => t.nextReq = s.nextReq
  | .cache_ => t.cache = s.cache
  | .xlt_ => t.xlt = s.xlt
  | .med_ => t.med = s.med
  | .coh_ => t.coh = s.coh
  | .flush_ => t.flush = s.flush
  | .integ_ => t.integ = s.integ
  | .dbg_ => t.dbg = s.dbg
  | .cip_ => t.cip = s.cip
  | .links_ => t.links = s.links
  | .carts_ => t.carts = s.carts
  | .setId_ => t.setId = s.setId
  | .serials_ => t.serials = s.serials
  | .spl_ => t.spl = s.spl
  | .grp_ => t.grp = s.grp
  | .pmc_ => t.pmc = s.pmc
  | .smbAddr_ => t.smbAddr = s.smbAddr
  | .health_ => t.health = s.health
  | .out_ => t.out = s.out
  | .free_ => t.free = s.free
  | .pending_ => t.pending = s.pending
  | .sliceReg_ => t.sliceReg = s.sliceReg

/-- Every part but those of a list is the same: what a command leaves unchanged. -/
def TouchesOnly (touched : List Part) (s t : State) : Prop := ∀ p, p ∉ touched → p.same s t

/-- Every register outside some blocks of 64 KiB of the register window (Table 02-9) is the same. -/
def RegsBut (blocks : List Nat) (s t : State) : Prop := ∀ o : Nat, o / 65536 ∉ blocks → t.reg o = s.reg o

/-- Every request in flight has a number below the next one to be given. -/
def State.freshNumbers (s : State) : Prop := ∀ r ∈ s.reqs, r.id < s.nextReq

/-- The addressed stores keep their canonical form (keys rising, no entry that reads as an unlisted one): the register window, Tack,
Hem, the spool memory and the Pattern flash. -/
def State.canon (s : State) : Prop :=
  Tab.wf regReset s.regs = true ∧ Tab.wf (fun _ => 0) s.keep.tack = true ∧ Tab.wf (fun _ => 0) s.keep.hem = true
    ∧ Tab.wf (fun _ => 0) s.spl.mem = true ∧ Tab.wf (fun _ => 0xFF) s.pat.flash = true

/-- The cause bit of a source (R519): set by its firing, cleared by software alone. -/
def State.fired (n : Nat) (s : State) : Bool := bit (s.getF (INT.CAUSE_CAUSE (n / 32))) (n % 32)

/-- Master m's write of the register at an offset passes the checks that all registers share (R57, R58, R346, R350, R441): the supervisor is awake, the master
is not a host of a halted device, the register's block answers, no right is missing. -/
def State.mayWrite (s : State) (m off : Nat) : Bool :=
  s.clk.awake && !(decide (m < 16) && s.flag TOP.HALT_HALTED) && s.reachable off && (s.regMissing m off).isNone

/-- The message answers request r: with no data where `data` is none (S2M NDR), else with that data and poison (S2M DRS); its DevLoad is any (R100). -/
def Msg.answers (r : Req) (data : Option (BitVec 512)) (poison : Bool) : Msg → Bool
  | .s2mDrs p ld tag _ x bad => p == r.port && ld == r.ld && tag == r.tag && data == some x && bad == poison
  | .s2mNdr p ld tag _ => p == r.port && ld == r.ld && tag == r.tag && data == none
  | _ => false

/-- The response of request r is sent as soon as it is built: its port is not lost, holds an S2M credit, and no response waits there (R90). -/
def State.answersNow (s : State) (r : Req) : Bool := !r.dead && (s.port r.port).credits != 0 && (s.port r.port).respq.isEmpty

/-- A flit that arrives intact on link n is the next of its count, returns no more credits than were granted and is no violation in itself, and the link takes flits: it is accepted (R391 to R394). -/
def State.accepts (s : State) (n : Nat) (h : FlitHead) : Bool :=
  decide (2 ≤ (s.link n).step) && (!s.halted || s.flush.halt) && !State.rxOver h (s.link n) && State.rxInOrder h (s.link n) && !State.rxFault h

/-- A flit that the device makes on link n leaves at once: none waits before it, and the replay window has room (R393). -/
def State.sendsNow (s : State) (n : Nat) : Bool := (s.link n).waiting.isEmpty && s.txRoom n 1

/-- The first message that t sends beyond those of s. -/
def firstNew (s t : State) : Option Msg := (t.out.drop s.out.length).head?

/-- The registers whose write has an action of its own in place of, or beside, the plain write of R59, by the base of their array. -/
def actionRegisters : List Nat :=
  [0xC, 0x80, 0x30008, 0x30010, 0x34000, 0x40020, 0x50000, 0x50008, 0x50080, 0x51000, 0x51080, 0x51008, 0x60004, 0x6002C, 0x80008,
    0x100008, 0x120004, 0x14002C, 0x150010, 0x160024, 0x1A0030, 0x1B0004, 0x1C0100, 0x1C0210, 0x1D0000, 0x1D0004, 0x1D0010,
    0x200010, 0x300008, 0x300108]

/-- A safe run of n steps: each step answers a next state, from which the rest of the run goes on. -/
def SafeRun : Nat → State → Prop
  | 0, _ => True
  | n + 1, s => ∃ t, step s = .next t ∧ SafeRun n t

end Sys2Proof.Machine
end

