-- ==== Sys2Proof/Certificates/Slice0/Obligations.lean ====
section
/-!
DEFINITION. What is stated of the machine, for the provers: what each command completes to, what it leaves unchanged, the step over the queue of commands, and
what every step keeps. One definition per statement, in the order of the families of the opcode table; OBLIGATIONS.json lists them.
-/
open Sys2Proof Sys2Proof.Machine

/-- Pace supervision (R13, R14, R16, R20 to R23): what each pace event does where its condition holds. The sample is taken while rail 0 (CORE) runs (log 23). -/
def Obligations.PaceCommandsComplete : Prop :=
  (∀ (s : State) (readings : List Nat), s.railGood 0 = true → ∃ t, exec (.paceSample readings) s = .next t ∧ (∀ n : Nat, n < 64 →
      t.getF (PWS.PACE_MON_PACE n) = min 65535 (readings.getD n 0)) ∧ (∀ n : Nat, n < 64 → s.monitorOut n = false →
      t.getF PWS.PACE_STATUS_PACE ≤ t.getF (PWS.PACE_MON_PACE n)))
  ∧ (∀ (s : State) (n : Nat), n < 64 → s.monitorOut n = false → 1000 ≤ Tab.get (fun _ => 0) s.pace.differ n →
      ∃ t, exec (.monitorExcluded n) s = .next t ∧ t.getF (PWS.PACE_MON_EXCLUDED n) = 1 ∧ t.fired 40 = true)
  ∧ (∀ (s : State), s.start.released = true → s.pace.avs.pending = none → s.flag PWS.PACE_STATUS_AVS_HOLD = false →
      s.governed ≠ s.pace.avs.last → ∃ t, exec (.governorDecision) s = .next t ∧ t.pace.avs.pending = some s.governed
      ∧ t.out = s.out ++ [.avs s.governed])
  ∧ (∀ (s : State), 5 ≤ s.pace.belowFloor → s.paceLow = false → ∃ t, exec (.paceLowDeclared) s = .next t ∧ t.getF PWS.PACE_STATUS_DEGRADED = 1
      ∧ t.fired 4 = true)
  ∧ (∀ (s : State), 5 ≤ s.pace.below400 → s.flag PWS.PACE_STATUS_COLLAPSE = false → ∃ t, exec (.paceCollapse) s = .next t
      ∧ t.getF PWS.PACE_STATUS_COLLAPSE = 1 ∧ t.fired 5 = true)
  ∧ (∀ (s : State), 5 ≤ s.pace.atLeast400 → ∃ t, exec (.collapseEnd) s = .next t ∧ t.getF PWS.PACE_STATUS_COLLAPSE = 0
      ∧ t.getF PWS.PACE_STATUS_DEGRADED = s.getF PWS.PACE_STATUS_DEGRADED)
  ∧ (∀ (s : State), 1000 ≤ s.pace.atLeast825 → s.paceLow = true → ∃ t, exec (.paceLowEnd) s = .next t ∧ t.getF PWS.PACE_STATUS_DEGRADED = 0
      ∧ t.getF PWS.PACE_STATUS_COLLAPSE = 0 ∧ t.fired 41 = true)

/-- AVSBus commands (R25): an acknowledge ends the command, the third failure in a row sets AVS_HOLD with source 42, an earlier one sends the same command again, and the retry of a hold sends the last command again. -/
def Obligations.AvsCommandsComplete : Prop :=
  (∀ (s : State) (mv : Nat), s.pace.avs.pending = some mv → ∃ t, exec (.avsAcknowledge true) s = .next t ∧ t.pace.avs.pending = none
      ∧ t.pace.avs.acked = mv ∧ t.getF PWS.PACE_STATUS_AVS_HOLD = 0)
  ∧ (∀ (s : State) (mv : Nat), s.pace.avs.pending = some mv → s.flag PWS.PACE_STATUS_AVS_HOLD = false → s.pace.avs.fails < 2 →
      ∃ t, exec (.avsAcknowledge false) s = .next t ∧ t.pace.avs.fails = s.pace.avs.fails + 1 ∧ t.out = s.out ++ [.avs mv])
  ∧ (∀ (s : State) (mv : Nat), s.pace.avs.pending = some mv → s.flag PWS.PACE_STATUS_AVS_HOLD = false → 2 ≤ s.pace.avs.fails →
      ∃ t, exec (.avsAckTimeout) s = .next t ∧ t.getF PWS.PACE_STATUS_AVS_HOLD = 1 ∧ t.fired 42 = true)
  ∧ (∀ (s : State), s.flag PWS.PACE_STATUS_AVS_HOLD = true → s.pace.avs.pending = none → ∃ t, exec (.avsHoldRetry) s = .next t
      ∧ t.pace.avs.pending = some s.pace.avs.last ∧ t.out = s.out ++ [.avs s.pace.avs.last])

/-- The start's beginning (R441, R442, R299, R300): AUX33 starts time, the supervisor wakes and begins a start of cause 1, the core is released and the group plan takes effect, HBM training and the fill set their marks, a failed training fails the start with cause 4. -/
def Obligations.WakeAndReleaseComplete : Prop :=
  (∀ (s : State), s.pins.aux33 = false → ∃ t, exec (.aux33Rise) s = .next t ∧ t.pins.aux33 = true ∧ t.clk.now = 0)
  ∧ (∀ (s : State) (bad : Bool), s.pins.aux33 = true → s.clk.awake = false → s.pins.porst = false → s.halted = false →
      s.flag THM.STATUS_CRIT_LATCH = false → s.flag THM.STATUS_TRIP_LATCH = false → ∃ t, exec (.supervisorWake bad) s = .next t
      ∧ t.clk.awake = true ∧ t.start.cause = 1 ∧ t.start.step = 2)
  ∧ (∀ (s : State), s.mayRelease = true → ∃ t, exec (.coreRelease) s = .next t ∧ t.start.released = true ∧ (s.topState = 2 →
      t.plan.group = s.plan.group) ∧ (s.topState ≠ 2 → t.plan.group = s.plan.groupNext) ∧ (s.topState ≠ 2 → t.start.step = 5))
  ∧ (∀ (s : State), s.topState = 1 → s.start.released = true → s.start.trained = false → s.start.failed = none →
      ∃ t, exec (.hbmTrainingDone true true) s = .next t ∧ t.start.trained = true ∧ t.start.testing = s.flag SCB.FILL_CTRL_TEST)
  ∧ (∀ (s : State), s.topState = 1 → s.start.released = true → s.start.trained = false → s.start.failed = none →
      s.getF TOP.START_STATUS_CAUSE = 0 → ∃ t, exec (.hbmTrainingDone false true) s = .next t ∧ t.start.failed = some 4
      ∧ t.fired 52 = true)
  ∧ (∀ (s : State) (rows : List RowTest), s.start.trained = true → s.start.filled = false → s.start.failed = none → s.start.testing = false →
      s.flag SCB.FILL_STATUS_FAILED = false → ∃ t, exec (.hbmFillDone rows) s = .next t ∧ t.start.filled = true)

/-- The start's later steps (R442, R448, R449, R440, R44, R48, R50): discovery without a tie ends step 5, a waiting cause 1 that has cleared lets the start go on, PORST_N's deassertion in standby begins a start of cause 2, a valid slot 0 beside an invalid slot 1 gives the plan in force, and a flash that does not answer leaves the plan empty in safe state. -/
def Obligations.StartStepsComplete : Prop :=
  (∀ (s : State) (id : Nat), s.start.step = 5 → s.start.waiting = none → s.start.failed = none → s.halted = false →
      s.takeSet = (some id, false) → ∃ t, exec (.cartridgeDiscoveryDone) s = .next t ∧ t.setId = id ∧ t.med.setNew = false
      ∧ t.start.waiting ≠ some 6 ∧ 6 ≤ t.start.step ∧ (s.start.filled = false → t.start.step = 6))
  ∧ (∀ (s : State), s.start.step = 5 → s.start.waiting = none → s.start.failed = none → s.halted = false → s.takeSet = (none, false) →
      ∃ t, exec (.cartridgeDiscoveryDone) s = .next t ∧ t.setId ≠ 0 ∧ t.med.setNew = true ∧ 6 ≤ t.start.step ∧ (s.start.filled = false →
      t.start.step = 6))
  ∧ (∀ (s : State), s.start.step = 5 → s.start.waiting = none → s.start.failed = none → s.halted = false → s.getF TOP.START_STATUS_CAUSE = 0 →
      s.takeSet.2 = true → ∃ t, exec (.cartridgeDiscoveryDone) s = .next t ∧ t.fired 210 = true ∧ t.start.waiting = some 6
      ∧ t.start.step = 5)
  ∧ (∀ (s : State), s.start.waiting = some 1 → s.tooCold = false → s.start.failed = none → ∃ t, exec (.waitingReevaluate) s = .next t
      ∧ t.start.waiting = none ∧ t.getF TOP.START_STATUS_WAITING = 0 ∧ 3 ≤ t.start.step)
  ∧ (∀ (s : State), s.start.waiting = some 6 → s.takeSet.2 = false → s.start.filled = false → s.start.failed = none →
      ∃ t, exec (.waitingReevaluate) s = .next t ∧ t.start.waiting = none ∧ t.start.step = 6)
  ∧ (∀ (s : State) (c : Nat), s.start.waiting = some c → 7 ≤ c → s.start.step = 6 → s.start.filled = true → s.start.failed = none →
      s.cip.keysRead = true → s.stepSixCause = 0 → ∃ t, exec (.waitingReevaluate) s = .next t ∧ t.start.waiting = none ∧ t.start.step = 7
      ∧ t.start.recovery = 1)
  ∧ (∀ (s : State), s.start.waiting = some 1 → s.tooCold = true → s.start.step ≠ 7 → ∃ t, exec (.waitingReevaluate) s = .next t
      ∧ t.start = s.start)
  ∧ (∀ (s : State), s.pins.porst = true → s.clk.awake = true → s.halted = false → s.flag THM.STATUS_CRIT_LATCH = false →
      s.flag THM.STATUS_TRIP_LATCH = false → s.seq.state = .off → s.topState = 6 → s.flush.kind = .none →
      ∃ t, exec (.porstNDeassert) s = .next t ∧ t.pins.porst = false ∧ t.start.cause = 2 ∧ t.start.step = 2)
  ∧ (∀ (s : State) (flashOk : Bool) (readA : Bool) (readB : Bool), s.start.step = 2 → s.start.failed = none → s.start.waiting = none →
      s.topState = 1 → Tab.get (fun _ => false) s.pat.torn 0 = false → Tab.get (fun _ => false) s.pat.torn 1 = false →
      ((s.slotCheck 0 (flashOk && readA)).result = 0) →
      ((s.slotCheck 1 (flashOk && readB)).result ≠ 0 ∨ (s.slotCheck 1 (flashOk && readB)).version ≤ (s.slotCheck 0 (flashOk && readA)).version) →
      ∃ t, exec (.patternLoad flashOk readA readB) s = .next t ∧ (t.plan = s.planOf (s.slotCheck 0 (flashOk && readA)).recs)
      ∧ t.getF TOP.PATTERN_STATUS_ACTIVE = 0 ∧ (t.pat.active = (slotBase 0, (s.slotCheck 0 (flashOk && readA)).length))
      ∧ t.getF TOP.PATTERN_STATUS_A_RESULT = 0)
  ∧ (∀ (s : State) (flashOk : Bool) (readA : Bool) (readB : Bool), s.start.step = 2 → s.start.failed = none → s.start.waiting = none →
      s.topState = 1 → Tab.get (fun _ => false) s.pat.torn 0 = false → Tab.get (fun _ => false) s.pat.torn 1 = false →
      ((s.slotCheck 1 (flashOk && readB)).result = 0) →
      ((s.slotCheck 0 (flashOk && readA)).result ≠ 0 ∨ (s.slotCheck 0 (flashOk && readA)).version < (s.slotCheck 1 (flashOk && readB)).version) →
      ∃ t, exec (.patternLoad flashOk readA readB) s = .next t ∧ (t.plan = s.planOf (s.slotCheck 1 (flashOk && readB)).recs)
      ∧ t.getF TOP.PATTERN_STATUS_ACTIVE = 1 ∧ (t.pat.active = (slotBase 1, (s.slotCheck 1 (flashOk && readB)).length))
      ∧ t.getF TOP.PATTERN_STATUS_B_RESULT = 0)
  ∧ (∀ (s : State) (flashOk : Bool) (readA : Bool) (readB : Bool), s.start.step = 2 → s.start.failed = none → s.start.waiting = none →
      s.topState = 1 → Tab.get (fun _ => false) s.pat.torn 0 = false → Tab.get (fun _ => false) s.pat.torn 1 = false →
      ((s.slotCheck 0 (flashOk && readA)).result ≠ 0) → ((s.slotCheck 1 (flashOk && readB)).result ≠ 0) →
      s.getF TOP.START_STATUS_CAUSE = 0 → ∃ t, exec (.patternLoad flashOk readA readB) s = .next t ∧ t.plan = { group := s.plan.group }
      ∧ t.getF TOP.PATTERN_STATUS_ACTIVE = 3 ∧ t.topState = 2 ∧ t.fired 6 = true ∧ t.start.failed = some 2)

/-- Recovery (R134 to R138, R445): the steps of Table 04-9 follow one another. Step 1 takes the newest anchor whose page check passes among those of the cartridges of the set; with none, and where an image (169) or a journal page is lost, the selvage scan begins. Steps 2 to 5 lead to the next one, step 6 sets the sequence counter at or above the largest stamp found plus 2^16 unless memory becomes active with it, and once recovery has completed, no extent is Releasing and no cause holds the start, memory is active. The scan ends with source 167 and recovery at its end. -/
def Obligations.RecoveryStepsComplete : Prop :=
  (∀ (s : State) (a : Anchor), s.start.step = 7 → s.start.scan = false → s.start.failed = none → s.halted = false → s.start.recovery = 1 →
      s.med.setNew = false → ((s.anchorOf fun n => (s.cart n).adopted && (s.cart n).ident.setId == s.setId) = some a) →
      ∃ t, exec (.recoveryStepComplete) s = .next t ∧ t.start.recovery = 2 ∧ t.xlt.anchor = some a ∧ t.xlt.images = a.images
      ∧ t.xlt.roster = a.roster ∧ t.coh.extents = a.extents)
  ∧ (∀ (s : State), s.start.step = 7 → s.start.scan = false → s.start.failed = none → s.halted = false → s.start.recovery = 1 →
      s.med.setNew = false → ((s.anchorOf fun n => (s.cart n).adopted && (s.cart n).ident.setId == s.setId) = none) →
      ∃ t, exec (.recoveryStepComplete) s = .next t ∧ t.start.scan = true ∧ t.xlt.anchor = none)
  ∧ (∀ (s : State), s.start.step = 7 → s.start.scan = false → s.start.failed = none → s.halted = false → s.start.recovery = 1 →
      s.med.setNew = true → (((List.range 32).all fun n => !(s.cart n).adopted || s.cartBlank n) = true) →
      ∃ t, exec (.recoveryStepComplete) s = .next t ∧ t.start.recovery = 2 ∧ t.xlt = {} ∧ t.med.frames = [] ∧ t.coh.extents = [])
  ∧ (∀ (s : State), s.start.step = 7 → s.start.scan = false → s.start.failed = none → s.halted = false → s.start.recovery = 2 →
      s.med.setNew = true → ∃ t, exec (.recoveryStepComplete) s = .next t ∧ t.start.recovery = 3 ∧ t.xlt = s.xlt)
  ∧ (∀ (s : State), s.start.step = 7 → s.start.scan = false → s.start.failed = none → s.halted = false → s.start.recovery = 2 →
      s.med.setNew = false → (((List.range (regionCount s.order)).map s.imageOf).any (·.isNone)) = true →
      ∃ t, exec (.recoveryStepComplete) s = .next t ∧ t.start.scan = true ∧ t.fired 169 = true)
  ∧ (∀ (s : State), s.start.step = 7 → s.start.scan = false → s.start.failed = none → s.halted = false → s.start.recovery = 2 →
      s.med.setNew = false → (((List.range (regionCount s.order)).map s.imageOf).any (·.isNone)) = false →
      ∃ t, exec (.recoveryStepComplete) s = .next t ∧ t.start.recovery = 3
      ∧ t.xlt.map = ((List.range (regionCount s.order)).map s.imageOf).flatMap fun p => (p.map s.imageMap).getD [])
  ∧ (∀ (s : State), s.start.step = 7 → s.start.scan = false → s.start.failed = none → s.halted = false → s.start.recovery = 3 →
      (s.journalTake none s.journalFound).2 = false → ∃ t, exec (.recoveryStepComplete) s = .next t ∧ t.start.recovery = 4
      ∧ t.start.scan = false ∧ t.xlt.jpages.map (·.psa) = (s.journalTake none s.journalFound).1.map (·.1))
  ∧ (∀ (s : State), s.start.step = 7 → s.start.scan = false → s.start.failed = none → s.halted = false → s.start.recovery = 3 →
      (s.journalTake none s.journalFound).2 = true → ∃ t, exec (.recoveryStepComplete) s = .next t ∧ t.start.scan = true
      ∧ t.xlt.map = s.xlt.map)
  ∧ (∀ (s : State) (k : Nat), s.start.step = 7 → s.start.scan = false → s.start.failed = none → s.halted = false → s.start.recovery = k →
      (k = 4 ∨ k = 5) → ∃ t, exec (.recoveryStepComplete) s = .next t ∧ t.start.recovery = k + 1
      ∧ (∀ sw : Nat, (t.mapEntry sw).psa = (s.mapEntry sw).psa))
  ∧ (∀ (s : State), s.start.step = 7 → s.start.scan = false → s.start.failed = none → s.halted = false → s.start.recovery = 6 →
      ∃ t, exec (.recoveryStepComplete) s = .next t ∧ (t.start.recovery = 7 ∨ t.start.step = 8) ∧ (t.start.step = 7 →
      t.xlt.seq = (s.topStamp + 2 ^ 16 + 1) % 2 ^ 40 ∨ t.coh.extents ≠ s.coh.extents))
  ∧ (∀ (s : State), s.start.step = 7 → s.start.scan = false → s.start.failed = none → s.start.waiting = none → s.halted = false →
      s.start.recovery = 7 → s.fmReleases = s → (s.coh.extents.any fun e => e.state == .releasing) = false → s.stepSixCause = 0 →
      ∃ t, exec (.recoveryStepComplete) s = .next t ∧ t.getF TOP.STATE_MEM_ACTIVE = 1 ∧ t.start.step = 8 ∧ t.fired 53 = true
      ∧ t.fired 168 = true)
  ∧ (∀ (s : State), s.start.step = 7 → s.start.scan = true → s.start.failed = none → s.halted = false → s.start.recovery < 7 →
      ∃ t, exec (.selvageScanComplete) s = .next t ∧ t.fired 167 = true ∧ (t.start.recovery = 7 ∨ t.start.step = 8))

/-- Pattern update (R51, R52, R53): while no command runs, a write of TOP.PTU_CMD by the management endpoint takes the command up with the slot and page of TOP.PTU_ADDR and sets BUSY; its completion sets DONE, clears BUSY and fires source 44; an erase of a slot that is not active leaves its bytes unlisted, which read 0xFF, with result 0; reserved commands end with result 14. -/
def Obligations.PatternCommandsComplete : Prop :=
  (∀ (s : State) (m : Nat), s.mayWrite m 0x80 = true → isMgmt m = true → s.flag TOP.PTU_STATUS_BUSY = false →
      ∃ t, exec (.eraseSlot m) s = .next t ∧ t.pat.ptu.map (·.cmd) = some 1 ∧ t.getF TOP.PTU_STATUS_BUSY = 1
      ∧ t.getF TOP.PTU_STATUS_CMD_LAST = 1)
  ∧ (∀ (s : State) (m : Nat), s.mayWrite m 0x80 = true → isMgmt m = true → s.flag TOP.PTU_STATUS_BUSY = false →
      ∃ t, exec (.ptuProgram m) s = .next t
      ∧ t.pat.ptu.map (fun j => (j.cmd, j.slot, j.page)) = some (2, s.getF TOP.PTU_ADDR_SLOT, s.getF TOP.PTU_ADDR_PAGE)
      ∧ t.getF TOP.PTU_STATUS_BUSY = 1)
  ∧ (∀ (s : State) (m : Nat), s.mayWrite m 0x80 = true → isMgmt m = true → s.flag TOP.PTU_STATUS_BUSY = false →
      ∃ t, exec (.ptuRead m) s = .next t ∧ t.pat.ptu.map (·.cmd) = some 3 ∧ t.getF TOP.PTU_STATUS_BUSY = 1)
  ∧ (∀ (s : State) (m : Nat), s.mayWrite m 0x80 = true → isMgmt m = true → s.flag TOP.PTU_STATUS_BUSY = false →
      ∃ t, exec (.ptuVerify m) s = .next t ∧ t.pat.ptu.map (·.cmd) = some 4 ∧ t.getF TOP.PTU_STATUS_BUSY = 1)
  ∧ (∀ (s : State) (m : Nat), s.mayWrite m 0x80 = true → isMgmt m = true → s.flag TOP.PTU_STATUS_BUSY = false →
      ∃ t, exec (.liveApply m) s = .next t ∧ t.pat.ptu.map (·.cmd) = some 5 ∧ t.getF TOP.PTU_STATUS_BUSY = 1)
  ∧ (∀ (s : State) (m : Nat) (cmd : Nat), s.mayWrite m 0x80 = true → isMgmt m = true → s.flag TOP.PTU_STATUS_BUSY = false →
      (cmd = 6 ∨ cmd = 7) → ∃ t, exec (.ptuReservedCmd m cmd) s = .next t ∧ t.pat.ptu.map (·.cmd) = some cmd
      ∧ t.getF TOP.PTU_STATUS_BUSY = 1)
  ∧ (∀ (s : State) (j : PtuJob) (flashOk : Bool) (readOk : Bool), s.pat.ptu = some j → ∃ t, exec (.ptuCommandDone flashOk readOk) s = .next t
      ∧ t.getF TOP.PTU_STATUS_DONE = 1 ∧ t.getF TOP.PTU_STATUS_BUSY = 0 ∧ t.fired 44 = true)
  ∧ (∀ (s : State) (j : PtuJob) (readOk : Bool), s.pat.ptu = some j → j.cmd = 1 → j.slot ≠ s.activeSlot →
      ∃ t, exec (.ptuCommandDone true readOk) s = .next t ∧ t.getF TOP.PTU_STATUS_RESULT = 0
      ∧ (t.pat.flash = Tab.filter (fun k _ => k < slotBase j.slot || slotBase j.slot + 0x800000 ≤ k) s.pat.flash))
  ∧ (∀ (s : State) (j : PtuJob) (flashOk : Bool) (readOk : Bool), s.pat.ptu = some j → 6 ≤ j.cmd →
      ∃ t, exec (.ptuCommandDone flashOk readOk) s = .next t ∧ t.getF TOP.PTU_STATUS_RESULT = 14 ∧ t.pat.flash = s.pat.flash)
  ∧ (∀ (s : State) (j : PtuJob) (readOk : Bool), s.pat.ptu = some j → j.cmd = 2 → j.slot ≠ s.activeSlot →
      ∃ t, exec (.ptuCommandDone true readOk) s = .next t ∧ t.getF TOP.PTU_STATUS_RESULT = 0 ∧ (∀ i : Nat, i < 256 →
      Tab.get (fun _ => (0xFF : Byte)) t.pat.flash (slotBase j.slot + 256 * j.page + i) = Tab.get (fun _ => (0xFF : Byte)) s.pat.flash (slotBase j.slot + 256 * j.page + i) &&& j.bytes.getD i 0xFF))
  ∧ (∀ (s : State) (j : PtuJob) (readOk : Bool), s.pat.ptu = some j → j.cmd = 3 → ∃ t, exec (.ptuCommandDone true readOk) s = .next t
      ∧ t.getF TOP.PTU_STATUS_RESULT = 0 ∧ (∀ n : Nat, n < 64 →
      t.getF (TOP.PTU_BUF_DATA n) = fieldOf (s.flashBytes (slotBase j.slot + 256 * j.page) 256) (4 * n) 4))
  ∧ (∀ (s : State) (j : PtuJob) (flashOk : Bool) (readOk : Bool), s.pat.ptu = some j → j.cmd = 4 →
      ∃ t, exec (.ptuCommandDone flashOk readOk) s = .next t ∧ t.getF TOP.PTU_STATUS_RESULT = (s.slotCheck j.slot readOk).result
      ∧ t.getF (if j.slot = 0 then TOP.PATTERN_STATUS_A_RESULT else TOP.PATTERN_STATUS_B_RESULT) = (s.slotCheck j.slot readOk).result
      ∧ t.plan = s.plan)
  ∧ (∀ (s : State) (j : PtuJob) (flashOk : Bool) (readOk : Bool), s.pat.ptu = some j → j.cmd = 5 →
      (s.activeSlot = 3 ∨ (s.slotCheck j.slot readOk).result ≠ 0 ∨ (s.slotCheck j.slot readOk).version ≤ s.getF TOP.PATTERN_VER_VERSION ∨ s.livePending = true) →
      ∃ t, exec (.ptuCommandDone flashOk readOk) s = .next t ∧ t.getF TOP.PTU_STATUS_RESULT = 14 ∧ t.pat.active = s.pat.active
      ∧ t.plan = s.plan ∧ t.shadow = s.shadow)
  ∧ (∀ (s : State) (j : PtuJob) (flashOk : Bool), s.pat.ptu = some j → j.cmd = 5 → s.activeSlot ≠ 3 → (s.slotCheck j.slot true).result = 0 →
      s.getF TOP.PATTERN_VER_VERSION < (s.slotCheck j.slot true).version → s.livePending = false →
      State.fixedRecs (s.slotCheck j.slot true).recs = State.fixedRecs ((parseRecords (s.pat.active.2 + 1) (s.flashBytes (s.pat.active.1 + 256) s.pat.active.2)).getD []) →
      ∃ t, exec (.ptuCommandDone flashOk true) s = .next t ∧ t.getF TOP.PTU_STATUS_RESULT = 0
      ∧ t.pat.active = (slotBase j.slot, (s.slotCheck j.slot true).length) ∧ t.fired 45 = true
      ∧ t.plan.regions = (s.planOf (s.slotCheck j.slot true).recs).regions ∧ t.plan.group = s.plan.group)

/-- Register access (R58, R59, R61, R62, R10, R315): a permitted write of PMC.CTRL, a seam-applied register, leaves the register in force and is what a read shows; an MCTP read of one word answers it; the seam of THM brings its shadow into force, clears PEND and judges every zone afresh; a scan of DBG_ACCESS shifts out the latest response and, while the bridge cannot take its request, queues it; a bridge that has room again no longer makes its writer wait. -/
def Obligations.RegisterCommandsComplete : Prop :=
  (∀ (s : State) (m : Nat) (off : Nat) (v : Word) (d : RegDesc), s.clk.awake = true → off % 4 = 0 → s.writeJudge m off v = (.ok, 0) →
      findReg off = some d → d.base ∉ actionRegisters → d.seam = false → isLoHalf off = false →
      Tab.get (fun _ => none) s.held (off - 4) = none → Tab.get (fun _ => none) s.shadow off = none →
      ∃ t, exec (.registerWrite m off v true) s = .next t
      ∧ t.reg off = BitVec.ofNat 32 (pinned s.seq.planned off (d.write (s.reg off).toNat v.toNat)) ∧ (∀ a : Nat, a ≠ off →
      t.reg a = s.reg a))
  ∧ (∀ (s : State) (m : Nat) (off : Nat) (v : Word) (d : RegDesc), s.clk.awake = true → off % 4 = 0 → s.writeJudge m off v = (.ok, 0) →
      findReg off = some d → d.base ∉ actionRegisters → isLoHalf off = true → ∃ t, exec (.registerWrite m off v true) s = .next t
      ∧ t.regs = s.regs ∧ t.readRaw off = BitVec.ofNat 32 (d.write 0 v.toNat))
  ∧ (∀ (s : State) (m : Nat) (off : Nat) (v : Word) (d : RegDesc) (b : Block) (i : Nat) (so : Nat), s.clk.awake = true → off % 4 = 0 →
      s.writeJudge m off v = (.ok, 0) → findReg off = some d → d.base ∉ actionRegisters → d.seam = true → isLoHalf off = false →
      Tab.get (fun _ => none) s.held (off - 4) = none → Tab.get (fun _ => none) s.held off = none → unitOf off = some (b, i, so) →
      off ≠ so → ∃ t, exec (.registerWrite m off v true) s = .next t ∧ t.reg off = s.reg off
      ∧ t.readRaw off = BitVec.ofNat 32 (pinned s.seq.planned off (d.write (s.readRaw off).toNat v.toNat)) ∧ t.getF ⟨so, 31, 1⟩ = 1)
  ∧ (∀ (s : State) (m : Nat) (v : Word), m < 38 → s.mayWrite m 0x60000 = true → Tab.get (fun _ => none) s.held 0x60000 = none →
      Tab.get (fun _ => none) s.held 0x5FFFC = none → ∃ t, exec (.registerWrite m 0x60000 v true) s = .next t
      ∧ t.getF PMC.CTRL_PERIOD = s.getF PMC.CTRL_PERIOD ∧ (t.readRaw 0x60000).toNat % 65536 = v.toNat % 65536)
  ∧ (∀ (s : State) (m : Nat) (off : Nat) (v : Word) (d : RegDesc), isMgmt m = true → s.clk.awake = true → s.writeJudge m off v = (.ok, 0) →
      findReg off = some d → d.base ∉ actionRegisters → d.seam = false → isLoHalf off = false →
      Tab.get (fun _ => none) s.held (off - 4) = none → Tab.get (fun _ => none) s.shadow off = none →
      ∃ t, exec (.mctpRegisterMessage m false true off [v] 0) s = .next t
      ∧ t.reg off = BitVec.ofNat 32 (pinned s.seq.planned off (d.write (s.reg off).toNat v.toNat)) ∧ .mctp 0 1 [] ∈ t.out)
  ∧ (∀ (s : State) (m : Nat) (v : Word), 32 ≤ m → m ≤ 36 → s.mayWrite m 0x60000 = true → Tab.get (fun _ => none) s.held 0x60000 = none →
      Tab.get (fun _ => none) s.held 0x5FFFC = none → ∃ t, exec (.mctpRegisterMessage m false true 0x60000 [v] 0) s = .next t
      ∧ t.getF PMC.CTRL_PERIOD = s.getF PMC.CTRL_PERIOD ∧ (t.readRaw 0x60000).toNat % 65536 = v.toNat % 65536)
  ∧ (∀ (s : State) (m : Nat) (a : Nat) (n : Nat), isMgmt m = true → s.clk.awake = true → 1 ≤ n → n ≤ 16 →
      ((List.range n).all fun k => s.readJudge m (a + 4 * k) == .ok) = true →
      ∃ t, exec (.mctpRegisterMessage m false false a [] n) s = .next t
      ∧ t = s.emit (.mctp 0 n ((List.range n).map fun k => s.viewWord m (a + 4 * k))))
  ∧ (∀ (s : State) (m : Nat) (a : Nat) (v : Word), isMgmt m = true → s.clk.awake = true → s.spoolWordOk a = true → s.inWindowOf 16 a 4 = true →
      ∃ t, exec (.mctpRegisterMessage m true true a [v] 0) s = .next t ∧ t = (s.setSpoolBytes a (le 4 v.toNat)).emit (.mctp 0 1 []))
  ∧ (∀ (s : State) (m : Nat) (a : Nat), 32 ≤ m → m ≤ 36 → s.clk.awake = true → s.readJudge m a = .ok →
      ∃ t, exec (.mctpRegisterMessage m false false a [] 1) s = .next t ∧ t.out = s.out ++ [.mctp 0 1 [s.viewWord m a]])
  ∧ (∀ (s : State) (w : Word), s.clk.awake = true → s.shadow = [(0x20000, some w)] → s.flag ⟨0x2FFFC, 31, 1⟩ = true →
      ∃ t, exec (.seamReached .thm 0) s = .next t ∧ t.reg 0x20000 = w ∧ t.therm.fresh = true ∧ t.getF ⟨0x2FFFC, 31, 1⟩ = 0)
  ∧ (∀ (s : State) (blk : Block) (w : Word) (off : Nat) (base : Nat) (size : Nat), s.clk.awake = true → s.start.released = true →
      blk ∈ [Block.thm, .kps, .hmp, .int, .xlt, .cip] → unitRange blk 0 = (base, size) → s.shadow = [(off, some w)] → base ≤ off →
      off < base + size - 4 → s.flag ⟨base + size - 4, 31, 1⟩ = true → ∃ t, exec (.seamReached blk 0) s = .next t ∧ t.reg off = w
      ∧ t.shadow = [] ∧ t.getF ⟨base + size - 4, 31, 1⟩ = 0
      ∧ t.getF ⟨base + size - 4, 0, 16⟩ = (s.getF ⟨base + size - 4, 0, 16⟩ + 1) % 65536)
  ∧ (∀ (s : State) (k : Nat) (w : Word), s.clk.awake = true → s.start.released = true → k < 8 → s.flag ⟨0x1CFFFC, 31, 1⟩ = true →
      s.shadow = [(0x1C0000, some w)] → (Tab.get (fun _ => 0) s.sliceDone 0x1CFFFC ||| 2 ^ k ≠ 255) →
      ∃ t, exec (.seamReached .scb k) s = .next t ∧ Tab.get (fun _ => none) t.sliceReg (8 * 0x1C0000 + k) = some w
      ∧ t.reg 0x1C0000 = s.reg 0x1C0000 ∧ t.flag ⟨0x1CFFFC, 31, 1⟩ = true)
  ∧ (∀ (s : State) (k : Nat) (w : Word), s.clk.awake = true → s.start.released = true → k < 8 → s.flag ⟨0x1CFFFC, 31, 1⟩ = true →
      s.shadow = [(0x1C0000, some w)] → (Tab.get (fun _ => 0) s.sliceDone 0x1CFFFC ||| 2 ^ k = 255) →
      ∃ t, exec (.seamReached .scb k) s = .next t ∧ t.reg 0x1C0000 = w ∧ t.flag ⟨0x1CFFFC, 31, 1⟩ = false ∧ t.shadow = [])
  ∧ (∀ (s : State) (req : BitVec 64), s.clk.awake = true → s.dbg.ir = 0x18 → s.halted = false → bits req.toNat 63 62 = 1 →
      s.flag TOP.GCTRL_JTAG_DBG_EN = true → s.dbg.bridge = [] → s.readJudge 37 (bits req.toNat 61 42 * 4) = .ok →
      ∃ t, exec (.dbgAccessRequest req false) s = .next t ∧ t.dbg.resp = State.tapResp 0 (s.viewWord 37 (bits req.toNat 61 42 * 4))
      ∧ .tap s.dbg.resp ∈ t.out)
  ∧ (∀ (s : State) (req : BitVec 64) (off : Nat) (d : RegDesc), s.clk.awake = true → s.dbg.ir = 0x18 → s.halted = false →
      bits req.toNat 63 62 = 2 → s.flag TOP.GCTRL_JTAG_DBG_EN = true → s.dbg.bridge = [] → off = bits req.toNat 61 42 * 4 →
      s.writeJudge 37 off (BitVec.ofNat 32 req.toNat) = (.ok, 0) → findReg off = some d → d.base ∉ actionRegisters → d.seam = false →
      isLoHalf off = false → Tab.get (fun _ => none) s.held (off - 4) = none → Tab.get (fun _ => none) s.shadow off = none →
      ∃ t, exec (.dbgAccessRequest req false) s = .next t
      ∧ t.reg off = BitVec.ofNat 32 (pinned s.seq.planned off (d.write (s.reg off).toNat (BitVec.ofNat 32 req.toNat).toNat))
      ∧ t.dbg.resp = State.tapResp 0 0)
  ∧ (∀ (s : State) (req : BitVec 64) (busy : Bool), s.clk.awake = true → s.dbg.ir = 0x18 → s.halted = false →
      (bits req.toNat 63 62 = 0 ∨ bits req.toNat 63 62 = 3) → ∃ t, exec (.dbgAccessRequest req busy) s = .next t
      ∧ t.out = s.out ++ [.tap s.dbg.resp] ∧ t.dbg = s.dbg)
  ∧ (∀ (s : State) (req : BitVec 64), s.clk.awake = true → s.dbg.ir = 0x18 → s.halted = false → bits req.toNat 63 62 = 1 →
      s.flag TOP.GCTRL_JTAG_DBG_EN = true → s.dbg.bridge.length < 8 → ∃ t, exec (.dbgAccessRequest req true) s = .next t
      ∧ t.out = s.out ++ [.tap s.dbg.resp] ∧ t.dbg.bridge = s.dbg.bridge ++ [req])
  ∧ (∀ (s : State) (n : Nat), n ≠ 4 → ((s.reqs.filter fun r => r.stage == .bridge && r.port == n).length < 48) →
      ∃ t, exec (.islandBridgeRoom n) s = .next t ∧ Tab.get (fun _ => false) t.bridgeWait n = false)
  ∧ (∀ (s : State) (req : BitVec 64) (l : List (BitVec 64)), s.dbg.bridge = req :: l → s.halted = true →
      ∃ t, exec (.islandBridgeRoom 4) s = .next t ∧ t.dbg.bridge = l)

/-- Power sequencing (R67, R440, R469, R473 to R476, R480, R483): what each event does where its condition holds. The slots are taken in rising order of delay, a power-good of a rail being brought up makes it run, that of CORE also commands VMAX, an expired window begins the power-down that a retry or the end of the start follows, and a held on request starts the device after the minimum off time. -/
def Obligations.PowerSequenceComplete : Prop :=
  (∀ (s : State) (m : Nat), s.mayWrite m 0xC = true → isMgmt m = true → s.mayStart = true → s.seq.state = .off → s.topState = 6 →
      ∃ t, exec (.pwrreqOn m) s = .next t ∧ t.start.cause = 3 ∧ t.start.step = 2)
  ∧ (∀ (s : State) (m : Nat), s.mayWrite m 0xC = true → isMgmt m = true → s.halted = false → s.topState = 3 → s.flush.kind = .none →
      ∃ t, exec (.pwrreqOff m) s = .next t ∧ t.flush.kind = .orderly)
  ∧ (∀ (s : State) (us : Nat), s.seq.state = .up → s.seq.stopUp = false → (∀ r : Nat, r < 16 → Nat.testBit s.seq.used r = true →
      s.railEn r = false → us ≤ s.seq.onUs.getD r 0) → ∃ t, exec (.railEnableSlot us) s = .next t ∧ (∀ r : Nat, r < 16 →
      Nat.testBit s.seq.used r = true → s.seq.onUs.getD r 0 = us → s.railEn r = false → t.railEn r = true))
  ∧ (∀ (s : State) (r : Nat), r < 16 → Nat.testBit s.seq.used r = true → s.seq.state = .up → s.railEn r = true → s.railGood r = false →
      s.railFaulted r = false → ∃ t, exec (.powerGoodRise r) s = .next t ∧ t.railGood r = true)
  ∧ (∀ (s : State), Nat.testBit s.seq.used 0 = true → s.seq.state = .up → s.seq.stopUp = false → s.railEn 0 = true → s.railGood 0 = false →
      s.railFaulted 0 = false → ∃ t, exec (.powerGoodRise 0) s = .next t ∧ t.pace.awaitRelease = true ∧ t.pace.avs.pending = some s.vmaxMv)
  ∧ (∀ (s : State) (r : Nat), s.seq.state = .up → s.railEn r = true → s.railGood r = false → s.railFaulted r = false → s.seq.stopUp = false →
      ∃ t, exec (.pgWindowExpire r) s = .next t ∧ t.seq.state = .down ∧ t.seq.after = (if s.seq.retries + 1 ≤ s.seq.attempt then 2 else 1)
      ∧ t.railFaulted r = true)
  ∧ (∀ (s : State), s.seq.state = .gap → ∃ t, exec (.retryGapEnd) s = .next t ∧ t.seq.state = .up ∧ t.seq.attempt = min 8 (s.seq.attempt + 1)
      ∧ t.seq.used = s.getF PWS.RAIL_USED_USED)
  ∧ (∀ (s : State) (us : Nat), s.seq.state = .down → (∀ r : Nat, r < 16 → s.railEn r = true → us ≤ s.seq.offUs.getD r 0) →
      ∃ t, exec (.railDisableSlot us) s = .next t ∧ (∀ r : Nat, r < 16 → s.seq.offUs.getD r 0 = us → t.railEn r = false))
  ∧ (∀ (s : State) (pfw : Bool), s.seq.state = .down → s.railsOn = [] → s.seq.after = 1 → ∃ t, exec (.powerDownEnd pfw) s = .next t
      ∧ t.seq.state = .gap ∧ t.pins.pfw = pfw)
  ∧ (∀ (s : State) (pfw : Bool), s.seq.state = .down → s.railsOn = [] → s.seq.after = 0 → s.seq.restart = false →
      ∃ t, exec (.powerDownEnd pfw) s = .next t ∧ t.seq.state = .minOff ∧ t.seq.pf = false)
  ∧ (∀ (s : State) (pfw : Bool), s.seq.state = .down → s.railsOn = [] → s.seq.after = 2 → s.seq.restart = false →
      ∃ t, exec (.powerDownEnd pfw) s = .next t ∧ t.seq.state = .minOff ∧ t.fired 33 = true ∧ t.getF TOP.STATE_STATE = 6)
  ∧ (∀ (s : State) (pfw : Bool), s.seq.state = .down → s.railsOn = [] → s.seq.after = 0 → s.seq.restart = true → s.seq.heldOn = none →
      pfw = false → s.seq.sagLow = false → s.mayStart = true → s.topState ≠ 2 → ∃ t, exec (.powerDownEnd pfw) s = .next t
      ∧ t.seq.state = .minOff ∧ t.seq.heldOn = some 4)
  ∧ (∀ (s : State), s.seq.state = .minOff → s.seq.heldOn = none → ∃ t, exec (.minOffEnd) s = .next t ∧ t.seq.state = .off ∧ t.seq.heldOn = none)
  ∧ (∀ (s : State) (c : Nat), s.seq.state = .minOff → s.seq.heldOn = some c → s.mayStart = true → ∃ t, exec (.minOffEnd) s = .next t
      ∧ t.start.cause = c ∧ t.start.step = 2)

/-- Supervision (R470, R477, R479, R482, R543): a sample stores the pin voltage of every used rail, scaled, and of VS_IN, and judges VS_IN against the sag threshold; a running rail whose power-good is lost no longer runs and is marked faulted, in a power-down with source 35; a brown-out of AUX33 empties the register window and keeps the flash. -/
def Obligations.RailSupervisionComplete : Prop :=
  (∀ (s : State) (pins : List Nat) (vsin : Nat) (settling : Bool), s.clk.awake = true →
      ∃ t, exec (.railSample pins vsin settling) s = .next t ∧ t.getF PWS.VSIN_PIN_MV = min 1500 vsin ∧ (∀ r : Nat, r < 16 →
      Nat.testBit (s.getF PWS.RAIL_USED_USED) r = true →
      t.getF (PWS.RAIL_STAT_MV r) = min 65535 (min 1500 (pins.getD r 0) * s.getF (PWS.RAIL_LIM_SCALE r) / 256))
      ∧ (t.seq.sagLow = (s.getF PWS.VSIN_CTRL_SAG_MV != 0 && decide (min 1500 vsin < s.getF PWS.VSIN_CTRL_SAG_MV))))
  ∧ (∀ (s : State) (r : Nat), s.railGood r = true → s.seq.state ≠ .down → r < 16 → ∃ t, exec (.railPgLost r) s = .next t ∧ t.railGood r = false
      ∧ t.railFaulted r = true)
  ∧ (∀ (s : State) (r : Nat), s.railGood r = true → s.seq.state = .down → r < 16 → ∃ t, exec (.railPgLost r) s = .next t ∧ t.railGood r = false
      ∧ t.railFaulted r = true ∧ t.fired 35 = true)
  ∧ (∀ (s : State), s.pins.aux33 = true → ∃ t, exec (.aux33Brownout) s = .next t ∧ t.pins.aux33 = false ∧ t.clk.awake = false ∧ t.regs = []
      ∧ t.pat.flash = s.pat.flash)

/-- Temperature supervision (R487, R488, R490, R498): a sample stores every die reading, clipped to 16 bits, and judges by the thresholds in force; 50 differing samples make a sensor suspect with source 64; the hardware trip turns every rail off, asserts PFO_N and latches. -/
def Obligations.ThermalCommandsComplete : Prop :=
  (∀ (s : State) (die : List Int) (hbm : List Int), s.clk.awake = true → ∃ t, exec (.thermalSample die hbm) s = .next t
      ∧ t.therm.fresh = false ∧ (∀ k : Nat, k < 32 →
      Tab.get (fun _ => none) t.therm.temp k = some (max (-32768) (min 32767 (die.getD k 0)))))
  ∧ (∀ (s : State) (n : Nat), n < 40 → s.sensorOut n = false → 50 ≤ Tab.get (fun _ => 0) s.therm.differ n →
      ∃ t, exec (.sensorSuspect n) s = .next t ∧ t.getF (THM.SENSOR_SUSPECT n) = 1 ∧ t.fired 64 = true)
  ∧ (∀ (s : State) (n : Nat), 40 ≤ n → n < 72 → s.sensorOut n = false → 50 ≤ Tab.get (fun _ => 0) s.therm.differ n →
      ∃ t, exec (.sensorSuspect n) s = .next t ∧ Tab.get (fun _ => false) t.therm.cartOut (n - 40) = true ∧ t.fired 64 = true)
  ∧ (∀ (s : State) (k : Nat), s.clk.awake = true → s.flag THM.STATUS_TRIP_LATCH = false → ∃ t, exec (.hardwareThermalTrip k) s = .next t
      ∧ t.seq.state = .off ∧ t.flag THM.STATUS_TRIP_LATCH = true ∧ t.fired 7 = true ∧ t.pins.pfo = true ∧ t.start.released = false
      ∧ (∀ r : Nat, r < 16 → t.railEn r = false))

/-- Host reads (R68, R70, R71, R73, R74, R92, R93, R94): a read that decodes and is permitted becomes a request of its port, at the bridge or already admitted; at its order point a read is answered with the newest value that the write buffer, the Pincushion, the Lining or staging holds, and one that no cache holds keeps the map entry and the index entry as of then; an invalidate or a clean evict is answered without data; a line with patches goes on to the patch index, one without is read from its swatch page, an index hit from its patch, an unmapped line answers zeros; a probe that misses is closed; the old line of a partial write comes from the probe's hit or from the decoded media data; data of a squashed read is discarded; reconstruction reads every other member, and a lost line fires source 206. -/
def Obligations.ReadsComplete : Prop :=
  (∀ (s : State) (port : Nat) (q : M2SReq) (line : Nat), s.portOpen port true = true → q.form = .good → s.halted = false →
      (s.hostDecode port q.ld q.hpa).toOption = some line → s.memMissing q.ld rightMemRd line = none → (∀ r ∈ s.reqs, r.id < s.nextReq) →
      ∃ t, exec (.m2sReqReceived port q) s = .next t ∧ t.nextReq = s.nextReq + 1
      ∧ (t.reqs.any (fun r => r.id == s.nextReq && r.line == line && r.port == port && r.ld == q.ld && r.tag == q.tag && (r.stage == .bridge || r.stage == .dispatch)) = true))
  ∧ (∀ (s : State) (port : Nat) (k : Nat), 0 < (Tab.get (fun _ => {}) (s.port port).trackers k).count →
      ∃ t, exec (.streamTrackerExpire port k) s = .next t ∧ (Tab.get (fun _ => {}) (t.port port).trackers k).count = 0
      ∧ (∀ n : Nat, n < 32 → n ≠ k → Tab.get (fun _ => {}) (t.port port).trackers n = Tab.get (fun _ => {}) (s.port port).trackers n))
  ∧ (∀ (s : State) (rid : Nat) (r : Req) (miss : Bool), s.reqOf rid = some r → r.stage = .dispatch → r.kind = .read → s.isNext r = true →
      s.sharedOf r.line = false → s.fencedAt r.line = false → s.sealBit r.line = false → s.cipherFault = false → s.integ.inj = none →
      s.buffered r.line = none → s.pentHit r.line = none → s.findWay r.line = none → s.stagedOf r.line = none →
      ∃ t, exec (.readOrderPoint rid { tagMiss := miss }) s = .next t
      ∧ (t.reqOf rid).map (fun x => (x.stage, x.ordered, x.probe, x.map, x.idx)) = some (.probing, true, miss, s.mapEntry (swatchOf r.line), s.idxOf r.line))
  ∧ (∀ (s : State) (rid : Nat) (r : Req) (w : Req), s.reqOf rid = some r → r.stage = .dispatch → r.kind = .read → s.isNext r = true →
      s.sharedOf r.line = false → s.fencedAt r.line = false → s.sealBit r.line = false → s.cipherFault = false → s.integ.inj = none →
      s.answersNow r = true → s.buffered r.line = some w → w.unmerged = false → w.poison = false →
      tagOk { data := w.data, tag := w.wtag, poison := false } r.line false = true → ∃ t, exec (.readOrderPoint rid {}) s = .next t
      ∧ t.reqOf rid = none ∧ t.out.any (Msg.answers r (some w.data) false) = true)
  ∧ (∀ (s : State) (rid : Nat) (r : Req) (n : Nat), s.reqOf rid = some r → r.stage = .dispatch → r.kind = .read → s.isNext r = true →
      s.sharedOf r.line = false → s.fencedAt r.line = false → s.sealBit r.line = false → s.cipherFault = false → s.integ.inj = none →
      s.answersNow r = true → s.buffered r.line = none → s.pentHit r.line = some n → (s.pline n r.line).val.poison = false →
      tagOk (s.pline n r.line).val r.line false = true → ∃ t, exec (.readOrderPoint rid {}) s = .next t ∧ t.reqOf rid = none
      ∧ t.out.any (Msg.answers r (some (s.pline n r.line).val.data) false) = true)
  ∧ (∀ (s : State) (rid : Nat) (r : Req) (k : Nat), s.reqOf rid = some r → r.stage = .dispatch → r.kind = .read → s.isNext r = true →
      s.sharedOf r.line = false → s.fencedAt r.line = false → s.sealBit r.line = false → s.cipherFault = false → s.integ.inj = none →
      s.answersNow r = true → s.buffered r.line = none → s.pentHit r.line = none → s.findWay r.line = some k →
      (s.way k).val.poison = false → tagOk (s.way k).val r.line false = true → ∃ t, exec (.readOrderPoint rid {}) s = .next t
      ∧ t.reqOf rid = none ∧ t.out.any (Msg.answers r (some (s.way k).val.data) false) = true
      ∧ ((t.way k).ref = (!r.stream || (s.way k).ref)))
  ∧ (∀ (s : State) (rid : Nat) (r : Req) (k : Nat), s.reqOf rid = some r → r.stage = .dispatch → r.kind = .read → s.isNext r = true →
      s.sharedOf r.line = false → s.fencedAt r.line = false → s.sealBit r.line = false → s.cipherFault = false → s.integ.inj = none →
      s.buffered r.line = none → s.pentHit r.line = none → s.findWay r.line = some k →
      ∃ t, exec (.readOrderPoint rid { tagMiss := true }) s = .next t
      ∧ (t.reqOf rid).map (fun x => (x.stage, x.ordered, x.probe, x.hit)) = some (.probing, true, true, some (s.way k).val))
  ∧ (∀ (s : State) (rid : Nat) (r : Req) (x : Staged), s.reqOf rid = some r → r.stage = .dispatch → r.kind = .read → s.isNext r = true →
      s.sharedOf r.line = false → s.fencedAt r.line = false → s.sealBit r.line = false → s.cipherFault = false → s.integ.inj = none →
      s.answersNow r = true → s.buffered r.line = none → s.pentHit r.line = none → s.findWay r.line = none → s.stagedOf r.line = some x →
      x.val.poison = false → tagOk x.val r.line false = true → ∃ t, exec (.readOrderPoint rid {}) s = .next t ∧ t.reqOf rid = none
      ∧ t.out.any (Msg.answers r (some x.val.data) false) = true)
  ∧ (∀ (s : State) (rid : Nat) (r : Req), s.reqOf rid = some r → r.stage = .dispatch → (r.kind = .inv ∨ r.kind = .evct) → s.isNext r = true →
      s.sharedOf r.line = false → s.fencedAt r.line = false → s.answersNow r = true → ∃ t, exec (.readOrderPoint rid {}) s = .next t
      ∧ t.reqOf rid = none ∧ t.out.any (Msg.answers r none false) = true)
  ∧ (∀ (s : State) (rid : Nat) (r : Req), s.reqOf rid = some r → r.stage = .probing → r.probe = false → s.psaInvalid r.map.psa = false →
      s.mapBadAt (swatchOf r.line) = false → r.map.present = true → ∃ t, exec (.mapAnswer rid) s = .next t
      ∧ t.reqOf rid = some { r with stage := .index })
  ∧ (∀ (s : State) (rid : Nat) (r : Req), s.reqOf rid = some r → r.stage = .probing → r.probe = false → s.psaInvalid r.map.psa = false →
      s.mapBadAt (swatchOf r.line) = false → r.map.present = false → r.map.psa ≠ unmappedPsa → s.psaUp r.map.psa = true →
      ∃ t, exec (.mapAnswer rid) s = .next t ∧ t.reqOf rid = some { r with stage := .media, target := some (r.map.psa, r.line % 64) })
  ∧ (∀ (s : State) (rid : Nat) (r : Req), s.reqOf rid = some r → r.stage = .probing → r.probe = false → r.kind = .read →
      s.mapBadAt (swatchOf r.line) = false → r.map.present = false → r.map.psa = unmappedPsa → s.cipherFault = false →
      s.answersNow r = true → ∃ t, exec (.mapAnswer rid) s = .next t ∧ t.reqOf rid = none
      ∧ t.out.any (Msg.answers r (some 0) false) = true)
  ∧ (∀ (s : State) (rid : Nat) (r : Req) (e : IdxEntry), s.reqOf rid = some r → r.stage = .index →
      Tab.get (fun _ => false) s.xlt.bucketBad (homeBucket (swatchOf r.line)) = false → r.idx = some e → s.psaUp e.psa = true →
      ∃ t, exec (.patchIndexAnswer rid) s = .next t ∧ t.reqOf rid = some { r with stage := .media, target := some (e.psa, e.slot) })
  ∧ (∀ (s : State) (rid : Nat) (r : Req), s.reqOf rid = some r → r.stage = .index →
      Tab.get (fun _ => false) s.xlt.bucketBad (homeBucket (swatchOf r.line)) = false → r.idx = none → r.map.psa ≠ unmappedPsa →
      s.psaUp r.map.psa = true → ∃ t, exec (.patchIndexAnswer rid) s = .next t
      ∧ t.reqOf rid = some { r with stage := .media, target := some (r.map.psa, r.line % 64) })
  ∧ (∀ (s : State) (rid : Nat) (r : Req), s.reqOf rid = some r → r.probe = true → r.hit = none →
      ∃ t, exec (.probeHit rid false false) s = .next t ∧ t.reqOf rid = some { r with probe := false } ∧ t.out = s.out)
  ∧ (∀ (s : State) (rid : Nat) (r : Req) (l : Line) (left : Bool), s.reqOf rid = some r → r.probe = true → r.hit = some l → r.kind = .write →
      s.integ.inj = none → ∃ t, exec (.probeHit rid false left) s = .next t
      ∧ (t.reqOf rid).map (fun x => (x.stage, x.probe, x.old)) = some (.merge, false, some l))
  ∧ (∀ (s : State) (rid : Nat) (r : Req) (l : Line) (left : Bool), s.reqOf rid = some r → r.probe = true → r.hit = some l → r.kind = .read →
      s.integ.inj = none → s.cipherFault = false → l.poison = false → tagOk l r.line (s.sharedOf r.line) = true → r.flow = false →
      s.answersNow r = true → ∃ t, exec (.probeHit rid false left) s = .next t ∧ t.reqOf rid = none
      ∧ t.out.any (Msg.answers r (some l.data) false) = true ∧ (r.stage = .media → left = true →
      t.med.ghosts.any (fun g => g.req == rid && g.squashed) = true ∨ r.target = none))
  ∧ (∀ (s : State) (rid : Nat) (d : Sensed) (g : Ghost) (l : List Ghost), s.reqOf rid = none → s.med.ghosts = g :: l → g.req = rid →
      ∃ t, exec (.mediaReadData rid d false false) s = .next t ∧ t.med.ghosts = l ∧ t.reqs = s.reqs)
  ∧ (∀ (s : State) (rid : Nat) (r : Req) (psa : Nat) (slot : Nat) (p : Page) (l : Line) (d : Sensed), s.reqOf rid = some r → r.stage = .media →
      r.probe = false → r.kind = .write → r.target = some (psa, slot) → r.inj4 = 0 → s.integ.inj = none → s.cipherFault = false →
      s.pageAt psa = some p → symErrors ((p.line slot).damage ^^^ d.errors) ≤ 8 → s.decLine r.line (p.line slot) = .ok l →
      ∃ t, exec (.mediaReadData rid d false false) s = .next t ∧ (t.reqOf rid).map (fun x => (x.stage, x.old)) = some (.merge, some l))
  ∧ (∀ (s : State) (rid : Nat) (r : Req) (psa : Nat) (slot : Nat) (p : Page) (l : Line) (d : Sensed), s.reqOf rid = some r → r.stage = .media →
      r.probe = false → r.kind = .read → r.target = some (psa, slot) → r.inj4 = 0 → s.integ.inj = none → s.cipherFault = false →
      s.pageAt psa = some p → symErrors ((p.line slot).damage ^^^ d.errors) ≤ 8 → s.decLine r.line (p.line slot) = .ok l →
      l.poison = false → tagOk l r.line (s.sharedOf r.line) = true → r.flow = false → s.answersNow r = true →
      ∃ t, exec (.mediaReadData rid d false false) s = .next t ∧ t.reqOf rid = none ∧ t.out.any (Msg.answers r (some l.data) false) = true)
  ∧ (∀ (s : State) (rid : Nat) (r : Req) (psa : Nat) (slot : Nat) (m : Nat) (ms : List Nat), s.reqOf rid = some r → r.stage = .recon →
      r.target = some (psa, slot) → s.siblings psa = some (m :: ms) → r.probe = false → (∀ x ∈ m :: ms, s.psaUp x = true) →
      ∃ t, exec (.reconstructionStart rid) s = .next t
      ∧ t.reqOf rid = some { r with stage := .members, members := m :: ms, lost := false })
  ∧ (∀ (s : State) (rid : Nat) (r : Req) (m : Nat) (d : Sensed), s.reqOf rid = some r → r.stage = .members → r.members.contains m = true →
      r.members.filter (· != m) ≠ [] → r.probe = false → (∀ x ∈ r.members, s.psaUp x = true) →
      ∃ t, exec (.reconstructionReadData rid m d) s = .next t
      ∧ (t.reqOf rid).map (fun x => (x.stage, x.members)) = some (.members, r.members.filter (· != m)))
  ∧ (∀ (s : State) (rid : Nat) (r : Req) (m : Nat) (d : Sensed), s.reqOf rid = some r → r.stage = .members → r.members.contains m = true →
      r.members.filter (· != m) = [] → r.lost = true → r.kind = .write → ∃ t, exec (.reconstructionReadData rid m d) s = .next t
      ∧ (t.reqOf rid).map (·.stage) = some .merge ∧ t.fired 206 = true)
  ∧ (∀ (s : State) (rid : Nat) (r : Req) (m : Nat) (d : Sensed) (psa : Nat) (slot : Nat) (q : Page) (p : Page) (l : Line), s.reqOf rid = some r →
      r.stage = .members → r.probe = false → r.members.contains m = true → r.members.filter (· != m) = [] → r.lost = false →
      r.kind = .read → r.target = some (psa, slot) → s.pageAt m = some q → symErrors ((q.line slot).damage ^^^ d.errors) ≤ 8 →
      s.pageThere psa = some p → s.decLine r.line { p.line slot with damage := 0 } = .ok l → s.cipherFault = false → l.poison = false →
      tagOk l r.line (s.sharedOf r.line) = true → r.flow = false → s.answersNow r = true →
      ∃ t, exec (.reconstructionReadData rid m d) s = .next t ∧ t.reqOf rid = none ∧ t.out.any (Msg.answers r (some l.data) false) = true)

/-- Host writes (R79 to R83, R94, R97, R102, R197): a write that decodes and is permitted becomes a request of its port; one that nothing holds back takes its order point and enters the write buffer, a partial one with the old line of the cache that holds it or with the map and index entries by which it is fetched, and a sealed one only sets its seal bit and completes; a partial write takes the bytes that its mask enables and keeps the old line's others; a commit stores the line as newest and dirty in the Pincushion entry or the way that holds it, or in the victim way, and completes the write; writes that waited for staging room proceed once there is room; LAT_CTRL.CLEAR zeroes both latency maxima. -/
def Obligations.WritesComplete : Prop :=
  (∀ (s : State) (port : Nat) (q : M2SRwD) (line : Nat), s.portOpen port true = true → q.form = .good → s.halted = false →
      (s.hostDecode port q.ld q.hpa).toOption = some line → s.memMissing q.ld rightMemWr line = none → (∀ r ∈ s.reqs, r.id < s.nextReq) →
      ∃ t, exec (.m2sRwdReceived port q) s = .next t ∧ t.nextReq = s.nextReq + 1
      ∧ (t.reqs.any (fun r => r.id == s.nextReq && r.isWrite && r.line == line && r.port == port && r.ld == q.ld && r.tag == q.tag && (r.stage == .bridge || r.stage == .dispatch)) = true))
  ∧ (∀ (s : State) (rid : Nat) (r : Req) (miss : Bool), s.reqOf rid = some r → r.kind = .write → r.stage = .dispatch → s.isNext r = true →
      s.flush.stopped = false → s.wbufLen (sliceOf r.line) < 64 → s.sharedOf r.line = false → s.fencedAt r.line = false →
      s.keyGone r.line = false → s.sealedLine r.line = false → s.flush.clean = none →
      (s.writesThrough r.line = true ∨ s.dirtyIn r.line = true ∨ s.budgetRoom (sliceOf r.line) = true) → s.cipherFault = false →
      s.integ.inj = none → r.partW = false → ∃ t, exec (.writeAdmission rid { tagMiss := miss }) s = .next t
      ∧ t.reqOf rid = some { r with ordered := true, stage := .buffered })
  ∧ (∀ (s : State) (rid : Nat) (r : Req) (miss : Bool) (k : Nat), s.reqOf rid = some r → r.kind = .write → r.stage = .dispatch →
      s.isNext r = true → s.flush.stopped = false → s.wbufLen (sliceOf r.line) < 64 → s.sharedOf r.line = false →
      s.fencedAt r.line = false → s.keyGone r.line = false → s.sealedLine r.line = false → s.flush.clean = none →
      (s.writesThrough r.line = true ∨ s.dirtyIn r.line = true ∨ s.budgetRoom (sliceOf r.line) = true) → s.cipherFault = false →
      s.integ.inj = none → r.partW = true → r.ordered = false → s.buffered r.line = none → s.pentHit r.line = none →
      s.findWay r.line = some k → ∃ t, exec (.writeAdmission rid { tagMiss := miss }) s = .next t
      ∧ (t.reqOf rid).map (fun x => (x.stage, x.ordered, x.old)) = some (.merge, true, some (s.way k).val))
  ∧ (∀ (s : State) (rid : Nat) (r : Req) (miss : Bool), s.reqOf rid = some r → r.kind = .write → r.stage = .dispatch → s.isNext r = true →
      s.flush.stopped = false → s.wbufLen (sliceOf r.line) < 64 → s.sharedOf r.line = false → s.fencedAt r.line = false →
      s.keyGone r.line = false → s.sealedLine r.line = false → s.flush.clean = none →
      (s.writesThrough r.line = true ∨ s.dirtyIn r.line = true ∨ s.budgetRoom (sliceOf r.line) = true) → s.cipherFault = false →
      s.integ.inj = none → r.partW = true → s.buffered r.line = none → s.pentHit r.line = none → s.findWay r.line = none →
      s.stagedOf r.line = none → ∃ t, exec (.writeAdmission rid { tagMiss := miss }) s = .next t
      ∧ (t.reqOf rid).map (fun x => (x.stage, x.ordered, x.map, x.idx)) = some (.probing, true, s.mapEntry (swatchOf r.line), s.idxOf r.line))
  ∧ (∀ (s : State) (rid : Nat) (r : Req), s.reqOf rid = some r → r.kind = .write → r.stage = .dispatch → s.isNext r = true →
      s.flush.stopped = false → s.wbufLen (sliceOf r.line) < 64 → s.sharedOf r.line = false → s.fencedAt r.line = false →
      s.keyGone r.line = false → s.sealedLine r.line = true → s.sealRoom r.line = true → r.wback = false → s.answersNow r = true →
      ∃ t, exec (.writeAdmission rid {}) s = .next t ∧ t.reqOf rid = none ∧ t.sealBit r.line = true
      ∧ t.get64 MED.SEALED_LO_COUNT MED.SEALED_HI_COUNT = (s.get64 MED.SEALED_LO_COUNT MED.SEALED_HI_COUNT + 1) % 2 ^ 64
      ∧ t.out.any (Msg.answers r none false) = true)
  ∧ (∀ (s : State) (rid : Nat) (r : Req) (o : Line), s.reqOf rid = some r → r.stage = .merge → r.old = some o → o.poison = false →
      tagOk o r.line (s.sharedOf r.line) = true → (∀ x ∈ s.reqs, x.stage ≠ .bufwait) → ∃ t, exec (.partialWriteMerge rid) s = .next t
      ∧ ((t.reqOf rid).map (fun x => (x.stage, x.data, x.poison)) = some (.buffered, (o.data &&& ~~~beMask r.be) ||| (r.data &&& beMask r.be), r.poison)))
  ∧ (∀ (s : State) (rid : Nat) (r : Req) (k : Nat), s.reqOf rid = some r → r.stage = .buffered → s.commitsNext r = true → r.void = false →
      r.wback = false → s.flush.stopped = false → s.writesThrough r.line = false → s.findPent r.line = none → s.findWay r.line = some k →
      s.integ.inj = none → s.answersNow r = true → ∃ t, exec (.writeCommit rid) s = .next t ∧ (t.way k).dirty = true
      ∧ (t.way k).val = { data := r.data, tag := r.wtag, poison := r.poison, origin := r.origin } ∧ t.reqOf rid = none
      ∧ t.out.any (Msg.answers r none false) = true)
  ∧ (∀ (s : State) (rid : Nat) (r : Req) (n : Nat), s.reqOf rid = some r → r.stage = .buffered → s.commitsNext r = true → r.void = false →
      r.wback = false → s.flush.stopped = false → s.writesThrough r.line = false → s.findPent r.line = some n → s.integ.inj = none →
      s.answersNow r = true → ∃ t, exec (.writeCommit rid) s = .next t ∧ (t.pline n r.line).dirty = true
      ∧ (t.pline n r.line).val = { data := r.data, tag := r.wtag, poison := r.poison, origin := r.origin } ∧ t.reqOf rid = none
      ∧ t.out.any (Msg.answers r none false) = true)
  ∧ (∀ (s : State) (rid : Nat) (r : Req) (k : Nat), s.reqOf rid = some r → r.stage = .buffered → s.commitsNext r = true → r.void = false →
      r.wback = false → s.flush.stopped = false → s.writesThrough r.line = false → s.findPent r.line = none → s.findWay r.line = none →
      s.victim r.line = k → ((s.way k).valid = false ∨ (s.way k).dirty = false) → s.integ.inj = none → s.answersNow r = true →
      ∃ t, exec (.writeCommit rid) s = .next t ∧ (t.way k).dirty = true ∧ (t.way k).valid = true ∧ (t.way k).line = r.line
      ∧ (t.way k).val = { data := r.data, tag := r.wtag, poison := r.poison, origin := r.origin }
      ∧ t.out.any (Msg.answers r none false) = true)
  ∧ (∀ (s : State) (k : Nat), s.stagingLen k < 786432 → ∃ t, exec (.stagingWaitEnd k) s = .next t ∧ t.cache.wait230.contains k = false
      ∧ (∀ j : Nat, j ≠ k → t.cache.wait230.contains j = s.cache.wait230.contains j) ∧ (∀ r ∈ t.reqs, ¬(r.stage = .hold ∧ r.why = 1
      ∧ sliceOf r.line = k)) ∧ (∀ r ∈ s.reqs, r.stage = .hold → r.why = 1 → sliceOf r.line = k → { r with stage := .buffered } ∈ t.reqs))
  ∧ (∀ (s : State) (m : Nat) (k : Nat), s.mayWrite m (0x200010 + 0x8000 * k) = true → k < 8 → ∃ t, exec (.latClear m k) s = .next t
      ∧ t.getF (SLC.RD_LAT_MAX_NS k) = 0 ∧ t.getF (SLC.WR_LAT_MAX_NS k) = 0)

/-- The patch log (R116 to R119, R122 to R124, R167): a staged line of a swatch with more dirty lines than FULL_THRESH, or whose index window is full (source 166), queues the swatch for a full-swatch write; one with fewer gets a patch place in the open page of its group or in a new one; the seal timer programs the page; a verified page is stored and, for its last line, is what the index names; a verified flush page counts its patches; a failed program retires its bolt (source 199) and gives it a substitute; DARN_REQ queues a darn of priority 4; waiting triggers enter the queue in order; an assembly starts with its page's program and, verified, switches the map; a due patch bolt has its swatches darned with priority 1 and, with no live patch, leaves the roster. -/
def Obligations.PatchLogCompletes : Prop :=
  (∀ (s : State) (line : Nat), s.flush.stopped = false → s.throughOpen line = false →
      (s.cache.staging.any (fun x => x.line == line && x.place.isNone && !x.taken) = true) →
      clamp 1 32 (s.getF XLT.CTRL_FULL_THRESH) < (s.dirtyOfSwatch (swatchOf line)).length → s.darnRoom (swatchOf line) = true →
      ∃ t, exec (.evictionRelease line) s = .next t ∧ (t.xlt.darnq.any (fun p => p.swatch == swatchOf line && p.prios.contains 2) = true)
      ∧ t.cache.staging = s.cache.staging)
  ∧ (∀ (s : State) (line : Nat), s.flush.stopped = false → s.throughOpen line = false →
      (s.cache.staging.any (fun x => x.line == line && x.place.isNone && !x.taken) = true) → s.windowFree (swatchOf line) = none →
      s.darnRoom (swatchOf line) = true → ∃ t, exec (.evictionRelease line) s = .next t
      ∧ (t.xlt.darnq.any (fun p => p.swatch == swatchOf line && p.prios.contains 2) = true) ∧ t.fired 166 = true
      ∧ t.cache.staging = s.cache.staging)
  ∧ (∀ (s : State) (line : Nat) (o : OpenPatch), s.flush.stopped = false → s.throughOpen line = false → s.integ.inj = none →
      (s.cache.staging.any (fun x => x.line == line && x.place.isNone && !x.taken) = true) →
      (s.dirtyOfSwatch (swatchOf line)).length ≤ clamp 1 32 (s.getF XLT.CTRL_FULL_THRESH) → s.windowFree (swatchOf line) ≠ none →
      s.darnRoom (swatchOf line) = true → (s.xlt.openPages.find? (fun o => o.group == s.homeGroup (swatchOf line) && !o.flush) = some o) →
      (s.xlt.seq + 2 ^ 40 - o.seq) % 2 ^ 40 ≤ 65535 → o.ents.length < 55 → ∃ t, exec (.evictionRelease line) s = .next t
      ∧ (t.cache.staging.any (fun x => x.line == line && x.place == some (o.psa, o.ents.length)) = true)
      ∧ t.xlt.seq = (s.xlt.seq + 1) % 2 ^ 40)
  ∧ (∀ (s : State) (line : Nat) (f : Frame), s.flush.stopped = false → s.throughOpen line = false → s.integ.inj = none →
      (s.cache.staging.any (fun x => x.line == line && x.place.isNone && !x.taken) = true) →
      (s.dirtyOfSwatch (swatchOf line)).length ≤ clamp 1 32 (s.getF XLT.CTRL_FULL_THRESH) → s.windowFree (swatchOf line) ≠ none →
      s.darnRoom (swatchOf line) = true → s.xlt.openPages = [] → s.openFrameOf (s.homeGroup (swatchOf line)) 16 = some f →
      ∃ t, exec (.evictionRelease line) s = .next t
      ∧ (t.cache.staging.any (fun x => x.line == line && x.place == some (f.psa f.next, 0)) = true)
      ∧ (t.xlt.openPages.any (fun o => o.psa == f.psa f.next && o.ents.length == 1) = true))
  ∧ (∀ (s : State) (psa : Nat) (o : OpenPatch), (s.xlt.openPages.find? (fun o => o.psa == psa && !o.ents.isEmpty) = some o) →
      ∃ t, exec (.sealTimerExpire psa) s = .next t ∧ t.xlt.openPages = s.xlt.openPages.filter (fun x => x.psa != psa)
      ∧ t.med.progs = s.med.progs ++ [{ psa := psa, page := s.patchPage o, purpose := .patch }])
  ∧ (∀ (s : State) (psa : Nat) (p : Prog), s.progOf psa = some p → p.purpose = .patch → s.isFlushPage psa = false → s.flush.stopped = false →
      s.integ.inj = none → ∃ t, exec (.patchPageVerified psa) s = .next t ∧ t.progOf psa = none
      ∧ (t.pageAt psa).map (·.dir) = some p.page.dir)
  ∧ (∀ (s : State) (psa : Nat) (p : Prog) (d : DirEntry), s.progOf psa = some p → p.purpose = .patch → s.isFlushPage psa = false →
      s.flush.stopped = false → p.page.dir = [d] → d.dropped = false → s.idxOf d.line = none → s.windowFree (swatchOf d.line) ≠ none →
      ∃ t, exec (.patchPageVerified psa) s = .next t ∧ (t.idxOf d.line).map (fun e => (e.psa, e.slot, e.poison)) = some (psa, 0, d.poison))
  ∧ (∀ (s : State) (psa : Nat) (p : Prog), s.progOf psa = some p → p.purpose = .patch → s.isFlushPage psa = true → s.flush.stopped = false →
      ∃ t, exec (.patchPageVerified psa) s = .next t ∧ t.flush.patches = s.flush.patches + p.page.dir.length)
  ∧ (∀ (s : State) (psa : Nat) (p : Prog), s.progOf psa = some p → p.purpose = .patch →
      s.spareBolt (boltSlot (s.aliasOf (boltOf psa))) (boltDie (s.aliasOf (boltOf psa))) true ≠ none →
      ∃ t, exec (.patchProgramFail psa) s = .next t ∧ t.fired 199 = true ∧ (t.ledger (s.aliasOf (boltOf psa))).state = 4)
  ∧ (∀ (s : State) (m : Nat) (hi : Word) (sw : Nat), s.mayWrite m 0x160024 = true → sw = (s.readRaw 0x160020).toNat + 2 ^ 32 * (hi.toNat % 2) →
      s.livePatches sw ≠ 0 → s.xlt.heldDarn = none → (s.xlt.darnq.length < 65536 ∨ s.xlt.darnq.any (fun p => p.swatch == sw) = true) →
      ∃ t, exec (.darnRequest m hi) s = .next t ∧ (t.xlt.darnq.any (fun p => p.swatch == sw && p.prios.contains 4) = true))
  ∧ (∀ (s : State) (p : DarnPlace) (rest : List DarnPlace), s.xlt.waiting = p :: rest → s.darnRoom p.swatch = true →
      ∃ t, exec (.darnQueueRoom) s = .next t ∧ t.xlt.waiting = rest ∧ t.xlt.darnq.any (fun x => x.swatch == p.swatch) = true)
  ∧ (∀ (s : State) (p : DarnPlace) (rest : List DarnPlace), s.xlt.waiting = p :: rest → s.xlt.darnq.length < 65536 →
      s.xlt.darnq.any (fun x => x.swatch == p.swatch) = false → ∃ t, exec (.darnQueueRoom) s = .next t ∧ t.xlt.waiting = rest
      ∧ t.xlt.darnq = s.xlt.darnq ++ [p])
  ∧ (∀ (s : State) (p : DarnPlace) (f : Frame), s.flush.stopped = false → s.xlt.asm.length < 256 → s.med.stuck = [] → s.nextDarn = some p →
      s.darnMoot p = false → s.cipherFault = false → s.integ.inj = none →
      s.openFrameOf (s.homeGroup p.swatch) (s.nextS (s.homeGroup p.swatch)) = some f → ∃ t, exec (.assemblyStart) s = .next t
      ∧ t.xlt.asm.map (·.swatch) = s.xlt.asm.map (·.swatch) ++ [p.swatch]
      ∧ t.xlt.darnq = s.xlt.darnq.filter (fun q => q.swatch != p.swatch)
      ∧ (t.med.progs.getLast?).map (fun x => (x.psa, x.purpose)) = some (f.psa f.next, .assembly))
  ∧ (∀ (s : State) (psa : Nat) (p : Prog) (a : Assembly), s.progOf psa = some p → p.purpose = .assembly →
      s.xlt.asm.find? (fun a => a.psa == psa) = some a → a.ended = false → s.mapHurt a.swatch = false →
      ∃ t, exec (.assemblyPageVerified psa) s = .next t ∧ (t.mapEntry a.swatch).psa = psa
      ∧ t.xlt.asm = s.xlt.asm.filter (fun b => b.psa != psa) ∧ (∀ e ∈ a.snap, t.xlt.index.all (fun x => x.2 != some e) = true))
  ∧ (∀ (s : State) (b : Nat) (rest : List Nat), s.xlt.roster = b :: rest → s.flush.stopped = false → s.reclaimDue b = true →
      s.boltSwatches b ≠ [] → s.xlt.darnq.length + (s.boltSwatches b).length ≤ 65536 → ∃ t, exec (.patchBoltReclaim) s = .next t
      ∧ (∀ sw ∈ s.boltSwatches b, t.xlt.darnq.any (fun p => p.swatch == sw && p.prios.contains 1) = true))
  ∧ (∀ (s : State) (b : Nat) (rest : List Nat), s.xlt.roster = b :: rest → s.flush.stopped = false → s.reclaimDue b = true →
      s.boltSwatches b = [] → (s.xlt.openPages.any (fun o => boltOf o.psa == b && !o.ents.isEmpty) = false) →
      (s.med.progs.any (fun p => p.purpose == .patch && boltOf p.psa == b) = false) → (s.frameOf b).all (·.closed) = true →
      ∃ t, exec (.patchBoltReclaim) s = .next t ∧ t.xlt.roster = s.xlt.roster.filter (· != b))
  ∧ (∀ (s : State) (b : Nat) (rest : List Nat) (f : Frame), s.xlt.roster = b :: rest → s.flush.stopped = false → s.reclaimDue b = true →
      s.boltSwatches b = [] → (s.xlt.openPages.any (fun o => boltOf o.psa == b && !o.ents.isEmpty) = false) →
      (s.med.progs.any (fun p => p.purpose == .patch && boltOf p.psa == b) = false) → s.frameOf b = some f → f.closed = false →
      f.cut = false → f.next % f.width ≠ 0 → f.width ≠ 0 → ∃ t, exec (.patchBoltReclaim) s = .next t
      ∧ (t.med.progs.any (fun p => p.purpose == .filler && f.bolts.contains (boltOf p.psa)) = true) ∧ t.xlt.roster = s.xlt.roster)

/-- Checkpoints and the clock (R111, R131, R133, R140, R141): a region image is kept and the pass goes on to the next region; a pass beyond PASS_MAX sets LATE with source 162; the media clock counts seconds; the time pair goes to Tack words 0x1218 on; a repaired block is marked good with source 160 and its entries are those of the image, the journal or the scan; a read that waited too long fires source 161 and is answered. -/
def Obligations.CheckpointCommandsComplete : Prop :=
  (∀ (s : State) (u : State) (pages : List Nat), s.flush.stopped = false → s.memActive = true →
      s.imageWrite s.xlt.region (decide (s.xlt.passNo % 2 = 1)) s.xlt.imgStart = some (u, pages) →
      s.xlt.region + 1 < regionCount s.order → ∃ t, exec (.regionImageComplete) s = .next t ∧ t.xlt.region = s.xlt.region + 1
      ∧ t.getF XLT.CKPT_STATUS_REGION = s.xlt.region + 1
      ∧ { region := s.xlt.region, copy := decide (s.xlt.passNo % 2 = 1), start := s.xlt.imgStart, pages := pages } ∈ t.xlt.images
      ∧ (∀ b : Nat, b / 2 ^ 20 = s.xlt.region → Tab.get (fun _ => false) t.xlt.changed b = false))
  ∧ (∀ (s : State), s.xlt.lateNow = false → ∃ t, exec (.checkpointLate) s = .next t ∧ t.xlt.lateNow = true ∧ t.getF XLT.CKPT_STATUS_LATE = 1
      ∧ t.fired 162 = true)
  ∧ (∀ (s : State), s.start.released = true → ∃ t, exec (.mediaClockTick) s = .next t ∧ t.xlt.mclk = (s.xlt.mclk + 1) % 2 ^ 32)
  ∧ (∀ (s : State), s.start.released = true → s.clk.timeSet = true → s.kpsOk = true → ∃ t, exec (.timePairWrite) s = .next t
      ∧ (t.tackWord 0x1218).toNat = s.clk.time % 2 ^ 32 ∧ (t.tackWord 0x121A).toNat = s.xlt.mclk % 2 ^ 32)
  ∧ (∀ (s : State) (b : Nat) (scan : Bool) (us : Nat), Tab.get (fun _ => false) s.xlt.mapBad b = true →
      ∃ t, exec (.mapBlockRepairDone b scan us) s = .next t ∧ Tab.get (fun _ => false) t.xlt.mapBad b = false ∧ t.fired 160 = true
      ∧ (∀ sw : Nat, (mapBlocksOf sw).contains b = true → (t.mapEntry sw).psa = (Tab.get (fun _ => {}) ((s.repairMap b scan).1) sw).psa))
  ∧ (∀ (s : State) (rid : Nat) (r : Req), s.reqOf rid = some r → r.stage = .repair → r.kind = .read → r.flow = false → s.answersNow r = true →
      ∃ t, exec (.repairWaitTimeout rid) s = .next t ∧ t.fired 161 = true ∧ t.reqOf rid = none
      ∧ t.out.any (Msg.answers r (some 0) true) = true)

/-- The media engine (R127, R145, R146, R157, R164, R165, R167, R168, R174, R190, R191): a verified page is stored where its PSA stands, a journal page's program is over, and a copy of a swatch page that is still current switches the map to it; the basting timer closes a set and issues its basting page; a failed program and a failed reset retire the bolt (source 199); a reset counts; collection and refresh reset a frame with no valid page and copy a valid page of one that has some; a completed rebuild clears ACTIVE with source 204 and, onto a whole group, gives state 1, while one that lacks bolts goes on with those that remain; a rebuild in place starts with source 205. -/
def Obligations.MediaCommandsComplete : Prop :=
  (∀ (s : State) (psa : Nat) (p : Prog), s.progOf psa = some p → p.purpose ≠ .patch → p.purpose ≠ .assembly →
      s.mapHurt p.page.selv.swatch = false → s.integ.inj = none → ∃ t, exec (.pageProgramVerified psa) s = .next t
      ∧ (Tab.get (fun _ => none) t.med.pages (s.physPsa psa)).map (fun q => (q.selv.typ, q.selv.swatch, q.selv.seq, q.lines)) = some (p.page.selv.typ, p.page.selv.swatch, p.page.selv.seq, p.page.lines))
  ∧ (∀ (s : State) (psa : Nat) (p : Prog) (old : Nat) (gc : Bool), s.progOf psa = some p → p.purpose = .copy old gc → p.page.selv.typ = 1 →
      s.mapHurt p.page.selv.swatch = false → s.integ.inj = none → (s.mapEntry p.page.selv.swatch).psa = old →
      s.xlt.asm.any (fun a => a.swatch == p.page.selv.swatch) = false → s.idxOfSwatch p.page.selv.swatch = [] →
      ∃ t, exec (.pageProgramVerified psa) s = .next t ∧ (t.mapEntry p.page.selv.swatch).psa = psa)
  ∧ (∀ (s : State) (psa : Nat) (p : Prog), s.progOf psa = some p → p.purpose = .journal → s.flush.stopped = false →
      ∃ t, exec (.pageProgramVerified psa) s = .next t ∧ (∀ x ∈ t.med.progs, x.psa = psa → x.purpose ≠ .journal))
  ∧ (∀ (s : State) (k : Nat) (b : BSet), (s.med.bast.find? (fun b => b.slot == k && !b.pages.isEmpty) = some b) →
      ∃ t, exec (.bastingTimerExpire k) s = .next t
      ∧ (t.med.bast = s.med.bast.filter (fun x => !(x.number == b.number && x.slot == b.slot)))
      ∧ t.med.progs.length = s.med.progs.length + 1)
  ∧ (∀ (s : State) (psa : Nat) (p : Prog), s.progOf psa = some p → p.purpose ≠ .patch →
      s.spareBolt (boltSlot (s.aliasOf (boltOf psa))) (boltDie (s.aliasOf (boltOf psa))) true ≠ none →
      ∃ t, exec (.pageProgramFail psa) s = .next t ∧ t.fired 199 = true ∧ (t.ledger (s.aliasOf (boltOf psa))).state = 4)
  ∧ (∀ (s : State) (n : Nat) (d : Nat) (b : Nat), s.med.resets.contains (mkBolt n d b) = true → s.boltRead (mkBolt n d b) = false →
      ∃ t, exec (.boltResetDone n d b) s = .next t ∧ (t.ledger (mkBolt n d b)).resets = (s.ledger (mkBolt n d b)).resets + 1)
  ∧ (∀ (s : State) (n : Nat) (d : Nat) (b : Nat), s.med.resets.contains (mkBolt n d b) = true → s.boltRead (mkBolt n d b) = false →
      ∃ t, exec (.boltResetFail n d b) s = .next t ∧ t.fired 199 = true ∧ (t.ledger (mkBolt n d b)).state = 4
      ∧ (t.ledger (mkBolt n d b)).resets = (s.ledger (mkBolt n d b)).resets + 1)
  ∧ (∀ (s : State) (g : Nat) (f : Frame), s.flush.stopped = false → (s.groupMedia g).collecting = true →
      (s.med.frames.filter (fun x => x.group == g && State.collectable x) = [f]) →
      ((List.range f.next).any fun e => s.copying (f.psa e)) = false → s.frameValid f = 0 → ∃ t, exec (.gcCollect g) s = .next t
      ∧ (t.med.frames.any (fun x => x.group == f.group && x.number == f.number) = false)
      ∧ (∀ x ∈ s.med.frames, (x.group ≠ g ∨ x.number ≠ f.number) → x ∈ t.med.frames))
  ∧ (∀ (s : State) (g : Nat) (f : Frame) (h : Frame) (p : Page), s.flush.stopped = false → (s.groupMedia g).collecting = true →
      (s.med.frames.filter (fun x => x.group == g && State.collectable x) = [f]) → f.next = 1 → s.copying (f.psa 0) = false →
      s.frameValid f ≠ 0 → s.openFrameOf g (s.nextS g) = some h → s.pageThere (f.psa 0) = some p → p.selv.typ = 1 →
      (s.mapEntry p.selv.swatch).psa = f.psa 0 → s.homeGroup p.selv.swatch = g → s.xlt.asm = [] → s.swatchInFlight p.selv.swatch = false →
      s.idxOfSwatch p.selv.swatch = [] → s.integ.inj = none → ∃ t, exec (.gcCollect g) s = .next t
      ∧ t.med.progs.map (fun x => (x.psa, x.purpose)) = s.med.progs.map (fun x => (x.psa, x.purpose)) ++ [(h.psa h.next, .copy (f.psa 0) true)])
  ∧ (∀ (s : State) (g : Nat) (f : Frame), s.flush.stopped = false →
      (((s.groupMedia g).refreshq.findSome? fun n => s.med.frames.find? fun f => f.group == g && f.number == n && State.collectable f) = some f) →
      f.closed = true → s.frameValid f = 0 → ∃ t, exec (.refreshRun g) s = .next t
      ∧ (t.med.frames.any (fun x => x.group == f.group && x.number == f.number) = false)
      ∧ (t.groupMedia f.group).refreshq = (s.groupMedia f.group).refreshq.filter (· != f.number))
  ∧ (∀ (s : State) (g : Nat) (f : Frame) (h : Frame) (p : Page), s.flush.stopped = false →
      (((s.groupMedia g).refreshq.findSome? fun n => s.med.frames.find? fun f => f.group == g && f.number == n && State.collectable f) = some f) →
      f.next = 1 → s.copying (f.psa 0) = false → s.frameValid f ≠ 0 → s.openFrameOf g (s.nextS g) = some h →
      s.pageThere (f.psa 0) = some p → p.selv.typ = 1 → (s.mapEntry p.selv.swatch).psa = f.psa 0 → s.homeGroup p.selv.swatch = g →
      s.xlt.asm = [] → s.swatchInFlight p.selv.swatch = false → s.idxOfSwatch p.selv.swatch = [] → s.integ.inj = none →
      ∃ t, exec (.refreshRun g) s = .next t
      ∧ t.med.progs.map (fun x => (x.psa, x.purpose)) = s.med.progs.map (fun x => (x.psa, x.purpose)) ++ [(h.psa h.next, .copy (f.psa 0) false)])
  ∧ (∀ (s : State) (g : Nat) (n : Nat) (sip : Bool), g < 4 → s.flush.stopped = false → (s.groupMedia g).rebuild = some (n, sip) →
      (s.flag (MED.GROUP_STATUS_BELOW_LOW g) = false ∨ s.flag (MED.GROUP_STATUS_GC_ACTIVE g) = false) → (s.rebuildAll g n sip).2 = [] →
      ∃ t, exec (.rebuildComplete g) s = .next t ∧ t.getF MED.REBUILD_STATUS_ACTIVE = 0 ∧ t.getF MED.REBUILD_STATUS_PERMILLE = 1000
      ∧ t.fired 204 = true ∧ (t.groupMedia g).rebuild = none ∧ (t.groupMedia g).lost = [])
  ∧ (∀ (s : State) (g : Nat) (n : Nat), g < 4 → s.flush.stopped = false → (s.groupMedia g).rebuild = some (n, false) →
      (s.flag (MED.GROUP_STATUS_BELOW_LOW g) = false ∨ s.flag (MED.GROUP_STATUS_GC_ACTIVE g) = false) → (s.rebuildAll g n false).2 = [] →
      (s.groupSlots g).length = 8 → 7 ≤ (s.present g).length → ∃ t, exec (.rebuildComplete g) s = .next t
      ∧ t.getF (MED.GROUP_STATUS_STATE g) = 1)
  ∧ (∀ (s : State) (g : Nat) (n : Nat) (sip : Bool), g < 4 → s.flush.stopped = false → (s.groupMedia g).rebuild = some (n, sip) →
      (s.flag (MED.GROUP_STATUS_BELOW_LOW g) = false ∨ s.flag (MED.GROUP_STATUS_GC_ACTIVE g) = false) → (s.rebuildAll g n sip).2 ≠ [] →
      ∃ t, exec (.rebuildComplete g) s = .next t ∧ (t.groupMedia g).rebuild = some (n, sip)
      ∧ (t.groupMedia g).lost = (s.rebuildAll g n sip).2)
  ∧ (∀ (s : State) (g : Nat) (n : Nat), g < 4 → s.flush.stopped = false → s.getF MED.CTRL_SIP_EN = 1 →
      (s.groupMedia g).degradedAt + s.getF MED.REBUILD_CTRL_SIP_WAIT * 60000000000 ≤ s.clk.now → s.getF (MED.GROUP_STATUS_STATE g) = 2 →
      (s.groupMedia g).rebuild = none →
      (((List.range 8).map (8 * g + ·)).find? (fun n => !(s.cart n).adopted && !(s.liveBolts n).isEmpty) = some n) →
      ∃ t, exec (.rebuildInPlace g) s = .next t ∧ (t.groupMedia g).rebuild = some (n, true) ∧ (t.groupMedia g).lost = s.liveBolts n
      ∧ t.getF MED.REBUILD_STATUS_ACTIVE = 1 ∧ t.getF MED.REBUILD_STATUS_SLOT = n ∧ t.getF (MED.GROUP_STATUS_STATE g) = 4
      ∧ t.fired 205 = true)

/-- The caches' upkeep (R199, R205, R212, R219): a tick clears REF and the age of a way that was used and ages one that was not; one slice's fill makes its bit valid and ends FILLING with the eighth; a disabling cache with nothing left to write back holds no valid line any more and is disabled with source 228; a register operation whose write-backs are in force ends with result 0. -/
def Obligations.CacheUpkeepCompletes : Prop :=
  (∀ (s : State) (k : Nat), (s.way k).valid = true → ∃ t, exec (.ageingTick) s = .next t
      ∧ (t.way k).age = (if (s.way k).ref then 0 else min 3 ((s.way k).age + 1)) ∧ (t.way k).ref = false ∧ (t.way k).val = (s.way k).val)
  ∧ (∀ (s : State) (s1 : State) (n : Nat) (k : Nat), k < 8 → (s.pent n).filling = true → Nat.testBit (s.pent n).valid k = false →
      s.pcuOff = false → s.victimLeave n k = some s1 → (∀ i : Nat, i < 64 → sliceOf (64 * (s.pent n).swatch + i) = k →
      s1.readWaits (64 * (s.pent n).swatch + i) = false) → ∃ t, exec (.pinSliceFill n k) s = .next t
      ∧ ((t.pent n).valid = (s.pent n).valid ||| 2 ^ k) ∧ ((t.pent n).filling = decide ((s.pent n).valid ||| 2 ^ k ≠ 255))
      ∧ (t.pent n).swatch = (s.pent n).swatch)
  ∧ (∀ (s : State), s.getF LIN.STATUS_DISABLING = 1 → s.disableOpen false = false → ∃ t, exec (.cacheDisableComplete false) s = .next t
      ∧ (∀ k, (t.way k).valid = false) ∧ t.cache.pcu = s.cache.pcu ∧ t.getF LIN.STATUS_DISABLING = 0 ∧ t.getF LIN.STATUS_ENABLED = 0
      ∧ t.fired 228 = true)
  ∧ (∀ (s : State), s.getF PCU.STATUS_DISABLING = 1 → s.disableOpen true = false → ∃ t, exec (.cacheDisableComplete true) s = .next t
      ∧ t.cache.pcu = [] ∧ t.getF PCU.STATUS_DISABLING = 0 ∧ t.getF PCU.STATUS_ENABLED = 0 ∧ t.fired 228 = true)
  ∧ (∀ (s : State) (b : Bool) (o : CacheOp), s.opNow b = some o → o.op ≠ 4 → o.todo = [] → (∀ id ∈ o.waits, s.backOpen id = false) →
      ∃ t, exec (.maintenanceDone b) s = .next t ∧ t.opNow b = none ∧ (if b = true then t.getF PCU.OP_STATUS_BUSY = 0
      ∧ t.getF PCU.OP_STATUS_DONE = 1 ∧ t.getF PCU.OP_STATUS_RESULT = 0 else t.getF LIN.OP_STATUS_BUSY = 0 ∧ t.getF LIN.OP_STATUS_DONE = 1
      ∧ t.getF LIN.OP_STATUS_RESULT = 0))

/-- LIN.OP_CMD by set and way and by DPA on a line that a way holds (R207, R208, R211 to R215, Tables 06-13 to 06-16): CLEAN and CLEAN_INVALIDATE of a dirty way stage its line and leave it clean, BUSY stays set for the write-back; of a clean one CLEAN ends with result 0 and CLEAN_INVALIDATE, as INVALIDATE does, empties the way with result 0; LOCK and UNLOCK set and clear LOCK; READ_WAY shows VALID, DIRTY and AGE; operation 7 gives result 3. -/
def Obligations.LiningOperationsComplete : Prop :=
  (∀ (s : State) (m : Nat) (k : Nat) (l : Nat) (b : Bool), s.mayWrite m 0x14002c = true → s.getF LIN.OP_STATUS_BUSY = 0 →
      (if b = true then k = 16 * s.getF LIN.OP_SETWAY_SET + s.getF LIN.OP_SETWAY_WAY
      ∧ s.getF LIN.OP_SETWAY_SET < liningSets s.order else l = s.getF LIN.OP_ADDR_LO_DPA + 2 ^ 26 * s.getF LIN.OP_ADDR_HI_DPA
      ∧ s.decoded none l = true) → s.findPent l = none → s.linOff = false → (s.way k).valid = true → (s.way k).line = l →
      s.findWay l = some k → (∀ r ∈ s.reqs, r.line ≠ l) → (s.way k).dirty = false → s.backsOf l = [] →
      ∃ t, exec (.linClean m b) s = .next t ∧ t.cache.staging = s.cache.staging ∧ (t.way k).val = (s.way k).val ∧ (t.way k).valid = true
      ∧ t.getF LIN.OP_STATUS_BUSY = 0 ∧ t.getF LIN.OP_STATUS_DONE = 1 ∧ t.getF LIN.OP_STATUS_RESULT = 0)
  ∧ (∀ (s : State) (m : Nat) (k : Nat) (l : Nat) (b : Bool), s.mayWrite m 0x14002c = true → s.getF LIN.OP_STATUS_BUSY = 0 →
      (if b = true then k = 16 * s.getF LIN.OP_SETWAY_SET + s.getF LIN.OP_SETWAY_WAY
      ∧ s.getF LIN.OP_SETWAY_SET < liningSets s.order else l = s.getF LIN.OP_ADDR_LO_DPA + 2 ^ 26 * s.getF LIN.OP_ADDR_HI_DPA
      ∧ s.decoded none l = true) → s.findPent l = none → s.linOff = false → (s.way k).valid = true → (s.way k).line = l →
      s.findWay l = some k → (∀ r ∈ s.reqs, r.line ≠ l) → (s.way k).dirty = true → s.stagingRoom l = true → (s.injCached l).2 = false →
      ∃ t, exec (.linClean m b) s = .next t ∧ t.cache.staging = s.cache.staging ++ [{ id := s.nextReq, line := l, val := (s.way k).val }]
      ∧ (t.way k).dirty = false ∧ t.getF LIN.OP_STATUS_BUSY = 1 ∧ (t.way k).valid = true)
  ∧ (∀ (s : State) (m : Nat) (k : Nat) (l : Nat) (b : Bool), s.mayWrite m 0x14002c = true → s.getF LIN.OP_STATUS_BUSY = 0 →
      s.mayInvalidate m = true → (if b = true then k = 16 * s.getF LIN.OP_SETWAY_SET + s.getF LIN.OP_SETWAY_WAY
      ∧ s.getF LIN.OP_SETWAY_SET < liningSets s.order else l = s.getF LIN.OP_ADDR_LO_DPA + 2 ^ 26 * s.getF LIN.OP_ADDR_HI_DPA
      ∧ s.decoded none l = true) → s.findPent l = none → s.linOff = false → (s.way k).valid = true → (s.way k).line = l →
      s.findWay l = some k → (∀ r ∈ s.reqs, r.line ≠ l) → ∃ t, exec (.linInvalidate m b) s = .next t ∧ (t.way k).valid = false
      ∧ t.cache.staging = s.cache.staging ∧ t.getF LIN.OP_STATUS_BUSY = 0 ∧ t.getF LIN.OP_STATUS_DONE = 1
      ∧ t.getF LIN.OP_STATUS_RESULT = 0)
  ∧ (∀ (s : State) (m : Nat) (k : Nat) (l : Nat) (b : Bool), s.mayWrite m 0x14002c = true → s.getF LIN.OP_STATUS_BUSY = 0 →
      s.mayInvalidate m = true → (if b = true then k = 16 * s.getF LIN.OP_SETWAY_SET + s.getF LIN.OP_SETWAY_WAY
      ∧ s.getF LIN.OP_SETWAY_SET < liningSets s.order else l = s.getF LIN.OP_ADDR_LO_DPA + 2 ^ 26 * s.getF LIN.OP_ADDR_HI_DPA
      ∧ s.decoded none l = true) → s.findPent l = none → s.linOff = false → (s.way k).valid = true → (s.way k).line = l →
      s.findWay l = some k → (∀ r ∈ s.reqs, r.line ≠ l) → (s.way k).dirty = false → s.backsOf l = [] →
      ∃ t, exec (.linCleanInvalidate m b) s = .next t ∧ (t.way k).valid = false ∧ t.getF LIN.OP_STATUS_BUSY = 0
      ∧ t.getF LIN.OP_STATUS_DONE = 1 ∧ t.getF LIN.OP_STATUS_RESULT = 0)
  ∧ (∀ (s : State) (m : Nat) (k : Nat) (l : Nat) (b : Bool), s.mayWrite m 0x14002c = true → s.getF LIN.OP_STATUS_BUSY = 0 →
      s.mayInvalidate m = true → (if b = true then k = 16 * s.getF LIN.OP_SETWAY_SET + s.getF LIN.OP_SETWAY_WAY
      ∧ s.getF LIN.OP_SETWAY_SET < liningSets s.order else l = s.getF LIN.OP_ADDR_LO_DPA + 2 ^ 26 * s.getF LIN.OP_ADDR_HI_DPA
      ∧ s.decoded none l = true) → s.findPent l = none → s.linOff = false → (s.way k).valid = true → (s.way k).line = l →
      s.findWay l = some k → (∀ r ∈ s.reqs, r.line ≠ l) → (s.way k).dirty = true → s.stagingRoom l = true → (s.injCached l).2 = false →
      ∃ t, exec (.linCleanInvalidate m b) s = .next t
      ∧ t.cache.staging = s.cache.staging ++ [{ id := s.nextReq, line := l, val := (s.way k).val }] ∧ (t.way k).dirty = false
      ∧ t.getF LIN.OP_STATUS_BUSY = 1)
  ∧ (∀ (s : State) (m : Nat) (k : Nat) (l : Nat) (b : Bool), s.mayWrite m 0x14002c = true → s.getF LIN.OP_STATUS_BUSY = 0 →
      (if b = true then k = 16 * s.getF LIN.OP_SETWAY_SET + s.getF LIN.OP_SETWAY_WAY
      ∧ s.getF LIN.OP_SETWAY_SET < liningSets s.order else l = s.getF LIN.OP_ADDR_LO_DPA + 2 ^ 26 * s.getF LIN.OP_ADDR_HI_DPA
      ∧ s.decoded none l = true) → s.findPent l = none → s.linOff = false → (s.way k).valid = true → (s.way k).line = l →
      s.findWay l = some k → s.lockedWays (k / 16) < 4 → ∃ t, exec (.linLock m b) s = .next t ∧ (t.way k).lock = true
      ∧ (t.way k).valid = true ∧ (t.way k).val = (s.way k).val ∧ t.getF LIN.OP_STATUS_BUSY = 0 ∧ t.getF LIN.OP_STATUS_DONE = 1
      ∧ t.getF LIN.OP_STATUS_RESULT = 0)
  ∧ (∀ (s : State) (m : Nat) (k : Nat) (l : Nat) (b : Bool), s.mayWrite m 0x14002c = true → s.getF LIN.OP_STATUS_BUSY = 0 →
      (if b = true then k = 16 * s.getF LIN.OP_SETWAY_SET + s.getF LIN.OP_SETWAY_WAY
      ∧ s.getF LIN.OP_SETWAY_SET < liningSets s.order else l = s.getF LIN.OP_ADDR_LO_DPA + 2 ^ 26 * s.getF LIN.OP_ADDR_HI_DPA
      ∧ s.decoded none l = true) → s.findPent l = none → s.linOff = false → (s.way k).valid = true → (s.way k).line = l →
      s.findWay l = some k → (∀ w : Nat, w < 16 → (s.way (16 * liningSet s.order l + w)).line = l → 16 * liningSet s.order l + w = k) →
      ∃ t, exec (.linUnlock m b) s = .next t ∧ (t.way k).lock = false ∧ (t.way k).valid = true ∧ (t.way k).val = (s.way k).val
      ∧ t.getF LIN.OP_STATUS_BUSY = 0 ∧ t.getF LIN.OP_STATUS_DONE = 1 ∧ t.getF LIN.OP_STATUS_RESULT = 0)
  ∧ (∀ (s : State) (m : Nat) (k : Nat) (l : Nat) (b : Bool), s.mayWrite m 0x14002c = true → s.getF LIN.OP_STATUS_BUSY = 0 →
      (if b = true then k = 16 * s.getF LIN.OP_SETWAY_SET + s.getF LIN.OP_SETWAY_WAY
      ∧ s.getF LIN.OP_SETWAY_SET < liningSets s.order else l = s.getF LIN.OP_ADDR_LO_DPA + 2 ^ 26 * s.getF LIN.OP_ADDR_HI_DPA
      ∧ s.decoded none l = true) → s.findPent l = none → s.linOff = false → (s.way k).valid = true → (s.way k).line = l →
      s.findWay l = some k → (s.way k).age ≤ 3 → ∃ t, exec (.linReadWay m b) s = .next t ∧ t.getF LIN.WAY_STATE_VALID = 1
      ∧ t.getF LIN.WAY_STATE_DIRTY = (if (s.way k).dirty then 1 else 0) ∧ t.getF LIN.WAY_STATE_AGE = (s.way k).age ∧ t.cache = s.cache
      ∧ t.getF LIN.OP_STATUS_BUSY = 0 ∧ t.getF LIN.OP_STATUS_DONE = 1 ∧ t.getF LIN.OP_STATUS_RESULT = 0)
  ∧ (∀ (s : State) (m : Nat) (b : Bool), s.mayWrite m 0x14002c = true → s.getF LIN.OP_STATUS_BUSY = 0 →
      ∃ t, exec (.linReservedOp m b) s = .next t ∧ t.getF LIN.OP_STATUS_DONE = 1 ∧ t.getF LIN.OP_STATUS_RESULT = 3 ∧ t.cache = s.cache)

/-- PCU.OP_CMD (R200, R207, R208, R211, R212, R214, R215, Tables 06-13, 06-18): CLEAN leaves every line of the entry clean and the entry valid; INVALIDATE, and CLEAN_INVALIDATE of a clean entry, leave no slice valid with result 0; LOCK and UNLOCK set and clear LOCK; operations 6 and 7 give result 3. -/
def Obligations.PincushionOperationsComplete : Prop :=
  (∀ (s : State) (m : Nat) (n : Nat), s.mayWrite m 0x150010 = true → s.getF PCU.OP_STATUS_BUSY = 0 → n < 64 → s.pcuOff = false →
      (s.pent n).valid ≠ 0 → (∀ l ∈ s.entryLines n, s.findPent l = some n ∧ ∀ r ∈ s.reqs, r.line ≠ l) → (∀ k : Nat, k < 8 →
      s.stagingLen k + 64 ≤ 786432) → ∃ t, exec (.pcuClean m n) s = .next t ∧ (∀ l ∈ s.entryLines n, (t.pline n l).dirty = false)
      ∧ (t.pent n).valid = (s.pent n).valid ∧ t.getF PCU.OP_STATUS_OP_LAST = 1)
  ∧ (∀ (s : State) (m : Nat) (n : Nat), s.mayWrite m 0x150010 = true → s.getF PCU.OP_STATUS_BUSY = 0 → n < 64 → s.pcuOff = false →
      (s.pent n).valid ≠ 0 → s.mayInvalidate m = true → (∀ l ∈ s.entryLines n, s.findPent l = some n ∧ ∀ r ∈ s.reqs, r.line ≠ l) →
      (∀ e ∈ (s.pent n).lines, e.2.dirty = true → e.1 < 64
      ∧ Nat.testBit (s.pent n).valid (sliceOf (64 * (s.pent n).swatch + e.1)) = true) → ∃ t, exec (.pcuInvalidate m n) s = .next t
      ∧ (t.pent n).valid = 0 ∧ (t.pent n).lock = (s.pent n).lock ∧ t.cache.staging = s.cache.staging ∧ t.getF PCU.OP_STATUS_BUSY = 0
      ∧ t.getF PCU.OP_STATUS_DONE = 1 ∧ t.getF PCU.OP_STATUS_RESULT = 0)
  ∧ (∀ (s : State) (m : Nat) (n : Nat), s.mayWrite m 0x150010 = true → s.getF PCU.OP_STATUS_BUSY = 0 → n < 64 → s.pcuOff = false →
      (s.pent n).valid ≠ 0 → s.mayInvalidate m = true → (∀ l ∈ s.entryLines n, s.findPent l = some n ∧ ∀ r ∈ s.reqs, r.line ≠ l) →
      (∀ e ∈ (s.pent n).lines, e.2.dirty = false) → (∀ l ∈ s.entryLines n, s.backsOf l = []) →
      ∃ t, exec (.pcuCleanInvalidate m n) s = .next t ∧ (t.pent n).valid = 0 ∧ (t.pent n).lock = (s.pent n).lock
      ∧ t.getF PCU.OP_STATUS_BUSY = 0 ∧ t.getF PCU.OP_STATUS_DONE = 1 ∧ t.getF PCU.OP_STATUS_RESULT = 0)
  ∧ (∀ (s : State) (m : Nat) (n : Nat), s.mayWrite m 0x150010 = true → s.getF PCU.OP_STATUS_BUSY = 0 → n < 64 → s.pcuOff = false →
      (s.pent n).valid ≠ 0 → s.lockedEntries < 48 → ∃ t, exec (.pcuLock m n) s = .next t ∧ t.pent n = { s.pent n with lock := true }
      ∧ t.getF PCU.OP_STATUS_BUSY = 0 ∧ t.getF PCU.OP_STATUS_DONE = 1 ∧ t.getF PCU.OP_STATUS_RESULT = 0)
  ∧ (∀ (s : State) (m : Nat) (n : Nat), s.mayWrite m 0x150010 = true → s.getF PCU.OP_STATUS_BUSY = 0 → n < 64 → s.pcuOff = false →
      (s.pent n).valid ≠ 0 → ∃ t, exec (.pcuUnlock m n) s = .next t ∧ t.pent n = { s.pent n with lock := false }
      ∧ t.getF PCU.OP_STATUS_BUSY = 0 ∧ t.getF PCU.OP_STATUS_DONE = 1 ∧ t.getF PCU.OP_STATUS_RESULT = 0)
  ∧ (∀ (s : State) (m : Nat) (op : Nat) (n : Nat), s.mayWrite m 0x150010 = true → s.getF PCU.OP_STATUS_BUSY = 0 → (op = 6 ∨ op = 7) →
      ∃ t, exec (.pcuReservedOp m op n) s = .next t ∧ t.getF PCU.OP_STATUS_DONE = 1 ∧ t.getF PCU.OP_STATUS_RESULT = 3 ∧ t.cache = s.cache)

/-- Coherent sharing (R235 to R238, R241, R244, R245): the answer of an LD that was snooped ends its snoop, and the last one lets the read that waited probe; a conflict is acknowledged at once before the request's order point and after its response otherwise; the first request of a conflict queue whose line is free leaves; a snoop timeout fires source 640; COH.OP clears a suspect set; the sweep ends the losses. -/
def Obligations.CoherenceCommandsComplete : Prop :=
  (∀ (s : State) (port : Nat) (ld : Nat) (line : Nat) (rsp : BIRsp), (s.ldOf ld).port = some port → s.coh.snoops.contains (line, ld) = true →
      (s.coh.snoops.any (fun x => x.1 == line && x.2 != ld) = true) → ∃ t, exec (.birspReceived port ld line rsp) s = .next t
      ∧ (t.coh.snoops = s.coh.snoops.filter (fun x => !(x.1 == line && x.2 == ld))))
  ∧ (∀ (s : State) (port : Nat) (ld : Nat) (line : Nat) (k : Nat), (s.ldOf ld).port = some port → s.coh.snoops.contains (line, ld) = true →
      (s.coh.snoops.any (fun x => x.1 == line && x.2 != ld) = true) → s.thFind line = some k →
      ∃ t, exec (.birspReceived port ld line .i) s = .next t ∧ Nat.testBit (t.tent k).presence ld = false)
  ∧ (∀ (s : State) (port : Nat) (ld : Nat) (r : Req) (rsp : BIRsp), (s.ldOf ld).port = some port →
      s.coh.snoops.filter (fun x => x.1 == r.line) = [(r.line, ld)] → s.reqs.filter (fun x => x.line == r.line) = [r] →
      s.reqOf r.id = some r → (∀ x ∈ s.reqs, x.evictKey = none) → r.wback = false → r.kind = .read → r.stage = .snoop →
      s.sealBit r.line = false → s.cipherFault = false → s.buffered r.line = none → s.findPent r.line = none → s.findWay r.line = none →
      s.stagedOf r.line = none → ∃ t, exec (.birspReceived port ld r.line rsp) s = .next t
      ∧ (t.reqOf r.id).map (fun x => (x.stage, x.ordered)) = some (.probing, true)
      ∧ t.coh.snoops = s.coh.snoops.filter (fun x => x.1 != r.line))
  ∧ (∀ (s : State) (port : Nat) (ld : Nat) (line : Nat) (r : Req), (s.reqs.find? (fun r => r.port == port && r.ld == ld && r.line == line) = some r) →
      State.passed r = true → ∃ t, exec (.biconflictReceived port ld line) s = .next t ∧ t.coh.acks = s.coh.acks ++ [(r.id, port, ld)]
      ∧ t.out = s.out)
  ∧ (∀ (s : State) (port : Nat) (ld : Nat) (line : Nat) (r : Req), (s.reqs.find? (fun r => r.port == port && r.ld == ld && r.line == line) = some r) →
      State.passed r = false → ∃ t, exec (.biconflictReceived port ld line) s = .next t ∧ t.out = s.out ++ [.biConflictAck port ld line]
      ∧ t.coh = s.coh)
  ∧ (∀ (s : State) (k : Nat) (r : Req), (s.reqs.find? (fun x => x.stage == .conflict && sliceOf x.line == k && !s.lineBusy x.line && s.isNext x) = some r) →
      s.reqOf r.id = some r → s.buffered r.line = none → r.kind = .read → r.mv = .invalid → s.thFind r.line = none →
      s.suspect r.line = false → s.fencedAt r.line = false → s.sealBit r.line = false → s.cipherFault = false → s.integ.inj = none →
      s.findPent r.line = none → s.findWay r.line = none → s.stagedOf r.line = none → ∃ t, exec (.conflictQueueLeave k) s = .next t
      ∧ (t.reqOf r.id).map (·.stage) = some .probing)
  ∧ (∀ (s : State) (line : Nat) (ld : Nat), s.coh.snoops.contains (line, ld) = true → ld < 16 → line < 2 ^ 39 →
      ∃ t, exec (.snoopTimeout line ld) s = .next t ∧ t.getF COH.SNP_STALL_LO_DPA + 2 ^ 26 * t.getF COH.SNP_STALL_HI_DPA = line
      ∧ t.getF COH.SNP_STALL_HI_LD = ld ∧ t.getF COH.SNP_STALL_HI_VALID = 1 ∧ t.fired 640 = true)
  ∧ (∀ (s : State) (m : Nat) (v : Word), s.mayWrite m 0x1a0030 = true → s.mgmtOrDebug m = true → v.toNat / 2 ^ 30 = 2 →
      ∃ t, exec (.suspectClear m v) s = .next t ∧ t.coh.suspect = s.coh.suspect.filter (· != v.toNat % 2 ^ 21)
      ∧ t.getF COH.STATUS_SUSPECT = min 65535 t.coh.suspect.length)
  ∧ (∀ (s : State) (m : Nat) (v : Word), s.mayWrite m 0x1a0030 = true → s.mgmtOrDebug m = true → v.toNat / 2 ^ 30 = 3 →
      ∃ t, exec (.suspectClear m v) s = .next t ∧ t.coh.suspect = [] ∧ t.getF COH.STATUS_SUSPECT = 0)
  ∧ (∀ (s : State), s.coh.lost ≠ [] → ∃ t, exec (.sharerSweepDone) s = .next t ∧ t.coh.lost = [] ∧ t.getF COH.STATUS_SWEEP = 0)

/-- Loss of power and flushes (R257 to R262, R269, R271, R275): a pulse of PFW_N of 1 µs starts a power-fail flush of an active device, with PFO_N and source 0; admission stops and every dirty line becomes a flush patch; a completed orderly flush writes its record and fires source 46; a phase 2 request starts a flush of an active device and is answered at once by one that holds no data; a completed GPF resumes admission, remembers that the device is clean, and fires source 47; a pulse of PORST_N of 10 µs is taken. -/
def Obligations.FlushCommandsComplete : Prop :=
  (∀ (s : State) (ns : Nat) (a : Bool), s.clk.awake = true → 1000 ≤ ns → s.halted = false → s.flush.kind = .none → s.topState = 3 →
      ∃ t, exec (.pfwNAssert ns a) s = .next t ∧ t.flush.kind = .powerFail ∧ t.flush.step = 3 ∧ t.pins.pfo = true ∧ t.topState = 4
      ∧ t.fired 0 = true)
  ∧ (∀ (s : State), s.flush.kind ≠ .none → s.flush.stopped = false → ∃ t, exec (.flushAdmissionStop) s = .next t ∧ t.flush.stopped = true
      ∧ 4 ≤ t.flush.step)
  ∧ (∀ (s : State), s.flush.kind ≠ .none → s.flush.stopped = false → (∀ r ∈ s.reqs, r.stage ≠ .buffered) →
      (∀ o ∈ s.xlt.openPages, o.ents = []) → ∃ t, exec (.flushAdmissionStop) s = .next t ∧ t.flush.lines = s.flushLines.length
      ∧ t.flush.firstSeq = s.ham.nextSeq)
  ∧ (∀ (s : State), State.deviceFlush s.flush.kind = true → s.flush.step = 7 → ∃ t, exec (.flushComplete) s = .next t
      ∧ t.getF TOP.FLUSH_LAST_KIND = State.kindCode s.flush.kind ∧ t.fired 46 = true ∧ t.getF TOP.STATE_MEM_ACTIVE = 0)
  ∧ (∀ (s : State) (port : Nat), port < 4 → s.halted = false → s.getF (HPT.LINK_STATUS_UP port) = 1 → s.flush.kind = .none → s.topState = 3 →
      ∃ t, exec (.gpfPhase2Request port) s = .next t ∧ t.flush.kind = .gpf ∧ t.flush.step = 3 ∧ t.flush.gpfPorts = [port])
  ∧ (∀ (s : State) (port : Nat), port < 4 → s.halted = false → s.getF (HPT.LINK_STATUS_UP port) = 1 → s.flush.kind = .none → s.topState ≠ 3 →
      ∃ t, exec (.gpfPhase2Request port) s = .next t ∧ t.out = s.out ++ [.gpfResponse port] ∧ t.flush = s.flush)
  ∧ (∀ (s : State) (port : Nat), port < 4 → s.halted = false → s.getF (HPT.LINK_STATUS_UP port) = 1 → s.flush.kind ≠ .none →
      s.flush.gpfPorts.contains port = false → ∃ t, exec (.gpfPhase2Request port) s = .next t
      ∧ t.flush.gpfPorts = s.flush.gpfPorts ++ [port] ∧ t.flush.kind = s.flush.kind ∧ t.out = s.out)
  ∧ (∀ (s : State), (s.flush.kind = .gpf ∨ s.flush.kind = .group) → s.xlt.journalLost = false → s.flush.step = 7 → s.flush.resetHeld = false →
      s.flush.offHeld = false → ∃ t, exec (.gpfComplete) s = .next t ∧ t.flush.kind = .none ∧ t.flush.stopped = false
      ∧ t.flush.clean = some (State.kindCode s.flush.kind) ∧ t.getF TOP.FLUSH_STATUS_ACTIVE = 0 ∧ t.fired 47 = true)
  ∧ (∀ (s : State) (ns : Nat) (a : Bool), s.clk.awake = true → 10000 ≤ ns → s.halted = false → s.flag THM.STATUS_CRIT_LATCH = false →
      s.flag THM.STATUS_TRIP_LATCH = false → s.flush.kind = .none → s.topState = 3 → ∃ t, exec (.porstNAssert ns a) s = .next t
      ∧ t.pins.porst = true ∧ t.flush.kind = .reset ∧ t.flush.step = 3)
  ∧ (∀ (s : State) (ns : Nat) (a : Bool), s.clk.awake = true → 10000 ≤ ns → ∃ t, exec (.porstNAssert ns a) s = .next t ∧ t.pins.porst = true)

/-- Data integrity (R296, R297, R306, R307, R309 to R313): an uncorrectable map block found by the patrol marks its block with source 137; a rebuilt bucket is good again with source 136; INJ_CTRL arms an injection with its count or ends it; SCRUB_CMD starts a scrub at SCRUB_BASE; each line advances it; a marked candidate leaves the list; the end shows the summary with source 133. -/
def Obligations.IntegrityCommandsComplete : Prop :=
  (∀ (s : State) (k : Nat) (b : Nat) (both : Bool) (so : Option Nat), s.getF SCB.CTRL_PATROL_H ≠ 0 → s.start.filled = true →
      b < hbmBlocks s.order 2 →
      ∃ t, exec (.hbmPatrol { stack := k, region := 2, block := b, health := .uncorrectable } both so) s = .next t
      ∧ Tab.get (fun _ => false) t.xlt.mapBad b = true ∧ t.fired 137 = true)
  ∧ (∀ (s : State) (e : HbmBlock) (both : Bool) (so : Option Nat), s.getF SCB.CTRL_PATROL_H ≠ 0 → s.start.filled = true → e.region ≠ 0 →
      e.block < hbmBlocks s.order e.region → e.health = .uncorrectable → ∃ t, exec (.hbmPatrol e both so) s = .next t ∧ t.fired 137 = true)
  ∧ (∀ (s : State) (b : Nat), Tab.get (fun _ => false) s.xlt.bucketBad b = true → ∃ t, exec (.bucketRebuildDone b) s = .next t
      ∧ Tab.get (fun _ => false) t.xlt.bucketBad b = false ∧ t.fired 136 = true)
  ∧ (∀ (s : State) (m : Nat) (v : Word), s.mayWrite m 0x1c0100 = true → s.mgmtOrDebug m = true → bit v.toNat 30 = false →
      ((bits v.toNat 26 24 = 5 → 1 ≤ s.getF SCB.INJ_ADDR_HI_REGION ∧ s.getF SCB.INJ_ADDR_HI_REGION ≤ 8)) → bits v.toNat 26 24 ≠ 7 →
      ∃ t, exec (.injArm m v) s = .next t
      ∧ t.integ.inj.map (fun i => (i.point, i.left)) = some (bits v.toNat 26 24, max 1 (v.toNat % 4096)) ∧ t.getF SCB.INJ_CTRL_ARM = 1
      ∧ t.getF SCB.INJ_LEFT_COUNT = max 1 (v.toNat % 4096))
  ∧ (∀ (s : State) (m : Nat) (v : Word), s.mayWrite m 0x1c0100 = true → s.mgmtOrDebug m = true → ∃ t, exec (.injDisarm m v) s = .next t
      ∧ t.integ.inj = none ∧ t.getF SCB.INJ_CTRL_ARM = 0 ∧ t.getF SCB.INJ_LEFT_COUNT = 0)
  ∧ (∀ (s : State) (m : Nat) (v : Word), s.mayWrite m 0x1c0210 = true → s.getF SCB.SCRUB_STATUS_BUSY = 0 → ∃ t, exec (.scrubGo m v) s = .next t
      ∧ t.getF SCB.SCRUB_STATUS_BUSY = 1
      ∧ t.integ.scrub.map (fun x => (x.next, x.mark, x.cands)) = some (s.getF SCB.SCRUB_BASE_LO_VALUE / 64 + 2 ^ 26 * (s.getF SCB.SCRUB_BASE_HI_VALUE % 2 ^ 13), bit v.toNat 1, []))
  ∧ (∀ (s : State) (x : Scrub) (line : Nat), s.scrubRuns = true → s.integ.scrub = some x → x.next = line → line < x.stop →
      (s.scrubLine line none x.sum).isSome = true → ∃ t, exec (.scrubLine false line) s = .next t
      ∧ t.integ.scrub.map (fun y => (y.next, y.stop)) = some (line + 1, x.stop))
  ∧ (∀ (s : State) (o : OpRun) (line : Nat), s.scrubRuns = true →
      (s.spl.ops.find? (fun o => o.desc.op == 0x04 && o.status.isNone && o.cands.isEmpty && o.closing.isNone && o.desc.src / 64 + o.next == line) = some o) →
      s.opOf o.id = some o → s.lineStop o.owner line false = none → s.lineStop o.owner line true = none →
      (s.scrubLine line (State.ldOfOwner o.owner) { o.sum with mark := dA o.desc }).isSome = true →
      ∃ t, exec (.scrubLine true line) s = .next t ∧ (t.opOf o.id).map (fun x => (x.next, x.count)) = some (o.next + 1, o.count + 1))
  ∧ (∀ (s : State) (x : Scrub) (line : Nat), s.scrubRuns = true → s.integ.scrub = some x → x.cands.contains line = true →
      (s.markLine line 0).2 = true → ∃ t, exec (.scrubMark false line) s = .next t
      ∧ t.integ.scrub.all (fun y => !y.cands.contains line) = true)
  ∧ (∀ (s : State) (o : OpRun) (line : Nat) (rest : List Nat), s.scrubRuns = true →
      (s.spl.ops.find? (fun o => o.desc.op == 0x04 && o.status.isNone && o.cands.head? == some line) = some o) → s.opOf o.id = some o →
      o.cands = line :: rest → (s.markLine line 0).2 = true → ∃ t, exec (.scrubMark true line) s = .next t
      ∧ (t.opOf o.id).map (·.cands) = some rest)
  ∧ (∀ (s : State) (x : Scrub), s.integ.scrub = some x → (s.scrubRuns = false ∨ (x.stop ≤ x.next ∧ x.cands = [])) →
      ∃ t, exec (.scrubComplete) s = .next t ∧ t.integ.scrub = none ∧ t.getF SCB.SCRUB_STATUS_BUSY = 0 ∧ t.getF SCB.SCRUB_STATUS_DONE = 1
      ∧ t.fired 133 = true)

/-- The debug unit (R314, R316, R317, R549): a permitted read of a cached line with a good tag shows its bytes with result 0, at once or when an access that waited goes on; a permitted write stores the line dirty in its way; a raw read starts and, answered by its cartridge, ends with result 0; the TAP takes DBG_ACCESS, and a code that it does not implement selects BYPASS. -/
def Obligations.DebugCommandsComplete : Prop :=
  (∀ (s : State) (m : Nat) (line : Nat) (k : Nat), s.mayWrite m 0x300008 = true → s.getF DBG.MEM_STATUS_BUSY = 0 → s.memActive = true →
      s.halted = false → s.hasRight m rightDebug = true → line = s.getF DBG.MEM_ADDR_LO_DPA + 2 ^ 26 * s.getF DBG.MEM_ADDR_HI_DPA →
      s.decoded none line = true → s.memMissing m rightMemRd line = none → s.sharedOf line = false → s.fencedAt line = false →
      s.sealBit line = false → s.cipherFault = false → s.buffered line = none → s.findPent line = none → s.findWay line = some k →
      s.integ.inj = none → (s.way k).val.poison = false → tagOk (s.way k).val line false = true → ∃ t, exec (.dbgMemRead m) s = .next t
      ∧ t.getF DBG.MEM_STATUS_RESULT = 0 ∧ t.getF DBG.MEM_STATUS_DONE = 1
      ∧ t.getF (DBG.MEM_DATA_BYTES 0) = (s.way k).val.data.toNat % 2 ^ 32)
  ∧ (∀ (s : State) (m : Nat) (line : Nat) (k : Nat), s.mayWrite m 0x300008 = true → s.getF DBG.MEM_STATUS_BUSY = 0 → s.memActive = true →
      s.halted = false → s.hasRight m rightDebug = true → line = s.getF DBG.MEM_ADDR_LO_DPA + 2 ^ 26 * s.getF DBG.MEM_ADDR_HI_DPA →
      s.decoded none line = true → s.memMissing m rightMemWr line = none → s.sharedOf line = false → s.fencedAt line = false →
      s.ham.holding.any (fun r => r.code == 0x0802) = false → s.flush.clean = none → s.flush.stopped = false → s.sealedLine line = false →
      s.cipherFault = false → (∀ r ∈ s.reqs, r.line ≠ line) → s.throughOpen line = false → s.writesThrough line = false →
      (s.dirtyIn line = true ∨ s.budgetRoom (sliceOf line) = true) → s.findPent line = none → s.findWay line = some k →
      s.integ.inj = none → ∃ t, exec (.dbgMemWrite m) s = .next t ∧ t.getF DBG.MEM_STATUS_RESULT = 0 ∧ t.getF DBG.MEM_STATUS_DONE = 1
      ∧ (t.way k).dirty = true ∧ (t.way k).val.poison = false ∧ (t.way k).val.data.toNat % 2 ^ 32 = s.getF (DBG.MEM_DATA_BYTES 0))
  ∧ (∀ (s : State) (x : DbgMem) (k : Nat), s.dbg.mem = some x → x.write = false → s.memActive = true → s.halted = false →
      s.decoded none x.line = true → s.sharedOf x.line = false → s.fencedAt x.line = false → s.sealBit x.line = false →
      s.cipherFault = false → s.buffered x.line = none → s.findPent x.line = none → s.findWay x.line = some k → s.integ.inj = none →
      (s.way k).val.poison = false → tagOk (s.way k).val x.line false = true → ∃ t, exec (.dbgMemDone) s = .next t
      ∧ t.getF DBG.MEM_STATUS_RESULT = 0 ∧ t.getF DBG.MEM_STATUS_DONE = 1 ∧ t.dbg.mem = none
      ∧ t.getF (DBG.MEM_DATA_BYTES 0) = (s.way k).val.data.toNat % 2 ^ 32)
  ∧ (∀ (s : State) (m : Nat) (v : Word), s.mayWrite m 0x300108 = true → s.getF DBG.RAW_STATUS_BUSY = 0 → s.hasRight m rightRaw = true →
      s.halted = false → s.cartUp (s.getF DBG.RAW_ADDR_HI_SLOT) = true → s.getF DBG.RAW_ADDR_HI_LSLOT ≤ 64 →
      s.getF DBG.RAW_ADDR_LO_BOLT < s.boltsPerDie (s.getF DBG.RAW_ADDR_HI_SLOT) → ∃ t, exec (.dbgRawRead m v) s = .next t
      ∧ t.getF DBG.RAW_STATUS_BUSY = 1 ∧ t.getF DBG.RAW_STATUS_DONE = 0
      ∧ t.dbg.raw.map (fun j => (j.slot, j.decode)) = some (s.getF DBG.RAW_ADDR_HI_LSLOT, bit v.toNat 1))
  ∧ (∀ (s : State) (j : RawJob) (d : Sensed), s.dbg.raw = some j → s.halted = false → s.cartUp (psaSlot j.psa) = true → d.status = 0 →
      ∃ t, exec (.dbgRawDone d) s = .next t ∧ t.dbg.raw = none ∧ t.getF DBG.RAW_STATUS_RESULT = 0 ∧ t.getF DBG.RAW_STATUS_DONE = 1
      ∧ t.getF DBG.RAW_STATUS_BUSY = 0)
  ∧ (∀ (s : State) (ir : Nat), (ir = 0x18 ∨ ir = 0 ∨ ir = 1 ∨ ir = 2) → ∃ t, exec (.tapInstruction ir) s = .next t ∧ t.dbg = { s.dbg with ir })
  ∧ (∀ (s : State) (ir : Nat), ir ∉ [0x00, 0x01, 0x02, 0x18] → ∃ t, exec (.tapInstruction ir) s = .next t ∧ t.dbg = { s.dbg with ir := 0xFF })

/-- Sessions and keys (R327 to R329, R331, R353): a session whose root is listed opens with source 103 and its number in the response, and ends with source 103; a certificate goes to Hem; a measurement is answered; KEY_LOAD makes the slot ACTIVE with its key and source 96; KEY_RETIRE makes it RETIRING with source 97; KEY_QUERY answers the slot's state; an unknown key command gets result 2. -/
def Obligations.SessionCommandsComplete : Prop :=
  (∀ (s : State) (doe : Bool) (ld : Nat) (root : List Byte) (leaf : List Byte) (e : Nat × Nat), s.spdmOpen doe ld = true →
      s.rootEntry root = some e → s.cip.sessions.length < 4 → ∃ t, exec (.spdmSessionEstablish true doe ld root leaf) s = .next t
      ∧ t.cip.sessions = s.cip.sessions ++ [{ id := s.cip.nextSess, cls := e.2, root := e.1, doe, ld, leaf }]
      ∧ t.cip.nextSess = s.cip.nextSess + 1 ∧ t.out.getLast? = some (.spdm s.cip.nextSess 0 []) ∧ t.fired 103 = true)
  ∧ (∀ (s : State) (sid : Nat) (x : Session), s.sessionOf sid = some x → ∃ t, exec (.spdmSessionEnd sid) s = .next t
      ∧ t.cip.sessions = s.cip.sessions.filter (fun y => y.id != sid) ∧ t.fired 103 = true)
  ∧ (∀ (s : State) (sid : Nat) (x : Session) (k : Nat) (chain : List Byte), s.sessionOf sid = some x → x.doe = false → s.clk.awake = true →
      s.halted = false → s.hasRight (33 + x.cls) rightKeyAdmin = true → 1 ≤ k → k ≤ 3 → chain.length ≤ 16376 → s.kpsOk = true →
      ∃ t, exec (.setCertificate sid k chain) s = .next t ∧ t.out.getLast? = some (.spdm sid 0 [])
      ∧ (Tab.get (fun _ => 0) t.keep.hem (64 * (134 + 64 * (k - 1)))).toNat = chain.length)
  ∧ (∀ (s : State) (i : Nat) (l : List Nat), s.clk.awake = true → s.measurement i = some l → ∃ t, exec (.spdmGetMeasurements i) s = .next t
      ∧ t.out = s.out ++ [.spdm 0xFFFF 0 l] ∧ t.cip = s.cip)
  ∧ (∀ (s : State) (sid : Nat) (x : Session) (k : Nat) (key : BitVec 512), s.sessionOf sid = some x → s.spdmOpen x.doe x.ld = true →
      s.halted = false → s.hasRight (33 + x.cls) rightKeyAdmin = true → s.loadRefusal k (some key) true = none → s.start.waiting = none →
      ∃ t, exec (.keyLoad sid k (some key) true) s = .next t ∧ (t.keySlot k).state = .active ∧ (t.keySlot k).key = key
      ∧ t.out.getLast? = some (.spdm sid 0 []) ∧ t.fired 96 = true)
  ∧ (∀ (s : State) (sid : Nat) (x : Session) (k : Nat), s.sessionOf sid = some x → s.spdmOpen x.doe x.ld = true → s.halted = false →
      s.hasRight (33 + x.cls) rightKeyAdmin = true → s.retireRefusal k = none → s.storeOk = true →
      ∃ t, exec (.keyRetire sid k true) s = .next t ∧ (t.keySlot k).state = .retiring ∧ t.getF CIP.STATUS_RETIRING = 1 ∧ t.fired 97 = true)
  ∧ (∀ (s : State) (sid : Nat) (x : Session) (k : Nat), s.sessionOf sid = some x → s.spdmOpen x.doe x.ld = true → k < 256 →
      ∃ t, exec (.keyQuery sid k) s = .next t
      ∧ t.out = s.out ++ [.spdm sid 0 [State.keyStateCode (s.keySlot k).state, (s.keySlot k).usage, (s.keySlot k).epoch, (if (s.keySlot k).persist then 1 else 0) + (if (s.keySlot k).required then 2 else 0)]]
      ∧ t.cip = s.cip)
  ∧ (∀ (s : State) (sid : Nat) (x : Session) (op : Nat), s.sessionOf sid = some x → s.spdmOpen x.doe x.ld = true → s.halted = false →
      (op = 0 ∨ 5 < op) → ∃ t, exec (.keyCommandUnknown sid op) s = .next t ∧ t.out = s.out ++ [.spdm sid 2 []] ∧ t.cip = s.cip)

/-- Retirement and the halt flush (R331, R332, R348, R561): CIP.KEY_CMD starts a retirement with BUSY set; a retirement with no work left empties the slot, advances its epoch and fires source 98; HALT_FLUSH in a session with the right begins once per halt; its end sets FLUSH_DONE with source 108. -/
def Obligations.RetirementAndHaltFlushComplete : Prop :=
  (∀ (s : State) (m : Nat) (v : Word), s.mayWrite m 0x1b0004 = true → s.getF CIP.KEY_CMD_STATUS_BUSY = 0 → s.halted = false →
      s.retireRefusal (v.toNat % 256) = none → s.storeOk = true → ∃ t, exec (.cipKeyCmdRetire m v true) s = .next t
      ∧ (t.keySlot (v.toNat % 256)).state = .retiring ∧ t.getF CIP.KEY_CMD_STATUS_BUSY = 1 ∧ t.getF CIP.KEY_CMD_STATUS_RESULT = 0
      ∧ t.fired 97 = true)
  ∧ (∀ (s : State) (r : Retire), s.flush.kind = .none → s.halted = false → s.cip.retire = [r] → 0 < r.slot → s.dirtyUnder r.slot = [] →
      s.workUnder r.slot = false → s.storeOk = true → ∃ t, exec (.retireComplete) s = .next t ∧ (t.keySlot r.slot).state = .empty
      ∧ (t.keySlot r.slot).key = 0 ∧ (t.keySlot r.slot).epoch = ((s.keySlot r.slot).epoch + 1) % 256 ∧ t.cip.retire = []
      ∧ t.fired 98 = true)
  ∧ (∀ (s : State) (sid : Nat) (x : Session) (good : List Nat), s.sessionOf sid = some x → s.spdmOpen x.doe x.ld = true →
      s.hasRight (33 + x.cls) rightHaltFlush = true → s.halted = true → s.flush.halt = false → s.getF TOP.HALT_FLUSH_DONE = 0 →
      ∃ t, exec (.haltFlush sid good) s = .next t ∧ t.flush.halt = true ∧ t.flush.haltSid = sid ∧ t.flush.stopped = true)
  ∧ (∀ (s : State), s.flush.halt = true → s.flush.step = 7 → ∃ t, exec (.haltFlushComplete) s = .next t ∧ t.flush.halt = false
      ∧ t.getF TOP.HALT_FLUSH_DONE = 1 ∧ t.fired 108 = true)

/-- IDE and key checks (R336, R337, R343, R344, R346): K_SET_GO makes a stream Secure, an integrity failure makes it Insecure with source 102; a right key check word counts and the check number advances, a wrong one halts the device; a key-check failure indicated by the cartridge fires source 104 and halts it; the device sends a check when 2^20 flits more have gone out. -/
def Obligations.KeyCheckCommandsComplete : Prop :=
  (∀ (s : State) (port : Nat) (mem : Bool), port < 4 → s.halted = false → s.getF (HPT.LINK_STATUS_CXL port) = 1 → s.doeSession port = true →
      ∃ t, exec (.ideKmKeyProgram port mem true) s = .next t ∧ Tab.get (fun _ => 0) t.cip.ide (2 * port + (if mem then 1 else 0)) = 1)
  ∧ (∀ (s : State) (port : Nat) (mem : Bool) (ls : List Nat), port < 4 →
      Tab.get (fun _ => 0) s.cip.ide (2 * port + (if mem then 1 else 0)) = 1 → ∃ t, exec (.ideIntegrityFail port mem false ls) s = .next t
      ∧ Tab.get (fun _ => 0) t.cip.ide (2 * port + (if mem then 1 else 0)) = 2 ∧ t.fired 102 = true)
  ∧ (∀ (s : State) (n : Nat) (h : FlitHead) (k : LinkKey) (w : Nat), s.accepts n h = true → s.linkSession n = some k →
      w = State.checkWord k k.got true → ∃ t, exec (.keychkFlitReceived n h w) s = .next t
      ∧ t.linkSession n = some { k with got := k.got + 1 } ∧ (t.link n).step = (if (s.link n).step = 3 then 4 else (s.link n).step))
  ∧ (∀ (s : State) (n : Nat) (h : FlitHead) (k : LinkKey) (w : Nat), s.accepts n h = true → s.halted = false → s.linkSession n = some k →
      w ≠ State.checkWord k k.got true → ∃ t, exec (.keychkFlitReceived n h w) s = .next t ∧ t.halted = true ∧ t.topState = 5
      ∧ t.getF TOP.HALT_SLOT = n % 32)
  ∧ (∀ (s : State) (n : Nat) (h : FlitHead), s.accepts n h = true → s.halted = false → ∃ t, exec (.keyfailFlitReceived n h) s = .next t
      ∧ t.halted = true ∧ t.fired 104 = true)
  ∧ (∀ (s : State) (n : Nat) (k : LinkKey), s.linkSession n = some k → 4 ≤ (s.link n).step → s.halted = false → s.sendsNow n = true →
      2 ^ 20 * k.sent ≤ (s.link n).txCount → ∃ t, exec (.keychkSend n) s = .next t ∧ t.linkSession n = some { k with sent := k.sent + 1 }
      ∧ firstNew s t = some (.flit n 5 [k.sent, State.checkWord k k.sent false]))

/-- Host ports (R90, R355, R360, R362, R363, R365, R368, R422, Table 11-12): a port that may train comes up with its partner's link; a link that goes down fires source 512 + 32n + 1; PERST_N asserted fires source 512 + 32n + 4; a configuration request of a ready port completes; a decoder that R363 accepts is committed with its DPA start; an LD's write inside its BAR2 window changes exactly those bytes; returned credits count. -/
def Obligations.HostPortCommandsComplete : Prop :=
  (∀ (s : State) (port : Nat) (l : TrainedLink), s.mayTrain port = true → l.width ∈ [1, 2, 4, 8] →
      ((s.getF (HPT.LINK_STATUS_UP port) = 0 ∨ (s.port port).retrain = true)) → ∃ t, exec (.hostLinkUp port l) s = .next t
      ∧ t.getF (HPT.LINK_STATUS_UP port) = 1 ∧ (t.port port).far = some l)
  ∧ (∀ (s : State) (port : Nat), port < 4 → s.getF (HPT.LINK_STATUS_UP port) = 1 → ∃ t, exec (.hostLinkDown port) s = .next t
      ∧ t.getF (HPT.LINK_STATUS_UP port) = 0 ∧ t.fired (512 + 32 * port + 1) = true)
  ∧ (∀ (s : State) (m : Nat) (port : Nat), port < 4 → s.mayWrite m (0x80008 + 0x4000 * port) = true →
      ∃ t, exec (.portRetrain m port) s = .next t ∧ t.port port = { s.port port with retrain := true }
      ∧ t.getF (HPT.LINK_CMD_RETRAIN port) = 1)
  ∧ (∀ (s : State) (port : Nat), port < 4 → Tab.get (fun _ => false) s.pins.perst port = false → ∃ t, exec (.perstNAssert port) s = .next t
      ∧ Tab.get (fun _ => false) t.pins.perst port = true ∧ t.fired (512 + 32 * port + 4) = true)
  ∧ (∀ (s : State) (port : Nat), port < 4 → ∃ t, exec (.perstNDeassert port) s = .next t ∧ Tab.get (fun _ => false) t.pins.perst port = false)
  ∧ (∀ (s : State) (port : Nat) (tag : Nat) (w : CfgWrite), port < 4 → Tab.get (fun _ => false) s.pins.perst port = false →
      Tab.get (fun _ => 0) s.cip.ide (2 * port) ≠ 2 → s.portsLive = true → ∃ t, exec (.configRequest port tag w) s = .next t
      ∧ t.out.getLast? = some (.config port tag 0))
  ∧ (∀ (s : State) (port : Nat) (tag : Nat) (on : Bool), port < 4 → Tab.get (fun _ => false) s.pins.perst port = false →
      Tab.get (fun _ => 0) s.cip.ide (2 * port) ≠ 2 → s.portsLive = true → ∃ t, exec (.configRequest port tag (.biRoute on)) s = .next t
      ∧ (t.port port).biRoute = on)
  ∧ (∀ (s : State) (ld : Nat) (i : Nat) (d : HdmDecoder) (p : Nat) (a : Nat), (s.ldOf ld).port = some p → i < 8 → s.portOpen p false = true →
      s.halted = false → s.decoderStart ld i d = some a → s.commitOk ld i d a = true → ∃ t, exec (.hdmDecoderCommit ld i d) s = .next t
      ∧ Tab.get (fun _ => none) (t.ldOf ld).decoders i = some (a, d) ∧ Tab.get (fun _ => false) (t.ldOf ld).decErr i = false)
  ∧ (∀ (s : State) (ld : Nat) (i : Nat) (d : HdmDecoder) (p : Nat), (s.ldOf ld).port = some p → i < 8 → s.portOpen p false = true →
      s.halted = false → (s.decoderStart ld i d).all (fun a => !s.commitOk ld i d a) = true →
      ∃ t, exec (.hdmDecoderCommit ld i d) s = .next t ∧ Tab.get (fun _ => none) (t.ldOf ld).decoders i = none
      ∧ Tab.get (fun _ => false) (t.ldOf ld).decErr i = true)
  ∧ (∀ (s : State) (ld : Nat) (a : Nat) (bs : List Byte) (p : Nat), (s.ldOf ld).port = some p → s.portOpen p false = true → s.halted = false →
      0 < bs.length → a % 64 + bs.length ≤ 64 → a + bs.length ≤ 2 ^ 26 → s.inWindowOf ld a bs.length = true →
      ∃ t, exec (.bar2Access ld true a bs 0) s = .next t ∧ t.spoolBytes a bs.length = bs ∧ (∀ x : Nat, x < a ∨ a + bs.length ≤ x →
      Tab.get (fun _ => 0) t.spl.mem x = Tab.get (fun _ => 0) s.spl.mem x))
  ∧ (∀ (s : State) (ld : Nat) (a : Nat) (k : Nat) (p : Nat), (s.ldOf ld).port = some p → s.portOpen p false = true → s.halted = false → 0 < k →
      a % 64 + k ≤ 64 → a + k ≤ 2 ^ 26 → s.inWindowOf ld a k = true → s.spoolBad a k = false →
      ∃ t, exec (.bar2Access ld false a [] k) s = .next t ∧ firstNew s t = some (.io ld true (s.spoolBytes a k)) ∧ t.spl = s.spl)
  ∧ (∀ (s : State) (port : Nat) (n : Nat), port < 4 → s.getF (HPT.LINK_STATUS_UP port) = 1 → (s.port port).respq = [] →
      ∃ t, exec (.hostCreditReturn port n) s = .next t ∧ (t.port port).credits = (s.port port).credits + n)

/-- Mailbox commands that read (R369 to R371, R373 to R375, R378, R379, Tables 11-5, 11-8, 11-9, 11-16): a free mailbox in a state that takes the command answers Success (0) first of all, with the identity, capacity, event records, interrupt vectors, device time, logs, health, alert thresholds, label storage, state, wear, flush record or group status that the device holds. Opcodes, return codes and payload forms are the model's choices (logs 52, 63, 64). -/
def Obligations.MailboxQueriesAnswer : Prop :=
  (∀ (s : State) (ld : Nat), s.mbFree ld = true → s.halted = false → ∃ t, exec (.identify ld) s = .next t
      ∧ (t.out.drop s.out.length).head? = some (.mailbox ld 1 0 [(s.viewWord ld 0).toNat]))
  ∧ (∀ (s : State) (ld : Nat), s.mbFree ld = true → s.halted = false → s.topState ≠ 2 → ∃ t, exec (.identifyMemoryDevice ld) s = .next t
      ∧ ((fun units => (t.out.drop s.out.length).head? = some (.mailbox ld 0x4000 0 [units, 0, units, 131072, 4096, 1024])) ((s.plan.regions.filter fun r => !r.dcd && r.forLd ld).foldl (fun a r => a + r.size) 0)))
  ∧ (∀ (s : State) (ld : Nat) (log : Nat), s.mbFree ld = true → s.halted = false → log < 5 → ∃ t, exec (.getEventRecords ld log) s = .next t
      ∧ (fun recs lost => (t.out.drop s.out.length).head? = some (.mailbox ld 0x0100 0 ([recs.length, lost.1, lost.2.1, lost.2.2] ++ recs.flatMap fun (r : EvRec) => [r.handle, r.kind, r.time, r.payload.length] ++ r.payload))) (Tab.get (fun _ => []) (s.ldOf ld).logs log) (Tab.get (fun _ => (0, 0, 0)) (s.ldOf ld).overflow log))
  ∧ (∀ (s : State) (ld : Nat), s.mbFree ld = true → s.halted = false → s.topState ≠ 2 → s.memActive = true →
      ∃ t, exec (.getEventInterruptPolicy ld) s = .next t
      ∧ (t.out.drop s.out.length).head? = some (.mailbox ld 0x0102 0 ((List.range 5).map fun i => Tab.get (fun _ => 2) (s.ldOf ld).policy i)))
  ∧ (∀ (s : State) (ld : Nat), s.mbFree ld = true → s.halted = false → s.topState ≠ 2 → ∃ t, exec (.getTimestamp ld) s = .next t
      ∧ (t.out.drop s.out.length).head? = some (.mailbox ld 0x0300 0 [s.clk.time]))
  ∧ (∀ (s : State) (ld : Nat), s.mbFree ld = true → s.halted = false → s.topState ≠ 2 → ∃ t, exec (.getSupportedLogs ld) s = .next t
      ∧ (t.out.drop s.out.length).head? = some (.mailbox ld 0x0400 0 [celId, State.celBytes.length, vendorLogId, (s.vendorLog ld).length]))
  ∧ (∀ (s : State) (ld : Nat) (off : Nat) (len : Nat), s.mbFree ld = true → s.halted = false → s.topState ≠ 2 →
      off + len ≤ (s.vendorLog ld).length → len ≤ 65536 → ∃ t, exec (.getLog ld true off len) s = .next t
      ∧ (t.out.drop s.out.length).head? = some (.mailbox ld 0x0401 0 ((((s.vendorLog ld).drop off).take len).map (·.toNat))))
  ∧ (∀ (s : State) (ld : Nat) (off : Nat) (len : Nat), s.mbFree ld = true → s.halted = false → s.topState ≠ 2 →
      off + len ≤ State.celBytes.length → ∃ t, exec (.getLog ld false off len) s = .next t
      ∧ (t.out.drop s.out.length).head? = some (.mailbox ld 0x0401 0 (((State.celBytes.drop off).take len).map (·.toNat))))
  ∧ (∀ (s : State) (ld : Nat), s.mbFree ld = true → s.halted = false → ∃ t, exec (.getHealthInfo ld) s = .next t
      ∧ (t.out.drop s.out.length).head? = some (.mailbox ld 0x4200 0 s.healthFields))
  ∧ (∀ (s : State) (ld : Nat), s.mbFree ld = true → s.halted = false → s.topState ≠ 2 → s.memActive = true →
      ∃ t, exec (.getAlertConfiguration ld) s = .next t
      ∧ (t.out.drop s.out.length).head? = some (.mailbox ld 0x4201 0 ((s.ldOf ld).alerts.enable :: (List.range 4).map fun i => (s.ldOf ld).alerts.vals.getD i 0)))
  ∧ (∀ (s : State) (ld : Nat) (off : Nat) (len : Nat), s.mbFree ld = true → s.halted = false → s.topState ≠ 2 → s.memActive = true →
      s.hasRight ld rightMemRd = true → off + len ≤ 131072 → (∀ p ∈ State.lsaPages off len, s.lsaReadable ld p = true) →
      ∃ t, exec (.getLsa ld off len) s = .next t
      ∧ (t.out.drop s.out.length).head? = some (.mailbox ld 0x4102 0 ((Tab.getBytes (fun _ => 0) (s.ldOf ld).lsa off len).map (·.toNat))))
  ∧ (∀ (s : State) (ld : Nat), s.mbFree ld = true → s.halted = false → s.topState ≠ 2 → s.memActive = true →
      ∃ t, exec (.getDynamicCapacityConfiguration ld) s = .next t
      ∧ ((fun rs => (t.out.drop s.out.length).head? = some (.mailbox ld 0x4800 0 (rs.length :: rs.flatMap fun (r : Region) => [r.index, r.base * 2 ^ 28, r.size * 2 ^ 28, 2 ^ r.dcdBlock]))) (s.plan.regions.filter fun r => r.dcd && r.forLd ld)))
  ∧ (∀ (s : State) (ld : Nat), s.mbFree ld = true → s.halted = false → s.topState ≠ 2 → s.memActive = true →
      ∃ t, exec (.getDynamicCapacityExtentList ld) s = .next t
      ∧ ((fun es => (t.out.drop s.out.length).head? = some (.mailbox ld 0x4801 0 (es.length :: es.flatMap fun (e : Extent) => [e.id, e.base, e.len]))) (s.coh.extents.filter fun e => e.state == .active && Nat.testBit e.accepted ld)))
  ∧ (∀ (s : State) (ld : Nat), s.mbFree ld = true → s.halted = false → s.topState ≠ 2 → s.memActive = true →
      ∃ t, exec (.getDeviceState ld) s = .next t
      ∧ (t.out.drop s.out.length).head? = some (.mailbox ld 0xC000 0 ([TOP.STATE_STATE, TOP.PATTERN_VER_VERSION, MED.GROUP_STATUS_STATE 0, MED.GROUP_STATUS_STATE 1, MED.GROUP_STATUS_STATE 2, MED.GROUP_STATUS_STATE 3, TOP.FLUSH_EST_US, PWS.PACE_STATUS_PACE].map fun f => (s.viewWord ld f.off).toNat)))
  ∧ (∀ (s : State) (ld : Nat), s.mbFree ld = true → s.halted = false → s.topState ≠ 2 → s.memActive = true →
      ∃ t, exec (.getWearReport ld) s = .next t
      ∧ (t.out.drop s.out.length).head? = some (.mailbox ld 0xC001 0 ((List.range 32).map fun n => (s.viewWord ld (MED.CART_MEDIA_CLASS n).off).toNat)))
  ∧ (∀ (s : State) (ld : Nat) (e : HamRec × Nat × Bool), s.mbFree ld = true → s.halted = false → s.topState ≠ 2 → s.memActive = true →
      (s.hamView 0).find? (fun e => e.1.code == 0x0801) = some e → ∃ t, exec (.getFlushRecord ld) s = .next t
      ∧ (t.out.drop s.out.length).head? = some (.mailbox ld 0xC002 0 ((padTo 28 e.1.payload ++ le 4 (s.getF TOP.AT_RISK_LINES)).map (·.toNat))))
  ∧ (∀ (s : State) (ld : Nat), s.mbFree ld = true → s.halted = false → s.topState ≠ 2 → s.memActive = true →
      ∃ t, exec (.getGroupStatus ld) s = .next t
      ∧ (t.out.drop s.out.length).head? = some (.mailbox ld 0xC003 0 (([GRP.STATUS_MEMBER.off, GRP.SKEW_NS.off] ++ (List.range 16).map (0x70100 + 4 * ·) ++ [GRP.GROUP_ID_LO_ID.off, GRP.GROUP_ID_HI_ID.off]).map fun o => (s.viewWord ld o).toNat)))
  ∧ (∀ (s : State) (ld : Nat) (op : Nat), s.mbFree ld = true → s.halted = false → mbOpcodes.contains op = false →
      ∃ t, exec (.mailboxUnsupported ld op) s = .next t ∧ (t.out.drop s.out.length).head? = some (.mailbox ld op mbUnsupported []))
  ∧ (∀ (s : State) (ld : Nat) (dpa : Nat) (len : Nat), s.mbFree ld = true → s.halted = false → s.topState ≠ 2 → s.memActive = true →
      s.hasRight ld rightMemRd = true → dpa % 64 = 0 → len ≠ 0 → dpa + 64 * len ≤ 2 ^ 45 → (s.ldOf ld).poisonFrom = none →
      ∃ t, exec (.getPoisonList ld dpa len) s = .next t
      ∧ (fun found => (t.out.drop s.out.length).head? = some (.mailbox ld 0x4300 0 ([if (State.poisonRecords 4096 found []).2.isSome then 1 else 0, (State.poisonRecords 4096 found []).1.length] ++ (State.poisonRecords 4096 found []).1.flatMap fun r => [64 * r.1, r.2.1, r.2.2]))) ((s.poisonCands (dpa / 64) len).filterMap fun x => if s.decoded (some ld) x then (s.poisonSource x).map fun c => (x, c) else none))

/-- Mailbox commands that change the device (R111, R304, R305, R372 to R375, R377, R379, Tables 11-5, 11-9): event records named are removed, the rest stay; vectors, thresholds and device time take the values given; Set LSA starts its pages; Inject Poison and Clear Poison write the line; Sanitize and Secure Erase begin as background commands with what they act on. Opcodes and return codes are the model's choices (log 52). -/
def Obligations.MailboxCommandsComplete : Prop :=
  (∀ (s : State) (ld : Nat) (log : Nat) (hs : List Nat), s.mbFree ld = true → s.halted = false → s.topState ≠ 2 → log < 5 →
      (∀ h ∈ hs, (Tab.get (fun _ => []) (s.ldOf ld).logs log).any (fun (r : EvRec) => r.handle == h) = true) →
      ∃ t, exec (.clearEventRecords ld log hs false) s = .next t
      ∧ Tab.get (fun _ => []) (t.ldOf ld).logs log = (Tab.get (fun _ => []) (s.ldOf ld).logs log).filter fun (r : EvRec) => !hs.contains r.handle
      ∧ (t.out.drop s.out.length).head? = some (.mailbox ld 0x0101 0 []))
  ∧ (∀ (s : State) (ld : Nat) (log : Nat), s.mbFree ld = true → s.halted = false → s.topState ≠ 2 → log < 5 →
      ∃ t, exec (.clearEventRecords ld log [] true) s = .next t ∧ Tab.get (fun _ => []) (t.ldOf ld).logs log = []
      ∧ (t.out.drop s.out.length).head? = some (.mailbox ld 0x0101 0 []))
  ∧ (∀ (s : State) (ld : Nat) (vs : List Nat), s.mbFree ld = true → s.halted = false → s.topState ≠ 2 → s.memActive = true → vs.length = 5 →
      (∀ v ∈ vs, v ≠ 1 ∧ v ≤ 2047) → ∃ t, exec (.setEventInterruptPolicy ld vs) s = .next t
      ∧ (List.range 5).map (fun i => Tab.get (fun _ => 2) (t.ldOf ld).policy i) = vs
      ∧ (t.out.drop s.out.length).head? = some (.mailbox ld 0x0103 0 []))
  ∧ (∀ (s : State) (ld : Nat) (v : Nat), s.mbFree ld = true → s.halted = false → s.topState ≠ 2 → s.hasRight ld rightRegWr = true →
      ∃ t, exec (.setTimestamp ld v) s = .next t ∧ t.clk.time = v % 2 ^ 64 ∧ t.clk.timeSet = true ∧ t.clk.slew = 0
      ∧ .mailbox ld 0x0301 0 [] ∈ t.out.drop s.out.length)
  ∧ (∀ (s : State) (ld : Nat) (cfg : AlertCfg), s.mbFree ld = true → s.halted = false → s.topState ≠ 2 → s.memActive = true →
      s.hasRight ld rightRegWr = true → ∃ t, exec (.setAlertConfiguration ld cfg) s = .next t ∧ (∀ i : Nat, i < 4 →
      (t.ldOf ld).alerts.vals.getD i 0 = if Nat.testBit cfg.valid i then cfg.vals.getD i 0 else (s.ldOf ld).alerts.vals.getD i 0)
      ∧ (∀ i : Nat, i < 4 →
      Nat.testBit (t.ldOf ld).alerts.enable i = if Nat.testBit cfg.valid i then Nat.testBit cfg.enable i else Nat.testBit (s.ldOf ld).alerts.enable i)
      ∧ (t.out.drop s.out.length).head? = some (.mailbox ld 0x4202 0 []))
  ∧ (∀ (s : State) (ld : Nat) (off : Nat) (bytes : List Byte) (s1 : State), s.mbFree ld = true → s.halted = false → s.topState ≠ 2 →
      s.memActive = true → s.hasRight ld rightMemWr = true → off + bytes.length ≤ 131072 → s.flush.stopped = false →
      State.lsaPages off bytes.length ≠ [] → (∀ p ∈ State.lsaPages off bytes.length, s.lsaReadable ld p = true) →
      State.lsaIssue ld (Tab.setBytes (fun _ => 0) (s.ldOf ld).lsa off bytes) (State.lsaPages off bytes.length) s = some s1 →
      ∃ t, exec (.setLsa ld off bytes) s = .next t ∧ (t.ldOf ld).lsaPend = (State.lsaPages off bytes.length).length ∧ t.med = s1.med)
  ∧ (∀ (s : State) (ld : Nat) (dpa : Nat) (k : Nat), s.mbFree ld = true → s.halted = false → s.topState ≠ 2 → s.memActive = true →
      s.hasRight ld rightMemWr = true → (s.mailLine ld dpa = none) → s.sharedOf (dpa / 64) = false → s.fencedAt (dpa / 64) = false →
      s.flush.stopped = false → s.flush.clean = none → (∀ x ∈ s.ham.holding, x.code ≠ 0x0802) → s.sealedLine (dpa / 64) = false →
      (∀ r ∈ s.reqs, r.line ≠ dpa / 64) → s.throughOpen (dpa / 64) = false → s.writesThrough (dpa / 64) = false →
      s.findPent (dpa / 64) = none → s.findWay (dpa / 64) = some k →
      (s.dirtyIn (dpa / 64) = true ∨ s.budgetRoom (sliceOf (dpa / 64)) = true) → s.integ.inj = none → s.injectedLines.length < 1024 →
      ∃ t, exec (.injectPoison ld dpa) s = .next t ∧ (t.way k).val.poison = true ∧ (t.way k).dirty = true
      ∧ dpa / 64 ∈ (t.ldOf ld).injected ∧ (t.ldOf ld).mbOp = none ∧ .mailbox ld 0x4301 0 [] ∈ t.out.drop s.out.length)
  ∧ (∀ (s : State) (ld : Nat) (dpa : Nat) (data : BitVec 512) (k : Nat), s.mbFree ld = true → s.halted = false → s.topState ≠ 2 →
      s.memActive = true → s.hasRight ld rightMemWr = true → (s.mailLine ld dpa = none) → s.sharedOf (dpa / 64) = false →
      s.fencedAt (dpa / 64) = false → s.flush.stopped = false → s.flush.clean = none → (∀ x ∈ s.ham.holding, x.code ≠ 0x0802) →
      s.sealedLine (dpa / 64) = false → (∀ r ∈ s.reqs, r.line ≠ dpa / 64) → s.throughOpen (dpa / 64) = false →
      s.writesThrough (dpa / 64) = false → s.findPent (dpa / 64) = none → s.findWay (dpa / 64) = some k →
      (s.dirtyIn (dpa / 64) = true ∨ s.budgetRoom (sliceOf (dpa / 64)) = true) → s.integ.inj = none → s.cipherFault = false →
      ∃ t, exec (.clearPoison ld dpa data) s = .next t ∧ (t.way k).val = mkLine data (dpa / 64) false false ∧ (t.way k).dirty = true
      ∧ dpa / 64 ∉ (t.ldOf ld).injected ∧ (t.ldOf ld).mbOp = none ∧ .mailbox ld 0x4302 0 [] ∈ t.out.drop s.out.length)
  ∧ (∀ (s : State) (ld : Nat), s.mbFree ld = true → s.halted = false → s.topState ≠ 2 → s.memActive = true → s.hasRight ld rightMemWr = true →
      (s.ldOf ld).bg = none → s.flush.stopped = false → ∃ t, exec (.sanitize ld) s = .next t ∧ (t.ldOf ld).bg.map (·.opcode) = some 0x4400
      ∧ (t.ldOf ld).lsa = [] ∧ (∀ x ∈ s.ownSpans ld, (ld, x.1, x.2) ∈ t.coh.wiped)
      ∧ .mailbox ld 0x4400 mbBackground [] ∈ t.out.drop s.out.length)
  ∧ (∀ (s : State) (ld : Nat), s.mbFree ld = true → s.halted = false → s.topState ≠ 2 → s.memActive = true → s.hasRight ld rightMemWr = true →
      (s.ldOf ld).bg = none → s.flush.stopped = false → ∃ t, exec (.secureErase ld) s = .next t
      ∧ (t.ldOf ld).bg.map (·.opcode) = some 0x4401 ∧ t.coh.wiped = s.coh.wiped
      ∧ .mailbox ld 0x4401 mbBackground [] ∈ t.out.drop s.out.length)
  ∧ (∀ (s : State) (ld : Nat) (c : BgCmd), ld < 16 → s.flush.stopped = false → (s.ldOf ld).bg = some c → c.todo = [] → c.ext = none →
      ∃ t, exec (.backgroundCommandComplete ld) s = .next t ∧ (t.ldOf ld).bg = none ∧ (∀ w ∈ t.coh.wiped, w.1 ≠ ld)
      ∧ .mailbox ld c.opcode 0 [] ∈ t.out.drop s.out.length)
  ∧ (∀ (s : State), s.flush.stopped = false → (∀ x ∈ s.lds, x.2.bg = none) → (∀ e ∈ s.coh.extents, e.state = .releasing → e.bolts = []) →
      ∃ t, exec (.backgroundCommandComplete 16) s = .next t ∧ (∀ e ∈ t.coh.extents, e.state ≠ .releasing))

/-- Dynamic capacity at the mailbox (R250 to R252, R369): an LD that accepts an extent offered to it makes it active for it; an LD that gives one back that others hold still leaves it active for those; the last one starts its release, as a background command. Opcodes and return codes are the model's choices (log 52). -/
def Obligations.HostDynamicCapacityCompletes : Prop :=
  (∀ (s : State) (ld : Nat) (x : Nat) (e : Extent), s.mbFree ld = true → s.halted = false → s.topState ≠ 2 → s.memActive = true →
      s.hasRight ld rightMemWr = true → s.extentOf x = some e → Nat.testBit e.ldMask ld = true → e.state ≠ .releasing →
      Nat.testBit e.accepted ld = false → s.storeOk = true → ∃ t, exec (.addDynamicCapacityResponse ld x) s = .next t
      ∧ (t.extentOf x = some { e with state := .active, accepted := e.accepted ||| 2 ^ ld })
      ∧ (t.out.drop s.out.length).head? = some (.mailbox ld 0x4802 0 []))
  ∧ (∀ (s : State) (ld : Nat) (x : Nat) (e : Extent), s.mbFree ld = true → s.halted = false → s.topState ≠ 2 → s.memActive = true →
      s.hasRight ld rightMemWr = true → s.extentOf x = some e → e.state = .active → Nat.testBit e.accepted ld = true →
      (s.ldOf ld).bg = none → s.flush.stopped = false → s.storeOk = true → e.accepted ≠ 2 ^ ld →
      ∃ t, exec (.releaseDynamicCapacity ld x) s = .next t ∧ t.extentOf x = some { e with accepted := e.accepted - 2 ^ ld }
      ∧ (t.ldOf ld).bg = some { opcode := 0x4803 } ∧ .mailbox ld 0x4803 mbBackground [] ∈ t.out.drop s.out.length)
  ∧ (∀ (s : State) (ld : Nat) (x : Nat) (e : Extent), s.mbFree ld = true → s.halted = false → s.topState ≠ 2 → s.memActive = true →
      s.hasRight ld rightMemWr = true → s.extentOf x = some e → e.state = .active → Nat.testBit e.accepted ld = true →
      (s.ldOf ld).bg = none → s.flush.stopped = false → s.storeOk = true → e.accepted = 2 ^ ld →
      ∃ t, exec (.releaseDynamicCapacity ld x) s = .next t ∧ (t.extentOf x).map (fun y => (y.state, y.accepted)) = some (.releasing, 0)
      ∧ (t.ldOf ld).bg = some { opcode := 0x4803, ext := some e.id } ∧ .mailbox ld 0x4803 mbBackground [] ∈ t.out.drop s.out.length)

/-- FM API commands (R245, R250 to R252, R359 to R361, R369, Tables 07-1, 07-5, 11-2, 11-3): while the supervisor is awake the device answers with its LDs, allocations, heads, DCD regions, extents or bindings; Set LD Allocations changes nothing (log 65); an extent that may be added is offered under a number that no other has; a release that is not forced leaves the extent active and asks the hosts, a forced one begins at once, by SECURE_DISCARD where it is secure; a binding is written to Hem and takes effect at once where the port trains alike before and after. Return codes, numbers and payload forms are the model's choices (log 52). -/
def Obligations.FabricManagerCommandsComplete : Prop :=
  (∀ (s : State), s.clk.awake = true → ∃ t, exec (.getLdInfo) s = .next t
      ∧ t.out = s.out ++ [.fm 21504 0 [s.plan.regions.foldl (fun a r => a + r.size) 0, 16]])
  ∧ (∀ (s : State), s.clk.awake = true → ∃ t, exec (.getLdAllocations) s = .next t
      ∧ t.out = s.out ++ [.fm 21505 0 ((List.range 16).map s.ldUnits)])
  ∧ (∀ (s : State) (g : List Nat), s.clk.awake = true → g.length ≤ 16 → ∃ t, exec (.setLdAllocations g) s = .next t
      ∧ t.out = s.out ++ [.fm 21506 0 ((List.range g.length).map s.ldUnits)] ∧ t.plan = s.plan)
  ∧ (∀ (s : State), s.clk.awake = true → ∃ t, exec (.getMultiHeadedInfo) s = .next t
      ∧ t.out = s.out ++ [.fm 21760 0 ([16, 4] ++ (List.range 16).map fun k => (s.boundTo k).getD 0xFF)])
  ∧ (∀ (s : State) (ld : Nat), s.clk.awake = true → ld < 16 → s.memActive = true → ∃ t, exec (.getDcRegionConfiguration ld) s = .next t
      ∧ ((fun rs => t.out = s.out ++ [.fm 22017 0 (rs.length :: rs.flatMap fun (r : Region) => [r.index, r.base * 2 ^ 28, r.size * 2 ^ 28, 2 ^ r.dcdBlock])]) (s.plan.regions.filter fun r => r.dcd && r.forLd ld)))
  ∧ (∀ (s : State) (ld : Nat), s.clk.awake = true → ld < 16 → s.memActive = true → ∃ t, exec (.getDcRegionExtentLists ld) s = .next t
      ∧ (fun es => t.out = s.out ++ [.fm 22019 0 (es.length :: es.flatMap fun (e : Extent) => [e.id, e.base, e.len, if e.state = .offered then 0 else if e.state = .active then 1 else 2])]) (s.coh.extents.filter fun e => Nat.testBit e.ldMask ld))
  ∧ (∀ (s : State), s.clk.awake = true → ∃ t, exec (.getBindings) s = .next t
      ∧ t.out = s.out ++ [.fm 51202 0 ((List.range 16).map fun k => (s.boundTo k).getD 0xFF)])
  ∧ (∀ (s : State) (m : Nat) (b : Nat) (n : Nat), s.clk.awake = true → s.memActive = true → s.addRefusal m b n = none →
      ∃ t, exec (.initiateDynamicCapacityAdd m b n) s = .next t
      ∧ ((fun id => t.coh.extents = s.coh.extents ++ [{ id, base := b, len := n, ldMask := m }] ∧ (∀ e ∈ s.coh.extents, e.id ≠ id)
      ∧ .fm 22020 0 [id] ∈ t.out.drop s.out.length) (s.coh.extents.foldl (fun a e => max a (e.id + 1)) 0)))
  ∧ (∀ (s : State) (x : Nat) (ld : Nat) (e : Extent), s.clk.awake = true → s.extentOf x = some e → Nat.testBit e.ldMask ld = true →
      s.memActive = true → s.flush.stopped = false → e.state = .active →
      ∃ t, exec (.initiateDynamicCapacityRelease x ld false) s = .next t ∧ t.extentOf x = some { e with secure := e.secure }
      ∧ .fm 22021 0 [] ∈ t.out.drop s.out.length)
  ∧ (∀ (s : State) (x : Nat) (ld : Nat) (e : Extent), s.clk.awake = true → s.extentOf x = some e → Nat.testBit e.ldMask ld = true →
      s.memActive = true → s.flush.stopped = false → e.state ≠ .releasing → s.storeOk = true →
      ∃ t, exec (.initiateDynamicCapacityRelease x ld true) s = .next t
      ∧ (t.extentOf x).map (fun y => (y.state, y.secure)) = some (.releasing, e.secure)
      ∧ .fm 22021 mbBackground [] ∈ t.out.drop s.out.length)
  ∧ (∀ (s : State) (x : Nat) (ld : Nat) (e : Extent), s.clk.awake = true → s.extentOf x = some e → Nat.testBit e.ldMask ld = true →
      s.memActive = true → s.flush.stopped = false → e.state = .active → ∃ t, exec (.secureRelease x ld false) s = .next t
      ∧ t.extentOf x = some { e with secure := true } ∧ .fm 51203 0 [] ∈ t.out.drop s.out.length)
  ∧ (∀ (s : State) (x : Nat) (ld : Nat) (e : Extent), s.clk.awake = true → s.extentOf x = some e → Nat.testBit e.ldMask ld = true →
      s.memActive = true → s.flush.stopped = false → e.state ≠ .releasing → s.storeOk = true →
      ∃ t, exec (.secureRelease x ld true) s = .next t ∧ (t.extentOf x).map (fun y => (y.state, y.secure)) = some (.releasing, true)
      ∧ .fm 51203 mbBackground [] ∈ t.out.drop s.out.length)
  ∧ (∀ (s : State) (ld : Nat) (p : Nat), s.clk.awake = true → ld < 16 → p < 4 → s.boundTo ld = none → s.kpsOk = true →
      ∃ t, exec (.bindLd ld p) s = .next t ∧ .fm 51200 0 [] ∈ t.out.drop s.out.length ∧ t.boundTo ld = some p ∧ ((s.ldsAt p).length ≠ 0 →
      (s.ldsAt p).length ≠ 1 → (t.ldOf ld).port = some p))
  ∧ (∀ (s : State) (ld : Nat) (p : Nat), s.clk.awake = true → ld < 16 → s.boundTo ld = some p → (s.ldOf ld).port ≠ none → s.kpsOk = true →
      ∃ t, exec (.unbindLd ld) s = .next t ∧ .fm 51201 0 [] ∈ t.out.drop s.out.length ∧ t.boundTo ld = none ∧ (3 ≤ (s.ldsAt p).length →
      (t.ldOf ld).port = none))
  ∧ (∀ (s : State) (ld : Nat) (p : Nat), s.clk.awake = true → ld < 16 → s.boundTo ld = some p → (s.ldOf ld).port = none → s.kpsOk = true →
      ∃ t, exec (.unbindLd ld) s = .next t ∧ .fm 51201 0 [] ∈ t.out.drop s.out.length ∧ t.boundTo ld = none)

/-- Flits of a cartridge link (R389 to R394, R402, R408): a response of status 0 without data ends its TAG, that of an IDENT gives the identity record, that of a READ_PAGE announces its 41 DATA flits; each DATA flit in order advances, the last ends the TAG; a NAK of reason 0 replays, one of a violation is shown as the cartridge reports it; STATUS gives the temperature and the fault flag; an idle flit returns credits; a corrupt flit is answered by a NAK of reason 0. -/
def Obligations.CartridgeFlitsComplete : Prop :=
  (∀ (s : State) (n : Nat) (h : FlitHead) (tag : Nat) (p : List Byte) (c : CmdRec), s.accepts n h = true →
      ((s.link n).tags.find? (fun c => c.tag == tag && c.total == 0) = some c) → c.op = 8 → ∃ t, exec (.rspFlit n h tag 0 p) s = .next t
      ∧ (t.link n).tags = (s.link n).tags.filter (·.tag != tag) ∧ (t.link n).rxCount = ((s.link n).rxCount + 1) % 2 ^ 48)
  ∧ (∀ (s : State) (n : Nat) (h : FlitHead) (tag : Nat) (p : List Byte) (c : CmdRec), s.accepts n h = true →
      ((s.link n).tags.find? (fun c => c.tag == tag && c.total == 0) = some c) → c.op = 9 → ∃ t, exec (.rspFlit n h tag 0 p) s = .next t
      ∧ (t.cart n).ident = State.identOf p ∧ (t.link n).identOk = true ∧ (t.link n).tags = (s.link n).tags.filter (·.tag != tag))
  ∧ (∀ (s : State) (n : Nat) (h : FlitHead) (tag : Nat) (p : List Byte) (c : CmdRec), s.accepts n h = true →
      ((s.link n).tags.find? (fun c => c.tag == tag && c.total == 0) = some c) → c.op = 2 → ∃ t, exec (.rspFlit n h tag 0 p) s = .next t
      ∧ ((t.link n).tags.find? (fun c => c.tag == tag)).map (·.total) = ((s.link n).tags.find? (fun c => c.tag == tag)).map (fun _ => 41))
  ∧ (∀ (s : State) (n : Nat) (h : FlitHead) (tag : Nat) (c : CmdRec), s.accepts n h = true →
      (s.link n).tags.find? (fun c => c.tag == tag) = some c → c.next + 1 < c.total → ∃ t, exec (.dataFlit n h tag c.next) s = .next t
      ∧ ((t.link n).tags.find? (fun c => c.tag == tag)).map (fun x => (x.next, x.total)) = some (c.next + 1, c.total))
  ∧ (∀ (s : State) (n : Nat) (h : FlitHead) (tag : Nat) (c : CmdRec), s.accepts n h = true →
      (s.link n).tags.find? (fun c => c.tag == tag) = some c → c.next + 1 = c.total → c.op = 2 →
      ∃ t, exec (.dataFlit n h tag c.next) s = .next t ∧ (t.link n).tags = (s.link n).tags.filter (·.tag != tag))
  ∧ (∀ (s : State) (n : Nat) (h : FlitHead) (k : Nat), s.accepts n h = true → (State.rxAck h (s.link n)).acked < (s.link n).txCount →
      (State.rxAck h (s.link n)).replay < 4 → ∃ t, exec (.nakFlit n h 0 k) s = .next t
      ∧ (t.link n).replay = (State.rxAck h (s.link n)).replay + 1)
  ∧ (∀ (s : State) (n : Nat) (h : FlitHead) (r : Nat) (k : Nat), s.accepts n h = true → n < 32 → 2 ≤ r → r < 8 →
      ∃ t, exec (.nakFlit n h r k) s = .next t ∧ t.getF (VLK.VIOL_LAST n) = r ∧ t.getF (VLK.VIOL_BY_DEV n) = 1)
  ∧ (∀ (s : State) (n : Nat) (h : FlitHead) (temp : Nat) (failed : Nat) (power : Nat) (flags : Nat), s.accepts n h = true → flags ≤ 1 →
      ∃ t, exec (.statusFlit n h temp failed power flags) s = .next t ∧ (t.cart n).temp = some (signed16 temp)
      ∧ (t.cart n).fault = Nat.testBit flags 0)
  ∧ (∀ (s : State) (n : Nat) (h : FlitHead), s.accepts n h = true → ∃ t, exec (.idleFlit n h) s = .next t
      ∧ (t.link n).credits = (s.link n).credits + h.credit ∧ (t.link n).rxCount = (s.link n).rxCount)
  ∧ (∀ (s : State) (n : Nat) (b : Bool), 2 ≤ (s.link n).step → s.halted = false → s.sendsNow n = true →
      ∃ t, exec (.flitCorrupt n b) s = .next t ∧ (t.link n).nakOut = true ∧ firstNew s t = some (.flit n 4 [0, (s.link n).rxCount]))

/-- Cartridge links (R393 to R399, R402, R409): a replay is counted; a command without a response in time ends as a violation of reason 8; a retrain that lasts is late; a missing STATUS makes the temperature unknown; a bring-up that fails is tried again; FEC lock with FORCE_X1 gives width 1 and the HELLO follows; a lane is spared with source 256 + 8n + 7; a link that goes down and VLK.CMD.RETRAIN retrain it with source 256 + 8n + 3; UNQUARANTINE ends the quarantine. -/
def Obligations.CartridgeLinkCommandsComplete : Prop :=
  (∀ (s : State) (n : Nat), 2 ≤ (s.link n).step → (s.link n).acked < (s.link n).txCount → (s.link n).replay < 4 →
      ∃ t, exec (.replayTimeout n) s = .next t ∧ (t.link n).replay = (s.link n).replay + 1)
  ∧ (∀ (s : State) (n : Nat) (tag : Nat), (s.link n).tags.any (fun c => c.tag == tag) = true → n < 32 →
      ∃ t, exec (.responseTimeout n tag) s = .next t ∧ (t.link n).tags.any (fun c => c.tag == tag) = false ∧ t.getF (VLK.VIOL_LAST n) = 8
      ∧ t.getF (VLK.VIOL_BY_DEV n) = 0)
  ∧ (∀ (s : State) (n : Nat), (s.link n).retraining = true → ∃ t, exec (.retrainTimeout n) s = .next t
      ∧ t.link n = { s.link n with late := true })
  ∧ (∀ (s : State) (n : Nat), n < 32 → (s.link n).up = true → ∃ t, exec (.statusTimeout n) s = .next t ∧ (t.cart n).temp = none
      ∧ t.getF (CAR.STATUS_TEMP n) = 0)
  ∧ (∀ (s : State) (n : Nat), (s.link n).step ≠ 0 → (s.link n).up = false → (s.cart n).adopt ≠ 11 → s.linkKey ≠ none → (s.link n).tries < 2 →
      ∃ t, exec (.linkBringupTimeout n) s = .next t ∧ (t.link n).step = 1 ∧ (t.link n).tries = (s.link n).tries + 1)
  ∧ (∀ (s : State) (n : Nat) (w : Nat) (l : Nat), n < 32 → (s.link n).step = 1 → s.getF (VLK.CTRL_FORCE_X1 n) = 1 → s.linkKey ≠ none →
      ∃ t, exec (.fecLock n w l) s = .next t ∧ (t.link n).step = 3 ∧ (t.link n).width = 1 ∧ t.getF (VLK.STATUS_STATE n) = 2
      ∧ t.getF (VLK.STATUS_WIDTH n) = 1 ∧ t.getF (VLK.STATUS_LANE n) = 0)
  ∧ (∀ (s : State) (n : Nat) (l : Nat), n < 32 → (s.link n).up = true → (s.link n).spared = none → ∃ t, exec (.laneSparing n l) s = .next t
      ∧ (t.link n).spared = some (l % 2) ∧ t.fired (256 + 8 * n + 7) = true)
  ∧ (∀ (s : State) (n : Nat), n < 32 → (s.link n).up = true → ∃ t, exec (.cartridgeLinkDown n) s = .next t ∧ (t.link n).up = false
      ∧ t.fired (256 + 8 * n + 3) = true)
  ∧ (∀ (s : State) (m : Nat) (n : Nat), n < 32 → s.mayWrite m (0x100008 + 4096 * n) = true → s.canTrain n = true →
      ∃ t, exec (.vlkRetrain m n) s = .next t ∧ (t.link n).up = false ∧ t.fired (256 + 8 * n + 3) = true)
  ∧ (∀ (s : State) (m : Nat) (n : Nat), n < 32 → s.mayWrite m (0x100008 + 4096 * n) = true → (s.cart n).quarantined = true →
      ∃ t, exec (.unquarantine m n) s = .next t ∧ (t.cart n).quarantined = false ∧ (t.link n).up = false
      ∧ t.getF (VLK.STATUS_RETRAINS n) = 0)

/-- Commands of cartridges (R402 to R404, R406, R412, Table 12-6): a command that may go out takes a free TAG and one credit and leaves as one CMD flit, followed by its DATA flits where it has any; a program is marked as handed over, a block of the reserved area keeps the bytes written. -/
def Obligations.CartridgeCommandsGoOut : Prop :=
  (∀ (s : State) (n : Nat) (psa : Nat) (l : Nat) (r : Nat), psaSlot psa = n → (s.cart n).adopted = true → s.canSend n 1 1 = true →
      refSetUsed s psa r = true → ∃ t, exec (.readLine n psa l r) s = .next t
      ∧ (t.link n).tags = (s.link n).tags ++ [{ tag := State.freeTag (s.link n), op := 1, arg := psa, since := s.clk.now }]
      ∧ (t.link n).credits = (s.link n).credits - 1
      ∧ firstNew s t = some (.flit n 1 (1 :: State.freeTag (s.link n) :: (psaArgs psa ++ [l, r])))
      ∧ (t.link n).txCount = ((s.link n).txCount + 1) % 2 ^ 48)
  ∧ (∀ (s : State) (n : Nat) (psa : Nat), psaSlot psa = n → (s.cart n).adopted = true → s.canSend n 2 1 = true →
      ∃ t, exec (.readPage n psa) s = .next t
      ∧ (t.link n).tags = (s.link n).tags ++ [{ tag := State.freeTag (s.link n), op := 2, arg := psa, since := s.clk.now }]
      ∧ (t.link n).credits = (s.link n).credits - 1
      ∧ firstNew s t = some (.flit n 1 (2 :: State.freeTag (s.link n) :: (psaArgs psa ++ [s.predictedSet psa])))
      ∧ (t.link n).txCount = ((s.link n).txCount + 1) % 2 ^ 48)
  ∧ (∀ (s : State) (n : Nat) (psa : Nat) (p : Prog), (s.med.progs.find? (fun p => s.physPsa p.psa == psa && !p.sent) = some p) →
      psaSlot psa = n → (s.cart n).adopted = true → (s.cart n).inWindow = true → s.canSend n 3 42 = true →
      s.getF (MED.CART_MEDIA_CLASS n) ≠ 3 → ∃ t, exec (.program n psa) s = .next t
      ∧ (t.link n).tags = (s.link n).tags ++ [{ tag := State.freeTag (s.link n), op := 3, arg := psa, since := s.clk.now }]
      ∧ (∀ x ∈ t.med.progs, x.psa = p.psa → x.sent = true)
      ∧ firstNew s t = some (.flit n 1 (3 :: State.freeTag (s.link n) :: (psaArgs psa ++ [if p.nosusp then 1 else 0])))
      ∧ (t.link n).txCount = ((s.link n).txCount + 42) % 2 ^ 48)
  ∧ (∀ (s : State) (n : Nat) (die : Nat) (bolt : Nat), s.med.resets.contains (mkBolt n die bolt) = true → (s.cart n).adopted = true →
      (s.cart n).inWindow = true → s.boltRead (mkBolt n die bolt) = false → s.canSend n 4 1 = true → s.getF (MED.CART_MEDIA_CLASS n) ≠ 3 →
      ∃ t, exec (.reset n die bolt) s = .next t
      ∧ (t.link n).tags = (s.link n).tags ++ [{ tag := State.freeTag (s.link n), op := 4, arg := mkBolt n die bolt, since := s.clk.now }]
      ∧ (t.link n).credits = (s.link n).credits - 1 ∧ firstNew s t = some (.flit n 1 (4 :: State.freeTag (s.link n) :: ([die, bolt])))
      ∧ (t.link n).txCount = ((s.link n).txCount + 1) % 2 ^ 48)
  ∧ (∀ (s : State) (n : Nat) (die : Nat) (first : Nat) (k : Nat), s.canSend n 5 1 = true → ∃ t, exec (.ledgerRead n die first k) s = .next t
      ∧ (t.link n).tags = (s.link n).tags ++ [{ tag := State.freeTag (s.link n), op := 5, arg := State.ledgerArg die first k, since := s.clk.now }]
      ∧ (t.link n).credits = (s.link n).credits - 1 ∧ firstNew s t = some (.flit n 1 (5 :: State.freeTag (s.link n) :: ([die, first, k])))
      ∧ (t.link n).txCount = ((s.link n).txCount + 1) % 2 ^ 48)
  ∧ (∀ (s : State) (n : Nat) (die : Nat) (bolt : Nat), s.canSend n 6 1 = true → ∃ t, exec (.ledgerWrite n die bolt) s = .next t
      ∧ (t.link n).tags = (s.link n).tags ++ [{ tag := State.freeTag (s.link n), op := 6, arg := mkBolt n die bolt, since := s.clk.now }]
      ∧ (t.link n).credits = (s.link n).credits - 1
      ∧ firstNew s t = some (.flit n 1 (6 :: State.freeTag (s.link n) :: ([die, bolt, (s.ledger (mkBolt n die bolt)).state, (s.ledger (mkBolt n die bolt)).role, (s.ledger (mkBolt n die bolt)).series, (s.ledger (mkBolt n die bolt)).position, (s.ledger (mkBolt n die bolt)).frame, (s.ledger (mkBolt n die bolt)).parityAt, (s.ledger (mkBolt n die bolt)).parityNext, (s.ledger (mkBolt n die bolt)).aliasTo, (s.ledger (mkBolt n die bolt)).ageFirst])))
      ∧ (t.link n).txCount = ((s.link n).txCount + 1) % 2 ^ 48)
  ∧ (∀ (s : State) (n : Nat) (block : Nat), s.canSend n 7 1 = true → ∃ t, exec (.rsvRead n block) s = .next t
      ∧ (t.link n).tags = (s.link n).tags ++ [{ tag := State.freeTag (s.link n), op := 7, arg := block, since := s.clk.now }]
      ∧ (t.link n).credits = (s.link n).credits - 1 ∧ firstNew s t = some (.flit n 1 (7 :: State.freeTag (s.link n) :: ([block])))
      ∧ (t.link n).txCount = ((s.link n).txCount + 1) % 2 ^ 48)
  ∧ (∀ (s : State) (n : Nat) (block : Nat) (bytes : List Byte), s.canSend n 8 30 = true → ∃ t, exec (.rsvWrite n block bytes) s = .next t
      ∧ (t.link n).tags = (s.link n).tags ++ [{ tag := State.freeTag (s.link n), op := 8, arg := block, since := s.clk.now }]
      ∧ (t.link n).credits = (s.link n).credits - 1 ∧ Tab.get (fun _ => []) (t.cart n).rsv block = padTo 4096 bytes
      ∧ firstNew s t = some (.flit n 1 (8 :: State.freeTag (s.link n) :: ([block])))
      ∧ (t.link n).txCount = ((s.link n).txCount + 30) % 2 ^ 48)
  ∧ (∀ (s : State) (n : Nat), s.canSend n 9 1 = true → ∃ t, exec (.ident n) s = .next t
      ∧ (t.link n).tags = (s.link n).tags ++ [{ tag := State.freeTag (s.link n), op := 9, arg := 0, since := s.clk.now }]
      ∧ (t.link n).credits = (s.link n).credits - 1 ∧ firstNew s t = some (.flit n 1 (9 :: State.freeTag (s.link n) :: ([])))
      ∧ (t.link n).txCount = ((s.link n).txCount + 1) % 2 ^ 48)
  ∧ (∀ (s : State) (n : Nat), s.canSend n 10 1 = true → ∃ t, exec (.health n) s = .next t
      ∧ (t.link n).tags = (s.link n).tags ++ [{ tag := State.freeTag (s.link n), op := 10, arg := 0, since := s.clk.now }]
      ∧ (t.link n).credits = (s.link n).credits - 1 ∧ firstNew s t = some (.flit n 1 (10 :: State.freeTag (s.link n) :: ([])))
      ∧ (t.link n).txCount = ((s.link n).txCount + 1) % 2 ^ 48)
  ∧ (∀ (s : State) (n : Nat), s.canSend n 11 1 = true → ∃ t, exec (.setRecord n) s = .next t
      ∧ (t.link n).tags = (s.link n).tags ++ [{ tag := State.freeTag (s.link n), op := 11, arg := 0, since := s.clk.now }]
      ∧ (t.link n).credits = (s.link n).credits - 1
      ∧ firstNew s t = some (.flit n 1 (11 :: State.freeTag (s.link n) :: ([(s.cart n).ident.setId, (s.cart n).ident.setSlot])))
      ∧ (t.link n).txCount = ((s.link n).txCount + 1) % 2 ^ 48)
  ∧ (∀ (s : State) (n : Nat), s.canSend n 12 1 = true → ∃ t, exec (.indicator n) s = .next t
      ∧ (t.link n).tags = (s.link n).tags ++ [{ tag := State.freeTag (s.link n), op := 12, arg := 0, since := s.clk.now }]
      ∧ (t.link n).credits = (s.link n).credits - 1
      ∧ firstNew s t = some (.flit n 1 (12 :: State.freeTag (s.link n) :: ([(s.cart n).indicator])))
      ∧ (t.link n).txCount = ((s.link n).txCount + 1) % 2 ^ 48)
  ∧ (∀ (s : State) (n : Nat), (s.link n).up = true → s.canSend n 13 1 = true → ∃ t, exec (.quiesce n) s = .next t
      ∧ (t.link n).tags = (s.link n).tags ++ [{ tag := State.freeTag (s.link n), op := 13, arg := 0, since := s.clk.now }]
      ∧ (t.link n).credits = (s.link n).credits - 1 ∧ firstNew s t = some (.flit n 1 (13 :: State.freeTag (s.link n) :: ([])))
      ∧ (t.link n).txCount = ((s.link n).txCount + 1) % 2 ^ 48)

/-- Bring-up (R341, R400, R401): a HELLO with the key identifier of the link key forms a session and takes the credits; the pairing goes from PAIR_PUB through PAIR_KEY to PAIR_OK, after which bring-up resumes at HELLO; UNPAIR starts it for a CLAIM. -/
def Obligations.PairingCommandsComplete : Prop :=
  (∀ (s : State) (n : Nat) (h : FlitHead) (msg : HelloMsg) (k : BitVec 512), s.accepts n h = true → n < 32 → (s.link n).step = 3 →
      s.linkKey = some k → (s.cart n).cmd ≠ some 2 → 512 ≤ msg.credits → msg.keyId = State.keyIdOf k →
      ∃ t, exec (.hello n h msg) s = .next t ∧ (t.linkSession n).map (fun x => (x.l, x.sent)) = some (k, 1)
      ∧ (t.link n).credits = msg.credits ∧ t.getF (VLK.STATUS_CREDITS n) = min 1023 msg.credits)
  ∧ (∀ (s : State) (n : Nat) (h : FlitHead), s.accepts n h = true → (s.link n).pairing = 1 → ∃ t, exec (.pairPub n h) s = .next t
      ∧ (t.link n).pairing = 2)
  ∧ (∀ (s : State) (n : Nat) (k : BitVec 512), (s.link n).pairing = 2 → s.linkKey = some k → s.sendsNow n = true →
      ∃ t, exec (.pairKey n) s = .next t ∧ (t.link n).pairing = 3
      ∧ firstNew s t = some (.flit n 7 (2 :: (keyWrap ((Config.digest 2 [n, (s.link n).nonce]).headD 0) (le 32 (keyLow k))).map (·.toNat))))
  ∧ (∀ (s : State) (n : Nat) (h : FlitHead) (k : BitVec 512), s.accepts n h = true → (s.link n).pairing = 3 → s.linkKey = some k →
      ∃ t, exec (.pairOk n h (State.keyIdOf k)) s = .next t ∧ (t.link n).pairing = 0 ∧ (t.link n).step = 3)
  ∧ (∀ (s : State) (n : Nat), (s.cart n).cmd = some 1 → (s.link n).step = 3 → (s.link n).pairing = 0 → s.sendsNow n = true →
      ∃ t, exec (.unpair n) s = .next t ∧ (t.link n).pairing = 1 ∧ firstNew s t = some (.flit n 7 [4]))

/-- Slots (R401, R414 to R418, Table 12-18): a seated cartridge is present and a withdrawn one is not; attention shows ATTN with source 256 + 8n + 1; CLAIM and PAIR begin with BUSY set, CLAIM ends with result 0; READMIT ends the preparation; locate switches the indicator. -/
def Obligations.CartridgeSlotCommandsComplete : Prop :=
  (∀ (s : State) (n : Nat) (c : SeatedCart), n < 32 → (s.cart n).present = false → ∃ t, exec (.presenceChange n (some c)) s = .next t
      ∧ (t.cart n).present = true ∧ Tab.get (fun _ => false) t.pins.cprsnt n = true)
  ∧ (∀ (s : State) (n : Nat), n < 32 → (s.cart n).present = true → ∃ t, exec (.presenceChange n none) s = .next t ∧ (t.cart n).present = false
      ∧ Tab.get (fun _ => false) t.pins.cprsnt n = false)
  ∧ (∀ (s : State) (n : Nat), n < 32 → (s.cart n).present = true → s.intc.quiet = false → ∃ t, exec (.attention n) s = .next t
      ∧ t.getF (CAR.STATUS_ATTN n) = 1 ∧ t.fired (256 + 8 * n + 1) = true)
  ∧ (∀ (s : State) (m : Nat) (n : Nat), n < 32 → s.mayWrite m (0x120004 + 2048 * n) = true → isMgmt m = true →
      s.getF (CAR.CMD_STATUS_BUSY n) = 0 → (s.cart n).present = true → (s.cart n).adopted = false → (s.cart n).adopt ∈ [5, 6, 7, 11, 12] →
      ∃ t, exec (.claim m n) s = .next t ∧ (t.cart n).cmd = some 1 ∧ t.getF (CAR.CMD_STATUS_BUSY n) = 1
      ∧ t.getF (CAR.CMD_STATUS_DONE n) = s.getF (CAR.CMD_STATUS_DONE n))
  ∧ (∀ (s : State) (m : Nat) (n : Nat), n < 32 → s.mayWrite m (0x120004 + 2048 * n) = true → isMgmt m = true →
      s.getF (CAR.CMD_STATUS_BUSY n) = 0 → (s.cart n).present = true → 3 ≤ (s.link n).step → s.linkKey ≠ none →
      ∃ t, exec (.carPair m n) s = .next t ∧ (t.cart n).cmd = some 2 ∧ t.getF (CAR.CMD_STATUS_BUSY n) = 1)
  ∧ (∀ (s : State) (m : Nat) (n : Nat), n < 32 → s.mayWrite m (0x120004 + 2048 * n) = true → isMgmt m = true →
      s.getF (CAR.CMD_STATUS_BUSY n) = 0 → (s.cart n).prepared = true → ∃ t, exec (.readmit m n) s = .next t ∧ (t.cart n).prepared = false
      ∧ t.getF (CAR.STATUS_READY n) = 0 ∧ t.getF (CAR.CMD_STATUS_RESULT n) = 0 ∧ t.getF (CAR.CMD_STATUS_DONE n) = 1)
  ∧ (∀ (s : State) (m : Nat) (n : Nat), n < 32 → s.mayWrite m (0x120004 + 2048 * n) = true → s.getF (CAR.CMD_STATUS_BUSY n) = 0 →
      (s.cart n).present = true → (s.cart n).indicator < 2 → ∃ t, exec (.locateOn m n) s = .next t ∧ (t.cart n).indicator = 1
      ∧ t.getF (CAR.STATUS_INDICATOR n) = 1 ∧ t.getF (CAR.CMD_STATUS_RESULT n) = 0)
  ∧ (∀ (s : State) (m : Nat) (n : Nat), n < 32 → s.mayWrite m (0x120004 + 2048 * n) = true → s.getF (CAR.CMD_STATUS_BUSY n) = 0 →
      (s.cart n).present = true → (s.cart n).indicator < 2 → ∃ t, exec (.locateOff m n) s = .next t ∧ (t.cart n).indicator = 0
      ∧ t.getF (CAR.STATUS_INDICATOR n) = 0 ∧ t.getF (CAR.CMD_STATUS_RESULT n) = 0)
  ∧ (∀ (s : State) (n : Nat), n < 32 → (s.cart n).cmd = some 1 → (s.link n).up = true → s.start.waiting = none →
      ∃ t, exec (.claimComplete n true []) s = .next t ∧ (t.cart n).cmd = none ∧ t.getF (CAR.CMD_STATUS_BUSY n) = 0
      ∧ t.getF (CAR.CMD_STATUS_DONE n) = 1 ∧ t.getF (CAR.CMD_STATUS_RESULT n) = 0 ∧ (t.link n).step = 1)

/-- Spools (R423, R426 to R428, R439): a context word that the owner may write is held for the seam and reads back; a doorbell moves TAIL of a submission spool or HEAD of a completion spool within the ring, or puts the spool in error state 1; the staleness timer of a spool with records waiting raises its signal while it is armed and is held otherwise. -/
def Obligations.SpoolCommandsComplete : Prop :=
  (∀ (s : State) (m : Nat) (w : Nat) (v : Word), s.mayWrite m (0x1d0010 + 4 * w) = true →
      ownerOfMaster m = some (s.ownerCode (Tab.get (fun _ => 0) s.spl.sel m)) → ∃ t, exec (.spoolContextWrite m w v) s = .next t
      ∧ (t.ctxRead m w &&& State.ctxMask w = v &&& State.ctxMask w) ∧ t.getF SPL.SEAM_PEND = 1 ∧ t.spl.ctx = s.spl.ctx)
  ∧ (∀ (s : State) (m : Nat) (w : Nat) (v : Word), s.mayWrite m (0x1d0010 + 4 * w) = true →
      ownerOfMaster m ≠ some (s.ownerCode (Tab.get (fun _ => 0) s.spl.sel m)) → ∃ t, exec (.spoolContextWrite m w v) s = .next t
      ∧ t.spl = s.spl ∧ t.getF SPL.REJECT_CTX = min 65535 (s.getF SPL.REJECT_CTX + 1))
  ∧ (∀ (s : State) (m : Nat) (v : Word) (n : Nat), s.mayWrite m 0x1d0000 = true → v.toNat / 2 ^ 17 % 8192 = n →
      ownerOfMaster m = some (s.ownerCode n) → (s.ctx n).state = 1 → n < 4096 →
      (s.ctx n).used ≤ (v.toNat % 2 ^ 17 + 2 * (s.ctx n).entries - (s.ctx n).head) % (2 * (s.ctx n).entries) →
      (v.toNat % 2 ^ 17 + 2 * (s.ctx n).entries - (s.ctx n).head) % (2 * (s.ctx n).entries) ≤ (s.ctx n).entries →
      ∃ t, exec (.spoolDoorbell m v) s = .next t ∧ t.ctx n = { s.ctx n with tail := v.toNat % 2 ^ 17 % (2 * (s.ctx n).entries) })
  ∧ (∀ (s : State) (m : Nat) (v : Word) (n : Nat), s.mayWrite m 0x1d0000 = true → v.toNat / 2 ^ 17 % 8192 = n →
      ownerOfMaster m = some (s.ownerCode n) → (s.ctx n).state = 1 → 4096 ≤ n →
      (v.toNat % 2 ^ 17 + 2 * (s.ctx n).entries - (s.ctx n).head) % (2 * (s.ctx n).entries) ≤ (s.ctx n).used → (s.ctx n).held = false →
      (s.ctx n).dropped = 0 → ∃ t, exec (.spoolDoorbell m v) s = .next t
      ∧ t.ctx n = { s.ctx n with head := v.toNat % 2 ^ 17 % (2 * (s.ctx n).entries), pkts := s.recordsIn n (v.toNat % 2 ^ 17 % (2 * (s.ctx n).entries)) (s.ctx n).tail, armed := true, timer := true })
  ∧ (∀ (s : State) (m : Nat) (v : Word) (n : Nat), s.mayWrite m 0x1d0000 = true → v.toNat / 2 ^ 17 % 8192 = n →
      ownerOfMaster m = some (s.ownerCode n) → (s.ctx n).state = 1 →
      ((if n < 4096 then (v.toNat % 2 ^ 17 + 2 * (s.ctx n).entries - (s.ctx n).head) % (2 * (s.ctx n).entries) < (s.ctx n).used ∨ (s.ctx n).entries < (v.toNat % 2 ^ 17 + 2 * (s.ctx n).entries - (s.ctx n).head) % (2 * (s.ctx n).entries) else (s.ctx n).used < (v.toNat % 2 ^ 17 + 2 * (s.ctx n).entries - (s.ctx n).head) % (2 * (s.ctx n).entries))) →
      ∃ t, exec (.spoolDoorbell m v) s = .next t ∧ t.ctx n = { s.ctx n with state := 3, err := 1, errAt := v.toNat % 2 ^ 17 }
      ∧ t.getF ⟨0x1D1200 + 4 * (n / 32), n % 32, 1⟩ = 1)
  ∧ (∀ (s : State) (m : Nat) (v : Word) (n : Nat), s.mayWrite m 0x1d0000 = true → v.toNat / 2 ^ 17 % 8192 = n →
      (ownerOfMaster m ≠ some (s.ownerCode n) ∨ (s.ctx n).state ≠ 1) → ∃ t, exec (.spoolDoorbell m v) s = .next t ∧ t.spl = s.spl
      ∧ t.getF SPL.REJECT_DOORBELL = min 65535 (s.getF SPL.REJECT_DOORBELL + 1))
  ∧ (∀ (s : State) (n : Nat), 4096 ≤ n → n < 8192 → (s.ctx n).state = 1 → (s.ctx n).pkts ≠ 0 → (s.ctx n).stale ≠ 0 → (s.ctx n).timer = true →
      (s.ctx n).armed = true → ∃ t, exec (.stalenessTimer n) s = .next t
      ∧ t.ctx n = { s.ctx n with armed := false, held := false, timer := false }
      ∧ t.getF ⟨0x1D1000 + 4 * ((n - 4096) / 32), (n - 4096) % 32, 1⟩ = 1)
  ∧ (∀ (s : State) (n : Nat), 4096 ≤ n → n < 8192 → (s.ctx n).state = 1 → (s.ctx n).pkts ≠ 0 → (s.ctx n).stale ≠ 0 → (s.ctx n).timer = true →
      (s.ctx n).armed = false → ∃ t, exec (.stalenessTimer n) s = .next t ∧ t.ctx n = { s.ctx n with held := true, timer := false }
      ∧ t.out = s.out)

/-- Starting an op (R428 to R431, Tables 13-5, 13-6): where the descriptor at HEAD of a submission spool may start, HEAD advances by one entry and one op is in progress, with the descriptor's fields and the spool's owner; status 4 is set at once where R429 is not met. The form of an op in progress and the row that an unknown OP goes with are the model's. -/
def Obligations.DataMoverOpsStart : Prop :=
  (∀ (s : State) (n : Nat) (d : Desc), readDesc (s.spoolBytes ((s.ctx n).base + (s.ctx n).head % (s.ctx n).entries * 64) 64) = d →
      s.mayStartOp n 1 d true = true → s.spoolBad ((s.ctx n).base + (s.ctx n).head % (s.ctx n).entries * 64) 64 = false →
      ∃ t, exec (.copy n true) s = .next t
      ∧ (t.spl.ops = s.spl.ops ++ [{ id := s.spl.nextOp, spool := n, desc := d, owner := s.ownerCode n, status := if (opUse d.op).any (fun u => descOk d u && s.stateOk n d && (d.op != 0x0E || s.rekeyAligned d)) then none else some 4 }])
      ∧ t.ctx n = { s.ctx n with head := ((s.ctx n).head + 1) % (2 * (s.ctx n).entries) })
  ∧ (∀ (s : State) (n : Nat) (d : Desc), readDesc (s.spoolBytes ((s.ctx n).base + (s.ctx n).head % (s.ctx n).entries * 64) 64) = d →
      s.mayStartOp n 2 d true = true → s.spoolBad ((s.ctx n).base + (s.ctx n).head % (s.ctx n).entries * 64) 64 = false →
      ∃ t, exec (.fill n true) s = .next t
      ∧ (t.spl.ops = s.spl.ops ++ [{ id := s.spl.nextOp, spool := n, desc := d, owner := s.ownerCode n, status := if (opUse d.op).any (fun u => descOk d u && s.stateOk n d && (d.op != 0x0E || s.rekeyAligned d)) then none else some 4 }])
      ∧ t.ctx n = { s.ctx n with head := ((s.ctx n).head + 1) % (2 * (s.ctx n).entries) })
  ∧ (∀ (s : State) (n : Nat) (d : Desc), readDesc (s.spoolBytes ((s.ctx n).base + (s.ctx n).head % (s.ctx n).entries * 64) 64) = d →
      s.mayStartOp n 3 d true = true → s.spoolBad ((s.ctx n).base + (s.ctx n).head % (s.ctx n).entries * 64) 64 = false →
      ∃ t, exec (.secureDiscard n true) s = .next t
      ∧ (t.spl.ops = s.spl.ops ++ [{ id := s.spl.nextOp, spool := n, desc := d, owner := s.ownerCode n, status := if (opUse d.op).any (fun u => descOk d u && s.stateOk n d && (d.op != 0x0E || s.rekeyAligned d)) then none else some 4 }])
      ∧ t.ctx n = { s.ctx n with head := ((s.ctx n).head + 1) % (2 * (s.ctx n).entries) })
  ∧ (∀ (s : State) (n : Nat) (d : Desc), readDesc (s.spoolBytes ((s.ctx n).base + (s.ctx n).head % (s.ctx n).entries * 64) 64) = d →
      s.mayStartOp n 4 d true = true → s.spoolBad ((s.ctx n).base + (s.ctx n).head % (s.ctx n).entries * 64) 64 = false →
      ∃ t, exec (.scrubRange n true) s = .next t
      ∧ (t.spl.ops = s.spl.ops ++ [{ id := s.spl.nextOp, spool := n, desc := d, owner := s.ownerCode n, status := if (opUse d.op).any (fun u => descOk d u && s.stateOk n d && (d.op != 0x0E || s.rekeyAligned d)) then none else some 4 }])
      ∧ t.ctx n = { s.ctx n with head := ((s.ctx n).head + 1) % (2 * (s.ctx n).entries) })
  ∧ (∀ (s : State) (n : Nat) (d : Desc), readDesc (s.spoolBytes ((s.ctx n).base + (s.ctx n).head % (s.ctx n).entries * 64) 64) = d →
      s.mayStartOp n 5 d true = true → s.spoolBad ((s.ctx n).base + (s.ctx n).head % (s.ctx n).entries * 64) 64 = false →
      ∃ t, exec (.persistFence n true) s = .next t
      ∧ (t.spl.ops = s.spl.ops ++ [{ id := s.spl.nextOp, spool := n, desc := d, owner := s.ownerCode n, status := if (opUse d.op).any (fun u => descOk d u && s.stateOk n d && (d.op != 0x0E || s.rekeyAligned d)) then none else some 4 }])
      ∧ t.ctx n = { s.ctx n with head := ((s.ctx n).head + 1) % (2 * (s.ctx n).entries) })
  ∧ (∀ (s : State) (n : Nat) (d : Desc), readDesc (s.spoolBytes ((s.ctx n).base + (s.ctx n).head % (s.ctx n).entries * 64) 64) = d →
      s.mayStartOp n 6 d true = true → s.spoolBad ((s.ctx n).base + (s.ctx n).head % (s.ctx n).entries * 64) 64 = false →
      ∃ t, exec (.prefetch n true) s = .next t
      ∧ (t.spl.ops = s.spl.ops ++ [{ id := s.spl.nextOp, spool := n, desc := d, owner := s.ownerCode n, status := if (opUse d.op).any (fun u => descOk d u && s.stateOk n d && (d.op != 0x0E || s.rekeyAligned d)) then none else some 4 }])
      ∧ t.ctx n = { s.ctx n with head := ((s.ctx n).head + 1) % (2 * (s.ctx n).entries) })
  ∧ (∀ (s : State) (n : Nat) (d : Desc), readDesc (s.spoolBytes ((s.ctx n).base + (s.ctx n).head % (s.ctx n).entries * 64) 64) = d →
      s.mayStartOp n 7 d true = true → s.spoolBad ((s.ctx n).base + (s.ctx n).head % (s.ctx n).entries * 64) 64 = false →
      ∃ t, exec (.pin n true) s = .next t
      ∧ (t.spl.ops = s.spl.ops ++ [{ id := s.spl.nextOp, spool := n, desc := d, owner := s.ownerCode n, status := if (opUse d.op).any (fun u => descOk d u && s.stateOk n d && (d.op != 0x0E || s.rekeyAligned d)) then none else some 4 }])
      ∧ t.ctx n = { s.ctx n with head := ((s.ctx n).head + 1) % (2 * (s.ctx n).entries) })
  ∧ (∀ (s : State) (n : Nat) (d : Desc), readDesc (s.spoolBytes ((s.ctx n).base + (s.ctx n).head % (s.ctx n).entries * 64) 64) = d →
      s.mayStartOp n 8 d true = true → s.spoolBad ((s.ctx n).base + (s.ctx n).head % (s.ctx n).entries * 64) 64 = false →
      ∃ t, exec (.unpin n true) s = .next t
      ∧ (t.spl.ops = s.spl.ops ++ [{ id := s.spl.nextOp, spool := n, desc := d, owner := s.ownerCode n, status := if (opUse d.op).any (fun u => descOk d u && s.stateOk n d && (d.op != 0x0E || s.rekeyAligned d)) then none else some 4 }])
      ∧ t.ctx n = { s.ctx n with head := ((s.ctx n).head + 1) % (2 * (s.ctx n).entries) })
  ∧ (∀ (s : State) (n : Nat) (d : Desc), readDesc (s.spoolBytes ((s.ctx n).base + (s.ctx n).head % (s.ctx n).entries * 64) 64) = d →
      s.mayStartOp n 9 d true = true → s.spoolBad ((s.ctx n).base + (s.ctx n).head % (s.ctx n).entries * 64) 64 = false →
      ∃ t, exec (.lockRange n true) s = .next t
      ∧ (t.spl.ops = s.spl.ops ++ [{ id := s.spl.nextOp, spool := n, desc := d, owner := s.ownerCode n, status := if (opUse d.op).any (fun u => descOk d u && s.stateOk n d && (d.op != 0x0E || s.rekeyAligned d)) then none else some 4 }])
      ∧ t.ctx n = { s.ctx n with head := ((s.ctx n).head + 1) % (2 * (s.ctx n).entries) })
  ∧ (∀ (s : State) (n : Nat) (d : Desc), readDesc (s.spoolBytes ((s.ctx n).base + (s.ctx n).head % (s.ctx n).entries * 64) 64) = d →
      s.mayStartOp n 10 d true = true → s.spoolBad ((s.ctx n).base + (s.ctx n).head % (s.ctx n).entries * 64) 64 = false →
      ∃ t, exec (.clean n true) s = .next t
      ∧ (t.spl.ops = s.spl.ops ++ [{ id := s.spl.nextOp, spool := n, desc := d, owner := s.ownerCode n, status := if (opUse d.op).any (fun u => descOk d u && s.stateOk n d && (d.op != 0x0E || s.rekeyAligned d)) then none else some 4 }])
      ∧ t.ctx n = { s.ctx n with head := ((s.ctx n).head + 1) % (2 * (s.ctx n).entries) })
  ∧ (∀ (s : State) (n : Nat) (d : Desc), readDesc (s.spoolBytes ((s.ctx n).base + (s.ctx n).head % (s.ctx n).entries * 64) 64) = d →
      s.mayStartOp n 11 d true = true → s.spoolBad ((s.ctx n).base + (s.ctx n).head % (s.ctx n).entries * 64) 64 = false →
      ∃ t, exec (.invalidate n true) s = .next t
      ∧ (t.spl.ops = s.spl.ops ++ [{ id := s.spl.nextOp, spool := n, desc := d, owner := s.ownerCode n, status := if (opUse d.op).any (fun u => descOk d u && s.stateOk n d && (d.op != 0x0E || s.rekeyAligned d)) then none else some 4 }])
      ∧ t.ctx n = { s.ctx n with head := ((s.ctx n).head + 1) % (2 * (s.ctx n).entries) })
  ∧ (∀ (s : State) (n : Nat) (d : Desc), readDesc (s.spoolBytes ((s.ctx n).base + (s.ctx n).head % (s.ctx n).entries * 64) 64) = d →
      s.mayStartOp n 12 d true = true → s.spoolBad ((s.ctx n).base + (s.ctx n).head % (s.ctx n).entries * 64) 64 = false →
      ∃ t, exec (.cleanInvalidate n true) s = .next t
      ∧ (t.spl.ops = s.spl.ops ++ [{ id := s.spl.nextOp, spool := n, desc := d, owner := s.ownerCode n, status := if (opUse d.op).any (fun u => descOk d u && s.stateOk n d && (d.op != 0x0E || s.rekeyAligned d)) then none else some 4 }])
      ∧ t.ctx n = { s.ctx n with head := ((s.ctx n).head + 1) % (2 * (s.ctx n).entries) })
  ∧ (∀ (s : State) (n : Nat) (d : Desc), readDesc (s.spoolBytes ((s.ctx n).base + (s.ctx n).head % (s.ctx n).entries * 64) 64) = d →
      s.mayStartOp n 13 d true = true → s.spoolBad ((s.ctx n).base + (s.ctx n).head % (s.ctx n).entries * 64) 64 = false →
      ∃ t, exec (.darn n true) s = .next t
      ∧ (t.spl.ops = s.spl.ops ++ [{ id := s.spl.nextOp, spool := n, desc := d, owner := s.ownerCode n, status := if (opUse d.op).any (fun u => descOk d u && s.stateOk n d && (d.op != 0x0E || s.rekeyAligned d)) then none else some 4 }])
      ∧ t.ctx n = { s.ctx n with head := ((s.ctx n).head + 1) % (2 * (s.ctx n).entries) })
  ∧ (∀ (s : State) (n : Nat) (d : Desc), readDesc (s.spoolBytes ((s.ctx n).base + (s.ctx n).head % (s.ctx n).entries * 64) 64) = d →
      s.mayStartOp n 14 d true = true → s.spoolBad ((s.ctx n).base + (s.ctx n).head % (s.ctx n).entries * 64) 64 = false →
      ∃ t, exec (.rekeyRange n true) s = .next t
      ∧ (t.spl.ops = s.spl.ops ++ [{ id := s.spl.nextOp, spool := n, desc := d, owner := s.ownerCode n, status := if (opUse d.op).any (fun u => descOk d u && s.stateOk n d && (d.op != 0x0E || s.rekeyAligned d)) then none else some 4 }])
      ∧ t.ctx n = { s.ctx n with head := ((s.ctx n).head + 1) % (2 * (s.ctx n).entries) })
  ∧ (∀ (s : State) (n : Nat) (d : Desc), readDesc (s.spoolBytes ((s.ctx n).base + (s.ctx n).head % (s.ctx n).entries * 64) 64) = d →
      s.mayStartOp n 15 d true = true → s.spoolBad ((s.ctx n).base + (s.ctx n).head % (s.ctx n).entries * 64) 64 = false →
      ∃ t, exec (.export_ n true) s = .next t
      ∧ (t.spl.ops = s.spl.ops ++ [{ id := s.spl.nextOp, spool := n, desc := d, owner := s.ownerCode n, status := if (opUse d.op).any (fun u => descOk d u && s.stateOk n d && (d.op != 0x0E || s.rekeyAligned d)) then none else some 4 }])
      ∧ t.ctx n = { s.ctx n with head := ((s.ctx n).head + 1) % (2 * (s.ctx n).entries) })
  ∧ (∀ (s : State) (n : Nat) (d : Desc), readDesc (s.spoolBytes ((s.ctx n).base + (s.ctx n).head % (s.ctx n).entries * 64) 64) = d →
      s.mayStartOp n 16 d true = true → s.spoolBad ((s.ctx n).base + (s.ctx n).head % (s.ctx n).entries * 64) 64 = false →
      ∃ t, exec (.import_ n true) s = .next t
      ∧ (t.spl.ops = s.spl.ops ++ [{ id := s.spl.nextOp, spool := n, desc := d, owner := s.ownerCode n, status := if (opUse d.op).any (fun u => descOk d u && s.stateOk n d && (d.op != 0x0E || s.rekeyAligned d)) then none else some 4 }])
      ∧ t.ctx n = { s.ctx n with head := ((s.ctx n).head + 1) % (2 * (s.ctx n).entries) })
  ∧ (∀ (s : State) (n : Nat) (d : Desc), readDesc (s.spoolBytes ((s.ctx n).base + (s.ctx n).head % (s.ctx n).entries * 64) 64) = d →
      s.mayStartOp n 17 d true = true → s.spoolBad ((s.ctx n).base + (s.ctx n).head % (s.ctx n).entries * 64) 64 = false →
      ∃ t, exec (.verify n true) s = .next t
      ∧ (t.spl.ops = s.spl.ops ++ [{ id := s.spl.nextOp, spool := n, desc := d, owner := s.ownerCode n, status := if (opUse d.op).any (fun u => descOk d u && s.stateOk n d && (d.op != 0x0E || s.rekeyAligned d)) then none else some 4 }])
      ∧ t.ctx n = { s.ctx n with head := ((s.ctx n).head + 1) % (2 * (s.ctx n).entries) })
  ∧ (∀ (s : State) (n : Nat) (d : Desc), readDesc (s.spoolBytes ((s.ctx n).base + (s.ctx n).head % (s.ctx n).entries * 64) 64) = d →
      s.mayStartOp n 18 d true = true → s.spoolBad ((s.ctx n).base + (s.ctx n).head % (s.ctx n).entries * 64) 64 = false →
      ∃ t, exec (.sampleDrain n true) s = .next t
      ∧ (t.spl.ops = s.spl.ops ++ [{ id := s.spl.nextOp, spool := n, desc := d, owner := s.ownerCode n, status := if (opUse d.op).any (fun u => descOk d u && s.stateOk n d && (d.op != 0x0E || s.rekeyAligned d)) then none else some 4 }])
      ∧ t.ctx n = { s.ctx n with head := ((s.ctx n).head + 1) % (2 * (s.ctx n).entries) })
  ∧ (∀ (s : State) (n : Nat), s.mayStartOp n 1 (readDesc (s.spoolBytes ((s.ctx n).base + (s.ctx n).head % (s.ctx n).entries * 64) 64)) false = true →
      ∃ t, exec (.copy n false) s = .next t
      ∧ t.spl.ops.map (fun o => (o.id, o.status)) = s.spl.ops.map (fun o => (o.id, o.status)) ++ [(s.spl.nextOp, some 15)]
      ∧ t.ctx n = { s.ctx n with head := ((s.ctx n).head + 1) % (2 * (s.ctx n).entries) })

/-- A step of an op that reads or writes lines (R284, R309 to R313, R429, R431, R433, Table 13-6): a permitted line of an unshared region that is held in the Lining and has budget room takes the value of COPY or FILL, dirty, and the op has moved one line; an op whose line is denied ends with the status that R431 gives it; the last line ends the op with status 0; a line that the Lining holds counts as no new fetch; VERIFY counts a poisoned line and keeps the first; SCRUB_RANGE takes the outcome of its line; SAMPLE_DRAIN takes the oldest sample of the ring. -/
def Obligations.DataMoverLinesComplete : Prop :=
  (∀ (s : State) (op : Nat) (o : OpRun) (ka : Nat) (kb : Nat) (wrote : Bool), s.opOf op = some o → o.desc.op = 1 → o.status = none →
      o.closing = none → s.flush.stopped = false → s.halted = false → s.lineStop o.owner (State.srcLine o) false = none →
      s.lineStop o.owner (State.dstLine o) true = none → s.sharedOf (State.srcLine o) = false → s.sealBit (State.srcLine o) = false →
      (∀ r ∈ s.reqs, r.line ≠ (State.srcLine o)) → s.findPent (State.srcLine o) = none → s.findWay (State.srcLine o) = some ka →
      s.integ.inj = none → s.cipherFault = false → s.sharedOf (State.dstLine o) = false → s.flush.clean = none →
      (∀ x ∈ s.ham.holding, x.code ≠ 0x0802) → s.sealedLine (State.dstLine o) = false → (∀ r ∈ s.reqs, r.line ≠ (State.dstLine o)) →
      s.writesThrough (State.dstLine o) = false → s.findPent (State.dstLine o) = none → s.findWay (State.dstLine o) = some kb →
      s.throughOpen (State.dstLine o) = false → (s.dirtyIn (State.dstLine o) = true ∨ s.budgetRoom (sliceOf (State.dstLine o)) = true) →
      ∃ t, exec (.dataMoverLine op wrote) s = .next t
      ∧ (t.way kb).val = { s.rebase (s.way ka).val (State.srcLine o) (State.dstLine o) with origin := 1 } ∧ (t.way kb).dirty = true
      ∧ (t.opOf op).map (fun x => (x.next, x.count)) = some (o.next + 1, o.count + 1))
  ∧ (∀ (s : State) (op : Nat) (o : OpRun) (k : Nat) (wrote : Bool), s.opOf op = some o → o.desc.op = 2 → o.status = none → o.closing = none →
      s.flush.stopped = false → s.halted = false → s.lineStop o.owner (State.dstLine o) true = none →
      s.sharedOf (State.dstLine o) = false → s.flush.clean = none → (∀ x ∈ s.ham.holding, x.code ≠ 0x0802) →
      s.sealedLine (State.dstLine o) = false → (∀ r ∈ s.reqs, r.line ≠ (State.dstLine o)) → s.writesThrough (State.dstLine o) = false →
      s.findPent (State.dstLine o) = none → s.findWay (State.dstLine o) = some k → s.throughOpen (State.dstLine o) = false →
      (s.dirtyIn (State.dstLine o) = true ∨ s.budgetRoom (sliceOf (State.dstLine o)) = true) → s.integ.inj = none →
      s.cipherFault = false → ∃ t, exec (.dataMoverLine op wrote) s = .next t ∧ (t.way k).val = s.fillLineOf o.desc (State.dstLine o)
      ∧ (t.way k).dirty = true ∧ (t.opOf op).map (fun x => (x.next, x.count)) = some (o.next + 1, o.count + 1))
  ∧ (∀ (s : State) (op : Nat) (o : OpRun) (k : Nat) (wrote : Bool), s.opOf op = some o → o.desc.op = 2 → o.status = none → o.closing = none →
      s.flush.stopped = false → s.halted = false → s.lineStop o.owner (State.dstLine o) true = none →
      s.sharedOf (State.dstLine o) = false → s.flush.clean = none → (∀ x ∈ s.ham.holding, x.code ≠ 0x0802) →
      s.sealedLine (State.dstLine o) = false → (∀ r ∈ s.reqs, r.line ≠ (State.dstLine o)) → s.writesThrough (State.dstLine o) = false →
      s.findPent (State.dstLine o) = none → s.findWay (State.dstLine o) = some k → s.throughOpen (State.dstLine o) = false →
      (s.dirtyIn (State.dstLine o) = true ∨ s.budgetRoom (sliceOf (State.dstLine o)) = true) → s.integ.inj = none →
      s.cipherFault = false → o.next + 1 = o.desc.len → o.backs = [] → o.swatches = [] → o.bolts = [] → o.todo = [] → o.cands = [] →
      ∃ t, exec (.dataMoverLine op wrote) s = .next t ∧ (t.opOf op).map (·.status) = some (some 0))
  ∧ (∀ (s : State) (op : Nat) (o : OpRun) (u : State) (c : Nat) (wrote : Bool), s.opOf op = some o →
      (o.desc.op = 1 ∨ o.desc.op = 6 ∨ o.desc.op = 17) → o.status = none → o.closing = none → s.flush.stopped = false → s.halted = false →
      s.lineStop o.owner (State.srcLine o) false = some (u, c) → ∃ t, exec (.dataMoverLine op wrote) s = .next t
      ∧ (t.opOf op).map (·.status) = some (some c))
  ∧ (∀ (s : State) (op : Nat) (o : OpRun) (wrote : Bool), s.opOf op = some o →
      (o.status.isSome = true ∨ s.flushHolds o = true ∨ s.halted = true) → ∃ t, exec (.dataMoverLine op wrote) s = .next t ∧ t = s)
  ∧ (∀ (s : State) (op : Nat) (o : OpRun) (k : Nat) (wrote : Bool), s.opOf op = some o → o.desc.op = 6 → o.status = none → o.closing = none →
      s.flush.stopped = false → s.halted = false → s.lineStop o.owner (State.srcLine o) false = none →
      s.sharedOf (State.srcLine o) = false → s.sealBit (State.srcLine o) = false → (∀ r ∈ s.reqs, r.line ≠ (State.srcLine o)) →
      s.findPent (State.srcLine o) = none → s.findWay (State.srcLine o) = some k → s.integ.inj = none → s.cipherFault = false →
      ∃ t, exec (.dataMoverLine op wrote) s = .next t ∧ (t.opOf op).map (fun x => (x.next, x.count)) = some (o.next + 1, o.count + 0))
  ∧ (∀ (s : State) (op : Nat) (o : OpRun) (k : Nat) (wrote : Bool), s.opOf op = some o → o.desc.op = 17 → o.status = none → o.closing = none →
      s.flush.stopped = false → s.halted = false → s.lineStop o.owner (State.srcLine o) false = none →
      s.sharedOf (State.srcLine o) = false → s.sealBit (State.srcLine o) = false → (∀ r ∈ s.reqs, r.line ≠ (State.srcLine o)) →
      s.findPent (State.srcLine o) = none → s.findWay (State.srcLine o) = some k → s.integ.inj = none → s.cipherFault = false →
      (s.way k).val.poison = false → tagOk (s.way k).val (State.srcLine o) false = true → ∃ t, exec (.dataMoverLine op wrote) s = .next t
      ∧ (t.opOf op).map (fun x => (x.next, x.count)) = some (o.next + 1, o.count + 1) ∧ (t.opOf op).map (·.count2) = some o.count2)
  ∧ (∀ (s : State) (op : Nat) (o : OpRun) (k : Nat) (wrote : Bool), s.opOf op = some o → o.desc.op = 17 → o.status = none → o.closing = none →
      s.flush.stopped = false → s.halted = false → s.lineStop o.owner (State.srcLine o) false = none →
      s.sharedOf (State.srcLine o) = false → s.sealBit (State.srcLine o) = false → (∀ r ∈ s.reqs, r.line ≠ (State.srcLine o)) →
      s.findPent (State.srcLine o) = none → s.findWay (State.srcLine o) = some k → s.integ.inj = none → s.cipherFault = false →
      (s.way k).val.poison = true → ∃ t, exec (.dataMoverLine op wrote) s = .next t
      ∧ (t.opOf op).map (fun x => (x.next, x.count)) = some (o.next + 1, o.count + 1)
      ∧ (t.opOf op).map (fun x => (x.count2, x.sum.first)) = some (o.count2 + 1, o.sum.first.orElse fun _ => some (State.srcLine o)))
  ∧ (∀ (s : State) (op : Nat) (o : OpRun) (u : State) (sum : ScrubSum) (b : Bool) (wrote : Bool), s.opOf op = some o → o.desc.op = 4 →
      o.status = none → o.closing = none → s.flush.stopped = false → s.halted = false → o.cands = [] → dA o.desc = false →
      s.lineStop o.owner (State.srcLine o) false = none →
      s.scrubLine (State.srcLine o) (State.ldOfOwner o.owner) { o.sum with mark := false } = some (u, sum, b) →
      ∃ t, exec (.dataMoverLine op wrote) s = .next t ∧ (t.opOf op).map (fun x => (x.next, x.count)) = some (o.next + 1, o.count + 1)
      ∧ (t.opOf op).map (·.sum) = some sum)
  ∧ (∀ (s : State) (op : Nat) (o : OpRun) (wrote : Bool), s.opOf op = some o → o.desc.op = 18 → o.status = none → o.closing = none →
      s.flush.stopped = false → s.halted = false → (o.owner = 16 ∨ s.hasRight (State.spoolSet o.owner) rightDebug = true) →
      s.getF PMC.SAMPLE_STATUS_COUNT ≠ 0 → ∃ t, exec (.dataMoverLine op wrote) s = .next t
      ∧ t.getF PMC.SAMPLE_STATUS_COUNT = s.getF PMC.SAMPLE_STATUS_COUNT - 1
      ∧ (t.opOf op).map (fun x => (x.next, x.count)) = some (o.next + 1, o.count + 1))

/-- Steps of the ops on the caches (R208, R209, R211 to R214, R280, R281, Tables 06-2, 13-6): a fence takes every dirty line of its owner and releases those that staging has room for; a swatch in the Pincushion counts as pinned, and is unlocked and aged by UNPIN; a lock range is kept and its lines are locked; a dirty line that is cleaned is dirty no more; an invalidated line leaves the Lining. -/
def Obligations.DataMoverCacheOpsComplete : Prop :=
  (∀ (s : State) (op : Nat) (o : OpRun) (wrote : Bool), s.opOf op = some o → o.desc.op = 5 → o.status = none → o.closing = none →
      s.flush.stopped = false → s.halted = false → o.sub = 0 → (∀ r ∈ s.reqs, r.stage ≠ .buffered) →
      ∃ t, exec (.dataMoverLine op wrote) s = .next t ∧ (t.opOf op).map (·.count) = some (s.fenceLines o.owner).length
      ∧ (∀ l ∈ s.fenceLines o.owner, t.dirtyIn l = false ∨ (t.opOf op).any (fun x => x.todo.contains l) = true))
  ∧ (∀ (s : State) (op : Nat) (o : OpRun) (n : Nat) (wrote : Bool), s.opOf op = some o → o.desc.op = 7 → o.status = none → o.closing = none →
      s.flush.stopped = false → s.halted = false → s.lineStop o.owner (64 * swatchOf (State.srcLine o)) false = none → s.pcuOff = false →
      s.pentOfSwatch (swatchOf (State.srcLine o)) = some n → (s.pent n).filling = false → dA o.desc = false →
      ∃ t, exec (.dataMoverLine op wrote) s = .next t ∧ (t.opOf op).map (fun x => (x.next, x.count)) = some (o.next + 64, o.count + 1)
      ∧ t.pent n = s.pent n)
  ∧ (∀ (s : State) (op : Nat) (o : OpRun) (n : Nat) (wrote : Bool), s.opOf op = some o → o.desc.op = 7 → o.status = none → o.closing = none →
      s.flush.stopped = false → s.halted = false → s.lineStop o.owner (64 * swatchOf (State.srcLine o)) false = none → s.pcuOff = false →
      s.pentOfSwatch (swatchOf (State.srcLine o)) = none → o.sub = 0 → (∀ i : Nat, i < 64 → s.sharedOf (State.srcLine o + i) = false) →
      (s.cache.pcu.any (fun e => decide (64 ≤ e.1) && e.2.swatch == swatchOf (State.srcLine o)) = false) →
      s.pinVictim (dA o.desc) = some n → ∃ t, exec (.dataMoverLine op wrote) s = .next t
      ∧ t.pent n = { swatch := swatchOf (State.srcLine o), filling := true, lock := (s.pent n).lock, ref := true }
      ∧ ((s.pent n).valid ≠ 0 → t.pent (64 + n) = s.pent n) ∧ (t.opOf op).map (fun x => (x.next, x.sub)) = some (o.next, 64))
  ∧ (∀ (s : State) (op : Nat) (o : OpRun) (n : Nat) (wrote : Bool), s.opOf op = some o → o.desc.op = 7 → o.status = none → o.closing = none →
      s.flush.stopped = false → s.halted = false → s.lineStop o.owner (64 * swatchOf (State.srcLine o)) false = none → s.pcuOff = false →
      s.pentOfSwatch (swatchOf (State.srcLine o)) = some n → (s.pent n).filling = false → dA o.desc = true → s.lockedEntries < 48 →
      ∃ t, exec (.dataMoverLine op wrote) s = .next t ∧ (t.opOf op).map (fun x => (x.next, x.count)) = some (o.next + 64, o.count + 1)
      ∧ t.pent n = { s.pent n with lock := true })
  ∧ (∀ (s : State) (op : Nat) (o : OpRun) (n : Nat) (wrote : Bool), s.opOf op = some o → o.desc.op = 8 → o.status = none → o.closing = none →
      s.flush.stopped = false → s.halted = false → s.lineStop o.owner (64 * swatchOf (State.srcLine o)) false = none →
      s.pentOfSwatch (swatchOf (State.srcLine o)) = some n → (s.pent n).filling = false → ∃ t, exec (.dataMoverLine op wrote) s = .next t
      ∧ (t.opOf op).map (fun x => (x.next, x.count)) = some (o.next + 64, o.count + 1)
      ∧ t.pent n = { s.pent n with lock := false, age := 3, ref := false })
  ∧ (∀ (s : State) (op : Nat) (o : OpRun) (k : Nat) (wrote : Bool), s.opOf op = some o → o.desc.op = 9 → o.status = none → o.closing = none →
      s.flush.stopped = false → s.halted = false → dA o.desc = false → o.next = 0 → s.lineStop o.owner (State.srcLine o) false = none →
      s.cache.lockRanges.length < 256 → s.sharedOf (State.srcLine o) = false → (∀ r ∈ s.reqs, r.line ≠ (State.srcLine o)) →
      s.findWay (State.srcLine o) = some k → s.findPent (State.srcLine o) = none → s.linOff = false →
      ((s.way k).lock = true ∨ s.lockedWays (k / 16) < 4) → ∃ t, exec (.dataMoverLine op wrote) s = .next t ∧ (t.way k).lock = true
      ∧ (o.desc.src / 64, o.desc.len) ∈ t.cache.lockRanges ∧ (t.opOf op).map (fun x => (x.next, x.count)) = some (o.next + 1, o.count + 1))
  ∧ (∀ (s : State) (op : Nat) (o : OpRun) (k : Nat) (wrote : Bool), s.opOf op = some o → o.desc.op = 9 → o.status = none → o.closing = none →
      s.flush.stopped = false → s.halted = false → dA o.desc = true → o.next = 0 → s.lineStop o.owner (State.srcLine o) false = none →
      s.unlockLine (State.srcLine o) = (s.setWay k { s.way k with lock := false }, true) → (s.way k).valid = true →
      (s.way k).lock = true → ∃ t, exec (.dataMoverLine op wrote) s = .next t ∧ (o.desc.src / 64, o.desc.len) ∉ t.cache.lockRanges
      ∧ (t.opOf op).map (fun x => (x.next, x.count)) = some (o.next + 1, o.count + 1))
  ∧ (∀ (s : State) (op : Nat) (o : OpRun) (wrote : Bool), s.opOf op = some o → o.desc.op = 10 → o.status = none → o.closing = none →
      s.flush.stopped = false → s.halted = false → s.lineStop o.owner (State.srcLine o) false = none →
      (∀ r ∈ s.reqs, r.line ≠ (State.srcLine o)) → s.dirtyIn (State.srcLine o) = true → s.stagingRoom (State.srcLine o) = true →
      ∃ t, exec (.dataMoverLine op wrote) s = .next t ∧ t.dirtyIn (State.srcLine o) = false
      ∧ (t.opOf op).map (fun x => (x.next, x.count)) = some (o.next + 1, o.count + 1))
  ∧ (∀ (s : State) (op : Nat) (o : OpRun) (k : Nat) (wrote : Bool), s.opOf op = some o → o.desc.op = 11 → o.status = none → o.closing = none →
      s.flush.stopped = false → s.halted = false → s.lineStop o.owner (State.srcLine o) true = none →
      (∀ r ∈ s.reqs, r.line ≠ (State.srcLine o)) → s.findPent (State.srcLine o) = none → s.findWay (State.srcLine o) = some k →
      ∃ t, exec (.dataMoverLine op wrote) s = .next t ∧ t.findWay (State.srcLine o) ≠ some k
      ∧ (t.opOf op).map (fun x => (x.next, x.count)) = some (o.next + 1, o.count + 1))
  ∧ (∀ (s : State) (op : Nat) (o : OpRun) (k : Nat) (wrote : Bool), s.opOf op = some o → o.desc.op = 12 → o.status = none → o.closing = none →
      s.flush.stopped = false → s.halted = false → s.lineStop o.owner (State.srcLine o) true = none →
      (∀ r ∈ s.reqs, r.line ≠ (State.srcLine o)) → s.findPent (State.srcLine o) = none → s.findWay (State.srcLine o) = some k →
      s.dirtyIn (State.srcLine o) = false → s.backsOf (State.srcLine o) = [] → ∃ t, exec (.dataMoverLine op wrote) s = .next t
      ∧ t.findWay (State.srcLine o) ≠ some k ∧ (t.opOf op).map (fun x => (x.next, x.count)) = some (o.next + 1, o.count + 1))

/-- Steps of the ops on media and keys (R123, R184, R330, R339, R340, R434 to R436, Table 13-7): a discard unmaps its whole permitted swatches; a swatch with live patches is queued at priority 4, one without needs nothing; a REKEY_RANGE binds its regions to the new key before it darns; a job opens with its key slot's epoch, its header is the stream's first line, and each data line advances it. -/
def Obligations.DataMoverMediaOpsComplete : Prop :=
  (∀ (s : State) (op : Nat) (o : OpRun) (u : State) (n : Nat) (wrote : Bool), s.opOf op = some o → o.desc.op = 3 → o.status = none →
      o.closing = none → s.flush.stopped = false → s.halted = false → o.next = 0 → s.swatchSpan o true = (u, n, 0) → n ≠ 0 →
      ∃ t, exec (.dataMoverLine op wrote) s = .next t ∧ (t.opOf op).map (·.next) = some (64 * n))
  ∧ (∀ (s : State) (op : Nat) (o : OpRun) (wrote : Bool), s.opOf op = some o → o.desc.op = 13 → o.status = none → o.closing = none →
      s.flush.stopped = false → s.halted = false → s.lineStop o.owner (64 * (swatchOf (State.srcLine o))) true = none →
      s.livePatches (swatchOf (State.srcLine o)) ≠ 0 → s.darnRoom (swatchOf (State.srcLine o)) = true →
      ∃ t, exec (.dataMoverLine op wrote) s = .next t
      ∧ (t.xlt.darnq.any (fun p => p.swatch == (swatchOf (State.srcLine o)) && p.prios.contains 4 && p.ops.contains o.id) = true)
      ∧ (t.opOf op).map (fun x => (x.next, x.count)) = some (o.next + 64, o.count + 0))
  ∧ (∀ (s : State) (op : Nat) (o : OpRun) (wrote : Bool), s.opOf op = some o → o.desc.op = 13 → o.status = none → o.closing = none →
      s.flush.stopped = false → s.halted = false → s.lineStop o.owner (64 * (swatchOf (State.srcLine o))) true = none →
      s.livePatches (swatchOf (State.srcLine o)) = 0 → ∃ t, exec (.dataMoverLine op wrote) s = .next t
      ∧ (t.opOf op).map (fun x => (x.next, x.count)) = some (o.next + 64, o.count + 0) ∧ t.xlt = s.xlt)
  ∧ (∀ (s : State) (op : Nat) (o : OpRun) (a : Nat), s.opOf op = some o → o.desc.op = 14 → o.status = none → o.closing = none →
      s.flush.stopped = false → s.halted = false → o.sub = 0 → o.next = 0 → s.rekeyKey o = some a →
      ∃ t, exec (.dataMoverLine op true) s = .next t ∧ (∀ i ∈ s.rekeyRegions o.desc, t.bindingOf i = o.desc.key)
      ∧ (t.opOf op).map (fun x => (x.sub, x.oldKey)) = some (1, a))
  ∧ (∀ (s : State) (op : Nat) (o : OpRun) (wrote : Bool), s.opOf op = some o → o.desc.op = 15 → o.status = none → o.closing = none →
      s.flush.stopped = false → s.halted = false → s.cipherFault = false → o.job.bind s.jobOf = none → s.transferOk o = true →
      dB o.desc = false → s.cip.jobs.length < 256 → (o.desc.mode = 1 → Tab.get (fun _ => 0) s.cip.gcmCount o.desc.key < 2 ^ 31) →
      (∀ j ∈ s.cip.jobs, j.num ≠ s.cip.nextJob) → ∃ t, exec (.dataMoverLine op wrote) s = .next t
      ∧ (t.opOf op).map (·.job) = some (some s.cip.nextJob)
      ∧ (t.jobOf s.cip.nextJob).map (fun j => (j.isExport, j.slot, j.epoch, j.owner, j.lines)) = some (true, o.desc.key, (s.keySlot o.desc.key).epoch, o.owner, 0))
  ∧ (∀ (s : State) (op : Nat) (o : OpRun) (wrote : Bool), s.opOf op = some o → o.desc.op = 16 → o.status = none → o.closing = none →
      s.flush.stopped = false → s.halted = false → s.cipherFault = false → o.job.bind s.jobOf = none → s.transferOk o = true →
      dB o.desc = false → s.cip.jobs.length < 256 → (o.desc.mode = 1 → Tab.get (fun _ => 0) s.cip.gcmCount o.desc.key < 2 ^ 31) →
      (∀ j ∈ s.cip.jobs, j.num ≠ s.cip.nextJob) → ∃ t, exec (.dataMoverLine op wrote) s = .next t
      ∧ (t.opOf op).map (·.job) = some (some s.cip.nextJob)
      ∧ (t.jobOf s.cip.nextJob).map (fun j => (j.isExport, j.slot, j.epoch, j.owner, j.lines)) = some (false, o.desc.key, (s.keySlot o.desc.key).epoch, o.owner, 0))
  ∧ (∀ (s : State) (op : Nat) (o : OpRun) (j : Job) (k : Nat) (wrote : Bool), s.opOf op = some o → o.desc.op = 15 → o.status = none →
      o.closing = none → s.flush.stopped = false → s.halted = false → s.cipherFault = false → o.job.bind s.jobOf = some j → o.sub = 0 →
      s.lineStop o.owner (o.desc.dst / 64) true = none → s.sharedOf (o.desc.dst / 64) = false → s.flush.clean = none →
      (∀ x ∈ s.ham.holding, x.code ≠ 0x0802) → s.sealedLine (o.desc.dst / 64) = false → (∀ r ∈ s.reqs, r.line ≠ (o.desc.dst / 64)) →
      s.writesThrough (o.desc.dst / 64) = false → s.findPent (o.desc.dst / 64) = none → s.findWay (o.desc.dst / 64) = some k →
      s.throughOpen (o.desc.dst / 64) = false → (s.dirtyIn (o.desc.dst / 64) = true ∨ s.budgetRoom (sliceOf (o.desc.dst / 64)) = true) →
      s.integ.inj = none → ∃ t, exec (.dataMoverLine op wrote) s = .next t
      ∧ (t.way k).val = mkLine (State.headerData j) (o.desc.dst / 64) false false ∧ (t.opOf op).map (·.sub) = some 1)
  ∧ (∀ (s : State) (op : Nat) (o : OpRun) (j : Job) (k : Nat) (wrote : Bool), s.opOf op = some o → o.desc.op = 16 → o.status = none →
      o.closing = none → s.flush.stopped = false → s.halted = false → s.cipherFault = false → o.job.bind s.jobOf = some j → o.sub = 0 →
      s.lineStop o.owner (o.desc.src / 64) false = none → s.sharedOf (o.desc.src / 64) = false → s.sealBit (o.desc.src / 64) = false →
      (∀ r ∈ s.reqs, r.line ≠ (o.desc.src / 64)) → s.findPent (o.desc.src / 64) = none → s.findWay (o.desc.src / 64) = some k →
      s.integ.inj = none → ∃ t, exec (.dataMoverLine op wrote) s = .next t ∧ (t.opOf op).map (·.sub) = some 1
      ∧ (t.jobOf j.num).map (·.stream) = some ((s.way k).val.data.toNat / 2 ^ 64 % 2 ^ 32))
  ∧ (∀ (s : State) (op : Nat) (o : OpRun) (j : Job) (ka : Nat) (kb : Nat) (a : Nat) (b : Nat) (wrote : Bool), s.opOf op = some o →
      o.desc.op = 15 → o.status = none → o.closing = none → s.flush.stopped = false → s.halted = false → s.cipherFault = false →
      o.job.bind s.jobOf = some j → o.sub = 1 → a = o.desc.src / 64 + o.next → b = o.desc.dst / 64 + o.next + headLines o.desc →
      s.lineStop o.owner b true = none → s.lineStop o.owner a false = none → s.sharedOf a = false → s.sealBit a = false →
      (∀ r ∈ s.reqs, r.line ≠ a) → s.findPent a = none → s.findWay a = some ka → s.integ.inj = none → (s.way ka).val.poison = false →
      tagOk (s.way ka).val a false = true → s.sharedOf b = false → s.flush.clean = none → (∀ x ∈ s.ham.holding, x.code ≠ 0x0802) →
      s.sealedLine b = false → (∀ r ∈ s.reqs, r.line ≠ b) → s.writesThrough b = false → s.findPent b = none → s.findWay b = some kb →
      s.throughOpen b = false → (s.dirtyIn b = true ∨ s.budgetRoom (sliceOf b) = true) → ∃ t, exec (.dataMoverLine op wrote) s = .next t
      ∧ (t.way kb).val = mkLine (j.crypt (s.keySlot j.slot).key true (s.way ka).val.data) b false false
      ∧ (t.jobOf j.num).map (·.lines) = some (j.lines + 1) ∧ (t.opOf op).map (fun x => (x.next, x.count)) = some (o.next + 1, o.count + 1))
  ∧ (∀ (s : State) (op : Nat) (o : OpRun) (j : Job) (ka : Nat) (kb : Nat) (a : Nat) (b : Nat) (wrote : Bool), s.opOf op = some o →
      o.desc.op = 16 → o.status = none → o.closing = none → s.flush.stopped = false → s.halted = false → s.cipherFault = false →
      o.job.bind s.jobOf = some j → o.sub = 1 → a = o.desc.src / 64 + o.next + headLines o.desc → b = o.desc.dst / 64 + o.next →
      s.lineStop o.owner b true = none → s.lineStop o.owner a false = none → s.sharedOf a = false → s.sealBit a = false →
      (∀ r ∈ s.reqs, r.line ≠ a) → s.findPent a = none → s.findWay a = some ka → s.integ.inj = none → (s.way ka).val.poison = false →
      s.sharedOf b = false → s.flush.clean = none → (∀ x ∈ s.ham.holding, x.code ≠ 0x0802) → s.sealedLine b = false →
      (∀ r ∈ s.reqs, r.line ≠ b) → s.writesThrough b = false → s.findPent b = none → s.findWay b = some kb → s.throughOpen b = false →
      (s.dirtyIn b = true ∨ s.budgetRoom (sliceOf b) = true) → ∃ t, exec (.dataMoverLine op wrote) s = .next t
      ∧ (t.way kb).val.data = j.crypt (s.keySlot j.slot).key false (s.way ka).val.data
      ∧ (t.jobOf j.num).map (·.lines) = some (j.lines + 1) ∧ (t.opOf op).map (fun x => (x.next, x.count)) = some (o.next + 1, o.count + 1))

/-- OP_COMPLETION_POST (R432, R436 to R438): an op that has ended is gone; its record lies at TAIL of the paired completion spool, whose TAIL and PKTS advance, or is counted as dropped where the ring has no room; the job of an op that was not suspended is freed. -/
def Obligations.CompletionsPost : Prop :=
  (∀ (s : State) (op : Nat) (o : OpRun) (p : Nat), s.opOf op = some o → o.status.isSome = true → s.flush.stopped = false →
      o.spool ≠ State.mailSpool → (s.ctx o.spool).pair = p → (s.ctx p).state = 1 →
      (s.ctx p).used + (s.opRecord o).length ≤ (s.ctx p).entries → ∃ t, exec (.opCompletionPost op) s = .next t ∧ t.opOf op = none
      ∧ (t.ctx p).tail = ((s.ctx p).tail + (s.opRecord o).length) % (2 * (s.ctx p).entries) ∧ (t.ctx p).pkts = (s.ctx p).pkts + 1
      ∧ (t.ctx p).dropped = (s.ctx p).dropped)
  ∧ (∀ (s : State) (op : Nat) (o : OpRun) (p : Nat), s.opOf op = some o → o.status.isSome = true → s.flush.stopped = false →
      o.spool ≠ State.mailSpool → (s.ctx o.spool).pair = p → (s.ctx p).state ≠ 1 → ∃ t, exec (.opCompletionPost op) s = .next t
      ∧ t.opOf op = none ∧ (t.ctx p).tail = (s.ctx p).tail ∧ (t.ctx p).dropped = min (2 ^ 32 - 1) ((s.ctx p).dropped + 1))
  ∧ (∀ (s : State) (op : Nat) (o : OpRun), s.opOf op = some o → o.status.isSome = true → s.flush.stopped = false → o.spool = State.mailSpool →
      ∃ t, exec (.opCompletionPost op) s = .next t ∧ t.opOf op = none ∧ (t.ldOf o.owner).mbOp = none
      ∧ .mailbox o.owner o.desc.op 0xF [] ∈ t.out.drop s.out.length)

/-- The ring (R453, R457, R458, R462, Tables 15-2, 15-3): a member in the ring sends its own record; a record of another member whose CRC and group hold is forwarded with HOPS and CORR raised and becomes that member's latest; a record that R457 discards is counted; a member without a used record becomes silent and the group fenced. -/
def Obligations.RollCallCommandsComplete : Prop :=
  (∀ (s : State) (g : GroupPlan), s.plan.group = some g → s.inRing = true → ∃ t, exec (.rollCallSend) s = .next t
      ∧ t.out = s.out ++ [.rollCall (0x1FB :: (rollWire (s.ownRoll g)).map BitVec.toNat ++ [0x1FD])] ∧ t.grp = s.grp)
  ∧ (∀ (s : State) (g : GroupPlan) (r : RollCall) (k : Nat), s.plan.group = some g → s.inRing = true → r.crcOk = true → r.groupId = g.groupId →
      r.index % 8 ≠ g.index → r.hops + 1 < g.size → ∃ t, exec (.rollCallReceive r k) s = .next t
      ∧ (t.out.drop s.out.length).head? = some (.rollCall (0x1FB :: (rollWire { r with index := r.index % 8, hops := r.hops + 1, corr := r.corr + k }).map BitVec.toNat ++ [0x1FD]))
      ∧ t.member (r.index % 8) = { last := some { r with index := r.index % 8 }, usedAt := s.clk.now })
  ∧ (∀ (s : State) (g : GroupPlan) (r : RollCall) (k : Nat), s.plan.group = some g → s.inRing = true →
      (r.crcOk = false ∨ r.groupId ≠ g.groupId ∨ (r.index % 8 ≠ g.index ∧ g.size ≤ r.hops + 1)) →
      ∃ t, exec (.rollCallReceive r k) s = .next t ∧ t.grp = s.grp ∧ t.rate.badRoll = s.rate.badRoll + 1
      ∧ t.getF GRP.COUNTS_BAD = min 65535 (s.getF GRP.COUNTS_BAD + 1))
  ∧ (∀ (s : State) (g : GroupPlan) (r : RollCall) (k : Nat), s.plan.group = some g → s.inRing = true → r.crcOk = true → r.groupId = g.groupId →
      r.index % 8 = g.index → ∃ t, exec (.rollCallReceive r k) s = .next t ∧ t = s)
  ∧ (∀ (s : State) (i : Nat), s.clk.awake = true → i ∈ s.others → (s.member i).silent = false → ∃ t, exec (.memberSilent i) s = .next t
      ∧ (t.member i).silent = true ∧ (t.member i).last = (s.member i).last ∧ t.grp.fenced = true)

/-- The Keepsake store (R500, R503 to R507; Table 17-4): a permitted Tack write stores its word; GO takes the page up for programming and stretches SMBus; a verified program leaves the buffer in the page with result 0, a failed one result 5 and source 867; a load names its page and its end shows it; an hour outside standby counts in lifetime counter 0. -/
def Obligations.TackAndHemComplete : Prop :=
  (∀ (s : State) (m : Nat) (w : Nat) (v : Word), 0x1400 ≤ w → w < 0x2000 → s.mayWrite m (0x34000 + 4 * w) = true → s.kpsOk = true →
      ∃ t, exec (.tackWrite m w v) s = .next t ∧ t.tackWord w = v)
  ∧ (∀ (s : State) (m : Nat) (page : Nat), isMgmt m = true → s.hasRight m rightHemWrite = true → s.mayWrite m 0x30008 = true →
      s.keep.prog = none → page < 896 → hemClosed page = false → s.kpsOk = true → ∃ t, exec (.hemProgram m page) s = .next t
      ∧ t.keep.prog.map (·.page) = some page ∧ t.pins.sclHeld = true ∧ t.getF KPS.HEM_STATUS_BUSY = 1)
  ∧ (∀ (s : State) (j : HemJob), s.keep.prog = some j → ∃ t, exec (.hemProgramDone true) s = .next t ∧ t.keep.prog = none
      ∧ t.pins.sclHeld = false ∧ t.getF KPS.HEM_STATUS_RESULT = 0 ∧ ((j.owed.isSome = true →
      t.out.getLast? = j.owed.map fun e => Msg.mctp e.1 e.2 [])) ∧ (∀ i : Nat, i < 64 →
      t.hemWord j.page i = BitVec.ofNat 32 (ofLe ((j.bytes.drop (4 * i)).take 4))))
  ∧ (∀ (s : State) (j : HemJob), s.keep.prog = some j → ∃ t, exec (.hemProgramDone false) s = .next t ∧ t.keep.prog = none
      ∧ t.getF KPS.HEM_STATUS_RESULT = 5 ∧ t.fired 867 = true)
  ∧ (∀ (s : State) (m : Nat) (page : Nat), s.mayWrite m 0x30010 = true → ∃ t, exec (.hemPageLoad m page) s = .next t
      ∧ t.keep.load = some (page % 1024) ∧ t.getF KPS.HEM_STATUS_LOADING = 1)
  ∧ (∀ (s : State) (page : Nat), s.keep.load = some page → s.keep.prog = none → page < 896 → ∃ t, exec (.hemLoadDone) s = .next t
      ∧ t.keep.load = none ∧ t.getF KPS.HEM_STATUS_LOADED = page ∧ (∀ i : Nat, i < 64 → t.reg (0x30200 + 4 * i) = s.hemWord page i))
  ∧ (∀ (s : State), s.getF TOP.STATE_STATE ≠ 6 → s.kpsOk = true → ∃ t, exec (.powerOnHour) s = .next t
      ∧ t.lifetimeStored 0 = (s.lifetimeStored 0 + 1) % 2 ^ 64)

/-- The Hamper (R485, R514 to R517): a read with GO completes; the open page of copy B is programmed and empty; a permitted clear makes its own record's SEQ the horizon with source 870; once Tack takes writes nothing is held. -/
def Obligations.HamperCommandsComplete : Prop :=
  (∀ (s : State) (m : Nat) (v : Word), s.mayWrite m 0x40020 = true → bit v.toNat 31 = true → ∃ t, exec (.hamperRead m v) s = .next t
      ∧ t.getF HMP.RD_STATUS_DONE = 1)
  ∧ (∀ (s : State) (m : Nat) (v : Word) (r : HamRec) (f : Nat) (a : Bool), s.mayWrite m 0x40020 = true → bit v.toNat 31 = true →
      bits v.toNat 30 29 ≠ 3 → (s.hamView (bits v.toNat 30 29))[bits v.toNat 13 0]? = some (r, f, a) →
      ∃ t, exec (.hamperRead m v) s = .next t ∧ t.getF HMP.RD_STATUS_FOUND = 1 ∧ t.getF HMP.RD_STATUS_FROM = f
      ∧ t.getF HMP.RD_STATUS_AMBIG = (if a then 1 else 0))
  ∧ (∀ (s : State), s.ham.bOpen ≠ [] → s.getF TOP.HALT_HALTED = 0 → (bitsOf 4 s.plan.groups).any (fun g => !(s.hamSlots g).isEmpty) = true →
      ∃ t, exec (.hamperPageTimer) s = .next t ∧ t.ham.bOpen = [] ∧ t.ham.nextSeq = s.ham.nextSeq
      ∧ (∀ r ∈ s.ham.bOpen, t.ham.bPages.any (fun p => p.recs.contains r) = true))
  ∧ (∀ (s : State) (sid : Nat) (x : Session), s.cip.sessions.find? (·.id == sid) = some x → s.hasRight (33 + x.cls) rightHamperClear = true →
      s.ham.clear = none → s.kpsOk = true → ∃ t, exec (.hamperClear sid) s = .next t ∧ t.ham.clear = none ∧ t.ham.horizon = s.ham.nextSeq
      ∧ t.fired 870 = true)
  ∧ (∀ (s : State), s.kpsOk = true → ∃ t, exec (.holdingBufferWrite) s = .next t ∧ t.ham.holding = [] ∧ t.flog.holding = [] ∧ t.keep.acc = []
      ∧ t.getF PWS.FLOG_STATUS_HELD = 0 ∧ t.getF PWS.FAULT_LAST_HELD = 0)

/-- The performance monitor (R535, R536, R539): READ or the timer starts a pass, or one more after the pass that runs; ZERO waits for the seam; a pass that ends swaps the readout buffers; POP removes at most what the ring holds. -/
def Obligations.PerfCommandsComplete : Prop :=
  (∀ (s : State) (m : Nat), s.mayWrite m 0x60004 = true → s.pmc.busy = false → ∃ t, exec (.pmcRead m) s = .next t ∧ t.pmc.busy = true
      ∧ t.getF PMC.READ_STATUS_BUSY = 1)
  ∧ (∀ (s : State) (m : Nat), s.mayWrite m 0x60004 = true → s.pmc.busy = true → ∃ t, exec (.pmcRead m) s = .next t ∧ t.pmc.again = true)
  ∧ (∀ (s : State) (m : Nat), s.mayWrite m 0x60004 = true → ∃ t, exec (.pmcZero m) s = .next t ∧ t.pmc.zero = true ∧ t.getF PMC.CMD_ZERO = 1)
  ∧ (∀ (s : State), s.getF PMC.CTRL_PERIOD ≠ 0 → s.pmc.busy = false → ∃ t, exec (.readerPassTimer) s = .next t ∧ t.pmc.busy = true
      ∧ t.pmc.readAt = s.clk.time)
  ∧ (∀ (s : State), s.pmc.busy = true → s.pmc.again = false → ∃ t, exec (.readerPassDone) s = .next t ∧ t.pmc.busy = false
      ∧ t.getF PMC.READ_STATUS_BUSY = 0 ∧ t.getF PMC.READ_STATUS_BUF = 1 - s.getF PMC.READ_STATUS_BUF)
  ∧ (∀ (s : State) (m : Nat) (n : Nat), s.mayWrite m 0x6002c = true → ∃ t, exec (.samplePop m n) s = .next t
      ∧ t.getF PMC.SAMPLE_STATUS_COUNT = s.getF PMC.SAMPLE_STATUS_COUNT - min (n % 8192) (s.getF PMC.SAMPLE_STATUS_COUNT))

/-- Interrupts and the SMBus target (R518, R522 to R524, R530, R548, R559): a doorbell fires its source; an acknowledge of what a target presents ends the presentation, any other is counted as a miss; the alert gap ends; the alert response carries the target's own address; the first edge of a quiet episode fires source 54; a rate second clears its limits. -/
def Obligations.InterruptCommandsComplete : Prop :=
  (∀ (s : State) (m : Nat) (v : Word), s.mayWrite m 0x50000 = true → reservedSource (v.toNat % 1024) = false → (v.toNat % 1024 < 32 →
      s.hasRight m rightDebug = true) → ∃ t, exec (.intDoorbellWrite m v) s = .next t ∧ t.fired (v.toNat % 1024) = true)
  ∧ (∀ (s : State) (m : Nat) (k : Nat) (v : Word), k < 17 → s.mayTarget m k = true → s.mayWrite m (0x51008 + 0x100 * k) = true →
      s.curAt k = some (v.toNat % 1024) → s.intc.unseen = [] → ∃ t, exec (.intAck m k v) s = .next t ∧ t.curAt k = none
      ∧ t.getF (INT.CURRENT_VALID k) = 0)
  ∧ (∀ (s : State) (m : Nat) (k : Nat) (v : Word), k < 17 → s.mayTarget m k = true → s.mayWrite m (0x51008 + 0x100 * k) = true →
      s.curAt k ≠ some (v.toNat % 1024) → ∃ t, exec (.intAck m k v) s = .next t ∧ t.curAt k = s.curAt k
      ∧ t.getF (INT.TGT_STATUS_ACK_MISS k) = min (2 ^ (INT.TGT_STATUS_ACK_MISS k).w - 1) (s.getF (INT.TGT_STATUS_ACK_MISS k) + 1))
  ∧ (∀ (s : State), s.pins.alertGap = true → ∃ t, exec (.alertReassert) s = .next t ∧ t.pins.alertGap = false)
  ∧ (∀ (s : State), s.pins.smbAlert = true → ∃ t, exec (.alertResponse) s = .next t ∧ t.out = s.out ++ [.smbus [s.smbAddr]])
  ∧ (∀ (s : State) (a : Nat), s.clk.awake = true → ∃ t, exec (.smbusArp a) s = .next t ∧ t.smbAddr = a % 128)
  ∧ (∀ (s : State) (i : Nat), s.intc.quiet = true → s.clk.awake = true → i ∉ s.intc.episode → (i = 1 ∨ (latchSource i).isSome = true) →
      s.intc.fired54 = false → ∃ t, exec (.quietEdge i) s = .next t ∧ i ∈ t.intc.episode ∧ t.fired 54 = true)
  ∧ (∀ (s : State) (i : Nat), i < 96 → s.intc.quiet = true → s.clk.awake = true → i ∉ s.intc.episode →
      (i = 1 ∨ (latchSource i).isSome = true) → s.intc.fired54 = true → ∃ t, exec (.quietEdge i) s = .next t ∧ t.getF (latchFld i) = 1)
  ∧ (∀ (s : State), ∃ t, exec (.rateSecond) s = .next t ∧ t.clk.second = s.clk.second + 1 ∧ t.rate.denials = [] ∧ t.rate.viol = []
      ∧ t.rate.mediaEvents = [] ∧ t.rate.tagRecords = 0)
  ∧ (∀ (s : State), (s.clk.second + 1) % 3600 = 0 → ∃ t, exec (.rateSecond) s = .next t ∧ t.rate.hbmCorr = [] ∧ t.rate.hour131 = [])

/-- With command c at the front of its queue, a step is exec of c on the state with the queue's rest. -/
def Obligations.StepRunsTheFrontCommand : Prop :=
  ∀ (c : Instr) (q : List Instr) (s : State), step { s with pending := c :: q } = exec c { s with pending := q }

/-- The model's choice (log 18): on an empty queue a step lets 10 ns pass, the supervisor island's cycle (R60); device time runs while the supervisor is awake; where a microsecond ends while the core runs and the counters are enabled, the counted events that measure time occur (a counter may wrap and tell so), and nothing else changes. -/
def Obligations.EmptyQueueAdvancesTime : Prop :=
  ∀ s : State, s.pending = [] → ∃ t, step s = .next t ∧ t.clk.now = s.clk.now + 10
    ∧ TouchesOnly [.regs_, .pins_, .clk_, .intc_, .msixPend_, .pmc_, .out_] s t
    ∧ (s.start.released = false ∨ s.clk.now / 1000 = (s.clk.now + 10) / 1000 ∨ s.flag PMC.CTRL_ENABLE = false → TouchesOnly [.clk_] s t)
    ∧ (s.clk.awake = false → t.clk.time = s.clk.time) ∧ (s.clk.awake = true → s.clk.slew = 0 → t.clk.time = (s.clk.time + 10) % 2 ^ 64)

/-- The spec gives every command an effect, the effect of an error included: exec answers a next state for every command in every state. -/
def Obligations.EveryCommandAnswersNext : Prop :=
  ∀ (c : Instr) (s : State), ∃ t, exec c s = .next t

/-- Frames of the commands of start, Pattern, registers, power, thermal, host ports, mailboxes, the fabric manager, Keepsake, counters and interrupts: the parts of the state that each command may change; every other part is as before, the queue of waiting commands in every case, and the register window and the addressed stores wherever they are not named. -/
def Obligations.FrameOfHostAndControlCommands : Prop :=
  (∀ readings s t, exec (.paceSample readings) s = .next t → TouchesOnly [.regs_, .pace_] s t)
  ∧ (∀ n s t, exec (.monitorExcluded n) s = .next t → TouchesOnly [.regs_, .pins_, .intc_, .msixPend_, .out_] s t)
  ∧ (∀ s t, exec .governorDecision s = .next t → TouchesOnly [.regs_, .pace_, .out_] s t)
  ∧ (∀ s t, exec .paceLowDeclared s = .next t → TouchesOnly [.regs_, .pins_, .intc_, .msixPend_, .lds_, .health_, .out_] s t)
  ∧ (∀ s t, exec .paceCollapse s = .next t → TouchesOnly [.regs_, .pins_, .intc_, .msixPend_, .out_] s t)
  ∧ (∀ s t, exec .collapseEnd s = .next t → TouchesOnly [.regs_] s t)
  ∧ (∀ s t, exec .paceLowEnd s = .next t → TouchesOnly [.regs_, .pins_, .intc_, .msixPend_, .ports_, .lds_, .reqs_, .health_, .out_] s t)
  ∧ (∀ ok s t, exec (.avsAcknowledge ok) s = .next t → TouchesOnly [.regs_, .pins_, .intc_, .msixPend_, .pace_, .out_] s t)
  ∧ (∀ s t, exec .avsAckTimeout s = .next t → TouchesOnly [.regs_, .pins_, .intc_, .msixPend_, .pace_, .out_] s t)
  ∧ (∀ s t, exec .avsHoldRetry s = .next t → TouchesOnly [.regs_, .pace_, .out_] s t)
  ∧ (∀ bridge s t, exec (.islandBridgeRoom bridge) s = .next t → TouchesOnly [.regs_, .shadow_, .held_, .sliceDone_, .sliceReg_, .pins_, .clk_, .rate_, .intc_, .msixMask_, .msixPend_, .pace_, .bridgeWait_, .seq_, .therm_, .keep_, .ham_, .pat_, .start_, .ports_, .lds_, .reqs_, .nextReq_, .cache_, .xlt_, .med_, .coh_, .flush_, .integ_, .dbg_, .cip_, .links_, .carts_, .spl_, .grp_, .pmc_, .health_, .out_, .free_] s t)
  ∧ (∀ s t, exec .aux33Rise s = .next t → TouchesOnly [.pins_, .clk_] s t)
  ∧ (∀ shadowBad s t, exec (.supervisorWake shadowBad) s = .next t → TouchesOnly [.regs_, .pins_, .clk_, .intc_, .msixPend_, .pace_, .seq_, .therm_, .keep_, .ham_, .pat_, .start_, .lds_, .out_] s t)
  ∧ (∀ flashOk readA readB s t, exec (.patternLoad flashOk readA readB) s = .next t → TouchesOnly [.regs_, .shadow_, .held_, .sliceDone_, .sliceReg_, .pins_, .clk_, .rate_, .intc_, .msixMask_, .msixPend_, .pace_, .bridgeWait_, .seq_, .flog_, .therm_, .keep_, .ham_, .pat_, .plan_, .start_, .ports_, .lds_, .reqs_, .nextReq_, .cache_, .xlt_, .med_, .coh_, .flush_, .integ_, .dbg_, .cip_, .links_, .carts_, .spl_, .grp_, .pmc_, .health_, .out_, .free_] s t)
  ∧ (∀ s t, exec .coreRelease s = .next t → TouchesOnly [.regs_, .shadow_, .held_, .sliceDone_, .sliceReg_, .pins_, .clk_, .rate_, .intc_, .msixMask_, .msixPend_, .pace_, .bridgeWait_, .seq_, .therm_, .keep_, .ham_, .pat_, .plan_, .start_, .ports_, .lds_, .reqs_, .nextReq_, .cache_, .xlt_, .med_, .coh_, .flush_, .integ_, .dbg_, .cip_, .links_, .carts_, .spl_, .grp_, .pmc_, .health_, .out_, .free_] s t)
  ∧ (∀ ok0 ok1 s t, exec (.hbmTrainingDone ok0 ok1) s = .next t → TouchesOnly [.regs_, .pins_, .intc_, .msixPend_, .seq_, .keep_, .ham_, .start_, .lds_, .health_, .out_] s t)
  ∧ (∀ rows s t, exec (.hbmFillDone rows) s = .next t → TouchesOnly [.regs_, .pins_, .intc_, .msixPend_, .seq_, .keep_, .ham_, .start_, .lds_, .med_, .cip_, .carts_, .spl_, .health_, .out_] s t)
  ∧ (∀ s t, exec .cartridgeDiscoveryDone s = .next t → TouchesOnly [.regs_, .pins_, .rate_, .intc_, .msixPend_, .bridgeWait_, .keep_, .ham_, .start_, .ports_, .lds_, .reqs_, .nextReq_, .cache_, .xlt_, .med_, .coh_, .flush_, .integ_, .cip_, .carts_, .setId_, .serials_, .spl_, .pmc_, .health_, .out_, .free_] s t)
  ∧ (∀ s t, exec .waitingReevaluate s = .next t → TouchesOnly [.regs_, .pins_, .rate_, .intc_, .msixPend_, .pace_, .bridgeWait_, .seq_, .keep_, .ham_, .start_, .ports_, .lds_, .reqs_, .nextReq_, .cache_, .xlt_, .med_, .coh_, .flush_, .integ_, .cip_, .carts_, .setId_, .serials_, .spl_, .grp_, .pmc_, .health_, .out_, .free_] s t)
  ∧ (∀ s t, exec .recoveryStepComplete s = .next t → TouchesOnly [.regs_, .pins_, .intc_, .msixPend_, .keep_, .ham_, .start_, .lds_, .reqs_, .cache_, .xlt_, .med_, .coh_, .flush_, .integ_, .cip_, .carts_, .grp_, .pmc_, .health_, .out_, .free_] s t)
  ∧ (∀ s t, exec .selvageScanComplete s = .next t → TouchesOnly [.regs_, .pins_, .intc_, .msixPend_, .keep_, .ham_, .start_, .lds_, .reqs_, .cache_, .xlt_, .med_, .coh_, .integ_, .cip_, .carts_, .grp_, .pmc_, .health_, .out_, .free_] s t)
  ∧ (∀ m s t, exec (.eraseSlot m) s = .next t → TouchesOnly [.regs_, .pins_, .rate_, .intc_, .msixPend_, .keep_, .ham_, .pat_, .ports_, .out_] s t)
  ∧ (∀ m s t, exec (.ptuProgram m) s = .next t → TouchesOnly [.regs_, .pins_, .rate_, .intc_, .msixPend_, .keep_, .ham_, .pat_, .ports_, .out_] s t)
  ∧ (∀ m s t, exec (.ptuRead m) s = .next t → TouchesOnly [.regs_, .pins_, .rate_, .intc_, .msixPend_, .keep_, .ham_, .pat_, .ports_, .out_] s t)
  ∧ (∀ m s t, exec (.ptuVerify m) s = .next t → TouchesOnly [.regs_, .pins_, .rate_, .intc_, .msixPend_, .keep_, .ham_, .pat_, .ports_, .out_] s t)
  ∧ (∀ m s t, exec (.liveApply m) s = .next t → TouchesOnly [.regs_, .pins_, .rate_, .intc_, .msixPend_, .keep_, .ham_, .pat_, .ports_, .out_] s t)
  ∧ (∀ m cmd s t, exec (.ptuReservedCmd m cmd) s = .next t → TouchesOnly [.regs_, .pins_, .rate_, .intc_, .msixPend_, .keep_, .ham_, .pat_, .ports_, .out_] s t)
  ∧ (∀ flashOk readOk s t, exec (.ptuCommandDone flashOk readOk) s = .next t → TouchesOnly [.regs_, .shadow_, .held_, .sliceDone_, .sliceReg_, .pins_, .clk_, .rate_, .intc_, .msixMask_, .msixPend_, .pace_, .bridgeWait_, .seq_, .therm_, .keep_, .ham_, .pat_, .plan_, .start_, .ports_, .lds_, .reqs_, .nextReq_, .cache_, .xlt_, .med_, .coh_, .flush_, .integ_, .dbg_, .cip_, .links_, .carts_, .spl_, .grp_, .pmc_, .health_, .out_, .free_] s t)
  ∧ (∀ m addr v full s t, exec (.registerWrite m addr v full) s = .next t → TouchesOnly [.regs_, .shadow_, .held_, .sliceDone_, .sliceReg_, .pins_, .clk_, .rate_, .intc_, .msixMask_, .msixPend_, .pace_, .bridgeWait_, .seq_, .therm_, .keep_, .ham_, .pat_, .start_, .ports_, .lds_, .reqs_, .nextReq_, .cache_, .xlt_, .med_, .coh_, .flush_, .integ_, .dbg_, .cip_, .links_, .carts_, .spl_, .grp_, .pmc_, .health_, .out_, .free_] s t)
  ∧ (∀ m spoolForm write addr words n s t, exec (.mctpRegisterMessage m spoolForm write addr words n) s = .next t → TouchesOnly [.regs_, .shadow_, .held_, .sliceDone_, .sliceReg_, .pins_, .clk_, .rate_, .intc_, .msixMask_, .msixPend_, .pace_, .bridgeWait_, .seq_, .therm_, .keep_, .ham_, .pat_, .start_, .ports_, .lds_, .reqs_, .nextReq_, .cache_, .xlt_, .med_, .coh_, .flush_, .integ_, .dbg_, .cip_, .links_, .carts_, .spl_, .grp_, .pmc_, .health_, .out_, .free_] s t)
  ∧ (∀ blk inst s t, exec (.seamReached blk inst) s = .next t → TouchesOnly [.regs_, .shadow_, .sliceDone_, .sliceReg_, .pins_, .rate_, .intc_, .msixPend_, .pace_, .bridgeWait_, .seq_, .therm_, .keep_, .ham_, .start_, .ports_, .lds_, .reqs_, .nextReq_, .cache_, .xlt_, .med_, .coh_, .flush_, .integ_, .cip_, .links_, .carts_, .setId_, .serials_, .spl_, .grp_, .pmc_, .health_, .out_, .free_] s t)
  ∧ (∀ m s t, exec (.pwrreqOn m) s = .next t → TouchesOnly [.regs_, .pins_, .clk_, .rate_, .intc_, .msixPend_, .pace_, .seq_, .therm_, .keep_, .ham_, .pat_, .start_, .ports_, .lds_, .health_, .out_] s t)
  ∧ (∀ m s t, exec (.pwrreqOff m) s = .next t → TouchesOnly [.regs_, .shadow_, .held_, .sliceDone_, .sliceReg_, .pins_, .rate_, .intc_, .msixMask_, .msixPend_, .pace_, .bridgeWait_, .seq_, .keep_, .ham_, .start_, .ports_, .lds_, .reqs_, .cache_, .xlt_, .med_, .coh_, .flush_, .integ_, .dbg_, .cip_, .links_, .carts_, .spl_, .grp_, .pmc_, .health_, .out_, .free_] s t)
  ∧ (∀ s t, exec .porstNDeassert s = .next t → TouchesOnly [.regs_, .pins_, .clk_, .intc_, .msixPend_, .pace_, .seq_, .therm_, .keep_, .ham_, .pat_, .start_, .out_] s t)
  ∧ (∀ req busy s t, exec (.dbgAccessRequest req busy) s = .next t → TouchesOnly [.regs_, .shadow_, .held_, .sliceDone_, .sliceReg_, .pins_, .clk_, .rate_, .intc_, .msixMask_, .msixPend_, .pace_, .bridgeWait_, .seq_, .therm_, .keep_, .ham_, .pat_, .start_, .ports_, .lds_, .reqs_, .nextReq_, .cache_, .xlt_, .med_, .coh_, .flush_, .integ_, .dbg_, .cip_, .links_, .carts_, .spl_, .grp_, .pmc_, .health_, .out_, .free_] s t)
  ∧ (∀ sid s t, exec (.hamperClear sid) s = .next t → TouchesOnly [.regs_, .pins_, .rate_, .intc_, .msixPend_, .keep_, .ham_, .out_] s t)
  ∧ (∀ port link s t, exec (.hostLinkUp port link) s = .next t → TouchesOnly [.regs_, .pins_, .rate_, .intc_, .msixPend_, .bridgeWait_, .keep_, .ham_, .ports_, .lds_, .reqs_, .nextReq_, .cache_, .xlt_, .med_, .coh_, .flush_, .integ_, .cip_, .carts_, .spl_, .pmc_, .out_, .free_] s t)
  ∧ (∀ port s t, exec (.hostLinkDown port) s = .next t → TouchesOnly [.regs_, .pins_, .rate_, .intc_, .msixPend_, .bridgeWait_, .keep_, .ham_, .ports_, .lds_, .reqs_, .nextReq_, .cache_, .xlt_, .med_, .coh_, .flush_, .integ_, .cip_, .carts_, .spl_, .pmc_, .health_, .out_, .free_] s t)
  ∧ (∀ m port s t, exec (.portRetrain m port) s = .next t → TouchesOnly [.regs_, .pins_, .rate_, .intc_, .msixPend_, .keep_, .ham_, .ports_, .out_] s t)
  ∧ (∀ port s t, exec (.perstNAssert port) s = .next t → TouchesOnly [.regs_, .pins_, .rate_, .intc_, .msixPend_, .bridgeWait_, .keep_, .ham_, .ports_, .lds_, .reqs_, .nextReq_, .cache_, .xlt_, .med_, .coh_, .flush_, .integ_, .cip_, .carts_, .spl_, .pmc_, .health_, .out_, .free_] s t)
  ∧ (∀ port s t, exec (.perstNDeassert port) s = .next t → TouchesOnly [.pins_] s t)
  ∧ (∀ port tag w s t, exec (.configRequest port tag w) s = .next t → TouchesOnly [.msixMask_, .msixPend_, .ports_, .lds_, .out_] s t)
  ∧ (∀ ld k dec s t, exec (.hdmDecoderCommit ld k dec) s = .next t → TouchesOnly [.lds_, .out_] s t)
  ∧ (∀ ld write addr bytes n s t, exec (.bar2Access ld write addr bytes n) s = .next t → TouchesOnly [.regs_, .pins_, .rate_, .intc_, .msixPend_, .keep_, .ham_, .ports_, .spl_, .out_, .free_] s t)
  ∧ (∀ ld s t, exec (.identify ld) s = .next t → TouchesOnly [.regs_, .msixPend_, .out_] s t)
  ∧ (∀ ld s t, exec (.identifyMemoryDevice ld) s = .next t → TouchesOnly [.msixPend_, .out_] s t)
  ∧ (∀ ld log s t, exec (.getEventRecords ld log) s = .next t → TouchesOnly [.msixPend_, .out_] s t)
  ∧ (∀ ld log handles all s t, exec (.clearEventRecords ld log handles all) s = .next t → TouchesOnly [.msixPend_, .lds_, .out_] s t)
  ∧ (∀ ld s t, exec (.getEventInterruptPolicy ld) s = .next t → TouchesOnly [.msixPend_, .out_] s t)
  ∧ (∀ ld vectors s t, exec (.setEventInterruptPolicy ld vectors) s = .next t → TouchesOnly [.msixPend_, .lds_, .out_] s t)
  ∧ (∀ ld s t, exec (.getTimestamp ld) s = .next t → TouchesOnly [.msixPend_, .out_] s t)
  ∧ (∀ ld t_ s t, exec (.setTimestamp ld t_) s = .next t → TouchesOnly [.regs_, .pins_, .clk_, .intc_, .msixPend_, .keep_, .ham_, .xlt_, .out_] s t)
  ∧ (∀ ld s t, exec (.getSupportedLogs ld) s = .next t → TouchesOnly [.msixPend_, .out_] s t)
  ∧ (∀ ld vendor off len s t, exec (.getLog ld vendor off len) s = .next t → TouchesOnly [.msixPend_, .out_] s t)
  ∧ (∀ ld s t, exec (.getHealthInfo ld) s = .next t → TouchesOnly [.msixPend_, .out_] s t)
  ∧ (∀ ld s t, exec (.getAlertConfiguration ld) s = .next t → TouchesOnly [.msixPend_, .out_] s t)
  ∧ (∀ ld cfg s t, exec (.setAlertConfiguration ld cfg) s = .next t → TouchesOnly [.msixPend_, .lds_, .out_] s t)
  ∧ (∀ ld off len s t, exec (.getLsa ld off len) s = .next t → TouchesOnly [.msixPend_, .out_] s t)
  ∧ (∀ ld off bytes s t, exec (.setLsa ld off bytes) s = .next t → TouchesOnly [.regs_, .pins_, .intc_, .msixPend_, .keep_, .ham_, .lds_, .xlt_, .med_, .out_, .free_] s t)
  ∧ (∀ ld dpa len s t, exec (.getPoisonList ld dpa len) s = .next t → TouchesOnly [.msixPend_, .lds_, .out_] s t)
  ∧ (∀ ld dpa s t, exec (.injectPoison ld dpa) s = .next t → TouchesOnly [.regs_, .pins_, .rate_, .intc_, .msixPend_, .bridgeWait_, .keep_, .ham_, .ports_, .lds_, .reqs_, .nextReq_, .cache_, .xlt_, .med_, .coh_, .flush_, .integ_, .cip_, .carts_, .spl_, .pmc_, .out_, .free_] s t)
  ∧ (∀ ld dpa data s t, exec (.clearPoison ld dpa data) s = .next t → TouchesOnly [.regs_, .pins_, .rate_, .intc_, .msixPend_, .bridgeWait_, .keep_, .ham_, .ports_, .lds_, .reqs_, .nextReq_, .cache_, .xlt_, .med_, .coh_, .flush_, .integ_, .cip_, .carts_, .spl_, .pmc_, .out_, .free_] s t)
  ∧ (∀ ld s t, exec (.sanitize ld) s = .next t → TouchesOnly [.regs_, .pins_, .intc_, .msixPend_, .keep_, .ham_, .lds_, .reqs_, .cache_, .xlt_, .med_, .coh_, .cip_, .carts_, .pmc_, .health_, .out_, .free_] s t)
  ∧ (∀ ld s t, exec (.secureErase ld) s = .next t → TouchesOnly [.regs_, .pins_, .intc_, .msixPend_, .keep_, .ham_, .lds_, .reqs_, .cache_, .xlt_, .med_, .cip_, .carts_, .pmc_, .health_, .out_, .free_] s t)
  ∧ (∀ ld s t, exec (.backgroundCommandComplete ld) s = .next t → TouchesOnly [.regs_, .pins_, .intc_, .msixPend_, .keep_, .ham_, .lds_, .xlt_, .med_, .coh_, .cip_, .carts_, .pmc_, .health_, .out_, .free_] s t)
  ∧ (∀ ld s t, exec (.getDynamicCapacityConfiguration ld) s = .next t → TouchesOnly [.msixPend_, .out_] s t)
  ∧ (∀ ld s t, exec (.getDynamicCapacityExtentList ld) s = .next t → TouchesOnly [.msixPend_, .out_] s t)
  ∧ (∀ ld ext s t, exec (.addDynamicCapacityResponse ld ext) s = .next t → TouchesOnly [.msixPend_, .xlt_, .coh_, .out_] s t)
  ∧ (∀ ld ext s t, exec (.releaseDynamicCapacity ld ext) s = .next t → TouchesOnly [.regs_, .pins_, .intc_, .msixPend_, .keep_, .ham_, .lds_, .reqs_, .cache_, .xlt_, .med_, .coh_, .cip_, .carts_, .pmc_, .health_, .out_, .free_] s t)
  ∧ (∀ ld s t, exec (.getDeviceState ld) s = .next t → TouchesOnly [.regs_, .msixPend_, .out_] s t)
  ∧ (∀ ld s t, exec (.getWearReport ld) s = .next t → TouchesOnly [.regs_, .msixPend_, .out_] s t)
  ∧ (∀ ld s t, exec (.getFlushRecord ld) s = .next t → TouchesOnly [.msixPend_, .out_] s t)
  ∧ (∀ ld s t, exec (.getGroupStatus ld) s = .next t → TouchesOnly [.regs_, .msixPend_, .out_] s t)
  ∧ (∀ ld opcode s t, exec (.mailboxUnsupported ld opcode) s = .next t → TouchesOnly [.msixPend_, .out_] s t)
  ∧ (∀ s t, exec .getLdInfo s = .next t → TouchesOnly [.out_] s t)
  ∧ (∀ s t, exec .getLdAllocations s = .next t → TouchesOnly [.out_] s t)
  ∧ (∀ granules s t, exec (.setLdAllocations granules) s = .next t → TouchesOnly [.out_] s t)
  ∧ (∀ s t, exec .getMultiHeadedInfo s = .next t → TouchesOnly [.out_] s t)
  ∧ (∀ ld s t, exec (.getDcRegionConfiguration ld) s = .next t → TouchesOnly [.out_] s t)
  ∧ (∀ ld s t, exec (.getDcRegionExtentLists ld) s = .next t → TouchesOnly [.out_] s t)
  ∧ (∀ ldMask base len s t, exec (.initiateDynamicCapacityAdd ldMask base len) s = .next t → TouchesOnly [.regs_, .pins_, .intc_, .msixPend_, .lds_, .coh_, .out_] s t)
  ∧ (∀ ext ld forced s t, exec (.initiateDynamicCapacityRelease ext ld forced) s = .next t → TouchesOnly [.regs_, .pins_, .intc_, .msixPend_, .keep_, .ham_, .lds_, .reqs_, .cache_, .xlt_, .med_, .coh_, .cip_, .carts_, .pmc_, .health_, .out_, .free_] s t)
  ∧ (∀ ld port s t, exec (.bindLd ld port) s = .next t → TouchesOnly [.regs_, .pins_, .rate_, .intc_, .msixPend_, .bridgeWait_, .keep_, .ham_, .ports_, .lds_, .reqs_, .nextReq_, .cache_, .xlt_, .med_, .coh_, .flush_, .integ_, .cip_, .carts_, .spl_, .pmc_, .out_, .free_] s t)
  ∧ (∀ ld s t, exec (.unbindLd ld) s = .next t → TouchesOnly [.regs_, .pins_, .rate_, .intc_, .msixPend_, .bridgeWait_, .keep_, .ham_, .ports_, .lds_, .reqs_, .nextReq_, .cache_, .xlt_, .med_, .coh_, .flush_, .integ_, .cip_, .carts_, .spl_, .pmc_, .out_, .free_] s t)
  ∧ (∀ s t, exec .getBindings s = .next t → TouchesOnly [.out_] s t)
  ∧ (∀ ext ld forced s t, exec (.secureRelease ext ld forced) s = .next t → TouchesOnly [.regs_, .pins_, .intc_, .msixPend_, .keep_, .ham_, .lds_, .reqs_, .cache_, .xlt_, .med_, .coh_, .cip_, .carts_, .pmc_, .health_, .out_, .free_] s t)
  ∧ (∀ us s t, exec (.railEnableSlot us) s = .next t → TouchesOnly [.regs_, .seq_] s t)
  ∧ (∀ r s t, exec (.powerGoodRise r) s = .next t → TouchesOnly [.regs_, .shadow_, .held_, .sliceDone_, .sliceReg_, .pins_, .intc_, .msixMask_, .msixPend_, .pace_, .bridgeWait_, .seq_, .keep_, .ham_, .start_, .ports_, .lds_, .reqs_, .cache_, .xlt_, .med_, .coh_, .flush_, .integ_, .dbg_, .cip_, .links_, .carts_, .spl_, .grp_, .pmc_, .health_, .out_] s t)
  ∧ (∀ r s t, exec (.pgWindowExpire r) s = .next t → TouchesOnly [.regs_, .shadow_, .held_, .sliceDone_, .sliceReg_, .pins_, .intc_, .msixMask_, .msixPend_, .pace_, .bridgeWait_, .seq_, .flog_, .keep_, .ham_, .start_, .ports_, .lds_, .reqs_, .cache_, .xlt_, .med_, .coh_, .flush_, .integ_, .dbg_, .cip_, .links_, .carts_, .spl_, .grp_, .pmc_, .health_, .out_] s t)
  ∧ (∀ s t, exec .retryGapEnd s = .next t → TouchesOnly [.regs_, .seq_] s t)
  ∧ (∀ pins vsin settling s t, exec (.railSample pins vsin settling) s = .next t → TouchesOnly [.regs_, .shadow_, .held_, .sliceDone_, .sliceReg_, .pins_, .intc_, .msixMask_, .msixPend_, .pace_, .bridgeWait_, .seq_, .flog_, .keep_, .ham_, .start_, .ports_, .lds_, .reqs_, .cache_, .xlt_, .med_, .coh_, .flush_, .integ_, .dbg_, .cip_, .links_, .carts_, .spl_, .grp_, .pmc_, .health_, .out_, .free_] s t)
  ∧ (∀ r s t, exec (.railPgLost r) s = .next t → TouchesOnly [.regs_, .shadow_, .held_, .sliceDone_, .sliceReg_, .pins_, .intc_, .msixMask_, .msixPend_, .pace_, .bridgeWait_, .seq_, .flog_, .keep_, .ham_, .start_, .ports_, .lds_, .reqs_, .cache_, .xlt_, .med_, .coh_, .flush_, .integ_, .dbg_, .cip_, .links_, .carts_, .spl_, .grp_, .pmc_, .health_, .out_, .free_] s t)
  ∧ (∀ us s t, exec (.railDisableSlot us) s = .next t → TouchesOnly [.regs_, .seq_, .keep_] s t)
  ∧ (∀ pfw s t, exec (.powerDownEnd pfw) s = .next t → TouchesOnly [.regs_, .pins_, .clk_, .intc_, .msixPend_, .pace_, .seq_, .therm_, .keep_, .ham_, .pat_, .start_, .lds_, .health_, .out_] s t)
  ∧ (∀ s t, exec .minOffEnd s = .next t → TouchesOnly [.regs_, .pins_, .clk_, .intc_, .msixPend_, .pace_, .seq_, .therm_, .keep_, .ham_, .pat_, .start_, .out_] s t)
  ∧ (∀ s t, exec .holdingBufferWrite s = .next t → TouchesOnly [.regs_, .pins_, .intc_, .msixPend_, .flog_, .keep_, .ham_, .out_] s t)
  ∧ (∀ die hbm s t, exec (.thermalSample die hbm) s = .next t → TouchesOnly [.regs_, .shadow_, .held_, .sliceDone_, .sliceReg_, .pins_, .intc_, .msixMask_, .msixPend_, .pace_, .bridgeWait_, .seq_, .therm_, .keep_, .ham_, .start_, .ports_, .lds_, .reqs_, .cache_, .xlt_, .med_, .coh_, .flush_, .integ_, .dbg_, .cip_, .links_, .carts_, .spl_, .grp_, .pmc_, .health_, .out_, .free_] s t)
  ∧ (∀ sensor s t, exec (.sensorSuspect sensor) s = .next t → TouchesOnly [.regs_, .pins_, .intc_, .msixPend_, .therm_, .out_] s t)
  ∧ (∀ comparators s t, exec (.hardwareThermalTrip comparators) s = .next t → TouchesOnly [.regs_, .shadow_, .held_, .sliceDone_, .sliceReg_, .pins_, .intc_, .msixMask_, .msixPend_, .pace_, .bridgeWait_, .seq_, .keep_, .ham_, .start_, .ports_, .lds_, .reqs_, .cache_, .xlt_, .med_, .coh_, .flush_, .integ_, .dbg_, .cip_, .links_, .carts_, .spl_, .grp_, .pmc_, .health_, .out_] s t)
  ∧ (∀ s t, exec .aux33Brownout s = .next t → TouchesOnly [.order_, .regs_, .shadow_, .held_, .sliceDone_, .sliceReg_, .pins_, .clk_, .rate_, .intc_, .msixMask_, .msixPend_, .pace_, .bridgeWait_, .seq_, .flog_, .therm_, .keep_, .ham_, .pat_, .plan_, .start_, .ports_, .lds_, .reqs_, .nextReq_, .cache_, .xlt_, .med_, .coh_, .flush_, .integ_, .dbg_, .cip_, .links_, .carts_, .setId_, .serials_, .spl_, .grp_, .pmc_, .smbAddr_, .health_, .out_, .free_, .pending_] s t)
  ∧ (∀ m w v s t, exec (.tackWrite m w v) s = .next t → TouchesOnly [.regs_, .pins_, .rate_, .intc_, .msixPend_, .keep_, .ham_, .ports_, .out_] s t)
  ∧ (∀ m page s t, exec (.hemProgram m page) s = .next t → TouchesOnly [.regs_, .pins_, .rate_, .intc_, .msixPend_, .keep_, .ham_, .ports_, .out_] s t)
  ∧ (∀ verified s t, exec (.hemProgramDone verified) s = .next t → TouchesOnly [.regs_, .pins_, .intc_, .msixPend_, .keep_, .out_, .free_] s t)
  ∧ (∀ m page s t, exec (.hemPageLoad m page) s = .next t → TouchesOnly [.regs_, .pins_, .rate_, .intc_, .msixPend_, .keep_, .ham_, .ports_, .out_] s t)
  ∧ (∀ s t, exec .hemLoadDone s = .next t → TouchesOnly [.regs_, .keep_] s t)
  ∧ (∀ s t, exec .powerOnHour s = .next t → TouchesOnly [.regs_, .pins_, .intc_, .msixPend_, .keep_, .out_] s t)
  ∧ (∀ s t, exec .hamperPageTimer s = .next t → TouchesOnly [.ham_] s t)
  ∧ (∀ m v s t, exec (.hamperRead m v) s = .next t → TouchesOnly [.regs_, .pins_, .rate_, .intc_, .msixPend_, .keep_, .ham_, .ports_, .out_] s t)
  ∧ (∀ m v s t, exec (.intDoorbellWrite m v) s = .next t → TouchesOnly [.regs_, .pins_, .rate_, .intc_, .msixPend_, .keep_, .ham_, .ports_, .out_] s t)
  ∧ (∀ m t_ v s t, exec (.intAck m t_ v) s = .next t → TouchesOnly [.regs_, .pins_, .rate_, .intc_, .msixPend_, .keep_, .ham_, .ports_, .out_] s t)
  ∧ (∀ s t, exec .alertReassert s = .next t → TouchesOnly [.regs_, .pins_, .intc_, .msixPend_, .out_] s t)
  ∧ (∀ s t, exec .alertResponse s = .next t → TouchesOnly [.out_] s t)
  ∧ (∀ addr s t, exec (.smbusArp addr) s = .next t → TouchesOnly [.smbAddr_] s t)
  ∧ (∀ input s t, exec (.quietEdge input) s = .next t → TouchesOnly [.regs_, .pins_, .intc_, .msixPend_, .out_] s t)
  ∧ (∀ m s t, exec (.pmcRead m) s = .next t → TouchesOnly [.regs_, .pins_, .rate_, .intc_, .msixPend_, .keep_, .ham_, .ports_, .pmc_, .out_] s t)
  ∧ (∀ m s t, exec (.pmcZero m) s = .next t → TouchesOnly [.regs_, .pins_, .rate_, .intc_, .msixPend_, .keep_, .ham_, .ports_, .pmc_, .out_] s t)
  ∧ (∀ s t, exec .readerPassTimer s = .next t → TouchesOnly [.regs_, .pmc_] s t)
  ∧ (∀ s t, exec .readerPassDone s = .next t → TouchesOnly [.regs_, .pins_, .intc_, .msixPend_, .pmc_, .out_] s t)
  ∧ (∀ m count s t, exec (.samplePop m count) s = .next t → TouchesOnly [.regs_, .pins_, .rate_, .intc_, .msixPend_, .keep_, .ham_, .ports_, .pmc_, .out_] s t)
  ∧ (∀ s t, exec .rateSecond s = .next t → TouchesOnly [.clk_, .rate_] s t)
  ∧ (∀ port n s t, exec (.hostCreditReturn port n) s = .next t → TouchesOnly [.regs_, .pins_, .intc_, .msixPend_, .bridgeWait_, .ports_, .reqs_, .coh_, .spl_, .pmc_, .out_] s t)

/-- Frames of the commands of reads, writes, translation, media, caches, coherence and flushes: the parts of the state that each command may change; every other part is as before, the queue of waiting commands in every case, and the register window and the addressed stores wherever they are not named. -/
def Obligations.FrameOfLineAndMediaCommands : Prop :=
  (∀ port req s t, exec (.m2sReqReceived port req) s = .next t → TouchesOnly [.regs_, .pins_, .rate_, .intc_, .msixPend_, .bridgeWait_, .keep_, .ham_, .ports_, .lds_, .reqs_, .nextReq_, .cache_, .xlt_, .med_, .coh_, .flush_, .integ_, .cip_, .carts_, .spl_, .pmc_, .out_, .free_] s t)
  ∧ (∀ port req s t, exec (.m2sRwdReceived port req) s = .next t → TouchesOnly [.regs_, .pins_, .rate_, .intc_, .msixPend_, .bridgeWait_, .keep_, .ham_, .ports_, .lds_, .reqs_, .nextReq_, .cache_, .xlt_, .med_, .coh_, .flush_, .integ_, .cip_, .carts_, .spl_, .pmc_, .out_, .free_] s t)
  ∧ (∀ port k s t, exec (.streamTrackerExpire port k) s = .next t → TouchesOnly [.ports_] s t)
  ∧ (∀ rid hbm s t, exec (.readOrderPoint rid hbm) s = .next t → TouchesOnly [.regs_, .pins_, .rate_, .intc_, .msixPend_, .bridgeWait_, .keep_, .ham_, .ports_, .lds_, .reqs_, .nextReq_, .cache_, .xlt_, .med_, .coh_, .integ_, .cip_, .carts_, .spl_, .pmc_, .health_, .out_, .free_] s t)
  ∧ (∀ rid s t, exec (.mapAnswer rid) s = .next t → TouchesOnly [.regs_, .pins_, .rate_, .intc_, .msixPend_, .bridgeWait_, .keep_, .ham_, .ports_, .lds_, .reqs_, .xlt_, .coh_, .spl_, .pmc_, .health_, .out_] s t)
  ∧ (∀ rid s t, exec (.patchIndexAnswer rid) s = .next t → TouchesOnly [.regs_, .pins_, .rate_, .intc_, .msixPend_, .bridgeWait_, .keep_, .ham_, .ports_, .lds_, .reqs_, .coh_, .spl_, .pmc_, .health_, .out_] s t)
  ∧ (∀ rid uncorr left s t, exec (.probeHit rid uncorr left) s = .next t → TouchesOnly [.regs_, .pins_, .rate_, .intc_, .msixPend_, .bridgeWait_, .keep_, .ham_, .ports_, .lds_, .reqs_, .cache_, .xlt_, .med_, .coh_, .integ_, .spl_, .pmc_, .health_, .out_] s t)
  ∧ (∀ rid sensed mismatch again s t, exec (.mediaReadData rid sensed mismatch again) s = .next t → TouchesOnly [.regs_, .pins_, .rate_, .intc_, .msixPend_, .bridgeWait_, .keep_, .ham_, .ports_, .lds_, .reqs_, .nextReq_, .cache_, .xlt_, .med_, .coh_, .integ_, .spl_, .pmc_, .health_, .out_] s t)
  ∧ (∀ rid s t, exec (.reconstructionStart rid) s = .next t → TouchesOnly [.regs_, .pins_, .rate_, .intc_, .msixPend_, .bridgeWait_, .keep_, .ham_, .ports_, .lds_, .reqs_, .nextReq_, .cache_, .xlt_, .med_, .coh_, .integ_, .spl_, .pmc_, .health_, .out_] s t)
  ∧ (∀ rid member sensed s t, exec (.reconstructionReadData rid member sensed) s = .next t → TouchesOnly [.regs_, .pins_, .rate_, .intc_, .msixPend_, .bridgeWait_, .keep_, .ham_, .ports_, .lds_, .reqs_, .nextReq_, .cache_, .xlt_, .med_, .coh_, .integ_, .spl_, .pmc_, .health_, .out_] s t)
  ∧ (∀ rid hbm s t, exec (.writeAdmission rid hbm) s = .next t → TouchesOnly [.regs_, .pins_, .rate_, .intc_, .msixPend_, .bridgeWait_, .keep_, .ham_, .ports_, .lds_, .reqs_, .nextReq_, .cache_, .xlt_, .med_, .coh_, .flush_, .integ_, .cip_, .carts_, .spl_, .pmc_, .health_, .out_, .free_] s t)
  ∧ (∀ rid s t, exec (.partialWriteMerge rid) s = .next t → TouchesOnly [.regs_, .pins_, .rate_, .intc_, .msixPend_, .bridgeWait_, .keep_, .ham_, .ports_, .lds_, .reqs_, .coh_, .spl_, .pmc_, .out_] s t)
  ∧ (∀ rid s t, exec (.writeCommit rid) s = .next t → TouchesOnly [.regs_, .pins_, .rate_, .intc_, .msixPend_, .bridgeWait_, .keep_, .ham_, .ports_, .lds_, .reqs_, .nextReq_, .cache_, .xlt_, .med_, .coh_, .flush_, .integ_, .cip_, .carts_, .spl_, .pmc_, .health_, .out_, .free_] s t)
  ∧ (∀ slice s t, exec (.stagingWaitEnd slice) s = .next t → TouchesOnly [.reqs_, .cache_] s t)
  ∧ (∀ m slice s t, exec (.latClear m slice) s = .next t → TouchesOnly [.regs_, .pins_, .rate_, .intc_, .msixPend_, .keep_, .ham_, .ports_, .out_] s t)
  ∧ (∀ line s t, exec (.evictionRelease line) s = .next t → TouchesOnly [.regs_, .pins_, .intc_, .msixPend_, .keep_, .ham_, .nextReq_, .cache_, .xlt_, .med_, .integ_, .cip_, .carts_, .pmc_, .out_, .free_] s t)
  ∧ (∀ psa s t, exec (.sealTimerExpire psa) s = .next t → TouchesOnly [.xlt_, .med_] s t)
  ∧ (∀ psa s t, exec (.patchPageVerified psa) s = .next t → TouchesOnly [.regs_, .pins_, .rate_, .intc_, .msixPend_, .bridgeWait_, .keep_, .ham_, .ports_, .lds_, .reqs_, .nextReq_, .cache_, .xlt_, .med_, .coh_, .flush_, .integ_, .cip_, .carts_, .spl_, .pmc_, .health_, .out_, .free_] s t)
  ∧ (∀ psa s t, exec (.patchProgramFail psa) s = .next t → TouchesOnly [.regs_, .pins_, .rate_, .intc_, .msixPend_, .bridgeWait_, .keep_, .ham_, .ports_, .lds_, .reqs_, .nextReq_, .cache_, .xlt_, .med_, .coh_, .flush_, .integ_, .cip_, .carts_, .spl_, .pmc_, .health_, .out_, .free_] s t)
  ∧ (∀ m hi s t, exec (.darnRequest m hi) s = .next t → TouchesOnly [.regs_, .held_, .pins_, .rate_, .intc_, .msixPend_, .keep_, .ham_, .ports_, .xlt_, .out_] s t)
  ∧ (∀ s t, exec .darnQueueRoom s = .next t → TouchesOnly [.regs_, .pins_, .intc_, .msixPend_, .cache_, .xlt_, .out_] s t)
  ∧ (∀ s t, exec .assemblyStart s = .next t → TouchesOnly [.regs_, .pins_, .rate_, .intc_, .msixPend_, .bridgeWait_, .keep_, .ham_, .ports_, .lds_, .reqs_, .nextReq_, .cache_, .xlt_, .med_, .coh_, .flush_, .integ_, .cip_, .carts_, .spl_, .pmc_, .out_, .free_] s t)
  ∧ (∀ psa s t, exec (.assemblyPageVerified psa) s = .next t → TouchesOnly [.regs_, .pins_, .intc_, .msixPend_, .keep_, .ham_, .lds_, .cache_, .xlt_, .med_, .integ_, .cip_, .carts_, .spl_, .pmc_, .health_, .out_, .free_] s t)
  ∧ (∀ s t, exec .patchBoltReclaim s = .next t → TouchesOnly [.regs_, .pins_, .intc_, .msixPend_, .keep_, .ham_, .xlt_, .med_, .cip_, .carts_, .out_, .free_] s t)
  ∧ (∀ s t, exec .regionImageComplete s = .next t → TouchesOnly [.regs_, .pins_, .intc_, .msixPend_, .keep_, .ham_, .xlt_, .med_, .integ_, .cip_, .carts_, .pmc_, .out_, .free_] s t)
  ∧ (∀ s t, exec .checkpointLate s = .next t → TouchesOnly [.regs_, .pins_, .intc_, .msixPend_, .xlt_, .out_] s t)
  ∧ (∀ s t, exec .mediaClockTick s = .next t → TouchesOnly [.regs_, .pins_, .intc_, .msixPend_, .xlt_, .med_, .out_] s t)
  ∧ (∀ s t, exec .timePairWrite s = .next t → TouchesOnly [.regs_, .pins_, .intc_, .msixPend_, .keep_, .out_] s t)
  ∧ (∀ block scan us s t, exec (.mapBlockRepairDone block scan us) s = .next t → TouchesOnly [.regs_, .pins_, .intc_, .msixPend_, .keep_, .ham_, .reqs_, .xlt_, .med_, .out_] s t)
  ∧ (∀ rid s t, exec (.repairWaitTimeout rid) s = .next t → TouchesOnly [.regs_, .pins_, .rate_, .intc_, .msixPend_, .bridgeWait_, .ports_, .lds_, .reqs_, .coh_, .spl_, .pmc_, .health_, .out_] s t)
  ∧ (∀ psa s t, exec (.pageProgramVerified psa) s = .next t → TouchesOnly [.regs_, .pins_, .intc_, .msixPend_, .keep_, .ham_, .lds_, .cache_, .xlt_, .med_, .flush_, .integ_, .cip_, .carts_, .pmc_, .health_, .out_, .free_] s t)
  ∧ (∀ slot s t, exec (.bastingTimerExpire slot) s = .next t → TouchesOnly [.regs_, .pins_, .intc_, .msixPend_, .keep_, .ham_, .med_, .out_, .free_] s t)
  ∧ (∀ psa s t, exec (.pageProgramFail psa) s = .next t → TouchesOnly [.regs_, .pins_, .rate_, .intc_, .msixPend_, .bridgeWait_, .keep_, .ham_, .ports_, .lds_, .reqs_, .nextReq_, .cache_, .xlt_, .med_, .coh_, .flush_, .integ_, .cip_, .carts_, .spl_, .pmc_, .health_, .out_, .free_] s t)
  ∧ (∀ slot die bolt s t, exec (.boltResetDone slot die bolt) s = .next t → TouchesOnly [.regs_, .pins_, .rate_, .intc_, .msixPend_, .bridgeWait_, .keep_, .ham_, .ports_, .lds_, .reqs_, .nextReq_, .cache_, .xlt_, .med_, .coh_, .flush_, .integ_, .cip_, .carts_, .spl_, .pmc_, .health_, .out_, .free_] s t)
  ∧ (∀ slot die bolt s t, exec (.boltResetFail slot die bolt) s = .next t → TouchesOnly [.regs_, .pins_, .rate_, .intc_, .msixPend_, .bridgeWait_, .keep_, .ham_, .ports_, .lds_, .reqs_, .nextReq_, .cache_, .xlt_, .med_, .coh_, .flush_, .integ_, .cip_, .carts_, .spl_, .pmc_, .health_, .out_, .free_] s t)
  ∧ (∀ group s t, exec (.gcCollect group) s = .next t → TouchesOnly [.regs_, .pins_, .intc_, .msixPend_, .keep_, .ham_, .lds_, .xlt_, .med_, .pmc_, .health_, .out_, .free_] s t)
  ∧ (∀ group s t, exec (.refreshRun group) s = .next t → TouchesOnly [.regs_, .pins_, .intc_, .msixPend_, .keep_, .ham_, .lds_, .xlt_, .med_, .pmc_, .health_, .out_, .free_] s t)
  ∧ (∀ group s t, exec (.rebuildComplete group) s = .next t → TouchesOnly [.regs_, .pins_, .intc_, .msixPend_, .keep_, .ham_, .lds_, .med_, .health_, .out_, .free_] s t)
  ∧ (∀ group s t, exec (.rebuildInPlace group) s = .next t → TouchesOnly [.regs_, .pins_, .intc_, .msixPend_, .lds_, .med_, .health_, .out_] s t)
  ∧ (∀ s t, exec .ageingTick s = .next t → TouchesOnly [.cache_, .coh_] s t)
  ∧ (∀ entry slice s t, exec (.pinSliceFill entry slice) s = .next t → TouchesOnly [.regs_, .pins_, .rate_, .intc_, .msixPend_, .keep_, .ham_, .lds_, .nextReq_, .cache_, .xlt_, .med_, .integ_, .pmc_, .health_, .out_, .free_] s t)
  ∧ (∀ pcu s t, exec (.cacheDisableComplete pcu) s = .next t → TouchesOnly [.regs_, .pins_, .intc_, .msixPend_, .cache_, .out_] s t)
  ∧ (∀ m bySetWay s t, exec (.linClean m bySetWay) s = .next t → TouchesOnly [.regs_, .pins_, .rate_, .intc_, .msixPend_, .bridgeWait_, .keep_, .ham_, .ports_, .lds_, .reqs_, .nextReq_, .cache_, .xlt_, .med_, .coh_, .flush_, .integ_, .cip_, .carts_, .spl_, .pmc_, .out_, .free_] s t)
  ∧ (∀ m bySetWay s t, exec (.linInvalidate m bySetWay) s = .next t → TouchesOnly [.regs_, .pins_, .rate_, .intc_, .msixPend_, .bridgeWait_, .keep_, .ham_, .ports_, .lds_, .reqs_, .nextReq_, .cache_, .xlt_, .med_, .coh_, .flush_, .integ_, .cip_, .carts_, .spl_, .pmc_, .out_, .free_] s t)
  ∧ (∀ m bySetWay s t, exec (.linCleanInvalidate m bySetWay) s = .next t → TouchesOnly [.regs_, .pins_, .rate_, .intc_, .msixPend_, .bridgeWait_, .keep_, .ham_, .ports_, .lds_, .reqs_, .nextReq_, .cache_, .xlt_, .med_, .coh_, .flush_, .integ_, .cip_, .carts_, .spl_, .pmc_, .out_, .free_] s t)
  ∧ (∀ m bySetWay s t, exec (.linLock m bySetWay) s = .next t → TouchesOnly [.regs_, .pins_, .rate_, .intc_, .msixPend_, .bridgeWait_, .keep_, .ham_, .ports_, .lds_, .reqs_, .nextReq_, .cache_, .xlt_, .med_, .coh_, .flush_, .integ_, .cip_, .carts_, .spl_, .pmc_, .out_, .free_] s t)
  ∧ (∀ m bySetWay s t, exec (.linUnlock m bySetWay) s = .next t → TouchesOnly [.regs_, .pins_, .rate_, .intc_, .msixPend_, .bridgeWait_, .keep_, .ham_, .ports_, .lds_, .reqs_, .nextReq_, .cache_, .xlt_, .med_, .coh_, .flush_, .integ_, .cip_, .carts_, .spl_, .pmc_, .out_, .free_] s t)
  ∧ (∀ m bySetWay s t, exec (.linReadWay m bySetWay) s = .next t → TouchesOnly [.regs_, .pins_, .rate_, .intc_, .msixPend_, .bridgeWait_, .keep_, .ham_, .ports_, .lds_, .reqs_, .nextReq_, .cache_, .xlt_, .med_, .coh_, .flush_, .integ_, .cip_, .carts_, .spl_, .pmc_, .out_, .free_] s t)
  ∧ (∀ m bySetWay s t, exec (.linReservedOp m bySetWay) s = .next t → TouchesOnly [.regs_, .pins_, .rate_, .intc_, .msixPend_, .bridgeWait_, .keep_, .ham_, .ports_, .lds_, .reqs_, .nextReq_, .cache_, .xlt_, .med_, .coh_, .flush_, .integ_, .cip_, .carts_, .spl_, .pmc_, .out_, .free_] s t)
  ∧ (∀ m entry s t, exec (.pcuClean m entry) s = .next t → TouchesOnly [.regs_, .pins_, .rate_, .intc_, .msixPend_, .bridgeWait_, .keep_, .ham_, .ports_, .lds_, .reqs_, .nextReq_, .cache_, .xlt_, .med_, .coh_, .flush_, .integ_, .cip_, .carts_, .spl_, .pmc_, .out_, .free_] s t)
  ∧ (∀ m entry s t, exec (.pcuInvalidate m entry) s = .next t → TouchesOnly [.regs_, .pins_, .rate_, .intc_, .msixPend_, .bridgeWait_, .keep_, .ham_, .ports_, .lds_, .reqs_, .nextReq_, .cache_, .xlt_, .med_, .coh_, .flush_, .integ_, .cip_, .carts_, .spl_, .pmc_, .out_, .free_] s t)
  ∧ (∀ m entry s t, exec (.pcuCleanInvalidate m entry) s = .next t → TouchesOnly [.regs_, .pins_, .rate_, .intc_, .msixPend_, .bridgeWait_, .keep_, .ham_, .ports_, .lds_, .reqs_, .nextReq_, .cache_, .xlt_, .med_, .coh_, .flush_, .integ_, .cip_, .carts_, .spl_, .pmc_, .out_, .free_] s t)
  ∧ (∀ m entry s t, exec (.pcuLock m entry) s = .next t → TouchesOnly [.regs_, .pins_, .rate_, .intc_, .msixPend_, .bridgeWait_, .keep_, .ham_, .ports_, .lds_, .reqs_, .nextReq_, .cache_, .xlt_, .med_, .coh_, .flush_, .integ_, .cip_, .carts_, .spl_, .pmc_, .out_, .free_] s t)
  ∧ (∀ m entry s t, exec (.pcuUnlock m entry) s = .next t → TouchesOnly [.regs_, .pins_, .rate_, .intc_, .msixPend_, .bridgeWait_, .keep_, .ham_, .ports_, .lds_, .reqs_, .nextReq_, .cache_, .xlt_, .med_, .coh_, .flush_, .integ_, .cip_, .carts_, .spl_, .pmc_, .out_, .free_] s t)
  ∧ (∀ m op entry s t, exec (.pcuReservedOp m op entry) s = .next t → TouchesOnly [.regs_, .pins_, .rate_, .intc_, .msixPend_, .bridgeWait_, .keep_, .ham_, .ports_, .lds_, .reqs_, .nextReq_, .cache_, .xlt_, .med_, .coh_, .flush_, .integ_, .cip_, .carts_, .spl_, .pmc_, .out_, .free_] s t)
  ∧ (∀ pcu s t, exec (.maintenanceDone pcu) s = .next t → TouchesOnly [.regs_, .pins_, .rate_, .intc_, .msixPend_, .bridgeWait_, .keep_, .ham_, .ports_, .lds_, .reqs_, .nextReq_, .cache_, .xlt_, .med_, .coh_, .flush_, .integ_, .cip_, .carts_, .spl_, .pmc_, .out_, .free_] s t)
  ∧ (∀ port ld line rsp s t, exec (.birspReceived port ld line rsp) s = .next t → TouchesOnly [.regs_, .pins_, .rate_, .intc_, .msixPend_, .bridgeWait_, .keep_, .ham_, .ports_, .lds_, .reqs_, .nextReq_, .cache_, .xlt_, .med_, .coh_, .flush_, .integ_, .cip_, .carts_, .spl_, .pmc_, .health_, .out_, .free_] s t)
  ∧ (∀ port ld line s t, exec (.biconflictReceived port ld line) s = .next t → TouchesOnly [.regs_, .pins_, .rate_, .intc_, .msixPend_, .keep_, .ham_, .coh_, .out_] s t)
  ∧ (∀ slice s t, exec (.conflictQueueLeave slice) s = .next t → TouchesOnly [.regs_, .pins_, .rate_, .intc_, .msixPend_, .bridgeWait_, .keep_, .ham_, .ports_, .lds_, .reqs_, .nextReq_, .cache_, .xlt_, .med_, .coh_, .flush_, .integ_, .cip_, .carts_, .spl_, .pmc_, .health_, .out_, .free_] s t)
  ∧ (∀ line ld s t, exec (.snoopTimeout line ld) s = .next t → TouchesOnly [.regs_, .pins_, .intc_, .msixPend_, .out_] s t)
  ∧ (∀ m v s t, exec (.suspectClear m v) s = .next t → TouchesOnly [.regs_, .pins_, .rate_, .intc_, .msixPend_, .keep_, .ham_, .ports_, .coh_, .out_] s t)
  ∧ (∀ s t, exec .sharerSweepDone s = .next t → TouchesOnly [.regs_, .pins_, .intc_, .msixPend_, .keep_, .ham_, .lds_, .reqs_, .nextReq_, .cache_, .xlt_, .med_, .coh_, .integ_, .cip_, .carts_, .pmc_, .health_, .out_, .free_] s t)
  ∧ (∀ ns accepted s t, exec (.pfwNAssert ns accepted) s = .next t → TouchesOnly [.regs_, .shadow_, .held_, .sliceDone_, .sliceReg_, .pins_, .intc_, .msixMask_, .msixPend_, .pace_, .bridgeWait_, .seq_, .keep_, .ham_, .start_, .ports_, .lds_, .reqs_, .cache_, .xlt_, .med_, .coh_, .flush_, .integ_, .dbg_, .cip_, .links_, .carts_, .spl_, .grp_, .pmc_, .health_, .out_, .free_] s t)
  ∧ (∀ s t, exec .flushAdmissionStop s = .next t → TouchesOnly [.regs_, .pins_, .rate_, .intc_, .msixPend_, .bridgeWait_, .keep_, .ham_, .ports_, .lds_, .reqs_, .nextReq_, .cache_, .xlt_, .med_, .coh_, .flush_, .integ_, .cip_, .carts_, .spl_, .pmc_, .health_, .out_, .free_] s t)
  ∧ (∀ s t, exec .flushComplete s = .next t → TouchesOnly [.regs_, .shadow_, .held_, .sliceDone_, .sliceReg_, .pins_, .clk_, .intc_, .msixMask_, .msixPend_, .pace_, .bridgeWait_, .seq_, .therm_, .keep_, .ham_, .pat_, .start_, .ports_, .lds_, .reqs_, .cache_, .xlt_, .med_, .coh_, .flush_, .integ_, .dbg_, .cip_, .links_, .carts_, .spl_, .grp_, .pmc_, .health_, .out_] s t)
  ∧ (∀ port s t, exec (.gpfPhase2Request port) s = .next t → TouchesOnly [.regs_, .pins_, .intc_, .msixPend_, .flush_, .out_] s t)
  ∧ (∀ s t, exec .gpfComplete s = .next t → TouchesOnly [.regs_, .shadow_, .held_, .sliceDone_, .sliceReg_, .pins_, .rate_, .intc_, .msixMask_, .msixPend_, .pace_, .bridgeWait_, .seq_, .keep_, .ham_, .start_, .ports_, .lds_, .reqs_, .nextReq_, .cache_, .xlt_, .med_, .coh_, .flush_, .integ_, .dbg_, .cip_, .links_, .carts_, .spl_, .grp_, .pmc_, .health_, .out_, .free_] s t)
  ∧ (∀ ns accepted s t, exec (.porstNAssert ns accepted) s = .next t → TouchesOnly [.regs_, .shadow_, .held_, .sliceDone_, .sliceReg_, .pins_, .intc_, .msixMask_, .msixPend_, .pace_, .bridgeWait_, .seq_, .keep_, .ham_, .start_, .ports_, .lds_, .reqs_, .cache_, .xlt_, .med_, .coh_, .flush_, .integ_, .dbg_, .cip_, .links_, .carts_, .spl_, .grp_, .pmc_, .health_, .out_, .free_] s t)

/-- Frames of the commands of integrity, security, cartridge links, cartridges, spools, the data mover and the interleave group: the parts of the state that each command may change; every other part is as before, the queue of waiting commands in every case, and the register window and the addressed stores wherever they are not named. -/
def Obligations.FrameOfTheOtherCommands : Prop :=
  (∀ ev both sealOf s t, exec (.hbmPatrol ev both sealOf) s = .next t → TouchesOnly [.regs_, .pins_, .rate_, .intc_, .msixPend_, .keep_, .ham_, .lds_, .cache_, .xlt_, .med_, .coh_, .flush_, .integ_, .spl_, .health_, .out_] s t)
  ∧ (∀ m v s t, exec (.injArm m v) s = .next t → TouchesOnly [.regs_, .pins_, .rate_, .intc_, .msixPend_, .keep_, .ham_, .ports_, .integ_, .out_] s t)
  ∧ (∀ m v s t, exec (.injDisarm m v) s = .next t → TouchesOnly [.regs_, .pins_, .rate_, .intc_, .msixPend_, .keep_, .ham_, .ports_, .integ_, .out_] s t)
  ∧ (∀ m v s t, exec (.scrubGo m v) s = .next t → TouchesOnly [.regs_, .pins_, .rate_, .intc_, .msixPend_, .keep_, .ham_, .ports_, .integ_, .out_] s t)
  ∧ (∀ rng line s t, exec (.scrubLine rng line) s = .next t → TouchesOnly [.regs_, .pins_, .rate_, .intc_, .msixPend_, .bridgeWait_, .keep_, .ham_, .ports_, .lds_, .reqs_, .nextReq_, .cache_, .xlt_, .med_, .coh_, .flush_, .integ_, .cip_, .carts_, .spl_, .pmc_, .health_, .out_, .free_] s t)
  ∧ (∀ rng line s t, exec (.scrubMark rng line) s = .next t → TouchesOnly [.regs_, .pins_, .rate_, .intc_, .msixPend_, .bridgeWait_, .keep_, .ham_, .ports_, .lds_, .reqs_, .nextReq_, .cache_, .xlt_, .med_, .coh_, .flush_, .integ_, .cip_, .carts_, .spl_, .pmc_, .health_, .out_, .free_] s t)
  ∧ (∀ s t, exec .scrubComplete s = .next t → TouchesOnly [.regs_, .pins_, .intc_, .msixPend_, .integ_, .out_] s t)
  ∧ (∀ m s t, exec (.dbgMemRead m) s = .next t → TouchesOnly [.regs_, .pins_, .rate_, .intc_, .msixPend_, .bridgeWait_, .keep_, .ham_, .ports_, .lds_, .reqs_, .nextReq_, .cache_, .xlt_, .med_, .coh_, .flush_, .integ_, .dbg_, .cip_, .carts_, .spl_, .pmc_, .health_, .out_, .free_] s t)
  ∧ (∀ m s t, exec (.dbgMemWrite m) s = .next t → TouchesOnly [.regs_, .pins_, .rate_, .intc_, .msixPend_, .bridgeWait_, .keep_, .ham_, .ports_, .lds_, .reqs_, .nextReq_, .cache_, .xlt_, .med_, .coh_, .flush_, .integ_, .dbg_, .cip_, .carts_, .spl_, .pmc_, .health_, .out_, .free_] s t)
  ∧ (∀ s t, exec .dbgMemDone s = .next t → TouchesOnly [.regs_, .pins_, .rate_, .intc_, .msixPend_, .bridgeWait_, .keep_, .ham_, .ports_, .lds_, .reqs_, .nextReq_, .cache_, .xlt_, .med_, .coh_, .flush_, .integ_, .dbg_, .cip_, .carts_, .spl_, .pmc_, .health_, .out_, .free_] s t)
  ∧ (∀ m v s t, exec (.dbgRawRead m v) s = .next t → TouchesOnly [.regs_, .pins_, .rate_, .intc_, .msixPend_, .keep_, .ham_, .ports_, .dbg_, .out_] s t)
  ∧ (∀ sensed s t, exec (.dbgRawDone sensed) s = .next t → TouchesOnly [.regs_, .pins_, .intc_, .msixPend_, .med_, .dbg_, .pmc_, .out_, .free_] s t)
  ∧ (∀ ok doe ld root leaf s t, exec (.spdmSessionEstablish ok doe ld root leaf) s = .next t → TouchesOnly [.regs_, .pins_, .intc_, .msixPend_, .cip_, .out_] s t)
  ∧ (∀ sid s t, exec (.spdmSessionEnd sid) s = .next t → TouchesOnly [.regs_, .pins_, .intc_, .msixPend_, .cip_, .out_] s t)
  ∧ (∀ sid slot chain s t, exec (.setCertificate sid slot chain) s = .next t → TouchesOnly [.regs_, .pins_, .rate_, .intc_, .msixPend_, .keep_, .ham_, .out_] s t)
  ∧ (∀ index s t, exec (.spdmGetMeasurements index) s = .next t → TouchesOnly [.out_] s t)
  ∧ (∀ sid slot key wrote s t, exec (.keyLoad sid slot key wrote) s = .next t → TouchesOnly [.regs_, .pins_, .rate_, .intc_, .msixPend_, .pace_, .bridgeWait_, .seq_, .keep_, .ham_, .start_, .ports_, .lds_, .reqs_, .nextReq_, .cache_, .xlt_, .med_, .coh_, .flush_, .integ_, .cip_, .links_, .carts_, .setId_, .serials_, .spl_, .pmc_, .out_, .free_] s t)
  ∧ (∀ sid slot wrote s t, exec (.keyRetire sid slot wrote) s = .next t → TouchesOnly [.regs_, .pins_, .rate_, .intc_, .msixPend_, .keep_, .ham_, .lds_, .nextReq_, .cache_, .xlt_, .med_, .integ_, .cip_, .carts_, .spl_, .pmc_, .health_, .out_] s t)
  ∧ (∀ sid slot s t, exec (.keyQuery sid slot) s = .next t → TouchesOnly [.regs_, .pins_, .rate_, .intc_, .msixPend_, .keep_, .ham_, .out_] s t)
  ∧ (∀ sid good s t, exec (.haltFlush sid good) s = .next t → TouchesOnly [.regs_, .pins_, .rate_, .intc_, .msixPend_, .bridgeWait_, .keep_, .ham_, .ports_, .lds_, .reqs_, .nextReq_, .cache_, .xlt_, .med_, .coh_, .flush_, .integ_, .cip_, .links_, .carts_, .spl_, .pmc_, .out_, .free_] s t)
  ∧ (∀ s t, exec .haltFlushComplete s = .next t → TouchesOnly [.regs_, .pins_, .intc_, .msixPend_, .keep_, .xlt_, .flush_, .cip_, .links_, .carts_, .out_] s t)
  ∧ (∀ sid opcode s t, exec (.keyCommandUnknown sid opcode) s = .next t → TouchesOnly [.regs_, .pins_, .rate_, .intc_, .msixPend_, .keep_, .ham_, .out_] s t)
  ∧ (∀ m v wrote s t, exec (.cipKeyCmdRetire m v wrote) s = .next t → TouchesOnly [.regs_, .pins_, .rate_, .intc_, .msixPend_, .keep_, .ham_, .ports_, .lds_, .nextReq_, .cache_, .xlt_, .med_, .integ_, .cip_, .carts_, .spl_, .pmc_, .health_, .out_] s t)
  ∧ (∀ s t, exec .retireComplete s = .next t → TouchesOnly [.regs_, .pins_, .intc_, .msixPend_, .keep_, .ham_, .lds_, .nextReq_, .cache_, .xlt_, .med_, .integ_, .cip_, .carts_, .pmc_, .health_, .out_] s t)
  ∧ (∀ port mem go s t, exec (.ideKmKeyProgram port mem go) s = .next t → TouchesOnly [.cip_] s t)
  ∧ (∀ port mem skid lines s t, exec (.ideIntegrityFail port mem skid lines) s = .next t → TouchesOnly [.regs_, .pins_, .intc_, .msixPend_, .keep_, .ham_, .lds_, .reqs_, .nextReq_, .cache_, .xlt_, .med_, .integ_, .cip_, .carts_, .pmc_, .health_, .out_, .free_] s t)
  ∧ (∀ slot h word s t, exec (.keychkFlitReceived slot h word) s = .next t → TouchesOnly [.regs_, .pins_, .rate_, .intc_, .msixPend_, .bridgeWait_, .keep_, .ham_, .start_, .ports_, .lds_, .reqs_, .nextReq_, .cache_, .xlt_, .med_, .coh_, .flush_, .integ_, .cip_, .links_, .carts_, .spl_, .grp_, .pmc_, .health_, .out_, .free_] s t)
  ∧ (∀ slot h s t, exec (.keyfailFlitReceived slot h) s = .next t → TouchesOnly [.regs_, .pins_, .rate_, .intc_, .msixPend_, .bridgeWait_, .keep_, .ham_, .start_, .ports_, .lds_, .reqs_, .nextReq_, .cache_, .xlt_, .med_, .coh_, .flush_, .integ_, .cip_, .links_, .carts_, .spl_, .grp_, .pmc_, .health_, .out_, .free_] s t)
  ∧ (∀ slot s t, exec (.keychkSend slot) s = .next t → TouchesOnly [.regs_, .pins_, .intc_, .msixPend_, .cip_, .links_, .pmc_, .out_] s t)
  ∧ (∀ slot h tag status payload s t, exec (.rspFlit slot h tag status payload) s = .next t → TouchesOnly [.regs_, .pins_, .rate_, .intc_, .msixPend_, .pace_, .bridgeWait_, .seq_, .keep_, .ham_, .start_, .ports_, .lds_, .reqs_, .nextReq_, .cache_, .xlt_, .med_, .coh_, .flush_, .integ_, .cip_, .links_, .carts_, .setId_, .serials_, .spl_, .pmc_, .health_, .out_, .free_] s t)
  ∧ (∀ slot h tag part s t, exec (.dataFlit slot h tag part) s = .next t → TouchesOnly [.regs_, .pins_, .rate_, .intc_, .msixPend_, .pace_, .bridgeWait_, .seq_, .keep_, .ham_, .start_, .ports_, .lds_, .reqs_, .nextReq_, .cache_, .xlt_, .med_, .coh_, .flush_, .integ_, .cip_, .links_, .carts_, .setId_, .serials_, .spl_, .pmc_, .health_, .out_, .free_] s t)
  ∧ (∀ slot h reason count s t, exec (.nakFlit slot h reason count) s = .next t → TouchesOnly [.regs_, .pins_, .rate_, .intc_, .msixPend_, .bridgeWait_, .keep_, .ham_, .ports_, .lds_, .reqs_, .nextReq_, .cache_, .xlt_, .med_, .coh_, .flush_, .integ_, .cip_, .links_, .carts_, .spl_, .pmc_, .health_, .out_, .free_] s t)
  ∧ (∀ slot s t, exec (.retrainTimeout slot) s = .next t → TouchesOnly [.regs_, .pins_, .intc_, .msixPend_, .lds_, .med_, .links_, .health_, .out_] s t)
  ∧ (∀ slot h temp failed power flags s t, exec (.statusFlit slot h temp failed power flags) s = .next t → TouchesOnly [.regs_, .pins_, .rate_, .intc_, .msixPend_, .bridgeWait_, .keep_, .ham_, .ports_, .lds_, .reqs_, .nextReq_, .cache_, .xlt_, .med_, .coh_, .flush_, .integ_, .cip_, .links_, .carts_, .spl_, .pmc_, .health_, .out_, .free_] s t)
  ∧ (∀ slot s t, exec (.statusTimeout slot) s = .next t → TouchesOnly [.regs_, .pins_, .intc_, .msixPend_, .lds_, .carts_, .health_, .out_] s t)
  ∧ (∀ slot h s t, exec (.idleFlit slot h) s = .next t → TouchesOnly [.regs_, .pins_, .rate_, .intc_, .msixPend_, .bridgeWait_, .keep_, .ham_, .ports_, .lds_, .reqs_, .nextReq_, .cache_, .xlt_, .med_, .coh_, .flush_, .integ_, .cip_, .links_, .carts_, .spl_, .pmc_, .health_, .out_, .free_] s t)
  ∧ (∀ slot crc s t, exec (.flitCorrupt slot crc) s = .next t → TouchesOnly [.regs_, .pins_, .intc_, .msixPend_, .links_, .pmc_, .out_] s t)
  ∧ (∀ slot s t, exec (.replayTimeout slot) s = .next t → TouchesOnly [.regs_, .pins_, .rate_, .intc_, .msixPend_, .bridgeWait_, .keep_, .ham_, .ports_, .lds_, .reqs_, .nextReq_, .cache_, .xlt_, .med_, .coh_, .flush_, .integ_, .cip_, .links_, .carts_, .spl_, .pmc_, .health_, .out_, .free_] s t)
  ∧ (∀ slot tag s t, exec (.responseTimeout slot tag) s = .next t → TouchesOnly [.regs_, .pins_, .rate_, .intc_, .msixPend_, .pace_, .bridgeWait_, .seq_, .keep_, .ham_, .start_, .ports_, .lds_, .reqs_, .nextReq_, .cache_, .xlt_, .med_, .coh_, .flush_, .integ_, .cip_, .links_, .carts_, .setId_, .serials_, .spl_, .pmc_, .health_, .out_, .free_] s t)
  ∧ (∀ slot lane s t, exec (.laneSparing slot lane) s = .next t → TouchesOnly [.regs_, .pins_, .rate_, .intc_, .msixPend_, .bridgeWait_, .keep_, .ham_, .ports_, .lds_, .reqs_, .nextReq_, .cache_, .xlt_, .med_, .coh_, .flush_, .integ_, .cip_, .links_, .carts_, .spl_, .pmc_, .health_, .out_, .free_] s t)
  ∧ (∀ slot s t, exec (.linkBringupTimeout slot) s = .next t → TouchesOnly [.regs_, .pins_, .rate_, .intc_, .msixPend_, .bridgeWait_, .keep_, .ham_, .ports_, .lds_, .reqs_, .nextReq_, .cache_, .xlt_, .med_, .coh_, .flush_, .integ_, .cip_, .links_, .carts_, .spl_, .pmc_, .health_, .out_, .free_] s t)
  ∧ (∀ slot h msg s t, exec (.hello slot h msg) s = .next t → TouchesOnly [.regs_, .pins_, .rate_, .intc_, .msixPend_, .bridgeWait_, .keep_, .ham_, .ports_, .lds_, .reqs_, .nextReq_, .cache_, .xlt_, .med_, .coh_, .flush_, .integ_, .cip_, .links_, .carts_, .spl_, .pmc_, .health_, .out_, .free_] s t)
  ∧ (∀ slot h s t, exec (.pairPub slot h) s = .next t → TouchesOnly [.regs_, .pins_, .rate_, .intc_, .msixPend_, .bridgeWait_, .keep_, .ham_, .ports_, .lds_, .reqs_, .nextReq_, .cache_, .xlt_, .med_, .coh_, .flush_, .integ_, .cip_, .links_, .carts_, .spl_, .pmc_, .out_, .free_] s t)
  ∧ (∀ slot s t, exec (.pairKey slot) s = .next t → TouchesOnly [.regs_, .pins_, .intc_, .msixPend_, .links_, .pmc_, .out_] s t)
  ∧ (∀ slot h keyId s t, exec (.pairOk slot h keyId) s = .next t → TouchesOnly [.regs_, .pins_, .rate_, .intc_, .msixPend_, .bridgeWait_, .keep_, .ham_, .ports_, .lds_, .reqs_, .nextReq_, .cache_, .xlt_, .med_, .coh_, .flush_, .integ_, .cip_, .links_, .carts_, .spl_, .pmc_, .out_, .free_] s t)
  ∧ (∀ slot s t, exec (.unpair slot) s = .next t → TouchesOnly [.regs_, .pins_, .intc_, .msixPend_, .links_, .pmc_, .out_, .free_] s t)
  ∧ (∀ slot psa lslot refSet s t, exec (.readLine slot psa lslot refSet) s = .next t → TouchesOnly [.regs_, .pins_, .intc_, .msixPend_, .links_, .pmc_, .out_] s t)
  ∧ (∀ slot psa s t, exec (.readPage slot psa) s = .next t → TouchesOnly [.regs_, .pins_, .intc_, .msixPend_, .links_, .pmc_, .out_] s t)
  ∧ (∀ slot psa s t, exec (.program slot psa) s = .next t → TouchesOnly [.regs_, .pins_, .intc_, .msixPend_, .med_, .links_, .pmc_, .out_] s t)
  ∧ (∀ slot die bolt s t, exec (.reset slot die bolt) s = .next t → TouchesOnly [.regs_, .pins_, .intc_, .msixPend_, .links_, .pmc_, .out_] s t)
  ∧ (∀ slot die first n s t, exec (.ledgerRead slot die first n) s = .next t → TouchesOnly [.regs_, .pins_, .intc_, .msixPend_, .links_, .pmc_, .out_] s t)
  ∧ (∀ slot die bolt s t, exec (.ledgerWrite slot die bolt) s = .next t → TouchesOnly [.regs_, .pins_, .intc_, .msixPend_, .links_, .pmc_, .out_] s t)
  ∧ (∀ slot block s t, exec (.rsvRead slot block) s = .next t → TouchesOnly [.regs_, .pins_, .intc_, .msixPend_, .links_, .pmc_, .out_] s t)
  ∧ (∀ slot block bytes s t, exec (.rsvWrite slot block bytes) s = .next t → TouchesOnly [.regs_, .pins_, .intc_, .msixPend_, .links_, .carts_, .pmc_, .out_] s t)
  ∧ (∀ slot s t, exec (.ident slot) s = .next t → TouchesOnly [.regs_, .pins_, .intc_, .msixPend_, .links_, .pmc_, .out_] s t)
  ∧ (∀ slot s t, exec (.health slot) s = .next t → TouchesOnly [.regs_, .pins_, .intc_, .msixPend_, .links_, .pmc_, .out_] s t)
  ∧ (∀ slot s t, exec (.setRecord slot) s = .next t → TouchesOnly [.regs_, .pins_, .intc_, .msixPend_, .links_, .pmc_, .out_] s t)
  ∧ (∀ slot s t, exec (.indicator slot) s = .next t → TouchesOnly [.regs_, .pins_, .intc_, .msixPend_, .links_, .pmc_, .out_] s t)
  ∧ (∀ slot s t, exec (.quiesce slot) s = .next t → TouchesOnly [.regs_, .pins_, .intc_, .msixPend_, .links_, .pmc_, .out_] s t)
  ∧ (∀ m slot s t, exec (.vlkRetrain m slot) s = .next t → TouchesOnly [.regs_, .pins_, .rate_, .intc_, .msixPend_, .bridgeWait_, .keep_, .ham_, .ports_, .lds_, .reqs_, .nextReq_, .cache_, .xlt_, .med_, .coh_, .flush_, .integ_, .cip_, .links_, .carts_, .spl_, .pmc_, .health_, .out_, .free_] s t)
  ∧ (∀ m slot s t, exec (.unquarantine m slot) s = .next t → TouchesOnly [.regs_, .pins_, .rate_, .intc_, .msixPend_, .keep_, .ham_, .ports_, .lds_, .cip_, .links_, .carts_, .health_, .out_] s t)
  ∧ (∀ slot seated s t, exec (.presenceChange slot seated) s = .next t → TouchesOnly [.regs_, .pins_, .rate_, .intc_, .msixPend_, .pace_, .bridgeWait_, .seq_, .keep_, .ham_, .start_, .ports_, .lds_, .reqs_, .nextReq_, .cache_, .xlt_, .med_, .coh_, .flush_, .integ_, .cip_, .links_, .carts_, .setId_, .serials_, .spl_, .pmc_, .health_, .out_, .free_] s t)
  ∧ (∀ slot s t, exec (.attention slot) s = .next t → TouchesOnly [.regs_, .pins_, .intc_, .msixPend_, .keep_, .ham_, .lds_, .xlt_, .med_, .carts_, .health_, .out_, .free_] s t)
  ∧ (∀ m slot s t, exec (.claim m slot) s = .next t → TouchesOnly [.regs_, .pins_, .rate_, .intc_, .msixPend_, .keep_, .ham_, .ports_, .carts_, .out_] s t)
  ∧ (∀ slot linkOk bad s t, exec (.claimComplete slot linkOk bad) s = .next t → TouchesOnly [.regs_, .pins_, .rate_, .intc_, .msixPend_, .pace_, .bridgeWait_, .seq_, .keep_, .ham_, .start_, .ports_, .lds_, .reqs_, .nextReq_, .cache_, .xlt_, .med_, .coh_, .flush_, .integ_, .cip_, .links_, .carts_, .setId_, .serials_, .spl_, .pmc_, .health_, .out_, .free_] s t)
  ∧ (∀ m slot s t, exec (.carPair m slot) s = .next t → TouchesOnly [.regs_, .pins_, .rate_, .intc_, .msixPend_, .keep_, .ham_, .ports_, .links_, .carts_, .pmc_, .out_, .free_] s t)
  ∧ (∀ m slot s t, exec (.readmit m slot) s = .next t → TouchesOnly [.regs_, .pins_, .rate_, .intc_, .msixPend_, .keep_, .ham_, .ports_, .med_, .carts_, .out_] s t)
  ∧ (∀ m slot s t, exec (.locateOn m slot) s = .next t → TouchesOnly [.regs_, .pins_, .rate_, .intc_, .msixPend_, .keep_, .ham_, .ports_, .carts_, .out_] s t)
  ∧ (∀ m slot s t, exec (.locateOff m slot) s = .next t → TouchesOnly [.regs_, .pins_, .rate_, .intc_, .msixPend_, .keep_, .ham_, .ports_, .carts_, .out_] s t)
  ∧ (∀ m w v s t, exec (.spoolContextWrite m w v) s = .next t → TouchesOnly [.regs_, .pins_, .rate_, .intc_, .msixPend_, .keep_, .ham_, .ports_, .spl_, .out_] s t)
  ∧ (∀ m v s t, exec (.spoolDoorbell m v) s = .next t → TouchesOnly [.regs_, .pins_, .rate_, .intc_, .msixPend_, .keep_, .ham_, .ports_, .spl_, .out_] s t)
  ∧ (∀ spool readable s t, exec (.copy spool readable) s = .next t → TouchesOnly [.regs_, .pins_, .intc_, .msixPend_, .spl_, .pmc_, .out_, .free_] s t)
  ∧ (∀ spool readable s t, exec (.fill spool readable) s = .next t → TouchesOnly [.regs_, .pins_, .intc_, .msixPend_, .spl_, .pmc_, .out_, .free_] s t)
  ∧ (∀ spool readable s t, exec (.secureDiscard spool readable) s = .next t → TouchesOnly [.regs_, .pins_, .intc_, .msixPend_, .spl_, .pmc_, .out_, .free_] s t)
  ∧ (∀ spool readable s t, exec (.scrubRange spool readable) s = .next t → TouchesOnly [.regs_, .pins_, .intc_, .msixPend_, .spl_, .pmc_, .out_, .free_] s t)
  ∧ (∀ spool readable s t, exec (.persistFence spool readable) s = .next t → TouchesOnly [.regs_, .pins_, .intc_, .msixPend_, .spl_, .pmc_, .out_, .free_] s t)
  ∧ (∀ spool readable s t, exec (.prefetch spool readable) s = .next t → TouchesOnly [.regs_, .pins_, .intc_, .msixPend_, .spl_, .pmc_, .out_, .free_] s t)
  ∧ (∀ spool readable s t, exec (.pin spool readable) s = .next t → TouchesOnly [.regs_, .pins_, .intc_, .msixPend_, .spl_, .pmc_, .out_, .free_] s t)
  ∧ (∀ spool readable s t, exec (.unpin spool readable) s = .next t → TouchesOnly [.regs_, .pins_, .intc_, .msixPend_, .spl_, .pmc_, .out_, .free_] s t)
  ∧ (∀ spool readable s t, exec (.lockRange spool readable) s = .next t → TouchesOnly [.regs_, .pins_, .intc_, .msixPend_, .spl_, .pmc_, .out_, .free_] s t)
  ∧ (∀ spool readable s t, exec (.clean spool readable) s = .next t → TouchesOnly [.regs_, .pins_, .intc_, .msixPend_, .spl_, .pmc_, .out_, .free_] s t)
  ∧ (∀ spool readable s t, exec (.invalidate spool readable) s = .next t → TouchesOnly [.regs_, .pins_, .intc_, .msixPend_, .spl_, .pmc_, .out_, .free_] s t)
  ∧ (∀ spool readable s t, exec (.cleanInvalidate spool readable) s = .next t → TouchesOnly [.regs_, .pins_, .intc_, .msixPend_, .spl_, .pmc_, .out_, .free_] s t)
  ∧ (∀ spool readable s t, exec (.darn spool readable) s = .next t → TouchesOnly [.regs_, .pins_, .intc_, .msixPend_, .spl_, .pmc_, .out_, .free_] s t)
  ∧ (∀ spool readable s t, exec (.rekeyRange spool readable) s = .next t → TouchesOnly [.regs_, .pins_, .intc_, .msixPend_, .spl_, .pmc_, .out_, .free_] s t)
  ∧ (∀ spool readable s t, exec (.export_ spool readable) s = .next t → TouchesOnly [.regs_, .pins_, .intc_, .msixPend_, .spl_, .pmc_, .out_, .free_] s t)
  ∧ (∀ spool readable s t, exec (.import_ spool readable) s = .next t → TouchesOnly [.regs_, .pins_, .intc_, .msixPend_, .spl_, .pmc_, .out_, .free_] s t)
  ∧ (∀ spool readable s t, exec (.verify spool readable) s = .next t → TouchesOnly [.regs_, .pins_, .intc_, .msixPend_, .spl_, .pmc_, .out_, .free_] s t)
  ∧ (∀ spool readable s t, exec (.sampleDrain spool readable) s = .next t → TouchesOnly [.regs_, .pins_, .intc_, .msixPend_, .spl_, .pmc_, .out_, .free_] s t)
  ∧ (∀ op wrote s t, exec (.dataMoverLine op wrote) s = .next t → TouchesOnly [.regs_, .pins_, .rate_, .intc_, .msixPend_, .bridgeWait_, .keep_, .ham_, .ports_, .lds_, .reqs_, .nextReq_, .cache_, .xlt_, .med_, .coh_, .flush_, .integ_, .cip_, .carts_, .spl_, .pmc_, .health_, .out_, .free_] s t)
  ∧ (∀ op s t, exec (.opCompletionPost op) s = .next t → TouchesOnly [.regs_, .pins_, .rate_, .intc_, .msixPend_, .keep_, .ham_, .lds_, .reqs_, .nextReq_, .cache_, .xlt_, .med_, .coh_, .integ_, .cip_, .carts_, .spl_, .pmc_, .out_, .free_] s t)
  ∧ (∀ spool s t, exec (.stalenessTimer spool) s = .next t → TouchesOnly [.regs_, .pins_, .intc_, .msixPend_, .spl_, .out_] s t)
  ∧ (∀ s t, exec .rollCallSend s = .next t → TouchesOnly [.out_] s t)
  ∧ (∀ r linkNs s t, exec (.rollCallReceive r linkNs) s = .next t → TouchesOnly [.regs_, .pins_, .clk_, .rate_, .intc_, .msixPend_, .keep_, .ham_, .lds_, .flush_, .grp_, .health_, .out_] s t)
  ∧ (∀ k s t, exec (.memberSilent k) s = .next t → TouchesOnly [.regs_, .pins_, .intc_, .msixPend_, .grp_, .out_] s t)
  ∧ (∀ slot width lane s t, exec (.fecLock slot width lane) s = .next t → TouchesOnly [.regs_, .pins_, .intc_, .msixPend_, .links_, .pmc_, .out_, .free_] s t)
  ∧ (∀ slot s t, exec (.cartridgeLinkDown slot) s = .next t → TouchesOnly [.regs_, .pins_, .rate_, .intc_, .msixPend_, .bridgeWait_, .keep_, .ham_, .ports_, .lds_, .reqs_, .nextReq_, .cache_, .xlt_, .med_, .coh_, .flush_, .integ_, .cip_, .links_, .carts_, .spl_, .pmc_, .health_, .out_, .free_] s t)
  ∧ (∀ bucket s t, exec (.bucketRebuildDone bucket) s = .next t → TouchesOnly [.regs_, .pins_, .intc_, .msixPend_, .reqs_, .xlt_, .out_] s t)
  ∧ (∀ ir s t, exec (.tapInstruction ir) s = .next t → TouchesOnly [.dbg_] s t)

/-- Registers that a command does not reach: where a command's effect and what it reports touch some blocks of the register window alone (numbers of 64 KiB blocks of Table 02-9: 0 TOP, 1 PWS, 3 KPS, 4 HMP, 5 INT, 6 PMC, 18 CAR, 20 LIN, 21 PCU, 22 XLT, 24 MED, 26 COH, 27 CIP, 28 SCB, 29 to 31 SPL, 32 SLC, 48 DBG), every register of every other block reads as before. -/
def Obligations.RegisterFrames : Prop :=
  (∀ s t, exec .governorDecision s = .next t → RegsBut [1] s t)
  ∧ (∀ s t, exec .paceLowDeclared s = .next t → RegsBut [1, 5] s t)
  ∧ (∀ s t, exec .paceCollapse s = .next t → RegsBut [1, 5] s t)
  ∧ (∀ s t, exec .collapseEnd s = .next t → RegsBut [1] s t)
  ∧ (∀ s t, exec .paceLowEnd s = .next t → RegsBut [1, 5] s t)
  ∧ (∀ ok s t, exec (.avsAcknowledge ok) s = .next t → RegsBut [1, 5] s t)
  ∧ (∀ s t, exec .avsAckTimeout s = .next t → RegsBut [1, 5] s t)
  ∧ (∀ s t, exec .avsHoldRetry s = .next t → RegsBut [1] s t)
  ∧ (∀ m s t, okMaster m = true → exec (.eraseSlot m) s = .next t → RegsBut [0, 3, 4, 5, 27] s t)
  ∧ (∀ m s t, okMaster m = true → exec (.ptuProgram m) s = .next t → RegsBut [0, 3, 4, 5, 27] s t)
  ∧ (∀ m s t, okMaster m = true → exec (.ptuRead m) s = .next t → RegsBut [0, 3, 4, 5, 27] s t)
  ∧ (∀ m s t, okMaster m = true → exec (.ptuVerify m) s = .next t → RegsBut [0, 3, 4, 5, 27] s t)
  ∧ (∀ m s t, okMaster m = true → exec (.liveApply m) s = .next t → RegsBut [0, 3, 4, 5, 27] s t)
  ∧ (∀ m cmd s t, okMaster m = true → exec (.ptuReservedCmd m cmd) s = .next t → RegsBut [0, 3, 4, 5, 27] s t)
  ∧ (∀ m slice s t, okMaster m = true → okSlice slice = true → exec (.latClear m slice) s = .next t → RegsBut [3, 4, 5, 27, 32] s t)
  ∧ (∀ m hi s t, okMaster m = true → exec (.darnRequest m hi) s = .next t → RegsBut [3, 4, 5, 22, 27] s t)
  ∧ (∀ s t, exec .darnQueueRoom s = .next t → RegsBut [5] s t)
  ∧ (∀ s t, exec .checkpointLate s = .next t → RegsBut [5, 22] s t)
  ∧ (∀ s t, exec .timePairWrite s = .next t → RegsBut [3, 5] s t)
  ∧ (∀ block scan us s t, exec (.mapBlockRepairDone block scan us) s = .next t → RegsBut [3, 4, 5, 22] s t)
  ∧ (∀ entry slice s t, exec (.pinSliceFill entry slice) s = .next t → RegsBut [0, 3, 4, 5, 6, 20, 27, 28] s t)
  ∧ (∀ pcu s t, exec (.cacheDisableComplete pcu) s = .next t → RegsBut [5, 20, 21] s t)
  ∧ (∀ line ld s t, exec (.snoopTimeout line ld) s = .next t → RegsBut [5, 26] s t)
  ∧ (∀ m v s t, okMaster m = true → exec (.suspectClear m v) s = .next t → RegsBut [3, 4, 5, 26, 27] s t)
  ∧ (∀ m v s t, okMaster m = true → exec (.injArm m v) s = .next t → RegsBut [3, 4, 5, 27, 28] s t)
  ∧ (∀ m v s t, okMaster m = true → exec (.injDisarm m v) s = .next t → RegsBut [3, 4, 5, 27, 28] s t)
  ∧ (∀ m v s t, okMaster m = true → exec (.scrubGo m v) s = .next t → RegsBut [3, 4, 5, 27, 28] s t)
  ∧ (∀ m v s t, okMaster m = true → exec (.dbgRawRead m v) s = .next t → RegsBut [3, 4, 5, 27, 48] s t)
  ∧ (∀ ok doe ld root leaf s t, exec (.spdmSessionEstablish ok doe ld root leaf) s = .next t → RegsBut [5] s t)
  ∧ (∀ sid s t, exec (.spdmSessionEnd sid) s = .next t → RegsBut [5] s t)
  ∧ (∀ m port s t, okMaster m = true → exec (.portRetrain m port) s = .next t → RegsBut [3, 4, 5, 8, 27] s t)
  ∧ (∀ ld write addr bytes n s t, okLd ld = true → exec (.bar2Access ld write addr bytes n) s = .next t → RegsBut [3, 4, 5, 27] s t)
  ∧ (∀ ld t_ s t, exec (.setTimestamp ld t_) s = .next t → RegsBut [3, 4, 5, 22] s t)
  ∧ (∀ ldMask base len s t, exec (.initiateDynamicCapacityAdd ldMask base len) s = .next t → RegsBut [5] s t)
  ∧ (∀ m slot s t, okMaster m = true → okSlot slot = true → exec (.claim m slot) s = .next t → RegsBut [3, 4, 5, 18, 27] s t)
  ∧ (∀ m slot s t, okMaster m = true → okSlot slot = true → exec (.carPair m slot) s = .next t → RegsBut [3, 4, 5, 6, 18, 27] s t)
  ∧ (∀ m slot s t, okMaster m = true → okSlot slot = true → exec (.locateOn m slot) s = .next t → RegsBut [3, 4, 5, 18, 27] s t)
  ∧ (∀ m slot s t, okMaster m = true → okSlot slot = true → exec (.locateOff m slot) s = .next t → RegsBut [3, 4, 5, 18, 27] s t)
  ∧ (∀ m w v s t, okMaster m = true → exec (.spoolContextWrite m w v) s = .next t → RegsBut [3, 4, 5, 27, 29, 31] s t)
  ∧ (∀ k s t, exec (.memberSilent k) s = .next t → RegsBut [5, 7] s t)
  ∧ (∀ s t, exec .holdingBufferWrite s = .next t → RegsBut [1, 4, 5] s t)
  ∧ (∀ m w v s t, okMaster m = true → exec (.tackWrite m w v) s = .next t → RegsBut [3, 4, 5, 27] s t)
  ∧ (∀ m page s t, okMaster m = true → exec (.hemProgram m page) s = .next t → RegsBut [3, 4, 5, 27] s t)
  ∧ (∀ verified s t, exec (.hemProgramDone verified) s = .next t → RegsBut [3, 5] s t)
  ∧ (∀ m page s t, okMaster m = true → exec (.hemPageLoad m page) s = .next t → RegsBut [3, 4, 5, 27] s t)
  ∧ (∀ s t, exec .powerOnHour s = .next t → RegsBut [3, 5] s t)
  ∧ (∀ m v s t, okMaster m = true → exec (.intDoorbellWrite m v) s = .next t → RegsBut [3, 4, 5, 27] s t)
  ∧ (∀ m t_ v s t, okMaster m = true → t_ < 17 → exec (.intAck m t_ v) s = .next t → RegsBut [3, 4, 5, 27] s t)
  ∧ (∀ s t, exec .alertReassert s = .next t → RegsBut [5] s t)
  ∧ (∀ m s t, okMaster m = true → exec (.pmcRead m) s = .next t → RegsBut [3, 4, 5, 6, 27] s t)
  ∧ (∀ m s t, okMaster m = true → exec (.pmcZero m) s = .next t → RegsBut [3, 4, 5, 6, 27] s t)
  ∧ (∀ s t, exec .readerPassTimer s = .next t → RegsBut [6] s t)
  ∧ (∀ m count s t, okMaster m = true → exec (.samplePop m count) s = .next t → RegsBut [3, 4, 5, 6, 27] s t)
  ∧ (∀ bucket s t, exec (.bucketRebuildDone bucket) s = .next t → RegsBut [5] s t)

/-- For every state whose register window, Tack, Hem, spool memory and Pattern flash are in canonical form (keys rising, no entry that reads as an unlisted one), so is every state that a step from it answers. -/
def Obligations.StepKeepsTheCanonicalForm : Prop :=
  ∀ s t : State, s.canon → step s = .next t → t.canon

/-- For every state in which each request in flight has a number below the next one to be given, so it is after every step: no request takes the number of another (numbers are the model's, log 10). -/
def Obligations.StepKeepsRequestNumbersFresh : Prop :=
  ∀ s t : State, s.freshNumbers → step s = .next t → t.freshNumbers

/-- Reset (R441, R529): no command waits; every register reads its reset value; no cause bit, presentation or unseen mark; nothing is in flight; the addressed stores are in canonical form and no request has a number. The value of a register or store for which the spec gives none is the model's (logs 1 to 8). -/
def Obligations.ResetState : Prop :=
  State.reset.pending = [] ∧ (∀ o, State.reset.reg o = regReset o) ∧ State.reset.canon ∧ State.reset.freshNumbers ∧ (∀ n, n < 1024 → State.reset.fired n = false)
    ∧ (∀ k, k < 17 → State.reset.curAt k = none) ∧ State.reset.reqs = [] ∧ State.reset.clk.awake = false ∧ State.reset.memActive = false

/-- The Lining (R29, R30, R194): the set of a line lies in the range that its slice owns, and no two lines of the mapped address space share both their set and their computed tag, so no line bit is lost; for both ordering codes. -/
def Obligations.LiningSetNamesTheLine : Prop :=
  (∀ (o : Order) (l : Nat), sliceOf l * (liningSets o / 8) ≤ liningSet o l ∧ liningSet o l < (sliceOf l + 1) * (liningSets o / 8))
  ∧ (∀ (o : Order) (a b : Nat), a < 2 ^ 39 → b < 2 ^ 39 → liningSet o a = liningSet o b → liningTag o a = liningTag o b → a = b)

/-- A line at or above the maximum mapped capacity is undecoded, as is one that lies in no active region or extent of the requesting LD (R28); the capacities of both ordering codes. -/
def Obligations.UndecodedLines : Prop :=
  maxMapped .h72 = 2 ^ 45 ∧ maxMapped .h48 = 20 * 2 ^ 40
  ∧ (∀ (s : State) (ld : Option Nat) (l : Nat), maxMapped s.order ≤ l * 64 → s.decoded ld l = false)
  ∧ (∀ (s : State) (ld : Option Nat) (l : Nat), s.regionAt l = none → s.decoded ld l = false)
  ∧ (∀ (s : State) (n l i : Nat) (r : Region), s.regionAt l = some (i, r) →
      s.regionActive i = false ∨ r.forLd n = false ∨ (r.dcd = true ∧ s.inExtent (some n) l = false) → s.decoded (some n) l = false)

/-- R523: an ACK whose number is not the target's current source, or that arrives while the target presents nothing, has no effect and counts in INT.TGT_STATUS.ACK_MISS; the writer gets its answer. -/
def Obligations.AcknowledgeOfNoCurrentSource : Prop :=
  ∀ (s : State) (m : Nat) (k : Nat) (v : Word), s.mayTarget m k = true → s.mayWrite m (0x51008 + 0x100 * k) = true →
    s.curAt k ≠ some (v.toNat % 1024) → ∃ t, exec (.intAck m k v) s = .next t
    ∧ t = (s.countF (INT.TGT_STATUS_ACK_MISS k) 1).report m (0x51008 + 0x100 * k) .ok

/-- R51: a write of PTU_CMD, PTU_ADDR or PTU_BUF by any other master is a bus error and changes nothing. -/
def Obligations.PatternUpdateWritesOfOtherMasters : Prop :=
  (∀ (s : State) (m : Nat), s.clk.awake = true → isMgmt m = false → ∃ t, exec (.eraseSlot m) s = .next t ∧ t = s.report m 0x80 .busError)
  ∧ (∀ (s : State) (m : Nat), s.clk.awake = true → isMgmt m = false → ∃ t, exec (.ptuProgram m) s = .next t ∧ t = s.report m 0x80 .busError)
  ∧ (∀ (s : State) (m : Nat), s.clk.awake = true → isMgmt m = false → ∃ t, exec (.ptuRead m) s = .next t ∧ t = s.report m 0x80 .busError)
  ∧ (∀ (s : State) (m : Nat), s.clk.awake = true → isMgmt m = false → ∃ t, exec (.ptuVerify m) s = .next t ∧ t = s.report m 0x80 .busError)
  ∧ (∀ (s : State) (m : Nat), s.clk.awake = true → isMgmt m = false → ∃ t, exec (.liveApply m) s = .next t ∧ t = s.report m 0x80 .busError)
  ∧ (∀ (s : State) (m : Nat) (cmd : Nat), s.clk.awake = true → isMgmt m = false → (cmd = 6 ∨ cmd = 7) →
      ∃ t, exec (.ptuReservedCmd m cmd) s = .next t ∧ t = s.report m 0x80 .busError)
  ∧ (∀ (s : State) (m : Nat) (a : Nat) (v : Word) (full : Bool), s.clk.awake = true → isMgmt m = false → (a = 0x80 ∨ a = 0x84 ∨ (0x100 ≤ a
      ∧ a < 0x200)) → ∃ t, exec (.registerWrite m a v full) s = .next t ∧ t.regs = s.regs ∧ t.shadow = s.shadow ∧ t.held = s.held
      ∧ t.pat = s.pat ∧ t.out.take (s.report m a .busError).out.length = (s.report m a .busError).out)
end

