-- ==== Sys2Proof/Laws/Exec.lean ====
section
/-!
SUPPORT. Which meaning each command has, constructor by constructor, and what a step does with the command at the front of the queue.
-/
namespace Sys2Proof.Machine

variable (s : State)

theorem exec_paceSample (readings) : exec (.paceSample readings) s = execPaceSample readings s := rfl
theorem exec_monitorExcluded (n) : exec (.monitorExcluded n) s = execMonitorExcluded n s := rfl
theorem exec_governorDecision : exec .governorDecision s = execGovernorDecision s := rfl
theorem exec_paceLowDeclared : exec .paceLowDeclared s = execPaceLowDeclared s := rfl
theorem exec_paceCollapse : exec .paceCollapse s = execPaceCollapse s := rfl
theorem exec_collapseEnd : exec .collapseEnd s = execCollapseEnd s := rfl
theorem exec_paceLowEnd : exec .paceLowEnd s = execPaceLowEnd s := rfl
theorem exec_avsAcknowledge (ok) : exec (.avsAcknowledge ok) s = execAvsAcknowledge ok s := rfl
theorem exec_avsAckTimeout : exec .avsAckTimeout s = execAvsAckTimeout s := rfl
theorem exec_avsHoldRetry : exec .avsHoldRetry s = execAvsHoldRetry s := rfl
theorem exec_islandBridgeRoom (bridge) : exec (.islandBridgeRoom bridge) s = execIslandBridgeRoom bridge s := rfl
theorem exec_aux33Rise : exec .aux33Rise s = execAux33Rise s := rfl
theorem exec_supervisorWake (shadowBad) : exec (.supervisorWake shadowBad) s = execSupervisorWake shadowBad s := rfl
theorem exec_patternLoad (flashOk) (readA) (readB) : exec (.patternLoad flashOk readA readB) s = execPatternLoad flashOk readA readB s := rfl
theorem exec_coreRelease : exec .coreRelease s = execCoreRelease s := rfl
theorem exec_hbmTrainingDone (ok0) (ok1) : exec (.hbmTrainingDone ok0 ok1) s = execHbmTrainingDone ok0 ok1 s := rfl
theorem exec_hbmFillDone (rows) : exec (.hbmFillDone rows) s = execHbmFillDone rows s := rfl
theorem exec_cartridgeDiscoveryDone : exec .cartridgeDiscoveryDone s = execCartridgeDiscoveryDone s := rfl
theorem exec_waitingReevaluate : exec .waitingReevaluate s = execWaitingReevaluate s := rfl
theorem exec_recoveryStepComplete : exec .recoveryStepComplete s = execRecoveryStepComplete s := rfl
theorem exec_selvageScanComplete : exec .selvageScanComplete s = execSelvageScanComplete s := rfl
theorem exec_eraseSlot (m) : exec (.eraseSlot m) s = execEraseSlot m s := rfl
theorem exec_ptuProgram (m) : exec (.ptuProgram m) s = execPtuProgram m s := rfl
theorem exec_ptuRead (m) : exec (.ptuRead m) s = execPtuRead m s := rfl
theorem exec_ptuVerify (m) : exec (.ptuVerify m) s = execPtuVerify m s := rfl
theorem exec_liveApply (m) : exec (.liveApply m) s = execLiveApply m s := rfl
theorem exec_ptuReservedCmd (m) (cmd) : exec (.ptuReservedCmd m cmd) s = execPtuReservedCmd m cmd s := rfl
theorem exec_ptuCommandDone (flashOk) (readOk) : exec (.ptuCommandDone flashOk readOk) s = execPtuCommandDone flashOk readOk s := rfl
theorem exec_registerWrite (m) (addr) (v) (full) : exec (.registerWrite m addr v full) s = execRegisterWrite m addr v full s := rfl
theorem exec_mctpRegisterMessage (m) (spoolForm) (write) (addr) (words) (n) : exec (.mctpRegisterMessage m spoolForm write addr words n) s = execMctpRegisterMessage m spoolForm write addr words n s := rfl
theorem exec_seamReached (blk) (inst) : exec (.seamReached blk inst) s = execSeamReached blk inst s := rfl
theorem exec_pwrreqOn (m) : exec (.pwrreqOn m) s = execPwrreqOn m s := rfl
theorem exec_pwrreqOff (m) : exec (.pwrreqOff m) s = execPwrreqOff m s := rfl
theorem exec_m2sReqReceived (port) (req) : exec (.m2sReqReceived port req) s = execM2sReqReceived port req s := rfl
theorem exec_m2sRwdReceived (port) (req) : exec (.m2sRwdReceived port req) s = execM2sRwdReceived port req s := rfl
theorem exec_streamTrackerExpire (port) (k) : exec (.streamTrackerExpire port k) s = execStreamTrackerExpire port k s := rfl
theorem exec_readOrderPoint (rid) (hbm) : exec (.readOrderPoint rid hbm) s = execReadOrderPoint rid hbm s := rfl
theorem exec_mapAnswer (rid) : exec (.mapAnswer rid) s = execMapAnswer rid s := rfl
theorem exec_patchIndexAnswer (rid) : exec (.patchIndexAnswer rid) s = execPatchIndexAnswer rid s := rfl
theorem exec_probeHit (rid) (uncorr) (left) : exec (.probeHit rid uncorr left) s = execProbeHit rid uncorr left s := rfl
theorem exec_mediaReadData (rid) (sensed) (mismatch) (again) : exec (.mediaReadData rid sensed mismatch again) s = execMediaReadData rid sensed mismatch again s := rfl
theorem exec_reconstructionStart (rid) : exec (.reconstructionStart rid) s = execReconstructionStart rid s := rfl
theorem exec_reconstructionReadData (rid) (member) (sensed) : exec (.reconstructionReadData rid member sensed) s = execReconstructionReadData rid member sensed s := rfl
theorem exec_writeAdmission (rid) (hbm) : exec (.writeAdmission rid hbm) s = execWriteAdmission rid hbm s := rfl
theorem exec_partialWriteMerge (rid) : exec (.partialWriteMerge rid) s = execPartialWriteMerge rid s := rfl
theorem exec_writeCommit (rid) : exec (.writeCommit rid) s = execWriteCommit rid s := rfl
theorem exec_stagingWaitEnd (slice) : exec (.stagingWaitEnd slice) s = execStagingWaitEnd slice s := rfl
theorem exec_latClear (m) (slice) : exec (.latClear m slice) s = execLatClear m slice s := rfl
theorem exec_evictionRelease (line) : exec (.evictionRelease line) s = execEvictionRelease line s := rfl
theorem exec_sealTimerExpire (psa) : exec (.sealTimerExpire psa) s = execSealTimerExpire psa s := rfl
theorem exec_patchPageVerified (psa) : exec (.patchPageVerified psa) s = execPatchPageVerified psa s := rfl
theorem exec_patchProgramFail (psa) : exec (.patchProgramFail psa) s = execPatchProgramFail psa s := rfl
theorem exec_darnRequest (m) (hi) : exec (.darnRequest m hi) s = execDarnRequest m hi s := rfl
theorem exec_darnQueueRoom : exec .darnQueueRoom s = execDarnQueueRoom s := rfl
theorem exec_assemblyStart : exec .assemblyStart s = execAssemblyStart s := rfl
theorem exec_assemblyPageVerified (psa) : exec (.assemblyPageVerified psa) s = execAssemblyPageVerified psa s := rfl
theorem exec_patchBoltReclaim : exec .patchBoltReclaim s = execPatchBoltReclaim s := rfl
theorem exec_regionImageComplete : exec .regionImageComplete s = execRegionImageComplete s := rfl
theorem exec_checkpointLate : exec .checkpointLate s = execCheckpointLate s := rfl
theorem exec_mediaClockTick : exec .mediaClockTick s = execMediaClockTick s := rfl
theorem exec_timePairWrite : exec .timePairWrite s = execTimePairWrite s := rfl
theorem exec_mapBlockRepairDone (block) (scan) (us) : exec (.mapBlockRepairDone block scan us) s = execMapBlockRepairDone block scan us s := rfl
theorem exec_repairWaitTimeout (rid) : exec (.repairWaitTimeout rid) s = execRepairWaitTimeout rid s := rfl
theorem exec_pageProgramVerified (psa) : exec (.pageProgramVerified psa) s = execPageProgramVerified psa s := rfl
theorem exec_bastingTimerExpire (slot) : exec (.bastingTimerExpire slot) s = execBastingTimerExpire slot s := rfl
theorem exec_pageProgramFail (psa) : exec (.pageProgramFail psa) s = execPageProgramFail psa s := rfl
theorem exec_boltResetDone (slot) (die) (bolt) : exec (.boltResetDone slot die bolt) s = execBoltResetDone slot die bolt s := rfl
theorem exec_boltResetFail (slot) (die) (bolt) : exec (.boltResetFail slot die bolt) s = execBoltResetFail slot die bolt s := rfl
theorem exec_gcCollect (group) : exec (.gcCollect group) s = execGcCollect group s := rfl
theorem exec_refreshRun (group) : exec (.refreshRun group) s = execRefreshRun group s := rfl
theorem exec_rebuildComplete (group) : exec (.rebuildComplete group) s = execRebuildComplete group s := rfl
theorem exec_rebuildInPlace (group) : exec (.rebuildInPlace group) s = execRebuildInPlace group s := rfl
theorem exec_ageingTick : exec .ageingTick s = execAgeingTick s := rfl
theorem exec_pinSliceFill (entry) (slice) : exec (.pinSliceFill entry slice) s = execPinSliceFill entry slice s := rfl
theorem exec_cacheDisableComplete (pcu) : exec (.cacheDisableComplete pcu) s = execCacheDisableComplete pcu s := rfl
theorem exec_linClean (m) (bySetWay) : exec (.linClean m bySetWay) s = execLinClean m bySetWay s := rfl
theorem exec_linInvalidate (m) (bySetWay) : exec (.linInvalidate m bySetWay) s = execLinInvalidate m bySetWay s := rfl
theorem exec_linCleanInvalidate (m) (bySetWay) : exec (.linCleanInvalidate m bySetWay) s = execLinCleanInvalidate m bySetWay s := rfl
theorem exec_linLock (m) (bySetWay) : exec (.linLock m bySetWay) s = execLinLock m bySetWay s := rfl
theorem exec_linUnlock (m) (bySetWay) : exec (.linUnlock m bySetWay) s = execLinUnlock m bySetWay s := rfl
theorem exec_linReadWay (m) (bySetWay) : exec (.linReadWay m bySetWay) s = execLinReadWay m bySetWay s := rfl
theorem exec_linReservedOp (m) (bySetWay) : exec (.linReservedOp m bySetWay) s = execLinReservedOp m bySetWay s := rfl
theorem exec_pcuClean (m) (entry) : exec (.pcuClean m entry) s = execPcuClean m entry s := rfl
theorem exec_pcuInvalidate (m) (entry) : exec (.pcuInvalidate m entry) s = execPcuInvalidate m entry s := rfl
theorem exec_pcuCleanInvalidate (m) (entry) : exec (.pcuCleanInvalidate m entry) s = execPcuCleanInvalidate m entry s := rfl
theorem exec_pcuLock (m) (entry) : exec (.pcuLock m entry) s = execPcuLock m entry s := rfl
theorem exec_pcuUnlock (m) (entry) : exec (.pcuUnlock m entry) s = execPcuUnlock m entry s := rfl
theorem exec_pcuReservedOp (m) (op) (entry) : exec (.pcuReservedOp m op entry) s = execPcuReservedOp m op entry s := rfl
theorem exec_maintenanceDone (pcu) : exec (.maintenanceDone pcu) s = execMaintenanceDone pcu s := rfl
theorem exec_birspReceived (port) (ld) (line) (rsp) : exec (.birspReceived port ld line rsp) s = execBirspReceived port ld line rsp s := rfl
theorem exec_biconflictReceived (port) (ld) (line) : exec (.biconflictReceived port ld line) s = execBiconflictReceived port ld line s := rfl
theorem exec_conflictQueueLeave (slice) : exec (.conflictQueueLeave slice) s = execConflictQueueLeave slice s := rfl
theorem exec_snoopTimeout (line) (ld) : exec (.snoopTimeout line ld) s = execSnoopTimeout line ld s := rfl
theorem exec_suspectClear (m) (v) : exec (.suspectClear m v) s = execSuspectClear m v s := rfl
theorem exec_sharerSweepDone : exec .sharerSweepDone s = execSharerSweepDone s := rfl
theorem exec_pfwNAssert (ns) (accepted) : exec (.pfwNAssert ns accepted) s = execPfwNAssert ns accepted s := rfl
theorem exec_flushAdmissionStop : exec .flushAdmissionStop s = execFlushAdmissionStop s := rfl
theorem exec_flushComplete : exec .flushComplete s = execFlushComplete s := rfl
theorem exec_gpfPhase2Request (port) : exec (.gpfPhase2Request port) s = execGpfPhase2Request port s := rfl
theorem exec_gpfComplete : exec .gpfComplete s = execGpfComplete s := rfl
theorem exec_porstNAssert (ns) (accepted) : exec (.porstNAssert ns accepted) s = execPorstNAssert ns accepted s := rfl
theorem exec_porstNDeassert : exec .porstNDeassert s = execPorstNDeassert s := rfl
theorem exec_hbmPatrol (ev) (both) (sealOf) : exec (.hbmPatrol ev both sealOf) s = execHbmPatrol ev both sealOf s := rfl
theorem exec_injArm (m) (v) : exec (.injArm m v) s = execInjArm m v s := rfl
theorem exec_injDisarm (m) (v) : exec (.injDisarm m v) s = execInjDisarm m v s := rfl
theorem exec_scrubGo (m) (v) : exec (.scrubGo m v) s = execScrubGo m v s := rfl
theorem exec_scrubLine (rng) (line) : exec (.scrubLine rng line) s = execScrubLine rng line s := rfl
theorem exec_scrubMark (rng) (line) : exec (.scrubMark rng line) s = execScrubMark rng line s := rfl
theorem exec_scrubComplete : exec .scrubComplete s = execScrubComplete s := rfl
theorem exec_dbgAccessRequest (req) (busy) : exec (.dbgAccessRequest req busy) s = execDbgAccessRequest req busy s := rfl
theorem exec_dbgMemRead (m) : exec (.dbgMemRead m) s = execDbgMemRead m s := rfl
theorem exec_dbgMemWrite (m) : exec (.dbgMemWrite m) s = execDbgMemWrite m s := rfl
theorem exec_dbgMemDone : exec .dbgMemDone s = execDbgMemDone s := rfl
theorem exec_dbgRawRead (m) (v) : exec (.dbgRawRead m v) s = execDbgRawRead m v s := rfl
theorem exec_dbgRawDone (sensed) : exec (.dbgRawDone sensed) s = execDbgRawDone sensed s := rfl
theorem exec_spdmSessionEstablish (ok) (doe) (ld) (root) (leaf) : exec (.spdmSessionEstablish ok doe ld root leaf) s = execSpdmSessionEstablish ok doe ld root leaf s := rfl
theorem exec_spdmSessionEnd (sid) : exec (.spdmSessionEnd sid) s = execSpdmSessionEnd sid s := rfl
theorem exec_setCertificate (sid) (slot) (chain) : exec (.setCertificate sid slot chain) s = execSetCertificate sid slot chain s := rfl
theorem exec_spdmGetMeasurements (index) : exec (.spdmGetMeasurements index) s = execSpdmGetMeasurements index s := rfl
theorem exec_keyLoad (sid) (slot) (key) (wrote) : exec (.keyLoad sid slot key wrote) s = execKeyLoad sid slot key wrote s := rfl
theorem exec_keyRetire (sid) (slot) (wrote) : exec (.keyRetire sid slot wrote) s = execKeyRetire sid slot wrote s := rfl
theorem exec_keyQuery (sid) (slot) : exec (.keyQuery sid slot) s = execKeyQuery sid slot s := rfl
theorem exec_haltFlush (sid) (good) : exec (.haltFlush sid good) s = execHaltFlush sid good s := rfl
theorem exec_haltFlushComplete : exec .haltFlushComplete s = execHaltFlushComplete s := rfl
theorem exec_hamperClear (sid) : exec (.hamperClear sid) s = execHamperClear sid s := rfl
theorem exec_keyCommandUnknown (sid) (opcode) : exec (.keyCommandUnknown sid opcode) s = execKeyCommandUnknown sid opcode s := rfl
theorem exec_cipKeyCmdRetire (m) (v) (wrote) : exec (.cipKeyCmdRetire m v wrote) s = execCipKeyCmdRetire m v wrote s := rfl
theorem exec_retireComplete : exec .retireComplete s = execRetireComplete s := rfl
theorem exec_ideKmKeyProgram (port) (mem) (go) : exec (.ideKmKeyProgram port mem go) s = execIdeKmKeyProgram port mem go s := rfl
theorem exec_ideIntegrityFail (port) (mem) (skid) (lines) : exec (.ideIntegrityFail port mem skid lines) s = execIdeIntegrityFail port mem skid lines s := rfl
theorem exec_keychkFlitReceived (slot) (h) (word) : exec (.keychkFlitReceived slot h word) s = execKeychkFlitReceived slot h word s := rfl
theorem exec_keyfailFlitReceived (slot) (h) : exec (.keyfailFlitReceived slot h) s = execKeyfailFlitReceived slot h s := rfl
theorem exec_keychkSend (slot) : exec (.keychkSend slot) s = execKeychkSend slot s := rfl
theorem exec_hostLinkUp (port) (link) : exec (.hostLinkUp port link) s = execHostLinkUp port link s := rfl
theorem exec_hostLinkDown (port) : exec (.hostLinkDown port) s = execHostLinkDown port s := rfl
theorem exec_portRetrain (m) (port) : exec (.portRetrain m port) s = execPortRetrain m port s := rfl
theorem exec_perstNAssert (port) : exec (.perstNAssert port) s = execPerstNAssert port s := rfl
theorem exec_perstNDeassert (port) : exec (.perstNDeassert port) s = execPerstNDeassert port s := rfl
theorem exec_configRequest (port) (tag) (w) : exec (.configRequest port tag w) s = execConfigRequest port tag w s := rfl
theorem exec_hdmDecoderCommit (ld) (k) (dec) : exec (.hdmDecoderCommit ld k dec) s = execHdmDecoderCommit ld k dec s := rfl
theorem exec_bar2Access (ld) (write) (addr) (bytes) (n) : exec (.bar2Access ld write addr bytes n) s = execBar2Access ld write addr bytes n s := rfl
theorem exec_identify (ld) : exec (.identify ld) s = execIdentify ld s := rfl
theorem exec_identifyMemoryDevice (ld) : exec (.identifyMemoryDevice ld) s = execIdentifyMemoryDevice ld s := rfl
theorem exec_getEventRecords (ld) (log) : exec (.getEventRecords ld log) s = execGetEventRecords ld log s := rfl
theorem exec_clearEventRecords (ld) (log) (handles) (all) : exec (.clearEventRecords ld log handles all) s = execClearEventRecords ld log handles all s := rfl
theorem exec_getEventInterruptPolicy (ld) : exec (.getEventInterruptPolicy ld) s = execGetEventInterruptPolicy ld s := rfl
theorem exec_setEventInterruptPolicy (ld) (vectors) : exec (.setEventInterruptPolicy ld vectors) s = execSetEventInterruptPolicy ld vectors s := rfl
theorem exec_getTimestamp (ld) : exec (.getTimestamp ld) s = execGetTimestamp ld s := rfl
theorem exec_setTimestamp (ld) (t) : exec (.setTimestamp ld t) s = execSetTimestamp ld t s := rfl
theorem exec_getSupportedLogs (ld) : exec (.getSupportedLogs ld) s = execGetSupportedLogs ld s := rfl
theorem exec_getLog (ld) (vendor) (off) (len) : exec (.getLog ld vendor off len) s = execGetLog ld vendor off len s := rfl
theorem exec_getHealthInfo (ld) : exec (.getHealthInfo ld) s = execGetHealthInfo ld s := rfl
theorem exec_getAlertConfiguration (ld) : exec (.getAlertConfiguration ld) s = execGetAlertConfiguration ld s := rfl
theorem exec_setAlertConfiguration (ld) (cfg) : exec (.setAlertConfiguration ld cfg) s = execSetAlertConfiguration ld cfg s := rfl
theorem exec_getLsa (ld) (off) (len) : exec (.getLsa ld off len) s = execGetLsa ld off len s := rfl
theorem exec_setLsa (ld) (off) (bytes) : exec (.setLsa ld off bytes) s = execSetLsa ld off bytes s := rfl
theorem exec_getPoisonList (ld) (dpa) (len) : exec (.getPoisonList ld dpa len) s = execGetPoisonList ld dpa len s := rfl
theorem exec_injectPoison (ld) (dpa) : exec (.injectPoison ld dpa) s = execInjectPoison ld dpa s := rfl
theorem exec_clearPoison (ld) (dpa) (data) : exec (.clearPoison ld dpa data) s = execClearPoison ld dpa data s := rfl
theorem exec_sanitize (ld) : exec (.sanitize ld) s = execSanitize ld s := rfl
theorem exec_secureErase (ld) : exec (.secureErase ld) s = execSecureErase ld s := rfl
theorem exec_backgroundCommandComplete (ld) : exec (.backgroundCommandComplete ld) s = execBackgroundCommandComplete ld s := rfl
theorem exec_getDynamicCapacityConfiguration (ld) : exec (.getDynamicCapacityConfiguration ld) s = execGetDynamicCapacityConfiguration ld s := rfl
theorem exec_getDynamicCapacityExtentList (ld) : exec (.getDynamicCapacityExtentList ld) s = execGetDynamicCapacityExtentList ld s := rfl
theorem exec_addDynamicCapacityResponse (ld) (ext) : exec (.addDynamicCapacityResponse ld ext) s = execAddDynamicCapacityResponse ld ext s := rfl
theorem exec_releaseDynamicCapacity (ld) (ext) : exec (.releaseDynamicCapacity ld ext) s = execReleaseDynamicCapacity ld ext s := rfl
theorem exec_getDeviceState (ld) : exec (.getDeviceState ld) s = execGetDeviceState ld s := rfl
theorem exec_getWearReport (ld) : exec (.getWearReport ld) s = execGetWearReport ld s := rfl
theorem exec_getFlushRecord (ld) : exec (.getFlushRecord ld) s = execGetFlushRecord ld s := rfl
theorem exec_getGroupStatus (ld) : exec (.getGroupStatus ld) s = execGetGroupStatus ld s := rfl
theorem exec_mailboxUnsupported (ld) (opcode) : exec (.mailboxUnsupported ld opcode) s = execMailboxUnsupported ld opcode s := rfl
theorem exec_getLdInfo : exec .getLdInfo s = execGetLdInfo s := rfl
theorem exec_getLdAllocations : exec .getLdAllocations s = execGetLdAllocations s := rfl
theorem exec_setLdAllocations (granules) : exec (.setLdAllocations granules) s = execSetLdAllocations granules s := rfl
theorem exec_getMultiHeadedInfo : exec .getMultiHeadedInfo s = execGetMultiHeadedInfo s := rfl
theorem exec_getDcRegionConfiguration (ld) : exec (.getDcRegionConfiguration ld) s = execGetDcRegionConfiguration ld s := rfl
theorem exec_getDcRegionExtentLists (ld) : exec (.getDcRegionExtentLists ld) s = execGetDcRegionExtentLists ld s := rfl
theorem exec_initiateDynamicCapacityAdd (ldMask) (base) (len) : exec (.initiateDynamicCapacityAdd ldMask base len) s = execInitiateDynamicCapacityAdd ldMask base len s := rfl
theorem exec_initiateDynamicCapacityRelease (ext) (ld) (forced) : exec (.initiateDynamicCapacityRelease ext ld forced) s = execInitiateDynamicCapacityRelease ext ld forced s := rfl
theorem exec_bindLd (ld) (port) : exec (.bindLd ld port) s = execBindLd ld port s := rfl
theorem exec_unbindLd (ld) : exec (.unbindLd ld) s = execUnbindLd ld s := rfl
theorem exec_getBindings : exec .getBindings s = execGetBindings s := rfl
theorem exec_secureRelease (ext) (ld) (forced) : exec (.secureRelease ext ld forced) s = execSecureRelease ext ld forced s := rfl
theorem exec_rspFlit (slot) (h) (tag) (status) (payload) : exec (.rspFlit slot h tag status payload) s = execRspFlit slot h tag status payload s := rfl
theorem exec_dataFlit (slot) (h) (tag) (part) : exec (.dataFlit slot h tag part) s = execDataFlit slot h tag part s := rfl
theorem exec_nakFlit (slot) (h) (reason) (count) : exec (.nakFlit slot h reason count) s = execNakFlit slot h reason count s := rfl
theorem exec_retrainTimeout (slot) : exec (.retrainTimeout slot) s = execRetrainTimeout slot s := rfl
theorem exec_statusFlit (slot) (h) (temp) (failed) (power) (flags) : exec (.statusFlit slot h temp failed power flags) s = execStatusFlit slot h temp failed power flags s := rfl
theorem exec_statusTimeout (slot) : exec (.statusTimeout slot) s = execStatusTimeout slot s := rfl
theorem exec_idleFlit (slot) (h) : exec (.idleFlit slot h) s = execIdleFlit slot h s := rfl
theorem exec_flitCorrupt (slot) (crc) : exec (.flitCorrupt slot crc) s = execFlitCorrupt slot crc s := rfl
theorem exec_replayTimeout (slot) : exec (.replayTimeout slot) s = execReplayTimeout slot s := rfl
theorem exec_responseTimeout (slot) (tag) : exec (.responseTimeout slot tag) s = execResponseTimeout slot tag s := rfl
theorem exec_laneSparing (slot) (lane) : exec (.laneSparing slot lane) s = execLaneSparing slot lane s := rfl
theorem exec_linkBringupTimeout (slot) : exec (.linkBringupTimeout slot) s = execLinkBringupTimeout slot s := rfl
theorem exec_hello (slot) (h) (msg) : exec (.hello slot h msg) s = execHello slot h msg s := rfl
theorem exec_pairPub (slot) (h) : exec (.pairPub slot h) s = execPairPub slot h s := rfl
theorem exec_pairKey (slot) : exec (.pairKey slot) s = execPairKey slot s := rfl
theorem exec_pairOk (slot) (h) (keyId) : exec (.pairOk slot h keyId) s = execPairOk slot h keyId s := rfl
theorem exec_unpair (slot) : exec (.unpair slot) s = execUnpair slot s := rfl
theorem exec_readLine (slot) (psa) (lslot) (refSet) : exec (.readLine slot psa lslot refSet) s = execReadLine slot psa lslot refSet s := rfl
theorem exec_readPage (slot) (psa) : exec (.readPage slot psa) s = execReadPage slot psa s := rfl
theorem exec_program (slot) (psa) : exec (.program slot psa) s = execProgram slot psa s := rfl
theorem exec_reset (slot) (die) (bolt) : exec (.reset slot die bolt) s = execReset slot die bolt s := rfl
theorem exec_ledgerRead (slot) (die) (first) (n) : exec (.ledgerRead slot die first n) s = execLedgerRead slot die first n s := rfl
theorem exec_ledgerWrite (slot) (die) (bolt) : exec (.ledgerWrite slot die bolt) s = execLedgerWrite slot die bolt s := rfl
theorem exec_rsvRead (slot) (block) : exec (.rsvRead slot block) s = execRsvRead slot block s := rfl
theorem exec_rsvWrite (slot) (block) (bytes) : exec (.rsvWrite slot block bytes) s = execRsvWrite slot block bytes s := rfl
theorem exec_ident (slot) : exec (.ident slot) s = execIdent slot s := rfl
theorem exec_health (slot) : exec (.health slot) s = execHealth slot s := rfl
theorem exec_setRecord (slot) : exec (.setRecord slot) s = execSetRecord slot s := rfl
theorem exec_indicator (slot) : exec (.indicator slot) s = execIndicator slot s := rfl
theorem exec_quiesce (slot) : exec (.quiesce slot) s = execQuiesce slot s := rfl
theorem exec_vlkRetrain (m) (slot) : exec (.vlkRetrain m slot) s = execVlkRetrain m slot s := rfl
theorem exec_unquarantine (m) (slot) : exec (.unquarantine m slot) s = execUnquarantine m slot s := rfl
theorem exec_presenceChange (slot) (seated) : exec (.presenceChange slot seated) s = execPresenceChange slot seated s := rfl
theorem exec_attention (slot) : exec (.attention slot) s = execAttention slot s := rfl
theorem exec_claim (m) (slot) : exec (.claim m slot) s = execClaim m slot s := rfl
theorem exec_claimComplete (slot) (linkOk) (bad) : exec (.claimComplete slot linkOk bad) s = execClaimComplete slot linkOk bad s := rfl
theorem exec_carPair (m) (slot) : exec (.carPair m slot) s = execCarPair m slot s := rfl
theorem exec_readmit (m) (slot) : exec (.readmit m slot) s = execReadmit m slot s := rfl
theorem exec_locateOn (m) (slot) : exec (.locateOn m slot) s = execLocateOn m slot s := rfl
theorem exec_locateOff (m) (slot) : exec (.locateOff m slot) s = execLocateOff m slot s := rfl
theorem exec_spoolContextWrite (m) (w) (v) : exec (.spoolContextWrite m w v) s = execSpoolContextWrite m w v s := rfl
theorem exec_spoolDoorbell (m) (v) : exec (.spoolDoorbell m v) s = execSpoolDoorbell m v s := rfl
theorem exec_copy (spool) (readable) : exec (.copy spool readable) s = execCopy spool readable s := rfl
theorem exec_fill (spool) (readable) : exec (.fill spool readable) s = execFill spool readable s := rfl
theorem exec_secureDiscard (spool) (readable) : exec (.secureDiscard spool readable) s = execSecureDiscard spool readable s := rfl
theorem exec_scrubRange (spool) (readable) : exec (.scrubRange spool readable) s = execScrubRange spool readable s := rfl
theorem exec_persistFence (spool) (readable) : exec (.persistFence spool readable) s = execPersistFence spool readable s := rfl
theorem exec_prefetch (spool) (readable) : exec (.prefetch spool readable) s = execPrefetch spool readable s := rfl
theorem exec_pin (spool) (readable) : exec (.pin spool readable) s = execPin spool readable s := rfl
theorem exec_unpin (spool) (readable) : exec (.unpin spool readable) s = execUnpin spool readable s := rfl
theorem exec_lockRange (spool) (readable) : exec (.lockRange spool readable) s = execLockRange spool readable s := rfl
theorem exec_clean (spool) (readable) : exec (.clean spool readable) s = execClean spool readable s := rfl
theorem exec_invalidate (spool) (readable) : exec (.invalidate spool readable) s = execInvalidate spool readable s := rfl
theorem exec_cleanInvalidate (spool) (readable) : exec (.cleanInvalidate spool readable) s = execCleanInvalidate spool readable s := rfl
theorem exec_darn (spool) (readable) : exec (.darn spool readable) s = execDarn spool readable s := rfl
theorem exec_rekeyRange (spool) (readable) : exec (.rekeyRange spool readable) s = execRekeyRange spool readable s := rfl
theorem exec_export_ (spool) (readable) : exec (.export_ spool readable) s = execExport spool readable s := rfl
theorem exec_import_ (spool) (readable) : exec (.import_ spool readable) s = execImport spool readable s := rfl
theorem exec_verify (spool) (readable) : exec (.verify spool readable) s = execVerify spool readable s := rfl
theorem exec_sampleDrain (spool) (readable) : exec (.sampleDrain spool readable) s = execSampleDrain spool readable s := rfl
theorem exec_dataMoverLine (op) (wrote) : exec (.dataMoverLine op wrote) s = execDataMoverLine op wrote s := rfl
theorem exec_opCompletionPost (op) : exec (.opCompletionPost op) s = execOpCompletionPost op s := rfl
theorem exec_stalenessTimer (spool) : exec (.stalenessTimer spool) s = execStalenessTimer spool s := rfl
theorem exec_rollCallSend : exec .rollCallSend s = execRollCallSend s := rfl
theorem exec_rollCallReceive (r) (linkNs) : exec (.rollCallReceive r linkNs) s = execRollCallReceive r linkNs s := rfl
theorem exec_memberSilent (k) : exec (.memberSilent k) s = execMemberSilent k s := rfl
theorem exec_railEnableSlot (us) : exec (.railEnableSlot us) s = execRailEnableSlot us s := rfl
theorem exec_powerGoodRise (r) : exec (.powerGoodRise r) s = execPowerGoodRise r s := rfl
theorem exec_pgWindowExpire (r) : exec (.pgWindowExpire r) s = execPgWindowExpire r s := rfl
theorem exec_retryGapEnd : exec .retryGapEnd s = execRetryGapEnd s := rfl
theorem exec_railSample (pins) (vsin) (settling) : exec (.railSample pins vsin settling) s = execRailSample pins vsin settling s := rfl
theorem exec_railPgLost (r) : exec (.railPgLost r) s = execRailPgLost r s := rfl
theorem exec_railDisableSlot (us) : exec (.railDisableSlot us) s = execRailDisableSlot us s := rfl
theorem exec_powerDownEnd (pfw) : exec (.powerDownEnd pfw) s = execPowerDownEnd pfw s := rfl
theorem exec_minOffEnd : exec .minOffEnd s = execMinOffEnd s := rfl
theorem exec_holdingBufferWrite : exec .holdingBufferWrite s = execHoldingBufferWrite s := rfl
theorem exec_thermalSample (die) (hbm) : exec (.thermalSample die hbm) s = execThermalSample die hbm s := rfl
theorem exec_sensorSuspect (sensor) : exec (.sensorSuspect sensor) s = execSensorSuspect sensor s := rfl
theorem exec_hardwareThermalTrip (comparators) : exec (.hardwareThermalTrip comparators) s = execHardwareThermalTrip comparators s := rfl
theorem exec_aux33Brownout : exec .aux33Brownout s = execAux33Brownout s := rfl
theorem exec_tackWrite (m) (w) (v) : exec (.tackWrite m w v) s = execTackWrite m w v s := rfl
theorem exec_hemProgram (m) (page) : exec (.hemProgram m page) s = execHemProgram m page s := rfl
theorem exec_hemProgramDone (verified) : exec (.hemProgramDone verified) s = execHemProgramDone verified s := rfl
theorem exec_hemPageLoad (m) (page) : exec (.hemPageLoad m page) s = execHemPageLoad m page s := rfl
theorem exec_hemLoadDone : exec .hemLoadDone s = execHemLoadDone s := rfl
theorem exec_powerOnHour : exec .powerOnHour s = execPowerOnHour s := rfl
theorem exec_hamperPageTimer : exec .hamperPageTimer s = execHamperPageTimer s := rfl
theorem exec_hamperRead (m) (v) : exec (.hamperRead m v) s = execHamperRead m v s := rfl
theorem exec_intDoorbellWrite (m) (v) : exec (.intDoorbellWrite m v) s = execIntDoorbellWrite m v s := rfl
theorem exec_intAck (m) (t) (v) : exec (.intAck m t v) s = execIntAck m t v s := rfl
theorem exec_alertReassert : exec .alertReassert s = execAlertReassert s := rfl
theorem exec_alertResponse : exec .alertResponse s = execAlertResponse s := rfl
theorem exec_smbusArp (addr) : exec (.smbusArp addr) s = execSmbusArp addr s := rfl
theorem exec_quietEdge (input) : exec (.quietEdge input) s = execQuietEdge input s := rfl
theorem exec_pmcRead (m) : exec (.pmcRead m) s = execPmcRead m s := rfl
theorem exec_pmcZero (m) : exec (.pmcZero m) s = execPmcZero m s := rfl
theorem exec_readerPassTimer : exec .readerPassTimer s = execReaderPassTimer s := rfl
theorem exec_readerPassDone : exec .readerPassDone s = execReaderPassDone s := rfl
theorem exec_samplePop (m) (count) : exec (.samplePop m count) s = execSamplePop m count s := rfl
theorem exec_rateSecond : exec .rateSecond s = execRateSecond s := rfl
theorem exec_fecLock (slot) (width) (lane) : exec (.fecLock slot width lane) s = execFecLock slot width lane s := rfl
theorem exec_cartridgeLinkDown (slot) : exec (.cartridgeLinkDown slot) s = execCartridgeLinkDown slot s := rfl
theorem exec_hostCreditReturn (port) (n) : exec (.hostCreditReturn port n) s = execHostCreditReturn port n s := rfl
theorem exec_bucketRebuildDone (bucket) : exec (.bucketRebuildDone bucket) s = execBucketRebuildDone bucket s := rfl
theorem exec_tapInstruction (ir) : exec (.tapInstruction ir) s = execTapInstruction ir s := rfl

end Sys2Proof.Machine
end

