-- ==== Sys2Proof/Laws/Image.lean ====
section
/-!
SUPPORT. Where the pages of a region's image find room: an open frame of series C with a page for each, on a device that bastes nothing.
-/
namespace Sys2Proof.Machine

/-- The one frame f is open for series C with n entries handed out, no cartridge is there to baste on and no injection is armed. -/
structure ImageRoom (f : Frame) (n : Nat) (s : State) : Prop where
  frames : s.med.frames = [{ f with next := n }]
  carts  : s.carts = []
  groups : s.plan.groups = 1
  bast   : s.med.bast = []
  bolts  : s.med.bastBolts = []
  inj    : s.integ.inj = none

namespace ImageRoom
variable {f : Frame} {n : Nat} {s : State}

/-- A change of the media tables that leaves frames and basting as they are. -/
theorem putMed (h : ImageRoom f n s) (m : Med) (hf : m.frames = s.med.frames) (hb : m.bast = s.med.bast)
    (hk : m.bastBolts = s.med.bastBolts) : ImageRoom f n (s.putMed m) :=
  ⟨hf.trans h.frames, h.carts, h.groups, hb.trans h.bast, hk.trans h.bolts, h.inj⟩

theorem next (h : ImageRoom f n s) (k : Nat) : ImageRoom f k (s.setFrame { f with next := k }) :=
  ⟨by simp [State.setFrame, State.putMed, h.frames], h.carts, h.groups, h.bast, h.bolts, h.inj⟩

theorem inService (h : ImageRoom f n s) (k : Nat) : s.inService k = false := by
  simp [State.inService, State.cart, h.carts, Tab.get]

theorem baste (h : ImageRoom f n s) (psa : Nat) : s.baste psa = s := by
  have hk : ∀ k, s.bastKeep k = s := fun k => by simp [State.bastKeep, h.inService]
  simp [State.baste, State.bastFor, State.bastBolt, State.bastOpen, h.bast, hk, h.bolts]

theorem parityIssue (h : ImageRoom f n s) (f' : Frame) (k : Nat) : ImageRoom f n (s.parityIssue f' k) := by
  unfold State.parityIssue
  dsimp only
  split
  · exact h
  · split
    · exact h.putMed _ rfl rfl rfl
    · exact h

theorem closeCheck (h : ImageRoom f n s) (hc : f.cut = false) (hn : n + 1 < f.capacity) (g num : Nat) : s.closeCheck g num = s := by
  have hw : ({ f with next := n } : Frame).capacity = f.capacity := rfl
  have hfull : ({ f with next := n } : Frame).full = false := by
    simp only [Frame.full, hw]
    have h1 : ¬ f.capacity ≤ n := by omega
    have h2 : ¬ n + 1 = f.capacity := by omega
    simp [h1, h2]
  unfold State.closeCheck State.frameAt
  rw [h.frames]
  by_cases hm : (f.group == g && f.number == num) = true
  · simp only [List.find?, hm]
    rw [if_pos (by rw [hfull, hc]; simp)]
  · simp [List.find?, hm]

theorem store (h : ImageRoom f n s) (hc : f.cut = false) (hn : n + 1 < f.capacity) (psa : Nat) (hp : psaPage psa ≠ 8191) (p : Page) :
    ImageRoom f n (s.storePage psa p) := by
  have close : ∀ {t : State}, ImageRoom f n t → ImageRoom f n (match t.frameOf (boltOf psa) with
      | none => t
      | some f' => match f'.entryOf psa with
        | none => t
        | some e => ((t.baste psa).parityIssue f' (f'.stripe e)).closeCheck f'.group f'.number) := by
    intro t ht
    split
    · exact ht
    · split
      · exact ht
      · rw [ht.baste, (ht.parityIssue _ _).closeCheck hc hn]
        exact ht.parityIssue _ _
  unfold State.storePage State.injProgram
  rw [h.inj]
  dsimp only
  rw [if_neg hp]
  apply close
  split
  · exact ((h.putMed _ rfl rfl rfl).putMed _ rfl rfl rfl).putMed _ rfl rfl rfl
  · exact (h.putMed _ rfl rfl rfl).putMed _ rfl rfl rfl

/-- Page k of an image takes the next entry of the frame. -/
theorem page (h : ImageRoom f n s) (hg : f.group = 0) (hs : f.series = 18) (ho : f.closed = false) (hc : f.cut = false)
    (hn : n + 2 < f.capacity) (hp : psaPage (({ f with next := n } : Frame).psa n) ≠ 8191) (r : Nat) (copy : Bool) (start : Nat)
    (t : Tab MapEntry) (l : List Nat) (k : Nat) :
    ∃ s' l', State.imagePage r copy start t (s, l) k = some (s', l') ∧ ImageRoom f (n + 1) s' := by
  have hr : s.rotateGroup = (s.putMed { s.med with rotGroup := s.med.rotGroup + 1 }, 0) := by
    simp [State.rotateGroup, State.plannedGroups, h.groups, show bitsOf 4 1 = [0] from by decide, Nat.mod_one]
  have h1 : ImageRoom f n (s.putMed { s.med with rotGroup := s.med.rotGroup + 1 }) := h.putMed _ rfl rfl rfl
  have hfull : ({ f with next := n } : Frame).full = false := by
    have hw : ({ f with next := n } : Frame).capacity = f.capacity := rfl
    simp only [Frame.full, hw]
    have h1 : ¬ f.capacity ≤ n := by omega
    have h2 : ¬ n + 1 = f.capacity := by omega
    simp [h1, h2]
  have hof : (s.putMed { s.med with rotGroup := s.med.rotGroup + 1 }).openFrameOf 0 18 = some { f with next := n } := by
    have hq : (f.group == 0 && f.series == 18 && !f.closed && !f.cut && !({ f with next := n } : Frame).full) = true := by
      rw [hfull, hg, hs, ho, hc]; rfl
    unfold State.openFrameOf
    rw [h1.frames]
    simp only [List.find?, hq]
  unfold State.imagePage
  simp only [hr, State.allocPage, hof, Option.isSome_some, if_true]
  exact ⟨_, _, rfl, (h1.next (n + 1)).store hc (by omega) _ hp _⟩

end ImageRoom

/-- A region's image is written whole where its pages find room in the open frame. -/
theorem State.imageWrite_room {f : Frame} {s : State} (h : ImageRoom f 0 s) (hg : f.group = 0) (hs : f.series = 18) (ho : f.closed = false)
    (hc : f.cut = false) (hn : 16384 + 2 < f.capacity) (hp : ∀ n, n < 16384 → psaPage (({ f with next := n } : Frame).psa n) ≠ 8191)
    (r : Nat) (copy : Bool) (start : Nat) : ∃ s' l, s.imageWrite r copy start = some (s', l) ∧ ImageRoom f 16384 s' := by
  have go : ∀ n, n ≤ 16384 → ∃ s' l, s.imagePages r copy start (s.regionEntries r) (List.range n) = some (s', l) ∧ ImageRoom f n s' := by
    intro n
    induction n with
    | zero => exact fun _ => ⟨s, [], rfl, h⟩
    | succ n ih =>
      intro hle
      obtain ⟨s1, l, e, h1⟩ := ih (by omega)
      unfold State.imagePages at e ⊢
      rw [List.range_succ, List.foldl_append, e]
      exact h1.page hg hs ho hc (by omega) (hp n (by omega)) r copy start _ l n
  have hcount : imageCount s.order = 16384 := by cases s.order <;> rfl
  unfold State.imageWrite
  rw [hcount]
  exact go 16384 (Nat.le_refl _)

end Sys2Proof.Machine
end

