-- ==== Sys2Proof/Laws/Tab.lean ====
section
/-!
SUPPORT. Sparse tables: a read after a write, and that every operation keeps the canonical form.
-/
namespace Sys2Proof

variable {α : Type}

/-- Every key of the table is above a bound. -/
def Tab.above (n : Nat) (t : Tab α) : Prop := ∀ e ∈ t, n < e.1

theorem Tab.get_erase (d : Nat → α) (t : Tab α) (k j : Nat) :
    Tab.get d (Tab.erase t k) j = if j = k then d j else Tab.get d t j := by
  induction t with
  | nil => simp [Tab.erase, Tab.get]
  | cons e t ih =>
    obtain ⟨i, w⟩ := e
    simp only [Tab.erase]
    by_cases hk : k = i
    · subst hk
      simp only [if_true, ih, Tab.get]
      split <;> rfl
    · simp only [if_neg hk, Tab.get, ih]
      by_cases hj : j = i
      · subst hj; simp [Ne.symm hk]
      · simp [hj]

theorem Tab.get_insert (d : Nat → α) (t : Tab α) (k j : Nat) (v : α) :
    Tab.get d (Tab.insert t k v) j = if j = k then v else Tab.get d t j := by
  induction t with
  | nil => simp [Tab.insert, Tab.get]
  | cons e t ih =>
    obtain ⟨i, w⟩ := e
    simp only [Tab.insert]
    split
    · simp [Tab.get]
    · split
      · rename_i h; subst h
        simp only [Tab.get]
        split <;> simp_all
      · rename_i hk
        simp only [Tab.get, ih]
        by_cases hj : j = i
        · subst hj; simp [Ne.symm hk]
        · simp [hj]

/-- A read after a write. -/
theorem Tab.get_set [DecidableEq α] (d : Nat → α) (t : Tab α) (k j : Nat) (v : α) :
    Tab.get d (Tab.set d t k v) j = if j = k then v else Tab.get d t j := by
  unfold Tab.set
  split
  · rename_i h
    rw [Tab.get_erase]
    split
    · rename_i hj; subst hj; exact h.symm
    · rfl
  · exact Tab.get_insert d t k j v

@[simp] theorem Tab.get_set_same [DecidableEq α] (d : Nat → α) (t : Tab α) (k : Nat) (v : α) :
    Tab.get d (Tab.set d t k v) k = v := by simp [Tab.get_set]

theorem Tab.get_set_other [DecidableEq α] (d : Nat → α) (t : Tab α) {k j : Nat} (v : α) (h : j ≠ k) :
    Tab.get d (Tab.set d t k v) j = Tab.get d t j := by simp [Tab.get_set, h]

@[simp] theorem Tab.get_nil (d : Nat → α) (k : Nat) : Tab.get d [] k = d k := rfl

/-- Canonical form of a table with a first entry: its value, the keys after it, the rest. -/
theorem Tab.wf_cons [DecidableEq α] (d : Nat → α) (j : Nat) (v : α) (t : Tab α) :
    Tab.wf d ((j, v) :: t) = true ↔ v ≠ d j ∧ Tab.above j t ∧ Tab.wf d t = true := by
  induction t generalizing j v with
  | nil => simp [Tab.wf, Tab.above]
  | cons e t ih =>
    obtain ⟨k, w⟩ := e
    simp only [Tab.wf, Bool.and_eq_true, decide_eq_true_eq]
    constructor
    · rintro ⟨⟨h1, h2⟩, h3⟩
      refine ⟨h1, ?_, h3⟩
      have h4 := ((ih k w).mp h3).2.1
      intro e he
      rcases List.mem_cons.mp he with rfl | he
      · exact h2
      · exact Nat.lt_trans h2 (h4 e he)
    · rintro ⟨h1, h2, h3⟩
      exact ⟨⟨h1, h2 _ List.mem_cons_self⟩, h3⟩

theorem Tab.mem_erase {t : Tab α} {k : Nat} {e : Nat × α} (h : e ∈ Tab.erase t k) : e ∈ t := by
  induction t with
  | nil => simp [Tab.erase] at h
  | cons x t ih =>
    obtain ⟨i, w⟩ := x
    simp only [Tab.erase] at h
    split at h
    · exact List.mem_cons_of_mem _ (ih h)
    · rcases List.mem_cons.mp h with rfl | h
      · exact List.mem_cons_self
      · exact List.mem_cons_of_mem _ (ih h)

theorem Tab.mem_insert {t : Tab α} {k : Nat} {v : α} {e : Nat × α} (h : e ∈ Tab.insert t k v) : e = (k, v) ∨ e ∈ t := by
  induction t with
  | nil => simp [Tab.insert] at h; exact .inl h
  | cons x t ih =>
    obtain ⟨i, w⟩ := x
    simp only [Tab.insert] at h
    split at h
    · rcases List.mem_cons.mp h with rfl | h
      · exact .inl rfl
      · exact .inr h
    · split at h
      · rcases List.mem_cons.mp h with rfl | h
        · exact .inl rfl
        · exact .inr (List.mem_cons_of_mem _ h)
      · rcases List.mem_cons.mp h with rfl | h
        · exact .inr List.mem_cons_self
        · exact (ih h).imp_right (List.mem_cons_of_mem _)

theorem Tab.wf_erase [DecidableEq α] (d : Nat → α) (t : Tab α) (k : Nat) (h : Tab.wf d t = true) :
    Tab.wf d (Tab.erase t k) = true := by
  induction t with
  | nil => rfl
  | cons x t ih =>
    obtain ⟨i, w⟩ := x
    obtain ⟨h1, h2, h3⟩ := (Tab.wf_cons d i w t).mp h
    simp only [Tab.erase]
    split
    · exact ih h3
    · exact (Tab.wf_cons d i w _).mpr ⟨h1, fun e he => h2 e (Tab.mem_erase he), ih h3⟩

theorem Tab.wf_insert [DecidableEq α] (d : Nat → α) (t : Tab α) (k : Nat) (v : α) (hv : v ≠ d k) (h : Tab.wf d t = true) :
    Tab.wf d (Tab.insert t k v) = true := by
  induction t with
  | nil => simpa [Tab.insert, Tab.wf] using hv
  | cons x t ih =>
    obtain ⟨i, w⟩ := x
    obtain ⟨h1, h2, h3⟩ := (Tab.wf_cons d i w t).mp h
    simp only [Tab.insert]
    split
    · rename_i hk
      refine (Tab.wf_cons d k v _).mpr ⟨hv, ?_, h⟩
      intro e he
      rcases List.mem_cons.mp he with rfl | he
      · exact hk
      · exact Nat.lt_trans hk (h2 e he)
    · split
      · rename_i hk; subst hk
        exact (Tab.wf_cons d k v _).mpr ⟨hv, h2, h3⟩
      · rename_i hk hne
        refine (Tab.wf_cons d i w _).mpr ⟨h1, ?_, ih h3⟩
        intro e he
        rcases Tab.mem_insert he with rfl | he
        · simp only; omega
        · exact h2 e he

/-- A write keeps the canonical form. -/
theorem Tab.wf_set [DecidableEq α] (d : Nat → α) (t : Tab α) (k : Nat) (v : α) (h : Tab.wf d t = true) :
    Tab.wf d (Tab.set d t k v) = true := by
  unfold Tab.set
  split
  · exact Tab.wf_erase d t k h
  · exact Tab.wf_insert d t k v ‹_› h

/-- So does leaving out entries. -/
theorem Tab.wf_filter [DecidableEq α] (d : Nat → α) (t : Tab α) (p : Nat → α → Bool) (h : Tab.wf d t = true) :
    Tab.wf d (Tab.filter p t) = true := by
  induction t with
  | nil => rfl
  | cons x t ih =>
    obtain ⟨i, w⟩ := x
    obtain ⟨h1, h2, h3⟩ := (Tab.wf_cons d i w t).mp h
    have ih := ih h3
    unfold Tab.filter at ih ⊢
    rw [List.filter_cons]
    split
    · exact (Tab.wf_cons d i w _).mpr ⟨h1, fun e he => h2 e ((List.mem_filter.mp he).1), ih⟩
    · exact ih

/-- So does a write of consecutive bytes. -/
theorem Tab.wf_setBytes (d : Nat → Byte) (bs : List Byte) (t : Tab Byte) (a : Nat) (h : Tab.wf d t = true) :
    Tab.wf d (Tab.setBytes d t a bs) = true := by
  induction bs generalizing t a with
  | nil => exact h
  | cons b bs ih => exact ih _ _ (Tab.wf_set d t a b h)

/-- What a write of consecutive bytes leaves at an address. -/
theorem Tab.get_setBytes (d : Nat → Byte) (bs : List Byte) (t : Tab Byte) (a k : Nat) :
    Tab.get d (Tab.setBytes d t a bs) k = if a ≤ k ∧ k < a + bs.length then bs.getD (k - a) 0 else Tab.get d t k := by
  induction bs generalizing t a with
  | nil => simp only [Tab.setBytes, List.length_nil]; rw [if_neg (by omega)]
  | cons b bs ih =>
    simp only [Tab.setBytes, ih, Tab.get_set, List.length_cons]
    by_cases h : k = a
    · subst h; rw [if_neg (by omega), if_pos rfl, if_pos (by omega), Nat.sub_self]; rfl
    · by_cases h2 : a + 1 ≤ k ∧ k < a + 1 + bs.length
      · have : k - a = (k - (a + 1)) + 1 := by omega
        rw [if_pos h2, if_pos (by omega), this]; rfl
      · rw [if_neg h2, if_neg h, if_neg (by omega)]

end Sys2Proof
end

