-- ==== Sys2Proof/Laws/Keeps.lean ====
section
/-!
SUPPORT. What an operation leaves unchanged, as a relation between the state before and after that composes: the parts outside a mask
are the same, and the addressed stores keep their canonical form. One lemma per shared operation is in the files Keeps*.lean.
-/
namespace Sys2Proof.Machine

/-- Parts whose bit of m is 0 are the same, and canonical stores stay canonical. -/
def Keeps (m : Nat) (s t : State) : Prop :=
  (∀ p : Part, m.testBit p.idx = false → p.same s t) ∧ (s.canon → t.canon)

theorem State.canon.regsOk {s : State} (c : s.canon) : Tab.wf regReset s.regs = true := c.1
theorem State.canon.tackOk {s : State} (c : s.canon) : Tab.wf (fun _ => 0) s.keep.tack = true := c.2.1
theorem State.canon.hemOk {s : State} (c : s.canon) : Tab.wf (fun _ => 0) s.keep.hem = true := c.2.2.1
theorem State.canon.memOk {s : State} (c : s.canon) : Tab.wf (fun _ => 0) s.spl.mem = true := c.2.2.2.1
theorem State.canon.flashOk {s : State} (c : s.canon) : Tab.wf (fun _ => 0xFF) s.pat.flash = true := c.2.2.2.2

theorem Part.same_refl (p : Part) (s : State) : p.same s s := by cases p <;> rfl

theorem Part.same_trans {p : Part} {s t u : State} (h : p.same s t) (k : p.same t u) : p.same s u := by
  cases p <;> exact k.trans h

theorem Keeps.refl (m : Nat) (s : State) : Keeps m s s := ⟨fun p _ => p.same_refl s, id⟩

theorem Keeps.trans {m : Nat} {s t u : State} (h : Keeps m s t) (k : Keeps m t u) : Keeps m s u :=
  ⟨fun p hp => Part.same_trans (h.1 p hp) (k.1 p hp), fun c => k.2 (h.2 c)⟩

theorem Keeps.mono {m n : Nat} {s t : State} (h : Keeps m s t) (hm : m ||| n = n) : Keeps n s t :=
  ⟨fun p hp => h.1 p (by
    have h1 : (m ||| n).testBit p.idx = false := by rw [hm]; exact hp
    rw [Nat.testBit_or] at h1
    exact (Bool.or_eq_false_iff.mp h1).1), h.2⟩

/-- Composition with an operation that touches fewer parts. -/
theorem Keeps.step {m n : Nat} {s t u : State} (h : Keeps n s t) (k : Keeps m t u) (hm : m ||| n = n) : Keeps n s u :=
  h.trans (k.mono hm)

/-- The same, as a rule for the last operation of a chain. -/
theorem Keeps.after {m n : Nat} {s t u : State} (k : Keeps m t u) (h : Keeps n s t) (hm : m ||| n = n) : Keeps n s u := h.step k hm

/-- The state that an operation answers with a result. -/
theorem Keeps.fst {m : Nat} {α : Type} {s t : State} {x : α} {p : State × α} (h : Keeps m s p.1) (e : p = (t, x)) : Keeps m s t := by
  rw [e] at h; exact h

theorem Keeps.sub {g c m : Nat} (h : g ||| c = c) (hm : c ||| m = m) : g ||| m = m := by
  rw [← hm, ← Nat.or_assoc, h]

theorem Keeps.getD {m : Nat} {s d : State} {o : Option State} (h : ∀ t, o = some t → Keeps m s t) (hd : Keeps m s d) :
    Keeps m s (o.getD d) := by
  cases o with
  | none => exact hd
  | some t => exact h t rfl

theorem Keeps.ite {m : Nat} {c : Prop} [Decidable c] {s a b : State} (ha : Keeps m s a) (hb : Keeps m s b) :
    Keeps m s (if c then a else b) := by split <;> assumption

theorem Keeps.foldl {m : Nat} {α : Type} {f : State → α → State} (hf : ∀ t a, Keeps m t (f t a)) (l : List α) {s t : State}
    (h : Keeps m s t) : Keeps m s (l.foldl f t) := by
  induction l generalizing t with
  | nil => exact h
  | cons a l ih => exact ih (h.trans (hf t a))

theorem Keeps.foldlFst {m : Nat} {α β : Type} {f : State × β → α → State × β} (hf : ∀ t b a, Keeps m t (f (t, b) a).1) (l : List α)
    {s : State} {p : State × β} (h : Keeps m s p.1) : Keeps m s (l.foldl f p).1 := by
  induction l generalizing p with
  | nil => exact h
  | cons a l ih => exact ih (h.trans (hf p.1 p.2 a))

theorem Keeps.foldlSnd {m : Nat} {α β : Type} {f : β × State → α → β × State} (hf : ∀ b t a, Keeps m t (f (b, t) a).2) (l : List α)
    {s : State} {p : β × State} (h : Keeps m s p.2) : Keeps m s (l.foldl f p).2 := by
  induction l generalizing p with
  | nil => exact h
  | cons a l ih => exact ih (h.trans (hf p.1 p.2 a))

theorem Keeps.foldlBind {m : Nat} {α β : Type} {f : State × β → α → Option (State × β)} (hf : ∀ p a r, f p a = some r → Keeps m p.1 r.1) (l : List α)
    {s : State} {o : Option (State × β)} (h : ∀ p, o = some p → Keeps m s p.1) :
    ∀ r, l.foldl (fun acc a => acc.bind fun p => f p a) o = some r → Keeps m s r.1 := by
  induction l generalizing o with
  | nil => exact h
  | cons a l ih =>
    refine ih fun p hp => ?_
    obtain ⟨q, hq, hp⟩ := Option.bind_eq_some_iff.mp hp
    exact (h q hq).trans (hf q a p hp)

theorem Keeps.touches {m : Nat} {s t : State} (h : Keeps m s t) (l : List Part)
    (hl : ∀ p : Part, p ∈ l ∨ m.testBit p.idx = false) : TouchesOnly l s t :=
  fun p hp => h.1 p ((hl p).resolve_left hp)

theorem Keeps.order_ {s : State} (v) : Keeps 0x1 s { s with order := v } :=
  ⟨fun p hp => by cases p <;> first | rfl | exact absurd hp (by decide), id⟩

theorem Keeps.shadow_ {s : State} (v) : Keeps 0x4 s { s with shadow := v } :=
  ⟨fun p hp => by cases p <;> first | rfl | exact absurd hp (by decide), id⟩

theorem Keeps.held_ {s : State} (v) : Keeps 0x8 s { s with held := v } :=
  ⟨fun p hp => by cases p <;> first | rfl | exact absurd hp (by decide), id⟩

theorem Keeps.sliceDone_ {s : State} (v) : Keeps 0x10 s { s with sliceDone := v } :=
  ⟨fun p hp => by cases p <;> first | rfl | exact absurd hp (by decide), id⟩

theorem Keeps.pins_ {s : State} (v) : Keeps 0x20 s { s with pins := v } :=
  ⟨fun p hp => by cases p <;> first | rfl | exact absurd hp (by decide), id⟩

theorem Keeps.clk_ {s : State} (v) : Keeps 0x40 s { s with clk := v } :=
  ⟨fun p hp => by cases p <;> first | rfl | exact absurd hp (by decide), id⟩

theorem Keeps.rate_ {s : State} (v) : Keeps 0x80 s { s with rate := v } :=
  ⟨fun p hp => by cases p <;> first | rfl | exact absurd hp (by decide), id⟩

theorem Keeps.intc_ {s : State} (v) : Keeps 0x100 s { s with intc := v } :=
  ⟨fun p hp => by cases p <;> first | rfl | exact absurd hp (by decide), id⟩

theorem Keeps.msixMask_ {s : State} (v) : Keeps 0x200 s { s with msixMask := v } :=
  ⟨fun p hp => by cases p <;> first | rfl | exact absurd hp (by decide), id⟩

theorem Keeps.msixPend_ {s : State} (v) : Keeps 0x400 s { s with msixPend := v } :=
  ⟨fun p hp => by cases p <;> first | rfl | exact absurd hp (by decide), id⟩

theorem Keeps.pace_ {s : State} (v) : Keeps 0x800 s { s with pace := v } :=
  ⟨fun p hp => by cases p <;> first | rfl | exact absurd hp (by decide), id⟩

theorem Keeps.bridgeWait_ {s : State} (v) : Keeps 0x1000 s { s with bridgeWait := v } :=
  ⟨fun p hp => by cases p <;> first | rfl | exact absurd hp (by decide), id⟩

theorem Keeps.seq_ {s : State} (v) : Keeps 0x2000 s { s with seq := v } :=
  ⟨fun p hp => by cases p <;> first | rfl | exact absurd hp (by decide), id⟩

theorem Keeps.flog_ {s : State} (v) : Keeps 0x4000 s { s with flog := v } :=
  ⟨fun p hp => by cases p <;> first | rfl | exact absurd hp (by decide), id⟩

theorem Keeps.therm_ {s : State} (v) : Keeps 0x8000 s { s with therm := v } :=
  ⟨fun p hp => by cases p <;> first | rfl | exact absurd hp (by decide), id⟩

theorem Keeps.ham_ {s : State} (v) : Keeps 0x20000 s { s with ham := v } :=
  ⟨fun p hp => by cases p <;> first | rfl | exact absurd hp (by decide), id⟩

theorem Keeps.plan_ {s : State} (v) : Keeps 0x80000 s { s with plan := v } :=
  ⟨fun p hp => by cases p <;> first | rfl | exact absurd hp (by decide), id⟩

theorem Keeps.start_ {s : State} (v) : Keeps 0x100000 s { s with start := v } :=
  ⟨fun p hp => by cases p <;> first | rfl | exact absurd hp (by decide), id⟩

theorem Keeps.ports_ {s : State} (v) : Keeps 0x200000 s { s with ports := v } :=
  ⟨fun p hp => by cases p <;> first | rfl | exact absurd hp (by decide), id⟩

theorem Keeps.lds_ {s : State} (v) : Keeps 0x400000 s { s with lds := v } :=
  ⟨fun p hp => by cases p <;> first | rfl | exact absurd hp (by decide), id⟩

theorem Keeps.reqs_ {s : State} (v) : Keeps 0x800000 s { s with reqs := v } :=
  ⟨fun p hp => by cases p <;> first | rfl | exact absurd hp (by decide), id⟩

theorem Keeps.nextReq_ {s : State} (v) : Keeps 0x1000000 s { s with nextReq := v } :=
  ⟨fun p hp => by cases p <;> first | rfl | exact absurd hp (by decide), id⟩

theorem Keeps.cache_ {s : State} (v) : Keeps 0x2000000 s { s with cache := v } :=
  ⟨fun p hp => by cases p <;> first | rfl | exact absurd hp (by decide), id⟩

theorem Keeps.xlt_ {s : State} (v) : Keeps 0x4000000 s { s with xlt := v } :=
  ⟨fun p hp => by cases p <;> first | rfl | exact absurd hp (by decide), id⟩

theorem Keeps.med_ {s : State} (v) : Keeps 0x8000000 s { s with med := v } :=
  ⟨fun p hp => by cases p <;> first | rfl | exact absurd hp (by decide), id⟩

theorem Keeps.coh_ {s : State} (v) : Keeps 0x10000000 s { s with coh := v } :=
  ⟨fun p hp => by cases p <;> first | rfl | exact absurd hp (by decide), id⟩

theorem Keeps.flush_ {s : State} (v) : Keeps 0x20000000 s { s with flush := v } :=
  ⟨fun p hp => by cases p <;> first | rfl | exact absurd hp (by decide), id⟩

theorem Keeps.integ_ {s : State} (v) : Keeps 0x40000000 s { s with integ := v } :=
  ⟨fun p hp => by cases p <;> first | rfl | exact absurd hp (by decide), id⟩

theorem Keeps.dbg_ {s : State} (v) : Keeps 0x80000000 s { s with dbg := v } :=
  ⟨fun p hp => by cases p <;> first | rfl | exact absurd hp (by decide), id⟩

theorem Keeps.cip_ {s : State} (v) : Keeps 0x100000000 s { s with cip := v } :=
  ⟨fun p hp => by cases p <;> first | rfl | exact absurd hp (by decide), id⟩

theorem Keeps.links_ {s : State} (v) : Keeps 0x200000000 s { s with links := v } :=
  ⟨fun p hp => by cases p <;> first | rfl | exact absurd hp (by decide), id⟩

theorem Keeps.carts_ {s : State} (v) : Keeps 0x400000000 s { s with carts := v } :=
  ⟨fun p hp => by cases p <;> first | rfl | exact absurd hp (by decide), id⟩

theorem Keeps.setId_ {s : State} (v) : Keeps 0x800000000 s { s with setId := v } :=
  ⟨fun p hp => by cases p <;> first | rfl | exact absurd hp (by decide), id⟩

theorem Keeps.serials_ {s : State} (v) : Keeps 0x1000000000 s { s with serials := v } :=
  ⟨fun p hp => by cases p <;> first | rfl | exact absurd hp (by decide), id⟩

theorem Keeps.grp_ {s : State} (v) : Keeps 0x4000000000 s { s with grp := v } :=
  ⟨fun p hp => by cases p <;> first | rfl | exact absurd hp (by decide), id⟩

theorem Keeps.pmc_ {s : State} (v) : Keeps 0x8000000000 s { s with pmc := v } :=
  ⟨fun p hp => by cases p <;> first | rfl | exact absurd hp (by decide), id⟩

theorem Keeps.smbAddr_ {s : State} (v) : Keeps 0x10000000000 s { s with smbAddr := v } :=
  ⟨fun p hp => by cases p <;> first | rfl | exact absurd hp (by decide), id⟩

theorem Keeps.health_ {s : State} (v) : Keeps 0x20000000000 s { s with health := v } :=
  ⟨fun p hp => by cases p <;> first | rfl | exact absurd hp (by decide), id⟩

theorem Keeps.out_ {s : State} (v) : Keeps 0x40000000000 s { s with out := v } :=
  ⟨fun p hp => by cases p <;> first | rfl | exact absurd hp (by decide), id⟩

theorem Keeps.free_ {s : State} (v) : Keeps 0x80000000000 s { s with free := v } :=
  ⟨fun p hp => by cases p <;> first | rfl | exact absurd hp (by decide), id⟩

theorem Keeps.pending_ {s : State} (v) : Keeps 0x100000000000 s { s with pending := v } :=
  ⟨fun p hp => by cases p <;> first | rfl | exact absurd hp (by decide), id⟩

theorem Keeps.sliceReg_ {s : State} (v) : Keeps 0x200000000000 s { s with sliceReg := v } :=
  ⟨fun p hp => by cases p <;> first | rfl | exact absurd hp (by decide), id⟩

theorem Keeps.keep_ {s : State} (v) (h : s.canon → Tab.wf (fun _ => 0) v.tack = true ∧ Tab.wf (fun _ => 0) v.hem = true) :
    Keeps 0x10000 s { s with keep := v } :=
  ⟨fun p hp => by cases p <;> first | rfl | exact absurd hp (by decide), fun c => ⟨c.1, (h c).1, (h c).2, c.2.2.2⟩⟩

theorem Keeps.spl_ {s : State} (v) (h : s.canon → Tab.wf (fun _ => 0) v.mem = true) : Keeps 0x2000000000 s { s with spl := v } :=
  ⟨fun p hp => by cases p <;> first | rfl | exact absurd hp (by decide), fun c => ⟨c.1, c.2.1, c.2.2.1, h c, c.2.2.2.2⟩⟩

theorem Keeps.pat_ {s : State} (v) (h : s.canon → Tab.wf (fun _ => 0xFF) v.flash = true) : Keeps 0x40000 s { s with pat := v } :=
  ⟨fun p hp => by cases p <;> first | rfl | exact absurd hp (by decide), fun c => ⟨c.1, c.2.1, c.2.2.1, c.2.2.2.1, h c⟩⟩

theorem Keeps.regs_ {s : State} (v) (h : s.canon → Tab.wf regReset v = true) : Keeps 0x2 s { s with regs := v } :=
  ⟨fun p hp => by cases p <;> first | rfl | exact absurd hp (by decide), fun c => ⟨h c, c.2⟩⟩

end Sys2Proof.Machine
end

