-- ==== Sys2Proof/Laws/KeepsOps.lean ====
section
/-!
SUPPORT. What the operations of Machine/Ops.lean leave unchanged.
-/
namespace Sys2Proof.Machine

theorem State.putOrder_keeps (v) (s : State) : Keeps 0x1 s (s.putOrder v) := Keeps.order_ _

theorem State.putRegs_keeps (v) (s : State) (h : s.canon → Tab.wf regReset v = true) : Keeps 0x2 s (s.putRegs v) := Keeps.regs_ _ h

theorem State.putShadow_keeps (v) (s : State) : Keeps 0x4 s (s.putShadow v) := Keeps.shadow_ _

theorem State.putHeld_keeps (v) (s : State) : Keeps 0x8 s (s.putHeld v) := Keeps.held_ _

theorem State.putSliceDone_keeps (v) (s : State) : Keeps 0x10 s (s.putSliceDone v) := Keeps.sliceDone_ _

theorem State.putSliceReg_keeps (v) (s : State) : Keeps 0x200000000000 s (s.putSliceReg v) := Keeps.sliceReg_ _

theorem State.putPins_keeps (v) (s : State) : Keeps 0x20 s (s.putPins v) := Keeps.pins_ _

theorem State.putClk_keeps (v) (s : State) : Keeps 0x40 s (s.putClk v) := Keeps.clk_ _

theorem State.putRate_keeps (v) (s : State) : Keeps 0x80 s (s.putRate v) := Keeps.rate_ _

theorem State.putIntc_keeps (v) (s : State) : Keeps 0x100 s (s.putIntc v) := Keeps.intc_ _

theorem State.putMsixMask_keeps (v) (s : State) : Keeps 0x200 s (s.putMsixMask v) := Keeps.msixMask_ _

theorem State.putMsixPend_keeps (v) (s : State) : Keeps 0x400 s (s.putMsixPend v) := Keeps.msixPend_ _

theorem State.putPace_keeps (v) (s : State) : Keeps 0x800 s (s.putPace v) := Keeps.pace_ _

theorem State.putBridgeWait_keeps (v) (s : State) : Keeps 0x1000 s (s.putBridgeWait v) := Keeps.bridgeWait_ _

theorem State.putSeq_keeps (v) (s : State) : Keeps 0x2000 s (s.putSeq v) := Keeps.seq_ _

theorem State.putFlog_keeps (v) (s : State) : Keeps 0x4000 s (s.putFlog v) := Keeps.flog_ _

theorem State.putTherm_keeps (v) (s : State) : Keeps 0x8000 s (s.putTherm v) := Keeps.therm_ _

theorem State.putKeep_keeps (v) (s : State) (h : s.canon → Tab.wf (fun _ => 0) v.tack = true ∧ Tab.wf (fun _ => 0) v.hem = true) :
    Keeps 0x10000 s (s.putKeep v) := Keeps.keep_ _ h

theorem State.putHam_keeps (v) (s : State) : Keeps 0x20000 s (s.putHam v) := Keeps.ham_ _

theorem State.putPat_keeps (v) (s : State) (h : s.canon → Tab.wf (fun _ => 0xFF) v.flash = true) : Keeps 0x40000 s (s.putPat v) := Keeps.pat_ _ h

theorem State.putPlan_keeps (v) (s : State) : Keeps 0x80000 s (s.putPlan v) := Keeps.plan_ _

theorem State.putStart_keeps (v) (s : State) : Keeps 0x100000 s (s.putStart v) := Keeps.start_ _

theorem State.putPorts_keeps (v) (s : State) : Keeps 0x200000 s (s.putPorts v) := Keeps.ports_ _

theorem State.putLds_keeps (v) (s : State) : Keeps 0x400000 s (s.putLds v) := Keeps.lds_ _

theorem State.putReqs_keeps (v) (s : State) : Keeps 0x800000 s (s.putReqs v) := Keeps.reqs_ _

theorem State.putNextReq_keeps (v) (s : State) : Keeps 0x1000000 s (s.putNextReq v) := Keeps.nextReq_ _

theorem State.putCache_keeps (v) (s : State) : Keeps 0x2000000 s (s.putCache v) := Keeps.cache_ _

theorem State.putXlt_keeps (v) (s : State) : Keeps 0x4000000 s (s.putXlt v) := Keeps.xlt_ _

theorem State.putMed_keeps (v) (s : State) : Keeps 0x8000000 s (s.putMed v) := Keeps.med_ _

theorem State.putCoh_keeps (v) (s : State) : Keeps 0x10000000 s (s.putCoh v) := Keeps.coh_ _

theorem State.putFlush_keeps (v) (s : State) : Keeps 0x20000000 s (s.putFlush v) := Keeps.flush_ _

theorem State.putInteg_keeps (v) (s : State) : Keeps 0x40000000 s (s.putInteg v) := Keeps.integ_ _

theorem State.putDbg_keeps (v) (s : State) : Keeps 0x80000000 s (s.putDbg v) := Keeps.dbg_ _

theorem State.putCip_keeps (v) (s : State) : Keeps 0x100000000 s (s.putCip v) := Keeps.cip_ _

theorem State.putLinks_keeps (v) (s : State) : Keeps 0x200000000 s (s.putLinks v) := Keeps.links_ _

theorem State.putCarts_keeps (v) (s : State) : Keeps 0x400000000 s (s.putCarts v) := Keeps.carts_ _

theorem State.putSetId_keeps (v) (s : State) : Keeps 0x800000000 s (s.putSetId v) := Keeps.setId_ _

theorem State.putSerials_keeps (v) (s : State) : Keeps 0x1000000000 s (s.putSerials v) := Keeps.serials_ _

theorem State.putSpl_keeps (v) (s : State) (h : s.canon → Tab.wf (fun _ => 0) v.mem = true) : Keeps 0x2000000000 s (s.putSpl v) := Keeps.spl_ _ h

theorem State.putGrp_keeps (v) (s : State) : Keeps 0x4000000000 s (s.putGrp v) := Keeps.grp_ _

theorem State.putPmc_keeps (v) (s : State) : Keeps 0x8000000000 s (s.putPmc v) := Keeps.pmc_ _

theorem State.putSmbAddr_keeps (v) (s : State) : Keeps 0x10000000000 s (s.putSmbAddr v) := Keeps.smbAddr_ _

theorem State.putHealth_keeps (v) (s : State) : Keeps 0x20000000000 s (s.putHealth v) := Keeps.health_ _

theorem State.putOut_keeps (v) (s : State) : Keeps 0x40000000000 s (s.putOut v) := Keeps.out_ _

theorem State.putFree_keeps (v) (s : State) : Keeps 0x80000000000 s (s.putFree v) := Keeps.free_ _

theorem State.putPending_keeps (v) (s : State) : Keeps 0x100000000000 s (s.putPending v) := Keeps.pending_ _

theorem State.modXlt_keeps (a0 : Xlt → Xlt) (s : State) : Keeps 0x4000000 s (State.modXlt a0 s) := by
  unfold State.modXlt
  repeat' first
    | exact Eq.refl _
    | exact fun _ => Eq.refl _
    | with_reducible exact Keeps.refl _ _
    | assumption
    | with_reducible apply Keeps.after (State.putXlt_keeps _ _)
    | with_reducible refine Keeps.ite ?_ ?_
    | split
    | extract_lets -merge
    | rintro _ ⟨⟩
    | with_reducible apply Keeps.getD
    | contradiction
    | intro _ _
    | refine Keeps.fst ?_ (by with_reducible assumption)
    | dsimp +zetaDelta only

theorem State.modMed_keeps (a0 : Med → Med) (s : State) : Keeps 0x8000000 s (State.modMed a0 s) := by
  unfold State.modMed
  repeat' first
    | exact Eq.refl _
    | exact fun _ => Eq.refl _
    | with_reducible exact Keeps.refl _ _
    | assumption
    | with_reducible apply Keeps.after (State.putMed_keeps _ _)
    | with_reducible refine Keeps.ite ?_ ?_
    | split
    | extract_lets -merge
    | rintro _ ⟨⟩
    | with_reducible apply Keeps.getD
    | contradiction
    | intro _ _
    | refine Keeps.fst ?_ (by with_reducible assumption)
    | dsimp +zetaDelta only

theorem State.modCache_keeps (a0 : Cache → Cache) (s : State) : Keeps 0x2000000 s (State.modCache a0 s) := by
  unfold State.modCache
  repeat' first
    | exact Eq.refl _
    | exact fun _ => Eq.refl _
    | with_reducible exact Keeps.refl _ _
    | assumption
    | with_reducible apply Keeps.after (State.putCache_keeps _ _)
    | with_reducible refine Keeps.ite ?_ ?_
    | split
    | extract_lets -merge
    | rintro _ ⟨⟩
    | with_reducible apply Keeps.getD
    | contradiction
    | intro _ _
    | refine Keeps.fst ?_ (by with_reducible assumption)
    | dsimp +zetaDelta only

theorem State.modCoh_keeps (a0 : Coh → Coh) (s : State) : Keeps 0x10000000 s (State.modCoh a0 s) := by
  unfold State.modCoh
  repeat' first
    | exact Eq.refl _
    | exact fun _ => Eq.refl _
    | with_reducible exact Keeps.refl _ _
    | assumption
    | with_reducible apply Keeps.after (State.putCoh_keeps _ _)
    | with_reducible refine Keeps.ite ?_ ?_
    | split
    | extract_lets -merge
    | rintro _ ⟨⟩
    | with_reducible apply Keeps.getD
    | contradiction
    | intro _ _
    | refine Keeps.fst ?_ (by with_reducible assumption)
    | dsimp +zetaDelta only

theorem State.modFlush_keeps (a0 : Flush → Flush) (s : State) : Keeps 0x20000000 s (State.modFlush a0 s) := by
  unfold State.modFlush
  repeat' first
    | exact Eq.refl _
    | exact fun _ => Eq.refl _
    | with_reducible exact Keeps.refl _ _
    | assumption
    | with_reducible apply Keeps.after (State.putFlush_keeps _ _)
    | with_reducible refine Keeps.ite ?_ ?_
    | split
    | extract_lets -merge
    | rintro _ ⟨⟩
    | with_reducible apply Keeps.getD
    | contradiction
    | intro _ _
    | refine Keeps.fst ?_ (by with_reducible assumption)
    | dsimp +zetaDelta only

theorem State.modInteg_keeps (a0 : Integ → Integ) (s : State) : Keeps 0x40000000 s (State.modInteg a0 s) := by
  unfold State.modInteg
  repeat' first
    | exact Eq.refl _
    | exact fun _ => Eq.refl _
    | with_reducible exact Keeps.refl _ _
    | assumption
    | with_reducible apply Keeps.after (State.putInteg_keeps _ _)
    | with_reducible refine Keeps.ite ?_ ?_
    | split
    | extract_lets -merge
    | rintro _ ⟨⟩
    | with_reducible apply Keeps.getD
    | contradiction
    | intro _ _
    | refine Keeps.fst ?_ (by with_reducible assumption)
    | dsimp +zetaDelta only

theorem State.modDbg_keeps (a0 : Dbg → Dbg) (s : State) : Keeps 0x80000000 s (State.modDbg a0 s) := by
  unfold State.modDbg
  repeat' first
    | exact Eq.refl _
    | exact fun _ => Eq.refl _
    | with_reducible exact Keeps.refl _ _
    | assumption
    | with_reducible apply Keeps.after (State.putDbg_keeps _ _)
    | with_reducible refine Keeps.ite ?_ ?_
    | split
    | extract_lets -merge
    | rintro _ ⟨⟩
    | with_reducible apply Keeps.getD
    | contradiction
    | intro _ _
    | refine Keeps.fst ?_ (by with_reducible assumption)
    | dsimp +zetaDelta only

theorem State.modCip_keeps (a0 : Cip → Cip) (s : State) : Keeps 0x100000000 s (State.modCip a0 s) := by
  unfold State.modCip
  repeat' first
    | exact Eq.refl _
    | exact fun _ => Eq.refl _
    | with_reducible exact Keeps.refl _ _
    | assumption
    | with_reducible apply Keeps.after (State.putCip_keeps _ _)
    | with_reducible refine Keeps.ite ?_ ?_
    | split
    | extract_lets -merge
    | rintro _ ⟨⟩
    | with_reducible apply Keeps.getD
    | contradiction
    | intro _ _
    | refine Keeps.fst ?_ (by with_reducible assumption)
    | dsimp +zetaDelta only

theorem State.modSpl_keeps (f : Spl → Spl) (s : State) (h : ∀ p, (f p).mem = p.mem) : Keeps 0x2000000000 s (State.modSpl f s) :=
  Keeps.spl_ _ fun c => h s.spl ▸ c.2.2.2.1

theorem State.modGrp_keeps (a0 : Grp → Grp) (s : State) : Keeps 0x4000000000 s (State.modGrp a0 s) := by
  unfold State.modGrp
  repeat' first
    | exact Eq.refl _
    | exact fun _ => Eq.refl _
    | with_reducible exact Keeps.refl _ _
    | assumption
    | with_reducible apply Keeps.after (State.putGrp_keeps _ _)
    | with_reducible refine Keeps.ite ?_ ?_
    | split
    | extract_lets -merge
    | rintro _ ⟨⟩
    | with_reducible apply Keeps.getD
    | contradiction
    | intro _ _
    | refine Keeps.fst ?_ (by with_reducible assumption)
    | dsimp +zetaDelta only

theorem State.modStart_keeps (a0 : Start → Start) (s : State) : Keeps 0x100000 s (State.modStart a0 s) := by
  unfold State.modStart
  repeat' first
    | exact Eq.refl _
    | exact fun _ => Eq.refl _
    | with_reducible exact Keeps.refl _ _
    | assumption
    | with_reducible apply Keeps.after (State.putStart_keeps _ _)
    | with_reducible refine Keeps.ite ?_ ?_
    | split
    | extract_lets -merge
    | rintro _ ⟨⟩
    | with_reducible apply Keeps.getD
    | contradiction
    | intro _ _
    | refine Keeps.fst ?_ (by with_reducible assumption)
    | dsimp +zetaDelta only

theorem State.modPins_keeps (a0 : Pins → Pins) (s : State) : Keeps 0x20 s (State.modPins a0 s) := by
  unfold State.modPins
  repeat' first
    | exact Eq.refl _
    | exact fun _ => Eq.refl _
    | with_reducible exact Keeps.refl _ _
    | assumption
    | with_reducible apply Keeps.after (State.putPins_keeps _ _)
    | with_reducible refine Keeps.ite ?_ ?_
    | split
    | extract_lets -merge
    | rintro _ ⟨⟩
    | with_reducible apply Keeps.getD
    | contradiction
    | intro _ _
    | refine Keeps.fst ?_ (by with_reducible assumption)
    | dsimp +zetaDelta only

theorem State.modSeq_keeps (a0 : Seq → Seq) (s : State) : Keeps 0x2000 s (State.modSeq a0 s) := by
  unfold State.modSeq
  repeat' first
    | exact Eq.refl _
    | exact fun _ => Eq.refl _
    | with_reducible exact Keeps.refl _ _
    | assumption
    | with_reducible apply Keeps.after (State.putSeq_keeps _ _)
    | with_reducible refine Keeps.ite ?_ ?_
    | split
    | extract_lets -merge
    | rintro _ ⟨⟩
    | with_reducible apply Keeps.getD
    | contradiction
    | intro _ _
    | refine Keeps.fst ?_ (by with_reducible assumption)
    | dsimp +zetaDelta only

theorem State.modTherm_keeps (a0 : Therm → Therm) (s : State) : Keeps 0x8000 s (State.modTherm a0 s) := by
  unfold State.modTherm
  repeat' first
    | exact Eq.refl _
    | exact fun _ => Eq.refl _
    | with_reducible exact Keeps.refl _ _
    | assumption
    | with_reducible apply Keeps.after (State.putTherm_keeps _ _)
    | with_reducible refine Keeps.ite ?_ ?_
    | split
    | extract_lets -merge
    | rintro _ ⟨⟩
    | with_reducible apply Keeps.getD
    | contradiction
    | intro _ _
    | refine Keeps.fst ?_ (by with_reducible assumption)
    | dsimp +zetaDelta only

theorem State.modPat_keeps (f : Pat → Pat) (s : State) (h : ∀ p, (f p).flash = p.flash) : Keeps 0x40000 s (State.modPat f s) :=
  Keeps.pat_ _ fun c => h s.pat ▸ c.2.2.2.2

theorem State.modClk_keeps (a0 : Clk → Clk) (s : State) : Keeps 0x40 s (State.modClk a0 s) := by
  unfold State.modClk
  repeat' first
    | exact Eq.refl _
    | exact fun _ => Eq.refl _
    | with_reducible exact Keeps.refl _ _
    | assumption
    | with_reducible apply Keeps.after (State.putClk_keeps _ _)
    | with_reducible refine Keeps.ite ?_ ?_
    | split
    | extract_lets -merge
    | rintro _ ⟨⟩
    | with_reducible apply Keeps.getD
    | contradiction
    | intro _ _
    | refine Keeps.fst ?_ (by with_reducible assumption)
    | dsimp +zetaDelta only

theorem State.modRate_keeps (a0 : Rate → Rate) (s : State) : Keeps 0x80 s (State.modRate a0 s) := by
  unfold State.modRate
  repeat' first
    | exact Eq.refl _
    | exact fun _ => Eq.refl _
    | with_reducible exact Keeps.refl _ _
    | assumption
    | with_reducible apply Keeps.after (State.putRate_keeps _ _)
    | with_reducible refine Keeps.ite ?_ ?_
    | split
    | extract_lets -merge
    | rintro _ ⟨⟩
    | with_reducible apply Keeps.getD
    | contradiction
    | intro _ _
    | refine Keeps.fst ?_ (by with_reducible assumption)
    | dsimp +zetaDelta only

theorem State.modPace_keeps (a0 : Pace → Pace) (s : State) : Keeps 0x800 s (State.modPace a0 s) := by
  unfold State.modPace
  repeat' first
    | exact Eq.refl _
    | exact fun _ => Eq.refl _
    | with_reducible exact Keeps.refl _ _
    | assumption
    | with_reducible apply Keeps.after (State.putPace_keeps _ _)
    | with_reducible refine Keeps.ite ?_ ?_
    | split
    | extract_lets -merge
    | rintro _ ⟨⟩
    | with_reducible apply Keeps.getD
    | contradiction
    | intro _ _
    | refine Keeps.fst ?_ (by with_reducible assumption)
    | dsimp +zetaDelta only

theorem State.modFLog_keeps (a0 : FLog → FLog) (s : State) : Keeps 0x4000 s (State.modFLog a0 s) := by
  unfold State.modFLog
  repeat' first
    | exact Eq.refl _
    | exact fun _ => Eq.refl _
    | with_reducible exact Keeps.refl _ _
    | assumption
    | with_reducible apply Keeps.after (State.putFlog_keeps _ _)
    | with_reducible refine Keeps.ite ?_ ?_
    | split
    | extract_lets -merge
    | rintro _ ⟨⟩
    | with_reducible apply Keeps.getD
    | contradiction
    | intro _ _
    | refine Keeps.fst ?_ (by with_reducible assumption)
    | dsimp +zetaDelta only

theorem State.modKeep_keeps (f : Keep → Keep) (s : State) (h : ∀ p, (f p).tack = p.tack) (h2 : ∀ p, (f p).hem = p.hem) :
    Keeps 0x10000 s (State.modKeep f s) :=
  Keeps.keep_ _ fun c => ⟨h s.keep ▸ c.2.1, h2 s.keep ▸ c.2.2.1⟩

theorem State.setReg_keeps (off : Nat) (v : Word) (s : State) : Keeps 0x2 s (State.setReg off v s) :=
  Keeps.regs_ _ fun c => Tab.wf_set _ _ _ _ c.1

theorem State.setF_keeps (a0 : Fld) (a1 : Nat) (s : State) : Keeps 0x2 s (State.setF a0 a1 s) := by
  unfold State.setF
  repeat' first
    | exact Eq.refl _
    | exact fun _ => Eq.refl _
    | with_reducible exact Keeps.refl _ _
    | assumption
    | with_reducible apply Keeps.after (State.setReg_keeps _ _ _)
    | with_reducible refine Keeps.ite ?_ ?_
    | split
    | extract_lets -merge
    | rintro _ ⟨⟩
    | with_reducible apply Keeps.getD
    | contradiction
    | intro _ _
    | refine Keeps.fst ?_ (by with_reducible assumption)
    | dsimp +zetaDelta only

theorem State.setFlag_keeps (a0 : Fld) (a1 : Bool) (s : State) : Keeps 0x2 s (State.setFlag a0 a1 s) := by
  unfold State.setFlag
  repeat' first
    | exact Eq.refl _
    | exact fun _ => Eq.refl _
    | with_reducible exact Keeps.refl _ _
    | assumption
    | with_reducible apply Keeps.after (State.setF_keeps _ _ _)
    | with_reducible refine Keeps.ite ?_ ?_
    | split
    | extract_lets -merge
    | rintro _ ⟨⟩
    | with_reducible apply Keeps.getD
    | contradiction
    | intro _ _
    | refine Keeps.fst ?_ (by with_reducible assumption)
    | dsimp +zetaDelta only

theorem State.countF_keeps (a0 : Fld) (a1 : Nat) (s : State) : Keeps 0x2 s (State.countF a0 a1 s) := by
  unfold State.countF
  repeat' first
    | exact Eq.refl _
    | exact fun _ => Eq.refl _
    | with_reducible exact Keeps.refl _ _
    | assumption
    | with_reducible apply Keeps.after (State.setF_keeps _ _ _)
    | with_reducible refine Keeps.ite ?_ ?_
    | split
    | extract_lets -merge
    | rintro _ ⟨⟩
    | with_reducible apply Keeps.getD
    | contradiction
    | intro _ _
    | refine Keeps.fst ?_ (by with_reducible assumption)
    | dsimp +zetaDelta only

theorem State.count64_keeps (a0 : Fld) (a1 : Fld) (a2 : Nat) (s : State) : Keeps 0x2 s (State.count64 a0 a1 a2 s) := by
  unfold State.count64
  repeat' first
    | exact Eq.refl _
    | exact fun _ => Eq.refl _
    | with_reducible exact Keeps.refl _ _
    | assumption
    | with_reducible apply Keeps.after (State.setF_keeps _ _ _)
    | with_reducible refine Keeps.ite ?_ ?_
    | split
    | extract_lets -merge
    | rintro _ ⟨⟩
    | with_reducible apply Keeps.getD
    | contradiction
    | intro _ _
    | refine Keeps.fst ?_ (by with_reducible assumption)
    | dsimp +zetaDelta only

theorem State.set64_keeps (a0 : Fld) (a1 : Fld) (a2 : Nat) (s : State) : Keeps 0x2 s (State.set64 a0 a1 a2 s) := by
  unfold State.set64
  repeat' first
    | exact Eq.refl _
    | exact fun _ => Eq.refl _
    | with_reducible exact Keeps.refl _ _
    | assumption
    | with_reducible apply Keeps.after (State.setF_keeps _ _ _)
    | with_reducible refine Keeps.ite ?_ ?_
    | split
    | extract_lets -merge
    | rintro _ ⟨⟩
    | with_reducible apply Keeps.getD
    | contradiction
    | intro _ _
    | refine Keeps.fst ?_ (by with_reducible assumption)
    | dsimp +zetaDelta only

theorem State.emit_keeps (a0 : Msg) (s : State) : Keeps 0x40000000000 s (State.emit a0 s) := by
  unfold State.emit
  repeat' first
    | exact Eq.refl _
    | exact fun _ => Eq.refl _
    | with_reducible exact Keeps.refl _ _
    | assumption
    | with_reducible apply Keeps.after (State.putOut_keeps _ _)
    | with_reducible refine Keeps.ite ?_ ?_
    | split
    | extract_lets -merge
    | rintro _ ⟨⟩
    | with_reducible apply Keeps.getD
    | contradiction
    | intro _ _
    | refine Keeps.fst ?_ (by with_reducible assumption)
    | dsimp +zetaDelta only

theorem State.freeStep_keeps (s : State) : Keeps 0x80000000000 s (State.freeStep s) := by
  unfold State.freeStep
  repeat' first
    | exact Eq.refl _
    | exact fun _ => Eq.refl _
    | with_reducible exact Keeps.refl _ _
    | assumption
    | with_reducible apply Keeps.after (State.putFree_keeps _ _)
    | with_reducible refine Keeps.ite ?_ ?_
    | split
    | extract_lets -merge
    | rintro _ ⟨⟩
    | with_reducible apply Keeps.getD
    | contradiction
    | intro _ _
    | refine Keeps.fst ?_ (by with_reducible assumption)
    | dsimp +zetaDelta only

theorem State.advance_keeps (a0 : Nat) (s : State) : Keeps 0x40 s (State.advance a0 s) := by
  unfold State.advance
  repeat' first
    | exact Eq.refl _
    | exact fun _ => Eq.refl _
    | with_reducible exact Keeps.refl _ _
    | assumption
    | with_reducible apply Keeps.after (State.putClk_keeps _ _)
    | with_reducible refine Keeps.ite ?_ ?_
    | split
    | extract_lets -merge
    | rintro _ ⟨⟩
    | with_reducible apply Keeps.getD
    | contradiction
    | intro _ _
    | refine Keeps.fst ?_ (by with_reducible assumption)
    | dsimp +zetaDelta only

end Sys2Proof.Machine
end

