-- ==== Sys2Proof/Laws/KeepsEvents.lean ====
section
/-!
SUPPORT. What the operations of Machine/Events.lean leave unchanged.
-/
namespace Sys2Proof.Machine

theorem State.setLd_keeps (a0 : Nat) (a1 : LdState) (s : State) : Keeps 0x400000 s (State.setLd a0 a1 s) := by
  unfold State.setLd
  repeat' first
    | exact Eq.refl _
    | exact fun _ => Eq.refl _
    | with_reducible exact Keeps.refl _ _
    | assumption
    | with_reducible apply Keeps.after (State.putLds_keeps _ _)
    | with_reducible refine Keeps.ite ?_ ?_
    | split
    | extract_lets -merge
    | rintro _ ⟨⟩
    | with_reducible apply Keeps.getD
    | contradiction
    | intro _ _
    | refine Keeps.fst ?_ (by with_reducible assumption)
    | dsimp +zetaDelta only

theorem State.sendVector_keeps (a0 : Nat) (a1 : Nat) (s : State) : Keeps 0x40000000400 s (State.sendVector a0 a1 s) := by
  unfold State.sendVector
  repeat' first
    | exact Eq.refl _
    | exact fun _ => Eq.refl _
    | with_reducible exact Keeps.refl _ _
    | assumption
    | with_reducible apply Keeps.after (State.putMsixPend_keeps _ _)
    | with_reducible apply Keeps.after (State.emit_keeps _ _)
    | with_reducible refine Keeps.ite ?_ ?_
    | split
    | extract_lets -merge
    | rintro _ ⟨⟩
    | with_reducible apply Keeps.getD
    | contradiction
    | intro _ _
    | refine Keeps.fst ?_ (by with_reducible assumption)
    | dsimp +zetaDelta only

theorem State.driveAlert_keeps (s : State) : Keeps 0x20 s (State.driveAlert s) := by
  unfold State.driveAlert
  repeat' first
    | exact Eq.refl _
    | exact fun _ => Eq.refl _
    | with_reducible exact Keeps.refl _ _
    | assumption
    | with_reducible apply Keeps.after (State.putPins_keeps _ _)
    | with_reducible refine Keeps.ite ?_ ?_
    | split
    | extract_lets -merge
    | rintro _ ⟨⟩
    | with_reducible apply Keeps.getD
    | contradiction
    | intro _ _
    | refine Keeps.fst ?_ (by with_reducible assumption)
    | dsimp +zetaDelta only

theorem State.presentAt_keeps (a0 : Nat) (s : State) : Keeps 0x40000000522 s (State.presentAt a0 s) := by
  unfold State.presentAt
  repeat' first
    | exact Eq.refl _
    | exact fun _ => Eq.refl _
    | with_reducible exact Keeps.refl _ _
    | assumption
    | with_reducible apply Keeps.after (State.putIntc_keeps _ _)
    | with_reducible apply Keeps.after (State.setF_keeps _ _ _)
    | with_reducible apply Keeps.after (State.countF_keeps _ _ _)
    | with_reducible apply Keeps.after (State.sendVector_keeps _ _ _)
    | with_reducible apply Keeps.after (State.driveAlert_keeps _)
    | with_reducible refine Keeps.ite ?_ ?_
    | split
    | extract_lets -merge
    | rintro _ ⟨⟩
    | with_reducible apply Keeps.getD
    | contradiction
    | intro _ _
    | refine Keeps.fst ?_ (by with_reducible assumption)
    | dsimp +zetaDelta only

theorem State.presentAll_keeps (s : State) : Keeps 0x40000000522 s (State.presentAll s) := by
  unfold State.presentAll
  repeat' first
    | exact Eq.refl _
    | exact fun _ => Eq.refl _
    | with_reducible exact Keeps.refl _ _
    | assumption
    | with_reducible apply Keeps.after (State.presentAt_keeps _ _)
    | with_reducible refine Keeps.foldl (fun _ _ => ?_) _ ?_
    | with_reducible refine Keeps.foldlFst (fun _ _ _ => ?_) _ ?_
    | with_reducible refine Keeps.foldlSnd (fun _ _ _ => ?_) _ ?_
    | with_reducible refine Keeps.ite ?_ ?_
    | split
    | extract_lets -merge
    | rintro _ ⟨⟩
    | with_reducible apply Keeps.getD
    | contradiction
    | intro _ _
    | refine Keeps.fst ?_ (by with_reducible assumption)
    | dsimp +zetaDelta only

theorem State.markUnseen_keeps (a0 : Nat) (s : State) : Keeps 0x100 s (State.markUnseen a0 s) := by
  unfold State.markUnseen
  repeat' first
    | exact Eq.refl _
    | exact fun _ => Eq.refl _
    | with_reducible exact Keeps.refl _ _
    | assumption
    | with_reducible apply Keeps.after (State.putIntc_keeps _ _)
    | with_reducible refine Keeps.foldl (fun _ _ => ?_) _ ?_
    | with_reducible refine Keeps.foldlFst (fun _ _ _ => ?_) _ ?_
    | with_reducible refine Keeps.foldlSnd (fun _ _ _ => ?_) _ ?_
    | with_reducible refine Keeps.ite ?_ ?_
    | split
    | extract_lets -merge
    | rintro _ ⟨⟩
    | with_reducible apply Keeps.getD
    | contradiction
    | intro _ _
    | refine Keeps.fst ?_ (by with_reducible assumption)
    | dsimp +zetaDelta only

theorem State.vectorZero_keeps (a0 : Nat) (s : State) : Keeps 0x40000000400 s (State.vectorZero a0 s) := by
  unfold State.vectorZero
  repeat' first
    | exact Eq.refl _
    | exact fun _ => Eq.refl _
    | with_reducible exact Keeps.refl _ _
    | assumption
    | with_reducible apply Keeps.after (State.sendVector_keeps _ _ _)
    | with_reducible refine Keeps.foldl (fun _ _ => ?_) _ ?_
    | with_reducible refine Keeps.foldlFst (fun _ _ _ => ?_) _ ?_
    | with_reducible refine Keeps.foldlSnd (fun _ _ _ => ?_) _ ?_
    | with_reducible refine Keeps.ite ?_ ?_
    | split
    | extract_lets -merge
    | rintro _ ⟨⟩
    | with_reducible apply Keeps.getD
    | contradiction
    | intro _ _
    | refine Keeps.fst ?_ (by with_reducible assumption)
    | dsimp +zetaDelta only

theorem State.fire_keeps (a0 : Nat) (s : State) : Keeps 0x40000000522 s (State.fire a0 s) := by
  unfold State.fire
  repeat' first
    | exact Eq.refl _
    | exact fun _ => Eq.refl _
    | with_reducible exact Keeps.refl _ _
    | assumption
    | with_reducible apply Keeps.after (State.setF_keeps _ _ _)
    | with_reducible apply Keeps.after (State.presentAll_keeps _)
    | with_reducible apply Keeps.after (State.vectorZero_keeps _ _)
    | with_reducible apply Keeps.after (State.markUnseen_keeps _ _)
    | with_reducible refine Keeps.ite ?_ ?_
    | split
    | extract_lets -merge
    | rintro _ ⟨⟩
    | with_reducible apply Keeps.getD
    | contradiction
    | intro _ _
    | refine Keeps.fst ?_ (by with_reducible assumption)
    | dsimp +zetaDelta only

theorem State.ackTarget_keeps (a0 : Nat) (a1 : Nat) (s : State) : Keeps 0x40000000522 s (State.ackTarget a0 a1 s) := by
  unfold State.ackTarget
  repeat' first
    | exact Eq.refl _
    | exact fun _ => Eq.refl _
    | with_reducible exact Keeps.refl _ _
    | assumption
    | with_reducible apply Keeps.after (State.putIntc_keeps _ _)
    | with_reducible apply Keeps.after (State.setF_keeps _ _ _)
    | with_reducible apply Keeps.after (State.putPins_keeps _ _)
    | with_reducible apply Keeps.after (State.presentAt_keeps _ _)
    | with_reducible apply Keeps.after (State.driveAlert_keeps _)
    | with_reducible apply Keeps.after (State.countF_keeps _ _ _)
    | with_reducible refine Keeps.ite ?_ ?_
    | split
    | extract_lets -merge
    | rintro _ ⟨⟩
    | with_reducible apply Keeps.getD
    | contradiction
    | intro _ _
    | refine Keeps.fst ?_ (by with_reducible assumption)
    | dsimp +zetaDelta only

theorem State.setTack_keeps (a0 : Nat) (a1 : Word) (s : State) : Keeps 0x10000 s (State.setTack a0 a1 s) := by
  unfold State.setTack
  repeat' first
    | exact Eq.refl _
    | exact fun _ => Eq.refl _
    | with_reducible exact Keeps.refl _ _
    | assumption
    | with_reducible apply Keeps.after (State.putKeep_keeps _ _ ?_)
    | with_reducible exact fun c => ⟨c.tackOk, c.hemOk⟩
    | with_reducible exact fun c => ⟨Tab.wf_set _ _ _ _ c.tackOk, c.hemOk⟩
    | with_reducible exact fun c => ⟨c.tackOk, Tab.wf_set _ _ _ _ c.hemOk⟩
    | with_reducible exact fun c => c.memOk
    | with_reducible exact fun c => c.flashOk
    | with_reducible exact fun c => Tab.wf_setBytes _ _ _ _ c.memOk
    | with_reducible exact fun c => Tab.wf_filter _ _ _ c.memOk
    | with_reducible refine Keeps.ite ?_ ?_
    | split
    | extract_lets -merge
    | rintro _ ⟨⟩
    | with_reducible apply Keeps.getD
    | contradiction
    | intro _ _
    | refine Keeps.fst ?_ (by with_reducible assumption)
    | dsimp +zetaDelta only

theorem State.setTackBytes_keeps (a0 : Nat) (a1 : List Byte) (s : State) : Keeps 0x10000 s (State.setTackBytes a0 a1 s) := by
  unfold State.setTackBytes
  repeat' first
    | exact Eq.refl _
    | exact fun _ => Eq.refl _
    | with_reducible exact Keeps.refl _ _
    | assumption
    | with_reducible apply Keeps.after (State.setTack_keeps _ _ _)
    | with_reducible refine Keeps.foldl (fun _ _ => ?_) _ ?_
    | with_reducible refine Keeps.foldlFst (fun _ _ _ => ?_) _ ?_
    | with_reducible refine Keeps.foldlSnd (fun _ _ _ => ?_) _ ?_
    | with_reducible refine Keeps.ite ?_ ?_
    | split
    | extract_lets -merge
    | rintro _ ⟨⟩
    | with_reducible apply Keeps.getD
    | contradiction
    | intro _ _
    | refine Keeps.fst ?_ (by with_reducible assumption)
    | dsimp +zetaDelta only

theorem State.refuseWrite_keeps (s : State) : Keeps 0x40000010522 s (State.refuseWrite s) := by
  unfold State.refuseWrite
  repeat' first
    | exact Eq.refl _
    | exact fun _ => Eq.refl _
    | with_reducible exact Keeps.refl _ _
    | assumption
    | with_reducible apply Keeps.after (State.countF_keeps _ _ _)
    | with_reducible apply Keeps.after (State.fire_keeps _ _)
    | with_reducible apply Keeps.after (State.putKeep_keeps _ _ ?_)
    | with_reducible exact fun c => ⟨c.tackOk, c.hemOk⟩
    | with_reducible exact fun c => ⟨Tab.wf_set _ _ _ _ c.tackOk, c.hemOk⟩
    | with_reducible exact fun c => ⟨c.tackOk, Tab.wf_set _ _ _ _ c.hemOk⟩
    | with_reducible exact fun c => c.memOk
    | with_reducible exact fun c => c.flashOk
    | with_reducible exact fun c => Tab.wf_setBytes _ _ _ _ c.memOk
    | with_reducible exact fun c => Tab.wf_filter _ _ _ c.memOk
    | with_reducible refine Keeps.ite ?_ ?_
    | split
    | extract_lets -merge
    | rintro _ ⟨⟩
    | with_reducible apply Keeps.getD
    | contradiction
    | intro _ _
    | refine Keeps.fst ?_ (by with_reducible assumption)
    | dsimp +zetaDelta only

theorem State.keepResume_keeps (s : State) : Keeps 0x10000 s (State.keepResume s) := by
  unfold State.keepResume
  repeat' first
    | exact Eq.refl _
    | exact fun _ => Eq.refl _
    | with_reducible exact Keeps.refl _ _
    | assumption
    | with_reducible apply Keeps.after (State.putKeep_keeps _ _ ?_)
    | with_reducible exact fun c => ⟨c.tackOk, c.hemOk⟩
    | with_reducible exact fun c => ⟨Tab.wf_set _ _ _ _ c.tackOk, c.hemOk⟩
    | with_reducible exact fun c => ⟨c.tackOk, Tab.wf_set _ _ _ _ c.hemOk⟩
    | with_reducible exact fun c => c.memOk
    | with_reducible exact fun c => c.flashOk
    | with_reducible exact fun c => Tab.wf_setBytes _ _ _ _ c.memOk
    | with_reducible exact fun c => Tab.wf_filter _ _ _ c.memOk
    | with_reducible refine Keeps.ite ?_ ?_
    | split
    | extract_lets -merge
    | rintro _ ⟨⟩
    | with_reducible apply Keeps.getD
    | contradiction
    | intro _ _
    | refine Keeps.fst ?_ (by with_reducible assumption)
    | dsimp +zetaDelta only

theorem State.lifetimeWrite_keeps (a0 : Nat) (a1 : Nat) (s : State) : Keeps 0x10000 s (State.lifetimeWrite a0 a1 s) := by
  unfold State.lifetimeWrite
  repeat' first
    | exact Eq.refl _
    | exact fun _ => Eq.refl _
    | with_reducible exact Keeps.refl _ _
    | assumption
    | with_reducible apply Keeps.after (State.setTack_keeps _ _ _)
    | with_reducible refine Keeps.ite ?_ ?_
    | split
    | extract_lets -merge
    | rintro _ ⟨⟩
    | with_reducible apply Keeps.getD
    | contradiction
    | intro _ _
    | refine Keeps.fst ?_ (by with_reducible assumption)
    | dsimp +zetaDelta only

theorem State.lifetime_keeps (a0 : Nat) (s : State) : Keeps 0x40000010522 s (State.lifetime a0 s) := by
  unfold State.lifetime
  repeat' first
    | exact Eq.refl _
    | exact fun _ => Eq.refl _
    | with_reducible exact Keeps.refl _ _
    | assumption
    | with_reducible apply Keeps.after (State.lifetimeWrite_keeps _ _ _)
    | with_reducible apply Keeps.after (State.refuseWrite_keeps _)
    | with_reducible apply Keeps.after (State.putKeep_keeps _ _ ?_)
    | with_reducible exact fun c => ⟨c.tackOk, c.hemOk⟩
    | with_reducible exact fun c => ⟨Tab.wf_set _ _ _ _ c.tackOk, c.hemOk⟩
    | with_reducible exact fun c => ⟨c.tackOk, Tab.wf_set _ _ _ _ c.hemOk⟩
    | with_reducible exact fun c => c.memOk
    | with_reducible exact fun c => c.flashOk
    | with_reducible exact fun c => Tab.wf_setBytes _ _ _ _ c.memOk
    | with_reducible exact fun c => Tab.wf_filter _ _ _ c.memOk
    | with_reducible refine Keeps.ite ?_ ?_
    | split
    | extract_lets -merge
    | rintro _ ⟨⟩
    | with_reducible apply Keeps.getD
    | contradiction
    | intro _ _
    | refine Keeps.fst ?_ (by with_reducible assumption)
    | dsimp +zetaDelta only

theorem State.hamWriteA_keeps (a0 : HamRec) (s : State) : Keeps 0x10000 s (State.hamWriteA a0 s) := by
  unfold State.hamWriteA
  repeat' first
    | exact Eq.refl _
    | exact fun _ => Eq.refl _
    | with_reducible exact Keeps.refl _ _
    | assumption
    | with_reducible apply Keeps.after (State.setTack_keeps _ _ _)
    | with_reducible apply Keeps.after (State.setTackBytes_keeps _ _ _)
    | with_reducible refine Keeps.ite ?_ ?_
    | split
    | extract_lets -merge
    | rintro _ ⟨⟩
    | with_reducible apply Keeps.getD
    | contradiction
    | intro _ _
    | refine Keeps.fst ?_ (by with_reducible assumption)
    | dsimp +zetaDelta only

theorem State.hamProgram_keeps (a0 : Nat) (a1 : Bool) (a2 : Nat) (s : State) (a4 : List HamRec) : Keeps 0x20000 s (State.hamProgram a0 a1 a2 s a4) := by
  unfold State.hamProgram
  repeat' first
    | exact Eq.refl _
    | exact fun _ => Eq.refl _
    | with_reducible exact Keeps.refl _ _
    | assumption
    | with_reducible apply Keeps.after (State.putHam_keeps _ _)
    | with_reducible refine Keeps.ite ?_ ?_
    | split
    | extract_lets -merge
    | rintro _ ⟨⟩
    | with_reducible apply Keeps.getD
    | contradiction
    | intro _ _
    | refine Keeps.fst ?_ (by with_reducible assumption)
    | dsimp +zetaDelta only

theorem State.hamReplica_keeps (a0 : Nat) (a1 : Bool) (a2 : Nat) (a3 : List HamRec) (s : State) : Keeps 0x20000 s (State.hamReplica a0 a1 a2 a3 s) := by
  unfold State.hamReplica
  repeat' first
    | exact Eq.refl _
    | exact fun _ => Eq.refl _
    | with_reducible exact Keeps.refl _ _
    | assumption
    | with_reducible apply Keeps.after (State.putHam_keeps _ _)
    | with_reducible apply Keeps.after (State.hamProgram_keeps _ _ _ _ _)
    | with_reducible refine Keeps.foldl (fun _ _ => ?_) _ ?_
    | with_reducible refine Keeps.foldlFst (fun _ _ _ => ?_) _ ?_
    | with_reducible refine Keeps.foldlSnd (fun _ _ _ => ?_) _ ?_
    | with_reducible refine Keeps.ite ?_ ?_
    | split
    | extract_lets -merge
    | rintro _ ⟨⟩
    | with_reducible apply Keeps.getD
    | contradiction
    | intro _ _
    | refine Keeps.fst ?_ (by with_reducible assumption)
    | dsimp +zetaDelta only

theorem State.hamFlushB_keeps (s : State) : Keeps 0x20000 s (State.hamFlushB s) := by
  unfold State.hamFlushB
  repeat' first
    | exact Eq.refl _
    | exact fun _ => Eq.refl _
    | with_reducible exact Keeps.refl _ _
    | assumption
    | with_reducible apply Keeps.after (State.hamReplica_keeps _ _ _ _ _)
    | with_reducible apply Keeps.after (State.putHam_keeps _ _)
    | with_reducible refine Keeps.foldl (fun _ _ => ?_) _ ?_
    | with_reducible refine Keeps.foldlFst (fun _ _ _ => ?_) _ ?_
    | with_reducible refine Keeps.foldlSnd (fun _ _ _ => ?_) _ ?_
    | with_reducible refine Keeps.ite ?_ ?_
    | split
    | extract_lets -merge
    | rintro _ ⟨⟩
    | with_reducible apply Keeps.getD
    | contradiction
    | intro _ _
    | refine Keeps.fst ?_ (by with_reducible assumption)
    | dsimp +zetaDelta only

theorem State.hamGatherB_keeps (a0 : HamRec) (s : State) : Keeps 0x20000 s (State.hamGatherB a0 s) := by
  unfold State.hamGatherB
  repeat' first
    | exact Eq.refl _
    | exact fun _ => Eq.refl _
    | with_reducible exact Keeps.refl _ _
    | assumption
    | with_reducible apply Keeps.after (State.putHam_keeps _ _)
    | with_reducible apply Keeps.after (State.hamFlushB_keeps _)
    | with_reducible refine Keeps.ite ?_ ?_
    | split
    | extract_lets -merge
    | rintro _ ⟨⟩
    | with_reducible apply Keeps.getD
    | contradiction
    | intro _ _
    | refine Keeps.fst ?_ (by with_reducible assumption)
    | dsimp +zetaDelta only

theorem State.hamRegs_keeps (s : State) : Keeps 0x2 s (State.hamRegs s) := by
  unfold State.hamRegs
  repeat' first
    | exact Eq.refl _
    | exact fun _ => Eq.refl _
    | with_reducible exact Keeps.refl _ _
    | assumption
    | with_reducible apply Keeps.after (State.setFlag_keeps _ _ _)
    | with_reducible apply Keeps.after (State.setF_keeps _ _ _)
    | with_reducible apply Keeps.after (State.set64_keeps _ _ _ _)
    | with_reducible refine Keeps.ite ?_ ?_
    | split
    | extract_lets -merge
    | rintro _ ⟨⟩
    | with_reducible apply Keeps.getD
    | contradiction
    | intro _ _
    | refine Keeps.fst ?_ (by with_reducible assumption)
    | dsimp +zetaDelta only

theorem State.hamHold_keeps (a0 : HamRec) (s : State) : Keeps 0x40000030522 s (State.hamHold a0 s) := by
  unfold State.hamHold
  repeat' first
    | exact Eq.refl _
    | exact fun _ => Eq.refl _
    | with_reducible exact Keeps.refl _ _
    | assumption
    | with_reducible apply Keeps.after (State.putHam_keeps _ _)
    | with_reducible apply Keeps.after (State.refuseWrite_keeps _)
    | with_reducible apply Keeps.after (State.countF_keeps _ _ _)
    | with_reducible apply Keeps.after (State.fire_keeps _ _)
    | with_reducible refine Keeps.ite ?_ ?_
    | split
    | extract_lets -merge
    | rintro _ ⟨⟩
    | with_reducible apply Keeps.getD
    | contradiction
    | intro _ _
    | refine Keeps.fst ?_ (by with_reducible assumption)
    | dsimp +zetaDelta only

theorem State.hamper_keeps (a0 : Nat) (a1 : Nat) (a2 : List Byte) (s : State) : Keeps 0x40000030522 s (State.hamper a0 a1 a2 s) := by
  unfold State.hamper
  repeat' first
    | exact Eq.refl _
    | exact fun _ => Eq.refl _
    | with_reducible exact Keeps.refl _ _
    | assumption
    | with_reducible apply Keeps.after (State.putHam_keeps _ _)
    | with_reducible apply Keeps.after (State.hamGatherB_keeps _ _)
    | with_reducible apply Keeps.after (State.hamWriteA_keeps _ _)
    | with_reducible apply Keeps.after (State.hamHold_keeps _ _)
    | with_reducible apply Keeps.after (State.hamRegs_keeps _)
    | with_reducible refine Keeps.ite ?_ ?_
    | split
    | extract_lets -merge
    | rintro _ ⟨⟩
    | with_reducible apply Keeps.getD
    | contradiction
    | intro _ _
    | refine Keeps.fst ?_ (by with_reducible assumption)
    | dsimp +zetaDelta only

theorem State.fireRec_keeps (a0 : Nat) (a1 : Nat) (a2 : List Byte) (s : State) : Keeps 0x40000030522 s (State.fireRec a0 a1 a2 s) := by
  unfold State.fireRec
  repeat' first
    | exact Eq.refl _
    | exact fun _ => Eq.refl _
    | with_reducible exact Keeps.refl _ _
    | assumption
    | with_reducible apply Keeps.after (State.hamper_keeps _ _ _ _)
    | with_reducible apply Keeps.after (State.fire_keeps _ _)
    | with_reducible refine Keeps.ite ?_ ?_
    | split
    | extract_lets -merge
    | rintro _ ⟨⟩
    | with_reducible apply Keeps.getD
    | contradiction
    | intro _ _
    | refine Keeps.fst ?_ (by with_reducible assumption)
    | dsimp +zetaDelta only

end Sys2Proof.Machine
end

