-- ==== Sys2Proof/Laws/KeepsAccess.lean ====
section
/-!
SUPPORT. What the operations of Machine/Access.lean leave unchanged.
-/
namespace Sys2Proof.Machine

theorem State.deny_keeps (a0 : Nat) (a1 : Nat) (a2 : Nat) (a3 : Nat) (a4 : Nat) (s : State) : Keeps 0x400000305a2 s (State.deny a0 a1 a2 a3 a4 s) := by
  unfold State.deny
  repeat' first
    | exact Eq.refl _
    | exact fun _ => Eq.refl _
    | with_reducible exact Keeps.refl _ _
    | assumption
    | with_reducible apply Keeps.after (State.countF_keeps _ _ _)
    | with_reducible apply Keeps.after (State.putRate_keeps _ _)
    | with_reducible apply Keeps.after (State.fireRec_keeps _ _ _ _)
    | with_reducible apply Keeps.after (State.fire_keeps _ _)
    | with_reducible refine Keeps.ite ?_ ?_
    | split
    | extract_lets -merge
    | rintro _ ⟨⟩
    | with_reducible apply Keeps.getD
    | contradiction
    | intro _ _
    | refine Keeps.fst ?_ (by with_reducible assumption)
    | dsimp +zetaDelta only

theorem State.aerAbort_keeps (a0 : Nat) (a1 : Nat) (s : State) : Keeps 0x200000 s (State.aerAbort a0 a1 s) := by
  unfold State.aerAbort
  repeat' first
    | exact Eq.refl _
    | exact fun _ => Eq.refl _
    | with_reducible exact Keeps.refl _ _
    | assumption
    | with_reducible apply Keeps.after (State.putPorts_keeps _ _)
    | with_reducible refine Keeps.ite ?_ ?_
    | split
    | extract_lets -merge
    | rintro _ ⟨⟩
    | with_reducible apply Keeps.getD
    | contradiction
    | intro _ _
    | refine Keeps.fst ?_ (by with_reducible assumption)
    | dsimp +zetaDelta only

theorem State.report_keeps (a0 : Nat) (a1 : Nat) (a2 : Access) (s : State) : Keeps 0x40000200000 s (State.report a0 a1 a2 s) := by
  unfold State.report
  repeat' first
    | exact Eq.refl _
    | exact fun _ => Eq.refl _
    | with_reducible exact Keeps.refl _ _
    | assumption
    | with_reducible apply Keeps.after (State.emit_keeps _ _)
    | with_reducible apply Keeps.after (State.aerAbort_keeps _ _ _)
    | with_reducible refine Keeps.ite ?_ ?_
    | split
    | extract_lets -merge
    | rintro _ ⟨⟩
    | with_reducible apply Keeps.getD
    | contradiction
    | intro _ _
    | refine Keeps.fst ?_ (by with_reducible assumption)
    | dsimp +zetaDelta only

theorem State.regAction_keeps {m : Nat} {a3 : State → State} {s0 : State} (hm : 0x400002305a2 ||| m = m) (h3 : ∀ x0, Keeps m x0 (a3 x0)) (a0 : Nat) (a1 : Nat) (a2 : Bool) (s : State) (h : Keeps m s0 s) : Keeps m s0 (State.regAction a0 a1 a2 a3 s) := by
  unfold State.regAction
  repeat' first
    | exact Eq.refl _
    | exact fun _ => Eq.refl _
    | with_reducible exact Keeps.refl _ _
    | assumption
    | with_reducible apply Keeps.after (State.report_keeps _ _ _ _)
    | with_reducible apply Keeps.after (State.deny_keeps _ _ _ _ _ _)
    | with_reducible apply Keeps.after (h3 _)
    | exact Nat.or_self m
    | exact Keeps.sub rfl hm
    | with_reducible refine Keeps.ite ?_ ?_
    | split
    | extract_lets -merge
    | rintro _ ⟨⟩
    | with_reducible apply Keeps.getD
    | contradiction
    | intro _ _
    | refine Keeps.fst ?_ (by with_reducible assumption)
    | dsimp +zetaDelta only

theorem State.setPend_keeps (a0 : Nat) (s : State) : Keeps 0x2 s (State.setPend a0 s) := by
  unfold State.setPend
  repeat' first
    | exact Eq.refl _
    | exact fun _ => Eq.refl _
    | with_reducible exact Keeps.refl _ _
    | assumption
    | with_reducible apply Keeps.after (State.setF_keeps _ _ _)
    | with_reducible refine Keeps.ite ?_ ?_
    | split
    | extract_lets -merge
    | rintro _ ⟨⟩
    | with_reducible apply Keeps.getD
    | contradiction
    | intro _ _
    | refine Keeps.fst ?_ (by with_reducible assumption)
    | dsimp +zetaDelta only

theorem State.storeWord_keeps (a0 : Nat) (a1 : RegDesc) (a2 : Nat) (s : State) : Keeps 0x6 s (State.storeWord a0 a1 a2 s) := by
  unfold State.storeWord
  repeat' first
    | exact Eq.refl _
    | exact fun _ => Eq.refl _
    | with_reducible exact Keeps.refl _ _
    | assumption
    | with_reducible apply Keeps.after (State.putShadow_keeps _ _)
    | with_reducible apply Keeps.after (State.setPend_keeps _ _)
    | with_reducible apply Keeps.after (State.setReg_keeps _ _ _)
    | with_reducible refine Keeps.ite ?_ ?_
    | split
    | extract_lets -merge
    | rintro _ ⟨⟩
    | with_reducible apply Keeps.getD
    | contradiction
    | intro _ _
    | refine Keeps.fst ?_ (by with_reducible assumption)
    | dsimp +zetaDelta only

theorem State.writeWord_keeps (a0 : Nat) (a1 : RegDesc) (a2 : Nat) (s : State) : Keeps 0xe s (State.writeWord a0 a1 a2 s) := by
  unfold State.writeWord
  repeat' first
    | exact Eq.refl _
    | exact fun _ => Eq.refl _
    | with_reducible exact Keeps.refl _ _
    | assumption
    | with_reducible apply Keeps.after (State.putHeld_keeps _ _)
    | with_reducible apply Keeps.after (State.storeWord_keeps _ _ _ _)
    | with_reducible apply Keeps.after (State.setReg_keeps _ _ _)
    | with_reducible refine Keeps.ite ?_ ?_
    | split
    | extract_lets -merge
    | rintro _ ⟨⟩
    | with_reducible apply Keeps.getD
    | contradiction
    | intro _ _
    | refine Keeps.fst ?_ (by with_reducible assumption)
    | dsimp +zetaDelta only

theorem State.loadWord_keeps (a0 : Nat) (a1 : Word) (s : State) : Keeps 0x6 s (State.loadWord a0 a1 s) := by
  unfold State.loadWord
  repeat' first
    | exact Eq.refl _
    | exact fun _ => Eq.refl _
    | with_reducible exact Keeps.refl _ _
    | assumption
    | with_reducible apply Keeps.after (State.setReg_keeps _ _ _)
    | with_reducible apply Keeps.after (State.putShadow_keeps _ _)
    | with_reducible refine Keeps.ite ?_ ?_
    | split
    | extract_lets -merge
    | rintro _ ⟨⟩
    | with_reducible apply Keeps.getD
    | contradiction
    | intro _ _
    | refine Keeps.fst ?_ (by with_reducible assumption)
    | dsimp +zetaDelta only

theorem State.applySeam_keeps (a0 : Block) (a1 : Nat) (s : State) : Keeps 0x6 s (State.applySeam a0 a1 s) := by
  unfold State.applySeam
  repeat' first
    | exact Eq.refl _
    | exact fun _ => Eq.refl _
    | with_reducible exact Keeps.refl _ _
    | assumption
    | with_reducible apply Keeps.after (State.setReg_keeps _ _ _)
    | with_reducible apply Keeps.after (State.putShadow_keeps _ _)
    | with_reducible apply Keeps.after (State.setF_keeps _ _ _)
    | with_reducible refine Keeps.foldl (fun _ _ => ?_) _ ?_
    | with_reducible refine Keeps.foldlFst (fun _ _ _ => ?_) _ ?_
    | with_reducible refine Keeps.foldlSnd (fun _ _ _ => ?_) _ ?_
    | with_reducible refine Keeps.ite ?_ ?_
    | split
    | extract_lets -merge
    | rintro _ ⟨⟩
    | with_reducible apply Keeps.getD
    | contradiction
    | intro _ _
    | refine Keeps.fst ?_ (by with_reducible assumption)
    | dsimp +zetaDelta only

end Sys2Proof.Machine
end

