-- ==== Sys2Proof/Laws/KeepsInterrupt.lean ====
section
/-!
SUPPORT. What the operations of Machine/Interrupt.lean leave unchanged.
-/
namespace Sys2Proof.Machine

theorem State.quietBegin_keeps (s : State) : Keeps 0x100 s (State.quietBegin s) := by
  unfold State.quietBegin
  repeat' first
    | exact Eq.refl _
    | exact fun _ => Eq.refl _
    | with_reducible exact Keeps.refl _ _
    | assumption
    | with_reducible apply Keeps.after (State.putIntc_keeps _ _)
    | with_reducible refine Keeps.ite ?_ ?_
    | split
    | extract_lets -merge
    | rintro _ ⟨⟩
    | with_reducible apply Keeps.getD
    | contradiction
    | intro _ _
    | refine Keeps.fst ?_ (by with_reducible assumption)
    | dsimp +zetaDelta only

theorem State.latchPost_keeps (s : State) : Keeps 0x40000000522 s (State.latchPost s) := by
  unfold State.latchPost
  repeat' first
    | exact Eq.refl _
    | exact fun _ => Eq.refl _
    | with_reducible exact Keeps.refl _ _
    | assumption
    | with_reducible apply Keeps.after (State.putIntc_keeps _ _)
    | with_reducible apply Keeps.after (State.fire_keeps _ _)
    | with_reducible refine Keeps.foldl (fun _ _ => ?_) _ ?_
    | with_reducible refine Keeps.foldlFst (fun _ _ _ => ?_) _ ?_
    | with_reducible refine Keeps.foldlSnd (fun _ _ _ => ?_) _ ?_
    | with_reducible refine Keeps.ite ?_ ?_
    | split
    | extract_lets -merge
    | rintro _ ⟨⟩
    | with_reducible apply Keeps.getD
    | contradiction
    | intro _ _
    | refine Keeps.fst ?_ (by with_reducible assumption)
    | dsimp +zetaDelta only

end Sys2Proof.Machine
end

