-- ==== Sys2Proof/Laws/KeepsKeepsake.lean ====
section
/-!
SUPPORT. What the operations of Machine/Keepsake.lean leave unchanged.
-/
namespace Sys2Proof.Machine

theorem State.calRead_keeps (a0 : Nat) (s : State) : Keeps 0x40000000522 s (State.calRead a0 s) := by
  unfold State.calRead
  repeat' first
    | exact Eq.refl _
    | exact fun _ => Eq.refl _
    | with_reducible exact Keeps.refl _ _
    | assumption
    | with_reducible apply Keeps.after (State.setF_keeps _ _ _)
    | with_reducible apply Keeps.after (State.fire_keeps _ _)
    | with_reducible refine Keeps.ite ?_ ?_
    | split
    | extract_lets -merge
    | rintro _ ⟨⟩
    | with_reducible apply Keeps.getD
    | contradiction
    | intro _ _
    | refine Keeps.fst ?_ (by with_reducible assumption)
    | dsimp +zetaDelta only

theorem State.setHem_keeps (a0 : Nat) (a1 : Word) (s : State) : Keeps 0x10000 s (State.setHem a0 a1 s) := by
  unfold State.setHem
  repeat' first
    | exact Eq.refl _
    | exact fun _ => Eq.refl _
    | with_reducible exact Keeps.refl _ _
    | assumption
    | with_reducible apply Keeps.after (State.putKeep_keeps _ _ ?_)
    | with_reducible exact fun c => ⟨c.tackOk, c.hemOk⟩
    | with_reducible exact fun c => ⟨Tab.wf_set _ _ _ _ c.tackOk, c.hemOk⟩
    | with_reducible exact fun c => ⟨c.tackOk, Tab.wf_set _ _ _ _ c.hemOk⟩
    | with_reducible exact fun c => c.memOk
    | with_reducible exact fun c => c.flashOk
    | with_reducible exact fun c => Tab.wf_setBytes _ _ _ _ c.memOk
    | with_reducible exact fun c => Tab.wf_filter _ _ _ c.memOk
    | with_reducible refine Keeps.ite ?_ ?_
    | split
    | extract_lets -merge
    | rintro _ ⟨⟩
    | with_reducible apply Keeps.getD
    | contradiction
    | intro _ _
    | refine Keeps.fst ?_ (by with_reducible assumption)
    | dsimp +zetaDelta only

theorem State.setHemPage_keeps (a0 : Nat) (a1 : List Byte) (s : State) : Keeps 0x10000 s (State.setHemPage a0 a1 s) := by
  unfold State.setHemPage
  repeat' first
    | exact Eq.refl _
    | exact fun _ => Eq.refl _
    | with_reducible exact Keeps.refl _ _
    | assumption
    | with_reducible apply Keeps.after (State.setHem_keeps _ _ _)
    | with_reducible refine Keeps.foldl (fun _ _ => ?_) _ ?_
    | with_reducible refine Keeps.foldlFst (fun _ _ _ => ?_) _ ?_
    | with_reducible refine Keeps.foldlSnd (fun _ _ _ => ?_) _ ?_
    | with_reducible refine Keeps.ite ?_ ?_
    | split
    | extract_lets -merge
    | rintro _ ⟨⟩
    | with_reducible apply Keeps.getD
    | contradiction
    | intro _ _
    | refine Keeps.fst ?_ (by with_reducible assumption)
    | dsimp +zetaDelta only

theorem State.hemTear_keeps (a0 : HemJob) (s : State) : Keeps 0x80000010000 s (State.hemTear a0 s) := by
  unfold State.hemTear
  repeat' first
    | exact Eq.refl _
    | exact fun _ => Eq.refl _
    | with_reducible exact Keeps.refl _ _
    | assumption
    | with_reducible apply Keeps.after (State.setHem_keeps _ _ _)
    | with_reducible apply Keeps.after (State.freeStep_keeps _)
    | with_reducible refine Keeps.foldl (fun _ _ => ?_) _ ?_
    | with_reducible refine Keeps.foldlFst (fun _ _ _ => ?_) _ ?_
    | with_reducible refine Keeps.foldlSnd (fun _ _ _ => ?_) _ ?_
    | with_reducible refine Keeps.ite ?_ ?_
    | split
    | extract_lets -merge
    | rintro _ ⟨⟩
    | with_reducible apply Keeps.getD
    | contradiction
    | intro _ _
    | refine Keeps.fst ?_ (by with_reducible assumption)
    | dsimp +zetaDelta only

theorem State.programHem_keeps (a0 : Nat) (a1 : List Byte) (s : State) : Keeps 0x40000010522 s (State.programHem a0 a1 s) := by
  unfold State.programHem
  repeat' first
    | exact Eq.refl _
    | exact fun _ => Eq.refl _
    | with_reducible exact Keeps.refl _ _
    | assumption
    | with_reducible apply Keeps.after (State.lifetime_keeps _ _)
    | with_reducible apply Keeps.after (State.setHemPage_keeps _ _ _)
    | with_reducible refine Keeps.ite ?_ ?_
    | split
    | extract_lets -merge
    | rintro _ ⟨⟩
    | with_reducible apply Keeps.getD
    | contradiction
    | intro _ _
    | refine Keeps.fst ?_ (by with_reducible assumption)
    | dsimp +zetaDelta only

theorem State.hamAmbiguous_keeps (a0 : List Nat) (s : State) : Keeps 0x40000030522 s (State.hamAmbiguous a0 s) := by
  unfold State.hamAmbiguous
  repeat' first
    | exact Eq.refl _
    | exact fun _ => Eq.refl _
    | with_reducible exact Keeps.refl _ _
    | assumption
    | with_reducible apply Keeps.after (State.fireRec_keeps _ _ _ _)
    | with_reducible apply Keeps.after (State.countF_keeps _ _ _)
    | with_reducible apply Keeps.after (State.putHam_keeps _ _)
    | with_reducible refine Keeps.foldl (fun _ _ => ?_) _ ?_
    | with_reducible refine Keeps.foldlFst (fun _ _ _ => ?_) _ ?_
    | with_reducible refine Keeps.foldlSnd (fun _ _ _ => ?_) _ ?_
    | with_reducible refine Keeps.ite ?_ ?_
    | split
    | extract_lets -merge
    | rintro _ ⟨⟩
    | with_reducible apply Keeps.getD
    | contradiction
    | intro _ _
    | refine Keeps.fst ?_ (by with_reducible assumption)
    | dsimp +zetaDelta only

theorem State.hamClearWrite_keeps (a0 : Nat) (a1 : HamRec) (s : State) : Keeps 0x40000030522 s (State.hamClearWrite a0 a1 s) := by
  unfold State.hamClearWrite
  repeat' first
    | exact Eq.refl _
    | exact fun _ => Eq.refl _
    | with_reducible exact Keeps.refl _ _
    | assumption
    | with_reducible apply Keeps.after (State.setTack_keeps _ _ _)
    | with_reducible apply Keeps.after (State.setTackBytes_keeps _ _ _)
    | with_reducible apply Keeps.after (State.hamWriteA_keeps _ _)
    | with_reducible apply Keeps.after (State.hamGatherB_keeps _ _)
    | with_reducible apply Keeps.after (State.putHam_keeps _ _)
    | with_reducible apply Keeps.after (State.hamRegs_keeps _)
    | with_reducible apply Keeps.after (State.emit_keeps _ _)
    | with_reducible apply Keeps.after (State.fire_keeps _ _)
    | with_reducible refine Keeps.ite ?_ ?_
    | split
    | extract_lets -merge
    | rintro _ ⟨⟩
    | with_reducible apply Keeps.getD
    | contradiction
    | intro _ _
    | refine Keeps.fst ?_ (by with_reducible assumption)
    | dsimp +zetaDelta only

theorem State.hamRelease_keeps (s : State) : Keeps 0x40000030522 s (State.hamRelease s) := by
  unfold State.hamRelease
  repeat' first
    | exact Eq.refl _
    | exact fun _ => Eq.refl _
    | with_reducible exact Keeps.refl _ _
    | assumption
    | with_reducible apply Keeps.after (State.putHam_keeps _ _)
    | with_reducible apply Keeps.after (State.hamGatherB_keeps _ _)
    | with_reducible apply Keeps.after (State.hamWriteA_keeps _ _)
    | with_reducible apply Keeps.after (State.fire_keeps _ _)
    | with_reducible apply Keeps.after (State.hamRegs_keeps _)
    | with_reducible refine Keeps.foldl (fun _ _ => ?_) _ ?_
    | with_reducible refine Keeps.foldlFst (fun _ _ _ => ?_) _ ?_
    | with_reducible refine Keeps.foldlSnd (fun _ _ _ => ?_) _ ?_
    | with_reducible refine Keeps.ite ?_ ?_
    | split
    | extract_lets -merge
    | rintro _ ⟨⟩
    | with_reducible apply Keeps.getD
    | contradiction
    | intro _ _
    | refine Keeps.fst ?_ (by with_reducible assumption)
    | dsimp +zetaDelta only

theorem State.lifetimeResume_keeps (s : State) : Keeps 0x10000 s (State.lifetimeResume s) := by
  unfold State.lifetimeResume
  repeat' first
    | exact Eq.refl _
    | exact fun _ => Eq.refl _
    | with_reducible exact Keeps.refl _ _
    | assumption
    | with_reducible apply Keeps.after (State.putKeep_keeps _ _ ?_)
    | with_reducible apply Keeps.after (State.lifetimeWrite_keeps _ _ _)
    | with_reducible exact fun c => ⟨c.tackOk, c.hemOk⟩
    | with_reducible exact fun c => ⟨Tab.wf_set _ _ _ _ c.tackOk, c.hemOk⟩
    | with_reducible exact fun c => ⟨c.tackOk, Tab.wf_set _ _ _ _ c.hemOk⟩
    | with_reducible exact fun c => c.memOk
    | with_reducible exact fun c => c.flashOk
    | with_reducible exact fun c => Tab.wf_setBytes _ _ _ _ c.memOk
    | with_reducible exact fun c => Tab.wf_filter _ _ _ c.memOk
    | with_reducible refine Keeps.foldl (fun _ _ => ?_) _ ?_
    | with_reducible refine Keeps.foldlFst (fun _ _ _ => ?_) _ ?_
    | with_reducible refine Keeps.foldlSnd (fun _ _ _ => ?_) _ ?_
    | with_reducible refine Keeps.ite ?_ ?_
    | split
    | extract_lets -merge
    | rintro _ ⟨⟩
    | with_reducible apply Keeps.getD
    | contradiction
    | intro _ _
    | refine Keeps.fst ?_ (by with_reducible assumption)
    | dsimp +zetaDelta only

theorem State.flogClear_keeps (s : State) : Keeps 0x10000 s (State.flogClear s) := by
  unfold State.flogClear
  repeat' first
    | exact Eq.refl _
    | exact fun _ => Eq.refl _
    | with_reducible exact Keeps.refl _ _
    | assumption
    | with_reducible apply Keeps.after (State.setTack_keeps _ _ _)
    | with_reducible refine Keeps.foldl (fun _ _ => ?_) _ ?_
    | with_reducible refine Keeps.foldlFst (fun _ _ _ => ?_) _ ?_
    | with_reducible refine Keeps.foldlSnd (fun _ _ _ => ?_) _ ?_
    | with_reducible refine Keeps.ite ?_ ?_
    | split
    | extract_lets -merge
    | rintro _ ⟨⟩
    | with_reducible apply Keeps.getD
    | contradiction
    | intro _ _
    | refine Keeps.fst ?_ (by with_reducible assumption)
    | dsimp +zetaDelta only

theorem State.flogWrite_keeps (a0 : FLogRec) (s : State) : Keeps 0x10000 s (State.flogWrite a0 s) := by
  unfold State.flogWrite
  repeat' first
    | exact Eq.refl _
    | exact fun _ => Eq.refl _
    | with_reducible exact Keeps.refl _ _
    | assumption
    | with_reducible apply Keeps.after (State.setTackBytes_keeps _ _ _)
    | with_reducible apply Keeps.after (State.flogClear_keeps _)
    | with_reducible refine Keeps.ite ?_ ?_
    | split
    | extract_lets -merge
    | rintro _ ⟨⟩
    | with_reducible apply Keeps.getD
    | contradiction
    | intro _ _
    | refine Keeps.fst ?_ (by with_reducible assumption)
    | dsimp +zetaDelta only

theorem State.tackStore_keeps (a0 : Nat) (a1 : Word) (s : State) : Keeps 0x40000010522 s (State.tackStore a0 a1 s) := by
  unfold State.tackStore
  repeat' first
    | exact Eq.refl _
    | exact fun _ => Eq.refl _
    | with_reducible exact Keeps.refl _ _
    | assumption
    | with_reducible apply Keeps.after (State.setTack_keeps _ _ _)
    | with_reducible apply Keeps.after (State.refuseWrite_keeps _)
    | with_reducible refine Keeps.ite ?_ ?_
    | split
    | extract_lets -merge
    | rintro _ ⟨⟩
    | with_reducible apply Keeps.getD
    | contradiction
    | intro _ _
    | refine Keeps.fst ?_ (by with_reducible assumption)
    | dsimp +zetaDelta only

theorem State.mctpReply_keeps (a0 : Nat) (a1 : Nat) (s : State) : Keeps 0x40000010000 s (State.mctpReply a0 a1 s) := by
  unfold State.mctpReply
  repeat' first
    | exact Eq.refl _
    | exact fun _ => Eq.refl _
    | with_reducible exact Keeps.refl _ _
    | assumption
    | with_reducible apply Keeps.after (State.putKeep_keeps _ _ ?_)
    | with_reducible apply Keeps.after (State.emit_keeps _ _)
    | with_reducible exact fun c => ⟨c.tackOk, c.hemOk⟩
    | with_reducible exact fun c => ⟨Tab.wf_set _ _ _ _ c.tackOk, c.hemOk⟩
    | with_reducible exact fun c => ⟨c.tackOk, Tab.wf_set _ _ _ _ c.hemOk⟩
    | with_reducible exact fun c => c.memOk
    | with_reducible exact fun c => c.flashOk
    | with_reducible exact fun c => Tab.wf_setBytes _ _ _ _ c.memOk
    | with_reducible exact fun c => Tab.wf_filter _ _ _ c.memOk
    | with_reducible refine Keeps.ite ?_ ?_
    | split
    | extract_lets -merge
    | rintro _ ⟨⟩
    | with_reducible apply Keeps.getD
    | contradiction
    | intro _ _
    | refine Keeps.fst ?_ (by with_reducible assumption)
    | dsimp +zetaDelta only

theorem State.hemAction_keeps {m : Nat} {a2 : State → State} {s0 : State} (hm : 0x400002305a2 ||| m = m) (h2 : ∀ x0, Keeps m x0 (a2 x0)) (a0 : Nat) (a1 : Nat) (s : State) (h : Keeps m s0 s) : Keeps m s0 (State.hemAction a0 a1 a2 s) := by
  unfold State.hemAction
  repeat' first
    | exact Eq.refl _
    | exact fun _ => Eq.refl _
    | with_reducible exact Keeps.refl _ _
    | assumption
    | with_reducible apply Keeps.after (State.report_keeps _ _ _ _)
    | with_reducible apply Keeps.after (State.deny_keeps _ _ _ _ _ _)
    | with_reducible apply Keeps.after (State.mctpReply_keeps _ _ _)
    | with_reducible apply Keeps.after (h2 _)
    | exact Nat.or_self m
    | exact Keeps.sub rfl hm
    | with_reducible refine Keeps.ite ?_ ?_
    | split
    | extract_lets -merge
    | rintro _ ⟨⟩
    | with_reducible apply Keeps.getD
    | contradiction
    | intro _ _
    | refine Keeps.fst ?_ (by with_reducible assumption)
    | dsimp +zetaDelta only

theorem State.hemCmd_keeps (a0 : Nat) (s : State) : Keeps 0x40000010522 s (State.hemCmd a0 s) := by
  unfold State.hemCmd
  repeat' first
    | exact Eq.refl _
    | exact fun _ => Eq.refl _
    | with_reducible exact Keeps.refl _ _
    | assumption
    | with_reducible apply Keeps.after (State.setF_keeps _ _ _)
    | with_reducible apply Keeps.after (State.refuseWrite_keeps _)
    | with_reducible apply Keeps.after (State.putPins_keeps _ _)
    | with_reducible apply Keeps.after (State.putKeep_keeps _ _ ?_)
    | with_reducible exact fun c => ⟨c.tackOk, c.hemOk⟩
    | with_reducible exact fun c => ⟨Tab.wf_set _ _ _ _ c.tackOk, c.hemOk⟩
    | with_reducible exact fun c => ⟨c.tackOk, Tab.wf_set _ _ _ _ c.hemOk⟩
    | with_reducible exact fun c => c.memOk
    | with_reducible exact fun c => c.flashOk
    | with_reducible exact fun c => Tab.wf_setBytes _ _ _ _ c.memOk
    | with_reducible exact fun c => Tab.wf_filter _ _ _ c.memOk
    | with_reducible refine Keeps.ite ?_ ?_
    | split
    | extract_lets -merge
    | rintro _ ⟨⟩
    | with_reducible apply Keeps.getD
    | contradiction
    | intro _ _
    | refine Keeps.fst ?_ (by with_reducible assumption)
    | dsimp +zetaDelta only

theorem State.hemPageLoad_keeps (a0 : Nat) (s : State) : Keeps 0x10002 s (State.hemPageLoad a0 s) := by
  unfold State.hemPageLoad
  repeat' first
    | exact Eq.refl _
    | exact fun _ => Eq.refl _
    | with_reducible exact Keeps.refl _ _
    | assumption
    | with_reducible apply Keeps.after (State.setF_keeps _ _ _)
    | with_reducible apply Keeps.after (State.putKeep_keeps _ _ ?_)
    | with_reducible exact fun c => ⟨c.tackOk, c.hemOk⟩
    | with_reducible exact fun c => ⟨Tab.wf_set _ _ _ _ c.tackOk, c.hemOk⟩
    | with_reducible exact fun c => ⟨c.tackOk, Tab.wf_set _ _ _ _ c.hemOk⟩
    | with_reducible exact fun c => c.memOk
    | with_reducible exact fun c => c.flashOk
    | with_reducible exact fun c => Tab.wf_setBytes _ _ _ _ c.memOk
    | with_reducible exact fun c => Tab.wf_filter _ _ _ c.memOk
    | with_reducible refine Keeps.ite ?_ ?_
    | split
    | extract_lets -merge
    | rintro _ ⟨⟩
    | with_reducible apply Keeps.getD
    | contradiction
    | intro _ _
    | refine Keeps.fst ?_ (by with_reducible assumption)
    | dsimp +zetaDelta only

theorem State.hamperRd_keeps (a0 : Word) (s : State) : Keeps 0x40000030522 s (State.hamperRd a0 s) := by
  unfold State.hamperRd
  repeat' first
    | exact Eq.refl _
    | exact fun _ => Eq.refl _
    | with_reducible exact Keeps.refl _ _
    | assumption
    | with_reducible apply Keeps.after (State.setF_keeps _ _ _)
    | with_reducible apply Keeps.after (State.hamAmbiguous_keeps _ _)
    | with_reducible apply Keeps.after (State.setReg_keeps _ _ _)
    | with_reducible apply Keeps.after (State.setFlag_keeps _ _ _)
    | with_reducible refine Keeps.foldl (fun _ _ => ?_) _ ?_
    | with_reducible refine Keeps.foldlFst (fun _ _ _ => ?_) _ ?_
    | with_reducible refine Keeps.foldlSnd (fun _ _ _ => ?_) _ ?_
    | with_reducible refine Keeps.ite ?_ ?_
    | split
    | extract_lets -merge
    | rintro _ ⟨⟩
    | with_reducible apply Keeps.getD
    | contradiction
    | intro _ _
    | refine Keeps.fst ?_ (by with_reducible assumption)
    | dsimp +zetaDelta only

end Sys2Proof.Machine
end

