-- ==== Sys2Proof/Laws/KeepsPerf.lean ====
section
/-!
SUPPORT. What the operations of Machine/Perf.lean leave unchanged.
-/
namespace Sys2Proof.Machine

theorem State.pmcAdd_keeps (a0 : Nat) (a1 : Nat) (s : State) : Keeps 0x48000000522 s (State.pmcAdd a0 a1 s) := by
  unfold State.pmcAdd
  repeat' first
    | exact Eq.refl _
    | exact fun _ => Eq.refl _
    | with_reducible exact Keeps.refl _ _
    | assumption
    | with_reducible apply Keeps.after (State.putPmc_keeps _ _)
    | with_reducible apply Keeps.after (State.fire_keeps _ _)
    | with_reducible apply Keeps.after (State.setF_keeps _ _ _)
    | with_reducible refine Keeps.ite ?_ ?_
    | split
    | extract_lets -merge
    | rintro _ ⟨⟩
    | with_reducible apply Keeps.getD
    | contradiction
    | intro _ _
    | refine Keeps.fst ?_ (by with_reducible assumption)
    | dsimp +zetaDelta only

theorem State.perf_keeps (a0 : Nat) (a1 : Nat) (a2 : Option Nat) (a3 : Nat) (s : State) : Keeps 0x48000000522 s (State.perf a0 a1 a2 a3 s) := by
  unfold State.perf
  repeat' first
    | exact Eq.refl _
    | exact fun _ => Eq.refl _
    | with_reducible exact Keeps.refl _ _
    | assumption
    | with_reducible apply Keeps.after (State.pmcAdd_keeps _ _ _)
    | with_reducible refine Keeps.foldl (fun _ _ => ?_) _ ?_
    | with_reducible refine Keeps.foldlFst (fun _ _ _ => ?_) _ ?_
    | with_reducible refine Keeps.foldlSnd (fun _ _ _ => ?_) _ ?_
    | with_reducible refine Keeps.ite ?_ ?_
    | split
    | extract_lets -merge
    | rintro _ ⟨⟩
    | with_reducible apply Keeps.getD
    | contradiction
    | intro _ _
    | refine Keeps.fst ?_ (by with_reducible assumption)
    | dsimp +zetaDelta only

theorem State.passStart_keeps (s : State) : Keeps 0x8000000002 s (State.passStart s) := by
  unfold State.passStart
  repeat' first
    | exact Eq.refl _
    | exact fun _ => Eq.refl _
    | with_reducible exact Keeps.refl _ _
    | assumption
    | with_reducible apply Keeps.after (State.putPmc_keeps _ _)
    | with_reducible apply Keeps.after (State.setF_keeps _ _ _)
    | with_reducible refine Keeps.ite ?_ ?_
    | split
    | extract_lets -merge
    | rintro _ ⟨⟩
    | with_reducible apply Keeps.getD
    | contradiction
    | intro _ _
    | refine Keeps.fst ?_ (by with_reducible assumption)
    | dsimp +zetaDelta only

theorem State.readStart_keeps (s : State) : Keeps 0x8000000002 s (State.readStart s) := by
  unfold State.readStart
  repeat' first
    | exact Eq.refl _
    | exact fun _ => Eq.refl _
    | with_reducible exact Keeps.refl _ _
    | assumption
    | with_reducible apply Keeps.after (State.setF_keeps _ _ _)
    | with_reducible apply Keeps.after (State.passStart_keeps _)
    | with_reducible refine Keeps.ite ?_ ?_
    | split
    | extract_lets -merge
    | rintro _ ⟨⟩
    | with_reducible apply Keeps.getD
    | contradiction
    | intro _ _
    | refine Keeps.fst ?_ (by with_reducible assumption)
    | dsimp +zetaDelta only

theorem State.pmcZeroAll_keeps (s : State) : Keeps 0x8000000002 s (State.pmcZeroAll s) := by
  unfold State.pmcZeroAll
  repeat' first
    | exact Eq.refl _
    | exact fun _ => Eq.refl _
    | with_reducible exact Keeps.refl _ _
    | assumption
    | with_reducible apply Keeps.after (State.setF_keeps _ _ _)
    | with_reducible apply Keeps.after (State.putPmc_keeps _ _)
    | with_reducible apply Keeps.after (State.setReg_keeps _ _ _)
    | with_reducible refine Keeps.foldl (fun _ _ => ?_) _ ?_
    | with_reducible refine Keeps.foldlFst (fun _ _ _ => ?_) _ ?_
    | with_reducible refine Keeps.foldlSnd (fun _ _ _ => ?_) _ ?_
    | with_reducible refine Keeps.ite ?_ ?_
    | split
    | extract_lets -merge
    | rintro _ ⟨⟩
    | with_reducible apply Keeps.getD
    | contradiction
    | intro _ _
    | refine Keeps.fst ?_ (by with_reducible assumption)
    | dsimp +zetaDelta only

theorem State.pmcSeam_keeps (s : State) : Keeps 0x8000000002 s (State.pmcSeam s) := by
  unfold State.pmcSeam
  repeat' first
    | exact Eq.refl _
    | exact fun _ => Eq.refl _
    | with_reducible exact Keeps.refl _ _
    | assumption
    | with_reducible apply Keeps.after (State.putPmc_keeps _ _)
    | with_reducible apply Keeps.after (State.pmcZeroAll_keeps _)
    | with_reducible refine Keeps.foldl (fun _ _ => ?_) _ ?_
    | with_reducible refine Keeps.foldlFst (fun _ _ _ => ?_) _ ?_
    | with_reducible refine Keeps.foldlSnd (fun _ _ _ => ?_) _ ?_
    | with_reducible refine Keeps.ite ?_ ?_
    | split
    | extract_lets -merge
    | rintro _ ⟨⟩
    | with_reducible apply Keeps.getD
    | contradiction
    | intro _ _
    | refine Keeps.fst ?_ (by with_reducible assumption)
    | dsimp +zetaDelta only

theorem State.ringPop_keeps (a0 : Nat) (s : State) : Keeps 0x8000000002 s (State.ringPop a0 s) := by
  unfold State.ringPop
  repeat' first
    | exact Eq.refl _
    | exact fun _ => Eq.refl _
    | with_reducible exact Keeps.refl _ _
    | assumption
    | with_reducible apply Keeps.after (State.putPmc_keeps _ _)
    | with_reducible apply Keeps.after (State.setF_keeps _ _ _)
    | with_reducible refine Keeps.foldl (fun _ _ => ?_) _ ?_
    | with_reducible refine Keeps.foldlFst (fun _ _ _ => ?_) _ ?_
    | with_reducible refine Keeps.foldlSnd (fun _ _ _ => ?_) _ ?_
    | with_reducible refine Keeps.ite ?_ ?_
    | split
    | extract_lets -merge
    | rintro _ ⟨⟩
    | with_reducible apply Keeps.getD
    | contradiction
    | intro _ _
    | refine Keeps.fst ?_ (by with_reducible assumption)
    | dsimp +zetaDelta only

theorem State.ringPush_keeps (a0 : List Byte) (s : State) : Keeps 0x48000000522 s (State.ringPush a0 s) := by
  unfold State.ringPush
  repeat' first
    | exact Eq.refl _
    | exact fun _ => Eq.refl _
    | with_reducible exact Keeps.refl _ _
    | assumption
    | with_reducible apply Keeps.after (State.setF_keeps _ _ _)
    | with_reducible apply Keeps.after (State.putPmc_keeps _ _)
    | with_reducible apply Keeps.after (State.countF_keeps _ _ _)
    | with_reducible apply Keeps.after (State.fire_keeps _ _)
    | with_reducible refine Keeps.ite ?_ ?_
    | split
    | extract_lets -merge
    | rintro _ ⟨⟩
    | with_reducible apply Keeps.getD
    | contradiction
    | intro _ _
    | refine Keeps.fst ?_ (by with_reducible assumption)
    | dsimp +zetaDelta only

theorem State.zeroStart_keeps (s : State) : Keeps 0x8000000002 s (State.zeroStart s) := by
  unfold State.zeroStart
  repeat' first
    | exact Eq.refl _
    | exact fun _ => Eq.refl _
    | with_reducible exact Keeps.refl _ _
    | assumption
    | with_reducible apply Keeps.after (State.setF_keeps _ _ _)
    | with_reducible apply Keeps.after (State.putPmc_keeps _ _)
    | with_reducible refine Keeps.ite ?_ ?_
    | split
    | extract_lets -merge
    | rintro _ ⟨⟩
    | with_reducible apply Keeps.getD
    | contradiction
    | intro _ _
    | refine Keeps.fst ?_ (by with_reducible assumption)
    | dsimp +zetaDelta only

end Sys2Proof.Machine
end

