-- ==== Sys2Proof/Laws/KeepsRing.lean ====
section
/-!
SUPPORT. What the operations of Machine/Ring.lean leave unchanged.
-/
namespace Sys2Proof.Machine

theorem State.setMember_keeps (a0 : Nat) (a1 : Member) (s : State) : Keeps 0x4000000000 s (State.setMember a0 a1 s) := by
  unfold State.setMember
  repeat' first
    | exact Eq.refl _
    | exact fun _ => Eq.refl _
    | with_reducible exact Keeps.refl _ _
    | assumption
    | with_reducible apply Keeps.after (State.modGrp_keeps _ _ )
    | with_reducible refine Keeps.ite ?_ ?_
    | split
    | extract_lets -merge
    | rintro _ ⟨⟩
    | with_reducible apply Keeps.getD
    | contradiction
    | intro _ _
    | refine Keeps.fst ?_ (by with_reducible assumption)
    | dsimp +zetaDelta only

theorem State.fenceEnter_keeps (s : State) : Keeps 0x44000000522 s (State.fenceEnter s) := by
  unfold State.fenceEnter
  repeat' first
    | exact Eq.refl _
    | exact fun _ => Eq.refl _
    | with_reducible exact Keeps.refl _ _
    | assumption
    | with_reducible apply Keeps.after (State.fire_keeps _ _)
    | with_reducible apply Keeps.after (State.countF_keeps _ _ _)
    | with_reducible apply Keeps.after (State.modGrp_keeps _ _ )
    | with_reducible refine Keeps.ite ?_ ?_
    | split
    | extract_lets -merge
    | rintro _ ⟨⟩
    | with_reducible apply Keeps.getD
    | contradiction
    | intro _ _
    | refine Keeps.fst ?_ (by with_reducible assumption)
    | dsimp +zetaDelta only

theorem State.fenceUpdate_keeps (s : State) : Keeps 0x44000000522 s (State.fenceUpdate s) := by
  unfold State.fenceUpdate
  repeat' first
    | exact Eq.refl _
    | exact fun _ => Eq.refl _
    | with_reducible exact Keeps.refl _ _
    | assumption
    | with_reducible apply Keeps.after (State.fire_keeps _ _)
    | with_reducible apply Keeps.after (State.modGrp_keeps _ _ )
    | with_reducible apply Keeps.after (State.fenceEnter_keeps _)
    | with_reducible refine Keeps.foldl (fun _ _ => ?_) _ ?_
    | with_reducible refine Keeps.foldlFst (fun _ _ _ => ?_) _ ?_
    | with_reducible refine Keeps.foldlSnd (fun _ _ _ => ?_) _ ?_
    | with_reducible refine Keeps.ite ?_ ?_
    | split
    | extract_lets -merge
    | rintro _ ⟨⟩
    | with_reducible apply Keeps.getD
    | contradiction
    | intro _ _
    | refine Keeps.fst ?_ (by with_reducible assumption)
    | dsimp +zetaDelta only

end Sys2Proof.Machine
end

