-- ==== Sys2Proof/Laws/KeepsStore.lean ====
section
/-!
SUPPORT. What the operations of Machine/Store.lean leave unchanged.
-/
namespace Sys2Proof.Machine

theorem State.setFrame_keeps (a0 : Frame) (s : State) : Keeps 0x8000000 s (State.setFrame a0 s) := by
  unfold State.setFrame
  repeat' first
    | exact Eq.refl _
    | exact fun _ => Eq.refl _
    | with_reducible exact Keeps.refl _ _
    | assumption
    | with_reducible apply Keeps.after (State.putMed_keeps _ _)
    | with_reducible refine Keeps.ite ?_ ?_
    | split
    | extract_lets -merge
    | rintro _ ⟨⟩
    | with_reducible apply Keeps.getD
    | contradiction
    | intro _ _
    | refine Keeps.fst ?_ (by with_reducible assumption)
    | dsimp +zetaDelta only

theorem State.schedRefresh_keeps (a0 : Nat) (s : State) : Keeps 0x40008000522 s (State.schedRefresh a0 s) := by
  unfold State.schedRefresh
  repeat' first
    | exact Eq.refl _
    | exact fun _ => Eq.refl _
    | with_reducible exact Keeps.refl _ _
    | assumption
    | with_reducible apply Keeps.after (State.setGroupMedia_keeps _ _ _)
    | with_reducible apply Keeps.after (State.fire_keeps _ _)
    | with_reducible refine Keeps.ite ?_ ?_
    | split
    | extract_lets -merge
    | rintro _ ⟨⟩
    | with_reducible apply Keeps.getD
    | contradiction
    | intro _ _
    | refine Keeps.fst ?_ (by with_reducible assumption)
    | dsimp +zetaDelta only

theorem State.disturb_keeps (a0 : Nat) (s : State) : Keeps 0x40008000522 s (State.disturb a0 s) := by
  unfold State.disturb
  repeat' first
    | exact Eq.refl _
    | exact fun _ => Eq.refl _
    | with_reducible exact Keeps.refl _ _
    | assumption
    | with_reducible apply Keeps.after (State.setBoltInfo_keeps _ _ _)
    | with_reducible apply Keeps.after (State.schedRefresh_keeps _ _)
    | with_reducible refine Keeps.ite ?_ ?_
    | split
    | extract_lets -merge
    | rintro _ ⟨⟩
    | with_reducible apply Keeps.getD
    | contradiction
    | intro _ _
    | refine Keeps.fst ?_ (by with_reducible assumption)
    | dsimp +zetaDelta only

theorem State.learn_keeps (a0 : Nat) (a1 : Nat) (a2 : Nat) (s : State) : Keeps 0x40008000522 s (State.learn a0 a1 a2 s) := by
  unfold State.learn
  repeat' first
    | exact Eq.refl _
    | exact fun _ => Eq.refl _
    | with_reducible exact Keeps.refl _ _
    | assumption
    | with_reducible apply Keeps.after (State.setBoltInfo_keeps _ _ _)
    | with_reducible apply Keeps.after (State.schedRefresh_keeps _ _)
    | with_reducible refine Keeps.ite ?_ ?_
    | split
    | extract_lets -merge
    | rintro _ ⟨⟩
    | with_reducible apply Keeps.getD
    | contradiction
    | intro _ _
    | refine Keeps.fst ?_ (by with_reducible assumption)
    | dsimp +zetaDelta only

theorem State.sealGroup_keeps (a0 : Nat) (s : State) : Keeps 0x40000000522 s (State.sealGroup a0 s) := by
  unfold State.sealGroup
  repeat' first
    | exact Eq.refl _
    | exact fun _ => Eq.refl _
    | with_reducible exact Keeps.refl _ _
    | assumption
    | with_reducible apply Keeps.after (State.fire_keeps _ _)
    | with_reducible apply Keeps.after (State.setF_keeps _ _ _)
    | with_reducible refine Keeps.ite ?_ ?_
    | split
    | extract_lets -merge
    | rintro _ ⟨⟩
    | with_reducible apply Keeps.getD
    | contradiction
    | intro _ _
    | refine Keeps.fst ?_ (by with_reducible assumption)
    | dsimp +zetaDelta only

theorem State.levelUpdate_keeps (a0 : Nat) (s : State) : Keeps 0x40008000522 s (State.levelUpdate a0 s) := by
  unfold State.levelUpdate
  repeat' first
    | exact Eq.refl _
    | exact fun _ => Eq.refl _
    | with_reducible exact Keeps.refl _ _
    | assumption
    | with_reducible apply Keeps.after (State.fire_keeps _ _)
    | with_reducible apply Keeps.after (State.setF_keeps _ _ _)
    | with_reducible apply Keeps.after (State.setFlag_keeps _ _ _)
    | with_reducible apply Keeps.after (State.setGroupMedia_keeps _ _ _)
    | with_reducible apply Keeps.after (State.sealGroup_keeps _ _)
    | with_reducible refine Keeps.ite ?_ ?_
    | split
    | extract_lets -merge
    | rintro _ ⟨⟩
    | with_reducible apply Keeps.getD
    | contradiction
    | intro _ _
    | refine Keeps.fst ?_ (by with_reducible assumption)
    | dsimp +zetaDelta only

theorem State.approxNote_keeps (a0 : Nat) (s : State) : Keeps 0xc0000030522 s (State.approxNote a0 s) := by
  unfold State.approxNote
  repeat' first
    | exact Eq.refl _
    | exact fun _ => Eq.refl _
    | with_reducible exact Keeps.refl _ _
    | assumption
    | with_reducible apply Keeps.after (State.hamper_keeps _ _ _ _)
    | with_reducible apply Keeps.after (State.freeStep_keeps _)
    | with_reducible refine Keeps.ite ?_ ?_
    | split
    | extract_lets -merge
    | rintro _ ⟨⟩
    | with_reducible apply Keeps.getD
    | contradiction
    | intro _ _
    | refine Keeps.fst ?_ (by with_reducible assumption)
    | dsimp +zetaDelta only

theorem State.takeBolt_keeps (a0 : Nat) (a1 : Nat) (a2 : Nat) (a3 : Nat) (a4 : Nat) (a5 : Nat) (a6 : Nat) (s : State) : Keeps 0xc0008030522 s (State.takeBolt a0 a1 a2 a3 a4 a5 a6 s) := by
  unfold State.takeBolt
  repeat' first
    | exact Eq.refl _
    | exact fun _ => Eq.refl _
    | with_reducible exact Keeps.refl _ _
    | assumption
    | with_reducible apply Keeps.after (State.approxNote_keeps _ _)
    | with_reducible apply Keeps.after (State.setLedger_keeps _ _ _)
    | with_reducible apply Keeps.after (State.setBoltInfo_keeps _ _ _)
    | with_reducible apply Keeps.after (State.putMed_keeps _ _)
    | with_reducible refine Keeps.ite ?_ ?_
    | split
    | extract_lets -merge
    | rintro _ ⟨⟩
    | with_reducible apply Keeps.getD
    | contradiction
    | intro _ _
    | refine Keeps.fst ?_ (by with_reducible assumption)
    | dsimp +zetaDelta only

theorem State.groupNow_keeps (a0 : Nat) (s : State) : Keeps 0x40008000522 s (State.groupNow a0 s) := by
  unfold State.groupNow
  repeat' first
    | exact Eq.refl _
    | exact fun _ => Eq.refl _
    | with_reducible exact Keeps.refl _ _
    | assumption
    | with_reducible apply Keeps.after (State.setF_keeps _ _ _)
    | with_reducible apply Keeps.after (State.fire_keeps _ _)
    | with_reducible apply Keeps.after (State.setGroupMedia_keeps _ _ _)
    | with_reducible refine Keeps.ite ?_ ?_
    | split
    | extract_lets -merge
    | rintro _ ⟨⟩
    | with_reducible apply Keeps.getD
    | contradiction
    | intro _ _
    | refine Keeps.fst ?_ (by with_reducible assumption)
    | dsimp +zetaDelta only

theorem State.parityRun_keeps (a0 : Nat) (a1 : Nat) (a2 : Nat) (a3 : Nat) (a4 : Nat) (s : State) : Keeps 0xc0008030522 s (State.parityRun a0 a1 a2 a3 a4 s).1 := by
  unfold State.parityRun
  repeat' first
    | exact Eq.refl _
    | exact fun _ => Eq.refl _
    | with_reducible exact Keeps.refl _ _
    | assumption
    | with_reducible apply Keeps.after (State.takeBolt_keeps _ _ _ _ _ _ _ _)
    | with_reducible apply Keeps.after (State.putMed_keeps _ _)
    | with_reducible refine Keeps.ite ?_ ?_
    | split
    | extract_lets -merge
    | rintro _ ⟨⟩
    | with_reducible apply Keeps.getD
    | contradiction
    | intro _ _
    | refine Keeps.fst ?_ (by with_reducible assumption)
    | dsimp +zetaDelta only

theorem State.excludeUpdate_keeps (a0 : Nat) (s : State) : Keeps 0x40008000522 s (State.excludeUpdate a0 s) := by
  unfold State.excludeUpdate
  repeat' first
    | exact Eq.refl _
    | exact fun _ => Eq.refl _
    | with_reducible exact Keeps.refl _ _
    | assumption
    | with_reducible apply Keeps.after (State.groupNow_keeps _ _)
    | with_reducible apply Keeps.after (State.setFlag_keeps _ _ _)
    | with_reducible refine Keeps.foldl (fun _ _ => ?_) _ ?_
    | with_reducible refine Keeps.foldlFst (fun _ _ _ => ?_) _ ?_
    | with_reducible refine Keeps.foldlSnd (fun _ _ _ => ?_) _ ?_
    | with_reducible refine Keeps.ite ?_ ?_
    | split
    | extract_lets -merge
    | rintro _ ⟨⟩
    | with_reducible apply Keeps.getD
    | contradiction
    | intro _ _
    | refine Keeps.fst ?_ (by with_reducible assumption)
    | dsimp +zetaDelta only

theorem State.openFrame_keeps (a0 : Nat) (a1 : Nat) (s : State) : Keeps 0xc000c030522 s (State.openFrame a0 a1 s) := by
  unfold State.openFrame
  repeat' first
    | exact Eq.refl _
    | exact fun _ => Eq.refl _
    | with_reducible exact Keeps.refl _ _
    | assumption
    | with_reducible apply Keeps.after (State.excludeUpdate_keeps _ _)
    | with_reducible apply Keeps.after (State.parityRun_keeps _ _ _ _ _ _)
    | with_reducible apply Keeps.after (State.takeBolt_keeps _ _ _ _ _ _ _ _)
    | with_reducible apply Keeps.after (State.putMed_keeps _ _)
    | with_reducible apply Keeps.after (State.setGroupMedia_keeps _ _ _)
    | with_reducible apply Keeps.after (State.putXlt_keeps _ _)
    | with_reducible apply Keeps.after (State.levelUpdate_keeps _ _)
    | with_reducible refine Keeps.foldl (fun _ _ => ?_) _ ?_
    | with_reducible refine Keeps.foldlFst (fun _ _ _ => ?_) _ ?_
    | with_reducible refine Keeps.foldlSnd (fun _ _ _ => ?_) _ ?_
    | with_reducible refine Keeps.ite ?_ ?_
    | split
    | extract_lets -merge
    | rintro _ ⟨⟩
    | with_reducible apply Keeps.getD
    | contradiction
    | intro _ _
    | refine Keeps.fst ?_ (by with_reducible assumption)
    | dsimp +zetaDelta only

theorem State.allocPage_keeps (a0 : Nat) (a1 : Nat) (s : State) : Keeps 0xc000c030522 s (State.allocPage a0 a1 s).1 := by
  unfold State.allocPage
  repeat' first
    | exact Eq.refl _
    | exact fun _ => Eq.refl _
    | with_reducible exact Keeps.refl _ _
    | assumption
    | with_reducible apply Keeps.after (State.openFrame_keeps _ _ _)
    | with_reducible apply Keeps.after (State.setFrame_keeps _ _)
    | with_reducible refine Keeps.ite ?_ ?_
    | split
    | extract_lets -merge
    | rintro _ ⟨⟩
    | with_reducible apply Keeps.getD
    | contradiction
    | intro _ _
    | refine Keeps.fst ?_ (by with_reducible assumption)
    | dsimp +zetaDelta only

theorem State.rotateGroup_keeps (s : State) : Keeps 0x8000000 s (State.rotateGroup s).1 := by
  unfold State.rotateGroup
  repeat' first
    | exact Eq.refl _
    | exact fun _ => Eq.refl _
    | with_reducible exact Keeps.refl _ _
    | assumption
    | with_reducible apply Keeps.after (State.putMed_keeps _ _)
    | with_reducible refine Keeps.ite ?_ ?_
    | split
    | extract_lets -merge
    | rintro _ ⟨⟩
    | with_reducible apply Keeps.getD
    | contradiction
    | intro _ _
    | refine Keeps.fst ?_ (by with_reducible assumption)
    | dsimp +zetaDelta only

theorem State.issue_keeps (a0 : Nat) (a1 : Page) (a2 : Purpose) (s : State) : Keeps 0x8000000 s (State.issue a0 a1 a2 s) := by
  unfold State.issue
  repeat' first
    | exact Eq.refl _
    | exact fun _ => Eq.refl _
    | with_reducible exact Keeps.refl _ _
    | assumption
    | with_reducible apply Keeps.after (State.putMed_keeps _ _)
    | with_reducible refine Keeps.ite ?_ ?_
    | split
    | extract_lets -merge
    | rintro _ ⟨⟩
    | with_reducible apply Keeps.getD
    | contradiction
    | intro _ _
    | refine Keeps.fst ?_ (by with_reducible assumption)
    | dsimp +zetaDelta only

theorem State.bastKeep_keeps (a0 : Nat) (s : State) : Keeps 0xc0008030522 s (State.bastKeep a0 s) := by
  unfold State.bastKeep
  repeat' first
    | exact Eq.refl _
    | exact fun _ => Eq.refl _
    | with_reducible exact Keeps.refl _ _
    | assumption
    | with_reducible apply Keeps.after (State.takeBolt_keeps _ _ _ _ _ _ _ _)
    | with_reducible apply Keeps.after (State.putMed_keeps _ _)
    | with_reducible refine Keeps.ite ?_ ?_
    | split
    | extract_lets -merge
    | rintro _ ⟨⟩
    | with_reducible apply Keeps.getD
    | contradiction
    | intro _ _
    | refine Keeps.fst ?_ (by with_reducible assumption)
    | dsimp +zetaDelta only

theorem State.bastClose_keeps (a0 : BSet) (s : State) : Keeps 0xc0008030522 s (State.bastClose a0 s) := by
  unfold State.bastClose
  repeat' first
    | exact Eq.refl _
    | exact fun _ => Eq.refl _
    | with_reducible exact Keeps.refl _ _
    | assumption
    | with_reducible apply Keeps.after (State.putMed_keeps _ _)
    | with_reducible apply Keeps.after (State.bastKeep_keeps _ _)
    | with_reducible apply Keeps.after (State.issue_keeps _ _ _ _)
    | with_reducible refine Keeps.ite ?_ ?_
    | split
    | extract_lets -merge
    | rintro _ ⟨⟩
    | with_reducible apply Keeps.getD
    | contradiction
    | intro _ _
    | refine Keeps.fst ?_ (by with_reducible assumption)
    | dsimp +zetaDelta only

theorem State.bastBolt_keeps (a0 : Nat) (a1 : Nat) (s : State) : Keeps 0xc0008030522 s (State.bastBolt a0 a1 s).1 := by
  unfold State.bastBolt
  repeat' first
    | exact Eq.refl _
    | exact fun _ => Eq.refl _
    | with_reducible exact Keeps.refl _ _
    | assumption
    | with_reducible apply Keeps.after (State.bastKeep_keeps _ _)
    | with_reducible refine Keeps.ite ?_ ?_
    | split
    | extract_lets -merge
    | rintro _ ⟨⟩
    | with_reducible apply Keeps.getD
    | contradiction
    | intro _ _
    | refine Keeps.fst ?_ (by with_reducible assumption)
    | dsimp +zetaDelta only

theorem State.baste_keeps (a0 : Nat) (s : State) : Keeps 0xc0008030522 s (State.baste a0 s) := by
  unfold State.baste
  repeat' first
    | exact Eq.refl _
    | exact fun _ => Eq.refl _
    | with_reducible exact Keeps.refl _ _
    | assumption
    | with_reducible apply Keeps.after (State.putMed_keeps _ _)
    | with_reducible apply Keeps.after (State.bastClose_keeps _ _)
    | with_reducible apply Keeps.after (State.bastBolt_keeps _ _ _)
    | with_reducible refine Keeps.ite ?_ ?_
    | split
    | extract_lets -merge
    | rintro _ ⟨⟩
    | with_reducible apply Keeps.getD
    | contradiction
    | intro _ _
    | refine Keeps.fst ?_ (by with_reducible assumption)
    | dsimp +zetaDelta only

theorem State.injConsume_keeps (s : State) : Keeps 0x40040000522 s (State.injConsume s) := by
  unfold State.injConsume
  repeat' first
    | exact Eq.refl _
    | exact fun _ => Eq.refl _
    | with_reducible exact Keeps.refl _ _
    | assumption
    | with_reducible apply Keeps.after (State.setF_keeps _ _ _)
    | with_reducible apply Keeps.after (State.fire_keeps _ _)
    | with_reducible apply Keeps.after (State.putInteg_keeps _ _)
    | with_reducible refine Keeps.ite ?_ ?_
    | split
    | extract_lets -merge
    | rintro _ ⟨⟩
    | with_reducible apply Keeps.getD
    | contradiction
    | intro _ _
    | refine Keeps.fst ?_ (by with_reducible assumption)
    | dsimp +zetaDelta only

theorem State.injProgram_keeps (a0 : Page) (s : State) : Keeps 0x40040000522 s (State.injProgram a0 s).1 := by
  unfold State.injProgram
  repeat' first
    | exact Eq.refl _
    | exact fun _ => Eq.refl _
    | with_reducible exact Keeps.refl _ _
    | assumption
    | with_reducible apply Keeps.after (State.injConsume_keeps _)
    | with_reducible refine Keeps.ite ?_ ?_
    | split
    | extract_lets -merge
    | rintro _ ⟨⟩
    | with_reducible apply Keeps.getD
    | contradiction
    | intro _ _
    | refine Keeps.fst ?_ (by with_reducible assumption)
    | dsimp +zetaDelta only

theorem State.parityIssue_keeps (a0 : Frame) (a1 : Nat) (s : State) : Keeps 0x8000000 s (State.parityIssue a0 a1 s) := by
  unfold State.parityIssue
  repeat' first
    | exact Eq.refl _
    | exact fun _ => Eq.refl _
    | with_reducible exact Keeps.refl _ _
    | assumption
    | with_reducible apply Keeps.after (State.issue_keeps _ _ _ _)
    | with_reducible refine Keeps.ite ?_ ?_
    | split
    | extract_lets -merge
    | rintro _ ⟨⟩
    | with_reducible apply Keeps.getD
    | contradiction
    | intro _ _
    | refine Keeps.fst ?_ (by with_reducible assumption)
    | dsimp +zetaDelta only

theorem State.toReset_keeps (a0 : Nat) (s : State) : Keeps 0x8000000 s (State.toReset a0 s) := by
  unfold State.toReset
  repeat' first
    | exact Eq.refl _
    | exact fun _ => Eq.refl _
    | with_reducible exact Keeps.refl _ _
    | assumption
    | with_reducible apply Keeps.after (State.setLedger_keeps _ _ _)
    | with_reducible apply Keeps.after (State.putMed_keeps _ _)
    | with_reducible refine Keeps.ite ?_ ?_
    | split
    | extract_lets -merge
    | rintro _ ⟨⟩
    | with_reducible apply Keeps.getD
    | contradiction
    | intro _ _
    | refine Keeps.fst ?_ (by with_reducible assumption)
    | dsimp +zetaDelta only

theorem State.bastRelease_keeps (s : State) : Keeps 0xc0008030522 s (State.bastRelease s) := by
  unfold State.bastRelease
  repeat' first
    | exact Eq.refl _
    | exact fun _ => Eq.refl _
    | with_reducible exact Keeps.refl _ _
    | assumption
    | with_reducible apply Keeps.after (State.toReset_keeps _ _)
    | with_reducible apply Keeps.after (State.bastKeep_keeps _ _)
    | with_reducible apply Keeps.after (State.putMed_keeps _ _)
    | with_reducible refine Keeps.foldl (fun _ _ => ?_) _ ?_
    | with_reducible refine Keeps.foldlFst (fun _ _ _ => ?_) _ ?_
    | with_reducible refine Keeps.foldlSnd (fun _ _ _ => ?_) _ ?_
    | with_reducible refine Keeps.ite ?_ ?_
    | split
    | extract_lets -merge
    | rintro _ ⟨⟩
    | with_reducible apply Keeps.getD
    | contradiction
    | intro _ _
    | refine Keeps.fst ?_ (by with_reducible assumption)
    | dsimp +zetaDelta only

theorem State.frameReset_keeps (a0 : Frame) (s : State) : Keeps 0x8000000 s (State.frameReset a0 s) := by
  unfold State.frameReset
  repeat' first
    | exact Eq.refl _
    | exact fun _ => Eq.refl _
    | with_reducible exact Keeps.refl _ _
    | assumption
    | with_reducible apply Keeps.after (State.setLedger_keeps _ _ _)
    | with_reducible apply Keeps.after (State.putMed_keeps _ _)
    | with_reducible apply Keeps.after (State.toReset_keeps _ _)
    | with_reducible apply Keeps.after (State.setGroupMedia_keeps _ _ _)
    | with_reducible refine Keeps.foldl (fun _ _ => ?_) _ ?_
    | with_reducible refine Keeps.foldlFst (fun _ _ _ => ?_) _ ?_
    | with_reducible refine Keeps.foldlSnd (fun _ _ _ => ?_) _ ?_
    | with_reducible refine Keeps.ite ?_ ?_
    | split
    | extract_lets -merge
    | rintro _ ⟨⟩
    | with_reducible apply Keeps.getD
    | contradiction
    | intro _ _
    | refine Keeps.fst ?_ (by with_reducible assumption)
    | dsimp +zetaDelta only

theorem State.frameCheck_keeps (a0 : Nat) (s : State) : Keeps 0x8000000 s (State.frameCheck a0 s) := by
  unfold State.frameCheck
  repeat' first
    | exact Eq.refl _
    | exact fun _ => Eq.refl _
    | with_reducible exact Keeps.refl _ _
    | assumption
    | with_reducible apply Keeps.after (State.frameReset_keeps _ _)
    | with_reducible refine Keeps.ite ?_ ?_
    | split
    | extract_lets -merge
    | rintro _ ⟨⟩
    | with_reducible apply Keeps.getD
    | contradiction
    | intro _ _
    | refine Keeps.fst ?_ (by with_reducible assumption)
    | dsimp +zetaDelta only

theorem State.dropPage_keeps (a0 : Nat) (s : State) : Keeps 0x8000000 s (State.dropPage a0 s) := by
  unfold State.dropPage
  repeat' first
    | exact Eq.refl _
    | exact fun _ => Eq.refl _
    | with_reducible exact Keeps.refl _ _
    | assumption
    | with_reducible apply Keeps.after (State.frameCheck_keeps _ _)
    | with_reducible apply Keeps.after (State.setBoltInfo_keeps _ _ _)
    | with_reducible refine Keeps.ite ?_ ?_
    | split
    | extract_lets -merge
    | rintro _ ⟨⟩
    | with_reducible apply Keeps.getD
    | contradiction
    | intro _ _
    | refine Keeps.fst ?_ (by with_reducible assumption)
    | dsimp +zetaDelta only

theorem State.boltClose_keeps (a0 : Nat) (s : State) : Keeps 0xc000c030522 s (State.boltClose a0 s) := by
  unfold State.boltClose
  repeat' first
    | exact Eq.refl _
    | exact fun _ => Eq.refl _
    | with_reducible exact Keeps.refl _ _
    | assumption
    | with_reducible apply Keeps.after (State.setLedger_keeps _ _ _)
    | with_reducible apply Keeps.after (State.rotateGroup_keeps _)
    | with_reducible apply Keeps.after (State.allocPage_keeps _ _ _)
    | with_reducible apply Keeps.after (State.issue_keeps _ _ _ _)
    | with_reducible refine Keeps.ite ?_ ?_
    | split
    | extract_lets -merge
    | rintro _ ⟨⟩
    | with_reducible apply Keeps.getD
    | contradiction
    | intro _ _
    | refine Keeps.fst ?_ (by with_reducible assumption)
    | dsimp +zetaDelta only

theorem State.closeCheck_keeps (a0 : Nat) (a1 : Nat) (s : State) : Keeps 0xc000c030522 s (State.closeCheck a0 a1 s) := by
  unfold State.closeCheck
  repeat' first
    | exact Eq.refl _
    | exact fun _ => Eq.refl _
    | with_reducible exact Keeps.refl _ _
    | assumption
    | with_reducible apply Keeps.after (State.boltClose_keeps _ _)
    | with_reducible apply Keeps.after (State.setFrame_keeps _ _)
    | with_reducible apply Keeps.after (State.parityIssue_keeps _ _ _)
    | with_reducible apply Keeps.after (State.frameReset_keeps _ _)
    | with_reducible refine Keeps.foldl (fun _ _ => ?_) _ ?_
    | with_reducible refine Keeps.foldlFst (fun _ _ _ => ?_) _ ?_
    | with_reducible refine Keeps.foldlSnd (fun _ _ _ => ?_) _ ?_
    | with_reducible refine Keeps.ite ?_ ?_
    | split
    | extract_lets -merge
    | rintro _ ⟨⟩
    | with_reducible apply Keeps.getD
    | contradiction
    | intro _ _
    | refine Keeps.fst ?_ (by with_reducible assumption)
    | dsimp +zetaDelta only

theorem State.storePage_keeps (a0 : Nat) (a1 : Page) (s : State) : Keeps 0xc004c030522 s (State.storePage a0 a1 s) := by
  unfold State.storePage
  repeat' first
    | exact Eq.refl _
    | exact fun _ => Eq.refl _
    | with_reducible exact Keeps.refl _ _
    | assumption
    | with_reducible apply Keeps.after (State.injProgram_keeps _ _)
    | with_reducible apply Keeps.after (State.setBoltInfo_keeps _ _ _)
    | with_reducible apply Keeps.after (State.putMed_keeps _ _)
    | with_reducible apply Keeps.after (State.setLedger_keeps _ _ _)
    | with_reducible apply Keeps.after (State.boltClose_keeps _ _)
    | with_reducible apply Keeps.after (State.closeCheck_keeps _ _ _)
    | with_reducible apply Keeps.after (State.parityIssue_keeps _ _ _)
    | with_reducible apply Keeps.after (State.baste_keeps _ _)
    | with_reducible refine Keeps.ite ?_ ?_
    | split
    | extract_lets -merge
    | rintro _ ⟨⟩
    | with_reducible apply Keeps.getD
    | contradiction
    | intro _ _
    | refine Keeps.fst ?_ (by with_reducible assumption)
    | dsimp +zetaDelta only

theorem State.closeShort_keeps (a0 : Frame) (s : State) : Keeps 0xc000c030522 s (State.closeShort a0 s) := by
  unfold State.closeShort
  repeat' first
    | exact Eq.refl _
    | exact fun _ => Eq.refl _
    | with_reducible exact Keeps.refl _ _
    | assumption
    | with_reducible apply Keeps.after (State.setFrame_keeps _ _)
    | with_reducible apply Keeps.after (State.closeCheck_keeps _ _ _)
    | with_reducible apply Keeps.after (State.issue_keeps _ _ _ _)
    | with_reducible refine Keeps.foldl (fun _ _ => ?_) _ ?_
    | with_reducible refine Keeps.foldlFst (fun _ _ _ => ?_) _ ?_
    | with_reducible refine Keeps.foldlSnd (fun _ _ _ => ?_) _ ?_
    | with_reducible refine Keeps.ite ?_ ?_
    | split
    | extract_lets -merge
    | rintro _ ⟨⟩
    | with_reducible apply Keeps.getD
    | contradiction
    | intro _ _
    | refine Keeps.fst ?_ (by with_reducible assumption)
    | dsimp +zetaDelta only

end Sys2Proof.Machine
end

