-- ==== Sys2Proof/Laws/KeepsLines.lean ====
section
/-!
SUPPORT. What the operations of Machine/Lines.lean leave unchanged.
-/
namespace Sys2Proof.Machine

theorem State.flushUpdate_keeps (s : State) : Keeps 0x40000000522 s (State.flushUpdate s) := by
  unfold State.flushUpdate
  repeat' first
    | exact Eq.refl _
    | exact fun _ => Eq.refl _
    | with_reducible exact Keeps.refl _ _
    | assumption
    | with_reducible apply Keeps.after (State.setF_keeps _ _ _)
    | with_reducible apply Keeps.after (State.fire_keeps _ _)
    | with_reducible apply Keeps.after (State.setFlag_keeps _ _ _)
    | with_reducible refine Keeps.foldl (fun _ _ => ?_) _ ?_
    | with_reducible refine Keeps.foldlFst (fun _ _ _ => ?_) _ ?_
    | with_reducible refine Keeps.foldlSnd (fun _ _ _ => ?_) _ ?_
    | with_reducible refine Keeps.ite ?_ ?_
    | split
    | extract_lets -merge
    | rintro _ ⟨⟩
    | with_reducible apply Keeps.getD
    | contradiction
    | intro _ _
    | refine Keeps.fst ?_ (by with_reducible assumption)
    | dsimp +zetaDelta only

theorem State.presenceUpdate_keeps (a0 : Nat) (s : State) : Keeps 0x40008000522 s (State.presenceUpdate a0 s) := by
  unfold State.presenceUpdate
  repeat' first
    | exact Eq.refl _
    | exact fun _ => Eq.refl _
    | with_reducible exact Keeps.refl _ _
    | assumption
    | with_reducible apply Keeps.after (State.flushUpdate_keeps _)
    | with_reducible apply Keeps.after (State.excludeUpdate_keeps _ _)
    | with_reducible refine Keeps.ite ?_ ?_
    | split
    | extract_lets -merge
    | rintro _ ⟨⟩
    | with_reducible apply Keeps.getD
    | contradiction
    | intro _ _
    | refine Keeps.fst ?_ (by with_reducible assumption)
    | dsimp +zetaDelta only

theorem State.dirtyChanged_keeps (s : State) : Keeps 0x40000000522 s (State.dirtyChanged s) := by
  unfold State.dirtyChanged
  repeat' first
    | exact Eq.refl _
    | exact fun _ => Eq.refl _
    | with_reducible exact Keeps.refl _ _
    | assumption
    | with_reducible apply Keeps.after (State.flushUpdate_keeps _)
    | with_reducible apply Keeps.after (State.cleaningUpdate_keeps _)
    | with_reducible refine Keeps.ite ?_ ?_
    | split
    | extract_lets -merge
    | rintro _ ⟨⟩
    | with_reducible apply Keeps.getD
    | contradiction
    | intro _ _
    | refine Keeps.fst ?_ (by with_reducible assumption)
    | dsimp +zetaDelta only

theorem State.injLine_keeps (a0 : List Nat) (a1 : Nat) (a2 : Line) (s : State) : Keeps 0x40040000522 s (State.injLine a0 a1 a2 s).1 := by
  unfold State.injLine
  repeat' first
    | exact Eq.refl _
    | exact fun _ => Eq.refl _
    | with_reducible exact Keeps.refl _ _
    | assumption
    | with_reducible apply Keeps.after (State.injConsume_keeps _)
    | with_reducible refine Keeps.ite ?_ ?_
    | split
    | extract_lets -merge
    | rintro _ ⟨⟩
    | with_reducible apply Keeps.getD
    | contradiction
    | intro _ _
    | refine Keeps.fst ?_ (by with_reducible assumption)
    | dsimp +zetaDelta only

theorem State.injCached_keeps (a0 : Nat) (s : State) : Keeps 0x40040000522 s (State.injCached a0 s).1 := by
  unfold State.injCached
  repeat' first
    | exact Eq.refl _
    | exact fun _ => Eq.refl _
    | with_reducible exact Keeps.refl _ _
    | assumption
    | with_reducible apply Keeps.after (State.injConsume_keeps _)
    | with_reducible refine Keeps.ite ?_ ?_
    | split
    | extract_lets -merge
    | rintro _ ⟨⟩
    | with_reducible apply Keeps.getD
    | contradiction
    | intro _ _
    | refine Keeps.fst ?_ (by with_reducible assumption)
    | dsimp +zetaDelta only

theorem State.setWay_keeps (a0 : Nat) (a1 : Way) (s : State) : Keeps 0x2000000 s (State.setWay a0 a1 s) := by
  unfold State.setWay
  repeat' first
    | exact Eq.refl _
    | exact fun _ => Eq.refl _
    | with_reducible exact Keeps.refl _ _
    | assumption
    | with_reducible apply Keeps.after (State.putCache_keeps _ _)
    | with_reducible refine Keeps.ite ?_ ?_
    | split
    | extract_lets -merge
    | rintro _ ⟨⟩
    | with_reducible apply Keeps.getD
    | contradiction
    | intro _ _
    | refine Keeps.fst ?_ (by with_reducible assumption)
    | dsimp +zetaDelta only

theorem State.setPent_keeps (a0 : Nat) (a1 : PEntry) (s : State) : Keeps 0x2000000 s (State.setPent a0 a1 s) := by
  unfold State.setPent
  repeat' first
    | exact Eq.refl _
    | exact fun _ => Eq.refl _
    | with_reducible exact Keeps.refl _ _
    | assumption
    | with_reducible apply Keeps.after (State.putCache_keeps _ _)
    | with_reducible refine Keeps.ite ?_ ?_
    | split
    | extract_lets -merge
    | rintro _ ⟨⟩
    | with_reducible apply Keeps.getD
    | contradiction
    | intro _ _
    | refine Keeps.fst ?_ (by with_reducible assumption)
    | dsimp +zetaDelta only

theorem State.setPline_keeps (a0 : Nat) (a1 : Nat) (a2 : PLine) (s : State) : Keeps 0x2000000 s (State.setPline a0 a1 a2 s) := by
  unfold State.setPline
  repeat' first
    | exact Eq.refl _
    | exact fun _ => Eq.refl _
    | with_reducible exact Keeps.refl _ _
    | assumption
    | with_reducible apply Keeps.after (State.setPent_keeps _ _ _)
    | with_reducible refine Keeps.ite ?_ ?_
    | split
    | extract_lets -merge
    | rintro _ ⟨⟩
    | with_reducible apply Keeps.getD
    | contradiction
    | intro _ _
    | refine Keeps.fst ?_ (by with_reducible assumption)
    | dsimp +zetaDelta only

theorem State.stage_keeps (a0 : Nat) (a1 : Line) (a2 : Bool) (s : State) : Keeps 0x48003000522 s (State.stage a0 a1 a2 s) := by
  unfold State.stage
  repeat' first
    | exact Eq.refl _
    | exact fun _ => Eq.refl _
    | with_reducible exact Keeps.refl _ _
    | assumption
    | with_reducible apply Keeps.after (State.perf_keeps _ _ _ _ _)
    | with_reducible apply Keeps.after (State.putNextReq_keeps _ _)
    | with_reducible apply Keeps.after (State.modCache_keeps _ _ )
    | with_reducible refine Keeps.ite ?_ ?_
    | split
    | extract_lets -merge
    | rintro _ ⟨⟩
    | with_reducible apply Keeps.getD
    | contradiction
    | intro _ _
    | refine Keeps.fst ?_ (by with_reducible assumption)
    | dsimp +zetaDelta only

theorem State.stagingDrop_keeps (a0 : Staged → Bool) (s : State) : Keeps 0x2000000 s (State.stagingDrop a0 s) := by
  unfold State.stagingDrop
  repeat' first
    | exact Eq.refl _
    | exact fun _ => Eq.refl _
    | with_reducible exact Keeps.refl _ _
    | assumption
    | with_reducible apply Keeps.after (State.putCache_keeps _ _)
    | with_reducible refine Keeps.ite ?_ ?_
    | split
    | extract_lets -merge
    | rintro _ ⟨⟩
    | with_reducible apply Keeps.getD
    | contradiction
    | intro _ _
    | refine Keeps.fst ?_ (by with_reducible assumption)
    | dsimp +zetaDelta only

theorem State.dropWay_keeps (a0 : Nat) (s : State) : Keeps 0x2000000 s (State.dropWay a0 s) := by
  unfold State.dropWay
  repeat' first
    | exact Eq.refl _
    | exact fun _ => Eq.refl _
    | with_reducible exact Keeps.refl _ _
    | assumption
    | with_reducible apply Keeps.after (State.setWay_keeps _ _ _)
    | with_reducible refine Keeps.ite ?_ ?_
    | split
    | extract_lets -merge
    | rintro _ ⟨⟩
    | with_reducible apply Keeps.getD
    | contradiction
    | intro _ _
    | refine Keeps.fst ?_ (by with_reducible assumption)
    | dsimp +zetaDelta only

theorem State.touchWay_keeps (a0 : Nat) (a1 : Bool) (s : State) : Keeps 0x2000000 s (State.touchWay a0 a1 s) := by
  unfold State.touchWay
  repeat' first
    | exact Eq.refl _
    | exact fun _ => Eq.refl _
    | with_reducible exact Keeps.refl _ _
    | assumption
    | with_reducible apply Keeps.after (State.setWay_keeps _ _ _)
    | with_reducible refine Keeps.ite ?_ ?_
    | split
    | extract_lets -merge
    | rintro _ ⟨⟩
    | with_reducible apply Keeps.getD
    | contradiction
    | intro _ _
    | refine Keeps.fst ?_ (by with_reducible assumption)
    | dsimp +zetaDelta only

theorem State.touchPent_keeps (a0 : Nat) (a1 : Bool) (s : State) : Keeps 0x2000000 s (State.touchPent a0 a1 s) := by
  unfold State.touchPent
  repeat' first
    | exact Eq.refl _
    | exact fun _ => Eq.refl _
    | with_reducible exact Keeps.refl _ _
    | assumption
    | with_reducible apply Keeps.after (State.setPent_keeps _ _ _)
    | with_reducible refine Keeps.ite ?_ ?_
    | split
    | extract_lets -merge
    | rintro _ ⟨⟩
    | with_reducible apply Keeps.getD
    | contradiction
    | intro _ _
    | refine Keeps.fst ?_ (by with_reducible assumption)
    | dsimp +zetaDelta only

theorem State.dirtyLost_keeps (a0 : Nat) (a1 : Nat) (s : State) : Keeps 0x40000030522 s (State.dirtyLost a0 a1 s) := by
  unfold State.dirtyLost
  repeat' first
    | exact Eq.refl _
    | exact fun _ => Eq.refl _
    | with_reducible exact Keeps.refl _ _
    | assumption
    | with_reducible apply Keeps.after (State.fireRec_keeps _ _ _ _)
    | with_reducible apply Keeps.after (State.countF_keeps _ _ _)
    | with_reducible refine Keeps.ite ?_ ?_
    | split
    | extract_lets -merge
    | rintro _ ⟨⟩
    | with_reducible apply Keeps.getD
    | contradiction
    | intro _ _
    | refine Keeps.fst ?_ (by with_reducible assumption)
    | dsimp +zetaDelta only

theorem State.stagedLost_keeps (a0 : Staged) (s : State) : Keeps 0xe000000 s (State.stagedLost a0 s) := by
  unfold State.stagedLost
  repeat' first
    | exact Eq.refl _
    | exact fun _ => Eq.refl _
    | with_reducible exact Keeps.refl _ _
    | assumption
    | with_reducible apply Keeps.after (State.modCache_keeps _ _ )
    | with_reducible apply Keeps.after (State.modXlt_keeps _ _ )
    | with_reducible apply Keeps.after (State.modMed_keeps _ _ )
    | with_reducible refine Keeps.ite ?_ ?_
    | split
    | extract_lets -merge
    | rintro _ ⟨⟩
    | with_reducible apply Keeps.getD
    | contradiction
    | intro _ _
    | refine Keeps.fst ?_ (by with_reducible assumption)
    | dsimp +zetaDelta only

theorem State.lineUncorr_keeps (a0 : Nat) (s : State) : Keeps 0x2 s (State.lineUncorr a0 s) := by
  unfold State.lineUncorr
  repeat' first
    | exact Eq.refl _
    | exact fun _ => Eq.refl _
    | with_reducible exact Keeps.refl _ _
    | assumption
    | with_reducible apply Keeps.after (State.countF_keeps _ _ _)
    | with_reducible refine Keeps.ite ?_ ?_
    | split
    | extract_lets -merge
    | rintro _ ⟨⟩
    | with_reducible apply Keeps.getD
    | contradiction
    | intro _ _
    | refine Keeps.fst ?_ (by with_reducible assumption)
    | dsimp +zetaDelta only

theorem State.lineError_keeps (a0 : Nat) (s : State) : Keeps 0x4000e030522 s (State.lineError a0 s).1 := by
  unfold State.lineError
  repeat' first
    | exact Eq.refl _
    | exact fun _ => Eq.refl _
    | with_reducible exact Keeps.refl _ _
    | assumption
    | with_reducible apply Keeps.after (State.dirtyLost_keeps _ _ _)
    | with_reducible apply Keeps.after (State.setPline_keeps _ _ _ _)
    | with_reducible apply Keeps.after (State.countF_keeps _ _ _)
    | with_reducible apply Keeps.after (State.setWay_keeps _ _ _)
    | with_reducible apply Keeps.after (State.lineUncorr_keeps _ _)
    | with_reducible apply Keeps.after (State.dropWay_keeps _ _)
    | with_reducible apply Keeps.after (State.stagedLost_keeps _ _)
    | with_reducible refine Keeps.ite ?_ ?_
    | split
    | extract_lets -merge
    | rintro _ ⟨⟩
    | with_reducible apply Keeps.getD
    | contradiction
    | intro _ _
    | refine Keeps.fst ?_ (by with_reducible assumption)
    | dsimp +zetaDelta only

theorem State.copyOut_keeps (a0 : Nat) (s : State) : Keeps 0x4004e030522 s (State.copyOut a0 s) := by
  unfold State.copyOut
  repeat' first
    | exact Eq.refl _
    | exact fun _ => Eq.refl _
    | with_reducible exact Keeps.refl _ _
    | assumption
    | with_reducible apply Keeps.after (State.injCached_keeps _ _)
    | with_reducible apply Keeps.after (State.lineError_keeps _ _)
    | with_reducible refine Keeps.ite ?_ ?_
    | split
    | extract_lets -merge
    | rintro _ ⟨⟩
    | with_reducible apply Keeps.getD
    | contradiction
    | intro _ _
    | refine Keeps.fst ?_ (by with_reducible assumption)
    | dsimp +zetaDelta only

theorem State.copyStaged_keeps (a0 : Staged) (s : State) : Keeps 0x4004e030522 s (State.copyStaged a0 s).1 := by
  unfold State.copyStaged
  repeat' first
    | exact Eq.refl _
    | exact fun _ => Eq.refl _
    | with_reducible exact Keeps.refl _ _
    | assumption
    | with_reducible apply Keeps.after (State.injCached_keeps _ _)
    | with_reducible apply Keeps.after (State.dirtyLost_keeps _ _ _)
    | with_reducible apply Keeps.after (State.stagedLost_keeps _ _)
    | with_reducible apply Keeps.after (State.lineUncorr_keeps _ _)
    | with_reducible refine Keeps.ite ?_ ?_
    | split
    | extract_lets -merge
    | rintro _ ⟨⟩
    | with_reducible apply Keeps.getD
    | contradiction
    | intro _ _
    | refine Keeps.fst ?_ (by with_reducible assumption)
    | dsimp +zetaDelta only

theorem State.install_keeps (a0 : Nat) (a1 : Line) (a2 : Bool) (a3 : Bool) (s : State) : ∀ t, State.install a0 a1 a2 a3 s = some t → Keeps 0x4804f030522 s t := by
  unfold State.install
  repeat' first
    | exact Eq.refl _
    | exact fun _ => Eq.refl _
    | with_reducible exact Keeps.refl _ _
    | assumption
    | with_reducible apply Keeps.after (State.copyOut_keeps _ _)
    | with_reducible apply Keeps.after (State.setWay_keeps _ _ _)
    | with_reducible apply Keeps.after (State.stage_keeps _ _ _ _)
    | with_reducible refine Keeps.ite ?_ ?_
    | split
    | extract_lets -merge
    | rintro _ ⟨⟩
    | with_reducible apply Keeps.getD
    | contradiction
    | intro _ _
    | refine Keeps.fst ?_ (by with_reducible assumption)
    | dsimp +zetaDelta only

theorem State.takeStamp_keeps (s : State) : Keeps 0x4000000 s (State.takeStamp s).1 := by
  unfold State.takeStamp
  repeat' first
    | exact Eq.refl _
    | exact fun _ => Eq.refl _
    | with_reducible exact Keeps.refl _ _
    | assumption
    | with_reducible apply Keeps.after (State.putXlt_keeps _ _)
    | with_reducible refine Keeps.ite ?_ ?_
    | split
    | extract_lets -merge
    | rintro _ ⟨⟩
    | with_reducible apply Keeps.getD
    | contradiction
    | intro _ _
    | refine Keeps.fst ?_ (by with_reducible assumption)
    | dsimp +zetaDelta only

theorem State.storeTo_keeps (a0 : List Nat) (a1 : KeyStore) (s : State) : Keeps 0x500000000 s (State.storeTo a0 a1 s) := by
  unfold State.storeTo
  repeat' first
    | exact Eq.refl _
    | exact fun _ => Eq.refl _
    | with_reducible exact Keeps.refl _ _
    | assumption
    | with_reducible apply Keeps.after (State.setCart_keeps _ _ _)
    | with_reducible apply Keeps.after (State.putCip_keeps _ _)
    | with_reducible refine Keeps.foldl (fun _ _ => ?_) _ ?_
    | with_reducible refine Keeps.foldlFst (fun _ _ _ => ?_) _ ?_
    | with_reducible refine Keeps.foldlSnd (fun _ _ _ => ?_) _ ?_
    | with_reducible refine Keeps.ite ?_ ?_
    | split
    | extract_lets -merge
    | rintro _ ⟨⟩
    | with_reducible apply Keeps.getD
    | contradiction
    | intro _ _
    | refine Keeps.fst ?_ (by with_reducible assumption)
    | dsimp +zetaDelta only

theorem State.anchorWrite_keeps (s : State) : Keeps 0x504000000 s (State.anchorWrite s) := by
  unfold State.anchorWrite
  repeat' first
    | exact Eq.refl _
    | exact fun _ => Eq.refl _
    | with_reducible exact Keeps.refl _ _
    | assumption
    | with_reducible apply Keeps.after (State.storeTo_keeps _ _ _)
    | with_reducible apply Keeps.after (State.putXlt_keeps _ _)
    | with_reducible refine Keeps.foldl (fun _ _ => ?_) _ ?_
    | with_reducible refine Keeps.foldlFst (fun _ _ _ => ?_) _ ?_
    | with_reducible refine Keeps.foldlSnd (fun _ _ _ => ?_) _ ?_
    | with_reducible refine Keeps.ite ?_ ?_
    | split
    | extract_lets -merge
    | rintro _ ⟨⟩
    | with_reducible apply Keeps.getD
    | contradiction
    | intro _ _
    | refine Keeps.fst ?_ (by with_reducible assumption)
    | dsimp +zetaDelta only

theorem State.timePairWrite_keeps (s : State) : Keeps 0x40000010522 s (State.timePairWrite s) := by
  unfold State.timePairWrite
  repeat' first
    | exact Eq.refl _
    | exact fun _ => Eq.refl _
    | with_reducible exact Keeps.refl _ _
    | assumption
    | with_reducible apply Keeps.after (State.setTackBytes_keeps _ _ _)
    | with_reducible apply Keeps.after (State.refuseWrite_keeps _)
    | with_reducible refine Keeps.ite ?_ ?_
    | split
    | extract_lets -merge
    | rintro _ ⟨⟩
    | with_reducible apply Keeps.getD
    | contradiction
    | intro _ _
    | refine Keeps.fst ?_ (by with_reducible assumption)
    | dsimp +zetaDelta only

theorem State.directoryWrite_keeps (s : State) : Keeps 0xc000c030522 s (State.directoryWrite s) := by
  unfold State.directoryWrite
  repeat' first
    | exact Eq.refl _
    | exact fun _ => Eq.refl _
    | with_reducible exact Keeps.refl _ _
    | assumption
    | with_reducible apply Keeps.after (State.takeStamp_keeps _)
    | with_reducible apply Keeps.after (State.rotateGroup_keeps _)
    | with_reducible apply Keeps.after (State.allocPage_keeps _ _ _)
    | with_reducible apply Keeps.after (State.modXlt_keeps _ _ )
    | with_reducible apply Keeps.after (State.issue_keeps _ _ _ _)
    | with_reducible refine Keeps.ite ?_ ?_
    | split
    | extract_lets -merge
    | rintro _ ⟨⟩
    | with_reducible apply Keeps.getD
    | contradiction
    | intro _ _
    | refine Keeps.fst ?_ (by with_reducible assumption)
    | dsimp +zetaDelta only

theorem State.rosterCheck_keeps (a0 : List Nat) (s : State) : Keeps 0xc050c030522 s (State.rosterCheck a0 s) := by
  unfold State.rosterCheck
  repeat' first
    | exact Eq.refl _
    | exact fun _ => Eq.refl _
    | with_reducible exact Keeps.refl _ _
    | assumption
    | with_reducible apply Keeps.after (State.anchorWrite_keeps _)
    | with_reducible apply Keeps.after (State.directoryWrite_keeps _)
    | with_reducible refine Keeps.ite ?_ ?_
    | split
    | extract_lets -merge
    | rintro _ ⟨⟩
    | with_reducible apply Keeps.getD
    | contradiction
    | intro _ _
    | refine Keeps.fst ?_ (by with_reducible assumption)
    | dsimp +zetaDelta only

theorem State.journalWrite_keeps (s : State) : Keeps 0xc850c030522 s (State.journalWrite s) := by
  unfold State.journalWrite
  repeat' first
    | exact Eq.refl _
    | exact fun _ => Eq.refl _
    | with_reducible exact Keeps.refl _ _
    | assumption
    | with_reducible apply Keeps.after (State.rotateGroup_keeps _)
    | with_reducible apply Keeps.after (State.allocPage_keeps _ _ _)
    | with_reducible apply Keeps.after (State.modXlt_keeps _ _ )
    | with_reducible apply Keeps.after (State.perf_keeps _ _ _ _ _)
    | with_reducible apply Keeps.after (State.issue_keeps _ _ _ _)
    | with_reducible apply Keeps.after (State.anchorWrite_keeps _)
    | with_reducible refine Keeps.ite ?_ ?_
    | split
    | extract_lets -merge
    | rintro _ ⟨⟩
    | with_reducible apply Keeps.getD
    | contradiction
    | intro _ _
    | refine Keeps.fst ?_ (by with_reducible assumption)
    | dsimp +zetaDelta only

theorem State.journal_keeps (a0 : JRec) (s : State) : Keeps 0xc850c030522 s (State.journal a0 s) := by
  unfold State.journal
  repeat' first
    | exact Eq.refl _
    | exact fun _ => Eq.refl _
    | with_reducible exact Keeps.refl _ _
    | assumption
    | with_reducible apply Keeps.after (State.takeStamp_keeps _)
    | with_reducible apply Keeps.after (State.putXlt_keeps _ _)
    | with_reducible apply Keeps.after (State.journalWrite_keeps _)
    | with_reducible refine Keeps.ite ?_ ?_
    | split
    | extract_lets -merge
    | rintro _ ⟨⟩
    | with_reducible apply Keeps.getD
    | contradiction
    | intro _ _
    | refine Keeps.fst ?_ (by with_reducible assumption)
    | dsimp +zetaDelta only

theorem State.mapFlags_keeps (a0 : Nat) (a1 : Bool) (s : State) : Keeps 0x4000000 s (State.mapFlags a0 a1 s) := by
  unfold State.mapFlags
  repeat' first
    | exact Eq.refl _
    | exact fun _ => Eq.refl _
    | with_reducible exact Keeps.refl _ _
    | assumption
    | with_reducible apply Keeps.after (State.setMapEntry_keeps _ _ _)
    | with_reducible refine Keeps.ite ?_ ?_
    | split
    | extract_lets -merge
    | rintro _ ⟨⟩
    | with_reducible apply Keeps.getD
    | contradiction
    | intro _ _
    | refine Keeps.fst ?_ (by with_reducible assumption)
    | dsimp +zetaDelta only

theorem State.mapSwitch_keeps (a0 : Nat) (a1 : Nat) (a2 : Nat) (a3 : Bool) (s : State) : Keeps 0xc850c030522 s (State.mapSwitch a0 a1 a2 a3 s) := by
  unfold State.mapSwitch
  repeat' first
    | exact Eq.refl _
    | exact fun _ => Eq.refl _
    | with_reducible exact Keeps.refl _ _
    | assumption
    | with_reducible apply Keeps.after (State.mapChanged_keeps _ _)
    | with_reducible apply Keeps.after (State.setMapEntry_keeps _ _ _)
    | with_reducible apply Keeps.after (State.dropPage_keeps _ _)
    | with_reducible apply Keeps.after (State.journal_keeps _ _)
    | with_reducible refine Keeps.ite ?_ ?_
    | split
    | extract_lets -merge
    | rintro _ ⟨⟩
    | with_reducible apply Keeps.getD
    | contradiction
    | intro _ _
    | refine Keeps.fst ?_ (by with_reducible assumption)
    | dsimp +zetaDelta only

theorem State.darnTrigger_keeps (a0 : Nat) (a1 : Nat) (a2 : Option Nat) (s : State) : Keeps 0x40004000522 s (State.darnTrigger a0 a1 a2 s) := by
  unfold State.darnTrigger
  repeat' first
    | exact Eq.refl _
    | exact fun _ => Eq.refl _
    | with_reducible exact Keeps.refl _ _
    | assumption
    | with_reducible apply Keeps.after (State.putXlt_keeps _ _)
    | with_reducible apply Keeps.after (State.fire_keeps _ _)
    | with_reducible refine Keeps.ite ?_ ?_
    | split
    | extract_lets -merge
    | rintro _ ⟨⟩
    | with_reducible apply Keeps.getD
    | contradiction
    | intro _ _
    | refine Keeps.fst ?_ (by with_reducible assumption)
    | dsimp +zetaDelta only

theorem State.stallSlice_keeps (a0 : Nat) (s : State) : Keeps 0x40002000522 s (State.stallSlice a0 s) := by
  unfold State.stallSlice
  repeat' first
    | exact Eq.refl _
    | exact fun _ => Eq.refl _
    | with_reducible exact Keeps.refl _ _
    | assumption
    | with_reducible apply Keeps.after (State.fire_keeps _ _)
    | with_reducible apply Keeps.after (State.modCache_keeps _ _ )
    | with_reducible refine Keeps.ite ?_ ?_
    | split
    | extract_lets -merge
    | rintro _ ⟨⟩
    | with_reducible apply Keeps.getD
    | contradiction
    | intro _ _
    | refine Keeps.fst ?_ (by with_reducible assumption)
    | dsimp +zetaDelta only

theorem State.stallEnd_keeps (s : State) : Keeps 0x2000000 s (State.stallEnd s) := by
  unfold State.stallEnd
  repeat' first
    | exact Eq.refl _
    | exact fun _ => Eq.refl _
    | with_reducible exact Keeps.refl _ _
    | assumption
    | with_reducible apply Keeps.after (State.modCache_keeps _ _ )
    | with_reducible refine Keeps.ite ?_ ?_
    | split
    | extract_lets -merge
    | rintro _ ⟨⟩
    | with_reducible apply Keeps.getD
    | contradiction
    | intro _ _
    | refine Keeps.fst ?_ (by with_reducible assumption)
    | dsimp +zetaDelta only

theorem State.sealPage_keeps (a0 : OpenPatch) (s : State) : Keeps 0xc000000 s (State.sealPage a0 s) := by
  unfold State.sealPage
  repeat' first
    | exact Eq.refl _
    | exact fun _ => Eq.refl _
    | with_reducible exact Keeps.refl _ _
    | assumption
    | with_reducible apply Keeps.after (State.putXlt_keeps _ _)
    | with_reducible apply Keeps.after (State.issue_keeps _ _ _ _)
    | with_reducible refine Keeps.ite ?_ ?_
    | split
    | extract_lets -merge
    | rintro _ ⟨⟩
    | with_reducible apply Keeps.getD
    | contradiction
    | intro _ _
    | refine Keeps.fst ?_ (by with_reducible assumption)
    | dsimp +zetaDelta only

theorem State.openPatch_keeps (a0 : Nat) (s : State) : Keeps 0xc050c030522 s (State.openPatch a0 s).1 := by
  unfold State.openPatch
  repeat' first
    | exact Eq.refl _
    | exact fun _ => Eq.refl _
    | with_reducible exact Keeps.refl _ _
    | assumption
    | with_reducible apply Keeps.after (State.allocPage_keeps _ _ _)
    | with_reducible apply Keeps.after (State.takeStamp_keeps _)
    | with_reducible apply Keeps.after (State.rosterCheck_keeps _ _)
    | with_reducible apply Keeps.after (State.putXlt_keeps _ _)
    | with_reducible refine Keeps.ite ?_ ?_
    | split
    | extract_lets -merge
    | rintro _ ⟨⟩
    | with_reducible apply Keeps.getD
    | contradiction
    | intro _ _
    | refine Keeps.fst ?_ (by with_reducible assumption)
    | dsimp +zetaDelta only

theorem State.placePatch_keeps (a0 : Nat) (a1 : Line) (a2 : Option Nat) (s : State) : Keeps 0xc850c030522 s (State.placePatch a0 a1 a2 s).1 := by
  unfold State.placePatch
  repeat' first
    | exact Eq.refl _
    | exact fun _ => Eq.refl _
    | with_reducible exact Keeps.refl _ _
    | assumption
    | with_reducible apply Keeps.after (State.sealPage_keeps _ _)
    | with_reducible apply Keeps.after (State.openPatch_keeps _ _)
    | with_reducible apply Keeps.after (State.takeStamp_keeps _)
    | with_reducible apply Keeps.after (State.perf_keeps _ _ _ _ _)
    | with_reducible apply Keeps.after (State.modXlt_keeps _ _ )
    | with_reducible refine Keeps.ite ?_ ?_
    | split
    | extract_lets -merge
    | rintro _ ⟨⟩
    | with_reducible apply Keeps.getD
    | contradiction
    | intro _ _
    | refine Keeps.fst ?_ (by with_reducible assumption)
    | dsimp +zetaDelta only

theorem State.swatchLimit_keeps (a0 : Nat) (s : State) : Keeps 0x40004000522 s (State.swatchLimit a0 s) := by
  unfold State.swatchLimit
  repeat' first
    | exact Eq.refl _
    | exact fun _ => Eq.refl _
    | with_reducible exact Keeps.refl _ _
    | assumption
    | with_reducible apply Keeps.after (State.darnTrigger_keeps _ _ _ _)
    | with_reducible refine Keeps.ite ?_ ?_
    | split
    | extract_lets -merge
    | rintro _ ⟨⟩
    | with_reducible apply Keeps.getD
    | contradiction
    | intro _ _
    | refine Keeps.fst ?_ (by with_reducible assumption)
    | dsimp +zetaDelta only

theorem State.evict_keeps (a0 : Nat) (s : State) : Keeps 0xc854e030522 s (State.evict a0 s) := by
  unfold State.evict
  repeat' first
    | exact Eq.refl _
    | exact fun _ => Eq.refl _
    | with_reducible exact Keeps.refl _ _
    | assumption
    | with_reducible apply Keeps.after (State.copyStaged_keeps _ _)
    | with_reducible apply Keeps.after (State.placePatch_keeps _ _ _ _)
    | with_reducible apply Keeps.after (State.swatchLimit_keeps _ _)
    | with_reducible apply Keeps.after (State.putCache_keeps _ _)
    | with_reducible apply Keeps.after (State.darnTrigger_keeps _ _ _ _)
    | with_reducible apply Keeps.after (State.stallSlice_keeps _ _)
    | with_reducible apply Keeps.after (State.fire_keeps _ _)
    | with_reducible refine Keeps.ite ?_ ?_
    | split
    | extract_lets -merge
    | rintro _ ⟨⟩
    | with_reducible apply Keeps.getD
    | contradiction
    | intro _ _
    | refine Keeps.fst ?_ (by with_reducible assumption)
    | dsimp +zetaDelta only

theorem State.release_keeps (a0 : Nat) (s : State) : Keeps 0x4804f030522 s (State.release a0 s).1 := by
  unfold State.release
  repeat' first
    | exact Eq.refl _
    | exact fun _ => Eq.refl _
    | with_reducible exact Keeps.refl _ _
    | assumption
    | with_reducible apply Keeps.after (State.copyOut_keeps _ _)
    | with_reducible apply Keeps.after (State.setPline_keeps _ _ _ _)
    | with_reducible apply Keeps.after (State.stage_keeps _ _ _ _)
    | with_reducible apply Keeps.after (State.setWay_keeps _ _ _)
    | with_reducible refine Keeps.ite ?_ ?_
    | split
    | extract_lets -merge
    | rintro _ ⟨⟩
    | with_reducible apply Keeps.getD
    | contradiction
    | intro _ _
    | refine Keeps.fst ?_ (by with_reducible assumption)
    | dsimp +zetaDelta only

theorem State.fillCheck_keeps (s : State) : Keeps 0x40004000522 s (State.fillCheck s) := by
  unfold State.fillCheck
  repeat' first
    | exact Eq.refl _
    | exact fun _ => Eq.refl _
    | with_reducible exact Keeps.refl _ _
    | assumption
    | with_reducible apply Keeps.after (State.putXlt_keeps _ _)
    | with_reducible apply Keeps.after (State.fire_keeps _ _)
    | with_reducible refine Keeps.ite ?_ ?_
    | split
    | extract_lets -merge
    | rintro _ ⟨⟩
    | with_reducible apply Keeps.getD
    | contradiction
    | intro _ _
    | refine Keeps.fst ?_ (by with_reducible assumption)
    | dsimp +zetaDelta only

theorem State.storeDirty_keeps (a0 : Nat) (a1 : Line) (a2 : Bool) (s : State) : ∀ t, State.storeDirty a0 a1 a2 s = some t → Keeps 0x4804f030522 s t := by
  unfold State.storeDirty
  repeat' first
    | exact Eq.refl _
    | exact fun _ => Eq.refl _
    | with_reducible exact Keeps.refl _ _
    | assumption
    | with_reducible apply Keeps.after (State.modXlt_keeps _ _ )
    | with_reducible apply Keeps.after (State.injLine_keeps _ _ _ _)
    | with_reducible apply Keeps.after (State.touchPent_keeps _ _ _)
    | with_reducible apply Keeps.after (State.setPline_keeps _ _ _ _)
    | with_reducible apply Keeps.after (State.touchWay_keeps _ _ _)
    | with_reducible apply Keeps.after (State.setWay_keeps _ _ _)
    | with_reducible apply Keeps.after (State.install_keeps _ _ _ _ _ _ (by assumption))
    | with_reducible refine Keeps.ite ?_ ?_
    | split
    | extract_lets -merge
    | rintro _ ⟨⟩
    | with_reducible apply Keeps.getD
    | contradiction
    | intro _ _
    | refine Keeps.fst ?_ (by with_reducible assumption)
    | dsimp +zetaDelta only

theorem State.discardCached_keeps (a0 : Nat) (s : State) : Keeps 0x2000000 s (State.discardCached a0 s) := by
  unfold State.discardCached
  repeat' first
    | exact Eq.refl _
    | exact fun _ => Eq.refl _
    | with_reducible exact Keeps.refl _ _
    | assumption
    | with_reducible apply Keeps.after (State.dropWay_keeps _ _)
    | with_reducible apply Keeps.after (State.setPline_keeps _ _ _ _)
    | with_reducible refine Keeps.ite ?_ ?_
    | split
    | extract_lets -merge
    | rintro _ ⟨⟩
    | with_reducible apply Keeps.getD
    | contradiction
    | intro _ _
    | refine Keeps.fst ?_ (by with_reducible assumption)
    | dsimp +zetaDelta only

theorem State.passReads_keeps (a0 : Nat → Bool) (s : State) : Keeps 0x800000 s (State.passReads a0 s) := by
  unfold State.passReads
  repeat' first
    | exact Eq.refl _
    | exact fun _ => Eq.refl _
    | with_reducible exact Keeps.refl _ _
    | assumption
    | with_reducible apply Keeps.after (State.putReqs_keeps _ _)
    | with_reducible refine Keeps.ite ?_ ?_
    | split
    | extract_lets -merge
    | rintro _ ⟨⟩
    | with_reducible apply Keeps.getD
    | contradiction
    | intro _ _
    | refine Keeps.fst ?_ (by with_reducible assumption)
    | dsimp +zetaDelta only

theorem State.throughCommit_keeps (a0 : Nat) (s : State) : Keeps 0x2000000 s (State.throughCommit a0 s) := by
  unfold State.throughCommit
  repeat' first
    | exact Eq.refl _
    | exact fun _ => Eq.refl _
    | with_reducible exact Keeps.refl _ _
    | assumption
    | with_reducible apply Keeps.after (State.stagingDrop_keeps _ _)
    | with_reducible apply Keeps.after (State.discardCached_keeps _ _)
    | with_reducible refine Keeps.ite ?_ ?_
    | split
    | extract_lets -merge
    | rintro _ ⟨⟩
    | with_reducible apply Keeps.getD
    | contradiction
    | intro _ _
    | refine Keeps.fst ?_ (by with_reducible assumption)
    | dsimp +zetaDelta only

theorem State.unmap_keeps (a0 : Nat) (a1 : Nat) (s : State) : Keeps 0xc850e830522 s (State.unmap a0 a1 s) := by
  unfold State.unmap
  repeat' first
    | exact Eq.refl _
    | exact fun _ => Eq.refl _
    | with_reducible exact Keeps.refl _ _
    | assumption
    | with_reducible apply Keeps.after (State.takeStamp_keeps _)
    | with_reducible apply Keeps.after (State.idxRemove_keeps _ _)
    | with_reducible apply Keeps.after (State.putReqs_keeps _ _)
    | with_reducible apply Keeps.after (State.putCache_keeps _ _)
    | with_reducible apply Keeps.after (State.putMed_keeps _ _)
    | with_reducible apply Keeps.after (State.putXlt_keeps _ _)
    | with_reducible apply Keeps.after (State.journal_keeps _ _)
    | with_reducible apply Keeps.after (State.mapChanged_keeps _ _)
    | with_reducible apply Keeps.after (State.dirtyChanged_keeps _)
    | with_reducible apply Keeps.after (State.dropPage_keeps _ _)
    | with_reducible refine Keeps.foldl (fun _ _ => ?_) _ ?_
    | with_reducible refine Keeps.foldlFst (fun _ _ _ => ?_) _ ?_
    | with_reducible refine Keeps.foldlSnd (fun _ _ _ => ?_) _ ?_
    | with_reducible refine Keeps.ite ?_ ?_
    | split
    | extract_lets -merge
    | rintro _ ⟨⟩
    | with_reducible apply Keeps.getD
    | contradiction
    | intro _ _
    | refine Keeps.fst ?_ (by with_reducible assumption)
    | dsimp +zetaDelta only

end Sys2Proof.Machine
end

