-- ==== Sys2Proof/Laws/KeepsPost.lean ====
section
/-!
SUPPORT. What the operations of Machine/Post.lean leave unchanged.
-/
namespace Sys2Proof.Machine

theorem State.setCtx_keeps (a0 : Nat) (a1 : SpoolCtx) (s : State) : Keeps 0x2000000000 s (State.setCtx a0 a1 s) := by
  unfold State.setCtx
  repeat' first
    | exact Eq.refl _
    | exact fun _ => Eq.refl _
    | with_reducible exact Keeps.refl _ _
    | assumption
    | with_reducible apply Keeps.after (State.modSpl_keeps _ _ ?_)
    | with_reducible refine Keeps.ite ?_ ?_
    | split
    | extract_lets -merge
    | rintro _ ⟨⟩
    | with_reducible apply Keeps.getD
    | contradiction
    | intro _ _
    | refine Keeps.fst ?_ (by with_reducible assumption)
    | dsimp +zetaDelta only

theorem State.setSpoolBytes_keeps (a : Nat) (bs : List Byte) (s : State) : Keeps 0x2000000000 s (State.setSpoolBytes a bs s) :=
  Keeps.spl_ _ fun c => Tab.wf_setBytes _ _ _ _ c.2.2.2.1

theorem State.spoolSignal_keeps (a0 : Nat) (s : State) : Keeps 0x42000000522 s (State.spoolSignal a0 s) := by
  unfold State.spoolSignal
  repeat' first
    | exact Eq.refl _
    | exact fun _ => Eq.refl _
    | with_reducible exact Keeps.refl _ _
    | assumption
    | with_reducible apply Keeps.after (State.setCtx_keeps _ _ _)
    | with_reducible apply Keeps.after (State.sendVector_keeps _ _ _)
    | with_reducible apply Keeps.after (State.setF_keeps _ _ _)
    | with_reducible apply Keeps.after (State.fire_keeps _ _)
    | with_reducible refine Keeps.ite ?_ ?_
    | split
    | extract_lets -merge
    | rintro _ ⟨⟩
    | with_reducible apply Keeps.getD
    | contradiction
    | intro _ _
    | refine Keeps.fst ?_ (by with_reducible assumption)
    | dsimp +zetaDelta only

theorem State.writeWords_keeps (a0 : Nat) (a1 : Nat) (a2 : List (List Byte)) (s : State) : Keeps 0x2000000000 s (State.writeWords a0 a1 a2 s) := by
  unfold State.writeWords
  repeat' first
    | exact Eq.refl _
    | exact fun _ => Eq.refl _
    | with_reducible exact Keeps.refl _ _
    | assumption
    | with_reducible apply Keeps.after (State.setSpoolBytes_keeps _ _ _)
    | with_reducible apply Keeps.after (State.setCtx_keeps _ _ _)
    | with_reducible refine Keeps.foldl (fun _ _ => ?_) _ ?_
    | with_reducible refine Keeps.foldlFst (fun _ _ _ => ?_) _ ?_
    | with_reducible refine Keeps.foldlSnd (fun _ _ _ => ?_) _ ?_
    | with_reducible refine Keeps.ite ?_ ?_
    | split
    | extract_lets -merge
    | rintro _ ⟨⟩
    | with_reducible apply Keeps.getD
    | contradiction
    | intro _ _
    | refine Keeps.fst ?_ (by with_reducible assumption)
    | dsimp +zetaDelta only

theorem State.gapCheck_keeps (a0 : Nat) (s : State) : Keeps 0x42000000522 s (State.gapCheck a0 s) := by
  unfold State.gapCheck
  repeat' first
    | exact Eq.refl _
    | exact fun _ => Eq.refl _
    | with_reducible exact Keeps.refl _ _
    | assumption
    | with_reducible apply Keeps.after (State.writeWords_keeps _ _ _ _)
    | with_reducible apply Keeps.after (State.spoolSignal_keeps _ _)
    | with_reducible apply Keeps.after (State.setCtx_keeps _ _ _)
    | with_reducible refine Keeps.ite ?_ ?_
    | split
    | extract_lets -merge
    | rintro _ ⟨⟩
    | with_reducible apply Keeps.getD
    | contradiction
    | intro _ _
    | refine Keeps.fst ?_ (by with_reducible assumption)
    | dsimp +zetaDelta only

theorem State.postRecord_keeps (a0 : Nat) (a1 : Nat) (a2 : List (List Byte)) (a3 : Bool) (s : State) : Keeps 0x42000000522 s (State.postRecord a0 a1 a2 a3 s) := by
  unfold State.postRecord
  repeat' first
    | exact Eq.refl _
    | exact fun _ => Eq.refl _
    | with_reducible exact Keeps.refl _ _
    | assumption
    | with_reducible apply Keeps.after (State.writeWords_keeps _ _ _ _)
    | with_reducible apply Keeps.after (State.spoolSignal_keeps _ _)
    | with_reducible apply Keeps.after (State.gapCheck_keeps _ _)
    | with_reducible apply Keeps.after (State.setCtx_keeps _ _ _)
    | with_reducible refine Keeps.ite ?_ ?_
    | split
    | extract_lets -merge
    | rintro _ ⟨⟩
    | with_reducible apply Keeps.getD
    | contradiction
    | intro _ _
    | refine Keeps.fst ?_ (by with_reducible assumption)
    | dsimp +zetaDelta only

theorem State.samplePush_keeps (a0 : List Byte) (s : State) : Keeps 0x4a000000522 s (State.samplePush a0 s) := by
  unfold State.samplePush
  repeat' first
    | exact Eq.refl _
    | exact fun _ => Eq.refl _
    | with_reducible exact Keeps.refl _ _
    | assumption
    | with_reducible apply Keeps.after (State.ringPush_keeps _ _)
    | with_reducible apply Keeps.after (State.postRecord_keeps _ _ _ _ _)
    | with_reducible apply Keeps.after (State.fire_keeps _ _)
    | with_reducible apply Keeps.after (State.setF_keeps _ _ _)
    | with_reducible refine Keeps.ite ?_ ?_
    | split
    | extract_lets -merge
    | rintro _ ⟨⟩
    | with_reducible apply Keeps.getD
    | contradiction
    | intro _ _
    | refine Keeps.fst ?_ (by with_reducible assumption)
    | dsimp +zetaDelta only

theorem State.sampleStep_keeps (a0 : Nat) (a1 : Option Nat) (s : State) : Keeps 0x82000200000 s (State.sampleStep a0 a1 s).1 := by
  unfold State.sampleStep
  repeat' first
    | exact Eq.refl _
    | exact fun _ => Eq.refl _
    | with_reducible exact Keeps.refl _ _
    | assumption
    | with_reducible apply Keeps.after (State.setPort_keeps _ _ _)
    | with_reducible apply Keeps.after (State.modSpl_keeps _ _ ?_)
    | with_reducible apply Keeps.after (State.freeStep_keeps _)
    | with_reducible refine Keeps.ite ?_ ?_
    | split
    | extract_lets -merge
    | rintro _ ⟨⟩
    | with_reducible apply Keeps.getD
    | contradiction
    | intro _ _
    | refine Keeps.fst ?_ (by with_reducible assumption)
    | dsimp +zetaDelta only

end Sys2Proof.Machine
end

