-- ==== Sys2Proof/Laws/KeepsHosts.lean ====
section
/-!
SUPPORT. What the operations of Machine/Hosts.lean leave unchanged.
-/
namespace Sys2Proof.Machine

theorem State.logEvent_keeps (a0 : Nat) (a1 : Nat) (a2 : Nat) (a3 : List Nat) (s : State) : Keeps 0x40000400522 s (State.logEvent a0 a1 a2 a3 s) := by
  unfold State.logEvent
  repeat' first
    | exact Eq.refl _
    | exact fun _ => Eq.refl _
    | with_reducible exact Keeps.refl _ _
    | assumption
    | with_reducible apply Keeps.after (State.setLd_keeps _ _ _)
    | with_reducible apply Keeps.after (State.sendVector_keeps _ _ _)
    | with_reducible apply Keeps.after (State.fire_keeps _ _)
    | with_reducible refine Keeps.ite ?_ ?_
    | split
    | extract_lets -merge
    | rintro _ ⟨⟩
    | with_reducible apply Keeps.getD
    | contradiction
    | intro _ _
    | refine Keeps.fst ?_ (by with_reducible assumption)
    | dsimp +zetaDelta only

theorem State.mediaEvent_keeps (a0 : Nat) (a1 : Nat) (a2 : Nat) (a3 : Nat) (s : State) : Keeps 0x400004005a2 s (State.mediaEvent a0 a1 a2 a3 s) := by
  unfold State.mediaEvent
  repeat' first
    | exact Eq.refl _
    | exact fun _ => Eq.refl _
    | with_reducible exact Keeps.refl _ _
    | assumption
    | with_reducible apply Keeps.after (State.modRate_keeps _ _ )
    | with_reducible apply Keeps.after (State.logEvent_keeps _ _ _ _ _)
    | with_reducible apply Keeps.after (State.setLd_keeps _ _ _)
    | with_reducible refine Keeps.ite ?_ ?_
    | split
    | extract_lets -merge
    | rintro _ ⟨⟩
    | with_reducible apply Keeps.getD
    | contradiction
    | intro _ _
    | refine Keeps.fst ?_ (by with_reducible assumption)
    | dsimp +zetaDelta only

theorem State.mbDone_keeps (a0 : Nat) (a1 : Nat) (a2 : Nat) (a3 : List Nat) (s : State) : Keeps 0x40000000400 s (State.mbDone a0 a1 a2 a3 s) := by
  unfold State.mbDone
  repeat' first
    | exact Eq.refl _
    | exact fun _ => Eq.refl _
    | with_reducible exact Keeps.refl _ _
    | assumption
    | with_reducible apply Keeps.after (State.emit_keeps _ _)
    | with_reducible apply Keeps.after (State.sendVector_keeps _ _ _)
    | with_reducible refine Keeps.ite ?_ ?_
    | split
    | extract_lets -merge
    | rintro _ ⟨⟩
    | with_reducible apply Keeps.getD
    | contradiction
    | intro _ _
    | refine Keeps.fst ?_ (by with_reducible assumption)
    | dsimp +zetaDelta only

theorem State.moduleEvent_keeps (a0 : Nat) (a1 : List Nat) (s : State) : Keeps 0x40000400522 s (State.moduleEvent a0 a1 s) := by
  unfold State.moduleEvent
  repeat' first
    | exact Eq.refl _
    | exact fun _ => Eq.refl _
    | with_reducible exact Keeps.refl _ _
    | assumption
    | with_reducible apply Keeps.after (State.logEvent_keeps _ _ _ _ _)
    | with_reducible refine Keeps.foldl (fun _ _ => ?_) _ ?_
    | with_reducible refine Keeps.foldlFst (fun _ _ _ => ?_) _ ?_
    | with_reducible refine Keeps.foldlSnd (fun _ _ _ => ?_) _ ?_
    | with_reducible refine Keeps.ite ?_ ?_
    | split
    | extract_lets -merge
    | rintro _ ⟨⟩
    | with_reducible apply Keeps.getD
    | contradiction
    | intro _ _
    | refine Keeps.fst ?_ (by with_reducible assumption)
    | dsimp +zetaDelta only

theorem State.healthCheck_keeps (s : State) : Keeps 0x60000400522 s (State.healthCheck s) := by
  unfold State.healthCheck
  repeat' first
    | exact Eq.refl _
    | exact fun _ => Eq.refl _
    | with_reducible exact Keeps.refl _ _
    | assumption
    | with_reducible apply Keeps.after (State.putHealth_keeps _ _)
    | with_reducible apply Keeps.after (State.moduleEvent_keeps _ _ _)
    | with_reducible apply Keeps.after (State.logEvent_keeps _ _ _ _ _)
    | with_reducible refine Keeps.foldl (fun _ _ => ?_) _ ?_
    | with_reducible refine Keeps.foldlFst (fun _ _ _ => ?_) _ ?_
    | with_reducible refine Keeps.foldlSnd (fun _ _ _ => ?_) _ ?_
    | with_reducible refine Keeps.ite ?_ ?_
    | split
    | extract_lets -merge
    | rintro _ ⟨⟩
    | with_reducible apply Keeps.getD
    | contradiction
    | intro _ _
    | refine Keeps.fst ?_ (by with_reducible assumption)
    | dsimp +zetaDelta only

theorem State.violation_keeps (a0 : Nat) (a1 : Nat) (a2 : Option Nat) (a3 : Nat) (s : State) : Keeps 0x400000305a2 s (State.violation a0 a1 a2 a3 s) := by
  unfold State.violation
  repeat' first
    | exact Eq.refl _
    | exact fun _ => Eq.refl _
    | with_reducible exact Keeps.refl _ _
    | assumption
    | with_reducible apply Keeps.after (State.countF_keeps _ _ _)
    | with_reducible apply Keeps.after (State.setF_keeps _ _ _)
    | with_reducible apply Keeps.after (State.modRate_keeps _ _ )
    | with_reducible apply Keeps.after (State.fireRec_keeps _ _ _ _)
    | with_reducible apply Keeps.after (State.fire_keeps _ _)
    | with_reducible refine Keeps.ite ?_ ?_
    | split
    | extract_lets -merge
    | rintro _ ⟨⟩
    | with_reducible apply Keeps.getD
    | contradiction
    | intro _ _
    | refine Keeps.fst ?_ (by with_reducible assumption)
    | dsimp +zetaDelta only

theorem State.setReq_keeps (a0 : Req) (s : State) : Keeps 0x800000 s (State.setReq a0 s) := by
  unfold State.setReq
  repeat' first
    | exact Eq.refl _
    | exact fun _ => Eq.refl _
    | with_reducible exact Keeps.refl _ _
    | assumption
    | with_reducible apply Keeps.after (State.putReqs_keeps _ _)
    | with_reducible refine Keeps.ite ?_ ?_
    | split
    | extract_lets -merge
    | rintro _ ⟨⟩
    | with_reducible apply Keeps.getD
    | contradiction
    | intro _ _
    | refine Keeps.fst ?_ (by with_reducible assumption)
    | dsimp +zetaDelta only

theorem State.setReqLast_keeps (a0 : Req) (s : State) : Keeps 0x800000 s (State.setReqLast a0 s) := by
  unfold State.setReqLast
  repeat' first
    | exact Eq.refl _
    | exact fun _ => Eq.refl _
    | with_reducible exact Keeps.refl _ _
    | assumption
    | with_reducible apply Keeps.after (State.putReqs_keeps _ _)
    | with_reducible refine Keeps.ite ?_ ?_
    | split
    | extract_lets -merge
    | rintro _ ⟨⟩
    | with_reducible apply Keeps.getD
    | contradiction
    | intro _ _
    | refine Keeps.fst ?_ (by with_reducible assumption)
    | dsimp +zetaDelta only

theorem State.dropReq_keeps (a0 : Nat) (s : State) : Keeps 0x800000 s (State.dropReq a0 s) := by
  unfold State.dropReq
  repeat' first
    | exact Eq.refl _
    | exact fun _ => Eq.refl _
    | with_reducible exact Keeps.refl _ _
    | assumption
    | with_reducible apply Keeps.after (State.putReqs_keeps _ _)
    | with_reducible refine Keeps.ite ?_ ?_
    | split
    | extract_lets -merge
    | rintro _ ⟨⟩
    | with_reducible apply Keeps.getD
    | contradiction
    | intro _ _
    | refine Keeps.fst ?_ (by with_reducible assumption)
    | dsimp +zetaDelta only

theorem State.bridgeCheck_keeps (a0 : Nat) (s : State) : Keeps 0x1000 s (State.bridgeCheck a0 s) := by
  unfold State.bridgeCheck
  repeat' first
    | exact Eq.refl _
    | exact fun _ => Eq.refl _
    | with_reducible exact Keeps.refl _ _
    | assumption
    | with_reducible apply Keeps.after (State.putBridgeWait_keeps _ _)
    | with_reducible refine Keeps.ite ?_ ?_
    | split
    | extract_lets -merge
    | rintro _ ⟨⟩
    | with_reducible apply Keeps.getD
    | contradiction
    | intro _ _
    | refine Keeps.fst ?_ (by with_reducible assumption)
    | dsimp +zetaDelta only

theorem State.creditTake_keeps (a0 : Nat) (a1 : Bool) (s : State) : Keeps 0x200000 s (State.creditTake a0 a1 s) := by
  unfold State.creditTake
  repeat' first
    | exact Eq.refl _
    | exact fun _ => Eq.refl _
    | with_reducible exact Keeps.refl _ _
    | assumption
    | with_reducible apply Keeps.after (State.setPort_keeps _ _ _)
    | with_reducible refine Keeps.ite ?_ ?_
    | split
    | extract_lets -merge
    | rintro _ ⟨⟩
    | with_reducible apply Keeps.getD
    | contradiction
    | intro _ _
    | refine Keeps.fst ?_ (by with_reducible assumption)
    | dsimp +zetaDelta only

theorem State.creditReturn_keeps (s : State) : Keeps 0x200000 s (State.creditReturn s) := by
  unfold State.creditReturn
  repeat' first
    | exact Eq.refl _
    | exact fun _ => Eq.refl _
    | with_reducible exact Keeps.refl _ _
    | assumption
    | with_reducible apply Keeps.after (State.setPort_keeps _ _ _)
    | with_reducible refine Keeps.foldl (fun _ _ => ?_) _ ?_
    | with_reducible refine Keeps.foldlFst (fun _ _ _ => ?_) _ ?_
    | with_reducible refine Keeps.foldlSnd (fun _ _ _ => ?_) _ ?_
    | with_reducible refine Keeps.ite ?_ ?_
    | split
    | extract_lets -merge
    | rintro _ ⟨⟩
    | with_reducible apply Keeps.getD
    | contradiction
    | intro _ _
    | refine Keeps.fst ?_ (by with_reducible assumption)
    | dsimp +zetaDelta only

theorem State.admitWaiting_keeps (s : State) : Keeps 0xa00000 s (State.admitWaiting s) := by
  unfold State.admitWaiting
  repeat' first
    | exact Eq.refl _
    | exact fun _ => Eq.refl _
    | with_reducible exact Keeps.refl _ _
    | assumption
    | with_reducible apply Keeps.after (State.creditReturn_keeps _)
    | with_reducible apply Keeps.after (State.setReqLast_keeps _ _)
    | with_reducible refine Keeps.foldl (fun _ _ => ?_) _ ?_
    | with_reducible refine Keeps.foldlFst (fun _ _ _ => ?_) _ ?_
    | with_reducible refine Keeps.foldlSnd (fun _ _ _ => ?_) _ ?_
    | with_reducible refine Keeps.ite ?_ ?_
    | split
    | extract_lets -merge
    | rintro _ ⟨⟩
    | with_reducible apply Keeps.getD
    | contradiction
    | intro _ _
    | refine Keeps.fst ?_ (by with_reducible assumption)
    | dsimp +zetaDelta only

theorem State.microsecond_keeps (s : State) : Keeps 0x48000000522 s (State.microsecond s) := by
  unfold State.microsecond
  repeat' first
    | exact Eq.refl _
    | exact fun _ => Eq.refl _
    | with_reducible exact Keeps.refl _ _
    | assumption
    | with_reducible apply Keeps.after (State.perf_keeps _ _ _ _ _)
    | with_reducible refine Keeps.foldl (fun _ _ => ?_) _ ?_
    | with_reducible refine Keeps.foldlFst (fun _ _ _ => ?_) _ ?_
    | with_reducible refine Keeps.foldlSnd (fun _ _ _ => ?_) _ ?_
    | with_reducible refine Keeps.ite ?_ ?_
    | split
    | extract_lets -merge
    | rintro _ ⟨⟩
    | with_reducible apply Keeps.getD
    | contradiction
    | intro _ _
    | refine Keeps.fst ?_ (by with_reducible assumption)
    | dsimp +zetaDelta only

theorem State.idleTick_keeps (s : State) : Keeps 0x48000000562 s (State.idleTick s) := by
  unfold State.idleTick
  repeat' first
    | exact Eq.refl _
    | exact fun _ => Eq.refl _
    | with_reducible exact Keeps.refl _ _
    | assumption
    | with_reducible apply Keeps.after (State.advance_keeps _ _)
    | with_reducible apply Keeps.after (State.microsecond_keeps _)
    | with_reducible refine Keeps.ite ?_ ?_
    | split
    | extract_lets -merge
    | rintro _ ⟨⟩
    | with_reducible apply Keeps.getD
    | contradiction
    | intro _ _
    | refine Keeps.fst ?_ (by with_reducible assumption)
    | dsimp +zetaDelta only

theorem State.send_keeps (a0 : Req) (a1 : Msg) (s : State) : Keeps 0x4a010a00522 s (State.send a0 a1 s) := by
  unfold State.send
  repeat' first
    | exact Eq.refl _
    | exact fun _ => Eq.refl _
    | with_reducible exact Keeps.refl _ _
    | assumption
    | with_reducible apply Keeps.after (State.setF_keeps _ _ _)
    | with_reducible apply Keeps.after (State.emit_keeps _ _)
    | with_reducible apply Keeps.after (State.setPort_keeps _ _ _)
    | with_reducible apply Keeps.after (State.samplePush_keeps _ _)
    | with_reducible apply Keeps.after (State.perf_keeps _ _ _ _ _)
    | with_reducible apply Keeps.after (State.admitWaiting_keeps _)
    | with_reducible apply Keeps.after (State.dropReq_keeps _ _)
    | with_reducible apply Keeps.after (State.modCoh_keeps _ _ )
    | with_reducible refine Keeps.foldl (fun _ _ => ?_) _ ?_
    | with_reducible refine Keeps.foldlFst (fun _ _ _ => ?_) _ ?_
    | with_reducible refine Keeps.foldlSnd (fun _ _ _ => ?_) _ ?_
    | with_reducible refine Keeps.ite ?_ ?_
    | split
    | extract_lets -merge
    | rintro _ ⟨⟩
    | with_reducible apply Keeps.getD
    | contradiction
    | intro _ _
    | refine Keeps.fst ?_ (by with_reducible assumption)
    | dsimp +zetaDelta only

theorem State.respCheck_keeps (a0 : Nat) (s : State) : Keeps 0x1000 s (State.respCheck a0 s) := by
  unfold State.respCheck
  repeat' first
    | exact Eq.refl _
    | exact fun _ => Eq.refl _
    | with_reducible exact Keeps.refl _ _
    | assumption
    | with_reducible apply Keeps.after (State.putBridgeWait_keeps _ _)
    | with_reducible refine Keeps.ite ?_ ?_
    | split
    | extract_lets -merge
    | rintro _ ⟨⟩
    | with_reducible apply Keeps.getD
    | contradiction
    | intro _ _
    | refine Keeps.fst ?_ (by with_reducible assumption)
    | dsimp +zetaDelta only

theorem State.respond_keeps (a0 : Req) (a1 : Option (BitVec 512)) (a2 : Bool) (s : State) : Keeps 0x4a010a01522 s (State.respond a0 a1 a2 s) := by
  unfold State.respond
  repeat' first
    | exact Eq.refl _
    | exact fun _ => Eq.refl _
    | with_reducible exact Keeps.refl _ _
    | assumption
    | with_reducible apply Keeps.after (State.admitWaiting_keeps _)
    | with_reducible apply Keeps.after (State.dropReq_keeps _ _)
    | with_reducible apply Keeps.after (State.modCoh_keeps _ _ )
    | with_reducible apply Keeps.after (State.respCheck_keeps _ _)
    | with_reducible apply Keeps.after (State.setPort_keeps _ _ _)
    | with_reducible apply Keeps.after (State.setReq_keeps _ _)
    | with_reducible apply Keeps.after (State.send_keeps _ _ _)
    | with_reducible refine Keeps.ite ?_ ?_
    | split
    | extract_lets -merge
    | rintro _ ⟨⟩
    | with_reducible apply Keeps.getD
    | contradiction
    | intro _ _
    | refine Keeps.fst ?_ (by with_reducible assumption)
    | dsimp +zetaDelta only

theorem State.sendWaiting_keeps (a0 : Nat) (s : State) : Keeps 0x4a010a01522 s (State.sendWaiting a0 s) := by
  unfold State.sendWaiting
  repeat' first
    | exact Eq.refl _
    | exact fun _ => Eq.refl _
    | with_reducible exact Keeps.refl _ _
    | assumption
    | with_reducible apply Keeps.after (State.respCheck_keeps _ _)
    | with_reducible apply Keeps.after (State.setPort_keeps _ _ _)
    | with_reducible apply Keeps.after (State.send_keeps _ _ _)
    | with_reducible apply Keeps.after (State.emit_keeps _ _)
    | with_reducible refine Keeps.foldl (fun _ _ => ?_) _ ?_
    | with_reducible refine Keeps.foldlFst (fun _ _ _ => ?_) _ ?_
    | with_reducible refine Keeps.foldlSnd (fun _ _ _ => ?_) _ ?_
    | with_reducible refine Keeps.ite ?_ ?_
    | split
    | extract_lets -merge
    | rintro _ ⟨⟩
    | with_reducible apply Keeps.getD
    | contradiction
    | intro _ _
    | refine Keeps.fst ?_ (by with_reducible assumption)
    | dsimp +zetaDelta only

end Sys2Proof.Machine
end

