-- ==== Sys2Proof/Laws/KeepsThimble.lean ====
section
/-!
SUPPORT. What the operations of Machine/Thimble.lean leave unchanged.
-/
namespace Sys2Proof.Machine

theorem State.throughEntry_keeps (a0 : Nat) (a1 : Line) (s : State) : Keeps 0x1800000 s (State.throughEntry a0 a1 s).1 := by
  unfold State.throughEntry
  repeat' first
    | exact Eq.refl _
    | exact fun _ => Eq.refl _
    | with_reducible exact Keeps.refl _ _
    | assumption
    | with_reducible apply Keeps.after (State.putReqs_keeps _ _)
    | with_reducible apply Keeps.after (State.putNextReq_keeps _ _)
    | with_reducible refine Keeps.ite ?_ ?_
    | split
    | extract_lets -merge
    | rintro _ ⟨⟩
    | with_reducible apply Keeps.getD
    | contradiction
    | intro _ _
    | refine Keeps.fst ?_ (by with_reducible assumption)
    | dsimp +zetaDelta only

theorem State.storeLine_keeps (line : Nat) (val : Line) (stream : Bool) (req : Option Nat) (s : State) :
    ∀ t, State.storeLine line val stream req s = some t → Keeps 0xc854f830522 s t := by
  intro t h
  unfold State.storeLine at h
  split at h
  · have k : Keeps 0xc854f830522 s (match req with | some k => (s, k) | none => s.throughEntry line val).1 := by
      split
      · exact Keeps.refl _ _
      · exact (State.throughEntry_keeps _ _ _).mono (Eq.refl _)
    dsimp only at h
    split at h
    · rename_i heq
      cases h
      apply Keeps.after (State.dirtyChanged_keeps _) _ (Eq.refl _)
      apply Keeps.after (State.swatchLimit_keeps _ _) _ (Eq.refl _)
      apply Keeps.after (State.passReads_keeps _ _) _ (Eq.refl _)
      exact Keeps.after (Keeps.fst (State.placePatch_keeps _ _ _ _) heq) k (Eq.refl _)
    · cases h
  · obtain ⟨u, hu, rfl⟩ := Option.map_eq_some_iff.mp h
    apply Keeps.after (State.dirtyChanged_keeps _) _ (Eq.refl _)
    apply Keeps.after (State.passReads_keeps _ _) _ (Eq.refl _)
    exact Keeps.mono (State.storeDirty_keeps _ _ _ _ _ hu) (Eq.refl _)

theorem State.storeWrite_keeps (a0 : Nat) (a1 : Line) (a2 : Bool) (a3 : Option Nat) (s : State) : ∀ t, State.storeWrite a0 a1 a2 a3 s = some t → Keeps 0xc854f830522 s t := by
  unfold State.storeWrite
  repeat' first
    | exact Eq.refl _
    | exact fun _ => Eq.refl _
    | with_reducible exact Keeps.refl _ _
    | assumption
    | with_reducible apply Keeps.after (State.injLine_keeps _ _ _ _)
    | with_reducible apply Keeps.after (State.storeLine_keeps _ _ _ _ _ _ (by assumption))
    | with_reducible refine Keeps.ite ?_ ?_
    | split
    | extract_lets -merge
    | rintro _ ⟨⟩
    | with_reducible apply Keeps.getD
    | contradiction
    | intro _ _
    | refine Keeps.fst ?_ (by with_reducible assumption)
    | dsimp +zetaDelta only

theorem State.poisonLine_keeps (a0 : Nat) (a1 : Nat) (s : State) : Keeps 0xc854f830522 s (State.poisonLine a0 a1 s) := by
  unfold State.poisonLine
  repeat' first
    | exact Eq.refl _
    | exact fun _ => Eq.refl _
    | with_reducible exact Keeps.refl _ _
    | assumption
    | with_reducible apply Keeps.after (State.storeLine_keeps _ _ _ _ _ _ (by assumption))
    | with_reducible apply Keeps.after (State.dirtyChanged_keeps _)
    | with_reducible apply Keeps.after (State.passReads_keeps _ _)
    | with_reducible apply Keeps.after (State.stage_keeps _ _ _ _)
    | with_reducible apply Keeps.after (State.throughCommit_keeps _ _)
    | with_reducible refine Keeps.ite ?_ ?_
    | split
    | extract_lets -merge
    | rintro _ ⟨⟩
    | with_reducible apply Keeps.getD
    | contradiction
    | intro _ _
    | refine Keeps.fst ?_ (by with_reducible assumption)
    | dsimp +zetaDelta only

theorem State.setTent_keeps (a0 : Nat) (a1 : TEntry) (s : State) : Keeps 0x10000000 s (State.setTent a0 a1 s) := by
  unfold State.setTent
  repeat' first
    | exact Eq.refl _
    | exact fun _ => Eq.refl _
    | with_reducible exact Keeps.refl _ _
    | assumption
    | with_reducible apply Keeps.after (State.modCoh_keeps _ _ )
    | with_reducible refine Keeps.ite ?_ ?_
    | split
    | extract_lets -merge
    | rintro _ ⟨⟩
    | with_reducible apply Keeps.getD
    | contradiction
    | intro _ _
    | refine Keeps.fst ?_ (by with_reducible assumption)
    | dsimp +zetaDelta only

theorem State.loseEntry_keeps (a0 : Nat) (a1 : Nat) (s : State) : Keeps 0xc855f830522 s (State.loseEntry a0 a1 s) := by
  unfold State.loseEntry
  repeat' first
    | exact Eq.refl _
    | exact fun _ => Eq.refl _
    | with_reducible exact Keeps.refl _ _
    | assumption
    | with_reducible apply Keeps.after (State.setTent_keeps _ _ _)
    | with_reducible apply Keeps.after (State.countF_keeps _ _ _)
    | with_reducible apply Keeps.after (State.poisonLine_keeps _ _ _)
    | with_reducible refine Keeps.ite ?_ ?_
    | split
    | extract_lets -merge
    | rintro _ ⟨⟩
    | with_reducible apply Keeps.getD
    | contradiction
    | intro _ _
    | refine Keeps.fst ?_ (by with_reducible assumption)
    | dsimp +zetaDelta only

theorem State.applyLosses_keeps (a0 : Nat) (s : State) : Keeps 0xc855f830522 s (State.applyLosses a0 s) := by
  unfold State.applyLosses
  repeat' first
    | exact Eq.refl _
    | exact fun _ => Eq.refl _
    | with_reducible exact Keeps.refl _ _
    | assumption
    | with_reducible apply Keeps.after (State.loseEntry_keeps _ _ _)
    | with_reducible refine Keeps.foldl (fun _ _ => ?_) _ ?_
    | with_reducible refine Keeps.foldlFst (fun _ _ _ => ?_) _ ?_
    | with_reducible refine Keeps.foldlSnd (fun _ _ _ => ?_) _ ?_
    | with_reducible refine Keeps.ite ?_ ?_
    | split
    | extract_lets -merge
    | rintro _ ⟨⟩
    | with_reducible apply Keeps.getD
    | contradiction
    | intro _ _
    | refine Keeps.fst ?_ (by with_reducible assumption)
    | dsimp +zetaDelta only

theorem State.sendSnoop_keeps (a0 : Nat) (a1 : Nat) (a2 : Option Nat) (s : State) (a4 : Nat) : Keeps 0x48010000522 s (State.sendSnoop a0 a1 a2 s a4) := by
  unfold State.sendSnoop
  repeat' first
    | exact Eq.refl _
    | exact fun _ => Eq.refl _
    | with_reducible exact Keeps.refl _ _
    | assumption
    | with_reducible apply Keeps.after (State.count64_keeps _ _ _ _)
    | with_reducible apply Keeps.after (State.emit_keeps _ _)
    | with_reducible apply Keeps.after (State.modCoh_keeps _ _ )
    | with_reducible apply Keeps.after (State.perf_keeps _ _ _ _ _)
    | with_reducible refine Keeps.ite ?_ ?_
    | split
    | extract_lets -merge
    | rintro _ ⟨⟩
    | with_reducible apply Keeps.getD
    | contradiction
    | intro _ _
    | refine Keeps.fst ?_ (by with_reducible assumption)
    | dsimp +zetaDelta only

theorem State.beginFlow_keeps (a0 : Req) (s : State) : Keeps 0xc855f830522 s (State.beginFlow a0 s).1 := by
  unfold State.beginFlow
  repeat' first
    | exact Eq.refl _
    | exact fun _ => Eq.refl _
    | with_reducible exact Keeps.refl _ _
    | assumption
    | with_reducible apply Keeps.after (State.applyLosses_keeps _ _)
    | with_reducible apply Keeps.after (State.setTent_keeps _ _ _)
    | with_reducible apply Keeps.after (State.sendSnoop_keeps _ _ _ _ _)
    | with_reducible apply Keeps.after (State.setReq_keeps _ _)
    | with_reducible apply Keeps.after (State.count64_keeps _ _ _ _)
    | with_reducible refine Keeps.foldl (fun _ _ => ?_) _ ?_
    | with_reducible refine Keeps.foldlFst (fun _ _ _ => ?_) _ ?_
    | with_reducible refine Keeps.foldlSnd (fun _ _ _ => ?_) _ ?_
    | with_reducible refine Keeps.ite ?_ ?_
    | split
    | extract_lets -merge
    | rintro _ ⟨⟩
    | with_reducible apply Keeps.getD
    | contradiction
    | intro _ _
    | refine Keeps.fst ?_ (by with_reducible assumption)
    | dsimp +zetaDelta only

theorem State.endFlow_keeps (a0 : Req) (s : State) : Keeps 0x10800000 s (State.endFlow a0 s) := by
  unfold State.endFlow
  repeat' first
    | exact Eq.refl _
    | exact fun _ => Eq.refl _
    | with_reducible exact Keeps.refl _ _
    | assumption
    | with_reducible apply Keeps.after (State.setTent_keeps _ _ _)
    | with_reducible apply Keeps.after (State.setReq_keeps _ _)
    | with_reducible refine Keeps.ite ?_ ?_
    | split
    | extract_lets -merge
    | rintro _ ⟨⟩
    | with_reducible apply Keeps.getD
    | contradiction
    | intro _ _
    | refine Keeps.fst ?_ (by with_reducible assumption)
    | dsimp +zetaDelta only

theorem State.suspectSet_keeps (a0 : Nat) (s : State) : Keeps 0x40010000522 s (State.suspectSet a0 s) := by
  unfold State.suspectSet
  repeat' first
    | exact Eq.refl _
    | exact fun _ => Eq.refl _
    | with_reducible exact Keeps.refl _ _
    | assumption
    | with_reducible apply Keeps.after (State.setTent_keeps _ _ _)
    | with_reducible apply Keeps.after (State.modCoh_keeps _ _ )
    | with_reducible apply Keeps.after (State.fire_keeps _ _)
    | with_reducible apply Keeps.after (State.setF_keeps _ _ _)
    | with_reducible refine Keeps.foldl (fun _ _ => ?_) _ ?_
    | with_reducible refine Keeps.foldlFst (fun _ _ _ => ?_) _ ?_
    | with_reducible refine Keeps.foldlSnd (fun _ _ _ => ?_) _ ?_
    | with_reducible refine Keeps.ite ?_ ?_
    | split
    | extract_lets -merge
    | rintro _ ⟨⟩
    | with_reducible apply Keeps.getD
    | contradiction
    | intro _ _
    | refine Keeps.fst ?_ (by with_reducible assumption)
    | dsimp +zetaDelta only

theorem State.flowIdle_keeps (s : State) (a1 : Nat) : Keeps 0x10000000 s (State.flowIdle s a1) := by
  unfold State.flowIdle
  repeat' first
    | exact Eq.refl _
    | exact fun _ => Eq.refl _
    | with_reducible exact Keeps.refl _ _
    | assumption
    | with_reducible apply Keeps.after (State.setTent_keeps _ _ _)
    | with_reducible refine Keeps.ite ?_ ?_
    | split
    | extract_lets -merge
    | rintro _ ⟨⟩
    | with_reducible apply Keeps.getD
    | contradiction
    | intro _ _
    | refine Keeps.fst ?_ (by with_reducible assumption)
    | dsimp +zetaDelta only

theorem State.flowsDrop_keeps (a0 : List Nat) (s : State) : Keeps 0x10000000 s (State.flowsDrop a0 s) := by
  unfold State.flowsDrop
  repeat' first
    | exact Eq.refl _
    | exact fun _ => Eq.refl _
    | with_reducible exact Keeps.refl _ _
    | assumption
    | with_reducible apply Keeps.after (State.flowIdle_keeps _ _)
    | with_reducible apply Keeps.after (State.modCoh_keeps _ _ )
    | with_reducible refine Keeps.foldl (fun _ _ => ?_) _ ?_
    | with_reducible refine Keeps.foldlFst (fun _ _ _ => ?_) _ ?_
    | with_reducible refine Keeps.foldlSnd (fun _ _ _ => ?_) _ ?_
    | with_reducible refine Keeps.ite ?_ ?_
    | split
    | extract_lets -merge
    | rintro _ ⟨⟩
    | with_reducible apply Keeps.getD
    | contradiction
    | intro _ _
    | refine Keeps.fst ?_ (by with_reducible assumption)
    | dsimp +zetaDelta only

theorem State.spoolEnd_keeps (a0 : Nat) (a1 : Bool) (s : State) : Keeps 0x10000000 s (State.spoolEnd a0 a1 s) := by
  unfold State.spoolEnd
  repeat' first
    | exact Eq.refl _
    | exact fun _ => Eq.refl _
    | with_reducible exact Keeps.refl _ _
    | assumption
    | with_reducible apply Keeps.after (State.modCoh_keeps _ _ )
    | with_reducible apply Keeps.after (State.setTent_keeps _ _ _)
    | with_reducible refine Keeps.ite ?_ ?_
    | split
    | extract_lets -merge
    | rintro _ ⟨⟩
    | with_reducible apply Keeps.getD
    | contradiction
    | intro _ _
    | refine Keeps.fst ?_ (by with_reducible assumption)
    | dsimp +zetaDelta only

theorem State.spoolFlow_keeps (a0 : Nat) (a1 : Bool) (a2 : Bool) (s : State) : Keeps 0xc855f830522 s (State.spoolFlow a0 a1 a2 s).1 := by
  unfold State.spoolFlow
  repeat' first
    | exact Eq.refl _
    | exact fun _ => Eq.refl _
    | with_reducible exact Keeps.refl _ _
    | assumption
    | with_reducible apply Keeps.after (State.spoolEnd_keeps _ _ _)
    | with_reducible apply Keeps.after (State.applyLosses_keeps _ _)
    | with_reducible apply Keeps.after (State.setTent_keeps _ _ _)
    | with_reducible apply Keeps.after (State.sendSnoop_keeps _ _ _ _ _)
    | with_reducible apply Keeps.after (State.modCoh_keeps _ _ )
    | with_reducible refine Keeps.foldl (fun _ _ => ?_) _ ?_
    | with_reducible refine Keeps.foldlFst (fun _ _ _ => ?_) _ ?_
    | with_reducible refine Keeps.foldlSnd (fun _ _ _ => ?_) _ ?_
    | with_reducible refine Keeps.ite ?_ ?_
    | split
    | extract_lets -merge
    | rintro _ ⟨⟩
    | with_reducible apply Keeps.getD
    | contradiction
    | intro _ _
    | refine Keeps.fst ?_ (by with_reducible assumption)
    | dsimp +zetaDelta only

end Sys2Proof.Machine
end

