-- ==== Sys2Proof/Laws/KeepsProbe.lean ====
section
/-!
SUPPORT. What the operations of Machine/Probe.lean leave unchanged.
-/
namespace Sys2Proof.Machine

theorem State.hbmCorrected_keeps (a0 : Nat) (s : State) : Keeps 0x400000005a2 s (State.hbmCorrected a0 s) := by
  unfold State.hbmCorrected
  repeat' first
    | exact Eq.refl _
    | exact fun _ => Eq.refl _
    | with_reducible exact Keeps.refl _ _
    | assumption
    | with_reducible apply Keeps.after (State.modRate_keeps _ _ )
    | with_reducible apply Keeps.after (State.countF_keeps _ _ _)
    | with_reducible apply Keeps.after (State.fire_keeps _ _)
    | with_reducible refine Keeps.ite ?_ ?_
    | split
    | extract_lets -merge
    | rintro _ ⟨⟩
    | with_reducible apply Keeps.getD
    | contradiction
    | intro _ _
    | refine Keeps.fst ?_ (by with_reducible assumption)
    | dsimp +zetaDelta only

theorem State.hbmUncorr_keeps (a0 : Nat) (a1 : Nat) (s : State) : Keeps 0x40000030522 s (State.hbmUncorr a0 a1 s) := by
  unfold State.hbmUncorr
  repeat' first
    | exact Eq.refl _
    | exact fun _ => Eq.refl _
    | with_reducible exact Keeps.refl _ _
    | assumption
    | with_reducible apply Keeps.after (State.fireRec_keeps _ _ _ _)
    | with_reducible apply Keeps.after (State.countF_keeps _ _ _)
    | with_reducible refine Keeps.ite ?_ ?_
    | split
    | extract_lets -merge
    | rintro _ ⟨⟩
    | with_reducible apply Keeps.getD
    | contradiction
    | intro _ _
    | refine Keeps.fst ?_ (by with_reducible assumption)
    | dsimp +zetaDelta only

theorem State.injBlock_keeps (a0 : Nat) (a1 : Nat) (s : State) : Keeps 0x40040000522 s (State.injBlock a0 a1 s).1 := by
  unfold State.injBlock
  repeat' first
    | exact Eq.refl _
    | exact fun _ => Eq.refl _
    | with_reducible exact Keeps.refl _ _
    | assumption
    | with_reducible apply Keeps.after (State.injConsume_keeps _)
    | with_reducible refine Keeps.ite ?_ ?_
    | split
    | extract_lets -merge
    | rintro _ ⟨⟩
    | with_reducible apply Keeps.getD
    | contradiction
    | intro _ _
    | refine Keeps.fst ?_ (by with_reducible assumption)
    | dsimp +zetaDelta only

theorem State.unattributed_keeps (a0 : Nat) (a1 : Nat) (a2 : Bool) (a3 : Nat) (s : State) : Keeps 0x40000030522 s (State.unattributed a0 a1 a2 a3 s) := by
  unfold State.unattributed
  repeat' first
    | exact Eq.refl _
    | exact fun _ => Eq.refl _
    | with_reducible exact Keeps.refl _ _
    | assumption
    | with_reducible apply Keeps.after (State.countF_keeps _ _ _)
    | with_reducible apply Keeps.after (State.setF_keeps _ _ _)
    | with_reducible apply Keeps.after (State.setFlag_keeps _ _ _)
    | with_reducible apply Keeps.after (State.fireRec_keeps _ _ _ _)
    | with_reducible refine Keeps.ite ?_ ?_
    | split
    | extract_lets -merge
    | rintro _ ⟨⟩
    | with_reducible apply Keeps.getD
    | contradiction
    | intro _ _
    | refine Keeps.fst ?_ (by with_reducible assumption)
    | dsimp +zetaDelta only

theorem State.tagBlockRecover_keeps (a0 : Nat) (a1 : List Nat) (s : State) : Keeps 0x40002030522 s (State.tagBlockRecover a0 a1 s) := by
  unfold State.tagBlockRecover
  repeat' first
    | exact Eq.refl _
    | exact fun _ => Eq.refl _
    | with_reducible exact Keeps.refl _ _
    | assumption
    | with_reducible apply Keeps.after (State.setWay_keeps _ _ _)
    | with_reducible apply Keeps.after (State.unattributed_keeps _ _ _ _ _)
    | with_reducible apply Keeps.after (State.countF_keeps _ _ _)
    | with_reducible apply Keeps.after (State.dirtyChanged_keeps _)
    | with_reducible apply Keeps.after (State.fire_keeps _ _)
    | with_reducible refine Keeps.foldl (fun _ _ => ?_) _ ?_
    | with_reducible refine Keeps.foldlFst (fun _ _ _ => ?_) _ ?_
    | with_reducible refine Keeps.foldlSnd (fun _ _ _ => ?_) _ ?_
    | with_reducible refine Keeps.ite ?_ ?_
    | split
    | extract_lets -merge
    | rintro _ ⟨⟩
    | with_reducible apply Keeps.getD
    | contradiction
    | intro _ _
    | refine Keeps.fst ?_ (by with_reducible assumption)
    | dsimp +zetaDelta only

theorem State.pcuRecover_keeps (a0 : Nat) (a1 : Nat) (s : State) : Keeps 0x40002030522 s (State.pcuRecover a0 a1 s) := by
  unfold State.pcuRecover
  repeat' first
    | exact Eq.refl _
    | exact fun _ => Eq.refl _
    | with_reducible exact Keeps.refl _ _
    | assumption
    | with_reducible apply Keeps.after (State.countF_keeps _ _ _)
    | with_reducible apply Keeps.after (State.fire_keeps _ _)
    | with_reducible apply Keeps.after (State.setPent_keeps _ _ _)
    | with_reducible apply Keeps.after (State.dirtyChanged_keeps _)
    | with_reducible apply Keeps.after (State.unattributed_keeps _ _ _ _ _)
    | with_reducible refine Keeps.foldl (fun _ _ => ?_) _ ?_
    | with_reducible refine Keeps.foldlFst (fun _ _ _ => ?_) _ ?_
    | with_reducible refine Keeps.foldlSnd (fun _ _ _ => ?_) _ ?_
    | with_reducible refine Keeps.ite ?_ ?_
    | split
    | extract_lets -merge
    | rintro _ ⟨⟩
    | with_reducible apply Keeps.getD
    | contradiction
    | intro _ _
    | refine Keeps.fst ?_ (by with_reducible assumption)
    | dsimp +zetaDelta only

theorem State.stageThree_keeps (a0 : Nat) (a1 : Bool) (a2 : HbmRead) (s : State) : Keeps 0x400560305a2 s (State.stageThree a0 a1 a2 s) := by
  unfold State.stageThree
  repeat' first
    | exact Eq.refl _
    | exact fun _ => Eq.refl _
    | with_reducible exact Keeps.refl _ _
    | assumption
    | with_reducible apply Keeps.after (State.injBlock_keeps _ _ _)
    | with_reducible apply Keeps.after (State.hbmCorrected_keeps _ _)
    | with_reducible apply Keeps.after (State.hbmUncorr_keeps _ _ _)
    | with_reducible apply Keeps.after (State.tagBlockRecover_keeps _ _ _)
    | with_reducible apply Keeps.after (State.mapDamage_keeps _ _)
    | with_reducible apply Keeps.after (State.suspectSet_keeps _ _)
    | with_reducible apply Keeps.after (State.modXlt_keeps _ _ )
    | with_reducible apply Keeps.after (State.pcuRecover_keeps _ _ _)
    | with_reducible refine Keeps.ite ?_ ?_
    | split
    | extract_lets -merge
    | rintro _ ⟨⟩
    | with_reducible apply Keeps.getD
    | contradiction
    | intro _ _
    | refine Keeps.fst ?_ (by with_reducible assumption)
    | dsimp +zetaDelta only

theorem State.tagFailLast_keeps (a0 : Nat) (a1 : Nat) (a2 : Nat) (a3 : Bool) (s : State) : Keeps 0x2 s (State.tagFailLast a0 a1 a2 a3 s) := by
  unfold State.tagFailLast
  repeat' first
    | exact Eq.refl _
    | exact fun _ => Eq.refl _
    | with_reducible exact Keeps.refl _ _
    | assumption
    | with_reducible apply Keeps.after (State.setF_keeps _ _ _)
    | with_reducible apply Keeps.after (State.setFlag_keeps _ _ _)
    | with_reducible refine Keeps.ite ?_ ?_
    | split
    | extract_lets -merge
    | rintro _ ⟨⟩
    | with_reducible apply Keeps.getD
    | contradiction
    | intro _ _
    | refine Keeps.fst ?_ (by with_reducible assumption)
    | dsimp +zetaDelta only

theorem State.tagFailRecord_keeps (a0 : Nat) (a1 : Nat) (a2 : Nat) (a3 : Nat) (a4 : Option Nat) (s : State) : Keeps 0x400000305a2 s (State.tagFailRecord a0 a1 a2 a3 a4 s) := by
  unfold State.tagFailRecord
  repeat' first
    | exact Eq.refl _
    | exact fun _ => Eq.refl _
    | with_reducible exact Keeps.refl _ _
    | assumption
    | with_reducible apply Keeps.after (State.fire_keeps _ _)
    | with_reducible apply Keeps.after (State.hamper_keeps _ _ _ _)
    | with_reducible apply Keeps.after (State.modRate_keeps _ _ )
    | with_reducible refine Keeps.ite ?_ ?_
    | split
    | extract_lets -merge
    | rintro _ ⟨⟩
    | with_reducible apply Keeps.getD
    | contradiction
    | intro _ _
    | refine Keeps.fst ?_ (by with_reducible assumption)
    | dsimp +zetaDelta only

theorem State.tagFailEgress_keeps (a0 : Nat) (a1 : Nat) (a2 : Option Nat) (s : State) : Keeps 0x400000305a2 s (State.tagFailEgress a0 a1 a2 s) := by
  unfold State.tagFailEgress
  repeat' first
    | exact Eq.refl _
    | exact fun _ => Eq.refl _
    | with_reducible exact Keeps.refl _ _
    | assumption
    | with_reducible apply Keeps.after (State.tagFailRecord_keeps _ _ _ _ _ _)
    | with_reducible apply Keeps.after (State.tagFailLast_keeps _ _ _ _ _)
    | with_reducible apply Keeps.after (State.countF_keeps _ _ _)
    | with_reducible refine Keeps.ite ?_ ?_
    | split
    | extract_lets -merge
    | rintro _ ⟨⟩
    | with_reducible apply Keeps.getD
    | contradiction
    | intro _ _
    | refine Keeps.fst ?_ (by with_reducible assumption)
    | dsimp +zetaDelta only

theorem State.poisonAnswer_keeps (a0 : Req) (a1 : Option Nat) (s : State) : Keeps 0x4a010e015a2 s (State.poisonAnswer a0 a1 s) := by
  unfold State.poisonAnswer
  repeat' first
    | exact Eq.refl _
    | exact fun _ => Eq.refl _
    | with_reducible exact Keeps.refl _ _
    | assumption
    | with_reducible apply Keeps.after (State.setReq_keeps _ _)
    | with_reducible apply Keeps.after (State.endFlow_keeps _ _)
    | with_reducible apply Keeps.after (State.mediaEvent_keeps _ _ _ _ _)
    | with_reducible apply Keeps.after (State.respond_keeps _ _ _ _)
    | with_reducible refine Keeps.ite ?_ ?_
    | split
    | extract_lets -merge
    | rintro _ ⟨⟩
    | with_reducible apply Keeps.getD
    | contradiction
    | intro _ _
    | refine Keeps.fst ?_ (by with_reducible assumption)
    | dsimp +zetaDelta only

theorem State.egress_keeps (a0 : Req) (a1 : Line) (a2 : Path) (s : State) : Keeps 0x4a010e315a2 s (State.egress a0 a1 a2 s) := by
  unfold State.egress
  repeat' first
    | exact Eq.refl _
    | exact fun _ => Eq.refl _
    | with_reducible exact Keeps.refl _ _
    | assumption
    | with_reducible apply Keeps.after (State.setReq_keeps _ _)
    | with_reducible apply Keeps.after (State.poisonAnswer_keeps _ _ _)
    | with_reducible apply Keeps.after (State.respond_keeps _ _ _ _)
    | with_reducible apply Keeps.after (State.endFlow_keeps _ _)
    | with_reducible apply Keeps.after (State.tagFailEgress_keeps _ _ _ _)
    | with_reducible refine Keeps.ite ?_ ?_
    | split
    | extract_lets -merge
    | rintro _ ⟨⟩
    | with_reducible apply Keeps.getD
    | contradiction
    | intro _ _
    | refine Keeps.fst ?_ (by with_reducible assumption)
    | dsimp +zetaDelta only

theorem State.refetch_keeps (a0 : Req) (s : State) : Keeps 0x4a010e315a2 s (State.refetch a0 s) := by
  unfold State.refetch
  repeat' first
    | exact Eq.refl _
    | exact fun _ => Eq.refl _
    | with_reducible exact Keeps.refl _ _
    | assumption
    | with_reducible apply Keeps.after (State.egress_keeps _ _ _ _)
    | with_reducible apply Keeps.after (State.setReq_keeps _ _)
    | with_reducible refine Keeps.ite ?_ ?_
    | split
    | extract_lets -merge
    | rintro _ ⟨⟩
    | with_reducible apply Keeps.getD
    | contradiction
    | intro _ _
    | refine Keeps.fst ?_ (by with_reducible assumption)
    | dsimp +zetaDelta only

theorem State.takeHit_keeps (a0 : Req) (a1 : Health) (a2 : Path) (a3 : Nat) (a4 : Line) (s : State) : Keeps 0x4a05ee315a2 s (State.takeHit a0 a1 a2 a3 a4 s) := by
  unfold State.takeHit
  repeat' first
    | exact Eq.refl _
    | exact fun _ => Eq.refl _
    | with_reducible exact Keeps.refl _ _
    | assumption
    | with_reducible apply Keeps.after (State.injCached_keeps _ _)
    | with_reducible apply Keeps.after (State.perf_keeps _ _ _ _ _)
    | with_reducible apply Keeps.after (State.lineError_keeps _ _)
    | with_reducible apply Keeps.after (State.poisonAnswer_keeps _ _ _)
    | with_reducible apply Keeps.after (State.refetch_keeps _ _)
    | with_reducible apply Keeps.after (State.egress_keeps _ _ _ _)
    | with_reducible refine Keeps.ite ?_ ?_
    | split
    | extract_lets -merge
    | rintro _ ⟨⟩
    | with_reducible apply Keeps.getD
    | contradiction
    | intro _ _
    | refine Keeps.fst ?_ (by with_reducible assumption)
    | dsimp +zetaDelta only

theorem State.takeValue_keeps (a0 : Req) (a1 : HbmRead) (s : State) : Keeps 0x4a05ee315a2 s (State.takeValue a0 a1 s) := by
  unfold State.takeValue
  repeat' first
    | exact Eq.refl _
    | exact fun _ => Eq.refl _
    | with_reducible exact Keeps.refl _ _
    | assumption
    | with_reducible apply Keeps.after (State.setReq_keeps _ _)
    | with_reducible apply Keeps.after (State.egress_keeps _ _ _ _)
    | with_reducible apply Keeps.after (State.perf_keeps _ _ _ _ _)
    | with_reducible apply Keeps.after (State.takeHit_keeps _ _ _ _ _ _)
    | with_reducible apply Keeps.after (State.touchPent_keeps _ _ _)
    | with_reducible apply Keeps.after (State.touchWay_keeps _ _ _)
    | with_reducible refine Keeps.ite ?_ ?_
    | split
    | extract_lets -merge
    | rintro _ ⟨⟩
    | with_reducible apply Keeps.getD
    | contradiction
    | intro _ _
    | refine Keeps.fst ?_ (by with_reducible assumption)
    | dsimp +zetaDelta only

theorem State.readProceed_keeps (a0 : Req) (a1 : HbmRead) (s : State) : Keeps 0x4a05ee315a2 s (State.readProceed a0 a1 s) := by
  unfold State.readProceed
  repeat' first
    | exact Eq.refl _
    | exact fun _ => Eq.refl _
    | with_reducible exact Keeps.refl _ _
    | assumption
    | with_reducible apply Keeps.after (State.respond_keeps _ _ _ _)
    | with_reducible apply Keeps.after (State.endFlow_keeps _ _)
    | with_reducible apply Keeps.after (State.poisonAnswer_keeps _ _ _)
    | with_reducible apply Keeps.after (State.takeValue_keeps _ _ _)
    | with_reducible refine Keeps.ite ?_ ?_
    | split
    | extract_lets -merge
    | rintro _ ⟨⟩
    | with_reducible apply Keeps.getD
    | contradiction
    | intro _ _
    | refine Keeps.fst ?_ (by with_reducible assumption)
    | dsimp +zetaDelta only

theorem State.toConflict_keeps (a0 : Req) (s : State) : Keeps 0x48010800522 s (State.toConflict a0 s) := by
  unfold State.toConflict
  repeat' first
    | exact Eq.refl _
    | exact fun _ => Eq.refl _
    | with_reducible exact Keeps.refl _ _
    | assumption
    | with_reducible apply Keeps.after (State.setReq_keeps _ _)
    | with_reducible apply Keeps.after (State.perf_keeps _ _ _ _ _)
    | with_reducible apply Keeps.after (State.setF_keeps _ _ _)
    | with_reducible apply Keeps.after (State.fire_keeps _ _)
    | with_reducible apply Keeps.after (State.modCoh_keeps _ _ )
    | with_reducible refine Keeps.ite ?_ ?_
    | split
    | extract_lets -merge
    | rintro _ ⟨⟩
    | with_reducible apply Keeps.getD
    | contradiction
    | intro _ _
    | refine Keeps.fst ?_ (by with_reducible assumption)
    | dsimp +zetaDelta only

theorem State.orderPoint_keeps (a0 : Req) (a1 : HbmRead) (s : State) : Keeps 0xca55fe315a2 s (State.orderPoint a0 a1 s) := by
  unfold State.orderPoint
  repeat' first
    | exact Eq.refl _
    | exact fun _ => Eq.refl _
    | with_reducible exact Keeps.refl _ _
    | assumption
    | with_reducible apply Keeps.after (State.stageThree_keeps _ _ _ _)
    | with_reducible apply Keeps.after (State.toConflict_keeps _ _)
    | with_reducible apply Keeps.after (State.perf_keeps _ _ _ _ _)
    | with_reducible apply Keeps.after (State.respond_keeps _ _ _ _)
    | with_reducible apply Keeps.after (State.countFenced_keeps _)
    | with_reducible apply Keeps.after (State.readProceed_keeps _ _ _)
    | with_reducible apply Keeps.after (State.beginFlow_keeps _ _)
    | with_reducible refine Keeps.ite ?_ ?_
    | split
    | extract_lets -merge
    | rintro _ ⟨⟩
    | with_reducible apply Keeps.getD
    | contradiction
    | intro _ _
    | refine Keeps.fst ?_ (by with_reducible assumption)
    | dsimp +zetaDelta only

theorem State.issueRead_keeps (a0 : Req) (a1 : Nat) (a2 : Nat) (s : State) : Keeps 0x48000800522 s (State.issueRead a0 a1 a2 s) := by
  unfold State.issueRead
  repeat' first
    | exact Eq.refl _
    | exact fun _ => Eq.refl _
    | with_reducible exact Keeps.refl _ _
    | assumption
    | with_reducible apply Keeps.after (State.perf_keeps _ _ _ _ _)
    | with_reducible apply Keeps.after (State.setReq_keeps _ _)
    | with_reducible refine Keeps.ite ?_ ?_
    | split
    | extract_lets -merge
    | rintro _ ⟨⟩
    | with_reducible apply Keeps.getD
    | contradiction
    | intro _ _
    | refine Keeps.fst ?_ (by with_reducible assumption)
    | dsimp +zetaDelta only

theorem State.zeroRead_keeps (a0 : Req) (s : State) : Keeps 0x4a010e315a2 s (State.zeroRead a0 s) := by
  unfold State.zeroRead
  repeat' first
    | exact Eq.refl _
    | exact fun _ => Eq.refl _
    | with_reducible exact Keeps.refl _ _
    | assumption
    | with_reducible apply Keeps.after (State.egress_keeps _ _ _ _)
    | with_reducible refine Keeps.ite ?_ ?_
    | split
    | extract_lets -merge
    | rintro _ ⟨⟩
    | with_reducible apply Keeps.getD
    | contradiction
    | intro _ _
    | refine Keeps.fst ?_ (by with_reducible assumption)
    | dsimp +zetaDelta only

theorem State.readSent_keeps (a0 : Nat) (s : State) : Keeps 0x48008000522 s (State.readSent a0 s) := by
  unfold State.readSent
  repeat' first
    | exact Eq.refl _
    | exact fun _ => Eq.refl _
    | with_reducible exact Keeps.refl _ _
    | assumption
    | with_reducible apply Keeps.after (State.perf_keeps _ _ _ _ _)
    | with_reducible apply Keeps.after (State.disturb_keeps _ _)
    | with_reducible refine Keeps.ite ?_ ?_
    | split
    | extract_lets -merge
    | rintro _ ⟨⟩
    | with_reducible apply Keeps.getD
    | contradiction
    | intro _ _
    | refine Keeps.fst ?_ (by with_reducible assumption)
    | dsimp +zetaDelta only

theorem State.cacheFill_keeps (a0 : Nat) (a1 : Line) (a2 : Bool) (s : State) : Keeps 0x4804f030522 s (State.cacheFill a0 a1 a2 s) := by
  unfold State.cacheFill
  repeat' first
    | exact Eq.refl _
    | exact fun _ => Eq.refl _
    | with_reducible exact Keeps.refl _ _
    | assumption
    | with_reducible apply Keeps.after (State.setPline_keeps _ _ _ _)
    | with_reducible apply Keeps.after (State.install_keeps _ _ _ _ _ _ (by assumption))
    | with_reducible refine Keeps.ite ?_ ?_
    | split
    | extract_lets -merge
    | rintro _ ⟨⟩
    | with_reducible apply Keeps.getD
    | contradiction
    | intro _ _
    | refine Keeps.fst ?_ (by with_reducible assumption)
    | dsimp +zetaDelta only

theorem State.fillLine_keeps (a0 : Req) (a1 : Line) (s : State) : Keeps 0x4804f030522 s (State.fillLine a0 a1 s) := by
  unfold State.fillLine
  repeat' first
    | exact Eq.refl _
    | exact fun _ => Eq.refl _
    | with_reducible exact Keeps.refl _ _
    | assumption
    | with_reducible apply Keeps.after (State.cacheFill_keeps _ _ _ _)
    | with_reducible refine Keeps.ite ?_ ?_
    | split
    | extract_lets -merge
    | rintro _ ⟨⟩
    | with_reducible apply Keeps.getD
    | contradiction
    | intro _ _
    | refine Keeps.fst ?_ (by with_reducible assumption)
    | dsimp +zetaDelta only

theorem State.staleKey_keeps (s : State) : Keeps 0x400000005a2 s (State.staleKey s) := by
  unfold State.staleKey
  repeat' first
    | exact Eq.refl _
    | exact fun _ => Eq.refl _
    | with_reducible exact Keeps.refl _ _
    | assumption
    | with_reducible apply Keeps.after (State.countF_keeps _ _ _)
    | with_reducible apply Keeps.after (State.fire_keeps _ _)
    | with_reducible apply Keeps.after (State.modRate_keeps _ _ )
    | with_reducible refine Keeps.ite ?_ ?_
    | split
    | extract_lets -merge
    | rintro _ ⟨⟩
    | with_reducible apply Keeps.getD
    | contradiction
    | intro _ _
    | refine Keeps.fst ?_ (by with_reducible assumption)
    | dsimp +zetaDelta only

theorem State.cipherFaultEnter_keeps (a0 : Nat) (a1 : Nat) (s : State) : Keeps 0x40000030522 s (State.cipherFaultEnter a0 a1 s) := by
  unfold State.cipherFaultEnter
  repeat' first
    | exact Eq.refl _
    | exact fun _ => Eq.refl _
    | with_reducible exact Keeps.refl _ _
    | assumption
    | with_reducible apply Keeps.after (State.fireRec_keeps _ _ _ _)
    | with_reducible apply Keeps.after (State.setF_keeps _ _ _)
    | with_reducible refine Keeps.ite ?_ ?_
    | split
    | extract_lets -merge
    | rintro _ ⟨⟩
    | with_reducible apply Keeps.getD
    | contradiction
    | intro _ _
    | refine Keeps.fst ?_ (by with_reducible assumption)
    | dsimp +zetaDelta only

theorem State.decoded__keeps (a0 : Req) (a1 : MLine) (a2 : Path) (s : State) : Keeps 0x4a05fe315a2 s (State.decoded_ a0 a1 a2 s) := by
  unfold State.decoded_
  repeat' first
    | exact Eq.refl _
    | exact fun _ => Eq.refl _
    | with_reducible exact Keeps.refl _ _
    | assumption
    | with_reducible apply Keeps.after (State.poisonAnswer_keeps _ _ _)
    | with_reducible apply Keeps.after (State.staleKey_keeps _)
    | with_reducible apply Keeps.after (State.perf_keeps _ _ _ _ _)
    | with_reducible apply Keeps.after (State.dirtyChanged_keeps _)
    | with_reducible apply Keeps.after (State.egress_keeps _ _ _ _)
    | with_reducible apply Keeps.after (State.fillLine_keeps _ _ _)
    | with_reducible refine Keeps.ite ?_ ?_
    | split
    | extract_lets -merge
    | rintro _ ⟨⟩
    | with_reducible apply Keeps.getD
    | contradiction
    | intro _ _
    | refine Keeps.fst ?_ (by with_reducible assumption)
    | dsimp +zetaDelta only

end Sys2Proof.Machine
end

