-- ==== Sys2Proof/Laws/KeepsAdmit.lean ====
section
/-!
SUPPORT. What the operations of Machine/Admit.lean leave unchanged.
-/
namespace Sys2Proof.Machine

theorem State.sealedWrite_keeps (a0 : Nat) (s : State) : Keeps 0x4000a800522 s (State.sealedWrite a0 s) := by
  unfold State.sealedWrite
  repeat' first
    | exact Eq.refl _
    | exact fun _ => Eq.refl _
    | with_reducible exact Keeps.refl _ _
    | assumption
    | with_reducible apply Keeps.after (State.dirtyChanged_keeps _)
    | with_reducible apply Keeps.after (State.count64_keeps _ _ _ _)
    | with_reducible apply Keeps.after (State.setSealBit_keeps _ _ _)
    | with_reducible apply Keeps.after (State.passReads_keeps _ _)
    | with_reducible apply Keeps.after (State.discardCached_keeps _ _)
    | with_reducible refine Keeps.ite ?_ ?_
    | split
    | extract_lets -merge
    | rintro _ ⟨⟩
    | with_reducible apply Keeps.getD
    | contradiction
    | intro _ _
    | refine Keeps.fst ?_ (by with_reducible assumption)
    | dsimp +zetaDelta only

theorem State.stagingSlice_keeps (a0 : Nat) (s : State) : Keeps 0x40002000522 s (State.stagingSlice a0 s) := by
  unfold State.stagingSlice
  repeat' first
    | exact Eq.refl _
    | exact fun _ => Eq.refl _
    | with_reducible exact Keeps.refl _ _
    | assumption
    | with_reducible apply Keeps.after (State.fire_keeps _ _)
    | with_reducible apply Keeps.after (State.modCache_keeps _ _ )
    | with_reducible refine Keeps.ite ?_ ?_
    | split
    | extract_lets -merge
    | rintro _ ⟨⟩
    | with_reducible apply Keeps.getD
    | contradiction
    | intro _ _
    | refine Keeps.fst ?_ (by with_reducible assumption)
    | dsimp +zetaDelta only

theorem State.holdWrite_keeps (a0 : Req) (a1 : Nat) (s : State) : Keeps 0x4800a800522 s (State.holdWrite a0 a1 s) := by
  unfold State.holdWrite
  repeat' first
    | exact Eq.refl _
    | exact fun _ => Eq.refl _
    | with_reducible exact Keeps.refl _ _
    | assumption
    | with_reducible apply Keeps.after (State.setReq_keeps _ _)
    | with_reducible apply Keeps.after (State.perf_keeps _ _ _ _ _)
    | with_reducible apply Keeps.after (State.stallSlice_keeps _ _)
    | with_reducible apply Keeps.after (State.stagingSlice_keeps _ _)
    | with_reducible apply Keeps.after (State.fire_keeps _ _)
    | with_reducible apply Keeps.after (State.modMed_keeps _ _ )
    | with_reducible refine Keeps.ite ?_ ?_
    | split
    | extract_lets -merge
    | rintro _ ⟨⟩
    | with_reducible apply Keeps.getD
    | contradiction
    | intro _ _
    | refine Keeps.fst ?_ (by with_reducible assumption)
    | dsimp +zetaDelta only

theorem State.dirtiedRecord_keeps (s : State) : Keeps 0x40020030522 s (State.dirtiedRecord s).1 := by
  unfold State.dirtiedRecord
  repeat' first
    | exact Eq.refl _
    | exact fun _ => Eq.refl _
    | with_reducible exact Keeps.refl _ _
    | assumption
    | with_reducible apply Keeps.after (State.hamper_keeps _ _ _ _)
    | with_reducible apply Keeps.after (State.modFlush_keeps _ _ )
    | with_reducible apply Keeps.after (State.fire_keeps _ _)
    | with_reducible refine Keeps.ite ?_ ?_
    | split
    | extract_lets -merge
    | rintro _ ⟨⟩
    | with_reducible apply Keeps.getD
    | contradiction
    | intro _ _
    | refine Keeps.fst ?_ (by with_reducible assumption)
    | dsimp +zetaDelta only

theorem State.fetchOld_keeps (a0 : Req) (a1 : HbmRead) (s : State) : Keeps 0x4a05ee315a2 s (State.fetchOld a0 a1 s) := by
  unfold State.fetchOld
  repeat' first
    | exact Eq.refl _
    | exact fun _ => Eq.refl _
    | with_reducible exact Keeps.refl _ _
    | assumption
    | with_reducible apply Keeps.after (State.setReq_keeps _ _)
    | with_reducible apply Keeps.after (State.egress_keeps _ _ _ _)
    | with_reducible apply Keeps.after (State.injCached_keeps _ _)
    | with_reducible apply Keeps.after (State.lineError_keeps _ _)
    | with_reducible apply Keeps.after (State.poisonAnswer_keeps _ _ _)
    | with_reducible apply Keeps.after (State.refetch_keeps _ _)
    | with_reducible refine Keeps.ite ?_ ?_
    | split
    | extract_lets -merge
    | rintro _ ⟨⟩
    | with_reducible apply Keeps.getD
    | contradiction
    | intro _ _
    | refine Keeps.fst ?_ (by with_reducible assumption)
    | dsimp +zetaDelta only

theorem State.writeProceed_keeps (a0 : Req) (a1 : HbmRead) (s : State) : Keeps 0x4a07ee315a2 s (State.writeProceed a0 a1 s) := by
  unfold State.writeProceed
  repeat' first
    | exact Eq.refl _
    | exact fun _ => Eq.refl _
    | with_reducible exact Keeps.refl _ _
    | assumption
    | with_reducible apply Keeps.after (State.setReq_keeps _ _)
    | with_reducible apply Keeps.after (State.stallEnd_keeps _)
    | with_reducible apply Keeps.after (State.respond_keeps _ _ _ _)
    | with_reducible apply Keeps.after (State.endFlow_keeps _ _)
    | with_reducible apply Keeps.after (State.sealedWrite_keeps _ _)
    | with_reducible apply Keeps.after (State.holdWrite_keeps _ _ _)
    | with_reducible apply Keeps.after (State.dirtiedRecord_keeps _)
    | with_reducible apply Keeps.after (State.fetchOld_keeps _ _ _)
    | with_reducible refine Keeps.ite ?_ ?_
    | split
    | extract_lets -merge
    | rintro _ ⟨⟩
    | with_reducible apply Keeps.getD
    | contradiction
    | intro _ _
    | refine Keeps.fst ?_ (by with_reducible assumption)
    | dsimp +zetaDelta only

theorem State.fencedWrite_keeps (a0 : Req) (s : State) : Keeps 0x800002 s (State.fencedWrite a0 s) := by
  unfold State.fencedWrite
  repeat' first
    | exact Eq.refl _
    | exact fun _ => Eq.refl _
    | with_reducible exact Keeps.refl _ _
    | assumption
    | with_reducible apply Keeps.after (State.setReqLast_keeps _ _)
    | with_reducible apply Keeps.after (State.countFenced_keeps _)
    | with_reducible refine Keeps.ite ?_ ?_
    | split
    | extract_lets -merge
    | rintro _ ⟨⟩
    | with_reducible apply Keeps.getD
    | contradiction
    | intro _ _
    | refine Keeps.fst ?_ (by with_reducible assumption)
    | dsimp +zetaDelta only

theorem State.writeOrderPoint_keeps (a0 : Req) (a1 : HbmRead) (s : State) : Keeps 0xca57fe315a2 s (State.writeOrderPoint a0 a1 s) := by
  unfold State.writeOrderPoint
  repeat' first
    | exact Eq.refl _
    | exact fun _ => Eq.refl _
    | with_reducible exact Keeps.refl _ _
    | assumption
    | with_reducible apply Keeps.after (State.stageThree_keeps _ _ _ _)
    | with_reducible apply Keeps.after (State.toConflict_keeps _ _)
    | with_reducible apply Keeps.after (State.fencedWrite_keeps _ _)
    | with_reducible apply Keeps.after (State.writeProceed_keeps _ _ _)
    | with_reducible apply Keeps.after (State.setReqLast_keeps _ _)
    | with_reducible apply Keeps.after (State.beginFlow_keeps _ _)
    | with_reducible refine Keeps.ite ?_ ?_
    | split
    | extract_lets -merge
    | rintro _ ⟨⟩
    | with_reducible apply Keeps.getD
    | contradiction
    | intro _ _
    | refine Keeps.fst ?_ (by with_reducible assumption)
    | dsimp +zetaDelta only

theorem State.dropMarks_keeps (a0 : Nat) (s : State) : Keeps 0x2140000000 s (State.dropMarks a0 s) := by
  unfold State.dropMarks
  repeat' first
    | exact Eq.refl _
    | exact fun _ => Eq.refl _
    | with_reducible exact Keeps.refl _ _
    | assumption
    | with_reducible apply Keeps.after (State.modInteg_keeps _ _ )
    | with_reducible apply Keeps.after (State.modCip_keeps _ _ )
    | with_reducible apply Keeps.after (State.modSpl_keeps _ _ ?_)
    | with_reducible refine Keeps.ite ?_ ?_
    | split
    | extract_lets -merge
    | rintro _ ⟨⟩
    | with_reducible apply Keeps.getD
    | contradiction
    | intro _ _
    | refine Keeps.fst ?_ (by with_reducible assumption)
    | dsimp +zetaDelta only

theorem State.writeDone_keeps (a0 : Req) (s : State) : Keeps 0x4a158e01522 s (State.writeDone a0 s) := by
  unfold State.writeDone
  repeat' first
    | exact Eq.refl _
    | exact fun _ => Eq.refl _
    | with_reducible exact Keeps.refl _ _
    | assumption
    | with_reducible apply Keeps.after (State.setSealBit_keeps _ _ _)
    | with_reducible apply Keeps.after (State.putLds_keeps _ _)
    | with_reducible apply Keeps.after (State.dropMarks_keeps _ _)
    | with_reducible apply Keeps.after (State.respond_keeps _ _ _ _)
    | with_reducible apply Keeps.after (State.endFlow_keeps _ _)
    | with_reducible apply Keeps.after (State.perf_keeps _ _ _ _ _)
    | with_reducible refine Keeps.ite ?_ ?_
    | split
    | extract_lets -merge
    | rintro _ ⟨⟩
    | with_reducible apply Keeps.getD
    | contradiction
    | intro _ _
    | refine Keeps.fst ?_ (by with_reducible assumption)
    | dsimp +zetaDelta only

theorem State.flowContinue_keeps (a0 : Nat) (s : State) : Keeps 0xca57fe315a2 s (State.flowContinue a0 s) := by
  unfold State.flowContinue
  repeat' first
    | exact Eq.refl _
    | exact fun _ => Eq.refl _
    | with_reducible exact Keeps.refl _ _
    | assumption
    | with_reducible apply Keeps.after (State.writeProceed_keeps _ _ _)
    | with_reducible apply Keeps.after (State.readProceed_keeps _ _ _)
    | with_reducible apply Keeps.after (State.beginFlow_keeps _ _)
    | with_reducible apply Keeps.after (State.setTent_keeps _ _ _)
    | with_reducible apply Keeps.after (State.toConflict_keeps _ _)
    | with_reducible refine Keeps.foldl (fun _ _ => ?_) _ ?_
    | with_reducible refine Keeps.foldlFst (fun _ _ _ => ?_) _ ?_
    | with_reducible refine Keeps.foldlSnd (fun _ _ _ => ?_) _ ?_
    | with_reducible refine Keeps.ite ?_ ?_
    | split
    | extract_lets -merge
    | rintro _ ⟨⟩
    | with_reducible apply Keeps.getD
    | contradiction
    | intro _ _
    | refine Keeps.fst ?_ (by with_reducible assumption)
    | dsimp +zetaDelta only

theorem State.backDone_keeps (a0 : Req) (s : State) : Keeps 0xca57fe315a2 s (State.backDone a0 s) := by
  unfold State.backDone
  repeat' first
    | exact Eq.refl _
    | exact fun _ => Eq.refl _
    | with_reducible exact Keeps.refl _ _
    | assumption
    | with_reducible apply Keeps.after (State.flowContinue_keeps _ _)
    | with_reducible refine Keeps.ite ?_ ?_
    | split
    | extract_lets -merge
    | rintro _ ⟨⟩
    | with_reducible apply Keeps.getD
    | contradiction
    | intro _ _
    | refine Keeps.fst ?_ (by with_reducible assumption)
    | dsimp +zetaDelta only

theorem State.snoopAnswer_keeps (a0 : Nat) (a1 : Nat) (a2 : BIRsp) (s : State) : Keeps 0xca57fe315a2 s (State.snoopAnswer a0 a1 a2 s) := by
  unfold State.snoopAnswer
  repeat' first
    | exact Eq.refl _
    | exact fun _ => Eq.refl _
    | with_reducible exact Keeps.refl _ _
    | assumption
    | with_reducible apply Keeps.after (State.modCoh_keeps _ _ )
    | with_reducible apply Keeps.after (State.setTent_keeps _ _ _)
    | with_reducible apply Keeps.after (State.flowIdle_keeps _ _)
    | with_reducible apply Keeps.after (State.flowContinue_keeps _ _)
    | with_reducible refine Keeps.ite ?_ ?_
    | split
    | extract_lets -merge
    | rintro _ ⟨⟩
    | with_reducible apply Keeps.getD
    | contradiction
    | intro _ _
    | refine Keeps.fst ?_ (by with_reducible assumption)
    | dsimp +zetaDelta only

theorem State.loseSpools_keeps (a0 : Nat) (s : State) : Keeps 0x2110000000 s (State.loseSpools a0 s) := by
  unfold State.loseSpools
  repeat' first
    | exact Eq.refl _
    | exact fun _ => Eq.refl _
    | with_reducible exact Keeps.refl _ _
    | assumption
    | with_reducible apply Keeps.after (State.modSpl_keeps _ _ ?_)
    | with_reducible apply Keeps.after (State.modCip_keeps _ _ )
    | with_reducible apply Keeps.after (State.flowsDrop_keeps _ _)
    | with_reducible refine Keeps.ite ?_ ?_
    | split
    | extract_lets -merge
    | rintro _ ⟨⟩
    | with_reducible apply Keeps.getD
    | contradiction
    | intro _ _
    | refine Keeps.fst ?_ (by with_reducible assumption)
    | dsimp +zetaDelta only

theorem State.loseLd_keeps (a0 : Nat) (s : State) : Keeps 0xca57fe315a2 s (State.loseLd a0 s) := by
  unfold State.loseLd
  repeat' first
    | exact Eq.refl _
    | exact fun _ => Eq.refl _
    | with_reducible exact Keeps.refl _ _
    | assumption
    | with_reducible apply Keeps.after (State.snoopAnswer_keeps _ _ _ _)
    | with_reducible apply Keeps.after (State.loseEntry_keeps _ _ _)
    | with_reducible apply Keeps.after (State.modCoh_keeps _ _ )
    | with_reducible apply Keeps.after (State.loseSpools_keeps _ _)
    | with_reducible apply Keeps.after (State.fire_keeps _ _)
    | with_reducible apply Keeps.after (State.countF_keeps _ _ _)
    | with_reducible apply Keeps.after (State.setF_keeps _ _ _)
    | with_reducible refine Keeps.foldl (fun _ _ => ?_) _ ?_
    | with_reducible refine Keeps.foldlFst (fun _ _ _ => ?_) _ ?_
    | with_reducible refine Keeps.foldlSnd (fun _ _ _ => ?_) _ ?_
    | with_reducible refine Keeps.ite ?_ ?_
    | split
    | extract_lets -merge
    | rintro _ ⟨⟩
    | with_reducible apply Keeps.getD
    | contradiction
    | intro _ _
    | refine Keeps.fst ?_ (by with_reducible assumption)
    | dsimp +zetaDelta only

theorem State.portLost_keeps (a0 : Nat) (s : State) : Keeps 0xca57fe315a2 s (State.portLost a0 s) := by
  unfold State.portLost
  repeat' first
    | exact Eq.refl _
    | exact fun _ => Eq.refl _
    | with_reducible exact Keeps.refl _ _
    | assumption
    | with_reducible apply Keeps.after (State.putReqs_keeps _ _)
    | with_reducible apply Keeps.after (State.setPort_keeps _ _ _)
    | with_reducible apply Keeps.after (State.modCoh_keeps _ _ )
    | with_reducible apply Keeps.after (State.admitWaiting_keeps _)
    | with_reducible apply Keeps.after (State.loseLd_keeps _ _)
    | with_reducible refine Keeps.foldl (fun _ _ => ?_) _ ?_
    | with_reducible refine Keeps.foldlFst (fun _ _ _ => ?_) _ ?_
    | with_reducible refine Keeps.foldlSnd (fun _ _ _ => ?_) _ ?_
    | with_reducible refine Keeps.ite ?_ ?_
    | split
    | extract_lets -merge
    | rintro _ ⟨⟩
    | with_reducible apply Keeps.getD
    | contradiction
    | intro _ _
    | refine Keeps.fst ?_ (by with_reducible assumption)
    | dsimp +zetaDelta only

theorem State.boundBits_keeps (s : State) : Keeps 0x2 s (State.boundBits s) := by
  unfold State.boundBits
  repeat' first
    | exact Eq.refl _
    | exact fun _ => Eq.refl _
    | with_reducible exact Keeps.refl _ _
    | assumption
    | with_reducible apply Keeps.after (State.setF_keeps _ _ _)
    | with_reducible refine Keeps.foldl (fun _ _ => ?_) _ ?_
    | with_reducible refine Keeps.foldlFst (fun _ _ _ => ?_) _ ?_
    | with_reducible refine Keeps.foldlSnd (fun _ _ _ => ?_) _ ?_
    | with_reducible refine Keeps.ite ?_ ?_
    | split
    | extract_lets -merge
    | rintro _ ⟨⟩
    | with_reducible apply Keeps.getD
    | contradiction
    | intro _ _
    | refine Keeps.fst ?_ (by with_reducible assumption)
    | dsimp +zetaDelta only

theorem State.bindNow_keeps (a0 : Nat) (a1 : Option Nat) (s : State) : Keeps 0xca57fe315a2 s (State.bindNow a0 a1 s) := by
  unfold State.bindNow
  repeat' first
    | exact Eq.refl _
    | exact fun _ => Eq.refl _
    | with_reducible exact Keeps.refl _ _
    | assumption
    | with_reducible apply Keeps.after (State.loseLd_keeps _ _)
    | with_reducible apply Keeps.after (State.boundBits_keeps _)
    | with_reducible apply Keeps.after (State.setLd_keeps _ _ _)
    | with_reducible apply Keeps.after (State.fire_keeps _ _)
    | with_reducible refine Keeps.ite ?_ ?_
    | split
    | extract_lets -merge
    | rintro _ ⟨⟩
    | with_reducible apply Keeps.getD
    | contradiction
    | intro _ _
    | refine Keeps.fst ?_ (by with_reducible assumption)
    | dsimp +zetaDelta only

theorem State.bindPending_keeps (a0 : Nat) (s : State) : Keeps 0xca57fe315a2 s (State.bindPending a0 s) := by
  unfold State.bindPending
  repeat' first
    | exact Eq.refl _
    | exact fun _ => Eq.refl _
    | with_reducible exact Keeps.refl _ _
    | assumption
    | with_reducible apply Keeps.after (State.bindNow_keeps _ _ _)
    | with_reducible refine Keeps.foldl (fun _ _ => ?_) _ ?_
    | with_reducible refine Keeps.foldlFst (fun _ _ _ => ?_) _ ?_
    | with_reducible refine Keeps.foldlSnd (fun _ _ _ => ?_) _ ?_
    | with_reducible refine Keeps.ite ?_ ?_
    | split
    | extract_lets -merge
    | rintro _ ⟨⟩
    | with_reducible apply Keeps.getD
    | contradiction
    | intro _ _
    | refine Keeps.fst ?_ (by with_reducible assumption)
    | dsimp +zetaDelta only

theorem State.hostDown_keeps (a0 : Nat) (s : State) : Keeps 0xca57fe315a2 s (State.hostDown a0 s) := by
  unfold State.hostDown
  repeat' first
    | exact Eq.refl _
    | exact fun _ => Eq.refl _
    | with_reducible exact Keeps.refl _ _
    | assumption
    | with_reducible apply Keeps.after (State.setReg_keeps _ _ _)
    | with_reducible apply Keeps.after (State.modCip_keeps _ _ )
    | with_reducible apply Keeps.after (State.setF_keeps _ _ _)
    | with_reducible apply Keeps.after (State.setPort_keeps _ _ _)
    | with_reducible apply Keeps.after (State.bindPending_keeps _ _)
    | with_reducible apply Keeps.after (State.portLost_keeps _ _)
    | with_reducible apply Keeps.after (State.fire_keeps _ _)
    | with_reducible refine Keeps.ite ?_ ?_
    | split
    | extract_lets -merge
    | rintro _ ⟨⟩
    | with_reducible apply Keeps.getD
    | contradiction
    | intro _ _
    | refine Keeps.fst ?_ (by with_reducible assumption)
    | dsimp +zetaDelta only

end Sys2Proof.Machine
end

