-- ==== Sys2Proof/Laws/KeepsBolts.lean ====
section
/-!
SUPPORT. What the operations of Machine/Bolts.lean leave unchanged.
-/
namespace Sys2Proof.Machine

theorem State.progEnd_keeps (a0 : Nat) (s : State) : Keeps 0x48008000522 s (State.progEnd a0 s) := by
  unfold State.progEnd
  repeat' first
    | exact Eq.refl _
    | exact fun _ => Eq.refl _
    | with_reducible exact Keeps.refl _ _
    | assumption
    | with_reducible apply Keeps.after (State.perf_keeps _ _ _ _ _)
    | with_reducible apply Keeps.after (State.modMed_keeps _ _ )
    | with_reducible refine Keeps.ite ?_ ?_
    | split
    | extract_lets -merge
    | rintro _ ⟨⟩
    | with_reducible apply Keeps.getD
    | contradiction
    | intro _ _
    | refine Keeps.fst ?_ (by with_reducible assumption)
    | dsimp +zetaDelta only

theorem State.openFlushFrame_keeps (a0 : Nat) (a1 : Nat) (s : State) : Keeps 0xc0008030522 s (State.openFlushFrame a0 a1 s) := by
  unfold State.openFlushFrame
  repeat' first
    | exact Eq.refl _
    | exact fun _ => Eq.refl _
    | with_reducible exact Keeps.refl _ _
    | assumption
    | with_reducible apply Keeps.after (State.parityRun_keeps _ _ _ _ _ _)
    | with_reducible apply Keeps.after (State.takeBolt_keeps _ _ _ _ _ _ _ _)
    | with_reducible apply Keeps.after (State.modMed_keeps _ _ )
    | with_reducible apply Keeps.after (State.setGroupMedia_keeps _ _ _)
    | with_reducible refine Keeps.foldl (fun _ _ => ?_) _ ?_
    | with_reducible refine Keeps.foldlFst (fun _ _ _ => ?_) _ ?_
    | with_reducible refine Keeps.foldlSnd (fun _ _ _ => ?_) _ ?_
    | with_reducible refine Keeps.ite ?_ ?_
    | split
    | extract_lets -merge
    | rintro _ ⟨⟩
    | with_reducible apply Keeps.getD
    | contradiction
    | intro _ _
    | refine Keeps.fst ?_ (by with_reducible assumption)
    | dsimp +zetaDelta only

theorem State.flushAlloc_keeps (s : State) : Keeps 0xc0028030522 s (State.flushAlloc s).1 := by
  unfold State.flushAlloc
  repeat' first
    | exact Eq.refl _
    | exact fun _ => Eq.refl _
    | with_reducible exact Keeps.refl _ _
    | assumption
    | with_reducible apply Keeps.after (State.openFlushFrame_keeps _ _ _)
    | with_reducible apply Keeps.after (State.modFlush_keeps _ _ )
    | with_reducible apply Keeps.after (State.setFrame_keeps _ _)
    | with_reducible refine Keeps.foldl (fun _ _ => ?_) _ ?_
    | with_reducible refine Keeps.foldlFst (fun _ _ _ => ?_) _ ?_
    | with_reducible refine Keeps.foldlSnd (fun _ _ _ => ?_) _ ?_
    | with_reducible refine Keeps.ite ?_ ?_
    | split
    | extract_lets -merge
    | rintro _ ⟨⟩
    | with_reducible apply Keeps.getD
    | contradiction
    | intro _ _
    | refine Keeps.fst ?_ (by with_reducible assumption)
    | dsimp +zetaDelta only

theorem State.stampAll_keeps (a0 : Nat) (a1 : List (Nat × Line × Option Nat)) (s : State) : Keeps 0x4000000 s (State.stampAll a0 a1 s).1 := by
  unfold State.stampAll
  repeat' first
    | exact Eq.refl _
    | exact fun _ => Eq.refl _
    | with_reducible exact Keeps.refl _ _
    | assumption
    | with_reducible apply Keeps.after (State.takeStamp_keeps _)
    | with_reducible refine Keeps.foldl (fun _ _ => ?_) _ ?_
    | with_reducible refine Keeps.foldlFst (fun _ _ _ => ?_) _ ?_
    | with_reducible refine Keeps.foldlSnd (fun _ _ _ => ?_) _ ?_
    | with_reducible refine Keeps.ite ?_ ?_
    | split
    | extract_lets -merge
    | rintro _ ⟨⟩
    | with_reducible apply Keeps.getD
    | contradiction
    | intro _ _
    | refine Keeps.fst ?_ (by with_reducible assumption)
    | dsimp +zetaDelta only

theorem State.flushPatches_keeps (a0 : List (Nat × Line × Option Nat)) (s : State) : Keeps 0xc002c030522 s (State.flushPatches a0 s) := by
  unfold State.flushPatches
  repeat' first
    | exact Eq.refl _
    | exact fun _ => Eq.refl _
    | with_reducible exact Keeps.refl _ _
    | assumption
    | with_reducible apply Keeps.after (State.flushAlloc_keeps _)
    | with_reducible apply Keeps.after (State.takeStamp_keeps _)
    | with_reducible apply Keeps.after (State.stampAll_keeps _ _ _)
    | with_reducible apply Keeps.after (State.issue_keeps _ _ _ _)
    | with_reducible refine Keeps.foldl (fun _ _ => ?_) _ ?_
    | with_reducible refine Keeps.foldlFst (fun _ _ _ => ?_) _ ?_
    | with_reducible refine Keeps.foldlSnd (fun _ _ _ => ?_) _ ?_
    | with_reducible refine Keeps.ite ?_ ?_
    | split
    | extract_lets -merge
    | rintro _ ⟨⟩
    | with_reducible apply Keeps.getD
    | contradiction
    | intro _ _
    | refine Keeps.fst ?_ (by with_reducible assumption)
    | dsimp +zetaDelta only

theorem State.entryDone_keeps (a0 : DirEntry) (s : State) : Keeps 0xca57fe315a2 s (State.entryDone a0 s) := by
  unfold State.entryDone
  repeat' first
    | exact Eq.refl _
    | exact fun _ => Eq.refl _
    | with_reducible exact Keeps.refl _ _
    | assumption
    | with_reducible apply Keeps.after (State.backDone_keeps _ _)
    | with_reducible apply Keeps.after (State.writeDone_keeps _ _)
    | with_reducible apply Keeps.after (State.dropReq_keeps _ _)
    | with_reducible refine Keeps.ite ?_ ?_
    | split
    | extract_lets -merge
    | rintro _ ⟨⟩
    | with_reducible apply Keeps.getD
    | contradiction
    | intro _ _
    | refine Keeps.fst ?_ (by with_reducible assumption)
    | dsimp +zetaDelta only

theorem State.progWait_keeps (a0 : Prog) (s : State) : Keeps 0x8000000 s (State.progWait a0 s) := by
  unfold State.progWait
  repeat' first
    | exact Eq.refl _
    | exact fun _ => Eq.refl _
    | with_reducible exact Keeps.refl _ _
    | assumption
    | with_reducible apply Keeps.after (State.modMed_keeps _ _ )
    | with_reducible refine Keeps.ite ?_ ?_
    | split
    | extract_lets -merge
    | rintro _ ⟨⟩
    | with_reducible apply Keeps.getD
    | contradiction
    | intro _ _
    | refine Keeps.fst ?_ (by with_reducible assumption)
    | dsimp +zetaDelta only

theorem State.patchAgain_keeps (a0 : Prog) (s : State) (a2 : DirEntry × Nat) : Keeps 0xca57fe315a2 s (State.patchAgain a0 s a2) := by
  unfold State.patchAgain
  repeat' first
    | exact Eq.refl _
    | exact fun _ => Eq.refl _
    | with_reducible exact Keeps.refl _ _
    | assumption
    | with_reducible apply Keeps.after (State.entryDone_keeps _ _)
    | with_reducible apply Keeps.after (State.stagingDrop_keeps _ _)
    | with_reducible apply Keeps.after (State.modCache_keeps _ _ )
    | with_reducible apply Keeps.after (State.placePatch_keeps _ _ _ _)
    | with_reducible apply Keeps.after (State.progWait_keeps _ _)
    | with_reducible refine Keeps.ite ?_ ?_
    | split
    | extract_lets -merge
    | rintro _ ⟨⟩
    | with_reducible apply Keeps.getD
    | contradiction
    | intro _ _
    | refine Keeps.fst ?_ (by with_reducible assumption)
    | dsimp +zetaDelta only

theorem State.placeAgain_keeps (a0 : Prog) (a1 : Nat) (a2 : Nat) (a3 : Nat → Xlt → Xlt) (s : State) : Keeps 0xc000c030522 s (State.placeAgain a0 a1 a2 a3 s) := by
  unfold State.placeAgain
  repeat' first
    | exact Eq.refl _
    | exact fun _ => Eq.refl _
    | with_reducible exact Keeps.refl _ _
    | assumption
    | with_reducible apply Keeps.after (State.allocPage_keeps _ _ _)
    | with_reducible apply Keeps.after (State.modXlt_keeps _ _ )
    | with_reducible apply Keeps.after (State.issue_keeps _ _ _ _)
    | with_reducible apply Keeps.after (State.progWait_keeps _ _)
    | with_reducible refine Keeps.ite ?_ ?_
    | split
    | extract_lets -merge
    | rintro _ ⟨⟩
    | with_reducible apply Keeps.getD
    | contradiction
    | intro _ _
    | refine Keeps.fst ?_ (by with_reducible assumption)
    | dsimp +zetaDelta only

theorem State.programAgain_keeps (a0 : Prog) (s : State) : Keeps 0xca57fe315a2 s (State.programAgain a0 s) := by
  unfold State.programAgain
  repeat' first
    | exact Eq.refl _
    | exact fun _ => Eq.refl _
    | with_reducible exact Keeps.refl _ _
    | assumption
    | with_reducible apply Keeps.after (State.flushPatches_keeps _ _)
    | with_reducible apply Keeps.after (State.patchAgain_keeps _ _ _)
    | with_reducible apply Keeps.after (State.placeAgain_keeps _ _ _ _ _)
    | with_reducible apply Keeps.after (State.issue_keeps _ _ _ _)
    | with_reducible apply Keeps.after (State.modMed_keeps _ _ )
    | with_reducible apply Keeps.after (State.baste_keeps _ _)
    | with_reducible refine Keeps.foldl (fun _ _ => ?_) _ ?_
    | with_reducible refine Keeps.foldlFst (fun _ _ _ => ?_) _ ?_
    | with_reducible refine Keeps.foldlSnd (fun _ _ _ => ?_) _ ?_
    | with_reducible refine Keeps.ite ?_ ?_
    | split
    | extract_lets -merge
    | rintro _ ⟨⟩
    | with_reducible apply Keeps.getD
    | contradiction
    | intro _ _
    | refine Keeps.fst ?_ (by with_reducible assumption)
    | dsimp +zetaDelta only

theorem State.unstick_keeps (s : State) : Keeps 0xca57fe315a2 s (State.unstick s) := by
  unfold State.unstick
  repeat' first
    | exact Eq.refl _
    | exact fun _ => Eq.refl _
    | with_reducible exact Keeps.refl _ _
    | assumption
    | with_reducible apply Keeps.after (State.programAgain_keeps _ _)
    | with_reducible apply Keeps.after (State.modMed_keeps _ _ )
    | with_reducible refine Keeps.foldl (fun _ _ => ?_) _ ?_
    | with_reducible refine Keeps.foldlFst (fun _ _ _ => ?_) _ ?_
    | with_reducible refine Keeps.foldlSnd (fun _ _ _ => ?_) _ ?_
    | with_reducible refine Keeps.ite ?_ ?_
    | split
    | extract_lets -merge
    | rintro _ ⟨⟩
    | with_reducible apply Keeps.getD
    | contradiction
    | intro _ _
    | refine Keeps.fst ?_ (by with_reducible assumption)
    | dsimp +zetaDelta only

theorem State.programsAway_keeps (a0 : Prog → Bool) (s : State) : Keeps 0xca57fe315a2 s (State.programsAway a0 s) := by
  unfold State.programsAway
  repeat' first
    | exact Eq.refl _
    | exact fun _ => Eq.refl _
    | with_reducible exact Keeps.refl _ _
    | assumption
    | with_reducible apply Keeps.after (State.programAgain_keeps _ _)
    | with_reducible apply Keeps.after (State.modMed_keeps _ _ )
    | with_reducible refine Keeps.foldl (fun _ _ => ?_) _ ?_
    | with_reducible refine Keeps.foldlFst (fun _ _ _ => ?_) _ ?_
    | with_reducible refine Keeps.foldlSnd (fun _ _ _ => ?_) _ ?_
    | with_reducible refine Keeps.ite ?_ ?_
    | split
    | extract_lets -merge
    | rintro _ ⟨⟩
    | with_reducible apply Keeps.getD
    | contradiction
    | intro _ _
    | refine Keeps.fst ?_ (by with_reducible assumption)
    | dsimp +zetaDelta only

theorem State.cutFrames_keeps (a0 : Nat) (a1 : Prog → Bool) (s : State) : Keeps 0xca57fe315a2 s (State.cutFrames a0 a1 s) := by
  unfold State.cutFrames
  repeat' first
    | exact Eq.refl _
    | exact fun _ => Eq.refl _
    | with_reducible exact Keeps.refl _ _
    | assumption
    | with_reducible apply Keeps.after (State.programsAway_keeps _ _)
    | with_reducible apply Keeps.after (State.modMed_keeps _ _ )
    | with_reducible apply Keeps.after (State.closeCheck_keeps _ _ _)
    | with_reducible refine Keeps.foldl (fun _ _ => ?_) _ ?_
    | with_reducible refine Keeps.foldlFst (fun _ _ _ => ?_) _ ?_
    | with_reducible refine Keeps.foldlSnd (fun _ _ _ => ?_) _ ?_
    | with_reducible refine Keeps.ite ?_ ?_
    | split
    | extract_lets -merge
    | rintro _ ⟨⟩
    | with_reducible apply Keeps.getD
    | contradiction
    | intro _ _
    | refine Keeps.fst ?_ (by with_reducible assumption)
    | dsimp +zetaDelta only

theorem State.wornOut_keeps (a0 : Nat) (s : State) : Keeps 0xca57fe315a2 s (State.wornOut a0 s) := by
  unfold State.wornOut
  repeat' first
    | exact Eq.refl _
    | exact fun _ => Eq.refl _
    | with_reducible exact Keeps.refl _ _
    | assumption
    | with_reducible apply Keeps.after (State.cutFrames_keeps _ _ _)
    | with_reducible apply Keeps.after (State.modMed_keeps _ _ )
    | with_reducible refine Keeps.ite ?_ ?_
    | split
    | extract_lets -merge
    | rintro _ ⟨⟩
    | with_reducible apply Keeps.getD
    | contradiction
    | intro _ _
    | refine Keeps.fst ?_ (by with_reducible assumption)
    | dsimp +zetaDelta only

theorem State.gaugeUpdate_keeps (a0 : Nat) (s : State) : Keeps 0xca57fe315a2 s (State.gaugeUpdate a0 s) := by
  unfold State.gaugeUpdate
  repeat' first
    | exact Eq.refl _
    | exact fun _ => Eq.refl _
    | with_reducible exact Keeps.refl _ _
    | assumption
    | with_reducible apply Keeps.after (State.setF_keeps _ _ _)
    | with_reducible apply Keeps.after (State.fire_keeps _ _)
    | with_reducible apply Keeps.after (State.excludeUpdate_keeps _ _)
    | with_reducible apply Keeps.after (State.wornOut_keeps _ _)
    | with_reducible refine Keeps.ite ?_ ?_
    | split
    | extract_lets -merge
    | rintro _ ⟨⟩
    | with_reducible apply Keeps.getD
    | contradiction
    | intro _ _
    | refine Keeps.fst ?_ (by with_reducible assumption)
    | dsimp +zetaDelta only

theorem State.retire_keeps (a0 : Nat) (s : State) : Keeps 0xca57fe315a2 s (State.retire a0 s) := by
  unfold State.retire
  repeat' first
    | exact Eq.refl _
    | exact fun _ => Eq.refl _
    | with_reducible exact Keeps.refl _ _
    | assumption
    | with_reducible apply Keeps.after (State.fire_keeps _ _)
    | with_reducible apply Keeps.after (State.modMed_keeps _ _ )
    | with_reducible apply Keeps.after (State.setLedger_keeps _ _ _)
    | with_reducible apply Keeps.after (State.setF_keeps _ _ _)
    | with_reducible apply Keeps.after (State.levelUpdate_keeps _ _)
    | with_reducible apply Keeps.after (State.gaugeUpdate_keeps _ _)
    | with_reducible refine Keeps.ite ?_ ?_
    | split
    | extract_lets -merge
    | rintro _ ⟨⟩
    | with_reducible apply Keeps.getD
    | contradiction
    | intro _ _
    | refine Keeps.fst ?_ (by with_reducible assumption)
    | dsimp +zetaDelta only

theorem State.moveBolt_keeps (a0 : Nat) (a1 : Nat) (a2 : Nat) (a3 : Nat) (a4 : Bool) (s : State) : Keeps 0xc0008030522 s (State.moveBolt a0 a1 a2 a3 a4 s) := by
  unfold State.moveBolt
  repeat' first
    | exact Eq.refl _
    | exact fun _ => Eq.refl _
    | with_reducible exact Keeps.refl _ _
    | assumption
    | with_reducible apply Keeps.after (State.setBoltInfo_keeps _ _ _)
    | with_reducible apply Keeps.after (State.modMed_keeps _ _ )
    | with_reducible apply Keeps.after (State.approxNote_keeps _ _)
    | with_reducible apply Keeps.after (State.setLedger_keeps _ _ _)
    | with_reducible refine Keeps.foldl (fun _ _ => ?_) _ ?_
    | with_reducible refine Keeps.foldlFst (fun _ _ _ => ?_) _ ?_
    | with_reducible refine Keeps.foldlSnd (fun _ _ _ => ?_) _ ?_
    | with_reducible refine Keeps.ite ?_ ?_
    | split
    | extract_lets -merge
    | rintro _ ⟨⟩
    | with_reducible apply Keeps.getD
    | contradiction
    | intro _ _
    | refine Keeps.fst ?_ (by with_reducible assumption)
    | dsimp +zetaDelta only

theorem State.dieFail_keeps (a0 : Nat) (a1 : Nat) (s : State) : Keeps 0xca57fe315a2 s (State.dieFail a0 a1 s) := by
  unfold State.dieFail
  repeat' first
    | exact Eq.refl _
    | exact fun _ => Eq.refl _
    | with_reducible exact Keeps.refl _ _
    | assumption
    | with_reducible apply Keeps.after (State.modMed_keeps _ _ )
    | with_reducible apply Keeps.after (State.fire_keeps _ _)
    | with_reducible apply Keeps.after (State.setF_keeps _ _ _)
    | with_reducible apply Keeps.after (State.fireRec_keeps _ _ _ _)
    | with_reducible apply Keeps.after (State.retire_keeps _ _)
    | with_reducible apply Keeps.after (State.moveBolt_keeps _ _ _ _ _ _)
    | with_reducible apply Keeps.after (State.levelUpdate_keeps _ _)
    | with_reducible refine Keeps.foldl (fun _ _ => ?_) _ ?_
    | with_reducible refine Keeps.foldlFst (fun _ _ _ => ?_) _ ?_
    | with_reducible refine Keeps.foldlSnd (fun _ _ _ => ?_) _ ?_
    | with_reducible refine Keeps.ite ?_ ?_
    | split
    | extract_lets -merge
    | rintro _ ⟨⟩
    | with_reducible apply Keeps.getD
    | contradiction
    | intro _ _
    | refine Keeps.fst ?_ (by with_reducible assumption)
    | dsimp +zetaDelta only

theorem State.retireBolt_keeps (a0 : Nat) (s : State) : Keeps 0xca57fe315a2 s (State.retireBolt a0 s) := by
  unfold State.retireBolt
  repeat' first
    | exact Eq.refl _
    | exact fun _ => Eq.refl _
    | with_reducible exact Keeps.refl _ _
    | assumption
    | with_reducible apply Keeps.after (State.retire_keeps _ _)
    | with_reducible apply Keeps.after (State.dieFail_keeps _ _ _)
    | with_reducible refine Keeps.ite ?_ ?_
    | split
    | extract_lets -merge
    | rintro _ ⟨⟩
    | with_reducible apply Keeps.getD
    | contradiction
    | intro _ _
    | refine Keeps.fst ?_ (by with_reducible assumption)
    | dsimp +zetaDelta only

theorem State.programFailed_keeps (a0 : Prog) (s : State) : Keeps 0xca57fe315a2 s (State.programFailed a0 s) := by
  unfold State.programFailed
  repeat' first
    | exact Eq.refl _
    | exact fun _ => Eq.refl _
    | with_reducible exact Keeps.refl _ _
    | assumption
    | with_reducible apply Keeps.after (State.progEnd_keeps _ _)
    | with_reducible apply Keeps.after (State.fire_keeps _ _)
    | with_reducible apply Keeps.after (State.retireBolt_keeps _ _)
    | with_reducible apply Keeps.after (State.moveBolt_keeps _ _ _ _ _ _)
    | with_reducible apply Keeps.after (State.storePage_keeps _ _ _)
    | with_reducible apply Keeps.after (State.programAgain_keeps _ _)
    | with_reducible refine Keeps.ite ?_ ?_
    | split
    | extract_lets -merge
    | rintro _ ⟨⟩
    | with_reducible apply Keeps.getD
    | contradiction
    | intro _ _
    | refine Keeps.fst ?_ (by with_reducible assumption)
    | dsimp +zetaDelta only

theorem State.copyPage_keeps (a0 : Nat) (a1 : Nat) (a2 : Bool) (s : State) : Keeps 0xc800c030522 s (State.copyPage a0 a1 a2 s).1 := by
  unfold State.copyPage
  repeat' first
    | exact Eq.refl _
    | exact fun _ => Eq.refl _
    | with_reducible exact Keeps.refl _ _
    | assumption
    | with_reducible apply Keeps.after (State.perf_keeps _ _ _ _ _)
    | with_reducible apply Keeps.after (State.darnTrigger_keeps _ _ _ _)
    | with_reducible apply Keeps.after (State.allocPage_keeps _ _ _)
    | with_reducible apply Keeps.after (State.takeStamp_keeps _)
    | with_reducible apply Keeps.after (State.issue_keeps _ _ _ _)
    | with_reducible apply Keeps.after (State.rotateGroup_keeps _)
    | with_reducible refine Keeps.ite ?_ ?_
    | split
    | extract_lets -merge
    | rintro _ ⟨⟩
    | with_reducible apply Keeps.getD
    | contradiction
    | intro _ _
    | refine Keeps.fst ?_ (by with_reducible assumption)
    | dsimp +zetaDelta only

end Sys2Proof.Machine
end

