-- ==== Sys2Proof/Laws/KeepsRead.lean ====
section
/-!
SUPPORT. What the operations of Machine/Read.lean leave unchanged.
-/
namespace Sys2Proof.Machine

theorem State.streamStep_keeps (a0 : Nat) (a1 : Nat) (a2 : Nat) (s : State) : Keeps 0x200000 s (State.streamStep a0 a1 a2 s).1 := by
  unfold State.streamStep
  repeat' first
    | exact Eq.refl _
    | exact fun _ => Eq.refl _
    | with_reducible exact Keeps.refl _ _
    | assumption
    | with_reducible apply Keeps.after (State.setPort_keeps _ _ _)
    | with_reducible refine Keeps.foldl (fun _ _ => ?_) _ ?_
    | with_reducible refine Keeps.foldlFst (fun _ _ _ => ?_) _ ?_
    | with_reducible refine Keeps.foldlSnd (fun _ _ _ => ?_) _ ?_
    | with_reducible refine Keeps.ite ?_ ?_
    | split
    | extract_lets -merge
    | rintro _ ⟨⟩
    | with_reducible apply Keeps.getD
    | contradiction
    | intro _ _
    | refine Keeps.fst ?_ (by with_reducible assumption)
    | dsimp +zetaDelta only

theorem State.newReq_keeps (a0 : Nat) (a1 : Nat) (s : State) : Keeps 0x82001200000 s (State.newReq a0 a1 s).1 := by
  unfold State.newReq
  repeat' first
    | exact Eq.refl _
    | exact fun _ => Eq.refl _
    | with_reducible exact Keeps.refl _ _
    | assumption
    | with_reducible apply Keeps.after (State.sampleStep_keeps _ _ _)
    | with_reducible apply Keeps.after (State.putNextReq_keeps _ _)
    | with_reducible refine Keeps.ite ?_ ?_
    | split
    | extract_lets -merge
    | rintro _ ⟨⟩
    | with_reducible apply Keeps.getD
    | contradiction
    | intro _ _
    | refine Keeps.fst ?_ (by with_reducible assumption)
    | dsimp +zetaDelta only

theorem State.badForm_keeps (a0 : Nat) (a1 : Nat) (a2 : MsgForm) (s : State) : Keeps 0xca57fe315a2 s (State.badForm a0 a1 a2 s) := by
  unfold State.badForm
  repeat' first
    | exact Eq.refl _
    | exact fun _ => Eq.refl _
    | with_reducible exact Keeps.refl _ _
    | assumption
    | with_reducible apply Keeps.after (State.setPort_keeps _ _ _)
    | with_reducible apply Keeps.after (State.violation_keeps _ _ _ _ _)
    | with_reducible apply Keeps.after (State.hostDown_keeps _ _)
    | with_reducible apply Keeps.after (State.perf_keeps _ _ _ _ _)
    | with_reducible refine Keeps.ite ?_ ?_
    | split
    | extract_lets -merge
    | rintro _ ⟨⟩
    | with_reducible apply Keeps.getD
    | contradiction
    | intro _ _
    | refine Keeps.fst ?_ (by with_reducible assumption)
    | dsimp +zetaDelta only

theorem State.answerEarly_keeps (a0 : Req) (s : State) : Keeps 0x4a010a01522 s (State.answerEarly a0 s) := by
  unfold State.answerEarly
  repeat' first
    | exact Eq.refl _
    | exact fun _ => Eq.refl _
    | with_reducible exact Keeps.refl _ _
    | assumption
    | with_reducible apply Keeps.after (State.respond_keeps _ _ _ _)
    | with_reducible apply Keeps.after (State.putReqs_keeps _ _)
    | with_reducible refine Keeps.ite ?_ ?_
    | split
    | extract_lets -merge
    | rintro _ ⟨⟩
    | with_reducible apply Keeps.getD
    | contradiction
    | intro _ _
    | refine Keeps.fst ?_ (by with_reducible assumption)
    | dsimp +zetaDelta only

theorem State.ghost_keeps (a0 : Req) (a1 : Bool) (s : State) : Keeps 0x8000000 s (State.ghost a0 a1 s) := by
  unfold State.ghost
  repeat' first
    | exact Eq.refl _
    | exact fun _ => Eq.refl _
    | with_reducible exact Keeps.refl _ _
    | assumption
    | with_reducible apply Keeps.after (State.modMed_keeps _ _ )
    | with_reducible refine Keeps.ite ?_ ?_
    | split
    | extract_lets -merge
    | rintro _ ⟨⟩
    | with_reducible apply Keeps.getD
    | contradiction
    | intro _ _
    | refine Keeps.fst ?_ (by with_reducible assumption)
    | dsimp +zetaDelta only

theorem State.memberGhosts_keeps (a0 : Req) (a1 : Bool) (s : State) : Keeps 0x8000000 s (State.memberGhosts a0 a1 s) := by
  unfold State.memberGhosts
  repeat' first
    | exact Eq.refl _
    | exact fun _ => Eq.refl _
    | with_reducible exact Keeps.refl _ _
    | assumption
    | with_reducible apply Keeps.after (State.modMed_keeps _ _ )
    | with_reducible refine Keeps.ite ?_ ?_
    | split
    | extract_lets -merge
    | rintro _ ⟨⟩
    | with_reducible apply Keeps.getD
    | contradiction
    | intro _ _
    | refine Keeps.fst ?_ (by with_reducible assumption)
    | dsimp +zetaDelta only

theorem State.ghostReturn_keeps (a0 : Ghost) (s : State) : Keeps 0x48008000522 s (State.ghostReturn a0 s) := by
  unfold State.ghostReturn
  repeat' first
    | exact Eq.refl _
    | exact fun _ => Eq.refl _
    | with_reducible exact Keeps.refl _ _
    | assumption
    | with_reducible apply Keeps.after (State.modMed_keeps _ _ )
    | with_reducible apply Keeps.after (State.perf_keeps _ _ _ _ _)
    | with_reducible refine Keeps.ite ?_ ?_
    | split
    | extract_lets -merge
    | rintro _ ⟨⟩
    | with_reducible apply Keeps.getD
    | contradiction
    | intro _ _
    | refine Keeps.fst ?_ (by with_reducible assumption)
    | dsimp +zetaDelta only

theorem State.unrecoverable_keeps (a0 : Req) (a1 : Nat) (s : State) : Keeps 0x4a010e315a2 s (State.unrecoverable a0 a1 s) := by
  unfold State.unrecoverable
  repeat' first
    | exact Eq.refl _
    | exact fun _ => Eq.refl _
    | with_reducible exact Keeps.refl _ _
    | assumption
    | with_reducible apply Keeps.after (State.poisonAnswer_keeps _ _ _)
    | with_reducible apply Keeps.after (State.fireRec_keeps _ _ _ _)
    | with_reducible refine Keeps.ite ?_ ?_
    | split
    | extract_lets -merge
    | rintro _ ⟨⟩
    | with_reducible apply Keeps.getD
    | contradiction
    | intro _ _
    | refine Keeps.fst ?_ (by with_reducible assumption)
    | dsimp +zetaDelta only

theorem State.cipherMismatch_keeps (a0 : MLine) (a1 : Bool) (a2 : Bool) (s : State) : Keeps 0x48000030522 s (State.cipherMismatch a0 a1 a2 s) := by
  unfold State.cipherMismatch
  repeat' first
    | exact Eq.refl _
    | exact fun _ => Eq.refl _
    | with_reducible exact Keeps.refl _ _
    | assumption
    | with_reducible apply Keeps.after (State.perf_keeps _ _ _ _ _)
    | with_reducible apply Keeps.after (State.cipherFaultEnter_keeps _ _ _)
    | with_reducible apply Keeps.after (State.fire_keeps _ _)
    | with_reducible apply Keeps.after (State.countF_keeps _ _ _)
    | with_reducible refine Keeps.ite ?_ ?_
    | split
    | extract_lets -merge
    | rintro _ ⟨⟩
    | with_reducible apply Keeps.getD
    | contradiction
    | intro _ _
    | refine Keeps.fst ?_ (by with_reducible assumption)
    | dsimp +zetaDelta only

theorem State.directData_keeps (a0 : Req) (a1 : Nat) (a2 : Nat) (a3 : Sensed) (a4 : Bool) (a5 : Bool) (s : State) : Keeps 0x4a05fe315a2 s (State.directData a0 a1 a2 a3 a4 a5 s) := by
  unfold State.directData
  repeat' first
    | exact Eq.refl _
    | exact fun _ => Eq.refl _
    | with_reducible exact Keeps.refl _ _
    | assumption
    | with_reducible apply Keeps.after (State.readSent_keeps _ _)
    | with_reducible apply Keeps.after (State.injConsume_keeps _)
    | with_reducible apply Keeps.after (State.setReq_keeps _ _)
    | with_reducible apply Keeps.after (State.perf_keeps _ _ _ _ _)
    | with_reducible apply Keeps.after (State.learn_keeps _ _ _ _)
    | with_reducible apply Keeps.after (State.modMed_keeps _ _ )
    | with_reducible apply Keeps.after (State.decoded__keeps _ _ _ _)
    | with_reducible apply Keeps.after (State.cipherMismatch_keeps _ _ _ _)
    | with_reducible refine Keeps.ite ?_ ?_
    | split
    | extract_lets -merge
    | rintro _ ⟨⟩
    | with_reducible apply Keeps.getD
    | contradiction
    | intro _ _
    | refine Keeps.fst ?_ (by with_reducible assumption)
    | dsimp +zetaDelta only

theorem State.rebuilt_keeps (a0 : Req) (s : State) : Keeps 0x4a05fe315a2 s (State.rebuilt a0 s) := by
  unfold State.rebuilt
  repeat' first
    | exact Eq.refl _
    | exact fun _ => Eq.refl _
    | with_reducible exact Keeps.refl _ _
    | assumption
    | with_reducible apply Keeps.after (State.unrecoverable_keeps _ _ _)
    | with_reducible apply Keeps.after (State.perf_keeps _ _ _ _ _)
    | with_reducible apply Keeps.after (State.modMed_keeps _ _ )
    | with_reducible apply Keeps.after (State.mediaEvent_keeps _ _ _ _ _)
    | with_reducible apply Keeps.after (State.decoded__keeps _ _ _ _)
    | with_reducible refine Keeps.ite ?_ ?_
    | split
    | extract_lets -merge
    | rintro _ ⟨⟩
    | with_reducible apply Keeps.getD
    | contradiction
    | intro _ _
    | refine Keeps.fst ?_ (by with_reducible assumption)
    | dsimp +zetaDelta only

end Sys2Proof.Machine
end

