-- ==== Sys2Proof/Laws/KeepsFetch.lean ====
section
/-!
SUPPORT. What the operations of Machine/Fetch.lean leave unchanged.
-/
namespace Sys2Proof.Machine

theorem State.senseDirect_keeps (a0 : Nat) (a1 : Nat) (a2 : Nat) (s : State) : Keeps 0x48048000522 s (State.senseDirect a0 a1 a2 s).1 := by
  unfold State.senseDirect
  repeat' first
    | exact Eq.refl _
    | exact fun _ => Eq.refl _
    | with_reducible exact Keeps.refl _ _
    | assumption
    | with_reducible apply Keeps.after (State.readSent_keeps _ _)
    | with_reducible apply Keeps.after (State.injConsume_keeps _)
    | with_reducible apply Keeps.after (State.learn_keeps _ _ _ _)
    | with_reducible refine Keeps.ite ?_ ?_
    | split
    | extract_lets -merge
    | rintro _ ⟨⟩
    | with_reducible apply Keeps.getD
    | contradiction
    | intro _ _
    | refine Keeps.fst ?_ (by with_reducible assumption)
    | dsimp +zetaDelta only

theorem State.sense_keeps (a0 : Nat) (a1 : Nat) (a2 : Nat) (s : State) : Keeps 0x48048000522 s (State.sense a0 a1 a2 s).1 := by
  unfold State.sense
  repeat' first
    | exact Eq.refl _
    | exact fun _ => Eq.refl _
    | with_reducible exact Keeps.refl _ _
    | assumption
    | with_reducible apply Keeps.after (State.senseDirect_keeps _ _ _ _)
    | with_reducible apply Keeps.after (State.modMed_keeps _ _ )
    | with_reducible apply Keeps.after (State.readSent_keeps _ _)
    | with_reducible refine Keeps.foldl (fun _ _ => ?_) _ ?_
    | with_reducible refine Keeps.foldlFst (fun _ _ _ => ?_) _ ?_
    | with_reducible refine Keeps.foldlSnd (fun _ _ _ => ?_) _ ?_
    | with_reducible refine Keeps.ite ?_ ?_
    | split
    | extract_lets -merge
    | rintro _ ⟨⟩
    | with_reducible apply Keeps.getD
    | contradiction
    | intro _ _
    | refine Keeps.fst ?_ (by with_reducible assumption)
    | dsimp +zetaDelta only

theorem State.senseCount_keeps (a0 : Nat) (a1 : Option Nat) (a2 : Sense) (s : State) : Keeps 0x48000000522 s (State.senseCount a0 a1 a2 s) := by
  unfold State.senseCount
  repeat' first
    | exact Eq.refl _
    | exact fun _ => Eq.refl _
    | with_reducible exact Keeps.refl _ _
    | assumption
    | with_reducible apply Keeps.after (State.perf_keeps _ _ _ _ _)
    | with_reducible refine Keeps.ite ?_ ?_
    | split
    | extract_lets -merge
    | rintro _ ⟨⟩
    | with_reducible apply Keeps.getD
    | contradiction
    | intro _ _
    | refine Keeps.fst ?_ (by with_reducible assumption)
    | dsimp +zetaDelta only

theorem State.readCount_keeps (a0 : Nat) (a1 : Option Nat) (a2 : Got) (s : State) : Keeps 0xc8000000522 s (State.readCount a0 a1 a2 s) := by
  unfold State.readCount
  repeat' first
    | exact Eq.refl _
    | exact fun _ => Eq.refl _
    | with_reducible exact Keeps.refl _ _
    | assumption
    | with_reducible apply Keeps.after (State.perf_keeps _ _ _ _ _)
    | with_reducible apply Keeps.after (State.freeStep_keeps _)
    | with_reducible refine Keeps.ite ?_ ?_
    | split
    | extract_lets -merge
    | rintro _ ⟨⟩
    | with_reducible apply Keeps.getD
    | contradiction
    | intro _ _
    | refine Keeps.fst ?_ (by with_reducible assumption)
    | dsimp +zetaDelta only

theorem State.readStored_keeps (a0 : Nat) (a1 : Option Nat) (a2 : Bool) (a3 : Bool) (s : State) : Keeps 0x4804f0305a2 s (State.readStored a0 a1 a2 a3 s).1 := by
  unfold State.readStored
  repeat' first
    | exact Eq.refl _
    | exact fun _ => Eq.refl _
    | with_reducible exact Keeps.refl _ _
    | assumption
    | with_reducible apply Keeps.after (State.mapCheck_keeps _ _)
    | with_reducible apply Keeps.after (State.sense_keeps _ _ _ _)
    | with_reducible apply Keeps.after (State.senseCount_keeps _ _ _ _)
    | with_reducible apply Keeps.after (State.fireRec_keeps _ _ _ _)
    | with_reducible apply Keeps.after (State.staleKey_keeps _)
    | with_reducible apply Keeps.after (State.perf_keeps _ _ _ _ _)
    | with_reducible apply Keeps.after (State.dirtyChanged_keeps _)
    | with_reducible apply Keeps.after (State.cacheFill_keeps _ _ _ _)
    | with_reducible refine Keeps.ite ?_ ?_
    | split
    | extract_lets -merge
    | rintro _ ⟨⟩
    | with_reducible apply Keeps.getD
    | contradiction
    | intro _ _
    | refine Keeps.fst ?_ (by with_reducible assumption)
    | dsimp +zetaDelta only

theorem State.readAt_keeps (a0 : Nat) (a1 : Option Nat) (a2 : Bool) (a3 : Bool) (s : State) : Keeps 0x4804f0305a2 s (State.readAt a0 a1 a2 a3 s).1 := by
  unfold State.readAt
  repeat' first
    | exact Eq.refl _
    | exact fun _ => Eq.refl _
    | with_reducible exact Keeps.refl _ _
    | assumption
    | with_reducible apply Keeps.after (State.injCached_keeps _ _)
    | with_reducible apply Keeps.after (State.lineError_keeps _ _)
    | with_reducible apply Keeps.after (State.readStored_keeps _ _ _ _ _)
    | with_reducible apply Keeps.after (State.touchPent_keeps _ _ _)
    | with_reducible apply Keeps.after (State.touchWay_keeps _ _ _)
    | with_reducible refine Keeps.ite ?_ ?_
    | split
    | extract_lets -merge
    | rintro _ ⟨⟩
    | with_reducible apply Keeps.getD
    | contradiction
    | intro _ _
    | refine Keeps.fst ?_ (by with_reducible assumption)
    | dsimp +zetaDelta only

theorem State.readLine_keeps (a0 : Nat) (a1 : Option Nat) (a2 : Bool) (a3 : Bool) (s : State) : Keeps 0xc804f0305a2 s (State.readLine a0 a1 a2 a3 s).1 := by
  unfold State.readLine
  repeat' first
    | exact Eq.refl _
    | exact fun _ => Eq.refl _
    | with_reducible exact Keeps.refl _ _
    | assumption
    | with_reducible apply Keeps.after (State.readAt_keeps _ _ _ _ _)
    | with_reducible apply Keeps.after (State.readCount_keeps _ _ _ _)
    | with_reducible refine Keeps.ite ?_ ?_
    | split
    | extract_lets -merge
    | rintro _ ⟨⟩
    | with_reducible apply Keeps.getD
    | contradiction
    | intro _ _
    | refine Keeps.fst ?_ (by with_reducible assumption)
    | dsimp +zetaDelta only

end Sys2Proof.Machine
end

