-- ==== Sys2Proof/Laws/KeepsTranslation.lean ====
section
/-!
SUPPORT. What the operations of Machine/Translation.lean leave unchanged.
-/
namespace Sys2Proof.Machine

theorem State.backsPrune_keeps (s : State) : Keeps 0x2002000000 s (State.backsPrune s) := by
  unfold State.backsPrune
  repeat' first
    | exact Eq.refl _
    | exact fun _ => Eq.refl _
    | with_reducible exact Keeps.refl _ _
    | assumption
    | with_reducible apply Keeps.after (State.modCache_keeps _ _ )
    | with_reducible apply Keeps.after (State.modSpl_keeps _ _ ?_)
    | with_reducible refine Keeps.ite ?_ ?_
    | split
    | extract_lets -merge
    | rintro _ ⟨⟩
    | with_reducible apply Keeps.getD
    | contradiction
    | intro _ _
    | refine Keeps.fst ?_ (by with_reducible assumption)
    | dsimp +zetaDelta only

theorem State.flushProgress_keeps (s : State) : Keeps 0x40000010522 s (State.flushProgress s) := by
  unfold State.flushProgress
  repeat' first
    | exact Eq.refl _
    | exact fun _ => Eq.refl _
    | with_reducible exact Keeps.refl _ _
    | assumption
    | with_reducible apply Keeps.after (State.setTackBytes_keeps _ _ _)
    | with_reducible apply Keeps.after (State.refuseWrite_keeps _)
    | with_reducible refine Keeps.ite ?_ ?_
    | split
    | extract_lets -merge
    | rintro _ ⟨⟩
    | with_reducible apply Keeps.getD
    | contradiction
    | intro _ _
    | refine Keeps.fst ?_ (by with_reducible assumption)
    | dsimp +zetaDelta only

theorem State.sealImage_keeps (s : State) : Keeps 0xc000c030522 s (State.sealImage s) := by
  unfold State.sealImage
  repeat' first
    | exact Eq.refl _
    | exact fun _ => Eq.refl _
    | with_reducible exact Keeps.refl _ _
    | assumption
    | with_reducible apply Keeps.after (State.takeStamp_keeps _)
    | with_reducible apply Keeps.after (State.rotateGroup_keeps _)
    | with_reducible apply Keeps.after (State.allocPage_keeps _ _ _)
    | with_reducible apply Keeps.after (State.issue_keeps _ _ _ _)
    | with_reducible apply Keeps.after (State.dropPage_keeps _ _)
    | with_reducible apply Keeps.after (State.modXlt_keeps _ _ )
    | with_reducible refine Keeps.foldl (fun _ _ => ?_) _ ?_
    | with_reducible refine Keeps.foldlFst (fun _ _ _ => ?_) _ ?_
    | with_reducible refine Keeps.foldlSnd (fun _ _ _ => ?_) _ ?_
    | with_reducible refine Keeps.ite ?_ ?_
    | split
    | extract_lets -merge
    | rintro _ ⟨⟩
    | with_reducible apply Keeps.getD
    | contradiction
    | intro _ _
    | refine Keeps.fst ?_ (by with_reducible assumption)
    | dsimp +zetaDelta only

theorem State.imagePut_keeps (a0 : Image) (s : State) : Keeps 0xc850c030522 s (State.imagePut a0 s) := by
  unfold State.imagePut
  repeat' first
    | exact Eq.refl _
    | exact fun _ => Eq.refl _
    | with_reducible exact Keeps.refl _ _
    | assumption
    | with_reducible apply Keeps.after (State.modXlt_keeps _ _ )
    | with_reducible apply Keeps.after (State.journal_keeps _ _)
    | with_reducible apply Keeps.after (State.dropPage_keeps _ _)
    | with_reducible refine Keeps.foldl (fun _ _ => ?_) _ ?_
    | with_reducible refine Keeps.foldlFst (fun _ _ _ => ?_) _ ?_
    | with_reducible refine Keeps.foldlSnd (fun _ _ _ => ?_) _ ?_
    | with_reducible refine Keeps.ite ?_ ?_
    | split
    | extract_lets -merge
    | rintro _ ⟨⟩
    | with_reducible apply Keeps.getD
    | contradiction
    | intro _ _
    | refine Keeps.fst ?_ (by with_reducible assumption)
    | dsimp +zetaDelta only

theorem State.sealImageDone_keeps (s : State) : Keeps 0xc850c030522 s (State.sealImageDone s) := by
  unfold State.sealImageDone
  repeat' first
    | exact Eq.refl _
    | exact fun _ => Eq.refl _
    | with_reducible exact Keeps.refl _ _
    | assumption
    | with_reducible apply Keeps.after (State.anchorWrite_keeps _)
    | with_reducible apply Keeps.after (State.imagePut_keeps _ _)
    | with_reducible apply Keeps.after (State.modXlt_keeps _ _ )
    | with_reducible refine Keeps.ite ?_ ?_
    | split
    | extract_lets -merge
    | rintro _ ⟨⟩
    | with_reducible apply Keeps.getD
    | contradiction
    | intro _ _
    | refine Keeps.fst ?_ (by with_reducible assumption)
    | dsimp +zetaDelta only

theorem State.asmEnd_keeps (a0 : Assembly → Bool) (s : State) : Keeps 0x6000000 s (State.asmEnd a0 s) := by
  unfold State.asmEnd
  repeat' first
    | exact Eq.refl _
    | exact fun _ => Eq.refl _
    | with_reducible exact Keeps.refl _ _
    | assumption
    | with_reducible apply Keeps.after (State.modXlt_keeps _ _ )
    | with_reducible apply Keeps.after (State.modCache_keeps _ _ )
    | with_reducible refine Keeps.ite ?_ ?_
    | split
    | extract_lets -merge
    | rintro _ ⟨⟩
    | with_reducible apply Keeps.getD
    | contradiction
    | intro _ _
    | refine Keeps.fst ?_ (by with_reducible assumption)
    | dsimp +zetaDelta only

theorem State.flushAdvance_keeps (s : State) : Keeps 0xc852e030522 s (State.flushAdvance s) := by
  unfold State.flushAdvance
  repeat' first
    | exact Eq.refl _
    | exact fun _ => Eq.refl _
    | with_reducible exact Keeps.refl _ _
    | assumption
    | with_reducible apply Keeps.after (State.asmEnd_keeps _ _)
    | with_reducible apply Keeps.after (State.modXlt_keeps _ _ )
    | with_reducible apply Keeps.after (State.flushProgress_keeps _)
    | with_reducible apply Keeps.after (State.modFlush_keeps _ _ )
    | with_reducible apply Keeps.after (State.sealImage_keeps _)
    | with_reducible apply Keeps.after (State.directoryWrite_keeps _)
    | with_reducible apply Keeps.after (State.sealImageDone_keeps _)
    | with_reducible apply Keeps.after (State.journalWrite_keeps _)
    | with_reducible apply Keeps.after (State.bastClose_keeps _ _)
    | with_reducible refine Keeps.foldl (fun _ _ => ?_) _ ?_
    | with_reducible refine Keeps.foldlFst (fun _ _ _ => ?_) _ ?_
    | with_reducible refine Keeps.foldlSnd (fun _ _ _ => ?_) _ ?_
    | with_reducible refine Keeps.ite ?_ ?_
    | split
    | extract_lets -merge
    | rintro _ ⟨⟩
    | with_reducible apply Keeps.getD
    | contradiction
    | intro _ _
    | refine Keeps.fst ?_ (by with_reducible assumption)
    | dsimp +zetaDelta only

theorem State.patchInForce_keeps (a0 : Nat) (s : State) (a2 : DirEntry × Nat) : Keeps 0xca57fe315a2 s (State.patchInForce a0 s a2) := by
  unfold State.patchInForce
  repeat' first
    | exact Eq.refl _
    | exact fun _ => Eq.refl _
    | with_reducible exact Keeps.refl _ _
    | assumption
    | with_reducible apply Keeps.after (State.entryDone_keeps _ _)
    | with_reducible apply Keeps.after (State.stagingDrop_keeps _ _)
    | with_reducible apply Keeps.after (State.throughCommit_keeps _ _)
    | with_reducible apply Keeps.after (State.stage_keeps _ _ _ _)
    | with_reducible apply Keeps.after (State.modCache_keeps _ _ )
    | with_reducible apply Keeps.after (State.fire_keeps _ _)
    | with_reducible apply Keeps.after (State.darnTrigger_keeps _ _ _ _)
    | with_reducible apply Keeps.after (State.mapFlags_keeps _ _ _)
    | with_reducible apply Keeps.after (State.idxInsert_keeps _ _)
    | with_reducible refine Keeps.ite ?_ ?_
    | split
    | extract_lets -merge
    | rintro _ ⟨⟩
    | with_reducible apply Keeps.getD
    | contradiction
    | intro _ _
    | refine Keeps.fst ?_ (by with_reducible assumption)
    | dsimp +zetaDelta only

theorem State.pageInForce_keeps (a0 : Nat) (a1 : List DirEntry) (s : State) : Keeps 0xca57fe315a2 s (State.pageInForce a0 a1 s) := by
  unfold State.pageInForce
  repeat' first
    | exact Eq.refl _
    | exact fun _ => Eq.refl _
    | with_reducible exact Keeps.refl _ _
    | assumption
    | with_reducible apply Keeps.after (State.patchInForce_keeps _ _ _)
    | with_reducible apply Keeps.after (State.swatchLimit_keeps _ _)
    | with_reducible refine Keeps.foldl (fun _ _ => ?_) _ ?_
    | with_reducible refine Keeps.foldlFst (fun _ _ _ => ?_) _ ?_
    | with_reducible refine Keeps.foldlSnd (fun _ _ _ => ?_) _ ?_
    | with_reducible refine Keeps.ite ?_ ?_
    | split
    | extract_lets -merge
    | rintro _ ⟨⟩
    | with_reducible apply Keeps.getD
    | contradiction
    | intro _ _
    | refine Keeps.fst ?_ (by with_reducible assumption)
    | dsimp +zetaDelta only

theorem State.journalRelease_keeps (s : State) : Keeps 0xc000000 s (State.journalRelease s) := by
  unfold State.journalRelease
  repeat' first
    | exact Eq.refl _
    | exact fun _ => Eq.refl _
    | with_reducible exact Keeps.refl _ _
    | assumption
    | with_reducible apply Keeps.after (State.dropPage_keeps _ _)
    | with_reducible apply Keeps.after (State.modXlt_keeps _ _ )
    | with_reducible refine Keeps.foldl (fun _ _ => ?_) _ ?_
    | with_reducible refine Keeps.foldlFst (fun _ _ _ => ?_) _ ?_
    | with_reducible refine Keeps.foldlSnd (fun _ _ _ => ?_) _ ?_
    | with_reducible refine Keeps.ite ?_ ?_
    | split
    | extract_lets -merge
    | rintro _ ⟨⟩
    | with_reducible apply Keeps.getD
    | contradiction
    | intro _ _
    | refine Keeps.fst ?_ (by with_reducible assumption)
    | dsimp +zetaDelta only

theorem State.rosterLeave_keeps (a0 : Nat) (s : State) : Keeps 0xc050c030522 s (State.rosterLeave a0 s) := by
  unfold State.rosterLeave
  repeat' first
    | exact Eq.refl _
    | exact fun _ => Eq.refl _
    | with_reducible exact Keeps.refl _ _
    | assumption
    | with_reducible apply Keeps.after (State.modXlt_keeps _ _ )
    | with_reducible apply Keeps.after (State.setBoltInfo_keeps _ _ _)
    | with_reducible apply Keeps.after (State.fillCheck_keeps _)
    | with_reducible apply Keeps.after (State.journalRelease_keeps _)
    | with_reducible apply Keeps.after (State.frameCheck_keeps _ _)
    | with_reducible apply Keeps.after (State.rosterCheck_keeps _ _)
    | with_reducible refine Keeps.ite ?_ ?_
    | split
    | extract_lets -merge
    | rintro _ ⟨⟩
    | with_reducible apply Keeps.getD
    | contradiction
    | intro _ _
    | refine Keeps.fst ?_ (by with_reducible assumption)
    | dsimp +zetaDelta only

theorem State.darnOver_keeps (a0 : List Nat) (a1 : Nat) (a2 : Bool) (a3 : Nat) (s : State) : Keeps 0x2000000000 s (State.darnOver a0 a1 a2 a3 s) := by
  unfold State.darnOver
  repeat' first
    | exact Eq.refl _
    | exact fun _ => Eq.refl _
    | with_reducible exact Keeps.refl _ _
    | assumption
    | with_reducible apply Keeps.after (State.modSpl_keeps _ _ ?_)
    | with_reducible refine Keeps.ite ?_ ?_
    | split
    | extract_lets -merge
    | rintro _ ⟨⟩
    | with_reducible apply Keeps.getD
    | contradiction
    | intro _ _
    | refine Keeps.fst ?_ (by with_reducible assumption)
    | dsimp +zetaDelta only

theorem State.assemblyBegin_keeps (a0 : DarnPlace) (s : State) : Keeps 0xc204e030522 s (State.assemblyBegin a0 s) := by
  unfold State.assemblyBegin
  repeat' first
    | exact Eq.refl _
    | exact fun _ => Eq.refl _
    | with_reducible exact Keeps.refl _ _
    | assumption
    | with_reducible apply Keeps.after (State.modXlt_keeps _ _ )
    | with_reducible apply Keeps.after (State.darnOver_keeps _ _ _ _ _)
    | with_reducible apply Keeps.after (State.takeStamp_keeps _)
    | with_reducible apply Keeps.after (State.copyOut_keeps _ _)
    | with_reducible apply Keeps.after (State.allocPage_keeps _ _ _)
    | with_reducible apply Keeps.after (State.modCache_keeps _ _ )
    | with_reducible apply Keeps.after (State.issue_keeps _ _ _ _)
    | with_reducible refine Keeps.foldl (fun _ _ => ?_) _ ?_
    | with_reducible refine Keeps.foldlFst (fun _ _ _ => ?_) _ ?_
    | with_reducible refine Keeps.foldlSnd (fun _ _ _ => ?_) _ ?_
    | with_reducible refine Keeps.ite ?_ ?_
    | split
    | extract_lets -merge
    | rintro _ ⟨⟩
    | with_reducible apply Keeps.getD
    | contradiction
    | intro _ _
    | refine Keeps.fst ?_ (by with_reducible assumption)
    | dsimp +zetaDelta only

theorem State.takenDone_keeps (s : State) (a1 : Nat) : Keeps 0x2000000 s (State.takenDone s a1) := by
  unfold State.takenDone
  repeat' first
    | exact Eq.refl _
    | exact fun _ => Eq.refl _
    | with_reducible exact Keeps.refl _ _
    | assumption
    | with_reducible apply Keeps.after (State.setPline_keeps _ _ _ _)
    | with_reducible apply Keeps.after (State.setWay_keeps _ _ _)
    | with_reducible apply Keeps.after (State.stagingDrop_keeps _ _)
    | with_reducible refine Keeps.ite ?_ ?_
    | split
    | extract_lets -merge
    | rintro _ ⟨⟩
    | with_reducible apply Keeps.getD
    | contradiction
    | intro _ _
    | refine Keeps.fst ?_ (by with_reducible assumption)
    | dsimp +zetaDelta only

theorem State.assemblySwitch_keeps (a0 : Assembly) (a1 : Page) (s : State) : Keeps 0xca50e030522 s (State.assemblySwitch a0 a1 s) := by
  unfold State.assemblySwitch
  repeat' first
    | exact Eq.refl _
    | exact fun _ => Eq.refl _
    | with_reducible exact Keeps.refl _ _
    | assumption
    | with_reducible apply Keeps.after (State.mapSwitch_keeps _ _ _ _ _)
    | with_reducible apply Keeps.after (State.idxRemove_keeps _ _)
    | with_reducible apply Keeps.after (State.mapFlags_keeps _ _ _)
    | with_reducible apply Keeps.after (State.takenDone_keeps _ _)
    | with_reducible apply Keeps.after (State.stagingDrop_keeps _ _)
    | with_reducible apply Keeps.after (State.perf_keeps _ _ _ _ _)
    | with_reducible apply Keeps.after (State.count64_keeps _ _ _ _)
    | with_reducible apply Keeps.after (State.dirtyChanged_keeps _)
    | with_reducible apply Keeps.after (State.fillCheck_keeps _)
    | with_reducible apply Keeps.after (State.darnOver_keeps _ _ _ _ _)
    | with_reducible refine Keeps.foldl (fun _ _ => ?_) _ ?_
    | with_reducible refine Keeps.foldlFst (fun _ _ _ => ?_) _ ?_
    | with_reducible refine Keeps.foldlSnd (fun _ _ _ => ?_) _ ?_
    | with_reducible refine Keeps.ite ?_ ?_
    | split
    | extract_lets -merge
    | rintro _ ⟨⟩
    | with_reducible apply Keeps.getD
    | contradiction
    | intro _ _
    | refine Keeps.fst ?_ (by with_reducible assumption)
    | dsimp +zetaDelta only

theorem State.imageStart_keeps (s : State) : Keeps 0x4000000 s (State.imageStart s) := by
  unfold State.imageStart
  repeat' first
    | exact Eq.refl _
    | exact fun _ => Eq.refl _
    | with_reducible exact Keeps.refl _ _
    | assumption
    | with_reducible apply Keeps.after (State.takeStamp_keeps _)
    | with_reducible apply Keeps.after (State.modXlt_keeps _ _ )
    | with_reducible refine Keeps.ite ?_ ?_
    | split
    | extract_lets -merge
    | rintro _ ⟨⟩
    | with_reducible apply Keeps.getD
    | contradiction
    | intro _ _
    | refine Keeps.fst ?_ (by with_reducible assumption)
    | dsimp +zetaDelta only

theorem State.repairRelease_keeps (s : State) : Keeps 0x800000 s (State.repairRelease s) := by
  unfold State.repairRelease
  repeat' first
    | exact Eq.refl _
    | exact fun _ => Eq.refl _
    | with_reducible exact Keeps.refl _ _
    | assumption
    | with_reducible apply Keeps.after (State.putReqs_keeps _ _)
    | with_reducible refine Keeps.ite ?_ ?_
    | split
    | extract_lets -merge
    | rintro _ ⟨⟩
    | with_reducible apply Keeps.getD
    | contradiction
    | intro _ _
    | refine Keeps.fst ?_ (by with_reducible assumption)
    | dsimp +zetaDelta only

theorem State.darnWritten_keeps (a0 : Word) (s : State) : Keeps 0x4000400052a s (State.darnWritten a0 s) := by
  unfold State.darnWritten
  repeat' first
    | exact Eq.refl _
    | exact fun _ => Eq.refl _
    | with_reducible exact Keeps.refl _ _
    | assumption
    | with_reducible apply Keeps.after (State.putHeld_keeps _ _)
    | with_reducible apply Keeps.after (State.setF_keeps _ _ _)
    | with_reducible apply Keeps.after (State.darnTrigger_keeps _ _ _ _)
    | with_reducible apply Keeps.after (State.modXlt_keeps _ _ )
    | with_reducible refine Keeps.ite ?_ ?_
    | split
    | extract_lets -merge
    | rintro _ ⟨⟩
    | with_reducible apply Keeps.getD
    | contradiction
    | intro _ _
    | refine Keeps.fst ?_ (by with_reducible assumption)
    | dsimp +zetaDelta only

theorem State.imagePage_keeps (r : Nat) (copy : Bool) (start : Nat) (t : Tab MapEntry) (a : State × List Nat) (k : Nat) :
    ∀ q, State.imagePage r copy start t a k = some q → Keeps 0xc004c030522 a.1 q.1 := by
  intro q h
  unfold State.imagePage at h
  have h1 := (State.rotateGroup_keeps a.1).mono (n := 0xc004c030522) (Eq.refl _)
  have h2 := (State.allocPage_keeps a.1.rotateGroup.2 18 a.1.rotateGroup.1).mono (n := 0xc004c030522) (Eq.refl _)
  generalize a.1.rotateGroup = x at h h1 h2
  obtain ⟨s1, g⟩ := x
  dsimp only at h h1 h2
  split at h
  · cases h
  · rename_i heq
    cases h
    exact (h1.trans (Keeps.fst h2 heq)).trans ((State.storePage_keeps _ _ _).mono (Eq.refl _))

theorem State.imagePages_keeps (r : Nat) (copy : Bool) (start : Nat) (t : Tab MapEntry) (ks : List Nat) (s : State) :
    ∀ q, State.imagePages r copy start t ks s = some q → Keeps 0xc004c030522 s q.1 := by
  intro q h
  unfold State.imagePages at h
  exact Keeps.foldlBind (fun p k q => State.imagePage_keeps _ _ _ _ p k q) ks (fun p h => by cases h; exact Keeps.refl _ _) q h

theorem State.imageWrite_keeps (r : Nat) (copy : Bool) (start : Nat) (s : State) :
    ∀ q, State.imageWrite r copy start s = some q → Keeps 0xc004c030522 s q.1 := by
  intro q h
  unfold State.imageWrite at h
  generalize List.range (State.imageCount s.order) = l at h
  exact State.imagePages_keeps _ _ _ _ _ _ q h

theorem State.imageFinish_keeps (a0 : List Nat) (s : State) : Keeps 0xc850c030522 s (State.imageFinish a0 s) := by
  unfold State.imageFinish
  repeat' first
    | exact Eq.refl _
    | exact fun _ => Eq.refl _
    | with_reducible exact Keeps.refl _ _
    | assumption
    | with_reducible apply Keeps.after (State.modXlt_keeps _ _ )
    | with_reducible apply Keeps.after (State.journalRelease_keeps _)
    | with_reducible apply Keeps.after (State.anchorWrite_keeps _)
    | with_reducible apply Keeps.after (State.imagePut_keeps _ _)
    | with_reducible apply Keeps.after (State.imageStart_keeps _)
    | with_reducible apply Keeps.after (State.setF_keeps _ _ _)
    | with_reducible apply Keeps.after (State.sealImage_keeps _)
    | with_reducible apply Keeps.after (State.setFlag_keeps _ _ _)
    | with_reducible refine Keeps.ite ?_ ?_
    | split
    | extract_lets -merge
    | rintro _ ⟨⟩
    | with_reducible apply Keeps.getD
    | contradiction
    | intro _ _
    | refine Keeps.fst ?_ (by with_reducible assumption)
    | dsimp +zetaDelta only

theorem State.imageDone_keeps (s : State) : Keeps 0xc854c030522 s (State.imageDone s).1 := by
  have hk := State.imageWrite_keeps s.xlt.region (decide (s.xlt.passNo % 2 = 1)) s.xlt.imgStart s
  unfold State.imageDone
  generalize State.imageWrite s.xlt.region (decide (s.xlt.passNo % 2 = 1)) s.xlt.imgStart s = o at hk ⊢
  cases o with
  | none => exact Keeps.refl _ _
  | some p => exact Keeps.after (State.imageFinish_keeps _ _) (Keeps.mono (hk p rfl) (Eq.refl _)) (Eq.refl _)

end Sys2Proof.Machine
end

