-- ==== Sys2Proof/Laws/KeepsWrite.lean ====
section
/-!
SUPPORT. What the operations of Machine/Write.lean leave unchanged.
-/
namespace Sys2Proof.Machine

theorem State.releaseWaiting_keeps (a0 : Req) (a1 : Line) (s : State) : Keeps 0x4a010e315a2 s (State.releaseWaiting a0 a1 s) := by
  unfold State.releaseWaiting
  repeat' first
    | exact Eq.refl _
    | exact fun _ => Eq.refl _
    | with_reducible exact Keeps.refl _ _
    | assumption
    | with_reducible apply Keeps.after (State.perf_keeps _ _ _ _ _)
    | with_reducible apply Keeps.after (State.egress_keeps _ _ _ _)
    | with_reducible refine Keeps.foldl (fun _ _ => ?_) _ ?_
    | with_reducible refine Keeps.foldlFst (fun _ _ _ => ?_) _ ?_
    | with_reducible refine Keeps.foldlSnd (fun _ _ _ => ?_) _ ?_
    | with_reducible refine Keeps.ite ?_ ?_
    | split
    | extract_lets -merge
    | rintro _ ⟨⟩
    | with_reducible apply Keeps.getD
    | contradiction
    | intro _ _
    | refine Keeps.fst ?_ (by with_reducible assumption)
    | dsimp +zetaDelta only

theorem State.commitWrite_keeps (a0 : Req) (s : State) : Keeps 0xca57fe315a2 s (State.commitWrite a0 s) := by
  unfold State.commitWrite
  repeat' first
    | exact Eq.refl _
    | exact fun _ => Eq.refl _
    | with_reducible exact Keeps.refl _ _
    | assumption
    | with_reducible apply Keeps.after (State.backDone_keeps _ _)
    | with_reducible apply Keeps.after (State.writeDone_keeps _ _)
    | with_reducible apply Keeps.after (State.flushPatches_keeps _ _)
    | with_reducible apply Keeps.after (State.modFlush_keeps _ _ )
    | with_reducible apply Keeps.after (State.storeWrite_keeps _ _ _ _ _ _ (by assumption))
    | with_reducible apply Keeps.after (State.holdWrite_keeps _ _ _)
    | with_reducible apply Keeps.after (State.setReq_keeps _ _)
    | with_reducible refine Keeps.ite ?_ ?_
    | split
    | extract_lets -merge
    | rintro _ ⟨⟩
    | with_reducible apply Keeps.getD
    | contradiction
    | intro _ _
    | refine Keeps.fst ?_ (by with_reducible assumption)
    | dsimp +zetaDelta only

theorem State.latClear_keeps (a0 : Nat) (s : State) : Keeps 0x2 s (State.latClear a0 s) := by
  unfold State.latClear
  repeat' first
    | exact Eq.refl _
    | exact fun _ => Eq.refl _
    | with_reducible exact Keeps.refl _ _
    | assumption
    | with_reducible apply Keeps.after (State.setF_keeps _ _ _)
    | with_reducible refine Keeps.ite ?_ ?_
    | split
    | extract_lets -merge
    | rintro _ ⟨⟩
    | with_reducible apply Keeps.getD
    | contradiction
    | intro _ _
    | refine Keeps.fst ?_ (by with_reducible assumption)
    | dsimp +zetaDelta only

end Sys2Proof.Machine
end

