-- ==== Sys2Proof/Laws/KeepsMedia.lean ====
section
/-!
SUPPORT. What the operations of Machine/Media.lean leave unchanged.
-/
namespace Sys2Proof.Machine

theorem State.copyFrame_keeps (a0 : Frame) (a1 : State → Nat) (a2 : Bool) (s : State) : Keeps 0xc800c030522 s (State.copyFrame a0 a1 a2 s) := by
  unfold State.copyFrame
  repeat' first
    | exact Eq.refl _
    | exact fun _ => Eq.refl _
    | with_reducible exact Keeps.refl _ _
    | assumption
    | with_reducible apply Keeps.after (State.frameReset_keeps _ _)
    | with_reducible apply Keeps.after (State.copyPage_keeps _ _ _ _)
    | with_reducible refine Keeps.foldl (fun _ _ => ?_) _ ?_
    | with_reducible refine Keeps.foldlFst (fun _ _ _ => ?_) _ ?_
    | with_reducible refine Keeps.foldlSnd (fun _ _ _ => ?_) _ ?_
    | with_reducible refine Keeps.ite ?_ ?_
    | split
    | extract_lets -merge
    | rintro _ ⟨⟩
    | with_reducible apply Keeps.getD
    | contradiction
    | intro _ _
    | refine Keeps.fst ?_ (by with_reducible assumption)
    | dsimp +zetaDelta only

theorem State.coldSweep_keeps (a0 : Nat) (s : State) : Keeps 0xc800c030522 s (State.coldSweep a0 s) := by
  unfold State.coldSweep
  repeat' first
    | exact Eq.refl _
    | exact fun _ => Eq.refl _
    | with_reducible exact Keeps.refl _ _
    | assumption
    | with_reducible apply Keeps.after (State.modMed_keeps _ _ )
    | with_reducible apply Keeps.after (State.fire_keeps _ _)
    | with_reducible apply Keeps.after (State.copyFrame_keeps _ _ _ _)
    | with_reducible refine Keeps.ite ?_ ?_
    | split
    | extract_lets -merge
    | rintro _ ⟨⟩
    | with_reducible apply Keeps.getD
    | contradiction
    | intro _ _
    | refine Keeps.fst ?_ (by with_reducible assumption)
    | dsimp +zetaDelta only

theorem State.resetSeen_keeps (a0 : Nat) (a1 : Bool) (s : State) : Keeps 0x2010400000 s (State.resetSeen a0 a1 s) := by
  unfold State.resetSeen
  repeat' first
    | exact Eq.refl _
    | exact fun _ => Eq.refl _
    | with_reducible exact Keeps.refl _ _
    | assumption
    | with_reducible apply Keeps.after (State.modSpl_keeps _ _ ?_)
    | with_reducible apply Keeps.after (State.putCoh_keeps _ _)
    | with_reducible apply Keeps.after (State.putLds_keeps _ _)
    | with_reducible refine Keeps.ite ?_ ?_
    | split
    | extract_lets -merge
    | rintro _ ⟨⟩
    | with_reducible apply Keeps.getD
    | contradiction
    | intro _ _
    | refine Keeps.fst ?_ (by with_reducible assumption)
    | dsimp +zetaDelta only

theorem State.boltErase_keeps (a0 : Nat) (s : State) : Keeps 0x8000000 s (State.boltErase a0 s) := by
  unfold State.boltErase
  repeat' first
    | exact Eq.refl _
    | exact fun _ => Eq.refl _
    | with_reducible exact Keeps.refl _ _
    | assumption
    | with_reducible apply Keeps.after (State.dropPage_keeps _ _)
    | with_reducible apply Keeps.after (State.modMed_keeps _ _ )
    | with_reducible apply Keeps.after (State.setBoltInfo_keeps _ _ _)
    | with_reducible apply Keeps.after (State.setLedger_keeps _ _ _)
    | with_reducible refine Keeps.ite ?_ ?_
    | split
    | extract_lets -merge
    | rintro _ ⟨⟩
    | with_reducible apply Keeps.getD
    | contradiction
    | intro _ _
    | refine Keeps.fst ?_ (by with_reducible assumption)
    | dsimp +zetaDelta only

theorem State.positionLost_keeps (a0 : Nat) (s : State) : Keeps 0xca57fe315a2 s (State.positionLost a0 s) := by
  unfold State.positionLost
  repeat' first
    | exact Eq.refl _
    | exact fun _ => Eq.refl _
    | with_reducible exact Keeps.refl _ _
    | assumption
    | with_reducible apply Keeps.after (State.fireRec_keeps _ _ _ _)
    | with_reducible apply Keeps.after (State.fire_keeps _ _)
    | with_reducible apply Keeps.after (State.setGroupMedia_keeps _ _ _)
    | with_reducible apply Keeps.after (State.setF_keeps _ _ _)
    | with_reducible apply Keeps.after (State.levelUpdate_keeps _ _)
    | with_reducible apply Keeps.after (State.cutFrames_keeps _ _ _)
    | with_reducible refine Keeps.ite ?_ ?_
    | split
    | extract_lets -merge
    | rintro _ ⟨⟩
    | with_reducible apply Keeps.getD
    | contradiction
    | intro _ _
    | refine Keeps.fst ?_ (by with_reducible assumption)
    | dsimp +zetaDelta only

theorem State.rebuildStart_keeps (a0 : Nat) (a1 : Bool) (s : State) : Keeps 0x40008000522 s (State.rebuildStart a0 a1 s) := by
  unfold State.rebuildStart
  repeat' first
    | exact Eq.refl _
    | exact fun _ => Eq.refl _
    | with_reducible exact Keeps.refl _ _
    | assumption
    | with_reducible apply Keeps.after (State.setGroupMedia_keeps _ _ _)
    | with_reducible apply Keeps.after (State.setF_keeps _ _ _)
    | with_reducible apply Keeps.after (State.setFlag_keeps _ _ _)
    | with_reducible apply Keeps.after (State.fire_keeps _ _)
    | with_reducible refine Keeps.ite ?_ ?_
    | split
    | extract_lets -merge
    | rintro _ ⟨⟩
    | with_reducible apply Keeps.getD
    | contradiction
    | intro _ _
    | refine Keeps.fst ?_ (by with_reducible assumption)
    | dsimp +zetaDelta only

theorem State.indicate_keeps (a0 : Nat) (a1 : Nat) (s : State) : Keeps 0x400000002 s (State.indicate a0 a1 s) := by
  unfold State.indicate
  repeat' first
    | exact Eq.refl _
    | exact fun _ => Eq.refl _
    | with_reducible exact Keeps.refl _ _
    | assumption
    | with_reducible apply Keeps.after (State.setF_keeps _ _ _)
    | with_reducible apply Keeps.after (State.setCart_keeps _ _ _)
    | with_reducible refine Keeps.ite ?_ ?_
    | split
    | extract_lets -merge
    | rintro _ ⟨⟩
    | with_reducible apply Keeps.getD
    | contradiction
    | intro _ _
    | refine Keeps.fst ?_ (by with_reducible assumption)
    | dsimp +zetaDelta only

theorem State.indicateCheck_keeps (a0 : Nat) (s : State) : Keeps 0x400000002 s (State.indicateCheck a0 s) := by
  unfold State.indicateCheck
  repeat' first
    | exact Eq.refl _
    | exact fun _ => Eq.refl _
    | with_reducible exact Keeps.refl _ _
    | assumption
    | with_reducible apply Keeps.after (State.indicate_keeps _ _ _)
    | with_reducible refine Keeps.ite ?_ ?_
    | split
    | extract_lets -merge
    | rintro _ ⟨⟩
    | with_reducible apply Keeps.getD
    | contradiction
    | intro _ _
    | refine Keeps.fst ?_ (by with_reducible assumption)
    | dsimp +zetaDelta only

theorem State.removalCheck_keeps (s : State) : Keeps 0x40400000522 s (State.removalCheck s) := by
  unfold State.removalCheck
  repeat' first
    | exact Eq.refl _
    | exact fun _ => Eq.refl _
    | with_reducible exact Keeps.refl _ _
    | assumption
    | with_reducible apply Keeps.after (State.fire_keeps _ _)
    | with_reducible apply Keeps.after (State.indicate_keeps _ _ _)
    | with_reducible apply Keeps.after (State.setF_keeps _ _ _)
    | with_reducible refine Keeps.foldl (fun _ _ => ?_) _ ?_
    | with_reducible refine Keeps.foldlFst (fun _ _ _ => ?_) _ ?_
    | with_reducible refine Keeps.foldlSnd (fun _ _ _ => ?_) _ ?_
    | with_reducible refine Keeps.ite ?_ ?_
    | split
    | extract_lets -merge
    | rintro _ ⟨⟩
    | with_reducible apply Keeps.getD
    | contradiction
    | intro _ _
    | refine Keeps.fst ?_ (by with_reducible assumption)
    | dsimp +zetaDelta only

theorem State.lsaPlace_keeps (a0 : Nat) (a1 : Page) (s : State) : Keeps 0x8400000 s (State.lsaPlace a0 a1 s) := by
  unfold State.lsaPlace
  repeat' first
    | exact Eq.refl _
    | exact fun _ => Eq.refl _
    | with_reducible exact Keeps.refl _ _
    | assumption
    | with_reducible apply Keeps.after (State.dropPage_keeps _ _)
    | with_reducible apply Keeps.after (State.setLd_keeps _ _ _)
    | with_reducible refine Keeps.ite ?_ ?_
    | split
    | extract_lets -merge
    | rintro _ ⟨⟩
    | with_reducible apply Keeps.getD
    | contradiction
    | intro _ _
    | refine Keeps.fst ?_ (by with_reducible assumption)
    | dsimp +zetaDelta only

theorem State.lsaDone_keeps (a0 : Nat) (a1 : Page) (s : State) : Keeps 0x40008400400 s (State.lsaDone a0 a1 s) := by
  unfold State.lsaDone
  repeat' first
    | exact Eq.refl _
    | exact fun _ => Eq.refl _
    | with_reducible exact Keeps.refl _ _
    | assumption
    | with_reducible apply Keeps.after (State.lsaPlace_keeps _ _ _)
    | with_reducible apply Keeps.after (State.setLd_keeps _ _ _)
    | with_reducible apply Keeps.after (State.mbDone_keeps _ _ _ _ _)
    | with_reducible refine Keeps.ite ?_ ?_
    | split
    | extract_lets -merge
    | rintro _ ⟨⟩
    | with_reducible apply Keeps.getD
    | contradiction
    | intro _ _
    | refine Keeps.fst ?_ (by with_reducible assumption)
    | dsimp +zetaDelta only

theorem State.sumPlace_keeps (a0 : Nat) (a1 : Page) (s : State) : Keeps 0x8000000 s (State.sumPlace a0 a1 s) := by
  unfold State.sumPlace
  repeat' first
    | exact Eq.refl _
    | exact fun _ => Eq.refl _
    | with_reducible exact Keeps.refl _ _
    | assumption
    | with_reducible apply Keeps.after (State.dropPage_keeps _ _)
    | with_reducible apply Keeps.after (State.modMed_keeps _ _ )
    | with_reducible refine Keeps.ite ?_ ?_
    | split
    | extract_lets -merge
    | rintro _ ⟨⟩
    | with_reducible apply Keeps.getD
    | contradiction
    | intro _ _
    | refine Keeps.fst ?_ (by with_reducible assumption)
    | dsimp +zetaDelta only

theorem State.dirPlace_keeps (a0 : Nat) (s : State) : Keeps 0xc000000 s (State.dirPlace a0 s) := by
  unfold State.dirPlace
  repeat' first
    | exact Eq.refl _
    | exact fun _ => Eq.refl _
    | with_reducible exact Keeps.refl _ _
    | assumption
    | with_reducible apply Keeps.after (State.dropPage_keeps _ _)
    | with_reducible apply Keeps.after (State.modXlt_keeps _ _ )
    | with_reducible refine Keeps.ite ?_ ?_
    | split
    | extract_lets -merge
    | rintro _ ⟨⟩
    | with_reducible apply Keeps.getD
    | contradiction
    | intro _ _
    | refine Keeps.fst ?_ (by with_reducible assumption)
    | dsimp +zetaDelta only

theorem State.rebuildOne_keeps (n : Nat) (sip : Bool) (b : Nat) (s : State) : ∀ t, State.rebuildOne n sip b s = some t → Keeps 0xc0008030522 s t := by
  intro t h
  obtain ⟨y, _, rfl⟩ := Option.map_eq_some_iff.mp h
  exact State.moveBolt_keeps _ _ _ _ _ _

theorem State.rebuildAll_keeps (a0 : Nat) (a1 : Nat) (a2 : Bool) (s : State) : Keeps 0xc0008030522 s (State.rebuildAll a0 a1 a2 s).1 := by
  unfold State.rebuildAll
  repeat' first
    | exact Eq.refl _
    | exact fun _ => Eq.refl _
    | with_reducible exact Keeps.refl _ _
    | assumption
    | with_reducible apply Keeps.after (State.rebuildOne_keeps _ _ _ _ _ (by assumption))
    | with_reducible refine Keeps.foldl (fun _ _ => ?_) _ ?_
    | with_reducible refine Keeps.foldlFst (fun _ _ _ => ?_) _ ?_
    | with_reducible refine Keeps.foldlSnd (fun _ _ _ => ?_) _ ?_
    | with_reducible refine Keeps.ite ?_ ?_
    | split
    | extract_lets -merge
    | rintro _ ⟨⟩
    | with_reducible apply Keeps.getD
    | contradiction
    | intro _ _
    | refine Keeps.fst ?_ (by with_reducible assumption)
    | dsimp +zetaDelta only

end Sys2Proof.Machine
end

