-- ==== Sys2Proof/Laws/KeepsCache.lean ====
section
/-!
SUPPORT. What the operations of Machine/Cache.lean leave unchanged.
-/
namespace Sys2Proof.Machine

theorem State.commitLine_keeps (a0 : Nat) (s : State) : Keeps 0xca57fe315a2 s (State.commitLine a0 s) := by
  unfold State.commitLine
  repeat' first
    | exact Eq.refl _
    | exact fun _ => Eq.refl _
    | with_reducible exact Keeps.refl _ _
    | assumption
    | with_reducible apply Keeps.after (State.commitWrite_keeps _ _)
    | with_reducible refine Keeps.foldl (fun _ _ => ?_) _ ?_
    | with_reducible refine Keeps.foldlFst (fun _ _ _ => ?_) _ ?_
    | with_reducible refine Keeps.foldlSnd (fun _ _ _ => ?_) _ ?_
    | with_reducible refine Keeps.ite ?_ ?_
    | split
    | extract_lets -merge
    | rintro _ ⟨⟩
    | with_reducible apply Keeps.getD
    | contradiction
    | intro _ _
    | refine Keeps.fst ?_ (by with_reducible assumption)
    | dsimp +zetaDelta only

theorem State.discardClean_keeps (a0 : List Nat) (s : State) : Keeps 0x2000000 s (State.discardClean a0 s) := by
  unfold State.discardClean
  repeat' first
    | exact Eq.refl _
    | exact fun _ => Eq.refl _
    | with_reducible exact Keeps.refl _ _
    | assumption
    | with_reducible apply Keeps.after (State.discardCached_keeps _ _)
    | with_reducible refine Keeps.foldl (fun _ _ => ?_) _ ?_
    | with_reducible refine Keeps.foldlFst (fun _ _ _ => ?_) _ ?_
    | with_reducible refine Keeps.foldlSnd (fun _ _ _ => ?_) _ ?_
    | with_reducible refine Keeps.ite ?_ ?_
    | split
    | extract_lets -merge
    | rintro _ ⟨⟩
    | with_reducible apply Keeps.getD
    | contradiction
    | intro _ _
    | refine Keeps.fst ?_ (by with_reducible assumption)
    | dsimp +zetaDelta only

theorem State.lockWay_keeps (a0 : Nat) (s : State) : Keeps 0x2000000 s (State.lockWay a0 s).1 := by
  unfold State.lockWay
  repeat' first
    | exact Eq.refl _
    | exact fun _ => Eq.refl _
    | with_reducible exact Keeps.refl _ _
    | assumption
    | with_reducible apply Keeps.after (State.setWay_keeps _ _ _)
    | with_reducible refine Keeps.ite ?_ ?_
    | split
    | extract_lets -merge
    | rintro _ ⟨⟩
    | with_reducible apply Keeps.getD
    | contradiction
    | intro _ _
    | refine Keeps.fst ?_ (by with_reducible assumption)
    | dsimp +zetaDelta only

theorem State.lockEntry_keeps (a0 : Nat) (s : State) : Keeps 0x2000000 s (State.lockEntry a0 s).1 := by
  unfold State.lockEntry
  repeat' first
    | exact Eq.refl _
    | exact fun _ => Eq.refl _
    | with_reducible exact Keeps.refl _ _
    | assumption
    | with_reducible apply Keeps.after (State.setPent_keeps _ _ _)
    | with_reducible refine Keeps.ite ?_ ?_
    | split
    | extract_lets -merge
    | rintro _ ⟨⟩
    | with_reducible apply Keeps.getD
    | contradiction
    | intro _ _
    | refine Keeps.fst ?_ (by with_reducible assumption)
    | dsimp +zetaDelta only

theorem State.freeWay_keeps (a0 : Nat) (s : State) : Keeps 0x2000000 s (State.freeWay a0 s) := by
  unfold State.freeWay
  repeat' first
    | exact Eq.refl _
    | exact fun _ => Eq.refl _
    | with_reducible exact Keeps.refl _ _
    | assumption
    | with_reducible apply Keeps.after (State.setWay_keeps _ _ _)
    | with_reducible refine Keeps.ite ?_ ?_
    | split
    | extract_lets -merge
    | rintro _ ⟨⟩
    | with_reducible apply Keeps.getD
    | contradiction
    | intro _ _
    | refine Keeps.fst ?_ (by with_reducible assumption)
    | dsimp +zetaDelta only

theorem State.unlockLine_keeps (a0 : Nat) (s : State) : Keeps 0x2000000 s (State.unlockLine a0 s).1 := by
  unfold State.unlockLine
  repeat' first
    | exact Eq.refl _
    | exact fun _ => Eq.refl _
    | with_reducible exact Keeps.refl _ _
    | assumption
    | with_reducible apply Keeps.after (State.freeWay_keeps _ _)
    | with_reducible refine Keeps.ite ?_ ?_
    | split
    | extract_lets -merge
    | rintro _ ⟨⟩
    | with_reducible apply Keeps.getD
    | contradiction
    | intro _ _
    | refine Keeps.fst ?_ (by with_reducible assumption)
    | dsimp +zetaDelta only

theorem State.lockHeld_keeps (a0 : Nat) (s : State) : Keeps 0x2000000 s (State.lockHeld a0 s).1 := by
  unfold State.lockHeld
  repeat' first
    | exact Eq.refl _
    | exact fun _ => Eq.refl _
    | with_reducible exact Keeps.refl _ _
    | assumption
    | with_reducible apply Keeps.after (State.lockWay_keeps _ _)
    | with_reducible refine Keeps.ite ?_ ?_
    | split
    | extract_lets -merge
    | rintro _ ⟨⟩
    | with_reducible apply Keeps.getD
    | contradiction
    | intro _ _
    | refine Keeps.fst ?_ (by with_reducible assumption)
    | dsimp +zetaDelta only

theorem State.fetchLock_keeps (a0 : Nat) (a1 : Option Nat) (a2 : Bool) (s : State) : Keeps 0xc804f0305a2 s (State.fetchLock a0 a1 a2 s).1 := by
  unfold State.fetchLock
  repeat' first
    | exact Eq.refl _
    | exact fun _ => Eq.refl _
    | with_reducible exact Keeps.refl _ _
    | assumption
    | with_reducible apply Keeps.after (State.lockHeld_keeps _ _)
    | with_reducible apply Keeps.after (State.touchWay_keeps _ _ _)
    | with_reducible apply Keeps.after (State.readLine_keeps _ _ _ _ _)
    | with_reducible apply Keeps.after (State.install_keeps _ _ _ _ _ _ (by assumption))
    | with_reducible apply Keeps.after (State.dirtyChanged_keeps _)
    | with_reducible refine Keeps.ite ?_ ?_
    | split
    | extract_lets -merge
    | rintro _ ⟨⟩
    | with_reducible apply Keeps.getD
    | contradiction
    | intro _ _
    | refine Keeps.fst ?_ (by with_reducible assumption)
    | dsimp +zetaDelta only

theorem State.opEnd_keeps (a0 : Bool) (a1 : Nat) (s : State) : Keeps 0x2 s (State.opEnd a0 a1 s) := by
  unfold State.opEnd
  repeat' first
    | exact Eq.refl _
    | exact fun _ => Eq.refl _
    | with_reducible exact Keeps.refl _ _
    | assumption
    | with_reducible apply Keeps.after (State.setF_keeps _ _ _)
    | with_reducible refine Keeps.ite ?_ ?_
    | split
    | extract_lets -merge
    | rintro _ ⟨⟩
    | with_reducible apply Keeps.getD
    | contradiction
    | intro _ _
    | refine Keeps.fst ?_ (by with_reducible assumption)
    | dsimp +zetaDelta only

theorem State.setOpNow_keeps (a0 : Bool) (a1 : Option CacheOp) (s : State) : Keeps 0x2000000 s (State.setOpNow a0 a1 s) := by
  unfold State.setOpNow
  repeat' first
    | exact Eq.refl _
    | exact fun _ => Eq.refl _
    | with_reducible exact Keeps.refl _ _
    | assumption
    | with_reducible apply Keeps.after (State.modCache_keeps _ _ )
    | with_reducible refine Keeps.ite ?_ ?_
    | split
    | extract_lets -merge
    | rintro _ ⟨⟩
    | with_reducible apply Keeps.getD
    | contradiction
    | intro _ _
    | refine Keeps.fst ?_ (by with_reducible assumption)
    | dsimp +zetaDelta only

theorem State.opLine_keeps (a0 : CacheOp) (a1 : Nat) (s : State) : Keeps 0xca57fe315a2 s (State.opLine a0 a1 s).1 := by
  unfold State.opLine
  repeat' first
    | exact Eq.refl _
    | exact fun _ => Eq.refl _
    | with_reducible exact Keeps.refl _ _
    | assumption
    | with_reducible apply Keeps.after (State.commitLine_keeps _ _)
    | with_reducible apply Keeps.after (State.discardCached_keeps _ _)
    | with_reducible apply Keeps.after (State.release_keeps _ _)
    | with_reducible refine Keeps.ite ?_ ?_
    | split
    | extract_lets -merge
    | rintro _ ⟨⟩
    | with_reducible apply Keeps.getD
    | contradiction
    | intro _ _
    | refine Keeps.fst ?_ (by with_reducible assumption)
    | dsimp +zetaDelta only

theorem State.freeEntry_keeps (a0 : Nat) (s : State) : Keeps 0x2000000 s (State.freeEntry a0 s) := by
  unfold State.freeEntry
  repeat' first
    | exact Eq.refl _
    | exact fun _ => Eq.refl _
    | with_reducible exact Keeps.refl _ _
    | assumption
    | with_reducible apply Keeps.after (State.setPent_keeps _ _ _)
    | with_reducible refine Keeps.ite ?_ ?_
    | split
    | extract_lets -merge
    | rintro _ ⟨⟩
    | with_reducible apply Keeps.getD
    | contradiction
    | intro _ _
    | refine Keeps.fst ?_ (by with_reducible assumption)
    | dsimp +zetaDelta only

theorem State.opLock_keeps (a0 : Nat) (s : State) : Keeps 0xc804f0305a2 s (State.opLock a0 s) := by
  unfold State.opLock
  repeat' first
    | exact Eq.refl _
    | exact fun _ => Eq.refl _
    | with_reducible exact Keeps.refl _ _
    | assumption
    | with_reducible apply Keeps.after (State.fetchLock_keeps _ _ _ _)
    | with_reducible apply Keeps.after (State.opEnd_keeps _ _ _)
    | with_reducible apply Keeps.after (State.setOpNow_keeps _ _ _)
    | with_reducible apply Keeps.after (State.fire_keeps _ _)
    | with_reducible refine Keeps.ite ?_ ?_
    | split
    | extract_lets -merge
    | rintro _ ⟨⟩
    | with_reducible apply Keeps.getD
    | contradiction
    | intro _ _
    | refine Keeps.fst ?_ (by with_reducible assumption)
    | dsimp +zetaDelta only

theorem State.opFinish_keeps (a0 : Bool) (s : State) : Keeps 0xca57fe315a2 s (State.opFinish a0 s) := by
  unfold State.opFinish
  repeat' first
    | exact Eq.refl _
    | exact fun _ => Eq.refl _
    | with_reducible exact Keeps.refl _ _
    | assumption
    | with_reducible apply Keeps.after (State.opLock_keeps _ _)
    | with_reducible apply Keeps.after (State.opLine_keeps _ _ _)
    | with_reducible apply Keeps.after (State.setOpNow_keeps _ _ _)
    | with_reducible apply Keeps.after (State.discardClean_keeps _ _)
    | with_reducible apply Keeps.after (State.dirtyChanged_keeps _)
    | with_reducible apply Keeps.after (State.opEnd_keeps _ _ _)
    | with_reducible apply Keeps.after (State.freeEntry_keeps _ _)
    | with_reducible refine Keeps.foldl (fun _ _ => ?_) _ ?_
    | with_reducible refine Keeps.foldlFst (fun _ _ _ => ?_) _ ?_
    | with_reducible refine Keeps.foldlSnd (fun _ _ _ => ?_) _ ?_
    | with_reducible refine Keeps.ite ?_ ?_
    | split
    | extract_lets -merge
    | rintro _ ⟨⟩
    | with_reducible apply Keeps.getD
    | contradiction
    | intro _ _
    | refine Keeps.fst ?_ (by with_reducible assumption)
    | dsimp +zetaDelta only

theorem State.opStart_keeps (a0 : Bool) (a1 : Nat) (a2 : List Nat) (a3 : Option Nat) (s : State) : Keeps 0xca57fe315a2 s (State.opStart a0 a1 a2 a3 s) := by
  unfold State.opStart
  repeat' first
    | exact Eq.refl _
    | exact fun _ => Eq.refl _
    | with_reducible exact Keeps.refl _ _
    | assumption
    | with_reducible apply Keeps.after (State.opFinish_keeps _ _)
    | with_reducible apply Keeps.after (State.setOpNow_keeps _ _ _)
    | with_reducible refine Keeps.ite ?_ ?_
    | split
    | extract_lets -merge
    | rintro _ ⟨⟩
    | with_reducible apply Keeps.getD
    | contradiction
    | intro _ _
    | refine Keeps.fst ?_ (by with_reducible assumption)
    | dsimp +zetaDelta only

theorem State.wayState_keeps (a0 : Nat) (s : State) : Keeps 0x2 s (State.wayState a0 s) := by
  unfold State.wayState
  repeat' first
    | exact Eq.refl _
    | exact fun _ => Eq.refl _
    | with_reducible exact Keeps.refl _ _
    | assumption
    | with_reducible apply Keeps.after (State.setReg_keeps _ _ _)
    | with_reducible refine Keeps.ite ?_ ?_
    | split
    | extract_lets -merge
    | rintro _ ⟨⟩
    | with_reducible apply Keeps.getD
    | contradiction
    | intro _ _
    | refine Keeps.fst ?_ (by with_reducible assumption)
    | dsimp +zetaDelta only

theorem State.lockEnd_keeps (a0 : Bool) (a1 : Bool) (s : State) : Keeps 0x40000000522 s (State.lockEnd a0 a1 s) := by
  unfold State.lockEnd
  repeat' first
    | exact Eq.refl _
    | exact fun _ => Eq.refl _
    | with_reducible exact Keeps.refl _ _
    | assumption
    | with_reducible apply Keeps.after (State.opEnd_keeps _ _ _)
    | with_reducible apply Keeps.after (State.fire_keeps _ _)
    | with_reducible refine Keeps.ite ?_ ?_
    | split
    | extract_lets -merge
    | rintro _ ⟨⟩
    | with_reducible apply Keeps.getD
    | contradiction
    | intro _ _
    | refine Keeps.fst ?_ (by with_reducible assumption)
    | dsimp +zetaDelta only

theorem State.linOperate_keeps (a0 : Nat) (a1 : Nat) (a2 : Bool) (s : State) : Keeps 0xca57fe315a2 s (State.linOperate a0 a1 a2 s) := by
  unfold State.linOperate
  repeat' first
    | exact Eq.refl _
    | exact fun _ => Eq.refl _
    | with_reducible exact Keeps.refl _ _
    | assumption
    | with_reducible apply Keeps.after (State.setF_keeps _ _ _)
    | with_reducible apply Keeps.after (State.opEnd_keeps _ _ _)
    | with_reducible apply Keeps.after (State.opStart_keeps _ _ _ _ _)
    | with_reducible apply Keeps.after (State.lockEnd_keeps _ _ _)
    | with_reducible apply Keeps.after (State.lockWay_keeps _ _)
    | with_reducible apply Keeps.after (State.freeWay_keeps _ _)
    | with_reducible apply Keeps.after (State.unlockLine_keeps _ _)
    | with_reducible apply Keeps.after (State.wayState_keeps _ _)
    | with_reducible apply Keeps.after (State.setReg_keeps _ _ _)
    | with_reducible refine Keeps.ite ?_ ?_
    | split
    | extract_lets -merge
    | rintro _ ⟨⟩
    | with_reducible apply Keeps.getD
    | contradiction
    | intro _ _
    | refine Keeps.fst ?_ (by with_reducible assumption)
    | dsimp +zetaDelta only

theorem State.pcuOperate_keeps (a0 : Nat) (a1 : Nat) (a2 : Nat) (s : State) : Keeps 0xca57fe315a2 s (State.pcuOperate a0 a1 a2 s) := by
  unfold State.pcuOperate
  repeat' first
    | exact Eq.refl _
    | exact fun _ => Eq.refl _
    | with_reducible exact Keeps.refl _ _
    | assumption
    | with_reducible apply Keeps.after (State.setF_keeps _ _ _)
    | with_reducible apply Keeps.after (State.opEnd_keeps _ _ _)
    | with_reducible apply Keeps.after (State.opStart_keeps _ _ _ _ _)
    | with_reducible apply Keeps.after (State.lockEnd_keeps _ _ _)
    | with_reducible apply Keeps.after (State.lockEntry_keeps _ _)
    | with_reducible apply Keeps.after (State.setPent_keeps _ _ _)
    | with_reducible refine Keeps.ite ?_ ?_
    | split
    | extract_lets -merge
    | rintro _ ⟨⟩
    | with_reducible apply Keeps.getD
    | contradiction
    | intro _ _
    | refine Keeps.fst ?_ (by with_reducible assumption)
    | dsimp +zetaDelta only

theorem State.victimLeave_keeps (a0 : Nat) (a1 : Nat) (s : State) : ∀ t, State.victimLeave a0 a1 s = some t → Keeps 0x4804f030522 s t := by
  unfold State.victimLeave
  repeat' first
    | exact Eq.refl _
    | exact fun _ => Eq.refl _
    | with_reducible exact Keeps.refl _ _
    | assumption
    | with_reducible apply Keeps.after (State.copyOut_keeps _ _)
    | with_reducible apply Keeps.after (State.stage_keeps _ _ _ _)
    | with_reducible apply Keeps.after (State.setPent_keeps _ _ _)
    | with_reducible refine Keeps.foldl (fun _ _ => ?_) _ ?_
    | with_reducible refine Keeps.foldlFst (fun _ _ _ => ?_) _ ?_
    | with_reducible refine Keeps.foldlSnd (fun _ _ _ => ?_) _ ?_
    | with_reducible refine Keeps.ite ?_ ?_
    | split
    | extract_lets -merge
    | rintro _ ⟨⟩
    | with_reducible apply Keeps.getD
    | contradiction
    | intro _ _
    | refine Keeps.fst ?_ (by with_reducible assumption)
    | dsimp +zetaDelta only

theorem State.pinLine_keeps (a0 : Nat) (a1 : Option Nat) (s : State) (a3 : Nat) : Keeps 0xc804f0305a2 s (State.pinLine a0 a1 s a3) := by
  unfold State.pinLine
  repeat' first
    | exact Eq.refl _
    | exact fun _ => Eq.refl _
    | with_reducible exact Keeps.refl _ _
    | assumption
    | with_reducible apply Keeps.after (State.injCached_keeps _ _)
    | with_reducible apply Keeps.after (State.lineError_keeps _ _)
    | with_reducible apply Keeps.after (State.setPline_keeps _ _ _ _)
    | with_reducible apply Keeps.after (State.dropWay_keeps _ _)
    | with_reducible apply Keeps.after (State.readLine_keeps _ _ _ _ _)
    | with_reducible refine Keeps.ite ?_ ?_
    | split
    | extract_lets -merge
    | rintro _ ⟨⟩
    | with_reducible apply Keeps.getD
    | contradiction
    | intro _ _
    | refine Keeps.fst ?_ (by with_reducible assumption)
    | dsimp +zetaDelta only

theorem State.pinSlice_keeps (a0 : Nat) (a1 : Nat) (s : State) : Keeps 0xc804f0305a2 s (State.pinSlice a0 a1 s) := by
  unfold State.pinSlice
  repeat' first
    | exact Eq.refl _
    | exact fun _ => Eq.refl _
    | with_reducible exact Keeps.refl _ _
    | assumption
    | with_reducible apply Keeps.after (State.victimLeave_keeps _ _ _ _ (by assumption))
    | with_reducible apply Keeps.after (State.stagingSlice_keeps _ _)
    | with_reducible apply Keeps.after (State.pinLine_keeps _ _ _ _)
    | with_reducible apply Keeps.after (State.setPent_keeps _ _ _)
    | with_reducible refine Keeps.foldl (fun _ _ => ?_) _ ?_
    | with_reducible refine Keeps.foldlFst (fun _ _ _ => ?_) _ ?_
    | with_reducible refine Keeps.foldlSnd (fun _ _ _ => ?_) _ ?_
    | with_reducible refine Keeps.ite ?_ ?_
    | split
    | extract_lets -merge
    | rintro _ ⟨⟩
    | with_reducible apply Keeps.getD
    | contradiction
    | intro _ _
    | refine Keeps.fst ?_ (by with_reducible assumption)
    | dsimp +zetaDelta only

theorem State.disableDone_keeps (a0 : Bool) (s : State) : Keeps 0x40002000522 s (State.disableDone a0 s) := by
  unfold State.disableDone
  repeat' first
    | exact Eq.refl _
    | exact fun _ => Eq.refl _
    | with_reducible exact Keeps.refl _ _
    | assumption
    | with_reducible apply Keeps.after (State.fire_keeps _ _)
    | with_reducible apply Keeps.after (State.setF_keeps _ _ _)
    | with_reducible apply Keeps.after (State.modCache_keeps _ _ )
    | with_reducible refine Keeps.ite ?_ ?_
    | split
    | extract_lets -merge
    | rintro _ ⟨⟩
    | with_reducible apply Keeps.getD
    | contradiction
    | intro _ _
    | refine Keeps.fst ?_ (by with_reducible assumption)
    | dsimp +zetaDelta only

theorem State.cacheSeam_keeps (a0 : Bool) (s : State) : Keeps 0x40002000522 s (State.cacheSeam a0 s) := by
  unfold State.cacheSeam
  repeat' first
    | exact Eq.refl _
    | exact fun _ => Eq.refl _
    | with_reducible exact Keeps.refl _ _
    | assumption
    | with_reducible apply Keeps.after (State.setF_keeps _ _ _)
    | with_reducible apply Keeps.after (State.modCache_keeps _ _ )
    | with_reducible apply Keeps.after (State.disableDone_keeps _ _)
    | with_reducible refine Keeps.ite ?_ ?_
    | split
    | extract_lets -merge
    | rintro _ ⟨⟩
    | with_reducible apply Keeps.getD
    | contradiction
    | intro _ _
    | refine Keeps.fst ?_ (by with_reducible assumption)
    | dsimp +zetaDelta only

theorem State.linCmd_keeps (a0 : Nat) (a1 : Nat) (a2 : Bool) (s : State) : Keeps 0xca57fe315a2 s (State.linCmd a0 a1 a2 s) := by
  unfold State.linCmd
  repeat' first
    | exact Eq.refl _
    | exact fun _ => Eq.refl _
    | with_reducible exact Keeps.refl _ _
    | assumption
    | with_reducible apply State.regAction_keeps
    | with_reducible intro _
    | with_reducible apply Keeps.after (State.linOperate_keeps _ _ _ _)
    | with_reducible refine Keeps.ite ?_ ?_
    | split
    | extract_lets -merge
    | rintro _ ⟨⟩
    | with_reducible apply Keeps.getD
    | contradiction
    | intro _ _
    | refine Keeps.fst ?_ (by with_reducible assumption)
    | dsimp +zetaDelta only

theorem State.pcuCmd_keeps (a0 : Nat) (a1 : Nat) (a2 : Nat) (s : State) : Keeps 0xca57fe315a2 s (State.pcuCmd a0 a1 a2 s) := by
  unfold State.pcuCmd
  repeat' first
    | exact Eq.refl _
    | exact fun _ => Eq.refl _
    | with_reducible exact Keeps.refl _ _
    | assumption
    | with_reducible apply State.regAction_keeps
    | with_reducible intro _
    | with_reducible apply Keeps.after (State.pcuOperate_keeps _ _ _ _)
    | with_reducible refine Keeps.ite ?_ ?_
    | split
    | extract_lets -merge
    | rintro _ ⟨⟩
    | with_reducible apply Keeps.getD
    | contradiction
    | intro _ _
    | refine Keeps.fst ?_ (by with_reducible assumption)
    | dsimp +zetaDelta only

end Sys2Proof.Machine
end

