-- ==== Sys2Proof/Laws/KeepsCoherence.lean ====
section
/-!
SUPPORT. What the operations of Machine/Coherence.lean leave unchanged.
-/
namespace Sys2Proof.Machine

theorem State.suspectClear_keeps (a0 : Nat) (s : State) : Keeps 0x10000002 s (State.suspectClear a0 s) := by
  unfold State.suspectClear
  repeat' first
    | exact Eq.refl _
    | exact fun _ => Eq.refl _
    | with_reducible exact Keeps.refl _ _
    | assumption
    | with_reducible apply Keeps.after (State.setF_keeps _ _ _)
    | with_reducible apply Keeps.after (State.modCoh_keeps _ _ )
    | with_reducible refine Keeps.ite ?_ ?_
    | split
    | extract_lets -merge
    | rintro _ ⟨⟩
    | with_reducible apply Keeps.getD
    | contradiction
    | intro _ _
    | refine Keeps.fst ?_ (by with_reducible assumption)
    | dsimp +zetaDelta only

theorem State.conflictRoom_keeps (a0 : Nat) (s : State) : Keeps 0x10a00000 s (State.conflictRoom a0 s) := by
  unfold State.conflictRoom
  repeat' first
    | exact Eq.refl _
    | exact fun _ => Eq.refl _
    | with_reducible exact Keeps.refl _ _
    | assumption
    | with_reducible apply Keeps.after (State.admitWaiting_keeps _)
    | with_reducible apply Keeps.after (State.modCoh_keeps _ _ )
    | with_reducible refine Keeps.ite ?_ ?_
    | split
    | extract_lets -merge
    | rintro _ ⟨⟩
    | with_reducible apply Keeps.getD
    | contradiction
    | intro _ _
    | refine Keeps.fst ?_ (by with_reducible assumption)
    | dsimp +zetaDelta only

end Sys2Proof.Machine
end

