-- ==== Sys2Proof/Laws/KeepsSupervisor.lean ====
section
/-!
SUPPORT. What the operations of Machine/Supervisor.lean leave unchanged.
-/
namespace Sys2Proof.Machine

theorem State.setBitF_keeps (a0 : Fld) (a1 : Nat) (a2 : Bool) (s : State) : Keeps 0x2 s (State.setBitF a0 a1 a2 s) := by
  unfold State.setBitF
  repeat' first
    | exact Eq.refl _
    | exact fun _ => Eq.refl _
    | with_reducible exact Keeps.refl _ _
    | assumption
    | with_reducible apply Keeps.after (State.setF_keeps _ _ _)
    | with_reducible refine Keeps.ite ?_ ?_
    | split
    | extract_lets -merge
    | rintro _ ⟨⟩
    | with_reducible apply Keeps.getD
    | contradiction
    | intro _ _
    | refine Keeps.fst ?_ (by with_reducible assumption)
    | dsimp +zetaDelta only

theorem State.pgSet_keeps (a0 : Nat) (a1 : Bool) (s : State) : Keeps 0x12002 s (State.pgSet a0 a1 s) := by
  unfold State.pgSet
  repeat' first
    | exact Eq.refl _
    | exact fun _ => Eq.refl _
    | with_reducible exact Keeps.refl _ _
    | assumption
    | with_reducible apply Keeps.after (State.setBitF_keeps _ _ _ _)
    | with_reducible apply Keeps.after (State.modSeq_keeps _ _ )
    | with_reducible apply Keeps.after (State.setFlag_keeps _ _ _)
    | with_reducible apply Keeps.after (State.keepResume_keeps _)
    | with_reducible refine Keeps.ite ?_ ?_
    | split
    | extract_lets -merge
    | rintro _ ⟨⟩
    | with_reducible apply Keeps.getD
    | contradiction
    | intro _ _
    | refine Keeps.fst ?_ (by with_reducible assumption)
    | dsimp +zetaDelta only

theorem State.railOn_keeps (a0 : Nat) (s : State) : Keeps 0x2002 s (State.railOn a0 s) := by
  unfold State.railOn
  repeat' first
    | exact Eq.refl _
    | exact fun _ => Eq.refl _
    | with_reducible exact Keeps.refl _ _
    | assumption
    | with_reducible apply Keeps.after (State.setBitF_keeps _ _ _ _)
    | with_reducible apply Keeps.after (State.modSeq_keeps _ _ )
    | with_reducible apply Keeps.after (State.setF_keeps _ _ _)
    | with_reducible refine Keeps.ite ?_ ?_
    | split
    | extract_lets -merge
    | rintro _ ⟨⟩
    | with_reducible apply Keeps.getD
    | contradiction
    | intro _ _
    | refine Keeps.fst ?_ (by with_reducible assumption)
    | dsimp +zetaDelta only

theorem State.railOff_keeps (a0 : Nat) (s : State) : Keeps 0x12002 s (State.railOff a0 s) := by
  unfold State.railOff
  repeat' first
    | exact Eq.refl _
    | exact fun _ => Eq.refl _
    | with_reducible exact Keeps.refl _ _
    | assumption
    | with_reducible apply Keeps.after (State.modSeq_keeps _ _ )
    | with_reducible apply Keeps.after (State.setBitF_keeps _ _ _ _)
    | with_reducible apply Keeps.after (State.setF_keeps _ _ _)
    | with_reducible apply Keeps.after (State.pgSet_keeps _ _ _)
    | with_reducible refine Keeps.ite ?_ ?_
    | split
    | extract_lets -merge
    | rintro _ ⟨⟩
    | with_reducible apply Keeps.getD
    | contradiction
    | intro _ _
    | refine Keeps.fst ?_ (by with_reducible assumption)
    | dsimp +zetaDelta only

theorem State.seqState_keeps (a0 : SeqState) (s : State) : Keeps 0x2002 s (State.seqState a0 s) := by
  unfold State.seqState
  repeat' first
    | exact Eq.refl _
    | exact fun _ => Eq.refl _
    | with_reducible exact Keeps.refl _ _
    | assumption
    | with_reducible apply Keeps.after (State.setF_keeps _ _ _)
    | with_reducible apply Keeps.after (State.modSeq_keeps _ _ )
    | with_reducible refine Keeps.ite ?_ ?_
    | split
    | extract_lets -merge
    | rintro _ ⟨⟩
    | with_reducible apply Keeps.getD
    | contradiction
    | intro _ _
    | refine Keeps.fst ?_ (by with_reducible assumption)
    | dsimp +zetaDelta only

theorem State.holdOn_keeps (a0 : Option Nat) (s : State) : Keeps 0x40000002522 s (State.holdOn a0 s) := by
  unfold State.holdOn
  repeat' first
    | exact Eq.refl _
    | exact fun _ => Eq.refl _
    | with_reducible exact Keeps.refl _ _
    | assumption
    | with_reducible apply Keeps.after (State.fire_keeps _ _)
    | with_reducible apply Keeps.after (State.setFlag_keeps _ _ _)
    | with_reducible apply Keeps.after (State.modSeq_keeps _ _ )
    | with_reducible refine Keeps.ite ?_ ?_
    | split
    | extract_lets -merge
    | rintro _ ⟨⟩
    | with_reducible apply Keeps.getD
    | contradiction
    | intro _ _
    | refine Keeps.fst ?_ (by with_reducible assumption)
    | dsimp +zetaDelta only

theorem State.flogRecord_keeps (a0 : Nat) (a1 : Nat) (s : State) : Keeps 0x40000014522 s (State.flogRecord a0 a1 s) := by
  unfold State.flogRecord
  repeat' first
    | exact Eq.refl _
    | exact fun _ => Eq.refl _
    | with_reducible exact Keeps.refl _ _
    | assumption
    | with_reducible apply Keeps.after (State.modFLog_keeps _ _ )
    | with_reducible apply Keeps.after (State.flogWrite_keeps _ _)
    | with_reducible apply Keeps.after (State.fire_keeps _ _)
    | with_reducible apply Keeps.after (State.refuseWrite_keeps _)
    | with_reducible apply Keeps.after (State.setF_keeps _ _ _)
    | with_reducible apply Keeps.after (State.setFlag_keeps _ _ _)
    | with_reducible refine Keeps.ite ?_ ?_
    | split
    | extract_lets -merge
    | rintro _ ⟨⟩
    | with_reducible apply Keeps.getD
    | contradiction
    | intro _ _
    | refine Keeps.fst ?_ (by with_reducible assumption)
    | dsimp +zetaDelta only

theorem State.avsSend_keeps (a0 : Nat) (s : State) : Keeps 0x40000000802 s (State.avsSend a0 s) := by
  unfold State.avsSend
  repeat' first
    | exact Eq.refl _
    | exact fun _ => Eq.refl _
    | with_reducible exact Keeps.refl _ _
    | assumption
    | with_reducible apply Keeps.after (State.modPace_keeps _ _ )
    | with_reducible apply Keeps.after (State.emit_keeps _ _)
    | with_reducible apply Keeps.after (State.setFlag_keeps _ _ _)
    | with_reducible apply Keeps.after (State.setF_keeps _ _ _)
    | with_reducible refine Keeps.ite ?_ ?_
    | split
    | extract_lets -merge
    | rintro _ ⟨⟩
    | with_reducible apply Keeps.getD
    | contradiction
    | intro _ _
    | refine Keeps.fst ?_ (by with_reducible assumption)
    | dsimp +zetaDelta only

theorem State.progsComplete_keeps (s : State) : Keeps 0xc004c030522 s (State.progsComplete s) := by
  unfold State.progsComplete
  repeat' first
    | exact Eq.refl _
    | exact fun _ => Eq.refl _
    | with_reducible exact Keeps.refl _ _
    | assumption
    | with_reducible apply Keeps.after (State.storePage_keeps _ _ _)
    | with_reducible apply Keeps.after (State.modMed_keeps _ _ )
    | with_reducible refine Keeps.foldl (fun _ _ => ?_) _ ?_
    | with_reducible refine Keeps.foldlFst (fun _ _ _ => ?_) _ ?_
    | with_reducible refine Keeps.foldlSnd (fun _ _ _ => ?_) _ ?_
    | with_reducible refine Keeps.ite ?_ ?_
    | split
    | extract_lets -merge
    | rintro _ ⟨⟩
    | with_reducible apply Keeps.getD
    | contradiction
    | intro _ _
    | refine Keeps.fst ?_ (by with_reducible assumption)
    | dsimp +zetaDelta only

theorem State.coreStop_keeps (s : State) : Keeps 0x26e7fef31f3e s (State.coreStop s) := by
  have h0 : Keeps 0x26e7fef31f3e s (if s.plan.group.isSome && s.running then s.fenceEnter else s) :=
    Keeps.ite ((State.fenceEnter_keeps s).mono (Eq.refl _)) (Keeps.refl _ _)
  generalize hx : (if s.plan.group.isSome && s.running then s.fenceEnter else s) = x at h0
  have h1 : Keeps 0x26e7fef31f3e s (if x.start.released then x.timePairWrite else x) :=
    h0.trans (Keeps.ite ((State.timePairWrite_keeps x).mono (Eq.refl _)) (Keeps.refl _ _))
  refine h1.trans ⟨fun p hp => ?_, fun c => ?_⟩
  · subst hx; cases p <;> first | rfl | exact absurd hp (by decide)
  · subst hx; exact ⟨by unfold State.coreStop; dsimp only; exact Tab.wf_filter _ _ _ c.1, c.2.1, c.2.2.1, rfl, c.2.2.2.2⟩

theorem State.powerUpBegin_keeps (s : State) : Keeps 0x2002 s (State.powerUpBegin s) := by
  unfold State.powerUpBegin
  repeat' first
    | exact Eq.refl _
    | exact fun _ => Eq.refl _
    | with_reducible exact Keeps.refl _ _
    | assumption
    | with_reducible apply Keeps.after (State.modSeq_keeps _ _ )
    | with_reducible apply Keeps.after (State.setF_keeps _ _ _)
    | with_reducible apply Keeps.after (State.seqState_keeps _ _)
    | with_reducible refine Keeps.foldl (fun _ _ => ?_) _ ?_
    | with_reducible refine Keeps.foldlFst (fun _ _ _ => ?_) _ ?_
    | with_reducible refine Keeps.foldlSnd (fun _ _ _ => ?_) _ ?_
    | with_reducible refine Keeps.ite ?_ ?_
    | split
    | extract_lets -merge
    | rintro _ ⟨⟩
    | with_reducible apply Keeps.getD
    | contradiction
    | intro _ _
    | refine Keeps.fst ?_ (by with_reducible assumption)
    | dsimp +zetaDelta only

theorem State.powerDownBegin_keeps (a0 : Nat) (s : State) : Keeps 0x26e7fef33f3e s (State.powerDownBegin a0 s) := by
  unfold State.powerDownBegin
  repeat' first
    | exact Eq.refl _
    | exact fun _ => Eq.refl _
    | with_reducible exact Keeps.refl _ _
    | assumption
    | with_reducible apply Keeps.after (State.quietBegin_keeps _)
    | with_reducible apply Keeps.after (State.seqState_keeps _ _)
    | with_reducible apply Keeps.after (State.modSeq_keeps _ _ )
    | with_reducible apply Keeps.after (State.coreStop_keeps _)
    | with_reducible apply Keeps.after (State.setF_keeps _ _ _)
    | with_reducible apply Keeps.after (State.modStart_keeps _ _ )
    | with_reducible refine Keeps.ite ?_ ?_
    | split
    | extract_lets -merge
    | rintro _ ⟨⟩
    | with_reducible apply Keeps.getD
    | contradiction
    | intro _ _
    | refine Keeps.fst ?_ (by with_reducible assumption)
    | dsimp +zetaDelta only

theorem State.stopCheck_keeps (s : State) : Keeps 0x26e7fef33f3e s (State.stopCheck s) := by
  unfold State.stopCheck
  repeat' first
    | exact Eq.refl _
    | exact fun _ => Eq.refl _
    | with_reducible exact Keeps.refl _ _
    | assumption
    | with_reducible apply Keeps.after (State.powerDownBegin_keeps _ _)
    | with_reducible refine Keeps.ite ?_ ?_
    | split
    | extract_lets -merge
    | rintro _ ⟨⟩
    | with_reducible apply Keeps.getD
    | contradiction
    | intro _ _
    | refine Keeps.fst ?_ (by with_reducible assumption)
    | dsimp +zetaDelta only

theorem State.offRequest_keeps (s : State) : Keeps 0x2ee7fef33f3e s (State.offRequest s) := by
  unfold State.offRequest
  repeat' first
    | exact Eq.refl _
    | exact fun _ => Eq.refl _
    | with_reducible exact Keeps.refl _ _
    | assumption
    | with_reducible apply Keeps.after (State.modStart_keeps _ _ )
    | with_reducible apply Keeps.after (State.setF_keeps _ _ _)
    | with_reducible apply Keeps.after (State.stopCheck_keeps _)
    | with_reducible apply Keeps.after (State.modSeq_keeps _ _ )
    | with_reducible apply Keeps.after (State.seqState_keeps _ _)
    | with_reducible apply Keeps.after (State.powerDownBegin_keeps _ _)
    | with_reducible apply Keeps.after (State.progsComplete_keeps _)
    | with_reducible apply Keeps.after (State.holdOn_keeps _ _)
    | with_reducible refine Keeps.ite ?_ ?_
    | split
    | extract_lets -merge
    | rintro _ ⟨⟩
    | with_reducible apply Keeps.getD
    | contradiction
    | intro _ _
    | refine Keeps.fst ?_ (by with_reducible assumption)
    | dsimp +zetaDelta only

theorem State.startClear_keeps (s : State) : Keeps 0x8802 s (State.startClear s) := by
  unfold State.startClear
  repeat' first
    | exact Eq.refl _
    | exact fun _ => Eq.refl _
    | with_reducible exact Keeps.refl _ _
    | assumption
    | with_reducible apply Keeps.after (State.setF_keeps _ _ _)
    | with_reducible apply Keeps.after (State.modPace_keeps _ _ )
    | with_reducible apply Keeps.after (State.modTherm_keeps _ _ )
    | with_reducible apply Keeps.after (State.setReg_keeps _ _ _)
    | with_reducible refine Keeps.foldl (fun _ _ => ?_) _ ?_
    | with_reducible refine Keeps.foldlFst (fun _ _ _ => ?_) _ ?_
    | with_reducible refine Keeps.foldlSnd (fun _ _ _ => ?_) _ ?_
    | with_reducible refine Keeps.ite ?_ ?_
    | split
    | extract_lets -merge
    | rintro _ ⟨⟩
    | with_reducible apply Keeps.getD
    | contradiction
    | intro _ _
    | refine Keeps.fst ?_ (by with_reducible assumption)
    | dsimp +zetaDelta only

theorem State.ptuInterrupt_keeps (s : State) : Keeps 0x40002 s (State.ptuInterrupt s) := by
  unfold State.ptuInterrupt
  repeat' first
    | exact Eq.refl _
    | exact fun _ => Eq.refl _
    | with_reducible exact Keeps.refl _ _
    | assumption
    | with_reducible apply Keeps.after (State.setF_keeps _ _ _)
    | with_reducible apply Keeps.after (State.modPat_keeps _ _ ?_)
    | with_reducible refine Keeps.ite ?_ ?_
    | split
    | extract_lets -merge
    | rintro _ ⟨⟩
    | with_reducible apply Keeps.getD
    | contradiction
    | intro _ _
    | refine Keeps.fst ?_ (by with_reducible assumption)
    | dsimp +zetaDelta only

theorem State.stepDone_keeps (a0 : Nat) (s : State) : Keeps 0x100002 s (State.stepDone a0 s) := by
  unfold State.stepDone
  repeat' first
    | exact Eq.refl _
    | exact fun _ => Eq.refl _
    | with_reducible exact Keeps.refl _ _
    | assumption
    | with_reducible apply Keeps.after (State.modStart_keeps _ _ )
    | with_reducible apply Keeps.after (State.setF_keeps _ _ _)
    | with_reducible refine Keeps.ite ?_ ?_
    | split
    | extract_lets -merge
    | rintro _ ⟨⟩
    | with_reducible apply Keeps.getD
    | contradiction
    | intro _ _
    | refine Keeps.fst ?_ (by with_reducible assumption)
    | dsimp +zetaDelta only

theorem State.startBegin_keeps (a0 : Nat) (s : State) : Keeps 0x4000017ad62 s (State.startBegin a0 s) := by
  unfold State.startBegin
  repeat' first
    | exact Eq.refl _
    | exact fun _ => Eq.refl _
    | with_reducible exact Keeps.refl _ _
    | assumption
    | with_reducible apply Keeps.after (State.startClear_keeps _)
    | with_reducible apply Keeps.after (State.ptuInterrupt_keeps _)
    | with_reducible apply Keeps.after (State.modPat_keeps _ _ ?_)
    | with_reducible apply Keeps.after (State.putStart_keeps _ _)
    | with_reducible apply Keeps.after (State.putHam_keeps _ _)
    | with_reducible apply Keeps.after (State.putClk_keeps _ _)
    | with_reducible apply Keeps.after (State.putPins_keeps _ _)
    | with_reducible apply Keeps.after (State.quietBegin_keeps _)
    | with_reducible apply Keeps.after (State.setF_keeps _ _ _)
    | with_reducible apply Keeps.after (State.modSeq_keeps _ _ )
    | with_reducible apply Keeps.after (State.fireRec_keeps _ _ _ _)
    | with_reducible apply Keeps.after (State.lifetime_keeps _ _)
    | with_reducible apply Keeps.after (State.stepDone_keeps _ _)
    | with_reducible refine Keeps.ite ?_ ?_
    | split
    | extract_lets -merge
    | rintro _ ⟨⟩
    | with_reducible apply Keeps.getD
    | contradiction
    | intro _ _
    | refine Keeps.fst ?_ (by with_reducible assumption)
    | dsimp +zetaDelta only

theorem State.onRequest_keeps (a0 : Nat) (s : State) : Keeps 0x4000017ad62 s (State.onRequest a0 s) := by
  unfold State.onRequest
  repeat' first
    | exact Eq.refl _
    | exact fun _ => Eq.refl _
    | with_reducible exact Keeps.refl _ _
    | assumption
    | with_reducible apply Keeps.after (State.holdOn_keeps _ _)
    | with_reducible apply Keeps.after (State.startBegin_keeps _ _)
    | with_reducible refine Keeps.ite ?_ ?_
    | split
    | extract_lets -merge
    | rintro _ ⟨⟩
    | with_reducible apply Keeps.getD
    | contradiction
    | intro _ _
    | refine Keeps.fst ?_ (by with_reducible assumption)
    | dsimp +zetaDelta only

theorem State.startCause_keeps (a0 : Nat) (a1 : Bool) (s : State) : Keeps 0x40000130522 s (State.startCause a0 a1 s) := by
  unfold State.startCause
  repeat' first
    | exact Eq.refl _
    | exact fun _ => Eq.refl _
    | with_reducible exact Keeps.refl _ _
    | assumption
    | with_reducible apply Keeps.after (State.modStart_keeps _ _ )
    | with_reducible apply Keeps.after (State.setF_keeps _ _ _)
    | with_reducible apply Keeps.after (State.fireRec_keeps _ _ _ _)
    | with_reducible refine Keeps.ite ?_ ?_
    | split
    | extract_lets -merge
    | rintro _ ⟨⟩
    | with_reducible apply Keeps.getD
    | contradiction
    | intro _ _
    | refine Keeps.fst ?_ (by with_reducible assumption)
    | dsimp +zetaDelta only

theorem State.causeClear_keeps (s : State) : Keeps 0x100002 s (State.causeClear s) := by
  unfold State.causeClear
  repeat' first
    | exact Eq.refl _
    | exact fun _ => Eq.refl _
    | with_reducible exact Keeps.refl _ _
    | assumption
    | with_reducible apply Keeps.after (State.modStart_keeps _ _ )
    | with_reducible apply Keeps.after (State.setF_keeps _ _ _)
    | with_reducible refine Keeps.ite ?_ ?_
    | split
    | extract_lets -merge
    | rintro _ ⟨⟩
    | with_reducible apply Keeps.getD
    | contradiction
    | intro _ _
    | refine Keeps.fst ?_ (by with_reducible assumption)
    | dsimp +zetaDelta only

theorem State.immediateShutdown_keeps (a0 : Nat) (a1 : Nat) (s : State) : Keeps 0x26e7fef33f3e s (State.immediateShutdown a0 a1 s) := by
  unfold State.immediateShutdown
  repeat' first
    | exact Eq.refl _
    | exact fun _ => Eq.refl _
    | with_reducible exact Keeps.refl _ _
    | assumption
    | with_reducible apply Keeps.after (State.fireRec_keeps _ _ _ _)
    | with_reducible apply Keeps.after (State.modPins_keeps _ _ )
    | with_reducible apply Keeps.after (State.modSeq_keeps _ _ )
    | with_reducible apply Keeps.after (State.powerDownBegin_keeps _ _)
    | with_reducible refine Keeps.ite ?_ ?_
    | split
    | extract_lets -merge
    | rintro _ ⟨⟩
    | with_reducible apply Keeps.getD
    | contradiction
    | intro _ _
    | refine Keeps.fst ?_ (by with_reducible assumption)
    | dsimp +zetaDelta only

theorem State.noteTrigger_keeps (a0 : Nat) (s : State) : Keeps 0x2 s (State.noteTrigger a0 s) := by
  unfold State.noteTrigger
  repeat' first
    | exact Eq.refl _
    | exact fun _ => Eq.refl _
    | with_reducible exact Keeps.refl _ _
    | assumption
    | with_reducible apply Keeps.after (State.setBitF_keeps _ _ _ _)
    | with_reducible refine Keeps.ite ?_ ?_
    | split
    | extract_lets -merge
    | rintro _ ⟨⟩
    | with_reducible apply Keeps.getD
    | contradiction
    | intro _ _
    | refine Keeps.fst ?_ (by with_reducible assumption)
    | dsimp +zetaDelta only

theorem State.earlyWarning_keeps (s : State) : Keeps 0x40000000522 s (State.earlyWarning s) := by
  unfold State.earlyWarning
  repeat' first
    | exact Eq.refl _
    | exact fun _ => Eq.refl _
    | with_reducible exact Keeps.refl _ _
    | assumption
    | with_reducible apply Keeps.after (State.fire_keeps _ _)
    | with_reducible apply Keeps.after (State.setF_keeps _ _ _)
    | with_reducible apply Keeps.after (State.modPins_keeps _ _ )
    | with_reducible refine Keeps.ite ?_ ?_
    | split
    | extract_lets -merge
    | rintro _ ⟨⟩
    | with_reducible apply Keeps.getD
    | contradiction
    | intro _ _
    | refine Keeps.fst ?_ (by with_reducible assumption)
    | dsimp +zetaDelta only

theorem State.flushBegin_keeps (a0 : FlushKind) (a1 : Nat) (s : State) : Keeps 0x40020000522 s (State.flushBegin a0 a1 s) := by
  unfold State.flushBegin
  repeat' first
    | exact Eq.refl _
    | exact fun _ => Eq.refl _
    | with_reducible exact Keeps.refl _ _
    | assumption
    | with_reducible apply Keeps.after (State.noteTrigger_keeps _ _)
    | with_reducible apply Keeps.after (State.setF_keeps _ _ _)
    | with_reducible apply Keeps.after (State.modFlush_keeps _ _ )
    | with_reducible apply Keeps.after (State.earlyWarning_keeps _)
    | with_reducible refine Keeps.ite ?_ ?_
    | split
    | extract_lets -merge
    | rintro _ ⟨⟩
    | with_reducible apply Keeps.getD
    | contradiction
    | intro _ _
    | refine Keeps.fst ?_ (by with_reducible assumption)
    | dsimp +zetaDelta only

theorem State.flushTrigger_keeps (a0 : FlushKind) (a1 : Nat) (a2 : Bool) (s : State) : Keeps 0x2ee7fef33f3e s (State.flushTrigger a0 a1 a2 s) := by
  unfold State.flushTrigger
  repeat' first
    | exact Eq.refl _
    | exact fun _ => Eq.refl _
    | with_reducible exact Keeps.refl _ _
    | assumption
    | with_reducible apply Keeps.after (State.modSeq_keeps _ _ )
    | with_reducible apply Keeps.after (State.noteTrigger_keeps _ _)
    | with_reducible apply Keeps.after (State.modFlush_keeps _ _ )
    | with_reducible apply Keeps.after (State.earlyWarning_keeps _)
    | with_reducible apply Keeps.after (State.setF_keeps _ _ _)
    | with_reducible apply Keeps.after (State.flushBegin_keeps _ _ _)
    | with_reducible apply Keeps.after (State.offRequest_keeps _)
    | with_reducible apply Keeps.after (State.fire_keeps _ _)
    | with_reducible apply Keeps.after (State.modPins_keeps _ _ )
    | with_reducible refine Keeps.ite ?_ ?_
    | split
    | extract_lets -merge
    | rintro _ ⟨⟩
    | with_reducible apply Keeps.getD
    | contradiction
    | intro _ _
    | refine Keeps.fst ?_ (by with_reducible assumption)
    | dsimp +zetaDelta only

theorem State.railFault_keeps (a0 : Nat) (a1 : Nat) (s : State) : Keeps 0x2ee7fef37f3e s (State.railFault a0 a1 s) := by
  unfold State.railFault
  repeat' first
    | exact Eq.refl _
    | exact fun _ => Eq.refl _
    | with_reducible exact Keeps.refl _ _
    | assumption
    | with_reducible apply Keeps.after (State.fire_keeps _ _)
    | with_reducible apply Keeps.after (State.flogRecord_keeps _ _ _)
    | with_reducible apply Keeps.after (State.railOff_keeps _ _)
    | with_reducible apply Keeps.after (State.modSeq_keeps _ _ )
    | with_reducible apply Keeps.after (State.immediateShutdown_keeps _ _ _)
    | with_reducible apply Keeps.after (State.flushTrigger_keeps _ _ _ _)
    | with_reducible refine Keeps.ite ?_ ?_
    | split
    | extract_lets -merge
    | rintro _ ⟨⟩
    | with_reducible apply Keeps.getD
    | contradiction
    | intro _ _
    | refine Keeps.fst ?_ (by with_reducible assumption)
    | dsimp +zetaDelta only

end Sys2Proof.Machine
end

