-- ==== Sys2Proof/Laws/KeepsPace.lean ====
section
/-!
SUPPORT. What the operations of Machine/Pace.lean leave unchanged.
-/
namespace Sys2Proof.Machine

theorem State.avsFail_keeps (s : State) : Keeps 0x40000000d22 s (State.avsFail s) := by
  unfold State.avsFail
  repeat' first
    | exact Eq.refl _
    | exact fun _ => Eq.refl _
    | with_reducible exact Keeps.refl _ _
    | assumption
    | with_reducible apply Keeps.after (State.modPace_keeps _ _ )
    | with_reducible apply Keeps.after (State.fire_keeps _ _)
    | with_reducible apply Keeps.after (State.setF_keeps _ _ _)
    | with_reducible apply Keeps.after (State.emit_keeps _ _)
    | with_reducible refine Keeps.ite ?_ ?_
    | split
    | extract_lets -merge
    | rintro _ ⟨⟩
    | with_reducible apply Keeps.getD
    | contradiction
    | intro _ _
    | refine Keeps.fst ?_ (by with_reducible assumption)
    | dsimp +zetaDelta only

end Sys2Proof.Machine
end

