-- ==== Sys2Proof/Laws/KeepsPower.lean ====
section
/-!
SUPPORT. What the operations of Machine/Power.lean leave unchanged.
-/
namespace Sys2Proof.Machine

theorem State.powerUpCheck_keeps (s : State) : Keeps 0x26e7fef33f3e s (State.powerUpCheck s) := by
  unfold State.powerUpCheck
  repeat' first
    | exact Eq.refl _
    | exact fun _ => Eq.refl _
    | with_reducible exact Keeps.refl _ _
    | assumption
    | with_reducible apply Keeps.after (State.seqState_keeps _ _)
    | with_reducible apply Keeps.after (State.stepDone_keeps _ _)
    | with_reducible apply Keeps.after (State.stopCheck_keeps _)
    | with_reducible refine Keeps.ite ?_ ?_
    | split
    | extract_lets -merge
    | rintro _ ⟨⟩
    | with_reducible apply Keeps.getD
    | contradiction
    | intro _ _
    | refine Keeps.fst ?_ (by with_reducible assumption)
    | dsimp +zetaDelta only

theorem State.lostInDown_keeps (a0 : Nat) (s : State) : Keeps 0x40000016522 s (State.lostInDown a0 s) := by
  unfold State.lostInDown
  repeat' first
    | exact Eq.refl _
    | exact fun _ => Eq.refl _
    | with_reducible exact Keeps.refl _ _
    | assumption
    | with_reducible apply Keeps.after (State.fire_keeps _ _)
    | with_reducible apply Keeps.after (State.flogRecord_keeps _ _ _)
    | with_reducible apply Keeps.after (State.modSeq_keeps _ _ )
    | with_reducible apply Keeps.after (State.setF_keeps _ _ _)
    | with_reducible refine Keeps.ite ?_ ?_
    | split
    | extract_lets -merge
    | rintro _ ⟨⟩
    | with_reducible apply Keeps.getD
    | contradiction
    | intro _ _
    | refine Keeps.fst ?_ (by with_reducible assumption)
    | dsimp +zetaDelta only

theorem State.railLeft_keeps (a0 : Nat) (a1 : Nat) (s : State) : Keeps 0x2ee7fef37f3e s (State.railLeft a0 a1 s) := by
  unfold State.railLeft
  repeat' first
    | exact Eq.refl _
    | exact fun _ => Eq.refl _
    | with_reducible exact Keeps.refl _ _
    | assumption
    | with_reducible apply Keeps.after (State.lostInDown_keeps _ _)
    | with_reducible apply Keeps.after (State.railFault_keeps _ _ _)
    | with_reducible refine Keeps.ite ?_ ?_
    | split
    | extract_lets -merge
    | rintro _ ⟨⟩
    | with_reducible apply Keeps.getD
    | contradiction
    | intro _ _
    | refine Keeps.fst ?_ (by with_reducible assumption)
    | dsimp +zetaDelta only

theorem State.judgeRail_keeps (a0 : Bool) (s : State) (a2 : Nat) : Keeps 0x2ee7fef37f3e s (State.judgeRail a0 s a2) := by
  unfold State.judgeRail
  repeat' first
    | exact Eq.refl _
    | exact fun _ => Eq.refl _
    | with_reducible exact Keeps.refl _ _
    | assumption
    | with_reducible apply Keeps.after (State.modSeq_keeps _ _ )
    | with_reducible apply Keeps.after (State.fire_keeps _ _)
    | with_reducible apply Keeps.after (State.setF_keeps _ _ _)
    | with_reducible apply Keeps.after (State.railLeft_keeps _ _ _)
    | with_reducible refine Keeps.ite ?_ ?_
    | split
    | extract_lets -merge
    | rintro _ ⟨⟩
    | with_reducible apply Keeps.getD
    | contradiction
    | intro _ _
    | refine Keeps.fst ?_ (by with_reducible assumption)
    | dsimp +zetaDelta only

theorem State.judgeSag_keeps (s : State) : Keeps 0x2ee7fef33f3e s (State.judgeSag s) := by
  unfold State.judgeSag
  repeat' first
    | exact Eq.refl _
    | exact fun _ => Eq.refl _
    | with_reducible exact Keeps.refl _ _
    | assumption
    | with_reducible apply Keeps.after (State.modSeq_keeps _ _ )
    | with_reducible apply Keeps.after (State.flushTrigger_keeps _ _ _ _)
    | with_reducible refine Keeps.ite ?_ ?_
    | split
    | extract_lets -merge
    | rintro _ ⟨⟩
    | with_reducible apply Keeps.getD
    | contradiction
    | intro _ _
    | refine Keeps.fst ?_ (by with_reducible assumption)
    | dsimp +zetaDelta only

theorem State.auxLost_keeps (s : State) : Keeps 0x3fffffffffff s (State.auxLost s) := by
  have h0 : Keeps 0x3fffffffffff s s.ptuInterrupt.coreStop :=
    ((State.ptuInterrupt_keeps s).mono (n := 0x3fffffffffff) (Eq.refl _)).trans ((State.coreStop_keeps _).mono (Eq.refl _))
  have h1 : Keeps 0x3fffffffffff s (match s.ptuInterrupt.coreStop.keep.prog with | some j => s.ptuInterrupt.coreStop.hemTear j | none => s.ptuInterrupt.coreStop) := by
    split
    · exact h0.trans ((State.hemTear_keeps _ _).mono (Eq.refl _))
    · exact h0
  refine h1.trans ⟨fun p hp => ?_, fun c => ?_⟩
  · cases p <;> first | rfl | exact absurd hp (by decide)
  · exact ⟨rfl, c.2.1, c.2.2.1, rfl, c.2.2.2.2⟩

theorem State.offWritten_keeps (s : State) : Keeps 0x2ee7fef33f3e s (State.offWritten s) := by
  unfold State.offWritten
  repeat' first
    | exact Eq.refl _
    | exact fun _ => Eq.refl _
    | with_reducible exact Keeps.refl _ _
    | assumption
    | with_reducible apply Keeps.after (State.flushTrigger_keeps _ _ _ _)
    | with_reducible apply Keeps.after (State.powerDownBegin_keeps _ _)
    | with_reducible apply Keeps.after (State.offRequest_keeps _)
    | with_reducible refine Keeps.ite ?_ ?_
    | split
    | extract_lets -merge
    | rintro _ ⟨⟩
    | with_reducible apply Keeps.getD
    | contradiction
    | intro _ _
    | refine Keeps.fst ?_ (by with_reducible assumption)
    | dsimp +zetaDelta only

end Sys2Proof.Machine
end

