-- ==== Sys2Proof/Laws/KeepsWire.lean ====
section
/-!
SUPPORT. What the operations of Machine/Wire.lean leave unchanged.
-/
namespace Sys2Proof.Machine

theorem State.wireOut_keeps (a0 : Nat) (a1 : SentFlit) (s : State) : Keeps 0x48000000522 s (State.wireOut a0 a1 s) := by
  unfold State.wireOut
  repeat' first
    | exact Eq.refl _
    | exact fun _ => Eq.refl _
    | with_reducible exact Keeps.refl _ _
    | assumption
    | with_reducible apply Keeps.after (State.emit_keeps _ _)
    | with_reducible apply Keeps.after (State.perf_keeps _ _ _ _ _)
    | with_reducible refine Keeps.ite ?_ ?_
    | split
    | extract_lets -merge
    | rintro _ ⟨⟩
    | with_reducible apply Keeps.getD
    | contradiction
    | intro _ _
    | refine Keeps.fst ?_ (by with_reducible assumption)
    | dsimp +zetaDelta only

theorem State.sendCounted_keeps (a0 : Nat) (a1 : Nat) (a2 : Nat) (a3 : List Byte) (s : State) : Keeps 0x48200000522 s (State.sendCounted a0 a1 a2 a3 s) := by
  unfold State.sendCounted
  repeat' first
    | exact Eq.refl _
    | exact fun _ => Eq.refl _
    | with_reducible exact Keeps.refl _ _
    | assumption
    | with_reducible apply Keeps.after (State.wireOut_keeps _ _ _)
    | with_reducible apply Keeps.after (State.setLink_keeps _ _ _)
    | with_reducible refine Keeps.ite ?_ ?_
    | split
    | extract_lets -merge
    | rintro _ ⟨⟩
    | with_reducible apply Keeps.getD
    | contradiction
    | intro _ _
    | refine Keeps.fst ?_ (by with_reducible assumption)
    | dsimp +zetaDelta only

end Sys2Proof.Machine
end

