-- ==== Sys2Proof/Laws/KeepsAdopt.lean ====
section
/-!
SUPPORT. What the operations of Machine/Adopt.lean leave unchanged.
-/
namespace Sys2Proof.Machine

theorem State.sendFlit_keeps (a0 : Nat) (a1 : Nat) (a2 : List Nat) (s : State) : Keeps 0x48200000522 s (State.sendFlit a0 a1 a2 s) := by
  unfold State.sendFlit
  repeat' first
    | exact Eq.refl _
    | exact fun _ => Eq.refl _
    | with_reducible exact Keeps.refl _ _
    | assumption
    | with_reducible apply Keeps.after (State.sendCounted_keeps _ _ _ _ _)
    | with_reducible apply Keeps.after (State.emit_keeps _ _)
    | with_reducible apply Keeps.after (State.setLink_keeps _ _ _)
    | with_reducible refine Keeps.ite ?_ ?_
    | split
    | extract_lets -merge
    | rintro _ ⟨⟩
    | with_reducible apply Keeps.getD
    | contradiction
    | intro _ _
    | refine Keeps.fst ?_ (by with_reducible assumption)
    | dsimp +zetaDelta only

theorem State.sendHeld_keeps (a0 : Nat) (s : State) : Keeps 0x48200000522 s (State.sendHeld a0 s) := by
  unfold State.sendHeld
  repeat' first
    | exact Eq.refl _
    | exact fun _ => Eq.refl _
    | with_reducible exact Keeps.refl _ _
    | assumption
    | with_reducible apply Keeps.after (State.sendFlit_keeps _ _ _ _)
    | with_reducible apply Keeps.after (State.setLink_keeps _ _ _)
    | with_reducible refine Keeps.foldl (fun _ _ => ?_) _ ?_
    | with_reducible refine Keeps.foldlFst (fun _ _ _ => ?_) _ ?_
    | with_reducible refine Keeps.foldlSnd (fun _ _ _ => ?_) _ ?_
    | with_reducible refine Keeps.ite ?_ ?_
    | split
    | extract_lets -merge
    | rintro _ ⟨⟩
    | with_reducible apply Keeps.getD
    | contradiction
    | intro _ _
    | refine Keeps.fst ?_ (by with_reducible assumption)
    | dsimp +zetaDelta only

theorem State.linkStop_keeps (a0 : Nat) (a1 : Nat) (s : State) : Keeps 0x300000002 s (State.linkStop a0 a1 s) := by
  unfold State.linkStop
  repeat' first
    | exact Eq.refl _
    | exact fun _ => Eq.refl _
    | with_reducible exact Keeps.refl _ _
    | assumption
    | with_reducible apply Keeps.after (State.setLink_keeps _ _ _)
    | with_reducible apply Keeps.after (State.setF_keeps _ _ _)
    | with_reducible apply Keeps.after (State.setLinkSession_keeps _ _ _)
    | with_reducible refine Keeps.ite ?_ ?_
    | split
    | extract_lets -merge
    | rintro _ ⟨⟩
    | with_reducible apply Keeps.getD
    | contradiction
    | intro _ _
    | refine Keeps.fst ?_ (by with_reducible assumption)
    | dsimp +zetaDelta only

theorem State.linkTrain_keeps (a0 : Nat) (a1 : Bool) (s : State) : Keeps 0x40700000522 s (State.linkTrain a0 a1 s) := by
  unfold State.linkTrain
  repeat' first
    | exact Eq.refl _
    | exact fun _ => Eq.refl _
    | with_reducible exact Keeps.refl _ _
    | assumption
    | with_reducible apply Keeps.after (State.setCart_keeps _ _ _)
    | with_reducible apply Keeps.after (State.linkStop_keeps _ _ _)
    | with_reducible apply Keeps.after (State.calRead_keeps _ _)
    | with_reducible apply Keeps.after (State.setLink_keeps _ _ _)
    | with_reducible refine Keeps.ite ?_ ?_
    | split
    | extract_lets -merge
    | rintro _ ⟨⟩
    | with_reducible apply Keeps.getD
    | contradiction
    | intro _ _
    | refine Keeps.fst ?_ (by with_reducible assumption)
    | dsimp +zetaDelta only

theorem State.flushRewrite_keeps (a0 : Nat) (s : State) : Keeps 0xc852e030522 s (State.flushRewrite a0 s) := by
  unfold State.flushRewrite
  repeat' first
    | exact Eq.refl _
    | exact fun _ => Eq.refl _
    | with_reducible exact Keeps.refl _ _
    | assumption
    | with_reducible apply Keeps.after (State.flushAdvance_keeps _)
    | with_reducible apply Keeps.after (State.flushProgress_keeps _)
    | with_reducible apply Keeps.after (State.flushPatches_keeps _ _)
    | with_reducible apply Keeps.after (State.modFlush_keeps _ _ )
    | with_reducible refine Keeps.foldl (fun _ _ => ?_) _ ?_
    | with_reducible refine Keeps.foldlFst (fun _ _ _ => ?_) _ ?_
    | with_reducible refine Keeps.foldlSnd (fun _ _ _ => ?_) _ ?_
    | with_reducible refine Keeps.ite ?_ ?_
    | split
    | extract_lets -merge
    | rintro _ ⟨⟩
    | with_reducible apply Keeps.getD
    | contradiction
    | intro _ _
    | refine Keeps.fst ?_ (by with_reducible assumption)
    | dsimp +zetaDelta only

theorem State.setAdopt_keeps (a0 : Nat) (a1 : Nat) (s : State) : Keeps 0x40400000522 s (State.setAdopt a0 a1 s) := by
  unfold State.setAdopt
  repeat' first
    | exact Eq.refl _
    | exact fun _ => Eq.refl _
    | with_reducible exact Keeps.refl _ _
    | assumption
    | with_reducible apply Keeps.after (State.setCart_keeps _ _ _)
    | with_reducible apply Keeps.after (State.fire_keeps _ _)
    | with_reducible apply Keeps.after (State.setF_keeps _ _ _)
    | with_reducible refine Keeps.ite ?_ ?_
    | split
    | extract_lets -merge
    | rintro _ ⟨⟩
    | with_reducible apply Keeps.getD
    | contradiction
    | intro _ _
    | refine Keeps.fst ?_ (by with_reducible assumption)
    | dsimp +zetaDelta only

theorem State.capacityUpdate_keeps (s : State) : Keeps 0x2 s (State.capacityUpdate s) := by
  unfold State.capacityUpdate
  repeat' first
    | exact Eq.refl _
    | exact fun _ => Eq.refl _
    | with_reducible exact Keeps.refl _ _
    | assumption
    | with_reducible apply Keeps.after (State.setF_keeps _ _ _)
    | with_reducible refine Keeps.foldl (fun _ _ => ?_) _ ?_
    | with_reducible refine Keeps.foldlFst (fun _ _ _ => ?_) _ ?_
    | with_reducible refine Keeps.foldlSnd (fun _ _ _ => ?_) _ ?_
    | with_reducible refine Keeps.ite ?_ ?_
    | split
    | extract_lets -merge
    | rintro _ ⟨⟩
    | with_reducible apply Keeps.getD
    | contradiction
    | intro _ _
    | refine Keeps.fst ?_ (by with_reducible assumption)
    | dsimp +zetaDelta only

theorem State.cartGone_keeps (a0 : Nat) (a1 : Nat) (s : State) : Keeps 0xca57fe315a2 s (State.cartGone a0 a1 s) := by
  unfold State.cartGone
  repeat' first
    | exact Eq.refl _
    | exact fun _ => Eq.refl _
    | with_reducible exact Keeps.refl _ _
    | assumption
    | with_reducible apply Keeps.after (State.setWindow_keeps _ _ _)
    | with_reducible apply Keeps.after (State.setAdopt_keeps _ _ _)
    | with_reducible apply Keeps.after (State.setCart_keeps _ _ _)
    | with_reducible apply Keeps.after (State.setF_keeps _ _ _)
    | with_reducible apply Keeps.after (State.flushRewrite_keeps _ _)
    | with_reducible apply Keeps.after (State.positionLost_keeps _ _)
    | with_reducible apply Keeps.after (State.flushUpdate_keeps _)
    | with_reducible apply Keeps.after (State.excludeUpdate_keeps _ _)
    | with_reducible apply Keeps.after (State.capacityUpdate_keeps _)
    | with_reducible refine Keeps.ite ?_ ?_
    | split
    | extract_lets -merge
    | rintro _ ⟨⟩
    | with_reducible apply Keeps.getD
    | contradiction
    | intro _ _
    | refine Keeps.fst ?_ (by with_reducible assumption)
    | dsimp +zetaDelta only

theorem State.quarantine_keeps (a0 : Nat) (s : State) : Keeps 0xca77fe315a2 s (State.quarantine a0 s) := by
  unfold State.quarantine
  repeat' first
    | exact Eq.refl _
    | exact fun _ => Eq.refl _
    | with_reducible exact Keeps.refl _ _
    | assumption
    | with_reducible apply Keeps.after (State.setCart_keeps _ _ _)
    | with_reducible apply Keeps.after (State.linkStop_keeps _ _ _)
    | with_reducible apply Keeps.after (State.indicateCheck_keeps _ _)
    | with_reducible apply Keeps.after (State.cartGone_keeps _ _ _)
    | with_reducible apply Keeps.after (State.fire_keeps _ _)
    | with_reducible refine Keeps.ite ?_ ?_
    | split
    | extract_lets -merge
    | rintro _ ⟨⟩
    | with_reducible apply Keeps.getD
    | contradiction
    | intro _ _
    | refine Keeps.fst ?_ (by with_reducible assumption)
    | dsimp +zetaDelta only

theorem State.retrain_keeps (a0 : Nat) (s : State) : Keeps 0xca77fe315a2 s (State.retrain a0 s) := by
  unfold State.retrain
  repeat' first
    | exact Eq.refl _
    | exact fun _ => Eq.refl _
    | with_reducible exact Keeps.refl _ _
    | assumption
    | with_reducible apply Keeps.after (State.setF_keeps _ _ _)
    | with_reducible apply Keeps.after (State.setLink_keeps _ _ _)
    | with_reducible apply Keeps.after (State.fire_keeps _ _)
    | with_reducible apply Keeps.after (State.quarantine_keeps _ _)
    | with_reducible apply Keeps.after (State.linkTrain_keeps _ _ _)
    | with_reducible refine Keeps.ite ?_ ?_
    | split
    | extract_lets -merge
    | rintro _ ⟨⟩
    | with_reducible apply Keeps.getD
    | contradiction
    | intro _ _
    | refine Keeps.fst ?_ (by with_reducible assumption)
    | dsimp +zetaDelta only

theorem State.linkViolation_keeps (a0 : Nat) (a1 : Nat) (a2 : Bool) (s : State) : Keeps 0xca77fe315a2 s (State.linkViolation a0 a1 a2 s) := by
  unfold State.linkViolation
  repeat' first
    | exact Eq.refl _
    | exact fun _ => Eq.refl _
    | with_reducible exact Keeps.refl _ _
    | assumption
    | with_reducible apply Keeps.after (State.setFlag_keeps _ _ _)
    | with_reducible apply Keeps.after (State.setF_keeps _ _ _)
    | with_reducible apply Keeps.after (State.countF_keeps _ _ _)
    | with_reducible apply Keeps.after (State.setLink_keeps _ _ _)
    | with_reducible apply Keeps.after (State.retrain_keeps _ _)
    | with_reducible refine Keeps.ite ?_ ?_
    | split
    | extract_lets -merge
    | rintro _ ⟨⟩
    | with_reducible apply Keeps.getD
    | contradiction
    | intro _ _
    | refine Keeps.fst ?_ (by with_reducible assumption)
    | dsimp +zetaDelta only

theorem State.sendNak_keeps (a0 : Nat) (a1 : Nat) (a2 : Nat) (s : State) : Keeps 0xca77fe315a2 s (State.sendNak a0 a1 a2 s) := by
  unfold State.sendNak
  repeat' first
    | exact Eq.refl _
    | exact fun _ => Eq.refl _
    | with_reducible exact Keeps.refl _ _
    | assumption
    | with_reducible apply Keeps.after (State.sendFlit_keeps _ _ _ _)
    | with_reducible apply Keeps.after (State.linkViolation_keeps _ _ _ _)
    | with_reducible refine Keeps.ite ?_ ?_
    | split
    | extract_lets -merge
    | rintro _ ⟨⟩
    | with_reducible apply Keeps.getD
    | contradiction
    | intro _ _
    | refine Keeps.fst ?_ (by with_reducible assumption)
    | dsimp +zetaDelta only

theorem State.rxHead_keeps (a0 : Nat) (a1 : FlitHead) (s : State) : Keeps 0x48200000522 s (State.rxHead a0 a1 s) := by
  unfold State.rxHead
  repeat' first
    | exact Eq.refl _
    | exact fun _ => Eq.refl _
    | with_reducible exact Keeps.refl _ _
    | assumption
    | with_reducible apply Keeps.after (State.perf_keeps _ _ _ _ _)
    | with_reducible apply Keeps.after (State.countF_keeps _ _ _)
    | with_reducible apply Keeps.after (State.sendHeld_keeps _ _)
    | with_reducible apply Keeps.after (State.setLink_keeps _ _ _)
    | with_reducible refine Keeps.ite ?_ ?_
    | split
    | extract_lets -merge
    | rintro _ ⟨⟩
    | with_reducible apply Keeps.getD
    | contradiction
    | intro _ _
    | refine Keeps.fst ?_ (by with_reducible assumption)
    | dsimp +zetaDelta only

theorem State.rxPlace_keeps (a0 : Nat) (a1 : FlitHead) (a2 : Bool) (s : State) : Keeps 0xca77fe315a2 s (State.rxPlace a0 a1 a2 s).1 := by
  unfold State.rxPlace
  repeat' first
    | exact Eq.refl _
    | exact fun _ => Eq.refl _
    | with_reducible exact Keeps.refl _ _
    | assumption
    | with_reducible apply Keeps.after (State.rxHead_keeps _ _ _)
    | with_reducible apply Keeps.after (State.sendNak_keeps _ _ _ _)
    | with_reducible apply Keeps.after (State.setLink_keeps _ _ _)
    | with_reducible refine Keeps.ite ?_ ?_
    | split
    | extract_lets -merge
    | rintro _ ⟨⟩
    | with_reducible apply Keeps.getD
    | contradiction
    | intro _ _
    | refine Keeps.fst ?_ (by with_reducible assumption)
    | dsimp +zetaDelta only

theorem State.rxFlit_keeps (a0 : Nat) (a1 : FlitHead) (a2 : Bool) (s : State) : Keeps 0xca77fe315a2 s (State.rxFlit a0 a1 a2 s).1 := by
  unfold State.rxFlit
  repeat' first
    | exact Eq.refl _
    | exact fun _ => Eq.refl _
    | with_reducible exact Keeps.refl _ _
    | assumption
    | with_reducible apply Keeps.after (State.rxPlace_keeps _ _ _ _)
    | with_reducible apply Keeps.after (State.sendNak_keeps _ _ _ _)
    | with_reducible refine Keeps.ite ?_ ?_
    | split
    | extract_lets -merge
    | rintro _ ⟨⟩
    | with_reducible apply Keeps.getD
    | contradiction
    | intro _ _
    | refine Keeps.fst ?_ (by with_reducible assumption)
    | dsimp +zetaDelta only

theorem State.replay_keeps (a0 : Nat) (s : State) : Keeps 0xca77fe315a2 s (State.replay a0 s) := by
  unfold State.replay
  repeat' first
    | exact Eq.refl _
    | exact fun _ => Eq.refl _
    | with_reducible exact Keeps.refl _ _
    | assumption
    | with_reducible apply Keeps.after (State.retrain_keeps _ _)
    | with_reducible apply Keeps.after (State.wireOut_keeps _ _ _)
    | with_reducible apply Keeps.after (State.perf_keeps _ _ _ _ _)
    | with_reducible apply Keeps.after (State.countF_keeps _ _ _)
    | with_reducible apply Keeps.after (State.setLink_keeps _ _ _)
    | with_reducible refine Keeps.foldl (fun _ _ => ?_) _ ?_
    | with_reducible refine Keeps.foldlFst (fun _ _ _ => ?_) _ ?_
    | with_reducible refine Keeps.foldlSnd (fun _ _ _ => ?_) _ ?_
    | with_reducible refine Keeps.ite ?_ ?_
    | split
    | extract_lets -merge
    | rintro _ ⟨⟩
    | with_reducible apply Keeps.getD
    | contradiction
    | intro _ _
    | refine Keeps.fst ?_ (by with_reducible assumption)
    | dsimp +zetaDelta only

theorem State.sendCmd_keeps (a0 : Nat) (a1 : Nat) (a2 : Nat) (a3 : List Nat) (a4 : List Byte) (a5 : List Byte) (s : State) : Keeps 0x48200000522 s (State.sendCmd a0 a1 a2 a3 a4 a5 s) := by
  unfold State.sendCmd
  repeat' first
    | exact Eq.refl _
    | exact fun _ => Eq.refl _
    | with_reducible exact Keeps.refl _ _
    | assumption
    | with_reducible apply Keeps.after (State.setLink_keeps _ _ _)
    | with_reducible apply Keeps.after (State.sendCounted_keeps _ _ _ _ _)
    | with_reducible apply Keeps.after (State.emit_keeps _ _)
    | with_reducible refine Keeps.foldl (fun _ _ => ?_) _ ?_
    | with_reducible refine Keeps.foldlFst (fun _ _ _ => ?_) _ ?_
    | with_reducible refine Keeps.foldlSnd (fun _ _ _ => ?_) _ ?_
    | with_reducible refine Keeps.ite ?_ ?_
    | split
    | extract_lets -merge
    | rintro _ ⟨⟩
    | with_reducible apply Keeps.getD
    | contradiction
    | intro _ _
    | refine Keeps.fst ?_ (by with_reducible assumption)
    | dsimp +zetaDelta only

theorem State.sendHello_keeps (a0 : Nat) (s : State) : Keeps 0xc8200000522 s (State.sendHello a0 s) := by
  unfold State.sendHello
  repeat' first
    | exact Eq.refl _
    | exact fun _ => Eq.refl _
    | with_reducible exact Keeps.refl _ _
    | assumption
    | with_reducible apply Keeps.after (State.sendFlit_keeps _ _ _ _)
    | with_reducible apply Keeps.after (State.setLink_keeps _ _ _)
    | with_reducible apply Keeps.after (State.freeStep_keeps _)
    | with_reducible refine Keeps.ite ?_ ?_
    | split
    | extract_lets -merge
    | rintro _ ⟨⟩
    | with_reducible apply Keeps.getD
    | contradiction
    | intro _ _
    | refine Keeps.fst ?_ (by with_reducible assumption)
    | dsimp +zetaDelta only

theorem State.sendPairPub_keeps (a0 : Nat) (s : State) : Keeps 0xc8200000522 s (State.sendPairPub a0 s) := by
  unfold State.sendPairPub
  repeat' first
    | exact Eq.refl _
    | exact fun _ => Eq.refl _
    | with_reducible exact Keeps.refl _ _
    | assumption
    | with_reducible apply Keeps.after (State.sendFlit_keeps _ _ _ _)
    | with_reducible apply Keeps.after (State.setLink_keeps _ _ _)
    | with_reducible apply Keeps.after (State.freeStep_keeps _)
    | with_reducible refine Keeps.ite ?_ ?_
    | split
    | extract_lets -merge
    | rintro _ ⟨⟩
    | with_reducible apply Keeps.getD
    | contradiction
    | intro _ _
    | refine Keeps.fst ?_ (by with_reducible assumption)
    | dsimp +zetaDelta only

theorem State.trustCheck_keeps (s : State) : Keeps 0x40000000522 s (State.trustCheck s) := by
  unfold State.trustCheck
  repeat' first
    | exact Eq.refl _
    | exact fun _ => Eq.refl _
    | with_reducible exact Keeps.refl _ _
    | assumption
    | with_reducible apply Keeps.after (State.fire_keeps _ _)
    | with_reducible apply Keeps.after (State.setF_keeps _ _ _)
    | with_reducible refine Keeps.ite ?_ ?_
    | split
    | extract_lets -merge
    | rintro _ ⟨⟩
    | with_reducible apply Keeps.getD
    | contradiction
    | intro _ _
    | refine Keeps.fst ?_ (by with_reducible assumption)
    | dsimp +zetaDelta only

theorem State.hamReserve_keeps (a0 : Nat) (s : State) : Keeps 0xc0008030522 s (State.hamReserve a0 s) := by
  unfold State.hamReserve
  repeat' first
    | exact Eq.refl _
    | exact fun _ => Eq.refl _
    | with_reducible exact Keeps.refl _ _
    | assumption
    | with_reducible apply Keeps.after (State.approxNote_keeps _ _)
    | with_reducible apply Keeps.after (State.setLedger_keeps _ _ _)
    | with_reducible refine Keeps.foldl (fun _ _ => ?_) _ ?_
    | with_reducible refine Keeps.foldlFst (fun _ _ _ => ?_) _ ?_
    | with_reducible refine Keeps.foldlSnd (fun _ _ _ => ?_) _ ?_
    | with_reducible refine Keeps.ite ?_ ?_
    | split
    | extract_lets -merge
    | rintro _ ⟨⟩
    | with_reducible apply Keeps.getD
    | contradiction
    | intro _ _
    | refine Keeps.fst ?_ (by with_reducible assumption)
    | dsimp +zetaDelta only

theorem State.adoptSlot_keeps (a0 : Nat) (a1 : Bool) (a2 : Bool) (s : State) : Keeps 0xc1408030522 s (State.adoptSlot a0 a1 a2 s) := by
  unfold State.adoptSlot
  repeat' first
    | exact Eq.refl _
    | exact fun _ => Eq.refl _
    | with_reducible exact Keeps.refl _ _
    | assumption
    | with_reducible apply Keeps.after (State.calRead_keeps _ _)
    | with_reducible apply Keeps.after (State.setAdopt_keeps _ _ _)
    | with_reducible apply Keeps.after (State.putSerials_keeps _ _)
    | with_reducible apply Keeps.after (State.setCart_keeps _ _ _)
    | with_reducible apply Keeps.after (State.hamReserve_keeps _ _)
    | with_reducible apply Keeps.after (State.bastKeep_keeps _ _)
    | with_reducible apply Keeps.after (State.flushRow_keeps _ _)
    | with_reducible apply Keeps.after (State.rebuildStart_keeps _ _ _)
    | with_reducible apply Keeps.after (State.setGroupMedia_keeps _ _ _)
    | with_reducible apply Keeps.after (State.modMed_keeps _ _ )
    | with_reducible refine Keeps.ite ?_ ?_
    | split
    | extract_lets -merge
    | rintro _ ⟨⟩
    | with_reducible apply Keeps.getD
    | contradiction
    | intro _ _
    | refine Keeps.fst ?_ (by with_reducible assumption)
    | dsimp +zetaDelta only

theorem State.adoptionDone_keeps (s : State) : Keeps 0xca57fe315a2 s (State.adoptionDone s) := by
  unfold State.adoptionDone
  repeat' first
    | exact Eq.refl _
    | exact fun _ => Eq.refl _
    | with_reducible exact Keeps.refl _ _
    | assumption
    | with_reducible apply Keeps.after (State.groupNow_keeps _ _)
    | with_reducible apply Keeps.after (State.capacityUpdate_keeps _)
    | with_reducible apply Keeps.after (State.indicateCheck_keeps _ _)
    | with_reducible apply Keeps.after (State.gaugeUpdate_keeps _ _)
    | with_reducible apply Keeps.after (State.flushUpdate_keeps _)
    | with_reducible apply Keeps.after (State.unstick_keeps _)
    | with_reducible apply Keeps.after (State.levelUpdate_keeps _ _)
    | with_reducible refine Keeps.foldl (fun _ _ => ?_) _ ?_
    | with_reducible refine Keeps.foldlFst (fun _ _ _ => ?_) _ ?_
    | with_reducible refine Keeps.foldlSnd (fun _ _ _ => ?_) _ ?_
    | with_reducible refine Keeps.ite ?_ ?_
    | split
    | extract_lets -merge
    | rintro _ ⟨⟩
    | with_reducible apply Keeps.getD
    | contradiction
    | intro _ _
    | refine Keeps.fst ?_ (by with_reducible assumption)
    | dsimp +zetaDelta only

theorem State.anchorSerials_keeps (s : State) : Keeps 0x1000000000 s (State.anchorSerials s) := by
  unfold State.anchorSerials
  repeat' first
    | exact Eq.refl _
    | exact fun _ => Eq.refl _
    | with_reducible exact Keeps.refl _ _
    | assumption
    | with_reducible apply Keeps.after (State.putSerials_keeps _ _)
    | with_reducible refine Keeps.foldl (fun _ _ => ?_) _ ?_
    | with_reducible refine Keeps.foldlFst (fun _ _ _ => ?_) _ ?_
    | with_reducible refine Keeps.foldlSnd (fun _ _ _ => ?_) _ ?_
    | with_reducible refine Keeps.ite ?_ ?_
    | split
    | extract_lets -merge
    | rintro _ ⟨⟩
    | with_reducible apply Keeps.getD
    | contradiction
    | intro _ _
    | refine Keeps.fst ?_ (by with_reducible assumption)
    | dsimp +zetaDelta only

theorem State.adoptAll_keeps (s : State) : Keeps 0xcbd7fe315a2 s (State.adoptAll s).1 := by
  unfold State.adoptAll
  repeat' first
    | exact Eq.refl _
    | exact fun _ => Eq.refl _
    | with_reducible exact Keeps.refl _ _
    | assumption
    | with_reducible apply Keeps.after (State.trustCheck_keeps _)
    | with_reducible apply Keeps.after (State.putSerials_keeps _ _)
    | with_reducible apply Keeps.after (State.putSetId_keeps _ _)
    | with_reducible apply Keeps.after (State.freeStep_keeps _)
    | with_reducible apply Keeps.after (State.anchorSerials_keeps _)
    | with_reducible apply Keeps.after (State.adoptSlot_keeps _ _ _ _)
    | with_reducible apply Keeps.after (State.modMed_keeps _ _ )
    | with_reducible apply Keeps.after (State.adoptionDone_keeps _)
    | with_reducible refine Keeps.foldl (fun _ _ => ?_) _ ?_
    | with_reducible refine Keeps.foldlFst (fun _ _ _ => ?_) _ ?_
    | with_reducible refine Keeps.foldlSnd (fun _ _ _ => ?_) _ ?_
    | with_reducible refine Keeps.ite ?_ ?_
    | split
    | extract_lets -merge
    | rintro _ ⟨⟩
    | with_reducible apply Keeps.getD
    | contradiction
    | intro _ _
    | refine Keeps.fst ?_ (by with_reducible assumption)
    | dsimp +zetaDelta only

theorem State.planFire_keeps (s : State) : Keeps 0x40000000522 s (State.planFire s) := by
  unfold State.planFire
  repeat' first
    | exact Eq.refl _
    | exact fun _ => Eq.refl _
    | with_reducible exact Keeps.refl _ _
    | assumption
    | with_reducible apply Keeps.after (State.fire_keeps _ _)
    | with_reducible refine Keeps.ite ?_ ?_
    | split
    | extract_lets -merge
    | rintro _ ⟨⟩
    | with_reducible apply Keeps.getD
    | contradiction
    | intro _ _
    | refine Keeps.fst ?_ (by with_reducible assumption)
    | dsimp +zetaDelta only

theorem State.causeShow_keeps (a0 : Nat) (s : State) : Keeps 0x40000130522 s (State.causeShow a0 s) := by
  unfold State.causeShow
  repeat' first
    | exact Eq.refl _
    | exact fun _ => Eq.refl _
    | with_reducible exact Keeps.refl _ _
    | assumption
    | with_reducible apply Keeps.after (State.startCause_keeps _ _ _)
    | with_reducible apply Keeps.after (State.planFire_keeps _)
    | with_reducible apply Keeps.after (State.causeClear_keeps _)
    | with_reducible refine Keeps.ite ?_ ?_
    | split
    | extract_lets -merge
    | rintro _ ⟨⟩
    | with_reducible apply Keeps.getD
    | contradiction
    | intro _ _
    | refine Keeps.fst ?_ (by with_reducible assumption)
    | dsimp +zetaDelta only

theorem State.mappedNow_keeps (s : State) : Keeps 0x8000002 s (State.mappedNow s) := by
  unfold State.mappedNow
  repeat' first
    | exact Eq.refl _
    | exact fun _ => Eq.refl _
    | with_reducible exact Keeps.refl _ _
    | assumption
    | with_reducible apply Keeps.after (State.setF_keeps _ _ _)
    | with_reducible apply Keeps.after (State.modMed_keeps _ _ )
    | with_reducible refine Keeps.ite ?_ ?_
    | split
    | extract_lets -merge
    | rintro _ ⟨⟩
    | with_reducible apply Keeps.getD
    | contradiction
    | intro _ _
    | refine Keeps.fst ?_ (by with_reducible assumption)
    | dsimp +zetaDelta only

theorem State.copyBRead_keeps (s : State) : Keeps 0x20002 s (State.copyBRead s) := by
  unfold State.copyBRead
  repeat' first
    | exact Eq.refl _
    | exact fun _ => Eq.refl _
    | with_reducible exact Keeps.refl _ _
    | assumption
    | with_reducible apply Keeps.after (State.putHam_keeps _ _)
    | with_reducible apply Keeps.after (State.hamRegs_keeps _)
    | with_reducible refine Keeps.foldl (fun _ _ => ?_) _ ?_
    | with_reducible refine Keeps.foldlFst (fun _ _ _ => ?_) _ ?_
    | with_reducible refine Keeps.foldlSnd (fun _ _ _ => ?_) _ ?_
    | with_reducible refine Keeps.ite ?_ ?_
    | split
    | extract_lets -merge
    | rintro _ ⟨⟩
    | with_reducible apply Keeps.getD
    | contradiction
    | intro _ _
    | refine Keeps.fst ?_ (by with_reducible assumption)
    | dsimp +zetaDelta only

theorem State.stepSix_keeps (s : State) : Keeps 0x42508130522 s (State.stepSix s) := by
  unfold State.stepSix
  repeat' first
    | exact Eq.refl _
    | exact fun _ => Eq.refl _
    | with_reducible exact Keeps.refl _ _
    | assumption
    | with_reducible apply Keeps.after (State.keyStoreRead_keeps _)
    | with_reducible apply Keeps.after (State.copyBRead_keeps _)
    | with_reducible apply Keeps.after (State.stepDone_keeps _ _)
    | with_reducible apply Keeps.after (State.mappedNow_keeps _)
    | with_reducible apply Keeps.after (State.causeClear_keeps _)
    | with_reducible apply Keeps.after (State.modStart_keeps _ _ )
    | with_reducible apply Keeps.after (State.modSpl_keeps _ _ ?_)
    | with_reducible apply Keeps.after (State.causeShow_keeps _ _)
    | with_reducible refine Keeps.ite ?_ ?_
    | split
    | extract_lets -merge
    | rintro _ ⟨⟩
    | with_reducible apply Keeps.getD
    | contradiction
    | intro _ _
    | refine Keeps.fst ?_ (by with_reducible assumption)
    | dsimp +zetaDelta only

theorem State.stepTwoDone_keeps (s : State) : Keeps 0x40000102802 s (State.stepTwoDone s) := by
  unfold State.stepTwoDone
  repeat' first
    | exact Eq.refl _
    | exact fun _ => Eq.refl _
    | with_reducible exact Keeps.refl _ _
    | assumption
    | with_reducible apply Keeps.after (State.stepDone_keeps _ _)
    | with_reducible apply Keeps.after (State.modPace_keeps _ _ )
    | with_reducible apply Keeps.after (State.avsSend_keeps _ _)
    | with_reducible apply Keeps.after (State.powerUpBegin_keeps _)
    | with_reducible refine Keeps.ite ?_ ?_
    | split
    | extract_lets -merge
    | rintro _ ⟨⟩
    | with_reducible apply Keeps.getD
    | contradiction
    | intro _ _
    | refine Keeps.fst ?_ (by with_reducible assumption)
    | dsimp +zetaDelta only

theorem State.reevaluate_keeps (s : State) : Keeps 0xcbd7ff33da2 s (State.reevaluate s) := by
  unfold State.reevaluate
  repeat' first
    | exact Eq.refl _
    | exact fun _ => Eq.refl _
    | with_reducible exact Keeps.refl _ _
    | assumption
    | with_reducible apply Keeps.after (State.startCause_keeps _ _ _)
    | with_reducible apply Keeps.after (State.modStart_keeps _ _ )
    | with_reducible apply Keeps.after (State.causeClear_keeps _)
    | with_reducible apply Keeps.after (State.stepTwoDone_keeps _)
    | with_reducible apply Keeps.after (State.adoptAll_keeps _)
    | with_reducible apply Keeps.after (State.stepSix_keeps _)
    | with_reducible apply Keeps.after (State.stepDone_keeps _ _)
    | with_reducible apply Keeps.after (State.causeShow_keeps _ _)
    | with_reducible refine Keeps.ite ?_ ?_
    | split
    | extract_lets -merge
    | rintro _ ⟨⟩
    | with_reducible apply Keeps.getD
    | contradiction
    | intro _ _
    | refine Keeps.fst ?_ (by with_reducible assumption)
    | dsimp +zetaDelta only

end Sys2Proof.Machine
end

