-- ==== Sys2Proof/Laws/KeepsLink.lean ====
section
/-!
SUPPORT. What the operations of Machine/Link.lean leave unchanged.
-/
namespace Sys2Proof.Machine

theorem State.recordRegs_keeps (a0 : Nat → Fld) (a1 : Nat) (a2 : List Byte) (s : State) : Keeps 0x2 s (State.recordRegs a0 a1 a2 s) := by
  unfold State.recordRegs
  repeat' first
    | exact Eq.refl _
    | exact fun _ => Eq.refl _
    | with_reducible exact Keeps.refl _ _
    | assumption
    | with_reducible apply Keeps.after (State.setF_keeps _ _ _)
    | with_reducible refine Keeps.foldl (fun _ _ => ?_) _ ?_
    | with_reducible refine Keeps.foldlFst (fun _ _ _ => ?_) _ ?_
    | with_reducible refine Keeps.foldlSnd (fun _ _ _ => ?_) _ ?_
    | with_reducible refine Keeps.ite ?_ ?_
    | split
    | extract_lets -merge
    | rintro _ ⟨⟩
    | with_reducible apply Keeps.getD
    | contradiction
    | intro _ _
    | refine Keeps.fst ?_ (by with_reducible assumption)
    | dsimp +zetaDelta only

theorem State.healthTake_keeps (a0 : Nat) (a1 : Nat) (a2 : Nat) (a3 : Nat) (s : State) : Keeps 0xca57fe315a2 s (State.healthTake a0 a1 a2 a3 s) := by
  unfold State.healthTake
  repeat' first
    | exact Eq.refl _
    | exact fun _ => Eq.refl _
    | with_reducible exact Keeps.refl _ _
    | assumption
    | with_reducible apply Keeps.after (State.setCart_keeps _ _ _)
    | with_reducible apply Keeps.after (State.dieFail_keeps _ _ _)
    | with_reducible apply Keeps.after (State.indicateCheck_keeps _ _)
    | with_reducible refine Keeps.foldl (fun _ _ => ?_) _ ?_
    | with_reducible refine Keeps.foldlFst (fun _ _ _ => ?_) _ ?_
    | with_reducible refine Keeps.foldlSnd (fun _ _ _ => ?_) _ ?_
    | with_reducible refine Keeps.ite ?_ ?_
    | split
    | extract_lets -merge
    | rintro _ ⟨⟩
    | with_reducible apply Keeps.getD
    | contradiction
    | intro _ _
    | refine Keeps.fst ?_ (by with_reducible assumption)
    | dsimp +zetaDelta only

theorem State.linkUp_keeps (a0 : Nat) (s : State) : Keeps 0x40208000522 s (State.linkUp a0 s) := by
  unfold State.linkUp
  repeat' first
    | exact Eq.refl _
    | exact fun _ => Eq.refl _
    | with_reducible exact Keeps.refl _ _
    | assumption
    | with_reducible apply Keeps.after (State.setLink_keeps _ _ _)
    | with_reducible apply Keeps.after (State.flushUpdate_keeps _)
    | with_reducible apply Keeps.after (State.presenceUpdate_keeps _ _)
    | with_reducible apply Keeps.after (State.fire_keeps _ _)
    | with_reducible apply Keeps.after (State.setF_keeps _ _ _)
    | with_reducible refine Keeps.ite ?_ ?_
    | split
    | extract_lets -merge
    | rintro _ ⟨⟩
    | with_reducible apply Keeps.getD
    | contradiction
    | intro _ _
    | refine Keeps.fst ?_ (by with_reducible assumption)
    | dsimp +zetaDelta only

theorem State.ledgerRead_keeps (a0 : Nat) (s : State) : Keeps 0xcbf7ff33da2 s (State.ledgerRead a0 s) := by
  unfold State.ledgerRead
  repeat' first
    | exact Eq.refl _
    | exact fun _ => Eq.refl _
    | with_reducible exact Keeps.refl _ _
    | assumption
    | with_reducible apply Keeps.after (State.setLink_keeps _ _ _)
    | with_reducible apply Keeps.after (State.reevaluate_keeps _)
    | with_reducible apply Keeps.after (State.adoptionDone_keeps _)
    | with_reducible apply Keeps.after (State.adoptSlot_keeps _ _ _ _)
    | with_reducible refine Keeps.ite ?_ ?_
    | split
    | extract_lets -merge
    | rintro _ ⟨⟩
    | with_reducible apply Keeps.getD
    | contradiction
    | intro _ _
    | refine Keeps.fst ?_ (by with_reducible assumption)
    | dsimp +zetaDelta only

theorem State.ledgerRecover_keeps (a0 : Nat) (s : State) : Keeps 0x8000000 s (State.ledgerRecover a0 s) := by
  unfold State.ledgerRecover
  repeat' first
    | exact Eq.refl _
    | exact fun _ => Eq.refl _
    | with_reducible exact Keeps.refl _ _
    | assumption
    | with_reducible apply Keeps.after (State.setLedger_keeps _ _ _)
    | with_reducible refine Keeps.foldl (fun _ _ => ?_) _ ?_
    | with_reducible refine Keeps.foldlFst (fun _ _ _ => ?_) _ ?_
    | with_reducible refine Keeps.foldlSnd (fun _ _ _ => ?_) _ ?_
    | with_reducible refine Keeps.ite ?_ ?_
    | split
    | extract_lets -merge
    | rintro _ ⟨⟩
    | with_reducible apply Keeps.getD
    | contradiction
    | intro _ _
    | refine Keeps.fst ?_ (by with_reducible assumption)
    | dsimp +zetaDelta only

theorem State.ledgerUnread_keeps (a0 : Nat) (a1 : Nat) (s : State) : Keeps 0xcbf7ff33da2 s (State.ledgerUnread a0 a1 s) := by
  unfold State.ledgerUnread
  repeat' first
    | exact Eq.refl _
    | exact fun _ => Eq.refl _
    | with_reducible exact Keeps.refl _ _
    | assumption
    | with_reducible apply Keeps.after (State.ledgerRecover_keeps _ _)
    | with_reducible apply Keeps.after (State.ledgerRead_keeps _ _)
    | with_reducible refine Keeps.foldl (fun _ _ => ?_) _ ?_
    | with_reducible refine Keeps.foldlFst (fun _ _ _ => ?_) _ ?_
    | with_reducible refine Keeps.foldlSnd (fun _ _ _ => ?_) _ ?_
    | with_reducible refine Keeps.ite ?_ ?_
    | split
    | extract_lets -merge
    | rintro _ ⟨⟩
    | with_reducible apply Keeps.getD
    | contradiction
    | intro _ _
    | refine Keeps.fst ?_ (by with_reducible assumption)
    | dsimp +zetaDelta only

theorem State.freeCmd_keeps (a0 : Nat) (a1 : Nat) (s : State) : Keeps 0x200000000 s (State.freeCmd a0 a1 s) := by
  unfold State.freeCmd
  repeat' first
    | exact Eq.refl _
    | exact fun _ => Eq.refl _
    | with_reducible exact Keeps.refl _ _
    | assumption
    | with_reducible apply Keeps.after (State.setLink_keeps _ _ _)
    | with_reducible refine Keeps.ite ?_ ?_
    | split
    | extract_lets -merge
    | rintro _ ⟨⟩
    | with_reducible apply Keeps.getD
    | contradiction
    | intro _ _
    | refine Keeps.fst ?_ (by with_reducible assumption)
    | dsimp +zetaDelta only

theorem State.refusal_keeps (a0 : Nat) (a1 : CmdRec) (s : State) : Keeps 0x40408000522 s (State.refusal a0 a1 s) := by
  unfold State.refusal
  repeat' first
    | exact Eq.refl _
    | exact fun _ => Eq.refl _
    | with_reducible exact Keeps.refl _ _
    | assumption
    | with_reducible apply Keeps.after (State.modMed_keeps _ _ )
    | with_reducible apply Keeps.after (State.setWindow_keeps _ _ _)
    | with_reducible apply Keeps.after (State.setCart_keeps _ _ _)
    | with_reducible refine Keeps.ite ?_ ?_
    | split
    | extract_lets -merge
    | rintro _ ⟨⟩
    | with_reducible apply Keeps.getD
    | contradiction
    | intro _ _
    | refine Keeps.fst ?_ (by with_reducible assumption)
    | dsimp +zetaDelta only

theorem State.cmdDone_keeps (a0 : Nat) (a1 : CmdRec) (a2 : List Byte) (s : State) : Keeps 0xcbf7ff33da2 s (State.cmdDone a0 a1 a2 s) := by
  unfold State.cmdDone
  repeat' first
    | exact Eq.refl _
    | exact fun _ => Eq.refl _
    | with_reducible exact Keeps.refl _ _
    | assumption
    | with_reducible apply Keeps.after (State.ledgerRead_keeps _ _)
    | with_reducible apply Keeps.after (State.setLink_keeps _ _ _)
    | with_reducible apply Keeps.after (State.setCart_keeps _ _ _)
    | with_reducible apply Keeps.after (State.linkUp_keeps _ _)
    | with_reducible apply Keeps.after (State.recordRegs_keeps _ _ _ _)
    | with_reducible apply Keeps.after (State.healthTake_keeps _ _ _ _ _)
    | with_reducible apply Keeps.after (State.setF_keeps _ _ _)
    | with_reducible apply Keeps.after (State.linkTrain_keeps _ _ _)
    | with_reducible refine Keeps.ite ?_ ?_
    | split
    | extract_lets -merge
    | rintro _ ⟨⟩
    | with_reducible apply Keeps.getD
    | contradiction
    | intro _ _
    | refine Keeps.fst ?_ (by with_reducible assumption)
    | dsimp +zetaDelta only

theorem State.carDone_keeps (a0 : Nat) (a1 : Nat) (s : State) : Keeps 0x400000002 s (State.carDone a0 a1 s) := by
  unfold State.carDone
  repeat' first
    | exact Eq.refl _
    | exact fun _ => Eq.refl _
    | with_reducible exact Keeps.refl _ _
    | assumption
    | with_reducible apply Keeps.after (State.setCart_keeps _ _ _)
    | with_reducible apply Keeps.after (State.setF_keeps _ _ _)
    | with_reducible refine Keeps.ite ?_ ?_
    | split
    | extract_lets -merge
    | rintro _ ⟨⟩
    | with_reducible apply Keeps.getD
    | contradiction
    | intro _ _
    | refine Keeps.fst ?_ (by with_reducible assumption)
    | dsimp +zetaDelta only

theorem State.carFail_keeps (a0 : Nat) (s : State) : Keeps 0x400000002 s (State.carFail a0 s) := by
  unfold State.carFail
  repeat' first
    | exact Eq.refl _
    | exact fun _ => Eq.refl _
    | with_reducible exact Keeps.refl _ _
    | assumption
    | with_reducible apply Keeps.after (State.carDone_keeps _ _ _)
    | with_reducible refine Keeps.ite ?_ ?_
    | split
    | extract_lets -merge
    | rintro _ ⟨⟩
    | with_reducible apply Keeps.getD
    | contradiction
    | intro _ _
    | refine Keeps.fst ?_ (by with_reducible assumption)
    | dsimp +zetaDelta only

theorem State.retrainCmd_keeps (a0 : Nat) (s : State) : Keeps 0xea77fe315a2 s (State.retrainCmd a0 s) := by
  unfold State.retrainCmd
  repeat' first
    | exact Eq.refl _
    | exact fun _ => Eq.refl _
    | with_reducible exact Keeps.refl _ _
    | assumption
    | with_reducible apply Keeps.after (State.retrain_keeps _ _)
    | with_reducible apply Keeps.after (State.healthCheck_keeps _)
    | with_reducible apply Keeps.after (State.setFlag_keeps _ _ _)
    | with_reducible refine Keeps.ite ?_ ?_
    | split
    | extract_lets -merge
    | rintro _ ⟨⟩
    | with_reducible apply Keeps.getD
    | contradiction
    | intro _ _
    | refine Keeps.fst ?_ (by with_reducible assumption)
    | dsimp +zetaDelta only

theorem State.unquarantineCmd_keeps (a0 : Nat) (s : State) : Keeps 0x60700400522 s (State.unquarantineCmd a0 s) := by
  unfold State.unquarantineCmd
  repeat' first
    | exact Eq.refl _
    | exact fun _ => Eq.refl _
    | with_reducible exact Keeps.refl _ _
    | assumption
    | with_reducible apply Keeps.after (State.setLink_keeps _ _ _)
    | with_reducible apply Keeps.after (State.setCart_keeps _ _ _)
    | with_reducible apply Keeps.after (State.setF_keeps _ _ _)
    | with_reducible apply Keeps.after (State.healthCheck_keeps _)
    | with_reducible apply Keeps.after (State.linkTrain_keeps _ _ _)
    | with_reducible refine Keeps.ite ?_ ?_
    | split
    | extract_lets -merge
    | rintro _ ⟨⟩
    | with_reducible apply Keeps.getD
    | contradiction
    | intro _ _
    | refine Keeps.fst ?_ (by with_reducible assumption)
    | dsimp +zetaDelta only

end Sys2Proof.Machine
end

