-- ==== Sys2Proof/Laws/KeepsSpool.lean ====
section
/-!
SUPPORT. What the operations of Machine/Spool.lean leave unchanged.
-/
namespace Sys2Proof.Machine

theorem State.spoolError_keeps (a0 : Nat) (a1 : Nat) (a2 : Nat) (s : State) : Keeps 0x42000000522 s (State.spoolError a0 a1 a2 s) := by
  unfold State.spoolError
  repeat' first
    | exact Eq.refl _
    | exact fun _ => Eq.refl _
    | with_reducible exact Keeps.refl _ _
    | assumption
    | with_reducible apply Keeps.after (State.setCtx_keeps _ _ _)
    | with_reducible apply Keeps.after (State.fire_keeps _ _)
    | with_reducible apply Keeps.after (State.setF_keeps _ _ _)
    | with_reducible refine Keeps.ite ?_ ?_
    | split
    | extract_lets -merge
    | rintro _ ⟨⟩
    | with_reducible apply Keeps.getD
    | contradiction
    | intro _ _
    | refine Keeps.fst ?_ (by with_reducible assumption)
    | dsimp +zetaDelta only

theorem State.spoolEnable_keeps (a0 : Nat) (s : State) : Keeps 0x42000000522 s (State.spoolEnable a0 s) := by
  unfold State.spoolEnable
  repeat' first
    | exact Eq.refl _
    | exact fun _ => Eq.refl _
    | with_reducible exact Keeps.refl _ _
    | assumption
    | with_reducible apply Keeps.after (State.setCtx_keeps _ _ _)
    | with_reducible apply Keeps.after (State.spoolError_keeps _ _ _ _)
    | with_reducible apply Keeps.after (State.putSpl_keeps _ _ ?_)
    | with_reducible apply Keeps.after (State.gapCheck_keeps _ _)
    | with_reducible exact fun c => ⟨c.tackOk, c.hemOk⟩
    | with_reducible exact fun c => ⟨Tab.wf_set _ _ _ _ c.tackOk, c.hemOk⟩
    | with_reducible exact fun c => ⟨c.tackOk, Tab.wf_set _ _ _ _ c.hemOk⟩
    | with_reducible exact fun c => c.memOk
    | with_reducible exact fun c => c.flashOk
    | with_reducible exact fun c => Tab.wf_setBytes _ _ _ _ c.memOk
    | with_reducible exact fun c => Tab.wf_filter _ _ _ c.memOk
    | with_reducible refine Keeps.ite ?_ ?_
    | split
    | extract_lets -merge
    | rintro _ ⟨⟩
    | with_reducible apply Keeps.getD
    | contradiction
    | intro _ _
    | refine Keeps.fst ?_ (by with_reducible assumption)
    | dsimp +zetaDelta only

theorem State.spoolDisable_keeps (a0 : Nat) (s : State) : Keeps 0x2010000000 s (State.spoolDisable a0 s) := by
  unfold State.spoolDisable
  repeat' first
    | exact Eq.refl _
    | exact fun _ => Eq.refl _
    | with_reducible exact Keeps.refl _ _
    | assumption
    | with_reducible apply Keeps.after (State.setCtx_keeps _ _ _)
    | with_reducible apply Keeps.after (State.flowsDrop_keeps _ _)
    | with_reducible apply Keeps.after (State.modSpl_keeps _ _ ?_)
    | with_reducible refine Keeps.ite ?_ ?_
    | split
    | extract_lets -merge
    | rintro _ ⟨⟩
    | with_reducible apply Keeps.getD
    | contradiction
    | intro _ _
    | refine Keeps.fst ?_ (by with_reducible assumption)
    | dsimp +zetaDelta only

theorem State.ctxApply_keeps (a0 : Nat) (a1 : Nat) (a2 : Nat) (s : State) : Keeps 0x42010000522 s (State.ctxApply a0 a1 a2 s) := by
  unfold State.ctxApply
  repeat' first
    | exact Eq.refl _
    | exact fun _ => Eq.refl _
    | with_reducible exact Keeps.refl _ _
    | assumption
    | with_reducible apply Keeps.after (State.setCtx_keeps _ _ _)
    | with_reducible apply Keeps.after (State.spoolEnable_keeps _ _)
    | with_reducible apply Keeps.after (State.spoolDisable_keeps _ _)
    | with_reducible refine Keeps.ite ?_ ?_
    | split
    | extract_lets -merge
    | rintro _ ⟨⟩
    | with_reducible apply Keeps.getD
    | contradiction
    | intro _ _
    | refine Keeps.fst ?_ (by with_reducible assumption)
    | dsimp +zetaDelta only

theorem State.splSeam_keeps (s : State) : Keeps 0x42010000522 s (State.splSeam s) := by
  unfold State.splSeam
  repeat' first
    | exact Eq.refl _
    | exact fun _ => Eq.refl _
    | with_reducible exact Keeps.refl _ _
    | assumption
    | with_reducible apply Keeps.after (State.ctxApply_keeps _ _ _ _)
    | with_reducible apply Keeps.after (State.modSpl_keeps _ _ ?_)
    | with_reducible refine Keeps.foldl (fun _ _ => ?_) _ ?_
    | with_reducible refine Keeps.foldlFst (fun _ _ _ => ?_) _ ?_
    | with_reducible refine Keeps.foldlSnd (fun _ _ _ => ?_) _ ?_
    | with_reducible refine Keeps.ite ?_ ?_
    | split
    | extract_lets -merge
    | rintro _ ⟨⟩
    | with_reducible apply Keeps.getD
    | contradiction
    | intro _ _
    | refine Keeps.fst ?_ (by with_reducible assumption)
    | dsimp +zetaDelta only

theorem State.ctxWrite_keeps (a0 : Nat) (a1 : Nat) (a2 : Word) (s : State) : Keeps 0x2000000002 s (State.ctxWrite a0 a1 a2 s) := by
  unfold State.ctxWrite
  repeat' first
    | exact Eq.refl _
    | exact fun _ => Eq.refl _
    | with_reducible exact Keeps.refl _ _
    | assumption
    | with_reducible apply Keeps.after (State.countF_keeps _ _ _)
    | with_reducible apply Keeps.after (State.setF_keeps _ _ _)
    | with_reducible apply Keeps.after (State.modSpl_keeps _ _ ?_)
    | with_reducible refine Keeps.ite ?_ ?_
    | split
    | extract_lets -merge
    | rintro _ ⟨⟩
    | with_reducible apply Keeps.getD
    | contradiction
    | intro _ _
    | refine Keeps.fst ?_ (by with_reducible assumption)
    | dsimp +zetaDelta only

theorem State.doorbell_keeps (a0 : Nat) (a1 : Word) (s : State) : Keeps 0x42000000522 s (State.doorbell a0 a1 s) := by
  unfold State.doorbell
  repeat' first
    | exact Eq.refl _
    | exact fun _ => Eq.refl _
    | with_reducible exact Keeps.refl _ _
    | assumption
    | with_reducible apply Keeps.after (State.countF_keeps _ _ _)
    | with_reducible apply Keeps.after (State.setCtx_keeps _ _ _)
    | with_reducible apply Keeps.after (State.spoolError_keeps _ _ _ _)
    | with_reducible apply Keeps.after (State.gapCheck_keeps _ _)
    | with_reducible apply Keeps.after (State.spoolSignal_keeps _ _)
    | with_reducible refine Keeps.ite ?_ ?_
    | split
    | extract_lets -merge
    | rintro _ ⟨⟩
    | with_reducible apply Keeps.getD
    | contradiction
    | intro _ _
    | refine Keeps.fst ?_ (by with_reducible assumption)
    | dsimp +zetaDelta only

end Sys2Proof.Machine
end

