-- ==== Sys2Proof/Laws/KeepsMover.lean ====
section
/-!
SUPPORT. What the operations of Machine/Mover.lean leave unchanged.
-/
namespace Sys2Proof.Machine

theorem State.writeLine_keeps (a0 : Nat) (a1 : Line) (a2 : Bool) (s : State) : Keeps 0xca57fe315a2 s (State.writeLine a0 a1 a2 s).1 := by
  unfold State.writeLine
  repeat' first
    | exact Eq.refl _
    | exact fun _ => Eq.refl _
    | with_reducible exact Keeps.refl _ _
    | assumption
    | with_reducible apply Keeps.after (State.dirtiedRecord_keeps _)
    | with_reducible apply Keeps.after (State.fire_keeps _ _)
    | with_reducible apply Keeps.after (State.modMed_keeps _ _ )
    | with_reducible apply Keeps.after (State.sealedWrite_keeps _ _)
    | with_reducible apply Keeps.after (State.commitLine_keeps _ _)
    | with_reducible apply Keeps.after (State.stallSlice_keeps _ _)
    | with_reducible apply Keeps.after (State.storeWrite_keeps _ _ _ _ _ _ (by assumption))
    | with_reducible apply Keeps.after (State.stagingSlice_keeps _ _)
    | with_reducible apply Keeps.after (State.dropMarks_keeps _ _)
    | with_reducible apply Keeps.after (State.setSealBit_keeps _ _ _)
    | with_reducible apply Keeps.after (State.dirtyChanged_keeps _)
    | with_reducible apply Keeps.after (State.stallEnd_keeps _)
    | with_reducible apply Keeps.after (State.putLds_keeps _ _)
    | with_reducible refine Keeps.ite ?_ ?_
    | split
    | extract_lets -merge
    | rintro _ ⟨⟩
    | with_reducible apply Keeps.getD
    | contradiction
    | intro _ _
    | refine Keeps.fst ?_ (by with_reducible assumption)
    | dsimp +zetaDelta only

theorem State.markLine_keeps (a0 : Nat) (a1 : Nat) (s : State) : Keeps 0xca57fe315a2 s (State.markLine a0 a1 s).1 := by
  unfold State.markLine
  repeat' first
    | exact Eq.refl _
    | exact fun _ => Eq.refl _
    | with_reducible exact Keeps.refl _ _
    | assumption
    | with_reducible apply Keeps.after (State.writeLine_keeps _ _ _ _)
    | with_reducible refine Keeps.ite ?_ ?_
    | split
    | extract_lets -merge
    | rintro _ ⟨⟩
    | with_reducible apply Keeps.getD
    | contradiction
    | intro _ _
    | refine Keeps.fst ?_ (by with_reducible assumption)
    | dsimp +zetaDelta only

theorem State.scrubTag_keeps (a0 : Nat) (a1 : Option Nat) (a2 : ScrubSum) (s : State) : Keeps 0x400000305a2 s (State.scrubTag a0 a1 a2 s).1 := by
  unfold State.scrubTag
  repeat' first
    | exact Eq.refl _
    | exact fun _ => Eq.refl _
    | with_reducible exact Keeps.refl _ _
    | assumption
    | with_reducible apply Keeps.after (State.tagFailEgress_keeps _ _ _ _)
    | with_reducible refine Keeps.ite ?_ ?_
    | split
    | extract_lets -merge
    | rintro _ ⟨⟩
    | with_reducible apply Keeps.getD
    | contradiction
    | intro _ _
    | refine Keeps.fst ?_ (by with_reducible assumption)
    | dsimp +zetaDelta only

theorem State.scrubCopy_keeps (a0 : Nat) (a1 : Option Nat) (a2 : Option Line) (a3 : ScrubSum) (s : State) : Keeps 0x4004e0305a2 s (State.scrubCopy a0 a1 a2 a3 s).1 := by
  unfold State.scrubCopy
  repeat' first
    | exact Eq.refl _
    | exact fun _ => Eq.refl _
    | with_reducible exact Keeps.refl _ _
    | assumption
    | with_reducible apply Keeps.after (State.injCached_keeps _ _)
    | with_reducible apply Keeps.after (State.lineError_keeps _ _)
    | with_reducible apply Keeps.after (State.scrubTag_keeps _ _ _ _)
    | with_reducible refine Keeps.ite ?_ ?_
    | split
    | extract_lets -merge
    | rintro _ ⟨⟩
    | with_reducible apply Keeps.getD
    | contradiction
    | intro _ _
    | refine Keeps.fst ?_ (by with_reducible assumption)
    | dsimp +zetaDelta only

theorem State.scrubLine_keeps (a0 : Nat) (a1 : Option Nat) (a2 : ScrubSum) (s : State) : ∀ r, State.scrubLine a0 a1 a2 s = some r → Keeps 0x4804e0305a2 s r.1 := by
  unfold State.scrubLine
  repeat' first
    | exact Eq.refl _
    | exact fun _ => Eq.refl _
    | with_reducible exact Keeps.refl _ _
    | assumption
    | with_reducible apply Keeps.after (State.sense_keeps _ _ _ _)
    | with_reducible apply Keeps.after (State.senseCount_keeps _ _ _ _)
    | with_reducible apply Keeps.after (State.scrubTag_keeps _ _ _ _)
    | with_reducible apply Keeps.after (State.scrubCopy_keeps _ _ _ _ _)
    | with_reducible refine Keeps.ite ?_ ?_
    | split
    | extract_lets -merge
    | rintro _ ⟨⟩
    | with_reducible apply Keeps.getD
    | contradiction
    | intro _ _
    | refine Keeps.fst ?_ (by with_reducible assumption)
    | dsimp +zetaDelta only

end Sys2Proof.Machine
end

