-- ==== Sys2Proof/Laws/KeepsDataMover.lean ====
section
/-!
SUPPORT. What the operations of Machine/DataMover.lean leave unchanged.
-/
namespace Sys2Proof.Machine

theorem State.setOp_keeps (a0 : OpRun) (s : State) : Keeps 0x2000000000 s (State.setOp a0 s) := by
  unfold State.setOp
  repeat' first
    | exact Eq.refl _
    | exact fun _ => Eq.refl _
    | with_reducible exact Keeps.refl _ _
    | assumption
    | with_reducible apply Keeps.after (State.modSpl_keeps _ _ ?_)
    | with_reducible refine Keeps.ite ?_ ?_
    | split
    | extract_lets -merge
    | rintro _ ⟨⟩
    | with_reducible apply Keeps.getD
    | contradiction
    | intro _ _
    | refine Keeps.fst ?_ (by with_reducible assumption)
    | dsimp +zetaDelta only

theorem State.stopOp_keeps (a0 : OpRun) (a1 : Nat) (s : State) : Keeps 0x2010000000 s (State.stopOp a0 a1 s) := by
  unfold State.stopOp
  repeat' first
    | exact Eq.refl _
    | exact fun _ => Eq.refl _
    | with_reducible exact Keeps.refl _ _
    | assumption
    | with_reducible apply Keeps.after (State.setOp_keeps _ _)
    | with_reducible apply Keeps.after (State.flowsDrop_keeps _ _)
    | with_reducible refine Keeps.ite ?_ ?_
    | split
    | extract_lets -merge
    | rintro _ ⟨⟩
    | with_reducible apply Keeps.getD
    | contradiction
    | intro _ _
    | refine Keeps.fst ?_ (by with_reducible assumption)
    | dsimp +zetaDelta only

theorem State.closeOp_keeps (a0 : OpRun) (a1 : Nat) (s : State) : Keeps 0x2010000000 s (State.closeOp a0 a1 s) := by
  unfold State.closeOp
  repeat' first
    | exact Eq.refl _
    | exact fun _ => Eq.refl _
    | with_reducible exact Keeps.refl _ _
    | assumption
    | with_reducible apply Keeps.after (State.stopOp_keeps _ _ _)
    | with_reducible apply Keeps.after (State.setOp_keeps _ _)
    | with_reducible refine Keeps.ite ?_ ?_
    | split
    | extract_lets -merge
    | rintro _ ⟨⟩
    | with_reducible apply Keeps.getD
    | contradiction
    | intro _ _
    | refine Keeps.fst ?_ (by with_reducible assumption)
    | dsimp +zetaDelta only

theorem State.lineStop_keeps (a0 : Nat) (a1 : Nat) (a2 : Bool) (s : State) : ∀ r, State.lineStop a0 a1 a2 s = some r → Keeps 0x400000305a2 s r.1 := by
  unfold State.lineStop
  repeat' first
    | exact Eq.refl _
    | exact fun _ => Eq.refl _
    | with_reducible exact Keeps.refl _ _
    | assumption
    | with_reducible apply Keeps.after (State.deny_keeps _ _ _ _ _ _)
    | with_reducible refine Keeps.ite ?_ ?_
    | split
    | extract_lets -merge
    | rintro _ ⟨⟩
    | with_reducible apply Keeps.getD
    | contradiction
    | intro _ _
    | refine Keeps.fst ?_ (by with_reducible assumption)
    | dsimp +zetaDelta only

theorem State.lineFlow_keeps (a0 : OpRun) (a1 : Nat) (a2 : Bool) (s : State) : Keeps 0xc855f830522 s (State.lineFlow a0 a1 a2 s).1 := by
  unfold State.lineFlow
  repeat' first
    | exact Eq.refl _
    | exact fun _ => Eq.refl _
    | with_reducible exact Keeps.refl _ _
    | assumption
    | with_reducible apply Keeps.after (State.spoolFlow_keeps _ _ _ _)
    | with_reducible refine Keeps.ite ?_ ?_
    | split
    | extract_lets -merge
    | rintro _ ⟨⟩
    | with_reducible apply Keeps.getD
    | contradiction
    | intro _ _
    | refine Keeps.fst ?_ (by with_reducible assumption)
    | dsimp +zetaDelta only

theorem State.opSample_keeps (a0 : OpRun) (a1 : Nat) (a2 : Nat) (a3 : Nat) (a4 : Bool) (s : State) : Keeps 0xca000200522 s (State.opSample a0 a1 a2 a3 a4 s) := by
  unfold State.opSample
  repeat' first
    | exact Eq.refl _
    | exact fun _ => Eq.refl _
    | with_reducible exact Keeps.refl _ _
    | assumption
    | with_reducible apply Keeps.after (State.sampleStep_keeps _ _ _)
    | with_reducible apply Keeps.after (State.samplePush_keeps _ _)
    | with_reducible apply Keeps.after (State.freeStep_keeps _)
    | with_reducible refine Keeps.ite ?_ ?_
    | split
    | extract_lets -merge
    | rintro _ ⟨⟩
    | with_reducible apply Keeps.getD
    | contradiction
    | intro _ _
    | refine Keeps.fst ?_ (by with_reducible assumption)
    | dsimp +zetaDelta only

theorem State.opRead_keeps (a0 : OpRun) (a1 : Nat) (a2 : Bool) (a3 : Bool) (s : State) : Keeps 0xca04f2305a2 s (State.opRead a0 a1 a2 a3 s).1 := by
  unfold State.opRead
  repeat' first
    | exact Eq.refl _
    | exact fun _ => Eq.refl _
    | with_reducible exact Keeps.refl _ _
    | assumption
    | with_reducible apply Keeps.after (State.readLine_keeps _ _ _ _ _)
    | with_reducible apply Keeps.after (State.opSample_keeps _ _ _ _ _ _)
    | with_reducible refine Keeps.ite ?_ ?_
    | split
    | extract_lets -merge
    | rintro _ ⟨⟩
    | with_reducible apply Keeps.getD
    | contradiction
    | intro _ _
    | refine Keeps.fst ?_ (by with_reducible assumption)
    | dsimp +zetaDelta only

theorem State.lineDone_keeps (a0 : OpRun) (a1 : Nat) (s : State) : Keeps 0x4a010000522 s (State.lineDone a0 a1 s) := by
  unfold State.lineDone
  repeat' first
    | exact Eq.refl _
    | exact fun _ => Eq.refl _
    | with_reducible exact Keeps.refl _ _
    | assumption
    | with_reducible apply Keeps.after (State.perf_keeps _ _ _ _ _)
    | with_reducible apply Keeps.after (State.setOp_keeps _ _)
    | with_reducible apply Keeps.after (State.closeOp_keeps _ _ _)
    | with_reducible refine Keeps.ite ?_ ?_
    | split
    | extract_lets -merge
    | rintro _ ⟨⟩
    | with_reducible apply Keeps.getD
    | contradiction
    | intro _ _
    | refine Keeps.fst ?_ (by with_reducible assumption)
    | dsimp +zetaDelta only

theorem State.swatchDone_keeps (a0 : OpRun) (a1 : Nat) (s : State) : Keeps 0x4a010000522 s (State.swatchDone a0 a1 s) := by
  unfold State.swatchDone
  repeat' first
    | exact Eq.refl _
    | exact fun _ => Eq.refl _
    | with_reducible exact Keeps.refl _ _
    | assumption
    | with_reducible apply Keeps.after (State.perf_keeps _ _ _ _ _)
    | with_reducible apply Keeps.after (State.setOp_keeps _ _)
    | with_reducible apply Keeps.after (State.closeOp_keeps _ _ _)
    | with_reducible refine Keeps.ite ?_ ?_
    | split
    | extract_lets -merge
    | rintro _ ⟨⟩
    | with_reducible apply Keeps.getD
    | contradiction
    | intro _ _
    | refine Keeps.fst ?_ (by with_reducible assumption)
    | dsimp +zetaDelta only

theorem State.writeOp_keeps (a0 : OpRun) (a1 : Nat) (a2 : Line) (s : State) : Keeps 0xca57fe315a2 s (State.writeOp a0 a1 a2 s).1 := by
  unfold State.writeOp
  repeat' first
    | exact Eq.refl _
    | exact fun _ => Eq.refl _
    | with_reducible exact Keeps.refl _ _
    | assumption
    | with_reducible apply Keeps.after (State.writeLine_keeps _ _ _ _)
    | with_reducible apply Keeps.after (State.opSample_keeps _ _ _ _ _ _)
    | with_reducible apply Keeps.after (State.perf_keeps _ _ _ _ _)
    | with_reducible refine Keeps.ite ?_ ?_
    | split
    | extract_lets -merge
    | rintro _ ⟨⟩
    | with_reducible apply Keeps.getD
    | contradiction
    | intro _ _
    | refine Keeps.fst ?_ (by with_reducible assumption)
    | dsimp +zetaDelta only

theorem State.copyStep_keeps (a0 : OpRun) (s : State) : Keeps 0xca57fe315a2 s (State.copyStep a0 s) := by
  unfold State.copyStep
  repeat' first
    | exact Eq.refl _
    | exact fun _ => Eq.refl _
    | with_reducible exact Keeps.refl _ _
    | assumption
    | with_reducible apply Keeps.after (Keeps.fst (State.lineStop_keeps _ _ _ _ _ (by assumption)) rfl)
    | with_reducible apply Keeps.after (State.lineStop_keeps _ _ _ _ _ (by assumption))
    | with_reducible apply Keeps.after (State.stopOp_keeps _ _ _)
    | with_reducible apply Keeps.after (State.lineFlow_keeps _ _ _ _)
    | with_reducible apply Keeps.after (State.setOp_keeps _ _)
    | with_reducible apply Keeps.after (State.opRead_keeps _ _ _ _ _)
    | with_reducible apply Keeps.after (State.writeOp_keeps _ _ _ _)
    | with_reducible apply Keeps.after (State.lineDone_keeps _ _ _)
    | with_reducible refine Keeps.ite ?_ ?_
    | split
    | extract_lets -merge
    | rintro _ ⟨⟩
    | with_reducible apply Keeps.getD
    | contradiction
    | intro _ _
    | refine Keeps.fst ?_ (by with_reducible assumption)
    | dsimp +zetaDelta only

theorem State.fillStep_keeps (a0 : OpRun) (s : State) : Keeps 0xca57fe315a2 s (State.fillStep a0 s) := by
  unfold State.fillStep
  repeat' first
    | exact Eq.refl _
    | exact fun _ => Eq.refl _
    | with_reducible exact Keeps.refl _ _
    | assumption
    | with_reducible apply Keeps.after (Keeps.fst (State.lineStop_keeps _ _ _ _ _ (by assumption)) rfl)
    | with_reducible apply Keeps.after (State.lineStop_keeps _ _ _ _ _ (by assumption))
    | with_reducible apply Keeps.after (State.stopOp_keeps _ _ _)
    | with_reducible apply Keeps.after (State.lineFlow_keeps _ _ _ _)
    | with_reducible apply Keeps.after (State.setOp_keeps _ _)
    | with_reducible apply Keeps.after (State.writeOp_keeps _ _ _ _)
    | with_reducible apply Keeps.after (State.lineDone_keeps _ _ _)
    | with_reducible refine Keeps.ite ?_ ?_
    | split
    | extract_lets -merge
    | rintro _ ⟨⟩
    | with_reducible apply Keeps.getD
    | contradiction
    | intro _ _
    | refine Keeps.fst ?_ (by with_reducible assumption)
    | dsimp +zetaDelta only

theorem State.prefetchStep_keeps (a0 : OpRun) (s : State) : Keeps 0xca55fa305a2 s (State.prefetchStep a0 s) := by
  unfold State.prefetchStep
  repeat' first
    | exact Eq.refl _
    | exact fun _ => Eq.refl _
    | with_reducible exact Keeps.refl _ _
    | assumption
    | with_reducible apply Keeps.after (Keeps.fst (State.lineStop_keeps _ _ _ _ _ (by assumption)) rfl)
    | with_reducible apply Keeps.after (State.lineStop_keeps _ _ _ _ _ (by assumption))
    | with_reducible apply Keeps.after (State.stopOp_keeps _ _ _)
    | with_reducible apply Keeps.after (State.lineFlow_keeps _ _ _ _)
    | with_reducible apply Keeps.after (State.setOp_keeps _ _)
    | with_reducible apply Keeps.after (State.opRead_keeps _ _ _ _ _)
    | with_reducible apply Keeps.after (State.lineDone_keeps _ _ _)
    | with_reducible refine Keeps.ite ?_ ?_
    | split
    | extract_lets -merge
    | rintro _ ⟨⟩
    | with_reducible apply Keeps.getD
    | contradiction
    | intro _ _
    | refine Keeps.fst ?_ (by with_reducible assumption)
    | dsimp +zetaDelta only

theorem State.verifyStep_keeps (a0 : OpRun) (s : State) : Keeps 0xca55fa305a2 s (State.verifyStep a0 s) := by
  unfold State.verifyStep
  repeat' first
    | exact Eq.refl _
    | exact fun _ => Eq.refl _
    | with_reducible exact Keeps.refl _ _
    | assumption
    | with_reducible apply Keeps.after (Keeps.fst (State.lineStop_keeps _ _ _ _ _ (by assumption)) rfl)
    | with_reducible apply Keeps.after (State.lineStop_keeps _ _ _ _ _ (by assumption))
    | with_reducible apply Keeps.after (State.stopOp_keeps _ _ _)
    | with_reducible apply Keeps.after (State.lineFlow_keeps _ _ _ _)
    | with_reducible apply Keeps.after (State.setOp_keeps _ _)
    | with_reducible apply Keeps.after (State.opRead_keeps _ _ _ _ _)
    | with_reducible apply Keeps.after (State.lineDone_keeps _ _ _)
    | with_reducible apply Keeps.after (State.tagFailEgress_keeps _ _ _ _)
    | with_reducible refine Keeps.ite ?_ ?_
    | split
    | extract_lets -merge
    | rintro _ ⟨⟩
    | with_reducible apply Keeps.getD
    | contradiction
    | intro _ _
    | refine Keeps.fst ?_ (by with_reducible assumption)
    | dsimp +zetaDelta only

theorem State.scrubEnd_keeps (a0 : OpRun) (a1 : Nat) (s : State) : Keeps 0x2010000000 s (State.scrubEnd a0 a1 s) := by
  unfold State.scrubEnd
  repeat' first
    | exact Eq.refl _
    | exact fun _ => Eq.refl _
    | with_reducible exact Keeps.refl _ _
    | assumption
    | with_reducible apply Keeps.after (State.closeOp_keeps _ _ _)
    | with_reducible refine Keeps.ite ?_ ?_
    | split
    | extract_lets -merge
    | rintro _ ⟨⟩
    | with_reducible apply Keeps.getD
    | contradiction
    | intro _ _
    | refine Keeps.fst ?_ (by with_reducible assumption)
    | dsimp +zetaDelta only

theorem State.scrubStep_keeps (a0 : OpRun) (s : State) : Keeps 0xca57fe315a2 s (State.scrubStep a0 s) := by
  unfold State.scrubStep
  repeat' first
    | exact Eq.refl _
    | exact fun _ => Eq.refl _
    | with_reducible exact Keeps.refl _ _
    | assumption
    | with_reducible apply Keeps.after (State.markLine_keeps _ _ _)
    | with_reducible apply Keeps.after (State.closeOp_keeps _ _ _)
    | with_reducible apply Keeps.after (State.setOp_keeps _ _)
    | with_reducible apply Keeps.after (Keeps.fst (State.lineStop_keeps _ _ _ _ _ (by assumption)) rfl)
    | with_reducible apply Keeps.after (State.lineStop_keeps _ _ _ _ _ (by assumption))
    | with_reducible apply Keeps.after (State.scrubEnd_keeps _ _ _)
    | with_reducible apply Keeps.after (Keeps.fst (State.scrubLine_keeps _ _ _ _ _ (by assumption)) rfl)
    | with_reducible apply Keeps.after (State.scrubLine_keeps _ _ _ _ _ (by assumption))
    | with_reducible apply Keeps.after (State.mapCheck_keeps _ _)
    | with_reducible apply Keeps.after (State.lineDone_keeps _ _ _)
    | with_reducible refine Keeps.ite ?_ ?_
    | split
    | extract_lets -merge
    | rintro _ ⟨⟩
    | with_reducible apply Keeps.getD
    | contradiction
    | intro _ _
    | refine Keeps.fst ?_ (by with_reducible assumption)
    | dsimp +zetaDelta only

theorem State.swatchSpan_keeps (a0 : OpRun) (a1 : Bool) (s : State) : Keeps 0x400000305a2 s (State.swatchSpan a0 a1 s).1 := by
  unfold State.swatchSpan
  repeat' first
    | exact Eq.refl _
    | exact fun _ => Eq.refl _
    | with_reducible exact Keeps.refl _ _
    | assumption
    | with_reducible apply Keeps.after (Keeps.fst (State.lineStop_keeps _ _ _ _ _ (by assumption)) rfl)
    | with_reducible apply Keeps.after (State.lineStop_keeps _ _ _ _ _ (by assumption))
    | with_reducible refine Keeps.ite ?_ ?_
    | split
    | extract_lets -merge
    | rintro _ ⟨⟩
    | with_reducible apply Keeps.getD
    | contradiction
    | intro _ _
    | refine Keeps.fst ?_ (by with_reducible assumption)
    | dsimp +zetaDelta only

theorem State.discardOp_keeps (a0 : OpRun) (s : State) : Keeps 0xca51e8305a2 s (State.discardOp a0 s) := by
  unfold State.discardOp
  repeat' first
    | exact Eq.refl _
    | exact fun _ => Eq.refl _
    | with_reducible exact Keeps.refl _ _
    | assumption
    | with_reducible apply Keeps.after (State.swatchSpan_keeps _ _ _)
    | with_reducible apply Keeps.after (State.stopOp_keeps _ _ _)
    | with_reducible apply Keeps.after (State.discardBegin_keeps _ _ _)
    | with_reducible apply Keeps.after (State.closeOp_keeps _ _ _)
    | with_reducible apply Keeps.after (State.discardStep_keeps _ _)
    | with_reducible refine Keeps.ite ?_ ?_
    | split
    | extract_lets -merge
    | rintro _ ⟨⟩
    | with_reducible apply Keeps.getD
    | contradiction
    | intro _ _
    | refine Keeps.fst ?_ (by with_reducible assumption)
    | dsimp +zetaDelta only

theorem State.sealPagesOf_keeps (a0 : List Nat) (s : State) : Keeps 0xc000000 s (State.sealPagesOf a0 s) := by
  unfold State.sealPagesOf
  repeat' first
    | exact Eq.refl _
    | exact fun _ => Eq.refl _
    | with_reducible exact Keeps.refl _ _
    | assumption
    | with_reducible apply Keeps.after (State.sealPage_keeps _ _)
    | with_reducible refine Keeps.foldl (fun _ _ => ?_) _ ?_
    | with_reducible refine Keeps.foldlFst (fun _ _ _ => ?_) _ ?_
    | with_reducible refine Keeps.foldlSnd (fun _ _ _ => ?_) _ ?_
    | with_reducible refine Keeps.ite ?_ ?_
    | split
    | extract_lets -merge
    | rintro _ ⟨⟩
    | with_reducible apply Keeps.getD
    | contradiction
    | intro _ _
    | refine Keeps.fst ?_ (by with_reducible assumption)
    | dsimp +zetaDelta only

theorem State.releaseTodo_keeps (a0 : OpRun) (s : State) : Keeps 0x4804f030522 s (State.releaseTodo a0 s).1 := by
  unfold State.releaseTodo
  repeat' first
    | exact Eq.refl _
    | exact fun _ => Eq.refl _
    | with_reducible exact Keeps.refl _ _
    | assumption
    | with_reducible apply Keeps.after (State.release_keeps _ _)
    | with_reducible refine Keeps.foldl (fun _ _ => ?_) _ ?_
    | with_reducible refine Keeps.foldlFst (fun _ _ _ => ?_) _ ?_
    | with_reducible refine Keeps.foldlSnd (fun _ _ _ => ?_) _ ?_
    | with_reducible refine Keeps.ite ?_ ?_
    | split
    | extract_lets -merge
    | rintro _ ⟨⟩
    | with_reducible apply Keeps.getD
    | contradiction
    | intro _ _
    | refine Keeps.fst ?_ (by with_reducible assumption)
    | dsimp +zetaDelta only

theorem State.fenceStep_keeps (a0 : OpRun) (s : State) : Keeps 0xca57fe315a2 s (State.fenceStep a0 s) := by
  unfold State.fenceStep
  repeat' first
    | exact Eq.refl _
    | exact fun _ => Eq.refl _
    | with_reducible exact Keeps.refl _ _
    | assumption
    | with_reducible apply Keeps.after (State.commitLine_keeps _ _)
    | with_reducible apply Keeps.after (State.releaseTodo_keeps _ _)
    | with_reducible apply Keeps.after (State.closeOp_keeps _ _ _)
    | with_reducible apply Keeps.after (State.dirtyChanged_keeps _)
    | with_reducible apply Keeps.after (State.sealPagesOf_keeps _ _)
    | with_reducible refine Keeps.foldl (fun _ _ => ?_) _ ?_
    | with_reducible refine Keeps.foldlFst (fun _ _ _ => ?_) _ ?_
    | with_reducible refine Keeps.foldlSnd (fun _ _ _ => ?_) _ ?_
    | with_reducible refine Keeps.ite ?_ ?_
    | split
    | extract_lets -merge
    | rintro _ ⟨⟩
    | with_reducible apply Keeps.getD
    | contradiction
    | intro _ _
    | refine Keeps.fst ?_ (by with_reducible assumption)
    | dsimp +zetaDelta only

theorem State.cleanStep_keeps (a0 : Bool) (a1 : OpRun) (s : State) : Keeps 0xca57fe315a2 s (State.cleanStep a0 a1 s) := by
  unfold State.cleanStep
  repeat' first
    | exact Eq.refl _
    | exact fun _ => Eq.refl _
    | with_reducible exact Keeps.refl _ _
    | assumption
    | with_reducible apply Keeps.after (Keeps.fst (State.lineStop_keeps _ _ _ _ _ (by assumption)) rfl)
    | with_reducible apply Keeps.after (State.lineStop_keeps _ _ _ _ _ (by assumption))
    | with_reducible apply Keeps.after (State.closeOp_keeps _ _ _)
    | with_reducible apply Keeps.after (State.commitLine_keeps _ _)
    | with_reducible apply Keeps.after (State.release_keeps _ _)
    | with_reducible apply Keeps.after (State.lineDone_keeps _ _ _)
    | with_reducible apply Keeps.after (State.dirtyChanged_keeps _)
    | with_reducible apply Keeps.after (State.discardCached_keeps _ _)
    | with_reducible refine Keeps.ite ?_ ?_
    | split
    | extract_lets -merge
    | rintro _ ⟨⟩
    | with_reducible apply Keeps.getD
    | contradiction
    | intro _ _
    | refine Keeps.fst ?_ (by with_reducible assumption)
    | dsimp +zetaDelta only

theorem State.cleanClose_keeps (a0 : OpRun) (a1 : Nat) (s : State) : Keeps 0x42012000522 s (State.cleanClose a0 a1 s) := by
  unfold State.cleanClose
  repeat' first
    | exact Eq.refl _
    | exact fun _ => Eq.refl _
    | with_reducible exact Keeps.refl _ _
    | assumption
    | with_reducible apply Keeps.after (State.stopOp_keeps _ _ _)
    | with_reducible apply Keeps.after (State.dirtyChanged_keeps _)
    | with_reducible apply Keeps.after (State.discardClean_keeps _ _)
    | with_reducible refine Keeps.ite ?_ ?_
    | split
    | extract_lets -merge
    | rintro _ ⟨⟩
    | with_reducible apply Keeps.getD
    | contradiction
    | intro _ _
    | refine Keeps.fst ?_ (by with_reducible assumption)
    | dsimp +zetaDelta only

theorem State.invalidateStep_keeps (a0 : OpRun) (s : State) : Keeps 0xca57fe315a2 s (State.invalidateStep a0 s) := by
  unfold State.invalidateStep
  repeat' first
    | exact Eq.refl _
    | exact fun _ => Eq.refl _
    | with_reducible exact Keeps.refl _ _
    | assumption
    | with_reducible apply Keeps.after (Keeps.fst (State.lineStop_keeps _ _ _ _ _ (by assumption)) rfl)
    | with_reducible apply Keeps.after (State.lineStop_keeps _ _ _ _ _ (by assumption))
    | with_reducible apply Keeps.after (State.stopOp_keeps _ _ _)
    | with_reducible apply Keeps.after (State.commitLine_keeps _ _)
    | with_reducible apply Keeps.after (State.lineDone_keeps _ _ _)
    | with_reducible apply Keeps.after (State.dirtyChanged_keeps _)
    | with_reducible apply Keeps.after (State.discardCached_keeps _ _)
    | with_reducible refine Keeps.ite ?_ ?_
    | split
    | extract_lets -merge
    | rintro _ ⟨⟩
    | with_reducible apply Keeps.getD
    | contradiction
    | intro _ _
    | refine Keeps.fst ?_ (by with_reducible assumption)
    | dsimp +zetaDelta only

theorem State.pinnedDone_keeps (a0 : OpRun) (a1 : Nat) (s : State) : Keeps 0x4a012000522 s (State.pinnedDone a0 a1 s) := by
  unfold State.pinnedDone
  repeat' first
    | exact Eq.refl _
    | exact fun _ => Eq.refl _
    | with_reducible exact Keeps.refl _ _
    | assumption
    | with_reducible apply Keeps.after (State.swatchDone_keeps _ _ _)
    | with_reducible apply Keeps.after (State.lockEntry_keeps _ _)
    | with_reducible apply Keeps.after (State.fire_keeps _ _)
    | with_reducible refine Keeps.ite ?_ ?_
    | split
    | extract_lets -merge
    | rintro _ ⟨⟩
    | with_reducible apply Keeps.getD
    | contradiction
    | intro _ _
    | refine Keeps.fst ?_ (by with_reducible assumption)
    | dsimp +zetaDelta only

theorem State.swatchFlow_keeps (a0 : OpRun) (s : State) : Keeps 0xc855f830522 s (State.swatchFlow a0 s).1 := by
  unfold State.swatchFlow
  repeat' first
    | exact Eq.refl _
    | exact fun _ => Eq.refl _
    | with_reducible exact Keeps.refl _ _
    | assumption
    | with_reducible apply Keeps.after (State.lineFlow_keeps _ _ _ _)
    | with_reducible refine Keeps.foldl (fun _ _ => ?_) _ ?_
    | with_reducible refine Keeps.foldlFst (fun _ _ _ => ?_) _ ?_
    | with_reducible refine Keeps.foldlSnd (fun _ _ _ => ?_) _ ?_
    | with_reducible refine Keeps.ite ?_ ?_
    | split
    | extract_lets -merge
    | rintro _ ⟨⟩
    | with_reducible apply Keeps.getD
    | contradiction
    | intro _ _
    | refine Keeps.fst ?_ (by with_reducible assumption)
    | dsimp +zetaDelta only

theorem State.pinStep_keeps (o : OpRun) (s : State) : Keeps 0xca55f8305a2 s (State.pinStep o s) := by
  unfold State.pinStep
  extract_lets sw
  clear_value sw
  split
  · rename_i s1 c heq
    exact Keeps.after (State.stopOp_keeps _ _ _) (Keeps.mono (State.lineStop_keeps _ _ _ _ _ heq) (Eq.refl _)) (Eq.refl _)
  split
  · exact Keeps.after (State.stopOp_keeps _ _ _) (Keeps.refl _ _) (Eq.refl _)
  split
  · split
    · exact Keeps.refl _ _
    · exact Keeps.after (State.pinnedDone_keeps _ _ _) (Keeps.refl _ _) (Eq.refl _)
  have h1 := (State.swatchFlow_keeps o s).mono (n := 0xca55f8305a2) (Eq.refl _)
  generalize State.swatchFlow o s = r at h1
  obtain ⟨s1, o1⟩ := r
  dsimp only at h1 ⊢
  split
  · exact Keeps.after (State.setOp_keeps _ _) h1 (Eq.refl _)
  split
  · exact Keeps.after (State.setOp_keeps _ _) h1 (Eq.refl _)
  apply Keeps.after (State.setOp_keeps _ _) _ (Eq.refl _)
  apply Keeps.after (State.setPent_keeps _ _ _) _ (Eq.refl _)
  exact Keeps.ite h1 (Keeps.after (State.setPent_keeps _ _ _) h1 (Eq.refl _))

theorem State.unpinStep_keeps (a0 : OpRun) (s : State) : Keeps 0x4a0120305a2 s (State.unpinStep a0 s) := by
  unfold State.unpinStep
  repeat' first
    | exact Eq.refl _
    | exact fun _ => Eq.refl _
    | with_reducible exact Keeps.refl _ _
    | assumption
    | with_reducible apply Keeps.after (Keeps.fst (State.lineStop_keeps _ _ _ _ _ (by assumption)) rfl)
    | with_reducible apply Keeps.after (State.lineStop_keeps _ _ _ _ _ (by assumption))
    | with_reducible apply Keeps.after (State.stopOp_keeps _ _ _)
    | with_reducible apply Keeps.after (State.swatchDone_keeps _ _ _)
    | with_reducible apply Keeps.after (State.setPent_keeps _ _ _)
    | with_reducible refine Keeps.ite ?_ ?_
    | split
    | extract_lets -merge
    | rintro _ ⟨⟩
    | with_reducible apply Keeps.getD
    | contradiction
    | intro _ _
    | refine Keeps.fst ?_ (by with_reducible assumption)
    | dsimp +zetaDelta only

theorem State.lockStep_keeps (a0 : OpRun) (s : State) : Keeps 0xca55f8305a2 s (State.lockStep a0 s) := by
  unfold State.lockStep
  repeat' first
    | exact Eq.refl _
    | exact fun _ => Eq.refl _
    | with_reducible exact Keeps.refl _ _
    | assumption
    | with_reducible apply Keeps.after (Keeps.fst (State.lineStop_keeps _ _ _ _ _ (by assumption)) rfl)
    | with_reducible apply Keeps.after (State.lineStop_keeps _ _ _ _ _ (by assumption))
    | with_reducible apply Keeps.after (State.stopOp_keeps _ _ _)
    | with_reducible apply Keeps.after (State.modCache_keeps _ _ )
    | with_reducible apply Keeps.after (State.unlockLine_keeps _ _)
    | with_reducible apply Keeps.after (State.lineDone_keeps _ _ _)
    | with_reducible apply Keeps.after (State.lineFlow_keeps _ _ _ _)
    | with_reducible apply Keeps.after (State.setOp_keeps _ _)
    | with_reducible apply Keeps.after (State.fetchLock_keeps _ _ _ _)
    | with_reducible apply Keeps.after (State.fire_keeps _ _)
    | with_reducible refine Keeps.ite ?_ ?_
    | split
    | extract_lets -merge
    | rintro _ ⟨⟩
    | with_reducible apply Keeps.getD
    | contradiction
    | intro _ _
    | refine Keeps.fst ?_ (by with_reducible assumption)
    | dsimp +zetaDelta only

theorem State.queueSwatch_keeps (a0 : OpRun) (a1 : Nat) (s : State) : Keeps 0x4a014000522 s (State.queueSwatch a0 a1 s) := by
  unfold State.queueSwatch
  repeat' first
    | exact Eq.refl _
    | exact fun _ => Eq.refl _
    | with_reducible exact Keeps.refl _ _
    | assumption
    | with_reducible apply Keeps.after (State.swatchDone_keeps _ _ _)
    | with_reducible apply Keeps.after (State.darnTrigger_keeps _ _ _ _)
    | with_reducible apply Keeps.after (State.setOp_keeps _ _)
    | with_reducible refine Keeps.ite ?_ ?_
    | split
    | extract_lets -merge
    | rintro _ ⟨⟩
    | with_reducible apply Keeps.getD
    | contradiction
    | intro _ _
    | refine Keeps.fst ?_ (by with_reducible assumption)
    | dsimp +zetaDelta only

theorem State.darnStep_keeps (a0 : OpRun) (s : State) : Keeps 0x4a0140305a2 s (State.darnStep a0 s) := by
  unfold State.darnStep
  repeat' first
    | exact Eq.refl _
    | exact fun _ => Eq.refl _
    | with_reducible exact Keeps.refl _ _
    | assumption
    | with_reducible apply Keeps.after (Keeps.fst (State.lineStop_keeps _ _ _ _ _ (by assumption)) rfl)
    | with_reducible apply Keeps.after (State.lineStop_keeps _ _ _ _ _ (by assumption))
    | with_reducible apply Keeps.after (State.closeOp_keeps _ _ _)
    | with_reducible apply Keeps.after (State.swatchDone_keeps _ _ _)
    | with_reducible apply Keeps.after (State.queueSwatch_keeps _ _ _)
    | with_reducible refine Keeps.ite ?_ ?_
    | split
    | extract_lets -merge
    | rintro _ ⟨⟩
    | with_reducible apply Keeps.getD
    | contradiction
    | intro _ _
    | refine Keeps.fst ?_ (by with_reducible assumption)
    | dsimp +zetaDelta only

theorem State.rekeyStep_keeps (a0 : OpRun) (a1 : Bool) (s : State) : Keeps 0x4a514000522 s (State.rekeyStep a0 a1 s) := by
  unfold State.rekeyStep
  repeat' first
    | exact Eq.refl _
    | exact fun _ => Eq.refl _
    | with_reducible exact Keeps.refl _ _
    | assumption
    | with_reducible apply Keeps.after (State.stopOp_keeps _ _ _)
    | with_reducible apply Keeps.after (State.storePut_keeps _)
    | with_reducible apply Keeps.after (State.modCip_keeps _ _ )
    | with_reducible apply Keeps.after (State.setOp_keeps _ _)
    | with_reducible apply Keeps.after (State.swatchDone_keeps _ _ _)
    | with_reducible apply Keeps.after (State.darnTrigger_keeps _ _ _ _)
    | with_reducible refine Keeps.foldl (fun _ _ => ?_) _ ?_
    | with_reducible refine Keeps.foldlFst (fun _ _ _ => ?_) _ ?_
    | with_reducible refine Keeps.foldlSnd (fun _ _ _ => ?_) _ ?_
    | with_reducible refine Keeps.ite ?_ ?_
    | split
    | extract_lets -merge
    | rintro _ ⟨⟩
    | with_reducible apply Keeps.getD
    | contradiction
    | intro _ _
    | refine Keeps.fst ?_ (by with_reducible assumption)
    | dsimp +zetaDelta only

theorem State.drained_keeps (a0 : OpRun) (s : State) : Keeps 0x2010000000 s (State.drained a0 s) := by
  unfold State.drained
  repeat' first
    | exact Eq.refl _
    | exact fun _ => Eq.refl _
    | with_reducible exact Keeps.refl _ _
    | assumption
    | with_reducible apply Keeps.after (State.setOp_keeps _ _)
    | with_reducible apply Keeps.after (State.closeOp_keeps _ _ _)
    | with_reducible refine Keeps.ite ?_ ?_
    | split
    | extract_lets -merge
    | rintro _ ⟨⟩
    | with_reducible apply Keeps.getD
    | contradiction
    | intro _ _
    | refine Keeps.fst ?_ (by with_reducible assumption)
    | dsimp +zetaDelta only

theorem State.drainStep_keeps (a0 : OpRun) (s : State) : Keeps 0x4a010000522 s (State.drainStep a0 s) := by
  unfold State.drainStep
  repeat' first
    | exact Eq.refl _
    | exact fun _ => Eq.refl _
    | with_reducible exact Keeps.refl _ _
    | assumption
    | with_reducible apply Keeps.after (State.stopOp_keeps _ _ _)
    | with_reducible apply Keeps.after (State.drained_keeps _ _)
    | with_reducible apply Keeps.after (State.postRecord_keeps _ _ _ _ _)
    | with_reducible apply Keeps.after (State.ringPop_keeps _ _)
    | with_reducible refine Keeps.ite ?_ ?_
    | split
    | extract_lets -merge
    | rintro _ ⟨⟩
    | with_reducible apply Keeps.getD
    | contradiction
    | intro _ _
    | refine Keeps.fst ?_ (by with_reducible assumption)
    | dsimp +zetaDelta only

theorem State.setJob_keeps (a0 : Job) (s : State) : Keeps 0x100000000 s (State.setJob a0 s) := by
  unfold State.setJob
  repeat' first
    | exact Eq.refl _
    | exact fun _ => Eq.refl _
    | with_reducible exact Keeps.refl _ _
    | assumption
    | with_reducible apply Keeps.after (State.modCip_keeps _ _ )
    | with_reducible refine Keeps.ite ?_ ?_
    | split
    | extract_lets -merge
    | rintro _ ⟨⟩
    | with_reducible apply Keeps.getD
    | contradiction
    | intro _ _
    | refine Keeps.fst ?_ (by with_reducible assumption)
    | dsimp +zetaDelta only

theorem State.freeJob_keeps (a0 : Nat) (s : State) : Keeps 0x100000000 s (State.freeJob a0 s) := by
  unfold State.freeJob
  repeat' first
    | exact Eq.refl _
    | exact fun _ => Eq.refl _
    | with_reducible exact Keeps.refl _ _
    | assumption
    | with_reducible apply Keeps.after (State.modCip_keeps _ _ )
    | with_reducible refine Keeps.ite ?_ ?_
    | split
    | extract_lets -merge
    | rintro _ ⟨⟩
    | with_reducible apply Keeps.getD
    | contradiction
    | intro _ _
    | refine Keeps.fst ?_ (by with_reducible assumption)
    | dsimp +zetaDelta only

theorem State.jobEnd_keeps (a0 : OpRun) (a1 : Nat) (s : State) : Keeps 0x2010000000 s (State.jobEnd a0 a1 s) := by
  unfold State.jobEnd
  repeat' first
    | exact Eq.refl _
    | exact fun _ => Eq.refl _
    | with_reducible exact Keeps.refl _ _
    | assumption
    | with_reducible apply Keeps.after (State.stopOp_keeps _ _ _)
    | with_reducible refine Keeps.ite ?_ ?_
    | split
    | extract_lets -merge
    | rintro _ ⟨⟩
    | with_reducible apply Keeps.getD
    | contradiction
    | intro _ _
    | refine Keeps.fst ?_ (by with_reducible assumption)
    | dsimp +zetaDelta only

theorem State.jobOpen_keeps (a0 : OpRun) (s : State) : Keeps 0xc2110000522 s (State.jobOpen a0 s) := by
  unfold State.jobOpen
  repeat' first
    | exact Eq.refl _
    | exact fun _ => Eq.refl _
    | with_reducible exact Keeps.refl _ _
    | assumption
    | with_reducible apply Keeps.after (State.stopOp_keeps _ _ _)
    | with_reducible apply Keeps.after (State.freeStep_keeps _)
    | with_reducible apply Keeps.after (State.modCip_keeps _ _ )
    | with_reducible apply Keeps.after (State.setOp_keeps _ _)
    | with_reducible apply Keeps.after (State.fire_keeps _ _)
    | with_reducible refine Keeps.ite ?_ ?_
    | split
    | extract_lets -merge
    | rintro _ ⟨⟩
    | with_reducible apply Keeps.getD
    | contradiction
    | intro _ _
    | refine Keeps.fst ?_ (by with_reducible assumption)
    | dsimp +zetaDelta only

theorem State.jobResume_keeps (a0 : OpRun) (s : State) : Keeps 0x2110000000 s (State.jobResume a0 s) := by
  unfold State.jobResume
  repeat' first
    | exact Eq.refl _
    | exact fun _ => Eq.refl _
    | with_reducible exact Keeps.refl _ _
    | assumption
    | with_reducible apply Keeps.after (State.setOp_keeps _ _)
    | with_reducible apply Keeps.after (State.setJob_keeps _ _)
    | with_reducible apply Keeps.after (State.stopOp_keeps _ _ _)
    | with_reducible refine Keeps.ite ?_ ?_
    | split
    | extract_lets -merge
    | rintro _ ⟨⟩
    | with_reducible apply Keeps.getD
    | contradiction
    | intro _ _
    | refine Keeps.fst ?_ (by with_reducible assumption)
    | dsimp +zetaDelta only

theorem State.jobSuspend_keeps (a0 : OpRun) (a1 : Job) (s : State) : Keeps 0x2110000000 s (State.jobSuspend a0 a1 s) := by
  unfold State.jobSuspend
  repeat' first
    | exact Eq.refl _
    | exact fun _ => Eq.refl _
    | with_reducible exact Keeps.refl _ _
    | assumption
    | with_reducible apply Keeps.after (State.stopOp_keeps _ _ _)
    | with_reducible apply Keeps.after (State.setSpoolBytes_keeps _ _ _)
    | with_reducible apply Keeps.after (State.setJob_keeps _ _)
    | with_reducible refine Keeps.ite ?_ ?_
    | split
    | extract_lets -merge
    | rintro _ ⟨⟩
    | with_reducible apply Keeps.getD
    | contradiction
    | intro _ _
    | refine Keeps.fst ?_ (by with_reducible assumption)
    | dsimp +zetaDelta only

theorem State.jobWrite_keeps {m : Nat} {a4 : OpRun → State → State} {s0 : State} (hm : 0xca57fe315a2 ||| m = m) (h4 : ∀ x0 x1, Keeps m x1 (a4 x0 x1)) (a0 : OpRun) (a1 : Nat) (a2 : Line) (s : State) (h : Keeps m s0 s) : Keeps m s0 (State.jobWrite a0 a1 a2 s a4) := by
  unfold State.jobWrite
  repeat' first
    | exact Eq.refl _
    | exact fun _ => Eq.refl _
    | with_reducible exact Keeps.refl _ _
    | assumption
    | with_reducible apply Keeps.after (Keeps.fst (State.lineStop_keeps _ _ _ _ _ (by assumption)) rfl)
    | with_reducible apply Keeps.after (State.lineStop_keeps _ _ _ _ _ (by assumption))
    | with_reducible apply Keeps.after (State.jobEnd_keeps _ _ _)
    | with_reducible apply Keeps.after (State.lineFlow_keeps _ _ _ _)
    | with_reducible apply Keeps.after (State.setOp_keeps _ _)
    | with_reducible apply Keeps.after (State.writeOp_keeps _ _ _ _)
    | with_reducible apply Keeps.after (h4 _ _)
    | exact Nat.or_self m
    | exact Keeps.sub rfl hm
    | with_reducible refine Keeps.ite ?_ ?_
    | split
    | extract_lets -merge
    | rintro _ ⟨⟩
    | with_reducible apply Keeps.getD
    | contradiction
    | intro _ _
    | refine Keeps.fst ?_ (by with_reducible assumption)
    | dsimp +zetaDelta only

theorem State.jobRead_keeps {m : Nat} {a3 : OpRun → Got → State → State} {s0 : State} (hm : 0xca55fa305a2 ||| m = m) (h3 : ∀ x0 x1 x2, Keeps m x2 (a3 x0 x1 x2)) (a0 : OpRun) (a1 : Nat) (s : State) (h : Keeps m s0 s) : Keeps m s0 (State.jobRead a0 a1 s a3) := by
  unfold State.jobRead
  repeat' first
    | exact Eq.refl _
    | exact fun _ => Eq.refl _
    | with_reducible exact Keeps.refl _ _
    | assumption
    | with_reducible apply Keeps.after (Keeps.fst (State.lineStop_keeps _ _ _ _ _ (by assumption)) rfl)
    | with_reducible apply Keeps.after (State.lineStop_keeps _ _ _ _ _ (by assumption))
    | with_reducible apply Keeps.after (State.jobEnd_keeps _ _ _)
    | with_reducible apply Keeps.after (State.lineFlow_keeps _ _ _ _)
    | with_reducible apply Keeps.after (State.setOp_keeps _ _)
    | with_reducible apply Keeps.after (State.opRead_keeps _ _ _ _ _)
    | with_reducible apply Keeps.after (h3 _ _ _)
    | exact Nat.or_self m
    | exact Keeps.sub rfl hm
    | with_reducible refine Keeps.ite ?_ ?_
    | split
    | extract_lets -merge
    | rintro _ ⟨⟩
    | with_reducible apply Keeps.getD
    | contradiction
    | intro _ _
    | refine Keeps.fst ?_ (by with_reducible assumption)
    | dsimp +zetaDelta only

theorem State.jobNext_keeps (a0 : OpRun) (a1 : Job) (s : State) : Keeps 0x4a110000522 s (State.jobNext a0 a1 s) := by
  unfold State.jobNext
  repeat' first
    | exact Eq.refl _
    | exact fun _ => Eq.refl _
    | with_reducible exact Keeps.refl _ _
    | assumption
    | with_reducible apply Keeps.after (State.perf_keeps _ _ _ _ _)
    | with_reducible apply Keeps.after (State.setJob_keeps _ _)
    | with_reducible apply Keeps.after (State.jobSuspend_keeps _ _ _)
    | with_reducible apply Keeps.after (State.setOp_keeps _ _)
    | with_reducible refine Keeps.ite ?_ ?_
    | split
    | extract_lets -merge
    | rintro _ ⟨⟩
    | with_reducible apply Keeps.getD
    | contradiction
    | intro _ _
    | refine Keeps.fst ?_ (by with_reducible assumption)
    | dsimp +zetaDelta only

theorem State.importHeader_keeps (a0 : OpRun) (a1 : Job) (a2 : Got) (s : State) : Keeps 0x2100000000 s (State.importHeader a0 a1 a2 s) := by
  unfold State.importHeader
  repeat' first
    | exact Eq.refl _
    | exact fun _ => Eq.refl _
    | with_reducible exact Keeps.refl _ _
    | assumption
    | with_reducible apply Keeps.after (State.setOp_keeps _ _)
    | with_reducible apply Keeps.after (State.setJob_keeps _ _)
    | with_reducible refine Keeps.ite ?_ ?_
    | split
    | extract_lets -merge
    | rintro _ ⟨⟩
    | with_reducible apply Keeps.getD
    | contradiction
    | intro _ _
    | refine Keeps.fst ?_ (by with_reducible assumption)
    | dsimp +zetaDelta only

theorem State.exportData_keeps (a0 : OpRun) (a1 : Job) (a2 : Nat) (a3 : Nat) (a4 : Got) (s : State) : Keeps 0xca57fe315a2 s (State.exportData a0 a1 a2 a3 a4 s) := by
  unfold State.exportData
  repeat' first
    | exact Eq.refl _
    | exact fun _ => Eq.refl _
    | with_reducible exact Keeps.refl _ _
    | assumption
    | with_reducible apply Keeps.after (State.jobEnd_keeps _ _ _)
    | with_reducible apply Keeps.after (State.tagFailEgress_keeps _ _ _ _)
    | with_reducible apply State.jobWrite_keeps
    | with_reducible intro _
    | with_reducible apply Keeps.after (State.perf_keeps _ _ _ _ _)
    | with_reducible apply Keeps.after (State.jobNext_keeps _ _ _)
    | with_reducible refine Keeps.ite ?_ ?_
    | split
    | extract_lets -merge
    | rintro _ ⟨⟩
    | with_reducible apply Keeps.getD
    | contradiction
    | intro _ _
    | refine Keeps.fst ?_ (by with_reducible assumption)
    | dsimp +zetaDelta only

theorem State.importData_keeps (a0 : OpRun) (a1 : Job) (a2 : Nat) (a3 : Got) (s : State) : Keeps 0xca57fe315a2 s (State.importData a0 a1 a2 a3 s) := by
  unfold State.importData
  repeat' first
    | exact Eq.refl _
    | exact fun _ => Eq.refl _
    | with_reducible exact Keeps.refl _ _
    | assumption
    | with_reducible apply State.jobWrite_keeps
    | with_reducible intro _
    | with_reducible apply Keeps.after (State.perf_keeps _ _ _ _ _)
    | with_reducible apply Keeps.after (State.jobNext_keeps _ _ _)
    | with_reducible refine Keeps.ite ?_ ?_
    | split
    | extract_lets -merge
    | rintro _ ⟨⟩
    | with_reducible apply Keeps.getD
    | contradiction
    | intro _ _
    | refine Keeps.fst ?_ (by with_reducible assumption)
    | dsimp +zetaDelta only

theorem State.importEnd_keeps (a0 : OpRun) (a1 : Job) (a2 : Got) (s : State) : Keeps 0x2010000000 s (State.importEnd a0 a1 a2 s) := by
  unfold State.importEnd
  repeat' first
    | exact Eq.refl _
    | exact fun _ => Eq.refl _
    | with_reducible exact Keeps.refl _ _
    | assumption
    | with_reducible apply Keeps.after (State.jobEnd_keeps _ _ _)
    | with_reducible refine Keeps.ite ?_ ?_
    | split
    | extract_lets -merge
    | rintro _ ⟨⟩
    | with_reducible apply Keeps.getD
    | contradiction
    | intro _ _
    | refine Keeps.fst ?_ (by with_reducible assumption)
    | dsimp +zetaDelta only

theorem State.jobStep_keeps (a0 : OpRun) (s : State) : Keeps 0xca57fe315a2 s (State.jobStep a0 s) := by
  unfold State.jobStep
  repeat' first
    | exact Eq.refl _
    | exact fun _ => Eq.refl _
    | with_reducible exact Keeps.refl _ _
    | assumption
    | with_reducible apply Keeps.after (State.jobEnd_keeps _ _ _)
    | with_reducible apply Keeps.after (State.stopOp_keeps _ _ _)
    | with_reducible apply Keeps.after (State.jobResume_keeps _ _)
    | with_reducible apply Keeps.after (State.jobOpen_keeps _ _)
    | with_reducible apply State.jobWrite_keeps
    | with_reducible intro _
    | with_reducible apply Keeps.after (State.setOp_keeps _ _)
    | with_reducible apply State.jobRead_keeps
    | with_reducible intro _
    | with_reducible apply Keeps.after (State.importHeader_keeps _ _ _ _)
    | with_reducible apply Keeps.after (Keeps.fst (State.lineStop_keeps _ _ _ _ _ (by assumption)) rfl)
    | with_reducible apply Keeps.after (State.lineStop_keeps _ _ _ _ _ (by assumption))
    | with_reducible apply Keeps.after (State.exportData_keeps _ _ _ _ _ _)
    | with_reducible apply Keeps.after (State.importData_keeps _ _ _ _ _)
    | with_reducible apply Keeps.after (State.importEnd_keeps _ _ _ _)
    | with_reducible refine Keeps.ite ?_ ?_
    | split
    | extract_lets -merge
    | rintro _ ⟨⟩
    | with_reducible apply Keeps.getD
    | contradiction
    | intro _ _
    | refine Keeps.fst ?_ (by with_reducible assumption)
    | dsimp +zetaDelta only

theorem State.mailEnd_keeps (a0 : OpRun) (a1 : Nat) (s : State) : Keeps 0x42010400400 s (State.mailEnd a0 a1 s) := by
  unfold State.mailEnd
  repeat' first
    | exact Eq.refl _
    | exact fun _ => Eq.refl _
    | with_reducible exact Keeps.refl _ _
    | assumption
    | with_reducible apply Keeps.after (State.flowsDrop_keeps _ _)
    | with_reducible apply Keeps.after (State.modSpl_keeps _ _ ?_)
    | with_reducible apply Keeps.after (State.mbDone_keeps _ _ _ _ _)
    | with_reducible apply Keeps.after (State.setLd_keeps _ _ _)
    | with_reducible refine Keeps.ite ?_ ?_
    | split
    | extract_lets -merge
    | rintro _ ⟨⟩
    | with_reducible apply Keeps.getD
    | contradiction
    | intro _ _
    | refine Keeps.fst ?_ (by with_reducible assumption)
    | dsimp +zetaDelta only

theorem State.mailStep_keeps (a0 : OpRun) (s : State) : Keeps 0xca57fe315a2 s (State.mailStep a0 s) := by
  unfold State.mailStep
  repeat' first
    | exact Eq.refl _
    | exact fun _ => Eq.refl _
    | with_reducible exact Keeps.refl _ _
    | assumption
    | with_reducible apply Keeps.after (State.mailEnd_keeps _ _ _)
    | with_reducible apply Keeps.after (State.lineFlow_keeps _ _ _ _)
    | with_reducible apply Keeps.after (State.setOp_keeps _ _)
    | with_reducible apply Keeps.after (State.markLine_keeps _ _ _)
    | with_reducible apply Keeps.after (State.writeOp_keeps _ _ _ _)
    | with_reducible apply Keeps.after (State.setLd_keeps _ _ _)
    | with_reducible apply Keeps.after (State.countFenced_keeps _)
    | with_reducible refine Keeps.ite ?_ ?_
    | split
    | extract_lets -merge
    | rintro _ ⟨⟩
    | with_reducible apply Keeps.getD
    | contradiction
    | intro _ _
    | refine Keeps.fst ?_ (by with_reducible assumption)
    | dsimp +zetaDelta only

theorem State.startOp_keeps (a0 : Nat) (a1 : Nat) (a2 : Bool) (s : State) : Keeps 0xca000000522 s (State.startOp a0 a1 a2 s) := by
  unfold State.startOp
  repeat' first
    | exact Eq.refl _
    | exact fun _ => Eq.refl _
    | with_reducible exact Keeps.refl _ _
    | assumption
    | with_reducible apply Keeps.after (State.setCtx_keeps _ _ _)
    | with_reducible apply Keeps.after (State.freeStep_keeps _)
    | with_reducible apply Keeps.after (State.perf_keeps _ _ _ _ _)
    | with_reducible apply Keeps.after (State.modSpl_keeps _ _ ?_)
    | with_reducible refine Keeps.ite ?_ ?_
    | split
    | extract_lets -merge
    | rintro _ ⟨⟩
    | with_reducible apply Keeps.getD
    | contradiction
    | intro _ _
    | refine Keeps.fst ?_ (by with_reducible assumption)
    | dsimp +zetaDelta only

theorem State.closingStep_keeps (a0 : OpRun) (a1 : Nat) (s : State) : Keeps 0xca57fe315a2 s (State.closingStep a0 a1 s) := by
  unfold State.closingStep
  repeat' first
    | exact Eq.refl _
    | exact fun _ => Eq.refl _
    | with_reducible exact Keeps.refl _ _
    | assumption
    | with_reducible apply Keeps.after (State.scrubStep_keeps _ _)
    | with_reducible apply Keeps.after (State.cleanClose_keeps _ _ _)
    | with_reducible apply Keeps.after (State.fenceStep_keeps _ _)
    | with_reducible apply Keeps.after (State.discardStep_keeps _ _)
    | with_reducible apply Keeps.after (State.mailEnd_keeps _ _ _)
    | with_reducible apply Keeps.after (State.stopOp_keeps _ _ _)
    | with_reducible apply Keeps.after (State.closeOp_keeps _ _ _)
    | with_reducible refine Keeps.ite ?_ ?_
    | split
    | extract_lets -merge
    | rintro _ ⟨⟩
    | with_reducible apply Keeps.getD
    | contradiction
    | intro _ _
    | refine Keeps.fst ?_ (by with_reducible assumption)
    | dsimp +zetaDelta only

theorem State.opStep_keeps (a0 : OpRun) (a1 : Bool) (s : State) : Keeps 0xca57fe315a2 s (State.opStep a0 a1 s) := by
  unfold State.opStep
  repeat' first
    | exact Eq.refl _
    | exact fun _ => Eq.refl _
    | with_reducible exact Keeps.refl _ _
    | assumption
    | with_reducible apply Keeps.after (State.closingStep_keeps _ _ _)
    | with_reducible apply Keeps.after (State.copyStep_keeps _ _)
    | with_reducible apply Keeps.after (State.fillStep_keeps _ _)
    | with_reducible apply Keeps.after (State.discardOp_keeps _ _)
    | with_reducible apply Keeps.after (State.scrubStep_keeps _ _)
    | with_reducible apply Keeps.after (State.fenceStep_keeps _ _)
    | with_reducible apply Keeps.after (State.prefetchStep_keeps _ _)
    | with_reducible apply Keeps.after (State.pinStep_keeps _ _)
    | with_reducible apply Keeps.after (State.unpinStep_keeps _ _)
    | with_reducible apply Keeps.after (State.lockStep_keeps _ _)
    | with_reducible apply Keeps.after (State.cleanStep_keeps _ _ _)
    | with_reducible apply Keeps.after (State.invalidateStep_keeps _ _)
    | with_reducible apply Keeps.after (State.darnStep_keeps _ _)
    | with_reducible apply Keeps.after (State.rekeyStep_keeps _ _ _)
    | with_reducible apply Keeps.after (State.jobStep_keeps _ _)
    | with_reducible apply Keeps.after (State.verifyStep_keeps _ _)
    | with_reducible apply Keeps.after (State.drainStep_keeps _ _)
    | with_reducible apply Keeps.after (State.mailStep_keeps _ _)
    | with_reducible refine Keeps.ite ?_ ?_
    | split
    | extract_lets -merge
    | rintro _ ⟨⟩
    | with_reducible apply Keeps.getD
    | contradiction
    | intro _ _
    | refine Keeps.fst ?_ (by with_reducible assumption)
    | dsimp +zetaDelta only

theorem State.opPost_keeps (a0 : OpRun) (s : State) : Keeps 0xca54f8305a2 s (State.opPost a0 s) := by
  unfold State.opPost
  repeat' first
    | exact Eq.refl _
    | exact fun _ => Eq.refl _
    | with_reducible exact Keeps.refl _ _
    | assumption
    | with_reducible apply Keeps.after (State.modSpl_keeps _ _ ?_)
    | with_reducible apply Keeps.after (State.postRecord_keeps _ _ _ _ _)
    | with_reducible apply Keeps.after (Keeps.fst (State.lineStop_keeps _ _ _ _ _ (by assumption)) rfl)
    | with_reducible apply Keeps.after (State.lineStop_keeps _ _ _ _ _ (by assumption))
    | with_reducible apply Keeps.after (State.freeJob_keeps _ _)
    | with_reducible apply Keeps.after (State.poisonLine_keeps _ _ _)
    | with_reducible refine Keeps.foldl (fun _ _ => ?_) _ ?_
    | with_reducible refine Keeps.foldlFst (fun _ _ _ => ?_) _ ?_
    | with_reducible refine Keeps.foldlSnd (fun _ _ _ => ?_) _ ?_
    | with_reducible refine Keeps.ite ?_ ?_
    | split
    | extract_lets -merge
    | rintro _ ⟨⟩
    | with_reducible apply Keeps.getD
    | contradiction
    | intro _ _
    | refine Keeps.fst ?_ (by with_reducible assumption)
    | dsimp +zetaDelta only

end Sys2Proof.Machine
end

