-- ==== Sys2Proof/Laws/KeepsHostPort.lean ====
section
/-!
SUPPORT. What the operations of Machine/HostPort.lean leave unchanged.
-/
namespace Sys2Proof.Machine

theorem State.hostUp_keeps (a0 : Nat) (a1 : TrainedLink) (s : State) : Keeps 0xca57fe315a2 s (State.hostUp a0 a1 s) := by
  unfold State.hostUp
  repeat' first
    | exact Eq.refl _
    | exact fun _ => Eq.refl _
    | with_reducible exact Keeps.refl _ _
    | assumption
    | with_reducible apply Keeps.after (State.bindPending_keeps _ _)
    | with_reducible apply Keeps.after (State.calRead_keeps _ _)
    | with_reducible apply Keeps.after (State.setF_keeps _ _ _)
    | with_reducible apply Keeps.after (State.setFlag_keeps _ _ _)
    | with_reducible apply Keeps.after (State.setPort_keeps _ _ _)
    | with_reducible apply Keeps.after (State.fire_keeps _ _)
    | with_reducible refine Keeps.ite ?_ ?_
    | split
    | extract_lets -merge
    | rintro _ ⟨⟩
    | with_reducible apply Keeps.getD
    | contradiction
    | intro _ _
    | refine Keeps.fst ?_ (by with_reducible assumption)
    | dsimp +zetaDelta only

theorem State.cfgApply_keeps (a0 : Nat) (a1 : CfgWrite) (s : State) : Keeps 0x40000600600 s (State.cfgApply a0 a1 s) := by
  unfold State.cfgApply
  repeat' first
    | exact Eq.refl _
    | exact fun _ => Eq.refl _
    | with_reducible exact Keeps.refl _ _
    | assumption
    | with_reducible apply Keeps.after (State.setPort_keeps _ _ _)
    | with_reducible apply Keeps.after (State.setLd_keeps _ _ _)
    | with_reducible apply Keeps.after (State.putMsixMask_keeps _ _)
    | with_reducible apply Keeps.after (State.sendVector_keeps _ _ _)
    | with_reducible apply Keeps.after (State.putMsixPend_keeps _ _)
    | with_reducible refine Keeps.ite ?_ ?_
    | split
    | extract_lets -merge
    | rintro _ ⟨⟩
    | with_reducible apply Keeps.getD
    | contradiction
    | intro _ _
    | refine Keeps.fst ?_ (by with_reducible assumption)
    | dsimp +zetaDelta only

theorem State.retrainPort_keeps (a0 : Nat) (s : State) : Keeps 0x200002 s (State.retrainPort a0 s) := by
  unfold State.retrainPort
  repeat' first
    | exact Eq.refl _
    | exact fun _ => Eq.refl _
    | with_reducible exact Keeps.refl _ _
    | assumption
    | with_reducible apply Keeps.after (State.setF_keeps _ _ _)
    | with_reducible apply Keeps.after (State.setPort_keeps _ _ _)
    | with_reducible refine Keeps.ite ?_ ?_
    | split
    | extract_lets -merge
    | rintro _ ⟨⟩
    | with_reducible apply Keeps.getD
    | contradiction
    | intro _ _
    | refine Keeps.fst ?_ (by with_reducible assumption)
    | dsimp +zetaDelta only

end Sys2Proof.Machine
end

