-- ==== Sys2Proof/Laws/KeepsMailbox.lean ====
section
/-!
SUPPORT. What the operations of Machine/Mailbox.lean leave unchanged.
-/
namespace Sys2Proof.Machine

theorem State.mailbox_keeps {m : Nat} {a2 : State → State} {s0 : State} (hm : 0x40000000400 ||| m = m) (h2 : ∀ x0, Keeps m x0 (a2 x0)) (a0 : Nat) (a1 : Nat) (s : State) (h : Keeps m s0 s) : Keeps m s0 (State.mailbox a0 a1 a2 s) := by
  unfold State.mailbox
  repeat' first
    | exact Eq.refl _
    | exact fun _ => Eq.refl _
    | with_reducible exact Keeps.refl _ _
    | assumption
    | with_reducible apply Keeps.after (State.emit_keeps _ _)
    | with_reducible apply Keeps.after (State.mbDone_keeps _ _ _ _ _)
    | with_reducible apply Keeps.after (h2 _)
    | exact Nat.or_self m
    | exact Keeps.sub rfl hm
    | with_reducible refine Keeps.ite ?_ ?_
    | split
    | extract_lets -merge
    | rintro _ ⟨⟩
    | with_reducible apply Keeps.getD
    | contradiction
    | intro _ _
    | refine Keeps.fst ?_ (by with_reducible assumption)
    | dsimp +zetaDelta only

theorem State.clockCompare_keeps (s : State) : Keeps 0x4000002 s (State.clockCompare s) := by
  unfold State.clockCompare
  repeat' first
    | exact Eq.refl _
    | exact fun _ => Eq.refl _
    | with_reducible exact Keeps.refl _ _
    | assumption
    | with_reducible apply Keeps.after (State.modXlt_keeps _ _ )
    | with_reducible apply Keeps.after (State.setF_keeps _ _ _)
    | with_reducible refine Keeps.ite ?_ ?_
    | split
    | extract_lets -merge
    | rintro _ ⟨⟩
    | with_reducible apply Keeps.getD
    | contradiction
    | intro _ _
    | refine Keeps.fst ?_ (by with_reducible assumption)
    | dsimp +zetaDelta only

theorem State.timeWrite_keeps (a0 : Nat) (a1 : Nat) (s : State) : Keeps 0x40004030562 s (State.timeWrite a0 a1 s) := by
  unfold State.timeWrite
  repeat' first
    | exact Eq.refl _
    | exact fun _ => Eq.refl _
    | with_reducible exact Keeps.refl _ _
    | assumption
    | with_reducible apply Keeps.after (State.modClk_keeps _ _ )
    | with_reducible apply Keeps.after (State.clockCompare_keeps _)
    | with_reducible apply Keeps.after (State.fireRec_keeps _ _ _ _)
    | with_reducible refine Keeps.ite ?_ ?_
    | split
    | extract_lets -merge
    | rintro _ ⟨⟩
    | with_reducible apply Keeps.getD
    | contradiction
    | intro _ _
    | refine Keeps.fst ?_ (by with_reducible assumption)
    | dsimp +zetaDelta only

theorem State.lsaIssue_keeps (n : Nat) (bytes : Tab Byte) (ps : List Nat) (s : State) :
    ∀ t, State.lsaIssue n bytes ps s = some t → Keeps 0xc000c030522 s t := by
  induction ps generalizing s with
  | nil => intro t h; cases h; exact Keeps.refl _ _
  | cons p ps ih =>
    intro t h
    unfold State.lsaIssue at h
    have h1 := (State.rotateGroup_keeps s).mono (n := 0xc000c030522) (Eq.refl _)
    have h2 := (State.allocPage_keeps s.rotateGroup.2 19 s.rotateGroup.1).mono (n := 0xc000c030522) (Eq.refl _)
    generalize s.rotateGroup = r at h h1 h2
    obtain ⟨s1, g⟩ := r
    dsimp only at h h1 h2
    split at h
    · cases h
    · rename_i s2 q heq
      have h3 := (h1.trans (Keeps.fst h2 heq)).trans ((State.takeStamp_keeps s2).mono (Eq.refl _))
      exact (h3.trans ((State.issue_keeps _ _ _ _).mono (Eq.refl _))).trans (ih _ _ h)

theorem State.mailStart_keeps (a0 : Nat) (a1 : Nat) (a2 : Nat) (a3 : List Byte) (s : State) : Keeps 0xca57fe315a2 s (State.mailStart a0 a1 a2 a3 s) := by
  unfold State.mailStart
  repeat' first
    | exact Eq.refl _
    | exact fun _ => Eq.refl _
    | with_reducible exact Keeps.refl _ _
    | assumption
    | with_reducible apply Keeps.after (State.modSpl_keeps _ _ ?_)
    | with_reducible apply Keeps.after (State.mailStep_keeps _ _)
    | with_reducible apply Keeps.after (State.setLd_keeps _ _ _)
    | with_reducible refine Keeps.ite ?_ ?_
    | split
    | extract_lets -merge
    | rintro _ ⟨⟩
    | with_reducible apply Keeps.getD
    | contradiction
    | intro _ _
    | refine Keeps.fst ?_ (by with_reducible assumption)
    | dsimp +zetaDelta only

theorem State.eraseStart_keeps (a0 : Nat) (a1 : Nat) (s : State) : Keeps 0xc850ec30522 s (State.eraseStart a0 a1 s) := by
  unfold State.eraseStart
  repeat' first
    | exact Eq.refl _
    | exact fun _ => Eq.refl _
    | with_reducible exact Keeps.refl _ _
    | assumption
    | with_reducible apply Keeps.after (State.mbDone_keeps _ _ _ _ _)
    | with_reducible apply Keeps.after (State.discardBegin_keeps _ _ _)
    | with_reducible apply Keeps.after (State.setLd_keeps _ _ _)
    | with_reducible refine Keeps.foldl (fun _ _ => ?_) _ ?_
    | with_reducible refine Keeps.foldlFst (fun _ _ _ => ?_) _ ?_
    | with_reducible refine Keeps.foldlSnd (fun _ _ _ => ?_) _ ?_
    | with_reducible refine Keeps.ite ?_ ?_
    | split
    | extract_lets -merge
    | rintro _ ⟨⟩
    | with_reducible apply Keeps.getD
    | contradiction
    | intro _ _
    | refine Keeps.fst ?_ (by with_reducible assumption)
    | dsimp +zetaDelta only

theorem State.sanitizeStart_keeps (a0 : Nat) (s : State) : Keeps 0xc851ec30522 s (State.sanitizeStart a0 s) := by
  unfold State.sanitizeStart
  repeat' first
    | exact Eq.refl _
    | exact fun _ => Eq.refl _
    | with_reducible exact Keeps.refl _ _
    | assumption
    | with_reducible apply Keeps.after (State.mbDone_keeps _ _ _ _ _)
    | with_reducible apply Keeps.after (State.dropPage_keeps _ _)
    | with_reducible apply Keeps.after (State.setLd_keeps _ _ _)
    | with_reducible apply Keeps.after (State.eraseStart_keeps _ _ _)
    | with_reducible apply Keeps.after (State.modCoh_keeps _ _ )
    | with_reducible refine Keeps.foldl (fun _ _ => ?_) _ ?_
    | with_reducible refine Keeps.foldlFst (fun _ _ _ => ?_) _ ?_
    | with_reducible refine Keeps.foldlSnd (fun _ _ _ => ?_) _ ?_
    | with_reducible refine Keeps.ite ?_ ?_
    | split
    | extract_lets -merge
    | rintro _ ⟨⟩
    | with_reducible apply Keeps.getD
    | contradiction
    | intro _ _
    | refine Keeps.fst ?_ (by with_reducible assumption)
    | dsimp +zetaDelta only

theorem State.bgFinish_keeps (a0 : Nat) (a1 : BgCmd) (s : State) : Keeps 0x40010400400 s (State.bgFinish a0 a1 s) := by
  unfold State.bgFinish
  repeat' first
    | exact Eq.refl _
    | exact fun _ => Eq.refl _
    | with_reducible exact Keeps.refl _ _
    | assumption
    | with_reducible apply Keeps.after (State.modCoh_keeps _ _ )
    | with_reducible apply Keeps.after (State.mbDone_keeps _ _ _ _ _)
    | with_reducible apply Keeps.after (State.setLd_keeps _ _ _)
    | with_reducible refine Keeps.ite ?_ ?_
    | split
    | extract_lets -merge
    | rintro _ ⟨⟩
    | with_reducible apply Keeps.getD
    | contradiction
    | intro _ _
    | refine Keeps.fst ?_ (by with_reducible assumption)
    | dsimp +zetaDelta only

theorem State.fmReleases_keeps (s : State) : Keeps 0xc851c430522 s (State.fmReleases s) := by
  unfold State.fmReleases
  repeat' first
    | exact Eq.refl _
    | exact fun _ => Eq.refl _
    | with_reducible exact Keeps.refl _ _
    | assumption
    | with_reducible apply Keeps.after (State.sendVector_keeps _ _ _)
    | with_reducible apply Keeps.after (State.extentFree_keeps _ _)
    | with_reducible apply Keeps.after (State.extentStep_keeps _ _)
    | with_reducible refine Keeps.foldl (fun _ _ => ?_) _ ?_
    | with_reducible refine Keeps.foldlFst (fun _ _ _ => ?_) _ ?_
    | with_reducible refine Keeps.foldlSnd (fun _ _ _ => ?_) _ ?_
    | with_reducible refine Keeps.ite ?_ ?_
    | split
    | extract_lets -merge
    | rintro _ ⟨⟩
    | with_reducible apply Keeps.getD
    | contradiction
    | intro _ _
    | refine Keeps.fst ?_ (by with_reducible assumption)
    | dsimp +zetaDelta only

end Sys2Proof.Machine
end

