-- ==== Sys2Proof/Laws/KeepsFmApi.lean ====
section
/-!
SUPPORT. What the operations of Machine/FmApi.lean leave unchanged.
-/
namespace Sys2Proof.Machine

theorem State.fmCommand_keeps {m : Nat} {a0 : State → State} {s0 : State} (hm : 0x0 ||| m = m) (h0 : ∀ x0, Keeps m x0 (a0 x0)) (s : State) (h : Keeps m s0 s) : Keeps m s0 (State.fmCommand a0 s) := by
  unfold State.fmCommand
  repeat' first
    | exact Eq.refl _
    | exact fun _ => Eq.refl _
    | with_reducible exact Keeps.refl _ _
    | assumption
    | with_reducible apply Keeps.after (h0 _)
    | exact Nat.or_self m
    | exact Keeps.sub rfl hm
    | with_reducible refine Keeps.ite ?_ ?_
    | split
    | extract_lets -merge
    | rintro _ ⟨⟩
    | with_reducible apply Keeps.getD
    | contradiction
    | intro _ _
    | refine Keeps.fst ?_ (by with_reducible assumption)
    | dsimp +zetaDelta only

theorem State.fmDone_keeps (a0 : Nat) (a1 : Nat) (a2 : List Nat) (s : State) : Keeps 0x40000000000 s (State.fmDone a0 a1 a2 s) := by
  unfold State.fmDone
  repeat' first
    | exact Eq.refl _
    | exact fun _ => Eq.refl _
    | with_reducible exact Keeps.refl _ _
    | assumption
    | with_reducible apply Keeps.after (State.emit_keeps _ _)
    | with_reducible refine Keeps.ite ?_ ?_
    | split
    | extract_lets -merge
    | rintro _ ⟨⟩
    | with_reducible apply Keeps.getD
    | contradiction
    | intro _ _
    | refine Keeps.fst ?_ (by with_reducible assumption)
    | dsimp +zetaDelta only

theorem State.bindingWrite_keeps (s : State) : Keeps 0x40000010522 s (State.bindingWrite s) := by
  unfold State.bindingWrite
  repeat' first
    | exact Eq.refl _
    | exact fun _ => Eq.refl _
    | with_reducible exact Keeps.refl _ _
    | assumption
    | with_reducible apply Keeps.after (State.programHem_keeps _ _ _)
    | with_reducible apply Keeps.after (State.putKeep_keeps _ _ ?_)
    | with_reducible exact fun c => ⟨c.tackOk, c.hemOk⟩
    | with_reducible exact fun c => ⟨Tab.wf_set _ _ _ _ c.tackOk, c.hemOk⟩
    | with_reducible exact fun c => ⟨c.tackOk, Tab.wf_set _ _ _ _ c.hemOk⟩
    | with_reducible exact fun c => c.memOk
    | with_reducible exact fun c => c.flashOk
    | with_reducible exact fun c => Tab.wf_setBytes _ _ _ _ c.memOk
    | with_reducible exact fun c => Tab.wf_filter _ _ _ c.memOk
    | with_reducible refine Keeps.ite ?_ ?_
    | split
    | extract_lets -merge
    | rintro _ ⟨⟩
    | with_reducible apply Keeps.getD
    | contradiction
    | intro _ _
    | refine Keeps.fst ?_ (by with_reducible assumption)
    | dsimp +zetaDelta only

theorem State.bindLater_keeps (a0 : Nat) (a1 : Nat) (a2 : Option Nat) (s : State) : Keeps 0xca57fe315a2 s (State.bindLater a0 a1 a2 s) := by
  unfold State.bindLater
  repeat' first
    | exact Eq.refl _
    | exact fun _ => Eq.refl _
    | with_reducible exact Keeps.refl _ _
    | assumption
    | with_reducible apply Keeps.after (State.bindingWrite_keeps _)
    | with_reducible apply Keeps.after (State.setLd_keeps _ _ _)
    | with_reducible apply Keeps.after (State.bindNow_keeps _ _ _)
    | with_reducible refine Keeps.ite ?_ ?_
    | split
    | extract_lets -merge
    | rintro _ ⟨⟩
    | with_reducible apply Keeps.getD
    | contradiction
    | intro _ _
    | refine Keeps.fst ?_ (by with_reducible assumption)
    | dsimp +zetaDelta only

theorem State.fmRelease_keeps (a0 : Nat) (a1 : Nat) (a2 : Nat) (a3 : Bool) (a4 : Bool) (s : State) : Keeps 0xc851ec30522 s (State.fmRelease a0 a1 a2 a3 a4 s) := by
  unfold State.fmRelease
  repeat' first
    | exact Eq.refl _
    | exact fun _ => Eq.refl _
    | with_reducible exact Keeps.refl _ _
    | assumption
    | with_reducible apply Keeps.after (State.fmDone_keeps _ _ _ _)
    | with_reducible apply Keeps.after (State.dcEvent_keeps _ _ _ _)
    | with_reducible apply Keeps.after (State.setExtent_keeps _ _)
    | with_reducible apply Keeps.after (State.extentRelease_keeps _ _)
    | with_reducible refine Keeps.ite ?_ ?_
    | split
    | extract_lets -merge
    | rintro _ ⟨⟩
    | with_reducible apply Keeps.getD
    | contradiction
    | intro _ _
    | refine Keeps.fst ?_ (by with_reducible assumption)
    | dsimp +zetaDelta only

end Sys2Proof.Machine
end

