-- ==== Sys2Proof/Laws/KeepsIntegrity.lean ====
section
/-!
SUPPORT. What the operations of Machine/Integrity.lean leave unchanged.
-/
namespace Sys2Proof.Machine

theorem State.pairLost_keeps (a0 : Option Nat) (s : State) : Keeps 0x4002c030522 s (State.pairLost a0 s) := by
  unfold State.pairLost
  repeat' first
    | exact Eq.refl _
    | exact fun _ => Eq.refl _
    | with_reducible exact Keeps.refl _ _
    | assumption
    | with_reducible apply Keeps.after (State.fire_keeps _ _)
    | with_reducible apply Keeps.after (State.modMed_keeps _ _ )
    | with_reducible apply Keeps.after (State.dirtiedRecord_keeps _)
    | with_reducible apply Keeps.after (State.modXlt_keeps _ _ )
    | with_reducible refine Keeps.ite ?_ ?_
    | split
    | extract_lets -merge
    | rintro _ ⟨⟩
    | with_reducible apply Keeps.getD
    | contradiction
    | intro _ _
    | refine Keeps.fst ?_ (by with_reducible assumption)
    | dsimp +zetaDelta only

theorem State.contextLost_keeps (a0 : Nat) (s : State) : Keeps 0x42000000522 s (State.contextLost a0 s) := by
  unfold State.contextLost
  repeat' first
    | exact Eq.refl _
    | exact fun _ => Eq.refl _
    | with_reducible exact Keeps.refl _ _
    | assumption
    | with_reducible apply Keeps.after (State.modSpl_keeps _ _ ?_)
    | with_reducible apply Keeps.after (State.spoolError_keeps _ _ _ _)
    | with_reducible refine Keeps.foldl (fun _ _ => ?_) _ ?_
    | with_reducible refine Keeps.foldlFst (fun _ _ _ => ?_) _ ?_
    | with_reducible refine Keeps.foldlSnd (fun _ _ _ => ?_) _ ?_
    | with_reducible refine Keeps.ite ?_ ?_
    | split
    | extract_lets -merge
    | rintro _ ⟨⟩
    | with_reducible apply Keeps.getD
    | contradiction
    | intro _ _
    | refine Keeps.fst ?_ (by with_reducible assumption)
    | dsimp +zetaDelta only

theorem State.blockLost_keeps (a0 : Nat) (a1 : Nat) (a2 : Bool) (a3 : Option Nat) (s : State) : Keeps 0x4203e030522 s (State.blockLost a0 a1 a2 a3 s) := by
  unfold State.blockLost
  repeat' first
    | exact Eq.refl _
    | exact fun _ => Eq.refl _
    | with_reducible exact Keeps.refl _ _
    | assumption
    | with_reducible apply Keeps.after (State.tagBlockRecover_keeps _ _ _)
    | with_reducible apply Keeps.after (State.mapDamage_keeps _ _)
    | with_reducible apply Keeps.after (State.modXlt_keeps _ _ )
    | with_reducible apply Keeps.after (State.suspectSet_keeps _ _)
    | with_reducible apply Keeps.after (State.contextLost_keeps _ _)
    | with_reducible apply Keeps.after (State.pairLost_keeps _ _)
    | with_reducible apply Keeps.after (State.fire_keeps _ _)
    | with_reducible apply Keeps.after (State.modMed_keeps _ _ )
    | with_reducible apply Keeps.after (State.mapChanged_keeps _ _)
    | with_reducible refine Keeps.foldl (fun _ _ => ?_) _ ?_
    | with_reducible refine Keeps.foldlFst (fun _ _ _ => ?_) _ ?_
    | with_reducible refine Keeps.foldlSnd (fun _ _ _ => ?_) _ ?_
    | with_reducible refine Keeps.ite ?_ ?_
    | split
    | extract_lets -merge
    | rintro _ ⟨⟩
    | with_reducible apply Keeps.getD
    | contradiction
    | intro _ _
    | refine Keeps.fst ?_ (by with_reducible assumption)
    | dsimp +zetaDelta only

theorem State.treeRebuilt_keeps (a0 : Nat) (a1 : Nat) (s : State) : Keeps 0x8000002 s (State.treeRebuilt a0 a1 s) := by
  unfold State.treeRebuilt
  repeat' first
    | exact Eq.refl _
    | exact fun _ => Eq.refl _
    | with_reducible exact Keeps.refl _ _
    | assumption
    | with_reducible apply Keeps.after (State.countF_keeps _ _ _)
    | with_reducible apply Keeps.after (State.modMed_keeps _ _ )
    | with_reducible refine Keeps.ite ?_ ?_
    | split
    | extract_lets -merge
    | rintro _ ⟨⟩
    | with_reducible apply Keeps.getD
    | contradiction
    | intro _ _
    | refine Keeps.fst ?_ (by with_reducible assumption)
    | dsimp +zetaDelta only

theorem State.injEnd_keeps (s : State) : Keeps 0x40000002 s (State.injEnd s) := by
  unfold State.injEnd
  repeat' first
    | exact Eq.refl _
    | exact fun _ => Eq.refl _
    | with_reducible exact Keeps.refl _ _
    | assumption
    | with_reducible apply Keeps.after (State.setF_keeps _ _ _)
    | with_reducible apply Keeps.after (State.modInteg_keeps _ _ )
    | with_reducible refine Keeps.ite ?_ ?_
    | split
    | extract_lets -merge
    | rintro _ ⟨⟩
    | with_reducible apply Keeps.getD
    | contradiction
    | intro _ _
    | refine Keeps.fst ?_ (by with_reducible assumption)
    | dsimp +zetaDelta only

theorem State.injCtrl_keeps (a0 : Nat) (s : State) : Keeps 0x40000002 s (State.injCtrl a0 s) := by
  unfold State.injCtrl
  repeat' first
    | exact Eq.refl _
    | exact fun _ => Eq.refl _
    | with_reducible exact Keeps.refl _ _
    | assumption
    | with_reducible apply Keeps.after (State.setF_keeps _ _ _)
    | with_reducible apply Keeps.after (State.injEnd_keeps _)
    | with_reducible apply Keeps.after (State.modInteg_keeps _ _ )
    | with_reducible refine Keeps.ite ?_ ?_
    | split
    | extract_lets -merge
    | rintro _ ⟨⟩
    | with_reducible apply Keeps.getD
    | contradiction
    | intro _ _
    | refine Keeps.fst ?_ (by with_reducible assumption)
    | dsimp +zetaDelta only

theorem State.injAction_keeps {m : Nat} {a2 : State → State} {s0 : State} (hm : 0x400002305a2 ||| m = m) (h2 : ∀ x0, Keeps m x0 (a2 x0)) (a0 : Nat) (a1 : Nat) (s : State) (h : Keeps m s0 s) : Keeps m s0 (State.injAction a0 a1 a2 s) := by
  unfold State.injAction
  repeat' first
    | exact Eq.refl _
    | exact fun _ => Eq.refl _
    | with_reducible exact Keeps.refl _ _
    | assumption
    | with_reducible apply State.regAction_keeps
    | with_reducible intro _
    | with_reducible apply Keeps.after (State.report_keeps _ _ _ _)
    | with_reducible apply Keeps.after (State.deny_keeps _ _ _ _ _ _)
    | with_reducible apply Keeps.after (h2 _)
    | exact Nat.or_self m
    | exact Keeps.sub rfl hm
    | with_reducible refine Keeps.ite ?_ ?_
    | split
    | extract_lets -merge
    | rintro _ ⟨⟩
    | with_reducible apply Keeps.getD
    | contradiction
    | intro _ _
    | refine Keeps.fst ?_ (by with_reducible assumption)
    | dsimp +zetaDelta only

theorem State.scrubCmd_keeps (a0 : Nat) (s : State) : Keeps 0x40000002 s (State.scrubCmd a0 s) := by
  unfold State.scrubCmd
  repeat' first
    | exact Eq.refl _
    | exact fun _ => Eq.refl _
    | with_reducible exact Keeps.refl _ _
    | assumption
    | with_reducible apply Keeps.after (State.setF_keeps _ _ _)
    | with_reducible apply Keeps.after (State.modInteg_keeps _ _ )
    | with_reducible refine Keeps.ite ?_ ?_
    | split
    | extract_lets -merge
    | rintro _ ⟨⟩
    | with_reducible apply Keeps.getD
    | contradiction
    | intro _ _
    | refine Keeps.fst ?_ (by with_reducible assumption)
    | dsimp +zetaDelta only

theorem State.scrubNext_keeps (a0 : Scrub) (s : State) : Keeps 0x4804e0305a2 s (State.scrubNext a0 s) := by
  unfold State.scrubNext
  repeat' first
    | exact Eq.refl _
    | exact fun _ => Eq.refl _
    | with_reducible exact Keeps.refl _ _
    | assumption
    | with_reducible apply Keeps.after (Keeps.fst (State.scrubLine_keeps _ _ _ _ _ (by assumption)) rfl)
    | with_reducible apply Keeps.after (State.scrubLine_keeps _ _ _ _ _ (by assumption))
    | with_reducible apply Keeps.after (State.mapCheck_keeps _ _)
    | with_reducible apply Keeps.after (State.modInteg_keeps _ _ )
    | with_reducible refine Keeps.ite ?_ ?_
    | split
    | extract_lets -merge
    | rintro _ ⟨⟩
    | with_reducible apply Keeps.getD
    | contradiction
    | intro _ _
    | refine Keeps.fst ?_ (by with_reducible assumption)
    | dsimp +zetaDelta only

theorem State.dbgMemEnd_keeps (a0 : Nat) (s : State) : Keeps 0x80000002 s (State.dbgMemEnd a0 s) := by
  unfold State.dbgMemEnd
  repeat' first
    | exact Eq.refl _
    | exact fun _ => Eq.refl _
    | with_reducible exact Keeps.refl _ _
    | assumption
    | with_reducible apply Keeps.after (State.setF_keeps _ _ _)
    | with_reducible apply Keeps.after (State.modDbg_keeps _ _ )
    | with_reducible refine Keeps.ite ?_ ?_
    | split
    | extract_lets -merge
    | rintro _ ⟨⟩
    | with_reducible apply Keeps.getD
    | contradiction
    | intro _ _
    | refine Keeps.fst ?_ (by with_reducible assumption)
    | dsimp +zetaDelta only

theorem State.dbgData_keeps (a0 : Nat) (s : State) : Keeps 0x2 s (State.dbgData a0 s) := by
  unfold State.dbgData
  repeat' first
    | exact Eq.refl _
    | exact fun _ => Eq.refl _
    | with_reducible exact Keeps.refl _ _
    | assumption
    | with_reducible apply Keeps.after (State.setF_keeps _ _ _)
    | with_reducible refine Keeps.foldl (fun _ _ => ?_) _ ?_
    | with_reducible refine Keeps.foldlFst (fun _ _ _ => ?_) _ ?_
    | with_reducible refine Keeps.foldlSnd (fun _ _ _ => ?_) _ ?_
    | with_reducible refine Keeps.ite ?_ ?_
    | split
    | extract_lets -merge
    | rintro _ ⟨⟩
    | with_reducible apply Keeps.getD
    | contradiction
    | intro _ _
    | refine Keeps.fst ?_ (by with_reducible assumption)
    | dsimp +zetaDelta only

theorem State.dbgMemStep_keeps (a0 : DbgMem) (s : State) : Keeps 0xca5ffe315a2 s (State.dbgMemStep a0 s) := by
  unfold State.dbgMemStep
  repeat' first
    | exact Eq.refl _
    | exact fun _ => Eq.refl _
    | with_reducible exact Keeps.refl _ _
    | assumption
    | with_reducible apply Keeps.after (State.dbgMemEnd_keeps _ _)
    | with_reducible apply Keeps.after (State.spoolFlow_keeps _ _ _ _)
    | with_reducible apply Keeps.after (State.modDbg_keeps _ _ )
    | with_reducible apply Keeps.after (State.markLine_keeps _ _ _)
    | with_reducible apply Keeps.after (State.writeLine_keeps _ _ _ _)
    | with_reducible apply Keeps.after (State.countFenced_keeps _)
    | with_reducible apply Keeps.after (State.dbgData_keeps _ _)
    | with_reducible apply Keeps.after (State.readLine_keeps _ _ _ _ _)
    | with_reducible apply Keeps.after (State.tagFailEgress_keeps _ _ _ _)
    | with_reducible refine Keeps.ite ?_ ?_
    | split
    | extract_lets -merge
    | rintro _ ⟨⟩
    | with_reducible apply Keeps.getD
    | contradiction
    | intro _ _
    | refine Keeps.fst ?_ (by with_reducible assumption)
    | dsimp +zetaDelta only

theorem State.dbgMemCmd_keeps (a0 : Nat) (a1 : Nat) (s : State) : Keeps 0xca5ffe315a2 s (State.dbgMemCmd a0 a1 s) := by
  unfold State.dbgMemCmd
  repeat' first
    | exact Eq.refl _
    | exact fun _ => Eq.refl _
    | with_reducible exact Keeps.refl _ _
    | assumption
    | with_reducible apply Keeps.after (State.setF_keeps _ _ _)
    | with_reducible apply Keeps.after (State.dbgMemEnd_keeps _ _)
    | with_reducible apply Keeps.after (State.deny_keeps _ _ _ _ _ _)
    | with_reducible apply Keeps.after (State.dbgMemStep_keeps _ _)
    | with_reducible apply Keeps.after (State.modDbg_keeps _ _ )
    | with_reducible refine Keeps.ite ?_ ?_
    | split
    | extract_lets -merge
    | rintro _ ⟨⟩
    | with_reducible apply Keeps.getD
    | contradiction
    | intro _ _
    | refine Keeps.fst ?_ (by with_reducible assumption)
    | dsimp +zetaDelta only

theorem State.dbgRawEnd_keeps (a0 : Nat) (s : State) : Keeps 0x80000002 s (State.dbgRawEnd a0 s) := by
  unfold State.dbgRawEnd
  repeat' first
    | exact Eq.refl _
    | exact fun _ => Eq.refl _
    | with_reducible exact Keeps.refl _ _
    | assumption
    | with_reducible apply Keeps.after (State.setF_keeps _ _ _)
    | with_reducible apply Keeps.after (State.modDbg_keeps _ _ )
    | with_reducible refine Keeps.ite ?_ ?_
    | split
    | extract_lets -merge
    | rintro _ ⟨⟩
    | with_reducible apply Keeps.getD
    | contradiction
    | intro _ _
    | refine Keeps.fst ?_ (by with_reducible assumption)
    | dsimp +zetaDelta only

theorem State.dbgRawCmd_keeps (a0 : Nat) (a1 : Nat) (s : State) : Keeps 0x400800305a2 s (State.dbgRawCmd a0 a1 s) := by
  unfold State.dbgRawCmd
  repeat' first
    | exact Eq.refl _
    | exact fun _ => Eq.refl _
    | with_reducible exact Keeps.refl _ _
    | assumption
    | with_reducible apply Keeps.after (State.setF_keeps _ _ _)
    | with_reducible apply Keeps.after (State.dbgRawEnd_keeps _ _)
    | with_reducible apply Keeps.after (State.deny_keeps _ _ _ _ _ _)
    | with_reducible apply Keeps.after (State.modDbg_keeps _ _ )
    | with_reducible refine Keeps.ite ?_ ?_
    | split
    | extract_lets -merge
    | rintro _ ⟨⟩
    | with_reducible apply Keeps.getD
    | contradiction
    | intro _ _
    | refine Keeps.fst ?_ (by with_reducible assumption)
    | dsimp +zetaDelta only

theorem State.dbgRawData_keeps (a0 : RawJob) (a1 : Nat) (s : State) : Keeps 0xc8088000522 s (State.dbgRawData a0 a1 s) := by
  unfold State.dbgRawData
  repeat' first
    | exact Eq.refl _
    | exact fun _ => Eq.refl _
    | with_reducible exact Keeps.refl _ _
    | assumption
    | with_reducible apply Keeps.after (State.setF_keeps _ _ _)
    | with_reducible apply Keeps.after (State.perf_keeps _ _ _ _ _)
    | with_reducible apply Keeps.after (State.setBoltInfo_keeps _ _ _)
    | with_reducible apply Keeps.after (State.freeStep_keeps _)
    | with_reducible apply Keeps.after (State.dbgRawEnd_keeps _ _)
    | with_reducible refine Keeps.foldl (fun _ _ => ?_) _ ?_
    | with_reducible refine Keeps.foldlFst (fun _ _ _ => ?_) _ ?_
    | with_reducible refine Keeps.foldlSnd (fun _ _ _ => ?_) _ ?_
    | with_reducible refine Keeps.ite ?_ ?_
    | split
    | extract_lets -merge
    | rintro _ ⟨⟩
    | with_reducible apply Keeps.getD
    | contradiction
    | intro _ _
    | refine Keeps.fst ?_ (by with_reducible assumption)
    | dsimp +zetaDelta only

end Sys2Proof.Machine
end

