-- ==== Sys2Proof/Laws/KeepsRegWrite.lean ====
section
/-!
SUPPORT. What the operations of Machine/RegWrite.lean leave unchanged.
-/
namespace Sys2Proof.Machine

theorem State.summaryOf_keeps (a0 : Nat) (s : State) : Keeps 0x2 s (State.summaryOf a0 s) := by
  unfold State.summaryOf
  repeat' first
    | exact Eq.refl _
    | exact fun _ => Eq.refl _
    | with_reducible exact Keeps.refl _ _
    | assumption
    | with_reducible apply Keeps.after (State.setBitF_keeps _ _ _ _)
    | with_reducible refine Keeps.ite ?_ ?_
    | split
    | extract_lets -merge
    | rintro _ ⟨⟩
    | with_reducible apply Keeps.getD
    | contradiction
    | intro _ _
    | refine Keeps.fst ?_ (by with_reducible assumption)
    | dsimp +zetaDelta only

theorem State.ptuStart_keeps (a0 : Nat) (s : State) : Keeps 0x40002 s (State.ptuStart a0 s) := by
  unfold State.ptuStart
  repeat' first
    | exact Eq.refl _
    | exact fun _ => Eq.refl _
    | with_reducible exact Keeps.refl _ _
    | assumption
    | with_reducible apply Keeps.after (State.setF_keeps _ _ _)
    | with_reducible apply Keeps.after (State.modPat_keeps _ _ ?_)
    | with_reducible refine Keeps.ite ?_ ?_
    | split
    | extract_lets -merge
    | rintro _ ⟨⟩
    | with_reducible apply Keeps.getD
    | contradiction
    | intro _ _
    | refine Keeps.fst ?_ (by with_reducible assumption)
    | dsimp +zetaDelta only

theorem State.carWritten_keeps (a0 : Nat) (a1 : Nat) (s : State) : Keeps 0xc8608000522 s (State.carWritten a0 a1 s) := by
  unfold State.carWritten
  repeat' first
    | exact Eq.refl _
    | exact fun _ => Eq.refl _
    | with_reducible exact Keeps.refl _ _
    | assumption
    | with_reducible apply carCmd_keeps
    | with_reducible intro _
    | with_reducible apply Keeps.after (claimStart_keeps _ _)
    | with_reducible apply Keeps.after (pairStart_keeps _ _)
    | with_reducible apply Keeps.after (readmitNow_keeps _ _)
    | with_reducible apply Keeps.after (locate_keeps _ _ _)
    | with_reducible refine Keeps.ite ?_ ?_
    | split
    | extract_lets -merge
    | rintro _ ⟨⟩
    | with_reducible apply Keeps.getD
    | contradiction
    | intro _ _
    | refine Keeps.fst ?_ (by with_reducible assumption)
    | dsimp +zetaDelta only

theorem State.keyCmdWritten_keeps (a0 : Word) (s : State) : Keeps 0x6a54f430522 s (State.keyCmdWritten a0 s) := by
  unfold State.keyCmdWritten
  repeat' first
    | exact Eq.refl _
    | exact fun _ => Eq.refl _
    | with_reducible exact Keeps.refl _ _
    | assumption
    | with_reducible apply Keeps.after (State.keyCmdRetire_keeps _ _ _)
    | with_reducible apply Keeps.after (State.setF_keeps _ _ _)
    | with_reducible refine Keeps.ite ?_ ?_
    | split
    | extract_lets -merge
    | rintro _ ⟨⟩
    | with_reducible apply Keeps.getD
    | contradiction
    | intro _ _
    | refine Keeps.fst ?_ (by with_reducible assumption)
    | dsimp +zetaDelta only

theorem State.plainWrite_keeps (a0 : Nat) (a1 : Nat) (a2 : RegDesc) (a3 : Word) (s : State) : Keeps 0x4001e s (State.plainWrite a0 a1 a2 a3 s) := by
  unfold State.plainWrite
  repeat' first
    | exact Eq.refl _
    | exact fun _ => Eq.refl _
    | with_reducible exact Keeps.refl _ _
    | assumption
    | with_reducible apply Keeps.after (State.modPat_keeps _ _ ?_)
    | with_reducible apply Keeps.after (State.writeWord_keeps _ _ _ _)
    | with_reducible apply Keeps.after (State.putSliceDone_keeps _ _)
    | with_reducible refine Keeps.ite ?_ ?_
    | split
    | extract_lets -merge
    | rintro _ ⟨⟩
    | with_reducible apply Keeps.getD
    | contradiction
    | intro _ _
    | refine Keeps.fst ?_ (by with_reducible assumption)
    | dsimp +zetaDelta only

theorem State.regPerform_keeps (a0 : Nat) (a1 : Nat) (a2 : RegDesc) (a3 : Word) (s : State) : Keeps 0x2ee7fff7bffe s (State.regPerform a0 a1 a2 a3 s) := by
  unfold State.regPerform
  repeat' first
    | exact Eq.refl _
    | exact fun _ => Eq.refl _
    | with_reducible exact Keeps.refl _ _
    | assumption
    | with_reducible apply Keeps.after (State.plainWrite_keeps _ _ _ _ _)
    | with_reducible apply Keeps.after (State.onRequest_keeps _ _)
    | with_reducible apply Keeps.after (State.offWritten_keeps _)
    | with_reducible apply Keeps.after (State.ptuStart_keeps _ _)
    | with_reducible apply Keeps.after (State.hemCmd_keeps _ _)
    | with_reducible apply Keeps.after (State.hemPageLoad_keeps _ _)
    | with_reducible apply Keeps.after (State.tackStore_keeps _ _ _)
    | with_reducible apply Keeps.after (State.hamperRd_keeps _ _)
    | with_reducible apply Keeps.after (State.fire_keeps _ _)
    | with_reducible apply Keeps.after (State.driveAlert_keeps _)
    | with_reducible apply Keeps.after (State.summaryOf_keeps _ _)
    | with_reducible apply Keeps.after (State.presentAll_keeps _)
    | with_reducible apply Keeps.after (State.ackTarget_keeps _ _ _)
    | with_reducible apply Keeps.after (State.zeroStart_keeps _)
    | with_reducible apply Keeps.after (State.readStart_keeps _)
    | with_reducible apply Keeps.after (State.ringPop_keeps _ _)
    | with_reducible apply Keeps.after (State.retrainPort_keeps _ _)
    | with_reducible apply Keeps.after (State.unquarantineCmd_keeps _ _)
    | with_reducible apply Keeps.after (State.retrainCmd_keeps _ _)
    | with_reducible apply Keeps.after (State.carWritten_keeps _ _ _)
    | with_reducible apply Keeps.after (State.linOperate_keeps _ _ _ _)
    | with_reducible apply Keeps.after (State.pcuOperate_keeps _ _ _ _)
    | with_reducible apply Keeps.after (State.darnWritten_keeps _ _)
    | with_reducible apply Keeps.after (State.suspectClear_keeps _ _)
    | with_reducible apply Keeps.after (State.keyCmdWritten_keeps _ _)
    | with_reducible apply Keeps.after (State.injCtrl_keeps _ _)
    | with_reducible apply Keeps.after (State.scrubCmd_keeps _ _)
    | with_reducible apply Keeps.after (State.doorbell_keeps _ _ _)
    | with_reducible apply Keeps.after (State.modSpl_keeps _ _ ?_)
    | with_reducible apply Keeps.after (State.ctxWrite_keeps _ _ _ _)
    | with_reducible apply Keeps.after (State.latClear_keeps _ _)
    | with_reducible apply Keeps.after (State.dbgMemCmd_keeps _ _ _)
    | with_reducible apply Keeps.after (State.dbgRawCmd_keeps _ _ _)
    | with_reducible refine Keeps.ite ?_ ?_
    | split
    | extract_lets -merge
    | rintro _ ⟨⟩
    | with_reducible apply Keeps.getD
    | contradiction
    | intro _ _
    | refine Keeps.fst ?_ (by with_reducible assumption)
    | dsimp +zetaDelta only

theorem State.regWrite_keeps (a0 : Nat) (a1 : Nat) (a2 : Word) (s : State) : Keeps 0x2ee7fff7bffe s (State.regWrite a0 a1 a2 s).1 := by
  unfold State.regWrite
  repeat' first
    | exact Eq.refl _
    | exact fun _ => Eq.refl _
    | with_reducible exact Keeps.refl _ _
    | assumption
    | with_reducible apply Keeps.after (State.regPerform_keeps _ _ _ _ _)
    | with_reducible apply Keeps.after (State.deny_keeps _ _ _ _ _ _)
    | with_reducible refine Keeps.ite ?_ ?_
    | split
    | extract_lets -merge
    | rintro _ ⟨⟩
    | with_reducible apply Keeps.getD
    | contradiction
    | intro _ _
    | refine Keeps.fst ?_ (by with_reducible assumption)
    | dsimp +zetaDelta only

theorem State.seamEffect_keeps (a0 : Block) (a1 : Nat) (s : State) : Keeps 0xcff7ff3bda2 s (State.seamEffect a0 a1 s) := by
  unfold State.seamEffect
  repeat' first
    | exact Eq.refl _
    | exact fun _ => Eq.refl _
    | with_reducible exact Keeps.refl _ _
    | assumption
    | with_reducible apply Keeps.after (State.flushUpdate_keeps _)
    | with_reducible apply Keeps.after (State.thermPin_keeps _)
    | with_reducible apply Keeps.after (State.driveAlert_keeps _)
    | with_reducible apply Keeps.after (State.admitWaiting_keeps _)
    | with_reducible apply Keeps.after (State.modTherm_keeps _ _ )
    | with_reducible apply Keeps.after (State.fenceUpdate_keeps _)
    | with_reducible apply Keeps.after (State.hostDown_keeps _ _)
    | with_reducible apply Keeps.after (State.reevaluate_keeps _)
    | with_reducible apply Keeps.after (State.cartGone_keeps _ _ _)
    | with_reducible apply Keeps.after (State.carFail_keeps _ _)
    | with_reducible apply Keeps.after (State.linkStop_keeps _ _ _)
    | with_reducible apply Keeps.after (State.linkTrain_keeps _ _ _)
    | with_reducible apply Keeps.after (State.dirtyChanged_keeps _)
    | with_reducible apply Keeps.after (State.cacheSeam_keeps _ _)
    | with_reducible apply Keeps.after (State.splSeam_keeps _)
    | with_reducible refine Keeps.ite ?_ ?_
    | split
    | extract_lets -merge
    | rintro _ ⟨⟩
    | with_reducible apply Keeps.getD
    | contradiction
    | intro _ _
    | refine Keeps.fst ?_ (by with_reducible assumption)
    | dsimp +zetaDelta only

theorem State.unsealGroups_keeps (s : State) : Keeps 0x40000000522 s (State.unsealGroups s) := by
  unfold State.unsealGroups
  repeat' first
    | exact Eq.refl _
    | exact fun _ => Eq.refl _
    | with_reducible exact Keeps.refl _ _
    | assumption
    | with_reducible apply Keeps.after (State.fire_keeps _ _)
    | with_reducible apply Keeps.after (State.setF_keeps _ _ _)
    | with_reducible refine Keeps.foldl (fun _ _ => ?_) _ ?_
    | with_reducible refine Keeps.foldlFst (fun _ _ _ => ?_) _ ?_
    | with_reducible refine Keeps.foldlSnd (fun _ _ _ => ?_) _ ?_
    | with_reducible refine Keeps.ite ?_ ?_
    | split
    | extract_lets -merge
    | rintro _ ⟨⟩
    | with_reducible apply Keeps.getD
    | contradiction
    | intro _ _
    | refine Keeps.fst ?_ (by with_reducible assumption)
    | dsimp +zetaDelta only

theorem State.sliceApply_keeps (a0 : Block) (a1 : Nat) (s : State) : Keeps 0x200000000000 s (State.sliceApply a0 a1 s) := by
  unfold State.sliceApply
  repeat' first
    | exact Eq.refl _
    | exact fun _ => Eq.refl _
    | with_reducible exact Keeps.refl _ _
    | assumption
    | with_reducible apply Keeps.after (State.putSliceReg_keeps _ _)
    | with_reducible refine Keeps.foldl (fun _ _ => ?_) _ ?_
    | with_reducible refine Keeps.foldlFst (fun _ _ _ => ?_) _ ?_
    | with_reducible refine Keeps.foldlSnd (fun _ _ _ => ?_) _ ?_
    | with_reducible refine Keeps.ite ?_ ?_
    | split
    | extract_lets -merge
    | rintro _ ⟨⟩
    | with_reducible apply Keeps.getD
    | contradiction
    | intro _ _
    | refine Keeps.fst ?_ (by with_reducible assumption)
    | dsimp +zetaDelta only

theorem State.enableSeam_keeps (a0 : Block) (s : State) : Keeps 0x40002000522 s (State.enableSeam a0 s) := by
  unfold State.enableSeam
  repeat' first
    | exact Eq.refl _
    | exact fun _ => Eq.refl _
    | with_reducible exact Keeps.refl _ _
    | assumption
    | with_reducible apply Keeps.after (State.cacheSeam_keeps _ _)
    | with_reducible refine Keeps.ite ?_ ?_
    | split
    | extract_lets -merge
    | rintro _ ⟨⟩
    | with_reducible apply Keeps.getD
    | contradiction
    | intro _ _
    | refine Keeps.fst ?_ (by with_reducible assumption)
    | dsimp +zetaDelta only

theorem State.seam_keeps (a0 : Block) (a1 : Nat) (s : State) : Keeps 0x2cff7ff3bdb6 s (State.seam a0 a1 s) := by
  unfold State.seam
  repeat' first
    | exact Eq.refl _
    | exact fun _ => Eq.refl _
    | with_reducible exact Keeps.refl _ _
    | assumption
    | with_reducible apply Keeps.after (State.enableSeam_keeps _ _)
    | with_reducible apply Keeps.after (State.putSliceDone_keeps _ _)
    | with_reducible apply Keeps.after (State.sliceApply_keeps _ _ _)
    | with_reducible apply Keeps.after (State.pmcSeam_keeps _)
    | with_reducible apply Keeps.after (State.seamEffect_keeps _ _ _)
    | with_reducible apply Keeps.after (State.applySeam_keeps _ _ _)
    | with_reducible apply Keeps.after (State.putSliceReg_keeps _ _)
    | with_reducible apply Keeps.after (State.unsealGroups_keeps _)
    | with_reducible refine Keeps.ite ?_ ?_
    | split
    | extract_lets -merge
    | rintro _ ⟨⟩
    | with_reducible apply Keeps.getD
    | contradiction
    | intro _ _
    | refine Keeps.fst ?_ (by with_reducible assumption)
    | dsimp +zetaDelta only

end Sys2Proof.Machine
end

