-- ==== Sys2Proof/Laws/KeepsPattern.lean ====
section
/-!
SUPPORT. What the operations of Machine/Pattern.lean leave unchanged.
-/
namespace Sys2Proof.Machine

theorem State.slotValid_keeps (a0 : Nat) (a1 : Bool) (s : State) : Keeps 0x40000 s (State.slotValid a0 a1 s) := by
  unfold State.slotValid
  repeat' first
    | exact Eq.refl _
    | exact fun _ => Eq.refl _
    | with_reducible exact Keeps.refl _ _
    | assumption
    | with_reducible apply Keeps.after (State.modPat_keeps _ _ ?_)
    | with_reducible refine Keeps.ite ?_ ?_
    | split
    | extract_lets -merge
    | rintro _ ⟨⟩
    | with_reducible apply Keeps.getD
    | contradiction
    | intro _ _
    | refine Keeps.fst ?_ (by with_reducible assumption)
    | dsimp +zetaDelta only

theorem State.slotResult_keeps (a0 : Nat) (a1 : Nat) (s : State) : Keeps 0x40002 s (State.slotResult a0 a1 s) := by
  unfold State.slotResult
  repeat' first
    | exact Eq.refl _
    | exact fun _ => Eq.refl _
    | with_reducible exact Keeps.refl _ _
    | assumption
    | with_reducible apply Keeps.after (State.setF_keeps _ _ _)
    | with_reducible apply Keeps.after (State.slotValid_keeps _ _ _)
    | with_reducible refine Keeps.ite ?_ ?_
    | split
    | extract_lets -merge
    | rintro _ ⟨⟩
    | with_reducible apply Keeps.getD
    | contradiction
    | intro _ _
    | refine Keeps.fst ?_ (by with_reducible assumption)
    | dsimp +zetaDelta only

theorem State.patternRegs_keeps (s : State) : Keeps 0x2 s (State.patternRegs s) := by
  unfold State.patternRegs
  repeat' first
    | exact Eq.refl _
    | exact fun _ => Eq.refl _
    | with_reducible exact Keeps.refl _ _
    | assumption
    | with_reducible apply Keeps.after (State.setF_keeps _ _ _)
    | with_reducible apply Keeps.after (State.setFlag_keeps _ _ _)
    | with_reducible refine Keeps.ite ?_ ?_
    | split
    | extract_lets -merge
    | rintro _ ⟨⟩
    | with_reducible apply Keeps.getD
    | contradiction
    | intro _ _
    | refine Keeps.fst ?_ (by with_reducible assumption)
    | dsimp +zetaDelta only

theorem State.activate_keeps (a0 : Nat) (a1 : Nat) (s : State) : Keeps 0x40002 s (State.activate a0 a1 s) := by
  unfold State.activate
  repeat' first
    | exact Eq.refl _
    | exact fun _ => Eq.refl _
    | with_reducible exact Keeps.refl _ _
    | assumption
    | with_reducible apply Keeps.after (State.modPat_keeps _ _ ?_)
    | with_reducible apply Keeps.after (State.setF_keeps _ _ _)
    | with_reducible refine Keeps.ite ?_ ?_
    | split
    | extract_lets -merge
    | rintro _ ⟨⟩
    | with_reducible apply Keeps.getD
    | contradiction
    | intro _ _
    | refine Keeps.fst ?_ (by with_reducible assumption)
    | dsimp +zetaDelta only

theorem State.slotInvalid_keeps (a0 : Nat) (a1 : SlotCheck) (s : State) : Keeps 0x40000030522 s (State.slotInvalid a0 a1 s) := by
  unfold State.slotInvalid
  repeat' first
    | exact Eq.refl _
    | exact fun _ => Eq.refl _
    | with_reducible exact Keeps.refl _ _
    | assumption
    | with_reducible apply Keeps.after (State.fireRec_keeps _ _ _ _)
    | with_reducible refine Keeps.ite ?_ ?_
    | split
    | extract_lets -merge
    | rintro _ ⟨⟩
    | with_reducible apply Keeps.getD
    | contradiction
    | intro _ _
    | refine Keeps.fst ?_ (by with_reducible assumption)
    | dsimp +zetaDelta only

theorem State.applyEntry_keeps (a0 : Bool) (a1 : RegEntry) (s : State) : Keeps 0x2ee7fff7bffe s (State.applyEntry a0 a1 s) := by
  unfold State.applyEntry
  repeat' first
    | exact Eq.refl _
    | exact fun _ => Eq.refl _
    | with_reducible exact Keeps.refl _ _
    | assumption
    | with_reducible apply Keeps.after (State.loadWord_keeps _ _ _)
    | with_reducible apply Keeps.after (State.regPerform_keeps _ _ _ _ _)
    | with_reducible apply Keeps.after (State.modPat_keeps _ _ ?_)
    | with_reducible refine Keeps.ite ?_ ?_
    | split
    | extract_lets -merge
    | rintro _ ⟨⟩
    | with_reducible apply Keeps.getD
    | contradiction
    | intro _ _
    | refine Keeps.fst ?_ (by with_reducible assumption)
    | dsimp +zetaDelta only

theorem State.applyBlocks_keeps (a0 : List Block) (a1 : List RegEntry) (s : State) : Keeps 0x2ee7fff7bffe s (State.applyBlocks a0 a1 s) := by
  unfold State.applyBlocks
  repeat' first
    | exact Eq.refl _
    | exact fun _ => Eq.refl _
    | with_reducible exact Keeps.refl _ _
    | assumption
    | with_reducible apply Keeps.after (State.applyEntry_keeps _ _ _)
    | with_reducible refine Keeps.foldl (fun _ _ => ?_) _ ?_
    | with_reducible refine Keeps.foldlFst (fun _ _ _ => ?_) _ ?_
    | with_reducible refine Keeps.foldlSnd (fun _ _ _ => ?_) _ ?_
    | with_reducible refine Keeps.ite ?_ ?_
    | split
    | extract_lets -merge
    | rintro _ ⟨⟩
    | with_reducible apply Keeps.getD
    | contradiction
    | intro _ _
    | refine Keeps.fst ?_ (by with_reducible assumption)
    | dsimp +zetaDelta only

theorem State.loadReset_keeps (a0 : List Nat) (s : State) : Keeps 0x6 s (State.loadReset a0 s) := by
  unfold State.loadReset
  repeat' first
    | exact Eq.refl _
    | exact fun _ => Eq.refl _
    | with_reducible exact Keeps.refl _ _
    | assumption
    | with_reducible apply Keeps.after (State.loadWord_keeps _ _ _)
    | with_reducible refine Keeps.foldl (fun _ _ => ?_) _ ?_
    | with_reducible refine Keeps.foldlFst (fun _ _ _ => ?_) _ ?_
    | with_reducible refine Keeps.foldlSnd (fun _ _ _ => ?_) _ ?_
    | with_reducible refine Keeps.ite ?_ ?_
    | split
    | extract_lets -merge
    | rintro _ ⟨⟩
    | with_reducible apply Keeps.getD
    | contradiction
    | intro _ _
    | refine Keeps.fst ?_ (by with_reducible assumption)
    | dsimp +zetaDelta only

theorem State.loadValues_keeps (a0 : List (Nat × Nat)) (s : State) : Keeps 0x6 s (State.loadValues a0 s) := by
  unfold State.loadValues
  repeat' first
    | exact Eq.refl _
    | exact fun _ => Eq.refl _
    | with_reducible exact Keeps.refl _ _
    | assumption
    | with_reducible apply Keeps.after (State.loadWord_keeps _ _ _)
    | with_reducible refine Keeps.foldl (fun _ _ => ?_) _ ?_
    | with_reducible refine Keeps.foldlFst (fun _ _ _ => ?_) _ ?_
    | with_reducible refine Keeps.foldlSnd (fun _ _ _ => ?_) _ ?_
    | with_reducible refine Keeps.ite ?_ ?_
    | split
    | extract_lets -merge
    | rintro _ ⟨⟩
    | with_reducible apply Keeps.getD
    | contradiction
    | intro _ _
    | refine Keeps.fst ?_ (by with_reducible assumption)
    | dsimp +zetaDelta only

theorem State.islandLoad_keeps (a0 : List PRec) (s : State) : Keeps 0x2ee7fff7bffe s (State.islandLoad a0 s) := by
  unfold State.islandLoad
  repeat' first
    | exact Eq.refl _
    | exact fun _ => Eq.refl _
    | with_reducible exact Keeps.refl _ _
    | assumption
    | with_reducible apply Keeps.after (State.modSeq_keeps _ _ )
    | with_reducible apply Keeps.after (State.loadReset_keeps _ _)
    | with_reducible apply Keeps.after (State.loadValues_keeps _ _)
    | with_reducible apply Keeps.after (State.modTherm_keeps _ _ )
    | with_reducible apply Keeps.after (State.thermPin_keeps _)
    | with_reducible apply Keeps.after (State.driveAlert_keeps _)
    | with_reducible apply Keeps.after (State.applyBlocks_keeps _ _ _)
    | with_reducible refine Keeps.ite ?_ ?_
    | split
    | extract_lets -merge
    | rintro _ ⟨⟩
    | with_reducible apply Keeps.getD
    | contradiction
    | intro _ _
    | refine Keeps.fst ?_ (by with_reducible assumption)
    | dsimp +zetaDelta only

theorem State.coreLoad_keeps (s : State) : Keeps 0x2ee7fff7bffe s (State.coreLoad s) := by
  unfold State.coreLoad
  repeat' first
    | exact Eq.refl _
    | exact fun _ => Eq.refl _
    | with_reducible exact Keeps.refl _ _
    | assumption
    | with_reducible apply Keeps.after (State.applyBlocks_keeps _ _ _)
    | with_reducible apply Keeps.after (State.loadValues_keeps _ _)
    | with_reducible refine Keeps.ite ?_ ?_
    | split
    | extract_lets -merge
    | rintro _ ⟨⟩
    | with_reducible apply Keeps.getD
    | contradiction
    | intro _ _
    | refine Keeps.fst ?_ (by with_reducible assumption)
    | dsimp +zetaDelta only

theorem State.flogStart_keeps (s : State) : Keeps 0x14002 s (State.flogStart s) := by
  unfold State.flogStart
  repeat' first
    | exact Eq.refl _
    | exact fun _ => Eq.refl _
    | with_reducible exact Keeps.refl _ _
    | assumption
    | with_reducible apply Keeps.after (State.modFLog_keeps _ _ )
    | with_reducible apply Keeps.after (State.setF_keeps _ _ _)
    | with_reducible apply Keeps.after (State.flogClear_keeps _)
    | with_reducible refine Keeps.ite ?_ ?_
    | split
    | extract_lets -merge
    | rintro _ ⟨⟩
    | with_reducible apply Keeps.getD
    | contradiction
    | intro _ _
    | refine Keeps.fst ?_ (by with_reducible assumption)
    | dsimp +zetaDelta only

theorem State.stepTwoEnd_keeps (s : State) : Keeps 0x40000136d22 s (State.stepTwoEnd s) := by
  unfold State.stepTwoEnd
  repeat' first
    | exact Eq.refl _
    | exact fun _ => Eq.refl _
    | with_reducible exact Keeps.refl _ _
    | assumption
    | with_reducible apply Keeps.after (State.flogStart_keeps _)
    | with_reducible apply Keeps.after (State.startCause_keeps _ _ _)
    | with_reducible apply Keeps.after (State.stepTwoDone_keeps _)
    | with_reducible refine Keeps.ite ?_ ?_
    | split
    | extract_lets -merge
    | rintro _ ⟨⟩
    | with_reducible apply Keeps.getD
    | contradiction
    | intro _ _
    | refine Keeps.fst ?_ (by with_reducible assumption)
    | dsimp +zetaDelta only

theorem State.safeState_keeps (s : State) : Keeps 0x2ee7fffffffe s (State.safeState s) := by
  unfold State.safeState
  repeat' first
    | exact Eq.refl _
    | exact fun _ => Eq.refl _
    | with_reducible exact Keeps.refl _ _
    | assumption
    | with_reducible apply Keeps.after (State.startCause_keeps _ _ _)
    | with_reducible apply Keeps.after (State.fire_keeps _ _)
    | with_reducible apply Keeps.after (State.patternRegs_keeps _)
    | with_reducible apply Keeps.after (State.modPat_keeps _ _ ?_)
    | with_reducible apply Keeps.after (State.setF_keeps _ _ _)
    | with_reducible apply Keeps.after (State.putPlan_keeps _ _)
    | with_reducible apply Keeps.after (State.flogStart_keeps _)
    | with_reducible apply Keeps.after (State.islandLoad_keeps _ _)
    | with_reducible apply Keeps.after (State.modSeq_keeps _ _ )
    | with_reducible apply Keeps.after (State.railOff_keeps _ _)
    | with_reducible apply Keeps.after (State.powerUpBegin_keeps _)
    | with_reducible refine Keeps.foldl (fun _ _ => ?_) _ ?_
    | with_reducible refine Keeps.foldlFst (fun _ _ _ => ?_) _ ?_
    | with_reducible refine Keeps.foldlSnd (fun _ _ _ => ?_) _ ?_
    | with_reducible refine Keeps.ite ?_ ?_
    | split
    | extract_lets -merge
    | rintro _ ⟨⟩
    | with_reducible apply Keeps.getD
    | contradiction
    | intro _ _
    | refine Keeps.fst ?_ (by with_reducible assumption)
    | dsimp +zetaDelta only

theorem State.liveApply_keeps (a0 : Nat) (a1 : SlotCheck) (s : State) : Keeps 0x2ee7ffffbffe s (State.liveApply a0 a1 s) := by
  unfold State.liveApply
  repeat' first
    | exact Eq.refl _
    | exact fun _ => Eq.refl _
    | with_reducible exact Keeps.refl _ _
    | assumption
    | with_reducible apply Keeps.after (State.modPat_keeps _ _ ?_)
    | with_reducible apply Keeps.after (State.plainWrite_keeps _ _ _ _ _)
    | with_reducible apply Keeps.after (State.applyEntry_keeps _ _ _)
    | with_reducible apply Keeps.after (State.putPlan_keeps _ _)
    | with_reducible apply Keeps.after (State.modSpl_keeps _ _ ?_)
    | with_reducible apply Keeps.after (State.setF_keeps _ _ _)
    | with_reducible apply Keeps.after (State.slotValid_keeps _ _ _)
    | with_reducible apply Keeps.after (State.activate_keeps _ _ _)
    | with_reducible apply Keeps.after (State.fire_keeps _ _)
    | with_reducible apply Keeps.after (State.patternRegs_keeps _)
    | with_reducible refine Keeps.foldl (fun _ _ => ?_) _ ?_
    | with_reducible refine Keeps.foldlFst (fun _ _ _ => ?_) _ ?_
    | with_reducible refine Keeps.foldlSnd (fun _ _ _ => ?_) _ ?_
    | with_reducible refine Keeps.ite ?_ ?_
    | split
    | extract_lets -merge
    | rintro _ ⟨⟩
    | with_reducible apply Keeps.getD
    | contradiction
    | intro _ _
    | refine Keeps.fst ?_ (by with_reducible assumption)
    | dsimp +zetaDelta only

theorem State.slotUnset_keeps (a0 : Nat) (s : State) : Keeps 0x40002 s (State.slotUnset a0 s) := by
  unfold State.slotUnset
  repeat' first
    | exact Eq.refl _
    | exact fun _ => Eq.refl _
    | with_reducible exact Keeps.refl _ _
    | assumption
    | with_reducible apply Keeps.after (State.patternRegs_keeps _)
    | with_reducible apply Keeps.after (State.modPat_keeps _ _ ?_)
    | with_reducible refine Keeps.ite ?_ ?_
    | split
    | extract_lets -merge
    | rintro _ ⟨⟩
    | with_reducible apply Keeps.getD
    | contradiction
    | intro _ _
    | refine Keeps.fst ?_ (by with_reducible assumption)
    | dsimp +zetaDelta only

theorem State.setTorn_keeps (a0 : Nat) (a1 : Bool) (s : State) : Keeps 0x40000 s (State.setTorn a0 a1 s) := by
  unfold State.setTorn
  repeat' first
    | exact Eq.refl _
    | exact fun _ => Eq.refl _
    | with_reducible exact Keeps.refl _ _
    | assumption
    | with_reducible apply Keeps.after (State.modPat_keeps _ _ ?_)
    | with_reducible refine Keeps.ite ?_ ?_
    | split
    | extract_lets -merge
    | rintro _ ⟨⟩
    | with_reducible apply Keeps.getD
    | contradiction
    | intro _ _
    | refine Keeps.fst ?_ (by with_reducible assumption)
    | dsimp +zetaDelta only

theorem State.flashErase_keeps (a : Nat) (s : State) : Keeps 0x40000 s (State.flashErase a s) :=
  Keeps.pat_ _ fun c => by dsimp only; exact Tab.wf_filter _ _ _ c.2.2.2.2

theorem State.flashProgram_keeps (a : Nat) (bs : List Byte) (s : State) : Keeps 0x40000 s (State.flashProgram a bs s) := by
  refine Keeps.pat_ _ fun c => ?_
  have aux : ∀ (l : List Nat) (t : Tab Byte), Tab.wf (fun _ => 0xFF) t = true →
      Tab.wf (fun _ => 0xFF) (l.foldl (fun t i => Tab.set (fun _ => 0xFF) t (a + i) (Tab.get (fun _ => (0xFF : Byte)) t (a + i) &&& bs.getD i 0xFF)) t) = true := by
    intro l
    induction l with
    | nil => exact fun _ h => h
    | cons i l ih => exact fun t h => ih _ (Tab.wf_set _ _ _ _ h)
  dsimp only
  generalize List.range 256 = l
  exact aux l _ c.2.2.2.2

theorem State.ptuFill_keeps (a0 : List Byte) (s : State) : Keeps 0x2 s (State.ptuFill a0 s) := by
  unfold State.ptuFill
  repeat' first
    | exact Eq.refl _
    | exact fun _ => Eq.refl _
    | with_reducible exact Keeps.refl _ _
    | assumption
    | with_reducible apply Keeps.after (State.setF_keeps _ _ _)
    | with_reducible refine Keeps.foldl (fun _ _ => ?_) _ ?_
    | with_reducible refine Keeps.foldlFst (fun _ _ _ => ?_) _ ?_
    | with_reducible refine Keeps.foldlSnd (fun _ _ _ => ?_) _ ?_
    | with_reducible refine Keeps.ite ?_ ?_
    | split
    | extract_lets -merge
    | rintro _ ⟨⟩
    | with_reducible apply Keeps.getD
    | contradiction
    | intro _ _
    | refine Keeps.fst ?_ (by with_reducible assumption)
    | dsimp +zetaDelta only

theorem State.ptuRun_keeps (a0 : PtuJob) (a1 : Bool) (a2 : Bool) (s : State) : Keeps 0x2ee7ffffbffe s (State.ptuRun a0 a1 a2 s).1 := by
  unfold State.ptuRun
  repeat' first
    | exact Eq.refl _
    | exact fun _ => Eq.refl _
    | with_reducible exact Keeps.refl _ _
    | assumption
    | with_reducible apply Keeps.after (State.slotUnset_keeps _ _)
    | with_reducible apply Keeps.after (State.setTorn_keeps _ _ _)
    | with_reducible apply Keeps.after (State.flashErase_keeps _ _)
    | with_reducible apply Keeps.after (State.flashProgram_keeps _ _ _)
    | with_reducible apply Keeps.after (State.ptuFill_keeps _ _)
    | with_reducible apply Keeps.after (State.freeStep_keeps _)
    | with_reducible apply Keeps.after (State.patternRegs_keeps _)
    | with_reducible apply Keeps.after (State.slotResult_keeps _ _ _)
    | with_reducible apply Keeps.after (State.liveApply_keeps _ _ _)
    | with_reducible refine Keeps.ite ?_ ?_
    | split
    | extract_lets -merge
    | rintro _ ⟨⟩
    | with_reducible apply Keeps.getD
    | contradiction
    | intro _ _
    | refine Keeps.fst ?_ (by with_reducible assumption)
    | dsimp +zetaDelta only

theorem State.ptuWrite_keeps (a0 : Nat) (a1 : Nat) (s : State) : Keeps 0x400002705a2 s (State.ptuWrite a0 a1 s) := by
  unfold State.ptuWrite
  repeat' first
    | exact Eq.refl _
    | exact fun _ => Eq.refl _
    | with_reducible exact Keeps.refl _ _
    | assumption
    | with_reducible apply State.regAction_keeps
    | with_reducible intro _
    | with_reducible apply Keeps.after (State.ptuStart_keeps _ _)
    | with_reducible refine Keeps.ite ?_ ?_
    | split
    | extract_lets -merge
    | rintro _ ⟨⟩
    | with_reducible apply Keeps.getD
    | contradiction
    | intro _ _
    | refine Keeps.fst ?_ (by with_reducible assumption)
    | dsimp +zetaDelta only

end Sys2Proof.Machine
end

