-- ==== Sys2Proof/Laws/KeepsRegisters.lean ====
section
/-!
SUPPORT. What the operations of Machine/Registers.lean leave unchanged.
-/
namespace Sys2Proof.Machine

theorem State.mctpWrite_keeps (m : Nat) (ws : List Word) (off k : Nat) (s : State) : Keeps 0x2ee7fff7bffe s (State.mctpWrite m ws off k s) := by
  induction ws generalizing off k s with
  | nil => exact Keeps.after (State.mctpReply_keeps _ _ _) (Keeps.refl _ _) (Eq.refl _)
  | cons w ws ih =>
    unfold State.mctpWrite
    have hw := (State.regWrite_keeps m off w s).mono (n := 0x2ee7fff7bffe) (Eq.refl _)
    split
    · rename_i s1 heq; exact (Keeps.fst hw heq).trans (ih _ _ _)
    · rename_i s1 heq; exact Keeps.after (State.mctpReply_keeps _ _ _) (Keeps.fst hw heq) (Eq.refl _)
    · rename_i s1 heq; exact Keeps.after (State.mctpReply_keeps _ _ _) (Keeps.fst hw heq) (Eq.refl _)

theorem State.mctpSpoolWrite_keeps (m : Nat) (ws : List Word) (a k : Nat) (s : State) :
    Keeps 0xc20000305a2 s (State.mctpSpoolWrite m ws a k s) := by
  induction ws generalizing a k s with
  | nil => exact Keeps.after (State.emit_keeps _ _) (Keeps.refl _ _) (Eq.refl _)
  | cons w ws ih =>
    unfold State.mctpSpoolWrite
    split
    · exact Keeps.after (State.emit_keeps _ _) (Keeps.refl _ _) (Eq.refl _)
    · split
      · exact ((State.setSpoolBytes_keeps _ _ _).mono (Eq.refl _)).trans (ih _ _ _)
      · apply Keeps.after (State.emit_keeps _ _) _ (Eq.refl _)
        apply Keeps.after (State.deny_keeps _ _ _ _ _ _) _ (Eq.refl _)
        exact Keeps.after (State.freeStep_keeps _) (Keeps.refl _ _) (Eq.refl _)

theorem State.mctpSpoolRead_keeps (m n a : Nat) (ws : List Word) (s : State) : Keeps 0xc00000305a2 s (State.mctpSpoolRead m n a ws s) := by
  induction n generalizing a ws with
  | zero => exact Keeps.after (State.emit_keeps _ _) (Keeps.refl _ _) (Eq.refl _)
  | succ n ih =>
    unfold State.mctpSpoolRead
    split
    · exact Keeps.after (State.emit_keeps _ _) (Keeps.refl _ _) (Eq.refl _)
    · split
      · exact ih _ _
      · apply Keeps.after (State.emit_keeps _ _) _ (Eq.refl _)
        apply Keeps.after (State.deny_keeps _ _ _ _ _ _) _ (Eq.refl _)
        exact Keeps.after (State.freeStep_keeps _) (Keeps.refl _ _) (Eq.refl _)

theorem State.tapAnswer_keeps (a0 : Nat) (a1 : Word) (s : State) : Keeps 0x80000000 s (State.tapAnswer a0 a1 s) := by
  unfold State.tapAnswer
  repeat' first
    | exact Eq.refl _
    | exact fun _ => Eq.refl _
    | with_reducible exact Keeps.refl _ _
    | assumption
    | with_reducible apply Keeps.after (State.modDbg_keeps _ _ )
    | with_reducible refine Keeps.ite ?_ ?_
    | split
    | extract_lets -merge
    | rintro _ ⟨⟩
    | with_reducible apply Keeps.getD
    | contradiction
    | intro _ _
    | refine Keeps.fst ?_ (by with_reducible assumption)
    | dsimp +zetaDelta only

theorem State.tapRun_keeps (a0 : BitVec 64) (s : State) : Keeps 0x2ee7fff7bffe s (State.tapRun a0 s) := by
  unfold State.tapRun
  repeat' first
    | exact Eq.refl _
    | exact fun _ => Eq.refl _
    | with_reducible exact Keeps.refl _ _
    | assumption
    | with_reducible apply Keeps.after (State.tapAnswer_keeps _ _ _)
    | with_reducible apply Keeps.after (State.regWrite_keeps _ _ _ _)
    | with_reducible refine Keeps.ite ?_ ?_
    | split
    | extract_lets -merge
    | rintro _ ⟨⟩
    | with_reducible apply Keeps.getD
    | contradiction
    | intro _ _
    | refine Keeps.fst ?_ (by with_reducible assumption)
    | dsimp +zetaDelta only

end Sys2Proof.Machine
end

