-- ==== Sys2Proof/Laws/KeepsStep.lean ====
section
/-!
SUPPORT. What the operations of Machine/Step.lean leave unchanged.
-/
namespace Sys2Proof.Machine

theorem State.withFetchWord_keeps (s : State) (a1 : Nat) (a2 : Nat) : Keeps 0x100000000000 s (State.withFetchWord s a1 a2) := by
  unfold State.withFetchWord
  repeat' first
    | exact Eq.refl _
    | exact fun _ => Eq.refl _
    | with_reducible exact Keeps.refl _ _
    | assumption
    | with_reducible apply Keeps.after (State.putPending_keeps _ _)
    | with_reducible refine Keeps.ite ?_ ?_
    | split
    | extract_lets -merge
    | rintro _ ⟨⟩
    | with_reducible apply Keeps.getD
    | contradiction
    | intro _ _
    | refine Keeps.fst ?_ (by with_reducible assumption)
    | dsimp +zetaDelta only

end Sys2Proof.Machine
end

