-- ==== Sys2Proof/Laws/PerInstr.lean ====
section
/-!
SUPPORT. The family WellFormed of LAWS.json: what it means of each command that it is well formed.
-/
open Sys2Proof

/-- Every index of a well-formed command lies below its bound, and no bound exceeds the number of lines (Table 01-9). -/
def Sys2Proof.Laws.WellFormed.Statement (i : Instr) : Prop :=
  i.wellFormed = true → ∀ p ∈ i.ranges, p.1 < p.2 ∧ p.2 ≤ lineSpan

/-- The bounds of the ranges decide the statement. -/
theorem Sys2Proof.Laws.WellFormed.of_bounds {i : Instr} (h : (i.ranges.all fun p => p.2 ≤ lineSpan) = true) :
    Sys2Proof.Laws.WellFormed.Statement i := fun hw p hp =>
  ⟨of_decide_eq_true (List.all_eq_true.mp hw p hp), of_decide_eq_true (List.all_eq_true.mp h p hp)⟩

theorem Sys2Proof.Laws.WellFormed.paceSample (readings : List Nat) : Sys2Proof.Laws.WellFormed.Statement (.paceSample readings) :=
  Sys2Proof.Laws.WellFormed.of_bounds rfl
theorem Sys2Proof.Laws.WellFormed.monitorExcluded (n : Nat) : Sys2Proof.Laws.WellFormed.Statement (.monitorExcluded n) :=
  Sys2Proof.Laws.WellFormed.of_bounds rfl
theorem Sys2Proof.Laws.WellFormed.governorDecision : Sys2Proof.Laws.WellFormed.Statement .governorDecision :=
  Sys2Proof.Laws.WellFormed.of_bounds rfl
theorem Sys2Proof.Laws.WellFormed.paceLowDeclared : Sys2Proof.Laws.WellFormed.Statement .paceLowDeclared :=
  Sys2Proof.Laws.WellFormed.of_bounds rfl
theorem Sys2Proof.Laws.WellFormed.paceCollapse : Sys2Proof.Laws.WellFormed.Statement .paceCollapse :=
  Sys2Proof.Laws.WellFormed.of_bounds rfl
theorem Sys2Proof.Laws.WellFormed.collapseEnd : Sys2Proof.Laws.WellFormed.Statement .collapseEnd :=
  Sys2Proof.Laws.WellFormed.of_bounds rfl
theorem Sys2Proof.Laws.WellFormed.paceLowEnd : Sys2Proof.Laws.WellFormed.Statement .paceLowEnd :=
  Sys2Proof.Laws.WellFormed.of_bounds rfl
theorem Sys2Proof.Laws.WellFormed.avsAcknowledge (ok : Bool) : Sys2Proof.Laws.WellFormed.Statement (.avsAcknowledge ok) :=
  Sys2Proof.Laws.WellFormed.of_bounds rfl
theorem Sys2Proof.Laws.WellFormed.avsAckTimeout : Sys2Proof.Laws.WellFormed.Statement .avsAckTimeout :=
  Sys2Proof.Laws.WellFormed.of_bounds rfl
theorem Sys2Proof.Laws.WellFormed.avsHoldRetry : Sys2Proof.Laws.WellFormed.Statement .avsHoldRetry :=
  Sys2Proof.Laws.WellFormed.of_bounds rfl
theorem Sys2Proof.Laws.WellFormed.islandBridgeRoom (bridge : Nat) : Sys2Proof.Laws.WellFormed.Statement (.islandBridgeRoom bridge) :=
  Sys2Proof.Laws.WellFormed.of_bounds rfl
theorem Sys2Proof.Laws.WellFormed.aux33Rise : Sys2Proof.Laws.WellFormed.Statement .aux33Rise :=
  Sys2Proof.Laws.WellFormed.of_bounds rfl
theorem Sys2Proof.Laws.WellFormed.supervisorWake (shadowBad : Bool) : Sys2Proof.Laws.WellFormed.Statement (.supervisorWake shadowBad) :=
  Sys2Proof.Laws.WellFormed.of_bounds rfl
theorem Sys2Proof.Laws.WellFormed.patternLoad (flashOk readA readB : Bool) : Sys2Proof.Laws.WellFormed.Statement (.patternLoad flashOk readA readB) :=
  Sys2Proof.Laws.WellFormed.of_bounds rfl
theorem Sys2Proof.Laws.WellFormed.coreRelease : Sys2Proof.Laws.WellFormed.Statement .coreRelease :=
  Sys2Proof.Laws.WellFormed.of_bounds rfl
theorem Sys2Proof.Laws.WellFormed.hbmTrainingDone (ok0 : Bool) (ok1 : Bool) : Sys2Proof.Laws.WellFormed.Statement (.hbmTrainingDone ok0 ok1) :=
  Sys2Proof.Laws.WellFormed.of_bounds rfl
theorem Sys2Proof.Laws.WellFormed.hbmFillDone (rows : List RowTest) : Sys2Proof.Laws.WellFormed.Statement (.hbmFillDone rows) :=
  Sys2Proof.Laws.WellFormed.of_bounds rfl
theorem Sys2Proof.Laws.WellFormed.cartridgeDiscoveryDone : Sys2Proof.Laws.WellFormed.Statement .cartridgeDiscoveryDone :=
  Sys2Proof.Laws.WellFormed.of_bounds rfl
theorem Sys2Proof.Laws.WellFormed.waitingReevaluate : Sys2Proof.Laws.WellFormed.Statement .waitingReevaluate :=
  Sys2Proof.Laws.WellFormed.of_bounds rfl
theorem Sys2Proof.Laws.WellFormed.recoveryStepComplete : Sys2Proof.Laws.WellFormed.Statement .recoveryStepComplete :=
  Sys2Proof.Laws.WellFormed.of_bounds rfl
theorem Sys2Proof.Laws.WellFormed.selvageScanComplete : Sys2Proof.Laws.WellFormed.Statement .selvageScanComplete :=
  Sys2Proof.Laws.WellFormed.of_bounds rfl
theorem Sys2Proof.Laws.WellFormed.eraseSlot (m : Nat) : Sys2Proof.Laws.WellFormed.Statement (.eraseSlot m) :=
  Sys2Proof.Laws.WellFormed.of_bounds rfl
theorem Sys2Proof.Laws.WellFormed.ptuProgram (m : Nat) : Sys2Proof.Laws.WellFormed.Statement (.ptuProgram m) :=
  Sys2Proof.Laws.WellFormed.of_bounds rfl
theorem Sys2Proof.Laws.WellFormed.ptuRead (m : Nat) : Sys2Proof.Laws.WellFormed.Statement (.ptuRead m) :=
  Sys2Proof.Laws.WellFormed.of_bounds rfl
theorem Sys2Proof.Laws.WellFormed.ptuVerify (m : Nat) : Sys2Proof.Laws.WellFormed.Statement (.ptuVerify m) :=
  Sys2Proof.Laws.WellFormed.of_bounds rfl
theorem Sys2Proof.Laws.WellFormed.liveApply (m : Nat) : Sys2Proof.Laws.WellFormed.Statement (.liveApply m) :=
  Sys2Proof.Laws.WellFormed.of_bounds rfl
theorem Sys2Proof.Laws.WellFormed.ptuReservedCmd (m : Nat) (cmd : Nat) : Sys2Proof.Laws.WellFormed.Statement (.ptuReservedCmd m cmd) :=
  Sys2Proof.Laws.WellFormed.of_bounds rfl
theorem Sys2Proof.Laws.WellFormed.ptuCommandDone (flashOk readOk : Bool) : Sys2Proof.Laws.WellFormed.Statement (.ptuCommandDone flashOk readOk) :=
  Sys2Proof.Laws.WellFormed.of_bounds rfl
theorem Sys2Proof.Laws.WellFormed.registerWrite (m : Nat) (addr : Nat) (v : Word) (full : Bool) : Sys2Proof.Laws.WellFormed.Statement (.registerWrite m addr v full) :=
  Sys2Proof.Laws.WellFormed.of_bounds rfl
theorem Sys2Proof.Laws.WellFormed.mctpRegisterMessage (m : Nat) (spoolForm : Bool) (write : Bool) (addr : Nat) (words : List Word) (n : Nat) : Sys2Proof.Laws.WellFormed.Statement (.mctpRegisterMessage m spoolForm write addr words n) :=
  Sys2Proof.Laws.WellFormed.of_bounds rfl
theorem Sys2Proof.Laws.WellFormed.seamReached (blk : Block) (inst : Nat) : Sys2Proof.Laws.WellFormed.Statement (.seamReached blk inst) :=
  Sys2Proof.Laws.WellFormed.of_bounds rfl
theorem Sys2Proof.Laws.WellFormed.pwrreqOn (m : Nat) : Sys2Proof.Laws.WellFormed.Statement (.pwrreqOn m) :=
  Sys2Proof.Laws.WellFormed.of_bounds rfl
theorem Sys2Proof.Laws.WellFormed.pwrreqOff (m : Nat) : Sys2Proof.Laws.WellFormed.Statement (.pwrreqOff m) :=
  Sys2Proof.Laws.WellFormed.of_bounds rfl
theorem Sys2Proof.Laws.WellFormed.m2sReqReceived (port : Nat) (req : M2SReq) : Sys2Proof.Laws.WellFormed.Statement (.m2sReqReceived port req) :=
  Sys2Proof.Laws.WellFormed.of_bounds rfl
theorem Sys2Proof.Laws.WellFormed.m2sRwdReceived (port : Nat) (req : M2SRwD) : Sys2Proof.Laws.WellFormed.Statement (.m2sRwdReceived port req) :=
  Sys2Proof.Laws.WellFormed.of_bounds rfl
theorem Sys2Proof.Laws.WellFormed.streamTrackerExpire (port : Nat) (k : Nat) : Sys2Proof.Laws.WellFormed.Statement (.streamTrackerExpire port k) :=
  Sys2Proof.Laws.WellFormed.of_bounds rfl
theorem Sys2Proof.Laws.WellFormed.readOrderPoint (rid : Nat) (hbm : HbmRead) : Sys2Proof.Laws.WellFormed.Statement (.readOrderPoint rid hbm) :=
  Sys2Proof.Laws.WellFormed.of_bounds rfl
theorem Sys2Proof.Laws.WellFormed.mapAnswer (rid : Nat) : Sys2Proof.Laws.WellFormed.Statement (.mapAnswer rid) :=
  Sys2Proof.Laws.WellFormed.of_bounds rfl
theorem Sys2Proof.Laws.WellFormed.patchIndexAnswer (rid : Nat) : Sys2Proof.Laws.WellFormed.Statement (.patchIndexAnswer rid) :=
  Sys2Proof.Laws.WellFormed.of_bounds rfl
theorem Sys2Proof.Laws.WellFormed.probeHit (rid : Nat) (uncorr : Bool) (left : Bool) : Sys2Proof.Laws.WellFormed.Statement (.probeHit rid uncorr left) :=
  Sys2Proof.Laws.WellFormed.of_bounds rfl
theorem Sys2Proof.Laws.WellFormed.mediaReadData (rid : Nat) (sensed : Sensed) (mismatch : Bool) (again : Bool) : Sys2Proof.Laws.WellFormed.Statement (.mediaReadData rid sensed mismatch again) :=
  Sys2Proof.Laws.WellFormed.of_bounds rfl
theorem Sys2Proof.Laws.WellFormed.reconstructionStart (rid : Nat) : Sys2Proof.Laws.WellFormed.Statement (.reconstructionStart rid) :=
  Sys2Proof.Laws.WellFormed.of_bounds rfl
theorem Sys2Proof.Laws.WellFormed.reconstructionReadData (rid : Nat) (member : Nat) (sensed : Sensed) : Sys2Proof.Laws.WellFormed.Statement (.reconstructionReadData rid member sensed) :=
  Sys2Proof.Laws.WellFormed.of_bounds rfl
theorem Sys2Proof.Laws.WellFormed.writeAdmission (rid : Nat) (hbm : HbmRead) : Sys2Proof.Laws.WellFormed.Statement (.writeAdmission rid hbm) :=
  Sys2Proof.Laws.WellFormed.of_bounds rfl
theorem Sys2Proof.Laws.WellFormed.partialWriteMerge (rid : Nat) : Sys2Proof.Laws.WellFormed.Statement (.partialWriteMerge rid) :=
  Sys2Proof.Laws.WellFormed.of_bounds rfl
theorem Sys2Proof.Laws.WellFormed.writeCommit (rid : Nat) : Sys2Proof.Laws.WellFormed.Statement (.writeCommit rid) :=
  Sys2Proof.Laws.WellFormed.of_bounds rfl
theorem Sys2Proof.Laws.WellFormed.stagingWaitEnd (slice : Nat) : Sys2Proof.Laws.WellFormed.Statement (.stagingWaitEnd slice) :=
  Sys2Proof.Laws.WellFormed.of_bounds rfl
theorem Sys2Proof.Laws.WellFormed.latClear (m : Nat) (slice : Nat) : Sys2Proof.Laws.WellFormed.Statement (.latClear m slice) :=
  Sys2Proof.Laws.WellFormed.of_bounds rfl
theorem Sys2Proof.Laws.WellFormed.evictionRelease (line : Nat) : Sys2Proof.Laws.WellFormed.Statement (.evictionRelease line) :=
  Sys2Proof.Laws.WellFormed.of_bounds rfl
theorem Sys2Proof.Laws.WellFormed.sealTimerExpire (psa : Nat) : Sys2Proof.Laws.WellFormed.Statement (.sealTimerExpire psa) :=
  Sys2Proof.Laws.WellFormed.of_bounds rfl
theorem Sys2Proof.Laws.WellFormed.patchPageVerified (psa : Nat) : Sys2Proof.Laws.WellFormed.Statement (.patchPageVerified psa) :=
  Sys2Proof.Laws.WellFormed.of_bounds rfl
theorem Sys2Proof.Laws.WellFormed.patchProgramFail (psa : Nat) : Sys2Proof.Laws.WellFormed.Statement (.patchProgramFail psa) :=
  Sys2Proof.Laws.WellFormed.of_bounds rfl
theorem Sys2Proof.Laws.WellFormed.darnRequest (m : Nat) (hi : Word) : Sys2Proof.Laws.WellFormed.Statement (.darnRequest m hi) :=
  Sys2Proof.Laws.WellFormed.of_bounds rfl
theorem Sys2Proof.Laws.WellFormed.darnQueueRoom : Sys2Proof.Laws.WellFormed.Statement .darnQueueRoom :=
  Sys2Proof.Laws.WellFormed.of_bounds rfl
theorem Sys2Proof.Laws.WellFormed.assemblyStart : Sys2Proof.Laws.WellFormed.Statement .assemblyStart :=
  Sys2Proof.Laws.WellFormed.of_bounds rfl
theorem Sys2Proof.Laws.WellFormed.assemblyPageVerified (psa : Nat) : Sys2Proof.Laws.WellFormed.Statement (.assemblyPageVerified psa) :=
  Sys2Proof.Laws.WellFormed.of_bounds rfl
theorem Sys2Proof.Laws.WellFormed.patchBoltReclaim : Sys2Proof.Laws.WellFormed.Statement .patchBoltReclaim :=
  Sys2Proof.Laws.WellFormed.of_bounds rfl
theorem Sys2Proof.Laws.WellFormed.regionImageComplete : Sys2Proof.Laws.WellFormed.Statement .regionImageComplete :=
  Sys2Proof.Laws.WellFormed.of_bounds rfl
theorem Sys2Proof.Laws.WellFormed.checkpointLate : Sys2Proof.Laws.WellFormed.Statement .checkpointLate :=
  Sys2Proof.Laws.WellFormed.of_bounds rfl
theorem Sys2Proof.Laws.WellFormed.mediaClockTick : Sys2Proof.Laws.WellFormed.Statement .mediaClockTick :=
  Sys2Proof.Laws.WellFormed.of_bounds rfl
theorem Sys2Proof.Laws.WellFormed.timePairWrite : Sys2Proof.Laws.WellFormed.Statement .timePairWrite :=
  Sys2Proof.Laws.WellFormed.of_bounds rfl
theorem Sys2Proof.Laws.WellFormed.mapBlockRepairDone (block : Nat) (scan : Bool) (us : Nat) : Sys2Proof.Laws.WellFormed.Statement (.mapBlockRepairDone block scan us) :=
  Sys2Proof.Laws.WellFormed.of_bounds rfl
theorem Sys2Proof.Laws.WellFormed.repairWaitTimeout (rid : Nat) : Sys2Proof.Laws.WellFormed.Statement (.repairWaitTimeout rid) :=
  Sys2Proof.Laws.WellFormed.of_bounds rfl
theorem Sys2Proof.Laws.WellFormed.pageProgramVerified (psa : Nat) : Sys2Proof.Laws.WellFormed.Statement (.pageProgramVerified psa) :=
  Sys2Proof.Laws.WellFormed.of_bounds rfl
theorem Sys2Proof.Laws.WellFormed.bastingTimerExpire (slot : Nat) : Sys2Proof.Laws.WellFormed.Statement (.bastingTimerExpire slot) :=
  Sys2Proof.Laws.WellFormed.of_bounds rfl
theorem Sys2Proof.Laws.WellFormed.pageProgramFail (psa : Nat) : Sys2Proof.Laws.WellFormed.Statement (.pageProgramFail psa) :=
  Sys2Proof.Laws.WellFormed.of_bounds rfl
theorem Sys2Proof.Laws.WellFormed.boltResetDone (slot : Nat) (die : Nat) (bolt : Nat) : Sys2Proof.Laws.WellFormed.Statement (.boltResetDone slot die bolt) :=
  Sys2Proof.Laws.WellFormed.of_bounds rfl
theorem Sys2Proof.Laws.WellFormed.boltResetFail (slot : Nat) (die : Nat) (bolt : Nat) : Sys2Proof.Laws.WellFormed.Statement (.boltResetFail slot die bolt) :=
  Sys2Proof.Laws.WellFormed.of_bounds rfl
theorem Sys2Proof.Laws.WellFormed.gcCollect (group : Nat) : Sys2Proof.Laws.WellFormed.Statement (.gcCollect group) :=
  Sys2Proof.Laws.WellFormed.of_bounds rfl
theorem Sys2Proof.Laws.WellFormed.refreshRun (group : Nat) : Sys2Proof.Laws.WellFormed.Statement (.refreshRun group) :=
  Sys2Proof.Laws.WellFormed.of_bounds rfl
theorem Sys2Proof.Laws.WellFormed.rebuildComplete (group : Nat) : Sys2Proof.Laws.WellFormed.Statement (.rebuildComplete group) :=
  Sys2Proof.Laws.WellFormed.of_bounds rfl
theorem Sys2Proof.Laws.WellFormed.rebuildInPlace (group : Nat) : Sys2Proof.Laws.WellFormed.Statement (.rebuildInPlace group) :=
  Sys2Proof.Laws.WellFormed.of_bounds rfl
theorem Sys2Proof.Laws.WellFormed.ageingTick : Sys2Proof.Laws.WellFormed.Statement .ageingTick :=
  Sys2Proof.Laws.WellFormed.of_bounds rfl
theorem Sys2Proof.Laws.WellFormed.pinSliceFill (entry : Nat) (slice : Nat) : Sys2Proof.Laws.WellFormed.Statement (.pinSliceFill entry slice) :=
  Sys2Proof.Laws.WellFormed.of_bounds rfl
theorem Sys2Proof.Laws.WellFormed.cacheDisableComplete (pcu : Bool) : Sys2Proof.Laws.WellFormed.Statement (.cacheDisableComplete pcu) :=
  Sys2Proof.Laws.WellFormed.of_bounds rfl
theorem Sys2Proof.Laws.WellFormed.linClean (m : Nat) (bySetWay : Bool) : Sys2Proof.Laws.WellFormed.Statement (.linClean m bySetWay) :=
  Sys2Proof.Laws.WellFormed.of_bounds rfl
theorem Sys2Proof.Laws.WellFormed.linInvalidate (m : Nat) (bySetWay : Bool) : Sys2Proof.Laws.WellFormed.Statement (.linInvalidate m bySetWay) :=
  Sys2Proof.Laws.WellFormed.of_bounds rfl
theorem Sys2Proof.Laws.WellFormed.linCleanInvalidate (m : Nat) (bySetWay : Bool) : Sys2Proof.Laws.WellFormed.Statement (.linCleanInvalidate m bySetWay) :=
  Sys2Proof.Laws.WellFormed.of_bounds rfl
theorem Sys2Proof.Laws.WellFormed.linLock (m : Nat) (bySetWay : Bool) : Sys2Proof.Laws.WellFormed.Statement (.linLock m bySetWay) :=
  Sys2Proof.Laws.WellFormed.of_bounds rfl
theorem Sys2Proof.Laws.WellFormed.linUnlock (m : Nat) (bySetWay : Bool) : Sys2Proof.Laws.WellFormed.Statement (.linUnlock m bySetWay) :=
  Sys2Proof.Laws.WellFormed.of_bounds rfl
theorem Sys2Proof.Laws.WellFormed.linReadWay (m : Nat) (bySetWay : Bool) : Sys2Proof.Laws.WellFormed.Statement (.linReadWay m bySetWay) :=
  Sys2Proof.Laws.WellFormed.of_bounds rfl
theorem Sys2Proof.Laws.WellFormed.linReservedOp (m : Nat) (bySetWay : Bool) : Sys2Proof.Laws.WellFormed.Statement (.linReservedOp m bySetWay) :=
  Sys2Proof.Laws.WellFormed.of_bounds rfl
theorem Sys2Proof.Laws.WellFormed.pcuClean (m : Nat) (entry : Nat) : Sys2Proof.Laws.WellFormed.Statement (.pcuClean m entry) :=
  Sys2Proof.Laws.WellFormed.of_bounds rfl
theorem Sys2Proof.Laws.WellFormed.pcuInvalidate (m : Nat) (entry : Nat) : Sys2Proof.Laws.WellFormed.Statement (.pcuInvalidate m entry) :=
  Sys2Proof.Laws.WellFormed.of_bounds rfl
theorem Sys2Proof.Laws.WellFormed.pcuCleanInvalidate (m : Nat) (entry : Nat) : Sys2Proof.Laws.WellFormed.Statement (.pcuCleanInvalidate m entry) :=
  Sys2Proof.Laws.WellFormed.of_bounds rfl
theorem Sys2Proof.Laws.WellFormed.pcuLock (m : Nat) (entry : Nat) : Sys2Proof.Laws.WellFormed.Statement (.pcuLock m entry) :=
  Sys2Proof.Laws.WellFormed.of_bounds rfl
theorem Sys2Proof.Laws.WellFormed.pcuUnlock (m : Nat) (entry : Nat) : Sys2Proof.Laws.WellFormed.Statement (.pcuUnlock m entry) :=
  Sys2Proof.Laws.WellFormed.of_bounds rfl
theorem Sys2Proof.Laws.WellFormed.pcuReservedOp (m : Nat) (op : Nat) (entry : Nat) : Sys2Proof.Laws.WellFormed.Statement (.pcuReservedOp m op entry) :=
  Sys2Proof.Laws.WellFormed.of_bounds rfl
theorem Sys2Proof.Laws.WellFormed.maintenanceDone (pcu : Bool) : Sys2Proof.Laws.WellFormed.Statement (.maintenanceDone pcu) :=
  Sys2Proof.Laws.WellFormed.of_bounds rfl
theorem Sys2Proof.Laws.WellFormed.birspReceived (port : Nat) (ld : Nat) (line : Nat) (rsp : BIRsp) : Sys2Proof.Laws.WellFormed.Statement (.birspReceived port ld line rsp) :=
  Sys2Proof.Laws.WellFormed.of_bounds rfl
theorem Sys2Proof.Laws.WellFormed.biconflictReceived (port : Nat) (ld : Nat) (line : Nat) : Sys2Proof.Laws.WellFormed.Statement (.biconflictReceived port ld line) :=
  Sys2Proof.Laws.WellFormed.of_bounds rfl
theorem Sys2Proof.Laws.WellFormed.conflictQueueLeave (slice : Nat) : Sys2Proof.Laws.WellFormed.Statement (.conflictQueueLeave slice) :=
  Sys2Proof.Laws.WellFormed.of_bounds rfl
theorem Sys2Proof.Laws.WellFormed.snoopTimeout (line : Nat) (ld : Nat) : Sys2Proof.Laws.WellFormed.Statement (.snoopTimeout line ld) :=
  Sys2Proof.Laws.WellFormed.of_bounds rfl
theorem Sys2Proof.Laws.WellFormed.suspectClear (m : Nat) (v : Word) : Sys2Proof.Laws.WellFormed.Statement (.suspectClear m v) :=
  Sys2Proof.Laws.WellFormed.of_bounds rfl
theorem Sys2Proof.Laws.WellFormed.sharerSweepDone : Sys2Proof.Laws.WellFormed.Statement .sharerSweepDone :=
  Sys2Proof.Laws.WellFormed.of_bounds rfl
theorem Sys2Proof.Laws.WellFormed.pfwNAssert (ns : Nat) (accepted : Bool) : Sys2Proof.Laws.WellFormed.Statement (.pfwNAssert ns accepted) :=
  Sys2Proof.Laws.WellFormed.of_bounds rfl
theorem Sys2Proof.Laws.WellFormed.flushAdmissionStop : Sys2Proof.Laws.WellFormed.Statement .flushAdmissionStop :=
  Sys2Proof.Laws.WellFormed.of_bounds rfl
theorem Sys2Proof.Laws.WellFormed.flushComplete : Sys2Proof.Laws.WellFormed.Statement .flushComplete :=
  Sys2Proof.Laws.WellFormed.of_bounds rfl
theorem Sys2Proof.Laws.WellFormed.gpfPhase2Request (port : Nat) : Sys2Proof.Laws.WellFormed.Statement (.gpfPhase2Request port) :=
  Sys2Proof.Laws.WellFormed.of_bounds rfl
theorem Sys2Proof.Laws.WellFormed.gpfComplete : Sys2Proof.Laws.WellFormed.Statement .gpfComplete :=
  Sys2Proof.Laws.WellFormed.of_bounds rfl
theorem Sys2Proof.Laws.WellFormed.porstNAssert (ns : Nat) (accepted : Bool) : Sys2Proof.Laws.WellFormed.Statement (.porstNAssert ns accepted) :=
  Sys2Proof.Laws.WellFormed.of_bounds rfl
theorem Sys2Proof.Laws.WellFormed.porstNDeassert : Sys2Proof.Laws.WellFormed.Statement .porstNDeassert :=
  Sys2Proof.Laws.WellFormed.of_bounds rfl
theorem Sys2Proof.Laws.WellFormed.hbmPatrol (ev : HbmBlock) (both : Bool) (sealOf : Option Nat) : Sys2Proof.Laws.WellFormed.Statement (.hbmPatrol ev both sealOf) :=
  Sys2Proof.Laws.WellFormed.of_bounds rfl
theorem Sys2Proof.Laws.WellFormed.injArm (m : Nat) (v : Word) : Sys2Proof.Laws.WellFormed.Statement (.injArm m v) :=
  Sys2Proof.Laws.WellFormed.of_bounds rfl
theorem Sys2Proof.Laws.WellFormed.injDisarm (m : Nat) (v : Word) : Sys2Proof.Laws.WellFormed.Statement (.injDisarm m v) :=
  Sys2Proof.Laws.WellFormed.of_bounds rfl
theorem Sys2Proof.Laws.WellFormed.scrubGo (m : Nat) (v : Word) : Sys2Proof.Laws.WellFormed.Statement (.scrubGo m v) :=
  Sys2Proof.Laws.WellFormed.of_bounds rfl
theorem Sys2Proof.Laws.WellFormed.scrubLine (rng : Bool) (line : Nat) : Sys2Proof.Laws.WellFormed.Statement (.scrubLine rng line) :=
  Sys2Proof.Laws.WellFormed.of_bounds rfl
theorem Sys2Proof.Laws.WellFormed.scrubMark (rng : Bool) (line : Nat) : Sys2Proof.Laws.WellFormed.Statement (.scrubMark rng line) :=
  Sys2Proof.Laws.WellFormed.of_bounds rfl
theorem Sys2Proof.Laws.WellFormed.scrubComplete : Sys2Proof.Laws.WellFormed.Statement .scrubComplete :=
  Sys2Proof.Laws.WellFormed.of_bounds rfl
theorem Sys2Proof.Laws.WellFormed.dbgAccessRequest (req : BitVec 64) (busy : Bool) : Sys2Proof.Laws.WellFormed.Statement (.dbgAccessRequest req busy) :=
  Sys2Proof.Laws.WellFormed.of_bounds rfl
theorem Sys2Proof.Laws.WellFormed.dbgMemRead (m : Nat) : Sys2Proof.Laws.WellFormed.Statement (.dbgMemRead m) :=
  Sys2Proof.Laws.WellFormed.of_bounds rfl
theorem Sys2Proof.Laws.WellFormed.dbgMemWrite (m : Nat) : Sys2Proof.Laws.WellFormed.Statement (.dbgMemWrite m) :=
  Sys2Proof.Laws.WellFormed.of_bounds rfl
theorem Sys2Proof.Laws.WellFormed.dbgMemDone : Sys2Proof.Laws.WellFormed.Statement .dbgMemDone :=
  Sys2Proof.Laws.WellFormed.of_bounds rfl
theorem Sys2Proof.Laws.WellFormed.dbgRawRead (m : Nat) (v : Word) : Sys2Proof.Laws.WellFormed.Statement (.dbgRawRead m v) :=
  Sys2Proof.Laws.WellFormed.of_bounds rfl
theorem Sys2Proof.Laws.WellFormed.dbgRawDone (sensed : Sensed) : Sys2Proof.Laws.WellFormed.Statement (.dbgRawDone sensed) :=
  Sys2Proof.Laws.WellFormed.of_bounds rfl
theorem Sys2Proof.Laws.WellFormed.spdmSessionEstablish (ok : Bool) (doe : Bool) (ld : Nat) (root : List Byte) (leaf : List Byte) : Sys2Proof.Laws.WellFormed.Statement (.spdmSessionEstablish ok doe ld root leaf) :=
  Sys2Proof.Laws.WellFormed.of_bounds rfl
theorem Sys2Proof.Laws.WellFormed.spdmSessionEnd (sid : Nat) : Sys2Proof.Laws.WellFormed.Statement (.spdmSessionEnd sid) :=
  Sys2Proof.Laws.WellFormed.of_bounds rfl
theorem Sys2Proof.Laws.WellFormed.setCertificate (sid : Nat) (slot : Nat) (chain : List Byte) : Sys2Proof.Laws.WellFormed.Statement (.setCertificate sid slot chain) :=
  Sys2Proof.Laws.WellFormed.of_bounds rfl
theorem Sys2Proof.Laws.WellFormed.spdmGetMeasurements (index : Nat) : Sys2Proof.Laws.WellFormed.Statement (.spdmGetMeasurements index) :=
  Sys2Proof.Laws.WellFormed.of_bounds rfl
theorem Sys2Proof.Laws.WellFormed.keyLoad (sid : Nat) (slot : Nat) (key : Option (BitVec 512)) (wrote : Bool) : Sys2Proof.Laws.WellFormed.Statement (.keyLoad sid slot key wrote) :=
  Sys2Proof.Laws.WellFormed.of_bounds rfl
theorem Sys2Proof.Laws.WellFormed.keyRetire (sid : Nat) (slot : Nat) (wrote : Bool) : Sys2Proof.Laws.WellFormed.Statement (.keyRetire sid slot wrote) :=
  Sys2Proof.Laws.WellFormed.of_bounds rfl
theorem Sys2Proof.Laws.WellFormed.keyQuery (sid : Nat) (slot : Nat) : Sys2Proof.Laws.WellFormed.Statement (.keyQuery sid slot) :=
  Sys2Proof.Laws.WellFormed.of_bounds rfl
theorem Sys2Proof.Laws.WellFormed.haltFlush (sid : Nat) (good : List Nat) : Sys2Proof.Laws.WellFormed.Statement (.haltFlush sid good) :=
  Sys2Proof.Laws.WellFormed.of_bounds rfl
theorem Sys2Proof.Laws.WellFormed.haltFlushComplete : Sys2Proof.Laws.WellFormed.Statement .haltFlushComplete :=
  Sys2Proof.Laws.WellFormed.of_bounds rfl
theorem Sys2Proof.Laws.WellFormed.hamperClear (sid : Nat) : Sys2Proof.Laws.WellFormed.Statement (.hamperClear sid) :=
  Sys2Proof.Laws.WellFormed.of_bounds rfl
theorem Sys2Proof.Laws.WellFormed.keyCommandUnknown (sid : Nat) (opcode : Nat) : Sys2Proof.Laws.WellFormed.Statement (.keyCommandUnknown sid opcode) :=
  Sys2Proof.Laws.WellFormed.of_bounds rfl
theorem Sys2Proof.Laws.WellFormed.cipKeyCmdRetire (m : Nat) (v : Word) (wrote : Bool) : Sys2Proof.Laws.WellFormed.Statement (.cipKeyCmdRetire m v wrote) :=
  Sys2Proof.Laws.WellFormed.of_bounds rfl
theorem Sys2Proof.Laws.WellFormed.retireComplete : Sys2Proof.Laws.WellFormed.Statement .retireComplete :=
  Sys2Proof.Laws.WellFormed.of_bounds rfl
theorem Sys2Proof.Laws.WellFormed.ideKmKeyProgram (port : Nat) (mem : Bool) (go : Bool) : Sys2Proof.Laws.WellFormed.Statement (.ideKmKeyProgram port mem go) :=
  Sys2Proof.Laws.WellFormed.of_bounds rfl
theorem Sys2Proof.Laws.WellFormed.ideIntegrityFail (port : Nat) (mem : Bool) (skid : Bool) (lines : List Nat) : Sys2Proof.Laws.WellFormed.Statement (.ideIntegrityFail port mem skid lines) :=
  Sys2Proof.Laws.WellFormed.of_bounds (by simp [Instr.ranges, nPorts, lineSpan])
theorem Sys2Proof.Laws.WellFormed.keychkFlitReceived (slot : Nat) (h : FlitHead) (word : Nat) : Sys2Proof.Laws.WellFormed.Statement (.keychkFlitReceived slot h word) :=
  Sys2Proof.Laws.WellFormed.of_bounds rfl
theorem Sys2Proof.Laws.WellFormed.keyfailFlitReceived (slot : Nat) (h : FlitHead) : Sys2Proof.Laws.WellFormed.Statement (.keyfailFlitReceived slot h) :=
  Sys2Proof.Laws.WellFormed.of_bounds rfl
theorem Sys2Proof.Laws.WellFormed.keychkSend (slot : Nat) : Sys2Proof.Laws.WellFormed.Statement (.keychkSend slot) :=
  Sys2Proof.Laws.WellFormed.of_bounds rfl
theorem Sys2Proof.Laws.WellFormed.hostLinkUp (port : Nat) (link : TrainedLink) : Sys2Proof.Laws.WellFormed.Statement (.hostLinkUp port link) :=
  Sys2Proof.Laws.WellFormed.of_bounds rfl
theorem Sys2Proof.Laws.WellFormed.hostLinkDown (port : Nat) : Sys2Proof.Laws.WellFormed.Statement (.hostLinkDown port) :=
  Sys2Proof.Laws.WellFormed.of_bounds rfl
theorem Sys2Proof.Laws.WellFormed.portRetrain (m : Nat) (port : Nat) : Sys2Proof.Laws.WellFormed.Statement (.portRetrain m port) :=
  Sys2Proof.Laws.WellFormed.of_bounds rfl
theorem Sys2Proof.Laws.WellFormed.perstNAssert (port : Nat) : Sys2Proof.Laws.WellFormed.Statement (.perstNAssert port) :=
  Sys2Proof.Laws.WellFormed.of_bounds rfl
theorem Sys2Proof.Laws.WellFormed.perstNDeassert (port : Nat) : Sys2Proof.Laws.WellFormed.Statement (.perstNDeassert port) :=
  Sys2Proof.Laws.WellFormed.of_bounds rfl
theorem Sys2Proof.Laws.WellFormed.configRequest (port : Nat) (tag : Nat) (w : CfgWrite) : Sys2Proof.Laws.WellFormed.Statement (.configRequest port tag w) :=
  Sys2Proof.Laws.WellFormed.of_bounds rfl
theorem Sys2Proof.Laws.WellFormed.hdmDecoderCommit (ld : Nat) (k : Nat) (dec : HdmDecoder) : Sys2Proof.Laws.WellFormed.Statement (.hdmDecoderCommit ld k dec) :=
  Sys2Proof.Laws.WellFormed.of_bounds rfl
theorem Sys2Proof.Laws.WellFormed.bar2Access (ld : Nat) (write : Bool) (addr : Nat) (bytes : List Byte) (n : Nat) : Sys2Proof.Laws.WellFormed.Statement (.bar2Access ld write addr bytes n) :=
  Sys2Proof.Laws.WellFormed.of_bounds rfl
theorem Sys2Proof.Laws.WellFormed.identify (ld : Nat) : Sys2Proof.Laws.WellFormed.Statement (.identify ld) :=
  Sys2Proof.Laws.WellFormed.of_bounds rfl
theorem Sys2Proof.Laws.WellFormed.identifyMemoryDevice (ld : Nat) : Sys2Proof.Laws.WellFormed.Statement (.identifyMemoryDevice ld) :=
  Sys2Proof.Laws.WellFormed.of_bounds rfl
theorem Sys2Proof.Laws.WellFormed.getEventRecords (ld : Nat) (log : Nat) : Sys2Proof.Laws.WellFormed.Statement (.getEventRecords ld log) :=
  Sys2Proof.Laws.WellFormed.of_bounds rfl
theorem Sys2Proof.Laws.WellFormed.clearEventRecords (ld : Nat) (log : Nat) (handles : List Nat) (all : Bool) : Sys2Proof.Laws.WellFormed.Statement (.clearEventRecords ld log handles all) :=
  Sys2Proof.Laws.WellFormed.of_bounds rfl
theorem Sys2Proof.Laws.WellFormed.getEventInterruptPolicy (ld : Nat) : Sys2Proof.Laws.WellFormed.Statement (.getEventInterruptPolicy ld) :=
  Sys2Proof.Laws.WellFormed.of_bounds rfl
theorem Sys2Proof.Laws.WellFormed.setEventInterruptPolicy (ld : Nat) (vectors : List Nat) : Sys2Proof.Laws.WellFormed.Statement (.setEventInterruptPolicy ld vectors) :=
  Sys2Proof.Laws.WellFormed.of_bounds rfl
theorem Sys2Proof.Laws.WellFormed.getTimestamp (ld : Nat) : Sys2Proof.Laws.WellFormed.Statement (.getTimestamp ld) :=
  Sys2Proof.Laws.WellFormed.of_bounds rfl
theorem Sys2Proof.Laws.WellFormed.setTimestamp (ld : Nat) (t : Nat) : Sys2Proof.Laws.WellFormed.Statement (.setTimestamp ld t) :=
  Sys2Proof.Laws.WellFormed.of_bounds rfl
theorem Sys2Proof.Laws.WellFormed.getSupportedLogs (ld : Nat) : Sys2Proof.Laws.WellFormed.Statement (.getSupportedLogs ld) :=
  Sys2Proof.Laws.WellFormed.of_bounds rfl
theorem Sys2Proof.Laws.WellFormed.getLog (ld : Nat) (vendor : Bool) (off : Nat) (len : Nat) : Sys2Proof.Laws.WellFormed.Statement (.getLog ld vendor off len) :=
  Sys2Proof.Laws.WellFormed.of_bounds rfl
theorem Sys2Proof.Laws.WellFormed.getHealthInfo (ld : Nat) : Sys2Proof.Laws.WellFormed.Statement (.getHealthInfo ld) :=
  Sys2Proof.Laws.WellFormed.of_bounds rfl
theorem Sys2Proof.Laws.WellFormed.getAlertConfiguration (ld : Nat) : Sys2Proof.Laws.WellFormed.Statement (.getAlertConfiguration ld) :=
  Sys2Proof.Laws.WellFormed.of_bounds rfl
theorem Sys2Proof.Laws.WellFormed.setAlertConfiguration (ld : Nat) (cfg : AlertCfg) : Sys2Proof.Laws.WellFormed.Statement (.setAlertConfiguration ld cfg) :=
  Sys2Proof.Laws.WellFormed.of_bounds rfl
theorem Sys2Proof.Laws.WellFormed.getLsa (ld : Nat) (off : Nat) (len : Nat) : Sys2Proof.Laws.WellFormed.Statement (.getLsa ld off len) :=
  Sys2Proof.Laws.WellFormed.of_bounds rfl
theorem Sys2Proof.Laws.WellFormed.setLsa (ld : Nat) (off : Nat) (bytes : List Byte) : Sys2Proof.Laws.WellFormed.Statement (.setLsa ld off bytes) :=
  Sys2Proof.Laws.WellFormed.of_bounds rfl
theorem Sys2Proof.Laws.WellFormed.getPoisonList (ld : Nat) (dpa : Nat) (len : Nat) : Sys2Proof.Laws.WellFormed.Statement (.getPoisonList ld dpa len) :=
  Sys2Proof.Laws.WellFormed.of_bounds rfl
theorem Sys2Proof.Laws.WellFormed.injectPoison (ld : Nat) (dpa : Nat) : Sys2Proof.Laws.WellFormed.Statement (.injectPoison ld dpa) :=
  Sys2Proof.Laws.WellFormed.of_bounds rfl
theorem Sys2Proof.Laws.WellFormed.clearPoison (ld : Nat) (dpa : Nat) (data : BitVec 512) : Sys2Proof.Laws.WellFormed.Statement (.clearPoison ld dpa data) :=
  Sys2Proof.Laws.WellFormed.of_bounds rfl
theorem Sys2Proof.Laws.WellFormed.sanitize (ld : Nat) : Sys2Proof.Laws.WellFormed.Statement (.sanitize ld) :=
  Sys2Proof.Laws.WellFormed.of_bounds rfl
theorem Sys2Proof.Laws.WellFormed.secureErase (ld : Nat) : Sys2Proof.Laws.WellFormed.Statement (.secureErase ld) :=
  Sys2Proof.Laws.WellFormed.of_bounds rfl
theorem Sys2Proof.Laws.WellFormed.backgroundCommandComplete (ld : Nat) : Sys2Proof.Laws.WellFormed.Statement (.backgroundCommandComplete ld) :=
  Sys2Proof.Laws.WellFormed.of_bounds rfl
theorem Sys2Proof.Laws.WellFormed.getDynamicCapacityConfiguration (ld : Nat) : Sys2Proof.Laws.WellFormed.Statement (.getDynamicCapacityConfiguration ld) :=
  Sys2Proof.Laws.WellFormed.of_bounds rfl
theorem Sys2Proof.Laws.WellFormed.getDynamicCapacityExtentList (ld : Nat) : Sys2Proof.Laws.WellFormed.Statement (.getDynamicCapacityExtentList ld) :=
  Sys2Proof.Laws.WellFormed.of_bounds rfl
theorem Sys2Proof.Laws.WellFormed.addDynamicCapacityResponse (ld : Nat) (ext : Nat) : Sys2Proof.Laws.WellFormed.Statement (.addDynamicCapacityResponse ld ext) :=
  Sys2Proof.Laws.WellFormed.of_bounds rfl
theorem Sys2Proof.Laws.WellFormed.releaseDynamicCapacity (ld : Nat) (ext : Nat) : Sys2Proof.Laws.WellFormed.Statement (.releaseDynamicCapacity ld ext) :=
  Sys2Proof.Laws.WellFormed.of_bounds rfl
theorem Sys2Proof.Laws.WellFormed.getDeviceState (ld : Nat) : Sys2Proof.Laws.WellFormed.Statement (.getDeviceState ld) :=
  Sys2Proof.Laws.WellFormed.of_bounds rfl
theorem Sys2Proof.Laws.WellFormed.getWearReport (ld : Nat) : Sys2Proof.Laws.WellFormed.Statement (.getWearReport ld) :=
  Sys2Proof.Laws.WellFormed.of_bounds rfl
theorem Sys2Proof.Laws.WellFormed.getFlushRecord (ld : Nat) : Sys2Proof.Laws.WellFormed.Statement (.getFlushRecord ld) :=
  Sys2Proof.Laws.WellFormed.of_bounds rfl
theorem Sys2Proof.Laws.WellFormed.getGroupStatus (ld : Nat) : Sys2Proof.Laws.WellFormed.Statement (.getGroupStatus ld) :=
  Sys2Proof.Laws.WellFormed.of_bounds rfl
theorem Sys2Proof.Laws.WellFormed.mailboxUnsupported (ld : Nat) (opcode : Nat) : Sys2Proof.Laws.WellFormed.Statement (.mailboxUnsupported ld opcode) :=
  Sys2Proof.Laws.WellFormed.of_bounds rfl
theorem Sys2Proof.Laws.WellFormed.getLdInfo : Sys2Proof.Laws.WellFormed.Statement .getLdInfo :=
  Sys2Proof.Laws.WellFormed.of_bounds rfl
theorem Sys2Proof.Laws.WellFormed.getLdAllocations : Sys2Proof.Laws.WellFormed.Statement .getLdAllocations :=
  Sys2Proof.Laws.WellFormed.of_bounds rfl
theorem Sys2Proof.Laws.WellFormed.setLdAllocations (granules : List Nat) : Sys2Proof.Laws.WellFormed.Statement (.setLdAllocations granules) :=
  Sys2Proof.Laws.WellFormed.of_bounds rfl
theorem Sys2Proof.Laws.WellFormed.getMultiHeadedInfo : Sys2Proof.Laws.WellFormed.Statement .getMultiHeadedInfo :=
  Sys2Proof.Laws.WellFormed.of_bounds rfl
theorem Sys2Proof.Laws.WellFormed.getDcRegionConfiguration (ld : Nat) : Sys2Proof.Laws.WellFormed.Statement (.getDcRegionConfiguration ld) :=
  Sys2Proof.Laws.WellFormed.of_bounds rfl
theorem Sys2Proof.Laws.WellFormed.getDcRegionExtentLists (ld : Nat) : Sys2Proof.Laws.WellFormed.Statement (.getDcRegionExtentLists ld) :=
  Sys2Proof.Laws.WellFormed.of_bounds rfl
theorem Sys2Proof.Laws.WellFormed.initiateDynamicCapacityAdd (ldMask : Nat) (base : Nat) (len : Nat) : Sys2Proof.Laws.WellFormed.Statement (.initiateDynamicCapacityAdd ldMask base len) :=
  Sys2Proof.Laws.WellFormed.of_bounds rfl
theorem Sys2Proof.Laws.WellFormed.initiateDynamicCapacityRelease (ext : Nat) (ld : Nat) (forced : Bool) : Sys2Proof.Laws.WellFormed.Statement (.initiateDynamicCapacityRelease ext ld forced) :=
  Sys2Proof.Laws.WellFormed.of_bounds rfl
theorem Sys2Proof.Laws.WellFormed.bindLd (ld : Nat) (port : Nat) : Sys2Proof.Laws.WellFormed.Statement (.bindLd ld port) :=
  Sys2Proof.Laws.WellFormed.of_bounds rfl
theorem Sys2Proof.Laws.WellFormed.unbindLd (ld : Nat) : Sys2Proof.Laws.WellFormed.Statement (.unbindLd ld) :=
  Sys2Proof.Laws.WellFormed.of_bounds rfl
theorem Sys2Proof.Laws.WellFormed.getBindings : Sys2Proof.Laws.WellFormed.Statement .getBindings :=
  Sys2Proof.Laws.WellFormed.of_bounds rfl
theorem Sys2Proof.Laws.WellFormed.secureRelease (ext : Nat) (ld : Nat) (forced : Bool) : Sys2Proof.Laws.WellFormed.Statement (.secureRelease ext ld forced) :=
  Sys2Proof.Laws.WellFormed.of_bounds rfl
theorem Sys2Proof.Laws.WellFormed.rspFlit (slot : Nat) (h : FlitHead) (tag : Nat) (status : Nat) (payload : List Byte) : Sys2Proof.Laws.WellFormed.Statement (.rspFlit slot h tag status payload) :=
  Sys2Proof.Laws.WellFormed.of_bounds rfl
theorem Sys2Proof.Laws.WellFormed.dataFlit (slot : Nat) (h : FlitHead) (tag : Nat) (part : Nat) : Sys2Proof.Laws.WellFormed.Statement (.dataFlit slot h tag part) :=
  Sys2Proof.Laws.WellFormed.of_bounds rfl
theorem Sys2Proof.Laws.WellFormed.nakFlit (slot : Nat) (h : FlitHead) (reason : Nat) (count : Nat) : Sys2Proof.Laws.WellFormed.Statement (.nakFlit slot h reason count) :=
  Sys2Proof.Laws.WellFormed.of_bounds rfl
theorem Sys2Proof.Laws.WellFormed.retrainTimeout (slot : Nat) : Sys2Proof.Laws.WellFormed.Statement (.retrainTimeout slot) :=
  Sys2Proof.Laws.WellFormed.of_bounds rfl
theorem Sys2Proof.Laws.WellFormed.statusFlit (slot : Nat) (h : FlitHead) (temp : Nat) (failed : Nat) (power : Nat) (flags : Nat) : Sys2Proof.Laws.WellFormed.Statement (.statusFlit slot h temp failed power flags) :=
  Sys2Proof.Laws.WellFormed.of_bounds rfl
theorem Sys2Proof.Laws.WellFormed.statusTimeout (slot : Nat) : Sys2Proof.Laws.WellFormed.Statement (.statusTimeout slot) :=
  Sys2Proof.Laws.WellFormed.of_bounds rfl
theorem Sys2Proof.Laws.WellFormed.idleFlit (slot : Nat) (h : FlitHead) : Sys2Proof.Laws.WellFormed.Statement (.idleFlit slot h) :=
  Sys2Proof.Laws.WellFormed.of_bounds rfl
theorem Sys2Proof.Laws.WellFormed.flitCorrupt (slot : Nat) (crc : Bool) : Sys2Proof.Laws.WellFormed.Statement (.flitCorrupt slot crc) :=
  Sys2Proof.Laws.WellFormed.of_bounds rfl
theorem Sys2Proof.Laws.WellFormed.replayTimeout (slot : Nat) : Sys2Proof.Laws.WellFormed.Statement (.replayTimeout slot) :=
  Sys2Proof.Laws.WellFormed.of_bounds rfl
theorem Sys2Proof.Laws.WellFormed.responseTimeout (slot : Nat) (tag : Nat) : Sys2Proof.Laws.WellFormed.Statement (.responseTimeout slot tag) :=
  Sys2Proof.Laws.WellFormed.of_bounds rfl
theorem Sys2Proof.Laws.WellFormed.laneSparing (slot : Nat) (lane : Nat) : Sys2Proof.Laws.WellFormed.Statement (.laneSparing slot lane) :=
  Sys2Proof.Laws.WellFormed.of_bounds rfl
theorem Sys2Proof.Laws.WellFormed.linkBringupTimeout (slot : Nat) : Sys2Proof.Laws.WellFormed.Statement (.linkBringupTimeout slot) :=
  Sys2Proof.Laws.WellFormed.of_bounds rfl
theorem Sys2Proof.Laws.WellFormed.hello (slot : Nat) (h : FlitHead) (msg : HelloMsg) : Sys2Proof.Laws.WellFormed.Statement (.hello slot h msg) :=
  Sys2Proof.Laws.WellFormed.of_bounds rfl
theorem Sys2Proof.Laws.WellFormed.pairPub (slot : Nat) (h : FlitHead) : Sys2Proof.Laws.WellFormed.Statement (.pairPub slot h) :=
  Sys2Proof.Laws.WellFormed.of_bounds rfl
theorem Sys2Proof.Laws.WellFormed.pairKey (slot : Nat) : Sys2Proof.Laws.WellFormed.Statement (.pairKey slot) :=
  Sys2Proof.Laws.WellFormed.of_bounds rfl
theorem Sys2Proof.Laws.WellFormed.pairOk (slot : Nat) (h : FlitHead) (keyId : Nat) : Sys2Proof.Laws.WellFormed.Statement (.pairOk slot h keyId) :=
  Sys2Proof.Laws.WellFormed.of_bounds rfl
theorem Sys2Proof.Laws.WellFormed.unpair (slot : Nat) : Sys2Proof.Laws.WellFormed.Statement (.unpair slot) :=
  Sys2Proof.Laws.WellFormed.of_bounds rfl
theorem Sys2Proof.Laws.WellFormed.readLine (slot : Nat) (psa : Nat) (lslot : Nat) (refSet : Nat) : Sys2Proof.Laws.WellFormed.Statement (.readLine slot psa lslot refSet) :=
  Sys2Proof.Laws.WellFormed.of_bounds rfl
theorem Sys2Proof.Laws.WellFormed.readPage (slot : Nat) (psa : Nat) : Sys2Proof.Laws.WellFormed.Statement (.readPage slot psa) :=
  Sys2Proof.Laws.WellFormed.of_bounds rfl
theorem Sys2Proof.Laws.WellFormed.program (slot : Nat) (psa : Nat) : Sys2Proof.Laws.WellFormed.Statement (.program slot psa) :=
  Sys2Proof.Laws.WellFormed.of_bounds rfl
theorem Sys2Proof.Laws.WellFormed.reset (slot : Nat) (die : Nat) (bolt : Nat) : Sys2Proof.Laws.WellFormed.Statement (.reset slot die bolt) :=
  Sys2Proof.Laws.WellFormed.of_bounds rfl
theorem Sys2Proof.Laws.WellFormed.ledgerRead (slot : Nat) (die : Nat) (first : Nat) (n : Nat) : Sys2Proof.Laws.WellFormed.Statement (.ledgerRead slot die first n) :=
  Sys2Proof.Laws.WellFormed.of_bounds rfl
theorem Sys2Proof.Laws.WellFormed.ledgerWrite (slot : Nat) (die : Nat) (bolt : Nat) : Sys2Proof.Laws.WellFormed.Statement (.ledgerWrite slot die bolt) :=
  Sys2Proof.Laws.WellFormed.of_bounds rfl
theorem Sys2Proof.Laws.WellFormed.rsvRead (slot : Nat) (block : Nat) : Sys2Proof.Laws.WellFormed.Statement (.rsvRead slot block) :=
  Sys2Proof.Laws.WellFormed.of_bounds rfl
theorem Sys2Proof.Laws.WellFormed.rsvWrite (slot : Nat) (block : Nat) (bytes : List Byte) : Sys2Proof.Laws.WellFormed.Statement (.rsvWrite slot block bytes) :=
  Sys2Proof.Laws.WellFormed.of_bounds rfl
theorem Sys2Proof.Laws.WellFormed.ident (slot : Nat) : Sys2Proof.Laws.WellFormed.Statement (.ident slot) :=
  Sys2Proof.Laws.WellFormed.of_bounds rfl
theorem Sys2Proof.Laws.WellFormed.health (slot : Nat) : Sys2Proof.Laws.WellFormed.Statement (.health slot) :=
  Sys2Proof.Laws.WellFormed.of_bounds rfl
theorem Sys2Proof.Laws.WellFormed.setRecord (slot : Nat) : Sys2Proof.Laws.WellFormed.Statement (.setRecord slot) :=
  Sys2Proof.Laws.WellFormed.of_bounds rfl
theorem Sys2Proof.Laws.WellFormed.indicator (slot : Nat) : Sys2Proof.Laws.WellFormed.Statement (.indicator slot) :=
  Sys2Proof.Laws.WellFormed.of_bounds rfl
theorem Sys2Proof.Laws.WellFormed.quiesce (slot : Nat) : Sys2Proof.Laws.WellFormed.Statement (.quiesce slot) :=
  Sys2Proof.Laws.WellFormed.of_bounds rfl
theorem Sys2Proof.Laws.WellFormed.vlkRetrain (m : Nat) (slot : Nat) : Sys2Proof.Laws.WellFormed.Statement (.vlkRetrain m slot) :=
  Sys2Proof.Laws.WellFormed.of_bounds rfl
theorem Sys2Proof.Laws.WellFormed.unquarantine (m : Nat) (slot : Nat) : Sys2Proof.Laws.WellFormed.Statement (.unquarantine m slot) :=
  Sys2Proof.Laws.WellFormed.of_bounds rfl
theorem Sys2Proof.Laws.WellFormed.presenceChange (slot : Nat) (seated : Option SeatedCart) : Sys2Proof.Laws.WellFormed.Statement (.presenceChange slot seated) :=
  Sys2Proof.Laws.WellFormed.of_bounds rfl
theorem Sys2Proof.Laws.WellFormed.attention (slot : Nat) : Sys2Proof.Laws.WellFormed.Statement (.attention slot) :=
  Sys2Proof.Laws.WellFormed.of_bounds rfl
theorem Sys2Proof.Laws.WellFormed.claim (m : Nat) (slot : Nat) : Sys2Proof.Laws.WellFormed.Statement (.claim m slot) :=
  Sys2Proof.Laws.WellFormed.of_bounds rfl
theorem Sys2Proof.Laws.WellFormed.claimComplete (slot : Nat) (linkOk : Bool) (bad : List Nat) : Sys2Proof.Laws.WellFormed.Statement (.claimComplete slot linkOk bad) :=
  Sys2Proof.Laws.WellFormed.of_bounds rfl
theorem Sys2Proof.Laws.WellFormed.carPair (m : Nat) (slot : Nat) : Sys2Proof.Laws.WellFormed.Statement (.carPair m slot) :=
  Sys2Proof.Laws.WellFormed.of_bounds rfl
theorem Sys2Proof.Laws.WellFormed.readmit (m : Nat) (slot : Nat) : Sys2Proof.Laws.WellFormed.Statement (.readmit m slot) :=
  Sys2Proof.Laws.WellFormed.of_bounds rfl
theorem Sys2Proof.Laws.WellFormed.locateOn (m : Nat) (slot : Nat) : Sys2Proof.Laws.WellFormed.Statement (.locateOn m slot) :=
  Sys2Proof.Laws.WellFormed.of_bounds rfl
theorem Sys2Proof.Laws.WellFormed.locateOff (m : Nat) (slot : Nat) : Sys2Proof.Laws.WellFormed.Statement (.locateOff m slot) :=
  Sys2Proof.Laws.WellFormed.of_bounds rfl
theorem Sys2Proof.Laws.WellFormed.spoolContextWrite (m : Nat) (w : Nat) (v : Word) : Sys2Proof.Laws.WellFormed.Statement (.spoolContextWrite m w v) :=
  Sys2Proof.Laws.WellFormed.of_bounds rfl
theorem Sys2Proof.Laws.WellFormed.spoolDoorbell (m : Nat) (v : Word) : Sys2Proof.Laws.WellFormed.Statement (.spoolDoorbell m v) :=
  Sys2Proof.Laws.WellFormed.of_bounds rfl
theorem Sys2Proof.Laws.WellFormed.copy (spool : Nat) (readable : Bool) : Sys2Proof.Laws.WellFormed.Statement (.copy spool readable) :=
  Sys2Proof.Laws.WellFormed.of_bounds rfl
theorem Sys2Proof.Laws.WellFormed.fill (spool : Nat) (readable : Bool) : Sys2Proof.Laws.WellFormed.Statement (.fill spool readable) :=
  Sys2Proof.Laws.WellFormed.of_bounds rfl
theorem Sys2Proof.Laws.WellFormed.secureDiscard (spool : Nat) (readable : Bool) : Sys2Proof.Laws.WellFormed.Statement (.secureDiscard spool readable) :=
  Sys2Proof.Laws.WellFormed.of_bounds rfl
theorem Sys2Proof.Laws.WellFormed.scrubRange (spool : Nat) (readable : Bool) : Sys2Proof.Laws.WellFormed.Statement (.scrubRange spool readable) :=
  Sys2Proof.Laws.WellFormed.of_bounds rfl
theorem Sys2Proof.Laws.WellFormed.persistFence (spool : Nat) (readable : Bool) : Sys2Proof.Laws.WellFormed.Statement (.persistFence spool readable) :=
  Sys2Proof.Laws.WellFormed.of_bounds rfl
theorem Sys2Proof.Laws.WellFormed.prefetch (spool : Nat) (readable : Bool) : Sys2Proof.Laws.WellFormed.Statement (.prefetch spool readable) :=
  Sys2Proof.Laws.WellFormed.of_bounds rfl
theorem Sys2Proof.Laws.WellFormed.pin (spool : Nat) (readable : Bool) : Sys2Proof.Laws.WellFormed.Statement (.pin spool readable) :=
  Sys2Proof.Laws.WellFormed.of_bounds rfl
theorem Sys2Proof.Laws.WellFormed.unpin (spool : Nat) (readable : Bool) : Sys2Proof.Laws.WellFormed.Statement (.unpin spool readable) :=
  Sys2Proof.Laws.WellFormed.of_bounds rfl
theorem Sys2Proof.Laws.WellFormed.lockRange (spool : Nat) (readable : Bool) : Sys2Proof.Laws.WellFormed.Statement (.lockRange spool readable) :=
  Sys2Proof.Laws.WellFormed.of_bounds rfl
theorem Sys2Proof.Laws.WellFormed.clean (spool : Nat) (readable : Bool) : Sys2Proof.Laws.WellFormed.Statement (.clean spool readable) :=
  Sys2Proof.Laws.WellFormed.of_bounds rfl
theorem Sys2Proof.Laws.WellFormed.invalidate (spool : Nat) (readable : Bool) : Sys2Proof.Laws.WellFormed.Statement (.invalidate spool readable) :=
  Sys2Proof.Laws.WellFormed.of_bounds rfl
theorem Sys2Proof.Laws.WellFormed.cleanInvalidate (spool : Nat) (readable : Bool) : Sys2Proof.Laws.WellFormed.Statement (.cleanInvalidate spool readable) :=
  Sys2Proof.Laws.WellFormed.of_bounds rfl
theorem Sys2Proof.Laws.WellFormed.darn (spool : Nat) (readable : Bool) : Sys2Proof.Laws.WellFormed.Statement (.darn spool readable) :=
  Sys2Proof.Laws.WellFormed.of_bounds rfl
theorem Sys2Proof.Laws.WellFormed.rekeyRange (spool : Nat) (readable : Bool) : Sys2Proof.Laws.WellFormed.Statement (.rekeyRange spool readable) :=
  Sys2Proof.Laws.WellFormed.of_bounds rfl
theorem Sys2Proof.Laws.WellFormed.export_ (spool : Nat) (readable : Bool) : Sys2Proof.Laws.WellFormed.Statement (.export_ spool readable) :=
  Sys2Proof.Laws.WellFormed.of_bounds rfl
theorem Sys2Proof.Laws.WellFormed.import_ (spool : Nat) (readable : Bool) : Sys2Proof.Laws.WellFormed.Statement (.import_ spool readable) :=
  Sys2Proof.Laws.WellFormed.of_bounds rfl
theorem Sys2Proof.Laws.WellFormed.verify (spool : Nat) (readable : Bool) : Sys2Proof.Laws.WellFormed.Statement (.verify spool readable) :=
  Sys2Proof.Laws.WellFormed.of_bounds rfl
theorem Sys2Proof.Laws.WellFormed.sampleDrain (spool : Nat) (readable : Bool) : Sys2Proof.Laws.WellFormed.Statement (.sampleDrain spool readable) :=
  Sys2Proof.Laws.WellFormed.of_bounds rfl
theorem Sys2Proof.Laws.WellFormed.dataMoverLine (op : Nat) (wrote : Bool) : Sys2Proof.Laws.WellFormed.Statement (.dataMoverLine op wrote) :=
  Sys2Proof.Laws.WellFormed.of_bounds rfl
theorem Sys2Proof.Laws.WellFormed.opCompletionPost (op : Nat) : Sys2Proof.Laws.WellFormed.Statement (.opCompletionPost op) :=
  Sys2Proof.Laws.WellFormed.of_bounds rfl
theorem Sys2Proof.Laws.WellFormed.stalenessTimer (spool : Nat) : Sys2Proof.Laws.WellFormed.Statement (.stalenessTimer spool) :=
  Sys2Proof.Laws.WellFormed.of_bounds rfl
theorem Sys2Proof.Laws.WellFormed.rollCallSend : Sys2Proof.Laws.WellFormed.Statement .rollCallSend :=
  Sys2Proof.Laws.WellFormed.of_bounds rfl
theorem Sys2Proof.Laws.WellFormed.rollCallReceive (r : RollCall) (linkNs : Nat) : Sys2Proof.Laws.WellFormed.Statement (.rollCallReceive r linkNs) :=
  Sys2Proof.Laws.WellFormed.of_bounds rfl
theorem Sys2Proof.Laws.WellFormed.memberSilent (k : Nat) : Sys2Proof.Laws.WellFormed.Statement (.memberSilent k) :=
  Sys2Proof.Laws.WellFormed.of_bounds rfl
theorem Sys2Proof.Laws.WellFormed.railEnableSlot (us : Nat) : Sys2Proof.Laws.WellFormed.Statement (.railEnableSlot us) :=
  Sys2Proof.Laws.WellFormed.of_bounds rfl
theorem Sys2Proof.Laws.WellFormed.powerGoodRise (r : Nat) : Sys2Proof.Laws.WellFormed.Statement (.powerGoodRise r) :=
  Sys2Proof.Laws.WellFormed.of_bounds rfl
theorem Sys2Proof.Laws.WellFormed.pgWindowExpire (r : Nat) : Sys2Proof.Laws.WellFormed.Statement (.pgWindowExpire r) :=
  Sys2Proof.Laws.WellFormed.of_bounds rfl
theorem Sys2Proof.Laws.WellFormed.retryGapEnd : Sys2Proof.Laws.WellFormed.Statement .retryGapEnd :=
  Sys2Proof.Laws.WellFormed.of_bounds rfl
theorem Sys2Proof.Laws.WellFormed.railSample (pins : List Nat) (vsin : Nat) (settling : Bool) : Sys2Proof.Laws.WellFormed.Statement (.railSample pins vsin settling) :=
  Sys2Proof.Laws.WellFormed.of_bounds rfl
theorem Sys2Proof.Laws.WellFormed.railPgLost (r : Nat) : Sys2Proof.Laws.WellFormed.Statement (.railPgLost r) :=
  Sys2Proof.Laws.WellFormed.of_bounds rfl
theorem Sys2Proof.Laws.WellFormed.railDisableSlot (us : Nat) : Sys2Proof.Laws.WellFormed.Statement (.railDisableSlot us) :=
  Sys2Proof.Laws.WellFormed.of_bounds rfl
theorem Sys2Proof.Laws.WellFormed.powerDownEnd (pfw : Bool) : Sys2Proof.Laws.WellFormed.Statement (.powerDownEnd pfw) :=
  Sys2Proof.Laws.WellFormed.of_bounds rfl
theorem Sys2Proof.Laws.WellFormed.minOffEnd : Sys2Proof.Laws.WellFormed.Statement .minOffEnd :=
  Sys2Proof.Laws.WellFormed.of_bounds rfl
theorem Sys2Proof.Laws.WellFormed.holdingBufferWrite : Sys2Proof.Laws.WellFormed.Statement .holdingBufferWrite :=
  Sys2Proof.Laws.WellFormed.of_bounds rfl
theorem Sys2Proof.Laws.WellFormed.thermalSample (die : List Int) (hbm : List Int) : Sys2Proof.Laws.WellFormed.Statement (.thermalSample die hbm) :=
  Sys2Proof.Laws.WellFormed.of_bounds rfl
theorem Sys2Proof.Laws.WellFormed.sensorSuspect (sensor : Nat) : Sys2Proof.Laws.WellFormed.Statement (.sensorSuspect sensor) :=
  Sys2Proof.Laws.WellFormed.of_bounds rfl
theorem Sys2Proof.Laws.WellFormed.hardwareThermalTrip (comparators : Nat) : Sys2Proof.Laws.WellFormed.Statement (.hardwareThermalTrip comparators) :=
  Sys2Proof.Laws.WellFormed.of_bounds rfl
theorem Sys2Proof.Laws.WellFormed.aux33Brownout : Sys2Proof.Laws.WellFormed.Statement .aux33Brownout :=
  Sys2Proof.Laws.WellFormed.of_bounds rfl
theorem Sys2Proof.Laws.WellFormed.tackWrite (m : Nat) (w : Nat) (v : Word) : Sys2Proof.Laws.WellFormed.Statement (.tackWrite m w v) :=
  Sys2Proof.Laws.WellFormed.of_bounds rfl
theorem Sys2Proof.Laws.WellFormed.hemProgram (m : Nat) (page : Nat) : Sys2Proof.Laws.WellFormed.Statement (.hemProgram m page) :=
  Sys2Proof.Laws.WellFormed.of_bounds rfl
theorem Sys2Proof.Laws.WellFormed.hemProgramDone (verified : Bool) : Sys2Proof.Laws.WellFormed.Statement (.hemProgramDone verified) :=
  Sys2Proof.Laws.WellFormed.of_bounds rfl
theorem Sys2Proof.Laws.WellFormed.hemPageLoad (m : Nat) (page : Nat) : Sys2Proof.Laws.WellFormed.Statement (.hemPageLoad m page) :=
  Sys2Proof.Laws.WellFormed.of_bounds rfl
theorem Sys2Proof.Laws.WellFormed.hemLoadDone : Sys2Proof.Laws.WellFormed.Statement .hemLoadDone :=
  Sys2Proof.Laws.WellFormed.of_bounds rfl
theorem Sys2Proof.Laws.WellFormed.powerOnHour : Sys2Proof.Laws.WellFormed.Statement .powerOnHour :=
  Sys2Proof.Laws.WellFormed.of_bounds rfl
theorem Sys2Proof.Laws.WellFormed.hamperPageTimer : Sys2Proof.Laws.WellFormed.Statement .hamperPageTimer :=
  Sys2Proof.Laws.WellFormed.of_bounds rfl
theorem Sys2Proof.Laws.WellFormed.hamperRead (m : Nat) (v : Word) : Sys2Proof.Laws.WellFormed.Statement (.hamperRead m v) :=
  Sys2Proof.Laws.WellFormed.of_bounds rfl
theorem Sys2Proof.Laws.WellFormed.intDoorbellWrite (m : Nat) (v : Word) : Sys2Proof.Laws.WellFormed.Statement (.intDoorbellWrite m v) :=
  Sys2Proof.Laws.WellFormed.of_bounds rfl
theorem Sys2Proof.Laws.WellFormed.intAck (m : Nat) (t : Nat) (v : Word) : Sys2Proof.Laws.WellFormed.Statement (.intAck m t v) :=
  Sys2Proof.Laws.WellFormed.of_bounds rfl
theorem Sys2Proof.Laws.WellFormed.alertReassert : Sys2Proof.Laws.WellFormed.Statement .alertReassert :=
  Sys2Proof.Laws.WellFormed.of_bounds rfl
theorem Sys2Proof.Laws.WellFormed.alertResponse : Sys2Proof.Laws.WellFormed.Statement .alertResponse :=
  Sys2Proof.Laws.WellFormed.of_bounds rfl
theorem Sys2Proof.Laws.WellFormed.smbusArp (addr : Nat) : Sys2Proof.Laws.WellFormed.Statement (.smbusArp addr) :=
  Sys2Proof.Laws.WellFormed.of_bounds rfl
theorem Sys2Proof.Laws.WellFormed.quietEdge (input : Nat) : Sys2Proof.Laws.WellFormed.Statement (.quietEdge input) :=
  Sys2Proof.Laws.WellFormed.of_bounds rfl
theorem Sys2Proof.Laws.WellFormed.pmcRead (m : Nat) : Sys2Proof.Laws.WellFormed.Statement (.pmcRead m) :=
  Sys2Proof.Laws.WellFormed.of_bounds rfl
theorem Sys2Proof.Laws.WellFormed.pmcZero (m : Nat) : Sys2Proof.Laws.WellFormed.Statement (.pmcZero m) :=
  Sys2Proof.Laws.WellFormed.of_bounds rfl
theorem Sys2Proof.Laws.WellFormed.readerPassTimer : Sys2Proof.Laws.WellFormed.Statement .readerPassTimer :=
  Sys2Proof.Laws.WellFormed.of_bounds rfl
theorem Sys2Proof.Laws.WellFormed.readerPassDone : Sys2Proof.Laws.WellFormed.Statement .readerPassDone :=
  Sys2Proof.Laws.WellFormed.of_bounds rfl
theorem Sys2Proof.Laws.WellFormed.samplePop (m : Nat) (count : Nat) : Sys2Proof.Laws.WellFormed.Statement (.samplePop m count) :=
  Sys2Proof.Laws.WellFormed.of_bounds rfl
theorem Sys2Proof.Laws.WellFormed.rateSecond : Sys2Proof.Laws.WellFormed.Statement .rateSecond :=
  Sys2Proof.Laws.WellFormed.of_bounds rfl
theorem Sys2Proof.Laws.WellFormed.fecLock (slot : Nat) (width : Nat) (lane : Nat) : Sys2Proof.Laws.WellFormed.Statement (.fecLock slot width lane) :=
  Sys2Proof.Laws.WellFormed.of_bounds rfl
theorem Sys2Proof.Laws.WellFormed.cartridgeLinkDown (slot : Nat) : Sys2Proof.Laws.WellFormed.Statement (.cartridgeLinkDown slot) :=
  Sys2Proof.Laws.WellFormed.of_bounds rfl
theorem Sys2Proof.Laws.WellFormed.hostCreditReturn (port : Nat) (n : Nat) : Sys2Proof.Laws.WellFormed.Statement (.hostCreditReturn port n) :=
  Sys2Proof.Laws.WellFormed.of_bounds rfl
theorem Sys2Proof.Laws.WellFormed.bucketRebuildDone (bucket : Nat) : Sys2Proof.Laws.WellFormed.Statement (.bucketRebuildDone bucket) :=
  Sys2Proof.Laws.WellFormed.of_bounds rfl
theorem Sys2Proof.Laws.WellFormed.tapInstruction (ir : Nat) : Sys2Proof.Laws.WellFormed.Statement (.tapInstruction ir) :=
  Sys2Proof.Laws.WellFormed.of_bounds rfl
end

