-- ==== Sys2Proof/Laws/State.lean ====
section
/-!
SUPPORT. Updates of the state, field by field: what each leaves in every field, so that no later proof unfolds a record update.
-/
namespace Sys2Proof.Machine.State

variable (s : State)

@[simp] theorem modXlt_put (f) : s.modXlt f = s.putXlt (f s.xlt) := id rfl
@[simp] theorem modMed_put (f) : s.modMed f = s.putMed (f s.med) := id rfl
@[simp] theorem modCache_put (f) : s.modCache f = s.putCache (f s.cache) := id rfl
@[simp] theorem modCoh_put (f) : s.modCoh f = s.putCoh (f s.coh) := id rfl
@[simp] theorem modFlush_put (f) : s.modFlush f = s.putFlush (f s.flush) := id rfl
@[simp] theorem modInteg_put (f) : s.modInteg f = s.putInteg (f s.integ) := id rfl
@[simp] theorem modDbg_put (f) : s.modDbg f = s.putDbg (f s.dbg) := id rfl
@[simp] theorem modCip_put (f) : s.modCip f = s.putCip (f s.cip) := id rfl
@[simp] theorem modSpl_put (f) : s.modSpl f = s.putSpl (f s.spl) := id rfl
@[simp] theorem modGrp_put (f) : s.modGrp f = s.putGrp (f s.grp) := id rfl
@[simp] theorem modStart_put (f) : s.modStart f = s.putStart (f s.start) := id rfl
@[simp] theorem modPins_put (f) : s.modPins f = s.putPins (f s.pins) := id rfl
@[simp] theorem modSeq_put (f) : s.modSeq f = s.putSeq (f s.seq) := id rfl
@[simp] theorem modTherm_put (f) : s.modTherm f = s.putTherm (f s.therm) := id rfl
@[simp] theorem modPat_put (f) : s.modPat f = s.putPat (f s.pat) := id rfl
@[simp] theorem modClk_put (f) : s.modClk f = s.putClk (f s.clk) := id rfl
@[simp] theorem modRate_put (f) : s.modRate f = s.putRate (f s.rate) := id rfl
@[simp] theorem modPace_put (f) : s.modPace f = s.putPace (f s.pace) := id rfl
@[simp] theorem modFLog_put (f) : s.modFLog f = s.putFlog (f s.flog) := id rfl
@[simp] theorem modKeep_put (f) : s.modKeep f = s.putKeep (f s.keep) := id rfl
@[simp] theorem putOrder_order (v) : (s.putOrder v).order = v := id rfl
@[simp] theorem putOrder_regs (v) : (s.putOrder v).regs = s.regs := id rfl
@[simp] theorem putOrder_shadow (v) : (s.putOrder v).shadow = s.shadow := id rfl
@[simp] theorem putOrder_held (v) : (s.putOrder v).held = s.held := id rfl
@[simp] theorem putOrder_sliceDone (v) : (s.putOrder v).sliceDone = s.sliceDone := id rfl
@[simp] theorem putOrder_pins (v) : (s.putOrder v).pins = s.pins := id rfl
@[simp] theorem putOrder_clk (v) : (s.putOrder v).clk = s.clk := id rfl
@[simp] theorem putOrder_rate (v) : (s.putOrder v).rate = s.rate := id rfl
@[simp] theorem putOrder_intc (v) : (s.putOrder v).intc = s.intc := id rfl
@[simp] theorem putOrder_msixMask (v) : (s.putOrder v).msixMask = s.msixMask := id rfl
@[simp] theorem putOrder_msixPend (v) : (s.putOrder v).msixPend = s.msixPend := id rfl
@[simp] theorem putOrder_pace (v) : (s.putOrder v).pace = s.pace := id rfl
@[simp] theorem putOrder_bridgeWait (v) : (s.putOrder v).bridgeWait = s.bridgeWait := id rfl
@[simp] theorem putOrder_seq (v) : (s.putOrder v).seq = s.seq := id rfl
@[simp] theorem putOrder_flog (v) : (s.putOrder v).flog = s.flog := id rfl
@[simp] theorem putOrder_therm (v) : (s.putOrder v).therm = s.therm := id rfl
@[simp] theorem putOrder_keep (v) : (s.putOrder v).keep = s.keep := id rfl
@[simp] theorem putOrder_ham (v) : (s.putOrder v).ham = s.ham := id rfl
@[simp] theorem putOrder_pat (v) : (s.putOrder v).pat = s.pat := id rfl
@[simp] theorem putOrder_plan (v) : (s.putOrder v).plan = s.plan := id rfl
@[simp] theorem putOrder_start (v) : (s.putOrder v).start = s.start := id rfl
@[simp] theorem putOrder_ports (v) : (s.putOrder v).ports = s.ports := id rfl
@[simp] theorem putOrder_lds (v) : (s.putOrder v).lds = s.lds := id rfl
@[simp] theorem putOrder_reqs (v) : (s.putOrder v).reqs = s.reqs := id rfl
@[simp] theorem putOrder_nextReq (v) : (s.putOrder v).nextReq = s.nextReq := id rfl
@[simp] theorem putOrder_cache (v) : (s.putOrder v).cache = s.cache := id rfl
@[simp] theorem putOrder_xlt (v) : (s.putOrder v).xlt = s.xlt := id rfl
@[simp] theorem putOrder_med (v) : (s.putOrder v).med = s.med := id rfl
@[simp] theorem putOrder_coh (v) : (s.putOrder v).coh = s.coh := id rfl
@[simp] theorem putOrder_flush (v) : (s.putOrder v).flush = s.flush := id rfl
@[simp] theorem putOrder_integ (v) : (s.putOrder v).integ = s.integ := id rfl
@[simp] theorem putOrder_dbg (v) : (s.putOrder v).dbg = s.dbg := id rfl
@[simp] theorem putOrder_cip (v) : (s.putOrder v).cip = s.cip := id rfl
@[simp] theorem putOrder_links (v) : (s.putOrder v).links = s.links := id rfl
@[simp] theorem putOrder_carts (v) : (s.putOrder v).carts = s.carts := id rfl
@[simp] theorem putOrder_setId (v) : (s.putOrder v).setId = s.setId := id rfl
@[simp] theorem putOrder_serials (v) : (s.putOrder v).serials = s.serials := id rfl
@[simp] theorem putOrder_spl (v) : (s.putOrder v).spl = s.spl := id rfl
@[simp] theorem putOrder_grp (v) : (s.putOrder v).grp = s.grp := id rfl
@[simp] theorem putOrder_pmc (v) : (s.putOrder v).pmc = s.pmc := id rfl
@[simp] theorem putOrder_smbAddr (v) : (s.putOrder v).smbAddr = s.smbAddr := id rfl
@[simp] theorem putOrder_health (v) : (s.putOrder v).health = s.health := id rfl
@[simp] theorem putOrder_out (v) : (s.putOrder v).out = s.out := id rfl
@[simp] theorem putOrder_free (v) : (s.putOrder v).free = s.free := id rfl
@[simp] theorem putOrder_pending (v) : (s.putOrder v).pending = s.pending := id rfl
@[simp] theorem putOrder_sliceReg (v) : (s.putOrder v).sliceReg = s.sliceReg := id rfl
@[simp] theorem putRegs_order (v) : (s.putRegs v).order = s.order := id rfl
@[simp] theorem putRegs_regs (v) : (s.putRegs v).regs = v := id rfl
@[simp] theorem putRegs_shadow (v) : (s.putRegs v).shadow = s.shadow := id rfl
@[simp] theorem putRegs_held (v) : (s.putRegs v).held = s.held := id rfl
@[simp] theorem putRegs_sliceDone (v) : (s.putRegs v).sliceDone = s.sliceDone := id rfl
@[simp] theorem putRegs_pins (v) : (s.putRegs v).pins = s.pins := id rfl
@[simp] theorem putRegs_clk (v) : (s.putRegs v).clk = s.clk := id rfl
@[simp] theorem putRegs_rate (v) : (s.putRegs v).rate = s.rate := id rfl
@[simp] theorem putRegs_intc (v) : (s.putRegs v).intc = s.intc := id rfl
@[simp] theorem putRegs_msixMask (v) : (s.putRegs v).msixMask = s.msixMask := id rfl
@[simp] theorem putRegs_msixPend (v) : (s.putRegs v).msixPend = s.msixPend := id rfl
@[simp] theorem putRegs_pace (v) : (s.putRegs v).pace = s.pace := id rfl
@[simp] theorem putRegs_bridgeWait (v) : (s.putRegs v).bridgeWait = s.bridgeWait := id rfl
@[simp] theorem putRegs_seq (v) : (s.putRegs v).seq = s.seq := id rfl
@[simp] theorem putRegs_flog (v) : (s.putRegs v).flog = s.flog := id rfl
@[simp] theorem putRegs_therm (v) : (s.putRegs v).therm = s.therm := id rfl
@[simp] theorem putRegs_keep (v) : (s.putRegs v).keep = s.keep := id rfl
@[simp] theorem putRegs_ham (v) : (s.putRegs v).ham = s.ham := id rfl
@[simp] theorem putRegs_pat (v) : (s.putRegs v).pat = s.pat := id rfl
@[simp] theorem putRegs_plan (v) : (s.putRegs v).plan = s.plan := id rfl
@[simp] theorem putRegs_start (v) : (s.putRegs v).start = s.start := id rfl
@[simp] theorem putRegs_ports (v) : (s.putRegs v).ports = s.ports := id rfl
@[simp] theorem putRegs_lds (v) : (s.putRegs v).lds = s.lds := id rfl
@[simp] theorem putRegs_reqs (v) : (s.putRegs v).reqs = s.reqs := id rfl
@[simp] theorem putRegs_nextReq (v) : (s.putRegs v).nextReq = s.nextReq := id rfl
@[simp] theorem putRegs_cache (v) : (s.putRegs v).cache = s.cache := id rfl
@[simp] theorem putRegs_xlt (v) : (s.putRegs v).xlt = s.xlt := id rfl
@[simp] theorem putRegs_med (v) : (s.putRegs v).med = s.med := id rfl
@[simp] theorem putRegs_coh (v) : (s.putRegs v).coh = s.coh := id rfl
@[simp] theorem putRegs_flush (v) : (s.putRegs v).flush = s.flush := id rfl
@[simp] theorem putRegs_integ (v) : (s.putRegs v).integ = s.integ := id rfl
@[simp] theorem putRegs_dbg (v) : (s.putRegs v).dbg = s.dbg := id rfl
@[simp] theorem putRegs_cip (v) : (s.putRegs v).cip = s.cip := id rfl
@[simp] theorem putRegs_links (v) : (s.putRegs v).links = s.links := id rfl
@[simp] theorem putRegs_carts (v) : (s.putRegs v).carts = s.carts := id rfl
@[simp] theorem putRegs_setId (v) : (s.putRegs v).setId = s.setId := id rfl
@[simp] theorem putRegs_serials (v) : (s.putRegs v).serials = s.serials := id rfl
@[simp] theorem putRegs_spl (v) : (s.putRegs v).spl = s.spl := id rfl
@[simp] theorem putRegs_grp (v) : (s.putRegs v).grp = s.grp := id rfl
@[simp] theorem putRegs_pmc (v) : (s.putRegs v).pmc = s.pmc := id rfl
@[simp] theorem putRegs_smbAddr (v) : (s.putRegs v).smbAddr = s.smbAddr := id rfl
@[simp] theorem putRegs_health (v) : (s.putRegs v).health = s.health := id rfl
@[simp] theorem putRegs_out (v) : (s.putRegs v).out = s.out := id rfl
@[simp] theorem putRegs_free (v) : (s.putRegs v).free = s.free := id rfl
@[simp] theorem putRegs_pending (v) : (s.putRegs v).pending = s.pending := id rfl
@[simp] theorem putRegs_sliceReg (v) : (s.putRegs v).sliceReg = s.sliceReg := id rfl
@[simp] theorem putShadow_order (v) : (s.putShadow v).order = s.order := id rfl
@[simp] theorem putShadow_regs (v) : (s.putShadow v).regs = s.regs := id rfl
@[simp] theorem putShadow_shadow (v) : (s.putShadow v).shadow = v := id rfl
@[simp] theorem putShadow_held (v) : (s.putShadow v).held = s.held := id rfl
@[simp] theorem putShadow_sliceDone (v) : (s.putShadow v).sliceDone = s.sliceDone := id rfl
@[simp] theorem putShadow_pins (v) : (s.putShadow v).pins = s.pins := id rfl
@[simp] theorem putShadow_clk (v) : (s.putShadow v).clk = s.clk := id rfl
@[simp] theorem putShadow_rate (v) : (s.putShadow v).rate = s.rate := id rfl
@[simp] theorem putShadow_intc (v) : (s.putShadow v).intc = s.intc := id rfl
@[simp] theorem putShadow_msixMask (v) : (s.putShadow v).msixMask = s.msixMask := id rfl
@[simp] theorem putShadow_msixPend (v) : (s.putShadow v).msixPend = s.msixPend := id rfl
@[simp] theorem putShadow_pace (v) : (s.putShadow v).pace = s.pace := id rfl
@[simp] theorem putShadow_bridgeWait (v) : (s.putShadow v).bridgeWait = s.bridgeWait := id rfl
@[simp] theorem putShadow_seq (v) : (s.putShadow v).seq = s.seq := id rfl
@[simp] theorem putShadow_flog (v) : (s.putShadow v).flog = s.flog := id rfl
@[simp] theorem putShadow_therm (v) : (s.putShadow v).therm = s.therm := id rfl
@[simp] theorem putShadow_keep (v) : (s.putShadow v).keep = s.keep := id rfl
@[simp] theorem putShadow_ham (v) : (s.putShadow v).ham = s.ham := id rfl
@[simp] theorem putShadow_pat (v) : (s.putShadow v).pat = s.pat := id rfl
@[simp] theorem putShadow_plan (v) : (s.putShadow v).plan = s.plan := id rfl
@[simp] theorem putShadow_start (v) : (s.putShadow v).start = s.start := id rfl
@[simp] theorem putShadow_ports (v) : (s.putShadow v).ports = s.ports := id rfl
@[simp] theorem putShadow_lds (v) : (s.putShadow v).lds = s.lds := id rfl
@[simp] theorem putShadow_reqs (v) : (s.putShadow v).reqs = s.reqs := id rfl
@[simp] theorem putShadow_nextReq (v) : (s.putShadow v).nextReq = s.nextReq := id rfl
@[simp] theorem putShadow_cache (v) : (s.putShadow v).cache = s.cache := id rfl
@[simp] theorem putShadow_xlt (v) : (s.putShadow v).xlt = s.xlt := id rfl
@[simp] theorem putShadow_med (v) : (s.putShadow v).med = s.med := id rfl
@[simp] theorem putShadow_coh (v) : (s.putShadow v).coh = s.coh := id rfl
@[simp] theorem putShadow_flush (v) : (s.putShadow v).flush = s.flush := id rfl
@[simp] theorem putShadow_integ (v) : (s.putShadow v).integ = s.integ := id rfl
@[simp] theorem putShadow_dbg (v) : (s.putShadow v).dbg = s.dbg := id rfl
@[simp] theorem putShadow_cip (v) : (s.putShadow v).cip = s.cip := id rfl
@[simp] theorem putShadow_links (v) : (s.putShadow v).links = s.links := id rfl
@[simp] theorem putShadow_carts (v) : (s.putShadow v).carts = s.carts := id rfl
@[simp] theorem putShadow_setId (v) : (s.putShadow v).setId = s.setId := id rfl
@[simp] theorem putShadow_serials (v) : (s.putShadow v).serials = s.serials := id rfl
@[simp] theorem putShadow_spl (v) : (s.putShadow v).spl = s.spl := id rfl
@[simp] theorem putShadow_grp (v) : (s.putShadow v).grp = s.grp := id rfl
@[simp] theorem putShadow_pmc (v) : (s.putShadow v).pmc = s.pmc := id rfl
@[simp] theorem putShadow_smbAddr (v) : (s.putShadow v).smbAddr = s.smbAddr := id rfl
@[simp] theorem putShadow_health (v) : (s.putShadow v).health = s.health := id rfl
@[simp] theorem putShadow_out (v) : (s.putShadow v).out = s.out := id rfl
@[simp] theorem putShadow_free (v) : (s.putShadow v).free = s.free := id rfl
@[simp] theorem putShadow_pending (v) : (s.putShadow v).pending = s.pending := id rfl
@[simp] theorem putShadow_sliceReg (v) : (s.putShadow v).sliceReg = s.sliceReg := id rfl
@[simp] theorem putHeld_order (v) : (s.putHeld v).order = s.order := id rfl
@[simp] theorem putHeld_regs (v) : (s.putHeld v).regs = s.regs := id rfl
@[simp] theorem putHeld_shadow (v) : (s.putHeld v).shadow = s.shadow := id rfl
@[simp] theorem putHeld_held (v) : (s.putHeld v).held = v := id rfl
@[simp] theorem putHeld_sliceDone (v) : (s.putHeld v).sliceDone = s.sliceDone := id rfl
@[simp] theorem putHeld_pins (v) : (s.putHeld v).pins = s.pins := id rfl
@[simp] theorem putHeld_clk (v) : (s.putHeld v).clk = s.clk := id rfl
@[simp] theorem putHeld_rate (v) : (s.putHeld v).rate = s.rate := id rfl
@[simp] theorem putHeld_intc (v) : (s.putHeld v).intc = s.intc := id rfl
@[simp] theorem putHeld_msixMask (v) : (s.putHeld v).msixMask = s.msixMask := id rfl
@[simp] theorem putHeld_msixPend (v) : (s.putHeld v).msixPend = s.msixPend := id rfl
@[simp] theorem putHeld_pace (v) : (s.putHeld v).pace = s.pace := id rfl
@[simp] theorem putHeld_bridgeWait (v) : (s.putHeld v).bridgeWait = s.bridgeWait := id rfl
@[simp] theorem putHeld_seq (v) : (s.putHeld v).seq = s.seq := id rfl
@[simp] theorem putHeld_flog (v) : (s.putHeld v).flog = s.flog := id rfl
@[simp] theorem putHeld_therm (v) : (s.putHeld v).therm = s.therm := id rfl
@[simp] theorem putHeld_keep (v) : (s.putHeld v).keep = s.keep := id rfl
@[simp] theorem putHeld_ham (v) : (s.putHeld v).ham = s.ham := id rfl
@[simp] theorem putHeld_pat (v) : (s.putHeld v).pat = s.pat := id rfl
@[simp] theorem putHeld_plan (v) : (s.putHeld v).plan = s.plan := id rfl
@[simp] theorem putHeld_start (v) : (s.putHeld v).start = s.start := id rfl
@[simp] theorem putHeld_ports (v) : (s.putHeld v).ports = s.ports := id rfl
@[simp] theorem putHeld_lds (v) : (s.putHeld v).lds = s.lds := id rfl
@[simp] theorem putHeld_reqs (v) : (s.putHeld v).reqs = s.reqs := id rfl
@[simp] theorem putHeld_nextReq (v) : (s.putHeld v).nextReq = s.nextReq := id rfl
@[simp] theorem putHeld_cache (v) : (s.putHeld v).cache = s.cache := id rfl
@[simp] theorem putHeld_xlt (v) : (s.putHeld v).xlt = s.xlt := id rfl
@[simp] theorem putHeld_med (v) : (s.putHeld v).med = s.med := id rfl
@[simp] theorem putHeld_coh (v) : (s.putHeld v).coh = s.coh := id rfl
@[simp] theorem putHeld_flush (v) : (s.putHeld v).flush = s.flush := id rfl
@[simp] theorem putHeld_integ (v) : (s.putHeld v).integ = s.integ := id rfl
@[simp] theorem putHeld_dbg (v) : (s.putHeld v).dbg = s.dbg := id rfl
@[simp] theorem putHeld_cip (v) : (s.putHeld v).cip = s.cip := id rfl
@[simp] theorem putHeld_links (v) : (s.putHeld v).links = s.links := id rfl
@[simp] theorem putHeld_carts (v) : (s.putHeld v).carts = s.carts := id rfl
@[simp] theorem putHeld_setId (v) : (s.putHeld v).setId = s.setId := id rfl
@[simp] theorem putHeld_serials (v) : (s.putHeld v).serials = s.serials := id rfl
@[simp] theorem putHeld_spl (v) : (s.putHeld v).spl = s.spl := id rfl
@[simp] theorem putHeld_grp (v) : (s.putHeld v).grp = s.grp := id rfl
@[simp] theorem putHeld_pmc (v) : (s.putHeld v).pmc = s.pmc := id rfl
@[simp] theorem putHeld_smbAddr (v) : (s.putHeld v).smbAddr = s.smbAddr := id rfl
@[simp] theorem putHeld_health (v) : (s.putHeld v).health = s.health := id rfl
@[simp] theorem putHeld_out (v) : (s.putHeld v).out = s.out := id rfl
@[simp] theorem putHeld_free (v) : (s.putHeld v).free = s.free := id rfl
@[simp] theorem putHeld_pending (v) : (s.putHeld v).pending = s.pending := id rfl
@[simp] theorem putHeld_sliceReg (v) : (s.putHeld v).sliceReg = s.sliceReg := id rfl
@[simp] theorem putSliceDone_order (v) : (s.putSliceDone v).order = s.order := id rfl
@[simp] theorem putSliceDone_regs (v) : (s.putSliceDone v).regs = s.regs := id rfl
@[simp] theorem putSliceDone_shadow (v) : (s.putSliceDone v).shadow = s.shadow := id rfl
@[simp] theorem putSliceDone_held (v) : (s.putSliceDone v).held = s.held := id rfl
@[simp] theorem putSliceDone_sliceDone (v) : (s.putSliceDone v).sliceDone = v := id rfl
@[simp] theorem putSliceDone_pins (v) : (s.putSliceDone v).pins = s.pins := id rfl
@[simp] theorem putSliceDone_clk (v) : (s.putSliceDone v).clk = s.clk := id rfl
@[simp] theorem putSliceDone_rate (v) : (s.putSliceDone v).rate = s.rate := id rfl
@[simp] theorem putSliceDone_intc (v) : (s.putSliceDone v).intc = s.intc := id rfl
@[simp] theorem putSliceDone_msixMask (v) : (s.putSliceDone v).msixMask = s.msixMask := id rfl
@[simp] theorem putSliceDone_msixPend (v) : (s.putSliceDone v).msixPend = s.msixPend := id rfl
@[simp] theorem putSliceDone_pace (v) : (s.putSliceDone v).pace = s.pace := id rfl
@[simp] theorem putSliceDone_bridgeWait (v) : (s.putSliceDone v).bridgeWait = s.bridgeWait := id rfl
@[simp] theorem putSliceDone_seq (v) : (s.putSliceDone v).seq = s.seq := id rfl
@[simp] theorem putSliceDone_flog (v) : (s.putSliceDone v).flog = s.flog := id rfl
@[simp] theorem putSliceDone_therm (v) : (s.putSliceDone v).therm = s.therm := id rfl
@[simp] theorem putSliceDone_keep (v) : (s.putSliceDone v).keep = s.keep := id rfl
@[simp] theorem putSliceDone_ham (v) : (s.putSliceDone v).ham = s.ham := id rfl
@[simp] theorem putSliceDone_pat (v) : (s.putSliceDone v).pat = s.pat := id rfl
@[simp] theorem putSliceDone_plan (v) : (s.putSliceDone v).plan = s.plan := id rfl
@[simp] theorem putSliceDone_start (v) : (s.putSliceDone v).start = s.start := id rfl
@[simp] theorem putSliceDone_ports (v) : (s.putSliceDone v).ports = s.ports := id rfl
@[simp] theorem putSliceDone_lds (v) : (s.putSliceDone v).lds = s.lds := id rfl
@[simp] theorem putSliceDone_reqs (v) : (s.putSliceDone v).reqs = s.reqs := id rfl
@[simp] theorem putSliceDone_nextReq (v) : (s.putSliceDone v).nextReq = s.nextReq := id rfl
@[simp] theorem putSliceDone_cache (v) : (s.putSliceDone v).cache = s.cache := id rfl
@[simp] theorem putSliceDone_xlt (v) : (s.putSliceDone v).xlt = s.xlt := id rfl
@[simp] theorem putSliceDone_med (v) : (s.putSliceDone v).med = s.med := id rfl
@[simp] theorem putSliceDone_coh (v) : (s.putSliceDone v).coh = s.coh := id rfl
@[simp] theorem putSliceDone_flush (v) : (s.putSliceDone v).flush = s.flush := id rfl
@[simp] theorem putSliceDone_integ (v) : (s.putSliceDone v).integ = s.integ := id rfl
@[simp] theorem putSliceDone_dbg (v) : (s.putSliceDone v).dbg = s.dbg := id rfl
@[simp] theorem putSliceDone_cip (v) : (s.putSliceDone v).cip = s.cip := id rfl
@[simp] theorem putSliceDone_links (v) : (s.putSliceDone v).links = s.links := id rfl
@[simp] theorem putSliceDone_carts (v) : (s.putSliceDone v).carts = s.carts := id rfl
@[simp] theorem putSliceDone_setId (v) : (s.putSliceDone v).setId = s.setId := id rfl
@[simp] theorem putSliceDone_serials (v) : (s.putSliceDone v).serials = s.serials := id rfl
@[simp] theorem putSliceDone_spl (v) : (s.putSliceDone v).spl = s.spl := id rfl
@[simp] theorem putSliceDone_grp (v) : (s.putSliceDone v).grp = s.grp := id rfl
@[simp] theorem putSliceDone_pmc (v) : (s.putSliceDone v).pmc = s.pmc := id rfl
@[simp] theorem putSliceDone_smbAddr (v) : (s.putSliceDone v).smbAddr = s.smbAddr := id rfl
@[simp] theorem putSliceDone_health (v) : (s.putSliceDone v).health = s.health := id rfl
@[simp] theorem putSliceDone_out (v) : (s.putSliceDone v).out = s.out := id rfl
@[simp] theorem putSliceDone_free (v) : (s.putSliceDone v).free = s.free := id rfl
@[simp] theorem putSliceDone_pending (v) : (s.putSliceDone v).pending = s.pending := id rfl
@[simp] theorem putSliceDone_sliceReg (v) : (s.putSliceDone v).sliceReg = s.sliceReg := id rfl
@[simp] theorem putPins_order (v) : (s.putPins v).order = s.order := id rfl
@[simp] theorem putPins_regs (v) : (s.putPins v).regs = s.regs := id rfl
@[simp] theorem putPins_shadow (v) : (s.putPins v).shadow = s.shadow := id rfl
@[simp] theorem putPins_held (v) : (s.putPins v).held = s.held := id rfl
@[simp] theorem putPins_sliceDone (v) : (s.putPins v).sliceDone = s.sliceDone := id rfl
@[simp] theorem putPins_pins (v) : (s.putPins v).pins = v := id rfl
@[simp] theorem putPins_clk (v) : (s.putPins v).clk = s.clk := id rfl
@[simp] theorem putPins_rate (v) : (s.putPins v).rate = s.rate := id rfl
@[simp] theorem putPins_intc (v) : (s.putPins v).intc = s.intc := id rfl
@[simp] theorem putPins_msixMask (v) : (s.putPins v).msixMask = s.msixMask := id rfl
@[simp] theorem putPins_msixPend (v) : (s.putPins v).msixPend = s.msixPend := id rfl
@[simp] theorem putPins_pace (v) : (s.putPins v).pace = s.pace := id rfl
@[simp] theorem putPins_bridgeWait (v) : (s.putPins v).bridgeWait = s.bridgeWait := id rfl
@[simp] theorem putPins_seq (v) : (s.putPins v).seq = s.seq := id rfl
@[simp] theorem putPins_flog (v) : (s.putPins v).flog = s.flog := id rfl
@[simp] theorem putPins_therm (v) : (s.putPins v).therm = s.therm := id rfl
@[simp] theorem putPins_keep (v) : (s.putPins v).keep = s.keep := id rfl
@[simp] theorem putPins_ham (v) : (s.putPins v).ham = s.ham := id rfl
@[simp] theorem putPins_pat (v) : (s.putPins v).pat = s.pat := id rfl
@[simp] theorem putPins_plan (v) : (s.putPins v).plan = s.plan := id rfl
@[simp] theorem putPins_start (v) : (s.putPins v).start = s.start := id rfl
@[simp] theorem putPins_ports (v) : (s.putPins v).ports = s.ports := id rfl
@[simp] theorem putPins_lds (v) : (s.putPins v).lds = s.lds := id rfl
@[simp] theorem putPins_reqs (v) : (s.putPins v).reqs = s.reqs := id rfl
@[simp] theorem putPins_nextReq (v) : (s.putPins v).nextReq = s.nextReq := id rfl
@[simp] theorem putPins_cache (v) : (s.putPins v).cache = s.cache := id rfl
@[simp] theorem putPins_xlt (v) : (s.putPins v).xlt = s.xlt := id rfl
@[simp] theorem putPins_med (v) : (s.putPins v).med = s.med := id rfl
@[simp] theorem putPins_coh (v) : (s.putPins v).coh = s.coh := id rfl
@[simp] theorem putPins_flush (v) : (s.putPins v).flush = s.flush := id rfl
@[simp] theorem putPins_integ (v) : (s.putPins v).integ = s.integ := id rfl
@[simp] theorem putPins_dbg (v) : (s.putPins v).dbg = s.dbg := id rfl
@[simp] theorem putPins_cip (v) : (s.putPins v).cip = s.cip := id rfl
@[simp] theorem putPins_links (v) : (s.putPins v).links = s.links := id rfl
@[simp] theorem putPins_carts (v) : (s.putPins v).carts = s.carts := id rfl
@[simp] theorem putPins_setId (v) : (s.putPins v).setId = s.setId := id rfl
@[simp] theorem putPins_serials (v) : (s.putPins v).serials = s.serials := id rfl
@[simp] theorem putPins_spl (v) : (s.putPins v).spl = s.spl := id rfl
@[simp] theorem putPins_grp (v) : (s.putPins v).grp = s.grp := id rfl
@[simp] theorem putPins_pmc (v) : (s.putPins v).pmc = s.pmc := id rfl
@[simp] theorem putPins_smbAddr (v) : (s.putPins v).smbAddr = s.smbAddr := id rfl
@[simp] theorem putPins_health (v) : (s.putPins v).health = s.health := id rfl
@[simp] theorem putPins_out (v) : (s.putPins v).out = s.out := id rfl
@[simp] theorem putPins_free (v) : (s.putPins v).free = s.free := id rfl
@[simp] theorem putPins_pending (v) : (s.putPins v).pending = s.pending := id rfl
@[simp] theorem putPins_sliceReg (v) : (s.putPins v).sliceReg = s.sliceReg := id rfl
@[simp] theorem putClk_order (v) : (s.putClk v).order = s.order := id rfl
@[simp] theorem putClk_regs (v) : (s.putClk v).regs = s.regs := id rfl
@[simp] theorem putClk_shadow (v) : (s.putClk v).shadow = s.shadow := id rfl
@[simp] theorem putClk_held (v) : (s.putClk v).held = s.held := id rfl
@[simp] theorem putClk_sliceDone (v) : (s.putClk v).sliceDone = s.sliceDone := id rfl
@[simp] theorem putClk_pins (v) : (s.putClk v).pins = s.pins := id rfl
@[simp] theorem putClk_clk (v) : (s.putClk v).clk = v := id rfl
@[simp] theorem putClk_rate (v) : (s.putClk v).rate = s.rate := id rfl
@[simp] theorem putClk_intc (v) : (s.putClk v).intc = s.intc := id rfl
@[simp] theorem putClk_msixMask (v) : (s.putClk v).msixMask = s.msixMask := id rfl
@[simp] theorem putClk_msixPend (v) : (s.putClk v).msixPend = s.msixPend := id rfl
@[simp] theorem putClk_pace (v) : (s.putClk v).pace = s.pace := id rfl
@[simp] theorem putClk_bridgeWait (v) : (s.putClk v).bridgeWait = s.bridgeWait := id rfl
@[simp] theorem putClk_seq (v) : (s.putClk v).seq = s.seq := id rfl
@[simp] theorem putClk_flog (v) : (s.putClk v).flog = s.flog := id rfl
@[simp] theorem putClk_therm (v) : (s.putClk v).therm = s.therm := id rfl
@[simp] theorem putClk_keep (v) : (s.putClk v).keep = s.keep := id rfl
@[simp] theorem putClk_ham (v) : (s.putClk v).ham = s.ham := id rfl
@[simp] theorem putClk_pat (v) : (s.putClk v).pat = s.pat := id rfl
@[simp] theorem putClk_plan (v) : (s.putClk v).plan = s.plan := id rfl
@[simp] theorem putClk_start (v) : (s.putClk v).start = s.start := id rfl
@[simp] theorem putClk_ports (v) : (s.putClk v).ports = s.ports := id rfl
@[simp] theorem putClk_lds (v) : (s.putClk v).lds = s.lds := id rfl
@[simp] theorem putClk_reqs (v) : (s.putClk v).reqs = s.reqs := id rfl
@[simp] theorem putClk_nextReq (v) : (s.putClk v).nextReq = s.nextReq := id rfl
@[simp] theorem putClk_cache (v) : (s.putClk v).cache = s.cache := id rfl
@[simp] theorem putClk_xlt (v) : (s.putClk v).xlt = s.xlt := id rfl
@[simp] theorem putClk_med (v) : (s.putClk v).med = s.med := id rfl
@[simp] theorem putClk_coh (v) : (s.putClk v).coh = s.coh := id rfl
@[simp] theorem putClk_flush (v) : (s.putClk v).flush = s.flush := id rfl
@[simp] theorem putClk_integ (v) : (s.putClk v).integ = s.integ := id rfl
@[simp] theorem putClk_dbg (v) : (s.putClk v).dbg = s.dbg := id rfl
@[simp] theorem putClk_cip (v) : (s.putClk v).cip = s.cip := id rfl
@[simp] theorem putClk_links (v) : (s.putClk v).links = s.links := id rfl
@[simp] theorem putClk_carts (v) : (s.putClk v).carts = s.carts := id rfl
@[simp] theorem putClk_setId (v) : (s.putClk v).setId = s.setId := id rfl
@[simp] theorem putClk_serials (v) : (s.putClk v).serials = s.serials := id rfl
@[simp] theorem putClk_spl (v) : (s.putClk v).spl = s.spl := id rfl
@[simp] theorem putClk_grp (v) : (s.putClk v).grp = s.grp := id rfl
@[simp] theorem putClk_pmc (v) : (s.putClk v).pmc = s.pmc := id rfl
@[simp] theorem putClk_smbAddr (v) : (s.putClk v).smbAddr = s.smbAddr := id rfl
@[simp] theorem putClk_health (v) : (s.putClk v).health = s.health := id rfl
@[simp] theorem putClk_out (v) : (s.putClk v).out = s.out := id rfl
@[simp] theorem putClk_free (v) : (s.putClk v).free = s.free := id rfl
@[simp] theorem putClk_pending (v) : (s.putClk v).pending = s.pending := id rfl
@[simp] theorem putClk_sliceReg (v) : (s.putClk v).sliceReg = s.sliceReg := id rfl
@[simp] theorem putRate_order (v) : (s.putRate v).order = s.order := id rfl
@[simp] theorem putRate_regs (v) : (s.putRate v).regs = s.regs := id rfl
@[simp] theorem putRate_shadow (v) : (s.putRate v).shadow = s.shadow := id rfl
@[simp] theorem putRate_held (v) : (s.putRate v).held = s.held := id rfl
@[simp] theorem putRate_sliceDone (v) : (s.putRate v).sliceDone = s.sliceDone := id rfl
@[simp] theorem putRate_pins (v) : (s.putRate v).pins = s.pins := id rfl
@[simp] theorem putRate_clk (v) : (s.putRate v).clk = s.clk := id rfl
@[simp] theorem putRate_rate (v) : (s.putRate v).rate = v := id rfl
@[simp] theorem putRate_intc (v) : (s.putRate v).intc = s.intc := id rfl
@[simp] theorem putRate_msixMask (v) : (s.putRate v).msixMask = s.msixMask := id rfl
@[simp] theorem putRate_msixPend (v) : (s.putRate v).msixPend = s.msixPend := id rfl
@[simp] theorem putRate_pace (v) : (s.putRate v).pace = s.pace := id rfl
@[simp] theorem putRate_bridgeWait (v) : (s.putRate v).bridgeWait = s.bridgeWait := id rfl
@[simp] theorem putRate_seq (v) : (s.putRate v).seq = s.seq := id rfl
@[simp] theorem putRate_flog (v) : (s.putRate v).flog = s.flog := id rfl
@[simp] theorem putRate_therm (v) : (s.putRate v).therm = s.therm := id rfl
@[simp] theorem putRate_keep (v) : (s.putRate v).keep = s.keep := id rfl
@[simp] theorem putRate_ham (v) : (s.putRate v).ham = s.ham := id rfl
@[simp] theorem putRate_pat (v) : (s.putRate v).pat = s.pat := id rfl
@[simp] theorem putRate_plan (v) : (s.putRate v).plan = s.plan := id rfl
@[simp] theorem putRate_start (v) : (s.putRate v).start = s.start := id rfl
@[simp] theorem putRate_ports (v) : (s.putRate v).ports = s.ports := id rfl
@[simp] theorem putRate_lds (v) : (s.putRate v).lds = s.lds := id rfl
@[simp] theorem putRate_reqs (v) : (s.putRate v).reqs = s.reqs := id rfl
@[simp] theorem putRate_nextReq (v) : (s.putRate v).nextReq = s.nextReq := id rfl
@[simp] theorem putRate_cache (v) : (s.putRate v).cache = s.cache := id rfl
@[simp] theorem putRate_xlt (v) : (s.putRate v).xlt = s.xlt := id rfl
@[simp] theorem putRate_med (v) : (s.putRate v).med = s.med := id rfl
@[simp] theorem putRate_coh (v) : (s.putRate v).coh = s.coh := id rfl
@[simp] theorem putRate_flush (v) : (s.putRate v).flush = s.flush := id rfl
@[simp] theorem putRate_integ (v) : (s.putRate v).integ = s.integ := id rfl
@[simp] theorem putRate_dbg (v) : (s.putRate v).dbg = s.dbg := id rfl
@[simp] theorem putRate_cip (v) : (s.putRate v).cip = s.cip := id rfl
@[simp] theorem putRate_links (v) : (s.putRate v).links = s.links := id rfl
@[simp] theorem putRate_carts (v) : (s.putRate v).carts = s.carts := id rfl
@[simp] theorem putRate_setId (v) : (s.putRate v).setId = s.setId := id rfl
@[simp] theorem putRate_serials (v) : (s.putRate v).serials = s.serials := id rfl
@[simp] theorem putRate_spl (v) : (s.putRate v).spl = s.spl := id rfl
@[simp] theorem putRate_grp (v) : (s.putRate v).grp = s.grp := id rfl
@[simp] theorem putRate_pmc (v) : (s.putRate v).pmc = s.pmc := id rfl
@[simp] theorem putRate_smbAddr (v) : (s.putRate v).smbAddr = s.smbAddr := id rfl
@[simp] theorem putRate_health (v) : (s.putRate v).health = s.health := id rfl
@[simp] theorem putRate_out (v) : (s.putRate v).out = s.out := id rfl
@[simp] theorem putRate_free (v) : (s.putRate v).free = s.free := id rfl
@[simp] theorem putRate_pending (v) : (s.putRate v).pending = s.pending := id rfl
@[simp] theorem putRate_sliceReg (v) : (s.putRate v).sliceReg = s.sliceReg := id rfl
@[simp] theorem putIntc_order (v) : (s.putIntc v).order = s.order := id rfl
@[simp] theorem putIntc_regs (v) : (s.putIntc v).regs = s.regs := id rfl
@[simp] theorem putIntc_shadow (v) : (s.putIntc v).shadow = s.shadow := id rfl
@[simp] theorem putIntc_held (v) : (s.putIntc v).held = s.held := id rfl
@[simp] theorem putIntc_sliceDone (v) : (s.putIntc v).sliceDone = s.sliceDone := id rfl
@[simp] theorem putIntc_pins (v) : (s.putIntc v).pins = s.pins := id rfl
@[simp] theorem putIntc_clk (v) : (s.putIntc v).clk = s.clk := id rfl
@[simp] theorem putIntc_rate (v) : (s.putIntc v).rate = s.rate := id rfl
@[simp] theorem putIntc_intc (v) : (s.putIntc v).intc = v := id rfl
@[simp] theorem putIntc_msixMask (v) : (s.putIntc v).msixMask = s.msixMask := id rfl
@[simp] theorem putIntc_msixPend (v) : (s.putIntc v).msixPend = s.msixPend := id rfl
@[simp] theorem putIntc_pace (v) : (s.putIntc v).pace = s.pace := id rfl
@[simp] theorem putIntc_bridgeWait (v) : (s.putIntc v).bridgeWait = s.bridgeWait := id rfl
@[simp] theorem putIntc_seq (v) : (s.putIntc v).seq = s.seq := id rfl
@[simp] theorem putIntc_flog (v) : (s.putIntc v).flog = s.flog := id rfl
@[simp] theorem putIntc_therm (v) : (s.putIntc v).therm = s.therm := id rfl
@[simp] theorem putIntc_keep (v) : (s.putIntc v).keep = s.keep := id rfl
@[simp] theorem putIntc_ham (v) : (s.putIntc v).ham = s.ham := id rfl
@[simp] theorem putIntc_pat (v) : (s.putIntc v).pat = s.pat := id rfl
@[simp] theorem putIntc_plan (v) : (s.putIntc v).plan = s.plan := id rfl
@[simp] theorem putIntc_start (v) : (s.putIntc v).start = s.start := id rfl
@[simp] theorem putIntc_ports (v) : (s.putIntc v).ports = s.ports := id rfl
@[simp] theorem putIntc_lds (v) : (s.putIntc v).lds = s.lds := id rfl
@[simp] theorem putIntc_reqs (v) : (s.putIntc v).reqs = s.reqs := id rfl
@[simp] theorem putIntc_nextReq (v) : (s.putIntc v).nextReq = s.nextReq := id rfl
@[simp] theorem putIntc_cache (v) : (s.putIntc v).cache = s.cache := id rfl
@[simp] theorem putIntc_xlt (v) : (s.putIntc v).xlt = s.xlt := id rfl
@[simp] theorem putIntc_med (v) : (s.putIntc v).med = s.med := id rfl
@[simp] theorem putIntc_coh (v) : (s.putIntc v).coh = s.coh := id rfl
@[simp] theorem putIntc_flush (v) : (s.putIntc v).flush = s.flush := id rfl
@[simp] theorem putIntc_integ (v) : (s.putIntc v).integ = s.integ := id rfl
@[simp] theorem putIntc_dbg (v) : (s.putIntc v).dbg = s.dbg := id rfl
@[simp] theorem putIntc_cip (v) : (s.putIntc v).cip = s.cip := id rfl
@[simp] theorem putIntc_links (v) : (s.putIntc v).links = s.links := id rfl
@[simp] theorem putIntc_carts (v) : (s.putIntc v).carts = s.carts := id rfl
@[simp] theorem putIntc_setId (v) : (s.putIntc v).setId = s.setId := id rfl
@[simp] theorem putIntc_serials (v) : (s.putIntc v).serials = s.serials := id rfl
@[simp] theorem putIntc_spl (v) : (s.putIntc v).spl = s.spl := id rfl
@[simp] theorem putIntc_grp (v) : (s.putIntc v).grp = s.grp := id rfl
@[simp] theorem putIntc_pmc (v) : (s.putIntc v).pmc = s.pmc := id rfl
@[simp] theorem putIntc_smbAddr (v) : (s.putIntc v).smbAddr = s.smbAddr := id rfl
@[simp] theorem putIntc_health (v) : (s.putIntc v).health = s.health := id rfl
@[simp] theorem putIntc_out (v) : (s.putIntc v).out = s.out := id rfl
@[simp] theorem putIntc_free (v) : (s.putIntc v).free = s.free := id rfl
@[simp] theorem putIntc_pending (v) : (s.putIntc v).pending = s.pending := id rfl
@[simp] theorem putIntc_sliceReg (v) : (s.putIntc v).sliceReg = s.sliceReg := id rfl
@[simp] theorem putMsixMask_order (v) : (s.putMsixMask v).order = s.order := id rfl
@[simp] theorem putMsixMask_regs (v) : (s.putMsixMask v).regs = s.regs := id rfl
@[simp] theorem putMsixMask_shadow (v) : (s.putMsixMask v).shadow = s.shadow := id rfl
@[simp] theorem putMsixMask_held (v) : (s.putMsixMask v).held = s.held := id rfl
@[simp] theorem putMsixMask_sliceDone (v) : (s.putMsixMask v).sliceDone = s.sliceDone := id rfl
@[simp] theorem putMsixMask_pins (v) : (s.putMsixMask v).pins = s.pins := id rfl
@[simp] theorem putMsixMask_clk (v) : (s.putMsixMask v).clk = s.clk := id rfl
@[simp] theorem putMsixMask_rate (v) : (s.putMsixMask v).rate = s.rate := id rfl
@[simp] theorem putMsixMask_intc (v) : (s.putMsixMask v).intc = s.intc := id rfl
@[simp] theorem putMsixMask_msixMask (v) : (s.putMsixMask v).msixMask = v := id rfl
@[simp] theorem putMsixMask_msixPend (v) : (s.putMsixMask v).msixPend = s.msixPend := id rfl
@[simp] theorem putMsixMask_pace (v) : (s.putMsixMask v).pace = s.pace := id rfl
@[simp] theorem putMsixMask_bridgeWait (v) : (s.putMsixMask v).bridgeWait = s.bridgeWait := id rfl
@[simp] theorem putMsixMask_seq (v) : (s.putMsixMask v).seq = s.seq := id rfl
@[simp] theorem putMsixMask_flog (v) : (s.putMsixMask v).flog = s.flog := id rfl
@[simp] theorem putMsixMask_therm (v) : (s.putMsixMask v).therm = s.therm := id rfl
@[simp] theorem putMsixMask_keep (v) : (s.putMsixMask v).keep = s.keep := id rfl
@[simp] theorem putMsixMask_ham (v) : (s.putMsixMask v).ham = s.ham := id rfl
@[simp] theorem putMsixMask_pat (v) : (s.putMsixMask v).pat = s.pat := id rfl
@[simp] theorem putMsixMask_plan (v) : (s.putMsixMask v).plan = s.plan := id rfl
@[simp] theorem putMsixMask_start (v) : (s.putMsixMask v).start = s.start := id rfl
@[simp] theorem putMsixMask_ports (v) : (s.putMsixMask v).ports = s.ports := id rfl
@[simp] theorem putMsixMask_lds (v) : (s.putMsixMask v).lds = s.lds := id rfl
@[simp] theorem putMsixMask_reqs (v) : (s.putMsixMask v).reqs = s.reqs := id rfl
@[simp] theorem putMsixMask_nextReq (v) : (s.putMsixMask v).nextReq = s.nextReq := id rfl
@[simp] theorem putMsixMask_cache (v) : (s.putMsixMask v).cache = s.cache := id rfl
@[simp] theorem putMsixMask_xlt (v) : (s.putMsixMask v).xlt = s.xlt := id rfl
@[simp] theorem putMsixMask_med (v) : (s.putMsixMask v).med = s.med := id rfl
@[simp] theorem putMsixMask_coh (v) : (s.putMsixMask v).coh = s.coh := id rfl
@[simp] theorem putMsixMask_flush (v) : (s.putMsixMask v).flush = s.flush := id rfl
@[simp] theorem putMsixMask_integ (v) : (s.putMsixMask v).integ = s.integ := id rfl
@[simp] theorem putMsixMask_dbg (v) : (s.putMsixMask v).dbg = s.dbg := id rfl
@[simp] theorem putMsixMask_cip (v) : (s.putMsixMask v).cip = s.cip := id rfl
@[simp] theorem putMsixMask_links (v) : (s.putMsixMask v).links = s.links := id rfl
@[simp] theorem putMsixMask_carts (v) : (s.putMsixMask v).carts = s.carts := id rfl
@[simp] theorem putMsixMask_setId (v) : (s.putMsixMask v).setId = s.setId := id rfl
@[simp] theorem putMsixMask_serials (v) : (s.putMsixMask v).serials = s.serials := id rfl
@[simp] theorem putMsixMask_spl (v) : (s.putMsixMask v).spl = s.spl := id rfl
@[simp] theorem putMsixMask_grp (v) : (s.putMsixMask v).grp = s.grp := id rfl
@[simp] theorem putMsixMask_pmc (v) : (s.putMsixMask v).pmc = s.pmc := id rfl
@[simp] theorem putMsixMask_smbAddr (v) : (s.putMsixMask v).smbAddr = s.smbAddr := id rfl
@[simp] theorem putMsixMask_health (v) : (s.putMsixMask v).health = s.health := id rfl
@[simp] theorem putMsixMask_out (v) : (s.putMsixMask v).out = s.out := id rfl
@[simp] theorem putMsixMask_free (v) : (s.putMsixMask v).free = s.free := id rfl
@[simp] theorem putMsixMask_pending (v) : (s.putMsixMask v).pending = s.pending := id rfl
@[simp] theorem putMsixMask_sliceReg (v) : (s.putMsixMask v).sliceReg = s.sliceReg := id rfl
@[simp] theorem putMsixPend_order (v) : (s.putMsixPend v).order = s.order := id rfl
@[simp] theorem putMsixPend_regs (v) : (s.putMsixPend v).regs = s.regs := id rfl
@[simp] theorem putMsixPend_shadow (v) : (s.putMsixPend v).shadow = s.shadow := id rfl
@[simp] theorem putMsixPend_held (v) : (s.putMsixPend v).held = s.held := id rfl
@[simp] theorem putMsixPend_sliceDone (v) : (s.putMsixPend v).sliceDone = s.sliceDone := id rfl
@[simp] theorem putMsixPend_pins (v) : (s.putMsixPend v).pins = s.pins := id rfl
@[simp] theorem putMsixPend_clk (v) : (s.putMsixPend v).clk = s.clk := id rfl
@[simp] theorem putMsixPend_rate (v) : (s.putMsixPend v).rate = s.rate := id rfl
@[simp] theorem putMsixPend_intc (v) : (s.putMsixPend v).intc = s.intc := id rfl
@[simp] theorem putMsixPend_msixMask (v) : (s.putMsixPend v).msixMask = s.msixMask := id rfl
@[simp] theorem putMsixPend_msixPend (v) : (s.putMsixPend v).msixPend = v := id rfl
@[simp] theorem putMsixPend_pace (v) : (s.putMsixPend v).pace = s.pace := id rfl
@[simp] theorem putMsixPend_bridgeWait (v) : (s.putMsixPend v).bridgeWait = s.bridgeWait := id rfl
@[simp] theorem putMsixPend_seq (v) : (s.putMsixPend v).seq = s.seq := id rfl
@[simp] theorem putMsixPend_flog (v) : (s.putMsixPend v).flog = s.flog := id rfl
@[simp] theorem putMsixPend_therm (v) : (s.putMsixPend v).therm = s.therm := id rfl
@[simp] theorem putMsixPend_keep (v) : (s.putMsixPend v).keep = s.keep := id rfl
@[simp] theorem putMsixPend_ham (v) : (s.putMsixPend v).ham = s.ham := id rfl
@[simp] theorem putMsixPend_pat (v) : (s.putMsixPend v).pat = s.pat := id rfl
@[simp] theorem putMsixPend_plan (v) : (s.putMsixPend v).plan = s.plan := id rfl
@[simp] theorem putMsixPend_start (v) : (s.putMsixPend v).start = s.start := id rfl
@[simp] theorem putMsixPend_ports (v) : (s.putMsixPend v).ports = s.ports := id rfl
@[simp] theorem putMsixPend_lds (v) : (s.putMsixPend v).lds = s.lds := id rfl
@[simp] theorem putMsixPend_reqs (v) : (s.putMsixPend v).reqs = s.reqs := id rfl
@[simp] theorem putMsixPend_nextReq (v) : (s.putMsixPend v).nextReq = s.nextReq := id rfl
@[simp] theorem putMsixPend_cache (v) : (s.putMsixPend v).cache = s.cache := id rfl
@[simp] theorem putMsixPend_xlt (v) : (s.putMsixPend v).xlt = s.xlt := id rfl
@[simp] theorem putMsixPend_med (v) : (s.putMsixPend v).med = s.med := id rfl
@[simp] theorem putMsixPend_coh (v) : (s.putMsixPend v).coh = s.coh := id rfl
@[simp] theorem putMsixPend_flush (v) : (s.putMsixPend v).flush = s.flush := id rfl
@[simp] theorem putMsixPend_integ (v) : (s.putMsixPend v).integ = s.integ := id rfl
@[simp] theorem putMsixPend_dbg (v) : (s.putMsixPend v).dbg = s.dbg := id rfl
@[simp] theorem putMsixPend_cip (v) : (s.putMsixPend v).cip = s.cip := id rfl
@[simp] theorem putMsixPend_links (v) : (s.putMsixPend v).links = s.links := id rfl
@[simp] theorem putMsixPend_carts (v) : (s.putMsixPend v).carts = s.carts := id rfl
@[simp] theorem putMsixPend_setId (v) : (s.putMsixPend v).setId = s.setId := id rfl
@[simp] theorem putMsixPend_serials (v) : (s.putMsixPend v).serials = s.serials := id rfl
@[simp] theorem putMsixPend_spl (v) : (s.putMsixPend v).spl = s.spl := id rfl
@[simp] theorem putMsixPend_grp (v) : (s.putMsixPend v).grp = s.grp := id rfl
@[simp] theorem putMsixPend_pmc (v) : (s.putMsixPend v).pmc = s.pmc := id rfl
@[simp] theorem putMsixPend_smbAddr (v) : (s.putMsixPend v).smbAddr = s.smbAddr := id rfl
@[simp] theorem putMsixPend_health (v) : (s.putMsixPend v).health = s.health := id rfl
@[simp] theorem putMsixPend_out (v) : (s.putMsixPend v).out = s.out := id rfl
@[simp] theorem putMsixPend_free (v) : (s.putMsixPend v).free = s.free := id rfl
@[simp] theorem putMsixPend_pending (v) : (s.putMsixPend v).pending = s.pending := id rfl
@[simp] theorem putMsixPend_sliceReg (v) : (s.putMsixPend v).sliceReg = s.sliceReg := id rfl
@[simp] theorem putPace_order (v) : (s.putPace v).order = s.order := id rfl
@[simp] theorem putPace_regs (v) : (s.putPace v).regs = s.regs := id rfl
@[simp] theorem putPace_shadow (v) : (s.putPace v).shadow = s.shadow := id rfl
@[simp] theorem putPace_held (v) : (s.putPace v).held = s.held := id rfl
@[simp] theorem putPace_sliceDone (v) : (s.putPace v).sliceDone = s.sliceDone := id rfl
@[simp] theorem putPace_pins (v) : (s.putPace v).pins = s.pins := id rfl
@[simp] theorem putPace_clk (v) : (s.putPace v).clk = s.clk := id rfl
@[simp] theorem putPace_rate (v) : (s.putPace v).rate = s.rate := id rfl
@[simp] theorem putPace_intc (v) : (s.putPace v).intc = s.intc := id rfl
@[simp] theorem putPace_msixMask (v) : (s.putPace v).msixMask = s.msixMask := id rfl
@[simp] theorem putPace_msixPend (v) : (s.putPace v).msixPend = s.msixPend := id rfl
@[simp] theorem putPace_pace (v) : (s.putPace v).pace = v := id rfl
@[simp] theorem putPace_bridgeWait (v) : (s.putPace v).bridgeWait = s.bridgeWait := id rfl
@[simp] theorem putPace_seq (v) : (s.putPace v).seq = s.seq := id rfl
@[simp] theorem putPace_flog (v) : (s.putPace v).flog = s.flog := id rfl
@[simp] theorem putPace_therm (v) : (s.putPace v).therm = s.therm := id rfl
@[simp] theorem putPace_keep (v) : (s.putPace v).keep = s.keep := id rfl
@[simp] theorem putPace_ham (v) : (s.putPace v).ham = s.ham := id rfl
@[simp] theorem putPace_pat (v) : (s.putPace v).pat = s.pat := id rfl
@[simp] theorem putPace_plan (v) : (s.putPace v).plan = s.plan := id rfl
@[simp] theorem putPace_start (v) : (s.putPace v).start = s.start := id rfl
@[simp] theorem putPace_ports (v) : (s.putPace v).ports = s.ports := id rfl
@[simp] theorem putPace_lds (v) : (s.putPace v).lds = s.lds := id rfl
@[simp] theorem putPace_reqs (v) : (s.putPace v).reqs = s.reqs := id rfl
@[simp] theorem putPace_nextReq (v) : (s.putPace v).nextReq = s.nextReq := id rfl
@[simp] theorem putPace_cache (v) : (s.putPace v).cache = s.cache := id rfl
@[simp] theorem putPace_xlt (v) : (s.putPace v).xlt = s.xlt := id rfl
@[simp] theorem putPace_med (v) : (s.putPace v).med = s.med := id rfl
@[simp] theorem putPace_coh (v) : (s.putPace v).coh = s.coh := id rfl
@[simp] theorem putPace_flush (v) : (s.putPace v).flush = s.flush := id rfl
@[simp] theorem putPace_integ (v) : (s.putPace v).integ = s.integ := id rfl
@[simp] theorem putPace_dbg (v) : (s.putPace v).dbg = s.dbg := id rfl
@[simp] theorem putPace_cip (v) : (s.putPace v).cip = s.cip := id rfl
@[simp] theorem putPace_links (v) : (s.putPace v).links = s.links := id rfl
@[simp] theorem putPace_carts (v) : (s.putPace v).carts = s.carts := id rfl
@[simp] theorem putPace_setId (v) : (s.putPace v).setId = s.setId := id rfl
@[simp] theorem putPace_serials (v) : (s.putPace v).serials = s.serials := id rfl
@[simp] theorem putPace_spl (v) : (s.putPace v).spl = s.spl := id rfl
@[simp] theorem putPace_grp (v) : (s.putPace v).grp = s.grp := id rfl
@[simp] theorem putPace_pmc (v) : (s.putPace v).pmc = s.pmc := id rfl
@[simp] theorem putPace_smbAddr (v) : (s.putPace v).smbAddr = s.smbAddr := id rfl
@[simp] theorem putPace_health (v) : (s.putPace v).health = s.health := id rfl
@[simp] theorem putPace_out (v) : (s.putPace v).out = s.out := id rfl
@[simp] theorem putPace_free (v) : (s.putPace v).free = s.free := id rfl
@[simp] theorem putPace_pending (v) : (s.putPace v).pending = s.pending := id rfl
@[simp] theorem putPace_sliceReg (v) : (s.putPace v).sliceReg = s.sliceReg := id rfl
@[simp] theorem putBridgeWait_order (v) : (s.putBridgeWait v).order = s.order := id rfl
@[simp] theorem putBridgeWait_regs (v) : (s.putBridgeWait v).regs = s.regs := id rfl
@[simp] theorem putBridgeWait_shadow (v) : (s.putBridgeWait v).shadow = s.shadow := id rfl
@[simp] theorem putBridgeWait_held (v) : (s.putBridgeWait v).held = s.held := id rfl
@[simp] theorem putBridgeWait_sliceDone (v) : (s.putBridgeWait v).sliceDone = s.sliceDone := id rfl
@[simp] theorem putBridgeWait_pins (v) : (s.putBridgeWait v).pins = s.pins := id rfl
@[simp] theorem putBridgeWait_clk (v) : (s.putBridgeWait v).clk = s.clk := id rfl
@[simp] theorem putBridgeWait_rate (v) : (s.putBridgeWait v).rate = s.rate := id rfl
@[simp] theorem putBridgeWait_intc (v) : (s.putBridgeWait v).intc = s.intc := id rfl
@[simp] theorem putBridgeWait_msixMask (v) : (s.putBridgeWait v).msixMask = s.msixMask := id rfl
@[simp] theorem putBridgeWait_msixPend (v) : (s.putBridgeWait v).msixPend = s.msixPend := id rfl
@[simp] theorem putBridgeWait_pace (v) : (s.putBridgeWait v).pace = s.pace := id rfl
@[simp] theorem putBridgeWait_bridgeWait (v) : (s.putBridgeWait v).bridgeWait = v := id rfl
@[simp] theorem putBridgeWait_seq (v) : (s.putBridgeWait v).seq = s.seq := id rfl
@[simp] theorem putBridgeWait_flog (v) : (s.putBridgeWait v).flog = s.flog := id rfl
@[simp] theorem putBridgeWait_therm (v) : (s.putBridgeWait v).therm = s.therm := id rfl
@[simp] theorem putBridgeWait_keep (v) : (s.putBridgeWait v).keep = s.keep := id rfl
@[simp] theorem putBridgeWait_ham (v) : (s.putBridgeWait v).ham = s.ham := id rfl
@[simp] theorem putBridgeWait_pat (v) : (s.putBridgeWait v).pat = s.pat := id rfl
@[simp] theorem putBridgeWait_plan (v) : (s.putBridgeWait v).plan = s.plan := id rfl
@[simp] theorem putBridgeWait_start (v) : (s.putBridgeWait v).start = s.start := id rfl
@[simp] theorem putBridgeWait_ports (v) : (s.putBridgeWait v).ports = s.ports := id rfl
@[simp] theorem putBridgeWait_lds (v) : (s.putBridgeWait v).lds = s.lds := id rfl
@[simp] theorem putBridgeWait_reqs (v) : (s.putBridgeWait v).reqs = s.reqs := id rfl
@[simp] theorem putBridgeWait_nextReq (v) : (s.putBridgeWait v).nextReq = s.nextReq := id rfl
@[simp] theorem putBridgeWait_cache (v) : (s.putBridgeWait v).cache = s.cache := id rfl
@[simp] theorem putBridgeWait_xlt (v) : (s.putBridgeWait v).xlt = s.xlt := id rfl
@[simp] theorem putBridgeWait_med (v) : (s.putBridgeWait v).med = s.med := id rfl
@[simp] theorem putBridgeWait_coh (v) : (s.putBridgeWait v).coh = s.coh := id rfl
@[simp] theorem putBridgeWait_flush (v) : (s.putBridgeWait v).flush = s.flush := id rfl
@[simp] theorem putBridgeWait_integ (v) : (s.putBridgeWait v).integ = s.integ := id rfl
@[simp] theorem putBridgeWait_dbg (v) : (s.putBridgeWait v).dbg = s.dbg := id rfl
@[simp] theorem putBridgeWait_cip (v) : (s.putBridgeWait v).cip = s.cip := id rfl
@[simp] theorem putBridgeWait_links (v) : (s.putBridgeWait v).links = s.links := id rfl
@[simp] theorem putBridgeWait_carts (v) : (s.putBridgeWait v).carts = s.carts := id rfl
@[simp] theorem putBridgeWait_setId (v) : (s.putBridgeWait v).setId = s.setId := id rfl
@[simp] theorem putBridgeWait_serials (v) : (s.putBridgeWait v).serials = s.serials := id rfl
@[simp] theorem putBridgeWait_spl (v) : (s.putBridgeWait v).spl = s.spl := id rfl
@[simp] theorem putBridgeWait_grp (v) : (s.putBridgeWait v).grp = s.grp := id rfl
@[simp] theorem putBridgeWait_pmc (v) : (s.putBridgeWait v).pmc = s.pmc := id rfl
@[simp] theorem putBridgeWait_smbAddr (v) : (s.putBridgeWait v).smbAddr = s.smbAddr := id rfl
@[simp] theorem putBridgeWait_health (v) : (s.putBridgeWait v).health = s.health := id rfl
@[simp] theorem putBridgeWait_out (v) : (s.putBridgeWait v).out = s.out := id rfl
@[simp] theorem putBridgeWait_free (v) : (s.putBridgeWait v).free = s.free := id rfl
@[simp] theorem putBridgeWait_pending (v) : (s.putBridgeWait v).pending = s.pending := id rfl
@[simp] theorem putBridgeWait_sliceReg (v) : (s.putBridgeWait v).sliceReg = s.sliceReg := id rfl
@[simp] theorem putSeq_order (v) : (s.putSeq v).order = s.order := id rfl
@[simp] theorem putSeq_regs (v) : (s.putSeq v).regs = s.regs := id rfl
@[simp] theorem putSeq_shadow (v) : (s.putSeq v).shadow = s.shadow := id rfl
@[simp] theorem putSeq_held (v) : (s.putSeq v).held = s.held := id rfl
@[simp] theorem putSeq_sliceDone (v) : (s.putSeq v).sliceDone = s.sliceDone := id rfl
@[simp] theorem putSeq_pins (v) : (s.putSeq v).pins = s.pins := id rfl
@[simp] theorem putSeq_clk (v) : (s.putSeq v).clk = s.clk := id rfl
@[simp] theorem putSeq_rate (v) : (s.putSeq v).rate = s.rate := id rfl
@[simp] theorem putSeq_intc (v) : (s.putSeq v).intc = s.intc := id rfl
@[simp] theorem putSeq_msixMask (v) : (s.putSeq v).msixMask = s.msixMask := id rfl
@[simp] theorem putSeq_msixPend (v) : (s.putSeq v).msixPend = s.msixPend := id rfl
@[simp] theorem putSeq_pace (v) : (s.putSeq v).pace = s.pace := id rfl
@[simp] theorem putSeq_bridgeWait (v) : (s.putSeq v).bridgeWait = s.bridgeWait := id rfl
@[simp] theorem putSeq_seq (v) : (s.putSeq v).seq = v := id rfl
@[simp] theorem putSeq_flog (v) : (s.putSeq v).flog = s.flog := id rfl
@[simp] theorem putSeq_therm (v) : (s.putSeq v).therm = s.therm := id rfl
@[simp] theorem putSeq_keep (v) : (s.putSeq v).keep = s.keep := id rfl
@[simp] theorem putSeq_ham (v) : (s.putSeq v).ham = s.ham := id rfl
@[simp] theorem putSeq_pat (v) : (s.putSeq v).pat = s.pat := id rfl
@[simp] theorem putSeq_plan (v) : (s.putSeq v).plan = s.plan := id rfl
@[simp] theorem putSeq_start (v) : (s.putSeq v).start = s.start := id rfl
@[simp] theorem putSeq_ports (v) : (s.putSeq v).ports = s.ports := id rfl
@[simp] theorem putSeq_lds (v) : (s.putSeq v).lds = s.lds := id rfl
@[simp] theorem putSeq_reqs (v) : (s.putSeq v).reqs = s.reqs := id rfl
@[simp] theorem putSeq_nextReq (v) : (s.putSeq v).nextReq = s.nextReq := id rfl
@[simp] theorem putSeq_cache (v) : (s.putSeq v).cache = s.cache := id rfl
@[simp] theorem putSeq_xlt (v) : (s.putSeq v).xlt = s.xlt := id rfl
@[simp] theorem putSeq_med (v) : (s.putSeq v).med = s.med := id rfl
@[simp] theorem putSeq_coh (v) : (s.putSeq v).coh = s.coh := id rfl
@[simp] theorem putSeq_flush (v) : (s.putSeq v).flush = s.flush := id rfl
@[simp] theorem putSeq_integ (v) : (s.putSeq v).integ = s.integ := id rfl
@[simp] theorem putSeq_dbg (v) : (s.putSeq v).dbg = s.dbg := id rfl
@[simp] theorem putSeq_cip (v) : (s.putSeq v).cip = s.cip := id rfl
@[simp] theorem putSeq_links (v) : (s.putSeq v).links = s.links := id rfl
@[simp] theorem putSeq_carts (v) : (s.putSeq v).carts = s.carts := id rfl
@[simp] theorem putSeq_setId (v) : (s.putSeq v).setId = s.setId := id rfl
@[simp] theorem putSeq_serials (v) : (s.putSeq v).serials = s.serials := id rfl
@[simp] theorem putSeq_spl (v) : (s.putSeq v).spl = s.spl := id rfl
@[simp] theorem putSeq_grp (v) : (s.putSeq v).grp = s.grp := id rfl
@[simp] theorem putSeq_pmc (v) : (s.putSeq v).pmc = s.pmc := id rfl
@[simp] theorem putSeq_smbAddr (v) : (s.putSeq v).smbAddr = s.smbAddr := id rfl
@[simp] theorem putSeq_health (v) : (s.putSeq v).health = s.health := id rfl
@[simp] theorem putSeq_out (v) : (s.putSeq v).out = s.out := id rfl
@[simp] theorem putSeq_free (v) : (s.putSeq v).free = s.free := id rfl
@[simp] theorem putSeq_pending (v) : (s.putSeq v).pending = s.pending := id rfl
@[simp] theorem putSeq_sliceReg (v) : (s.putSeq v).sliceReg = s.sliceReg := id rfl
@[simp] theorem putFlog_order (v) : (s.putFlog v).order = s.order := id rfl
@[simp] theorem putFlog_regs (v) : (s.putFlog v).regs = s.regs := id rfl
@[simp] theorem putFlog_shadow (v) : (s.putFlog v).shadow = s.shadow := id rfl
@[simp] theorem putFlog_held (v) : (s.putFlog v).held = s.held := id rfl
@[simp] theorem putFlog_sliceDone (v) : (s.putFlog v).sliceDone = s.sliceDone := id rfl
@[simp] theorem putFlog_pins (v) : (s.putFlog v).pins = s.pins := id rfl
@[simp] theorem putFlog_clk (v) : (s.putFlog v).clk = s.clk := id rfl
@[simp] theorem putFlog_rate (v) : (s.putFlog v).rate = s.rate := id rfl
@[simp] theorem putFlog_intc (v) : (s.putFlog v).intc = s.intc := id rfl
@[simp] theorem putFlog_msixMask (v) : (s.putFlog v).msixMask = s.msixMask := id rfl
@[simp] theorem putFlog_msixPend (v) : (s.putFlog v).msixPend = s.msixPend := id rfl
@[simp] theorem putFlog_pace (v) : (s.putFlog v).pace = s.pace := id rfl
@[simp] theorem putFlog_bridgeWait (v) : (s.putFlog v).bridgeWait = s.bridgeWait := id rfl
@[simp] theorem putFlog_seq (v) : (s.putFlog v).seq = s.seq := id rfl
@[simp] theorem putFlog_flog (v) : (s.putFlog v).flog = v := id rfl
@[simp] theorem putFlog_therm (v) : (s.putFlog v).therm = s.therm := id rfl
@[simp] theorem putFlog_keep (v) : (s.putFlog v).keep = s.keep := id rfl
@[simp] theorem putFlog_ham (v) : (s.putFlog v).ham = s.ham := id rfl
@[simp] theorem putFlog_pat (v) : (s.putFlog v).pat = s.pat := id rfl
@[simp] theorem putFlog_plan (v) : (s.putFlog v).plan = s.plan := id rfl
@[simp] theorem putFlog_start (v) : (s.putFlog v).start = s.start := id rfl
@[simp] theorem putFlog_ports (v) : (s.putFlog v).ports = s.ports := id rfl
@[simp] theorem putFlog_lds (v) : (s.putFlog v).lds = s.lds := id rfl
@[simp] theorem putFlog_reqs (v) : (s.putFlog v).reqs = s.reqs := id rfl
@[simp] theorem putFlog_nextReq (v) : (s.putFlog v).nextReq = s.nextReq := id rfl
@[simp] theorem putFlog_cache (v) : (s.putFlog v).cache = s.cache := id rfl
@[simp] theorem putFlog_xlt (v) : (s.putFlog v).xlt = s.xlt := id rfl
@[simp] theorem putFlog_med (v) : (s.putFlog v).med = s.med := id rfl
@[simp] theorem putFlog_coh (v) : (s.putFlog v).coh = s.coh := id rfl
@[simp] theorem putFlog_flush (v) : (s.putFlog v).flush = s.flush := id rfl
@[simp] theorem putFlog_integ (v) : (s.putFlog v).integ = s.integ := id rfl
@[simp] theorem putFlog_dbg (v) : (s.putFlog v).dbg = s.dbg := id rfl
@[simp] theorem putFlog_cip (v) : (s.putFlog v).cip = s.cip := id rfl
@[simp] theorem putFlog_links (v) : (s.putFlog v).links = s.links := id rfl
@[simp] theorem putFlog_carts (v) : (s.putFlog v).carts = s.carts := id rfl
@[simp] theorem putFlog_setId (v) : (s.putFlog v).setId = s.setId := id rfl
@[simp] theorem putFlog_serials (v) : (s.putFlog v).serials = s.serials := id rfl
@[simp] theorem putFlog_spl (v) : (s.putFlog v).spl = s.spl := id rfl
@[simp] theorem putFlog_grp (v) : (s.putFlog v).grp = s.grp := id rfl
@[simp] theorem putFlog_pmc (v) : (s.putFlog v).pmc = s.pmc := id rfl
@[simp] theorem putFlog_smbAddr (v) : (s.putFlog v).smbAddr = s.smbAddr := id rfl
@[simp] theorem putFlog_health (v) : (s.putFlog v).health = s.health := id rfl
@[simp] theorem putFlog_out (v) : (s.putFlog v).out = s.out := id rfl
@[simp] theorem putFlog_free (v) : (s.putFlog v).free = s.free := id rfl
@[simp] theorem putFlog_pending (v) : (s.putFlog v).pending = s.pending := id rfl
@[simp] theorem putFlog_sliceReg (v) : (s.putFlog v).sliceReg = s.sliceReg := id rfl
@[simp] theorem putTherm_order (v) : (s.putTherm v).order = s.order := id rfl
@[simp] theorem putTherm_regs (v) : (s.putTherm v).regs = s.regs := id rfl
@[simp] theorem putTherm_shadow (v) : (s.putTherm v).shadow = s.shadow := id rfl
@[simp] theorem putTherm_held (v) : (s.putTherm v).held = s.held := id rfl
@[simp] theorem putTherm_sliceDone (v) : (s.putTherm v).sliceDone = s.sliceDone := id rfl
@[simp] theorem putTherm_pins (v) : (s.putTherm v).pins = s.pins := id rfl
@[simp] theorem putTherm_clk (v) : (s.putTherm v).clk = s.clk := id rfl
@[simp] theorem putTherm_rate (v) : (s.putTherm v).rate = s.rate := id rfl
@[simp] theorem putTherm_intc (v) : (s.putTherm v).intc = s.intc := id rfl
@[simp] theorem putTherm_msixMask (v) : (s.putTherm v).msixMask = s.msixMask := id rfl
@[simp] theorem putTherm_msixPend (v) : (s.putTherm v).msixPend = s.msixPend := id rfl
@[simp] theorem putTherm_pace (v) : (s.putTherm v).pace = s.pace := id rfl
@[simp] theorem putTherm_bridgeWait (v) : (s.putTherm v).bridgeWait = s.bridgeWait := id rfl
@[simp] theorem putTherm_seq (v) : (s.putTherm v).seq = s.seq := id rfl
@[simp] theorem putTherm_flog (v) : (s.putTherm v).flog = s.flog := id rfl
@[simp] theorem putTherm_therm (v) : (s.putTherm v).therm = v := id rfl
@[simp] theorem putTherm_keep (v) : (s.putTherm v).keep = s.keep := id rfl
@[simp] theorem putTherm_ham (v) : (s.putTherm v).ham = s.ham := id rfl
@[simp] theorem putTherm_pat (v) : (s.putTherm v).pat = s.pat := id rfl
@[simp] theorem putTherm_plan (v) : (s.putTherm v).plan = s.plan := id rfl
@[simp] theorem putTherm_start (v) : (s.putTherm v).start = s.start := id rfl
@[simp] theorem putTherm_ports (v) : (s.putTherm v).ports = s.ports := id rfl
@[simp] theorem putTherm_lds (v) : (s.putTherm v).lds = s.lds := id rfl
@[simp] theorem putTherm_reqs (v) : (s.putTherm v).reqs = s.reqs := id rfl
@[simp] theorem putTherm_nextReq (v) : (s.putTherm v).nextReq = s.nextReq := id rfl
@[simp] theorem putTherm_cache (v) : (s.putTherm v).cache = s.cache := id rfl
@[simp] theorem putTherm_xlt (v) : (s.putTherm v).xlt = s.xlt := id rfl
@[simp] theorem putTherm_med (v) : (s.putTherm v).med = s.med := id rfl
@[simp] theorem putTherm_coh (v) : (s.putTherm v).coh = s.coh := id rfl
@[simp] theorem putTherm_flush (v) : (s.putTherm v).flush = s.flush := id rfl
@[simp] theorem putTherm_integ (v) : (s.putTherm v).integ = s.integ := id rfl
@[simp] theorem putTherm_dbg (v) : (s.putTherm v).dbg = s.dbg := id rfl
@[simp] theorem putTherm_cip (v) : (s.putTherm v).cip = s.cip := id rfl
@[simp] theorem putTherm_links (v) : (s.putTherm v).links = s.links := id rfl
@[simp] theorem putTherm_carts (v) : (s.putTherm v).carts = s.carts := id rfl
@[simp] theorem putTherm_setId (v) : (s.putTherm v).setId = s.setId := id rfl
@[simp] theorem putTherm_serials (v) : (s.putTherm v).serials = s.serials := id rfl
@[simp] theorem putTherm_spl (v) : (s.putTherm v).spl = s.spl := id rfl
@[simp] theorem putTherm_grp (v) : (s.putTherm v).grp = s.grp := id rfl
@[simp] theorem putTherm_pmc (v) : (s.putTherm v).pmc = s.pmc := id rfl
@[simp] theorem putTherm_smbAddr (v) : (s.putTherm v).smbAddr = s.smbAddr := id rfl
@[simp] theorem putTherm_health (v) : (s.putTherm v).health = s.health := id rfl
@[simp] theorem putTherm_out (v) : (s.putTherm v).out = s.out := id rfl
@[simp] theorem putTherm_free (v) : (s.putTherm v).free = s.free := id rfl
@[simp] theorem putTherm_pending (v) : (s.putTherm v).pending = s.pending := id rfl
@[simp] theorem putTherm_sliceReg (v) : (s.putTherm v).sliceReg = s.sliceReg := id rfl
@[simp] theorem putKeep_order (v) : (s.putKeep v).order = s.order := id rfl
@[simp] theorem putKeep_regs (v) : (s.putKeep v).regs = s.regs := id rfl
@[simp] theorem putKeep_shadow (v) : (s.putKeep v).shadow = s.shadow := id rfl
@[simp] theorem putKeep_held (v) : (s.putKeep v).held = s.held := id rfl
@[simp] theorem putKeep_sliceDone (v) : (s.putKeep v).sliceDone = s.sliceDone := id rfl
@[simp] theorem putKeep_pins (v) : (s.putKeep v).pins = s.pins := id rfl
@[simp] theorem putKeep_clk (v) : (s.putKeep v).clk = s.clk := id rfl
@[simp] theorem putKeep_rate (v) : (s.putKeep v).rate = s.rate := id rfl
@[simp] theorem putKeep_intc (v) : (s.putKeep v).intc = s.intc := id rfl
@[simp] theorem putKeep_msixMask (v) : (s.putKeep v).msixMask = s.msixMask := id rfl
@[simp] theorem putKeep_msixPend (v) : (s.putKeep v).msixPend = s.msixPend := id rfl
@[simp] theorem putKeep_pace (v) : (s.putKeep v).pace = s.pace := id rfl
@[simp] theorem putKeep_bridgeWait (v) : (s.putKeep v).bridgeWait = s.bridgeWait := id rfl
@[simp] theorem putKeep_seq (v) : (s.putKeep v).seq = s.seq := id rfl
@[simp] theorem putKeep_flog (v) : (s.putKeep v).flog = s.flog := id rfl
@[simp] theorem putKeep_therm (v) : (s.putKeep v).therm = s.therm := id rfl
@[simp] theorem putKeep_keep (v) : (s.putKeep v).keep = v := id rfl
@[simp] theorem putKeep_ham (v) : (s.putKeep v).ham = s.ham := id rfl
@[simp] theorem putKeep_pat (v) : (s.putKeep v).pat = s.pat := id rfl
@[simp] theorem putKeep_plan (v) : (s.putKeep v).plan = s.plan := id rfl
@[simp] theorem putKeep_start (v) : (s.putKeep v).start = s.start := id rfl
@[simp] theorem putKeep_ports (v) : (s.putKeep v).ports = s.ports := id rfl
@[simp] theorem putKeep_lds (v) : (s.putKeep v).lds = s.lds := id rfl
@[simp] theorem putKeep_reqs (v) : (s.putKeep v).reqs = s.reqs := id rfl
@[simp] theorem putKeep_nextReq (v) : (s.putKeep v).nextReq = s.nextReq := id rfl
@[simp] theorem putKeep_cache (v) : (s.putKeep v).cache = s.cache := id rfl
@[simp] theorem putKeep_xlt (v) : (s.putKeep v).xlt = s.xlt := id rfl
@[simp] theorem putKeep_med (v) : (s.putKeep v).med = s.med := id rfl
@[simp] theorem putKeep_coh (v) : (s.putKeep v).coh = s.coh := id rfl
@[simp] theorem putKeep_flush (v) : (s.putKeep v).flush = s.flush := id rfl
@[simp] theorem putKeep_integ (v) : (s.putKeep v).integ = s.integ := id rfl
@[simp] theorem putKeep_dbg (v) : (s.putKeep v).dbg = s.dbg := id rfl
@[simp] theorem putKeep_cip (v) : (s.putKeep v).cip = s.cip := id rfl
@[simp] theorem putKeep_links (v) : (s.putKeep v).links = s.links := id rfl
@[simp] theorem putKeep_carts (v) : (s.putKeep v).carts = s.carts := id rfl
@[simp] theorem putKeep_setId (v) : (s.putKeep v).setId = s.setId := id rfl
@[simp] theorem putKeep_serials (v) : (s.putKeep v).serials = s.serials := id rfl
@[simp] theorem putKeep_spl (v) : (s.putKeep v).spl = s.spl := id rfl
@[simp] theorem putKeep_grp (v) : (s.putKeep v).grp = s.grp := id rfl
@[simp] theorem putKeep_pmc (v) : (s.putKeep v).pmc = s.pmc := id rfl
@[simp] theorem putKeep_smbAddr (v) : (s.putKeep v).smbAddr = s.smbAddr := id rfl
@[simp] theorem putKeep_health (v) : (s.putKeep v).health = s.health := id rfl
@[simp] theorem putKeep_out (v) : (s.putKeep v).out = s.out := id rfl
@[simp] theorem putKeep_free (v) : (s.putKeep v).free = s.free := id rfl
@[simp] theorem putKeep_pending (v) : (s.putKeep v).pending = s.pending := id rfl
@[simp] theorem putKeep_sliceReg (v) : (s.putKeep v).sliceReg = s.sliceReg := id rfl
@[simp] theorem putHam_order (v) : (s.putHam v).order = s.order := id rfl
@[simp] theorem putHam_regs (v) : (s.putHam v).regs = s.regs := id rfl
@[simp] theorem putHam_shadow (v) : (s.putHam v).shadow = s.shadow := id rfl
@[simp] theorem putHam_held (v) : (s.putHam v).held = s.held := id rfl
@[simp] theorem putHam_sliceDone (v) : (s.putHam v).sliceDone = s.sliceDone := id rfl
@[simp] theorem putHam_pins (v) : (s.putHam v).pins = s.pins := id rfl
@[simp] theorem putHam_clk (v) : (s.putHam v).clk = s.clk := id rfl
@[simp] theorem putHam_rate (v) : (s.putHam v).rate = s.rate := id rfl
@[simp] theorem putHam_intc (v) : (s.putHam v).intc = s.intc := id rfl
@[simp] theorem putHam_msixMask (v) : (s.putHam v).msixMask = s.msixMask := id rfl
@[simp] theorem putHam_msixPend (v) : (s.putHam v).msixPend = s.msixPend := id rfl
@[simp] theorem putHam_pace (v) : (s.putHam v).pace = s.pace := id rfl
@[simp] theorem putHam_bridgeWait (v) : (s.putHam v).bridgeWait = s.bridgeWait := id rfl
@[simp] theorem putHam_seq (v) : (s.putHam v).seq = s.seq := id rfl
@[simp] theorem putHam_flog (v) : (s.putHam v).flog = s.flog := id rfl
@[simp] theorem putHam_therm (v) : (s.putHam v).therm = s.therm := id rfl
@[simp] theorem putHam_keep (v) : (s.putHam v).keep = s.keep := id rfl
@[simp] theorem putHam_ham (v) : (s.putHam v).ham = v := id rfl
@[simp] theorem putHam_pat (v) : (s.putHam v).pat = s.pat := id rfl
@[simp] theorem putHam_plan (v) : (s.putHam v).plan = s.plan := id rfl
@[simp] theorem putHam_start (v) : (s.putHam v).start = s.start := id rfl
@[simp] theorem putHam_ports (v) : (s.putHam v).ports = s.ports := id rfl
@[simp] theorem putHam_lds (v) : (s.putHam v).lds = s.lds := id rfl
@[simp] theorem putHam_reqs (v) : (s.putHam v).reqs = s.reqs := id rfl
@[simp] theorem putHam_nextReq (v) : (s.putHam v).nextReq = s.nextReq := id rfl
@[simp] theorem putHam_cache (v) : (s.putHam v).cache = s.cache := id rfl
@[simp] theorem putHam_xlt (v) : (s.putHam v).xlt = s.xlt := id rfl
@[simp] theorem putHam_med (v) : (s.putHam v).med = s.med := id rfl
@[simp] theorem putHam_coh (v) : (s.putHam v).coh = s.coh := id rfl
@[simp] theorem putHam_flush (v) : (s.putHam v).flush = s.flush := id rfl
@[simp] theorem putHam_integ (v) : (s.putHam v).integ = s.integ := id rfl
@[simp] theorem putHam_dbg (v) : (s.putHam v).dbg = s.dbg := id rfl
@[simp] theorem putHam_cip (v) : (s.putHam v).cip = s.cip := id rfl
@[simp] theorem putHam_links (v) : (s.putHam v).links = s.links := id rfl
@[simp] theorem putHam_carts (v) : (s.putHam v).carts = s.carts := id rfl
@[simp] theorem putHam_setId (v) : (s.putHam v).setId = s.setId := id rfl
@[simp] theorem putHam_serials (v) : (s.putHam v).serials = s.serials := id rfl
@[simp] theorem putHam_spl (v) : (s.putHam v).spl = s.spl := id rfl
@[simp] theorem putHam_grp (v) : (s.putHam v).grp = s.grp := id rfl
@[simp] theorem putHam_pmc (v) : (s.putHam v).pmc = s.pmc := id rfl
@[simp] theorem putHam_smbAddr (v) : (s.putHam v).smbAddr = s.smbAddr := id rfl
@[simp] theorem putHam_health (v) : (s.putHam v).health = s.health := id rfl
@[simp] theorem putHam_out (v) : (s.putHam v).out = s.out := id rfl
@[simp] theorem putHam_free (v) : (s.putHam v).free = s.free := id rfl
@[simp] theorem putHam_pending (v) : (s.putHam v).pending = s.pending := id rfl
@[simp] theorem putHam_sliceReg (v) : (s.putHam v).sliceReg = s.sliceReg := id rfl
@[simp] theorem putPat_order (v) : (s.putPat v).order = s.order := id rfl
@[simp] theorem putPat_regs (v) : (s.putPat v).regs = s.regs := id rfl
@[simp] theorem putPat_shadow (v) : (s.putPat v).shadow = s.shadow := id rfl
@[simp] theorem putPat_held (v) : (s.putPat v).held = s.held := id rfl
@[simp] theorem putPat_sliceDone (v) : (s.putPat v).sliceDone = s.sliceDone := id rfl
@[simp] theorem putPat_pins (v) : (s.putPat v).pins = s.pins := id rfl
@[simp] theorem putPat_clk (v) : (s.putPat v).clk = s.clk := id rfl
@[simp] theorem putPat_rate (v) : (s.putPat v).rate = s.rate := id rfl
@[simp] theorem putPat_intc (v) : (s.putPat v).intc = s.intc := id rfl
@[simp] theorem putPat_msixMask (v) : (s.putPat v).msixMask = s.msixMask := id rfl
@[simp] theorem putPat_msixPend (v) : (s.putPat v).msixPend = s.msixPend := id rfl
@[simp] theorem putPat_pace (v) : (s.putPat v).pace = s.pace := id rfl
@[simp] theorem putPat_bridgeWait (v) : (s.putPat v).bridgeWait = s.bridgeWait := id rfl
@[simp] theorem putPat_seq (v) : (s.putPat v).seq = s.seq := id rfl
@[simp] theorem putPat_flog (v) : (s.putPat v).flog = s.flog := id rfl
@[simp] theorem putPat_therm (v) : (s.putPat v).therm = s.therm := id rfl
@[simp] theorem putPat_keep (v) : (s.putPat v).keep = s.keep := id rfl
@[simp] theorem putPat_ham (v) : (s.putPat v).ham = s.ham := id rfl
@[simp] theorem putPat_pat (v) : (s.putPat v).pat = v := id rfl
@[simp] theorem putPat_plan (v) : (s.putPat v).plan = s.plan := id rfl
@[simp] theorem putPat_start (v) : (s.putPat v).start = s.start := id rfl
@[simp] theorem putPat_ports (v) : (s.putPat v).ports = s.ports := id rfl
@[simp] theorem putPat_lds (v) : (s.putPat v).lds = s.lds := id rfl
@[simp] theorem putPat_reqs (v) : (s.putPat v).reqs = s.reqs := id rfl
@[simp] theorem putPat_nextReq (v) : (s.putPat v).nextReq = s.nextReq := id rfl
@[simp] theorem putPat_cache (v) : (s.putPat v).cache = s.cache := id rfl
@[simp] theorem putPat_xlt (v) : (s.putPat v).xlt = s.xlt := id rfl
@[simp] theorem putPat_med (v) : (s.putPat v).med = s.med := id rfl
@[simp] theorem putPat_coh (v) : (s.putPat v).coh = s.coh := id rfl
@[simp] theorem putPat_flush (v) : (s.putPat v).flush = s.flush := id rfl
@[simp] theorem putPat_integ (v) : (s.putPat v).integ = s.integ := id rfl
@[simp] theorem putPat_dbg (v) : (s.putPat v).dbg = s.dbg := id rfl
@[simp] theorem putPat_cip (v) : (s.putPat v).cip = s.cip := id rfl
@[simp] theorem putPat_links (v) : (s.putPat v).links = s.links := id rfl
@[simp] theorem putPat_carts (v) : (s.putPat v).carts = s.carts := id rfl
@[simp] theorem putPat_setId (v) : (s.putPat v).setId = s.setId := id rfl
@[simp] theorem putPat_serials (v) : (s.putPat v).serials = s.serials := id rfl
@[simp] theorem putPat_spl (v) : (s.putPat v).spl = s.spl := id rfl
@[simp] theorem putPat_grp (v) : (s.putPat v).grp = s.grp := id rfl
@[simp] theorem putPat_pmc (v) : (s.putPat v).pmc = s.pmc := id rfl
@[simp] theorem putPat_smbAddr (v) : (s.putPat v).smbAddr = s.smbAddr := id rfl
@[simp] theorem putPat_health (v) : (s.putPat v).health = s.health := id rfl
@[simp] theorem putPat_out (v) : (s.putPat v).out = s.out := id rfl
@[simp] theorem putPat_free (v) : (s.putPat v).free = s.free := id rfl
@[simp] theorem putPat_pending (v) : (s.putPat v).pending = s.pending := id rfl
@[simp] theorem putPat_sliceReg (v) : (s.putPat v).sliceReg = s.sliceReg := id rfl
@[simp] theorem putPlan_order (v) : (s.putPlan v).order = s.order := id rfl
@[simp] theorem putPlan_regs (v) : (s.putPlan v).regs = s.regs := id rfl
@[simp] theorem putPlan_shadow (v) : (s.putPlan v).shadow = s.shadow := id rfl
@[simp] theorem putPlan_held (v) : (s.putPlan v).held = s.held := id rfl
@[simp] theorem putPlan_sliceDone (v) : (s.putPlan v).sliceDone = s.sliceDone := id rfl
@[simp] theorem putPlan_pins (v) : (s.putPlan v).pins = s.pins := id rfl
@[simp] theorem putPlan_clk (v) : (s.putPlan v).clk = s.clk := id rfl
@[simp] theorem putPlan_rate (v) : (s.putPlan v).rate = s.rate := id rfl
@[simp] theorem putPlan_intc (v) : (s.putPlan v).intc = s.intc := id rfl
@[simp] theorem putPlan_msixMask (v) : (s.putPlan v).msixMask = s.msixMask := id rfl
@[simp] theorem putPlan_msixPend (v) : (s.putPlan v).msixPend = s.msixPend := id rfl
@[simp] theorem putPlan_pace (v) : (s.putPlan v).pace = s.pace := id rfl
@[simp] theorem putPlan_bridgeWait (v) : (s.putPlan v).bridgeWait = s.bridgeWait := id rfl
@[simp] theorem putPlan_seq (v) : (s.putPlan v).seq = s.seq := id rfl
@[simp] theorem putPlan_flog (v) : (s.putPlan v).flog = s.flog := id rfl
@[simp] theorem putPlan_therm (v) : (s.putPlan v).therm = s.therm := id rfl
@[simp] theorem putPlan_keep (v) : (s.putPlan v).keep = s.keep := id rfl
@[simp] theorem putPlan_ham (v) : (s.putPlan v).ham = s.ham := id rfl
@[simp] theorem putPlan_pat (v) : (s.putPlan v).pat = s.pat := id rfl
@[simp] theorem putPlan_plan (v) : (s.putPlan v).plan = v := id rfl
@[simp] theorem putPlan_start (v) : (s.putPlan v).start = s.start := id rfl
@[simp] theorem putPlan_ports (v) : (s.putPlan v).ports = s.ports := id rfl
@[simp] theorem putPlan_lds (v) : (s.putPlan v).lds = s.lds := id rfl
@[simp] theorem putPlan_reqs (v) : (s.putPlan v).reqs = s.reqs := id rfl
@[simp] theorem putPlan_nextReq (v) : (s.putPlan v).nextReq = s.nextReq := id rfl
@[simp] theorem putPlan_cache (v) : (s.putPlan v).cache = s.cache := id rfl
@[simp] theorem putPlan_xlt (v) : (s.putPlan v).xlt = s.xlt := id rfl
@[simp] theorem putPlan_med (v) : (s.putPlan v).med = s.med := id rfl
@[simp] theorem putPlan_coh (v) : (s.putPlan v).coh = s.coh := id rfl
@[simp] theorem putPlan_flush (v) : (s.putPlan v).flush = s.flush := id rfl
@[simp] theorem putPlan_integ (v) : (s.putPlan v).integ = s.integ := id rfl
@[simp] theorem putPlan_dbg (v) : (s.putPlan v).dbg = s.dbg := id rfl
@[simp] theorem putPlan_cip (v) : (s.putPlan v).cip = s.cip := id rfl
@[simp] theorem putPlan_links (v) : (s.putPlan v).links = s.links := id rfl
@[simp] theorem putPlan_carts (v) : (s.putPlan v).carts = s.carts := id rfl
@[simp] theorem putPlan_setId (v) : (s.putPlan v).setId = s.setId := id rfl
@[simp] theorem putPlan_serials (v) : (s.putPlan v).serials = s.serials := id rfl
@[simp] theorem putPlan_spl (v) : (s.putPlan v).spl = s.spl := id rfl
@[simp] theorem putPlan_grp (v) : (s.putPlan v).grp = s.grp := id rfl
@[simp] theorem putPlan_pmc (v) : (s.putPlan v).pmc = s.pmc := id rfl
@[simp] theorem putPlan_smbAddr (v) : (s.putPlan v).smbAddr = s.smbAddr := id rfl
@[simp] theorem putPlan_health (v) : (s.putPlan v).health = s.health := id rfl
@[simp] theorem putPlan_out (v) : (s.putPlan v).out = s.out := id rfl
@[simp] theorem putPlan_free (v) : (s.putPlan v).free = s.free := id rfl
@[simp] theorem putPlan_pending (v) : (s.putPlan v).pending = s.pending := id rfl
@[simp] theorem putPlan_sliceReg (v) : (s.putPlan v).sliceReg = s.sliceReg := id rfl
@[simp] theorem putStart_order (v) : (s.putStart v).order = s.order := id rfl
@[simp] theorem putStart_regs (v) : (s.putStart v).regs = s.regs := id rfl
@[simp] theorem putStart_shadow (v) : (s.putStart v).shadow = s.shadow := id rfl
@[simp] theorem putStart_held (v) : (s.putStart v).held = s.held := id rfl
@[simp] theorem putStart_sliceDone (v) : (s.putStart v).sliceDone = s.sliceDone := id rfl
@[simp] theorem putStart_pins (v) : (s.putStart v).pins = s.pins := id rfl
@[simp] theorem putStart_clk (v) : (s.putStart v).clk = s.clk := id rfl
@[simp] theorem putStart_rate (v) : (s.putStart v).rate = s.rate := id rfl
@[simp] theorem putStart_intc (v) : (s.putStart v).intc = s.intc := id rfl
@[simp] theorem putStart_msixMask (v) : (s.putStart v).msixMask = s.msixMask := id rfl
@[simp] theorem putStart_msixPend (v) : (s.putStart v).msixPend = s.msixPend := id rfl
@[simp] theorem putStart_pace (v) : (s.putStart v).pace = s.pace := id rfl
@[simp] theorem putStart_bridgeWait (v) : (s.putStart v).bridgeWait = s.bridgeWait := id rfl
@[simp] theorem putStart_seq (v) : (s.putStart v).seq = s.seq := id rfl
@[simp] theorem putStart_flog (v) : (s.putStart v).flog = s.flog := id rfl
@[simp] theorem putStart_therm (v) : (s.putStart v).therm = s.therm := id rfl
@[simp] theorem putStart_keep (v) : (s.putStart v).keep = s.keep := id rfl
@[simp] theorem putStart_ham (v) : (s.putStart v).ham = s.ham := id rfl
@[simp] theorem putStart_pat (v) : (s.putStart v).pat = s.pat := id rfl
@[simp] theorem putStart_plan (v) : (s.putStart v).plan = s.plan := id rfl
@[simp] theorem putStart_start (v) : (s.putStart v).start = v := id rfl
@[simp] theorem putStart_ports (v) : (s.putStart v).ports = s.ports := id rfl
@[simp] theorem putStart_lds (v) : (s.putStart v).lds = s.lds := id rfl
@[simp] theorem putStart_reqs (v) : (s.putStart v).reqs = s.reqs := id rfl
@[simp] theorem putStart_nextReq (v) : (s.putStart v).nextReq = s.nextReq := id rfl
@[simp] theorem putStart_cache (v) : (s.putStart v).cache = s.cache := id rfl
@[simp] theorem putStart_xlt (v) : (s.putStart v).xlt = s.xlt := id rfl
@[simp] theorem putStart_med (v) : (s.putStart v).med = s.med := id rfl
@[simp] theorem putStart_coh (v) : (s.putStart v).coh = s.coh := id rfl
@[simp] theorem putStart_flush (v) : (s.putStart v).flush = s.flush := id rfl
@[simp] theorem putStart_integ (v) : (s.putStart v).integ = s.integ := id rfl
@[simp] theorem putStart_dbg (v) : (s.putStart v).dbg = s.dbg := id rfl
@[simp] theorem putStart_cip (v) : (s.putStart v).cip = s.cip := id rfl
@[simp] theorem putStart_links (v) : (s.putStart v).links = s.links := id rfl
@[simp] theorem putStart_carts (v) : (s.putStart v).carts = s.carts := id rfl
@[simp] theorem putStart_setId (v) : (s.putStart v).setId = s.setId := id rfl
@[simp] theorem putStart_serials (v) : (s.putStart v).serials = s.serials := id rfl
@[simp] theorem putStart_spl (v) : (s.putStart v).spl = s.spl := id rfl
@[simp] theorem putStart_grp (v) : (s.putStart v).grp = s.grp := id rfl
@[simp] theorem putStart_pmc (v) : (s.putStart v).pmc = s.pmc := id rfl
@[simp] theorem putStart_smbAddr (v) : (s.putStart v).smbAddr = s.smbAddr := id rfl
@[simp] theorem putStart_health (v) : (s.putStart v).health = s.health := id rfl
@[simp] theorem putStart_out (v) : (s.putStart v).out = s.out := id rfl
@[simp] theorem putStart_free (v) : (s.putStart v).free = s.free := id rfl
@[simp] theorem putStart_pending (v) : (s.putStart v).pending = s.pending := id rfl
@[simp] theorem putStart_sliceReg (v) : (s.putStart v).sliceReg = s.sliceReg := id rfl
@[simp] theorem putPorts_order (v) : (s.putPorts v).order = s.order := id rfl
@[simp] theorem putPorts_regs (v) : (s.putPorts v).regs = s.regs := id rfl
@[simp] theorem putPorts_shadow (v) : (s.putPorts v).shadow = s.shadow := id rfl
@[simp] theorem putPorts_held (v) : (s.putPorts v).held = s.held := id rfl
@[simp] theorem putPorts_sliceDone (v) : (s.putPorts v).sliceDone = s.sliceDone := id rfl
@[simp] theorem putPorts_pins (v) : (s.putPorts v).pins = s.pins := id rfl
@[simp] theorem putPorts_clk (v) : (s.putPorts v).clk = s.clk := id rfl
@[simp] theorem putPorts_rate (v) : (s.putPorts v).rate = s.rate := id rfl
@[simp] theorem putPorts_intc (v) : (s.putPorts v).intc = s.intc := id rfl
@[simp] theorem putPorts_msixMask (v) : (s.putPorts v).msixMask = s.msixMask := id rfl
@[simp] theorem putPorts_msixPend (v) : (s.putPorts v).msixPend = s.msixPend := id rfl
@[simp] theorem putPorts_pace (v) : (s.putPorts v).pace = s.pace := id rfl
@[simp] theorem putPorts_bridgeWait (v) : (s.putPorts v).bridgeWait = s.bridgeWait := id rfl
@[simp] theorem putPorts_seq (v) : (s.putPorts v).seq = s.seq := id rfl
@[simp] theorem putPorts_flog (v) : (s.putPorts v).flog = s.flog := id rfl
@[simp] theorem putPorts_therm (v) : (s.putPorts v).therm = s.therm := id rfl
@[simp] theorem putPorts_keep (v) : (s.putPorts v).keep = s.keep := id rfl
@[simp] theorem putPorts_ham (v) : (s.putPorts v).ham = s.ham := id rfl
@[simp] theorem putPorts_pat (v) : (s.putPorts v).pat = s.pat := id rfl
@[simp] theorem putPorts_plan (v) : (s.putPorts v).plan = s.plan := id rfl
@[simp] theorem putPorts_start (v) : (s.putPorts v).start = s.start := id rfl
@[simp] theorem putPorts_ports (v) : (s.putPorts v).ports = v := id rfl
@[simp] theorem putPorts_lds (v) : (s.putPorts v).lds = s.lds := id rfl
@[simp] theorem putPorts_reqs (v) : (s.putPorts v).reqs = s.reqs := id rfl
@[simp] theorem putPorts_nextReq (v) : (s.putPorts v).nextReq = s.nextReq := id rfl
@[simp] theorem putPorts_cache (v) : (s.putPorts v).cache = s.cache := id rfl
@[simp] theorem putPorts_xlt (v) : (s.putPorts v).xlt = s.xlt := id rfl
@[simp] theorem putPorts_med (v) : (s.putPorts v).med = s.med := id rfl
@[simp] theorem putPorts_coh (v) : (s.putPorts v).coh = s.coh := id rfl
@[simp] theorem putPorts_flush (v) : (s.putPorts v).flush = s.flush := id rfl
@[simp] theorem putPorts_integ (v) : (s.putPorts v).integ = s.integ := id rfl
@[simp] theorem putPorts_dbg (v) : (s.putPorts v).dbg = s.dbg := id rfl
@[simp] theorem putPorts_cip (v) : (s.putPorts v).cip = s.cip := id rfl
@[simp] theorem putPorts_links (v) : (s.putPorts v).links = s.links := id rfl
@[simp] theorem putPorts_carts (v) : (s.putPorts v).carts = s.carts := id rfl
@[simp] theorem putPorts_setId (v) : (s.putPorts v).setId = s.setId := id rfl
@[simp] theorem putPorts_serials (v) : (s.putPorts v).serials = s.serials := id rfl
@[simp] theorem putPorts_spl (v) : (s.putPorts v).spl = s.spl := id rfl
@[simp] theorem putPorts_grp (v) : (s.putPorts v).grp = s.grp := id rfl
@[simp] theorem putPorts_pmc (v) : (s.putPorts v).pmc = s.pmc := id rfl
@[simp] theorem putPorts_smbAddr (v) : (s.putPorts v).smbAddr = s.smbAddr := id rfl
@[simp] theorem putPorts_health (v) : (s.putPorts v).health = s.health := id rfl
@[simp] theorem putPorts_out (v) : (s.putPorts v).out = s.out := id rfl
@[simp] theorem putPorts_free (v) : (s.putPorts v).free = s.free := id rfl
@[simp] theorem putPorts_pending (v) : (s.putPorts v).pending = s.pending := id rfl
@[simp] theorem putPorts_sliceReg (v) : (s.putPorts v).sliceReg = s.sliceReg := id rfl
@[simp] theorem putLds_order (v) : (s.putLds v).order = s.order := id rfl
@[simp] theorem putLds_regs (v) : (s.putLds v).regs = s.regs := id rfl
@[simp] theorem putLds_shadow (v) : (s.putLds v).shadow = s.shadow := id rfl
@[simp] theorem putLds_held (v) : (s.putLds v).held = s.held := id rfl
@[simp] theorem putLds_sliceDone (v) : (s.putLds v).sliceDone = s.sliceDone := id rfl
@[simp] theorem putLds_pins (v) : (s.putLds v).pins = s.pins := id rfl
@[simp] theorem putLds_clk (v) : (s.putLds v).clk = s.clk := id rfl
@[simp] theorem putLds_rate (v) : (s.putLds v).rate = s.rate := id rfl
@[simp] theorem putLds_intc (v) : (s.putLds v).intc = s.intc := id rfl
@[simp] theorem putLds_msixMask (v) : (s.putLds v).msixMask = s.msixMask := id rfl
@[simp] theorem putLds_msixPend (v) : (s.putLds v).msixPend = s.msixPend := id rfl
@[simp] theorem putLds_pace (v) : (s.putLds v).pace = s.pace := id rfl
@[simp] theorem putLds_bridgeWait (v) : (s.putLds v).bridgeWait = s.bridgeWait := id rfl
@[simp] theorem putLds_seq (v) : (s.putLds v).seq = s.seq := id rfl
@[simp] theorem putLds_flog (v) : (s.putLds v).flog = s.flog := id rfl
@[simp] theorem putLds_therm (v) : (s.putLds v).therm = s.therm := id rfl
@[simp] theorem putLds_keep (v) : (s.putLds v).keep = s.keep := id rfl
@[simp] theorem putLds_ham (v) : (s.putLds v).ham = s.ham := id rfl
@[simp] theorem putLds_pat (v) : (s.putLds v).pat = s.pat := id rfl
@[simp] theorem putLds_plan (v) : (s.putLds v).plan = s.plan := id rfl
@[simp] theorem putLds_start (v) : (s.putLds v).start = s.start := id rfl
@[simp] theorem putLds_ports (v) : (s.putLds v).ports = s.ports := id rfl
@[simp] theorem putLds_lds (v) : (s.putLds v).lds = v := id rfl
@[simp] theorem putLds_reqs (v) : (s.putLds v).reqs = s.reqs := id rfl
@[simp] theorem putLds_nextReq (v) : (s.putLds v).nextReq = s.nextReq := id rfl
@[simp] theorem putLds_cache (v) : (s.putLds v).cache = s.cache := id rfl
@[simp] theorem putLds_xlt (v) : (s.putLds v).xlt = s.xlt := id rfl
@[simp] theorem putLds_med (v) : (s.putLds v).med = s.med := id rfl
@[simp] theorem putLds_coh (v) : (s.putLds v).coh = s.coh := id rfl
@[simp] theorem putLds_flush (v) : (s.putLds v).flush = s.flush := id rfl
@[simp] theorem putLds_integ (v) : (s.putLds v).integ = s.integ := id rfl
@[simp] theorem putLds_dbg (v) : (s.putLds v).dbg = s.dbg := id rfl
@[simp] theorem putLds_cip (v) : (s.putLds v).cip = s.cip := id rfl
@[simp] theorem putLds_links (v) : (s.putLds v).links = s.links := id rfl
@[simp] theorem putLds_carts (v) : (s.putLds v).carts = s.carts := id rfl
@[simp] theorem putLds_setId (v) : (s.putLds v).setId = s.setId := id rfl
@[simp] theorem putLds_serials (v) : (s.putLds v).serials = s.serials := id rfl
@[simp] theorem putLds_spl (v) : (s.putLds v).spl = s.spl := id rfl
@[simp] theorem putLds_grp (v) : (s.putLds v).grp = s.grp := id rfl
@[simp] theorem putLds_pmc (v) : (s.putLds v).pmc = s.pmc := id rfl
@[simp] theorem putLds_smbAddr (v) : (s.putLds v).smbAddr = s.smbAddr := id rfl
@[simp] theorem putLds_health (v) : (s.putLds v).health = s.health := id rfl
@[simp] theorem putLds_out (v) : (s.putLds v).out = s.out := id rfl
@[simp] theorem putLds_free (v) : (s.putLds v).free = s.free := id rfl
@[simp] theorem putLds_pending (v) : (s.putLds v).pending = s.pending := id rfl
@[simp] theorem putLds_sliceReg (v) : (s.putLds v).sliceReg = s.sliceReg := id rfl
@[simp] theorem putReqs_order (v) : (s.putReqs v).order = s.order := id rfl
@[simp] theorem putReqs_regs (v) : (s.putReqs v).regs = s.regs := id rfl
@[simp] theorem putReqs_shadow (v) : (s.putReqs v).shadow = s.shadow := id rfl
@[simp] theorem putReqs_held (v) : (s.putReqs v).held = s.held := id rfl
@[simp] theorem putReqs_sliceDone (v) : (s.putReqs v).sliceDone = s.sliceDone := id rfl
@[simp] theorem putReqs_pins (v) : (s.putReqs v).pins = s.pins := id rfl
@[simp] theorem putReqs_clk (v) : (s.putReqs v).clk = s.clk := id rfl
@[simp] theorem putReqs_rate (v) : (s.putReqs v).rate = s.rate := id rfl
@[simp] theorem putReqs_intc (v) : (s.putReqs v).intc = s.intc := id rfl
@[simp] theorem putReqs_msixMask (v) : (s.putReqs v).msixMask = s.msixMask := id rfl
@[simp] theorem putReqs_msixPend (v) : (s.putReqs v).msixPend = s.msixPend := id rfl
@[simp] theorem putReqs_pace (v) : (s.putReqs v).pace = s.pace := id rfl
@[simp] theorem putReqs_bridgeWait (v) : (s.putReqs v).bridgeWait = s.bridgeWait := id rfl
@[simp] theorem putReqs_seq (v) : (s.putReqs v).seq = s.seq := id rfl
@[simp] theorem putReqs_flog (v) : (s.putReqs v).flog = s.flog := id rfl
@[simp] theorem putReqs_therm (v) : (s.putReqs v).therm = s.therm := id rfl
@[simp] theorem putReqs_keep (v) : (s.putReqs v).keep = s.keep := id rfl
@[simp] theorem putReqs_ham (v) : (s.putReqs v).ham = s.ham := id rfl
@[simp] theorem putReqs_pat (v) : (s.putReqs v).pat = s.pat := id rfl
@[simp] theorem putReqs_plan (v) : (s.putReqs v).plan = s.plan := id rfl
@[simp] theorem putReqs_start (v) : (s.putReqs v).start = s.start := id rfl
@[simp] theorem putReqs_ports (v) : (s.putReqs v).ports = s.ports := id rfl
@[simp] theorem putReqs_lds (v) : (s.putReqs v).lds = s.lds := id rfl
@[simp] theorem putReqs_reqs (v) : (s.putReqs v).reqs = v := id rfl
@[simp] theorem putReqs_nextReq (v) : (s.putReqs v).nextReq = s.nextReq := id rfl
@[simp] theorem putReqs_cache (v) : (s.putReqs v).cache = s.cache := id rfl
@[simp] theorem putReqs_xlt (v) : (s.putReqs v).xlt = s.xlt := id rfl
@[simp] theorem putReqs_med (v) : (s.putReqs v).med = s.med := id rfl
@[simp] theorem putReqs_coh (v) : (s.putReqs v).coh = s.coh := id rfl
@[simp] theorem putReqs_flush (v) : (s.putReqs v).flush = s.flush := id rfl
@[simp] theorem putReqs_integ (v) : (s.putReqs v).integ = s.integ := id rfl
@[simp] theorem putReqs_dbg (v) : (s.putReqs v).dbg = s.dbg := id rfl
@[simp] theorem putReqs_cip (v) : (s.putReqs v).cip = s.cip := id rfl
@[simp] theorem putReqs_links (v) : (s.putReqs v).links = s.links := id rfl
@[simp] theorem putReqs_carts (v) : (s.putReqs v).carts = s.carts := id rfl
@[simp] theorem putReqs_setId (v) : (s.putReqs v).setId = s.setId := id rfl
@[simp] theorem putReqs_serials (v) : (s.putReqs v).serials = s.serials := id rfl
@[simp] theorem putReqs_spl (v) : (s.putReqs v).spl = s.spl := id rfl
@[simp] theorem putReqs_grp (v) : (s.putReqs v).grp = s.grp := id rfl
@[simp] theorem putReqs_pmc (v) : (s.putReqs v).pmc = s.pmc := id rfl
@[simp] theorem putReqs_smbAddr (v) : (s.putReqs v).smbAddr = s.smbAddr := id rfl
@[simp] theorem putReqs_health (v) : (s.putReqs v).health = s.health := id rfl
@[simp] theorem putReqs_out (v) : (s.putReqs v).out = s.out := id rfl
@[simp] theorem putReqs_free (v) : (s.putReqs v).free = s.free := id rfl
@[simp] theorem putReqs_pending (v) : (s.putReqs v).pending = s.pending := id rfl
@[simp] theorem putReqs_sliceReg (v) : (s.putReqs v).sliceReg = s.sliceReg := id rfl
@[simp] theorem putNextReq_order (v) : (s.putNextReq v).order = s.order := id rfl
@[simp] theorem putNextReq_regs (v) : (s.putNextReq v).regs = s.regs := id rfl
@[simp] theorem putNextReq_shadow (v) : (s.putNextReq v).shadow = s.shadow := id rfl
@[simp] theorem putNextReq_held (v) : (s.putNextReq v).held = s.held := id rfl
@[simp] theorem putNextReq_sliceDone (v) : (s.putNextReq v).sliceDone = s.sliceDone := id rfl
@[simp] theorem putNextReq_pins (v) : (s.putNextReq v).pins = s.pins := id rfl
@[simp] theorem putNextReq_clk (v) : (s.putNextReq v).clk = s.clk := id rfl
@[simp] theorem putNextReq_rate (v) : (s.putNextReq v).rate = s.rate := id rfl
@[simp] theorem putNextReq_intc (v) : (s.putNextReq v).intc = s.intc := id rfl
@[simp] theorem putNextReq_msixMask (v) : (s.putNextReq v).msixMask = s.msixMask := id rfl
@[simp] theorem putNextReq_msixPend (v) : (s.putNextReq v).msixPend = s.msixPend := id rfl
@[simp] theorem putNextReq_pace (v) : (s.putNextReq v).pace = s.pace := id rfl
@[simp] theorem putNextReq_bridgeWait (v) : (s.putNextReq v).bridgeWait = s.bridgeWait := id rfl
@[simp] theorem putNextReq_seq (v) : (s.putNextReq v).seq = s.seq := id rfl
@[simp] theorem putNextReq_flog (v) : (s.putNextReq v).flog = s.flog := id rfl
@[simp] theorem putNextReq_therm (v) : (s.putNextReq v).therm = s.therm := id rfl
@[simp] theorem putNextReq_keep (v) : (s.putNextReq v).keep = s.keep := id rfl
@[simp] theorem putNextReq_ham (v) : (s.putNextReq v).ham = s.ham := id rfl
@[simp] theorem putNextReq_pat (v) : (s.putNextReq v).pat = s.pat := id rfl
@[simp] theorem putNextReq_plan (v) : (s.putNextReq v).plan = s.plan := id rfl
@[simp] theorem putNextReq_start (v) : (s.putNextReq v).start = s.start := id rfl
@[simp] theorem putNextReq_ports (v) : (s.putNextReq v).ports = s.ports := id rfl
@[simp] theorem putNextReq_lds (v) : (s.putNextReq v).lds = s.lds := id rfl
@[simp] theorem putNextReq_reqs (v) : (s.putNextReq v).reqs = s.reqs := id rfl
@[simp] theorem putNextReq_nextReq (v) : (s.putNextReq v).nextReq = v := id rfl
@[simp] theorem putNextReq_cache (v) : (s.putNextReq v).cache = s.cache := id rfl
@[simp] theorem putNextReq_xlt (v) : (s.putNextReq v).xlt = s.xlt := id rfl
@[simp] theorem putNextReq_med (v) : (s.putNextReq v).med = s.med := id rfl
@[simp] theorem putNextReq_coh (v) : (s.putNextReq v).coh = s.coh := id rfl
@[simp] theorem putNextReq_flush (v) : (s.putNextReq v).flush = s.flush := id rfl
@[simp] theorem putNextReq_integ (v) : (s.putNextReq v).integ = s.integ := id rfl
@[simp] theorem putNextReq_dbg (v) : (s.putNextReq v).dbg = s.dbg := id rfl
@[simp] theorem putNextReq_cip (v) : (s.putNextReq v).cip = s.cip := id rfl
@[simp] theorem putNextReq_links (v) : (s.putNextReq v).links = s.links := id rfl
@[simp] theorem putNextReq_carts (v) : (s.putNextReq v).carts = s.carts := id rfl
@[simp] theorem putNextReq_setId (v) : (s.putNextReq v).setId = s.setId := id rfl
@[simp] theorem putNextReq_serials (v) : (s.putNextReq v).serials = s.serials := id rfl
@[simp] theorem putNextReq_spl (v) : (s.putNextReq v).spl = s.spl := id rfl
@[simp] theorem putNextReq_grp (v) : (s.putNextReq v).grp = s.grp := id rfl
@[simp] theorem putNextReq_pmc (v) : (s.putNextReq v).pmc = s.pmc := id rfl
@[simp] theorem putNextReq_smbAddr (v) : (s.putNextReq v).smbAddr = s.smbAddr := id rfl
@[simp] theorem putNextReq_health (v) : (s.putNextReq v).health = s.health := id rfl
@[simp] theorem putNextReq_out (v) : (s.putNextReq v).out = s.out := id rfl
@[simp] theorem putNextReq_free (v) : (s.putNextReq v).free = s.free := id rfl
@[simp] theorem putNextReq_pending (v) : (s.putNextReq v).pending = s.pending := id rfl
@[simp] theorem putNextReq_sliceReg (v) : (s.putNextReq v).sliceReg = s.sliceReg := id rfl
@[simp] theorem putCache_order (v) : (s.putCache v).order = s.order := id rfl
@[simp] theorem putCache_regs (v) : (s.putCache v).regs = s.regs := id rfl
@[simp] theorem putCache_shadow (v) : (s.putCache v).shadow = s.shadow := id rfl
@[simp] theorem putCache_held (v) : (s.putCache v).held = s.held := id rfl
@[simp] theorem putCache_sliceDone (v) : (s.putCache v).sliceDone = s.sliceDone := id rfl
@[simp] theorem putCache_pins (v) : (s.putCache v).pins = s.pins := id rfl
@[simp] theorem putCache_clk (v) : (s.putCache v).clk = s.clk := id rfl
@[simp] theorem putCache_rate (v) : (s.putCache v).rate = s.rate := id rfl
@[simp] theorem putCache_intc (v) : (s.putCache v).intc = s.intc := id rfl
@[simp] theorem putCache_msixMask (v) : (s.putCache v).msixMask = s.msixMask := id rfl
@[simp] theorem putCache_msixPend (v) : (s.putCache v).msixPend = s.msixPend := id rfl
@[simp] theorem putCache_pace (v) : (s.putCache v).pace = s.pace := id rfl
@[simp] theorem putCache_bridgeWait (v) : (s.putCache v).bridgeWait = s.bridgeWait := id rfl
@[simp] theorem putCache_seq (v) : (s.putCache v).seq = s.seq := id rfl
@[simp] theorem putCache_flog (v) : (s.putCache v).flog = s.flog := id rfl
@[simp] theorem putCache_therm (v) : (s.putCache v).therm = s.therm := id rfl
@[simp] theorem putCache_keep (v) : (s.putCache v).keep = s.keep := id rfl
@[simp] theorem putCache_ham (v) : (s.putCache v).ham = s.ham := id rfl
@[simp] theorem putCache_pat (v) : (s.putCache v).pat = s.pat := id rfl
@[simp] theorem putCache_plan (v) : (s.putCache v).plan = s.plan := id rfl
@[simp] theorem putCache_start (v) : (s.putCache v).start = s.start := id rfl
@[simp] theorem putCache_ports (v) : (s.putCache v).ports = s.ports := id rfl
@[simp] theorem putCache_lds (v) : (s.putCache v).lds = s.lds := id rfl
@[simp] theorem putCache_reqs (v) : (s.putCache v).reqs = s.reqs := id rfl
@[simp] theorem putCache_nextReq (v) : (s.putCache v).nextReq = s.nextReq := id rfl
@[simp] theorem putCache_cache (v) : (s.putCache v).cache = v := id rfl
@[simp] theorem putCache_xlt (v) : (s.putCache v).xlt = s.xlt := id rfl
@[simp] theorem putCache_med (v) : (s.putCache v).med = s.med := id rfl
@[simp] theorem putCache_coh (v) : (s.putCache v).coh = s.coh := id rfl
@[simp] theorem putCache_flush (v) : (s.putCache v).flush = s.flush := id rfl
@[simp] theorem putCache_integ (v) : (s.putCache v).integ = s.integ := id rfl
@[simp] theorem putCache_dbg (v) : (s.putCache v).dbg = s.dbg := id rfl
@[simp] theorem putCache_cip (v) : (s.putCache v).cip = s.cip := id rfl
@[simp] theorem putCache_links (v) : (s.putCache v).links = s.links := id rfl
@[simp] theorem putCache_carts (v) : (s.putCache v).carts = s.carts := id rfl
@[simp] theorem putCache_setId (v) : (s.putCache v).setId = s.setId := id rfl
@[simp] theorem putCache_serials (v) : (s.putCache v).serials = s.serials := id rfl
@[simp] theorem putCache_spl (v) : (s.putCache v).spl = s.spl := id rfl
@[simp] theorem putCache_grp (v) : (s.putCache v).grp = s.grp := id rfl
@[simp] theorem putCache_pmc (v) : (s.putCache v).pmc = s.pmc := id rfl
@[simp] theorem putCache_smbAddr (v) : (s.putCache v).smbAddr = s.smbAddr := id rfl
@[simp] theorem putCache_health (v) : (s.putCache v).health = s.health := id rfl
@[simp] theorem putCache_out (v) : (s.putCache v).out = s.out := id rfl
@[simp] theorem putCache_free (v) : (s.putCache v).free = s.free := id rfl
@[simp] theorem putCache_pending (v) : (s.putCache v).pending = s.pending := id rfl
@[simp] theorem putCache_sliceReg (v) : (s.putCache v).sliceReg = s.sliceReg := id rfl
@[simp] theorem putXlt_order (v) : (s.putXlt v).order = s.order := id rfl
@[simp] theorem putXlt_regs (v) : (s.putXlt v).regs = s.regs := id rfl
@[simp] theorem putXlt_shadow (v) : (s.putXlt v).shadow = s.shadow := id rfl
@[simp] theorem putXlt_held (v) : (s.putXlt v).held = s.held := id rfl
@[simp] theorem putXlt_sliceDone (v) : (s.putXlt v).sliceDone = s.sliceDone := id rfl
@[simp] theorem putXlt_pins (v) : (s.putXlt v).pins = s.pins := id rfl
@[simp] theorem putXlt_clk (v) : (s.putXlt v).clk = s.clk := id rfl
@[simp] theorem putXlt_rate (v) : (s.putXlt v).rate = s.rate := id rfl
@[simp] theorem putXlt_intc (v) : (s.putXlt v).intc = s.intc := id rfl
@[simp] theorem putXlt_msixMask (v) : (s.putXlt v).msixMask = s.msixMask := id rfl
@[simp] theorem putXlt_msixPend (v) : (s.putXlt v).msixPend = s.msixPend := id rfl
@[simp] theorem putXlt_pace (v) : (s.putXlt v).pace = s.pace := id rfl
@[simp] theorem putXlt_bridgeWait (v) : (s.putXlt v).bridgeWait = s.bridgeWait := id rfl
@[simp] theorem putXlt_seq (v) : (s.putXlt v).seq = s.seq := id rfl
@[simp] theorem putXlt_flog (v) : (s.putXlt v).flog = s.flog := id rfl
@[simp] theorem putXlt_therm (v) : (s.putXlt v).therm = s.therm := id rfl
@[simp] theorem putXlt_keep (v) : (s.putXlt v).keep = s.keep := id rfl
@[simp] theorem putXlt_ham (v) : (s.putXlt v).ham = s.ham := id rfl
@[simp] theorem putXlt_pat (v) : (s.putXlt v).pat = s.pat := id rfl
@[simp] theorem putXlt_plan (v) : (s.putXlt v).plan = s.plan := id rfl
@[simp] theorem putXlt_start (v) : (s.putXlt v).start = s.start := id rfl
@[simp] theorem putXlt_ports (v) : (s.putXlt v).ports = s.ports := id rfl
@[simp] theorem putXlt_lds (v) : (s.putXlt v).lds = s.lds := id rfl
@[simp] theorem putXlt_reqs (v) : (s.putXlt v).reqs = s.reqs := id rfl
@[simp] theorem putXlt_nextReq (v) : (s.putXlt v).nextReq = s.nextReq := id rfl
@[simp] theorem putXlt_cache (v) : (s.putXlt v).cache = s.cache := id rfl
@[simp] theorem putXlt_xlt (v) : (s.putXlt v).xlt = v := id rfl
@[simp] theorem putXlt_med (v) : (s.putXlt v).med = s.med := id rfl
@[simp] theorem putXlt_coh (v) : (s.putXlt v).coh = s.coh := id rfl
@[simp] theorem putXlt_flush (v) : (s.putXlt v).flush = s.flush := id rfl
@[simp] theorem putXlt_integ (v) : (s.putXlt v).integ = s.integ := id rfl
@[simp] theorem putXlt_dbg (v) : (s.putXlt v).dbg = s.dbg := id rfl
@[simp] theorem putXlt_cip (v) : (s.putXlt v).cip = s.cip := id rfl
@[simp] theorem putXlt_links (v) : (s.putXlt v).links = s.links := id rfl
@[simp] theorem putXlt_carts (v) : (s.putXlt v).carts = s.carts := id rfl
@[simp] theorem putXlt_setId (v) : (s.putXlt v).setId = s.setId := id rfl
@[simp] theorem putXlt_serials (v) : (s.putXlt v).serials = s.serials := id rfl
@[simp] theorem putXlt_spl (v) : (s.putXlt v).spl = s.spl := id rfl
@[simp] theorem putXlt_grp (v) : (s.putXlt v).grp = s.grp := id rfl
@[simp] theorem putXlt_pmc (v) : (s.putXlt v).pmc = s.pmc := id rfl
@[simp] theorem putXlt_smbAddr (v) : (s.putXlt v).smbAddr = s.smbAddr := id rfl
@[simp] theorem putXlt_health (v) : (s.putXlt v).health = s.health := id rfl
@[simp] theorem putXlt_out (v) : (s.putXlt v).out = s.out := id rfl
@[simp] theorem putXlt_free (v) : (s.putXlt v).free = s.free := id rfl
@[simp] theorem putXlt_pending (v) : (s.putXlt v).pending = s.pending := id rfl
@[simp] theorem putXlt_sliceReg (v) : (s.putXlt v).sliceReg = s.sliceReg := id rfl
@[simp] theorem putMed_order (v) : (s.putMed v).order = s.order := id rfl
@[simp] theorem putMed_regs (v) : (s.putMed v).regs = s.regs := id rfl
@[simp] theorem putMed_shadow (v) : (s.putMed v).shadow = s.shadow := id rfl
@[simp] theorem putMed_held (v) : (s.putMed v).held = s.held := id rfl
@[simp] theorem putMed_sliceDone (v) : (s.putMed v).sliceDone = s.sliceDone := id rfl
@[simp] theorem putMed_pins (v) : (s.putMed v).pins = s.pins := id rfl
@[simp] theorem putMed_clk (v) : (s.putMed v).clk = s.clk := id rfl
@[simp] theorem putMed_rate (v) : (s.putMed v).rate = s.rate := id rfl
@[simp] theorem putMed_intc (v) : (s.putMed v).intc = s.intc := id rfl
@[simp] theorem putMed_msixMask (v) : (s.putMed v).msixMask = s.msixMask := id rfl
@[simp] theorem putMed_msixPend (v) : (s.putMed v).msixPend = s.msixPend := id rfl
@[simp] theorem putMed_pace (v) : (s.putMed v).pace = s.pace := id rfl
@[simp] theorem putMed_bridgeWait (v) : (s.putMed v).bridgeWait = s.bridgeWait := id rfl
@[simp] theorem putMed_seq (v) : (s.putMed v).seq = s.seq := id rfl
@[simp] theorem putMed_flog (v) : (s.putMed v).flog = s.flog := id rfl
@[simp] theorem putMed_therm (v) : (s.putMed v).therm = s.therm := id rfl
@[simp] theorem putMed_keep (v) : (s.putMed v).keep = s.keep := id rfl
@[simp] theorem putMed_ham (v) : (s.putMed v).ham = s.ham := id rfl
@[simp] theorem putMed_pat (v) : (s.putMed v).pat = s.pat := id rfl
@[simp] theorem putMed_plan (v) : (s.putMed v).plan = s.plan := id rfl
@[simp] theorem putMed_start (v) : (s.putMed v).start = s.start := id rfl
@[simp] theorem putMed_ports (v) : (s.putMed v).ports = s.ports := id rfl
@[simp] theorem putMed_lds (v) : (s.putMed v).lds = s.lds := id rfl
@[simp] theorem putMed_reqs (v) : (s.putMed v).reqs = s.reqs := id rfl
@[simp] theorem putMed_nextReq (v) : (s.putMed v).nextReq = s.nextReq := id rfl
@[simp] theorem putMed_cache (v) : (s.putMed v).cache = s.cache := id rfl
@[simp] theorem putMed_xlt (v) : (s.putMed v).xlt = s.xlt := id rfl
@[simp] theorem putMed_med (v) : (s.putMed v).med = v := id rfl
@[simp] theorem putMed_coh (v) : (s.putMed v).coh = s.coh := id rfl
@[simp] theorem putMed_flush (v) : (s.putMed v).flush = s.flush := id rfl
@[simp] theorem putMed_integ (v) : (s.putMed v).integ = s.integ := id rfl
@[simp] theorem putMed_dbg (v) : (s.putMed v).dbg = s.dbg := id rfl
@[simp] theorem putMed_cip (v) : (s.putMed v).cip = s.cip := id rfl
@[simp] theorem putMed_links (v) : (s.putMed v).links = s.links := id rfl
@[simp] theorem putMed_carts (v) : (s.putMed v).carts = s.carts := id rfl
@[simp] theorem putMed_setId (v) : (s.putMed v).setId = s.setId := id rfl
@[simp] theorem putMed_serials (v) : (s.putMed v).serials = s.serials := id rfl
@[simp] theorem putMed_spl (v) : (s.putMed v).spl = s.spl := id rfl
@[simp] theorem putMed_grp (v) : (s.putMed v).grp = s.grp := id rfl
@[simp] theorem putMed_pmc (v) : (s.putMed v).pmc = s.pmc := id rfl
@[simp] theorem putMed_smbAddr (v) : (s.putMed v).smbAddr = s.smbAddr := id rfl
@[simp] theorem putMed_health (v) : (s.putMed v).health = s.health := id rfl
@[simp] theorem putMed_out (v) : (s.putMed v).out = s.out := id rfl
@[simp] theorem putMed_free (v) : (s.putMed v).free = s.free := id rfl
@[simp] theorem putMed_pending (v) : (s.putMed v).pending = s.pending := id rfl
@[simp] theorem putMed_sliceReg (v) : (s.putMed v).sliceReg = s.sliceReg := id rfl
@[simp] theorem putCoh_order (v) : (s.putCoh v).order = s.order := id rfl
@[simp] theorem putCoh_regs (v) : (s.putCoh v).regs = s.regs := id rfl
@[simp] theorem putCoh_shadow (v) : (s.putCoh v).shadow = s.shadow := id rfl
@[simp] theorem putCoh_held (v) : (s.putCoh v).held = s.held := id rfl
@[simp] theorem putCoh_sliceDone (v) : (s.putCoh v).sliceDone = s.sliceDone := id rfl
@[simp] theorem putCoh_pins (v) : (s.putCoh v).pins = s.pins := id rfl
@[simp] theorem putCoh_clk (v) : (s.putCoh v).clk = s.clk := id rfl
@[simp] theorem putCoh_rate (v) : (s.putCoh v).rate = s.rate := id rfl
@[simp] theorem putCoh_intc (v) : (s.putCoh v).intc = s.intc := id rfl
@[simp] theorem putCoh_msixMask (v) : (s.putCoh v).msixMask = s.msixMask := id rfl
@[simp] theorem putCoh_msixPend (v) : (s.putCoh v).msixPend = s.msixPend := id rfl
@[simp] theorem putCoh_pace (v) : (s.putCoh v).pace = s.pace := id rfl
@[simp] theorem putCoh_bridgeWait (v) : (s.putCoh v).bridgeWait = s.bridgeWait := id rfl
@[simp] theorem putCoh_seq (v) : (s.putCoh v).seq = s.seq := id rfl
@[simp] theorem putCoh_flog (v) : (s.putCoh v).flog = s.flog := id rfl
@[simp] theorem putCoh_therm (v) : (s.putCoh v).therm = s.therm := id rfl
@[simp] theorem putCoh_keep (v) : (s.putCoh v).keep = s.keep := id rfl
@[simp] theorem putCoh_ham (v) : (s.putCoh v).ham = s.ham := id rfl
@[simp] theorem putCoh_pat (v) : (s.putCoh v).pat = s.pat := id rfl
@[simp] theorem putCoh_plan (v) : (s.putCoh v).plan = s.plan := id rfl
@[simp] theorem putCoh_start (v) : (s.putCoh v).start = s.start := id rfl
@[simp] theorem putCoh_ports (v) : (s.putCoh v).ports = s.ports := id rfl
@[simp] theorem putCoh_lds (v) : (s.putCoh v).lds = s.lds := id rfl
@[simp] theorem putCoh_reqs (v) : (s.putCoh v).reqs = s.reqs := id rfl
@[simp] theorem putCoh_nextReq (v) : (s.putCoh v).nextReq = s.nextReq := id rfl
@[simp] theorem putCoh_cache (v) : (s.putCoh v).cache = s.cache := id rfl
@[simp] theorem putCoh_xlt (v) : (s.putCoh v).xlt = s.xlt := id rfl
@[simp] theorem putCoh_med (v) : (s.putCoh v).med = s.med := id rfl
@[simp] theorem putCoh_coh (v) : (s.putCoh v).coh = v := id rfl
@[simp] theorem putCoh_flush (v) : (s.putCoh v).flush = s.flush := id rfl
@[simp] theorem putCoh_integ (v) : (s.putCoh v).integ = s.integ := id rfl
@[simp] theorem putCoh_dbg (v) : (s.putCoh v).dbg = s.dbg := id rfl
@[simp] theorem putCoh_cip (v) : (s.putCoh v).cip = s.cip := id rfl
@[simp] theorem putCoh_links (v) : (s.putCoh v).links = s.links := id rfl
@[simp] theorem putCoh_carts (v) : (s.putCoh v).carts = s.carts := id rfl
@[simp] theorem putCoh_setId (v) : (s.putCoh v).setId = s.setId := id rfl
@[simp] theorem putCoh_serials (v) : (s.putCoh v).serials = s.serials := id rfl
@[simp] theorem putCoh_spl (v) : (s.putCoh v).spl = s.spl := id rfl
@[simp] theorem putCoh_grp (v) : (s.putCoh v).grp = s.grp := id rfl
@[simp] theorem putCoh_pmc (v) : (s.putCoh v).pmc = s.pmc := id rfl
@[simp] theorem putCoh_smbAddr (v) : (s.putCoh v).smbAddr = s.smbAddr := id rfl
@[simp] theorem putCoh_health (v) : (s.putCoh v).health = s.health := id rfl
@[simp] theorem putCoh_out (v) : (s.putCoh v).out = s.out := id rfl
@[simp] theorem putCoh_free (v) : (s.putCoh v).free = s.free := id rfl
@[simp] theorem putCoh_pending (v) : (s.putCoh v).pending = s.pending := id rfl
@[simp] theorem putCoh_sliceReg (v) : (s.putCoh v).sliceReg = s.sliceReg := id rfl
@[simp] theorem putFlush_order (v) : (s.putFlush v).order = s.order := id rfl
@[simp] theorem putFlush_regs (v) : (s.putFlush v).regs = s.regs := id rfl
@[simp] theorem putFlush_shadow (v) : (s.putFlush v).shadow = s.shadow := id rfl
@[simp] theorem putFlush_held (v) : (s.putFlush v).held = s.held := id rfl
@[simp] theorem putFlush_sliceDone (v) : (s.putFlush v).sliceDone = s.sliceDone := id rfl
@[simp] theorem putFlush_pins (v) : (s.putFlush v).pins = s.pins := id rfl
@[simp] theorem putFlush_clk (v) : (s.putFlush v).clk = s.clk := id rfl
@[simp] theorem putFlush_rate (v) : (s.putFlush v).rate = s.rate := id rfl
@[simp] theorem putFlush_intc (v) : (s.putFlush v).intc = s.intc := id rfl
@[simp] theorem putFlush_msixMask (v) : (s.putFlush v).msixMask = s.msixMask := id rfl
@[simp] theorem putFlush_msixPend (v) : (s.putFlush v).msixPend = s.msixPend := id rfl
@[simp] theorem putFlush_pace (v) : (s.putFlush v).pace = s.pace := id rfl
@[simp] theorem putFlush_bridgeWait (v) : (s.putFlush v).bridgeWait = s.bridgeWait := id rfl
@[simp] theorem putFlush_seq (v) : (s.putFlush v).seq = s.seq := id rfl
@[simp] theorem putFlush_flog (v) : (s.putFlush v).flog = s.flog := id rfl
@[simp] theorem putFlush_therm (v) : (s.putFlush v).therm = s.therm := id rfl
@[simp] theorem putFlush_keep (v) : (s.putFlush v).keep = s.keep := id rfl
@[simp] theorem putFlush_ham (v) : (s.putFlush v).ham = s.ham := id rfl
@[simp] theorem putFlush_pat (v) : (s.putFlush v).pat = s.pat := id rfl
@[simp] theorem putFlush_plan (v) : (s.putFlush v).plan = s.plan := id rfl
@[simp] theorem putFlush_start (v) : (s.putFlush v).start = s.start := id rfl
@[simp] theorem putFlush_ports (v) : (s.putFlush v).ports = s.ports := id rfl
@[simp] theorem putFlush_lds (v) : (s.putFlush v).lds = s.lds := id rfl
@[simp] theorem putFlush_reqs (v) : (s.putFlush v).reqs = s.reqs := id rfl
@[simp] theorem putFlush_nextReq (v) : (s.putFlush v).nextReq = s.nextReq := id rfl
@[simp] theorem putFlush_cache (v) : (s.putFlush v).cache = s.cache := id rfl
@[simp] theorem putFlush_xlt (v) : (s.putFlush v).xlt = s.xlt := id rfl
@[simp] theorem putFlush_med (v) : (s.putFlush v).med = s.med := id rfl
@[simp] theorem putFlush_coh (v) : (s.putFlush v).coh = s.coh := id rfl
@[simp] theorem putFlush_flush (v) : (s.putFlush v).flush = v := id rfl
@[simp] theorem putFlush_integ (v) : (s.putFlush v).integ = s.integ := id rfl
@[simp] theorem putFlush_dbg (v) : (s.putFlush v).dbg = s.dbg := id rfl
@[simp] theorem putFlush_cip (v) : (s.putFlush v).cip = s.cip := id rfl
@[simp] theorem putFlush_links (v) : (s.putFlush v).links = s.links := id rfl
@[simp] theorem putFlush_carts (v) : (s.putFlush v).carts = s.carts := id rfl
@[simp] theorem putFlush_setId (v) : (s.putFlush v).setId = s.setId := id rfl
@[simp] theorem putFlush_serials (v) : (s.putFlush v).serials = s.serials := id rfl
@[simp] theorem putFlush_spl (v) : (s.putFlush v).spl = s.spl := id rfl
@[simp] theorem putFlush_grp (v) : (s.putFlush v).grp = s.grp := id rfl
@[simp] theorem putFlush_pmc (v) : (s.putFlush v).pmc = s.pmc := id rfl
@[simp] theorem putFlush_smbAddr (v) : (s.putFlush v).smbAddr = s.smbAddr := id rfl
@[simp] theorem putFlush_health (v) : (s.putFlush v).health = s.health := id rfl
@[simp] theorem putFlush_out (v) : (s.putFlush v).out = s.out := id rfl
@[simp] theorem putFlush_free (v) : (s.putFlush v).free = s.free := id rfl
@[simp] theorem putFlush_pending (v) : (s.putFlush v).pending = s.pending := id rfl
@[simp] theorem putFlush_sliceReg (v) : (s.putFlush v).sliceReg = s.sliceReg := id rfl
@[simp] theorem putInteg_order (v) : (s.putInteg v).order = s.order := id rfl
@[simp] theorem putInteg_regs (v) : (s.putInteg v).regs = s.regs := id rfl
@[simp] theorem putInteg_shadow (v) : (s.putInteg v).shadow = s.shadow := id rfl
@[simp] theorem putInteg_held (v) : (s.putInteg v).held = s.held := id rfl
@[simp] theorem putInteg_sliceDone (v) : (s.putInteg v).sliceDone = s.sliceDone := id rfl
@[simp] theorem putInteg_pins (v) : (s.putInteg v).pins = s.pins := id rfl
@[simp] theorem putInteg_clk (v) : (s.putInteg v).clk = s.clk := id rfl
@[simp] theorem putInteg_rate (v) : (s.putInteg v).rate = s.rate := id rfl
@[simp] theorem putInteg_intc (v) : (s.putInteg v).intc = s.intc := id rfl
@[simp] theorem putInteg_msixMask (v) : (s.putInteg v).msixMask = s.msixMask := id rfl
@[simp] theorem putInteg_msixPend (v) : (s.putInteg v).msixPend = s.msixPend := id rfl
@[simp] theorem putInteg_pace (v) : (s.putInteg v).pace = s.pace := id rfl
@[simp] theorem putInteg_bridgeWait (v) : (s.putInteg v).bridgeWait = s.bridgeWait := id rfl
@[simp] theorem putInteg_seq (v) : (s.putInteg v).seq = s.seq := id rfl
@[simp] theorem putInteg_flog (v) : (s.putInteg v).flog = s.flog := id rfl
@[simp] theorem putInteg_therm (v) : (s.putInteg v).therm = s.therm := id rfl
@[simp] theorem putInteg_keep (v) : (s.putInteg v).keep = s.keep := id rfl
@[simp] theorem putInteg_ham (v) : (s.putInteg v).ham = s.ham := id rfl
@[simp] theorem putInteg_pat (v) : (s.putInteg v).pat = s.pat := id rfl
@[simp] theorem putInteg_plan (v) : (s.putInteg v).plan = s.plan := id rfl
@[simp] theorem putInteg_start (v) : (s.putInteg v).start = s.start := id rfl
@[simp] theorem putInteg_ports (v) : (s.putInteg v).ports = s.ports := id rfl
@[simp] theorem putInteg_lds (v) : (s.putInteg v).lds = s.lds := id rfl
@[simp] theorem putInteg_reqs (v) : (s.putInteg v).reqs = s.reqs := id rfl
@[simp] theorem putInteg_nextReq (v) : (s.putInteg v).nextReq = s.nextReq := id rfl
@[simp] theorem putInteg_cache (v) : (s.putInteg v).cache = s.cache := id rfl
@[simp] theorem putInteg_xlt (v) : (s.putInteg v).xlt = s.xlt := id rfl
@[simp] theorem putInteg_med (v) : (s.putInteg v).med = s.med := id rfl
@[simp] theorem putInteg_coh (v) : (s.putInteg v).coh = s.coh := id rfl
@[simp] theorem putInteg_flush (v) : (s.putInteg v).flush = s.flush := id rfl
@[simp] theorem putInteg_integ (v) : (s.putInteg v).integ = v := id rfl
@[simp] theorem putInteg_dbg (v) : (s.putInteg v).dbg = s.dbg := id rfl
@[simp] theorem putInteg_cip (v) : (s.putInteg v).cip = s.cip := id rfl
@[simp] theorem putInteg_links (v) : (s.putInteg v).links = s.links := id rfl
@[simp] theorem putInteg_carts (v) : (s.putInteg v).carts = s.carts := id rfl
@[simp] theorem putInteg_setId (v) : (s.putInteg v).setId = s.setId := id rfl
@[simp] theorem putInteg_serials (v) : (s.putInteg v).serials = s.serials := id rfl
@[simp] theorem putInteg_spl (v) : (s.putInteg v).spl = s.spl := id rfl
@[simp] theorem putInteg_grp (v) : (s.putInteg v).grp = s.grp := id rfl
@[simp] theorem putInteg_pmc (v) : (s.putInteg v).pmc = s.pmc := id rfl
@[simp] theorem putInteg_smbAddr (v) : (s.putInteg v).smbAddr = s.smbAddr := id rfl
@[simp] theorem putInteg_health (v) : (s.putInteg v).health = s.health := id rfl
@[simp] theorem putInteg_out (v) : (s.putInteg v).out = s.out := id rfl
@[simp] theorem putInteg_free (v) : (s.putInteg v).free = s.free := id rfl
@[simp] theorem putInteg_pending (v) : (s.putInteg v).pending = s.pending := id rfl
@[simp] theorem putInteg_sliceReg (v) : (s.putInteg v).sliceReg = s.sliceReg := id rfl
@[simp] theorem putDbg_order (v) : (s.putDbg v).order = s.order := id rfl
@[simp] theorem putDbg_regs (v) : (s.putDbg v).regs = s.regs := id rfl
@[simp] theorem putDbg_shadow (v) : (s.putDbg v).shadow = s.shadow := id rfl
@[simp] theorem putDbg_held (v) : (s.putDbg v).held = s.held := id rfl
@[simp] theorem putDbg_sliceDone (v) : (s.putDbg v).sliceDone = s.sliceDone := id rfl
@[simp] theorem putDbg_pins (v) : (s.putDbg v).pins = s.pins := id rfl
@[simp] theorem putDbg_clk (v) : (s.putDbg v).clk = s.clk := id rfl
@[simp] theorem putDbg_rate (v) : (s.putDbg v).rate = s.rate := id rfl
@[simp] theorem putDbg_intc (v) : (s.putDbg v).intc = s.intc := id rfl
@[simp] theorem putDbg_msixMask (v) : (s.putDbg v).msixMask = s.msixMask := id rfl
@[simp] theorem putDbg_msixPend (v) : (s.putDbg v).msixPend = s.msixPend := id rfl
@[simp] theorem putDbg_pace (v) : (s.putDbg v).pace = s.pace := id rfl
@[simp] theorem putDbg_bridgeWait (v) : (s.putDbg v).bridgeWait = s.bridgeWait := id rfl
@[simp] theorem putDbg_seq (v) : (s.putDbg v).seq = s.seq := id rfl
@[simp] theorem putDbg_flog (v) : (s.putDbg v).flog = s.flog := id rfl
@[simp] theorem putDbg_therm (v) : (s.putDbg v).therm = s.therm := id rfl
@[simp] theorem putDbg_keep (v) : (s.putDbg v).keep = s.keep := id rfl
@[simp] theorem putDbg_ham (v) : (s.putDbg v).ham = s.ham := id rfl
@[simp] theorem putDbg_pat (v) : (s.putDbg v).pat = s.pat := id rfl
@[simp] theorem putDbg_plan (v) : (s.putDbg v).plan = s.plan := id rfl
@[simp] theorem putDbg_start (v) : (s.putDbg v).start = s.start := id rfl
@[simp] theorem putDbg_ports (v) : (s.putDbg v).ports = s.ports := id rfl
@[simp] theorem putDbg_lds (v) : (s.putDbg v).lds = s.lds := id rfl
@[simp] theorem putDbg_reqs (v) : (s.putDbg v).reqs = s.reqs := id rfl
@[simp] theorem putDbg_nextReq (v) : (s.putDbg v).nextReq = s.nextReq := id rfl
@[simp] theorem putDbg_cache (v) : (s.putDbg v).cache = s.cache := id rfl
@[simp] theorem putDbg_xlt (v) : (s.putDbg v).xlt = s.xlt := id rfl
@[simp] theorem putDbg_med (v) : (s.putDbg v).med = s.med := id rfl
@[simp] theorem putDbg_coh (v) : (s.putDbg v).coh = s.coh := id rfl
@[simp] theorem putDbg_flush (v) : (s.putDbg v).flush = s.flush := id rfl
@[simp] theorem putDbg_integ (v) : (s.putDbg v).integ = s.integ := id rfl
@[simp] theorem putDbg_dbg (v) : (s.putDbg v).dbg = v := id rfl
@[simp] theorem putDbg_cip (v) : (s.putDbg v).cip = s.cip := id rfl
@[simp] theorem putDbg_links (v) : (s.putDbg v).links = s.links := id rfl
@[simp] theorem putDbg_carts (v) : (s.putDbg v).carts = s.carts := id rfl
@[simp] theorem putDbg_setId (v) : (s.putDbg v).setId = s.setId := id rfl
@[simp] theorem putDbg_serials (v) : (s.putDbg v).serials = s.serials := id rfl
@[simp] theorem putDbg_spl (v) : (s.putDbg v).spl = s.spl := id rfl
@[simp] theorem putDbg_grp (v) : (s.putDbg v).grp = s.grp := id rfl
@[simp] theorem putDbg_pmc (v) : (s.putDbg v).pmc = s.pmc := id rfl
@[simp] theorem putDbg_smbAddr (v) : (s.putDbg v).smbAddr = s.smbAddr := id rfl
@[simp] theorem putDbg_health (v) : (s.putDbg v).health = s.health := id rfl
@[simp] theorem putDbg_out (v) : (s.putDbg v).out = s.out := id rfl
@[simp] theorem putDbg_free (v) : (s.putDbg v).free = s.free := id rfl
@[simp] theorem putDbg_pending (v) : (s.putDbg v).pending = s.pending := id rfl
@[simp] theorem putDbg_sliceReg (v) : (s.putDbg v).sliceReg = s.sliceReg := id rfl
@[simp] theorem putCip_order (v) : (s.putCip v).order = s.order := id rfl
@[simp] theorem putCip_regs (v) : (s.putCip v).regs = s.regs := id rfl
@[simp] theorem putCip_shadow (v) : (s.putCip v).shadow = s.shadow := id rfl
@[simp] theorem putCip_held (v) : (s.putCip v).held = s.held := id rfl
@[simp] theorem putCip_sliceDone (v) : (s.putCip v).sliceDone = s.sliceDone := id rfl
@[simp] theorem putCip_pins (v) : (s.putCip v).pins = s.pins := id rfl
@[simp] theorem putCip_clk (v) : (s.putCip v).clk = s.clk := id rfl
@[simp] theorem putCip_rate (v) : (s.putCip v).rate = s.rate := id rfl
@[simp] theorem putCip_intc (v) : (s.putCip v).intc = s.intc := id rfl
@[simp] theorem putCip_msixMask (v) : (s.putCip v).msixMask = s.msixMask := id rfl
@[simp] theorem putCip_msixPend (v) : (s.putCip v).msixPend = s.msixPend := id rfl
@[simp] theorem putCip_pace (v) : (s.putCip v).pace = s.pace := id rfl
@[simp] theorem putCip_bridgeWait (v) : (s.putCip v).bridgeWait = s.bridgeWait := id rfl
@[simp] theorem putCip_seq (v) : (s.putCip v).seq = s.seq := id rfl
@[simp] theorem putCip_flog (v) : (s.putCip v).flog = s.flog := id rfl
@[simp] theorem putCip_therm (v) : (s.putCip v).therm = s.therm := id rfl
@[simp] theorem putCip_keep (v) : (s.putCip v).keep = s.keep := id rfl
@[simp] theorem putCip_ham (v) : (s.putCip v).ham = s.ham := id rfl
@[simp] theorem putCip_pat (v) : (s.putCip v).pat = s.pat := id rfl
@[simp] theorem putCip_plan (v) : (s.putCip v).plan = s.plan := id rfl
@[simp] theorem putCip_start (v) : (s.putCip v).start = s.start := id rfl
@[simp] theorem putCip_ports (v) : (s.putCip v).ports = s.ports := id rfl
@[simp] theorem putCip_lds (v) : (s.putCip v).lds = s.lds := id rfl
@[simp] theorem putCip_reqs (v) : (s.putCip v).reqs = s.reqs := id rfl
@[simp] theorem putCip_nextReq (v) : (s.putCip v).nextReq = s.nextReq := id rfl
@[simp] theorem putCip_cache (v) : (s.putCip v).cache = s.cache := id rfl
@[simp] theorem putCip_xlt (v) : (s.putCip v).xlt = s.xlt := id rfl
@[simp] theorem putCip_med (v) : (s.putCip v).med = s.med := id rfl
@[simp] theorem putCip_coh (v) : (s.putCip v).coh = s.coh := id rfl
@[simp] theorem putCip_flush (v) : (s.putCip v).flush = s.flush := id rfl
@[simp] theorem putCip_integ (v) : (s.putCip v).integ = s.integ := id rfl
@[simp] theorem putCip_dbg (v) : (s.putCip v).dbg = s.dbg := id rfl
@[simp] theorem putCip_cip (v) : (s.putCip v).cip = v := id rfl
@[simp] theorem putCip_links (v) : (s.putCip v).links = s.links := id rfl
@[simp] theorem putCip_carts (v) : (s.putCip v).carts = s.carts := id rfl
@[simp] theorem putCip_setId (v) : (s.putCip v).setId = s.setId := id rfl
@[simp] theorem putCip_serials (v) : (s.putCip v).serials = s.serials := id rfl
@[simp] theorem putCip_spl (v) : (s.putCip v).spl = s.spl := id rfl
@[simp] theorem putCip_grp (v) : (s.putCip v).grp = s.grp := id rfl
@[simp] theorem putCip_pmc (v) : (s.putCip v).pmc = s.pmc := id rfl
@[simp] theorem putCip_smbAddr (v) : (s.putCip v).smbAddr = s.smbAddr := id rfl
@[simp] theorem putCip_health (v) : (s.putCip v).health = s.health := id rfl
@[simp] theorem putCip_out (v) : (s.putCip v).out = s.out := id rfl
@[simp] theorem putCip_free (v) : (s.putCip v).free = s.free := id rfl
@[simp] theorem putCip_pending (v) : (s.putCip v).pending = s.pending := id rfl
@[simp] theorem putCip_sliceReg (v) : (s.putCip v).sliceReg = s.sliceReg := id rfl
@[simp] theorem putLinks_order (v) : (s.putLinks v).order = s.order := id rfl
@[simp] theorem putLinks_regs (v) : (s.putLinks v).regs = s.regs := id rfl
@[simp] theorem putLinks_shadow (v) : (s.putLinks v).shadow = s.shadow := id rfl
@[simp] theorem putLinks_held (v) : (s.putLinks v).held = s.held := id rfl
@[simp] theorem putLinks_sliceDone (v) : (s.putLinks v).sliceDone = s.sliceDone := id rfl
@[simp] theorem putLinks_pins (v) : (s.putLinks v).pins = s.pins := id rfl
@[simp] theorem putLinks_clk (v) : (s.putLinks v).clk = s.clk := id rfl
@[simp] theorem putLinks_rate (v) : (s.putLinks v).rate = s.rate := id rfl
@[simp] theorem putLinks_intc (v) : (s.putLinks v).intc = s.intc := id rfl
@[simp] theorem putLinks_msixMask (v) : (s.putLinks v).msixMask = s.msixMask := id rfl
@[simp] theorem putLinks_msixPend (v) : (s.putLinks v).msixPend = s.msixPend := id rfl
@[simp] theorem putLinks_pace (v) : (s.putLinks v).pace = s.pace := id rfl
@[simp] theorem putLinks_bridgeWait (v) : (s.putLinks v).bridgeWait = s.bridgeWait := id rfl
@[simp] theorem putLinks_seq (v) : (s.putLinks v).seq = s.seq := id rfl
@[simp] theorem putLinks_flog (v) : (s.putLinks v).flog = s.flog := id rfl
@[simp] theorem putLinks_therm (v) : (s.putLinks v).therm = s.therm := id rfl
@[simp] theorem putLinks_keep (v) : (s.putLinks v).keep = s.keep := id rfl
@[simp] theorem putLinks_ham (v) : (s.putLinks v).ham = s.ham := id rfl
@[simp] theorem putLinks_pat (v) : (s.putLinks v).pat = s.pat := id rfl
@[simp] theorem putLinks_plan (v) : (s.putLinks v).plan = s.plan := id rfl
@[simp] theorem putLinks_start (v) : (s.putLinks v).start = s.start := id rfl
@[simp] theorem putLinks_ports (v) : (s.putLinks v).ports = s.ports := id rfl
@[simp] theorem putLinks_lds (v) : (s.putLinks v).lds = s.lds := id rfl
@[simp] theorem putLinks_reqs (v) : (s.putLinks v).reqs = s.reqs := id rfl
@[simp] theorem putLinks_nextReq (v) : (s.putLinks v).nextReq = s.nextReq := id rfl
@[simp] theorem putLinks_cache (v) : (s.putLinks v).cache = s.cache := id rfl
@[simp] theorem putLinks_xlt (v) : (s.putLinks v).xlt = s.xlt := id rfl
@[simp] theorem putLinks_med (v) : (s.putLinks v).med = s.med := id rfl
@[simp] theorem putLinks_coh (v) : (s.putLinks v).coh = s.coh := id rfl
@[simp] theorem putLinks_flush (v) : (s.putLinks v).flush = s.flush := id rfl
@[simp] theorem putLinks_integ (v) : (s.putLinks v).integ = s.integ := id rfl
@[simp] theorem putLinks_dbg (v) : (s.putLinks v).dbg = s.dbg := id rfl
@[simp] theorem putLinks_cip (v) : (s.putLinks v).cip = s.cip := id rfl
@[simp] theorem putLinks_links (v) : (s.putLinks v).links = v := id rfl
@[simp] theorem putLinks_carts (v) : (s.putLinks v).carts = s.carts := id rfl
@[simp] theorem putLinks_setId (v) : (s.putLinks v).setId = s.setId := id rfl
@[simp] theorem putLinks_serials (v) : (s.putLinks v).serials = s.serials := id rfl
@[simp] theorem putLinks_spl (v) : (s.putLinks v).spl = s.spl := id rfl
@[simp] theorem putLinks_grp (v) : (s.putLinks v).grp = s.grp := id rfl
@[simp] theorem putLinks_pmc (v) : (s.putLinks v).pmc = s.pmc := id rfl
@[simp] theorem putLinks_smbAddr (v) : (s.putLinks v).smbAddr = s.smbAddr := id rfl
@[simp] theorem putLinks_health (v) : (s.putLinks v).health = s.health := id rfl
@[simp] theorem putLinks_out (v) : (s.putLinks v).out = s.out := id rfl
@[simp] theorem putLinks_free (v) : (s.putLinks v).free = s.free := id rfl
@[simp] theorem putLinks_pending (v) : (s.putLinks v).pending = s.pending := id rfl
@[simp] theorem putLinks_sliceReg (v) : (s.putLinks v).sliceReg = s.sliceReg := id rfl
@[simp] theorem putCarts_order (v) : (s.putCarts v).order = s.order := id rfl
@[simp] theorem putCarts_regs (v) : (s.putCarts v).regs = s.regs := id rfl
@[simp] theorem putCarts_shadow (v) : (s.putCarts v).shadow = s.shadow := id rfl
@[simp] theorem putCarts_held (v) : (s.putCarts v).held = s.held := id rfl
@[simp] theorem putCarts_sliceDone (v) : (s.putCarts v).sliceDone = s.sliceDone := id rfl
@[simp] theorem putCarts_pins (v) : (s.putCarts v).pins = s.pins := id rfl
@[simp] theorem putCarts_clk (v) : (s.putCarts v).clk = s.clk := id rfl
@[simp] theorem putCarts_rate (v) : (s.putCarts v).rate = s.rate := id rfl
@[simp] theorem putCarts_intc (v) : (s.putCarts v).intc = s.intc := id rfl
@[simp] theorem putCarts_msixMask (v) : (s.putCarts v).msixMask = s.msixMask := id rfl
@[simp] theorem putCarts_msixPend (v) : (s.putCarts v).msixPend = s.msixPend := id rfl
@[simp] theorem putCarts_pace (v) : (s.putCarts v).pace = s.pace := id rfl
@[simp] theorem putCarts_bridgeWait (v) : (s.putCarts v).bridgeWait = s.bridgeWait := id rfl
@[simp] theorem putCarts_seq (v) : (s.putCarts v).seq = s.seq := id rfl
@[simp] theorem putCarts_flog (v) : (s.putCarts v).flog = s.flog := id rfl
@[simp] theorem putCarts_therm (v) : (s.putCarts v).therm = s.therm := id rfl
@[simp] theorem putCarts_keep (v) : (s.putCarts v).keep = s.keep := id rfl
@[simp] theorem putCarts_ham (v) : (s.putCarts v).ham = s.ham := id rfl
@[simp] theorem putCarts_pat (v) : (s.putCarts v).pat = s.pat := id rfl
@[simp] theorem putCarts_plan (v) : (s.putCarts v).plan = s.plan := id rfl
@[simp] theorem putCarts_start (v) : (s.putCarts v).start = s.start := id rfl
@[simp] theorem putCarts_ports (v) : (s.putCarts v).ports = s.ports := id rfl
@[simp] theorem putCarts_lds (v) : (s.putCarts v).lds = s.lds := id rfl
@[simp] theorem putCarts_reqs (v) : (s.putCarts v).reqs = s.reqs := id rfl
@[simp] theorem putCarts_nextReq (v) : (s.putCarts v).nextReq = s.nextReq := id rfl
@[simp] theorem putCarts_cache (v) : (s.putCarts v).cache = s.cache := id rfl
@[simp] theorem putCarts_xlt (v) : (s.putCarts v).xlt = s.xlt := id rfl
@[simp] theorem putCarts_med (v) : (s.putCarts v).med = s.med := id rfl
@[simp] theorem putCarts_coh (v) : (s.putCarts v).coh = s.coh := id rfl
@[simp] theorem putCarts_flush (v) : (s.putCarts v).flush = s.flush := id rfl
@[simp] theorem putCarts_integ (v) : (s.putCarts v).integ = s.integ := id rfl
@[simp] theorem putCarts_dbg (v) : (s.putCarts v).dbg = s.dbg := id rfl
@[simp] theorem putCarts_cip (v) : (s.putCarts v).cip = s.cip := id rfl
@[simp] theorem putCarts_links (v) : (s.putCarts v).links = s.links := id rfl
@[simp] theorem putCarts_carts (v) : (s.putCarts v).carts = v := id rfl
@[simp] theorem putCarts_setId (v) : (s.putCarts v).setId = s.setId := id rfl
@[simp] theorem putCarts_serials (v) : (s.putCarts v).serials = s.serials := id rfl
@[simp] theorem putCarts_spl (v) : (s.putCarts v).spl = s.spl := id rfl
@[simp] theorem putCarts_grp (v) : (s.putCarts v).grp = s.grp := id rfl
@[simp] theorem putCarts_pmc (v) : (s.putCarts v).pmc = s.pmc := id rfl
@[simp] theorem putCarts_smbAddr (v) : (s.putCarts v).smbAddr = s.smbAddr := id rfl
@[simp] theorem putCarts_health (v) : (s.putCarts v).health = s.health := id rfl
@[simp] theorem putCarts_out (v) : (s.putCarts v).out = s.out := id rfl
@[simp] theorem putCarts_free (v) : (s.putCarts v).free = s.free := id rfl
@[simp] theorem putCarts_pending (v) : (s.putCarts v).pending = s.pending := id rfl
@[simp] theorem putCarts_sliceReg (v) : (s.putCarts v).sliceReg = s.sliceReg := id rfl
@[simp] theorem putSetId_order (v) : (s.putSetId v).order = s.order := id rfl
@[simp] theorem putSetId_regs (v) : (s.putSetId v).regs = s.regs := id rfl
@[simp] theorem putSetId_shadow (v) : (s.putSetId v).shadow = s.shadow := id rfl
@[simp] theorem putSetId_held (v) : (s.putSetId v).held = s.held := id rfl
@[simp] theorem putSetId_sliceDone (v) : (s.putSetId v).sliceDone = s.sliceDone := id rfl
@[simp] theorem putSetId_pins (v) : (s.putSetId v).pins = s.pins := id rfl
@[simp] theorem putSetId_clk (v) : (s.putSetId v).clk = s.clk := id rfl
@[simp] theorem putSetId_rate (v) : (s.putSetId v).rate = s.rate := id rfl
@[simp] theorem putSetId_intc (v) : (s.putSetId v).intc = s.intc := id rfl
@[simp] theorem putSetId_msixMask (v) : (s.putSetId v).msixMask = s.msixMask := id rfl
@[simp] theorem putSetId_msixPend (v) : (s.putSetId v).msixPend = s.msixPend := id rfl
@[simp] theorem putSetId_pace (v) : (s.putSetId v).pace = s.pace := id rfl
@[simp] theorem putSetId_bridgeWait (v) : (s.putSetId v).bridgeWait = s.bridgeWait := id rfl
@[simp] theorem putSetId_seq (v) : (s.putSetId v).seq = s.seq := id rfl
@[simp] theorem putSetId_flog (v) : (s.putSetId v).flog = s.flog := id rfl
@[simp] theorem putSetId_therm (v) : (s.putSetId v).therm = s.therm := id rfl
@[simp] theorem putSetId_keep (v) : (s.putSetId v).keep = s.keep := id rfl
@[simp] theorem putSetId_ham (v) : (s.putSetId v).ham = s.ham := id rfl
@[simp] theorem putSetId_pat (v) : (s.putSetId v).pat = s.pat := id rfl
@[simp] theorem putSetId_plan (v) : (s.putSetId v).plan = s.plan := id rfl
@[simp] theorem putSetId_start (v) : (s.putSetId v).start = s.start := id rfl
@[simp] theorem putSetId_ports (v) : (s.putSetId v).ports = s.ports := id rfl
@[simp] theorem putSetId_lds (v) : (s.putSetId v).lds = s.lds := id rfl
@[simp] theorem putSetId_reqs (v) : (s.putSetId v).reqs = s.reqs := id rfl
@[simp] theorem putSetId_nextReq (v) : (s.putSetId v).nextReq = s.nextReq := id rfl
@[simp] theorem putSetId_cache (v) : (s.putSetId v).cache = s.cache := id rfl
@[simp] theorem putSetId_xlt (v) : (s.putSetId v).xlt = s.xlt := id rfl
@[simp] theorem putSetId_med (v) : (s.putSetId v).med = s.med := id rfl
@[simp] theorem putSetId_coh (v) : (s.putSetId v).coh = s.coh := id rfl
@[simp] theorem putSetId_flush (v) : (s.putSetId v).flush = s.flush := id rfl
@[simp] theorem putSetId_integ (v) : (s.putSetId v).integ = s.integ := id rfl
@[simp] theorem putSetId_dbg (v) : (s.putSetId v).dbg = s.dbg := id rfl
@[simp] theorem putSetId_cip (v) : (s.putSetId v).cip = s.cip := id rfl
@[simp] theorem putSetId_links (v) : (s.putSetId v).links = s.links := id rfl
@[simp] theorem putSetId_carts (v) : (s.putSetId v).carts = s.carts := id rfl
@[simp] theorem putSetId_setId (v) : (s.putSetId v).setId = v := id rfl
@[simp] theorem putSetId_serials (v) : (s.putSetId v).serials = s.serials := id rfl
@[simp] theorem putSetId_spl (v) : (s.putSetId v).spl = s.spl := id rfl
@[simp] theorem putSetId_grp (v) : (s.putSetId v).grp = s.grp := id rfl
@[simp] theorem putSetId_pmc (v) : (s.putSetId v).pmc = s.pmc := id rfl
@[simp] theorem putSetId_smbAddr (v) : (s.putSetId v).smbAddr = s.smbAddr := id rfl
@[simp] theorem putSetId_health (v) : (s.putSetId v).health = s.health := id rfl
@[simp] theorem putSetId_out (v) : (s.putSetId v).out = s.out := id rfl
@[simp] theorem putSetId_free (v) : (s.putSetId v).free = s.free := id rfl
@[simp] theorem putSetId_pending (v) : (s.putSetId v).pending = s.pending := id rfl
@[simp] theorem putSetId_sliceReg (v) : (s.putSetId v).sliceReg = s.sliceReg := id rfl
@[simp] theorem putSerials_order (v) : (s.putSerials v).order = s.order := id rfl
@[simp] theorem putSerials_regs (v) : (s.putSerials v).regs = s.regs := id rfl
@[simp] theorem putSerials_shadow (v) : (s.putSerials v).shadow = s.shadow := id rfl
@[simp] theorem putSerials_held (v) : (s.putSerials v).held = s.held := id rfl
@[simp] theorem putSerials_sliceDone (v) : (s.putSerials v).sliceDone = s.sliceDone := id rfl
@[simp] theorem putSerials_pins (v) : (s.putSerials v).pins = s.pins := id rfl
@[simp] theorem putSerials_clk (v) : (s.putSerials v).clk = s.clk := id rfl
@[simp] theorem putSerials_rate (v) : (s.putSerials v).rate = s.rate := id rfl
@[simp] theorem putSerials_intc (v) : (s.putSerials v).intc = s.intc := id rfl
@[simp] theorem putSerials_msixMask (v) : (s.putSerials v).msixMask = s.msixMask := id rfl
@[simp] theorem putSerials_msixPend (v) : (s.putSerials v).msixPend = s.msixPend := id rfl
@[simp] theorem putSerials_pace (v) : (s.putSerials v).pace = s.pace := id rfl
@[simp] theorem putSerials_bridgeWait (v) : (s.putSerials v).bridgeWait = s.bridgeWait := id rfl
@[simp] theorem putSerials_seq (v) : (s.putSerials v).seq = s.seq := id rfl
@[simp] theorem putSerials_flog (v) : (s.putSerials v).flog = s.flog := id rfl
@[simp] theorem putSerials_therm (v) : (s.putSerials v).therm = s.therm := id rfl
@[simp] theorem putSerials_keep (v) : (s.putSerials v).keep = s.keep := id rfl
@[simp] theorem putSerials_ham (v) : (s.putSerials v).ham = s.ham := id rfl
@[simp] theorem putSerials_pat (v) : (s.putSerials v).pat = s.pat := id rfl
@[simp] theorem putSerials_plan (v) : (s.putSerials v).plan = s.plan := id rfl
@[simp] theorem putSerials_start (v) : (s.putSerials v).start = s.start := id rfl
@[simp] theorem putSerials_ports (v) : (s.putSerials v).ports = s.ports := id rfl
@[simp] theorem putSerials_lds (v) : (s.putSerials v).lds = s.lds := id rfl
@[simp] theorem putSerials_reqs (v) : (s.putSerials v).reqs = s.reqs := id rfl
@[simp] theorem putSerials_nextReq (v) : (s.putSerials v).nextReq = s.nextReq := id rfl
@[simp] theorem putSerials_cache (v) : (s.putSerials v).cache = s.cache := id rfl
@[simp] theorem putSerials_xlt (v) : (s.putSerials v).xlt = s.xlt := id rfl
@[simp] theorem putSerials_med (v) : (s.putSerials v).med = s.med := id rfl
@[simp] theorem putSerials_coh (v) : (s.putSerials v).coh = s.coh := id rfl
@[simp] theorem putSerials_flush (v) : (s.putSerials v).flush = s.flush := id rfl
@[simp] theorem putSerials_integ (v) : (s.putSerials v).integ = s.integ := id rfl
@[simp] theorem putSerials_dbg (v) : (s.putSerials v).dbg = s.dbg := id rfl
@[simp] theorem putSerials_cip (v) : (s.putSerials v).cip = s.cip := id rfl
@[simp] theorem putSerials_links (v) : (s.putSerials v).links = s.links := id rfl
@[simp] theorem putSerials_carts (v) : (s.putSerials v).carts = s.carts := id rfl
@[simp] theorem putSerials_setId (v) : (s.putSerials v).setId = s.setId := id rfl
@[simp] theorem putSerials_serials (v) : (s.putSerials v).serials = v := id rfl
@[simp] theorem putSerials_spl (v) : (s.putSerials v).spl = s.spl := id rfl
@[simp] theorem putSerials_grp (v) : (s.putSerials v).grp = s.grp := id rfl
@[simp] theorem putSerials_pmc (v) : (s.putSerials v).pmc = s.pmc := id rfl
@[simp] theorem putSerials_smbAddr (v) : (s.putSerials v).smbAddr = s.smbAddr := id rfl
@[simp] theorem putSerials_health (v) : (s.putSerials v).health = s.health := id rfl
@[simp] theorem putSerials_out (v) : (s.putSerials v).out = s.out := id rfl
@[simp] theorem putSerials_free (v) : (s.putSerials v).free = s.free := id rfl
@[simp] theorem putSerials_pending (v) : (s.putSerials v).pending = s.pending := id rfl
@[simp] theorem putSerials_sliceReg (v) : (s.putSerials v).sliceReg = s.sliceReg := id rfl
@[simp] theorem putSpl_order (v) : (s.putSpl v).order = s.order := id rfl
@[simp] theorem putSpl_regs (v) : (s.putSpl v).regs = s.regs := id rfl
@[simp] theorem putSpl_shadow (v) : (s.putSpl v).shadow = s.shadow := id rfl
@[simp] theorem putSpl_held (v) : (s.putSpl v).held = s.held := id rfl
@[simp] theorem putSpl_sliceDone (v) : (s.putSpl v).sliceDone = s.sliceDone := id rfl
@[simp] theorem putSpl_pins (v) : (s.putSpl v).pins = s.pins := id rfl
@[simp] theorem putSpl_clk (v) : (s.putSpl v).clk = s.clk := id rfl
@[simp] theorem putSpl_rate (v) : (s.putSpl v).rate = s.rate := id rfl
@[simp] theorem putSpl_intc (v) : (s.putSpl v).intc = s.intc := id rfl
@[simp] theorem putSpl_msixMask (v) : (s.putSpl v).msixMask = s.msixMask := id rfl
@[simp] theorem putSpl_msixPend (v) : (s.putSpl v).msixPend = s.msixPend := id rfl
@[simp] theorem putSpl_pace (v) : (s.putSpl v).pace = s.pace := id rfl
@[simp] theorem putSpl_bridgeWait (v) : (s.putSpl v).bridgeWait = s.bridgeWait := id rfl
@[simp] theorem putSpl_seq (v) : (s.putSpl v).seq = s.seq := id rfl
@[simp] theorem putSpl_flog (v) : (s.putSpl v).flog = s.flog := id rfl
@[simp] theorem putSpl_therm (v) : (s.putSpl v).therm = s.therm := id rfl
@[simp] theorem putSpl_keep (v) : (s.putSpl v).keep = s.keep := id rfl
@[simp] theorem putSpl_ham (v) : (s.putSpl v).ham = s.ham := id rfl
@[simp] theorem putSpl_pat (v) : (s.putSpl v).pat = s.pat := id rfl
@[simp] theorem putSpl_plan (v) : (s.putSpl v).plan = s.plan := id rfl
@[simp] theorem putSpl_start (v) : (s.putSpl v).start = s.start := id rfl
@[simp] theorem putSpl_ports (v) : (s.putSpl v).ports = s.ports := id rfl
@[simp] theorem putSpl_lds (v) : (s.putSpl v).lds = s.lds := id rfl
@[simp] theorem putSpl_reqs (v) : (s.putSpl v).reqs = s.reqs := id rfl
@[simp] theorem putSpl_nextReq (v) : (s.putSpl v).nextReq = s.nextReq := id rfl
@[simp] theorem putSpl_cache (v) : (s.putSpl v).cache = s.cache := id rfl
@[simp] theorem putSpl_xlt (v) : (s.putSpl v).xlt = s.xlt := id rfl
@[simp] theorem putSpl_med (v) : (s.putSpl v).med = s.med := id rfl
@[simp] theorem putSpl_coh (v) : (s.putSpl v).coh = s.coh := id rfl
@[simp] theorem putSpl_flush (v) : (s.putSpl v).flush = s.flush := id rfl
@[simp] theorem putSpl_integ (v) : (s.putSpl v).integ = s.integ := id rfl
@[simp] theorem putSpl_dbg (v) : (s.putSpl v).dbg = s.dbg := id rfl
@[simp] theorem putSpl_cip (v) : (s.putSpl v).cip = s.cip := id rfl
@[simp] theorem putSpl_links (v) : (s.putSpl v).links = s.links := id rfl
@[simp] theorem putSpl_carts (v) : (s.putSpl v).carts = s.carts := id rfl
@[simp] theorem putSpl_setId (v) : (s.putSpl v).setId = s.setId := id rfl
@[simp] theorem putSpl_serials (v) : (s.putSpl v).serials = s.serials := id rfl
@[simp] theorem putSpl_spl (v) : (s.putSpl v).spl = v := id rfl
@[simp] theorem putSpl_grp (v) : (s.putSpl v).grp = s.grp := id rfl
@[simp] theorem putSpl_pmc (v) : (s.putSpl v).pmc = s.pmc := id rfl
@[simp] theorem putSpl_smbAddr (v) : (s.putSpl v).smbAddr = s.smbAddr := id rfl
@[simp] theorem putSpl_health (v) : (s.putSpl v).health = s.health := id rfl
@[simp] theorem putSpl_out (v) : (s.putSpl v).out = s.out := id rfl
@[simp] theorem putSpl_free (v) : (s.putSpl v).free = s.free := id rfl
@[simp] theorem putSpl_pending (v) : (s.putSpl v).pending = s.pending := id rfl
@[simp] theorem putSpl_sliceReg (v) : (s.putSpl v).sliceReg = s.sliceReg := id rfl
@[simp] theorem putGrp_order (v) : (s.putGrp v).order = s.order := id rfl
@[simp] theorem putGrp_regs (v) : (s.putGrp v).regs = s.regs := id rfl
@[simp] theorem putGrp_shadow (v) : (s.putGrp v).shadow = s.shadow := id rfl
@[simp] theorem putGrp_held (v) : (s.putGrp v).held = s.held := id rfl
@[simp] theorem putGrp_sliceDone (v) : (s.putGrp v).sliceDone = s.sliceDone := id rfl
@[simp] theorem putGrp_pins (v) : (s.putGrp v).pins = s.pins := id rfl
@[simp] theorem putGrp_clk (v) : (s.putGrp v).clk = s.clk := id rfl
@[simp] theorem putGrp_rate (v) : (s.putGrp v).rate = s.rate := id rfl
@[simp] theorem putGrp_intc (v) : (s.putGrp v).intc = s.intc := id rfl
@[simp] theorem putGrp_msixMask (v) : (s.putGrp v).msixMask = s.msixMask := id rfl
@[simp] theorem putGrp_msixPend (v) : (s.putGrp v).msixPend = s.msixPend := id rfl
@[simp] theorem putGrp_pace (v) : (s.putGrp v).pace = s.pace := id rfl
@[simp] theorem putGrp_bridgeWait (v) : (s.putGrp v).bridgeWait = s.bridgeWait := id rfl
@[simp] theorem putGrp_seq (v) : (s.putGrp v).seq = s.seq := id rfl
@[simp] theorem putGrp_flog (v) : (s.putGrp v).flog = s.flog := id rfl
@[simp] theorem putGrp_therm (v) : (s.putGrp v).therm = s.therm := id rfl
@[simp] theorem putGrp_keep (v) : (s.putGrp v).keep = s.keep := id rfl
@[simp] theorem putGrp_ham (v) : (s.putGrp v).ham = s.ham := id rfl
@[simp] theorem putGrp_pat (v) : (s.putGrp v).pat = s.pat := id rfl
@[simp] theorem putGrp_plan (v) : (s.putGrp v).plan = s.plan := id rfl
@[simp] theorem putGrp_start (v) : (s.putGrp v).start = s.start := id rfl
@[simp] theorem putGrp_ports (v) : (s.putGrp v).ports = s.ports := id rfl
@[simp] theorem putGrp_lds (v) : (s.putGrp v).lds = s.lds := id rfl
@[simp] theorem putGrp_reqs (v) : (s.putGrp v).reqs = s.reqs := id rfl
@[simp] theorem putGrp_nextReq (v) : (s.putGrp v).nextReq = s.nextReq := id rfl
@[simp] theorem putGrp_cache (v) : (s.putGrp v).cache = s.cache := id rfl
@[simp] theorem putGrp_xlt (v) : (s.putGrp v).xlt = s.xlt := id rfl
@[simp] theorem putGrp_med (v) : (s.putGrp v).med = s.med := id rfl
@[simp] theorem putGrp_coh (v) : (s.putGrp v).coh = s.coh := id rfl
@[simp] theorem putGrp_flush (v) : (s.putGrp v).flush = s.flush := id rfl
@[simp] theorem putGrp_integ (v) : (s.putGrp v).integ = s.integ := id rfl
@[simp] theorem putGrp_dbg (v) : (s.putGrp v).dbg = s.dbg := id rfl
@[simp] theorem putGrp_cip (v) : (s.putGrp v).cip = s.cip := id rfl
@[simp] theorem putGrp_links (v) : (s.putGrp v).links = s.links := id rfl
@[simp] theorem putGrp_carts (v) : (s.putGrp v).carts = s.carts := id rfl
@[simp] theorem putGrp_setId (v) : (s.putGrp v).setId = s.setId := id rfl
@[simp] theorem putGrp_serials (v) : (s.putGrp v).serials = s.serials := id rfl
@[simp] theorem putGrp_spl (v) : (s.putGrp v).spl = s.spl := id rfl
@[simp] theorem putGrp_grp (v) : (s.putGrp v).grp = v := id rfl
@[simp] theorem putGrp_pmc (v) : (s.putGrp v).pmc = s.pmc := id rfl
@[simp] theorem putGrp_smbAddr (v) : (s.putGrp v).smbAddr = s.smbAddr := id rfl
@[simp] theorem putGrp_health (v) : (s.putGrp v).health = s.health := id rfl
@[simp] theorem putGrp_out (v) : (s.putGrp v).out = s.out := id rfl
@[simp] theorem putGrp_free (v) : (s.putGrp v).free = s.free := id rfl
@[simp] theorem putGrp_pending (v) : (s.putGrp v).pending = s.pending := id rfl
@[simp] theorem putGrp_sliceReg (v) : (s.putGrp v).sliceReg = s.sliceReg := id rfl
@[simp] theorem putPmc_order (v) : (s.putPmc v).order = s.order := id rfl
@[simp] theorem putPmc_regs (v) : (s.putPmc v).regs = s.regs := id rfl
@[simp] theorem putPmc_shadow (v) : (s.putPmc v).shadow = s.shadow := id rfl
@[simp] theorem putPmc_held (v) : (s.putPmc v).held = s.held := id rfl
@[simp] theorem putPmc_sliceDone (v) : (s.putPmc v).sliceDone = s.sliceDone := id rfl
@[simp] theorem putPmc_pins (v) : (s.putPmc v).pins = s.pins := id rfl
@[simp] theorem putPmc_clk (v) : (s.putPmc v).clk = s.clk := id rfl
@[simp] theorem putPmc_rate (v) : (s.putPmc v).rate = s.rate := id rfl
@[simp] theorem putPmc_intc (v) : (s.putPmc v).intc = s.intc := id rfl
@[simp] theorem putPmc_msixMask (v) : (s.putPmc v).msixMask = s.msixMask := id rfl
@[simp] theorem putPmc_msixPend (v) : (s.putPmc v).msixPend = s.msixPend := id rfl
@[simp] theorem putPmc_pace (v) : (s.putPmc v).pace = s.pace := id rfl
@[simp] theorem putPmc_bridgeWait (v) : (s.putPmc v).bridgeWait = s.bridgeWait := id rfl
@[simp] theorem putPmc_seq (v) : (s.putPmc v).seq = s.seq := id rfl
@[simp] theorem putPmc_flog (v) : (s.putPmc v).flog = s.flog := id rfl
@[simp] theorem putPmc_therm (v) : (s.putPmc v).therm = s.therm := id rfl
@[simp] theorem putPmc_keep (v) : (s.putPmc v).keep = s.keep := id rfl
@[simp] theorem putPmc_ham (v) : (s.putPmc v).ham = s.ham := id rfl
@[simp] theorem putPmc_pat (v) : (s.putPmc v).pat = s.pat := id rfl
@[simp] theorem putPmc_plan (v) : (s.putPmc v).plan = s.plan := id rfl
@[simp] theorem putPmc_start (v) : (s.putPmc v).start = s.start := id rfl
@[simp] theorem putPmc_ports (v) : (s.putPmc v).ports = s.ports := id rfl
@[simp] theorem putPmc_lds (v) : (s.putPmc v).lds = s.lds := id rfl
@[simp] theorem putPmc_reqs (v) : (s.putPmc v).reqs = s.reqs := id rfl
@[simp] theorem putPmc_nextReq (v) : (s.putPmc v).nextReq = s.nextReq := id rfl
@[simp] theorem putPmc_cache (v) : (s.putPmc v).cache = s.cache := id rfl
@[simp] theorem putPmc_xlt (v) : (s.putPmc v).xlt = s.xlt := id rfl
@[simp] theorem putPmc_med (v) : (s.putPmc v).med = s.med := id rfl
@[simp] theorem putPmc_coh (v) : (s.putPmc v).coh = s.coh := id rfl
@[simp] theorem putPmc_flush (v) : (s.putPmc v).flush = s.flush := id rfl
@[simp] theorem putPmc_integ (v) : (s.putPmc v).integ = s.integ := id rfl
@[simp] theorem putPmc_dbg (v) : (s.putPmc v).dbg = s.dbg := id rfl
@[simp] theorem putPmc_cip (v) : (s.putPmc v).cip = s.cip := id rfl
@[simp] theorem putPmc_links (v) : (s.putPmc v).links = s.links := id rfl
@[simp] theorem putPmc_carts (v) : (s.putPmc v).carts = s.carts := id rfl
@[simp] theorem putPmc_setId (v) : (s.putPmc v).setId = s.setId := id rfl
@[simp] theorem putPmc_serials (v) : (s.putPmc v).serials = s.serials := id rfl
@[simp] theorem putPmc_spl (v) : (s.putPmc v).spl = s.spl := id rfl
@[simp] theorem putPmc_grp (v) : (s.putPmc v).grp = s.grp := id rfl
@[simp] theorem putPmc_pmc (v) : (s.putPmc v).pmc = v := id rfl
@[simp] theorem putPmc_smbAddr (v) : (s.putPmc v).smbAddr = s.smbAddr := id rfl
@[simp] theorem putPmc_health (v) : (s.putPmc v).health = s.health := id rfl
@[simp] theorem putPmc_out (v) : (s.putPmc v).out = s.out := id rfl
@[simp] theorem putPmc_free (v) : (s.putPmc v).free = s.free := id rfl
@[simp] theorem putPmc_pending (v) : (s.putPmc v).pending = s.pending := id rfl
@[simp] theorem putPmc_sliceReg (v) : (s.putPmc v).sliceReg = s.sliceReg := id rfl
@[simp] theorem putSmbAddr_order (v) : (s.putSmbAddr v).order = s.order := id rfl
@[simp] theorem putSmbAddr_regs (v) : (s.putSmbAddr v).regs = s.regs := id rfl
@[simp] theorem putSmbAddr_shadow (v) : (s.putSmbAddr v).shadow = s.shadow := id rfl
@[simp] theorem putSmbAddr_held (v) : (s.putSmbAddr v).held = s.held := id rfl
@[simp] theorem putSmbAddr_sliceDone (v) : (s.putSmbAddr v).sliceDone = s.sliceDone := id rfl
@[simp] theorem putSmbAddr_pins (v) : (s.putSmbAddr v).pins = s.pins := id rfl
@[simp] theorem putSmbAddr_clk (v) : (s.putSmbAddr v).clk = s.clk := id rfl
@[simp] theorem putSmbAddr_rate (v) : (s.putSmbAddr v).rate = s.rate := id rfl
@[simp] theorem putSmbAddr_intc (v) : (s.putSmbAddr v).intc = s.intc := id rfl
@[simp] theorem putSmbAddr_msixMask (v) : (s.putSmbAddr v).msixMask = s.msixMask := id rfl
@[simp] theorem putSmbAddr_msixPend (v) : (s.putSmbAddr v).msixPend = s.msixPend := id rfl
@[simp] theorem putSmbAddr_pace (v) : (s.putSmbAddr v).pace = s.pace := id rfl
@[simp] theorem putSmbAddr_bridgeWait (v) : (s.putSmbAddr v).bridgeWait = s.bridgeWait := id rfl
@[simp] theorem putSmbAddr_seq (v) : (s.putSmbAddr v).seq = s.seq := id rfl
@[simp] theorem putSmbAddr_flog (v) : (s.putSmbAddr v).flog = s.flog := id rfl
@[simp] theorem putSmbAddr_therm (v) : (s.putSmbAddr v).therm = s.therm := id rfl
@[simp] theorem putSmbAddr_keep (v) : (s.putSmbAddr v).keep = s.keep := id rfl
@[simp] theorem putSmbAddr_ham (v) : (s.putSmbAddr v).ham = s.ham := id rfl
@[simp] theorem putSmbAddr_pat (v) : (s.putSmbAddr v).pat = s.pat := id rfl
@[simp] theorem putSmbAddr_plan (v) : (s.putSmbAddr v).plan = s.plan := id rfl
@[simp] theorem putSmbAddr_start (v) : (s.putSmbAddr v).start = s.start := id rfl
@[simp] theorem putSmbAddr_ports (v) : (s.putSmbAddr v).ports = s.ports := id rfl
@[simp] theorem putSmbAddr_lds (v) : (s.putSmbAddr v).lds = s.lds := id rfl
@[simp] theorem putSmbAddr_reqs (v) : (s.putSmbAddr v).reqs = s.reqs := id rfl
@[simp] theorem putSmbAddr_nextReq (v) : (s.putSmbAddr v).nextReq = s.nextReq := id rfl
@[simp] theorem putSmbAddr_cache (v) : (s.putSmbAddr v).cache = s.cache := id rfl
@[simp] theorem putSmbAddr_xlt (v) : (s.putSmbAddr v).xlt = s.xlt := id rfl
@[simp] theorem putSmbAddr_med (v) : (s.putSmbAddr v).med = s.med := id rfl
@[simp] theorem putSmbAddr_coh (v) : (s.putSmbAddr v).coh = s.coh := id rfl
@[simp] theorem putSmbAddr_flush (v) : (s.putSmbAddr v).flush = s.flush := id rfl
@[simp] theorem putSmbAddr_integ (v) : (s.putSmbAddr v).integ = s.integ := id rfl
@[simp] theorem putSmbAddr_dbg (v) : (s.putSmbAddr v).dbg = s.dbg := id rfl
@[simp] theorem putSmbAddr_cip (v) : (s.putSmbAddr v).cip = s.cip := id rfl
@[simp] theorem putSmbAddr_links (v) : (s.putSmbAddr v).links = s.links := id rfl
@[simp] theorem putSmbAddr_carts (v) : (s.putSmbAddr v).carts = s.carts := id rfl
@[simp] theorem putSmbAddr_setId (v) : (s.putSmbAddr v).setId = s.setId := id rfl
@[simp] theorem putSmbAddr_serials (v) : (s.putSmbAddr v).serials = s.serials := id rfl
@[simp] theorem putSmbAddr_spl (v) : (s.putSmbAddr v).spl = s.spl := id rfl
@[simp] theorem putSmbAddr_grp (v) : (s.putSmbAddr v).grp = s.grp := id rfl
@[simp] theorem putSmbAddr_pmc (v) : (s.putSmbAddr v).pmc = s.pmc := id rfl
@[simp] theorem putSmbAddr_smbAddr (v) : (s.putSmbAddr v).smbAddr = v := id rfl
@[simp] theorem putSmbAddr_health (v) : (s.putSmbAddr v).health = s.health := id rfl
@[simp] theorem putSmbAddr_out (v) : (s.putSmbAddr v).out = s.out := id rfl
@[simp] theorem putSmbAddr_free (v) : (s.putSmbAddr v).free = s.free := id rfl
@[simp] theorem putSmbAddr_pending (v) : (s.putSmbAddr v).pending = s.pending := id rfl
@[simp] theorem putSmbAddr_sliceReg (v) : (s.putSmbAddr v).sliceReg = s.sliceReg := id rfl
@[simp] theorem putHealth_order (v) : (s.putHealth v).order = s.order := id rfl
@[simp] theorem putHealth_regs (v) : (s.putHealth v).regs = s.regs := id rfl
@[simp] theorem putHealth_shadow (v) : (s.putHealth v).shadow = s.shadow := id rfl
@[simp] theorem putHealth_held (v) : (s.putHealth v).held = s.held := id rfl
@[simp] theorem putHealth_sliceDone (v) : (s.putHealth v).sliceDone = s.sliceDone := id rfl
@[simp] theorem putHealth_pins (v) : (s.putHealth v).pins = s.pins := id rfl
@[simp] theorem putHealth_clk (v) : (s.putHealth v).clk = s.clk := id rfl
@[simp] theorem putHealth_rate (v) : (s.putHealth v).rate = s.rate := id rfl
@[simp] theorem putHealth_intc (v) : (s.putHealth v).intc = s.intc := id rfl
@[simp] theorem putHealth_msixMask (v) : (s.putHealth v).msixMask = s.msixMask := id rfl
@[simp] theorem putHealth_msixPend (v) : (s.putHealth v).msixPend = s.msixPend := id rfl
@[simp] theorem putHealth_pace (v) : (s.putHealth v).pace = s.pace := id rfl
@[simp] theorem putHealth_bridgeWait (v) : (s.putHealth v).bridgeWait = s.bridgeWait := id rfl
@[simp] theorem putHealth_seq (v) : (s.putHealth v).seq = s.seq := id rfl
@[simp] theorem putHealth_flog (v) : (s.putHealth v).flog = s.flog := id rfl
@[simp] theorem putHealth_therm (v) : (s.putHealth v).therm = s.therm := id rfl
@[simp] theorem putHealth_keep (v) : (s.putHealth v).keep = s.keep := id rfl
@[simp] theorem putHealth_ham (v) : (s.putHealth v).ham = s.ham := id rfl
@[simp] theorem putHealth_pat (v) : (s.putHealth v).pat = s.pat := id rfl
@[simp] theorem putHealth_plan (v) : (s.putHealth v).plan = s.plan := id rfl
@[simp] theorem putHealth_start (v) : (s.putHealth v).start = s.start := id rfl
@[simp] theorem putHealth_ports (v) : (s.putHealth v).ports = s.ports := id rfl
@[simp] theorem putHealth_lds (v) : (s.putHealth v).lds = s.lds := id rfl
@[simp] theorem putHealth_reqs (v) : (s.putHealth v).reqs = s.reqs := id rfl
@[simp] theorem putHealth_nextReq (v) : (s.putHealth v).nextReq = s.nextReq := id rfl
@[simp] theorem putHealth_cache (v) : (s.putHealth v).cache = s.cache := id rfl
@[simp] theorem putHealth_xlt (v) : (s.putHealth v).xlt = s.xlt := id rfl
@[simp] theorem putHealth_med (v) : (s.putHealth v).med = s.med := id rfl
@[simp] theorem putHealth_coh (v) : (s.putHealth v).coh = s.coh := id rfl
@[simp] theorem putHealth_flush (v) : (s.putHealth v).flush = s.flush := id rfl
@[simp] theorem putHealth_integ (v) : (s.putHealth v).integ = s.integ := id rfl
@[simp] theorem putHealth_dbg (v) : (s.putHealth v).dbg = s.dbg := id rfl
@[simp] theorem putHealth_cip (v) : (s.putHealth v).cip = s.cip := id rfl
@[simp] theorem putHealth_links (v) : (s.putHealth v).links = s.links := id rfl
@[simp] theorem putHealth_carts (v) : (s.putHealth v).carts = s.carts := id rfl
@[simp] theorem putHealth_setId (v) : (s.putHealth v).setId = s.setId := id rfl
@[simp] theorem putHealth_serials (v) : (s.putHealth v).serials = s.serials := id rfl
@[simp] theorem putHealth_spl (v) : (s.putHealth v).spl = s.spl := id rfl
@[simp] theorem putHealth_grp (v) : (s.putHealth v).grp = s.grp := id rfl
@[simp] theorem putHealth_pmc (v) : (s.putHealth v).pmc = s.pmc := id rfl
@[simp] theorem putHealth_smbAddr (v) : (s.putHealth v).smbAddr = s.smbAddr := id rfl
@[simp] theorem putHealth_health (v) : (s.putHealth v).health = v := id rfl
@[simp] theorem putHealth_out (v) : (s.putHealth v).out = s.out := id rfl
@[simp] theorem putHealth_free (v) : (s.putHealth v).free = s.free := id rfl
@[simp] theorem putHealth_pending (v) : (s.putHealth v).pending = s.pending := id rfl
@[simp] theorem putHealth_sliceReg (v) : (s.putHealth v).sliceReg = s.sliceReg := id rfl
@[simp] theorem putOut_order (v) : (s.putOut v).order = s.order := id rfl
@[simp] theorem putOut_regs (v) : (s.putOut v).regs = s.regs := id rfl
@[simp] theorem putOut_shadow (v) : (s.putOut v).shadow = s.shadow := id rfl
@[simp] theorem putOut_held (v) : (s.putOut v).held = s.held := id rfl
@[simp] theorem putOut_sliceDone (v) : (s.putOut v).sliceDone = s.sliceDone := id rfl
@[simp] theorem putOut_pins (v) : (s.putOut v).pins = s.pins := id rfl
@[simp] theorem putOut_clk (v) : (s.putOut v).clk = s.clk := id rfl
@[simp] theorem putOut_rate (v) : (s.putOut v).rate = s.rate := id rfl
@[simp] theorem putOut_intc (v) : (s.putOut v).intc = s.intc := id rfl
@[simp] theorem putOut_msixMask (v) : (s.putOut v).msixMask = s.msixMask := id rfl
@[simp] theorem putOut_msixPend (v) : (s.putOut v).msixPend = s.msixPend := id rfl
@[simp] theorem putOut_pace (v) : (s.putOut v).pace = s.pace := id rfl
@[simp] theorem putOut_bridgeWait (v) : (s.putOut v).bridgeWait = s.bridgeWait := id rfl
@[simp] theorem putOut_seq (v) : (s.putOut v).seq = s.seq := id rfl
@[simp] theorem putOut_flog (v) : (s.putOut v).flog = s.flog := id rfl
@[simp] theorem putOut_therm (v) : (s.putOut v).therm = s.therm := id rfl
@[simp] theorem putOut_keep (v) : (s.putOut v).keep = s.keep := id rfl
@[simp] theorem putOut_ham (v) : (s.putOut v).ham = s.ham := id rfl
@[simp] theorem putOut_pat (v) : (s.putOut v).pat = s.pat := id rfl
@[simp] theorem putOut_plan (v) : (s.putOut v).plan = s.plan := id rfl
@[simp] theorem putOut_start (v) : (s.putOut v).start = s.start := id rfl
@[simp] theorem putOut_ports (v) : (s.putOut v).ports = s.ports := id rfl
@[simp] theorem putOut_lds (v) : (s.putOut v).lds = s.lds := id rfl
@[simp] theorem putOut_reqs (v) : (s.putOut v).reqs = s.reqs := id rfl
@[simp] theorem putOut_nextReq (v) : (s.putOut v).nextReq = s.nextReq := id rfl
@[simp] theorem putOut_cache (v) : (s.putOut v).cache = s.cache := id rfl
@[simp] theorem putOut_xlt (v) : (s.putOut v).xlt = s.xlt := id rfl
@[simp] theorem putOut_med (v) : (s.putOut v).med = s.med := id rfl
@[simp] theorem putOut_coh (v) : (s.putOut v).coh = s.coh := id rfl
@[simp] theorem putOut_flush (v) : (s.putOut v).flush = s.flush := id rfl
@[simp] theorem putOut_integ (v) : (s.putOut v).integ = s.integ := id rfl
@[simp] theorem putOut_dbg (v) : (s.putOut v).dbg = s.dbg := id rfl
@[simp] theorem putOut_cip (v) : (s.putOut v).cip = s.cip := id rfl
@[simp] theorem putOut_links (v) : (s.putOut v).links = s.links := id rfl
@[simp] theorem putOut_carts (v) : (s.putOut v).carts = s.carts := id rfl
@[simp] theorem putOut_setId (v) : (s.putOut v).setId = s.setId := id rfl
@[simp] theorem putOut_serials (v) : (s.putOut v).serials = s.serials := id rfl
@[simp] theorem putOut_spl (v) : (s.putOut v).spl = s.spl := id rfl
@[simp] theorem putOut_grp (v) : (s.putOut v).grp = s.grp := id rfl
@[simp] theorem putOut_pmc (v) : (s.putOut v).pmc = s.pmc := id rfl
@[simp] theorem putOut_smbAddr (v) : (s.putOut v).smbAddr = s.smbAddr := id rfl
@[simp] theorem putOut_health (v) : (s.putOut v).health = s.health := id rfl
@[simp] theorem putOut_out (v) : (s.putOut v).out = v := id rfl
@[simp] theorem putOut_free (v) : (s.putOut v).free = s.free := id rfl
@[simp] theorem putOut_pending (v) : (s.putOut v).pending = s.pending := id rfl
@[simp] theorem putOut_sliceReg (v) : (s.putOut v).sliceReg = s.sliceReg := id rfl
@[simp] theorem putFree_order (v) : (s.putFree v).order = s.order := id rfl
@[simp] theorem putFree_regs (v) : (s.putFree v).regs = s.regs := id rfl
@[simp] theorem putFree_shadow (v) : (s.putFree v).shadow = s.shadow := id rfl
@[simp] theorem putFree_held (v) : (s.putFree v).held = s.held := id rfl
@[simp] theorem putFree_sliceDone (v) : (s.putFree v).sliceDone = s.sliceDone := id rfl
@[simp] theorem putFree_pins (v) : (s.putFree v).pins = s.pins := id rfl
@[simp] theorem putFree_clk (v) : (s.putFree v).clk = s.clk := id rfl
@[simp] theorem putFree_rate (v) : (s.putFree v).rate = s.rate := id rfl
@[simp] theorem putFree_intc (v) : (s.putFree v).intc = s.intc := id rfl
@[simp] theorem putFree_msixMask (v) : (s.putFree v).msixMask = s.msixMask := id rfl
@[simp] theorem putFree_msixPend (v) : (s.putFree v).msixPend = s.msixPend := id rfl
@[simp] theorem putFree_pace (v) : (s.putFree v).pace = s.pace := id rfl
@[simp] theorem putFree_bridgeWait (v) : (s.putFree v).bridgeWait = s.bridgeWait := id rfl
@[simp] theorem putFree_seq (v) : (s.putFree v).seq = s.seq := id rfl
@[simp] theorem putFree_flog (v) : (s.putFree v).flog = s.flog := id rfl
@[simp] theorem putFree_therm (v) : (s.putFree v).therm = s.therm := id rfl
@[simp] theorem putFree_keep (v) : (s.putFree v).keep = s.keep := id rfl
@[simp] theorem putFree_ham (v) : (s.putFree v).ham = s.ham := id rfl
@[simp] theorem putFree_pat (v) : (s.putFree v).pat = s.pat := id rfl
@[simp] theorem putFree_plan (v) : (s.putFree v).plan = s.plan := id rfl
@[simp] theorem putFree_start (v) : (s.putFree v).start = s.start := id rfl
@[simp] theorem putFree_ports (v) : (s.putFree v).ports = s.ports := id rfl
@[simp] theorem putFree_lds (v) : (s.putFree v).lds = s.lds := id rfl
@[simp] theorem putFree_reqs (v) : (s.putFree v).reqs = s.reqs := id rfl
@[simp] theorem putFree_nextReq (v) : (s.putFree v).nextReq = s.nextReq := id rfl
@[simp] theorem putFree_cache (v) : (s.putFree v).cache = s.cache := id rfl
@[simp] theorem putFree_xlt (v) : (s.putFree v).xlt = s.xlt := id rfl
@[simp] theorem putFree_med (v) : (s.putFree v).med = s.med := id rfl
@[simp] theorem putFree_coh (v) : (s.putFree v).coh = s.coh := id rfl
@[simp] theorem putFree_flush (v) : (s.putFree v).flush = s.flush := id rfl
@[simp] theorem putFree_integ (v) : (s.putFree v).integ = s.integ := id rfl
@[simp] theorem putFree_dbg (v) : (s.putFree v).dbg = s.dbg := id rfl
@[simp] theorem putFree_cip (v) : (s.putFree v).cip = s.cip := id rfl
@[simp] theorem putFree_links (v) : (s.putFree v).links = s.links := id rfl
@[simp] theorem putFree_carts (v) : (s.putFree v).carts = s.carts := id rfl
@[simp] theorem putFree_setId (v) : (s.putFree v).setId = s.setId := id rfl
@[simp] theorem putFree_serials (v) : (s.putFree v).serials = s.serials := id rfl
@[simp] theorem putFree_spl (v) : (s.putFree v).spl = s.spl := id rfl
@[simp] theorem putFree_grp (v) : (s.putFree v).grp = s.grp := id rfl
@[simp] theorem putFree_pmc (v) : (s.putFree v).pmc = s.pmc := id rfl
@[simp] theorem putFree_smbAddr (v) : (s.putFree v).smbAddr = s.smbAddr := id rfl
@[simp] theorem putFree_health (v) : (s.putFree v).health = s.health := id rfl
@[simp] theorem putFree_out (v) : (s.putFree v).out = s.out := id rfl
@[simp] theorem putFree_free (v) : (s.putFree v).free = v := id rfl
@[simp] theorem putFree_pending (v) : (s.putFree v).pending = s.pending := id rfl
@[simp] theorem putFree_sliceReg (v) : (s.putFree v).sliceReg = s.sliceReg := id rfl
@[simp] theorem putPending_order (v) : (s.putPending v).order = s.order := id rfl
@[simp] theorem putPending_regs (v) : (s.putPending v).regs = s.regs := id rfl
@[simp] theorem putPending_shadow (v) : (s.putPending v).shadow = s.shadow := id rfl
@[simp] theorem putPending_held (v) : (s.putPending v).held = s.held := id rfl
@[simp] theorem putPending_sliceDone (v) : (s.putPending v).sliceDone = s.sliceDone := id rfl
@[simp] theorem putPending_pins (v) : (s.putPending v).pins = s.pins := id rfl
@[simp] theorem putPending_clk (v) : (s.putPending v).clk = s.clk := id rfl
@[simp] theorem putPending_rate (v) : (s.putPending v).rate = s.rate := id rfl
@[simp] theorem putPending_intc (v) : (s.putPending v).intc = s.intc := id rfl
@[simp] theorem putPending_msixMask (v) : (s.putPending v).msixMask = s.msixMask := id rfl
@[simp] theorem putPending_msixPend (v) : (s.putPending v).msixPend = s.msixPend := id rfl
@[simp] theorem putPending_pace (v) : (s.putPending v).pace = s.pace := id rfl
@[simp] theorem putPending_bridgeWait (v) : (s.putPending v).bridgeWait = s.bridgeWait := id rfl
@[simp] theorem putPending_seq (v) : (s.putPending v).seq = s.seq := id rfl
@[simp] theorem putPending_flog (v) : (s.putPending v).flog = s.flog := id rfl
@[simp] theorem putPending_therm (v) : (s.putPending v).therm = s.therm := id rfl
@[simp] theorem putPending_keep (v) : (s.putPending v).keep = s.keep := id rfl
@[simp] theorem putPending_ham (v) : (s.putPending v).ham = s.ham := id rfl
@[simp] theorem putPending_pat (v) : (s.putPending v).pat = s.pat := id rfl
@[simp] theorem putPending_plan (v) : (s.putPending v).plan = s.plan := id rfl
@[simp] theorem putPending_start (v) : (s.putPending v).start = s.start := id rfl
@[simp] theorem putPending_ports (v) : (s.putPending v).ports = s.ports := id rfl
@[simp] theorem putPending_lds (v) : (s.putPending v).lds = s.lds := id rfl
@[simp] theorem putPending_reqs (v) : (s.putPending v).reqs = s.reqs := id rfl
@[simp] theorem putPending_nextReq (v) : (s.putPending v).nextReq = s.nextReq := id rfl
@[simp] theorem putPending_cache (v) : (s.putPending v).cache = s.cache := id rfl
@[simp] theorem putPending_xlt (v) : (s.putPending v).xlt = s.xlt := id rfl
@[simp] theorem putPending_med (v) : (s.putPending v).med = s.med := id rfl
@[simp] theorem putPending_coh (v) : (s.putPending v).coh = s.coh := id rfl
@[simp] theorem putPending_flush (v) : (s.putPending v).flush = s.flush := id rfl
@[simp] theorem putPending_integ (v) : (s.putPending v).integ = s.integ := id rfl
@[simp] theorem putPending_dbg (v) : (s.putPending v).dbg = s.dbg := id rfl
@[simp] theorem putPending_cip (v) : (s.putPending v).cip = s.cip := id rfl
@[simp] theorem putPending_links (v) : (s.putPending v).links = s.links := id rfl
@[simp] theorem putPending_carts (v) : (s.putPending v).carts = s.carts := id rfl
@[simp] theorem putPending_setId (v) : (s.putPending v).setId = s.setId := id rfl
@[simp] theorem putPending_serials (v) : (s.putPending v).serials = s.serials := id rfl
@[simp] theorem putPending_spl (v) : (s.putPending v).spl = s.spl := id rfl
@[simp] theorem putPending_grp (v) : (s.putPending v).grp = s.grp := id rfl
@[simp] theorem putPending_pmc (v) : (s.putPending v).pmc = s.pmc := id rfl
@[simp] theorem putPending_smbAddr (v) : (s.putPending v).smbAddr = s.smbAddr := id rfl
@[simp] theorem putPending_health (v) : (s.putPending v).health = s.health := id rfl
@[simp] theorem putPending_out (v) : (s.putPending v).out = s.out := id rfl
@[simp] theorem putPending_free (v) : (s.putPending v).free = s.free := id rfl
@[simp] theorem putPending_pending (v) : (s.putPending v).pending = v := id rfl
@[simp] theorem putPending_sliceReg (v) : (s.putPending v).sliceReg = s.sliceReg := id rfl
@[simp] theorem putSliceReg_order (v) : (s.putSliceReg v).order = s.order := id rfl
@[simp] theorem putSliceReg_regs (v) : (s.putSliceReg v).regs = s.regs := id rfl
@[simp] theorem putSliceReg_shadow (v) : (s.putSliceReg v).shadow = s.shadow := id rfl
@[simp] theorem putSliceReg_held (v) : (s.putSliceReg v).held = s.held := id rfl
@[simp] theorem putSliceReg_sliceDone (v) : (s.putSliceReg v).sliceDone = s.sliceDone := id rfl
@[simp] theorem putSliceReg_pins (v) : (s.putSliceReg v).pins = s.pins := id rfl
@[simp] theorem putSliceReg_clk (v) : (s.putSliceReg v).clk = s.clk := id rfl
@[simp] theorem putSliceReg_rate (v) : (s.putSliceReg v).rate = s.rate := id rfl
@[simp] theorem putSliceReg_intc (v) : (s.putSliceReg v).intc = s.intc := id rfl
@[simp] theorem putSliceReg_msixMask (v) : (s.putSliceReg v).msixMask = s.msixMask := id rfl
@[simp] theorem putSliceReg_msixPend (v) : (s.putSliceReg v).msixPend = s.msixPend := id rfl
@[simp] theorem putSliceReg_pace (v) : (s.putSliceReg v).pace = s.pace := id rfl
@[simp] theorem putSliceReg_bridgeWait (v) : (s.putSliceReg v).bridgeWait = s.bridgeWait := id rfl
@[simp] theorem putSliceReg_seq (v) : (s.putSliceReg v).seq = s.seq := id rfl
@[simp] theorem putSliceReg_flog (v) : (s.putSliceReg v).flog = s.flog := id rfl
@[simp] theorem putSliceReg_therm (v) : (s.putSliceReg v).therm = s.therm := id rfl
@[simp] theorem putSliceReg_keep (v) : (s.putSliceReg v).keep = s.keep := id rfl
@[simp] theorem putSliceReg_ham (v) : (s.putSliceReg v).ham = s.ham := id rfl
@[simp] theorem putSliceReg_pat (v) : (s.putSliceReg v).pat = s.pat := id rfl
@[simp] theorem putSliceReg_plan (v) : (s.putSliceReg v).plan = s.plan := id rfl
@[simp] theorem putSliceReg_start (v) : (s.putSliceReg v).start = s.start := id rfl
@[simp] theorem putSliceReg_ports (v) : (s.putSliceReg v).ports = s.ports := id rfl
@[simp] theorem putSliceReg_lds (v) : (s.putSliceReg v).lds = s.lds := id rfl
@[simp] theorem putSliceReg_reqs (v) : (s.putSliceReg v).reqs = s.reqs := id rfl
@[simp] theorem putSliceReg_nextReq (v) : (s.putSliceReg v).nextReq = s.nextReq := id rfl
@[simp] theorem putSliceReg_cache (v) : (s.putSliceReg v).cache = s.cache := id rfl
@[simp] theorem putSliceReg_xlt (v) : (s.putSliceReg v).xlt = s.xlt := id rfl
@[simp] theorem putSliceReg_med (v) : (s.putSliceReg v).med = s.med := id rfl
@[simp] theorem putSliceReg_coh (v) : (s.putSliceReg v).coh = s.coh := id rfl
@[simp] theorem putSliceReg_flush (v) : (s.putSliceReg v).flush = s.flush := id rfl
@[simp] theorem putSliceReg_integ (v) : (s.putSliceReg v).integ = s.integ := id rfl
@[simp] theorem putSliceReg_dbg (v) : (s.putSliceReg v).dbg = s.dbg := id rfl
@[simp] theorem putSliceReg_cip (v) : (s.putSliceReg v).cip = s.cip := id rfl
@[simp] theorem putSliceReg_links (v) : (s.putSliceReg v).links = s.links := id rfl
@[simp] theorem putSliceReg_carts (v) : (s.putSliceReg v).carts = s.carts := id rfl
@[simp] theorem putSliceReg_setId (v) : (s.putSliceReg v).setId = s.setId := id rfl
@[simp] theorem putSliceReg_serials (v) : (s.putSliceReg v).serials = s.serials := id rfl
@[simp] theorem putSliceReg_spl (v) : (s.putSliceReg v).spl = s.spl := id rfl
@[simp] theorem putSliceReg_grp (v) : (s.putSliceReg v).grp = s.grp := id rfl
@[simp] theorem putSliceReg_pmc (v) : (s.putSliceReg v).pmc = s.pmc := id rfl
@[simp] theorem putSliceReg_smbAddr (v) : (s.putSliceReg v).smbAddr = s.smbAddr := id rfl
@[simp] theorem putSliceReg_health (v) : (s.putSliceReg v).health = s.health := id rfl
@[simp] theorem putSliceReg_out (v) : (s.putSliceReg v).out = s.out := id rfl
@[simp] theorem putSliceReg_free (v) : (s.putSliceReg v).free = s.free := id rfl
@[simp] theorem putSliceReg_pending (v) : (s.putSliceReg v).pending = s.pending := id rfl
@[simp] theorem putSliceReg_sliceReg (v) : (s.putSliceReg v).sliceReg = v := id rfl
@[simp] theorem setReg_order (o v) : (s.setReg o v).order = s.order := id rfl
@[simp] theorem setF_order (f v) : (s.setF f v).order = s.order := id rfl
@[simp] theorem emit_order (m) : (s.emit m).order = s.order := id rfl
@[simp] theorem emit_regs (m) : (s.emit m).regs = s.regs := id rfl
@[simp] theorem setReg_shadow (o v) : (s.setReg o v).shadow = s.shadow := id rfl
@[simp] theorem setF_shadow (f v) : (s.setF f v).shadow = s.shadow := id rfl
@[simp] theorem emit_shadow (m) : (s.emit m).shadow = s.shadow := id rfl
@[simp] theorem setReg_held (o v) : (s.setReg o v).held = s.held := id rfl
@[simp] theorem setF_held (f v) : (s.setF f v).held = s.held := id rfl
@[simp] theorem emit_held (m) : (s.emit m).held = s.held := id rfl
@[simp] theorem setReg_sliceDone (o v) : (s.setReg o v).sliceDone = s.sliceDone := id rfl
@[simp] theorem setF_sliceDone (f v) : (s.setF f v).sliceDone = s.sliceDone := id rfl
@[simp] theorem emit_sliceDone (m) : (s.emit m).sliceDone = s.sliceDone := id rfl
@[simp] theorem setReg_pins (o v) : (s.setReg o v).pins = s.pins := id rfl
@[simp] theorem setF_pins (f v) : (s.setF f v).pins = s.pins := id rfl
@[simp] theorem emit_pins (m) : (s.emit m).pins = s.pins := id rfl
@[simp] theorem setReg_clk (o v) : (s.setReg o v).clk = s.clk := id rfl
@[simp] theorem setF_clk (f v) : (s.setF f v).clk = s.clk := id rfl
@[simp] theorem emit_clk (m) : (s.emit m).clk = s.clk := id rfl
@[simp] theorem setReg_rate (o v) : (s.setReg o v).rate = s.rate := id rfl
@[simp] theorem setF_rate (f v) : (s.setF f v).rate = s.rate := id rfl
@[simp] theorem emit_rate (m) : (s.emit m).rate = s.rate := id rfl
@[simp] theorem setReg_intc (o v) : (s.setReg o v).intc = s.intc := id rfl
@[simp] theorem setF_intc (f v) : (s.setF f v).intc = s.intc := id rfl
@[simp] theorem emit_intc (m) : (s.emit m).intc = s.intc := id rfl
@[simp] theorem setReg_msixMask (o v) : (s.setReg o v).msixMask = s.msixMask := id rfl
@[simp] theorem setF_msixMask (f v) : (s.setF f v).msixMask = s.msixMask := id rfl
@[simp] theorem emit_msixMask (m) : (s.emit m).msixMask = s.msixMask := id rfl
@[simp] theorem setReg_msixPend (o v) : (s.setReg o v).msixPend = s.msixPend := id rfl
@[simp] theorem setF_msixPend (f v) : (s.setF f v).msixPend = s.msixPend := id rfl
@[simp] theorem emit_msixPend (m) : (s.emit m).msixPend = s.msixPend := id rfl
@[simp] theorem setReg_pace (o v) : (s.setReg o v).pace = s.pace := id rfl
@[simp] theorem setF_pace (f v) : (s.setF f v).pace = s.pace := id rfl
@[simp] theorem emit_pace (m) : (s.emit m).pace = s.pace := id rfl
@[simp] theorem setReg_bridgeWait (o v) : (s.setReg o v).bridgeWait = s.bridgeWait := id rfl
@[simp] theorem setF_bridgeWait (f v) : (s.setF f v).bridgeWait = s.bridgeWait := id rfl
@[simp] theorem emit_bridgeWait (m) : (s.emit m).bridgeWait = s.bridgeWait := id rfl
@[simp] theorem setReg_seq (o v) : (s.setReg o v).seq = s.seq := id rfl
@[simp] theorem setF_seq (f v) : (s.setF f v).seq = s.seq := id rfl
@[simp] theorem emit_seq (m) : (s.emit m).seq = s.seq := id rfl
@[simp] theorem setReg_flog (o v) : (s.setReg o v).flog = s.flog := id rfl
@[simp] theorem setF_flog (f v) : (s.setF f v).flog = s.flog := id rfl
@[simp] theorem emit_flog (m) : (s.emit m).flog = s.flog := id rfl
@[simp] theorem setReg_therm (o v) : (s.setReg o v).therm = s.therm := id rfl
@[simp] theorem setF_therm (f v) : (s.setF f v).therm = s.therm := id rfl
@[simp] theorem emit_therm (m) : (s.emit m).therm = s.therm := id rfl
@[simp] theorem setReg_keep (o v) : (s.setReg o v).keep = s.keep := id rfl
@[simp] theorem setF_keep (f v) : (s.setF f v).keep = s.keep := id rfl
@[simp] theorem emit_keep (m) : (s.emit m).keep = s.keep := id rfl
@[simp] theorem setReg_ham (o v) : (s.setReg o v).ham = s.ham := id rfl
@[simp] theorem setF_ham (f v) : (s.setF f v).ham = s.ham := id rfl
@[simp] theorem emit_ham (m) : (s.emit m).ham = s.ham := id rfl
@[simp] theorem setReg_pat (o v) : (s.setReg o v).pat = s.pat := id rfl
@[simp] theorem setF_pat (f v) : (s.setF f v).pat = s.pat := id rfl
@[simp] theorem emit_pat (m) : (s.emit m).pat = s.pat := id rfl
@[simp] theorem setReg_plan (o v) : (s.setReg o v).plan = s.plan := id rfl
@[simp] theorem setF_plan (f v) : (s.setF f v).plan = s.plan := id rfl
@[simp] theorem emit_plan (m) : (s.emit m).plan = s.plan := id rfl
@[simp] theorem setReg_start (o v) : (s.setReg o v).start = s.start := id rfl
@[simp] theorem setF_start (f v) : (s.setF f v).start = s.start := id rfl
@[simp] theorem emit_start (m) : (s.emit m).start = s.start := id rfl
@[simp] theorem setReg_ports (o v) : (s.setReg o v).ports = s.ports := id rfl
@[simp] theorem setF_ports (f v) : (s.setF f v).ports = s.ports := id rfl
@[simp] theorem emit_ports (m) : (s.emit m).ports = s.ports := id rfl
@[simp] theorem setReg_lds (o v) : (s.setReg o v).lds = s.lds := id rfl
@[simp] theorem setF_lds (f v) : (s.setF f v).lds = s.lds := id rfl
@[simp] theorem emit_lds (m) : (s.emit m).lds = s.lds := id rfl
@[simp] theorem setReg_reqs (o v) : (s.setReg o v).reqs = s.reqs := id rfl
@[simp] theorem setF_reqs (f v) : (s.setF f v).reqs = s.reqs := id rfl
@[simp] theorem emit_reqs (m) : (s.emit m).reqs = s.reqs := id rfl
@[simp] theorem setReg_nextReq (o v) : (s.setReg o v).nextReq = s.nextReq := id rfl
@[simp] theorem setF_nextReq (f v) : (s.setF f v).nextReq = s.nextReq := id rfl
@[simp] theorem emit_nextReq (m) : (s.emit m).nextReq = s.nextReq := id rfl
@[simp] theorem setReg_cache (o v) : (s.setReg o v).cache = s.cache := id rfl
@[simp] theorem setF_cache (f v) : (s.setF f v).cache = s.cache := id rfl
@[simp] theorem emit_cache (m) : (s.emit m).cache = s.cache := id rfl
@[simp] theorem setReg_xlt (o v) : (s.setReg o v).xlt = s.xlt := id rfl
@[simp] theorem setF_xlt (f v) : (s.setF f v).xlt = s.xlt := id rfl
@[simp] theorem emit_xlt (m) : (s.emit m).xlt = s.xlt := id rfl
@[simp] theorem setReg_med (o v) : (s.setReg o v).med = s.med := id rfl
@[simp] theorem setF_med (f v) : (s.setF f v).med = s.med := id rfl
@[simp] theorem emit_med (m) : (s.emit m).med = s.med := id rfl
@[simp] theorem setReg_coh (o v) : (s.setReg o v).coh = s.coh := id rfl
@[simp] theorem setF_coh (f v) : (s.setF f v).coh = s.coh := id rfl
@[simp] theorem emit_coh (m) : (s.emit m).coh = s.coh := id rfl
@[simp] theorem setReg_flush (o v) : (s.setReg o v).flush = s.flush := id rfl
@[simp] theorem setF_flush (f v) : (s.setF f v).flush = s.flush := id rfl
@[simp] theorem emit_flush (m) : (s.emit m).flush = s.flush := id rfl
@[simp] theorem setReg_integ (o v) : (s.setReg o v).integ = s.integ := id rfl
@[simp] theorem setF_integ (f v) : (s.setF f v).integ = s.integ := id rfl
@[simp] theorem emit_integ (m) : (s.emit m).integ = s.integ := id rfl
@[simp] theorem setReg_dbg (o v) : (s.setReg o v).dbg = s.dbg := id rfl
@[simp] theorem setF_dbg (f v) : (s.setF f v).dbg = s.dbg := id rfl
@[simp] theorem emit_dbg (m) : (s.emit m).dbg = s.dbg := id rfl
@[simp] theorem setReg_cip (o v) : (s.setReg o v).cip = s.cip := id rfl
@[simp] theorem setF_cip (f v) : (s.setF f v).cip = s.cip := id rfl
@[simp] theorem emit_cip (m) : (s.emit m).cip = s.cip := id rfl
@[simp] theorem setReg_links (o v) : (s.setReg o v).links = s.links := id rfl
@[simp] theorem setF_links (f v) : (s.setF f v).links = s.links := id rfl
@[simp] theorem emit_links (m) : (s.emit m).links = s.links := id rfl
@[simp] theorem setReg_carts (o v) : (s.setReg o v).carts = s.carts := id rfl
@[simp] theorem setF_carts (f v) : (s.setF f v).carts = s.carts := id rfl
@[simp] theorem emit_carts (m) : (s.emit m).carts = s.carts := id rfl
@[simp] theorem setReg_setId (o v) : (s.setReg o v).setId = s.setId := id rfl
@[simp] theorem setF_setId (f v) : (s.setF f v).setId = s.setId := id rfl
@[simp] theorem emit_setId (m) : (s.emit m).setId = s.setId := id rfl
@[simp] theorem setReg_serials (o v) : (s.setReg o v).serials = s.serials := id rfl
@[simp] theorem setF_serials (f v) : (s.setF f v).serials = s.serials := id rfl
@[simp] theorem emit_serials (m) : (s.emit m).serials = s.serials := id rfl
@[simp] theorem setReg_spl (o v) : (s.setReg o v).spl = s.spl := id rfl
@[simp] theorem setF_spl (f v) : (s.setF f v).spl = s.spl := id rfl
@[simp] theorem emit_spl (m) : (s.emit m).spl = s.spl := id rfl
@[simp] theorem setReg_grp (o v) : (s.setReg o v).grp = s.grp := id rfl
@[simp] theorem setF_grp (f v) : (s.setF f v).grp = s.grp := id rfl
@[simp] theorem emit_grp (m) : (s.emit m).grp = s.grp := id rfl
@[simp] theorem setReg_pmc (o v) : (s.setReg o v).pmc = s.pmc := id rfl
@[simp] theorem setF_pmc (f v) : (s.setF f v).pmc = s.pmc := id rfl
@[simp] theorem emit_pmc (m) : (s.emit m).pmc = s.pmc := id rfl
@[simp] theorem setReg_smbAddr (o v) : (s.setReg o v).smbAddr = s.smbAddr := id rfl
@[simp] theorem setF_smbAddr (f v) : (s.setF f v).smbAddr = s.smbAddr := id rfl
@[simp] theorem emit_smbAddr (m) : (s.emit m).smbAddr = s.smbAddr := id rfl
@[simp] theorem setReg_health (o v) : (s.setReg o v).health = s.health := id rfl
@[simp] theorem setF_health (f v) : (s.setF f v).health = s.health := id rfl
@[simp] theorem emit_health (m) : (s.emit m).health = s.health := id rfl
@[simp] theorem setReg_out (o v) : (s.setReg o v).out = s.out := id rfl
@[simp] theorem setF_out (f v) : (s.setF f v).out = s.out := id rfl
@[simp] theorem setReg_free (o v) : (s.setReg o v).free = s.free := id rfl
@[simp] theorem setF_free (f v) : (s.setF f v).free = s.free := id rfl
@[simp] theorem emit_free (m) : (s.emit m).free = s.free := id rfl
@[simp] theorem setReg_pending (o v) : (s.setReg o v).pending = s.pending := id rfl
@[simp] theorem setF_pending (f v) : (s.setF f v).pending = s.pending := id rfl
@[simp] theorem emit_pending (m) : (s.emit m).pending = s.pending := id rfl
@[simp] theorem setReg_sliceReg (o v) : (s.setReg o v).sliceReg = s.sliceReg := id rfl
@[simp] theorem setF_sliceReg (f v) : (s.setF f v).sliceReg = s.sliceReg := id rfl
@[simp] theorem emit_sliceReg (m) : (s.emit m).sliceReg = s.sliceReg := id rfl
@[simp] theorem emit_out (m) : (s.emit m).out = s.out ++ [m] := id rfl

/-- A part that is not the register window leaves every register as it was. -/
theorem reg_congr {s t : State} (h : t.regs = s.regs) (o : Nat) : t.reg o = s.reg o := by unfold reg; rw [h]

end Sys2Proof.Machine.State
end

