-- ==== Sys2Proof/Laws/Reg.lean ====
section
/-!
SUPPORT. Registers and their fields: what a read gives after a write, and that reporting an event (firing a source, writing a Hamper
record, counting a lifetime event, logging a CXL event) leaves every register outside the INT, KPS and HMP blocks as it was.
-/
namespace Sys2Proof.Machine

theorem State.reg_setReg (s : State) (o p : Nat) (v : Word) : (s.setReg o v).reg p = if p = o then v else s.reg p :=
  Tab.get_set _ _ _ _ _

/-- The number that a write of a field leaves in its register. -/
def fieldWord (old lo w v : Nat) : Nat := old - old / 2 ^ lo % 2 ^ w * 2 ^ lo + v % 2 ^ w * 2 ^ lo

theorem fieldWord_eq (old lo w v : Nat) :
    fieldWord old lo w v = old % 2 ^ lo + 2 ^ lo * (v % 2 ^ w + 2 ^ w * (old / 2 ^ lo / 2 ^ w)) := by
  have h1 := Nat.div_add_mod old (2 ^ lo)
  have h2 := Nat.div_add_mod (old / 2 ^ lo) (2 ^ w)
  unfold fieldWord
  generalize old / 2 ^ lo / 2 ^ w = q at *
  generalize old / 2 ^ lo % 2 ^ w = r at *
  generalize old % 2 ^ lo = l at *
  generalize v % 2 ^ w = x
  rw [← h2] at h1
  rw [← h1]
  simp only [Nat.mul_add]
  rw [Nat.mul_comm r, Nat.mul_comm x]
  omega

theorem fieldWord_lt {old lo w v : Nat} (ho : old < 2 ^ 32) (h : lo + w ≤ 32) : fieldWord old lo w v < 2 ^ 32 := by
  have hp : 0 < 2 ^ lo := Nat.two_pow_pos lo
  have hw : 0 < 2 ^ w := Nat.two_pow_pos w
  have e : 2 ^ 32 = 2 ^ lo * (2 ^ w * 2 ^ (32 - lo - w)) := by
    rw [← Nat.pow_add, ← Nat.pow_add]; congr 1; omega
  have hq : old / 2 ^ lo / 2 ^ w < 2 ^ (32 - lo - w) := by
    rw [Nat.div_div_eq_div_mul]
    exact Nat.div_lt_of_lt_mul (by rw [Nat.mul_assoc]; omega)
  rw [fieldWord_eq, e]
  have h1 := Nat.mod_lt old hp
  have h2 := Nat.mod_lt v hw
  have h3 : v % 2 ^ w + 2 ^ w * (old / 2 ^ lo / 2 ^ w) < 2 ^ w * 2 ^ (32 - lo - w) := by
    calc _ < 2 ^ w + 2 ^ w * (old / 2 ^ lo / 2 ^ w) := by omega
      _ = 2 ^ w * (old / 2 ^ lo / 2 ^ w + 1) := by rw [Nat.mul_add, Nat.mul_one, Nat.add_comm]
      _ ≤ _ := Nat.mul_le_mul_left _ hq
  calc _ < 2 ^ lo + 2 ^ lo * (v % 2 ^ w + 2 ^ w * (old / 2 ^ lo / 2 ^ w)) := by omega
    _ = 2 ^ lo * (v % 2 ^ w + 2 ^ w * (old / 2 ^ lo / 2 ^ w) + 1) := by rw [Nat.mul_add (2 ^ lo) _ 1, Nat.mul_one, Nat.add_comm]
    _ ≤ _ := Nat.mul_le_mul_left _ h3

/-- The register after a field write. -/
theorem State.reg_setF {f : Fld} (h : f.lo + f.w ≤ 32) (s : State) (v : Nat) :
    ((s.setF f v).reg f.off).toNat = fieldWord (s.reg f.off).toNat f.lo f.w v := by
  unfold State.setF
  rw [State.reg_setReg, if_pos rfl, BitVec.toNat_ofNat]
  exact Nat.mod_eq_of_lt (fieldWord_lt (s.reg f.off).isLt h)

theorem State.reg_setF_other (s : State) {f : Fld} {o : Nat} (h : o ≠ f.off) (v : Nat) : (s.setF f v).reg o = s.reg o := by
  unfold State.setF; rw [State.reg_setReg, if_neg h]

/-- A field reads back what was written to it. -/
theorem State.getF_setF {f : Fld} (h : f.lo + f.w ≤ 32) (s : State) (v : Nat) : (s.setF f v).getF f = v % 2 ^ f.w := by
  unfold State.getF
  rw [State.reg_setF h, fieldWord_eq]
  have hp : 0 < 2 ^ f.lo := Nat.two_pow_pos _
  rw [Nat.add_mul_div_left _ _ hp, Nat.div_eq_of_lt (Nat.mod_lt _ hp), Nat.zero_add, Nat.add_mul_mod_self_left, Nat.mod_mod]

/-- A field of another register is as it was. -/
theorem State.getF_setF_off (s : State) {f g : Fld} (h : g.off ≠ f.off) (v : Nat) : (s.setF f v).getF g = s.getF g := by
  unfold State.getF; rw [State.reg_setF_other s h]

/-- A field of the same register at other bits is as it was. -/
theorem State.getF_setF_bits {f g : Fld} (hf : f.lo + f.w ≤ 32) (h : g.lo + g.w ≤ f.lo ∨ f.lo + f.w ≤ g.lo) (s : State) (v : Nat)
    (ho : g.off = f.off) : (s.setF f v).getF g = s.getF g := by
  unfold State.getF
  rw [ho, State.reg_setF hf]
  generalize (s.reg f.off).toNat = old
  obtain ⟨fo, lo, w⟩ := f
  obtain ⟨go, lo', w'⟩ := g
  dsimp only at *
  rw [fieldWord_eq]
  rcases h with h | h
  · have e : 2 ^ lo = 2 ^ lo' * (2 ^ w' * 2 ^ (lo - lo' - w')) := by rw [← Nat.pow_add, ← Nat.pow_add]; congr 1; omega
    have h1 := Nat.div_add_mod old (2 ^ lo)
    rw [← Nat.mod_mul_right_div_self, ← Nat.mod_mul_right_div_self]
    congr 1
    conv => rhs; rw [← h1]
    have hd : 2 ^ lo' * 2 ^ w' ∣ 2 ^ lo := ⟨2 ^ (lo - lo' - w'), by rw [e, Nat.mul_assoc]⟩
    obtain ⟨c, hc⟩ := hd
    rw [hc]
    generalize v % 2 ^ w + 2 ^ w * (old / (2 ^ lo' * 2 ^ w' * c) / 2 ^ w) = A
    generalize old / (2 ^ lo' * 2 ^ w' * c) = B
    rw [Nat.add_comm (_ * B), Nat.mul_assoc (2 ^ lo' * 2 ^ w') c A, Nat.mul_assoc (2 ^ lo' * 2 ^ w') c B, Nat.add_mul_mod_self_left,
      Nat.add_mul_mod_self_left]
  · have e : 2 ^ lo' = 2 ^ lo * (2 ^ w * 2 ^ (lo' - lo - w)) := by rw [← Nat.pow_add, ← Nat.pow_add]; congr 1; omega
    have hp : 0 < 2 ^ lo := Nat.two_pow_pos _
    have hw : 0 < 2 ^ w := Nat.two_pow_pos _
    rw [e]
    simp only [← Nat.div_div_eq_div_mul]
    rw [Nat.add_mul_div_left _ _ hp, Nat.div_eq_of_lt (Nat.mod_lt _ hp), Nat.zero_add,
      Nat.add_mul_div_left _ _ hw, Nat.div_eq_of_lt (Nat.mod_lt _ hw), Nat.zero_add]

/-- A field of another register, or at other bits of the same one, is as it was. -/
theorem State.getF_setF_ne {f g : Fld} (s : State) (v : Nat)
    (h : g.off ≠ f.off ∨ (f.lo + f.w ≤ 32 ∧ (g.lo + g.w ≤ f.lo ∨ f.lo + f.w ≤ g.lo))) : (s.setF f v).getF g = s.getF g := by
  by_cases ho : g.off = f.off
  · rcases h with h | h
    · exact absurd ho h
    · exact State.getF_setF_bits h.1 h.2 s v ho
  · exact State.getF_setF_off s ho v

theorem State.getF_lt (s : State) (f : Fld) : s.getF f < 2 ^ f.w := Nat.mod_lt _ (Nat.two_pow_pos _)

/-! ### What reporting leaves alone -/

/-- Registers outside the KPS, HMP and INT blocks are the same, and no cause bit is cleared. -/
def Quiet (s t : State) : Prop :=
  (∀ o, o < 0x30000 ∨ 0x60000 ≤ o → t.reg o = s.reg o) ∧ ∀ n, n < 1024 → s.fired n = true → t.fired n = true

theorem Quiet.refl (s : State) : Quiet s s := ⟨fun _ _ => rfl, fun _ _ h => h⟩

theorem Quiet.trans {s t u : State} (h : Quiet s t) (k : Quiet t u) : Quiet s u :=
  ⟨fun o ho => (k.1 o ho).trans (h.1 o ho), fun n hl hn => k.2 n hl (h.2 n hl hn)⟩

/-- The same, as a rule for the last operation of a chain. -/
theorem Quiet.after {s t u : State} (k : Quiet t u) (h : Quiet s t) : Quiet s u := h.trans k

theorem Quiet.ite {c : Prop} [Decidable c] {s a b : State} (ha : Quiet s a) (hb : Quiet s b) : Quiet s (if c then a else b) := by
  split <;> assumption

theorem Quiet.foldl {α : Type} {f : State → α → State} (l : List α) (hf : ∀ t, ∀ a ∈ l, Quiet t (f t a)) {s t : State}
    (h : Quiet s t) : Quiet s (l.foldl f t) := by
  induction l generalizing t with
  | nil => exact h
  | cons a l ih => exact ih (fun t b hb => hf t b (List.mem_cons_of_mem _ hb)) (h.trans (hf t a List.mem_cons_self))

/-- An operation that touches no register. -/
theorem Quiet.ofRegs {s t : State} (h : t.regs = s.regs) : Quiet s t :=
  ⟨fun o _ => by unfold State.reg; rw [h], fun n _ hn => by
    unfold State.fired State.getF State.reg at *; rwa [h]⟩

/-- An operation whose frame leaves out the registers. -/
theorem Keeps.quiet {m : Nat} {s t : State} (h : Keeps m s t) (hm : m.testBit 1 = false) : Quiet s t := Quiet.ofRegs (h.1 .regs_ hm)

/-- A write of a field in the three blocks, other than a cause register. -/
theorem Quiet.setF (f : Fld) (v : Nat) (s : State) (h : 0x30000 ≤ f.off ∧ f.off < 0x60000)
    (hc : f.off < 0x50080 ∨ 0x50100 ≤ f.off) : Quiet s (s.setF f v) := by
  refine ⟨fun o ho => State.reg_setF_other s (by omega) v, fun n hl hn => ?_⟩
  unfold State.fired at *
  rw [State.getF_setF_off s (by simp only [INT.CAUSE_CAUSE]; omega)]; exact hn

theorem Quiet.countF (f : Fld) (n : Nat) (s : State) (h : 0x30000 ≤ f.off ∧ f.off < 0x60000)
    (hc : f.off < 0x50080 ∨ 0x50100 ≤ f.off) : Quiet s (s.countF f n) := Quiet.setF _ _ _ h hc

theorem Quiet.setFlag (f : Fld) (b : Bool) (s : State) (h : 0x30000 ≤ f.off ∧ f.off < 0x60000)
    (hc : f.off < 0x50080 ∨ 0x50100 ≤ f.off) : Quiet s (s.setFlag f b) := Quiet.setF _ _ _ h hc

/-- Fields outside the three blocks are the same. -/
theorem Quiet.getF {s t : State} (h : Quiet s t) {f : Fld} (hf : f.off < 0x30000 ∨ 0x60000 ≤ f.off) : t.getF f = s.getF f := by
  unfold State.getF; rw [h.1 _ hf]

theorem Quiet.flag {s t : State} (h : Quiet s t) {f : Fld} (hf : f.off < 0x30000 ∨ 0x60000 ≤ f.off) : t.flag f = s.flag f := by
  unfold State.flag; rw [h.getF hf]

theorem State.putOrder_quiet (v) (s : State) : Quiet s (s.putOrder v) := Quiet.ofRegs rfl
theorem State.putShadow_quiet (v) (s : State) : Quiet s (s.putShadow v) := Quiet.ofRegs rfl
theorem State.putHeld_quiet (v) (s : State) : Quiet s (s.putHeld v) := Quiet.ofRegs rfl
theorem State.putSliceDone_quiet (v) (s : State) : Quiet s (s.putSliceDone v) := Quiet.ofRegs rfl
theorem State.putPins_quiet (v) (s : State) : Quiet s (s.putPins v) := Quiet.ofRegs rfl
theorem State.putClk_quiet (v) (s : State) : Quiet s (s.putClk v) := Quiet.ofRegs rfl
theorem State.putRate_quiet (v) (s : State) : Quiet s (s.putRate v) := Quiet.ofRegs rfl
theorem State.putIntc_quiet (v) (s : State) : Quiet s (s.putIntc v) := Quiet.ofRegs rfl
theorem State.putMsixMask_quiet (v) (s : State) : Quiet s (s.putMsixMask v) := Quiet.ofRegs rfl
theorem State.putMsixPend_quiet (v) (s : State) : Quiet s (s.putMsixPend v) := Quiet.ofRegs rfl
theorem State.putPace_quiet (v) (s : State) : Quiet s (s.putPace v) := Quiet.ofRegs rfl
theorem State.putBridgeWait_quiet (v) (s : State) : Quiet s (s.putBridgeWait v) := Quiet.ofRegs rfl
theorem State.putSeq_quiet (v) (s : State) : Quiet s (s.putSeq v) := Quiet.ofRegs rfl
theorem State.putFlog_quiet (v) (s : State) : Quiet s (s.putFlog v) := Quiet.ofRegs rfl
theorem State.putTherm_quiet (v) (s : State) : Quiet s (s.putTherm v) := Quiet.ofRegs rfl
theorem State.putKeep_quiet (v) (s : State) : Quiet s (s.putKeep v) := Quiet.ofRegs rfl
theorem State.putHam_quiet (v) (s : State) : Quiet s (s.putHam v) := Quiet.ofRegs rfl
theorem State.putPat_quiet (v) (s : State) : Quiet s (s.putPat v) := Quiet.ofRegs rfl
theorem State.putPlan_quiet (v) (s : State) : Quiet s (s.putPlan v) := Quiet.ofRegs rfl
theorem State.putStart_quiet (v) (s : State) : Quiet s (s.putStart v) := Quiet.ofRegs rfl
theorem State.putPorts_quiet (v) (s : State) : Quiet s (s.putPorts v) := Quiet.ofRegs rfl
theorem State.putLds_quiet (v) (s : State) : Quiet s (s.putLds v) := Quiet.ofRegs rfl
theorem State.putReqs_quiet (v) (s : State) : Quiet s (s.putReqs v) := Quiet.ofRegs rfl
theorem State.putNextReq_quiet (v) (s : State) : Quiet s (s.putNextReq v) := Quiet.ofRegs rfl
theorem State.putCache_quiet (v) (s : State) : Quiet s (s.putCache v) := Quiet.ofRegs rfl
theorem State.putXlt_quiet (v) (s : State) : Quiet s (s.putXlt v) := Quiet.ofRegs rfl
theorem State.putMed_quiet (v) (s : State) : Quiet s (s.putMed v) := Quiet.ofRegs rfl
theorem State.putCoh_quiet (v) (s : State) : Quiet s (s.putCoh v) := Quiet.ofRegs rfl
theorem State.putFlush_quiet (v) (s : State) : Quiet s (s.putFlush v) := Quiet.ofRegs rfl
theorem State.putInteg_quiet (v) (s : State) : Quiet s (s.putInteg v) := Quiet.ofRegs rfl
theorem State.putDbg_quiet (v) (s : State) : Quiet s (s.putDbg v) := Quiet.ofRegs rfl
theorem State.putCip_quiet (v) (s : State) : Quiet s (s.putCip v) := Quiet.ofRegs rfl
theorem State.putLinks_quiet (v) (s : State) : Quiet s (s.putLinks v) := Quiet.ofRegs rfl
theorem State.putCarts_quiet (v) (s : State) : Quiet s (s.putCarts v) := Quiet.ofRegs rfl
theorem State.putSetId_quiet (v) (s : State) : Quiet s (s.putSetId v) := Quiet.ofRegs rfl
theorem State.putSerials_quiet (v) (s : State) : Quiet s (s.putSerials v) := Quiet.ofRegs rfl
theorem State.putSpl_quiet (v) (s : State) : Quiet s (s.putSpl v) := Quiet.ofRegs rfl
theorem State.putGrp_quiet (v) (s : State) : Quiet s (s.putGrp v) := Quiet.ofRegs rfl
theorem State.putPmc_quiet (v) (s : State) : Quiet s (s.putPmc v) := Quiet.ofRegs rfl
theorem State.putSmbAddr_quiet (v) (s : State) : Quiet s (s.putSmbAddr v) := Quiet.ofRegs rfl
theorem State.putHealth_quiet (v) (s : State) : Quiet s (s.putHealth v) := Quiet.ofRegs rfl
theorem State.putOut_quiet (v) (s : State) : Quiet s (s.putOut v) := Quiet.ofRegs rfl
theorem State.putFree_quiet (v) (s : State) : Quiet s (s.putFree v) := Quiet.ofRegs rfl
theorem State.putPending_quiet (v) (s : State) : Quiet s (s.putPending v) := Quiet.ofRegs rfl

theorem State.sendVector_quiet (n v : Nat) (s : State) : Quiet s (s.sendVector n v) := (State.sendVector_keeps n v s).quiet (by decide)

theorem State.driveAlert_quiet (s : State) : Quiet s s.driveAlert := (State.driveAlert_keeps s).quiet (by decide)

theorem State.presentAt_quiet (t : Nat) (s : State) (ht : t < 17) : Quiet s (s.presentAt t) := by
  unfold State.presentAt
  split
  · exact Quiet.refl s
  split
  · exact Quiet.refl s
  rename_i n _
  have h1 : ∀ u : IntC, Quiet s (s.putIntc u) := fun u => Quiet.ofRegs rfl
  have h2 : ∀ u : IntC, Quiet s (((s.putIntc u).setF (INT.CURRENT_SOURCE t) n).setF (INT.CURRENT_VALID t) 1) := fun u =>
    ((h1 u).trans (Quiet.setF _ _ _ (by simp only [INT.CURRENT_SOURCE]; omega) (by simp only [INT.CURRENT_SOURCE]; omega))).trans
      (Quiet.setF _ _ _ (by simp only [INT.CURRENT_VALID]; omega) (by simp only [INT.CURRENT_VALID]; omega))
  have h3 : ∀ u : IntC, Quiet s ((((s.putIntc u).setF (INT.CURRENT_SOURCE t) n).setF (INT.CURRENT_VALID t) 1).countF (INT.TGT_STATUS_PRESENTED t) 1) :=
    fun u => (h2 u).trans (Quiet.countF _ _ _ (by simp only [INT.TGT_STATUS_PRESENTED]; omega)
      (by simp only [INT.TGT_STATUS_PRESENTED]; omega))
  exact Quiet.ite ((h3 _).trans (State.sendVector_quiet _ _ _)) ((h3 _).trans (State.driveAlert_quiet _))

theorem State.presentAll_quiet (s : State) : Quiet s s.presentAll :=
  Quiet.foldl _ (fun t a ha => State.presentAt_quiet a t (List.mem_range.mp ha)) (Quiet.refl s)

theorem State.markUnseen_quiet (n : Nat) (s : State) : Quiet s (s.markUnseen n) := (State.markUnseen_keeps n s).quiet (by decide)

theorem State.vectorZero_quiet (n : Nat) (s : State) : Quiet s (s.vectorZero n) := (State.vectorZero_keeps n s).quiet (by decide)

/-- What the two registers of a firing hold before it is presented. -/
theorem State.fire_eq (n : Nat) (s : State) (h : reservedSource n = false) :
    ∃ u, Quiet ((s.setF (INT.CAUSE_CAUSE (n / 32)) (s.getF (INT.CAUSE_CAUSE (n / 32)) ||| 2 ^ (n % 32)))) u ∧ Quiet u (s.fire n) := by
  unfold State.fire
  rw [if_neg (by rw [h]; decide)]
  extract_lets -merge g c s1 s2
  refine ⟨s2, Quiet.setF INT.SUMMARY_GROUP _ _ (by decide) (by decide), ?_⟩
  exact (((State.markUnseen_quiet _ _).trans (State.vectorZero_quiet _ _)).trans (State.presentAll_quiet _))

theorem State.fired_setCause (m n : Nat) (s : State) :
    (s.setF (INT.CAUSE_CAUSE (n / 32)) (s.getF (INT.CAUSE_CAUSE (n / 32)) ||| 2 ^ (n % 32))).fired m = (s.fired m || decide (m = n)) := by
  unfold State.fired
  by_cases h : m / 32 = n / 32
  · rw [h, State.getF_setF (by show 0 + 32 ≤ 32; decide)]
    have h1 : s.getF (INT.CAUSE_CAUSE (n / 32)) < 2 ^ 32 := State.getF_lt s (INT.CAUSE_CAUSE (n / 32))
    have h2 : 2 ^ (n % 32) < 2 ^ 32 := Nat.pow_lt_pow_right (by decide) (Nat.mod_lt _ (by decide))
    have h3 : (INT.CAUSE_CAUSE (n / 32)).w = 32 := rfl
    simp only [bit]
    rw [h3, Nat.mod_eq_of_lt (Nat.or_lt_two_pow h1 h2), Nat.testBit_or, Nat.testBit_two_pow]
    congr 1
    rw [decide_eq_decide]
    omega
  · rw [State.getF_setF_off s (by simp only [INT.CAUSE_CAUSE]; omega)]
    rw [decide_eq_false (by omega), Bool.or_false]

theorem reservedSource_big {n : Nat} (h : 992 ≤ n) : reservedSource n = true := by
  unfold reservedSource
  simp only [Bool.or_eq_true, decide_eq_true_eq]
  exact .inr h

/-- A firing leaves the registers outside the INT block alone. -/
theorem State.fire_quiet (n : Nat) (s : State) : Quiet s (s.fire n) := by
  by_cases h : reservedSource n = true
  · unfold State.fire; rw [if_pos h]; exact Quiet.refl s
  · have hn : n < 992 := by
      by_cases h2 : 992 ≤ n
      · exact absurd (reservedSource_big h2) h
      · omega
    obtain ⟨u, h1, h2⟩ := State.fire_eq n s (by simpa using h)
    refine Quiet.trans ⟨fun o ho => ?_, fun m hm hf => ?_⟩ (h1.trans h2)
    · exact State.reg_setF_other s (by simp only [INT.CAUSE_CAUSE]; omega) _
    · rw [State.fired_setCause m n s, hf, Bool.true_or]

/-- A source that is no reserved one has fired once it fires (R519). -/
theorem State.fired_fire {n : Nat} (s : State) (h : reservedSource n = false) : (s.fire n).fired n = true := by
  have hn : n < 992 := by
    by_cases h2 : 992 ≤ n
    · rw [reservedSource_big h2] at h; cases h
    · omega
  obtain ⟨u, h1, h2⟩ := State.fire_eq n s h
  exact (h1.trans h2).2 n (by omega) (by rw [State.fired_setCause n n s, decide_eq_true rfl, Bool.or_true])

theorem State.refuseWrite_quiet (s : State) : Quiet s s.refuseWrite := by
  unfold State.refuseWrite
  have h1 : Quiet s (s.countF KPS.STATUS_REFUSED 1) := Quiet.countF _ _ _ (by decide) (by decide)
  exact Quiet.ite h1 ((h1.trans (State.putKeep_quiet _ _)).trans (State.fire_quiet _ _))

theorem State.lifetime_quiet (c : Nat) (s : State) : Quiet s (s.lifetime c) := by
  unfold State.lifetime
  exact Quiet.ite ((State.lifetimeWrite_keeps c 1 s).quiet (by decide)) ((State.putKeep_quiet _ _).trans (State.refuseWrite_quiet _))

theorem State.hamHold_quiet (r : HamRec) (s : State) : Quiet s (s.hamHold r) := by
  unfold State.hamHold
  refine Quiet.ite (Quiet.ite (State.putHam_quiet _ _) ((State.putHam_quiet _ _).trans (State.refuseWrite_quiet _))) ?_
  have h1 : Quiet s (s.countF HMP.COUNTS_DROPPED 1) := Quiet.countF _ _ _ (by decide) (by decide)
  exact Quiet.ite h1 ((h1.trans (State.putHam_quiet _ _)).trans (State.fire_quiet _ _))

theorem State.set64_quiet (f g : Fld) (v : Nat) (s : State) (hf : 0x30000 ≤ f.off ∧ f.off < 0x50000)
    (hg : 0x30000 ≤ g.off ∧ g.off < 0x50000) : Quiet s (s.set64 f g v) :=
  (Quiet.setF f (v % 2 ^ 32) s (by omega) (by omega)).trans (Quiet.setF g (v / 2 ^ 32) _ (by omega) (by omega))

theorem State.hamRegs_quiet (s : State) : Quiet s s.hamRegs := by
  unfold State.hamRegs
  refine Quiet.trans ?_ (Quiet.setFlag _ _ _ (by decide) (by decide))
  refine Quiet.trans ?_ (Quiet.setF _ _ _ (by decide) (by decide))
  refine Quiet.trans ?_ (State.set64_quiet _ _ _ _ (by decide) (by decide))
  exact State.set64_quiet _ _ _ _ (by decide) (by decide)

/-- Writing a Hamper record leaves every register outside the three blocks alone. -/
theorem State.hamper_quiet (code src : Nat) (payload : List Byte) (s : State) : Quiet s (s.hamper code src payload) := by
  unfold State.hamper
  extract_lets -merge r src s1 s2
  refine Quiet.trans ?_ (State.hamRegs_quiet _)
  have h1 : Quiet s s1 := State.putHam_quiet _ _
  exact Quiet.ite ((h1.trans ((State.hamWriteA_keeps r s1).quiet (by decide))).trans
    ((State.hamGatherB_keeps r (s1.hamWriteA r)).quiet (by decide))) (h1.trans (State.hamHold_quiet _ _))

theorem State.fireRec_quiet (code src : Nat) (payload : List Byte) (s : State) : Quiet s (s.fireRec code src payload) :=
  (State.fire_quiet _ _).trans (State.hamper_quiet _ _ _ _)

theorem State.logEvent_quiet (ld log kind : Nat) (payload : List Nat) (s : State) : Quiet s (s.logEvent ld log kind payload) := by
  unfold State.logEvent
  extract_lets -merge l recs r s1 v
  split
  · exact Quiet.ite (State.putLds_quiet _ _) ((State.putLds_quiet _ _).trans (State.sendVector_quiet _ _ _))
  · split
    extract_lets -merge o s1
    have h1 : Quiet s s1 := State.putLds_quiet _ _
    split
    · exact Quiet.ite (h1.trans (State.fire_quiet _ _)) h1
    · exact h1

theorem State.moduleEvent_quiet (log : Nat) (payload : List Nat) (s : State) : Quiet s (s.moduleEvent log payload) :=
  Quiet.foldl _ (fun t a _ => State.logEvent_quiet a _ _ _ t) (Quiet.refl s)

/-- Reporting changes of the health fields leaves every register outside the three blocks alone. -/
theorem State.healthCheck_quiet (s : State) : Quiet s s.healthCheck := by
  unfold State.healthCheck
  extract_lets -merge new old s1 changed s2 idx
  have h1 : Quiet s s1 := State.putHealth_quiet _ _
  refine Quiet.ite h1 ?_
  have h2 : Quiet s s2 := Quiet.foldl _ (fun t a _ => State.moduleEvent_quiet _ _ _) h1
  refine Quiet.foldl _ (fun t a _ => ?_) h2
  refine Quiet.foldl _ (fun u b _ => ?_) (Quiet.refl _)
  exact Quiet.ite (State.logEvent_quiet _ _ _ _ _) (Quiet.refl _)

/-! ### Fields and causes through an operation that is no write of them -/

theorem State.fire_getF (n : Nat) (s : State) {f : Fld} (h : f.off < 0x30000 ∨ 0x60000 ≤ f.off) : (s.fire n).getF f = s.getF f :=
  (State.fire_quiet n s).getF h
theorem State.hamper_getF (c n : Nat) (p) (s : State) {f : Fld} (h : f.off < 0x30000 ∨ 0x60000 ≤ f.off) :
    (s.hamper c n p).getF f = s.getF f := (State.hamper_quiet c n p s).getF h
theorem State.fireRec_getF (c n : Nat) (p) (s : State) {f : Fld} (h : f.off < 0x30000 ∨ 0x60000 ≤ f.off) :
    (s.fireRec c n p).getF f = s.getF f := (State.fireRec_quiet c n p s).getF h
theorem State.lifetime_getF (c : Nat) (s : State) {f : Fld} (h : f.off < 0x30000 ∨ 0x60000 ≤ f.off) :
    (s.lifetime c).getF f = s.getF f := (State.lifetime_quiet c s).getF h
theorem State.healthCheck_getF (s : State) {f : Fld} (h : f.off < 0x30000 ∨ 0x60000 ≤ f.off) :
    s.healthCheck.getF f = s.getF f := (State.healthCheck_quiet s).getF h
theorem State.logEvent_getF (a b c : Nat) (p) (s : State) {f : Fld} (h : f.off < 0x30000 ∨ 0x60000 ≤ f.off) :
    (s.logEvent a b c p).getF f = s.getF f := (State.logEvent_quiet a b c p s).getF h
theorem State.moduleEvent_getF (a : Nat) (p) (s : State) {f : Fld} (h : f.off < 0x30000 ∨ 0x60000 ≤ f.off) :
    (s.moduleEvent a p).getF f = s.getF f := (State.moduleEvent_quiet a p s).getF h
theorem State.sendVector_getF (a b : Nat) (s : State) (f : Fld) : (s.sendVector a b).getF f = s.getF f := by
  unfold State.getF; rw [State.reg_congr ((State.sendVector_keeps a b s).1 .regs_ (by decide))]
theorem State.setFlag_getF_ne (s : State) {f g : Fld} (b : Bool)
    (h : g.off ≠ f.off ∨ (f.lo + f.w ≤ 32 ∧ (g.lo + g.w ≤ f.lo ∨ f.lo + f.w ≤ g.lo))) : (s.setFlag f b).getF g = s.getF g :=
  State.getF_setF_ne s _ h
theorem State.setFlag_getF (s : State) {f : Fld} (b : Bool) (h : f.lo + f.w ≤ 32) (hw : f.w = 1) :
    (s.setFlag f b).getF f = if b then 1 else 0 := by
  unfold State.setFlag; rw [State.getF_setF h, hw]; cases b <;> rfl

/-- A write of a field that is no cause bit leaves the causes alone. -/
theorem State.setF_fired {f : Fld} (n v : Nat) (s : State) (hn : n < 1024) (h : f.off < 0x50080 ∨ 0x50100 ≤ f.off) :
    (s.setF f v).fired n = s.fired n := by
  unfold State.fired; rw [State.getF_setF_off s (by simp only [INT.CAUSE_CAUSE]; omega)]
theorem State.setFlag_fired {f : Fld} (n : Nat) (b : Bool) (s : State) (hn : n < 1024) (h : f.off < 0x50080 ∨ 0x50100 ≤ f.off) :
    (s.setFlag f b).fired n = s.fired n := State.setF_fired n _ s hn h
@[simp] theorem State.putOrder_getF (v) (s : State) (f : Fld) : (s.putOrder v).getF f = s.getF f := id rfl
@[simp] theorem State.putOrder_fired (v) (s : State) (n : Nat) : (s.putOrder v).fired n = s.fired n := id rfl
@[simp] theorem State.putShadow_getF (v) (s : State) (f : Fld) : (s.putShadow v).getF f = s.getF f := id rfl
@[simp] theorem State.putShadow_fired (v) (s : State) (n : Nat) : (s.putShadow v).fired n = s.fired n := id rfl
@[simp] theorem State.putHeld_getF (v) (s : State) (f : Fld) : (s.putHeld v).getF f = s.getF f := id rfl
@[simp] theorem State.putHeld_fired (v) (s : State) (n : Nat) : (s.putHeld v).fired n = s.fired n := id rfl
@[simp] theorem State.putSliceDone_getF (v) (s : State) (f : Fld) : (s.putSliceDone v).getF f = s.getF f := id rfl
@[simp] theorem State.putSliceDone_fired (v) (s : State) (n : Nat) : (s.putSliceDone v).fired n = s.fired n := id rfl
@[simp] theorem State.putPins_getF (v) (s : State) (f : Fld) : (s.putPins v).getF f = s.getF f := id rfl
@[simp] theorem State.putPins_fired (v) (s : State) (n : Nat) : (s.putPins v).fired n = s.fired n := id rfl
@[simp] theorem State.putClk_getF (v) (s : State) (f : Fld) : (s.putClk v).getF f = s.getF f := id rfl
@[simp] theorem State.putClk_fired (v) (s : State) (n : Nat) : (s.putClk v).fired n = s.fired n := id rfl
@[simp] theorem State.putRate_getF (v) (s : State) (f : Fld) : (s.putRate v).getF f = s.getF f := id rfl
@[simp] theorem State.putRate_fired (v) (s : State) (n : Nat) : (s.putRate v).fired n = s.fired n := id rfl
@[simp] theorem State.putIntc_getF (v) (s : State) (f : Fld) : (s.putIntc v).getF f = s.getF f := id rfl
@[simp] theorem State.putIntc_fired (v) (s : State) (n : Nat) : (s.putIntc v).fired n = s.fired n := id rfl
@[simp] theorem State.putMsixMask_getF (v) (s : State) (f : Fld) : (s.putMsixMask v).getF f = s.getF f := id rfl
@[simp] theorem State.putMsixMask_fired (v) (s : State) (n : Nat) : (s.putMsixMask v).fired n = s.fired n := id rfl
@[simp] theorem State.putMsixPend_getF (v) (s : State) (f : Fld) : (s.putMsixPend v).getF f = s.getF f := id rfl
@[simp] theorem State.putMsixPend_fired (v) (s : State) (n : Nat) : (s.putMsixPend v).fired n = s.fired n := id rfl
@[simp] theorem State.putPace_getF (v) (s : State) (f : Fld) : (s.putPace v).getF f = s.getF f := id rfl
@[simp] theorem State.putPace_fired (v) (s : State) (n : Nat) : (s.putPace v).fired n = s.fired n := id rfl
@[simp] theorem State.putBridgeWait_getF (v) (s : State) (f : Fld) : (s.putBridgeWait v).getF f = s.getF f := id rfl
@[simp] theorem State.putBridgeWait_fired (v) (s : State) (n : Nat) : (s.putBridgeWait v).fired n = s.fired n := id rfl
@[simp] theorem State.putSeq_getF (v) (s : State) (f : Fld) : (s.putSeq v).getF f = s.getF f := id rfl
@[simp] theorem State.putSeq_fired (v) (s : State) (n : Nat) : (s.putSeq v).fired n = s.fired n := id rfl
@[simp] theorem State.putFlog_getF (v) (s : State) (f : Fld) : (s.putFlog v).getF f = s.getF f := id rfl
@[simp] theorem State.putFlog_fired (v) (s : State) (n : Nat) : (s.putFlog v).fired n = s.fired n := id rfl
@[simp] theorem State.putTherm_getF (v) (s : State) (f : Fld) : (s.putTherm v).getF f = s.getF f := id rfl
@[simp] theorem State.putTherm_fired (v) (s : State) (n : Nat) : (s.putTherm v).fired n = s.fired n := id rfl
@[simp] theorem State.putKeep_getF (v) (s : State) (f : Fld) : (s.putKeep v).getF f = s.getF f := id rfl
@[simp] theorem State.putKeep_fired (v) (s : State) (n : Nat) : (s.putKeep v).fired n = s.fired n := id rfl
@[simp] theorem State.putHam_getF (v) (s : State) (f : Fld) : (s.putHam v).getF f = s.getF f := id rfl
@[simp] theorem State.putHam_fired (v) (s : State) (n : Nat) : (s.putHam v).fired n = s.fired n := id rfl
@[simp] theorem State.putPat_getF (v) (s : State) (f : Fld) : (s.putPat v).getF f = s.getF f := id rfl
@[simp] theorem State.putPat_fired (v) (s : State) (n : Nat) : (s.putPat v).fired n = s.fired n := id rfl
@[simp] theorem State.putPlan_getF (v) (s : State) (f : Fld) : (s.putPlan v).getF f = s.getF f := id rfl
@[simp] theorem State.putPlan_fired (v) (s : State) (n : Nat) : (s.putPlan v).fired n = s.fired n := id rfl
@[simp] theorem State.putStart_getF (v) (s : State) (f : Fld) : (s.putStart v).getF f = s.getF f := id rfl
@[simp] theorem State.putStart_fired (v) (s : State) (n : Nat) : (s.putStart v).fired n = s.fired n := id rfl
@[simp] theorem State.putPorts_getF (v) (s : State) (f : Fld) : (s.putPorts v).getF f = s.getF f := id rfl
@[simp] theorem State.putPorts_fired (v) (s : State) (n : Nat) : (s.putPorts v).fired n = s.fired n := id rfl
@[simp] theorem State.putLds_getF (v) (s : State) (f : Fld) : (s.putLds v).getF f = s.getF f := id rfl
@[simp] theorem State.putLds_fired (v) (s : State) (n : Nat) : (s.putLds v).fired n = s.fired n := id rfl
@[simp] theorem State.putReqs_getF (v) (s : State) (f : Fld) : (s.putReqs v).getF f = s.getF f := id rfl
@[simp] theorem State.putReqs_fired (v) (s : State) (n : Nat) : (s.putReqs v).fired n = s.fired n := id rfl
@[simp] theorem State.putNextReq_getF (v) (s : State) (f : Fld) : (s.putNextReq v).getF f = s.getF f := id rfl
@[simp] theorem State.putNextReq_fired (v) (s : State) (n : Nat) : (s.putNextReq v).fired n = s.fired n := id rfl
@[simp] theorem State.putCache_getF (v) (s : State) (f : Fld) : (s.putCache v).getF f = s.getF f := id rfl
@[simp] theorem State.putCache_fired (v) (s : State) (n : Nat) : (s.putCache v).fired n = s.fired n := id rfl
@[simp] theorem State.putXlt_getF (v) (s : State) (f : Fld) : (s.putXlt v).getF f = s.getF f := id rfl
@[simp] theorem State.putXlt_fired (v) (s : State) (n : Nat) : (s.putXlt v).fired n = s.fired n := id rfl
@[simp] theorem State.putMed_getF (v) (s : State) (f : Fld) : (s.putMed v).getF f = s.getF f := id rfl
@[simp] theorem State.putMed_fired (v) (s : State) (n : Nat) : (s.putMed v).fired n = s.fired n := id rfl
@[simp] theorem State.putCoh_getF (v) (s : State) (f : Fld) : (s.putCoh v).getF f = s.getF f := id rfl
@[simp] theorem State.putCoh_fired (v) (s : State) (n : Nat) : (s.putCoh v).fired n = s.fired n := id rfl
@[simp] theorem State.putFlush_getF (v) (s : State) (f : Fld) : (s.putFlush v).getF f = s.getF f := id rfl
@[simp] theorem State.putFlush_fired (v) (s : State) (n : Nat) : (s.putFlush v).fired n = s.fired n := id rfl
@[simp] theorem State.putInteg_getF (v) (s : State) (f : Fld) : (s.putInteg v).getF f = s.getF f := id rfl
@[simp] theorem State.putInteg_fired (v) (s : State) (n : Nat) : (s.putInteg v).fired n = s.fired n := id rfl
@[simp] theorem State.putDbg_getF (v) (s : State) (f : Fld) : (s.putDbg v).getF f = s.getF f := id rfl
@[simp] theorem State.putDbg_fired (v) (s : State) (n : Nat) : (s.putDbg v).fired n = s.fired n := id rfl
@[simp] theorem State.putCip_getF (v) (s : State) (f : Fld) : (s.putCip v).getF f = s.getF f := id rfl
@[simp] theorem State.putCip_fired (v) (s : State) (n : Nat) : (s.putCip v).fired n = s.fired n := id rfl
@[simp] theorem State.putLinks_getF (v) (s : State) (f : Fld) : (s.putLinks v).getF f = s.getF f := id rfl
@[simp] theorem State.putLinks_fired (v) (s : State) (n : Nat) : (s.putLinks v).fired n = s.fired n := id rfl
@[simp] theorem State.putCarts_getF (v) (s : State) (f : Fld) : (s.putCarts v).getF f = s.getF f := id rfl
@[simp] theorem State.putCarts_fired (v) (s : State) (n : Nat) : (s.putCarts v).fired n = s.fired n := id rfl
@[simp] theorem State.putSetId_getF (v) (s : State) (f : Fld) : (s.putSetId v).getF f = s.getF f := id rfl
@[simp] theorem State.putSetId_fired (v) (s : State) (n : Nat) : (s.putSetId v).fired n = s.fired n := id rfl
@[simp] theorem State.putSerials_getF (v) (s : State) (f : Fld) : (s.putSerials v).getF f = s.getF f := id rfl
@[simp] theorem State.putSerials_fired (v) (s : State) (n : Nat) : (s.putSerials v).fired n = s.fired n := id rfl
@[simp] theorem State.putSpl_getF (v) (s : State) (f : Fld) : (s.putSpl v).getF f = s.getF f := id rfl
@[simp] theorem State.putSpl_fired (v) (s : State) (n : Nat) : (s.putSpl v).fired n = s.fired n := id rfl
@[simp] theorem State.putGrp_getF (v) (s : State) (f : Fld) : (s.putGrp v).getF f = s.getF f := id rfl
@[simp] theorem State.putGrp_fired (v) (s : State) (n : Nat) : (s.putGrp v).fired n = s.fired n := id rfl
@[simp] theorem State.putPmc_getF (v) (s : State) (f : Fld) : (s.putPmc v).getF f = s.getF f := id rfl
@[simp] theorem State.putPmc_fired (v) (s : State) (n : Nat) : (s.putPmc v).fired n = s.fired n := id rfl
@[simp] theorem State.putSmbAddr_getF (v) (s : State) (f : Fld) : (s.putSmbAddr v).getF f = s.getF f := id rfl
@[simp] theorem State.putSmbAddr_fired (v) (s : State) (n : Nat) : (s.putSmbAddr v).fired n = s.fired n := id rfl
@[simp] theorem State.putHealth_getF (v) (s : State) (f : Fld) : (s.putHealth v).getF f = s.getF f := id rfl
@[simp] theorem State.putHealth_fired (v) (s : State) (n : Nat) : (s.putHealth v).fired n = s.fired n := id rfl
@[simp] theorem State.putOut_getF (v) (s : State) (f : Fld) : (s.putOut v).getF f = s.getF f := id rfl
@[simp] theorem State.putOut_fired (v) (s : State) (n : Nat) : (s.putOut v).fired n = s.fired n := id rfl
@[simp] theorem State.putFree_getF (v) (s : State) (f : Fld) : (s.putFree v).getF f = s.getF f := id rfl
@[simp] theorem State.putFree_fired (v) (s : State) (n : Nat) : (s.putFree v).fired n = s.fired n := id rfl
@[simp] theorem State.putPending_getF (v) (s : State) (f : Fld) : (s.putPending v).getF f = s.getF f := id rfl
@[simp] theorem State.putPending_fired (v) (s : State) (n : Nat) : (s.putPending v).fired n = s.fired n := id rfl
@[simp] theorem State.putSliceReg_getF (v) (s : State) (f : Fld) : (s.putSliceReg v).getF f = s.getF f := id rfl
@[simp] theorem State.putSliceReg_fired (v) (s : State) (n : Nat) : (s.putSliceReg v).fired n = s.fired n := id rfl
@[simp] theorem State.emit_getF (m) (s : State) (f : Fld) : (s.emit m).getF f = s.getF f := id rfl
@[simp] theorem State.emit_fired (m) (s : State) (n : Nat) : (s.emit m).fired n = s.fired n := id rfl

/-- A register command of a master that may write: its action, then the report. -/
theorem State.regAction_ok {s : State} {m off : Nat} (h : s.mayWrite m off = true) (act : State → State) :
    s.regAction m off true act = (act s).report m off .ok := by
  unfold State.mayWrite at h
  simp only [Bool.and_eq_true, Bool.not_eq_true'] at h
  obtain ⟨⟨⟨h1, h2⟩, h3⟩, h4⟩ := h
  unfold State.regAction
  rw [if_neg (by rw [h1]; decide), if_neg (by rw [h2, h3]; decide), if_neg (by decide), Option.isNone_iff_eq_none.mp h4]

/-- A register command whose own condition fails is a bus error (R51, R67, R244, R505). -/
theorem State.regAction_only {s : State} {m off : Nat} (h : s.clk.awake = true) (act : State → State) :
    s.regAction m off false act = s.report m off .busError := by
  unfold State.regAction
  rw [if_neg (by rw [h]; decide)]
  split <;> rfl

end Sys2Proof.Machine
end

