-- ==== Sys2Proof/Tests/Slice0.lean ====
section
/-!
SUPPORT. Tests: for each check of WellFormed a command it refuses; worked values of the spec and of the parameter sets it names; for each clause of each
statement of Certificates/Slice0/Obligations.lean a state and operands that meet its hypotheses (test_<statement>_<clause>), so that no statement is empty.
The helpers at the head build the small states; they are checked by nothing but the theorems that use them.
-/
namespace Sys2Proof.Tests

open Sys2Proof Sys2Proof.Machine

-- Each witness is evaluated by the kernel on its own; one after another, so that few threads are held.
set_option Elab.async false
set_option linter.unusedSimpArgs false
set_option linter.unusedVariables false

/-! ### Small states -/

/-- A small Pattern (02): CAPACITY_PLAN with one group, RAIL_PLAN of the eleven rails that are always used, END. -/
def wBody : List Byte :=
  le 4 2 ++ le 4 8 ++ (le 4 0 ++ le 1 1 ++ le 1 4 ++ le 2 0)
    ++ le 4 5 ++ le 4 272 ++ (le 2 0 ++ le 2 1 ++ le 2 10 ++ le 4 0 ++ le 2 0x7FF ++ le 4 0)
    ++ ((List.range 16).flatMap fun r => if r < 11 then le 4 0 ++ le 4 1 ++ le 8 0 else le 16 0) ++ le 8 0

/-- Its header (Table 02-1). -/
def wHeader : List Byte := le 4 0x54505850 ++ le 4 1 ++ le 4 1 ++ le 4 304 ++ le 4 0x91692de7 ++ le 8 0x72 ++ le 4 0xc61e745a

/-- Entries of a table from a key on. -/
def numberFrom : Nat → List Byte → Tab Byte
  | _, [] => []
  | n, b :: l => (n, b) :: numberFrom (n + 1) l

/-- Another header, with VERSION 2. -/
def wHeader2 : List Byte := le 4 0x54505850 ++ le 4 1 ++ le 4 2 ++ le 4 304 ++ le 4 0x91692de7 ++ le 8 0x72 ++ le 4 0x9fda6c9d

/-- A start in step 2 with that Pattern in slot 0. -/
def wPat : State :=
  ({ start := { step := 2 }
     pat := { flash := (numberFrom 0 wHeader ++ numberFrom 256 wBody) } } : State).setF TOP.STATE_STATE 1

/-- The same with the Pattern in slot 1. -/
def wPatB : State :=
  ({ start := { step := 2 }
     pat := { flash := (numberFrom 0x800000 wHeader ++ numberFrom 0x800100 wBody) } } : State).setF TOP.STATE_STATE 1

/-- The same with that Pattern active in slot 0 and, one VERSION higher, in slot 1, where LIVE_APPLY is to take it. -/
def wLiveApply : State :=
  let s := wPat
  (({ s with
      pat :=
        { ptu := some { cmd := 5, slot := 1, page := 0 }, active := (0, 304)
          flash := numberFrom 0 wHeader ++ numberFrom 256 wBody ++ numberFrom 0x800000 wHeader2 ++ numberFrom 0x800100 wBody } } : State).setF TOP.PATTERN_STATUS_ACTIVE 0).setF
    TOP.PATTERN_VER_VERSION 1

/-- Recovery in step 2 with an image of no page for each region, and in step 3 with a journal page on a cartridge that is gone. -/
def wImages : State :=
  { order := .h48, start := { step := 7, recovery := 2 }, xlt := { images := (List.range 400).map fun r => { region := r, copy := false, start := 1 } } }
def wLostJournal : State :=
  { start := { step := 7, recovery := 3 }, xlt := { anchor := some { journal := [1] } }, med := { pages := [(8192, some { selv := { typ := 5 } })] } }

/-- An adopted cartridge that holds the anchor of the set. -/
def wAnchor : State :=
  { start := { step := 7, recovery := 1 }, setId := 5, xlt := { anchor := some {}, anchors := [(0, some {})] }
    carts := [(0, { present := true, adopted := true, ident := { setId := 5, good := true } })] }

/-- An awake device with its core released, whose management endpoint (rights set 32) and host 0 have every right. -/
def wMgmt : State :=
  (({ clk := { awake := true }, start := { released := true } } : State).setReg (0x1b0820 + 64 * 32) 0x3FF).setReg 0x1b0820 0x3FF

/-- The same with the spools divided as by default. -/
def wSpoolMgmt : State := { wMgmt with spl := { owners := [[{ owner := 16, subFirst := 0, subCount := 1, cplFirst := 4096, cplCount := 1, winBase := 64, winSize := 63 }]] } }

/-- An entry for each of the keys from n on. -/
def wTab {α : Type} (v : α) : Nat → Nat → Tab α
  | _, 0 => []
  | n, k + 1 => (n, v) :: wTab v (n + 1) k

/-- A read of line 5 from host 0 at a stage, request 7. -/
def wRead (st : Stage) : Req := { id := 7, kind := .read, port := 0, ld := 0, tag := 3, line := 5, stage := st }

/-- A write of line 5 from host 0 at a stage, request 7. -/
def wWrite (st : Stage) : Req := { wRead st with kind := .write, data := 0x1122, be := 3, ordered := true }

/-- A live device: memory active, group 0 planned with eight adopted cartridges, one plain and one HDM-DB region for LDs 0 and 1, LD 0 and LD 1 bound to
ports 0 and 1 whose links are up, every right for hosts 0 and 1, their spool sets and the management endpoint. -/
def wLive : State :=
  let base : State :=
    { clk := { now := 1000, time := 5000, timeSet := true, awake := true }
      pins := { aux33 := true }
      start := { released := true, trained := true, filled := true }
      plan :=
        { mappedGib := 4, groups := 1, plogGib := 32
          regions := [{ base := 0, size := 1, ldMask := 3, keyId := 0, db := false, streaming := false, dcd := false, index := 0, dcdBlock := 0 },
            { base := 1, size := 1, ldMask := 3, keyId := 0, db := true, streaming := false, dcd := false, index := 0, dcdBlock := 0 }] }
      lds := [0, 1].map fun n => (n, { port := some n, decoders := [(0, some (0, { base := 0, size := 2 ^ 29, ways := 1, gran := 256, bi := true }))] })
      ports := [0, 1].map fun n => (n, { biRoute := true, credits := 8 })
      carts := wTab { present := true, adopted := true, inWindow := true } 0 8
      links := wTab { up := true, step := 9 } 0 8 }
  let regs := [0, 1].foldl (fun s n => (s.setF (HPT.LINK_STATUS_UP n) 1).setF (HPT.LINK_STATUS_CXL n) 1) base
  let all := [0, 1, 16, 17, 32].foldl (fun s m => (s.setReg (0x1b0820 + 64 * m) 0x3FF).setReg (0x1b0800 + 64 * m) 1) regs
  (all.setF TOP.STATE_MEM_ACTIVE 1).setF TOP.STATE_STATE 3

/-- A directory entry of line 5. -/
def wEnt : DirEntry := { line := 5, delta := 1, epoch := 0, keyId := 0, poison := false, val := {} }

/-- A frame of group 0 over its eight cartridges, bolt `bolt` of die 0 of each. -/
def wFrame (series number bolt : Nat) : Frame :=
  { group := 0, number, series, slots := List.range 8, bolts := (List.range 8).map fun n => mkBolt n 0 bolt, runs := [] }

/-- A program of page 8 in progress. -/
def wProg (typ : Nat) (purpose : Purpose) : Prog := { psa := 8, page := { selv := { typ, seq := 7 }, dir := if typ = 2 then [wEnt] else [] }, purpose }

/-- A live device with session 4 of class 1 over MCTP, whose set 34 has every right; slot 5 may hold a data key. -/
def wSess : State :=
  ({ wLive with
      cip := { sessions := [{ id := 4, cls := 1, root := 0, doe := false, ld := 0 }], slots := [(5, { usage := 1, persist := true })] }
      xlt := { anchors := [(0, some {})] } }).setReg (0x1b0820 + 64 * 34) 0x3FF

/-- A key policy whose first root has a digest of 48 bytes 7 and class 2. -/
def wPolicy : List Byte := [1, 0, 0, 0, 0, 0, 0, 0] ++ List.replicate 48 7 ++ [2, 0, 0, 0]

/-- The live device with link 2 as given, credits and counts included. -/
def wLink (l : Link) : State := { wLive with links := [(2, l)] }

/-- A counted flit in order on a link that has counted none. -/
def wFlit : FlitHead := { seq := 0, ack := 0 }

/-- The live device with a DCD region of LDs 0 and 1 from 512 MiB on, whose extent 4 LD 1 has accepted. -/
def wDcd : State :=
  { wLive with
      plan :=
        { wLive.plan with
            regions := wLive.plan.regions ++ [{ base := 2, size := 2, ldMask := 3, keyId := 0, db := false, streaming := false, dcd := true, index := 2, dcdBlock := 28 }] }
      xlt := { anchors := [(0, some {})] }
      coh := { extents := [{ id := 4, base := 536870912, len := 268435456, ldMask := 3, accepted := 2, state := .active }] } }

/-- The live device with one more region, of LD 1 alone. -/
def wOwn : State :=
  { wLive with
      plan :=
        { wLive.plan with
            regions := wLive.plan.regions ++ [{ base := 2, size := 1, ldMask := 2, keyId := 0, db := false, streaming := false, dcd := false, index := 2, dcdBlock := 0 }] } }

/-- The live device with the spools divided as by default: submission spool 256 of LD 1, ring of 16 entries, paired with completion spool 4352. -/
def wSpool : State :=
  { wLive with
      spl :=
        { owners := [State.defaultOwners]
          sel := [(0, 4352), (1, 4352)]
          ctx :=
            [(256, { base := 0x4F0000, enable := true, state := 1, log2 := 4, pair := 4352, tail := 1 }),
              (4352, { base := 0x500000, enable := true, armed := true, state := 1, log2 := 4, tail := 3, pkts := 3, stale := 10, timer := true })] } }

/-- A descriptor of op `op` by its bytes: one line from line 5 on, or one swatch from swatch 1 on. -/
def wDesc (op : Nat) : List Byte :=
  le 1 op ++ le 3 0 ++ le 4 0x55 ++ le 8 (if op = 5 then 0 else 4096) ++ le 8 0 ++ le 8 (if op = 5 then 0 else 64) ++ le 32 0

/-- That descriptor stands at HEAD of spool 256. -/
def wSubmit (op : Nat) : State := wSpool.setSpoolBytes 0x4F0000 (wDesc op)

/-- Op 9 of spool 256 of LD 1: source line 5, destination line 6. -/
def wOp (op : Nat) : OpRun :=
  { id := 9, spool := 256, owner := 1
    desc := { op, flags := 0, key := 0, mode := 0, tag := 0x55, src := 320, dst := 384, len := if [3, 7, 8, 9, 13].contains op then 64 else 1, arg := List.replicate 32 7 } }

/-- Op 9, whose source no region holds. -/
def wDenied : OpRun := { wOp 1 with desc := { (wOp 1).desc with src := 2 ^ 40 } }

/-- The live device with lines 5, 6 and 7 in the Lining. -/
def wCached : State :=
  { wLive.setF LIN.STATUS_ENABLED 1 with
      cache := { lining := [5, 6, 7].map fun n => (16 * liningSet .h72 n, { line := n, valid := true, val := mkLine (BitVec.ofNat 512 (16 + n)) n false false }) } }

/-- A read of line 6 that meets a buffered write of its line, a pinned line, a staging copy. -/
def wForwarded : Req := { wWrite .buffered with id := 3, line := 6, data := 22, wtag := (mkLine 22 6 false false).tag, be := BitVec.allOnes 64 }
def wForward : State := { wLive with reqs := [wForwarded, { wRead .dispatch with line := 6 }] }
def wPinnedRead : State :=
  { (wLive.setF PCU.CTRL_ENABLE 1).setF PCU.STATUS_ENABLED 1 with
      cache := { pcu := [(3, { swatch := 0, valid := 255, lines := [(6, { val := mkLine 22 6 false false })] })] }
      reqs := [{ wRead .dispatch with line := 6 }] }
def wStagedRead : State :=
  { wLive with cache := { staging := [{ id := 1, line := 6, val := mkLine 22 6 false false }] }, reqs := [{ wRead .dispatch with line := 6 }] }

/-- A read of line 5 whose probe will hit, whose media data or whose last reconstruction read is out. -/
def wHitReq : Req := { wRead .media with probe := true, hit := some (mkLine 22 5 false false), target := some (8, 5) }
def wHit : State := { wLive with reqs := [wHitReq] }
def wSwatchPage : Page := { selv := { typ := 1 }, lines := [(5, { val := mkLine 22 5 false false })] }
def wMediaRead : State := { wLive with reqs := [{ wRead .media with target := some (8, 5) }], med := { pages := [(8, some wSwatchPage)] } }
def wRebuildReq : Req := { wRead .members with target := some (8, 5), members := [16] }
def wRebuild : State :=
  { wLive with reqs := [wRebuildReq], med := { pages := [(8, some wSwatchPage), (16, some { selv := { typ := 10 }, refs := [8] })] } }

/-- A staged line whose swatch's index window is full, and a patch bolt with a live patch that is to be reclaimed. -/
def wWindow : State :=
  { wLive with
      cache := { staging := [{ line := 5, val := {} }] }
      xlt := { index := (window 0).map fun k => (k, some { line := 64, psa := 800, slot := 0, poison := false, stamp := 2 }) } }
def wReclaim : State :=
  { wLive with
      xlt := { roster := [0, 65536], index := [(3, some { line := 5, psa := 8, slot := 0, poison := false, stamp := 2 })] }
      plan := { groups := 1, plogGib := 0 }
      med := { pages := [(8, some { selv := { typ := 2 }, dir := [wEnt] })] } }

/-- The live device with swatch 0 in entry 3 of the Pincushion. -/
def wPinned : State :=
  { (wLive.setF PCU.CTRL_ENABLE 1).setF PCU.STATUS_ENABLED 1 with cache := { pcu := [(3, { swatch := 0, valid := 255 })] } }

/-- A REKEY_RANGE of the plain region to key 5, and the device it runs on. -/
def wRekeyOp : OpRun :=
  { id := 9, spool := 256, owner := 1
    desc := { op := 14, flags := 0, key := 5, mode := 0, tag := 0x55, src := 0, dst := 0, len := 4194304 } }
def wRekey : State :=
  { (wLive.setReg (0x1b0800 + 64 * 17) 0x21) with
      cip := { slots := [(5, { state := .active, usage := 1, persist := true, key := 77 })] }
      xlt := { anchors := [(0, some {})] }
      spl := { ops := [wRekeyOp] } }

/-- An EXPORT (15) or IMPORT (16) of one line with TRANSFER slot 5 in GCM mode, and the device it runs on. -/
def wJobOp (op : Nat) : OpRun :=
  { wOp op with desc := { (wOp op).desc with key := 5, mode := 1, len := 1, dst := if op = 16 then 448 else 384 } }
def wJob (op : Nat) : State :=
  { (wCached.setReg (0x1b0800 + 64 * 17) 0x21) with
      cip := { slots := [(5, { state := .active, usage := 2, key := 77, epoch := 3 })], nextJob := 3 }
      spl := { ops := [wJobOp op] } }

/-- Its job 3, and the device with that job open, the op at phase `sub`. -/
def wJobOf (op : Nat) : Job := { num := 3, gcm := true, isExport := op == 15, slot := 5, epoch := 3, owner := 1, iv := 0, stream := 3 }
def wJobAt (op sub : Nat) : State :=
  let s := wJob op
  { s with cip := { s.cip with jobs := [wJobOf op] }, spl := { ops := [{ wJobOp op with job := some 3, sub }] } }

/-- A group of two members; this device is member 0. -/
def wGroup : GroupPlan := { groupId := 77, index := 0, size := 2, payload := List.replicate 32 3 }
def wRing : State := { wLive with plan := { wLive.plan with group := some wGroup } }.setF GRP.CTRL_ENABLE 1

/-- The live device with an open frame of series A. -/
def wLsa : State := { wLive with med := { frames := [wFrame 19 3 5] } }

/-- The device with op 9 in progress: one whose source no region holds, a SCRUB_RANGE, a SECURE_DISCARD. -/
def wDeniedAt : State := { wCached with spl := { ops := [wDenied] } }
def wScrubAt : State := { wCached with spl := { ops := [wOp 4] } }
def wDiscardAt : State := { wCached with spl := { ops := [wOp 3] } }

/-- An op that unlocks the locked line 5, and the device it runs on. -/
def wUnlockOp : OpRun := { wOp 9 with desc := { (wOp 9).desc with flags := 8 } }
def wUnlockAt : State :=
  { wCached with
      cache := { lining := [(251658240, { line := 5, valid := true, lock := true, val := mkLine 7 5 false false })], lockRanges := [(5, 64)] }
      spl := { ops := [wUnlockOp] } }

/-- The SCRUB_RANGE with its first line as a candidate, and the device it runs on. -/
def wMarkOp : OpRun := { wOp 4 with cands := [5] }
def wMarkAt : State := { wCached with spl := { ops := [wMarkOp] } }

theorem tagOk_mkLine (d : BitVec 512) (line : Nat) (shared poison : Bool) : tagOk (mkLine d line shared poison) line shared = true := by
  simp [tagOk, mkLine]

/-- A plain line decrypts to what it holds. -/
theorem decLine_plain {s : State} {line : Nat} {m : MLine} {l : Line} (hk : m.keyId = 0) (he : slotZero.epoch = m.epoch) (hl : m.val = l) :
    s.decLine line m = .ok l := by
  subst hl
  simp only [State.decLine, State.keySlot, hk, if_true, he]
  rw [if_pos (by simp [slotZero])]
  simp only [decide_true, Bool.true_or, if_true]

theorem pageAt_first {s : State} {psa k : Nat} {p : Page} {t : Tab (Option Page)} (hp : s.med.pages = (k, some p) :: t) (h : s.physPsa psa = k) :
    s.pageAt psa = some p := by
  simp [State.pageAt, h, hp, Tab.get]

theorem pageThere_first {s : State} {psa k : Nat} {p : Page} {t : Tab (Option Page)} (hg : s.med.gone = []) (hp : s.med.pages = (k, some p) :: t)
    (h : s.physPsa psa = k) : s.pageThere psa = some p := by
  simp [State.pageThere, hg, pageAt_first hp h, Tab.get]

theorem some_getD {α : Type} {o : Option α} {d : α} (h : o.isSome = true) : o = some (o.getD d) := by
  cases o <;> simp_all

theorem snd_eq {α β : Type} {p : α × β} {b : β} (h : p.2 = b) : p = (p.1, b) := by cases p; cases h; rfl

theorem wUnlockAt_unlockLine :
    wUnlockAt.unlockLine (State.srcLine wUnlockOp) = (wUnlockAt.setWay 251658240 { wUnlockAt.way 251658240 with lock := false }, true) := by
  have h : ((List.range 16).map (16 * liningSet wUnlockAt.order (State.srcLine wUnlockOp) + ·)).find?
      (fun k => (wUnlockAt.way k).lock && (wUnlockAt.way k).line == State.srcLine wUnlockOp) = some 251658240 := by decide +kernel
  have hv : (wUnlockAt.way 251658240).valid = true := by decide +kernel
  simp only [State.unlockLine, State.freeWay, h, hv, if_true]
theorem foldl_isSome {α β : Type} (f : Option α → β → Option α) (h : ∀ o b, o.isSome = true → (f o b).isSome = true) :
    ∀ (l : List β) (o : Option α), o.isSome = true → (l.foldl f o).isSome = true
  | [], _, ho => ho
  | b :: l, o, ho => foldl_isSome f h l (f o b) (h o b ho)

theorem pickBolt_isSome (s : State) (slot die : Nat) (most all : Bool) (hb : s.med.treeBad.contains (16 * slot + die) = false)
    (hf : (s.boltFree (mkBolt slot die 0) && !(all && mkBolt slot die 0 == lastBolt)) = true) :
    (s.pickBolt slot die most all).isSome = true := by
  obtain ⟨n, hn⟩ : ∃ n, s.boltsPerDie slot = n + 1 := by
    unfold State.boltsPerDie; split
    · exact ⟨4095, rfl⟩
    · exact ⟨2047, rfl⟩
  simp only [State.pickBolt, hb, hn, List.range_succ_eq_map, List.map_cons, List.filter_cons, hf, if_true, List.foldl_cons, Option.isSome_map, Bool.false_eq_true, if_false]
  refine foldl_isSome _ ?_ _ _ rfl
  intro o b ho
  obtain ⟨x, rfl⟩ := Option.isSome_iff_exists.mp ho
  dsimp only
  split <;> split <;> rfl

theorem spareBolt_ne_none (s : State) (slot die : Nat) (hb : s.med.treeBad.contains (16 * slot + die) = false)
    (hf : (s.boltFree (mkBolt slot die 0) && !(true && mkBolt slot die 0 == lastBolt)) = true) :
    s.spareBolt slot die true ≠ none := by
  obtain ⟨x, h⟩ := Option.isSome_iff_exists.mp (pickBolt_isSome s slot die false true hb hf)
  simp [State.spareBolt, h]

/-- f of a number once the number is a literal. -/
def onLiteral {α : Type} (f : Nat → α) : Nat → α
  | 0 => f 0
  | n + 1 => f (n + 1)
theorem onLiteral_eq {α : Type} (f : Nat → α) (n : Nat) : onLiteral f n = f n := by cases n <;> rfl

/-- The CRC of bits fed one at a time, each intermediate value a literal. -/
def crcEager : List Bool → Nat → Nat
  | [], c => c
  | b :: l, c => onLiteral (crcEager l) (crc32Bit c b)
theorem crcEager_eq (l : List Bool) : ∀ c, crcEager l c = l.foldl crc32Bit c := by
  induction l with
  | nil => intro c; rfl
  | cons b l ih => intro c; simp [crcEager, onLiteral_eq, ih]
theorem crc32c_eager (bs : List Byte) :
    crc32c bs = crcEager (bs.flatMap fun b => [0, 1, 2, 3, 4, 5, 6, 7].map (Nat.testBit b.toNat)) 0xFFFFFFFF ^^^ 0xFFFFFFFF := by
  rw [crcEager_eq]; rfl

theorem get_numberFrom_skip (d : Nat → Byte) (r : Tab Byte) (k : Nat) :
    ∀ (l : List Byte) (a : Nat), k < a ∨ a + l.length ≤ k → Tab.get d (numberFrom a l ++ r) k = Tab.get d r k
  | [], _, _ => rfl
  | b :: l, a, h => by
    have h1 : k ≠ a := by simp only [List.length_cons] at h; omega
    simp only [numberFrom, List.cons_append, Tab.get, if_neg h1]
    exact get_numberFrom_skip d r k l (a + 1) (by simp only [List.length_cons] at h; omega)

theorem get_numberFrom (d : Nat → Byte) (r : Tab Byte) :
    ∀ (l : List Byte) (a i : Nat) (h : i < l.length), Tab.get d (numberFrom a l ++ r) (a + i) = l[i]
  | b :: l, a, 0, _ => by simp [numberFrom, Tab.get]
  | b :: l, a, i + 1, h => by
    have h1 : a + (i + 1) ≠ a := by omega
    simp only [numberFrom, List.cons_append, Tab.get, if_neg h1, List.getElem_cons_succ]
    rw [show a + (i + 1) = a + 1 + i from by omega]
    exact get_numberFrom d r l (a + 1) i (by simpa using h)

/-- The bytes of the flash where a run of them stands, erased bytes after it. -/
theorem flashBytes_run {s : State} {a : Nat} {l : List Byte} {p r : Tab Byte} (e : Nat) (hf : s.pat.flash = p ++ (numberFrom a l ++ r))
    (hp : ∀ k t, a ≤ k → Tab.get (fun _ => (0xFF : Byte)) (p ++ t) k = Tab.get (fun _ => 0xFF) t k)
    (hr : ∀ k, a + l.length ≤ k → k < a + l.length + e → Tab.get (fun _ => (0xFF : Byte)) r k = 0xFF) :
    s.flashBytes a (l.length + e) = l ++ List.replicate e 0xFF := by
  apply List.ext_getElem
  · simp [State.flashBytes]
  · intro i h1 h2
    simp only [State.flashBytes, List.length_map, List.length_range] at h1
    simp only [State.flashBytes, List.getElem_map, List.getElem_range, hf]
    rw [hp _ _ (by omega), List.getElem_append]
    split
    · exact get_numberFrom _ _ _ _ _ ‹_›
    · rw [get_numberFrom_skip _ _ _ _ _ (by omega), hr _ (by omega) (by omega), List.getElem_replicate]

theorem wHeader_length : wHeader.length = 32 := by decide
theorem wHeader2_length : wHeader2.length = 32 := by decide
theorem wBody_length : wBody.length = 304 := by decide +kernel

theorem get_wBody_below (d : Nat → Byte) (a k : Nat) (h : k < a) : Tab.get d (numberFrom a wBody) k = d k := by
  have e := get_numberFrom_skip d [] k wBody a (Or.inl h)
  rwa [List.append_nil] at e

theorem wPat_header : wPat.flashBytes 0 256 = wHeader ++ List.replicate 224 0xFF :=
  flashBytes_run (p := []) (r := numberFrom 256 wBody) 224 rfl (fun _ _ _ => rfl)
    (fun k _ h => get_wBody_below _ _ _ (by rw [wHeader_length] at h; omega))
theorem wPat_body : wPat.flashBytes 256 304 = wBody := by
  have h := flashBytes_run (s := wPat) (a := 256) (l := wBody) (p := numberFrom 0 wHeader) (r := []) 0 (by rw [List.append_nil]; rfl)
    (fun k t h => get_numberFrom_skip _ _ _ _ _ (Or.inr (by rw [wHeader_length]; omega))) (fun _ _ _ => rfl)
  rw [wBody_length] at h
  simpa using h

theorem wPatB_header : wPatB.flashBytes 0x800000 256 = wHeader ++ List.replicate 224 0xFF :=
  flashBytes_run (p := []) (r := numberFrom 0x800100 wBody) 224 rfl (fun _ _ _ => rfl)
    (fun k _ h => get_wBody_below _ _ _ (by rw [wHeader_length] at h; omega))
theorem wPatB_body : wPatB.flashBytes 0x800100 304 = wBody := by
  have h := flashBytes_run (s := wPatB) (a := 0x800100) (l := wBody) (p := numberFrom 0x800000 wHeader) (r := []) 0 (by rw [List.append_nil]; rfl)
    (fun k t h => get_numberFrom_skip _ _ _ _ _ (Or.inr (by rw [wHeader_length]; omega))) (fun _ _ _ => rfl)
  rw [wBody_length] at h
  simpa using h

theorem wLiveApply_header : wLiveApply.flashBytes 0x800000 256 = wHeader2 ++ List.replicate 224 0xFF :=
  flashBytes_run (s := wLiveApply) (a := 0x800000) (l := wHeader2) (p := numberFrom 0 wHeader ++ numberFrom 256 wBody) (r := numberFrom 0x800100 wBody) 224 (by rw [← List.append_assoc]; rfl)
    (fun k t h => by
      rw [List.append_assoc, get_numberFrom_skip _ _ _ _ _ (Or.inr (by rw [wHeader_length]; omega)),
        get_numberFrom_skip _ _ _ _ _ (Or.inr (by rw [wBody_length]; omega))])
    (fun k _ h => get_wBody_below _ _ _ (by rw [wHeader2_length] at h; omega))
theorem wLiveApply_body : wLiveApply.flashBytes 0x800100 304 = wBody := by
  have h := flashBytes_run (s := wLiveApply) (a := 0x800100) (l := wBody) (p := numberFrom 0 wHeader ++ numberFrom 256 wBody ++ numberFrom 0x800000 wHeader2) (r := []) 0
    (by rw [List.append_nil]; rfl)
    (fun k t h => by
      rw [List.append_assoc, List.append_assoc, get_numberFrom_skip _ _ _ _ _ (Or.inr (by rw [wHeader_length]; omega)),
        get_numberFrom_skip _ _ _ _ _ (Or.inr (by rw [wBody_length]; omega)), get_numberFrom_skip _ _ _ _ _ (Or.inr (by rw [wHeader2_length]; omega))])
    (fun _ _ _ => rfl)
  rw [wBody_length] at h
  simpa using h
theorem wLiveApply_active : wLiveApply.flashBytes 256 304 = wBody := by
  have h := flashBytes_run (s := wLiveApply) (a := 256) (l := wBody) (p := numberFrom 0 wHeader) (r := numberFrom 0x800000 wHeader2 ++ numberFrom 0x800100 wBody) 0
    (by rw [← List.append_assoc, ← List.append_assoc]; rfl)
    (fun k t h => get_numberFrom_skip _ _ _ _ _ (Or.inr (by rw [wHeader_length]; omega))) (fun _ _ _ => by omega)
  rw [wBody_length] at h
  simpa using h

theorem wHeader_len : fieldOf (wHeader ++ List.replicate 224 0xFF) 12 4 = 304 := by decide +kernel
theorem wHeader2_len : fieldOf (wHeader2 ++ List.replicate 224 0xFF) 12 4 = 304 := by decide +kernel

theorem wPat_slotCheck : (wPat.slotCheck 0 true).result = 0 := by
  unfold State.slotCheck
  simp only [show slotBase 0 = 0 from rfl, wPat_header, wHeader_len, Nat.zero_add, wPat_body, crc32c_eager]
  decide +kernel

theorem wPatB_slotCheck : (wPatB.slotCheck 1 true).result = 0 := by
  unfold State.slotCheck
  simp only [show slotBase 1 = 0x800000 from rfl, wPatB_header, wHeader_len, show 0x800000 + 256 = 0x800100 from rfl, wPatB_body, crc32c_eager]
  decide +kernel

theorem wLiveApply_slotCheck : (wLiveApply.slotCheck 1 true).result = 0 := by
  unfold State.slotCheck
  simp only [show slotBase 1 = 0x800000 from rfl, wLiveApply_header, wHeader2_len, show 0x800000 + 256 = 0x800100 from rfl, wLiveApply_body, crc32c_eager]
  decide +kernel

theorem wLiveApply_version : wLiveApply.getF TOP.PATTERN_VER_VERSION < (wLiveApply.slotCheck 1 true).version := by
  unfold State.slotCheck
  simp only [show slotBase 1 = 0x800000 from rfl, wLiveApply_header, wHeader2_len, show 0x800000 + 256 = 0x800100 from rfl, wLiveApply_body, crc32c_eager]
  decide +kernel

theorem wLiveApply_recs : State.fixedRecs (wLiveApply.slotCheck 1 true).recs
    = State.fixedRecs ((parseRecords (wLiveApply.pat.active.2 + 1) (wLiveApply.flashBytes (wLiveApply.pat.active.1 + 256) wLiveApply.pat.active.2)).getD []) := by
  rw [show wLiveApply.flashBytes (wLiveApply.pat.active.1 + 256) wLiveApply.pat.active.2 = wBody from wLiveApply_active]
  unfold State.slotCheck
  simp only [show slotBase 1 = 0x800000 from rfl, wLiveApply_header, wHeader2_len, show 0x800000 + 256 = 0x800100 from rfl, wLiveApply_body, crc32c_eager]
  decide +kernel

/-- A live device without cartridges in service whose group has an open frame of series C. -/
def wImageFrame : Frame := { group := 0, number := 0, series := 18, slots := [0, 1, 2, 3, 4, 5, 6, 7], bolts := (List.range 8).map (mkBolt · 0 0), runs := [] }
def wImage : State := { wLive with carts := [], med := { frames := [wImageFrame] }, xlt := { changed := [(5, true), (2 ^ 20, true)] } }

/-! ### Ill-formed commands, one for each check -/

theorem test_wellFormed_last : (Instr.latClear 37 7).wellFormed = true := by decide
theorem test_wellFormed_master : (Instr.latClear 38 7).wellFormed = false := by decide
theorem test_wellFormed_slice : (Instr.latClear 37 8).wellFormed = false := by decide
theorem test_wellFormed_port : (Instr.hostLinkDown 4).wellFormed = false := by decide
theorem test_wellFormed_ld : (Instr.identify 16).wellFormed = false := by decide
theorem test_wellFormed_slot : (Instr.quiesce 32).wellFormed = false := by decide
theorem test_wellFormed_psa : (Instr.program 31 (2 ^ 34)).wellFormed = false := by decide
theorem test_wellFormed_line : (Instr.evictionRelease (2 ^ 39)).wellFormed = false := by decide
theorem test_wellFormed_lines : (Instr.ideIntegrityFail 3 true true [0, 2 ^ 39]).wellFormed = false := by decide
theorem test_wellFormed_die : (Instr.boltResetDone 31 16 4095).wellFormed = false := by decide
theorem test_wellFormed_bolt : (Instr.boltResetDone 31 15 4096).wellFormed = false := by decide
theorem test_wellFormed_spool : (Instr.copy 8192 true).wellFormed = false := by decide
theorem test_wellFormed_rail : (Instr.powerGoodRise 16).wellFormed = false := by decide
theorem test_wellFormed_target : (Instr.intAck 37 17 0).wellFormed = false := by decide
theorem test_wellFormed_group : (Instr.gcCollect 4).wellFormed = false := by decide
theorem test_wellFormed_lineSlot : (Instr.readLine 0 0 64 0).wellFormed = false := by decide
theorem test_wellFormed_tracker : (Instr.streamTrackerExpire 3 32).wellFormed = false := by decide
theorem test_wellFormed_entry : (Instr.pcuLock 37 64).wellFormed = false := by decide
theorem test_wellFormed_bucket : (Instr.bucketRebuildDone (2 ^ 26)).wellFormed = false := by decide
theorem test_wellFormed_bridge : (Instr.islandBridgeRoom 5).wellFormed = false := by decide
theorem test_wellFormed_keySlot : (Instr.keyQuery 0 256).wellFormed = false := by decide
theorem test_wellFormed_certificateSlot : (Instr.setCertificate 0 8 []).wellFormed = false := by decide
theorem test_wellFormed_monitor : (Instr.monitorExcluded 64).wellFormed = false := by decide
theorem test_wellFormed_quietInput : (Instr.quietEdge 96).wellFormed = false := by decide
theorem test_wellFormed_decoder : (Instr.hdmDecoderCommit 15 4 { base := 0, size := 0, ways := 1, gran := 256 }).wellFormed = false := by decide
theorem test_wellFormed_stack : (Instr.hbmPatrol { stack := 2, region := 0, block := 0, health := .good } false none).wellFormed = false := by decide
theorem test_wellFormed_request : (Instr.m2sReqReceived 3 { ld := 16, tag := 0, hpa := 0 }).wellFormed = false := by decide

/-! ### Worked values: the check values of the named CRC parameter sets over the nine ASCII digits "123456789", the example under R96, R29 and R118 by hand -/

theorem test_crc32c_check : crc32c [0x31, 0x32, 0x33, 0x34, 0x35, 0x36, 0x37, 0x38, 0x39] = 0xE3069283 := by decide +kernel
theorem test_crc64_check : crc64 [0x31, 0x32, 0x33, 0x34, 0x35, 0x36, 0x37, 0x38, 0x39] = 0x6C40DF5F0B497347 := by decide +kernel
theorem test_crc24_check : crc24 [0x31, 0x32, 0x33, 0x34, 0x35, 0x36, 0x37, 0x38, 0x39] = 0x21CF02 := by decide +kernel

/-- Pace-low with DEG_ADMIT 2: 1,024 becomes 256 and 512 becomes 128; throttle that allows 384 leaves 256. -/
def wDegraded : State := (State.reset.setF PWS.PACE_STATUS_DEGRADED 1).setF PWS.PACE_CTRL_DEG_ADMIT 2
theorem test_effLimit_read : wDegraded.effLimit 1024 = 256 := by decide +kernel
theorem test_effLimit_write : wDegraded.effLimit 512 = 128 := by decide +kernel
theorem test_effLimit_throttled :
    ((wDegraded.setF THM.STATUS_THROTTLE 1).setF THM.CTRL_THR_ADMIT 3).effLimit 1024 = 256 := by decide +kernel

/-- DPA[8:6] 5, DPA[11:9] 3, DPA[14:12] 1: 5 ^ 3 ^ 1 = 7. -/
theorem test_sliceOf : sliceOf (5 + 8 * 3 + 64 * 1) = 7 := by decide
/-- Bits 63:38 of 0x9E3779B97F4A7C15. -/
theorem test_homeBucket : homeBucket 1 = 0x278DDE6 := by decide

/-- Table 02-11. -/
theorem test_reset_topId : (State.reset.viewTop 0).reg 0 = 0x9618B172 := by decide +kernel


/-- α^1 to α^4 are the roots of the generator of RS(132,128) (R390), α^1 to α^16 those of RS(80,64) (R288): each value is 0 by Horner's rule. -/
theorem test_vlFec_roots : ([1, 2, 3, 4].map fun i => (rsGen gf10 4).foldl (fun a c => gf10 a (gfAlpha gf10 i) ^^^ c) 0) = [0, 0, 0, 0] := by decide +kernel
theorem test_mediaCode_roots :
    (List.range 16).all (fun i => (rsGen gf9 16).foldl (fun a c => gf9 a (gfAlpha gf9 (i + 1)) ^^^ c) 0 == 0) = true := by decide +kernel
/-- A receiver undoes the scrambler (R342), and it is no identity. -/
theorem test_scramble : descramble 0x123456789ABCDEF 5 true (scramble 0x123456789ABCDEF 5 true [1, 2, 3, 4, 5, 6, 7, 8]) = [1, 2, 3, 4, 5, 6, 7, 8]
    ∧ scramble 0x123456789ABCDEF 5 true [1, 2, 3, 4, 5, 6, 7, 8] ≠ [1, 2, 3, 4, 5, 6, 7, 8] := by decide +kernel

/-! ### Witnesses of the statements' hypotheses -/

/-! Statement PaceCommandsComplete. -/
theorem test_PaceCommandsComplete_0 : ∃ (s : State) (readings : List Nat), s.railGood 0 = true :=
  ⟨{ seq := { good := [(0, true)] } }, [900, 800], by decide +kernel⟩
theorem test_PaceCommandsComplete_1 : ∃ (s : State) (n : Nat), n < 64 ∧ s.monitorOut n = false ∧ 1000 ≤ Tab.get (fun _ => 0) s.pace.differ n :=
  ⟨{ pace := { differ := [(63, 1000)] } }, 63, by decide +kernel⟩
theorem test_PaceCommandsComplete_2 : ∃ (s : State), s.start.released = true ∧ s.pace.avs.pending = none ∧ s.flag PWS.PACE_STATUS_AVS_HOLD = false
    ∧ s.governed ≠ s.pace.avs.last :=
  ⟨{ start := { released := true }, pace := { avs := { last := 700 } } }, by decide +kernel⟩
theorem test_PaceCommandsComplete_3 : ∃ (s : State), 5 ≤ s.pace.belowFloor ∧ s.paceLow = false :=
  ⟨{ pace := { belowFloor := 5 } }, by decide +kernel⟩
theorem test_PaceCommandsComplete_4 : ∃ (s : State), 5 ≤ s.pace.below400 ∧ s.flag PWS.PACE_STATUS_COLLAPSE = false :=
  ⟨{ pace := { below400 := 5 } }, by decide +kernel⟩
theorem test_PaceCommandsComplete_5 : ∃ (s : State), 5 ≤ s.pace.atLeast400 :=
  ⟨({ pace := { atLeast400 := 5 } } : State).setF PWS.PACE_STATUS_COLLAPSE 1, by decide +kernel⟩
theorem test_PaceCommandsComplete_6 : ∃ (s : State), 1000 ≤ s.pace.atLeast825 ∧ s.paceLow = true :=
  ⟨({ pace := { atLeast825 := 1000 } } : State).setF PWS.PACE_STATUS_DEGRADED 1, by decide +kernel⟩
/-! Statement AvsCommandsComplete. -/
theorem test_AvsCommandsComplete_0 : ∃ (s : State) (mv : Nat), s.pace.avs.pending = some mv :=
  ⟨{ pace := { avs := { pending := some 800 } } }, 800, by decide +kernel⟩
theorem test_AvsCommandsComplete_1 : ∃ (s : State) (mv : Nat), s.pace.avs.pending = some mv ∧ s.flag PWS.PACE_STATUS_AVS_HOLD = false
    ∧ s.pace.avs.fails < 2 :=
  ⟨{ pace := { avs := { pending := some 800, fails := 1 } } }, 800, by decide +kernel⟩
theorem test_AvsCommandsComplete_2 : ∃ (s : State) (mv : Nat), s.pace.avs.pending = some mv ∧ s.flag PWS.PACE_STATUS_AVS_HOLD = false
    ∧ 2 ≤ s.pace.avs.fails :=
  ⟨{ pace := { avs := { pending := some 800, fails := 2 } } }, 800, by decide +kernel⟩
theorem test_AvsCommandsComplete_3 : ∃ (s : State), s.flag PWS.PACE_STATUS_AVS_HOLD = true ∧ s.pace.avs.pending = none :=
  ⟨State.reset.setF PWS.PACE_STATUS_AVS_HOLD 1, by decide +kernel⟩
/-! Statement WakeAndReleaseComplete. -/
theorem test_WakeAndReleaseComplete_0 : ∃ (s : State), s.pins.aux33 = false :=
  ⟨{}, by decide +kernel⟩
theorem test_WakeAndReleaseComplete_1 : ∃ (s : State) (bad : Bool), s.pins.aux33 = true ∧ s.clk.awake = false ∧ s.pins.porst = false
    ∧ s.halted = false ∧ s.flag THM.STATUS_CRIT_LATCH = false ∧ s.flag THM.STATUS_TRIP_LATCH = false :=
  ⟨{ pins := { aux33 := true } }, false, by decide +kernel⟩
theorem test_WakeAndReleaseComplete_2 : ∃ (s : State), s.mayRelease = true :=
  ⟨({ start := { step := 4 }, plan := { groupNext := some { groupId := 1, index := 0, size := 2, payload := [] } } } : State), by decide +kernel⟩
theorem test_WakeAndReleaseComplete_3 : ∃ (s : State), s.topState = 1 ∧ s.start.released = true ∧ s.start.trained = false ∧ s.start.failed = none :=
  ⟨({ start := { released := true } } : State).setF TOP.STATE_STATE 1, by decide +kernel⟩
theorem test_WakeAndReleaseComplete_4 : ∃ (s : State), s.topState = 1 ∧ s.start.released = true ∧ s.start.trained = false ∧ s.start.failed = none
    ∧ s.getF TOP.START_STATUS_CAUSE = 0 :=
  ⟨({ start := { released := true } } : State).setF TOP.STATE_STATE 1, by decide +kernel⟩
theorem test_WakeAndReleaseComplete_5 : ∃ (s : State) (rows : List RowTest), s.start.trained = true ∧ s.start.filled = false ∧ s.start.failed = none
    ∧ s.start.testing = false ∧ s.flag SCB.FILL_STATUS_FAILED = false :=
  ⟨{ start := { trained := true } }, [], by decide +kernel⟩
/-! Statement StartStepsComplete. -/
theorem test_StartStepsComplete_0 : ∃ (s : State) (id : Nat), s.start.step = 5 ∧ s.start.waiting = none ∧ s.start.failed = none ∧ s.halted = false
    ∧ s.takeSet = (some id, false) :=
  ⟨({ start := { step := 5 }, plan := { groups := 1 }, links := [(0, { up := true, step := 6, identOk := true })], carts := [(0, { present := true, ident := { setId := 4, good := true } })] } : State), 4, by decide +kernel⟩
theorem test_StartStepsComplete_1 : ∃ (s : State), s.start.step = 5 ∧ s.start.waiting = none ∧ s.start.failed = none ∧ s.halted = false
    ∧ s.takeSet = (none, false) :=
  ⟨{ start := { step := 5 } }, by decide +kernel⟩
theorem test_StartStepsComplete_2 : ∃ (s : State), s.start.step = 5 ∧ s.start.waiting = none ∧ s.start.failed = none ∧ s.halted = false
    ∧ s.getF TOP.START_STATUS_CAUSE = 0 ∧ s.takeSet.2 = true :=
  ⟨({ start := { step := 5 }, plan := { groups := 1 }, links := [(0, { up := true, step := 6, identOk := true }), (1, { up := true, step := 6, identOk := true })], carts := [(0, { present := true, ident := { setId := 1, good := true } }), (1, { present := true, ident := { setId := 2, good := true } })] } : State), by decide +kernel⟩
theorem test_StartStepsComplete_3 : ∃ (s : State), s.start.waiting = some 1 ∧ s.tooCold = false ∧ s.start.failed = none :=
  ⟨{ start := { step := 2, waiting := some 1 } }, by decide +kernel⟩
theorem test_StartStepsComplete_4 : ∃ (s : State), s.start.waiting = some 6 ∧ s.takeSet.2 = false ∧ s.start.filled = false ∧ s.start.failed = none :=
  ⟨{ start := { step := 5, waiting := some 6 } }, by decide +kernel⟩
theorem test_StartStepsComplete_5 : ∃ (s : State) (c : Nat), s.start.waiting = some c ∧ 7 ≤ c ∧ s.start.step = 6 ∧ s.start.filled = true
    ∧ s.start.failed = none ∧ s.cip.keysRead = true ∧ s.stepSixCause = 0 :=
  ⟨{ start := { step := 6, waiting := some 8, filled := true }, cip := { keysRead := true } }, 8, by decide +kernel⟩
theorem test_StartStepsComplete_6 : ∃ (s : State), s.start.waiting = some 1 ∧ s.tooCold = true ∧ s.start.step ≠ 7 :=
  ⟨(({ start := { step := 2, waiting := some 1 }, therm := { temp := [(0, some (-400))] } } : State).setF (THM.LIMITS_A_INHIBIT 0) 10), by decide +kernel⟩
theorem test_StartStepsComplete_7 : ∃ (s : State), s.pins.porst = true ∧ s.clk.awake = true ∧ s.halted = false ∧ s.flag THM.STATUS_CRIT_LATCH = false
    ∧ s.flag THM.STATUS_TRIP_LATCH = false ∧ s.seq.state = .off ∧ s.topState = 6 ∧ s.flush.kind = .none :=
  ⟨({ pins := { porst := true }, clk := { awake := true } } : State).setF TOP.STATE_STATE 6, by decide +kernel⟩
theorem test_StartStepsComplete_8 : ∃ (s : State) (flashOk : Bool) (readA : Bool) (readB : Bool), s.start.step = 2 ∧ s.start.failed = none
    ∧ s.start.waiting = none ∧ s.topState = 1 ∧ Tab.get (fun _ => false) s.pat.torn 0 = false ∧ Tab.get (fun _ => false) s.pat.torn 1 = false
    ∧ (s.slotCheck 0 (flashOk && readA)).result = 0
    ∧ ((s.slotCheck 1 (flashOk && readB)).result ≠ 0 ∨ (s.slotCheck 1 (flashOk && readB)).version ≤ (s.slotCheck 0 (flashOk && readA)).version) := by
  refine ⟨wPat, true, true, true, ?_, ?_, ?_, ?_, ?_, ?_, wPat_slotCheck, ?_⟩ <;> decide +kernel
theorem test_StartStepsComplete_9 : ∃ (s : State) (flashOk : Bool) (readA : Bool) (readB : Bool), s.start.step = 2 ∧ s.start.failed = none
    ∧ s.start.waiting = none ∧ s.topState = 1 ∧ Tab.get (fun _ => false) s.pat.torn 0 = false ∧ Tab.get (fun _ => false) s.pat.torn 1 = false
    ∧ (s.slotCheck 1 (flashOk && readB)).result = 0
    ∧ ((s.slotCheck 0 (flashOk && readA)).result ≠ 0 ∨ (s.slotCheck 0 (flashOk && readA)).version < (s.slotCheck 1 (flashOk && readB)).version) := by
  refine ⟨wPatB, true, true, true, ?_, ?_, ?_, ?_, ?_, ?_, wPatB_slotCheck, ?_⟩ <;> decide +kernel
theorem test_StartStepsComplete_10 : ∃ (s : State) (flashOk : Bool) (readA : Bool) (readB : Bool), s.start.step = 2 ∧ s.start.failed = none
    ∧ s.start.waiting = none ∧ s.topState = 1 ∧ Tab.get (fun _ => false) s.pat.torn 0 = false ∧ Tab.get (fun _ => false) s.pat.torn 1 = false
    ∧ (s.slotCheck 0 (flashOk && readA)).result ≠ 0 ∧ (s.slotCheck 1 (flashOk && readB)).result ≠ 0 ∧ s.getF TOP.START_STATUS_CAUSE = 0 :=
  ⟨({ start := { step := 2 } } : State).setF TOP.STATE_STATE 1, false, true, true, by decide +kernel⟩
/-! Statement RecoveryStepsComplete. -/
theorem test_RecoveryStepsComplete_0 : ∃ (s : State) (a : Anchor), s.start.step = 7 ∧ s.start.scan = false ∧ s.start.failed = none ∧ s.halted = false
    ∧ s.start.recovery = 1 ∧ s.med.setNew = false ∧ (s.anchorOf fun n => (s.cart n).adopted && (s.cart n).ident.setId == s.setId) = some a :=
  ⟨wAnchor, {}, by decide +kernel⟩
theorem test_RecoveryStepsComplete_1 : ∃ (s : State), s.start.step = 7 ∧ s.start.scan = false ∧ s.start.failed = none ∧ s.halted = false
    ∧ s.start.recovery = 1 ∧ s.med.setNew = false ∧ (s.anchorOf fun n => (s.cart n).adopted && (s.cart n).ident.setId == s.setId) = none :=
  ⟨{ start := { step := 7, recovery := 1 } }, by decide +kernel⟩
theorem test_RecoveryStepsComplete_2 : ∃ (s : State), s.start.step = 7 ∧ s.start.scan = false ∧ s.start.failed = none ∧ s.halted = false
    ∧ s.start.recovery = 1 ∧ s.med.setNew = true ∧ ((List.range 32).all fun n => !(s.cart n).adopted || s.cartBlank n) = true :=
  ⟨{ start := { step := 7, recovery := 1 }, med := { setNew := true } }, by decide +kernel⟩
theorem test_RecoveryStepsComplete_3 : ∃ (s : State), s.start.step = 7 ∧ s.start.scan = false ∧ s.start.failed = none ∧ s.halted = false
    ∧ s.start.recovery = 2 ∧ s.med.setNew = true :=
  ⟨{ start := { step := 7, recovery := 2 }, med := { setNew := true } }, by decide +kernel⟩
theorem test_RecoveryStepsComplete_4 : ∃ (s : State), s.start.step = 7 ∧ s.start.scan = false ∧ s.start.failed = none ∧ s.halted = false
    ∧ s.start.recovery = 2 ∧ s.med.setNew = false ∧ (((List.range (regionCount s.order)).map s.imageOf).any (·.isNone)) = true :=
  ⟨{ start := { step := 7, recovery := 2 } }, by decide +kernel⟩
theorem test_RecoveryStepsComplete_5 : ∃ (s : State), s.start.step = 7 ∧ s.start.scan = false ∧ s.start.failed = none ∧ s.halted = false
    ∧ s.start.recovery = 2 ∧ s.med.setNew = false ∧ (((List.range (regionCount s.order)).map s.imageOf).any (·.isNone)) = false :=
  ⟨wImages, by decide +kernel⟩
theorem test_RecoveryStepsComplete_6 : ∃ (s : State), s.start.step = 7 ∧ s.start.scan = false ∧ s.start.failed = none ∧ s.halted = false
    ∧ s.start.recovery = 3 ∧ (s.journalTake none s.journalFound).2 = false :=
  ⟨{ start := { step := 7, recovery := 3 } }, by decide +kernel⟩
theorem test_RecoveryStepsComplete_7 : ∃ (s : State), s.start.step = 7 ∧ s.start.scan = false ∧ s.start.failed = none ∧ s.halted = false
    ∧ s.start.recovery = 3 ∧ (s.journalTake none s.journalFound).2 = true :=
  ⟨wLostJournal, by decide +kernel⟩
theorem test_RecoveryStepsComplete_8 : ∃ (s : State) (k : Nat), s.start.step = 7 ∧ s.start.scan = false ∧ s.start.failed = none ∧ s.halted = false
    ∧ s.start.recovery = k ∧ (k = 4 ∨ k = 5) :=
  ⟨{ start := { step := 7, recovery := 5 } }, 5, by decide +kernel⟩
theorem test_RecoveryStepsComplete_9 : ∃ (s : State), s.start.step = 7 ∧ s.start.scan = false ∧ s.start.failed = none ∧ s.halted = false
    ∧ s.start.recovery = 6 :=
  ⟨{ start := { step := 7, recovery := 6 } }, by decide +kernel⟩
theorem test_RecoveryStepsComplete_10 : ∃ (s : State), s.start.step = 7 ∧ s.start.scan = false ∧ s.start.failed = none ∧ s.start.waiting = none
    ∧ s.halted = false ∧ s.start.recovery = 7 ∧ s.fmReleases = s ∧ (s.coh.extents.any fun e => e.state == .releasing) = false ∧ s.stepSixCause = 0 :=
  ⟨{ start := { step := 7, recovery := 7 } }, by decide +kernel⟩
theorem test_RecoveryStepsComplete_11 : ∃ (s : State), s.start.step = 7 ∧ s.start.scan = true ∧ s.start.failed = none ∧ s.halted = false
    ∧ s.start.recovery < 7 :=
  ⟨{ start := { step := 7, scan := true, recovery := 1 } }, by decide +kernel⟩
/-! Statement PatternCommandsComplete. -/
theorem test_PatternCommandsComplete_0 : ∃ (s : State) (m : Nat), s.mayWrite m 0x80 = true ∧ isMgmt m = true ∧ s.flag TOP.PTU_STATUS_BUSY = false :=
  ⟨wMgmt, 32, by decide +kernel⟩
theorem test_PatternCommandsComplete_1 : ∃ (s : State) (m : Nat), s.mayWrite m 0x80 = true ∧ isMgmt m = true ∧ s.flag TOP.PTU_STATUS_BUSY = false :=
  ⟨wMgmt, 32, by decide +kernel⟩
theorem test_PatternCommandsComplete_2 : ∃ (s : State) (m : Nat), s.mayWrite m 0x80 = true ∧ isMgmt m = true ∧ s.flag TOP.PTU_STATUS_BUSY = false :=
  ⟨wMgmt, 32, by decide +kernel⟩
theorem test_PatternCommandsComplete_3 : ∃ (s : State) (m : Nat), s.mayWrite m 0x80 = true ∧ isMgmt m = true ∧ s.flag TOP.PTU_STATUS_BUSY = false :=
  ⟨wMgmt, 32, by decide +kernel⟩
theorem test_PatternCommandsComplete_4 : ∃ (s : State) (m : Nat), s.mayWrite m 0x80 = true ∧ isMgmt m = true ∧ s.flag TOP.PTU_STATUS_BUSY = false :=
  ⟨wMgmt, 32, by decide +kernel⟩
theorem test_PatternCommandsComplete_5 : ∃ (s : State) (m : Nat) (cmd : Nat), s.mayWrite m 0x80 = true ∧ isMgmt m = true
    ∧ s.flag TOP.PTU_STATUS_BUSY = false ∧ (cmd = 6 ∨ cmd = 7) :=
  ⟨wMgmt, 32, 7, by decide +kernel⟩
theorem test_PatternCommandsComplete_6 : ∃ (s : State) (j : PtuJob) (flashOk : Bool) (readOk : Bool), s.pat.ptu = some j :=
  ⟨{ pat := { ptu := some { cmd := 3, slot := 1, page := 2 } } }, { cmd := 3, slot := 1, page := 2 }, true, true, by decide +kernel⟩
theorem test_PatternCommandsComplete_7 : ∃ (s : State) (j : PtuJob) (readOk : Bool), s.pat.ptu = some j ∧ j.cmd = 1 ∧ j.slot ≠ s.activeSlot :=
  ⟨{ pat := { ptu := some { cmd := 1, slot := 1, page := 0 }, flash := [(0, 0), (0x800000, 1), (0xFFFFFF, 2)] } }, { cmd := 1, slot := 1, page := 0 }, true, by decide +kernel⟩
theorem test_PatternCommandsComplete_8 : ∃ (s : State) (j : PtuJob) (flashOk : Bool) (readOk : Bool), s.pat.ptu = some j ∧ 6 ≤ j.cmd :=
  ⟨{ pat := { ptu := some { cmd := 6, slot := 1, page := 0 } } }, { cmd := 6, slot := 1, page := 0 }, true, true, by decide +kernel⟩
theorem test_PatternCommandsComplete_9 : ∃ (s : State) (j : PtuJob) (readOk : Bool), s.pat.ptu = some j ∧ j.cmd = 2 ∧ j.slot ≠ s.activeSlot :=
  ⟨{ pat := { ptu := some { cmd := 2, slot := 1, page := 1, bytes := [0x0F, 0x33] }, flash := [(0x800101, 0x55)] } }, { cmd := 2, slot := 1, page := 1, bytes := [0x0F, 0x33] }, true, by decide +kernel⟩
theorem test_PatternCommandsComplete_10 : ∃ (s : State) (j : PtuJob) (readOk : Bool), s.pat.ptu = some j ∧ j.cmd = 3 :=
  ⟨{ pat := { ptu := some { cmd := 3, slot := 1, page := 1 }, flash := [(0x800101, 0x55)] } }, { cmd := 3, slot := 1, page := 1 }, true, by decide +kernel⟩
theorem test_PatternCommandsComplete_11 : ∃ (s : State) (j : PtuJob) (flashOk : Bool) (readOk : Bool), s.pat.ptu = some j ∧ j.cmd = 4 :=
  ⟨{ pat := { ptu := some { cmd := 4, slot := 1, page := 0 } } }, { cmd := 4, slot := 1, page := 0 }, true, true, by decide +kernel⟩
theorem test_PatternCommandsComplete_12 : ∃ (s : State) (j : PtuJob) (flashOk : Bool) (readOk : Bool), s.pat.ptu = some j ∧ j.cmd = 5
    ∧ (s.activeSlot = 3 ∨ (s.slotCheck j.slot readOk).result ≠ 0 ∨ (s.slotCheck j.slot readOk).version ≤ s.getF TOP.PATTERN_VER_VERSION ∨ s.livePending = true) :=
  ⟨({ pat := { ptu := some { cmd := 5, slot := 1, page := 0 } } } : State).setF TOP.PATTERN_STATUS_ACTIVE 3, { cmd := 5, slot := 1, page := 0 }, true, true, by decide +kernel⟩
theorem test_PatternCommandsComplete_13 : ∃ (s : State) (j : PtuJob) (flashOk : Bool), s.pat.ptu = some j ∧ j.cmd = 5 ∧ s.activeSlot ≠ 3
    ∧ (s.slotCheck j.slot true).result = 0 ∧ s.getF TOP.PATTERN_VER_VERSION < (s.slotCheck j.slot true).version ∧ s.livePending = false
    ∧ State.fixedRecs (s.slotCheck j.slot true).recs = State.fixedRecs ((parseRecords (s.pat.active.2 + 1) (s.flashBytes (s.pat.active.1 + 256) s.pat.active.2)).getD []) := by
  refine ⟨wLiveApply, { cmd := 5, slot := 1, page := 0 }, true, ?_, ?_, ?_, wLiveApply_slotCheck, wLiveApply_version, ?_, wLiveApply_recs⟩ <;> decide +kernel
/-! Statement RegisterCommandsComplete. -/
theorem test_RegisterCommandsComplete_0 : ∃ (s : State) (m : Nat) (off : Nat) (v : Word) (d : RegDesc), s.clk.awake = true ∧ off % 4 = 0
    ∧ s.writeJudge m off v = (.ok, 0) ∧ findReg off = some d ∧ d.base ∉ actionRegisters ∧ d.seam = false ∧ isLoHalf off = false
    ∧ Tab.get (fun _ => none) s.held (off - 4) = none ∧ Tab.get (fun _ => none) s.shadow off = none :=
  ⟨wMgmt, 32, 0x1C0004, 0x1, (findReg 0x1C0004).getD { base := 0, dims := [], seam := false, fields := [], reset := 0 }, by decide +kernel⟩
theorem test_RegisterCommandsComplete_1 : ∃ (s : State) (m : Nat) (off : Nat) (v : Word) (d : RegDesc), s.clk.awake = true ∧ off % 4 = 0
    ∧ s.writeJudge m off v = (.ok, 0) ∧ findReg off = some d ∧ d.base ∉ actionRegisters ∧ isLoHalf off = true :=
  ⟨wMgmt, 32, 0x300000, 0x55, (findReg 0x300000).getD { base := 0, dims := [], seam := false, fields := [], reset := 0 }, by decide +kernel⟩
theorem test_RegisterCommandsComplete_2 : ∃ (s : State) (m : Nat) (off : Nat) (v : Word) (d : RegDesc) (b : Block) (i : Nat) (so : Nat), s.clk.awake = true
    ∧ off % 4 = 0 ∧ s.writeJudge m off v = (.ok, 0) ∧ findReg off = some d ∧ d.base ∉ actionRegisters ∧ d.seam = true ∧ isLoHalf off = false
    ∧ Tab.get (fun _ => none) s.held (off - 4) = none ∧ Tab.get (fun _ => none) s.held off = none ∧ unitOf off = some (b, i, so) ∧ off ≠ so :=
  ⟨wMgmt, 0, 0x60000, 0x80000005, (findReg 0x60000).getD { base := 0, dims := [], seam := false, fields := [], reset := 0 }, .pmc, 0, 0x6FFFC, by decide +kernel⟩
theorem test_RegisterCommandsComplete_3 : ∃ (s : State) (m : Nat) (v : Word), m < 38 ∧ s.mayWrite m 0x60000 = true
    ∧ Tab.get (fun _ => none) s.held 0x60000 = none ∧ Tab.get (fun _ => none) s.held 0x5FFFC = none :=
  ⟨wMgmt, 0, 0x80000005, by decide +kernel⟩
theorem test_RegisterCommandsComplete_4 : ∃ (s : State) (m : Nat) (off : Nat) (v : Word) (d : RegDesc), isMgmt m = true ∧ s.clk.awake = true
    ∧ s.writeJudge m off v = (.ok, 0) ∧ findReg off = some d ∧ d.base ∉ actionRegisters ∧ d.seam = false ∧ isLoHalf off = false
    ∧ Tab.get (fun _ => none) s.held (off - 4) = none ∧ Tab.get (fun _ => none) s.shadow off = none :=
  ⟨wMgmt, 32, 0x1C0004, 0x1, (findReg 0x1C0004).getD { base := 0, dims := [], seam := false, fields := [], reset := 0 }, by decide +kernel⟩
theorem test_RegisterCommandsComplete_5 : ∃ (s : State) (m : Nat) (v : Word), 32 ≤ m ∧ m ≤ 36 ∧ s.mayWrite m 0x60000 = true
    ∧ Tab.get (fun _ => none) s.held 0x60000 = none ∧ Tab.get (fun _ => none) s.held 0x5FFFC = none :=
  ⟨wMgmt, 32, 0x80000005, by decide +kernel⟩
theorem test_RegisterCommandsComplete_6 : ∃ (s : State) (m : Nat) (a : Nat) (n : Nat), isMgmt m = true ∧ s.clk.awake = true ∧ 1 ≤ n ∧ n ≤ 16
    ∧ ((List.range n).all fun k => s.readJudge m (a + 4 * k) == .ok) = true :=
  ⟨wMgmt, 32, 0x60020, 2, by decide +kernel⟩
theorem test_RegisterCommandsComplete_7 : ∃ (s : State) (m : Nat) (a : Nat) (v : Word), isMgmt m = true ∧ s.clk.awake = true ∧ s.spoolWordOk a = true
    ∧ s.inWindowOf 16 a 4 = true :=
  ⟨wSpoolMgmt, 32, 0x400000, 0x1234, by decide +kernel⟩
theorem test_RegisterCommandsComplete_8 : ∃ (s : State) (m : Nat) (a : Nat), 32 ≤ m ∧ m ≤ 36 ∧ s.clk.awake = true ∧ s.readJudge m a = .ok :=
  ⟨wMgmt, 32, 0x60000, by decide +kernel⟩
theorem test_RegisterCommandsComplete_9 : ∃ (s : State) (w : Word), s.clk.awake = true ∧ s.shadow = [(0x20000, some w)]
    ∧ s.flag ⟨0x2FFFC, 31, 1⟩ = true :=
  ⟨(({ clk := { awake := true }, shadow := [(0x20000, some 0x55)] } : State).setF ⟨0x2FFFC, 31, 1⟩ 1), 0x55, by decide +kernel⟩
theorem test_RegisterCommandsComplete_10 : ∃ (s : State) (blk : Block) (w : Word) (off : Nat) (base : Nat) (size : Nat), s.clk.awake = true
    ∧ s.start.released = true ∧ blk ∈ [Block.thm, .kps, .hmp, .int, .xlt, .cip] ∧ unitRange blk 0 = (base, size) ∧ s.shadow = [(off, some w)]
    ∧ base ≤ off ∧ off < base + size - 4 ∧ s.flag ⟨base + size - 4, 31, 1⟩ = true :=
  ⟨(({ clk := { awake := true }, start := { released := true }, shadow := [(0x160000, some 0x55)] } : State).setF ⟨0x17FFFC, 31, 1⟩ 1), .xlt, 0x55, 0x160000, 0x160000, 131072, by decide +kernel⟩
theorem test_RegisterCommandsComplete_11 : ∃ (s : State) (k : Nat) (w : Word), s.clk.awake = true ∧ s.start.released = true ∧ k < 8
    ∧ s.flag ⟨0x1CFFFC, 31, 1⟩ = true ∧ s.shadow = [(0x1C0000, some w)] ∧ Tab.get (fun _ => 0) s.sliceDone 0x1CFFFC ||| 2 ^ k ≠ 255 :=
  ⟨(({ clk := { awake := true }, start := { released := true }, shadow := [(0x1C0000, some 0x55)] } : State).setF ⟨0x1CFFFC, 31, 1⟩ 1), 3, 0x55, by decide +kernel⟩
theorem test_RegisterCommandsComplete_12 : ∃ (s : State) (k : Nat) (w : Word), s.clk.awake = true ∧ s.start.released = true ∧ k < 8
    ∧ s.flag ⟨0x1CFFFC, 31, 1⟩ = true ∧ s.shadow = [(0x1C0000, some w)] ∧ Tab.get (fun _ => 0) s.sliceDone 0x1CFFFC ||| 2 ^ k = 255 :=
  ⟨(({ clk := { awake := true }, start := { released := true }, shadow := [(0x1C0000, some 0x55)], sliceDone := [(0x1CFFFC, 247)] } : State).setF ⟨0x1CFFFC, 31, 1⟩ 1), 3, 0x55, by decide +kernel⟩
theorem test_RegisterCommandsComplete_13 : ∃ (s : State) (req : BitVec 64), s.clk.awake = true ∧ s.dbg.ir = 0x18 ∧ s.halted = false
    ∧ bits req.toNat 63 62 = 1 ∧ s.flag TOP.GCTRL_JTAG_DBG_EN = true ∧ s.dbg.bridge = [] ∧ s.readJudge 37 (bits req.toNat 61 42 * 4) = .ok :=
  ⟨({ clk := { awake := true }, dbg := { ir := 0x18 } } : State).setF TOP.GCTRL_JTAG_DBG_EN 1, 0x4000000000000000, by decide +kernel⟩
theorem test_RegisterCommandsComplete_14 : ∃ (s : State) (req : BitVec 64) (off : Nat) (d : RegDesc), s.clk.awake = true ∧ s.dbg.ir = 0x18
    ∧ s.halted = false ∧ bits req.toNat 63 62 = 2 ∧ s.flag TOP.GCTRL_JTAG_DBG_EN = true ∧ s.dbg.bridge = [] ∧ off = bits req.toNat 61 42 * 4
    ∧ s.writeJudge 37 off (BitVec.ofNat 32 req.toNat) = (.ok, 0) ∧ findReg off = some d ∧ d.base ∉ actionRegisters ∧ d.seam = false
    ∧ isLoHalf off = false ∧ Tab.get (fun _ => none) s.held (off - 4) = none ∧ Tab.get (fun _ => none) s.shadow off = none :=
  ⟨(({ clk := { awake := true }, start := { released := true }, dbg := { ir := 0x18 } } : State).setF TOP.GCTRL_JTAG_DBG_EN 1).setReg (0x1b0820 + 64 * 37) 0x3FF, 0x9C00040000000001, 0x1C0004, (findReg 0x1C0004).getD { base := 0, dims := [], seam := false, fields := [], reset := 0 }, by decide +kernel⟩
theorem test_RegisterCommandsComplete_15 : ∃ (s : State) (req : BitVec 64) (busy : Bool), s.clk.awake = true ∧ s.dbg.ir = 0x18 ∧ s.halted = false
    ∧ (bits req.toNat 63 62 = 0 ∨ bits req.toNat 63 62 = 3) :=
  ⟨{ clk := { awake := true }, dbg := { ir := 0x18 } }, 0xC000000000000000, false, by decide +kernel⟩
theorem test_RegisterCommandsComplete_16 : ∃ (s : State) (req : BitVec 64), s.clk.awake = true ∧ s.dbg.ir = 0x18 ∧ s.halted = false
    ∧ bits req.toNat 63 62 = 1 ∧ s.flag TOP.GCTRL_JTAG_DBG_EN = true ∧ s.dbg.bridge.length < 8 :=
  ⟨({ clk := { awake := true }, dbg := { ir := 0x18, bridge := [0, 0, 0, 0, 0, 0, 0] } } : State).setF TOP.GCTRL_JTAG_DBG_EN 1, 0x4000000000000000, by decide +kernel⟩
theorem test_RegisterCommandsComplete_17 : ∃ (s : State) (n : Nat), n ≠ 4 ∧ (s.reqs.filter fun r => r.stage == .bridge && r.port == n).length < 48 :=
  ⟨{ bridgeWait := [(3, true)] }, 3, by decide +kernel⟩
theorem test_RegisterCommandsComplete_18 : ∃ (s : State) (req : BitVec 64) (l : List (BitVec 64)), s.dbg.bridge = req :: l ∧ s.halted = true :=
  ⟨({ dbg := { bridge := [1, 2] } } : State).setF TOP.HALT_HALTED 1, 1, [2], by decide +kernel⟩
/-! Statement PowerSequenceComplete. -/
theorem test_PowerSequenceComplete_0 : ∃ (s : State) (m : Nat), s.mayWrite m 0xC = true ∧ isMgmt m = true ∧ s.mayStart = true ∧ s.seq.state = .off
    ∧ s.topState = 6 :=
  ⟨wMgmt.setF TOP.STATE_STATE 6, 32, by decide +kernel⟩
theorem test_PowerSequenceComplete_1 : ∃ (s : State) (m : Nat), s.mayWrite m 0xC = true ∧ isMgmt m = true ∧ s.halted = false ∧ s.topState = 3
    ∧ s.flush.kind = .none :=
  ⟨wMgmt.setF TOP.STATE_STATE 3, 32, by decide +kernel⟩
theorem test_PowerSequenceComplete_2 : ∃ (s : State) (us : Nat), s.seq.state = .up ∧ s.seq.stopUp = false ∧ (∀ r : Nat, r < 16 →
    Nat.testBit s.seq.used r = true → s.railEn r = false → us ≤ s.seq.onUs.getD r 0) :=
  ⟨{ seq := { state := .up, used := 3, onUs := [5, 9] } }, 5, by decide +kernel⟩
theorem test_PowerSequenceComplete_3 : ∃ (s : State) (r : Nat), r < 16 ∧ Nat.testBit s.seq.used r = true ∧ s.seq.state = .up ∧ s.railEn r = true
    ∧ s.railGood r = false ∧ s.railFaulted r = false :=
  ⟨{ seq := { state := .up, used := 0x8001, enabled := [(15, true)] } }, 15, by decide +kernel⟩
theorem test_PowerSequenceComplete_4 : ∃ (s : State), Nat.testBit s.seq.used 0 = true ∧ s.seq.state = .up ∧ s.seq.stopUp = false ∧ s.railEn 0 = true
    ∧ s.railGood 0 = false ∧ s.railFaulted 0 = false :=
  ⟨{ seq := { state := .up, used := 0x8001, enabled := [(0, true)] } }, by decide +kernel⟩
theorem test_PowerSequenceComplete_5 : ∃ (s : State) (r : Nat), s.seq.state = .up ∧ s.railEn r = true ∧ s.railGood r = false ∧ s.railFaulted r = false
    ∧ s.seq.stopUp = false :=
  ⟨{ seq := { state := .up, used := 1, enabled := [(0, true)], attempt := 1, retries := 1 } }, 0, by decide +kernel⟩
theorem test_PowerSequenceComplete_6 : ∃ (s : State), s.seq.state = .gap :=
  ⟨{ seq := { state := .gap, attempt := 8 } }, by decide +kernel⟩
theorem test_PowerSequenceComplete_7 : ∃ (s : State) (us : Nat), s.seq.state = .down ∧ (∀ r : Nat, r < 16 → s.railEn r = true →
    us ≤ s.seq.offUs.getD r 0) :=
  ⟨{ seq := { state := .down, offUs := [7, 9], enabled := [(0, true), (1, true)] } }, 7, by decide +kernel⟩
theorem test_PowerSequenceComplete_8 : ∃ (s : State) (pfw : Bool), s.seq.state = .down ∧ s.railsOn = [] ∧ s.seq.after = 1 :=
  ⟨{ seq := { state := .down, after := 1 } }, true, by decide +kernel⟩
theorem test_PowerSequenceComplete_9 : ∃ (s : State) (pfw : Bool), s.seq.state = .down ∧ s.railsOn = [] ∧ s.seq.after = 0 ∧ s.seq.restart = false :=
  ⟨{ seq := { state := .down, pf := true } }, false, by decide +kernel⟩
theorem test_PowerSequenceComplete_10 : ∃ (s : State) (pfw : Bool), s.seq.state = .down ∧ s.railsOn = [] ∧ s.seq.after = 2 ∧ s.seq.restart = false :=
  ⟨{ seq := { state := .down, after := 2 } }, false, by decide +kernel⟩
theorem test_PowerSequenceComplete_11 : ∃ (s : State) (pfw : Bool), s.seq.state = .down ∧ s.railsOn = [] ∧ s.seq.after = 0 ∧ s.seq.restart = true
    ∧ s.seq.heldOn = none ∧ pfw = false ∧ s.seq.sagLow = false ∧ s.mayStart = true ∧ s.topState ≠ 2 :=
  ⟨{ clk := { awake := true }, seq := { state := .down, restart := true } }, false, by decide +kernel⟩
theorem test_PowerSequenceComplete_12 : ∃ (s : State), s.seq.state = .minOff ∧ s.seq.heldOn = none :=
  ⟨{ seq := { state := .minOff } }, by decide +kernel⟩
theorem test_PowerSequenceComplete_13 : ∃ (s : State) (c : Nat), s.seq.state = .minOff ∧ s.seq.heldOn = some c ∧ s.mayStart = true :=
  ⟨{ clk := { awake := true }, seq := { state := .minOff, heldOn := some 3 } }, 3, by decide +kernel⟩
/-! Statement RailSupervisionComplete. -/
theorem test_RailSupervisionComplete_0 : ∃ (s : State) (pins : List Nat) (vsin : Nat) (settling : Bool), s.clk.awake = true :=
  ⟨wMgmt, [800, 900], 1600, true, by decide +kernel⟩
theorem test_RailSupervisionComplete_1 : ∃ (s : State) (r : Nat), s.railGood r = true ∧ s.seq.state ≠ .down ∧ r < 16 :=
  ⟨{ seq := { state := .on, good := [(15, true)], enabled := [(15, true)] } }, 15, by decide +kernel⟩
theorem test_RailSupervisionComplete_2 : ∃ (s : State) (r : Nat), s.railGood r = true ∧ s.seq.state = .down ∧ r < 16 :=
  ⟨{ seq := { state := .down, good := [(0, true)], enabled := [(0, true)] } }, 0, by decide +kernel⟩
theorem test_RailSupervisionComplete_3 : ∃ (s : State), s.pins.aux33 = true :=
  ⟨({ pins := { aux33 := true }, clk := { awake := true }, pat := { flash := [(3, 0)] } } : State).setF TOP.STATE_STATE 3, by decide +kernel⟩
/-! Statement ThermalCommandsComplete. -/
theorem test_ThermalCommandsComplete_0 : ∃ (s : State) (die : List Int) (hbm : List Int), s.clk.awake = true :=
  ⟨{ clk := { awake := true }, therm := { fresh := true } }, List.replicate 32 400, [], by decide +kernel⟩
theorem test_ThermalCommandsComplete_1 : ∃ (s : State) (n : Nat), n < 40 ∧ s.sensorOut n = false ∧ 50 ≤ Tab.get (fun _ => 0) s.therm.differ n :=
  ⟨{ therm := { differ := [(39, 50)] } }, 39, by decide +kernel⟩
theorem test_ThermalCommandsComplete_2 : ∃ (s : State) (n : Nat), 40 ≤ n ∧ n < 72 ∧ s.sensorOut n = false
    ∧ 50 ≤ Tab.get (fun _ => 0) s.therm.differ n :=
  ⟨{ therm := { differ := [(71, 50)] } }, 71, by decide +kernel⟩
theorem test_ThermalCommandsComplete_3 : ∃ (s : State) (k : Nat), s.clk.awake = true ∧ s.flag THM.STATUS_TRIP_LATCH = false :=
  ⟨{ clk := { awake := true }, seq := { state := .on, enabled := [(0, true), (15, true)] } }, 1, by decide +kernel⟩
/-! Statement ReadsComplete. -/
theorem test_ReadsComplete_0 : ∃ (s : State) (port : Nat) (q : M2SReq) (line : Nat), s.portOpen port true = true ∧ q.form = .good ∧ s.halted = false
    ∧ (s.hostDecode port q.ld q.hpa).toOption = some line ∧ s.memMissing q.ld rightMemRd line = none ∧ (∀ r ∈ s.reqs, r.id < s.nextReq) :=
  ⟨wLive, 0, { ld := 0, tag := 3, hpa := 320 }, 5, by decide +kernel⟩
theorem test_ReadsComplete_1 : ∃ (s : State) (port : Nat) (k : Nat), 0 < (Tab.get (fun _ => {}) (s.port port).trackers k).count :=
  ⟨{ ports := [(1, { trackers := [(4, { count := 3 })] })] }, 1, 4, by decide +kernel⟩
theorem test_ReadsComplete_2 : ∃ (s : State) (rid : Nat) (r : Req) (miss : Bool), s.reqOf rid = some r ∧ r.stage = .dispatch ∧ r.kind = .read
    ∧ s.isNext r = true ∧ s.sharedOf r.line = false ∧ s.fencedAt r.line = false ∧ s.sealBit r.line = false ∧ s.cipherFault = false
    ∧ s.integ.inj = none ∧ s.buffered r.line = none ∧ s.pentHit r.line = none ∧ s.findWay r.line = none ∧ s.stagedOf r.line = none :=
  ⟨{ wLive with reqs := [wRead .dispatch] }, 7, wRead .dispatch, true, by decide +kernel⟩
theorem test_ReadsComplete_3 : ∃ (s : State) (rid : Nat) (r : Req) (w : Req), s.reqOf rid = some r ∧ r.stage = .dispatch ∧ r.kind = .read
    ∧ s.isNext r = true ∧ s.sharedOf r.line = false ∧ s.fencedAt r.line = false ∧ s.sealBit r.line = false ∧ s.cipherFault = false
    ∧ s.integ.inj = none ∧ s.answersNow r = true ∧ s.buffered r.line = some w ∧ w.unmerged = false ∧ w.poison = false
    ∧ tagOk { data := w.data, tag := w.wtag, poison := false } r.line false = true := by
  refine ⟨wForward, 7, { wRead .dispatch with line := 6 }, wForwarded, ?_⟩
  refine ⟨rfl, ?_⟩
  iterate 9 refine ⟨by decide +kernel, ?_⟩
  refine ⟨rfl, ?_⟩
  iterate 2 refine ⟨by decide +kernel, ?_⟩
  exact tagOk_mkLine _ _ _ _
theorem test_ReadsComplete_4 : ∃ (s : State) (rid : Nat) (r : Req) (n : Nat), s.reqOf rid = some r ∧ r.stage = .dispatch ∧ r.kind = .read
    ∧ s.isNext r = true ∧ s.sharedOf r.line = false ∧ s.fencedAt r.line = false ∧ s.sealBit r.line = false ∧ s.cipherFault = false
    ∧ s.integ.inj = none ∧ s.answersNow r = true ∧ s.buffered r.line = none ∧ s.pentHit r.line = some n ∧ (s.pline n r.line).val.poison = false
    ∧ tagOk (s.pline n r.line).val r.line false = true := by
  refine ⟨wPinnedRead, 7, { wRead .dispatch with line := 6 }, 3, ?_⟩
  refine ⟨rfl, ?_⟩
  iterate 10 refine ⟨by decide +kernel, ?_⟩
  refine ⟨rfl, ?_⟩
  iterate 1 refine ⟨by decide +kernel, ?_⟩
  exact tagOk_mkLine _ _ _ _
theorem test_ReadsComplete_5 : ∃ (s : State) (rid : Nat) (r : Req) (k : Nat), s.reqOf rid = some r ∧ r.stage = .dispatch ∧ r.kind = .read
    ∧ s.isNext r = true ∧ s.sharedOf r.line = false ∧ s.fencedAt r.line = false ∧ s.sealBit r.line = false ∧ s.cipherFault = false
    ∧ s.integ.inj = none ∧ s.answersNow r = true ∧ s.buffered r.line = none ∧ s.pentHit r.line = none ∧ s.findWay r.line = some k
    ∧ (s.way k).val.poison = false ∧ tagOk (s.way k).val r.line false = true := by
  refine ⟨{ wCached with reqs := [{ wRead .dispatch with line := 6 }] }, 7, { wRead .dispatch with line := 6 }, (wCached.findWay 6).getD 0, ?_⟩
  refine ⟨rfl, ?_⟩
  iterate 11 refine ⟨by decide +kernel, ?_⟩
  refine ⟨rfl, ?_⟩
  iterate 1 refine ⟨by decide +kernel, ?_⟩
  exact tagOk_mkLine _ _ _ _
theorem test_ReadsComplete_6 : ∃ (s : State) (rid : Nat) (r : Req) (k : Nat), s.reqOf rid = some r ∧ r.stage = .dispatch ∧ r.kind = .read
    ∧ s.isNext r = true ∧ s.sharedOf r.line = false ∧ s.fencedAt r.line = false ∧ s.sealBit r.line = false ∧ s.cipherFault = false
    ∧ s.integ.inj = none ∧ s.buffered r.line = none ∧ s.pentHit r.line = none ∧ s.findWay r.line = some k := by
  refine ⟨{ wCached with reqs := [{ wRead .dispatch with line := 6 }] }, 7, { wRead .dispatch with line := 6 }, (wCached.findWay 6).getD 0, ?_⟩
  refine ⟨rfl, ?_⟩
  iterate 10 refine ⟨by decide +kernel, ?_⟩
  exact rfl
theorem test_ReadsComplete_7 : ∃ (s : State) (rid : Nat) (r : Req) (x : Staged), s.reqOf rid = some r ∧ r.stage = .dispatch ∧ r.kind = .read
    ∧ s.isNext r = true ∧ s.sharedOf r.line = false ∧ s.fencedAt r.line = false ∧ s.sealBit r.line = false ∧ s.cipherFault = false
    ∧ s.integ.inj = none ∧ s.answersNow r = true ∧ s.buffered r.line = none ∧ s.pentHit r.line = none ∧ s.findWay r.line = none
    ∧ s.stagedOf r.line = some x ∧ x.val.poison = false ∧ tagOk x.val r.line false = true := by
  refine ⟨wStagedRead, 7, { wRead .dispatch with line := 6 }, { id := 1, line := 6, val := mkLine 22 6 false false }, ?_⟩
  refine ⟨rfl, ?_⟩
  iterate 12 refine ⟨by decide +kernel, ?_⟩
  refine ⟨rfl, ?_⟩
  iterate 1 refine ⟨by decide +kernel, ?_⟩
  exact tagOk_mkLine _ _ _ _
theorem test_ReadsComplete_8 : ∃ (s : State) (rid : Nat) (r : Req), s.reqOf rid = some r ∧ r.stage = .dispatch ∧ (r.kind = .inv ∨ r.kind = .evct)
    ∧ s.isNext r = true ∧ s.sharedOf r.line = false ∧ s.fencedAt r.line = false ∧ s.answersNow r = true :=
  ⟨{ wLive with reqs := [{ wRead .dispatch with kind := .inv }] }, 7, { wRead .dispatch with kind := .inv }, by decide +kernel⟩
theorem test_ReadsComplete_9 : ∃ (s : State) (rid : Nat) (r : Req), s.reqOf rid = some r ∧ r.stage = .probing ∧ r.probe = false
    ∧ s.psaInvalid r.map.psa = false ∧ s.mapBadAt (swatchOf r.line) = false ∧ r.map.present = true :=
  ⟨{ wLive with reqs := [{ wRead .probing with map := { psa := 8, present := true } }] }, 7, { wRead .probing with map := { psa := 8, present := true } }, by decide +kernel⟩
theorem test_ReadsComplete_10 : ∃ (s : State) (rid : Nat) (r : Req), s.reqOf rid = some r ∧ r.stage = .probing ∧ r.probe = false
    ∧ s.psaInvalid r.map.psa = false ∧ s.mapBadAt (swatchOf r.line) = false ∧ r.map.present = false ∧ r.map.psa ≠ unmappedPsa
    ∧ s.psaUp r.map.psa = true :=
  ⟨{ wLive with reqs := [{ wRead .probing with map := { psa := 8 } }] }, 7, { wRead .probing with map := { psa := 8 } }, by decide +kernel⟩
theorem test_ReadsComplete_11 : ∃ (s : State) (rid : Nat) (r : Req), s.reqOf rid = some r ∧ r.stage = .probing ∧ r.probe = false ∧ r.kind = .read
    ∧ s.mapBadAt (swatchOf r.line) = false ∧ r.map.present = false ∧ r.map.psa = unmappedPsa ∧ s.cipherFault = false ∧ s.answersNow r = true :=
  ⟨{ wLive with reqs := [wRead .probing] }, 7, wRead .probing, by decide +kernel⟩
theorem test_ReadsComplete_12 : ∃ (s : State) (rid : Nat) (r : Req) (e : IdxEntry), s.reqOf rid = some r ∧ r.stage = .index
    ∧ Tab.get (fun _ => false) s.xlt.bucketBad (homeBucket (swatchOf r.line)) = false ∧ r.idx = some e ∧ s.psaUp e.psa = true :=
  ⟨{ wLive with reqs := [{ wRead .index with idx := some { line := 5, psa := 8, slot := 2, poison := false, stamp := 1 } }] }, 7, { wRead .index with idx := some { line := 5, psa := 8, slot := 2, poison := false, stamp := 1 } }, { line := 5, psa := 8, slot := 2, poison := false, stamp := 1 }, by decide +kernel⟩
theorem test_ReadsComplete_13 : ∃ (s : State) (rid : Nat) (r : Req), s.reqOf rid = some r ∧ r.stage = .index
    ∧ Tab.get (fun _ => false) s.xlt.bucketBad (homeBucket (swatchOf r.line)) = false ∧ r.idx = none ∧ r.map.psa ≠ unmappedPsa
    ∧ s.psaUp r.map.psa = true :=
  ⟨{ wLive with reqs := [{ wRead .index with map := { psa := 8, present := true } }] }, 7, { wRead .index with map := { psa := 8, present := true } }, by decide +kernel⟩
theorem test_ReadsComplete_14 : ∃ (s : State) (rid : Nat) (r : Req), s.reqOf rid = some r ∧ r.probe = true ∧ r.hit = none :=
  ⟨{ wLive with reqs := [{ wRead .probing with probe := true }] }, 7, { wRead .probing with probe := true }, by decide +kernel⟩
theorem test_ReadsComplete_15 : ∃ (s : State) (rid : Nat) (r : Req) (l : Line) (left : Bool), s.reqOf rid = some r ∧ r.probe = true ∧ r.hit = some l
    ∧ r.kind = .write ∧ s.integ.inj = none :=
  ⟨{ wLive with reqs := [{ wWrite .media with probe := true, hit := some { data := 9 } }] }, 7, { wWrite .media with probe := true, hit := some { data := 9 } }, { data := 9 }, true, by decide +kernel⟩
theorem test_ReadsComplete_16 : ∃ (s : State) (rid : Nat) (r : Req) (l : Line) (left : Bool), s.reqOf rid = some r ∧ r.probe = true ∧ r.hit = some l
    ∧ r.kind = .read ∧ s.integ.inj = none ∧ s.cipherFault = false ∧ l.poison = false ∧ tagOk l r.line (s.sharedOf r.line) = true ∧ r.flow = false
    ∧ s.answersNow r = true := by
  refine ⟨wHit, 7, wHitReq, mkLine 22 5 false false, true, rfl, ?_, rfl, ?_, ?_, ?_, ?_, tagOk_mkLine _ _ _ _, ?_⟩ <;> decide +kernel
theorem test_ReadsComplete_17 : ∃ (s : State) (rid : Nat) (d : Sensed) (g : Ghost) (l : List Ghost), s.reqOf rid = none ∧ s.med.ghosts = g :: l
    ∧ g.req = rid :=
  ⟨{ med := { ghosts := [{ req := 7, bolt := 1, squashed := true, slice := 0, ld := 0 }] } }, 7, {}, { req := 7, bolt := 1, squashed := true, slice := 0, ld := 0 }, [], by decide +kernel⟩
theorem test_ReadsComplete_18 : ∃ (s : State) (rid : Nat) (r : Req) (psa : Nat) (slot : Nat) (p : Page) (l : Line) (d : Sensed), s.reqOf rid = some r
    ∧ r.stage = .media ∧ r.probe = false ∧ r.kind = .write ∧ r.target = some (psa, slot) ∧ r.inj4 = 0 ∧ s.integ.inj = none ∧ s.cipherFault = false
    ∧ s.pageAt psa = some p ∧ symErrors ((p.line slot).damage ^^^ d.errors) ≤ 8 ∧ s.decLine r.line (p.line slot) = .ok l :=
  ⟨{ wLive with reqs := [{ wWrite .media with target := some (8, 5) }], med := { pages := [(8, some { selv := { typ := 1 }, lines := [(5, { val := { data := 9 } })] })] } }, 7, { wWrite .media with target := some (8, 5) }, 8, 5, { selv := { typ := 1 }, lines := [(5, { val := { data := 9 } })] }, { data := 9 }, { errors := 7 }, by decide +kernel⟩
theorem test_ReadsComplete_19 : ∃ (s : State) (rid : Nat) (r : Req) (psa : Nat) (slot : Nat) (p : Page) (l : Line) (d : Sensed), s.reqOf rid = some r
    ∧ r.stage = .media ∧ r.probe = false ∧ r.kind = .read ∧ r.target = some (psa, slot) ∧ r.inj4 = 0 ∧ s.integ.inj = none ∧ s.cipherFault = false
    ∧ s.pageAt psa = some p ∧ symErrors ((p.line slot).damage ^^^ d.errors) ≤ 8 ∧ s.decLine r.line (p.line slot) = .ok l ∧ l.poison = false
    ∧ tagOk l r.line (s.sharedOf r.line) = true ∧ r.flow = false ∧ s.answersNow r = true := by
  refine ⟨wMediaRead, 7, { wRead .media with target := some (8, 5) }, 8, 5, wSwatchPage, mkLine 22 5 false false, { errors := 7 }, rfl, ?_, ?_, ?_, ?_, ?_, ?_, ?_, pageAt_first rfl (by decide +kernel), ?_, decLine_plain (by decide +kernel) (by decide +kernel) rfl, ?_, tagOk_mkLine _ _ _ _, ?_⟩ <;> decide +kernel
theorem test_ReadsComplete_20 : ∃ (s : State) (rid : Nat) (r : Req) (psa : Nat) (slot : Nat) (m : Nat) (ms : List Nat), s.reqOf rid = some r
    ∧ r.stage = .recon ∧ r.target = some (psa, slot) ∧ s.siblings psa = some (m :: ms) ∧ r.probe = false ∧ (∀ x ∈ m :: ms, s.psaUp x = true) :=
  ⟨{ wLive with reqs := [{ wRead .recon with target := some (8, 5) }], med := { pages := [(16, some { selv := { typ := 10 }, refs := [8, 24] })] } }, 7, { wRead .recon with target := some (8, 5) }, 8, 5, 24, [16], by decide +kernel⟩
theorem test_ReadsComplete_21 : ∃ (s : State) (rid : Nat) (r : Req) (m : Nat) (d : Sensed), s.reqOf rid = some r ∧ r.stage = .members
    ∧ r.members.contains m = true ∧ r.members.filter (· != m) ≠ [] ∧ r.probe = false ∧ (∀ x ∈ r.members, s.psaUp x = true) :=
  ⟨{ wLive with reqs := [{ wRead .members with members := [24, 16] }] }, 7, { wRead .members with members := [24, 16] }, 24, {}, by decide +kernel⟩
theorem test_ReadsComplete_22 : ∃ (s : State) (rid : Nat) (r : Req) (m : Nat) (d : Sensed), s.reqOf rid = some r ∧ r.stage = .members
    ∧ r.members.contains m = true ∧ r.members.filter (· != m) = [] ∧ r.lost = true ∧ r.kind = .write :=
  ⟨{ wLive with reqs := [{ wWrite .members with members := [16], lost := true }] }, 7, { wWrite .members with members := [16], lost := true }, 16, {}, by decide +kernel⟩
theorem test_ReadsComplete_23 : ∃ (s : State) (rid : Nat) (r : Req) (m : Nat) (d : Sensed) (psa : Nat) (slot : Nat) (q : Page) (p : Page) (l : Line), s.reqOf rid = some r
    ∧ r.stage = .members ∧ r.probe = false ∧ r.members.contains m = true ∧ r.members.filter (· != m) = [] ∧ r.lost = false ∧ r.kind = .read
    ∧ r.target = some (psa, slot) ∧ s.pageAt m = some q ∧ symErrors ((q.line slot).damage ^^^ d.errors) ≤ 8 ∧ s.pageThere psa = some p
    ∧ s.decLine r.line { p.line slot with damage := 0 } = .ok l ∧ s.cipherFault = false ∧ l.poison = false ∧ tagOk l r.line (s.sharedOf r.line) = true
    ∧ r.flow = false ∧ s.answersNow r = true := by
  refine ⟨wRebuild, 7, wRebuildReq, 16, {}, 8, 5, { selv := { typ := 10 }, refs := [8] }, wSwatchPage, mkLine 22 5 false false, ?_⟩
  refine ⟨rfl, ?_⟩
  iterate 9 refine ⟨by decide +kernel, ?_⟩
  refine ⟨pageThere_first rfl rfl (by decide +kernel), ?_⟩
  refine ⟨decLine_plain (by decide +kernel) (by decide +kernel) rfl, ?_⟩
  iterate 2 refine ⟨by decide +kernel, ?_⟩
  refine ⟨tagOk_mkLine _ _ _ _, ?_⟩
  decide +kernel
/-! Statement WritesComplete. -/
theorem test_WritesComplete_0 : ∃ (s : State) (port : Nat) (q : M2SRwD) (line : Nat), s.portOpen port true = true ∧ q.form = .good ∧ s.halted = false
    ∧ (s.hostDecode port q.ld q.hpa).toOption = some line ∧ s.memMissing q.ld rightMemWr line = none ∧ (∀ r ∈ s.reqs, r.id < s.nextReq) :=
  ⟨wLive, 1, { ld := 1, tag := 3, hpa := 320, data := 5 }, 5, by decide +kernel⟩
theorem test_WritesComplete_1 : ∃ (s : State) (rid : Nat) (r : Req) (miss : Bool), s.reqOf rid = some r ∧ r.kind = .write ∧ r.stage = .dispatch
    ∧ s.isNext r = true ∧ s.flush.stopped = false ∧ s.wbufLen (sliceOf r.line) < 64 ∧ s.sharedOf r.line = false ∧ s.fencedAt r.line = false
    ∧ s.keyGone r.line = false ∧ s.sealedLine r.line = false ∧ s.flush.clean = none
    ∧ (s.writesThrough r.line = true ∨ s.dirtyIn r.line = true ∨ s.budgetRoom (sliceOf r.line) = true) ∧ s.cipherFault = false ∧ s.integ.inj = none
    ∧ r.partW = false :=
  ⟨{ wLive with reqs := [wWrite .dispatch] }, 7, wWrite .dispatch, true, by decide +kernel⟩
theorem test_WritesComplete_2 : ∃ (s : State) (rid : Nat) (r : Req) (miss : Bool) (k : Nat), s.reqOf rid = some r ∧ r.kind = .write
    ∧ r.stage = .dispatch ∧ s.isNext r = true ∧ s.flush.stopped = false ∧ s.wbufLen (sliceOf r.line) < 64 ∧ s.sharedOf r.line = false
    ∧ s.fencedAt r.line = false ∧ s.keyGone r.line = false ∧ s.sealedLine r.line = false ∧ s.flush.clean = none
    ∧ (s.writesThrough r.line = true ∨ s.dirtyIn r.line = true ∨ s.budgetRoom (sliceOf r.line) = true) ∧ s.cipherFault = false ∧ s.integ.inj = none
    ∧ r.partW = true ∧ r.ordered = false ∧ s.buffered r.line = none ∧ s.pentHit r.line = none ∧ s.findWay r.line = some k := by
  refine ⟨{ wCached with reqs := [{ wWrite .dispatch with line := 6, partW := true, ordered := false }] }, 7, { wWrite .dispatch with line := 6, partW := true, ordered := false }, true, (wCached.findWay 6).getD 0, ?_⟩
  refine ⟨rfl, ?_⟩
  iterate 17 refine ⟨by decide +kernel, ?_⟩
  exact rfl
theorem test_WritesComplete_3 : ∃ (s : State) (rid : Nat) (r : Req) (miss : Bool), s.reqOf rid = some r ∧ r.kind = .write ∧ r.stage = .dispatch
    ∧ s.isNext r = true ∧ s.flush.stopped = false ∧ s.wbufLen (sliceOf r.line) < 64 ∧ s.sharedOf r.line = false ∧ s.fencedAt r.line = false
    ∧ s.keyGone r.line = false ∧ s.sealedLine r.line = false ∧ s.flush.clean = none
    ∧ (s.writesThrough r.line = true ∨ s.dirtyIn r.line = true ∨ s.budgetRoom (sliceOf r.line) = true) ∧ s.cipherFault = false ∧ s.integ.inj = none
    ∧ r.partW = true ∧ s.buffered r.line = none ∧ s.pentHit r.line = none ∧ s.findWay r.line = none ∧ s.stagedOf r.line = none :=
  ⟨{ wLive with reqs := [{ wWrite .dispatch with line := 6, partW := true, ordered := false }] }, 7, { wWrite .dispatch with line := 6, partW := true, ordered := false }, false, by decide +kernel⟩
theorem test_WritesComplete_4 : ∃ (s : State) (rid : Nat) (r : Req), s.reqOf rid = some r ∧ r.kind = .write ∧ r.stage = .dispatch ∧ s.isNext r = true
    ∧ s.flush.stopped = false ∧ s.wbufLen (sliceOf r.line) < 64 ∧ s.sharedOf r.line = false ∧ s.fencedAt r.line = false ∧ s.keyGone r.line = false
    ∧ s.sealedLine r.line = true ∧ s.sealRoom r.line = true ∧ r.wback = false ∧ s.answersNow r = true :=
  ⟨({ wLive with reqs := [wWrite .dispatch] } : State).setF (MED.GROUP_STATUS_SEALED 0) 1, 7, wWrite .dispatch, by decide +kernel⟩
theorem test_WritesComplete_5 : ∃ (s : State) (rid : Nat) (r : Req) (o : Line), s.reqOf rid = some r ∧ r.stage = .merge ∧ r.old = some o
    ∧ o.poison = false ∧ tagOk o r.line (s.sharedOf r.line) = true ∧ (∀ x ∈ s.reqs, x.stage ≠ .bufwait) := by
  refine ⟨{ wLive with reqs := [{ wWrite .merge with old := some (mkLine 0x556677 5 false false) }] }, 7, { wWrite .merge with old := some (mkLine 0x556677 5 false false) }, mkLine 0x556677 5 false false, rfl, ?_, rfl, ?_, tagOk_mkLine _ _ _ _, ?_⟩ <;> decide +kernel
theorem test_WritesComplete_6 : ∃ (s : State) (rid : Nat) (r : Req) (k : Nat), s.reqOf rid = some r ∧ r.stage = .buffered ∧ s.commitsNext r = true
    ∧ r.void = false ∧ r.wback = false ∧ s.flush.stopped = false ∧ s.writesThrough r.line = false ∧ s.findPent r.line = none
    ∧ s.findWay r.line = some k ∧ s.integ.inj = none ∧ s.answersNow r = true :=
  ⟨{ wLive.setF LIN.STATUS_ENABLED 1 with reqs := [wWrite .buffered], cache := { lining := [(251658240, { line := 5, valid := true })] } }, 7, wWrite .buffered, 251658240, by decide +kernel⟩
theorem test_WritesComplete_7 : ∃ (s : State) (rid : Nat) (r : Req) (n : Nat), s.reqOf rid = some r ∧ r.stage = .buffered ∧ s.commitsNext r = true
    ∧ r.void = false ∧ r.wback = false ∧ s.flush.stopped = false ∧ s.writesThrough r.line = false ∧ s.findPent r.line = some n ∧ s.integ.inj = none
    ∧ s.answersNow r = true := by
  refine ⟨{ wPinnedRead with reqs := [wWrite .buffered] }, 7, wWrite .buffered, 3, rfl, ?_, ?_, ?_, ?_, ?_, ?_, rfl, ?_⟩ <;> decide +kernel
theorem test_WritesComplete_8 : ∃ (s : State) (rid : Nat) (r : Req) (k : Nat), s.reqOf rid = some r ∧ r.stage = .buffered ∧ s.commitsNext r = true
    ∧ r.void = false ∧ r.wback = false ∧ s.flush.stopped = false ∧ s.writesThrough r.line = false ∧ s.findPent r.line = none ∧ s.findWay r.line = none
    ∧ s.victim r.line = k ∧ ((s.way k).valid = false ∨ (s.way k).dirty = false) ∧ s.integ.inj = none ∧ s.answersNow r = true :=
  ⟨{ wLive.setF LIN.STATUS_ENABLED 1 with reqs := [wWrite .buffered] }, 7, wWrite .buffered, 251658240, by decide +kernel⟩
theorem test_WritesComplete_9 : ∃ (s : State) (k : Nat), s.stagingLen k < 786432 :=
  ⟨{ wLive with cache := { wait230 := [5, 2] }, reqs := [{ wWrite .hold with why := 1 }] }, 5, by decide +kernel⟩
theorem test_WritesComplete_10 : ∃ (s : State) (m : Nat) (k : Nat), s.mayWrite m (0x200010 + 0x8000 * k) = true ∧ k < 8 :=
  ⟨(wLive.setF (SLC.RD_LAT_MAX_NS 5) 9).setF (SLC.WR_LAT_MAX_NS 5) 8, 0, 5, by decide +kernel⟩
/-! Statement PatchLogCompletes. -/
theorem test_PatchLogCompletes_0 : ∃ (s : State) (line : Nat), s.flush.stopped = false ∧ s.throughOpen line = false
    ∧ s.cache.staging.any (fun x => x.line == line && x.place.isNone && !x.taken) = true
    ∧ clamp 1 32 (s.getF XLT.CTRL_FULL_THRESH) < (s.dirtyOfSwatch (swatchOf line)).length ∧ s.darnRoom (swatchOf line) = true :=
  ⟨{ wLive.setF XLT.CTRL_FULL_THRESH 1 with cache := { staging := [{ line := 5, val := {} }, { line := 6, val := {} }] } }, 5, by decide +kernel⟩
theorem test_PatchLogCompletes_1 : ∃ (s : State) (line : Nat), s.flush.stopped = false ∧ s.throughOpen line = false
    ∧ s.cache.staging.any (fun x => x.line == line && x.place.isNone && !x.taken) = true ∧ s.windowFree (swatchOf line) = none
    ∧ s.darnRoom (swatchOf line) = true :=
  ⟨wWindow, 5, by decide +kernel⟩
theorem test_PatchLogCompletes_2 : ∃ (s : State) (line : Nat) (o : OpenPatch), s.flush.stopped = false ∧ s.throughOpen line = false
    ∧ s.integ.inj = none ∧ s.cache.staging.any (fun x => x.line == line && x.place.isNone && !x.taken) = true
    ∧ (s.dirtyOfSwatch (swatchOf line)).length ≤ clamp 1 32 (s.getF XLT.CTRL_FULL_THRESH) ∧ s.windowFree (swatchOf line) ≠ none
    ∧ s.darnRoom (swatchOf line) = true ∧ s.xlt.openPages.find? (fun o => o.group == s.homeGroup (swatchOf line) && !o.flush) = some o
    ∧ (s.xlt.seq + 2 ^ 40 - o.seq) % 2 ^ 40 ≤ 65535 ∧ o.ents.length < 55 :=
  ⟨{ wLive with cache := { staging := [{ line := 5, val := {} }] }, xlt := { seq := 9, index := [(3, some { line := 5, psa := 800, slot := 0, poison := false, stamp := 2 })], openPages := [{ psa := 8, group := 0, seq := 7 }] } }, 5, { psa := 8, group := 0, seq := 7 }, by decide +kernel⟩
theorem test_PatchLogCompletes_3 : ∃ (s : State) (line : Nat) (f : Frame), s.flush.stopped = false ∧ s.throughOpen line = false ∧ s.integ.inj = none
    ∧ s.cache.staging.any (fun x => x.line == line && x.place.isNone && !x.taken) = true
    ∧ (s.dirtyOfSwatch (swatchOf line)).length ≤ clamp 1 32 (s.getF XLT.CTRL_FULL_THRESH) ∧ s.windowFree (swatchOf line) ≠ none
    ∧ s.darnRoom (swatchOf line) = true ∧ s.xlt.openPages = [] ∧ s.openFrameOf (s.homeGroup (swatchOf line)) 16 = some f :=
  ⟨{ wLive with cache := { staging := [{ line := 5, val := {} }] }, med := { frames := [wFrame 16 0 0] } }, 5, wFrame 16 0 0, by decide +kernel⟩
theorem test_PatchLogCompletes_4 : ∃ (s : State) (psa : Nat) (o : OpenPatch), s.xlt.openPages.find? (fun o => o.psa == psa && !o.ents.isEmpty) = some o :=
  ⟨{ xlt := { openPages := [{ psa := 8, group := 0, seq := 7, ents := [wEnt] }] } }, 8, { psa := 8, group := 0, seq := 7, ents := [wEnt] }, by decide +kernel⟩
theorem test_PatchLogCompletes_5 : ∃ (s : State) (psa : Nat) (p : Prog), s.progOf psa = some p ∧ p.purpose = .patch ∧ s.isFlushPage psa = false
    ∧ s.flush.stopped = false ∧ s.integ.inj = none :=
  ⟨{ wLive with med := { progs := [wProg 2 .patch] } }, 8, wProg 2 .patch, by decide +kernel⟩
theorem test_PatchLogCompletes_6 : ∃ (s : State) (psa : Nat) (p : Prog) (d : DirEntry), s.progOf psa = some p ∧ p.purpose = .patch
    ∧ s.isFlushPage psa = false ∧ s.flush.stopped = false ∧ p.page.dir = [d] ∧ d.dropped = false ∧ s.idxOf d.line = none
    ∧ s.windowFree (swatchOf d.line) ≠ none :=
  ⟨{ wLive with med := { progs := [wProg 2 .patch] } }, 8, wProg 2 .patch, wEnt, by decide +kernel⟩
theorem test_PatchLogCompletes_7 : ∃ (s : State) (psa : Nat) (p : Prog), s.progOf psa = some p ∧ p.purpose = .patch ∧ s.isFlushPage psa = true
    ∧ s.flush.stopped = false :=
  ⟨{ wLive with med := { frames := [wFrame 21 0 0], progs := [wProg 2 .patch] } }, 8, wProg 2 .patch, by decide +kernel⟩
theorem test_PatchLogCompletes_8 : ∃ (s : State) (psa : Nat) (p : Prog), s.progOf psa = some p ∧ p.purpose = .patch
    ∧ s.spareBolt (boltSlot (s.aliasOf (boltOf psa))) (boltDie (s.aliasOf (boltOf psa))) true ≠ none := by
  refine ⟨({ med := { progs := [wProg 2 .patch] } } : State), 8, wProg 2 .patch, ?_, ?_, spareBolt_ne_none _ _ _ (by decide +kernel) (by decide +kernel)⟩ <;> decide +kernel
theorem test_PatchLogCompletes_9 : ∃ (s : State) (m : Nat) (hi : Word) (sw : Nat), s.mayWrite m 0x160024 = true
    ∧ sw = (s.readRaw 0x160020).toNat + 2 ^ 32 * (hi.toNat % 2) ∧ s.livePatches sw ≠ 0 ∧ s.xlt.heldDarn = none
    ∧ (s.xlt.darnq.length < 65536 ∨ s.xlt.darnq.any (fun p => p.swatch == sw) = true) :=
  ⟨{ wLive with xlt := { index := [(3, some { line := 5, psa := 800, slot := 0, poison := false, stamp := 2 })] } }, 0, 0, 0, by decide +kernel⟩
theorem test_PatchLogCompletes_10 : ∃ (s : State) (p : DarnPlace) (rest : List DarnPlace), s.xlt.waiting = p :: rest ∧ s.darnRoom p.swatch = true :=
  ⟨{ xlt := { waiting := [{ swatch := 3, prios := [1] }] } }, { swatch := 3, prios := [1] }, [], by decide +kernel⟩
theorem test_PatchLogCompletes_11 : ∃ (s : State) (p : DarnPlace) (rest : List DarnPlace), s.xlt.waiting = p :: rest ∧ s.xlt.darnq.length < 65536
    ∧ s.xlt.darnq.any (fun x => x.swatch == p.swatch) = false :=
  ⟨{ xlt := { waiting := [{ swatch := 3, prios := [1] }] } }, { swatch := 3, prios := [1] }, [], by decide +kernel⟩
theorem test_PatchLogCompletes_12 : ∃ (s : State) (p : DarnPlace) (f : Frame), s.flush.stopped = false ∧ s.xlt.asm.length < 256 ∧ s.med.stuck = []
    ∧ s.nextDarn = some p ∧ s.darnMoot p = false ∧ s.cipherFault = false ∧ s.integ.inj = none
    ∧ s.openFrameOf (s.homeGroup p.swatch) (s.nextS (s.homeGroup p.swatch)) = some f :=
  ⟨{ wLive with xlt := { darnq := [{ swatch := 0, prios := [2] }] }, cache := { staging := [{ line := 5, val := {} }] }, med := { frames := [wFrame 0 0 0] } }, { swatch := 0, prios := [2] }, wFrame 0 0 0, by decide +kernel⟩
theorem test_PatchLogCompletes_13 : ∃ (s : State) (psa : Nat) (p : Prog) (a : Assembly), s.progOf psa = some p ∧ p.purpose = .assembly
    ∧ s.xlt.asm.find? (fun a => a.psa == psa) = some a ∧ a.ended = false ∧ s.mapHurt a.swatch = false :=
  ⟨{ wLive with xlt := { asm := [{ swatch := 0, full := true, stamp := 3, psa := 8 }] }, med := { progs := [wProg 1 .assembly] } }, 8, wProg 1 .assembly, { swatch := 0, full := true, stamp := 3, psa := 8 }, by decide +kernel⟩
theorem test_PatchLogCompletes_14 : ∃ (s : State) (b : Nat) (rest : List Nat), s.xlt.roster = b :: rest ∧ s.flush.stopped = false
    ∧ s.reclaimDue b = true ∧ s.boltSwatches b ≠ [] ∧ s.xlt.darnq.length + (s.boltSwatches b).length ≤ 65536 :=
  ⟨wReclaim, 0, [65536], by decide +kernel⟩
theorem test_PatchLogCompletes_15 : ∃ (s : State) (b : Nat) (rest : List Nat), s.xlt.roster = b :: rest ∧ s.flush.stopped = false
    ∧ s.reclaimDue b = true ∧ s.boltSwatches b = [] ∧ s.xlt.openPages.any (fun o => boltOf o.psa == b && !o.ents.isEmpty) = false
    ∧ s.med.progs.any (fun p => p.purpose == .patch && boltOf p.psa == b) = false ∧ (s.frameOf b).all (·.closed) = true :=
  ⟨{ wLive with xlt := { roster := [0, 65536] }, plan := { groups := 1, plogGib := 0 } }, 0, [65536], by decide +kernel⟩
theorem test_PatchLogCompletes_16 : ∃ (s : State) (b : Nat) (rest : List Nat) (f : Frame), s.xlt.roster = b :: rest ∧ s.flush.stopped = false
    ∧ s.reclaimDue b = true ∧ s.boltSwatches b = [] ∧ s.xlt.openPages.any (fun o => boltOf o.psa == b && !o.ents.isEmpty) = false
    ∧ s.med.progs.any (fun p => p.purpose == .patch && boltOf p.psa == b) = false ∧ s.frameOf b = some f ∧ f.closed = false ∧ f.cut = false
    ∧ f.next % f.width ≠ 0 ∧ f.width ≠ 0 :=
  ⟨{ wLive with xlt := { roster := [0, 65536] }, plan := { groups := 1, plogGib := 0 }, med := { frames := [{ wFrame 16 0 0 with next := 3 }] } }, 0, [65536], { wFrame 16 0 0 with next := 3 }, by decide +kernel⟩
/-! Statement CheckpointCommandsComplete. -/
theorem test_CheckpointCommandsComplete_image : ∃ (s t' : State) (pages : List Nat), s.flush.stopped = false ∧ s.memActive = true
    ∧ s.imageWrite s.xlt.region (decide (s.xlt.passNo % 2 = 1)) s.xlt.imgStart = some (t', pages) ∧ s.xlt.region + 1 < regionCount s.order := by
  obtain ⟨t', l, e, _⟩ := State.imageWrite_room (f := wImageFrame) (s := wImage) ⟨rfl, rfl, rfl, rfl, rfl, rfl⟩ rfl rfl rfl rfl (by decide)
    (fun n hn => by
      have hw : wImageFrame.width = 8 := by decide
      show (wImageFrame.bolts.getD (n % wImageFrame.width) 0 * 8192 + n / wImageFrame.width) % 8192 ≠ 8191
      rw [hw]; omega) wImage.xlt.region (decide (wImage.xlt.passNo % 2 = 1)) wImage.xlt.imgStart
  exact ⟨wImage, t', l, by decide +kernel, by decide +kernel, e, by decide +kernel⟩
theorem test_CheckpointCommandsComplete_1 : ∃ (s : State), s.xlt.lateNow = false :=
  ⟨wLive, by decide +kernel⟩
theorem test_CheckpointCommandsComplete_2 : ∃ (s : State), s.start.released = true :=
  ⟨{ wLive with xlt := { mclk := 0xFFFFFFFF } }, by decide +kernel⟩
theorem test_CheckpointCommandsComplete_3 : ∃ (s : State), s.start.released = true ∧ s.clk.timeSet = true ∧ s.kpsOk = true :=
  ⟨((wLive.setF KPS.STATUS_KPV_UP 1).setF KPS.STATUS_TEMP_OK 1), by decide +kernel⟩
theorem test_CheckpointCommandsComplete_4 : ∃ (s : State) (b : Nat) (scan : Bool) (us : Nat), Tab.get (fun _ => false) s.xlt.mapBad b = true :=
  ⟨{ xlt := { mapBad := [(7, true)] } }, 7, false, 3, by decide +kernel⟩
theorem test_CheckpointCommandsComplete_5 : ∃ (s : State) (rid : Nat) (r : Req), s.reqOf rid = some r ∧ r.stage = .repair ∧ r.kind = .read
    ∧ r.flow = false ∧ s.answersNow r = true :=
  ⟨{ wLive with reqs := [wRead .repair] }, 7, wRead .repair, by decide +kernel⟩
/-! Statement MediaCommandsComplete. -/
theorem test_MediaCommandsComplete_0 : ∃ (s : State) (psa : Nat) (p : Prog), s.progOf psa = some p ∧ p.purpose ≠ .patch ∧ p.purpose ≠ .assembly
    ∧ s.mapHurt p.page.selv.swatch = false ∧ s.integ.inj = none :=
  ⟨{ wLive with med := { progs := [wProg 5 .journal] } }, 8, wProg 5 .journal, by decide +kernel⟩
theorem test_MediaCommandsComplete_1 : ∃ (s : State) (psa : Nat) (p : Prog) (old : Nat) (gc : Bool), s.progOf psa = some p ∧ p.purpose = .copy old gc
    ∧ p.page.selv.typ = 1 ∧ s.mapHurt p.page.selv.swatch = false ∧ s.integ.inj = none ∧ (s.mapEntry p.page.selv.swatch).psa = old
    ∧ s.xlt.asm.any (fun a => a.swatch == p.page.selv.swatch) = false ∧ s.idxOfSwatch p.page.selv.swatch = [] :=
  ⟨{ wLive with xlt := { map := [(0, { psa := 16 })] }, med := { progs := [wProg 1 (.copy 16 true)] } }, 8, wProg 1 (.copy 16 true), 16, true, by decide +kernel⟩
theorem test_MediaCommandsComplete_2 : ∃ (s : State) (psa : Nat) (p : Prog), s.progOf psa = some p ∧ p.purpose = .journal ∧ s.flush.stopped = false :=
  ⟨{ wLive with med := { progs := [wProg 5 .journal] } }, 8, wProg 5 .journal, by decide +kernel⟩
theorem test_MediaCommandsComplete_3 : ∃ (s : State) (k : Nat) (b : BSet), s.med.bast.find? (fun b => b.slot == k && !b.pages.isEmpty) = some b :=
  ⟨{ med := { bast := [{ slot := 0, number := 4, pages := [8, 9] }] } }, 0, { slot := 0, number := 4, pages := [8, 9] }, by decide +kernel⟩
theorem test_MediaCommandsComplete_4 : ∃ (s : State) (psa : Nat) (p : Prog), s.progOf psa = some p ∧ p.purpose ≠ .patch
    ∧ s.spareBolt (boltSlot (s.aliasOf (boltOf psa))) (boltDie (s.aliasOf (boltOf psa))) true ≠ none := by
  refine ⟨({ med := { progs := [wProg 5 .journal] } } : State), 8, wProg 5 .journal, ?_, ?_, spareBolt_ne_none _ _ _ (by decide +kernel) (by decide +kernel)⟩ <;> decide +kernel
theorem test_MediaCommandsComplete_5 : ∃ (s : State) (n : Nat) (d : Nat) (b : Nat), s.med.resets.contains (mkBolt n d b) = true
    ∧ s.boltRead (mkBolt n d b) = false :=
  ⟨{ wLive with med := { resets := [0], ledger := [(0, { state := 3, resets := 7 })] } }, 0, 0, 0, by decide +kernel⟩
theorem test_MediaCommandsComplete_6 : ∃ (s : State) (n : Nat) (d : Nat) (b : Nat), s.med.resets.contains (mkBolt n d b) = true
    ∧ s.boltRead (mkBolt n d b) = false :=
  ⟨{ wLive with med := { resets := [0], ledger := [(0, { state := 3, resets := 7 })] } }, 0, 0, 0, by decide +kernel⟩
theorem test_MediaCommandsComplete_7 : ∃ (s : State) (g : Nat) (f : Frame), s.flush.stopped = false ∧ (s.groupMedia g).collecting = true
    ∧ s.med.frames.filter (fun x => x.group == g && State.collectable x) = [f] ∧ ((List.range f.next).any fun e => s.copying (f.psa e)) = false
    ∧ s.frameValid f = 0 :=
  ⟨{ wLive with med := { groups := [(0, { collecting := true })], frames := [{ wFrame 0 4 0 with closed := true }, wFrame 1 5 1] } }, 0, { wFrame 0 4 0 with closed := true }, by decide +kernel⟩
theorem test_MediaCommandsComplete_8 : ∃ (s : State) (g : Nat) (f : Frame) (h : Frame) (p : Page), s.flush.stopped = false
    ∧ (s.groupMedia g).collecting = true ∧ s.med.frames.filter (fun x => x.group == g && State.collectable x) = [f] ∧ f.next = 1
    ∧ s.copying (f.psa 0) = false ∧ s.frameValid f ≠ 0 ∧ s.openFrameOf g (s.nextS g) = some h ∧ s.pageThere (f.psa 0) = some p ∧ p.selv.typ = 1
    ∧ (s.mapEntry p.selv.swatch).psa = f.psa 0 ∧ s.homeGroup p.selv.swatch = g ∧ s.xlt.asm = [] ∧ s.swatchInFlight p.selv.swatch = false
    ∧ s.idxOfSwatch p.selv.swatch = [] ∧ s.integ.inj = none :=
  ⟨{ wLive with xlt := { map := [(0, { psa := 0 })] }, med := { groups := [(0, { collecting := true })], pages := [(0, some { selv := { typ := 1 } })], bolts := [(0, { valid := 1 })], frames := [{ wFrame 0 4 0 with next := 1, closed := true }, wFrame 1 5 1] } }, 0, { wFrame 0 4 0 with next := 1, closed := true }, wFrame 1 5 1, { selv := { typ := 1 } }, by decide +kernel⟩
theorem test_MediaCommandsComplete_9 : ∃ (s : State) (g : Nat) (f : Frame), s.flush.stopped = false
    ∧ ((s.groupMedia g).refreshq.findSome? fun n => s.med.frames.find? fun f => f.group == g && f.number == n && State.collectable f) = some f
    ∧ f.closed = true ∧ s.frameValid f = 0 :=
  ⟨{ wLive with med := { groups := [(0, { refreshq := [4] })], frames := [{ wFrame 0 4 0 with closed := true }] } }, 0, { wFrame 0 4 0 with closed := true }, by decide +kernel⟩
theorem test_MediaCommandsComplete_10 : ∃ (s : State) (g : Nat) (f : Frame) (h : Frame) (p : Page), s.flush.stopped = false
    ∧ ((s.groupMedia g).refreshq.findSome? fun n => s.med.frames.find? fun f => f.group == g && f.number == n && State.collectable f) = some f
    ∧ f.next = 1 ∧ s.copying (f.psa 0) = false ∧ s.frameValid f ≠ 0 ∧ s.openFrameOf g (s.nextS g) = some h ∧ s.pageThere (f.psa 0) = some p
    ∧ p.selv.typ = 1 ∧ (s.mapEntry p.selv.swatch).psa = f.psa 0 ∧ s.homeGroup p.selv.swatch = g ∧ s.xlt.asm = []
    ∧ s.swatchInFlight p.selv.swatch = false ∧ s.idxOfSwatch p.selv.swatch = [] ∧ s.integ.inj = none :=
  ⟨{ wLive with xlt := { map := [(0, { psa := 0 })] }, med := { groups := [(0, { refreshq := [4] })], pages := [(0, some { selv := { typ := 1 } })], bolts := [(0, { valid := 1 })], frames := [{ wFrame 0 4 0 with next := 1, closed := true }, wFrame 1 5 1] } }, 0, { wFrame 0 4 0 with next := 1, closed := true }, wFrame 1 5 1, { selv := { typ := 1 } }, by decide +kernel⟩
theorem test_MediaCommandsComplete_11 : ∃ (s : State) (g : Nat) (n : Nat) (sip : Bool), g < 4 ∧ s.flush.stopped = false
    ∧ (s.groupMedia g).rebuild = some (n, sip) ∧ (s.flag (MED.GROUP_STATUS_BELOW_LOW g) = false ∨ s.flag (MED.GROUP_STATUS_GC_ACTIVE g) = false)
    ∧ (s.rebuildAll g n sip).2 = [] :=
  ⟨{ wLive with med := { groups := [(2, { rebuild := some (3, false), lost := [131072 + 65536] })] } }, 2, 3, false, by decide +kernel⟩
theorem test_MediaCommandsComplete_12 : ∃ (s : State) (g : Nat) (n : Nat), g < 4 ∧ s.flush.stopped = false
    ∧ (s.groupMedia g).rebuild = some (n, false) ∧ (s.flag (MED.GROUP_STATUS_BELOW_LOW g) = false ∨ s.flag (MED.GROUP_STATUS_GC_ACTIVE g) = false)
    ∧ (s.rebuildAll g n false).2 = [] ∧ (s.groupSlots g).length = 8 ∧ 7 ≤ (s.present g).length :=
  ⟨{ wLive with med := { groups := [(0, { rebuild := some (3, false), lost := [196608] })] } }, 0, 3, by decide +kernel⟩
theorem test_MediaCommandsComplete_13 : ∃ (s : State) (g : Nat) (n : Nat) (sip : Bool), g < 4 ∧ s.flush.stopped = false
    ∧ (s.groupMedia g).rebuild = some (n, sip) ∧ (s.flag (MED.GROUP_STATUS_BELOW_LOW g) = false ∨ s.flag (MED.GROUP_STATUS_GC_ACTIVE g) = false)
    ∧ (s.rebuildAll g n sip).2 ≠ [] :=
  ⟨{ wLive with med := { groups := [(2, { rebuild := some (3, true), lost := [196608] })] } }, 2, 3, true, by decide +kernel⟩
theorem test_MediaCommandsComplete_14 : ∃ (s : State) (g : Nat) (n : Nat), g < 4 ∧ s.flush.stopped = false ∧ s.getF MED.CTRL_SIP_EN = 1
    ∧ (s.groupMedia g).degradedAt + s.getF MED.REBUILD_CTRL_SIP_WAIT * 60000000000 ≤ s.clk.now ∧ s.getF (MED.GROUP_STATUS_STATE g) = 2
    ∧ (s.groupMedia g).rebuild = none ∧ ((List.range 8).map (8 * g + ·)).find? (fun n => !(s.cart n).adopted && !(s.liveBolts n).isEmpty) = some n :=
  ⟨{ (wLive.setF MED.CTRL_SIP_EN 1).setF (MED.GROUP_STATUS_STATE 0) 2 with clk := { wLive.clk with now := 10 ^ 18 }, carts := [], med := { bolts := [(0, { valid := 1 })], frames := [{ wFrame 0 4 0 with closed := true }] } }, 0, 0, by decide +kernel⟩
/-! Statement CacheUpkeepCompletes. -/
theorem test_CacheUpkeepCompletes_0 : ∃ (s : State) (k : Nat), (s.way k).valid = true :=
  ⟨{ cache := { lining := [(80, { line := 5, valid := true, age := 2 })] } }, 80, by decide +kernel⟩
theorem test_CacheUpkeepCompletes_1 : ∃ (s : State) (s1 : State) (n : Nat) (k : Nat), k < 8 ∧ (s.pent n).filling = true
    ∧ Nat.testBit (s.pent n).valid k = false ∧ s.pcuOff = false ∧ s.victimLeave n k = some s1 ∧ (∀ i : Nat, i < 64 →
    sliceOf (64 * (s.pent n).swatch + i) = k → s1.readWaits (64 * (s.pent n).swatch + i) = false) :=
  ⟨{ wLive with cache := { pcu := [(4, { swatch := 7, filling := true, valid := 3 })] } }, { wLive with cache := { pcu := [(4, { swatch := 7, filling := true, valid := 3 })] } }, 4, 5, by decide +kernel⟩
theorem test_CacheUpkeepCompletes_2 : ∃ (s : State), s.getF LIN.STATUS_DISABLING = 1 ∧ s.disableOpen false = false :=
  ⟨{ (wLive.setF LIN.STATUS_DISABLING 1).setF LIN.STATUS_ENABLED 1 with cache := { lining := [(80, { line := 5, valid := true })] } }, by decide +kernel⟩
theorem test_CacheUpkeepCompletes_3 : ∃ (s : State), s.getF PCU.STATUS_DISABLING = 1 ∧ s.disableOpen true = false :=
  ⟨{ (wLive.setF PCU.STATUS_DISABLING 1).setF PCU.STATUS_ENABLED 1 with cache := { pcu := [(4, { swatch := 7, valid := 255 })] } }, by decide +kernel⟩
theorem test_CacheUpkeepCompletes_4 : ∃ (s : State) (b : Bool) (o : CacheOp), s.opNow b = some o ∧ o.op ≠ 4 ∧ o.todo = []
    ∧ (∀ id ∈ o.waits, s.backOpen id = false) :=
  ⟨{ wLive.setF LIN.OP_STATUS_BUSY 1 with cache := { linOp := some { op := 3, waits := [5], discard := [6] } } }, false, { op := 3, waits := [5], discard := [6] }, by decide +kernel⟩
/-! Statement LiningOperationsComplete. -/
theorem test_LiningOperationsComplete_0 : ∃ (s : State) (m : Nat) (k : Nat) (l : Nat) (b : Bool), s.mayWrite m 0x14002c = true
    ∧ s.getF LIN.OP_STATUS_BUSY = 0 ∧ (if b = true then k = 16 * s.getF LIN.OP_SETWAY_SET + s.getF LIN.OP_SETWAY_WAY
    ∧ s.getF LIN.OP_SETWAY_SET < liningSets s.order else l = s.getF LIN.OP_ADDR_LO_DPA + 2 ^ 26 * s.getF LIN.OP_ADDR_HI_DPA ∧ s.decoded none l = true)
    ∧ s.findPent l = none ∧ s.linOff = false ∧ (s.way k).valid = true ∧ (s.way k).line = l ∧ s.findWay l = some k ∧ (∀ r ∈ s.reqs, r.line ≠ l)
    ∧ (s.way k).dirty = false ∧ s.backsOf l = [] :=
  ⟨{ ((wLive.setF LIN.STATUS_ENABLED 1).setF LIN.OP_SETWAY_SET 15728640) with cache := { lining := [(251658240, { line := 5, valid := true })] } }, 0, 251658240, 5, true, by decide +kernel⟩
theorem test_LiningOperationsComplete_1 : ∃ (s : State) (m : Nat) (k : Nat) (l : Nat) (b : Bool), s.mayWrite m 0x14002c = true
    ∧ s.getF LIN.OP_STATUS_BUSY = 0 ∧ (if b = true then k = 16 * s.getF LIN.OP_SETWAY_SET + s.getF LIN.OP_SETWAY_WAY
    ∧ s.getF LIN.OP_SETWAY_SET < liningSets s.order else l = s.getF LIN.OP_ADDR_LO_DPA + 2 ^ 26 * s.getF LIN.OP_ADDR_HI_DPA ∧ s.decoded none l = true)
    ∧ s.findPent l = none ∧ s.linOff = false ∧ (s.way k).valid = true ∧ (s.way k).line = l ∧ s.findWay l = some k ∧ (∀ r ∈ s.reqs, r.line ≠ l)
    ∧ (s.way k).dirty = true ∧ s.stagingRoom l = true ∧ (s.injCached l).2 = false :=
  ⟨{ ((wLive.setF LIN.STATUS_ENABLED 1).setF LIN.OP_SETWAY_SET 15728640) with cache := { lining := [(251658240, { line := 5, valid := true, dirty := true })] } }, 0, 251658240, 5, true, by decide +kernel⟩
theorem test_LiningOperationsComplete_2 : ∃ (s : State) (m : Nat) (k : Nat) (l : Nat) (b : Bool), s.mayWrite m 0x14002c = true
    ∧ s.getF LIN.OP_STATUS_BUSY = 0 ∧ s.mayInvalidate m = true ∧ (if b = true then k = 16 * s.getF LIN.OP_SETWAY_SET + s.getF LIN.OP_SETWAY_WAY
    ∧ s.getF LIN.OP_SETWAY_SET < liningSets s.order else l = s.getF LIN.OP_ADDR_LO_DPA + 2 ^ 26 * s.getF LIN.OP_ADDR_HI_DPA ∧ s.decoded none l = true)
    ∧ s.findPent l = none ∧ s.linOff = false ∧ (s.way k).valid = true ∧ (s.way k).line = l ∧ s.findWay l = some k ∧ (∀ r ∈ s.reqs, r.line ≠ l) :=
  ⟨{ ((wLive.setF LIN.STATUS_ENABLED 1).setF LIN.OP_SETWAY_SET 15728640) with cache := { lining := [(251658240, { line := 5, valid := true, dirty := true })] } }, 0, 251658240, 5, true, by decide +kernel⟩
theorem test_LiningOperationsComplete_3 : ∃ (s : State) (m : Nat) (k : Nat) (l : Nat) (b : Bool), s.mayWrite m 0x14002c = true
    ∧ s.getF LIN.OP_STATUS_BUSY = 0 ∧ s.mayInvalidate m = true ∧ (if b = true then k = 16 * s.getF LIN.OP_SETWAY_SET + s.getF LIN.OP_SETWAY_WAY
    ∧ s.getF LIN.OP_SETWAY_SET < liningSets s.order else l = s.getF LIN.OP_ADDR_LO_DPA + 2 ^ 26 * s.getF LIN.OP_ADDR_HI_DPA ∧ s.decoded none l = true)
    ∧ s.findPent l = none ∧ s.linOff = false ∧ (s.way k).valid = true ∧ (s.way k).line = l ∧ s.findWay l = some k ∧ (∀ r ∈ s.reqs, r.line ≠ l)
    ∧ (s.way k).dirty = false ∧ s.backsOf l = [] :=
  ⟨{ ((wLive.setF LIN.STATUS_ENABLED 1).setF LIN.OP_SETWAY_SET 15728640) with cache := { lining := [(251658240, { line := 5, valid := true })] } }, 0, 251658240, 5, true, by decide +kernel⟩
theorem test_LiningOperationsComplete_4 : ∃ (s : State) (m : Nat) (k : Nat) (l : Nat) (b : Bool), s.mayWrite m 0x14002c = true
    ∧ s.getF LIN.OP_STATUS_BUSY = 0 ∧ s.mayInvalidate m = true ∧ (if b = true then k = 16 * s.getF LIN.OP_SETWAY_SET + s.getF LIN.OP_SETWAY_WAY
    ∧ s.getF LIN.OP_SETWAY_SET < liningSets s.order else l = s.getF LIN.OP_ADDR_LO_DPA + 2 ^ 26 * s.getF LIN.OP_ADDR_HI_DPA ∧ s.decoded none l = true)
    ∧ s.findPent l = none ∧ s.linOff = false ∧ (s.way k).valid = true ∧ (s.way k).line = l ∧ s.findWay l = some k ∧ (∀ r ∈ s.reqs, r.line ≠ l)
    ∧ (s.way k).dirty = true ∧ s.stagingRoom l = true ∧ (s.injCached l).2 = false :=
  ⟨{ ((wLive.setF LIN.STATUS_ENABLED 1).setF LIN.OP_SETWAY_SET 15728640) with cache := { lining := [(251658240, { line := 5, valid := true, dirty := true })] } }, 0, 251658240, 5, true, by decide +kernel⟩
theorem test_LiningOperationsComplete_5 : ∃ (s : State) (m : Nat) (k : Nat) (l : Nat) (b : Bool), s.mayWrite m 0x14002c = true
    ∧ s.getF LIN.OP_STATUS_BUSY = 0 ∧ (if b = true then k = 16 * s.getF LIN.OP_SETWAY_SET + s.getF LIN.OP_SETWAY_WAY
    ∧ s.getF LIN.OP_SETWAY_SET < liningSets s.order else l = s.getF LIN.OP_ADDR_LO_DPA + 2 ^ 26 * s.getF LIN.OP_ADDR_HI_DPA ∧ s.decoded none l = true)
    ∧ s.findPent l = none ∧ s.linOff = false ∧ (s.way k).valid = true ∧ (s.way k).line = l ∧ s.findWay l = some k ∧ s.lockedWays (k / 16) < 4 :=
  ⟨{ ((wLive.setF LIN.STATUS_ENABLED 1).setF LIN.OP_SETWAY_SET 15728640) with cache := { lining := [(251658240, { line := 5, valid := true })] } }, 0, 251658240, 5, true, by decide +kernel⟩
theorem test_LiningOperationsComplete_6 : ∃ (s : State) (m : Nat) (k : Nat) (l : Nat) (b : Bool), s.mayWrite m 0x14002c = true
    ∧ s.getF LIN.OP_STATUS_BUSY = 0 ∧ (if b = true then k = 16 * s.getF LIN.OP_SETWAY_SET + s.getF LIN.OP_SETWAY_WAY
    ∧ s.getF LIN.OP_SETWAY_SET < liningSets s.order else l = s.getF LIN.OP_ADDR_LO_DPA + 2 ^ 26 * s.getF LIN.OP_ADDR_HI_DPA ∧ s.decoded none l = true)
    ∧ s.findPent l = none ∧ s.linOff = false ∧ (s.way k).valid = true ∧ (s.way k).line = l ∧ s.findWay l = some k ∧ (∀ w : Nat, w < 16 →
    (s.way (16 * liningSet s.order l + w)).line = l → 16 * liningSet s.order l + w = k) :=
  ⟨{ ((wLive.setF LIN.STATUS_ENABLED 1).setF LIN.OP_SETWAY_SET 15728640) with cache := { lining := [(251658240, { line := 5, valid := true, lock := true })] } }, 0, 251658240, 5, true, by decide +kernel⟩
theorem test_LiningOperationsComplete_7 : ∃ (s : State) (m : Nat) (k : Nat) (l : Nat) (b : Bool), s.mayWrite m 0x14002c = true
    ∧ s.getF LIN.OP_STATUS_BUSY = 0 ∧ (if b = true then k = 16 * s.getF LIN.OP_SETWAY_SET + s.getF LIN.OP_SETWAY_WAY
    ∧ s.getF LIN.OP_SETWAY_SET < liningSets s.order else l = s.getF LIN.OP_ADDR_LO_DPA + 2 ^ 26 * s.getF LIN.OP_ADDR_HI_DPA ∧ s.decoded none l = true)
    ∧ s.findPent l = none ∧ s.linOff = false ∧ (s.way k).valid = true ∧ (s.way k).line = l ∧ s.findWay l = some k ∧ (s.way k).age ≤ 3 :=
  ⟨{ ((wLive.setF LIN.STATUS_ENABLED 1).setF LIN.OP_SETWAY_SET 15728640) with cache := { lining := [(251658240, { line := 5, valid := true, dirty := true, age := 3 })] } }, 0, 251658240, 5, true, by decide +kernel⟩
theorem test_LiningOperationsComplete_8 : ∃ (s : State) (m : Nat) (b : Bool), s.mayWrite m 0x14002c = true ∧ s.getF LIN.OP_STATUS_BUSY = 0 :=
  ⟨wLive, 0, true, by decide +kernel⟩
/-! Statement PincushionOperationsComplete. -/
theorem test_PincushionOperationsComplete_0 : ∃ (s : State) (m : Nat) (n : Nat), s.mayWrite m 0x150010 = true ∧ s.getF PCU.OP_STATUS_BUSY = 0 ∧ n < 64
    ∧ s.pcuOff = false ∧ (s.pent n).valid ≠ 0 ∧ (∀ l ∈ s.entryLines n, s.findPent l = some n ∧ ∀ r ∈ s.reqs, r.line ≠ l) ∧ (∀ k : Nat, k < 8 →
    s.stagingLen k + 64 ≤ 786432) :=
  ⟨{ wLive.setF PCU.STATUS_ENABLED 1 with cache := { pcu := [(4, { swatch := 7, valid := 255, lines := [(3, { dirty := true })] })] } }, 0, 4, by decide +kernel⟩
theorem test_PincushionOperationsComplete_1 : ∃ (s : State) (m : Nat) (n : Nat), s.mayWrite m 0x150010 = true ∧ s.getF PCU.OP_STATUS_BUSY = 0 ∧ n < 64
    ∧ s.pcuOff = false ∧ (s.pent n).valid ≠ 0 ∧ s.mayInvalidate m = true ∧ (∀ l ∈ s.entryLines n, s.findPent l = some n ∧ ∀ r ∈ s.reqs, r.line ≠ l)
    ∧ (∀ e ∈ (s.pent n).lines, e.2.dirty = true → e.1 < 64 ∧ Nat.testBit (s.pent n).valid (sliceOf (64 * (s.pent n).swatch + e.1)) = true) :=
  ⟨{ wLive.setF PCU.STATUS_ENABLED 1 with cache := { pcu := [(4, { swatch := 7, valid := 255, lines := [(3, { dirty := true })] })] } }, 0, 4, by decide +kernel⟩
theorem test_PincushionOperationsComplete_2 : ∃ (s : State) (m : Nat) (n : Nat), s.mayWrite m 0x150010 = true ∧ s.getF PCU.OP_STATUS_BUSY = 0 ∧ n < 64
    ∧ s.pcuOff = false ∧ (s.pent n).valid ≠ 0 ∧ s.mayInvalidate m = true ∧ (∀ l ∈ s.entryLines n, s.findPent l = some n ∧ ∀ r ∈ s.reqs, r.line ≠ l)
    ∧ (∀ e ∈ (s.pent n).lines, e.2.dirty = false) ∧ (∀ l ∈ s.entryLines n, s.backsOf l = []) :=
  ⟨{ wLive.setF PCU.STATUS_ENABLED 1 with cache := { pcu := [(4, { swatch := 7, valid := 255 })] } }, 0, 4, by decide +kernel⟩
theorem test_PincushionOperationsComplete_3 : ∃ (s : State) (m : Nat) (n : Nat), s.mayWrite m 0x150010 = true ∧ s.getF PCU.OP_STATUS_BUSY = 0 ∧ n < 64
    ∧ s.pcuOff = false ∧ (s.pent n).valid ≠ 0 ∧ s.lockedEntries < 48 :=
  ⟨{ wLive.setF PCU.STATUS_ENABLED 1 with cache := { pcu := [(4, { swatch := 7, valid := 255 })] } }, 0, 4, by decide +kernel⟩
theorem test_PincushionOperationsComplete_4 : ∃ (s : State) (m : Nat) (n : Nat), s.mayWrite m 0x150010 = true ∧ s.getF PCU.OP_STATUS_BUSY = 0 ∧ n < 64
    ∧ s.pcuOff = false ∧ (s.pent n).valid ≠ 0 :=
  ⟨{ wLive.setF PCU.STATUS_ENABLED 1 with cache := { pcu := [(4, { swatch := 7, valid := 255, lock := true })] } }, 0, 4, by decide +kernel⟩
theorem test_PincushionOperationsComplete_5 : ∃ (s : State) (m : Nat) (op : Nat) (n : Nat), s.mayWrite m 0x150010 = true
    ∧ s.getF PCU.OP_STATUS_BUSY = 0 ∧ (op = 6 ∨ op = 7) :=
  ⟨wLive, 0, 7, 4, by decide +kernel⟩
/-! Statement CoherenceCommandsComplete. -/
theorem test_CoherenceCommandsComplete_0 : ∃ (s : State) (port : Nat) (ld : Nat) (line : Nat) (rsp : BIRsp), (s.ldOf ld).port = some port
    ∧ s.coh.snoops.contains (line, ld) = true ∧ s.coh.snoops.any (fun x => x.1 == line && x.2 != ld) = true :=
  ⟨{ wLive with coh := { snoops := [(4194309, 0), (4194309, 1)] } }, 1, 1, 4194309, .i, by decide +kernel⟩
theorem test_CoherenceCommandsComplete_1 : ∃ (s : State) (port : Nat) (ld : Nat) (line : Nat) (k : Nat), (s.ldOf ld).port = some port
    ∧ s.coh.snoops.contains (line, ld) = true ∧ s.coh.snoops.any (fun x => x.1 == line && x.2 != ld) = true ∧ s.thFind line = some k :=
  ⟨{ wLive with coh := { snoops := [(4194309, 0), (4194309, 1)], thimble := [(8 * thimbleSet 4194309, { line := 4194309, state := 1, presence := 3, busy := true })] } }, 1, 1, 4194309, 8 * thimbleSet 4194309, by decide +kernel⟩
theorem test_CoherenceCommandsComplete_2 : ∃ (s : State) (port : Nat) (ld : Nat) (r : Req) (rsp : BIRsp), (s.ldOf ld).port = some port
    ∧ s.coh.snoops.filter (fun x => x.1 == r.line) = [(r.line, ld)] ∧ s.reqs.filter (fun x => x.line == r.line) = [r] ∧ s.reqOf r.id = some r
    ∧ (∀ x ∈ s.reqs, x.evictKey = none) ∧ r.wback = false ∧ r.kind = .read ∧ r.stage = .snoop ∧ s.sealBit r.line = false ∧ s.cipherFault = false
    ∧ s.buffered r.line = none ∧ s.findPent r.line = none ∧ s.findWay r.line = none ∧ s.stagedOf r.line = none :=
  ⟨{ wLive with coh := { snoops := [(4194309, 1)] }, reqs := [{ wRead .snoop with line := 4194309, flow := true }] }, 1, 1, { wRead .snoop with line := 4194309, flow := true }, .i, by decide +kernel⟩
theorem test_CoherenceCommandsComplete_3 : ∃ (s : State) (port : Nat) (ld : Nat) (line : Nat) (r : Req), s.reqs.find? (fun r => r.port == port && r.ld == ld && r.line == line) = some r
    ∧ State.passed r = true :=
  ⟨{ wLive with reqs := [{ wRead .snoop with ordered := true }] }, 0, 0, 5, { wRead .snoop with ordered := true }, by decide +kernel⟩
theorem test_CoherenceCommandsComplete_4 : ∃ (s : State) (port : Nat) (ld : Nat) (line : Nat) (r : Req), s.reqs.find? (fun r => r.port == port && r.ld == ld && r.line == line) = some r
    ∧ State.passed r = false :=
  ⟨{ wLive with reqs := [wRead .conflict] }, 0, 0, 5, wRead .conflict, by decide +kernel⟩
theorem test_CoherenceCommandsComplete_5 : ∃ (s : State) (k : Nat) (r : Req), s.reqs.find? (fun x => x.stage == .conflict && sliceOf x.line == k && !s.lineBusy x.line && s.isNext x) = some r
    ∧ s.reqOf r.id = some r ∧ s.buffered r.line = none ∧ r.kind = .read ∧ r.mv = .invalid ∧ s.thFind r.line = none ∧ s.suspect r.line = false
    ∧ s.fencedAt r.line = false ∧ s.sealBit r.line = false ∧ s.cipherFault = false ∧ s.integ.inj = none ∧ s.findPent r.line = none
    ∧ s.findWay r.line = none ∧ s.stagedOf r.line = none :=
  ⟨{ wLive with reqs := [{ wRead .conflict with line := 4194309 }] }, 5, { wRead .conflict with line := 4194309 }, by decide +kernel⟩
theorem test_CoherenceCommandsComplete_6 : ∃ (s : State) (line : Nat) (ld : Nat), s.coh.snoops.contains (line, ld) = true ∧ ld < 16 ∧ line < 2 ^ 39 :=
  ⟨{ wLive with coh := { snoops := [(4194309, 15)] } }, 4194309, 15, by decide +kernel⟩
theorem test_CoherenceCommandsComplete_7 : ∃ (s : State) (m : Nat) (v : Word), s.mayWrite m 0x1a0030 = true ∧ s.mgmtOrDebug m = true
    ∧ v.toNat / 2 ^ 30 = 2 :=
  ⟨{ wLive with coh := { suspect := [7, 9] } }, 0, 0x80000007, by decide +kernel⟩
theorem test_CoherenceCommandsComplete_8 : ∃ (s : State) (m : Nat) (v : Word), s.mayWrite m 0x1a0030 = true ∧ s.mgmtOrDebug m = true
    ∧ v.toNat / 2 ^ 30 = 3 :=
  ⟨{ wLive with coh := { suspect := [7, 9] } }, 0, 0xC0000000, by decide +kernel⟩
theorem test_CoherenceCommandsComplete_9 : ∃ (s : State), s.coh.lost ≠ [] :=
  ⟨{ wLive.setF COH.STATUS_SWEEP 1 with coh := { lost := [1] } }, by decide +kernel⟩
/-! Statement FlushCommandsComplete. -/
theorem test_FlushCommandsComplete_0 : ∃ (s : State) (ns : Nat) (a : Bool), s.clk.awake = true ∧ 1000 ≤ ns ∧ s.halted = false ∧ s.flush.kind = .none
    ∧ s.topState = 3 :=
  ⟨wLive, 1000, false, by decide +kernel⟩
theorem test_FlushCommandsComplete_1 : ∃ (s : State), s.flush.kind ≠ .none ∧ s.flush.stopped = false :=
  ⟨{ wLive with flush := { kind := .orderly, step := 3 }, ham := { nextSeq := 9 }, cache := { lining := [(80, { line := 5, valid := true, dirty := true })] } }, by decide +kernel⟩
theorem test_FlushCommandsComplete_2 : ∃ (s : State), s.flush.kind ≠ .none ∧ s.flush.stopped = false ∧ (∀ r ∈ s.reqs, r.stage ≠ .buffered)
    ∧ (∀ o ∈ s.xlt.openPages, o.ents = []) :=
  ⟨{ wLive with flush := { kind := .orderly, step := 3 }, ham := { nextSeq := 9 }, cache := { lining := [(80, { line := 5, valid := true, dirty := true })] } }, by decide +kernel⟩
theorem test_FlushCommandsComplete_3 : ∃ (s : State), State.deviceFlush s.flush.kind = true ∧ s.flush.step = 7 :=
  ⟨{ wLive with flush := { kind := .orderly, step := 7, stopped := true } }, by decide +kernel⟩
theorem test_FlushCommandsComplete_4 : ∃ (s : State) (port : Nat), port < 4 ∧ s.halted = false ∧ s.getF (HPT.LINK_STATUS_UP port) = 1
    ∧ s.flush.kind = .none ∧ s.topState = 3 :=
  ⟨wLive, 1, by decide +kernel⟩
theorem test_FlushCommandsComplete_5 : ∃ (s : State) (port : Nat), port < 4 ∧ s.halted = false ∧ s.getF (HPT.LINK_STATUS_UP port) = 1
    ∧ s.flush.kind = .none ∧ s.topState ≠ 3 :=
  ⟨wLive.setF TOP.STATE_STATE 1, 1, by decide +kernel⟩
theorem test_FlushCommandsComplete_6 : ∃ (s : State) (port : Nat), port < 4 ∧ s.halted = false ∧ s.getF (HPT.LINK_STATUS_UP port) = 1
    ∧ s.flush.kind ≠ .none ∧ s.flush.gpfPorts.contains port = false :=
  ⟨{ wLive with flush := { kind := .gpf, step := 4, gpfPorts := [0] } }, 1, by decide +kernel⟩
theorem test_FlushCommandsComplete_7 : ∃ (s : State), (s.flush.kind = .gpf ∨ s.flush.kind = .group) ∧ s.xlt.journalLost = false ∧ s.flush.step = 7
    ∧ s.flush.resetHeld = false ∧ s.flush.offHeld = false :=
  ⟨{ wLive.setF TOP.FLUSH_STATUS_ACTIVE 1 with flush := { kind := .gpf, step := 7, stopped := true, gpfPorts := [1] } }, by decide +kernel⟩
theorem test_FlushCommandsComplete_8 : ∃ (s : State) (ns : Nat) (a : Bool), s.clk.awake = true ∧ 10000 ≤ ns ∧ s.halted = false
    ∧ s.flag THM.STATUS_CRIT_LATCH = false ∧ s.flag THM.STATUS_TRIP_LATCH = false ∧ s.flush.kind = .none ∧ s.topState = 3 :=
  ⟨wLive, 10000, false, by decide +kernel⟩
theorem test_FlushCommandsComplete_9 : ∃ (s : State) (ns : Nat) (a : Bool), s.clk.awake = true ∧ 10000 ≤ ns :=
  ⟨{ clk := { awake := true } }, 10000, false, by decide +kernel⟩
/-! Statement IntegrityCommandsComplete. -/
theorem test_IntegrityCommandsComplete_0 : ∃ (s : State) (k : Nat) (b : Nat) (both : Bool) (so : Option Nat), s.getF SCB.CTRL_PATROL_H ≠ 0
    ∧ s.start.filled = true ∧ b < hbmBlocks s.order 2 :=
  ⟨wLive.setF SCB.CTRL_PATROL_H 24, 0, 9, false, none, by decide +kernel⟩
theorem test_IntegrityCommandsComplete_1 : ∃ (s : State) (e : HbmBlock) (both : Bool) (so : Option Nat), s.getF SCB.CTRL_PATROL_H ≠ 0
    ∧ s.start.filled = true ∧ e.region ≠ 0 ∧ e.block < hbmBlocks s.order e.region ∧ e.health = .uncorrectable :=
  ⟨wLive.setF SCB.CTRL_PATROL_H 24, { stack := 0, region := 7, block := 9, health := .uncorrectable }, false, none, by decide +kernel⟩
theorem test_IntegrityCommandsComplete_2 : ∃ (s : State) (b : Nat), Tab.get (fun _ => false) s.xlt.bucketBad b = true :=
  ⟨{ xlt := { bucketBad := [(9, true)] } }, 9, by decide +kernel⟩
theorem test_IntegrityCommandsComplete_3 : ∃ (s : State) (m : Nat) (v : Word), s.mayWrite m 0x1c0100 = true ∧ s.mgmtOrDebug m = true
    ∧ bit v.toNat 30 = false ∧ ((bits v.toNat 26 24 = 5 → 1 ≤ s.getF SCB.INJ_ADDR_HI_REGION ∧ s.getF SCB.INJ_ADDR_HI_REGION ≤ 8))
    ∧ bits v.toNat 26 24 ≠ 7 :=
  ⟨wLive, 0, 0x81000003, by decide +kernel⟩
theorem test_IntegrityCommandsComplete_4 : ∃ (s : State) (m : Nat) (v : Word), s.mayWrite m 0x1c0100 = true ∧ s.mgmtOrDebug m = true :=
  ⟨{ wLive.setF SCB.INJ_CTRL_ARM 1 with integ := { inj := some { point := 1, left := 2, target := 5, region := 0, mask := 1 } } }, 32, 0, by decide +kernel⟩
theorem test_IntegrityCommandsComplete_5 : ∃ (s : State) (m : Nat) (v : Word), s.mayWrite m 0x1c0210 = true ∧ s.getF SCB.SCRUB_STATUS_BUSY = 0 :=
  ⟨wLive.setF SCB.SCRUB_BASE_LO_VALUE 640, 0, 2, by decide +kernel⟩
theorem test_IntegrityCommandsComplete_6 : ∃ (s : State) (x : Scrub) (line : Nat), s.scrubRuns = true ∧ s.integ.scrub = some x ∧ x.next = line
    ∧ line < x.stop ∧ (s.scrubLine line none x.sum).isSome = true :=
  ⟨{ wLive with integ := { scrub := some { next := 5, stop := 9, mark := true } } }, { next := 5, stop := 9, mark := true }, 5, by decide +kernel⟩
theorem test_IntegrityCommandsComplete_7 : ∃ (s : State) (o : OpRun) (line : Nat), s.scrubRuns = true
    ∧ s.spl.ops.find? (fun o => o.desc.op == 0x04 && o.status.isNone && o.cands.isEmpty && o.closing.isNone && o.desc.src / 64 + o.next == line) = some o
    ∧ s.opOf o.id = some o ∧ s.lineStop o.owner line false = none ∧ s.lineStop o.owner line true = none
    ∧ (s.scrubLine line (State.ldOfOwner o.owner) { o.sum with mark := dA o.desc }).isSome = true := by
  refine ⟨wScrubAt, wOp 4, 5, ?_, rfl, rfl, ?_⟩ <;> decide +kernel
theorem test_IntegrityCommandsComplete_8 : ∃ (s : State) (x : Scrub) (line : Nat), s.scrubRuns = true ∧ s.integ.scrub = some x
    ∧ x.cands.contains line = true ∧ (s.markLine line 0).2 = true :=
  ⟨{ wLive.setF LIN.STATUS_ENABLED 1 with integ := { scrub := some { next := 9, stop := 9, mark := true, cands := [5] } }, cache := { lining := [(251658240, { line := 5, valid := true, dirty := true })] } }, { next := 9, stop := 9, mark := true, cands := [5] }, 5, by decide +kernel⟩
theorem test_IntegrityCommandsComplete_9 : ∃ (s : State) (o : OpRun) (line : Nat) (rest : List Nat), s.scrubRuns = true
    ∧ s.spl.ops.find? (fun o => o.desc.op == 0x04 && o.status.isNone && o.cands.head? == some line) = some o ∧ s.opOf o.id = some o
    ∧ o.cands = line :: rest ∧ (s.markLine line 0).2 = true :=
  ⟨wMarkAt, wMarkOp, 5, [], by decide +kernel⟩
theorem test_IntegrityCommandsComplete_10 : ∃ (s : State) (x : Scrub), s.integ.scrub = some x ∧ (s.scrubRuns = false ∨ (x.stop ≤ x.next
    ∧ x.cands = [])) :=
  ⟨{ wLive with integ := { scrub := some { next := 9, stop := 9, mark := true } } }, { next := 9, stop := 9, mark := true }, by decide +kernel⟩
/-! Statement DebugCommandsComplete. -/
theorem test_DebugCommandsComplete_0 : ∃ (s : State) (m : Nat) (line : Nat) (k : Nat), s.mayWrite m 0x300008 = true ∧ s.getF DBG.MEM_STATUS_BUSY = 0
    ∧ s.memActive = true ∧ s.halted = false ∧ s.hasRight m rightDebug = true ∧ line = s.getF DBG.MEM_ADDR_LO_DPA + 2 ^ 26 * s.getF DBG.MEM_ADDR_HI_DPA
    ∧ s.decoded none line = true ∧ s.memMissing m rightMemRd line = none ∧ s.sharedOf line = false ∧ s.fencedAt line = false ∧ s.sealBit line = false
    ∧ s.cipherFault = false ∧ s.buffered line = none ∧ s.findPent line = none ∧ s.findWay line = some k ∧ s.integ.inj = none
    ∧ (s.way k).val.poison = false ∧ tagOk (s.way k).val line false = true := by
  refine ⟨{ (wLive.setF LIN.STATUS_ENABLED 1).setF DBG.MEM_ADDR_LO_DPA 5 with cache := { lining := [(251658240, { line := 5, valid := true, val := mkLine 0x99 5 false false })] } }, 0, 5, 251658240, ?_⟩
  iterate 14 refine ⟨by decide +kernel, ?_⟩
  refine ⟨rfl, ?_⟩
  iterate 2 refine ⟨by decide +kernel, ?_⟩
  exact tagOk_mkLine _ _ _ _
theorem test_DebugCommandsComplete_1 : ∃ (s : State) (m : Nat) (line : Nat) (k : Nat), s.mayWrite m 0x300008 = true ∧ s.getF DBG.MEM_STATUS_BUSY = 0
    ∧ s.memActive = true ∧ s.halted = false ∧ s.hasRight m rightDebug = true ∧ line = s.getF DBG.MEM_ADDR_LO_DPA + 2 ^ 26 * s.getF DBG.MEM_ADDR_HI_DPA
    ∧ s.decoded none line = true ∧ s.memMissing m rightMemWr line = none ∧ s.sharedOf line = false ∧ s.fencedAt line = false
    ∧ s.ham.holding.any (fun r => r.code == 0x0802) = false ∧ s.flush.clean = none ∧ s.flush.stopped = false ∧ s.sealedLine line = false
    ∧ s.cipherFault = false ∧ (∀ r ∈ s.reqs, r.line ≠ line) ∧ s.throughOpen line = false ∧ s.writesThrough line = false
    ∧ (s.dirtyIn line = true ∨ s.budgetRoom (sliceOf line) = true) ∧ s.findPent line = none ∧ s.findWay line = some k ∧ s.integ.inj = none :=
  ⟨{ ((wLive.setF LIN.STATUS_ENABLED 1).setF DBG.MEM_ADDR_LO_DPA 5).setF (DBG.MEM_DATA_BYTES 0) 0x77 with cache := { lining := [(251658240, { line := 5, valid := true, dirty := true })] } }, 0, 5, 251658240, by decide +kernel⟩
theorem test_DebugCommandsComplete_2 : ∃ (s : State) (x : DbgMem) (k : Nat), s.dbg.mem = some x ∧ x.write = false ∧ s.memActive = true
    ∧ s.halted = false ∧ s.decoded none x.line = true ∧ s.sharedOf x.line = false ∧ s.fencedAt x.line = false ∧ s.sealBit x.line = false
    ∧ s.cipherFault = false ∧ s.buffered x.line = none ∧ s.findPent x.line = none ∧ s.findWay x.line = some k ∧ s.integ.inj = none
    ∧ (s.way k).val.poison = false ∧ tagOk (s.way k).val x.line false = true := by
  refine ⟨{ wLive.setF LIN.STATUS_ENABLED 1 with dbg := { mem := some { line := 5, write := false, m := 0 } }, cache := { lining := [(251658240, { line := 5, valid := true, val := mkLine 0x99 5 false false })] } }, { line := 5, write := false, m := 0 }, 251658240, ?_⟩
  refine ⟨rfl, ?_⟩
  iterate 10 refine ⟨by decide +kernel, ?_⟩
  refine ⟨rfl, ?_⟩
  iterate 2 refine ⟨by decide +kernel, ?_⟩
  exact tagOk_mkLine _ _ _ _
theorem test_DebugCommandsComplete_3 : ∃ (s : State) (m : Nat) (v : Word), s.mayWrite m 0x300108 = true ∧ s.getF DBG.RAW_STATUS_BUSY = 0
    ∧ s.hasRight m rightRaw = true ∧ s.halted = false ∧ s.cartUp (s.getF DBG.RAW_ADDR_HI_SLOT) = true ∧ s.getF DBG.RAW_ADDR_HI_LSLOT ≤ 64
    ∧ s.getF DBG.RAW_ADDR_LO_BOLT < s.boltsPerDie (s.getF DBG.RAW_ADDR_HI_SLOT) :=
  ⟨wLive.setF DBG.RAW_ADDR_HI_SLOT 3, 0, 3, by decide +kernel⟩
theorem test_DebugCommandsComplete_4 : ∃ (s : State) (j : RawJob) (d : Sensed), s.dbg.raw = some j ∧ s.halted = false
    ∧ s.cartUp (psaSlot j.psa) = true ∧ d.status = 0 :=
  ⟨{ wLive with dbg := { raw := some { psa := 8, slot := 3, refset := 1, decode := true } } }, { psa := 8, slot := 3, refset := 1, decode := true }, {}, by decide +kernel⟩
theorem test_DebugCommandsComplete_5 : ∃ (s : State) (ir : Nat), (ir = 0x18 ∨ ir = 0 ∨ ir = 1 ∨ ir = 2) :=
  ⟨{}, 0x18, by decide +kernel⟩
theorem test_DebugCommandsComplete_6 : ∃ (s : State) (ir : Nat), ir ∉ [0x00, 0x01, 0x02, 0x18] :=
  ⟨{}, 0x19, by decide +kernel⟩
/-! Statement SessionCommandsComplete. -/
theorem test_SessionCommandsComplete_0 : ∃ (s : State) (doe : Bool) (ld : Nat) (root : List Byte) (leaf : List Byte) (e : Nat × Nat), s.spdmOpen doe ld = true
    ∧ s.rootEntry root = some e ∧ s.cip.sessions.length < 4 :=
  ⟨{ wLive with plan := { keyPolicy := some wPolicy } }, true, 1, List.replicate 48 7, [], (0, 2), by decide +kernel⟩
theorem test_SessionCommandsComplete_1 : ∃ (s : State) (sid : Nat) (x : Session), s.sessionOf sid = some x :=
  ⟨wSess, 4, { id := 4, cls := 1, root := 0, doe := false, ld := 0 }, by decide +kernel⟩
theorem test_SessionCommandsComplete_2 : ∃ (s : State) (sid : Nat) (x : Session) (k : Nat) (chain : List Byte), s.sessionOf sid = some x
    ∧ x.doe = false ∧ s.clk.awake = true ∧ s.halted = false ∧ s.hasRight (33 + x.cls) rightKeyAdmin = true ∧ 1 ≤ k ∧ k ≤ 3 ∧ chain.length ≤ 16376
    ∧ s.kpsOk = true :=
  ⟨(wSess.setF KPS.STATUS_KPV_UP 1).setF KPS.STATUS_TEMP_OK 1, 4, { id := 4, cls := 1, root := 0, doe := false, ld := 0 }, 2, [1, 2, 3], by decide +kernel⟩
theorem test_SessionCommandsComplete_3 : ∃ (s : State) (i : Nat) (l : List Nat), s.clk.awake = true ∧ s.measurement i = some l :=
  ⟨wLive, 4, [0, 0, 0, 1], by decide +kernel⟩
theorem test_SessionCommandsComplete_4 : ∃ (s : State) (sid : Nat) (x : Session) (k : Nat) (key : BitVec 512), s.sessionOf sid = some x
    ∧ s.spdmOpen x.doe x.ld = true ∧ s.halted = false ∧ s.hasRight (33 + x.cls) rightKeyAdmin = true ∧ s.loadRefusal k (some key) true = none
    ∧ s.start.waiting = none :=
  ⟨wSess, 4, { id := 4, cls := 1, root := 0, doe := false, ld := 0 }, 5, 0x1234, by decide +kernel⟩
theorem test_SessionCommandsComplete_5 : ∃ (s : State) (sid : Nat) (x : Session) (k : Nat), s.sessionOf sid = some x ∧ s.spdmOpen x.doe x.ld = true
    ∧ s.halted = false ∧ s.hasRight (33 + x.cls) rightKeyAdmin = true ∧ s.retireRefusal k = none ∧ s.storeOk = true :=
  ⟨{ wSess with cip := { wSess.cip with slots := [(5, { usage := 1, state := .active })] } }, 4, { id := 4, cls := 1, root := 0, doe := false, ld := 0 }, 5, by decide +kernel⟩
theorem test_SessionCommandsComplete_6 : ∃ (s : State) (sid : Nat) (x : Session) (k : Nat), s.sessionOf sid = some x ∧ s.spdmOpen x.doe x.ld = true
    ∧ k < 256 :=
  ⟨wSess, 4, { id := 4, cls := 1, root := 0, doe := false, ld := 0 }, 5, by decide +kernel⟩
theorem test_SessionCommandsComplete_7 : ∃ (s : State) (sid : Nat) (x : Session) (op : Nat), s.sessionOf sid = some x ∧ s.spdmOpen x.doe x.ld = true
    ∧ s.halted = false ∧ (op = 0 ∨ 5 < op) :=
  ⟨wSess, 4, { id := 4, cls := 1, root := 0, doe := false, ld := 0 }, 6, by decide +kernel⟩
/-! Statement RetirementAndHaltFlushComplete. -/
theorem test_RetirementAndHaltFlushComplete_0 : ∃ (s : State) (m : Nat) (v : Word), s.mayWrite m 0x1b0004 = true ∧ s.getF CIP.KEY_CMD_STATUS_BUSY = 0
    ∧ s.halted = false ∧ s.retireRefusal (v.toNat % 256) = none ∧ s.storeOk = true :=
  ⟨{ wSess with cip := { wSess.cip with slots := [(5, { usage := 1, state := .active })] } }, 32, 5, by decide +kernel⟩
theorem test_RetirementAndHaltFlushComplete_1 : ∃ (s : State) (r : Retire), s.flush.kind = .none ∧ s.halted = false ∧ s.cip.retire = [r] ∧ 0 < r.slot
    ∧ s.dirtyUnder r.slot = [] ∧ s.workUnder r.slot = false ∧ s.storeOk = true :=
  ⟨{ wSess with cip := { slots := [(5, { usage := 1, state := .retiring, epoch := 255, key := 9 })], retire := [{ slot := 5 }] } }, { slot := 5 }, by decide +kernel⟩
theorem test_RetirementAndHaltFlushComplete_2 : ∃ (s : State) (sid : Nat) (x : Session) (good : List Nat), s.sessionOf sid = some x
    ∧ s.spdmOpen x.doe x.ld = true ∧ s.hasRight (33 + x.cls) rightHaltFlush = true ∧ s.halted = true ∧ s.flush.halt = false
    ∧ s.getF TOP.HALT_FLUSH_DONE = 0 :=
  ⟨wSess.setF TOP.HALT_HALTED 1, 4, { id := 4, cls := 1, root := 0, doe := false, ld := 0 }, [], by decide +kernel⟩
theorem test_RetirementAndHaltFlushComplete_3 : ∃ (s : State), s.flush.halt = true ∧ s.flush.step = 7 :=
  ⟨{ wSess.setF TOP.HALT_HALTED 1 with flush := { halt := true, step := 7, stopped := true, haltSid := 4 } }, by decide +kernel⟩
/-! Statement KeyCheckCommandsComplete. -/
theorem test_KeyCheckCommandsComplete_0 : ∃ (s : State) (port : Nat) (mem : Bool), port < 4 ∧ s.halted = false ∧ s.getF (HPT.LINK_STATUS_CXL port) = 1
    ∧ s.doeSession port = true :=
  ⟨{ wLive with cip := { wLive.cip with sessions := [{ id := 1, cls := 0, root := 0, doe := true, ld := 1, leaf := [] }] } }, 1, true, by decide +kernel⟩
theorem test_KeyCheckCommandsComplete_1 : ∃ (s : State) (port : Nat) (mem : Bool) (ls : List Nat), port < 4
    ∧ Tab.get (fun _ => 0) s.cip.ide (2 * port + (if mem then 1 else 0)) = 1 :=
  ⟨{ wLive with cip := { ide := [(3, 1)] } }, 1, true, [], by decide +kernel⟩
theorem test_KeyCheckCommandsComplete_2 : ∃ (s : State) (n : Nat) (h : FlitHead) (k : LinkKey) (w : Nat), s.accepts n h = true
    ∧ s.linkSession n = some k ∧ w = State.checkWord k k.got true := by
  refine ⟨{ wLive with cip := { links := [(2, some { l := 1, ks := 2 })] } }, 2, { seq := 0, ack := 0, credit := 0, fec := false }, { l := 1, ks := 2 }, State.checkWord { l := 1, ks := 2 } (LinkKey.got { l := 1, ks := 2 }) true, ?_, ?_, rfl⟩ <;> decide +kernel
theorem test_KeyCheckCommandsComplete_3 : ∃ (s : State) (n : Nat) (h : FlitHead) (k : LinkKey) (w : Nat), s.accepts n h = true ∧ s.halted = false
    ∧ s.linkSession n = some k ∧ w ≠ State.checkWord k k.got true := by
  refine ⟨{ wLive with cip := { links := [(2, some { l := 1, ks := 2 })] } }, 2, { seq := 0, ack := 0, credit := 0, fec := false }, { l := 1, ks := 2 }, State.checkWord { l := 1, ks := 2 } (LinkKey.got { l := 1, ks := 2 }) true + 1, ?_, ?_, ?_, Nat.succ_ne_self _⟩ <;> decide +kernel
theorem test_KeyCheckCommandsComplete_4 : ∃ (s : State) (n : Nat) (h : FlitHead), s.accepts n h = true ∧ s.halted = false :=
  ⟨wLive, 2, { seq := 0, ack := 0, credit := 0, fec := false }, by decide +kernel⟩
theorem test_KeyCheckCommandsComplete_5 : ∃ (s : State) (n : Nat) (k : LinkKey), s.linkSession n = some k ∧ 4 ≤ (s.link n).step ∧ s.halted = false
    ∧ s.sendsNow n = true ∧ 2 ^ 20 * k.sent ≤ (s.link n).txCount :=
  ⟨{ wLive with cip := { links := [(2, some { l := 1, ks := 2 })] } }, 2, { l := 1, ks := 2 }, by decide +kernel⟩
/-! Statement HostPortCommandsComplete. -/
theorem test_HostPortCommandsComplete_0 : ∃ (s : State) (port : Nat) (l : TrainedLink), s.mayTrain port = true ∧ l.width ∈ [1, 2, 4, 8]
    ∧ ((s.getF (HPT.LINK_STATUS_UP port) = 0 ∨ (s.port port).retrain = true)) :=
  ⟨(wLive.setF (HPT.LINK_STATUS_UP 1) 0).setF (HPT.LINK_CTRL_ENABLE 1) 1, 1, { speed := 0, width := 8, flit256 := true, lopt := false, cxl := true }, by decide +kernel⟩
theorem test_HostPortCommandsComplete_1 : ∃ (s : State) (port : Nat), port < 4 ∧ s.getF (HPT.LINK_STATUS_UP port) = 1 :=
  ⟨wLive, 1, by decide +kernel⟩
theorem test_HostPortCommandsComplete_2 : ∃ (s : State) (m : Nat) (port : Nat), port < 4 ∧ s.mayWrite m (0x80008 + 0x4000 * port) = true :=
  ⟨wLive, 0, 3, by decide +kernel⟩
theorem test_HostPortCommandsComplete_3 : ∃ (s : State) (port : Nat), port < 4 ∧ Tab.get (fun _ => false) s.pins.perst port = false :=
  ⟨wLive, 3, by decide +kernel⟩
theorem test_HostPortCommandsComplete_4 : ∃ (s : State) (port : Nat), port < 4 :=
  ⟨{ pins := { perst := [(3, true)] } }, 3, by decide +kernel⟩
theorem test_HostPortCommandsComplete_5 : ∃ (s : State) (port : Nat) (tag : Nat) (w : CfgWrite), port < 4
    ∧ Tab.get (fun _ => false) s.pins.perst port = false ∧ Tab.get (fun _ => 0) s.cip.ide (2 * port) ≠ 2 ∧ s.portsLive = true :=
  ⟨wLive, 1, 9, .none, by decide +kernel⟩
theorem test_HostPortCommandsComplete_6 : ∃ (s : State) (port : Nat) (tag : Nat) (on : Bool), port < 4
    ∧ Tab.get (fun _ => false) s.pins.perst port = false ∧ Tab.get (fun _ => 0) s.cip.ide (2 * port) ≠ 2 ∧ s.portsLive = true :=
  ⟨wLive, 1, 9, false, by decide +kernel⟩
theorem test_HostPortCommandsComplete_7 : ∃ (s : State) (ld : Nat) (i : Nat) (d : HdmDecoder) (p : Nat) (a : Nat), (s.ldOf ld).port = some p ∧ i < 8
    ∧ s.portOpen p false = true ∧ s.halted = false ∧ s.decoderStart ld i d = some a ∧ s.commitOk ld i d a = true :=
  ⟨{ wLive with lds := [(1, { port := some 1 })] }, 1, 0, { base := 2 ^ 28, size := 2 ^ 28, ways := 1, gran := 256 }, 1, 0, by decide +kernel⟩
theorem test_HostPortCommandsComplete_8 : ∃ (s : State) (ld : Nat) (i : Nat) (d : HdmDecoder) (p : Nat), (s.ldOf ld).port = some p ∧ i < 8
    ∧ s.portOpen p false = true ∧ s.halted = false ∧ (s.decoderStart ld i d).all (fun a => !s.commitOk ld i d a) = true :=
  ⟨{ wLive with lds := [(1, { port := some 1 })] }, 1, 0, { base := 2 ^ 27, size := 2 ^ 28, ways := 1, gran := 256 }, 1, by decide +kernel⟩
theorem test_HostPortCommandsComplete_9 : ∃ (s : State) (ld : Nat) (a : Nat) (bs : List Byte) (p : Nat), (s.ldOf ld).port = some p
    ∧ s.portOpen p false = true ∧ s.halted = false ∧ 0 < bs.length ∧ a % 64 + bs.length ≤ 64 ∧ a + bs.length ≤ 2 ^ 26
    ∧ s.inWindowOf ld a bs.length = true :=
  ⟨{ wLive with spl := { owners := [State.defaultOwners] } }, 1, 79 * 65536, [1, 2, 3], 1, by decide +kernel⟩
theorem test_HostPortCommandsComplete_10 : ∃ (s : State) (ld : Nat) (a : Nat) (k : Nat) (p : Nat), (s.ldOf ld).port = some p
    ∧ s.portOpen p false = true ∧ s.halted = false ∧ 0 < k ∧ a % 64 + k ≤ 64 ∧ a + k ≤ 2 ^ 26 ∧ s.inWindowOf ld a k = true ∧ s.spoolBad a k = false :=
  ⟨{ wLive with spl := { owners := [State.defaultOwners] } }, 1, 79 * 65536, 4, 1, by decide +kernel⟩
theorem test_HostPortCommandsComplete_11 : ∃ (s : State) (port : Nat) (n : Nat), port < 4 ∧ s.getF (HPT.LINK_STATUS_UP port) = 1
    ∧ (s.port port).respq = [] :=
  ⟨wLive, 1, 5, by decide +kernel⟩
/-! Statement MailboxQueriesAnswer. -/
theorem test_MailboxQueriesAnswer_0 : ∃ (s : State) (ld : Nat), s.mbFree ld = true ∧ s.halted = false :=
  ⟨wLive, 1, by decide +kernel⟩
theorem test_MailboxQueriesAnswer_1 : ∃ (s : State) (ld : Nat), s.mbFree ld = true ∧ s.halted = false ∧ s.topState ≠ 2 :=
  ⟨wLive, 1, by decide +kernel⟩
theorem test_MailboxQueriesAnswer_2 : ∃ (s : State) (ld : Nat) (log : Nat), s.mbFree ld = true ∧ s.halted = false ∧ log < 5 :=
  ⟨(wLive.logEvent 1 3 2 [7, 8]), 1, 3, by decide +kernel⟩
theorem test_MailboxQueriesAnswer_3 : ∃ (s : State) (ld : Nat), s.mbFree ld = true ∧ s.halted = false ∧ s.topState ≠ 2 ∧ s.memActive = true :=
  ⟨wLive, 1, by decide +kernel⟩
theorem test_MailboxQueriesAnswer_4 : ∃ (s : State) (ld : Nat), s.mbFree ld = true ∧ s.halted = false ∧ s.topState ≠ 2 :=
  ⟨wLive, 1, by decide +kernel⟩
theorem test_MailboxQueriesAnswer_5 : ∃ (s : State) (ld : Nat), s.mbFree ld = true ∧ s.halted = false ∧ s.topState ≠ 2 :=
  ⟨wLive, 1, by decide +kernel⟩
theorem test_MailboxQueriesAnswer_6 : ∃ (s : State) (ld : Nat) (off : Nat) (len : Nat), s.mbFree ld = true ∧ s.halted = false ∧ s.topState ≠ 2
    ∧ off + len ≤ (s.vendorLog ld).length ∧ len ≤ 65536 :=
  ⟨wLive, 1, 0, 0, by decide +kernel⟩
theorem test_MailboxQueriesAnswer_7 : ∃ (s : State) (ld : Nat) (off : Nat) (len : Nat), s.mbFree ld = true ∧ s.halted = false ∧ s.topState ≠ 2
    ∧ off + len ≤ State.celBytes.length :=
  ⟨wLive, 1, 4, 2, by decide +kernel⟩
theorem test_MailboxQueriesAnswer_8 : ∃ (s : State) (ld : Nat), s.mbFree ld = true ∧ s.halted = false :=
  ⟨wLive, 1, by decide +kernel⟩
theorem test_MailboxQueriesAnswer_9 : ∃ (s : State) (ld : Nat), s.mbFree ld = true ∧ s.halted = false ∧ s.topState ≠ 2 ∧ s.memActive = true :=
  ⟨wLive, 1, by decide +kernel⟩
theorem test_MailboxQueriesAnswer_10 : ∃ (s : State) (ld : Nat) (off : Nat) (len : Nat), s.mbFree ld = true ∧ s.halted = false ∧ s.topState ≠ 2
    ∧ s.memActive = true ∧ s.hasRight ld rightMemRd = true ∧ off + len ≤ 131072 ∧ (∀ p ∈ State.lsaPages off len, s.lsaReadable ld p = true) :=
  ⟨wLive, 1, 4094, 4, by decide +kernel⟩
theorem test_MailboxQueriesAnswer_11 : ∃ (s : State) (ld : Nat), s.mbFree ld = true ∧ s.halted = false ∧ s.topState ≠ 2 ∧ s.memActive = true :=
  ⟨wDcd, 1, by decide +kernel⟩
theorem test_MailboxQueriesAnswer_12 : ∃ (s : State) (ld : Nat), s.mbFree ld = true ∧ s.halted = false ∧ s.topState ≠ 2 ∧ s.memActive = true :=
  ⟨wDcd, 1, by decide +kernel⟩
theorem test_MailboxQueriesAnswer_13 : ∃ (s : State) (ld : Nat), s.mbFree ld = true ∧ s.halted = false ∧ s.topState ≠ 2 ∧ s.memActive = true :=
  ⟨wLive, 1, by decide +kernel⟩
theorem test_MailboxQueriesAnswer_14 : ∃ (s : State) (ld : Nat), s.mbFree ld = true ∧ s.halted = false ∧ s.topState ≠ 2 ∧ s.memActive = true :=
  ⟨wLive, 1, by decide +kernel⟩
theorem test_MailboxQueriesAnswer_15 : ∃ (s : State) (ld : Nat) (e : HamRec × Nat × Bool), s.mbFree ld = true ∧ s.halted = false ∧ s.topState ≠ 2
    ∧ s.memActive = true ∧ (s.hamView 0).find? (fun e => e.1.code == 0x0801) = some e :=
  ⟨{ wLive with ham := { bRead := true, bPages := [{ group := 0, mirror := false, slot := 0, bolt := 0, page := 0, recs := [{ seq := 3, src := 56, time := 9, code := 0x0801, payload := [1, 2, 3] }] }] } }, 1, ({ seq := 3, src := 56, time := 9, code := 0x0801, payload := [1, 2, 3] }, 2, false), by decide +kernel⟩
theorem test_MailboxQueriesAnswer_16 : ∃ (s : State) (ld : Nat), s.mbFree ld = true ∧ s.halted = false ∧ s.topState ≠ 2 ∧ s.memActive = true :=
  ⟨wLive, 1, by decide +kernel⟩
theorem test_MailboxQueriesAnswer_17 : ∃ (s : State) (ld : Nat) (op : Nat), s.mbFree ld = true ∧ s.halted = false ∧ mbOpcodes.contains op = false :=
  ⟨wLive, 1, 0x9999, by decide +kernel⟩
theorem test_MailboxQueriesAnswer_18 : ∃ (s : State) (ld : Nat) (dpa : Nat) (len : Nat), s.mbFree ld = true ∧ s.halted = false ∧ s.topState ≠ 2
    ∧ s.memActive = true ∧ s.hasRight ld rightMemRd = true ∧ dpa % 64 = 0 ∧ len ≠ 0 ∧ dpa + 64 * len ≤ 2 ^ 45 ∧ (s.ldOf ld).poisonFrom = none :=
  ⟨{ wLive with cache := { lining := [(251658240, { line := 5, valid := true, val := { poison := true, origin := 2 } })] } }, 1, 256, 4, by decide +kernel⟩
/-! Statement MailboxCommandsComplete. -/
theorem test_MailboxCommandsComplete_0 : ∃ (s : State) (ld : Nat) (log : Nat) (hs : List Nat), s.mbFree ld = true ∧ s.halted = false ∧ s.topState ≠ 2
    ∧ log < 5 ∧ (∀ h ∈ hs, (Tab.get (fun _ => []) (s.ldOf ld).logs log).any (fun (r : EvRec) => r.handle == h) = true) :=
  ⟨(wLive.logEvent 1 3 2 [7, 8]).logEvent 1 3 2 [9], 1, 3, [1], by decide +kernel⟩
theorem test_MailboxCommandsComplete_1 : ∃ (s : State) (ld : Nat) (log : Nat), s.mbFree ld = true ∧ s.halted = false ∧ s.topState ≠ 2 ∧ log < 5 :=
  ⟨(wLive.logEvent 1 3 2 [7, 8]).logEvent 1 3 2 [9], 1, 3, by decide +kernel⟩
theorem test_MailboxCommandsComplete_2 : ∃ (s : State) (ld : Nat) (vs : List Nat), s.mbFree ld = true ∧ s.halted = false ∧ s.topState ≠ 2
    ∧ s.memActive = true ∧ vs.length = 5 ∧ (∀ v ∈ vs, v ≠ 1 ∧ v ≤ 2047) :=
  ⟨wLive, 1, [0, 2, 2047, 5, 6], by decide +kernel⟩
theorem test_MailboxCommandsComplete_3 : ∃ (s : State) (ld : Nat) (v : Nat), s.mbFree ld = true ∧ s.halted = false ∧ s.topState ≠ 2
    ∧ s.hasRight ld rightRegWr = true :=
  ⟨wLive, 1, 777, by decide +kernel⟩
theorem test_MailboxCommandsComplete_4 : ∃ (s : State) (ld : Nat) (cfg : AlertCfg), s.mbFree ld = true ∧ s.halted = false ∧ s.topState ≠ 2
    ∧ s.memActive = true ∧ s.hasRight ld rightRegWr = true :=
  ⟨wLive, 1, { valid := 5, enable := 4, vals := [50, 0, 60] }, by decide +kernel⟩
theorem test_MailboxCommandsComplete_5 : ∃ (s : State) (ld : Nat) (off : Nat) (bytes : List Byte) (s1 : State), s.mbFree ld = true ∧ s.halted = false
    ∧ s.topState ≠ 2 ∧ s.memActive = true ∧ s.hasRight ld rightMemWr = true ∧ off + bytes.length ≤ 131072 ∧ s.flush.stopped = false
    ∧ State.lsaPages off bytes.length ≠ [] ∧ (∀ p ∈ State.lsaPages off bytes.length, s.lsaReadable ld p = true)
    ∧ State.lsaIssue ld (Tab.setBytes (fun _ => 0) (s.ldOf ld).lsa off bytes) (State.lsaPages off bytes.length) s = some s1 := by
  refine ⟨wLsa, 1, 4094, [1, 2, 3], (State.lsaIssue 1 (Tab.setBytes (fun _ => 0) (wLsa.ldOf 1).lsa 4094 [1, 2, 3]) (State.lsaPages 4094 [1, 2, 3].length) wLsa).getD wLsa, ?_⟩
  iterate 9 refine ⟨by decide +kernel, ?_⟩
  exact some_getD (d := wLsa) (by decide +kernel)
theorem test_MailboxCommandsComplete_6 : ∃ (s : State) (ld : Nat) (dpa : Nat) (k : Nat), s.mbFree ld = true ∧ s.halted = false ∧ s.topState ≠ 2
    ∧ s.memActive = true ∧ s.hasRight ld rightMemWr = true ∧ (s.mailLine ld dpa = none) ∧ s.sharedOf (dpa / 64) = false
    ∧ s.fencedAt (dpa / 64) = false ∧ s.flush.stopped = false ∧ s.flush.clean = none ∧ (∀ x ∈ s.ham.holding, x.code ≠ 0x0802)
    ∧ s.sealedLine (dpa / 64) = false ∧ (∀ r ∈ s.reqs, r.line ≠ dpa / 64) ∧ s.throughOpen (dpa / 64) = false ∧ s.writesThrough (dpa / 64) = false
    ∧ s.findPent (dpa / 64) = none ∧ s.findWay (dpa / 64) = some k ∧ (s.dirtyIn (dpa / 64) = true ∨ s.budgetRoom (sliceOf (dpa / 64)) = true)
    ∧ s.integ.inj = none ∧ s.injectedLines.length < 1024 :=
  ⟨{ wLive.setF LIN.STATUS_ENABLED 1 with cache := { lining := [(251658240, { line := 5, valid := true })] } }, 1, 320, 251658240, by decide +kernel⟩
theorem test_MailboxCommandsComplete_7 : ∃ (s : State) (ld : Nat) (dpa : Nat) (data : BitVec 512) (k : Nat), s.mbFree ld = true ∧ s.halted = false
    ∧ s.topState ≠ 2 ∧ s.memActive = true ∧ s.hasRight ld rightMemWr = true ∧ (s.mailLine ld dpa = none) ∧ s.sharedOf (dpa / 64) = false
    ∧ s.fencedAt (dpa / 64) = false ∧ s.flush.stopped = false ∧ s.flush.clean = none ∧ (∀ x ∈ s.ham.holding, x.code ≠ 0x0802)
    ∧ s.sealedLine (dpa / 64) = false ∧ (∀ r ∈ s.reqs, r.line ≠ dpa / 64) ∧ s.throughOpen (dpa / 64) = false ∧ s.writesThrough (dpa / 64) = false
    ∧ s.findPent (dpa / 64) = none ∧ s.findWay (dpa / 64) = some k ∧ (s.dirtyIn (dpa / 64) = true ∨ s.budgetRoom (sliceOf (dpa / 64)) = true)
    ∧ s.integ.inj = none ∧ s.cipherFault = false :=
  ⟨{ wLive.setF LIN.STATUS_ENABLED 1 with cache := { lining := [(251658240, { line := 5, valid := true })] } }, 1, 320, 0x77, 251658240, by decide +kernel⟩
theorem test_MailboxCommandsComplete_8 : ∃ (s : State) (ld : Nat), s.mbFree ld = true ∧ s.halted = false ∧ s.topState ≠ 2 ∧ s.memActive = true
    ∧ s.hasRight ld rightMemWr = true ∧ (s.ldOf ld).bg = none ∧ s.flush.stopped = false :=
  ⟨wOwn, 1, by decide +kernel⟩
theorem test_MailboxCommandsComplete_9 : ∃ (s : State) (ld : Nat), s.mbFree ld = true ∧ s.halted = false ∧ s.topState ≠ 2 ∧ s.memActive = true
    ∧ s.hasRight ld rightMemWr = true ∧ (s.ldOf ld).bg = none ∧ s.flush.stopped = false :=
  ⟨wOwn, 1, by decide +kernel⟩
theorem test_MailboxCommandsComplete_10 : ∃ (s : State) (ld : Nat) (c : BgCmd), ld < 16 ∧ s.flush.stopped = false ∧ (s.ldOf ld).bg = some c
    ∧ c.todo = [] ∧ c.ext = none :=
  ⟨{ wLive with lds := [(1, { port := some 1, bg := some { opcode := 0x4400 } })], coh := { wiped := [(1, 0, 64), (2, 64, 64)] } }, 1, { opcode := 0x4400 }, by decide +kernel⟩
theorem test_MailboxCommandsComplete_11 : ∃ (s : State), s.flush.stopped = false ∧ (∀ x ∈ s.lds, x.2.bg = none)
    ∧ (∀ e ∈ s.coh.extents, e.state = .releasing → e.bolts = []) :=
  ⟨{ wDcd with coh := { extents := [{ id := 4, base := 536870912, len := 268435456, ldMask := 3, state := .releasing }] } }, by decide +kernel⟩
/-! Statement HostDynamicCapacityCompletes. -/
theorem test_HostDynamicCapacityCompletes_0 : ∃ (s : State) (ld : Nat) (x : Nat) (e : Extent), s.mbFree ld = true ∧ s.halted = false ∧ s.topState ≠ 2
    ∧ s.memActive = true ∧ s.hasRight ld rightMemWr = true ∧ s.extentOf x = some e ∧ Nat.testBit e.ldMask ld = true ∧ e.state ≠ .releasing
    ∧ Nat.testBit e.accepted ld = false ∧ s.storeOk = true :=
  ⟨wDcd, 0, 4, { id := 4, base := 536870912, len := 268435456, ldMask := 3, accepted := 2, state := .active }, by decide +kernel⟩
theorem test_HostDynamicCapacityCompletes_1 : ∃ (s : State) (ld : Nat) (x : Nat) (e : Extent), s.mbFree ld = true ∧ s.halted = false ∧ s.topState ≠ 2
    ∧ s.memActive = true ∧ s.hasRight ld rightMemWr = true ∧ s.extentOf x = some e ∧ e.state = .active ∧ Nat.testBit e.accepted ld = true
    ∧ (s.ldOf ld).bg = none ∧ s.flush.stopped = false ∧ s.storeOk = true ∧ e.accepted ≠ 2 ^ ld :=
  ⟨{ wDcd with coh := { extents := [{ id := 4, base := 536870912, len := 268435456, ldMask := 3, accepted := 3, state := .active }] } }, 1, 4, { id := 4, base := 536870912, len := 268435456, ldMask := 3, accepted := 3, state := .active }, by decide +kernel⟩
theorem test_HostDynamicCapacityCompletes_2 : ∃ (s : State) (ld : Nat) (x : Nat) (e : Extent), s.mbFree ld = true ∧ s.halted = false ∧ s.topState ≠ 2
    ∧ s.memActive = true ∧ s.hasRight ld rightMemWr = true ∧ s.extentOf x = some e ∧ e.state = .active ∧ Nat.testBit e.accepted ld = true
    ∧ (s.ldOf ld).bg = none ∧ s.flush.stopped = false ∧ s.storeOk = true ∧ e.accepted = 2 ^ ld :=
  ⟨wDcd, 1, 4, { id := 4, base := 536870912, len := 268435456, ldMask := 3, accepted := 2, state := .active }, by decide +kernel⟩
/-! Statement FabricManagerCommandsComplete. -/
theorem test_FabricManagerCommandsComplete_0 : ∃ (s : State), s.clk.awake = true :=
  ⟨wDcd, by decide +kernel⟩
theorem test_FabricManagerCommandsComplete_1 : ∃ (s : State), s.clk.awake = true :=
  ⟨wDcd, by decide +kernel⟩
theorem test_FabricManagerCommandsComplete_2 : ∃ (s : State) (g : List Nat), s.clk.awake = true ∧ g.length ≤ 16 :=
  ⟨wDcd, [1, 2], by decide +kernel⟩
theorem test_FabricManagerCommandsComplete_3 : ∃ (s : State), s.clk.awake = true :=
  ⟨wDcd, by decide +kernel⟩
theorem test_FabricManagerCommandsComplete_4 : ∃ (s : State) (ld : Nat), s.clk.awake = true ∧ ld < 16 ∧ s.memActive = true :=
  ⟨wDcd, 1, by decide +kernel⟩
theorem test_FabricManagerCommandsComplete_5 : ∃ (s : State) (ld : Nat), s.clk.awake = true ∧ ld < 16 ∧ s.memActive = true :=
  ⟨wDcd, 1, by decide +kernel⟩
theorem test_FabricManagerCommandsComplete_6 : ∃ (s : State), s.clk.awake = true :=
  ⟨wDcd, by decide +kernel⟩
theorem test_FabricManagerCommandsComplete_7 : ∃ (s : State) (m : Nat) (b : Nat) (n : Nat), s.clk.awake = true ∧ s.memActive = true
    ∧ s.addRefusal m b n = none :=
  ⟨wDcd, 3, 805306368, 268435456, by decide +kernel⟩
theorem test_FabricManagerCommandsComplete_8 : ∃ (s : State) (x : Nat) (ld : Nat) (e : Extent), s.clk.awake = true ∧ s.extentOf x = some e
    ∧ Nat.testBit e.ldMask ld = true ∧ s.memActive = true ∧ s.flush.stopped = false ∧ e.state = .active :=
  ⟨wDcd, 4, 1, { id := 4, base := 536870912, len := 268435456, ldMask := 3, accepted := 2, state := .active }, by decide +kernel⟩
theorem test_FabricManagerCommandsComplete_9 : ∃ (s : State) (x : Nat) (ld : Nat) (e : Extent), s.clk.awake = true ∧ s.extentOf x = some e
    ∧ Nat.testBit e.ldMask ld = true ∧ s.memActive = true ∧ s.flush.stopped = false ∧ e.state ≠ .releasing ∧ s.storeOk = true :=
  ⟨wDcd, 4, 1, { id := 4, base := 536870912, len := 268435456, ldMask := 3, accepted := 2, state := .active }, by decide +kernel⟩
theorem test_FabricManagerCommandsComplete_10 : ∃ (s : State) (x : Nat) (ld : Nat) (e : Extent), s.clk.awake = true ∧ s.extentOf x = some e
    ∧ Nat.testBit e.ldMask ld = true ∧ s.memActive = true ∧ s.flush.stopped = false ∧ e.state = .active :=
  ⟨wDcd, 4, 1, { id := 4, base := 536870912, len := 268435456, ldMask := 3, accepted := 2, state := .active }, by decide +kernel⟩
theorem test_FabricManagerCommandsComplete_11 : ∃ (s : State) (x : Nat) (ld : Nat) (e : Extent), s.clk.awake = true ∧ s.extentOf x = some e
    ∧ Nat.testBit e.ldMask ld = true ∧ s.memActive = true ∧ s.flush.stopped = false ∧ e.state ≠ .releasing ∧ s.storeOk = true :=
  ⟨wDcd, 4, 1, { id := 4, base := 536870912, len := 268435456, ldMask := 3, accepted := 2, state := .active }, by decide +kernel⟩
theorem test_FabricManagerCommandsComplete_12 : ∃ (s : State) (ld : Nat) (p : Nat), s.clk.awake = true ∧ ld < 16 ∧ p < 4 ∧ s.boundTo ld = none
    ∧ s.kpsOk = true :=
  ⟨(wLive.setF KPS.STATUS_KPV_UP 1).setF KPS.STATUS_TEMP_OK 1, 5, 3, by decide +kernel⟩
theorem test_FabricManagerCommandsComplete_13 : ∃ (s : State) (ld : Nat) (p : Nat), s.clk.awake = true ∧ ld < 16 ∧ s.boundTo ld = some p
    ∧ (s.ldOf ld).port ≠ none ∧ s.kpsOk = true :=
  ⟨(wLive.setF KPS.STATUS_KPV_UP 1).setF KPS.STATUS_TEMP_OK 1, 1, 1, by decide +kernel⟩
theorem test_FabricManagerCommandsComplete_14 : ∃ (s : State) (ld : Nat) (p : Nat), s.clk.awake = true ∧ ld < 16 ∧ s.boundTo ld = some p
    ∧ (s.ldOf ld).port = none ∧ s.kpsOk = true :=
  ⟨{ (wLive.setF KPS.STATUS_KPV_UP 1).setF KPS.STATUS_TEMP_OK 1 with lds := [(3, { portNext := some (some 2) })] }, 3, 2, by decide +kernel⟩
/-! Statement CartridgeFlitsComplete. -/
theorem test_CartridgeFlitsComplete_0 : ∃ (s : State) (n : Nat) (h : FlitHead) (tag : Nat) (p : List Byte) (c : CmdRec), s.accepts n h = true
    ∧ (s.link n).tags.find? (fun c => c.tag == tag && c.total == 0) = some c ∧ c.op = 8 :=
  ⟨wLink { up := true, step := 6, tags := [{ tag := 3, op := 8, arg := 0, since := 0 }] }, 2, wFlit, 3, [], { tag := 3, op := 8, arg := 0, since := 0 }, by decide +kernel⟩
theorem test_CartridgeFlitsComplete_1 : ∃ (s : State) (n : Nat) (h : FlitHead) (tag : Nat) (p : List Byte) (c : CmdRec), s.accepts n h = true
    ∧ (s.link n).tags.find? (fun c => c.tag == tag && c.total == 0) = some c ∧ c.op = 9 :=
  ⟨wLink { up := true, step := 6, tags := [{ tag := 3, op := 9, arg := 0, since := 0 }] }, 2, wFlit, 3, [1, 2], { tag := 3, op := 9, arg := 0, since := 0 }, by decide +kernel⟩
theorem test_CartridgeFlitsComplete_2 : ∃ (s : State) (n : Nat) (h : FlitHead) (tag : Nat) (p : List Byte) (c : CmdRec), s.accepts n h = true
    ∧ (s.link n).tags.find? (fun c => c.tag == tag && c.total == 0) = some c ∧ c.op = 2 :=
  ⟨wLink { up := true, step := 6, tags := [{ tag := 3, op := 2, arg := 8, since := 0 }] }, 2, wFlit, 3, [], { tag := 3, op := 2, arg := 8, since := 0 }, by decide +kernel⟩
theorem test_CartridgeFlitsComplete_3 : ∃ (s : State) (n : Nat) (h : FlitHead) (tag : Nat) (c : CmdRec), s.accepts n h = true
    ∧ (s.link n).tags.find? (fun c => c.tag == tag) = some c ∧ c.next + 1 < c.total :=
  ⟨wLink { up := true, step := 6, tags := [{ tag := 3, op := 2, arg := 8, since := 0, total := 41 }] }, 2, wFlit, 3, { tag := 3, op := 2, arg := 8, since := 0, total := 41 }, by decide +kernel⟩
theorem test_CartridgeFlitsComplete_4 : ∃ (s : State) (n : Nat) (h : FlitHead) (tag : Nat) (c : CmdRec), s.accepts n h = true
    ∧ (s.link n).tags.find? (fun c => c.tag == tag) = some c ∧ c.next + 1 = c.total ∧ c.op = 2 :=
  ⟨wLink { up := true, step := 6, tags := [{ tag := 3, op := 2, arg := 8, since := 0, next := 40, total := 41 }] }, 2, wFlit, 3, { tag := 3, op := 2, arg := 8, since := 0, next := 40, total := 41 }, by decide +kernel⟩
theorem test_CartridgeFlitsComplete_5 : ∃ (s : State) (n : Nat) (h : FlitHead) (k : Nat), s.accepts n h = true
    ∧ (State.rxAck h (s.link n)).acked < (s.link n).txCount ∧ (State.rxAck h (s.link n)).replay < 4 :=
  ⟨wLink { up := true, step := 6, txCount := 5, acked := 2 }, 2, { seq := 0, ack := 1 }, 0, by decide +kernel⟩
theorem test_CartridgeFlitsComplete_6 : ∃ (s : State) (n : Nat) (h : FlitHead) (r : Nat) (k : Nat), s.accepts n h = true ∧ n < 32 ∧ 2 ≤ r ∧ r < 8 :=
  ⟨wLink { up := true, step := 6 }, 2, wFlit, 7, 0, by decide +kernel⟩
theorem test_CartridgeFlitsComplete_7 : ∃ (s : State) (n : Nat) (h : FlitHead) (temp : Nat) (failed : Nat) (power : Nat) (flags : Nat), s.accepts n h = true
    ∧ flags ≤ 1 :=
  ⟨wLink { up := true, step := 6 }, 2, wFlit, 0xFFF0, 0, 0, 1, by decide +kernel⟩
theorem test_CartridgeFlitsComplete_8 : ∃ (s : State) (n : Nat) (h : FlitHead), s.accepts n h = true :=
  ⟨wLink { up := true, step := 6, granted := 9, credits := 4 }, 2, { seq := 0, ack := 0, credit := 5 }, by decide +kernel⟩
theorem test_CartridgeFlitsComplete_9 : ∃ (s : State) (n : Nat) (b : Bool), 2 ≤ (s.link n).step ∧ s.halted = false ∧ s.sendsNow n = true :=
  ⟨wLink { up := true, step := 6, rxCount := 7 }, 2, true, by decide +kernel⟩
/-! Statement CartridgeLinkCommandsComplete. -/
theorem test_CartridgeLinkCommandsComplete_0 : ∃ (s : State) (n : Nat), 2 ≤ (s.link n).step ∧ (s.link n).acked < (s.link n).txCount
    ∧ (s.link n).replay < 4 :=
  ⟨wLink { up := true, step := 6, txCount := 4 }, 2, by decide +kernel⟩
theorem test_CartridgeLinkCommandsComplete_1 : ∃ (s : State) (n : Nat) (tag : Nat), (s.link n).tags.any (fun c => c.tag == tag) = true ∧ n < 32 :=
  ⟨wLink { up := true, step := 6, tags := [{ tag := 3, op := 2, arg := 8, since := 0 }] }, 2, 3, by decide +kernel⟩
theorem test_CartridgeLinkCommandsComplete_2 : ∃ (s : State) (n : Nat), (s.link n).retraining = true :=
  ⟨wLink { retraining := true, step := 1 }, 2, by decide +kernel⟩
theorem test_CartridgeLinkCommandsComplete_3 : ∃ (s : State) (n : Nat), n < 32 ∧ (s.link n).up = true :=
  ⟨(wLink { up := true, step := 6 }).setF (CAR.STATUS_TEMP 2) 7, 2, by decide +kernel⟩
theorem test_CartridgeLinkCommandsComplete_4 : ∃ (s : State) (n : Nat), (s.link n).step ≠ 0 ∧ (s.link n).up = false ∧ (s.cart n).adopt ≠ 11
    ∧ s.linkKey ≠ none ∧ (s.link n).tries < 2 :=
  ⟨wLink { step := 3, tries := 1 }, 2, by decide +kernel⟩
theorem test_CartridgeLinkCommandsComplete_5 : ∃ (s : State) (n : Nat) (w : Nat) (l : Nat), n < 32 ∧ (s.link n).step = 1
    ∧ s.getF (VLK.CTRL_FORCE_X1 n) = 1 ∧ s.linkKey ≠ none :=
  ⟨(wLink { step := 1 }).setF (VLK.CTRL_FORCE_X1 2) 1, 2, 2, 1, by decide +kernel⟩
theorem test_CartridgeLinkCommandsComplete_6 : ∃ (s : State) (n : Nat) (l : Nat), n < 32 ∧ (s.link n).up = true ∧ (s.link n).spared = none :=
  ⟨wLink { up := true, step := 6 }, 2, 1, by decide +kernel⟩
theorem test_CartridgeLinkCommandsComplete_7 : ∃ (s : State) (n : Nat), n < 32 ∧ (s.link n).up = true :=
  ⟨wLink { up := true, step := 6 }, 2, by decide +kernel⟩
theorem test_CartridgeLinkCommandsComplete_8 : ∃ (s : State) (m : Nat) (n : Nat), n < 32 ∧ s.mayWrite m (0x100008 + 4096 * n) = true
    ∧ s.canTrain n = true :=
  ⟨{ ((wLink { up := true, step := 6 }).setF (VLK.CTRL_ENABLE 2) 1) with seq := { state := .on, enabled := [(11, true)], good := [(11, true)] } }, 0, 2, by decide +kernel⟩
theorem test_CartridgeLinkCommandsComplete_9 : ∃ (s : State) (m : Nat) (n : Nat), n < 32 ∧ s.mayWrite m (0x100008 + 4096 * n) = true
    ∧ (s.cart n).quarantined = true :=
  ⟨{ wLink { step := 0 } with carts := [(2, { present := true, quarantined := true })] }, 0, 2, by decide +kernel⟩
/-! Statement CartridgeCommandsGoOut. -/
theorem test_CartridgeCommandsGoOut_0 : ∃ (s : State) (n : Nat) (psa : Nat) (l : Nat) (r : Nat), psaSlot psa = n ∧ (s.cart n).adopted = true
    ∧ s.canSend n 1 1 = true ∧ refSetUsed s psa r = true :=
  ⟨wLink { up := true, step := 6, credits := 4 }, 2, 2 ^ 30 + 8, 3, 2, by decide +kernel⟩
theorem test_CartridgeCommandsGoOut_1 : ∃ (s : State) (n : Nat) (psa : Nat), psaSlot psa = n ∧ (s.cart n).adopted = true ∧ s.canSend n 2 1 = true :=
  ⟨wLink { up := true, step := 6, credits := 4 }, 2, 2 ^ 30 + 8, by decide +kernel⟩
theorem test_CartridgeCommandsGoOut_2 : ∃ (s : State) (n : Nat) (psa : Nat) (p : Prog), s.med.progs.find? (fun p => s.physPsa p.psa == psa && !p.sent) = some p
    ∧ psaSlot psa = n ∧ (s.cart n).adopted = true ∧ (s.cart n).inWindow = true ∧ s.canSend n 3 42 = true ∧ s.getF (MED.CART_MEDIA_CLASS n) ≠ 3 :=
  ⟨{ wLink { up := true, step := 6, credits := 4 } with med := { progs := [{ psa := 2 ^ 30 + 8, page := { selv := { typ := 5 } }, purpose := .journal }] } }, 2, 2 ^ 30 + 8, { psa := 2 ^ 30 + 8, page := { selv := { typ := 5 } }, purpose := .journal }, by decide +kernel⟩
theorem test_CartridgeCommandsGoOut_3 : ∃ (s : State) (n : Nat) (die : Nat) (bolt : Nat), s.med.resets.contains (mkBolt n die bolt) = true
    ∧ (s.cart n).adopted = true ∧ (s.cart n).inWindow = true ∧ s.boltRead (mkBolt n die bolt) = false ∧ s.canSend n 4 1 = true
    ∧ s.getF (MED.CART_MEDIA_CLASS n) ≠ 3 :=
  ⟨{ wLink { up := true, step := 6, credits := 4 } with med := { resets := [mkBolt 2 1 3] } }, 2, 1, 3, by decide +kernel⟩
theorem test_CartridgeCommandsGoOut_4 : ∃ (s : State) (n : Nat) (die : Nat) (first : Nat) (k : Nat), s.canSend n 5 1 = true :=
  ⟨wLink { up := true, step := 6, credits := 4 }, 2, 1, 3, 4, by decide +kernel⟩
theorem test_CartridgeCommandsGoOut_5 : ∃ (s : State) (n : Nat) (die : Nat) (bolt : Nat), s.canSend n 6 1 = true :=
  ⟨wLink { up := true, step := 6, credits := 4 }, 2, 1, 3, by decide +kernel⟩
theorem test_CartridgeCommandsGoOut_6 : ∃ (s : State) (n : Nat) (block : Nat), s.canSend n 7 1 = true :=
  ⟨wLink { up := true, step := 6, credits := 4 }, 2, 3, by decide +kernel⟩
theorem test_CartridgeCommandsGoOut_7 : ∃ (s : State) (n : Nat) (block : Nat) (bytes : List Byte), s.canSend n 8 30 = true :=
  ⟨wLink { up := true, step := 6, credits := 4 }, 2, 3, [1, 2], by decide +kernel⟩
theorem test_CartridgeCommandsGoOut_8 : ∃ (s : State) (n : Nat), s.canSend n 9 1 = true :=
  ⟨wLink { up := true, step := 6, credits := 4 }, 2, by decide +kernel⟩
theorem test_CartridgeCommandsGoOut_9 : ∃ (s : State) (n : Nat), s.canSend n 10 1 = true :=
  ⟨wLink { up := true, step := 6, credits := 4 }, 2, by decide +kernel⟩
theorem test_CartridgeCommandsGoOut_10 : ∃ (s : State) (n : Nat), s.canSend n 11 1 = true :=
  ⟨wLink { up := true, step := 6, credits := 4 }, 2, by decide +kernel⟩
theorem test_CartridgeCommandsGoOut_11 : ∃ (s : State) (n : Nat), s.canSend n 12 1 = true :=
  ⟨wLink { up := true, step := 6, credits := 4 }, 2, by decide +kernel⟩
theorem test_CartridgeCommandsGoOut_12 : ∃ (s : State) (n : Nat), (s.link n).up = true ∧ s.canSend n 13 1 = true :=
  ⟨wLink { up := true, step := 6, credits := 4 }, 2, by decide +kernel⟩
/-! Statement PairingCommandsComplete. -/
theorem test_PairingCommandsComplete_0 : ∃ (s : State) (n : Nat) (h : FlitHead) (msg : HelloMsg) (k : BitVec 512), s.accepts n h = true ∧ n < 32
    ∧ (s.link n).step = 3 ∧ s.linkKey = some k ∧ (s.cart n).cmd ≠ some 2 ∧ 512 ≤ msg.credits ∧ msg.keyId = State.keyIdOf k := by
  refine ⟨wLink { step := 3, nonce := 5 }, 2, wFlit, { nonce := 9, keyId := State.keyIdOf 0, credits := 600, model := 1, serial := 7 }, 0, ?_, ?_, ?_, ?_, ?_, ?_, rfl⟩ <;> decide +kernel
theorem test_PairingCommandsComplete_1 : ∃ (s : State) (n : Nat) (h : FlitHead), s.accepts n h = true ∧ (s.link n).pairing = 1 :=
  ⟨wLink { step := 3, pairing := 1 }, 2, wFlit, by decide +kernel⟩
theorem test_PairingCommandsComplete_2 : ∃ (s : State) (n : Nat) (k : BitVec 512), (s.link n).pairing = 2 ∧ s.linkKey = some k
    ∧ s.sendsNow n = true :=
  ⟨wLink { step := 3, pairing := 2 }, 2, 0, by decide +kernel⟩
theorem test_PairingCommandsComplete_3 : ∃ (s : State) (n : Nat) (h : FlitHead) (k : BitVec 512), s.accepts n h = true ∧ (s.link n).pairing = 3
    ∧ s.linkKey = some k :=
  ⟨wLink { step := 3, pairing := 3 }, 2, wFlit, 0, by decide +kernel⟩
theorem test_PairingCommandsComplete_4 : ∃ (s : State) (n : Nat), (s.cart n).cmd = some 1 ∧ (s.link n).step = 3 ∧ (s.link n).pairing = 0
    ∧ s.sendsNow n = true :=
  ⟨{ wLink { step := 3 } with carts := [(2, { present := true, cmd := some 1 })] }, 2, by decide +kernel⟩
/-! Statement CartridgeSlotCommandsComplete. -/
theorem test_CartridgeSlotCommandsComplete_0 : ∃ (s : State) (n : Nat) (c : SeatedCart), n < 32 ∧ (s.cart n).present = false :=
  ⟨{ wLive with carts := [] }, 2, { same := false }, by decide +kernel⟩
theorem test_CartridgeSlotCommandsComplete_1 : ∃ (s : State) (n : Nat), n < 32 ∧ (s.cart n).present = true :=
  ⟨{ wLive with pins := { cprsnt := [(2, true)] }, intc := { quiet := false } }, 2, by decide +kernel⟩
theorem test_CartridgeSlotCommandsComplete_2 : ∃ (s : State) (n : Nat), n < 32 ∧ (s.cart n).present = true ∧ s.intc.quiet = false :=
  ⟨{ wLive with intc := { quiet := false } }, 2, by decide +kernel⟩
theorem test_CartridgeSlotCommandsComplete_3 : ∃ (s : State) (m : Nat) (n : Nat), n < 32 ∧ s.mayWrite m (0x120004 + 2048 * n) = true ∧ isMgmt m = true
    ∧ s.getF (CAR.CMD_STATUS_BUSY n) = 0 ∧ (s.cart n).present = true ∧ (s.cart n).adopted = false ∧ (s.cart n).adopt ∈ [5, 6, 7, 11, 12] :=
  ⟨{ wLive with carts := [(2, { present := true, adopt := 5 })] }, 32, 2, by decide +kernel⟩
theorem test_CartridgeSlotCommandsComplete_4 : ∃ (s : State) (m : Nat) (n : Nat), n < 32 ∧ s.mayWrite m (0x120004 + 2048 * n) = true ∧ isMgmt m = true
    ∧ s.getF (CAR.CMD_STATUS_BUSY n) = 0 ∧ (s.cart n).present = true ∧ 3 ≤ (s.link n).step ∧ s.linkKey ≠ none :=
  ⟨wLive, 32, 2, by decide +kernel⟩
theorem test_CartridgeSlotCommandsComplete_5 : ∃ (s : State) (m : Nat) (n : Nat), n < 32 ∧ s.mayWrite m (0x120004 + 2048 * n) = true ∧ isMgmt m = true
    ∧ s.getF (CAR.CMD_STATUS_BUSY n) = 0 ∧ (s.cart n).prepared = true :=
  ⟨{ wLive with carts := [(2, { present := true, adopted := true, prepared := true, indicator := 2 })] }, 32, 2, by decide +kernel⟩
theorem test_CartridgeSlotCommandsComplete_6 : ∃ (s : State) (m : Nat) (n : Nat), n < 32 ∧ s.mayWrite m (0x120004 + 2048 * n) = true
    ∧ s.getF (CAR.CMD_STATUS_BUSY n) = 0 ∧ (s.cart n).present = true ∧ (s.cart n).indicator < 2 :=
  ⟨wLive, 0, 2, by decide +kernel⟩
theorem test_CartridgeSlotCommandsComplete_7 : ∃ (s : State) (m : Nat) (n : Nat), n < 32 ∧ s.mayWrite m (0x120004 + 2048 * n) = true
    ∧ s.getF (CAR.CMD_STATUS_BUSY n) = 0 ∧ (s.cart n).present = true ∧ (s.cart n).indicator < 2 :=
  ⟨{ wLive with carts := [(2, { present := true, indicator := 1 })] }, 0, 2, by decide +kernel⟩
theorem test_CartridgeSlotCommandsComplete_8 : ∃ (s : State) (n : Nat), n < 32 ∧ (s.cart n).cmd = some 1 ∧ (s.link n).up = true
    ∧ s.start.waiting = none :=
  ⟨{ wLive with carts := [(2, { present := true, adopt := 5, cmd := some 1, ident := { setId := 9, good := true } })] }, 2, by decide +kernel⟩
/-! Statement SpoolCommandsComplete. -/
theorem test_SpoolCommandsComplete_0 : ∃ (s : State) (m : Nat) (w : Nat) (v : Word), s.mayWrite m (0x1d0010 + 4 * w) = true
    ∧ ownerOfMaster m = some (s.ownerCode (Tab.get (fun _ => 0) s.spl.sel m)) :=
  ⟨wSpool, 1, 4, 0x600005, by decide +kernel⟩
theorem test_SpoolCommandsComplete_1 : ∃ (s : State) (m : Nat) (w : Nat) (v : Word), s.mayWrite m (0x1d0010 + 4 * w) = true
    ∧ ownerOfMaster m ≠ some (s.ownerCode (Tab.get (fun _ => 0) s.spl.sel m)) :=
  ⟨wSpool, 0, 4, 0x600005, by decide +kernel⟩
theorem test_SpoolCommandsComplete_2 : ∃ (s : State) (m : Nat) (v : Word) (n : Nat), s.mayWrite m 0x1d0000 = true ∧ v.toNat / 2 ^ 17 % 8192 = n
    ∧ ownerOfMaster m = some (s.ownerCode n) ∧ (s.ctx n).state = 1 ∧ n < 4096
    ∧ (s.ctx n).used ≤ (v.toNat % 2 ^ 17 + 2 * (s.ctx n).entries - (s.ctx n).head) % (2 * (s.ctx n).entries)
    ∧ (v.toNat % 2 ^ 17 + 2 * (s.ctx n).entries - (s.ctx n).head) % (2 * (s.ctx n).entries) ≤ (s.ctx n).entries :=
  ⟨wSpool, 1, 0x2000003, 256, by decide +kernel⟩
theorem test_SpoolCommandsComplete_3 : ∃ (s : State) (m : Nat) (v : Word) (n : Nat), s.mayWrite m 0x1d0000 = true ∧ v.toNat / 2 ^ 17 % 8192 = n
    ∧ ownerOfMaster m = some (s.ownerCode n) ∧ (s.ctx n).state = 1 ∧ 4096 ≤ n
    ∧ (v.toNat % 2 ^ 17 + 2 * (s.ctx n).entries - (s.ctx n).head) % (2 * (s.ctx n).entries) ≤ (s.ctx n).used ∧ (s.ctx n).held = false
    ∧ (s.ctx n).dropped = 0 :=
  ⟨wSpool, 1, 0x22000001, 4352, by decide +kernel⟩
theorem test_SpoolCommandsComplete_4 : ∃ (s : State) (m : Nat) (v : Word) (n : Nat), s.mayWrite m 0x1d0000 = true ∧ v.toNat / 2 ^ 17 % 8192 = n
    ∧ ownerOfMaster m = some (s.ownerCode n) ∧ (s.ctx n).state = 1
    ∧ ((if n < 4096 then (v.toNat % 2 ^ 17 + 2 * (s.ctx n).entries - (s.ctx n).head) % (2 * (s.ctx n).entries) < (s.ctx n).used ∨ (s.ctx n).entries < (v.toNat % 2 ^ 17 + 2 * (s.ctx n).entries - (s.ctx n).head) % (2 * (s.ctx n).entries) else (s.ctx n).used < (v.toNat % 2 ^ 17 + 2 * (s.ctx n).entries - (s.ctx n).head) % (2 * (s.ctx n).entries))) :=
  ⟨wSpool, 1, 0x2000013, 256, by decide +kernel⟩
theorem test_SpoolCommandsComplete_5 : ∃ (s : State) (m : Nat) (v : Word) (n : Nat), s.mayWrite m 0x1d0000 = true ∧ v.toNat / 2 ^ 17 % 8192 = n
    ∧ (ownerOfMaster m ≠ some (s.ownerCode n) ∨ (s.ctx n).state ≠ 1) :=
  ⟨wSpool, 0, 0x2000003, 256, by decide +kernel⟩
theorem test_SpoolCommandsComplete_6 : ∃ (s : State) (n : Nat), 4096 ≤ n ∧ n < 8192 ∧ (s.ctx n).state = 1 ∧ (s.ctx n).pkts ≠ 0 ∧ (s.ctx n).stale ≠ 0
    ∧ (s.ctx n).timer = true ∧ (s.ctx n).armed = true :=
  ⟨wSpool, 4352, by decide +kernel⟩
theorem test_SpoolCommandsComplete_7 : ∃ (s : State) (n : Nat), 4096 ≤ n ∧ n < 8192 ∧ (s.ctx n).state = 1 ∧ (s.ctx n).pkts ≠ 0 ∧ (s.ctx n).stale ≠ 0
    ∧ (s.ctx n).timer = true ∧ (s.ctx n).armed = false :=
  ⟨wSpool.setCtx 4352 { wSpool.ctx 4352 with armed := false }, 4352, by decide +kernel⟩
/-! Statement DataMoverOpsStart. -/
theorem test_DataMoverOpsStart_0 : ∃ (s : State) (n : Nat) (d : Desc), readDesc (s.spoolBytes ((s.ctx n).base + (s.ctx n).head % (s.ctx n).entries * 64) 64) = d
    ∧ s.mayStartOp n 1 d true = true ∧ s.spoolBad ((s.ctx n).base + (s.ctx n).head % (s.ctx n).entries * 64) 64 = false :=
  ⟨wSubmit 1, 256, readDesc (wDesc 1), by decide +kernel⟩
theorem test_DataMoverOpsStart_1 : ∃ (s : State) (n : Nat) (d : Desc), readDesc (s.spoolBytes ((s.ctx n).base + (s.ctx n).head % (s.ctx n).entries * 64) 64) = d
    ∧ s.mayStartOp n 2 d true = true ∧ s.spoolBad ((s.ctx n).base + (s.ctx n).head % (s.ctx n).entries * 64) 64 = false :=
  ⟨wSubmit 2, 256, readDesc (wDesc 2), by decide +kernel⟩
theorem test_DataMoverOpsStart_2 : ∃ (s : State) (n : Nat) (d : Desc), readDesc (s.spoolBytes ((s.ctx n).base + (s.ctx n).head % (s.ctx n).entries * 64) 64) = d
    ∧ s.mayStartOp n 3 d true = true ∧ s.spoolBad ((s.ctx n).base + (s.ctx n).head % (s.ctx n).entries * 64) 64 = false :=
  ⟨wSubmit 3, 256, readDesc (wDesc 3), by decide +kernel⟩
theorem test_DataMoverOpsStart_3 : ∃ (s : State) (n : Nat) (d : Desc), readDesc (s.spoolBytes ((s.ctx n).base + (s.ctx n).head % (s.ctx n).entries * 64) 64) = d
    ∧ s.mayStartOp n 4 d true = true ∧ s.spoolBad ((s.ctx n).base + (s.ctx n).head % (s.ctx n).entries * 64) 64 = false :=
  ⟨wSubmit 4, 256, readDesc (wDesc 4), by decide +kernel⟩
theorem test_DataMoverOpsStart_4 : ∃ (s : State) (n : Nat) (d : Desc), readDesc (s.spoolBytes ((s.ctx n).base + (s.ctx n).head % (s.ctx n).entries * 64) 64) = d
    ∧ s.mayStartOp n 5 d true = true ∧ s.spoolBad ((s.ctx n).base + (s.ctx n).head % (s.ctx n).entries * 64) 64 = false :=
  ⟨wSubmit 5, 256, readDesc (wDesc 5), by decide +kernel⟩
theorem test_DataMoverOpsStart_5 : ∃ (s : State) (n : Nat) (d : Desc), readDesc (s.spoolBytes ((s.ctx n).base + (s.ctx n).head % (s.ctx n).entries * 64) 64) = d
    ∧ s.mayStartOp n 6 d true = true ∧ s.spoolBad ((s.ctx n).base + (s.ctx n).head % (s.ctx n).entries * 64) 64 = false :=
  ⟨wSubmit 6, 256, readDesc (wDesc 6), by decide +kernel⟩
theorem test_DataMoverOpsStart_6 : ∃ (s : State) (n : Nat) (d : Desc), readDesc (s.spoolBytes ((s.ctx n).base + (s.ctx n).head % (s.ctx n).entries * 64) 64) = d
    ∧ s.mayStartOp n 7 d true = true ∧ s.spoolBad ((s.ctx n).base + (s.ctx n).head % (s.ctx n).entries * 64) 64 = false :=
  ⟨wSubmit 7, 256, readDesc (wDesc 7), by decide +kernel⟩
theorem test_DataMoverOpsStart_7 : ∃ (s : State) (n : Nat) (d : Desc), readDesc (s.spoolBytes ((s.ctx n).base + (s.ctx n).head % (s.ctx n).entries * 64) 64) = d
    ∧ s.mayStartOp n 8 d true = true ∧ s.spoolBad ((s.ctx n).base + (s.ctx n).head % (s.ctx n).entries * 64) 64 = false :=
  ⟨wSubmit 8, 256, readDesc (wDesc 8), by decide +kernel⟩
theorem test_DataMoverOpsStart_8 : ∃ (s : State) (n : Nat) (d : Desc), readDesc (s.spoolBytes ((s.ctx n).base + (s.ctx n).head % (s.ctx n).entries * 64) 64) = d
    ∧ s.mayStartOp n 9 d true = true ∧ s.spoolBad ((s.ctx n).base + (s.ctx n).head % (s.ctx n).entries * 64) 64 = false :=
  ⟨wSubmit 9, 256, readDesc (wDesc 9), by decide +kernel⟩
theorem test_DataMoverOpsStart_9 : ∃ (s : State) (n : Nat) (d : Desc), readDesc (s.spoolBytes ((s.ctx n).base + (s.ctx n).head % (s.ctx n).entries * 64) 64) = d
    ∧ s.mayStartOp n 10 d true = true ∧ s.spoolBad ((s.ctx n).base + (s.ctx n).head % (s.ctx n).entries * 64) 64 = false :=
  ⟨wSubmit 10, 256, readDesc (wDesc 10), by decide +kernel⟩
theorem test_DataMoverOpsStart_10 : ∃ (s : State) (n : Nat) (d : Desc), readDesc (s.spoolBytes ((s.ctx n).base + (s.ctx n).head % (s.ctx n).entries * 64) 64) = d
    ∧ s.mayStartOp n 11 d true = true ∧ s.spoolBad ((s.ctx n).base + (s.ctx n).head % (s.ctx n).entries * 64) 64 = false :=
  ⟨wSubmit 11, 256, readDesc (wDesc 11), by decide +kernel⟩
theorem test_DataMoverOpsStart_11 : ∃ (s : State) (n : Nat) (d : Desc), readDesc (s.spoolBytes ((s.ctx n).base + (s.ctx n).head % (s.ctx n).entries * 64) 64) = d
    ∧ s.mayStartOp n 12 d true = true ∧ s.spoolBad ((s.ctx n).base + (s.ctx n).head % (s.ctx n).entries * 64) 64 = false :=
  ⟨wSubmit 12, 256, readDesc (wDesc 12), by decide +kernel⟩
theorem test_DataMoverOpsStart_12 : ∃ (s : State) (n : Nat) (d : Desc), readDesc (s.spoolBytes ((s.ctx n).base + (s.ctx n).head % (s.ctx n).entries * 64) 64) = d
    ∧ s.mayStartOp n 13 d true = true ∧ s.spoolBad ((s.ctx n).base + (s.ctx n).head % (s.ctx n).entries * 64) 64 = false :=
  ⟨wSubmit 13, 256, readDesc (wDesc 13), by decide +kernel⟩
theorem test_DataMoverOpsStart_13 : ∃ (s : State) (n : Nat) (d : Desc), readDesc (s.spoolBytes ((s.ctx n).base + (s.ctx n).head % (s.ctx n).entries * 64) 64) = d
    ∧ s.mayStartOp n 14 d true = true ∧ s.spoolBad ((s.ctx n).base + (s.ctx n).head % (s.ctx n).entries * 64) 64 = false :=
  ⟨wSubmit 14, 256, readDesc (wDesc 14), by decide +kernel⟩
theorem test_DataMoverOpsStart_14 : ∃ (s : State) (n : Nat) (d : Desc), readDesc (s.spoolBytes ((s.ctx n).base + (s.ctx n).head % (s.ctx n).entries * 64) 64) = d
    ∧ s.mayStartOp n 15 d true = true ∧ s.spoolBad ((s.ctx n).base + (s.ctx n).head % (s.ctx n).entries * 64) 64 = false :=
  ⟨wSubmit 15, 256, readDesc (wDesc 15), by decide +kernel⟩
theorem test_DataMoverOpsStart_15 : ∃ (s : State) (n : Nat) (d : Desc), readDesc (s.spoolBytes ((s.ctx n).base + (s.ctx n).head % (s.ctx n).entries * 64) 64) = d
    ∧ s.mayStartOp n 16 d true = true ∧ s.spoolBad ((s.ctx n).base + (s.ctx n).head % (s.ctx n).entries * 64) 64 = false :=
  ⟨wSubmit 16, 256, readDesc (wDesc 16), by decide +kernel⟩
theorem test_DataMoverOpsStart_16 : ∃ (s : State) (n : Nat) (d : Desc), readDesc (s.spoolBytes ((s.ctx n).base + (s.ctx n).head % (s.ctx n).entries * 64) 64) = d
    ∧ s.mayStartOp n 17 d true = true ∧ s.spoolBad ((s.ctx n).base + (s.ctx n).head % (s.ctx n).entries * 64) 64 = false :=
  ⟨wSubmit 17, 256, readDesc (wDesc 17), by decide +kernel⟩
theorem test_DataMoverOpsStart_17 : ∃ (s : State) (n : Nat) (d : Desc), readDesc (s.spoolBytes ((s.ctx n).base + (s.ctx n).head % (s.ctx n).entries * 64) 64) = d
    ∧ s.mayStartOp n 18 d true = true ∧ s.spoolBad ((s.ctx n).base + (s.ctx n).head % (s.ctx n).entries * 64) 64 = false :=
  ⟨wSubmit 18, 256, readDesc (wDesc 18), by decide +kernel⟩
theorem test_DataMoverOpsStart_18 : ∃ (s : State) (n : Nat), s.mayStartOp n 1 (readDesc (s.spoolBytes ((s.ctx n).base + (s.ctx n).head % (s.ctx n).entries * 64) 64)) false = true :=
  ⟨wSubmit 5, 256, by decide +kernel⟩
/-! Statement DataMoverLinesComplete. -/
theorem test_DataMoverLinesComplete_0 : ∃ (s : State) (op : Nat) (o : OpRun) (ka : Nat) (kb : Nat) (wrote : Bool), s.opOf op = some o ∧ o.desc.op = 1
    ∧ o.status = none ∧ o.closing = none ∧ s.flush.stopped = false ∧ s.halted = false ∧ s.lineStop o.owner (State.srcLine o) false = none
    ∧ s.lineStop o.owner (State.dstLine o) true = none ∧ s.sharedOf (State.srcLine o) = false ∧ s.sealBit (State.srcLine o) = false
    ∧ (∀ r ∈ s.reqs, r.line ≠ (State.srcLine o)) ∧ s.findPent (State.srcLine o) = none ∧ s.findWay (State.srcLine o) = some ka ∧ s.integ.inj = none
    ∧ s.cipherFault = false ∧ s.sharedOf (State.dstLine o) = false ∧ s.flush.clean = none ∧ (∀ x ∈ s.ham.holding, x.code ≠ 0x0802)
    ∧ s.sealedLine (State.dstLine o) = false ∧ (∀ r ∈ s.reqs, r.line ≠ (State.dstLine o)) ∧ s.writesThrough (State.dstLine o) = false
    ∧ s.findPent (State.dstLine o) = none ∧ s.findWay (State.dstLine o) = some kb ∧ s.throughOpen (State.dstLine o) = false
    ∧ (s.dirtyIn (State.dstLine o) = true ∨ s.budgetRoom (sliceOf (State.dstLine o)) = true) := by
  refine ⟨{ wCached with spl := { ops := [(wOp 1)] } }, 9, (wOp 1), 251658240, 301989888, true, ?_⟩
  refine ⟨rfl, ?_⟩
  iterate 11 refine ⟨by decide +kernel, ?_⟩
  refine ⟨rfl, ?_⟩
  iterate 9 refine ⟨by decide +kernel, ?_⟩
  refine ⟨rfl, ?_⟩
  decide +kernel
theorem test_DataMoverLinesComplete_1 : ∃ (s : State) (op : Nat) (o : OpRun) (k : Nat) (wrote : Bool), s.opOf op = some o ∧ o.desc.op = 2
    ∧ o.status = none ∧ o.closing = none ∧ s.flush.stopped = false ∧ s.halted = false ∧ s.lineStop o.owner (State.dstLine o) true = none
    ∧ s.sharedOf (State.dstLine o) = false ∧ s.flush.clean = none ∧ (∀ x ∈ s.ham.holding, x.code ≠ 0x0802) ∧ s.sealedLine (State.dstLine o) = false
    ∧ (∀ r ∈ s.reqs, r.line ≠ (State.dstLine o)) ∧ s.writesThrough (State.dstLine o) = false ∧ s.findPent (State.dstLine o) = none
    ∧ s.findWay (State.dstLine o) = some k ∧ s.throughOpen (State.dstLine o) = false
    ∧ (s.dirtyIn (State.dstLine o) = true ∨ s.budgetRoom (sliceOf (State.dstLine o)) = true) ∧ s.integ.inj = none ∧ s.cipherFault = false := by
  refine ⟨{ wCached with spl := { ops := [(wOp 2)] } }, 9, (wOp 2), 301989888, true, ?_⟩
  refine ⟨rfl, ?_⟩
  iterate 13 refine ⟨by decide +kernel, ?_⟩
  refine ⟨rfl, ?_⟩
  decide +kernel
theorem test_DataMoverLinesComplete_2 : ∃ (s : State) (op : Nat) (o : OpRun) (k : Nat) (wrote : Bool), s.opOf op = some o ∧ o.desc.op = 2
    ∧ o.status = none ∧ o.closing = none ∧ s.flush.stopped = false ∧ s.halted = false ∧ s.lineStop o.owner (State.dstLine o) true = none
    ∧ s.sharedOf (State.dstLine o) = false ∧ s.flush.clean = none ∧ (∀ x ∈ s.ham.holding, x.code ≠ 0x0802) ∧ s.sealedLine (State.dstLine o) = false
    ∧ (∀ r ∈ s.reqs, r.line ≠ (State.dstLine o)) ∧ s.writesThrough (State.dstLine o) = false ∧ s.findPent (State.dstLine o) = none
    ∧ s.findWay (State.dstLine o) = some k ∧ s.throughOpen (State.dstLine o) = false
    ∧ (s.dirtyIn (State.dstLine o) = true ∨ s.budgetRoom (sliceOf (State.dstLine o)) = true) ∧ s.integ.inj = none ∧ s.cipherFault = false
    ∧ o.next + 1 = o.desc.len ∧ o.backs = [] ∧ o.swatches = [] ∧ o.bolts = [] ∧ o.todo = [] ∧ o.cands = [] := by
  refine ⟨{ wCached with spl := { ops := [(wOp 2)] } }, 9, (wOp 2), 301989888, true, ?_⟩
  refine ⟨rfl, ?_⟩
  iterate 13 refine ⟨by decide +kernel, ?_⟩
  refine ⟨rfl, ?_⟩
  decide +kernel
theorem test_DataMoverLinesComplete_3 : ∃ (s : State) (op : Nat) (o : OpRun) (u : State) (c : Nat) (wrote : Bool), s.opOf op = some o
    ∧ (o.desc.op = 1 ∨ o.desc.op = 6 ∨ o.desc.op = 17) ∧ o.status = none ∧ o.closing = none ∧ s.flush.stopped = false ∧ s.halted = false
    ∧ s.lineStop o.owner (State.srcLine o) false = some (u, c) := by
  refine ⟨wDeniedAt, 9, wDenied, ((wDeniedAt.lineStop wDenied.owner (State.srcLine wDenied) false).getD (wCached, 0)).1, ((wDeniedAt.lineStop wDenied.owner (State.srcLine wDenied) false).getD (wCached, 0)).2, true, rfl, ?_, ?_, ?_, ?_, ?_, some_getD (d := (wCached, 0)) (by decide +kernel)⟩ <;> decide +kernel
theorem test_DataMoverLinesComplete_4 : ∃ (s : State) (op : Nat) (o : OpRun) (wrote : Bool), s.opOf op = some o
    ∧ (o.status.isSome = true ∨ s.flushHolds o = true ∨ s.halted = true) :=
  ⟨{ wCached with spl := { ops := [{ wOp 2 with status := some 0 }] } }, 9, { wOp 2 with status := some 0 }, true, rfl, by decide +kernel⟩
theorem test_DataMoverLinesComplete_5 : ∃ (s : State) (op : Nat) (o : OpRun) (k : Nat) (wrote : Bool), s.opOf op = some o ∧ o.desc.op = 6
    ∧ o.status = none ∧ o.closing = none ∧ s.flush.stopped = false ∧ s.halted = false ∧ s.lineStop o.owner (State.srcLine o) false = none
    ∧ s.sharedOf (State.srcLine o) = false ∧ s.sealBit (State.srcLine o) = false ∧ (∀ r ∈ s.reqs, r.line ≠ (State.srcLine o))
    ∧ s.findPent (State.srcLine o) = none ∧ s.findWay (State.srcLine o) = some k ∧ s.integ.inj = none ∧ s.cipherFault = false := by
  refine ⟨{ wCached with spl := { ops := [(wOp 6)] } }, 9, (wOp 6), 251658240, true, ?_⟩
  refine ⟨rfl, ?_⟩
  iterate 10 refine ⟨by decide +kernel, ?_⟩
  refine ⟨rfl, ?_⟩
  decide +kernel
theorem test_DataMoverLinesComplete_6 : ∃ (s : State) (op : Nat) (o : OpRun) (k : Nat) (wrote : Bool), s.opOf op = some o ∧ o.desc.op = 17
    ∧ o.status = none ∧ o.closing = none ∧ s.flush.stopped = false ∧ s.halted = false ∧ s.lineStop o.owner (State.srcLine o) false = none
    ∧ s.sharedOf (State.srcLine o) = false ∧ s.sealBit (State.srcLine o) = false ∧ (∀ r ∈ s.reqs, r.line ≠ (State.srcLine o))
    ∧ s.findPent (State.srcLine o) = none ∧ s.findWay (State.srcLine o) = some k ∧ s.integ.inj = none ∧ s.cipherFault = false
    ∧ (s.way k).val.poison = false ∧ tagOk (s.way k).val (State.srcLine o) false = true := by
  refine ⟨{ wCached with spl := { ops := [(wOp 17)] } }, 9, (wOp 17), 251658240, true, ?_⟩
  refine ⟨rfl, ?_⟩
  iterate 10 refine ⟨by decide +kernel, ?_⟩
  refine ⟨rfl, ?_⟩
  iterate 3 refine ⟨by decide +kernel, ?_⟩
  exact tagOk_mkLine _ _ _ _
theorem test_DataMoverLinesComplete_7 : ∃ (s : State) (op : Nat) (o : OpRun) (k : Nat) (wrote : Bool), s.opOf op = some o ∧ o.desc.op = 17
    ∧ o.status = none ∧ o.closing = none ∧ s.flush.stopped = false ∧ s.halted = false ∧ s.lineStop o.owner (State.srcLine o) false = none
    ∧ s.sharedOf (State.srcLine o) = false ∧ s.sealBit (State.srcLine o) = false ∧ (∀ r ∈ s.reqs, r.line ≠ (State.srcLine o))
    ∧ s.findPent (State.srcLine o) = none ∧ s.findWay (State.srcLine o) = some k ∧ s.integ.inj = none ∧ s.cipherFault = false
    ∧ (s.way k).val.poison = true := by
  refine ⟨{ wCached with cache := { lining := [(251658240, { line := 5, valid := true, val := { mkLine 7 5 false false with poison := true } })] }, spl := { ops := [wOp 17] } }, 9, wOp 17, 251658240, true, ?_⟩
  refine ⟨rfl, ?_⟩
  iterate 10 refine ⟨by decide +kernel, ?_⟩
  refine ⟨rfl, ?_⟩
  decide +kernel
theorem test_DataMoverLinesComplete_8 : ∃ (s : State) (op : Nat) (o : OpRun) (u : State) (sum : ScrubSum) (b : Bool) (wrote : Bool), s.opOf op = some o
    ∧ o.desc.op = 4 ∧ o.status = none ∧ o.closing = none ∧ s.flush.stopped = false ∧ s.halted = false ∧ o.cands = [] ∧ dA o.desc = false
    ∧ s.lineStop o.owner (State.srcLine o) false = none
    ∧ s.scrubLine (State.srcLine o) (State.ldOfOwner o.owner) { o.sum with mark := false } = some (u, sum, b) := by
  refine ⟨wScrubAt, 9, wOp 4, ((wScrubAt.scrubLine (State.srcLine (wOp 4)) (State.ldOfOwner (wOp 4).owner) { (wOp 4).sum with mark := false }).getD (wCached, {}, false)).1, ((wScrubAt.scrubLine (State.srcLine (wOp 4)) (State.ldOfOwner (wOp 4).owner) { (wOp 4).sum with mark := false }).getD (wCached, {}, false)).2.1, ((wScrubAt.scrubLine (State.srcLine (wOp 4)) (State.ldOfOwner (wOp 4).owner) { (wOp 4).sum with mark := false }).getD (wCached, {}, false)).2.2, true, rfl, ?_, ?_, ?_, ?_, ?_, ?_, ?_, ?_, some_getD (d := (wCached, {}, false)) (by decide +kernel)⟩ <;> decide +kernel
theorem test_DataMoverLinesComplete_9 : ∃ (s : State) (op : Nat) (o : OpRun) (wrote : Bool), s.opOf op = some o ∧ o.desc.op = 18 ∧ o.status = none
    ∧ o.closing = none ∧ s.flush.stopped = false ∧ s.halted = false ∧ (o.owner = 16 ∨ s.hasRight (State.spoolSet o.owner) rightDebug = true)
    ∧ s.getF PMC.SAMPLE_STATUS_COUNT ≠ 0 :=
  ⟨{ wCached with spl := { ops := [wOp 18] }, pmc := { ring := [(0, [1, 2, 3])] } }.setF PMC.SAMPLE_STATUS_COUNT 1, 9, wOp 18, true, rfl, by decide +kernel⟩
/-! Statement DataMoverCacheOpsComplete. -/
theorem test_DataMoverCacheOpsComplete_0 : ∃ (s : State) (op : Nat) (o : OpRun) (wrote : Bool), s.opOf op = some o ∧ o.desc.op = 5 ∧ o.status = none
    ∧ o.closing = none ∧ s.flush.stopped = false ∧ s.halted = false ∧ o.sub = 0 ∧ (∀ r ∈ s.reqs, r.stage ≠ .buffered) :=
  ⟨{ wCached with cache := { lining := [(251658240, { line := 5, valid := true, dirty := true, val := mkLine 7 5 false false })] }, spl := { ops := [wOp 5] } }, 9, wOp 5, true, rfl, by decide +kernel⟩
theorem test_DataMoverCacheOpsComplete_1 : ∃ (s : State) (op : Nat) (o : OpRun) (n : Nat) (wrote : Bool), s.opOf op = some o ∧ o.desc.op = 7
    ∧ o.status = none ∧ o.closing = none ∧ s.flush.stopped = false ∧ s.halted = false
    ∧ s.lineStop o.owner (64 * swatchOf (State.srcLine o)) false = none ∧ s.pcuOff = false ∧ s.pentOfSwatch (swatchOf (State.srcLine o)) = some n
    ∧ (s.pent n).filling = false ∧ dA o.desc = false :=
  ⟨{ wPinned with spl := { ops := [wOp 7] } }, 9, wOp 7, 3, true, by decide +kernel⟩
theorem test_DataMoverCacheOpsComplete_2 : ∃ (s : State) (op : Nat) (o : OpRun) (n : Nat) (wrote : Bool), s.opOf op = some o ∧ o.desc.op = 7
    ∧ o.status = none ∧ o.closing = none ∧ s.flush.stopped = false ∧ s.halted = false
    ∧ s.lineStop o.owner (64 * swatchOf (State.srcLine o)) false = none ∧ s.pcuOff = false ∧ s.pentOfSwatch (swatchOf (State.srcLine o)) = none
    ∧ o.sub = 0 ∧ (∀ i : Nat, i < 64 → s.sharedOf (State.srcLine o + i) = false)
    ∧ s.cache.pcu.any (fun e => decide (64 ≤ e.1) && e.2.swatch == swatchOf (State.srcLine o)) = false ∧ s.pinVictim (dA o.desc) = some n :=
  ⟨{ wPinned with cache := { pcu := [(3, { swatch := 1, valid := 255 })] }, spl := { ops := [wOp 7] } }, 9, wOp 7, 0, true, by decide +kernel⟩
theorem test_DataMoverCacheOpsComplete_3 : ∃ (s : State) (op : Nat) (o : OpRun) (n : Nat) (wrote : Bool), s.opOf op = some o ∧ o.desc.op = 7
    ∧ o.status = none ∧ o.closing = none ∧ s.flush.stopped = false ∧ s.halted = false
    ∧ s.lineStop o.owner (64 * swatchOf (State.srcLine o)) false = none ∧ s.pcuOff = false ∧ s.pentOfSwatch (swatchOf (State.srcLine o)) = some n
    ∧ (s.pent n).filling = false ∧ dA o.desc = true ∧ s.lockedEntries < 48 :=
  ⟨{ wPinned with spl := { ops := [{ wOp 7 with desc := { (wOp 7).desc with flags := 8 } }] } }, 9, { wOp 7 with desc := { (wOp 7).desc with flags := 8 } }, 3, true, by decide +kernel⟩
theorem test_DataMoverCacheOpsComplete_4 : ∃ (s : State) (op : Nat) (o : OpRun) (n : Nat) (wrote : Bool), s.opOf op = some o ∧ o.desc.op = 8
    ∧ o.status = none ∧ o.closing = none ∧ s.flush.stopped = false ∧ s.halted = false
    ∧ s.lineStop o.owner (64 * swatchOf (State.srcLine o)) false = none ∧ s.pentOfSwatch (swatchOf (State.srcLine o)) = some n
    ∧ (s.pent n).filling = false :=
  ⟨{ wPinned with spl := { ops := [wOp 8] } }, 9, wOp 8, 3, true, by decide +kernel⟩
theorem test_DataMoverCacheOpsComplete_5 : ∃ (s : State) (op : Nat) (o : OpRun) (k : Nat) (wrote : Bool), s.opOf op = some o ∧ o.desc.op = 9
    ∧ o.status = none ∧ o.closing = none ∧ s.flush.stopped = false ∧ s.halted = false ∧ dA o.desc = false ∧ o.next = 0
    ∧ s.lineStop o.owner (State.srcLine o) false = none ∧ s.cache.lockRanges.length < 256 ∧ s.sharedOf (State.srcLine o) = false
    ∧ (∀ r ∈ s.reqs, r.line ≠ (State.srcLine o)) ∧ s.findWay (State.srcLine o) = some k ∧ s.findPent (State.srcLine o) = none ∧ s.linOff = false
    ∧ ((s.way k).lock = true ∨ s.lockedWays (k / 16) < 4) := by
  refine ⟨{ wCached with spl := { ops := [(wOp 9)] } }, 9, (wOp 9), 251658240, true, ?_⟩
  refine ⟨rfl, ?_⟩
  iterate 11 refine ⟨by decide +kernel, ?_⟩
  refine ⟨rfl, ?_⟩
  decide +kernel
theorem test_DataMoverCacheOpsComplete_6 : ∃ (s : State) (op : Nat) (o : OpRun) (k : Nat) (wrote : Bool), s.opOf op = some o ∧ o.desc.op = 9
    ∧ o.status = none ∧ o.closing = none ∧ s.flush.stopped = false ∧ s.halted = false ∧ dA o.desc = true ∧ o.next = 0
    ∧ s.lineStop o.owner (State.srcLine o) false = none ∧ s.unlockLine (State.srcLine o) = (s.setWay k { s.way k with lock := false }, true)
    ∧ (s.way k).valid = true ∧ (s.way k).lock = true := by
  refine ⟨wUnlockAt, 9, wUnlockOp, 251658240, true, rfl, ?_, ?_, ?_, ?_, ?_, ?_, ?_, ?_, wUnlockAt_unlockLine, ?_⟩ <;> decide +kernel
theorem test_DataMoverCacheOpsComplete_7 : ∃ (s : State) (op : Nat) (o : OpRun) (wrote : Bool), s.opOf op = some o ∧ o.desc.op = 10 ∧ o.status = none
    ∧ o.closing = none ∧ s.flush.stopped = false ∧ s.halted = false ∧ s.lineStop o.owner (State.srcLine o) false = none
    ∧ (∀ r ∈ s.reqs, r.line ≠ (State.srcLine o)) ∧ s.dirtyIn (State.srcLine o) = true ∧ s.stagingRoom (State.srcLine o) = true :=
  ⟨{ wCached with cache := { lining := [(251658240, { line := 5, valid := true, dirty := true, val := mkLine 7 5 false false })] }, spl := { ops := [wOp 10] } }, 9, wOp 10, true, rfl, by decide +kernel⟩
theorem test_DataMoverCacheOpsComplete_8 : ∃ (s : State) (op : Nat) (o : OpRun) (k : Nat) (wrote : Bool), s.opOf op = some o ∧ o.desc.op = 11
    ∧ o.status = none ∧ o.closing = none ∧ s.flush.stopped = false ∧ s.halted = false ∧ s.lineStop o.owner (State.srcLine o) true = none
    ∧ (∀ r ∈ s.reqs, r.line ≠ (State.srcLine o)) ∧ s.findPent (State.srcLine o) = none ∧ s.findWay (State.srcLine o) = some k := by
  refine ⟨{ wCached with spl := { ops := [(wOp 11)] } }, 9, (wOp 11), 251658240, true, rfl, ?_, ?_, ?_, ?_, ?_, ?_, ?_, ?_, rfl⟩ <;> decide +kernel
theorem test_DataMoverCacheOpsComplete_9 : ∃ (s : State) (op : Nat) (o : OpRun) (k : Nat) (wrote : Bool), s.opOf op = some o ∧ o.desc.op = 12
    ∧ o.status = none ∧ o.closing = none ∧ s.flush.stopped = false ∧ s.halted = false ∧ s.lineStop o.owner (State.srcLine o) true = none
    ∧ (∀ r ∈ s.reqs, r.line ≠ (State.srcLine o)) ∧ s.findPent (State.srcLine o) = none ∧ s.findWay (State.srcLine o) = some k
    ∧ s.dirtyIn (State.srcLine o) = false ∧ s.backsOf (State.srcLine o) = [] := by
  refine ⟨{ wCached with spl := { ops := [(wOp 12)] } }, 9, (wOp 12), 251658240, true, rfl, ?_, ?_, ?_, ?_, ?_, ?_, ?_, ?_, rfl, ?_⟩ <;> decide +kernel
/-! Statement DataMoverMediaOpsComplete. -/
theorem test_DataMoverMediaOpsComplete_0 : ∃ (s : State) (op : Nat) (o : OpRun) (u : State) (n : Nat) (wrote : Bool), s.opOf op = some o
    ∧ o.desc.op = 3 ∧ o.status = none ∧ o.closing = none ∧ s.flush.stopped = false ∧ s.halted = false ∧ o.next = 0 ∧ s.swatchSpan o true = (u, n, 0)
    ∧ n ≠ 0 := by
  refine ⟨wDiscardAt, 9, wOp 3, (wDiscardAt.swatchSpan (wOp 3) true).1, 1, true, ?_, ?_, ?_, ?_, ?_, ?_, ?_, snd_eq (by decide +kernel), ?_⟩ <;> decide +kernel
theorem test_DataMoverMediaOpsComplete_1 : ∃ (s : State) (op : Nat) (o : OpRun) (wrote : Bool), s.opOf op = some o ∧ o.desc.op = 13 ∧ o.status = none
    ∧ o.closing = none ∧ s.flush.stopped = false ∧ s.halted = false ∧ s.lineStop o.owner (64 * (swatchOf (State.srcLine o))) true = none
    ∧ s.livePatches (swatchOf (State.srcLine o)) ≠ 0 ∧ s.darnRoom (swatchOf (State.srcLine o)) = true :=
  ⟨{ wCached with xlt := { index := [(5, some { line := 5, psa := 8, slot := 0, poison := false, stamp := 7 })] }, spl := { ops := [wOp 13] } }, 9, wOp 13, true, rfl, by decide +kernel⟩
theorem test_DataMoverMediaOpsComplete_2 : ∃ (s : State) (op : Nat) (o : OpRun) (wrote : Bool), s.opOf op = some o ∧ o.desc.op = 13 ∧ o.status = none
    ∧ o.closing = none ∧ s.flush.stopped = false ∧ s.halted = false ∧ s.lineStop o.owner (64 * (swatchOf (State.srcLine o))) true = none
    ∧ s.livePatches (swatchOf (State.srcLine o)) = 0 :=
  ⟨{ wCached with spl := { ops := [(wOp 13)] } }, 9, (wOp 13), true, rfl, by decide +kernel⟩
theorem test_DataMoverMediaOpsComplete_3 : ∃ (s : State) (op : Nat) (o : OpRun) (a : Nat), s.opOf op = some o ∧ o.desc.op = 14 ∧ o.status = none
    ∧ o.closing = none ∧ s.flush.stopped = false ∧ s.halted = false ∧ o.sub = 0 ∧ o.next = 0 ∧ s.rekeyKey o = some a :=
  ⟨wRekey, 9, wRekeyOp, 0, by decide +kernel⟩
theorem test_DataMoverMediaOpsComplete_4 : ∃ (s : State) (op : Nat) (o : OpRun) (wrote : Bool), s.opOf op = some o ∧ o.desc.op = 15 ∧ o.status = none
    ∧ o.closing = none ∧ s.flush.stopped = false ∧ s.halted = false ∧ s.cipherFault = false ∧ o.job.bind s.jobOf = none ∧ s.transferOk o = true
    ∧ dB o.desc = false ∧ s.cip.jobs.length < 256 ∧ (o.desc.mode = 1 → Tab.get (fun _ => 0) s.cip.gcmCount o.desc.key < 2 ^ 31)
    ∧ (∀ j ∈ s.cip.jobs, j.num ≠ s.cip.nextJob) :=
  ⟨wJob 15, 9, wJobOp 15, true, rfl, by decide +kernel⟩
theorem test_DataMoverMediaOpsComplete_5 : ∃ (s : State) (op : Nat) (o : OpRun) (wrote : Bool), s.opOf op = some o ∧ o.desc.op = 16 ∧ o.status = none
    ∧ o.closing = none ∧ s.flush.stopped = false ∧ s.halted = false ∧ s.cipherFault = false ∧ o.job.bind s.jobOf = none ∧ s.transferOk o = true
    ∧ dB o.desc = false ∧ s.cip.jobs.length < 256 ∧ (o.desc.mode = 1 → Tab.get (fun _ => 0) s.cip.gcmCount o.desc.key < 2 ^ 31)
    ∧ (∀ j ∈ s.cip.jobs, j.num ≠ s.cip.nextJob) :=
  ⟨wJob 16, 9, wJobOp 16, true, rfl, by decide +kernel⟩
theorem test_DataMoverMediaOpsComplete_6 : ∃ (s : State) (op : Nat) (o : OpRun) (j : Job) (k : Nat) (wrote : Bool), s.opOf op = some o
    ∧ o.desc.op = 15 ∧ o.status = none ∧ o.closing = none ∧ s.flush.stopped = false ∧ s.halted = false ∧ s.cipherFault = false
    ∧ o.job.bind s.jobOf = some j ∧ o.sub = 0 ∧ s.lineStop o.owner (o.desc.dst / 64) true = none ∧ s.sharedOf (o.desc.dst / 64) = false
    ∧ s.flush.clean = none ∧ (∀ x ∈ s.ham.holding, x.code ≠ 0x0802) ∧ s.sealedLine (o.desc.dst / 64) = false
    ∧ (∀ r ∈ s.reqs, r.line ≠ (o.desc.dst / 64)) ∧ s.writesThrough (o.desc.dst / 64) = false ∧ s.findPent (o.desc.dst / 64) = none
    ∧ s.findWay (o.desc.dst / 64) = some k ∧ s.throughOpen (o.desc.dst / 64) = false
    ∧ (s.dirtyIn (o.desc.dst / 64) = true ∨ s.budgetRoom (sliceOf (o.desc.dst / 64)) = true) ∧ s.integ.inj = none := by
  refine ⟨wJobAt 15 0, 9, { wJobOp 15 with job := some 3 }, wJobOf 15, 301989888, true, ?_⟩
  refine ⟨rfl, ?_⟩
  iterate 6 refine ⟨by decide +kernel, ?_⟩
  refine ⟨rfl, ?_⟩
  iterate 9 refine ⟨by decide +kernel, ?_⟩
  refine ⟨rfl, ?_⟩
  decide +kernel
theorem test_DataMoverMediaOpsComplete_7 : ∃ (s : State) (op : Nat) (o : OpRun) (j : Job) (k : Nat) (wrote : Bool), s.opOf op = some o
    ∧ o.desc.op = 16 ∧ o.status = none ∧ o.closing = none ∧ s.flush.stopped = false ∧ s.halted = false ∧ s.cipherFault = false
    ∧ o.job.bind s.jobOf = some j ∧ o.sub = 0 ∧ s.lineStop o.owner (o.desc.src / 64) false = none ∧ s.sharedOf (o.desc.src / 64) = false
    ∧ s.sealBit (o.desc.src / 64) = false ∧ (∀ r ∈ s.reqs, r.line ≠ (o.desc.src / 64)) ∧ s.findPent (o.desc.src / 64) = none
    ∧ s.findWay (o.desc.src / 64) = some k ∧ s.integ.inj = none := by
  refine ⟨wJobAt 16 0, 9, { wJobOp 16 with job := some 3 }, wJobOf 16, 251658240, true, rfl, ?_, ?_, ?_, ?_, ?_, ?_, rfl, ?_, ?_, ?_, ?_, ?_, ?_, rfl, ?_⟩ <;> decide +kernel
theorem test_DataMoverMediaOpsComplete_8 : ∃ (s : State) (op : Nat) (o : OpRun) (j : Job) (ka : Nat) (kb : Nat) (a : Nat) (b : Nat) (wrote : Bool), s.opOf op = some o
    ∧ o.desc.op = 15 ∧ o.status = none ∧ o.closing = none ∧ s.flush.stopped = false ∧ s.halted = false ∧ s.cipherFault = false
    ∧ o.job.bind s.jobOf = some j ∧ o.sub = 1 ∧ a = o.desc.src / 64 + o.next ∧ b = o.desc.dst / 64 + o.next + headLines o.desc
    ∧ s.lineStop o.owner b true = none ∧ s.lineStop o.owner a false = none ∧ s.sharedOf a = false ∧ s.sealBit a = false ∧ (∀ r ∈ s.reqs, r.line ≠ a)
    ∧ s.findPent a = none ∧ s.findWay a = some ka ∧ s.integ.inj = none ∧ (s.way ka).val.poison = false ∧ tagOk (s.way ka).val a false = true
    ∧ s.sharedOf b = false ∧ s.flush.clean = none ∧ (∀ x ∈ s.ham.holding, x.code ≠ 0x0802) ∧ s.sealedLine b = false ∧ (∀ r ∈ s.reqs, r.line ≠ b)
    ∧ s.writesThrough b = false ∧ s.findPent b = none ∧ s.findWay b = some kb ∧ s.throughOpen b = false
    ∧ (s.dirtyIn b = true ∨ s.budgetRoom (sliceOf b) = true) := by
  refine ⟨wJobAt 15 1, 9, { wJobOp 15 with job := some 3, sub := 1 }, wJobOf 15, 251658240, 352321536, 5, 7, true, ?_⟩
  refine ⟨rfl, ?_⟩
  iterate 6 refine ⟨by decide +kernel, ?_⟩
  refine ⟨rfl, ?_⟩
  iterate 9 refine ⟨by decide +kernel, ?_⟩
  refine ⟨rfl, ?_⟩
  iterate 2 refine ⟨by decide +kernel, ?_⟩
  refine ⟨tagOk_mkLine _ _ _ _, ?_⟩
  iterate 7 refine ⟨by decide +kernel, ?_⟩
  refine ⟨rfl, ?_⟩
  decide +kernel
theorem test_DataMoverMediaOpsComplete_9 : ∃ (s : State) (op : Nat) (o : OpRun) (j : Job) (ka : Nat) (kb : Nat) (a : Nat) (b : Nat) (wrote : Bool), s.opOf op = some o
    ∧ o.desc.op = 16 ∧ o.status = none ∧ o.closing = none ∧ s.flush.stopped = false ∧ s.halted = false ∧ s.cipherFault = false
    ∧ o.job.bind s.jobOf = some j ∧ o.sub = 1 ∧ a = o.desc.src / 64 + o.next + headLines o.desc ∧ b = o.desc.dst / 64 + o.next
    ∧ s.lineStop o.owner b true = none ∧ s.lineStop o.owner a false = none ∧ s.sharedOf a = false ∧ s.sealBit a = false ∧ (∀ r ∈ s.reqs, r.line ≠ a)
    ∧ s.findPent a = none ∧ s.findWay a = some ka ∧ s.integ.inj = none ∧ (s.way ka).val.poison = false ∧ s.sharedOf b = false ∧ s.flush.clean = none
    ∧ (∀ x ∈ s.ham.holding, x.code ≠ 0x0802) ∧ s.sealedLine b = false ∧ (∀ r ∈ s.reqs, r.line ≠ b) ∧ s.writesThrough b = false ∧ s.findPent b = none
    ∧ s.findWay b = some kb ∧ s.throughOpen b = false ∧ (s.dirtyIn b = true ∨ s.budgetRoom (sliceOf b) = true) := by
  refine ⟨wJobAt 16 1, 9, { wJobOp 16 with job := some 3, sub := 1 }, wJobOf 16, 301989888, 352321536, 6, 7, true, ?_⟩
  refine ⟨rfl, ?_⟩
  iterate 6 refine ⟨by decide +kernel, ?_⟩
  refine ⟨rfl, ?_⟩
  iterate 9 refine ⟨by decide +kernel, ?_⟩
  refine ⟨rfl, ?_⟩
  iterate 9 refine ⟨by decide +kernel, ?_⟩
  refine ⟨rfl, ?_⟩
  decide +kernel
/-! Statement CompletionsPost. -/
theorem test_CompletionsPost_0 : ∃ (s : State) (op : Nat) (o : OpRun) (p : Nat), s.opOf op = some o ∧ o.status.isSome = true ∧ s.flush.stopped = false
    ∧ o.spool ≠ State.mailSpool ∧ (s.ctx o.spool).pair = p ∧ (s.ctx p).state = 1 ∧ (s.ctx p).used + (s.opRecord o).length ≤ (s.ctx p).entries :=
  ⟨{ wSpool with spl := { wSpool.spl with ops := [{ wOp 2 with status := some 0 }] } }, 9, { wOp 2 with status := some 0 }, 4352, by decide +kernel⟩
theorem test_CompletionsPost_1 : ∃ (s : State) (op : Nat) (o : OpRun) (p : Nat), s.opOf op = some o ∧ o.status.isSome = true ∧ s.flush.stopped = false
    ∧ o.spool ≠ State.mailSpool ∧ (s.ctx o.spool).pair = p ∧ (s.ctx p).state ≠ 1 :=
  ⟨{ wLive with spl := { ops := [{ wOp 2 with status := some 0 }] } }, 9, { wOp 2 with status := some 0 }, 0, by decide +kernel⟩
theorem test_CompletionsPost_2 : ∃ (s : State) (op : Nat) (o : OpRun), s.opOf op = some o ∧ o.status.isSome = true ∧ s.flush.stopped = false
    ∧ o.spool = State.mailSpool :=
  ⟨{ wLive with spl := { ops := [{ wOp 0x4301 with spool := 8192, status := some 1 }] } }, 9, { wOp 0x4301 with spool := 8192, status := some 1 }, by decide +kernel⟩
/-! Statement RollCallCommandsComplete. -/
theorem test_RollCallCommandsComplete_0 : ∃ (s : State) (g : GroupPlan), s.plan.group = some g ∧ s.inRing = true :=
  ⟨wRing, wGroup, by decide +kernel⟩
theorem test_RollCallCommandsComplete_1 : ∃ (s : State) (g : GroupPlan) (r : RollCall) (k : Nat), s.plan.group = some g ∧ s.inRing = true
    ∧ r.crcOk = true ∧ r.groupId = g.groupId ∧ r.index % 8 ≠ g.index ∧ r.hops + 1 < g.size :=
  ⟨wRing, wGroup, { groupId := 77, index := 9, state := 2, time := 4000, corr := 3 }, 40, by decide +kernel⟩
theorem test_RollCallCommandsComplete_2 : ∃ (s : State) (g : GroupPlan) (r : RollCall) (k : Nat), s.plan.group = some g ∧ s.inRing = true
    ∧ (r.crcOk = false ∨ r.groupId ≠ g.groupId ∨ (r.index % 8 ≠ g.index ∧ g.size ≤ r.hops + 1)) :=
  ⟨wRing, wGroup, { groupId := 78, index := 9 }, 40, by decide +kernel⟩
theorem test_RollCallCommandsComplete_3 : ∃ (s : State) (g : GroupPlan) (r : RollCall) (k : Nat), s.plan.group = some g ∧ s.inRing = true
    ∧ r.crcOk = true ∧ r.groupId = g.groupId ∧ r.index % 8 = g.index :=
  ⟨wRing, wGroup, { groupId := 77, index := 0 }, 40, by decide +kernel⟩
theorem test_RollCallCommandsComplete_4 : ∃ (s : State) (i : Nat), s.clk.awake = true ∧ i ∈ s.others ∧ (s.member i).silent = false :=
  ⟨wRing, 1, by decide +kernel⟩
/-! Statement TackAndHemComplete. -/
theorem test_TackAndHemComplete_0 : ∃ (s : State) (m : Nat) (w : Nat) (v : Word), 0x1400 ≤ w ∧ w < 0x2000 ∧ s.mayWrite m (0x34000 + 4 * w) = true
    ∧ s.kpsOk = true :=
  ⟨(wMgmt.setF KPS.STATUS_KPV_UP 1).setF KPS.STATUS_TEMP_OK 1, 32, 0x1FFF, 5, by decide +kernel⟩
theorem test_TackAndHemComplete_1 : ∃ (s : State) (m : Nat) (page : Nat), isMgmt m = true ∧ s.hasRight m rightHemWrite = true
    ∧ s.mayWrite m 0x30008 = true ∧ s.keep.prog = none ∧ page < 896 ∧ hemClosed page = false ∧ s.kpsOk = true :=
  ⟨(wMgmt.setF KPS.STATUS_KPV_UP 1).setF KPS.STATUS_TEMP_OK 1, 32, 0, by decide +kernel⟩
theorem test_TackAndHemComplete_2 : ∃ (s : State) (j : HemJob), s.keep.prog = some j :=
  ⟨{ keep := { prog := some { page := 895, bytes := List.replicate 256 7, owed := some (0, 1) } }, pins := { sclHeld := true } }, { page := 895, bytes := List.replicate 256 7, owed := some (0, 1) }, by decide +kernel⟩
theorem test_TackAndHemComplete_3 : ∃ (s : State) (j : HemJob), s.keep.prog = some j :=
  ⟨{ keep := { prog := some { page := 3 } } }, { page := 3 }, by decide +kernel⟩
theorem test_TackAndHemComplete_4 : ∃ (s : State) (m : Nat) (page : Nat), s.mayWrite m 0x30010 = true :=
  ⟨wMgmt, 0, 1023, by decide +kernel⟩
theorem test_TackAndHemComplete_5 : ∃ (s : State) (page : Nat), s.keep.load = some page ∧ s.keep.prog = none ∧ page < 896 :=
  ⟨{ keep := { load := some 895, hem := [(57281, 9)] } }, 895, by decide +kernel⟩
theorem test_TackAndHemComplete_6 : ∃ (s : State), s.getF TOP.STATE_STATE ≠ 6 ∧ s.kpsOk = true :=
  ⟨((((({ keep := { tack := [(0x1201, 0xFFFFFFFF)] } } : State).setF TOP.STATE_STATE 3)).setF KPS.STATUS_KPV_UP 1).setF KPS.STATUS_TEMP_OK 1), by decide +kernel⟩
/-! Statement HamperCommandsComplete. -/
theorem test_HamperCommandsComplete_0 : ∃ (s : State) (m : Nat) (v : Word), s.mayWrite m 0x40020 = true ∧ bit v.toNat 31 = true :=
  ⟨wMgmt, 0, 0x80000000, by decide +kernel⟩
theorem test_HamperCommandsComplete_1 : ∃ (s : State) (m : Nat) (v : Word) (r : HamRec) (f : Nat) (a : Bool), s.mayWrite m 0x40020 = true
    ∧ bit v.toNat 31 = true ∧ bits v.toNat 30 29 ≠ 3 ∧ (s.hamView (bits v.toNat 30 29))[bits v.toNat 13 0]? = some (r, f, a) :=
  ⟨{ wLive with ham := { bRead := true, bPages := [{ group := 0, mirror := false, slot := 0, bolt := 0, page := 0, recs := [{ seq := 3, src := 56, time := 9, code := 0x0801, payload := [1, 2, 3] }] }] } }, 0, 0x80000000, { seq := 3, src := 56, time := 9, code := 0x0801, payload := [1, 2, 3] }, 2, false, by decide +kernel⟩
theorem test_HamperCommandsComplete_2 : ∃ (s : State), s.ham.bOpen ≠ [] ∧ s.getF TOP.HALT_HALTED = 0
    ∧ (bitsOf 4 s.plan.groups).any (fun g => !(s.hamSlots g).isEmpty) = true :=
  ⟨{ wLive with ham := { bOpen := [{ seq := 1, src := 0, time := 0, code := 0 }] } }, by decide +kernel⟩
theorem test_HamperCommandsComplete_3 : ∃ (s : State) (sid : Nat) (x : Session), s.cip.sessions.find? (·.id == sid) = some x
    ∧ s.hasRight (33 + x.cls) rightHamperClear = true ∧ s.ham.clear = none ∧ s.kpsOk = true :=
  ⟨((({ cip := { sessions := [{ id := 1, cls := 3, root := 0, doe := false, ld := 0 }] } } : State).setF KPS.STATUS_KPV_UP 1).setF KPS.STATUS_TEMP_OK 1).setReg (0x1b0820 + 64 * 36) 0x10, 1, { id := 1, cls := 3, root := 0, doe := false, ld := 0 }, by decide +kernel⟩
theorem test_HamperCommandsComplete_4 : ∃ (s : State), s.kpsOk = true :=
  ⟨(({ ham := { holding := [{ seq := 1, src := 0, time := 0, code := 0 }] } } : State).setF KPS.STATUS_KPV_UP 1).setF KPS.STATUS_TEMP_OK 1, by decide +kernel⟩
/-! Statement PerfCommandsComplete. -/
theorem test_PerfCommandsComplete_0 : ∃ (s : State) (m : Nat), s.mayWrite m 0x60004 = true ∧ s.pmc.busy = false :=
  ⟨wMgmt, 0, by decide +kernel⟩
theorem test_PerfCommandsComplete_1 : ∃ (s : State) (m : Nat), s.mayWrite m 0x60004 = true ∧ s.pmc.busy = true :=
  ⟨{ wMgmt with pmc := { busy := true } }, 0, by decide +kernel⟩
theorem test_PerfCommandsComplete_2 : ∃ (s : State) (m : Nat), s.mayWrite m 0x60004 = true :=
  ⟨wMgmt, 0, by decide +kernel⟩
theorem test_PerfCommandsComplete_3 : ∃ (s : State), s.getF PMC.CTRL_PERIOD ≠ 0 ∧ s.pmc.busy = false :=
  ⟨State.reset.setF PMC.CTRL_PERIOD 1, by decide +kernel⟩
theorem test_PerfCommandsComplete_4 : ∃ (s : State), s.pmc.busy = true ∧ s.pmc.again = false :=
  ⟨{ pmc := { busy := true } }, by decide +kernel⟩
theorem test_PerfCommandsComplete_5 : ∃ (s : State) (m : Nat) (n : Nat), s.mayWrite m 0x6002c = true :=
  ⟨wMgmt.setF PMC.SAMPLE_STATUS_COUNT 4096, 0, 8191, by decide +kernel⟩
/-! Statement InterruptCommandsComplete. -/
theorem test_InterruptCommandsComplete_0 : ∃ (s : State) (m : Nat) (v : Word), s.mayWrite m 0x50000 = true ∧ reservedSource (v.toNat % 1024) = false
    ∧ (v.toNat % 1024 < 32 → s.hasRight m rightDebug = true) :=
  ⟨wMgmt, 0, 991, by decide +kernel⟩
theorem test_InterruptCommandsComplete_1 : ∃ (s : State) (m : Nat) (k : Nat) (v : Word), k < 17 ∧ s.mayTarget m k = true
    ∧ s.mayWrite m (0x51008 + 0x100 * k) = true ∧ s.curAt k = some (v.toNat % 1024) ∧ s.intc.unseen = [] :=
  ⟨{ wMgmt with intc := { cur := [(16, some 5)] } }, 32, 16, 5, by decide +kernel⟩
theorem test_InterruptCommandsComplete_2 : ∃ (s : State) (m : Nat) (k : Nat) (v : Word), k < 17 ∧ s.mayTarget m k = true
    ∧ s.mayWrite m (0x51008 + 0x100 * k) = true ∧ s.curAt k ≠ some (v.toNat % 1024) :=
  ⟨wMgmt, 32, 16, 5, by decide +kernel⟩
theorem test_InterruptCommandsComplete_3 : ∃ (s : State), s.pins.alertGap = true :=
  ⟨{ pins := { alertGap := true } }, by decide +kernel⟩
theorem test_InterruptCommandsComplete_4 : ∃ (s : State), s.pins.smbAlert = true :=
  ⟨{ pins := { smbAlert := true } }, by decide +kernel⟩
theorem test_InterruptCommandsComplete_5 : ∃ (s : State) (a : Nat), s.clk.awake = true :=
  ⟨{ clk := { awake := true } }, 128, by decide +kernel⟩
theorem test_InterruptCommandsComplete_6 : ∃ (s : State) (i : Nat), s.intc.quiet = true ∧ s.clk.awake = true ∧ i ∉ s.intc.episode
    ∧ (i = 1 ∨ (latchSource i).isSome = true) ∧ s.intc.fired54 = false :=
  ⟨{ clk := { awake := true } }, 95, by decide +kernel⟩
theorem test_InterruptCommandsComplete_7 : ∃ (s : State) (i : Nat), i < 96 ∧ s.intc.quiet = true ∧ s.clk.awake = true ∧ i ∉ s.intc.episode
    ∧ (i = 1 ∨ (latchSource i).isSome = true) ∧ s.intc.fired54 = true :=
  ⟨{ clk := { awake := true }, intc := { fired54 := true } }, 95, by decide +kernel⟩
theorem test_InterruptCommandsComplete_9 : ∃ (s : State), (s.clk.second + 1) % 3600 = 0 :=
  ⟨{ clk := { second := 3599 } }, by decide +kernel⟩
/-! Statement StepRunsTheFrontCommand. -/
/-! Statement EmptyQueueAdvancesTime. -/
theorem test_EmptyQueueAdvancesTime : State.reset.pending = [] ∧ State.reset.start.released = false := ⟨rfl, rfl⟩
theorem test_EmptyQueueAdvancesTime_within : wLive.pending = [] ∧ wLive.start.released = true ∧ wLive.clk.now / 1000 = (wLive.clk.now + 10) / 1000 := by decide
theorem test_EmptyQueueAdvancesTime_asleep : State.reset.pending = [] ∧ State.reset.clk.awake = false := ⟨rfl, rfl⟩
theorem test_EmptyQueueAdvancesTime_awake : wMgmt.pending = [] ∧ wMgmt.clk.awake = true ∧ wMgmt.clk.slew = 0 := ⟨rfl, rfl, rfl⟩
/-! Statement EveryCommandAnswersNext. -/
/-! Statement FrameOfHostAndControlCommands. -/
theorem test_FrameOfHostAndControlCommands : ∃ t, exec .aux33Rise State.reset = .next t := ⟨_, rfl⟩
/-! Statement FrameOfLineAndMediaCommands. -/
theorem test_FrameOfLineAndMediaCommands : ∃ t, exec .mediaClockTick State.reset = .next t := ⟨_, rfl⟩
/-! Statement FrameOfTheOtherCommands. -/
theorem test_FrameOfTheOtherCommands : ∃ t, exec .rollCallSend State.reset = .next t := ⟨_, rfl⟩
/-! Statement RegisterFrames. -/
theorem test_RegisterFrames : okMaster 37 = true ∧ okSlot 31 = true ∧ okSlice 7 = true ∧ okLd 15 = true ∧ ∃ t, exec (.latClear 37 7) State.reset = .next t := ⟨by decide, by decide, by decide, by decide, _, rfl⟩
theorem test_RegisterFrames_ack : okMaster 37 = true ∧ 16 < 17 ∧ ∃ t, exec (.intAck 37 16 0) State.reset = .next t := ⟨by decide, by decide, _, rfl⟩
/-! Statement StepKeepsTheCanonicalForm. -/
theorem test_StepKeepsTheCanonicalForm : State.reset.canon ∧ ∃ t, step State.reset = .next t := ⟨by unfold State.canon; decide, _, rfl⟩
/-! Statement StepKeepsRequestNumbersFresh. -/
theorem test_StepKeepsRequestNumbersFresh : State.freshNumbers { wLive with reqs := [wRead .dispatch], nextReq := 8 } := by unfold State.freshNumbers; decide
/-! Statement ResetState. -/
/-! Statement LiningSetNamesTheLine. -/
theorem test_LiningSetNamesTheLine : (5 : Nat) < 2 ^ 39 ∧ (549755813887 : Nat) < 2 ^ 39 ∧ liningSet .h72 5 = liningSet .h72 5 ∧ liningTag .h48 549755813887 = liningTag .h48 549755813887 := by decide
/-! Statement UndecodedLines. -/
theorem test_UndecodedLines_high : maxMapped State.reset.order ≤ 2 ^ 39 * 64 := by decide
theorem test_UndecodedLines_none : State.reset.regionAt 0 = none := by decide
theorem test_UndecodedLines_extent : (wDcd.regionAt (2 ^ 23)).map (fun x => (x.1, x.2.dcd)) = some (2, true) ∧ wDcd.inExtent (some 0) (2 ^ 23) = false := by decide
/-! Statement AcknowledgeOfNoCurrentSource. -/
theorem test_AcknowledgeOfNoCurrentSource_0 : ∃ (s : State) (m : Nat) (k : Nat) (v : Word), s.mayTarget m k = true
    ∧ s.mayWrite m (0x51008 + 0x100 * k) = true ∧ s.curAt k ≠ some (v.toNat % 1024) :=
  ⟨wLive, 1, 1, 5, by decide +kernel⟩
/-! Statement PatternUpdateWritesOfOtherMasters. -/
theorem test_PatternUpdateWritesOfOtherMasters_0 : ∃ (s : State) (m : Nat), s.clk.awake = true ∧ isMgmt m = false :=
  ⟨wLive, 1, by decide +kernel⟩
theorem test_PatternUpdateWritesOfOtherMasters_1 : ∃ (s : State) (m : Nat), s.clk.awake = true ∧ isMgmt m = false :=
  ⟨wLive, 1, by decide +kernel⟩
theorem test_PatternUpdateWritesOfOtherMasters_2 : ∃ (s : State) (m : Nat), s.clk.awake = true ∧ isMgmt m = false :=
  ⟨wLive, 1, by decide +kernel⟩
theorem test_PatternUpdateWritesOfOtherMasters_3 : ∃ (s : State) (m : Nat), s.clk.awake = true ∧ isMgmt m = false :=
  ⟨wLive, 1, by decide +kernel⟩
theorem test_PatternUpdateWritesOfOtherMasters_4 : ∃ (s : State) (m : Nat), s.clk.awake = true ∧ isMgmt m = false :=
  ⟨wLive, 1, by decide +kernel⟩
theorem test_PatternUpdateWritesOfOtherMasters_5 : ∃ (s : State) (m : Nat) (cmd : Nat), s.clk.awake = true ∧ isMgmt m = false ∧ (cmd = 6 ∨ cmd = 7) :=
  ⟨wLive, 1, 7, by decide +kernel⟩
theorem test_PatternUpdateWritesOfOtherMasters_6 : ∃ (s : State) (m : Nat) (a : Nat) (v : Word) (full : Bool), s.clk.awake = true ∧ isMgmt m = false
    ∧ (a = 0x80 ∨ a = 0x84 ∨ (0x100 ≤ a ∧ a < 0x200)) :=
  ⟨wLive, 1, 0x1FC, 7, true, by decide +kernel⟩

end Sys2Proof.Tests
end

section
/-!
The Lining's set and computed tag of a line (R29, R30, R194), and which lines are decoded (R28).
-/
namespace Sys2Proof.Machine

/-! ### The slice that owns a line -/

theorem sliceOf_lt (line : Nat) : sliceOf line < 8 :=
  Nat.xor_lt_two_pow (n := 3) (Nat.xor_lt_two_pow (n := 3) (Nat.mod_lt _ (by decide)) (Nat.mod_lt _ (by decide)))
    (Nat.mod_lt _ (by decide))

/-- An XOR with the same number undoes itself. -/
theorem eq_of_xor_eq_xor {a b c : Nat} (h : a ^^^ c = b ^^^ c) : a = b := by
  have hxor := congrArg (· ^^^ c) h
  simpa only [Nat.xor_assoc, Nat.xor_self, Nat.xor_zero] using hxor

/-- Among lines that differ below bit 3 alone, the slice tells them apart (R29). -/
theorem eq_of_sliceOf_eq {a b : Nat} (hhigh : a / 8 = b / 8) (hslice : sliceOf a = sliceOf b) : a = b := by
  have h64 : a / 64 = b / 64 := by omega
  have hlow : a % 8 = b % 8 := by
    unfold sliceOf at hslice
    rw [hhigh, h64] at hslice
    exact eq_of_xor_eq_xor (eq_of_xor_eq_xor hslice)
  omega

/-! ### Sets -/

/-- Sets that one slice owns (R30, R193). -/
def sliceSets (o : Order) : Nat := liningSets o / 8

/-- Low bits of a line, above its slice, that a set takes in after the XOR with the tag (R194). -/
def setBits : Order → Nat
  | .h72 => 20
  | .h48 => 21

/-- The part of an H72 set that the remainder of the tag by 3 chooses; an H48 has one part (R194). -/
def setPart (o : Order) (t : Nat) : Nat :=
  match o with
  | .h72 => t % 3
  | .h48 => 0

/-- The place of a line among the sets of its slice (R194). -/
def setInSlice (o : Order) (line : Nat) : Nat :=
  setPart o (liningTag o line) * 2 ^ setBits o + (line / 8 % 2 ^ setBits o ^^^ liningTag o line)

theorem liningSet_eq (o : Order) (line : Nat) : liningSet o line = sliceOf line * sliceSets o + setInSlice o line := by
  cases o
  case h72 =>
    have hk : line / 8 % 2 ^ 36 % 2 ^ 20 = line / 8 % 2 ^ 20 := Nat.mod_mod_of_dvd _ (by decide)
    simp only [liningSet, setInSlice, sliceSets, setPart, setBits, liningSets, hk]
  case h48 =>
    have hk : line / 8 % 2 ^ 36 % 2 ^ 21 = line / 8 % 2 ^ 21 := Nat.mod_mod_of_dvd _ (by decide)
    simp only [liningSet, setInSlice, sliceSets, setPart, setBits, liningSets, hk, Nat.zero_mul, Nat.zero_add]

theorem liningTag_lt (o : Order) (line : Nat) : liningTag o line < 2 ^ setBits o := by
  cases o
  case h72 => exact Nat.lt_of_lt_of_le (Nat.mod_lt _ (by decide)) (by decide : 2 ^ 16 ≤ 2 ^ 20)
  case h48 => exact Nat.lt_of_lt_of_le (Nat.mod_lt _ (by decide)) (by decide : 2 ^ 15 ≤ 2 ^ 21)

/-- The low bits under the tag stay below the size of one part. -/
theorem lowBits_xor_tag_lt (o : Order) (line : Nat) : line / 8 % 2 ^ setBits o ^^^ liningTag o line < 2 ^ setBits o :=
  Nat.xor_lt_two_pow (Nat.mod_lt _ (Nat.two_pow_pos _)) (liningTag_lt o line)

/-- The parts of a set fill the slice's range exactly. -/
theorem setInSlice_lt (o : Order) (line : Nat) : setInSlice o line < sliceSets o := by
  have hlow := lowBits_xor_tag_lt o line
  unfold setInSlice
  cases o
  case h72 =>
    have hpart : setPart .h72 (liningTag .h72 line) < 3 := Nat.mod_lt _ (by decide)
    simp only [setBits, sliceSets, liningSets] at *
    omega
  case h48 =>
    simp only [setPart, setBits, sliceSets, liningSets] at *
    omega

/-- The set of a line lies in the range that its slice owns (R30). -/
theorem liningSet_mem_slice (o : Order) (line : Nat) :
    sliceOf line * sliceSets o ≤ liningSet o line ∧ liningSet o line < (sliceOf line + 1) * sliceSets o := by
  rw [liningSet_eq, Nat.succ_mul]
  exact ⟨Nat.le_add_right _ _, Nat.add_lt_add_left (setInSlice_lt o line) _⟩

/-- A set names its slice and its place within the slice. -/
theorem eq_of_liningSet_eq {o : Order} {a b : Nat} (h : liningSet o a = liningSet o b) :
    sliceOf a = sliceOf b ∧ setInSlice o a = setInSlice o b := by
  have ha := setInSlice_lt o a
  have hpos : 0 < sliceSets o := Nat.lt_of_le_of_lt (Nat.zero_le _) ha
  rw [liningSet_eq, liningSet_eq, Nat.mul_comm, Nat.mul_comm (sliceOf b)] at h
  have hslice : sliceOf a = sliceOf b := by
    have hdiv := congrArg (· / sliceSets o) h
    simpa only [Nat.mul_add_div hpos, Nat.div_eq_of_lt ha, Nat.div_eq_of_lt (setInSlice_lt o b), Nat.add_zero] using hdiv
  rw [hslice] at h
  exact ⟨hslice, Nat.add_left_cancel h⟩

/-! ### Set and tag together -/

/-- The bits above the low ones are the tag, for a line of the mapped address space (R194). -/
theorem highBits_eq_liningTag (o : Order) {line : Nat} (h : line < 2 ^ 39) : line / 8 / 2 ^ setBits o = liningTag o line := by
  cases o <;> simp only [liningTag, setBits] <;> omega

/-- Under one tag, the place within the slice gives back the low bits: the XOR undoes itself. -/
theorem lowBits_eq_of_setInSlice_eq {o : Order} {a b : Nat} (htag : liningTag o a = liningTag o b)
    (hset : setInSlice o a = setInSlice o b) : a / 8 % 2 ^ setBits o = b / 8 % 2 ^ setBits o := by
  unfold setInSlice at hset
  rw [htag] at hset
  exact eq_of_xor_eq_xor (Nat.add_left_cancel hset)

theorem eq_of_liningSet_eq_of_liningTag_eq {o : Order} {a b : Nat} (ha : a < 2 ^ 39) (hb : b < 2 ^ 39)
    (hset : liningSet o a = liningSet o b) (htag : liningTag o a = liningTag o b) : a = b := by
  obtain ⟨hslice, hplace⟩ := eq_of_liningSet_eq hset
  have hlow := lowBits_eq_of_setInSlice_eq htag hplace
  have hhigh : a / 8 / 2 ^ setBits o = b / 8 / 2 ^ setBits o := by
    rw [highBits_eq_liningTag o ha, highBits_eq_liningTag o hb, htag]
  have hline : a / 8 = b / 8 := by
    rw [← Nat.div_add_mod (a / 8) (2 ^ setBits o), ← Nat.div_add_mod (b / 8) (2 ^ setBits o), hhigh, hlow]
  exact eq_of_sliceOf_eq hline hslice

/-- Settles O57: a set splits into its slice and its place there, and under one tag the place gives back the line's low bits. -/
theorem liningSetNamesTheLine : Obligations.LiningSetNamesTheLine := by
  unfold Obligations.LiningSetNamesTheLine
  exact ⟨liningSet_mem_slice, fun _ _ _ ha hb => eq_of_liningSet_eq_of_liningTag_eq ha hb⟩

/-! ### Lines that are not decoded (R28) -/

theorem State.decoded_eq_false_of_capacity {s : State} {line : Nat} (h : maxMapped s.order ≤ line * 64) (ld : Option Nat) :
    s.decoded ld line = false := by
  simp only [State.decoded, decide_eq_false (Nat.not_lt.mpr h), Bool.false_and]

theorem State.decoded_eq_false_of_noRegion {s : State} {line : Nat} (h : s.regionAt line = none) (ld : Option Nat) :
    s.decoded ld line = false := by
  simp only [State.decoded, h, Bool.and_false]

/-- Where a line lies in a region, its LD decodes it through the region and the extent alone, or not at all. -/
theorem State.decoded_imp {s : State} {n line i : Nat} {r : Region} (hr : s.regionAt line = some (i, r))
    (hd : s.decoded (some n) line = true) :
    s.regionActive i = true ∧ r.forLd n = true ∧ (r.dcd = true → s.inExtent (some n) line = true) := by
  simp only [State.decoded, hr, Bool.and_eq_true, Bool.or_eq_true, Bool.not_eq_true'] at hd
  obtain ⟨-, ⟨hactive, hld⟩, hextent⟩ := hd
  refine ⟨hactive, hld, fun hdcd => hextent.resolve_left ?_⟩
  rw [hdcd]
  decide

/-- Settles O58: each condition of R28 that fails makes the line undecoded. -/
theorem undecodedLines : Obligations.UndecodedLines := by
  unfold Obligations.UndecodedLines
  refine ⟨rfl, rfl, fun s ld l h => State.decoded_eq_false_of_capacity h ld,
    fun s ld l h => State.decoded_eq_false_of_noRegion h ld, fun s n l i r hr hfail => ?_⟩
  refine Bool.eq_false_iff.mpr fun hd => ?_
  obtain ⟨hactive, hld, hextent⟩ := State.decoded_imp hr hd
  rcases hfail with hinactive | hother | ⟨hdcd, hout⟩
  · exact absurd hactive (by rw [hinactive]; decide)
  · exact absurd hld (by rw [hother]; decide)
  · exact absurd (hextent hdcd) (by rw [hout]; decide)

end Sys2Proof.Machine
end

section
/-!
Pace supervision and AVSBus commands (R13 to R25): the readings a sample stores and the pace it takes from them, then each event's effect.
-/
namespace Sys2Proof.Machine

/-! ### A run of field writes -/

/-- Writes of one field in each of several registers: a listed register holds its value, another is as it was. -/
theorem State.getF_foldl_setF {fld : Nat → Fld} (v : Nat → Nat) (hw : ∀ n, (fld n).lo + (fld n).w ≤ 32)
    (hoff : ∀ n m, n ≠ m → (fld n).off ≠ (fld m).off) (l : List Nat) (s : State) (n : Nat) :
    (l.foldl (fun s k => s.setF (fld k) (v k)) s).getF (fld n) = if n ∈ l then v n % 2 ^ (fld n).w else s.getF (fld n) := by
  induction l generalizing s with
  | nil => rfl
  | cons a l ih =>
    rw [List.foldl_cons, ih]
    by_cases hl : n ∈ l
    · rw [if_pos hl, if_pos (List.mem_cons_of_mem a hl)]
    · by_cases ha : n = a
      · subst ha
        rw [if_neg hl, if_pos List.mem_cons_self, State.getF_setF (hw n)]
      · rw [if_neg hl, if_neg (by simp only [List.mem_cons, ha, hl, or_self, not_false_eq_true]), State.getF_setF_off s (hoff n a ha)]

/-- Writes of fields leave a field apart from all of them as it was. -/
theorem State.getF_foldl_setF_ne {fld : Nat → Fld} {g : Fld} (v : Nat → Nat)
    (h : ∀ n, g.off ≠ (fld n).off ∨ ((fld n).lo + (fld n).w ≤ 32 ∧ (g.lo + g.w ≤ (fld n).lo ∨ (fld n).lo + (fld n).w ≤ g.lo)))
    (l : List Nat) (s : State) : (l.foldl (fun s k => s.setF (fld k) (v k)) s).getF g = s.getF g := by
  induction l generalizing s with
  | nil => rfl
  | cons a l ih => rw [List.foldl_cons, ih, State.getF_setF_ne s (v a) (h a)]

/-! ### The governed pace -/

/-- A search for the lowest value ends at or below its start and every value it meets. -/
theorem foldl_lowest_le (f : Nat → Nat) (l : List Nat) (b : Nat × Nat) :
    (l.foldl (fun b n => if f n < b.1 then (f n, n) else b) b).1 ≤ b.1
      ∧ ∀ n ∈ l, (l.foldl (fun b n => if f n < b.1 then (f n, n) else b) b).1 ≤ f n := by
  induction l generalizing b with
  | nil => exact ⟨Nat.le_refl _, fun n hn => absurd hn List.not_mem_nil⟩
  | cons a l ih =>
    obtain ⟨hstart, hrest⟩ := ih (if f a < b.1 then (f a, a) else b)
    have hfirst : (if f a < b.1 then (f a, a) else b).1 ≤ b.1 ∧ (if f a < b.1 then (f a, a) else b).1 ≤ f a := by
      split
      case isTrue hlt => exact ⟨Nat.le_of_lt hlt, Nat.le_refl _⟩
      case isFalse hge => exact ⟨Nat.le_refl _, Nat.not_lt.mp hge⟩
    refine ⟨Nat.le_trans hstart hfirst.1, fun n hn => ?_⟩
    rcases List.mem_cons.mp hn with rfl | hn
    · exact Nat.le_trans hstart hfirst.2
    · exact hrest n hn

/-- The governed pace is no more than the reading of any monitor that is not excluded (R13). -/
theorem State.governedPace_le {s : State} {n : Nat} (hn : n < 64) (hin : s.monitorOut n = false) :
    s.governedPace.1 ≤ s.getF (PWS.PACE_MON_PACE n) :=
  (foldl_lowest_le (fun k => s.getF (PWS.PACE_MON_PACE k)) _ _).2 n
    (List.mem_filter.mpr ⟨List.mem_range.mpr hn, by rw [hin, Bool.not_false, Bool.or_true]⟩)

/-! ### A sample -/

/-- The 64 monitors after a sample has stored its readings (R13). -/
def State.storeReadings (readings : List Nat) (s : State) : State :=
  (List.range 64).foldl (fun s n => s.setF (PWS.PACE_MON_PACE n) (min 65535 (readings.getD n 0))) s

theorem State.storeReadings_pace (readings : List Nat) (s : State) {n : Nat} (hn : n < 64) :
    (s.storeReadings readings).getF (PWS.PACE_MON_PACE n) = min 65535 (readings.getD n 0) := by
  have hfold := State.getF_foldl_setF (fld := PWS.PACE_MON_PACE) (fun n => min 65535 (readings.getD n 0)) (fun _ => (by decide : 0 + 16 ≤ 32))
    (fun a b hab => by simp only [PWS.PACE_MON_PACE]; omega) (List.range 64) s n
  rw [if_pos (List.mem_range.mpr hn)] at hfold
  exact hfold.trans (Nat.mod_eq_of_lt (Nat.lt_of_le_of_lt (Nat.min_le_left _ _) (by decide : 65535 < 2 ^ 16)))

theorem State.storeReadings_monitorOut (readings : List Nat) (s : State) (n : Nat) :
    (s.storeReadings readings).monitorOut n = s.monitorOut n := by
  have hfold := State.getF_foldl_setF_ne (fld := PWS.PACE_MON_PACE) (g := PWS.PACE_MON_EXCLUDED n)
    (fun n => min 65535 (readings.getD n 0)) (fun _ => .inr ⟨(by decide : 0 + 16 ≤ 32), .inr (by decide : 0 + 16 ≤ 31)⟩)
    (List.range 64) s
  exact congrArg (fun x => x != 0) hfold

/-- The governed pace and the monitor that gives it, as PACE_STATUS shows them (R13). -/
def State.showPace (s : State) : State :=
  (s.setF PWS.PACE_STATUS_PACE (min 32767 s.governedPace.1)).setF PWS.PACE_STATUS_SLOWEST s.governedPace.2

theorem State.showPace_mon (s : State) (n : Nat) :
    s.showPace.getF (PWS.PACE_MON_PACE n) = s.getF (PWS.PACE_MON_PACE n) := by
  have hoff : (PWS.PACE_MON_PACE n).off ≠ 0x18004 := by simp only [PWS.PACE_MON_PACE]; omega
  unfold State.showPace
  rw [State.getF_setF_off (f := PWS.PACE_STATUS_SLOWEST) _ hoff, State.getF_setF_off (f := PWS.PACE_STATUS_PACE) _ hoff]

theorem State.showPace_pace (s : State) : s.showPace.getF PWS.PACE_STATUS_PACE = min 32767 s.governedPace.1 := by
  unfold State.showPace
  rw [State.getF_setF_ne _ _ (.inr ⟨by decide, .inl (by decide)⟩), State.getF_setF (by decide)]
  exact Nat.mod_eq_of_lt (Nat.lt_of_le_of_lt (Nat.min_le_left _ _) (by decide : 32767 < 2 ^ 15))

/-- What a sample changes while CORE runs (R13, R14, log 23): the readings, the pace they give, the runs of samples. -/
theorem exec_paceSample_next {s : State} (readings : List Nat) (h : s.railGood 0 = true) :
    ∃ q, exec (.paceSample readings) s = .next ((s.storeReadings readings).showPace.putPace q) := by
  rw [exec_paceSample]
  unfold execPaceSample
  rw [h, Bool.not_true, if_neg (by decide)]
  exact ⟨_, rfl⟩

/-- A sample stores each reading, and the pace lies at or below that of every monitor not excluded (R13). -/
theorem paceSample_stores {s : State} (readings : List Nat) (h : s.railGood 0 = true) :
    ∃ t, exec (.paceSample readings) s = .next t
      ∧ (∀ n, n < 64 → t.getF (PWS.PACE_MON_PACE n) = min 65535 (readings.getD n 0))
      ∧ (∀ n, n < 64 → s.monitorOut n = false → t.getF PWS.PACE_STATUS_PACE ≤ t.getF (PWS.PACE_MON_PACE n)) := by
  obtain ⟨q, hexec⟩ := exec_paceSample_next readings h
  refine ⟨_, hexec, fun n hn => ?_, fun n hn hin => ?_⟩
  · rw [State.putPace_getF, State.showPace_mon, State.storeReadings_pace readings s hn]
  · rw [State.putPace_getF, State.putPace_getF, State.showPace_mon, State.showPace_pace]
    exact Nat.le_trans (Nat.min_le_right _ _) (State.governedPace_le hn (by rw [State.storeReadings_monitorOut, hin]))

/-! ### Events of the pace -/

/-- A source that fires and is followed by reporting alone has fired. -/
theorem Quiet.fired_fire {n : Nat} {s t : State} (hn : reservedSource n = false) (h : Quiet (s.fire n) t) : t.fired n = true := by
  have hlt : n < 1024 := Nat.lt_of_not_le fun hge => by
    rw [reservedSource_big (by omega)] at hn
    exact absurd hn (by decide)
  exact h.2 n hlt (State.fired_fire s hn)

/-- Excluding a monitor sets its bit and fires source 40 (R14). -/
theorem monitorExcluded_excludes {s : State} {n : Nat} (hn : n < 64) (hin : s.monitorOut n = false)
    (hrun : 1000 ≤ Tab.get (fun _ => 0) s.pace.differ n) :
    ∃ t, exec (.monitorExcluded n) s = .next t ∧ t.getF (PWS.PACE_MON_EXCLUDED n) = 1 ∧ t.fired 40 = true := by
  rw [exec_monitorExcluded]
  unfold execMonitorExcluded
  rw [hin, decide_eq_false (by omega), decide_eq_false (by omega), if_neg (by decide)]
  refine ⟨_, rfl, ?_, State.fired_fire _ rfl⟩
  have hcount : (PWS.PACE_MON_EXCLUDED n).off ≠ PWS.PACE_STATUS_EXCL_COUNT.off := by
    simp only [PWS.PACE_MON_EXCLUDED, PWS.PACE_STATUS_EXCL_COUNT]; omega
  have hblock : (PWS.PACE_MON_EXCLUDED n).off < 0x30000 := by simp only [PWS.PACE_MON_EXCLUDED]; omega
  rw [State.fire_getF _ _ (.inl hblock), State.getF_setF_off _ hcount,
    State.getF_setF (f := PWS.PACE_MON_EXCLUDED n) (by decide : 31 + 1 ≤ 32)]
  rfl

/-- A command sent to the regulator awaits its acknowledge and is the last on the bus (R25). -/
theorem State.avsSend_sends (mv : Nat) (s : State) :
    (s.avsSend mv).pace.avs.pending = some mv ∧ (s.avsSend mv).out = s.out ++ [.avs mv] := by
  unfold State.avsSend State.setFlag
  simp only [modPace_put, emit_pace, setF_pace, putPace_pace, emit_out, setF_out, putPace_out, and_self]

/-- The governor sends a new voltage where none is awaited and commanding is not held (R16). -/
theorem exec_governorDecision_sends {s : State} (hrel : s.start.released = true) (hnone : s.pace.avs.pending = none)
    (hhold : s.flag PWS.PACE_STATUS_AVS_HOLD = false) (hnew : s.governed ≠ s.pace.avs.last) :
    exec .governorDecision s = .next (s.avsSend s.governed) := by
  rw [exec_governorDecision]
  unfold execGovernorDecision
  rw [hrel, hnone, hhold,
    if_neg (by simpa only [Bool.not_true, Option.isSome_none, Bool.or_self, Bool.false_or, decide_eq_true_eq] using hnew)]

/-- Pace-low sets DEGRADED and fires source 4 (R20, R21). -/
theorem paceLowDeclared_degrades {s : State} (hrun : 5 ≤ s.pace.belowFloor) (hlow : s.paceLow = false) :
    ∃ t, exec .paceLowDeclared s = .next t ∧ t.getF PWS.PACE_STATUS_DEGRADED = 1 ∧ t.fired 4 = true := by
  rw [exec_paceLowDeclared]
  unfold execPaceLowDeclared
  rw [hlow, decide_eq_false (by omega), if_neg (by decide)]
  refine ⟨_, rfl, ?_, Quiet.fired_fire rfl (State.healthCheck_quiet _)⟩
  rw [State.healthCheck_getF _ (.inl (by decide)), State.fire_getF _ _ (.inl (by decide)), State.getF_setF (by decide)]
  rfl

/-- A collapse sets COLLAPSE and fires source 5 (R22). -/
theorem paceCollapse_collapses {s : State} (hrun : 5 ≤ s.pace.below400) (hnot : s.flag PWS.PACE_STATUS_COLLAPSE = false) :
    ∃ t, exec .paceCollapse s = .next t ∧ t.getF PWS.PACE_STATUS_COLLAPSE = 1 ∧ t.fired 5 = true := by
  rw [exec_paceCollapse]
  unfold execPaceCollapse
  rw [hnot, decide_eq_false (by omega), if_neg (by decide)]
  refine ⟨_, rfl, ?_, State.fired_fire _ rfl⟩
  rw [State.fire_getF _ _ (.inl (by decide)), State.getF_setF (by decide)]
  rfl

/-- The end of a collapse leaves pace-low as it is (R22). -/
theorem collapseEnd_keeps_degraded {s : State} (hrun : 5 ≤ s.pace.atLeast400) :
    ∃ t, exec .collapseEnd s = .next t ∧ t.getF PWS.PACE_STATUS_COLLAPSE = 0
      ∧ t.getF PWS.PACE_STATUS_DEGRADED = s.getF PWS.PACE_STATUS_DEGRADED := by
  rw [exec_collapseEnd]
  unfold execCollapseEnd
  rw [if_neg (by omega)]
  refine ⟨_, rfl, ?_, State.getF_setF_ne s 0 (.inr ⟨by decide, .inr (by decide)⟩)⟩
  rw [State.getF_setF (by decide)]
  rfl

/-- The waiting requests that are admitted write no register. -/
theorem State.admitWaiting_quiet (s : State) : Quiet s s.admitWaiting := (State.admitWaiting_keeps s).quiet (by decide)

/-- The end of pace-low clears both of its bits and fires source 41 (R23). -/
theorem paceLowEnd_restores {s : State} (hrun : 1000 ≤ s.pace.atLeast825) (hlow : s.paceLow = true) :
    ∃ t, exec .paceLowEnd s = .next t ∧ t.getF PWS.PACE_STATUS_DEGRADED = 0 ∧ t.getF PWS.PACE_STATUS_COLLAPSE = 0
      ∧ t.fired 41 = true := by
  rw [exec_paceLowEnd]
  unfold execPaceLowEnd
  rw [hlow, decide_eq_false (by omega), if_neg (by decide)]
  have hreport : ∀ u : State, Quiet (u.fire 41) (u.fire 41).admitWaiting.healthCheck := fun u =>
    (State.admitWaiting_quiet _).trans (State.healthCheck_quiet _)
  refine ⟨_, rfl, ?_, ?_, Quiet.fired_fire rfl (hreport _)⟩
  · rw [(hreport _).getF (.inl (by decide)), State.fire_getF _ _ (.inl (by decide)),
      State.getF_setF_ne _ _ (.inr ⟨by decide, .inr (by decide)⟩), State.getF_setF (by decide)]
    rfl
  · rw [(hreport _).getF (.inl (by decide)), State.fire_getF _ _ (.inl (by decide)), State.getF_setF (by decide)]
    rfl

/-- Settles O1: the sample's readings and pace, then one lemma for each event. -/
theorem paceCommandsComplete : Obligations.PaceCommandsComplete := by
  unfold Obligations.PaceCommandsComplete
  exact ⟨fun _ readings h => paceSample_stores readings h,
    fun _ _ hn hin hrun => monitorExcluded_excludes hn hin hrun,
    fun s hrel hnone hhold hnew => ⟨_, exec_governorDecision_sends hrel hnone hhold hnew, State.avsSend_sends s.governed s⟩,
    fun _ hrun hlow => paceLowDeclared_degrades hrun hlow,
    fun _ hrun hnot => paceCollapse_collapses hrun hnot,
    fun _ hrun => collapseEnd_keeps_degraded hrun,
    fun _ hrun hlow => paceLowEnd_restores hrun hlow⟩

/-! ### AVSBus (R25) -/

/-- A failed attempt before the third sends the same command again. -/
theorem State.avsFail_of_retry {s : State} {mv : Nat} (hpend : s.pace.avs.pending = some mv)
    (hhold : s.flag PWS.PACE_STATUS_AVS_HOLD = false) (hfew : s.pace.avs.fails < 2) :
    s.avsFail = (s.modPace fun p => { p with avs := { p.avs with fails := s.pace.avs.fails + 1 } }).emit (.avs mv) := by
  unfold State.avsFail
  rw [hpend]
  dsimp only
  rw [hhold, if_neg (by decide), if_neg (by omega)]

/-- The third failure in a row holds the bus with source 42. -/
theorem State.avsFail_of_third {s : State} {mv : Nat} (hpend : s.pace.avs.pending = some mv)
    (hhold : s.flag PWS.PACE_STATUS_AVS_HOLD = false) (hmany : 2 ≤ s.pace.avs.fails) :
    s.avsFail = ((s.modPace fun p => { p with avs := { p.avs with pending := none, fails := s.pace.avs.fails + 1 } }).setF
      PWS.PACE_STATUS_AVS_HOLD 1).fire 42 := by
  unfold State.avsFail
  rw [hpend]
  dsimp only
  rw [hhold, if_neg (by decide), if_pos (by omega)]

/-- An acknowledge ends the command, which is now the voltage in force, and ends a hold. -/
theorem avsAcknowledge_ends {s : State} {mv : Nat} (hpend : s.pace.avs.pending = some mv) :
    ∃ t, exec (.avsAcknowledge true) s = .next t ∧ t.pace.avs.pending = none ∧ t.pace.avs.acked = mv
      ∧ t.getF PWS.PACE_STATUS_AVS_HOLD = 0 := by
  rw [exec_avsAcknowledge]
  unfold execAvsAcknowledge
  rw [hpend]
  refine ⟨_, rfl, rfl, rfl, ?_⟩
  rw [State.getF_setF (by decide)]
  rfl

/-- A status error is a failed attempt. -/
theorem exec_avsAcknowledge_false {s : State} {mv : Nat} (hpend : s.pace.avs.pending = some mv) :
    exec (.avsAcknowledge false) s = .next s.avsFail := by
  rw [exec_avsAcknowledge]
  unfold execAvsAcknowledge
  rw [hpend]
  rfl

/-- The third failure in a row sets AVS_HOLD and fires source 42. -/
theorem State.avsFail_holds {s : State} {mv : Nat} (hpend : s.pace.avs.pending = some mv)
    (hhold : s.flag PWS.PACE_STATUS_AVS_HOLD = false) (hmany : 2 ≤ s.pace.avs.fails) :
    s.avsFail.getF PWS.PACE_STATUS_AVS_HOLD = 1 ∧ s.avsFail.fired 42 = true := by
  rw [State.avsFail_of_third hpend hhold hmany]
  refine ⟨?_, State.fired_fire _ rfl⟩
  rw [State.fire_getF _ _ (.inl (by decide)), State.getF_setF (by decide)]
  rfl

/-- The retry of a hold sends the last command again. -/
theorem exec_avsHoldRetry_sends {s : State} (hhold : s.flag PWS.PACE_STATUS_AVS_HOLD = true) (hnone : s.pace.avs.pending = none) :
    exec .avsHoldRetry s = .next (s.avsSend s.pace.avs.last) := by
  rw [exec_avsHoldRetry]
  unfold execAvsHoldRetry
  rw [hhold, hnone]
  rfl

/-- Settles O2: the acknowledge, the retry of a failed attempt, the hold at the third and the retry of the hold. -/
theorem avsCommandsComplete : Obligations.AvsCommandsComplete := by
  unfold Obligations.AvsCommandsComplete
  refine ⟨fun _ _ hpend => avsAcknowledge_ends hpend, fun s mv hpend hhold hfew => ⟨_, exec_avsAcknowledge_false hpend, ?_⟩,
    fun s mv hpend hhold hmany => ⟨_, exec_avsAckTimeout s, State.avsFail_holds hpend hhold hmany⟩,
    fun s hhold hnone => ⟨_, exec_avsHoldRetry_sends hhold hnone, State.avsSend_sends s.pace.avs.last s⟩⟩
  simp only [State.avsFail_of_retry hpend hhold hfew, State.modPace_put, State.emit_pace, State.putPace_pace, State.emit_out,
    State.putPace_out, and_self]

end Sys2Proof.Machine
end

section
/-!
Register access (R58 to R65): the frame of a plain register write and the reports that follow it.
-/
namespace Sys2Proof.Machine

/-- Whether an answer is a next state that passes a test. -/
def nextPasses (p : State → Bool) : Out → Bool
  | .next t => p t
  | _ => false

/-- TOP.PTU_ADDR, a register that a write changes at once and that has no action of its own (Table 02-20). -/
def ptuAddrDesc : RegDesc := ⟨0x84, [], false, [⟨23, 1, .rw⟩, ⟨8, 15, .rw⟩], 0⟩

/-- An awake device whose health has changed since it was last compared, and whose LD 0, on port 0, has no room in its informational log:
the next Memory Module Event is the first one dropped there (R379). -/
def fullLogDevice : State :=
  { clk := { awake := true }, health := [1]
    lds := [(0, { port := some 0, logs := [(0, List.replicate 256 { handle := 1, kind := 2, time := 0 })] })] }

/-- The management endpoint's write of PTU_ADDR reports the change of health, and the event that the full log drops fires source 518. -/
theorem fullLogDevice_write_fires : nextPasses (State.fired 518) (exec (.registerWrite 32 0x84 0 true) fullLogDevice) = true := by
  decide +kernel

/-- Where every register but one outside the cause registers is as it was, so is every cause bit. -/
theorem State.fired_of_frame {s t : State} {off n : Nat} (hframe : ∀ a, a ≠ off → t.reg a = s.reg a)
    (hoff : (INT.CAUSE_CAUSE (n / 32)).off ≠ off) : t.fired n = s.fired n := by
  unfold State.fired State.getF
  rw [hframe _ hoff]

/-- Refutes O7: the first clause's frame fails where a register write meets a changed health field (R379) and a full event log, whose
dropped record fires source 518 and so changes a cause register. -/
theorem not_registerCommandsComplete : ¬ Obligations.RegisterCommandsComplete := by
  unfold Obligations.RegisterCommandsComplete
  rintro ⟨hplain, -⟩
  obtain ⟨t, hexec, -, hframe⟩ := hplain fullLogDevice 32 0x84 0 ptuAddrDesc rfl rfl (by decide +kernel) (by decide +kernel)
    (by decide) rfl (by decide) rfl rfl
  have hfired : t.fired 518 = true := by
    have hpass := fullLogDevice_write_fires
    rwa [hexec] at hpass
  rw [State.fired_of_frame hframe (by decide)] at hfired
  exact absurd hfired (by decide +kernel)

end Sys2Proof.Machine
end

section
/-!
Step 4 of a flush (R262): the count of its lines where an armed injection damages a line that it reads (R308).
-/
namespace Sys2Proof.Machine

/-- An orderly flush before its admission stop. The Lining's table lists way 1 of set 0, locked and empty, before way 0, which holds line 0
dirty: its keys do not rise. An injection at point 2 (R308) is armed on line 0. -/
def unsortedLining : State :=
  { flush := { kind := .orderly, step := 3 }
    cache := { lining := [(1, { lock := true }), (0, { line := 0, valid := true, dirty := true })] }
    integ := { inj := some { point := 2, left := 1, target := 0, region := 0, mask := 0 } } }

theorem unsortedLining_flushLines_length : unsortedLining.flushLines.length = 1 := by decide +kernel

/-- The read of line 0 for its patch loses the line (R221): the poisoned way is stored at key 0 before the higher key that comes first, the
old entry stays listed behind it, and the step counts both. -/
theorem unsortedLining_stop_counts_two : nextPasses (fun t => t.flush.lines == 2) (exec .flushAdmissionStop unsortedLining) = true := by
  decide +kernel

/-- Refutes O20: the third clause takes the count of dirty lines from the state before the stop and does not ask that the Lining's table is
canonical; where its keys do not rise, a line that an injection damages (R308) is listed twice when step 4 counts. -/
theorem not_flushCommandsComplete : ¬ Obligations.FlushCommandsComplete := by
  unfold Obligations.FlushCommandsComplete
  rintro ⟨-, -, hlines, -⟩
  obtain ⟨t, hexec, hcount, -⟩ := hlines unsortedLining (by decide) rfl (fun _ hr => absurd hr List.not_mem_nil)
    (fun _ ho => absurd ho List.not_mem_nil)
  have hpass := unsortedLining_stop_counts_two
  rw [hexec] at hpass
  have htwo : t.flush.lines = 2 := eq_of_beq hpass
  rw [hcount, unsortedLining_flushLines_length] at htwo
  exact absurd htwo (by decide)

end Sys2Proof.Machine
end

section
/-!
A line of an op that ends it (R431), and an op that still awaits a write-through write of an earlier line (R82).
-/
namespace Sys2Proof.Machine

-- Proofs are elaborated one at a time: the check's memory bound counts the stack of every thread that waits.
set_option Elab.async false

/-- A COPY of two lines whose first line was stored write-through: it awaits the write-back 4. -/
def copyAwaitingBack : OpRun :=
  { id := 9, spool := 0, owner := 16, next := 1, count := 1, backs := [4]
    desc := { op := 1, flags := 0, key := 0, mode := 0, tag := 0, src := 0, dst := 0x1000, len := 2 } }

/-- The COPY in a device in whose memory no region is active any more, so that its second line is not decoded. -/
def deniedWhileAwaiting : State := { spl := { ops := [copyAwaitingBack] } }

theorem deniedWhileAwaiting_lineStop :
    deniedWhileAwaiting.lineStop copyAwaitingBack.owner (State.srcLine copyAwaitingBack) false = some (deniedWhileAwaiting, 1) := rfl

/-- The status waits for the open write-back: after the step the op closes with 1 and has no status yet. -/
theorem deniedWhileAwaiting_closes : nextPasses (fun t => (t.opOf 9).map (fun o => (o.status, o.closing)) == some (none, some 1))
    (exec (.dataMoverLine 9 false) deniedWhileAwaiting) = true := by
  decide +kernel

/-- Refutes O38: the fourth clause gives an op whose line is denied its status at once and does not ask that the op awaits no write-back;
a COPY with a write-through write still open (R82) takes its status only when that write is in force. -/
theorem not_dataMoverLinesComplete : ¬ Obligations.DataMoverLinesComplete := by
  unfold Obligations.DataMoverLinesComplete
  rintro ⟨-, -, -, hdenied, -⟩
  obtain ⟨t, hexec, hstatus⟩ := hdenied deniedWhileAwaiting 9 copyAwaitingBack deniedWhileAwaiting 1 false rfl (.inl rfl) rfl rfl rfl
    (by decide +kernel) deniedWhileAwaiting_lineStop
  have hpass := deniedWhileAwaiting_closes
  rw [hexec] at hpass
  have hclosing := congrArg (Option.map Prod.fst) (eq_of_beq hpass)
  rw [Option.map_map] at hclosing
  exact absurd (hstatus.symm.trans hclosing) (by decide)

end Sys2Proof.Machine
end

section
/-!
The ops in progress through a line write at its slice (R431, R311): the write may commit older writes of the line, answer requests and
drop marks, but it neither adds nor ends an op.
-/
namespace Sys2Proof.Machine

-- Proofs are elaborated one at a time: the check's memory bound counts the stack of every thread that waits.
set_option Elab.async false

/-- The ops in progress have the same numbers, in the same order. -/
def SameOps (s t : State) : Prop := t.spl.ops.map OpRun.id = s.spl.ops.map OpRun.id

theorem SameOps.refl (s : State) : SameOps s s := rfl

theorem SameOps.trans {s t u : State} (h : SameOps s t) (k : SameOps t u) : SameOps s u := Eq.trans k h

theorem SameOps.ite {c : Prop} [Decidable c] {s a b : State} (ha : SameOps s a) (hb : SameOps s b) : SameOps s (if c then a else b) := by
  split <;> assumption

theorem SameOps.iteFst {α : Type} {c : Prop} [Decidable c] {s : State} {a b : State × α} (ha : SameOps s a.1) (hb : SameOps s b.1) :
    SameOps s (if c then a else b).1 := by
  split <;> assumption

theorem SameOps.foldl {α : Type} {f : State → α → State} (hf : ∀ t a, SameOps t (f t a)) (l : List α) {s t : State}
    (h : SameOps s t) : SameOps s (l.foldl f t) := by
  induction l generalizing t with
  | nil => exact h
  | cons a l ih => exact ih (h.trans (hf t a))

/-- An operation whose frame leaves out the spools. -/
theorem Keeps.sameOps {m : Nat} {s t : State} (h : Keeps m s t) (hm : m.testBit 37 = false := by decide) : SameOps s t :=
  congrArg (fun p : Spl => p.ops.map OpRun.id) (h.1 .spl_ hm)

/-- A chain goes on with an operation whose frame leaves out the spools. -/
theorem SameOps.step {m : Nat} {s t u : State} (h : SameOps s t) (k : Keeps m t u) (hm : m.testBit 37 = false := by decide) :
    SameOps s u := h.trans (k.sameOps hm)

/-- An op in progress is still in progress. -/
theorem SameOps.opOf {s t : State} (h : SameOps s t) {id : Nat} (ho : (s.opOf id).isSome = true) : (t.opOf id).isSome = true := by
  have hmem : ∀ u : State, (u.opOf id).isSome = true ↔ id ∈ u.spl.ops.map OpRun.id := fun u => by
    simp only [State.opOf, List.find?_isSome, beq_iff_eq, List.mem_map]
  rw [hmem] at ho ⊢
  rwa [h]

/-! ### Completion spools and samples -/

theorem State.setCtx_sameOps (n : Nat) (c : SpoolCtx) (s : State) : SameOps s (s.setCtx n c) := rfl

theorem State.spoolSignal_sameOps (n : Nat) (s : State) : SameOps s (s.spoolSignal n) := by
  unfold State.spoolSignal
  extract_lets c o s1 s2
  have h1 : SameOps s s1 := SameOps.ite (State.sendVector_keeps _ _ _).sameOps (SameOps.refl s)
  have h2 : SameOps s s2 := h1.step (State.setF_keeps _ _ _)
  exact SameOps.ite (State.setCtx_sameOps _ _ s) ((h2.step (State.fire_keeps _ _)).trans (State.setCtx_sameOps _ _ _))

theorem State.writeWords_sameOps (n typ : Nat) (payloads : List (List Byte)) (s : State) : SameOps s (s.writeWords n typ payloads) := by
  unfold State.writeWords
  extract_lets c k one s1
  have hfold : ∀ (l : List (List Byte)) (acc : Nat × State), SameOps s acc.2 → SameOps s (l.foldl one acc).2 := fun l => by
    induction l with
    | nil => exact fun _ h => h
    | cons p l ih => exact fun acc h => ih _ h
  exact hfold payloads (0, s) (SameOps.refl s)

theorem State.gapCheck_sameOps (n : Nat) (s : State) : SameOps s (s.gapCheck n) := by
  unfold State.gapCheck
  extract_lets c s1
  have h1 : SameOps s s1 := State.writeWords_sameOps _ _ _ s
  exact SameOps.ite ((h1.trans (State.setCtx_sameOps _ _ _)).trans (State.spoolSignal_sameOps _ _)) (SameOps.refl s)

theorem State.postRecord_sameOps (n typ : Nat) (payloads : List (List Byte)) (irq : Bool) (s : State) :
    SameOps s (s.postRecord n typ payloads irq) := by
  unfold State.postRecord
  extract_lets c s1
  have h1 : SameOps s s1 := State.writeWords_sameOps _ _ _ s
  exact SameOps.ite (SameOps.ite (h1.trans (State.spoolSignal_sameOps _ _)) h1)
    ((State.setCtx_sameOps _ _ s).trans (State.gapCheck_sameOps _ _))

theorem State.samplePush_sameOps (rec_ : List Byte) (s : State) : SameOps s (s.samplePush rec_) := by
  unfold State.samplePush
  refine SameOps.ite (State.ringPush_keeps _ _).sameOps (SameOps.ite (State.postRecord_sameOps _ _ _ _ s) ?_)
  exact ((State.setF_keeps _ _ s).sameOps.step (State.ringPush_keeps _ _)).step (State.fire_keeps _ _)

/-! ### Answers to requests -/

theorem State.send_sameOps (r : Req) (m : Msg) (s : State) : SameOps s (s.send r m) := by
  unfold State.send
  extract_lets load poison p s1 lat k fld s2 s3 s4 acks s5
  have h1 : SameOps s s1 := ((State.setPort_keeps _ _ s).sameOps.step (State.emit_keeps _ _)).step (State.setF_keeps _ _ _)
  have h2 : SameOps s s2 := SameOps.ite (h1.step (State.setF_keeps _ _ _)) h1
  have h3 : SameOps s s3 := SameOps.ite (h2.trans (State.samplePush_sameOps _ _)) h2
  have h4 : SameOps s s4 := SameOps.ite (h3.step (State.perf_keeps _ _ _ _ _)) h3
  have h5 : SameOps s s5 := SameOps.foldl (fun t a => (State.emit_keeps _ t).sameOps) acks h4
  exact ((h5.step (State.modCoh_keeps _ _)).step (State.dropReq_keeps _ _)).step (State.admitWaiting_keeps _)

theorem State.respond_sameOps (r : Req) (data : Option (BitVec 512)) (poison : Bool) (s : State) : SameOps s (s.respond r data poison) := by
  unfold State.respond
  refine SameOps.ite (((State.modCoh_keeps _ s).sameOps.step (State.dropReq_keeps _ _)).step (State.admitWaiting_keeps _)) ?_
  exact SameOps.ite (((State.setReq_keeps _ s).sameOps.step (State.setPort_keeps _ _ _)).step (State.respCheck_keeps _ _))
    (State.send_sameOps _ _ s)

/-- A flow that ends with its answer. -/
theorem State.endFlow_respond_sameOps (f r : Req) (data : Option (BitVec 512)) (poison : Bool) (s : State) :
    SameOps s ((s.endFlow f).respond r data poison) :=
  (State.endFlow_keeps f s).sameOps.trans (State.respond_sameOps _ _ _ _)

theorem State.poisonAnswer_sameOps (r : Req) (cause : Option Nat) (s : State) : SameOps s (s.poisonAnswer r cause) := by
  unfold State.poisonAnswer
  extract_lets l s1 s2
  have h1 : SameOps s s1 := (State.endFlow_keeps r s).sameOps
  have h2 : SameOps s s2 := by
    cases cause with
    | none => exact h1
    | some c => exact h1.step (State.mediaEvent_keeps _ _ _ _ _)
  exact SameOps.ite (State.setReq_keeps _ s).sameOps (h2.trans (State.respond_sameOps _ _ _ _))

theorem State.egress_sameOps (r : Req) (l : Line) (path : Path) (s : State) : SameOps s (s.egress r l path) := by
  unfold State.egress
  extract_lets r
  refine SameOps.ite (State.setReq_keeps _ s).sameOps ?_
  refine SameOps.ite (State.poisonAnswer_sameOps _ _ s) (SameOps.ite (State.poisonAnswer_sameOps _ _ s) ?_)
  exact SameOps.ite (State.endFlow_respond_sameOps _ _ _ _ s)
    ((State.tagFailEgress_keeps _ _ _ s).sameOps.trans (State.poisonAnswer_sameOps _ _ _))

theorem State.refetch_sameOps (r : Req) (s : State) : SameOps s (s.refetch r) := by
  unfold State.refetch
  split
  · exact State.egress_sameOps _ _ _ s
  · exact (State.setReq_keeps _ s).sameOps

/-- A cached copy that could not be read: it is lost, or the line is fetched again. -/
theorem State.lineError_sameOps (line : Nat) (r q : Req) (cause : Option Nat) (s : State) :
    SameOps s (match s.lineError line with | (t, true) => t.poisonAnswer r cause | (t, false) => t.refetch q) := by
  split
  case h_1 t h => exact ((State.lineError_keeps line s).fst h).sameOps.trans (State.poisonAnswer_sameOps _ _ _)
  case h_2 t h => exact ((State.lineError_keeps line s).fst h).sameOps.trans (State.refetch_sameOps _ _)

theorem State.takeHit_sameOps (r : Req) (h : Health) (path : Path) (ev : Nat) (l : Line) (s : State) :
    SameOps s (s.takeHit r h path ev l) := by
  unfold State.takeHit
  split
  rename_i s1 inj heq
  have h2 := ((State.injCached_keeps r.line s).fst heq).sameOps.step (State.perf_keeps (sliceOf r.line) ev (some r.ld) 1 s1)
  exact SameOps.ite (h2.trans (State.lineError_sameOps _ _ _ _ _)) (h2.trans (State.egress_sameOps _ _ _ _))

theorem State.takeValue_sameOps (r : Req) (hbm : HbmRead) (s : State) : SameOps s (s.takeValue r hbm) := by
  unfold State.takeValue
  extract_lets k r miss
  split
  · exact SameOps.ite (State.setReq_keeps _ s).sameOps ((State.perf_keeps _ _ _ _ s).sameOps.trans (State.egress_sameOps _ _ _ _))
  split
  · exact (State.touchPent_keeps _ _ s).sameOps.trans (State.takeHit_sameOps _ _ _ _ _ _)
  split
  · exact SameOps.ite ((State.touchWay_keeps _ _ s).sameOps.step (State.setReq_keeps _ _))
      ((State.touchWay_keeps _ _ s).sameOps.trans (State.takeHit_sameOps _ _ _ _ _ _))
  split
  · exact SameOps.ite (State.setReq_keeps _ s).sameOps (State.takeHit_sameOps _ _ _ _ _ s)
  · exact (State.setReq_keeps _ s).sameOps

theorem State.readProceed_sameOps (r : Req) (hbm : HbmRead) (s : State) : SameOps s (s.readProceed r hbm) := by
  unfold State.readProceed
  refine SameOps.ite (State.endFlow_respond_sameOps _ _ _ _ s) (SameOps.ite (State.poisonAnswer_sameOps _ _ s) ?_)
  exact SameOps.ite (State.poisonAnswer_sameOps _ _ s) (State.takeValue_sameOps _ _ s)

theorem State.fetchOld_sameOps (r : Req) (hbm : HbmRead) (s : State) : SameOps s (s.fetchOld r hbm) := by
  unfold State.fetchOld
  extract_lets older cached
  split
  · exact SameOps.ite (State.setReq_keeps _ s).sameOps (State.egress_sameOps _ _ _ s)
  have hcached : ∀ l p, SameOps s (cached l p s) := fun l p => by
    have hinj := (State.injCached_keeps r.line s).sameOps
    exact SameOps.ite (hinj.trans (State.lineError_sameOps _ _ _ _ _)) (hinj.trans (State.egress_sameOps _ _ _ _))
  split
  · exact hcached _ _
  split
  · exact hcached _ _
  split
  · exact hcached _ _
  · exact (State.setReq_keeps _ s).sameOps

theorem State.writeProceed_sameOps (r0 : Req) (hbm : HbmRead) (s : State) : SameOps s (s.writeProceed r0 hbm) := by
  unfold State.writeProceed
  extract_lets r
  refine SameOps.ite (State.setReq_keeps _ s).sameOps (SameOps.ite (State.setReq_keeps _ s).sameOps ?_)
  refine SameOps.ite ((State.endFlow_respond_sameOps _ _ _ _ s).step (State.stallEnd_keeps _)) (SameOps.ite (SameOps.ite ?_ ?_) ?_)
  · exact ((State.sealedWrite_keeps _ s).sameOps.trans (State.endFlow_respond_sameOps _ _ _ _ _)).step (State.stallEnd_keeps _)
  · exact (State.holdWrite_keeps _ _ s).sameOps
  split
  rename_i s1 wait heq
  have h1 : SameOps s s1 := by
    split at heq
    · obtain ⟨rfl, -⟩ := Prod.mk.inj heq
      exact SameOps.refl s
    · exact ((State.dirtiedRecord_keeps s).fst heq).sameOps
  refine SameOps.ite (h1.step (State.holdWrite_keeps _ _ _)) (SameOps.ite (h1.step (State.holdWrite_keeps _ _ _)) ?_)
  exact SameOps.step (SameOps.ite (h1.trans (State.fetchOld_sameOps _ _ _)) (h1.step (State.setReq_keeps _ _))) (State.stallEnd_keeps _)

/-! ### Commits -/

/-- Marks of a line that a write drops: the candidates of an op change, not the ops. -/
theorem State.dropMarks_sameOps (line : Nat) (s : State) : SameOps s (s.dropMarks line) := by
  unfold SameOps State.dropMarks
  simp only [State.modCip_put, State.putCip_spl, State.modSpl_put, State.putSpl_spl, State.modInteg_put, State.putInteg_spl, List.map_map]
  rfl

theorem State.writeDone_sameOps (r : Req) (s : State) : SameOps s (s.writeDone r) := by
  unfold State.writeDone
  extract_lets clean s1 forget s2 s3
  have h1 : SameOps s s1 := SameOps.ite (SameOps.refl s) (State.setSealBit_keeps _ _ s).sameOps
  have h2 : SameOps s s2 := SameOps.ite (h1.step (State.putLds_keeps _ _)) h1
  have h3 : SameOps s s3 := SameOps.ite h2 (h2.trans (State.dropMarks_sameOps _ _))
  exact (h3.step (State.perf_keeps _ _ _ _ _)).trans (State.endFlow_respond_sameOps _ _ _ _ _)

/-- A request that goes on, as a write or as a read. -/
theorem State.proceed_sameOps (r : Req) (hbm : HbmRead) (s : State) :
    SameOps s (if r.isWrite then s.writeProceed r hbm else s.readProceed r hbm) :=
  SameOps.ite (State.writeProceed_sameOps _ _ _) (State.readProceed_sameOps _ _ _)

/-- A flow that waited for a victim begins in the way that the victim has left. -/
theorem State.beginFlow_sameOps {k : Nat} {r : Req} {s t : State} {f : FlowStep} (h : (s.setTent k {}).beginFlow r = (t, f)) :
    SameOps s t :=
  (State.setTent_keeps _ _ s).sameOps.step ((State.beginFlow_keeps r _).fst h)

theorem State.flowContinue_sameOps (line : Nat) (s : State) : SameOps s (s.flowContinue line) := by
  unfold State.flowContinue
  extract_lets own s1 waits
  have h1 : SameOps s s1 := SameOps.foldl (fun t r => State.proceed_sameOps r {} t) own (SameOps.refl s)
  refine SameOps.ite (SameOps.refl s) (SameOps.foldl (fun t r => ?_) waits h1)
  split
  · exact SameOps.refl t
  extract_lets r'
  split
  case h_1 h => exact (State.beginFlow_sameOps h).step (State.toConflict_keeps _ _)
  case h_2 h => exact State.beginFlow_sameOps h
  case h_3 h =>
    split
    · exact (State.beginFlow_sameOps h).trans (State.proceed_sameOps _ _ _)
    · exact State.beginFlow_sameOps h

theorem State.backDone_sameOps (r : Req) (s : State) : SameOps s (s.backDone r) := by
  unfold State.backDone
  exact SameOps.ite (State.flowContinue_sameOps _ s) (SameOps.refl s)

theorem State.commitWrite_sameOps (r : Req) (s0 : State) : SameOps s0 (s0.commitWrite r) := by
  have hdone : ∀ s : State, SameOps s ((s.writeDone r).backDone r) := fun s =>
    (State.writeDone_sameOps r s).trans (State.backDone_sameOps r _)
  unfold State.commitWrite
  refine SameOps.ite (hdone s0) ?_
  extract_lets s through
  have h : SameOps s0 s := SameOps.ite (SameOps.refl s0) ((State.modFlush_keeps _ s0).sameOps.step (State.flushPatches_keeps _ _))
  split
  · exact SameOps.ite h (h.step (State.holdWrite_keeps _ _ _))
  next s1 hstore =>
    have h1 : SameOps s0 s1 := h.step (State.storeWrite_keeps _ _ _ _ _ _ hstore)
    exact SameOps.ite (h1.step (State.setReq_keeps _ _)) (h1.trans (hdone s1))

theorem State.commitLine_sameOps (line : Nat) (s : State) : SameOps s (s.commitLine line) := by
  unfold State.commitLine
  refine SameOps.foldl (fun t id => ?_) _ (SameOps.refl s)
  split
  · exact SameOps.ite (State.commitWrite_sameOps _ t) (SameOps.refl t)
  · exact SameOps.refl t

/-! ### A line write at its slice -/

theorem State.writeLine_sameOps (line : Nat) (v : Line) (stream : Bool) (s0 : State) : SameOps s0 (s0.writeLine line v stream).1 := by
  unfold State.writeLine
  split
  rename_i s held heq
  have h : SameOps s0 s := by
    split at heq
    · obtain ⟨rfl, -⟩ := Prod.mk.inj heq
      exact SameOps.refl s0
    · exact ((State.dirtiedRecord_keeps s0).fst heq).sameOps
  extract_lets once195 s1 str v' forget
  have h195 : SameOps s (once195 s) := SameOps.ite (SameOps.refl s) ((State.modMed_keeps _ s).sameOps.step (State.fire_keeps _ _))
  have h1 : SameOps s0 s1 := h.trans (State.commitLine_sameOps _ _)
  refine SameOps.iteFst h (SameOps.iteFst (SameOps.iteFst (h.step (State.sealedWrite_keeps _ _)) (h.trans h195)) (SameOps.iteFst h ?_))
  refine SameOps.iteFst h1 (SameOps.iteFst (h1.step (State.stallSlice_keeps _ _)) ?_)
  split
  · exact SameOps.ite h1 (h1.step (State.stagingSlice_keeps _ _))
  next s2 hstore =>
    extract_lets s3
    have h2 : SameOps s0 s2 := h1.step (State.storeWrite_keeps _ _ _ _ _ _ hstore)
    have h3 : SameOps s0 s3 := (h2.step (State.setSealBit_keeps _ _ _)).trans (State.dropMarks_sameOps _ _)
    exact ((SameOps.ite h3 (h3.step (State.putLds_keeps _ _))).step (State.stallEnd_keeps _)).step (State.dirtyChanged_keeps _)

theorem State.markLine_sameOps (line origin : Nat) (s : State) : SameOps s (s.markLine line origin).1 := by
  unfold State.markLine
  exact State.writeLine_sameOps _ _ _ s

end Sys2Proof.Machine
end

section
/-!
Cause bits through the loss of an HBM block (R296): whatever a block held, no source that has fired is taken back.
-/
namespace Sys2Proof.Machine

-- Proofs are elaborated one at a time: the check's memory bound counts the stack of every thread that waits.
set_option Elab.async false

/-- No cause bit is cleared. -/
def KeepsCauses (s t : State) : Prop := ∀ n, n < 1024 → s.fired n = true → t.fired n = true

theorem KeepsCauses.refl (s : State) : KeepsCauses s s := fun _ _ h => h

theorem KeepsCauses.trans {s t u : State} (h : KeepsCauses s t) (k : KeepsCauses t u) : KeepsCauses s u :=
  fun n hn hf => k n hn (h n hn hf)

theorem KeepsCauses.ite {c : Prop} [Decidable c] {s a b : State} (ha : KeepsCauses s a) (hb : KeepsCauses s b) :
    KeepsCauses s (if c then a else b) := by split <;> assumption

theorem KeepsCauses.foldl {α : Type} {f : State → α → State} (hf : ∀ t a, KeepsCauses t (f t a)) (l : List α) {s t : State}
    (h : KeepsCauses s t) : KeepsCauses s (l.foldl f t) := by
  induction l generalizing t with
  | nil => exact h
  | cons a l ih => exact ih (h.trans (hf t a))

theorem Quiet.keepsCauses {s t : State} (h : Quiet s t) : KeepsCauses s t := h.2

/-- A chain goes on with an operation that only reports. -/
theorem KeepsCauses.report {s t u : State} (h : KeepsCauses s t) (k : Quiet t u) : KeepsCauses s u := h.trans k.keepsCauses

/-- A chain goes on with a write of a field that is no cause bit. -/
theorem KeepsCauses.setF {s t : State} (h : KeepsCauses s t) (f : Fld) (v : Nat)
    (hoff : f.off < 0x50080 ∨ 0x50100 ≤ f.off := by decide) : KeepsCauses s (t.setF f v) := fun n hn hf => by
  rw [State.setF_fired n v t hn hoff]
  exact h n hn hf

theorem State.cleaningUpdate_keepsCauses (s : State) : KeepsCauses s s.cleaningUpdate := by
  have hrefl := KeepsCauses.refl s
  unfold State.cleaningUpdate
  exact KeepsCauses.ite (KeepsCauses.ite (hrefl.setF _ _) hrefl) (KeepsCauses.ite (hrefl.setF _ _) hrefl)

theorem State.flushUpdate_keepsCauses (s : State) : KeepsCauses s s.flushUpdate := by
  unfold State.flushUpdate
  extract_lets b n t us gpf s1 off late
  have h1 : KeepsCauses s s1 := (((KeepsCauses.refl s).setF _ _).setF _ _).setF _ _
  exact KeepsCauses.ite ((h1.setF _ _).report (State.fire_quiet _ _)) (h1.setF _ _)

theorem State.dirtyChanged_keepsCauses (s : State) : KeepsCauses s s.dirtyChanged :=
  (State.cleaningUpdate_keepsCauses s).trans (State.flushUpdate_keepsCauses _)

theorem State.unattributed_keepsCauses (set way : Nat) (pcu : Bool) (slice : Nat) (s : State) :
    KeepsCauses s (s.unattributed set way pcu slice) := by
  unfold State.unattributed
  exact (((((KeepsCauses.refl s).setF _ _).setF _ _).setF _ _).setF _ _).setF _ _ |>.report (State.fireRec_quiet _ _ _ _)

theorem State.tagBlockRecover_keepsCauses (set : Nat) (bad : List Nat) (s : State) : KeepsCauses s (s.tagBlockRecover set bad) := by
  unfold State.tagBlockRecover
  extract_lets slice clear one s1
  have hway : ∀ (k : Nat) (w : Way) (u : State), KeepsCauses u (u.setWay k w) := fun k w u =>
    ((State.setWay_keeps k w u).quiet (by decide)).keepsCauses
  have h1 : KeepsCauses s s1 := KeepsCauses.foldl (fun t w => hway _ _ t) _ ((KeepsCauses.refl s).setF _ _)
  have hone : ∀ u w, KeepsCauses u (one s u w) := fun u w => by
    unfold one
    extract_lets x
    split
    · exact KeepsCauses.ite (State.unattributed_keepsCauses _ _ _ _ u) (hway _ _ u)
    · exact State.unattributed_keepsCauses _ _ _ _ u
  exact ((KeepsCauses.foldl hone _ h1).report (State.fire_quiet _ _)).trans (State.dirtyChanged_keepsCauses _)

theorem State.suspectSet_keepsCauses (set : Nat) (s : State) : KeepsCauses s (s.suspectSet set) := by
  unfold State.suspectSet
  extract_lets clear s1 s2
  have h1 : KeepsCauses s s1 :=
    KeepsCauses.foldl (fun t k => ((State.setTent_keeps _ _ t).quiet (by decide)).keepsCauses) _ (KeepsCauses.refl s)
  have h2 : KeepsCauses s s2 := h1.report (State.putCoh_quiet _ _)
  exact KeepsCauses.ite (KeepsCauses.refl s) ((h2.setF _ _).report (State.fire_quiet _ _))

theorem State.spoolError_keepsCauses (n code at_ : Nat) (s : State) : KeepsCauses s (s.spoolError n code at_) := by
  unfold State.spoolError
  have hctx : KeepsCauses s (s.setCtx n { s.ctx n with state := 3, err := code, errAt := at_ }) :=
    ((State.setCtx_keeps _ _ s).quiet (by decide)).keepsCauses
  exact (hctx.setF _ _ (.inr (by dsimp only; omega))).report (State.fire_quiet _ _)

theorem State.contextLost_keepsCauses (block : Nat) (s : State) : KeepsCauses s (s.contextLost block) := by
  unfold State.contextLost
  refine KeepsCauses.ite (State.putSpl_quiet _ s).keepsCauses (KeepsCauses.foldl (fun t n => ?_) _ (KeepsCauses.refl s))
  exact KeepsCauses.ite (State.spoolError_keepsCauses _ _ _ t) (KeepsCauses.refl t)

theorem State.dirtiedRecord_keepsCauses (s : State) : KeepsCauses s s.dirtiedRecord.1 := by
  unfold State.dirtiedRecord
  split
  next k _ =>
    extract_lets s1
    have hclean : KeepsCauses s (s.modFlush fun f => { f with clean := none }) := (State.putFlush_quiet _ s).keepsCauses
    have h1 : KeepsCauses s s1 := hclean.report (State.hamper_quiet 0x0802 57 (le 1 k) _)
    simp only [apply_ite Prod.fst]
    exact KeepsCauses.ite (h1.report (State.fire_quiet 57 s1)) h1
  · exact KeepsCauses.refl s

theorem State.pairLost_keepsCauses (sealOf : Option Nat) (s : State) : KeepsCauses s (s.pairLost sealOf) := by
  unfold State.pairLost
  split
  · exact ((State.putMed_quiet _ s).trans (State.fire_quiet _ _)).keepsCauses
  · exact (State.putXlt_quiet _ s).keepsCauses.trans (State.dirtiedRecord_keepsCauses _)

/-- What a lost block leads to, region by region (Table 09-3), clears no cause. -/
theorem State.blockLost_keepsCauses (region block : Nat) (both : Bool) (sealOf : Option Nat) (s : State) :
    KeepsCauses s (s.blockLost region block both sealOf) := by
  have hrefl := KeepsCauses.refl s
  unfold State.blockLost
  split
  · exact KeepsCauses.ite (State.tagBlockRecover_keepsCauses _ _ s) hrefl
  · exact (State.putXlt_quiet _ s).keepsCauses
  · exact (State.putXlt_quiet _ s).keepsCauses
  · exact State.suspectSet_keepsCauses _ s
  · exact State.contextLost_keepsCauses _ s
  · exact KeepsCauses.ite (State.pairLost_keepsCauses _ s) hrefl
  · exact KeepsCauses.ite hrefl ((State.putMed_quiet _ s).trans (State.fire_quiet _ _)).keepsCauses
  · exact KeepsCauses.ite (KeepsCauses.ite (State.pairLost_keepsCauses _ s) hrefl)
      (KeepsCauses.foldl (fun t _ => (State.putXlt_quiet _ t).keepsCauses) _ hrefl)
  · exact hrefl

end Sys2Proof.Machine
end

section
/-!
Data integrity commands (R296, R297, R306, R307, R309 to R313): the patrol, the rebuild of a bucket, injections and the scrub, each event's
effect.
-/
namespace Sys2Proof.Machine

-- Proofs are elaborated one at a time: the check's memory bound counts the stack of every thread that waits.
set_option Elab.async false

/-! ### The HBM patrol and the rebuild of a bucket (R296, R297) -/

theorem worseHealth_uncorrectable (h : Health) : worseHealth .uncorrectable h = .uncorrectable := by cases h <;> rfl

/-- The patrol finds an uncorrectable block of a region that it reads. -/
theorem exec_hbmPatrol_uncorrectable {s : State} {e : HbmBlock} (both : Bool) (sealOf : Option Nat) (hrun : s.getF SCB.CTRL_PATROL_H ≠ 0)
    (hfilled : s.start.filled = true) (hregion : e.region ≠ 0) (hblock : e.block < hbmBlocks s.order e.region)
    (hbad : e.health = .uncorrectable) :
    exec (.hbmPatrol e both sealOf) s
      = .next (((s.injBlock e.region e.block).1.hbmUncorr e.region e.block).blockLost e.region e.block both sealOf).healthCheck := by
  have hreads : (decide (s.getF SCB.CTRL_PATROL_H = 0) || !s.start.filled || decide (e.region = 0)
      || decide (hbmBlocks s.order e.region ≤ e.block)) = false := by
    rw [decide_eq_false hrun, hfilled, decide_eq_false hregion, decide_eq_false (Nat.not_le.mpr hblock)]
    rfl
  rw [exec_hbmPatrol]
  unfold execHbmPatrol
  rw [hreads, if_neg (by decide), hbad]
  dsimp only
  rw [worseHealth_uncorrectable]

/-- An uncorrectable block fires source 137 (R296). -/
theorem State.hbmUncorr_fired (region block : Nat) (s : State) : (s.hbmUncorr region block).fired 137 = true :=
  Quiet.fired_fire rfl (State.hamper_quiet _ _ _ _)

/-- The source stays fired through what the loss of the block leads to. -/
theorem State.blockLost_fired (region block : Nat) (both : Bool) (sealOf : Option Nat) (s : State) :
    (((s.hbmUncorr region block).blockLost region block both sealOf).healthCheck).fired 137 = true :=
  ((State.blockLost_keepsCauses region block both sealOf _).report (State.healthCheck_quiet _)) 137 (by decide)
    (State.hbmUncorr_fired region block s)

/-- A lost block of the map is marked bad (R297). -/
theorem State.blockLost_mapBad (block : Nat) (both : Bool) (sealOf : Option Nat) (s : State) :
    Tab.get (fun _ => false) (s.blockLost 2 block both sealOf).healthCheck.xlt.mapBad block = true := by
  rw [(State.healthCheck_keeps _).1 .xlt_ (by decide)]
  exact Tab.get_set_same (fun _ => false) s.xlt.mapBad block true

theorem bucketRebuildDone_clears {s : State} {b : Nat} (hbad : Tab.get (fun _ => false) s.xlt.bucketBad b = true) :
    ∃ t, exec (.bucketRebuildDone b) s = .next t ∧ Tab.get (fun _ => false) t.xlt.bucketBad b = false ∧ t.fired 136 = true := by
  rw [exec_bucketRebuildDone]
  unfold execBucketRebuildDone
  rw [if_pos hbad]
  refine ⟨_, rfl, ?_, Quiet.fired_fire rfl (State.putReqs_quiet _ _)⟩
  rw [(State.repairRelease_keeps _).1 .xlt_ (by decide), (State.fire_keeps _ _).1 .xlt_ (by decide)]
  exact Tab.get_set_same (fun _ => false) s.xlt.bucketBad b false

/-! ### Injection (R306, R307) -/

/-- The bits of a number below one that is set are its own. -/
theorem or_two_pow_field (v : Nat) {lo w k : Nat} (h : lo + w ≤ k) : (v ||| 2 ^ k) / 2 ^ lo % 2 ^ w = v / 2 ^ lo % 2 ^ w := by
  refine Nat.eq_of_testBit_eq fun i => ?_
  simp only [Nat.testBit_mod_two_pow, Nat.testBit_div_two_pow, Nat.testBit_or, Nat.testBit_two_pow]
  by_cases hi : i < w
  · rw [decide_eq_false (by omega : ¬ k = i + lo), Bool.or_false]
  · rw [decide_eq_false hi, Bool.false_and, Bool.false_and]

theorem or_two_pow_bit (v k i : Nat) : bit (v ||| 2 ^ k) i = (bit v i || decide (k = i)) := by
  simp only [bit, Nat.testBit_or, Nat.testBit_two_pow]

theorem State.injAction_ok {s : State} {m off : Nat} (hmay : s.mayWrite m off = true) (hwho : s.mgmtOrDebug m = true)
    (act : State → State) : s.injAction m off act = (act s).report m off .ok := by
  unfold State.injAction
  rw [if_pos (by simpa only [State.mgmtOrDebug] using hwho), State.regAction_ok hmay]

theorem State.report_getF (m off : Nat) (r : Access) (s : State) (f : Fld) : (s.report m off r).getF f = s.getF f := by
  unfold State.getF
  rw [State.reg_congr ((State.report_keeps m off r s).1 .regs_ (by decide))]

theorem State.report_integ (m off : Nat) (r : Access) (s : State) : (s.report m off r).integ = s.integ :=
  (State.report_keeps m off r s).1 .integ_ (by decide)

/-- An injection that INJ_CTRL arms: its point, and its count at least 1 (R307). -/
theorem State.injCtrl_arms {s : State} {v : Nat} (harm : bit v 31 = true) (hon : bit v 30 = false)
    (hregion : bits v 26 24 = 5 → 1 ≤ s.getF SCB.INJ_ADDR_HI_REGION ∧ s.getF SCB.INJ_ADDR_HI_REGION ≤ 8) (hpoint : bits v 26 24 ≠ 7) :
    (s.injCtrl v).integ.inj.map (fun i => (i.point, i.left)) = some (bits v 26 24, max 1 (v % 4096))
      ∧ (s.injCtrl v).getF SCB.INJ_CTRL_ARM = 1 ∧ (s.injCtrl v).getF SCB.INJ_LEFT_COUNT = max 1 (v % 4096) := by
  unfold State.injCtrl
  extract_lets point s1 region left mask
  have hsame : region = s.getF SCB.INJ_ADDR_HI_REGION := by
    unfold region s1
    rw [State.getF_setF_off _ (by decide), State.getF_setF_off _ (by decide)]
  have harmed : (!bit v 31 || decide (point = 7) || (decide (point = 5) && (decide (region = 0) || decide (9 ≤ region)))) = false := by
    rw [harm, decide_eq_false hpoint]
    by_cases h5 : point = 5
    · obtain ⟨hlo, hhi⟩ := hregion h5
      rw [hsame, decide_eq_false (by omega : ¬ s.getF SCB.INJ_ADDR_HI_REGION = 0),
        decide_eq_false (by omega : ¬ 9 ≤ s.getF SCB.INJ_ADDR_HI_REGION), Bool.or_self, Bool.and_false]
      rfl
    · rw [decide_eq_false h5]
      rfl
  rw [hon, if_neg (by decide), harmed, if_neg (by decide)]
  refine ⟨rfl, ?_, ?_⟩
  · rw [State.getF_setF_off _ (by decide), State.getF_setF (by decide)]
    rfl
  · rw [State.getF_setF (by decide)]
    exact Nat.mod_eq_of_lt (by simp only [left, SCB.INJ_LEFT_COUNT]; omega)

theorem injArm_arms {s : State} {m : Nat} {v : Word} (hmay : s.mayWrite m 0x1c0100 = true) (hwho : s.mgmtOrDebug m = true)
    (hon : bit v.toNat 30 = false)
    (hregion : bits v.toNat 26 24 = 5 → 1 ≤ s.getF SCB.INJ_ADDR_HI_REGION ∧ s.getF SCB.INJ_ADDR_HI_REGION ≤ 8)
    (hpoint : bits v.toNat 26 24 ≠ 7) :
    ∃ t, exec (.injArm m v) s = .next t
      ∧ t.integ.inj.map (fun i => (i.point, i.left)) = some (bits v.toNat 26 24, max 1 (v.toNat % 4096))
      ∧ t.getF SCB.INJ_CTRL_ARM = 1 ∧ t.getF SCB.INJ_LEFT_COUNT = max 1 (v.toNat % 4096) := by
  have hword : (v ||| 0x80000000).toNat = v.toNat ||| 2 ^ 31 := BitVec.toNat_or ..
  have hpointSame : bits (v.toNat ||| 2 ^ 31) 26 24 = bits v.toNat 26 24 := or_two_pow_field _ (by decide : 24 + 3 ≤ 31)
  have hcountSame : (v.toNat ||| 2 ^ 31) % 4096 = v.toNat % 4096 := by
    simpa using or_two_pow_field v.toNat (by decide : 0 + 12 ≤ 31)
  rw [exec_injArm]
  unfold execInjArm
  rw [State.injAction_ok hmay hwho, hword]
  refine ⟨_, rfl, ?_⟩
  rw [State.report_integ, State.report_getF, State.report_getF, ← hpointSame, ← hcountSame]
  rw [← hpointSame] at hregion hpoint
  refine State.injCtrl_arms ?_ ?_ hregion hpoint
  · rw [or_two_pow_bit, decide_eq_true rfl, Bool.or_true]
  · rw [or_two_pow_bit, hon]
    rfl

theorem State.injEnd_ends (s : State) :
    s.injEnd.integ.inj = none ∧ s.injEnd.getF SCB.INJ_CTRL_ARM = 0 ∧ s.injEnd.getF SCB.INJ_LEFT_COUNT = 0 := by
  unfold State.injEnd
  refine ⟨rfl, ?_, ?_⟩
  · rw [State.getF_setF_off _ (by decide), State.getF_setF (by decide)]
    rfl
  · rw [State.getF_setF (by decide)]
    rfl

theorem injDisarm_ends {s : State} {m : Nat} (v : Word) (hmay : s.mayWrite m 0x1c0100 = true) (hwho : s.mgmtOrDebug m = true) :
    ∃ t, exec (.injDisarm m v) s = .next t ∧ t.integ.inj = none ∧ t.getF SCB.INJ_CTRL_ARM = 0 ∧ t.getF SCB.INJ_LEFT_COUNT = 0 := by
  have hword : (v ||| 0x40000000).toNat = v.toNat ||| 2 ^ 30 := BitVec.toNat_or ..
  have hoff : bit (v.toNat ||| 2 ^ 30) 30 = true := by rw [or_two_pow_bit, decide_eq_true rfl, Bool.or_true]
  rw [exec_injDisarm]
  unfold execInjDisarm
  rw [State.injAction_ok hmay hwho, hword]
  refine ⟨_, rfl, ?_⟩
  rw [State.report_integ, State.report_getF, State.report_getF]
  unfold State.injCtrl
  extract_lets point s1 region left mask
  rw [if_pos hoff]
  exact State.injEnd_ends s1

/-! ### An op after a step -/

theorem Keeps.opOf {m : Nat} {s t : State} (h : Keeps m s t) (id : Nat) (hm : m.testBit 37 = false := by decide) :
    t.opOf id = s.opOf id :=
  congrArg (fun p : Spl => p.ops.find? fun x : OpRun => x.id == id) (h.1 .spl_ hm)

/-- An op in progress reads back what a step leaves of it. -/
theorem State.opOf_setOp {s : State} {o : OpRun} (h : (s.opOf o.id).isSome = true) : (s.setOp o).opOf o.id = some o := by
  obtain ⟨x, hx⟩ := Option.isSome_iff_exists.mp h
  have hid : (x.id == o.id) = true := List.find?_some (p := fun y : OpRun => y.id == o.id) hx
  have hsame : ((fun y : OpRun => y.id == o.id) ∘ fun y => if y.id == o.id then o else y) = fun y => y.id == o.id := by
    funext y
    rw [Function.comp_apply]
    split
    case isTrue hy => rw [hy, beq_self_eq_true]
    case isFalse => rfl
  unfold State.opOf State.setOp
  rw [State.modSpl_put, State.putSpl_spl, List.find?_map, hsame]
  exact (congrArg (Option.map _) hx).trans (congrArg some (if_pos hid))

/-- An op that ends, or that waits to end, keeps its progress. -/
theorem State.stopOp_opOf {s : State} {o : OpRun} (h : (s.opOf o.id).isSome = true) (code : Nat) :
    ∃ st cl, (s.stopOp o code).opOf o.id = some { o with status := st, closing := cl, waits := [] } := by
  have hflows : ((s.flowsDrop o.waits).opOf o.id).isSome = true := by rwa [(State.flowsDrop_keeps _ s).opOf]
  unfold State.stopOp
  split
  · exact ⟨some code, o.closing, State.opOf_setOp (o := { o with status := some code, waits := [] }) hflows⟩
  · exact ⟨o.status, some code, State.opOf_setOp (o := { o with closing := some code, waits := [] }) hflows⟩

theorem State.closeOp_opOf {s : State} {o : OpRun} (h : (s.opOf o.id).isSome = true) (code : Nat) :
    ∃ st cl w, (s.closeOp o code).opOf o.id = some { o with status := st, closing := cl, waits := w } := by
  unfold State.closeOp
  split
  · obtain ⟨st, cl, hstop⟩ := State.stopOp_opOf h code
    exact ⟨st, cl, [], hstop⟩
  · exact ⟨o.status, some code, o.waits, State.opOf_setOp (o := { o with closing := some code }) h⟩

/-- One more line is done: the op has moved one line on, ended or not. -/
theorem State.lineDone_opOf {s : State} {o : OpRun} (h : (s.opOf o.id).isSome = true) (n : Nat) :
    ((s.lineDone o n).opOf o.id).map (fun x => (x.next, x.count)) = some (o.next + 1, o.count + n) := by
  unfold State.lineDone
  extract_lets o1 s1
  have h1 : (s1.opOf o1.id).isSome = true := by rwa [(State.perf_keeps _ _ _ _ s).opOf]
  split
  · rw [State.opOf_setOp h1]
    rfl
  · obtain ⟨st, cl, w, hclose⟩ := State.closeOp_opOf h1 0
    rw [hclose]
    rfl

/-! ### The scrub (R309 to R313) -/

theorem scrubGo_starts {s : State} {m : Nat} (v : Word) (hmay : s.mayWrite m 0x1c0210 = true) (hidle : s.getF SCB.SCRUB_STATUS_BUSY = 0) :
    ∃ t, exec (.scrubGo m v) s = .next t ∧ t.getF SCB.SCRUB_STATUS_BUSY = 1
      ∧ t.integ.scrub.map (fun x => (x.next, x.mark, x.cands))
        = some (s.getF SCB.SCRUB_BASE_LO_VALUE / 64 + 2 ^ 26 * (s.getF SCB.SCRUB_BASE_HI_VALUE % 2 ^ 13), bit v.toNat 1, []) := by
  have hword : (v ||| 1).toNat = v.toNat ||| 2 ^ 0 := BitVec.toNat_or ..
  have hgo : bit (v.toNat ||| 2 ^ 0) 0 = true := by rw [or_two_pow_bit, decide_eq_true rfl, Bool.or_true]
  have hmark : bit (v.toNat ||| 2 ^ 0) 1 = bit v.toNat 1 := by
    rw [or_two_pow_bit, decide_eq_false (by decide), Bool.or_false]
  have hbusy : s.flag SCB.SCRUB_STATUS_BUSY = false := by
    unfold State.flag
    rw [hidle]
    rfl
  rw [exec_scrubGo]
  unfold execScrubGo
  rw [State.regAction_ok hmay, hword]
  refine ⟨_, rfl, ?_⟩
  rw [State.report_getF, State.report_integ]
  unfold State.scrubCmd
  rw [hbusy, if_neg (by decide), hgo, Bool.not_true]
  refine ⟨?_, ?_⟩
  · rw [if_neg (by decide), State.getF_setF_off _ (by decide), State.getF_setF (by decide)]
    rfl
  · rw [if_neg (by decide), ← hmark]
    extract_lets first n mark
    have hfirst : first = s.getF SCB.SCRUB_BASE_LO_VALUE / 64 + 2 ^ 26 * (s.getF SCB.SCRUB_BASE_HI_VALUE % 2 ^ 13) := by
      unfold first
      rw [State.getF_setF_off _ (by decide), State.getF_setF_off _ (by decide)]
    rw [← hfirst]
    rfl

/-- A line of the register form that can be scrubbed now is done: the scrub stands at the next one. -/
theorem State.scrubNext_advances {s : State} {x : Scrub} (h : (s.scrubLine x.next none x.sum).isSome = true) :
    (s.scrubNext x).integ.scrub.map (fun y => (y.next, y.stop)) = some (x.next + 1, x.stop) := by
  obtain ⟨⟨u, sum, cand⟩, hline⟩ := Option.isSome_iff_exists.mp h
  unfold State.scrubNext
  rw [hline]
  rfl

theorem scrubLine_advances {s : State} {x : Scrub} (hruns : s.scrubRuns = true) (hscrub : s.integ.scrub = some x)
    (hmore : x.next < x.stop) (hnow : (s.scrubLine x.next none x.sum).isSome = true) :
    ∃ t, exec (.scrubLine false x.next) s = .next t
      ∧ t.integ.scrub.map (fun y => (y.next, y.stop)) = some (x.next + 1, x.stop) := by
  rw [exec_scrubLine]
  unfold execScrubLine
  rw [hruns, hscrub, Bool.not_true, if_neg (by decide), if_neg (by decide)]
  dsimp only
  rw [decide_eq_true rfl, decide_eq_true hmore, Bool.and_self, if_pos rfl]
  refine ⟨_, rfl, ?_⟩
  rw [(State.healthCheck_keeps _).1 .integ_ (by decide), State.scrubNext_advances hnow]

/-- A line of a SCRUB_RANGE that its owner may scrub now is done. -/
theorem State.scrubStep_advances {s : State} {o : OpRun} (hop : s.opOf o.id = some o) (hnone : o.cands = [])
    (hread : s.lineStop o.owner (State.srcLine o) false = none) (hwrite : s.lineStop o.owner (State.srcLine o) true = none)
    (hnow : (s.scrubLine (State.srcLine o) (State.ldOfOwner o.owner) { o.sum with mark := dA o.desc }).isSome = true) :
    ((s.scrubStep o).opOf o.id).map (fun x => (x.next, x.count)) = some (o.next + 1, o.count + 1) := by
  obtain ⟨⟨u, sum, cand⟩, hline⟩ := Option.isSome_iff_exists.mp hnow
  have hu : (u.opOf o.id).isSome = true := by rw [(State.scrubLine_keeps _ _ _ s _ hline).opOf, hop]; rfl
  unfold State.scrubStep
  rw [hnone]
  dsimp only
  rw [hread, hwrite, ite_self, hline]
  exact State.lineDone_opOf (o := { o with sum, cands := if cand && dA o.desc then [State.srcLine o] else [] }) hu 1

/-- The marking step of an op's candidate: once the line is marked it is a candidate no more (R311). -/
theorem State.scrubStep_marks {s : State} {o : OpRun} {line : Nat} {rest : List Nat} (hop : s.opOf o.id = some o)
    (hcands : o.cands = line :: rest) (hmark : (s.markLine line 0).2 = true) :
    ((s.scrubStep o).opOf o.id).map (·.cands) = some rest := by
  have hsame : ((s.markLine line 0).1.opOf o.id).isSome = true := (State.markLine_sameOps line 0 s).opOf (by rw [hop]; rfl)
  unfold State.scrubStep
  rw [hcands]
  dsimp only
  rw [show s.markLine line 0 = ((s.markLine line 0).1, true) from Prod.ext rfl hmark]
  dsimp only
  split
  · obtain ⟨st, cl, w, hclose⟩ := State.closeOp_opOf (o := { o with cands := rest }) hsame ‹_›
    rw [hclose]
    rfl
  · rw [State.opOf_setOp (o := { o with cands := rest }) hsame]
    rfl

theorem scrubLine_advances_op {s : State} {o : OpRun} {line : Nat} (hruns : s.scrubRuns = true)
    (hnext : (s.spl.ops.find? fun o =>
      o.desc.op == 0x04 && o.status.isNone && o.cands.isEmpty && o.closing.isNone && o.desc.src / 64 + o.next == line) = some o)
    (hop : s.opOf o.id = some o) (hread : s.lineStop o.owner line false = none) (hwrite : s.lineStop o.owner line true = none)
    (hnow : (s.scrubLine line (State.ldOfOwner o.owner) { o.sum with mark := dA o.desc }).isSome = true) :
    ∃ t, exec (.scrubLine true line) s = .next t ∧ (t.opOf o.id).map (fun x => (x.next, x.count)) = some (o.next + 1, o.count + 1) := by
  have hfound := List.find?_some hnext
  simp only [Bool.and_eq_true, beq_iff_eq, List.isEmpty_iff] at hfound
  obtain ⟨⟨⟨-, hnone⟩, -⟩, rfl⟩ := hfound
  rw [exec_scrubLine]
  unfold execScrubLine
  rw [hruns, Bool.not_true, if_neg (by decide), if_pos rfl, hnext]
  refine ⟨_, rfl, ?_⟩
  rw [(State.healthCheck_keeps _).opOf, State.scrubStep_advances hop hnone hread hwrite hnow]

theorem scrubMark_drops {s : State} {x : Scrub} {line : Nat} (hruns : s.scrubRuns = true) (hscrub : s.integ.scrub = some x)
    (hcand : x.cands.contains line = true) (hmark : (s.markLine line 0).2 = true) :
    ∃ t, exec (.scrubMark false line) s = .next t ∧ t.integ.scrub.all (fun y => !y.cands.contains line) = true := by
  rw [exec_scrubMark]
  unfold execScrubMark
  rw [hruns, hscrub, Bool.not_true, if_neg (by decide), if_neg (by decide)]
  dsimp only
  rw [hcand, Bool.not_true, if_neg (by decide), show s.markLine line 0 = ((s.markLine line 0).1, true) from Prod.ext rfl hmark]
  refine ⟨_, rfl, ?_⟩
  rw [(State.healthCheck_keeps _).1 .integ_ (by decide), State.modInteg_put, State.putInteg_integ]
  cases (s.markLine line 0).1.integ.scrub <;> simp

theorem scrubMark_drops_op {s : State} {o : OpRun} {line : Nat} {rest : List Nat} (hruns : s.scrubRuns = true)
    (hfirst : (s.spl.ops.find? fun o => o.desc.op == 0x04 && o.status.isNone && o.cands.head? == some line) = some o)
    (hop : s.opOf o.id = some o) (hcands : o.cands = line :: rest) (hmark : (s.markLine line 0).2 = true) :
    ∃ t, exec (.scrubMark true line) s = .next t ∧ (t.opOf o.id).map (·.cands) = some rest := by
  rw [exec_scrubMark]
  unfold execScrubMark
  rw [hruns, Bool.not_true, if_neg (by decide), if_pos rfl, hfirst]
  refine ⟨_, rfl, ?_⟩
  rw [(State.healthCheck_keeps _).opOf, State.scrubStep_marks hop hcands hmark]

/-- The end of a scrub shows its summary with source 133, where every line is done or the scrub may not go on (R312, R313). -/
theorem scrubComplete_shows {s : State} {x : Scrub} (hscrub : s.integ.scrub = some x)
    (hover : s.scrubRuns = false ∨ (x.stop ≤ x.next ∧ x.cands = [])) :
    ∃ t, exec .scrubComplete s = .next t ∧ t.integ.scrub = none ∧ t.getF SCB.SCRUB_STATUS_BUSY = 0
      ∧ t.getF SCB.SCRUB_STATUS_DONE = 1 ∧ t.fired 133 = true := by
  have hends : (!!s.scrubRuns && (decide (x.next < x.stop) || !x.cands.isEmpty)) = false := by
    rcases hover with hstopped | ⟨hlines, hcands⟩
    · rw [hstopped]
      rfl
    · rw [decide_eq_false (Nat.not_lt.mpr hlines), hcands, Bool.and_eq_false_iff]
      exact .inr rfl
  rw [exec_scrubComplete]
  unfold execScrubComplete
  rw [hscrub]
  dsimp only
  rw [hends, if_neg (by decide)]
  refine ⟨_, rfl, ?_, ?_, ?_, State.fired_fire _ rfl⟩
  · rw [(State.fire_keeps _ _).1 .integ_ (by decide)]
    rfl
  · rw [State.fire_getF _ _ (.inr (by decide)), State.getF_setF_ne _ _ (.inr ⟨by decide, .inr (by decide)⟩), State.getF_setF (by decide)]
    rfl
  · rw [State.fire_getF _ _ (.inr (by decide)), State.getF_setF (by decide)]
    rfl

/-- Settles O21: the patrol, the bucket, the injection and the scrub, one lemma for each event. -/
theorem integrityCommandsComplete : Obligations.IntegrityCommandsComplete := by
  unfold Obligations.IntegrityCommandsComplete
  refine ⟨fun s k b both so hrun hfilled hblock => ?_, fun s e both so hrun hfilled hregion hblock hbad => ?_,
    fun _ _ hbad => bucketRebuildDone_clears hbad,
    fun _ _ _ hmay hwho hon hregion hpoint => injArm_arms hmay hwho hon hregion hpoint,
    fun _ _ v hmay hwho => injDisarm_ends v hmay hwho,
    fun _ _ v hmay hidle => scrubGo_starts v hmay hidle, ?_,
    fun _ _ _ hruns hnext hop hread hwrite hnow => scrubLine_advances_op hruns hnext hop hread hwrite hnow,
    fun _ _ _ hruns hscrub hcand hmark => scrubMark_drops hruns hscrub hcand hmark,
    fun _ _ _ _ hruns hfirst hop hcands hmark => scrubMark_drops_op hruns hfirst hop hcands hmark,
    fun _ _ hscrub hover => scrubComplete_shows hscrub hover⟩
  · exact ⟨_, exec_hbmPatrol_uncorrectable both so hrun hfilled (Nat.succ_ne_zero 1) hblock rfl, State.blockLost_mapBad _ _ _ _,
      State.blockLost_fired _ _ _ _ _⟩
  · exact ⟨_, exec_hbmPatrol_uncorrectable both so hrun hfilled hregion hblock hbad, State.blockLost_fired _ _ _ _ _⟩
  · rintro s x line hruns hscrub rfl hmore hnow
    exact scrubLine_advances hruns hscrub hmore hnow

end Sys2Proof.Machine
end
